-- ==== Sys2Proof/Word.lean ====
section
/-! DEFINITION. The words of the hardware: a byte, a register word (32 bits, R536) and a 64-bit value, and the plain
arithmetic on numbers laid out in bits that every chapter uses. -/

namespace Sys2Proof

/-- One byte. -/
abbrev Byte := BitVec 8

/-- One register word (R536: each access is one aligned 32-bit word). -/
abbrev Word := BitVec 32

/-- One 64-bit value: a sync object, an address, a pair of registers. -/
abbrev DWord := BitVec 64

/-- Bits `lo` to `lo + w - 1` of a number. -/
def bitsOf (n lo w : Nat) : Nat := n / 2 ^ lo % 2 ^ w

/-- `v` placed as a field of `w` bits at bit `lo`; bits of `v` above the width are dropped. -/
def place (v lo w : Nat) : Nat := v % 2 ^ w * 2 ^ lo

/-- The value of a two's complement number held in `w` bits. -/
def signedOf (n w : Nat) : Int :=
  if n % 2 ^ w < 2 ^ (w - 1) then (n % 2 ^ w : Nat) else (n % 2 ^ w : Nat) - (2 ^ w : Nat)

/-- The two's complement code of an integer in `w` bits. -/
def codeOf (i : Int) (w : Nat) : Nat := (i % (2 ^ w : Nat)).toNat

/-- The bytes of a number, least significant first. -/
def leBytes : Nat → Nat → List Byte
  | 0, _ => []
  | k + 1, n => BitVec.ofNat 8 n :: leBytes k (n / 256)

/-- The number that a list of bytes spells, least significant first. -/
def ofLeBytes : List Byte → Nat
  | [] => 0
  | b :: bs => b.toNat + 256 * ofLeBytes bs

/-- `n` divided by `d`, rounded up. -/
def ceilDiv (n d : Nat) : Nat := (n + d - 1) / d

end Sys2Proof
end

