-- ==== Sys2Proof/Syntax.lean ====
section
/-! DEFINITION. The commands of the block: one constructor of `Instr` for each row of spec/opcode_table.json, in the
table's order, with the operands that its rule names, and the shapes of the data those operands carry (packets, flits,
control messages, frames). -/

namespace Sys2Proof

/-- Which of the two chips a command addresses: the SX-4 switch or the EP-4 end-point block attached to it. -/
inductive Chip where
  | sx
  | ep
  deriving DecidableEq, Repr

/-- The paths by which a register is reached (R536): the management PCI Express port, I3C, VC4, VC0, an EP-4's BAR0 and
its accelerator register path. -/
inductive Path where
  | pcie
  | i3c
  | vc4
  | vc0
  | bar0
  | accel
  deriving DecidableEq, Repr

/-- A packet as it stands on a link: the 32-byte header as one number (header bit n is bit n, R79), the payload bytes that
arrived, and the extent on the link in bytes (R75; it differs from the header's when the packet is malformed or a runt). -/
structure Packet where
  hdr : BitVec 256
  payload : List Byte
  extent : Nat
  deriving DecidableEq, Repr

/-- A flit (R476): the header word, the fifteen granules of the data area, the CRC, and whether one of its bytes came from
an uncorrectable codeword (R475). -/
structure Flit where
  hdr : BitVec 64
  gran : List (BitVec 128)
  crc : BitVec 64
  uncorrectable : Bool
  deriving DecidableEq, Repr

/-- The CAP message (R483, type 0x01). -/
structure CapMsg where
  node : Nat
  switch : Bool
  fresh : Bool
  seen : Bool
  fecPref : Bool
  maxStep : Nat
  lanes : Nat
  epoch : Nat
  version : Nat
  alloc : List Nat
  deriving DecidableEq, Repr

/-- The control messages of R483. -/
inductive Ctl where
  | cap (m : CapMsg)
  | step (target op fec : Nat)
  | eq (lane op preset : Nat) (requests : List Nat)
  | check (mask step : Nat)
  | active (step mask : Nat)
  | stitch (number tRx tTx : Nat)
  | keepalive (epoch node : Nat)
  | sleep (depth : Nat)
  | lane (op mask : Nat)
  deriving DecidableEq, Repr

/-- One rising edge on STITCH_IN (R58): the time since the edge before it and the pulse's width, in nanoseconds. -/
structure Pulse where
  interval : Nat
  width : Nat
  deriving DecidableEq, Repr

/-- A unit that a boot phase can find failing (R585). -/
inductive BootUnit where
  | tile (t : Nat)
  | cluster (c : Nat)
  | pleatEngine (e : Nat)
  | module (m : Nat)
  | stack (s : Nat)
  deriving DecidableEq, Repr

/-- An upstream frame of an optical engine (R511): bits 0 to 2,207, bit 0 first. -/
abbrev UpFrame := BitVec 2208

/-- What an ELS module answers when it is polled (R529): its identity record of 32 bytes and its bias current. -/
structure ElsRead where
  identity : List Byte
  bias : Nat
  deriving DecidableEq, Repr

/-- The commands.  Each constructor's docstring names the row of the table and its rule. -/
inductive Instr where
  /-- POWER_ON_RESET (R583): Applying VDD_AON returns every register and state to reset values, the always-on domain included. -/
  | powerOnReset
  /-- CORE_RESET (R583): VDD_CORE applied while VDD_AON is present, or RESET_N asserted for at least 1 µs, resets everything outside the always-on domain and reopens the Guard. -/
  | coreReset (byPin : Bool)
  /-- CORE_SUPPLY_LOSS (R608): VDD_CORE falls out of tolerance, a STOP trace record is written and core state is lost. -/
  | coreSupplyLoss
  /-- BOOT_PHASE_END (R584): A boot phase completes and the SX-4 advances to the next phase, up to READY. -/
  | bootPhaseEnd (ms : Nat)
  /-- BOOT_PHASE_LIMIT (R585): A boot phase reaches its limit, the units that did not complete it are retired, and boot continues. -/
  | bootPhaseLimit (ms : Nat) (failed : List BootUnit)
  /-- STITCH_BOUNDARY (R46): At cycle 0 of each stitch the stitch number advances, new periods open and armed state takes effect. -/
  | stitchBoundary (c : Chip) (phase : Int) (activity : Nat) (rail : Nat)
  /-- HEM_CUT_OFF (R53): At cycle 840 bound work not complete is judged late, dropped and counted, and closing periods are closed. -/
  | hemCutOff (c : Chip)
  /-- COMMIT_APPLY (R544): In the commit hem the named groups are validated and copied from shadow to live in ascending group order. -/
  | commitApply (c : Chip)
  /-- STITCH_IN_FRAME (R60): A 64-stitch STITCH_IN frame is received and judged valid or invalid. -/
  | stitchInFrame (pulses : List (Option Pulse))
  /-- STITCH_EDGE_MISSING (R63): A locked follower sees two consecutive stitches without a rising edge and enters HOLDOVER. -/
  | stitchEdgeMissing
  /-- STITCH_LOCK (R63): After 64 stitches of phase error within ±0.1 ns and the required frames the chip enters LOCKED. -/
  | stitchLock (c : Chip)
  /-- STITCH_HOLDOVER_EXPIRED (R66): After the holdover limit STITCH_HOLDOVER_EXPIRED is raised and alignment is no longer promised. -/
  | stitchHoldoverExpired (c : Chip)
  /-- STITCH_ORDERED_SET (R69): A stitch ordered set is received and the offset estimate and timing state are updated. -/
  | stitchOrderedSet (c : Chip) (port : Nat) (number : Nat) (tRx : Nat) (tTx : Nat) (rxTime : Nat)
  /-- EP4_STITCH_SILENCE (R72): An EP-4 with no stitch ordered set for 2,048 stitches enters HOLDOVER. -/
  | ep4StitchSilence
  /-- DATA_FLIT (R486): A data flit is received, checked for CRC and sequence, and its packets, acknowledgement and credits taken. -/
  | dataFlit (c : Chip) (port : Nat) (flit : Flit)
  /-- IDLE_FLIT (R477): An idle flit is received and its ack, nak and credit fields are taken. -/
  | idleFlit (c : Chip) (port : Nat) (flit : Flit)
  /-- REPLAY_TIMEOUT (R487): The oldest held flit waits timeout stitches without ack advancing and a resend episode runs. -/
  | replayTimeout (c : Chip) (port : Nat)
  /-- FLIT_LOCK_LOSS (R488): Every lane in use loses flit lock for 1 µs outside sleep and the link goes down. -/
  | flitLockLoss (c : Chip) (port : Nat)
  /-- CAP (R490): A CAP control flit is received and negotiation records the partner's node, role, steps, lanes, allocations and epoch. -/
  | cap (c : Chip) (port : Nat) (msg : CapMsg)
  /-- STEP_REQUEST (R492): A STEP request asks the partner to climb to the next step. -/
  | stepRequest (c : Chip) (port : Nat) (step : Nat) (fec : Nat)
  /-- STEP_ACCEPT (R492): A STEP accept lets each transmitter change step at its next flit boundary. -/
  | stepAccept (c : Chip) (port : Nat) (step : Nat) (fec : Nat)
  /-- STEP_REFUSE (R492): A STEP refuse ends the climb at the current step. -/
  | stepRefuse (c : Chip) (port : Nat) (step : Nat)
  /-- EQ_PRESET (R493): An EQ preset message sets the partner's transmit taps to a preset. -/
  | eqPreset (c : Chip) (port : Nat) (lane : Nat) (preset : Nat)
  /-- EQ_ADJUST (R493): An EQ adjust message moves the partner's transmit taps. -/
  | eqAdjust (c : Chip) (port : Nat) (lane : Nat) (requests : List Nat)
  /-- EQ_DONE (R493): An EQ done message ends equalisation of a lane. -/
  | eqDone (c : Chip) (port : Nat) (lane : Nat)
  /-- EQ_FAIL (R493): An EQ fail message reports failed equalisation of a lane. -/
  | eqFail (c : Chip) (port : Nat) (lane : Nat)
  /-- CHECK (R494): A CHECK message reports the lanes that passed a step and the climb continues, stays or falls back. -/
  | check (c : Chip) (port : Nat) (mask : Nat) (step : Nat)
  /-- ACTIVE (R495): ACTIVE is received and the port is up with credits from the exchanged allocations. -/
  | active (c : Chip) (port : Nat) (step : Nat) (mask : Nat)
  /-- KEEPALIVE (R485): A KEEPALIVE is received and its epoch compared with the receiver's own. -/
  | keepalive (c : Chip) (port : Nat) (epoch : Nat) (node : Nat)
  /-- SLEEP (R502): A SLEEP message is received so the quiet line is not treated as loss of lock. -/
  | sleep (c : Chip) (port : Nat) (depth : Nat)
  /-- LANE_NARROW (R496): A LANE narrow message proposes a narrower lane mask excluding a failed lane. -/
  | laneNarrow (c : Chip) (port : Nat) (mask : Nat)
  /-- LANE_ACCEPT (R496): A LANE accept message lets both transmitters move to the new mask and resend unacknowledged flits. -/
  | laneAccept (c : Chip) (port : Nat) (mask : Nat)
  /-- LANE_WIDEN (R498): A LANE widen message proposes returning to the full lane mask after recalibration. -/
  | laneWiden (c : Chip) (port : Nat) (mask : Nat)
  /-- LANE_REFUSE (R498): A LANE refuse message declines a lane mask change. -/
  | laneRefuse (c : Chip) (port : Nat) (mask : Nat)
  /-- STEP_LOCK_TIMEOUT (R492): A step that gains no lock on any lane within 20 ms fails. -/
  | stepLockTimeout (c : Chip) (port : Nat)
  /-- EQ_TIMEOUT (R493): Equalisation of a step ends after 10 ms. -/
  | eqTimeout (c : Chip) (port : Nat)
  /-- CHECK_WINDOW_END (R493): The check window of a step ends and each end reports its passing lanes. -/
  | checkWindowEnd (c : Chip) (port : Nat) (mask : Nat)
  /-- TRAINING_RETRY (R494): A port that cannot reach S1 at min_width repeats training from S0 every 100 ms. -/
  | trainingRetry (c : Chip) (port : Nat)
  /-- TRAINING_REPEAT (R484): An unanswered training message is repeated after 1 µs. -/
  | trainingRepeat (c : Chip) (port : Nat)
  /-- LANE_FAILURE (R496): A lane in use loses lock or exceeds its error limit and the detecting end sends LANE narrow. -/
  | laneFailure (c : Chip) (port : Nat) (lane : Nat)
  /-- LANE_RECALIBRATE (R498): SDS_RECAL_CTRL go narrows the port and re-runs equalisation of the named lane. -/
  | laneRecalibrate (chiplet : Nat) (lane : Nat)
  /-- LANE_RECAL_COMPLETE (R498): Recalibration ends, the port widens on success or stays at x2 on failure. -/
  | laneRecalComplete (chiplet : Nat) (passed : Bool)
  /-- LIGHT_SLEEP_ENTRY (R500): After idle_light idle stitches a transmit direction sends SLEEP four times and goes quiet. -/
  | lightSleepEntry (c : Chip) (port : Nat)
  /-- DEEP_SLEEP_ENTRY (R500): After deep_idle further stitches a light-sleeping direction enters deep sleep. -/
  | deepSleepEntry (c : Chip) (port : Nat)
  /-- WAKE (R501): A sleeping direction with something to send sends a wake pattern and then idle flits. -/
  | wake (c : Chip) (port : Nat)
  /-- MARGIN_MEASURE (R503): Every 1,024 stitches each lane's eye is measured and LANE_MARGIN_LOW raised if low. -/
  | marginMeasure (lane : Nat) (upper : Nat) (mid : Nat) (lower : Nat) (width : Nat)
  /-- ORDINARY_PACKET (R30): A packet not addressed to the SX-4 is received whole, checked, looked up and placed in its ingress queue. -/
  | ordinaryPacket (port : Nat) (pkt : Packet)
  /-- ADMISSION_DECISION (R201): The account's admission decision returns and the packet is admitted to guaranteed, shared or Lining, or waits. -/
  | admissionDecision (input : Nat) (output : Nat) (vc : Nat)
  /-- ADMIT_WAITING (R203): Freed space admits waiting requests in arrival order. -/
  | admitWaiting (cluster : Nat)
  /-- CELL_SLOT (R168): In each cell slot the tiles move cells in stage 1 and stage 2 along the cyclic patterns. -/
  | cellSlot (voided : List Nat)
  /-- CT_CLAIM (R181): A cut-through claim reaches the output tile and is granted or denied. -/
  | ctClaim (input : Nat) (output : Nat) (vc : Nat)
  /-- CT_GRANT (R182): The grant or denial reaches the input tile and the packet's cells become express or are stored. -/
  | ctGrant (input : Nat) (output : Nat) (vc : Nat)
  /-- PACKET_TRANSMIT (R186): An output port selects a packet by VC and arbiter and starts it when credits for the whole packet are held. -/
  | packetTransmit (port : Nat)
  /-- CUT_THROUGH_STOMP (R184): After 64 consecutive hold granules the packet is ended with STOMP and a partition fault raised. -/
  | cutThroughStomp (port : Nat)
  /-- RESEQ_TIMEOUT (R179): A flow's gap unfilled for 1,024 cell slots is skipped and packets lacking granules discarded. -/
  | reseqTimeout (tile : Nat) (flow : Nat)
  /-- TILE_RETIRE_STAGE2 (R189): In the hem after retirement the tile leaves stage 2 and ranks are recomputed. -/
  | tileRetireStage2
  /-- D2D_MODULE_FAILURE (R597): A die-to-die module fails 8 consecutive replays or its training. -/
  | d2dModuleFailure (module : Nat)
  /-- D2D_MODULE_RETIRE (R597): In the hem after its failure the module is retired and both die pages report it. -/
  | d2dModuleRetire
  /-- LINING_WRITE_DONE (R207): A Lining packet's HBM4 write completes and its write-buffer space is freed. -/
  | liningWriteDone (pid : Nat)
  /-- LINING_READBACK_START (R208): A Lining packet at the list head is read back once written and the staging has room. -/
  | liningReadbackStart (output : Nat) (vc : Nat)
  /-- LINING_READBACK_DONE (R208): A read-back packet is wholly in staging, its Lining space is freed and it becomes eligible. -/
  | liningReadbackDone (pid : Nat) (uncorrectable : Bool)
  /-- PORT_HOLD_EXPIRY (R213): At the expiry stitch's cut-off a still-down port is flushed. -/
  | portHoldExpiry (port : Nat)
  /-- RC_UPDATE (R228): Rate entries are updated every u_period stitches from their mark fractions. -/
  | rcUpdate
  /-- MAP_BATCH_PUSH (R243): A frozen map batch is written to the map ring or dropped as late, full or shed. -/
  | mapBatchPush (tile : Nat)
  /-- SAMPLE_PUSH (R246): A captured sample is written to the sample ring in the next stitch or dropped. -/
  | samplePush (tile : Nat)
  /-- READ (R90): A READ reaches its target and is answered with READ_DATA segments or NACK. -/
  | read (c : Chip) (port : Nat) (pkt : Packet)
  /-- WRITE (R110): A WRITE reaches its target and is applied in order per source and stream, then acknowledged. -/
  | write (c : Chip) (port : Nat) (pkt : Packet)
  /-- FLAG_WRITE (R121): A FLAG_WRITE reaches its target and is applied as a write. -/
  | flagWrite (c : Chip) (port : Nat) (pkt : Packet)
  /-- ATOMIC (R133): An ATOMIC executes at its target and returns the prior value in ATOMIC_DATA. -/
  | atomic (c : Chip) (port : Nat) (pkt : Packet)
  /-- ATOMIC_POSTED (R133): An ATOMIC_POSTED executes at its target and returns ATOMIC_ACK. -/
  | atomicPosted (c : Chip) (port : Nat) (pkt : Packet)
  /-- SYNC_WAIT (R146): A SYNC_WAIT is answered at once when satisfied or recorded as a waiter. -/
  | syncWait (c : Chip) (port : Nat) (pkt : Packet)
  /-- SYNC_WAIT_EXPIRY (R148): A recorded wait expires in its hem and is answered with the current value. -/
  | syncWaitExpiry
  /-- PARKED_REQUEST_RESUME (R152): A freed entry goes to the oldest parked request whose bank or line is below its limit. -/
  | parkedRequestResume (cluster : Nat)
  /-- POOL_PART_DONE (R352): The last part of a pool request is applied or read and the home cluster responds. -/
  | poolPartDone (rid : Nat) (part : Nat) (corrected : List Nat) (lost : List Nat)
  /-- READ_DATA (R94): A READ_DATA segment arrives at the source and is written to its destination. -/
  | readData (port : Nat) (pkt : Packet)
  /-- WRITE_ACK (R95): A WRITE_ACK arrives at the source and completes its write. -/
  | writeAck (port : Nat) (pkt : Packet)
  /-- ATOMIC_DATA (R411): ATOMIC_DATA arrives and the prior value is written to the local destination. -/
  | atomicData (port : Nat) (pkt : Packet)
  /-- ATOMIC_ACK (R95): An ATOMIC_ACK arrives and completes the posted atomic. -/
  | atomicAck (port : Nat) (pkt : Packet)
  /-- SYNC_NOTIFY (R411): A SYNC_NOTIFY arrives and the value is written and the wait completed. -/
  | syncNotify (port : Nat) (pkt : Packet)
  /-- NACK (R421): A NACK arrives and the descriptor completes nack once every issued packet is answered. -/
  | nack (port : Nat) (pkt : Packet)
  /-- PLT_CONTRIB (R267): A contribution packet is judged at the Pleat core and accumulated into its chunk. -/
  | pltContrib (tile : Nat) (pkt : Packet)
  /-- PLT_SHARD (R281): A shard from the chunk owner is replicated or held for release. -/
  | pltShard (tile : Nat) (pkt : Packet)
  /-- PLT_RESULT (R416): A result unit arrives at an EP-4 and is matched to a posted receive. -/
  | pltResult (port : Nat) (pkt : Packet)
  /-- CHUNK_COMPLETE (R279): The last contributing unit of a chunk is accumulated and its result formed and issued. -/
  | chunkComplete (group : Nat) (pass : Nat) (index : Nat)
  /-- RESULT_RELEASE (R284): A paced result copy is issued at cycle 0 of its assigned stitch. -/
  | resultRelease (group : Nat)
  /-- PLEAT_SPILL (R275): Free pages below spill_lwm start spilling the stalest open chunks to HBM4. -/
  | pleatSpill (cluster : Nat)
  /-- SPILL_READBACK (R275): A spilled chunk's pages are read back when free pages allow. -/
  | spillReadback (group : Nat) (pass : Nat) (index : Nat) (uncorrectable : Bool)
  /-- GROUP_RESIDENCY (R276): In each hem waiting groups are made resident in order as slots and backing allow. -/
  | groupResidency
  /-- CHUNK_STALL (R278): An incomplete chunk's stall timer reaches stall_limit and its group faults STALL. -/
  | chunkStall (group : Nat) (pass : Nat) (index : Nat)
  /-- GROUP_REARM (R283): Writing rearm of a faulted Pleat or bucket group requests re-arming. -/
  | groupRearm (bucket : Bool) (group : Nat)
  /-- GROUP_REARM_APPLY (R283): In the next hem the group is re-armed with pass_low 0. -/
  | groupRearmApply
  /-- BKT_SEND (R338): A bucket part packet is admitted and its whole records placed in free record places. -/
  | bktSend (tile : Nat) (pkt : Packet)
  /-- BUCKET_COMPLETE (R339): A bucket completes, is filled, given its source table and delivered to its owner. -/
  | bucketComplete (group : Nat) (bucket : Nat) (pass : Nat)
  /-- BKT_DELIVER (R416): A bucket delivery arrives at an EP-4 and is written for its receive. -/
  | bktDeliver (port : Nat) (pkt : Packet)
  /-- BKT_DROPMAP (R340): A drop map arrives at a source and releases its next pass. -/
  | bktDropmap (port : Nat) (pkt : Packet)
  /-- CUF_CONTRIB (R321): A Cuff contribution arrives at the Cuff unit and is judged late, early, duplicate or accepted. -/
  | cufContrib (port : Nat) (pkt : Packet) (x : Nat)
  /-- CUFF_ROUND_CLOSE (R322): At a cut-off a complete round closes, or an incomplete round closes LATE at its deadline. -/
  | cuffRoundClose (group : Nat)
  /-- CUFF_COPY_SEND (R326): An eligible result copy at the head of a port's VC3 sub-queue is sent. -/
  | cuffCopySend (port : Nat)
  /-- CUF_RESULT (R416): A Cuff result arrives at an EP-4 and is written for its receive. -/
  | cufResult (port : Nat) (pkt : Packet)
  /-- CUFF_REARM (R330): Writing rearm of a faulted Cuff group requests re-arming. -/
  | cuffRearm (group : Nat)
  /-- CUFF_REARM_APPLY (R330): In the next hem the Cuff group is re-armed. -/
  | cuffRearmApply
  /-- CUFF_COUNTER_CLEAR (R343): Writing clear sets every member counter of the group to 0. -/
  | cuffCounterClear (group : Nat)
  /-- MGT_READ (R435): An MGT_READ is served from the manager node or refused ACCESS_DENIED. -/
  | mgtRead (c : Chip) (port : Nat) (pkt : Packet)
  /-- MGT_WRITE (R435): An MGT_WRITE is served from the manager node or a relay, or refused. -/
  | mgtWrite (c : Chip) (port : Nat) (pkt : Packet)
  /-- MGT_DATA (R412): MGT_DATA arrives and its words are written to the local buffer or relay record. -/
  | mgtData (c : Chip) (port : Nat) (pkt : Packet)
  /-- MGT_ACK (R412): MGT_ACK arrives and completes the MGT descriptor or relay. -/
  | mgtAck (c : Chip) (port : Nat) (pkt : Packet)
  /-- PFAULT (R427): A PFAULT arrives at an EP-4 and every context of its key is aborted. -/
  | pfault (port : Nat) (pkt : Packet)
  /-- CONTEXT_ABORT_DONE (R427): Issued memory-port requests complete and the context becomes faulted. -/
  | contextAbortDone (ctx : Nat)
  /-- PFAULT_FROM_ENDPOINT (R599): A PFAULT from an end-point passes its checks and is broadcast as an SX-4 fault. -/
  | pfaultFromEndpoint (port : Nat) (pkt : Packet)
  /-- ZLY_TEST (R240): A ZLY_TEST is consumed by its input port engine and its sequence checked. -/
  | zlyTest (port : Nat) (pkt : Packet)
  /-- CTX_DOORBELL (R561): A write of CTX_DOORBELL stores the value and raises CTX_DOORBELL. -/
  | ctxDoorbell (ctx : Nat) (value : Nat) (path : Path)
  /-- DOORBELL (R401): A doorbell write moves the ring producer index when within free space. -/
  | doorbell (ctx : Nat) (ring : Nat) (value : Nat) (path : Path)
  /-- DESCRIPTOR_TAKE (R402): An engine with a free slot reads and takes posted descriptors. -/
  | descriptorTake (engine : Nat) (status : Nat)
  /-- NOP (R420): A NOP descriptor completes when taken. -/
  | nop (engine : Nat) (slot : Nat)
  /-- FENCE (R119): A FENCE holds later descriptors of its engine until earlier ones are complete. -/
  | fence (engine : Nat) (slot : Nat)
  /-- PUT (R409): A PUT sends its source bytes as WRITE packets split at 4,096-byte boundaries. -/
  | put (engine : Nat) (slot : Nat)
  /-- GET (R409): A GET sends READ packets or is served from the read buffer. -/
  | get (engine : Nat) (slot : Nat)
  /-- PREFETCH (R127): A PREFETCH fills read-buffer lines of its range. -/
  | prefetch (engine : Nat) (slot : Nat)
  /-- INVALIDATE (R129): An INVALIDATE marks the context's lines in its range invalid. -/
  | invalidate (engine : Nat) (slot : Nat)
  /-- DESC_ATOMIC (R411): An ATOMIC descriptor sends a fetching atomic. -/
  | descAtomic (engine : Nat) (slot : Nat)
  /-- DESC_ATOMIC_POSTED (R410): An ATOMIC_POSTED descriptor sends a posted atomic. -/
  | descAtomicPosted (engine : Nat) (slot : Nat)
  /-- DESC_SYNC_WAIT (R411): A SYNC_WAIT descriptor sends a wait on a sync object. -/
  | descSyncWait (engine : Nat) (slot : Nat)
  /-- LOCAL_COPY (R409): A LOCAL_COPY moves bytes between local memory and scratch. -/
  | localCopy (engine : Nat) (slot : Nat)
  /-- HOST_COPY (R446): A HOST_COPY moves bytes to or from host memory, through bounce records for a confidential context. -/
  | hostCopy (engine : Nat) (slot : Nat)
  /-- MGT (R412): An MGT descriptor sends one MGT_READ or MGT_WRITE. -/
  | mgt (engine : Nat) (slot : Nat)
  /-- PLT_SEND (R413): A PLT_SEND sends one member's units of a pass over its planes. -/
  | pltSend (engine : Nat) (slot : Nat)
  /-- DESC_BKT_SEND (R414): A BKT_SEND descriptor sends the parts of its part table in bucket order. -/
  | descBktSend (engine : Nat) (slot : Nat)
  /-- CUF_SEND (R415): A CUF_SEND is checked at take and waits for its opening stitch. -/
  | cufSend (engine : Nat) (slot : Nat)
  /-- CUF_SEND_START (R415): When the stitch number reaches s the shares are sent, or the descriptor completes cuff-missed. -/
  | cufSendStart (engine : Nat) (slot : Nat)
  /-- COLL_RECV (R416): A COLL_RECV posts a receive for unrequested collective units. -/
  | collRecv (engine : Nat) (slot : Nat)
  /-- FLAGGED_STORE_RELEASE (R122): A held flagged store is sent once every earlier store of its source is answered. -/
  | flaggedStoreRelease (engine : Nat) (stream : Nat)
  /-- MP_RESPONSE (R384): A memory-port response arrives and completes its request or reports an error. -/
  | mpResponse (tag : Nat) (status : Nat)
  /-- COMPLETION_WRITE (R424): After the descriptor's local writes are answered its completion record is written. -/
  | completionWrite (engine : Nat) (slot : Nat)
  /-- NOTIFY_READY (R425): The accelerator raises EP4_NOTIFY_READY and the pending notification ends. -/
  | notifyReady
  /-- CONTEXT_FAULT_CLEAR (R427): Writing clear in EP4_CTX_FAULT returns a faulted context to ready. -/
  | contextFaultClear (ctx : Nat)
  /-- TAG_QUARANTINE_EXPIRY (R429): A quarantined tag's time passes and a partition fault TAG_EXPIRED is raised. -/
  | tagQuarantineExpiry (tag : Nat)
  /-- SESSION_KEY_LOAD (R444): Writing word 7 of EP4_CTX_KEY applies the session key. -/
  | sessionKeyLoad (ctx : Nat) (value : Nat) (path : Path)
  /-- CONTEXT_SCRUB_DONE (R441): Zeroing of the context's scratch ends and the context leaves scrubbing. -/
  | contextScrubDone (ctx : Nat)
  /-- GUARD_STAGE (R450): A write to a Guard item lands in the staged copy. -/
  | guardStage (c : Chip) (path : Path) (page : Nat) (sel : Nat) (address : Nat) (value : Nat)
  /-- GUARD_SEAL (R451): Writing seal computes the digest and moves the Guard to SEALED. -/
  | guardSeal (c : Chip) (path : Path) (x : Nat)
  /-- GUARD_ABORT (R451): Writing abort discards a sealed change. -/
  | guardAbort (c : Chip) (path : Path)
  /-- GUARD_APPROVE (R453): A principal's approval is taken when its high word is written. -/
  | guardApprove (c : Chip) (path : Path) (value : Nat) (x : Nat)
  /-- GUARD_EXPIRY (R451): A sealed change not approved by its expiry stitch is discarded. -/
  | guardExpiry (c : Chip)
  /-- GUARD_COMMIT (R455): In its hem an armed change is validated and applied item by item. -/
  | guardCommit (c : Chip)
  /-- RELAY_GO (R456): Writing go sends one relayed MGT packet to the named node. -/
  | relayGo (path : Path) (value : Nat)
  /-- RELAY_TIMEOUT (R456): A relay reply not received within 2,000 stitches sets timeout. -/
  | relayTimeout
  /-- TORN_KEY (R458): In the hem after a holding block is lost, its confidential keys are torn. -/
  | tornKey
  /-- DOWNSTREAM_FRAME (R510): Every 100 µs the OCU sends each engine a frame of heater codes, pair commands and monitor selects. -/
  | downstreamFrame (engine : Nat)
  /-- UPSTREAM_FRAME (R513): An upstream frame is received, checked and its samples and status taken. -/
  | upstreamFrame (engine : Nat) (frame : UpFrame)
  /-- OE_LOS (R523): OE_LOS_N asserted after filtering closes the pair's shutter and parks its rings. -/
  | oeLos (engine : Nat) (pair : Nat)
  /-- PROBE_PULSE (R522): A closed pair in PROBE or HANDSHAKE emits its pulse every period frames. -/
  | probePulse (engine : Nat) (pair : Nat)
  /-- OPEN_GRACE_END (R522): At the end of the 2 ms grace an open pair with LOS set closes. -/
  | openGraceEnd (engine : Nat) (pair : Nat)
  /-- HANDSHAKE_TIMEOUT (R522): A pair in HANDSHAKE or OPENING sees no light for 3 periods and returns to PROBE. -/
  | handshakeTimeout (engine : Nat) (pair : Nat)
  /-- OCU_CAPTURE (R532): Writing OCU_CAP_CTRL go captures a ring's next 256 sample records. -/
  | ocuCapture (ocu : Nat) (value : Nat)
  /-- BASELINE_CAPTURE (R528): Writing capture makes the next judgement's mean the connector baseline. -/
  | baselineCapture (engine : Nat) (pair : Nat)
  /-- ELS_POLL (R529): Once per second each ELS module's registers are read over the ELS bus. -/
  | elsPoll (module : Nat) (answer : Option ElsRead)
  /-- ELS_FAULT (R530): ELS_FAULT_N asserted latches fault, drops ELS_ON and closes both engines. -/
  | elsFault (module : Nat)
  /-- ELS_FAULT_CLEAR (R530): A W1C write clears the latched ELS fault unless the input is still asserted. -/
  | elsFaultClear (module : Nat)
  /-- ELS_LEDGER_MINUTE (R531): Each 60 s of operation adds an operating minute and updates drift. -/
  | elsLedgerMinute (module : Nat)
  /-- COMMIT_GO (R543): Writing go requests a commit of the masked groups at a hem or named stitch. -/
  | commitGo (c : Chip) (value : Nat) (x : Nat)
  /-- COMMIT_CANCEL (R545): Writing cancel withdraws a pending commit if served in time. -/
  | commitCancel (c : Chip) (value : Nat) (x : Nat)
  /-- SNAPSHOT_REQUEST (R551): Writing SNAP_CTRL go requests a snapshot of its scope. -/
  | snapshotRequest (c : Chip) (page : Nat) (value : Nat) (x : Nat)
  /-- SNAPSHOT_TAKE (R551): In hem cycles 841–847 the scoped pages copy their live status into holding words. -/
  | snapshotTake (c : Chip)
  /-- IND_ADDR_WRITE (R552): Writing IND_ADDR starts a fetch of the selected table word. -/
  | indAddrWrite (c : Chip) (path : Path) (page : Nat) (value : Nat)
  /-- IND_FETCH_DONE (R552): The fetched word is held and busy clears. -/
  | indFetchDone (c : Chip) (path : Path) (page : Nat)
  /-- IND_DATA_READ (R552): Reading IND_DATA returns the fetched word and may advance the window. -/
  | indDataRead (c : Chip) (path : Path) (page : Nat)
  /-- IND_DATA_WRITE (R552): Writing IND_DATA stores the word at IND_ADDR under the table's access code. -/
  | indDataWrite (c : Chip) (path : Path) (page : Nat) (value : Nat)
  /-- IND_TIMEOUT (R552): An IND_DATA access waiting 10 µs ends with timeout set. -/
  | indTimeout (c : Chip) (path : Path) (page : Nat) (write : Bool)
  /-- BIT_ALIAS_WRITE (R547): A write to a bit alias changes only that bit under the word's access code. -/
  | bitAliasWrite (c : Chip) (path : Path) (page : Nat) (offset : Nat) (value : Nat)
  /-- PAIR_LOW_READ (R550): Reading the low word of a 64-bit RO pair latches its high word for that path. -/
  | pairLowRead (c : Chip) (path : Path) (page : Nat) (offset : Nat)
  /-- INT_FORCE (R555): Writing INT_FORCE sets the interrupt bits written. -/
  | intForce (c : Chip) (page : Nat) (value : Nat)
  /-- DIGEST_DONE (R553): Digest recomputation ends and all digests change together. -/
  | digestDone (c : Chip)
  /-- REGISTER_WRITE (R541): A write to a register with no row of its own lands in the shadow or takes effect at once. -/
  | registerWrite (c : Chip) (path : Path) (page : Nat) (offset : Nat) (value : Nat) (x : Nat)
  /-- I3C_PRIVATE_WRITE (R632): An I3C private write writes consecutive management words. -/
  | i3cPrivateWrite (bytes : List Byte)
  /-- I3C_PRIVATE_READ (R632): An I3C private read returns up to 64 bytes from the last address written. -/
  | i3cPrivateRead (count : Nat)
  /-- VOLTAGE_TRIGGER (R568): A VDD_CORE monitor below a threshold for its time qualifies a voltage level. -/
  | voltageTrigger (millivolts : Nat)
  /-- PWRBRK_N (R570): A filtered PWRBRK_N change sets or releases the PWRBRK_N level. -/
  | pwrbrkN (asserted : Bool)
  /-- PWRBRK_HOLD (R570): PWRBRK_N asserted for 1 ms or 1 s raises its level or PWRBRK_STUCK. -/
  | pwrbrkHold
  /-- SHED_RISE (R566): A source's rise takes effect as the effective shed level at the next hem. -/
  | shedRise
  /-- SHED_FALL (R566): A source falls one level after 1 ms without its triggers. -/
  | shedFall
  /-- SELF_REFRESH_ENTRY (R356): At shed level 4, after in-flight accesses and write-backs, HBM4 enters self-refresh. -/
  | selfRefreshEntry
  /-- CAL_WINDOW_END (R573): At the end of each 4,096-stitch window the estimator fit is accepted or rejected. -/
  | calWindowEnd
  /-- THERMAL_SAMPLE (R577): Every 64 stitches on-die sensors are read and the thermal level set. -/
  | thermalSample (temps : List Int)
  /-- HBM_TEMP_REPORT (R576): Every 1,024 stitches each stack's temperature report is read and acted on. -/
  | hbmTempReport (temps : List Nat)
  /-- CLOCK_GATE (R579): A PWR_GATE_CTRL clock-gate action is requested for a unit. -/
  | clockGate (kind : Nat) (unit : Nat)
  /-- UNGATE (R579): A PWR_GATE_CTRL ungate action is requested for a unit. -/
  | ungate (kind : Nat) (unit : Nat)
  /-- BLOCK_RESET (R580): A PWR_GATE_CTRL block reset action is requested for a unit. -/
  | blockReset (kind : Nat) (unit : Nat)
  /-- GATE_REQUEST_SERVE (R579): At the next hem the gate or reset request is done, held or refused. -/
  | gateRequestServe
  /-- REGION_ZEROING_DONE (R353): Zeroing of a region's extent ends and the region serves. -/
  | regionZeroingDone (region : Nat)
  /-- SCRUB_READ (R360): The scrubber reads the next pool word, rewriting corrected words. -/
  | scrubRead (stack : Nat) (outcome : Nat)
  /-- HBM_CE_INTERVAL (R361): An interval of 2^21 stitches ends and excess correctable errors raise HBM_CE_RATE. -/
  | hbmCeInterval (stack : Nat)
  /-- HBM_STACK_FAILURE (R362): A stack fails training or reports catastrophic temperature and its in-flight accesses end. -/
  | hbmStackFailure (stack : Nat)
  /-- HBM_STACK_RETIRE_HEM (R363): In the next hem the stack's regions, Lining and spilled chunks are lost. -/
  | hbmStackRetireHem
  /-- GUSSET_WINDOW_CLOSE (R606): A shadow pair's window closes and is judged clean or bad. -/
  | gussetWindowClose (pair : Nat)
  /-- CHATTER_CLEAR (R625): Writing CHP_CHATTER_CLR go clears CHATTER of the named input. -/
  | chatterClear (value : Nat)
  /-- INSTANCE_RESET (R459): An EP-4 instance is reset as a whole: its timing state returns to FREE, its confidential contexts become torn, and it presents fresh at its next negotiation. -/
  | instanceReset
  /-- SPILL_WRITE_DONE (R277): The HBM4 writes of spilled Pleat or bucket pages complete, freeing SRAM pages and, for a descheduled group, its slots and reservation. -/
  | spillWriteDone (group : Nat) (pass : Nat) (index : Nat)
  /-- HOST_BUS_ANSWER (R448): The host bus answers a read or write of a HOST_COPY, so bounce records are checked and written or the copy ends host-error. -/
  | hostBusAnswer (id : Nat) (ok : Bool) (data : List Byte)
  /-- RESET_N_DEASSERTION (R630): The filtered deassertion of RESET_N starts boot at phase SELFTEST, and changes of RESET_N count toward its chatter window. -/
  | resetNDeassertion
  deriving DecidableEq, Repr

end Sys2Proof
end

