-- ==== Sys2Proof/Decode.lean ====
section
/-! DEFINITION. The command that a word spells by the table's bits.  No row of spec/opcode_table.json gives any bits, so no
word spells a command. -/

namespace Sys2Proof

/-- The command of a word of `nbits` bits, by the rows that give bits: none does. -/
def decodeTableWord (_nbits _w : Nat) : Option Instr := none

end Sys2Proof
end

