-- ==== Sys2Proof/Machine/Crypto.lean ====
section
/-! DEFINITION. AES-256-GCM as the bounce records use it (R447): the block cipher of FIPS 197, GHASH and GCM with a 96-bit
initialisation vector. -/

namespace Sys2Proof.Machine
open Sys2Proof

/-! ## The field of AES -/

/-- Multiply by x modulo x^8 + x^4 + x^3 + x + 1. -/
def aesX (b : Byte) : Byte := (b <<< 1) ^^^ (if b.msb then 0x1B#8 else 0#8)

def aesMulFrom (b : Byte) : Nat → Byte → Byte → Byte
  | 0, _, acc => acc
  | n + 1, a, acc => aesMulFrom b n (aesX a) (if b.getLsbD (7 - n) then acc ^^^ a else acc)

/-- The product of two bytes of the field. -/
def aesMul (a b : Byte) : Byte := aesMulFrom b 8 a 0

/-- The inverse of a byte, 0 for 0: its 254th power. -/
def aesInv (a : Byte) : Byte :=
  let a2 := aesMul a a
  let a3 := aesMul a2 a
  let a6 := aesMul a3 a3
  let a12 := aesMul a6 a6
  let a15 := aesMul a12 a3
  let a30 := aesMul a15 a15
  let a60 := aesMul a30 a30
  let a120 := aesMul a60 a60
  let a126 := aesMul a120 a6
  let a127 := aesMul a126 a
  aesMul a127 a127

/-- SubBytes of one byte. -/
def aesSub (a : Byte) : Byte :=
  let i := aesInv a
  i ^^^ i.rotateLeft 1 ^^^ i.rotateLeft 2 ^^^ i.rotateLeft 3 ^^^ i.rotateLeft 4 ^^^ 0x63#8

/-! ## The block cipher -/

def xorBytes (a b : List Byte) : List Byte := List.zipWith (· ^^^ ·) a b

/-- The next word of the key schedule after word `i - 1`. -/
def aesKeyWord (ws : List (List Byte)) (i : Nat) : List Byte :=
  let t := ws.getD (i - 1) []
  let t :=
    if i % 8 = 0 then
      let r := ((t.drop 1) ++ t.take 1).map aesSub
      xorBytes r [BitVec.ofNat 8 (2 ^ (i / 8 - 1)), 0, 0, 0]
    else if i % 8 = 4 then t.map aesSub
    else t
  xorBytes (ws.getD (i - 8) []) t

def aesExpand : Nat → List (List Byte) → List (List Byte)
  | 0, ws => ws
  | n + 1, ws => aesExpand n (ws ++ [aesKeyWord ws ws.length])

/-- The 60 words of the schedule of a 32-byte key. -/
def aesSchedule (key : List Byte) : List (List Byte) :=
  aesExpand 52 ((List.range 8).map fun i => (key.drop (4 * i)).take 4)

def aesRoundKey (ws : List (List Byte)) (r : Nat) : List Byte := ((ws.drop (4 * r)).take 4).flatten

/-- ShiftRows on 16 bytes in column order. -/
def aesShift (st : List Byte) : List Byte := (List.range 16).map fun i => st.getD ((i + 4 * (i % 4)) % 16) 0

def aesMixColumn (c : List Byte) : List Byte :=
  (List.range 4).map fun i =>
    let b := fun k => c.getD ((i + k) % 4) 0
    aesX (b 0) ^^^ (aesX (b 1) ^^^ b 1) ^^^ b 2 ^^^ b 3

def aesMix (st : List Byte) : List Byte :=
  ((List.range 4).map fun i => aesMixColumn ((st.drop (4 * i)).take 4)).flatten

def aesRounds (ws : List (List Byte)) : Nat → List Byte → List Byte
  | 0, st => st
  | n + 1, st =>
    let st := aesShift (st.map aesSub)
    aesRounds ws n (xorBytes (if n = 0 then st else aesMix st) (aesRoundKey ws (14 - n)))

/-- Encrypt one block of 16 bytes. -/
def aesBlock (ws : List (List Byte)) (b : List Byte) : List Byte := aesRounds ws 14 (xorBytes b (aesRoundKey ws 0))

/-! ## GCM -/

/-- A block as a 128-bit number, first byte most significant. -/
def blockNum (b : List Byte) : Nat := b.foldl (fun a x => 256 * a + x.toNat) 0
def numBlock (n : Nat) : List Byte := (leBytes 16 n).reverse

def ghashMulFrom (y : Nat) : Nat → Nat → Nat → Nat
  | 0, _, z => z
  | n + 1, v, z =>
    ghashMulFrom y n (if v % 2 = 1 then (v / 2) ^^^ (0xE1 * 2 ^ 120) else v / 2)
      (if bitsOf y n 1 = 1 then z ^^^ v else z)

/-- The product in the field of GHASH. -/
def ghashMul (x y : Nat) : Nat := ghashMulFrom y 128 x 0

/-- Blocks of 16 bytes, the last padded with zeros. -/
def padBlocks : Nat → List Byte → List (List Byte)
  | 0, _ => []
  | n + 1, bs => (bs.take 16 ++ List.replicate (16 - bs.length) 0) :: padBlocks n (bs.drop 16)

def blocksOf (bs : List Byte) : List (List Byte) := padBlocks (ceilDiv bs.length 16) bs

def ghash (h : Nat) (blocks : List (List Byte)) : Nat := blocks.foldl (fun y b => ghashMul h (y ^^^ blockNum b)) 0

/-- Counter block `i` of a 12-byte initialisation vector. -/
def gcmCounter (iv : List Byte) (i : Nat) : List Byte := iv ++ (leBytes 4 i).reverse

/-- The plaintext or ciphertext under the key stream from counter 2. -/
def gcmStream (ws : List (List Byte)) (iv : List Byte) (bs : List Byte) : List Byte :=
  xorBytes bs (((List.range (ceilDiv bs.length 16)).map fun i => aesBlock ws (gcmCounter iv (i + 2))).flatten)

/-- The tag of a ciphertext and its additional data. -/
def gcmTag (ws : List (List Byte)) (iv aad ct : List Byte) : List Byte :=
  let h := blockNum (aesBlock ws (List.replicate 16 0))
  let lens := (leBytes 8 (8 * aad.length)).reverse ++ (leBytes 8 (8 * ct.length)).reverse
  xorBytes (numBlock (ghash h (blocksOf aad ++ blocksOf ct ++ [lens]))) (aesBlock ws (gcmCounter iv 1))

/-- Seal: ciphertext and tag. -/
def gcmSeal (key : BitVec 256) (iv aad pt : List Byte) : List Byte × List Byte :=
  let ws := aesSchedule (leBytes 32 key.toNat)
  let ct := gcmStream ws iv pt
  (ct, gcmTag ws iv aad ct)

/-- Open: the plaintext, when the tag verifies. -/
def gcmOpen (key : BitVec 256) (iv aad ct tag : List Byte) : Option (List Byte) :=
  let ws := aesSchedule (leBytes 32 key.toNat)
  if gcmTag ws iv aad ct = tag then some (gcmStream ws iv ct) else none

end Sys2Proof.Machine
end

