-- ==== Sys2Proof/Machine/Arith.lean ====
section
/-! DEFINITION. Reduction arithmetic and formats (chapter "Reduction arithmetic and formats") and the operations of
atomics (R133 to R136).  Values are held exactly: a sign, a magnitude and a power of two; they are rounded once, where the
rules round. -/

namespace Sys2Proof.Machine
open Sys2Proof

/-! ## Values -/

/-- A number as the rules of R293 to R310 see it: NaN, an infinity, or `(-1)^neg × mag × 2^e`; a zero keeps its sign. -/
inductive Val where
  | nan
  | inf (neg : Bool)
  | fin (neg : Bool) (mag : Nat) (e : Int)
  deriving DecidableEq, Repr

namespace Val

def posZero : Val := .fin false 0 0

def isNan : Val → Bool
  | .nan => true
  | _ => false

def isInf : Val → Bool
  | .inf _ => true
  | _ => false

/-- The magnitude in steps of `2^e0`, exact when `e0` is at most the exponent. -/
def scaled (mag : Nat) (e e0 : Int) : Nat := mag * 2 ^ (e - e0).toNat

/-- A finite value as a signed count of `2^e0`. -/
def steps (neg : Bool) (mag : Nat) (e e0 : Int) : Int :=
  if neg then -(scaled mag e e0 : Int) else (scaled mag e e0 : Int)

/-- The order of R135: −∞ below every finite value, −0 below +0. -/
def lt : Val → Val → Bool
  | .inf true, .inf true => false
  | .inf true, _ => true
  | _, .inf true => false
  | .inf false, _ => false
  | _, .inf false => true
  | .fin s a e, .fin t b f =>
    let e0 := min e f
    let x := steps s a e e0
    let y := steps t b f e0
    decide (x < y) || (decide (x = y) && s && !t)
  | _, _ => false

/-- min and max of R135; a NaN operand gives NaN. -/
def vmin (a b : Val) : Val := if a.isNan || b.isNan then .nan else if b.lt a then b else a
def vmax (a b : Val) : Val := if a.isNan || b.isNan then .nan else if a.lt b then b else a

/-- The exact sum of finite values; an exact zero sum of operands of opposite sign is +0 (R135). -/
def add : Val → Val → Val
  | .nan, _ => .nan
  | _, .nan => .nan
  | .inf s, .inf t => if s = t then .inf s else .nan
  | .inf s, _ => .inf s
  | _, .inf t => .inf t
  | .fin s a e, .fin t b f =>
    let e0 := min e f
    let z := steps s a e e0 + steps t b f e0
    .fin (if z = 0 then s && t else decide (z < 0)) z.natAbs e0

/-- The exact product (R302, R303). -/
def mul : Val → Val → Val
  | .nan, _ => .nan
  | _, .nan => .nan
  | .inf s, .inf t => .inf (s != t)
  | .inf s, .fin t b _ => if b = 0 then .nan else .inf (s != t)
  | .fin s a _, .inf t => if a = 0 then .nan else .inf (s != t)
  | .fin s a e, .fin t b f => .fin (s != t) (a * b) (e + f)

/-- Times a power of two (R302). -/
def shift (v : Val) (k : Int) : Val :=
  match v with
  | .fin s a e => .fin s a (e + k)
  | w => w

end Val

/-! ## Encodings (R291) -/

/-- Which codes of a floating format are not numbers. -/
inductive Specials where
  | ieee
  | e4m3
  | none
  deriving DecidableEq, Repr

/-- A floating format: exponent bits, mantissa bits, bias. -/
structure FloatFmt where
  eb : Nat
  mb : Nat
  bias : Int
  sp : Specials
  deriving DecidableEq, Repr

namespace FloatFmt

def fp64 : FloatFmt := ⟨11, 52, 1023, .ieee⟩
def fp32 : FloatFmt := ⟨8, 23, 127, .ieee⟩
def fp16 : FloatFmt := ⟨5, 10, 15, .ieee⟩
def bf16 : FloatFmt := ⟨8, 7, 127, .ieee⟩
def e4m3 : FloatFmt := ⟨4, 3, 7, .e4m3⟩
def e5m2 : FloatFmt := ⟨5, 2, 15, .ieee⟩
def e3m2 : FloatFmt := ⟨3, 2, 3, .none⟩
def e2m3 : FloatFmt := ⟨2, 3, 1, .none⟩
def e2m1 : FloatFmt := ⟨2, 1, 1, .none⟩

def bits (f : FloatFmt) : Nat := 1 + f.eb + f.mb

/-- The largest magnitude code that is a finite number. -/
def maxCode (f : FloatFmt) : Nat :=
  match f.sp with
  | .ieee => 2 ^ (f.eb + f.mb) - 2 ^ f.mb - 1
  | .e4m3 => 0x7E
  | .none => 2 ^ (f.eb + f.mb) - 1

/-- The value of a code (R291, R293). -/
def decode (f : FloatFmt) (code : Nat) : Val :=
  let neg := bitsOf code (f.eb + f.mb) 1 == 1
  let mag := code % 2 ^ (f.eb + f.mb)
  if f.maxCode < mag then (if f.sp = .ieee ∧ mag % 2 ^ f.mb = 0 then .inf neg else .nan)
  else
    let x := mag / 2 ^ f.mb
    let m := mag % 2 ^ f.mb
    if x = 0 then .fin neg m (1 - f.bias - f.mb) else .fin neg (m + 2 ^ f.mb) ((x : Int) - f.bias - f.mb)

/-- How a conversion rounds: to nearest, ties to even (R304), or stochastically with a 16-bit value (R305). -/
inductive Rounding where
  | nearest
  | stochastic (u : Nat)
  deriving DecidableEq, Repr

/-- Round the non-negative number `mag × 2^(e - u)` to a whole number. -/
def roundSteps (r : Rounding) (mag : Nat) (k : Int) : Nat :=
  if 0 ≤ k then mag * 2 ^ k.toNat
  else
    let d := 2 ^ (-k).toNat
    let q := mag / d
    let rem := mag % d
    if rem = 0 then q
    else
      match r with
      | .nearest => if 2 * rem > d ∨ (2 * rem = d ∧ q % 2 = 1) then q + 1 else q
      | .stochastic u => if 65536 ≤ rem * 65536 / d + u then q + 1 else q

/-- The exponent of the last place of a finite non-zero number (subnormals kept). -/
def lastPlace (f : FloatFmt) (mag : Nat) (e : Int) : Int := max ((mag.log2 : Int) + e) (1 - f.bias) - f.mb

/-- The magnitude code of a finite value after rounding, with the exponent range taken as unbounded above. -/
def magCode (f : FloatFmt) (r : Rounding) (mag : Nat) (e : Int) : Nat :=
  if mag = 0 then 0
  else
    let u := f.lastPlace mag e
    let q := roundSteps r mag (e - u)
    let (q, u) := if q = 2 ^ (f.mb + 1) then (2 ^ f.mb, u + 1) else (q, u)
    if q < 2 ^ f.mb then q else (u + f.mb + f.bias).toNat * 2 ^ f.mb + (q - 2 ^ f.mb)

def signCode (f : FloatFmt) (neg : Bool) : Nat := if neg then 2 ^ (f.eb + f.mb) else 0

/-- The canonical NaN (R135, R308). -/
def nanCode (f : FloatFmt) : Nat :=
  match f.sp with
  | .ieee => 2 ^ (f.eb + f.mb) - 2 ^ (f.mb - 1)
  | _ => 0x7F

/-- Convert a value to the format (R304, R305, R308); the flag says that the conversion saturated. -/
def encode (f : FloatFmt) (r : Rounding) : Val → Nat × Bool
  | .nan => (f.nanCode, false)
  | .inf s => if f.sp = .ieee then (f.signCode s + f.maxCode + 1, false) else (f.signCode s + f.maxCode, true)
  | .fin s a e =>
    let c := f.magCode r a e
    if f.maxCode < c then
      (if f.sp = .ieee then (f.signCode s + f.maxCode + 1, false) else (f.signCode s + f.maxCode, true))
    else (f.signCode s + c, false)

/-- Addition in the format, rounded once to nearest (R135). -/
def fadd (f : FloatFmt) (a b : Val) : Val := f.decode (f.encode .nearest (a.add b)).1

end FloatFmt

/-- Convert a value to a two's complement integer of `w` bits (R308). -/
def encodeInt (w : Nat) (r : FloatFmt.Rounding) : Val → Nat × Bool
  | .nan => (0, true)
  | .inf s => (codeOf (if s then -(2 ^ (w - 1) : Nat) else (2 ^ (w - 1) : Nat) - 1) w, true)
  | .fin s a e =>
    let q : Int := FloatFmt.roundSteps r a e
    let z := if s then -q else q
    if z < -(2 ^ (w - 1) : Nat) then (codeOf (-(2 ^ (w - 1) : Nat)) w, true)
    else if (2 ^ (w - 1) : Nat) ≤ z then (codeOf ((2 ^ (w - 1) : Nat) - 1) w, true)
    else (codeOf z w, false)

/-! ## Format codes (R257) -/

/-- Element format of a scalar code. -/
def scalarFmt (code : Nat) : Option FloatFmt :=
  if code = 0 then some .fp32 else if code = 1 then some .fp16 else if code = 2 then some .bf16
  else if code = 3 then some .e4m3 else if code = 4 then some .e5m2 else none

/-- Element format of an MX code. -/
def mxFmt (code : Nat) : Option FloatFmt :=
  if code = 5 then some .e4m3 else if code = 6 then some .e5m2 else if code = 7 then some .e3m2
  else if code = 8 then some .e2m3 else if code = 9 then some .e2m1 else none

def isMx (code : Nat) : Bool := decide (5 ≤ code ∧ code ≤ 9)

/-- Unit bytes (R257). -/
def unitBytes (code : Nat) : Nat :=
  if code = 0 then 4 else if code = 1 ∨ code = 2 ∨ code = 11 then 2
  else if code = 5 ∨ code = 6 then 33 else if code = 7 ∨ code = 8 then 25 else if code = 9 then 17 else 1

/-- Elements per unit (R257). -/
def unitElems (code : Nat) : Nat := if isMx code then 32 else 1

/-- Bytes of `n` elements of a format (R257). -/
def fmtBytes (code n : Nat) : Nat := n / unitElems code * unitBytes code

/-- Exponent constants of R309. -/
def mxEmax (f : FloatFmt) : Int := if f = .e4m3 then 8 else if f = .e5m2 then 15 else if f = .e3m2 then 4 else 2

/-- Elements of an MX block (R292). -/
def mxBlock (f : FloatFmt) (blk : List Byte) : List Val :=
  let scale := (blk.headD 0).toNat
  let field := ofLeBytes blk.tail
  (List.range 32).map fun k =>
    if scale = 255 then .nan else (f.decode (bitsOf field (f.bits * k) f.bits)).shift ((scale : Int) - 127)

/-- The whole units of a byte string, as values of their elements. -/
def decodeUnits (code : Nat) : Nat → List Byte → List Val
  | 0, _ => []
  | n + 1, bs =>
    let u := unitBytes code
    if bs.length < u then []
    else
      let here :=
        match mxFmt code with
        | some f => mxBlock f (bs.take u)
        | none =>
          match scalarFmt code with
          | some f => [f.decode (ofLeBytes (bs.take u))]
          | none =>
            let z := signedOf (ofLeBytes (bs.take u)) (8 * u)
            [.fin (decide (z < 0)) z.natAbs 0]
      here ++ decodeUnits code n (bs.drop u)

/-- The elements that a contribution's bytes hold whole. -/
def elementsOf (code : Nat) (bs : List Byte) : List Val := decodeUnits code bs.length bs

/-! ## Accumulation (R295 to R301) -/

/-- The identity of an op (R300): 0 add, 1 min, 2 max. -/
def opIdentity (op : Nat) : Val := if op = 1 then .inf false else if op = 2 then .inf true else .posZero

/-- Exact mode (R297, R301): the true sum, minimum or maximum of the present contributions. -/
def combineExact (op : Nat) (vs : List Val) : Val :=
  let fins := vs.filter fun v => !v.isNan && !v.isInf
  let p := vs.contains (.inf false)
  let m := vs.contains (.inf true)
  let zero : Val → Val := fun v => match v with | .fin _ 0 _ => .posZero | w => w
  if vs.any (·.isNan) then .nan
  else if op = 0 ∧ p ∧ m then .nan
  else if op = 0 ∧ p then .inf false
  else if op = 0 ∧ m then .inf true
  else if op = 1 ∧ m then .inf true
  else if op = 1 ∧ p ∧ fins = [] then .inf false
  else if op = 2 ∧ p then .inf false
  else if op = 2 ∧ m ∧ fins = [] then .inf true
  else
    match fins with
    | [] => opIdentity op
    | f :: fs => zero (fs.foldl (if op = 0 then Val.add else if op = 1 then Val.vmin else Val.vmax) f)

/-- Arrival mode (R298): in the order of application, in FP32. -/
def combineArrival (op : Nat) (vs : List Val) : Val :=
  match vs with
  | [] => opIdentity op
  | f :: fs => fs.foldl (if op = 0 then FloatFmt.fp32.fadd else if op = 1 then Val.vmin else Val.vmax) f

/-- One node of the tree (R299). -/
def treeNode (f : Val → Val → Val) : Option Val → Option Val → Option Val
  | none, none => none
  | some a, none => some a
  | none, some b => some b
  | some a, some b => some (f a b)

/-- The next level of the tree (R299). -/
def treeLevel (f : Val → Val → Val) : List (Option Val) → List (Option Val)
  | a :: b :: rest => treeNode f a b :: treeLevel f rest
  | [a] => [a]
  | [] => []

/-- Tree mode (R299): `leaves` are the M members in order. -/
def combineTree (op : Nat) (leaves : List (Option Val)) : Val :=
  let f := if op = 0 then FloatFmt.fp32.fadd else if op = 1 then Val.vmin else Val.vmax
  let top := (List.range 9).foldl (fun l _ => treeLevel f l) leaves
  match top.headD none with
  | some v => v
  | none => opIdentity op

/-- How many FP32 nodes the tree holds when the members of `done` have arrived (R299): the maximal subtrees that are
whole.  `level` is true at a node whose inputs are all present. -/
def heldNodes (level : List Bool) : Nat → Nat
  | 0 => level.count true
  | k + 1 =>
    let rec pair : List Bool → List Bool
      | a :: b :: r => (a && b) :: pair r
      | [a] => [a]
      | [] => []
    let rec loose : List Bool → Nat
      | a :: b :: r => (if a && b then 0 else (if a then 1 else 0) + (if b then 1 else 0)) + loose r
      | [_] => 0
      | [] => 0
    if level.length ≤ 1 then level.count true else loose level + heldNodes (pair level) k

/-! ## Post-operations and result formation (R302 to R310) -/

/-- The post-operations of a descriptor. -/
structure PostOps where
  scaleMode : Nat := 0
  shift : Int := 0
  scale : Val := .posZero
  clamp : Bool := false
  lo : Val := .posZero
  hi : Val := .posZero
  stochastic : Bool := false
  seed : Nat := 0

/-- Scaling and clamping, exact (R302, R303). -/
def PostOps.apply (p : PostOps) (v : Val) : Val :=
  let v := if p.scaleMode = 1 then v.shift p.shift else if p.scaleMode = 2 then v.mul p.scale else v
  if !p.clamp || v.isNan then v
  else
    let v := if p.lo.isNan then v else if v.lt p.lo then p.lo else v
    if p.hi.isNan then v else if p.hi.lt v then p.hi else v

/-- The 16-bit value of R306. -/
def stochasticU (seed pass chunk elem : Nat) : Nat :=
  let z : DWord := BitVec.ofNat 64 seed ^^^ BitVec.ofNat 64 (pass * 2 ^ 56) ^^^ BitVec.ofNat 64 (chunk * 2 ^ 16)
    ^^^ BitVec.ofNat 64 elem
  let z := z + 0x9E3779B97F4A7C15#64
  let z := (z ^^^ (z >>> 30)) * 0xBF58476D1CE4E5B9#64
  let z := (z ^^^ (z >>> 27)) * 0x94D049BB133111EB#64
  let z := z ^^^ (z >>> 31)
  z.toNat % 65536

/-- What a formed result counts (R311): saturated, NaN and infinite elements. -/
structure ResultCounts where
  sat : Nat := 0
  nan : Nat := 0
  inf : Nat := 0

/-- Rounding of element `k` of a chunk. -/
def PostOps.rounding (p : PostOps) (pass chunk k : Nat) : FloatFmt.Rounding :=
  if p.stochastic then .stochastic (stochasticU p.seed pass chunk k) else .nearest

/-- One MX block of a result (R309, R310); `k0` is the index of its first element. -/
def mxForm (f : FloatFmt) (p : PostOps) (pass chunk k0 : Nat) (vs : List Val) : List Byte × ResultCounts :=
  let field := f.bits * 32 / 8
  if vs.any (·.isNan) ∨ (vs.any (·.isInf) ∧ f ≠ .e5m2) then
    (0xFF :: List.replicate field 0, { nan := 32 })
  else
    let mags := vs.filterMap fun v => match v with | .fin _ 0 _ => none | .fin _ a e => some (Val.fin false a e) | _ => none
    let x : Int :=
      match mags with
      | [] => -127
      | m :: ms =>
        match ms.foldl Val.vmax m with
        | .fin _ a e =>
          let x := (a.log2 : Int) + e - mxEmax f
          if (f.decode f.maxCode).lt (.fin false a (e - x)) then x + 1 else x
        | _ => -127
    let x := min (max x (-127)) 127
    let enc := vs.zipIdx.map fun ⟨v, i⟩ =>
      let v' := v.shift (-x)
      match v' with
      | .inf s => (f.signCode s + f.maxCode + 1, false)
      | .fin s a e =>
        let c := f.magCode (p.rounding pass chunk (k0 + i)) a e
        if f.maxCode < c then (f.signCode s + f.maxCode, true) else (f.signCode s + c, false)
      | .nan => (0, false)
    let bitsAll := (enc.zipIdx.map fun ⟨c, i⟩ => c.1 * 2 ^ (f.bits * i)).foldl (· + ·) 0
    (BitVec.ofInt 8 (x + 127) :: leBytes field bitsAll,
     { sat := enc.countP (·.2), inf := vs.countP (·.isInf) })

/-- The blocks of a result in an MX format. -/
def mxFormAll (f : FloatFmt) (p : PostOps) (pass chunk : Nat) : Nat → Nat → List Val → List Byte × ResultCounts
  | 0, _, _ => ([], {})
  | n + 1, k0, vs =>
    if vs = [] then ([], {})
    else
      let a := mxForm f p pass chunk k0 (vs.take 32)
      let b := mxFormAll f p pass chunk n (k0 + 32) (vs.drop 32)
      (a.1 ++ b.1, ⟨a.2.sat + b.2.sat, a.2.nan + b.2.nan, a.2.inf + b.2.inf⟩)

/-- A result in `outFmt` from its accumulated values (R302 to R310). -/
def formResult (outFmt : Nat) (p : PostOps) (pass chunk : Nat) (acc : List Val) : List Byte × ResultCounts :=
  let vs := acc.map p.apply
  match mxFmt outFmt with
  | some f => mxFormAll f p pass chunk vs.length 0 vs
  | none =>
    let enc := vs.zipIdx.map fun ⟨v, k⟩ =>
      let r := p.rounding pass chunk k
      match scalarFmt outFmt with
      | some f => f.encode r v
      | none => encodeInt (8 * unitBytes outFmt) r v
    let outVals := enc.map fun c =>
      match scalarFmt outFmt with
      | some f => f.decode c.1
      | none => .posZero
    ((enc.map fun c => leBytes (unitBytes outFmt) c.1).flatten,
     { sat := enc.countP (·.2), nan := outVals.countP (·.isNan), inf := outVals.countP (·.isInf) })

/-! ## Atomics (R133 to R136) -/

/-- The new value of an atomic: `op`, `w` bits, `format`, the prior value and the payload (R133, R134, R135). -/
def atomicNew (op w format old v swap : Nat) : Nat :=
  if op = 3 then (if old = v then swap else old)
  else if format = 2 then
    let f := if w = 32 then FloatFmt.fp32 else FloatFmt.fp64
    let a := f.decode old
    let b := f.decode v
    let r := if op = 0 then a.add b else if op = 1 then a.vmin b else a.vmax b
    (f.encode .nearest r).1
  else if op = 0 then (old + v) % 2 ^ w
  else
    let less := if format = 1 then decide (signedOf v w < signedOf old w) else decide (v < old)
    let more := if format = 1 then decide (signedOf old w < signedOf v w) else decide (old < v)
    if op = 1 then (if less then v else old) else (if more then v else old)

/-- An atomic on bytes in place: the modifier of R93 and the payload give the bytes written. -/
def atomicBytes (modifier : Nat) (old payload : List Byte) : List Byte :=
  let n := 4 * 2 ^ bitsOf modifier 4 2
  leBytes n (atomicNew (bitsOf modifier 0 4) (8 * n) (bitsOf modifier 6 2) (ofLeBytes old) (ofLeBytes (payload.take n))
    (ofLeBytes (payload.drop n)))

end Sys2Proof.Machine
end

