-- ==== Sys2Proof/Machine/Fields.lean ====
section
/-! DEFINITION. The names of the registers: the byte offset of every register inside its page (namespace `R`), and the
field descriptors of every named field (namespace `F`): offset or table word, lowest bit and width, as the field tables of
the chapters give them.  Generated from the tables of spec/; one line per register and field. -/

namespace Sys2Proof.Machine

/-- A field of a register or table word: where the word is, the field's lowest bit and its width. -/
structure Fld where
  off : Nat
  lo  : Nat
  w   : Nat
  deriving DecidableEq, Repr

namespace R
/-- STH_CTRL (R73), offset 0x0100. -/
def sthCtrl : Nat := 0x0100
/-- STH_IN_DELAY (R73), offset 0x0104. -/
def sthInDelay : Nat := 0x0104
/-- STH_HOLDOVER_LIMIT (R73), offset 0x0108. -/
def sthHoldoverLimit : Nat := 0x0108
/-- STH_SEED_LO (R73), offset 0x0110. -/
def sthSeedLo : Nat := 0x0110
/-- STH_SEED_HI (R73), offset 0x0114. -/
def sthSeedHi : Nat := 0x0114
/-- STH_STATUS (R73), offset 0x0800. -/
def sthStatus : Nat := 0x0800
/-- STH_NOW_LO (R73), offset 0x0808. -/
def sthNowLo : Nat := 0x0808
/-- STH_NOW_HI (R73), offset 0x080C. -/
def sthNowHi : Nat := 0x080C
/-- STH_CYCLE (R73), offset 0x0810. -/
def sthCycle : Nat := 0x0810
/-- STH_FRAME_ERR (R73), offset 0x0820. -/
def sthFrameErr : Nat := 0x0820
/-- STH_NUM_MISMATCH (R73), offset 0x0824. -/
def sthNumMismatch : Nat := 0x0824
/-- PRT_RUNT_CNT (R100), offset 0x0900. -/
def prtRuntCnt : Nat := 0x0900
/-- PRT_MALFORMED_CNT (R100), offset 0x0904. -/
def prtMalformedCnt : Nat := 0x0904
/-- PRT_SRC_MISMATCH_CNT (R100), offset 0x0908. -/
def prtSrcMismatchCnt : Nat := 0x0908
/-- PRT_PKEY_IN_CNT (R100), offset 0x090C. -/
def prtPkeyInCnt : Nat := 0x090C
/-- PRT_PKEY_OUT_CNT (R100), offset 0x0910. -/
def prtPkeyOutCnt : Nat := 0x0910
/-- PRT_EPOCH_STALE_CNT (R100), offset 0x0914. -/
def prtEpochStaleCnt : Nat := 0x0914
/-- PRT_ROUTE_MISS_CNT (R100), offset 0x0918. -/
def prtRouteMissCnt : Nat := 0x0918
/-- PRT_PKT_ERR_LAST (R100), offset 0x091C. -/
def prtPktErrLast : Nat := 0x091C
/-- CLU_SYNC_CTRL (R158), offset 0x0300. -/
def cluSyncCtrl : Nat := 0x0300
/-- CLU_SYNC_WAITERS (R158), offset 0x0A00. -/
def cluSyncWaiters : Nat := 0x0A00
/-- CLU_ATOM_INFLIGHT (R158), offset 0x0A04. -/
def cluAtomInflight : Nat := 0x0A04
/-- CLU_SYNC_HOT (R158), offset 0x0A08. -/
def cluSyncHot : Nat := 0x0A08
/-- CLU_SYNC_OPS_CNT (R158), offset 0x0A10. -/
def cluSyncOpsCnt : Nat := 0x0A10
/-- CLU_SYNC_NOTIFY_CNT (R158), offset 0x0A14. -/
def cluSyncNotifyCnt : Nat := 0x0A14
/-- CLU_SYNC_EXPIRED_CNT (R158), offset 0x0A18. -/
def cluSyncExpiredCnt : Nat := 0x0A18
/-- CLU_SYNC_WAIT_FULL_CNT (R158), offset 0x0A1C. -/
def cluSyncWaitFullCnt : Nat := 0x0A1C
/-- CLU_ATOM_POOL_CNT (R158), offset 0x0A20. -/
def cluAtomPoolCnt : Nat := 0x0A20
/-- CLU_ATOM_PARK_CNT (R158), offset 0x0A24. -/
def cluAtomParkCnt : Nat := 0x0A24
/-- CLU_SYNC_POISON_CNT (R158), offset 0x0A28. -/
def cluSyncPoisonCnt : Nat := 0x0A28
/-- CHP_TILE_RETIRE (R191), offset 0x0140. -/
def chpTileRetire : Nat := 0x0140
/-- CHP_ROUTE_SPRAY_FALLBACK_CNT (R191), offset 0x0A40. -/
def chpRouteSprayFallbackCnt : Nat := 0x0A40
/-- TIL_FAB_CTRL (R192), offset 0x0100. -/
def tilFabCtrl : Nat := 0x0100
/-- TIL_MID_STATUS (R192), offset 0x0800. -/
def tilMidStatus : Nat := 0x0800
/-- TIL_RESEQ_STATUS (R192), offset 0x0804. -/
def tilReseqStatus : Nat := 0x0804
/-- TIL_CT_GRANT_CNT (R192), offset 0x0930. -/
def tilCtGrantCnt : Nat := 0x0930
/-- TIL_CT_DENY_CNT (R192), offset 0x0934. -/
def tilCtDenyCnt : Nat := 0x0934
/-- TIL_RESEQ_TIMEOUT_CNT (R192), offset 0x0938. -/
def tilReseqTimeoutCnt : Nat := 0x0938
/-- TIL_VOID_CELL_CNT (R192), offset 0x093C. -/
def tilVoidCellCnt : Nat := 0x093C
/-- PRT_HOLD_GRAN_CNT (R193), offset 0x0920. -/
def prtHoldGranCnt : Nat := 0x0920
/-- PRT_STOMP_TX_CNT (R193), offset 0x0924. -/
def prtStompTxCnt : Nat := 0x0924
/-- PRT_CT_TX_CNT (R193), offset 0x0928. -/
def prtCtTxCnt : Nat := 0x0928
/-- PRT_SF_TX_CNT (R193), offset 0x092C. -/
def prtSfTxCnt : Nat := 0x092C
/-- DIE_D2D_STATUS (R193), offset 0x0800. -/
def dieD2dStatus : Nat := 0x0800
/-- DIE_D2D_MODULES (R193), offset 0x0804. -/
def dieD2dModules : Nat := 0x0804
/-- DIE_XD_WAIT_CNT (R193), offset 0x0900. -/
def dieXdWaitCnt : Nat := 0x0900
/-- CLU_BUF_ALPHA (R217), offset 0x0200. -/
def cluBufAlpha : Nat := 0x0200
/-- CLU_BUF_MIN (R217), offset 0x0204. -/
def cluBufMin : Nat := 0x0204
/-- CLU_LINING_CTRL (R217), offset 0x0208. -/
def cluLiningCtrl : Nat := 0x0208
/-- CLU_POOL_STATUS (R217), offset 0x0A30. -/
def cluPoolStatus : Nat := 0x0A30
/-- CLU_LINING_STATUS (R217), offset 0x0A34. -/
def cluLiningStatus : Nat := 0x0A34
/-- CLU_SPILL_PKT_CNT (R217), offset 0x0A40. -/
def cluSpillPktCnt : Nat := 0x0A40
/-- CLU_READBACK_PKT_CNT (R217), offset 0x0A44. -/
def cluReadbackPktCnt : Nat := 0x0A44
/-- CLU_ADMIT_WAIT_CNT (R217), offset 0x0A48. -/
def cluAdmitWaitCnt : Nat := 0x0A48
/-- LINING_POISON_CNT (R217), offset 0x0A4C. -/
def liningPoisonCnt : Nat := 0x0A4C
/-- LINING_FULL_CNT (R217), offset 0x0A50. -/
def liningFullCnt : Nat := 0x0A50
/-- PRT_HOLD_CTRL (R218), offset 0x0180. -/
def prtHoldCtrl : Nat := 0x0180
/-- PRT_CREDIT_ALLOC0 (R218), offset 0x0184. -/
def prtCreditAlloc0 : Nat := 0x0184
/-- PRT_CREDIT_ALLOC1 (R218), offset 0x0188. -/
def prtCreditAlloc1 : Nat := 0x0188
/-- PRT_CREDIT_ALLOC2 (R218), offset 0x018C. -/
def prtCreditAlloc2 : Nat := 0x018C
/-- PRT_CREDIT_STATUS (R218), offset 0x0840. -/
def prtCreditStatus : Nat := 0x0840
/-- PRT_TX_CREDIT0 (R218), offset 0x0844. -/
def prtTxCredit0 : Nat := 0x0844
/-- PRT_TX_CREDIT1 (R218), offset 0x0848. -/
def prtTxCredit1 : Nat := 0x0848
/-- PRT_TX_CREDIT2 (R218), offset 0x084C. -/
def prtTxCredit2 : Nat := 0x084C
/-- PRT_FLUSH_PKT_CNT (R218), offset 0x0940. -/
def prtFlushPktCnt : Nat := 0x0940
/-- PRT_HOLD_DISCARD_CNT (R218), offset 0x0944. -/
def prtHoldDiscardCnt : Nat := 0x0944
/-- PRT_RX_TRUNC_CNT (R218), offset 0x0948. -/
def prtRxTruncCnt : Nat := 0x0948
/-- PRT_SHED_REFUSED_CNT (R218), offset 0x094C. -/
def prtShedRefusedCnt : Nat := 0x094C
/-- PRT_HOLD_RESUME_CNT (R218), offset 0x0950. -/
def prtHoldResumeCnt : Nat := 0x0950
/-- PRT_CREDIT_SHORT_CNT (R218), offset 0x0954. -/
def prtCreditShortCnt : Nat := 0x0954
/-- EP4_ZLY_CTRL (R238), offset 0x010C. -/
def ep4ZlyCtrl : Nat := 0x010C
/-- PRT_MARK_CTRL (R248), offset 0x0190. -/
def prtMarkCtrl : Nat := 0x0190
/-- PRT_MARK_CNT (R248), offset 0x0958. -/
def prtMarkCnt : Nat := 0x0958
/-- PRT_ZLY_OFFPLAN_CNT (R248), offset 0x095C. -/
def prtZlyOffplanCnt : Nat := 0x095C
/-- PRT_ZLY_LATE_CNT (R248), offset 0x0960. -/
def prtZlyLateCnt : Nat := 0x0960
/-- PRT_ZLY_TEST_ERR_CNT (R248), offset 0x0964. -/
def prtZlyTestErrCnt : Nat := 0x0964
/-- CHP_ZLY_CTRL (R249), offset 0x0160. -/
def chpZlyCtrl : Nat := 0x0160
/-- CHP_ZLY_STATUS (R249), offset 0x0850. -/
def chpZlyStatus : Nat := 0x0850
/-- CLU_SVC_MARK (R250), offset 0x020C. -/
def cluSvcMark : Nat := 0x020C
/-- MDR_MAP_BASE_LO (R251), offset 0x0100. -/
def mdrMapBaseLo : Nat := 0x0100
/-- MDR_SMP_BASE_LO (R251), offset 0x0110. -/
def mdrSmpBaseLo : Nat := 0x0110
/-- MDR_MAP_BASE_HI (R251), offset 0x0104. -/
def mdrMapBaseHi : Nat := 0x0104
/-- MDR_SMP_BASE_HI (R251), offset 0x0114. -/
def mdrSmpBaseHi : Nat := 0x0114
/-- MDR_MAP_CTRL (R251), offset 0x0108. -/
def mdrMapCtrl : Nat := 0x0108
/-- MDR_SMP_CTRL (R251), offset 0x0118. -/
def mdrSmpCtrl : Nat := 0x0118
/-- MDR_SMP_SEL(c) (R251), offset 0x0120 + 8 each. -/
def mdrSmpSel (i : Nat) : Nat := 0x0120 + 8 * i
/-- MDR_SMP_KEY(c) (R251), offset 0x0124 + 8 each. -/
def mdrSmpKey (i : Nat) : Nat := 0x0124 + 8 * i
/-- MDR_SMP_N(c) (R251), offset 0x0140 + 4 each. -/
def mdrSmpN (i : Nat) : Nat := 0x0140 + 4 * i
/-- MDR_MAP_PROD (R251), offset 0x0800. -/
def mdrMapProd : Nat := 0x0800
/-- MDR_MAP_CONS (R251), offset 0x0804. -/
def mdrMapCons : Nat := 0x0804
/-- MDR_SMP_PROD (R251), offset 0x0808. -/
def mdrSmpProd : Nat := 0x0808
/-- MDR_SMP_CONS (R251), offset 0x080C. -/
def mdrSmpCons : Nat := 0x080C
/-- MDR_MAP_LATE_CNT (R251), offset 0x0900. -/
def mdrMapLateCnt : Nat := 0x0900
/-- MDR_MAP_FULL_CNT (R251), offset 0x0904. -/
def mdrMapFullCnt : Nat := 0x0904
/-- MDR_MAP_SHED_CNT (R251), offset 0x0908. -/
def mdrMapShedCnt : Nat := 0x0908
/-- MDR_SMP_TAKEN_CNT (R251), offset 0x090C. -/
def mdrSmpTakenCnt : Nat := 0x090C
/-- MDR_SMP_LATE_CNT (R251), offset 0x0910. -/
def mdrSmpLateCnt : Nat := 0x0910
/-- MDR_SMP_FULL_CNT (R251), offset 0x0914. -/
def mdrSmpFullCnt : Nat := 0x0914
/-- MDR_SMP_RATE_CNT (R251), offset 0x0918. -/
def mdrSmpRateCnt : Nat := 0x0918
/-- MDR_SMP_SHED_CNT (R251), offset 0x091C. -/
def mdrSmpShedCnt : Nat := 0x091C
/-- PLT_CTRL (R288), offset 0x0100. -/
def pltCtrl : Nat := 0x0100
/-- PLT_SPILL_CTRL (R288), offset 0x0104. -/
def pltSpillCtrl : Nat := 0x0104
/-- PLT_ENG_RETIRE0 (R288), offset 0x0110. -/
def pltEngRetire0 : Nat := 0x0110
/-- PLT_ENG_RETIRE1 (R288), offset 0x0114. -/
def pltEngRetire1 : Nat := 0x0114
/-- PLT_ENG_RETIRE2 (R288), offset 0x0118. -/
def pltEngRetire2 : Nat := 0x0118
/-- PLT_ENG_RETIRE3 (R288), offset 0x011C. -/
def pltEngRetire3 : Nat := 0x011C
/-- PLT_ENG_RETIRE4 (R288), offset 0x0120. -/
def pltEngRetire4 : Nat := 0x0120
/-- PLT_STATUS (R288), offset 0x0800. -/
def pltStatus : Nat := 0x0800
/-- PLT_CLU_FREE(c) (R288), offset 0x0810 + 4 each. -/
def pltCluFree (i : Nat) : Nat := 0x0810 + 4 * i
/-- PLT_DESC_ERR (R288), offset 0x0830. -/
def pltDescErr : Nat := 0x0830
/-- PLT_CONTRIB_CNT (R288), offset 0x0900. -/
def pltContribCnt : Nat := 0x0900
/-- PLT_RESULT_CNT (R288), offset 0x0904. -/
def pltResultCnt : Nat := 0x0904
/-- PLT_PROTO_DROP_CNT (R288), offset 0x0908. -/
def pltProtoDropCnt : Nat := 0x0908
/-- PLT_FAULTED_DROP_CNT (R288), offset 0x090C. -/
def pltFaultedDropCnt : Nat := 0x090C
/-- PLT_PAD_CNT (R288), offset 0x0910. -/
def pltPadCnt : Nat := 0x0910
/-- PLT_OVERFLOW_CNT (R288), offset 0x0914. -/
def pltOverflowCnt : Nat := 0x0914
/-- PLT_SPILL_CNT (R288), offset 0x0918. -/
def pltSpillCnt : Nat := 0x0918
/-- PLT_RELOAD_CNT (R288), offset 0x091C. -/
def pltReloadCnt : Nat := 0x091C
/-- PLT_DESCHED_CNT (R288), offset 0x0920. -/
def pltDeschedCnt : Nat := 0x0920
/-- PLT_ADMIT_WAIT_CNT (R288), offset 0x0924. -/
def pltAdmitWaitCnt : Nat := 0x0924
/-- PLT_GROUP_FAULT_CNT (R288), offset 0x0928. -/
def pltGroupFaultCnt : Nat := 0x0928
/-- PLT_SAT_CNT (R311), offset 0x092C. -/
def pltSatCnt : Nat := 0x092C
/-- PLT_NAN_OUT_CNT (R311), offset 0x0930. -/
def pltNanOutCnt : Nat := 0x0930
/-- PLT_INF_OUT_CNT (R311), offset 0x0934. -/
def pltInfOutCnt : Nat := 0x0934
/-- CUF_STATUS (R342), offset 0x0800. -/
def cufStatus : Nat := 0x0800
/-- CUF_STORE_FREE(c) (R342), offset 0x0810 + 4 each. -/
def cufStoreFree (i : Nat) : Nat := 0x0810 + 4 * i
/-- CUF_DESC_ERR (R342), offset 0x0830. -/
def cufDescErr : Nat := 0x0830
/-- CUF_CONTRIB_CNT (R342), offset 0x0900. -/
def cufContribCnt : Nat := 0x0900
/-- CUF_ROUND_CNT (R342), offset 0x0904. -/
def cufRoundCnt : Nat := 0x0904
/-- CUF_LATE_ROUND_CNT (R342), offset 0x0908. -/
def cufLateRoundCnt : Nat := 0x0908
/-- CUF_LATE_DROP_CNT (R342), offset 0x090C. -/
def cufLateDropCnt : Nat := 0x090C
/-- CUF_EARLY_DROP_CNT (R342), offset 0x0910. -/
def cufEarlyDropCnt : Nat := 0x0910
/-- CUF_PROTO_DROP_CNT (R342), offset 0x0914. -/
def cufProtoDropCnt : Nat := 0x0914
/-- CUF_FAULTED_DROP_CNT (R342), offset 0x0918. -/
def cufFaultedDropCnt : Nat := 0x0918
/-- CUF_RESULT_CNT (R342), offset 0x091C. -/
def cufResultCnt : Nat := 0x091C
/-- CUF_RESULT_DROP_CNT (R342), offset 0x0920. -/
def cufResultDropCnt : Nat := 0x0920
/-- CUF_SAT_CNT (R342), offset 0x0924. -/
def cufSatCnt : Nat := 0x0924
/-- CUF_GROUP_FAULT_CNT (R342), offset 0x0928. -/
def cufGroupFaultCnt : Nat := 0x0928
/-- PLT_BKT_DESC_ERR (R344), offset 0x0834. -/
def pltBktDescErr : Nat := 0x0834
/-- PLT_BKT_DELIVER_CNT (R344), offset 0x0938. -/
def pltBktDeliverCnt : Nat := 0x0938
/-- PLT_BKT_DROP_REC_CNT (R344), offset 0x093C. -/
def pltBktDropRecCnt : Nat := 0x093C
/-- PLT_BKT_FILL_REC_CNT (R344), offset 0x0940. -/
def pltBktFillRecCnt : Nat := 0x0940
/-- PLT_BKT_DROPMAP_CNT (R344), offset 0x0944. -/
def pltBktDropmapCnt : Nat := 0x0944
/-- CLU_HBM_LAYOUT (R364), offset 0x0210. -/
def cluHbmLayout : Nat := 0x0210
/-- CLU_HBM_SHARE (R364), offset 0x0214. -/
def cluHbmShare : Nat := 0x0214
/-- CLU_SCRUB_CTRL (R364), offset 0x0218. -/
def cluScrubCtrl : Nat := 0x0218
/-- CLU_HBM_STATUS (R364), offset 0x0A60. -/
def cluHbmStatus : Nat := 0x0A60
/-- CLU_HBM_CE_CNT (R364), offset 0x0A70. -/
def cluHbmCeCnt : Nat := 0x0A70
/-- CLU_HBM_UE_CNT (R364), offset 0x0A74. -/
def cluHbmUeCnt : Nat := 0x0A74
/-- CLU_SCRUB_PASS_CNT (R364), offset 0x0A78. -/
def cluScrubPassCnt : Nat := 0x0A78
/-- CLU_RETIRE_DISCARD_CNT (R364), offset 0x0A7C. -/
def cluRetireDiscardCnt : Nat := 0x0A7C
/-- CHP_STACK_RETIRE (R365), offset 0x0144. -/
def chpStackRetire : Nat := 0x0144
/-- CHP_POOL_ERR (R365), offset 0x0858. -/
def chpPoolErr : Nat := 0x0858
/-- EP4_CAP0 (R370), offset 0x0800. -/
def ep4Cap0 : Nat := 0x0800
/-- EP4_CAP1 (R370), offset 0x0804. -/
def ep4Cap1 : Nat := 0x0804
/-- EP4_NODE (R370), offset 0x0100. -/
def ep4Node : Nat := 0x0100
/-- EP4_PIN_SEED (R375), offset 0x0104. -/
def ep4PinSeed : Nat := 0x0104
/-- EP4_TIM_CTRL (R378), offset 0x0100. -/
def ep4TimCtrl : Nat := 0x0100
/-- EP4_TIM_STATUS (R378), offset 0x0800. -/
def ep4TimStatus : Nat := 0x0800
/-- EP4_TIM_OFFSET(j) (R378), offset 0x0810 + 4 each. -/
def ep4TimOffset (i : Nat) : Nat := 0x0810 + 4 * i
/-- EP4_TIM_NUM_MISMATCH (R378), offset 0x0900. -/
def ep4TimNumMismatch : Nat := 0x0900
/-- EP4_PRT_STATUS (R378), offset 0x0800. -/
def ep4PrtStatus : Nat := 0x0800
/-- EP4_RB_STATUS (R393), offset 0x0800. -/
def ep4RbStatus : Nat := 0x0800
/-- EP4_HOST_STATUS (R395), offset 0x0800. -/
def ep4HostStatus : Nat := 0x0800
/-- EP4_RC_CTRL (R396), offset 0x0100. -/
def ep4RcCtrl : Nat := 0x0100
/-- EP4_RC_RATE (R396), offset 0x0104. -/
def ep4RcRate : Nat := 0x0104
/-- EP4_RC_STATUS (R396), offset 0x0800. -/
def ep4RcStatus : Nat := 0x0800
/-- EP4_ENG_BIND (R430), offset 0x0100. -/
def ep4EngBind : Nat := 0x0100
/-- EP4_ENG_STATUS (R430), offset 0x0800. -/
def ep4EngStatus : Nat := 0x0800
/-- EP4_ENG_DESC_CNT (R430), offset 0x0900. -/
def ep4EngDescCnt : Nat := 0x0900
/-- EP4_ENG_PKT_CNT (R430), offset 0x0904. -/
def ep4EngPktCnt : Nat := 0x0904
/-- EP4_ENG_NACK_CNT (R430), offset 0x0908. -/
def ep4EngNackCnt : Nat := 0x0908
/-- EP4_ENG_ABORT_CNT (R430), offset 0x090C. -/
def ep4EngAbortCnt : Nat := 0x090C
/-- EP4_ENG_BADDESC_CNT (R430), offset 0x0910. -/
def ep4EngBaddescCnt : Nat := 0x0910
/-- EP4_CTX_RING_LO(k) (R431), offset 0x0100 + 16 each. -/
def ep4CtxRingLo (i : Nat) : Nat := 0x0100 + 16 * i
/-- EP4_CTX_RING_HI(k) (R431), offset 0x0104 + 16 each. -/
def ep4CtxRingHi (i : Nat) : Nat := 0x0104 + 16 * i
/-- EP4_CTX_RING_SIZE(k) (R431), offset 0x0108 + 16 each. -/
def ep4CtxRingSize (i : Nat) : Nat := 0x0108 + 16 * i
/-- EP4_CTX_CQ_LO (R431), offset 0x0300. -/
def ep4CtxCqLo : Nat := 0x0300
/-- EP4_CTX_CQ_HI (R431), offset 0x0304. -/
def ep4CtxCqHi : Nat := 0x0304
/-- EP4_CTX_CQ_SIZE (R431), offset 0x0308. -/
def ep4CtxCqSize : Nat := 0x0308
/-- EP4_CTX_DB(k) (R431), offset 0x0800 + 4 each. -/
def ep4CtxDb (i : Nat) : Nat := 0x0800 + 4 * i
/-- EP4_CTX_CONS(k) (R431), offset 0x0880 + 4 each. -/
def ep4CtxCons (i : Nat) : Nat := 0x0880 + 4 * i
/-- EP4_CTX_CQ_PROD (R431), offset 0x0900. -/
def ep4CtxCqProd : Nat := 0x0900
/-- EP4_CTX_CQ_CONS (R431), offset 0x0904. -/
def ep4CtxCqCons : Nat := 0x0904
/-- EP4_CTX_FAULT (R431), offset 0x0908. -/
def ep4CtxFault : Nat := 0x0908
/-- EP4_ABORT_CTRL (R432), offset 0x0108. -/
def ep4AbortCtrl : Nat := 0x0108
/-- EP4_DB_ERR_CNT (R432), offset 0x0910. -/
def ep4DbErrCnt : Nat := 0x0910
/-- EP4_UNMATCHED_CNT (R432), offset 0x0914. -/
def ep4UnmatchedCnt : Nat := 0x0914
/-- EP4_STRAY_RSP_CNT (R432), offset 0x0918. -/
def ep4StrayRspCnt : Nat := 0x0918
/-- EP4_PFAULT_RX_CNT (R432), offset 0x091C. -/
def ep4PfaultRxCnt : Nat := 0x091C
/-- GRD_CTRL (R461), offset 0x0100. -/
def grdCtrl : Nat := 0x0100
/-- GRD_AT_LO (R461), offset 0x0108. -/
def grdAtLo : Nat := 0x0108
/-- GRD_AT_HI (R461), offset 0x010C. -/
def grdAtHi : Nat := 0x010C
/-- GRD_APPROVE_LO (R461), offset 0x0110. -/
def grdApproveLo : Nat := 0x0110
/-- GRD_APPROVE_HI (R461), offset 0x0114. -/
def grdApproveHi : Nat := 0x0114
/-- GRD_RELAY_CTRL (R461), offset 0x0140. -/
def grdRelayCtrl : Nat := 0x0140
/-- GRD_RELAY_ADDR_LO (R461), offset 0x0144. -/
def grdRelayAddrLo : Nat := 0x0144
/-- GRD_RELAY_ADDR_HI (R461), offset 0x0148. -/
def grdRelayAddrHi : Nat := 0x0148
/-- GRD_RELAY_DATA (R461), offset 0x014C. -/
def grdRelayData : Nat := 0x014C
/-- GRD_ENFORCE (R461), offset 0x0180. -/
def grdEnforce : Nat := 0x0180
/-- GRD_STATE (R461), offset 0x0800. -/
def grdState : Nat := 0x0800
/-- GRD_DIGEST_LO (R461), offset 0x0808. -/
def grdDigestLo : Nat := 0x0808
/-- GRD_DIGEST_HI (R461), offset 0x080C. -/
def grdDigestHi : Nat := 0x080C
/-- GRD_REMAIN (R461), offset 0x0818. -/
def grdRemain : Nat := 0x0818
/-- GRD_ERR (R461), offset 0x0820. -/
def grdErr : Nat := 0x0820
/-- GRD_ERR_ADDR_LO (R461), offset 0x0824. -/
def grdErrAddrLo : Nat := 0x0824
/-- GRD_ERR_ADDR_HI (R461), offset 0x0828. -/
def grdErrAddrHi : Nat := 0x0828
/-- GRD_HOLD_TILE (R461), offset 0x0830. -/
def grdHoldTile : Nat := 0x0830
/-- GRD_HOLD_CLU (R461), offset 0x0834. -/
def grdHoldClu : Nat := 0x0834
/-- GRD_RELAY_STATUS (R461), offset 0x0840. -/
def grdRelayStatus : Nat := 0x0840
/-- GRD_COMMIT_CNT (R461), offset 0x0900. -/
def grdCommitCnt : Nat := 0x0900
/-- GRD_APPROVE_BAD_CNT (R461), offset 0x0904. -/
def grdApproveBadCnt : Nat := 0x0904
/-- GRD_EXPIRED_CNT (R461), offset 0x0908. -/
def grdExpiredCnt : Nat := 0x0908
/-- GRD_STAGE_REFUSED_CNT (R461), offset 0x090C. -/
def grdStageRefusedCnt : Nat := 0x090C
/-- GRD_HELD_CNT (R461), offset 0x0910. -/
def grdHeldCnt : Nat := 0x0910
/-- GRD_TORN_CNT (R461), offset 0x0914. -/
def grdTornCnt : Nat := 0x0914
/-- GRD_RELAY_REFUSED_CNT (R461), offset 0x0918. -/
def grdRelayRefusedCnt : Nat := 0x0918
/-- GRD_MGR_REFUSED_CNT (R461), offset 0x091C. -/
def grdMgrRefusedCnt : Nat := 0x091C
/-- EP4_GRD_REFUSED_CNT (R462), offset 0x0920. -/
def ep4GrdRefusedCnt : Nat := 0x0920
/-- EP4_CTX_KEY(i) (R462), offset 0x0A00 + 4 each. -/
def ep4CtxKey (i : Nat) : Nat := 0x0A00 + 4 * i
/-- EP4_CTX_CONF (R462), offset 0x0A20. -/
def ep4CtxConf : Nat := 0x0A20
/-- EP4_CTX_SEQ_TX_LO (R462), offset 0x0A28. -/
def ep4CtxSeqTxLo : Nat := 0x0A28
/-- EP4_CTX_SEQ_TX_HI (R462), offset 0x0A2C. -/
def ep4CtxSeqTxHi : Nat := 0x0A2C
/-- EP4_CTX_SEQ_RX_LO (R462), offset 0x0A30. -/
def ep4CtxSeqRxLo : Nat := 0x0A30
/-- EP4_CTX_SEQ_RX_HI (R462), offset 0x0A34. -/
def ep4CtxSeqRxHi : Nat := 0x0A34
/-- EP4_AUTH_FAIL_CNT (R462), offset 0x0900. -/
def ep4AuthFailCnt : Nat := 0x0900
/-- EP4_KEY_REFUSED_CNT (R462), offset 0x0904. -/
def ep4KeyRefusedCnt : Nat := 0x0904
/-- PRT_LINK_CTRL (R504), offset 0x0100. -/
def prtLinkCtrl : Nat := 0x0100
/-- PRT_SLEEP_CTRL (R504), offset 0x0108. -/
def prtSleepCtrl : Nat := 0x0108
/-- PRT_RETRY_CTRL (R504), offset 0x010C. -/
def prtRetryCtrl : Nat := 0x010C
/-- PRT_LINK_STATUS (R504), offset 0x0800. -/
def prtLinkStatus : Nat := 0x0800
/-- PRT_SPEED_CAP (R504), offset 0x0804. -/
def prtSpeedCap : Nat := 0x0804
/-- PRT_PARTNER (R504), offset 0x0808. -/
def prtPartner : Nat := 0x0808
/-- PRT_CRC_ERR_CNT (R504), offset 0x0970. -/
def prtCrcErrCnt : Nat := 0x0970
/-- PRT_REPLAY_CNT (R504), offset 0x0974. -/
def prtReplayCnt : Nat := 0x0974
/-- PRT_FEC_CORR_CNT (R504), offset 0x0978. -/
def prtFecCorrCnt : Nat := 0x0978
/-- PRT_FEC_UNCORR_CNT (R504), offset 0x097C. -/
def prtFecUncorrCnt : Nat := 0x097C
/-- PRT_LINK_DOWN_CNT (R504), offset 0x0980. -/
def prtLinkDownCnt : Nat := 0x0980
/-- PRT_WIDTH_CHANGE_CNT (R504), offset 0x0984. -/
def prtWidthChangeCnt : Nat := 0x0984
/-- PRT_SLEEP_ENTRY_CNT (R504), offset 0x0988. -/
def prtSleepEntryCnt : Nat := 0x0988
/-- PRT_CTRL_DROP_CNT (R504), offset 0x098C. -/
def prtCtrlDropCnt : Nat := 0x098C
/-- PRT_STEP_FAIL_CNT (R504), offset 0x0990. -/
def prtStepFailCnt : Nat := 0x0990
/-- PRT_TX_LOST_CNT (R504), offset 0x0994. -/
def prtTxLostCnt : Nat := 0x0994
/-- PRT_STOMP_RX_CNT (R504), offset 0x0998. -/
def prtStompRxCnt : Nat := 0x0998
/-- SDS_RECAL_CTRL (R505), offset 0x0100. -/
def sdsRecalCtrl : Nat := 0x0100
/-- SDS_MARGIN_CTRL (R505), offset 0x0104. -/
def sdsMarginCtrl : Nat := 0x0104
/-- SDS_RECAL_STATUS (R505), offset 0x0800. -/
def sdsRecalStatus : Nat := 0x0800
/-- OCU_ENG_CTRL(s) (R532), offset 0x0100 + 4 each. -/
def ocuEngCtrl (i : Nat) : Nat := 0x0100 + 4 * i
/-- OCU_LOOP_CTRL (R532), offset 0x0110. -/
def ocuLoopCtrl : Nat := 0x0110
/-- OCU_PROBE_CTRL (R532), offset 0x0114. -/
def ocuProbeCtrl : Nat := 0x0114
/-- OCU_CAP_CTRL (R532), offset 0x0118. -/
def ocuCapCtrl : Nat := 0x0118
/-- OCU_ENG_STATUS(s) (R532), offset 0x0800 + 4 each. -/
def ocuEngStatus (i : Nat) : Nat := 0x0800 + 4 * i
/-- OCU_ENG_TEMP(s) (R532), offset 0x0810 + 4 each. -/
def ocuEngTemp (i : Nat) : Nat := 0x0810 + 4 * i
/-- OCU_CAP_STATUS (R532), offset 0x0820. -/
def ocuCapStatus : Nat := 0x0820
/-- OCU_ELS_STATUS(i) (R532), offset 0x0830 + 4 each. -/
def ocuElsStatus (i : Nat) : Nat := 0x0830 + 4 * i
/-- OCU_LOS_CNT (R532), offset 0x0900. -/
def ocuLosCnt : Nat := 0x0900
/-- OCU_CTL_CRC_CNT (R532), offset 0x0904. -/
def ocuCtlCrcCnt : Nat := 0x0904
/-- OCU_RING_LOST_CNT (R532), offset 0x0908. -/
def ocuRingLostCnt : Nat := 0x0908
/-- OCU_REOPEN_CNT (R532), offset 0x090C. -/
def ocuReopenCnt : Nat := 0x090C
/-- CHP_COMMIT_MASK (R556), offset 0x0100. -/
def chpCommitMask : Nat := 0x0100
/-- CHP_COMMIT_CTRL (R556), offset 0x0104. -/
def chpCommitCtrl : Nat := 0x0104
/-- CHP_COMMIT_AT_LO (R556), offset 0x0108. -/
def chpCommitAtLo : Nat := 0x0108
/-- CHP_COMMIT_AT_HI (R556), offset 0x010C. -/
def chpCommitAtHi : Nat := 0x010C
/-- CHP_INT_ROUTE (R556), offset 0x0120. -/
def chpIntRoute : Nat := 0x0120
/-- CHP_COMMIT_STATUS (R556), offset 0x0800. -/
def chpCommitStatus : Nat := 0x0800
/-- CHP_COMMIT_GEN (R556), offset 0x0808. -/
def chpCommitGen : Nat := 0x0808
/-- CHP_EPOCH (R556), offset 0x080C. -/
def chpEpoch : Nat := 0x080C
/-- CHP_CFG_DIGEST_LO (R556), offset 0x0820. -/
def chpCfgDigestLo : Nat := 0x0820
/-- CHP_CFG_DIGEST_HI (R556), offset 0x0824. -/
def chpCfgDigestHi : Nat := 0x0824
/-- CHP_BUS_ERR (R556), offset 0x0860. -/
def chpBusErr : Nat := 0x0860
/-- CHP_INT_SUM(i) (R556), offset 0x0880 + 4 each. -/
def chpIntSum (i : Nat) : Nat := 0x0880 + 4 * i
/-- CHP_CTX_INT_SUM(i) (R556), offset 0x0900 + 4 each. -/
def chpCtxIntSum (i : Nat) : Nat := 0x0900 + 4 * i
/-- CHP_BUS_ERR_CNT (R556), offset 0x0A48. -/
def chpBusErrCnt : Nat := 0x0A48
/-- CHP_TMR_SCRUB_CNT (R556), offset 0x0A4C. -/
def chpTmrScrubCnt : Nat := 0x0A4C
/-- CHP_EPOCH_SKEW_CNT (R556), offset 0x0A50. -/
def chpEpochSkewCnt : Nat := 0x0A50
/-- CHP_COMMIT_LATE_CNT (R556), offset 0x0A54. -/
def chpCommitLateCnt : Nat := 0x0A54
/-- CHP_COMMIT_REFUSED_CNT (R556), offset 0x0A58. -/
def chpCommitRefusedCnt : Nat := 0x0A58
/-- CHP_NODE (R560), offset 0x0110. -/
def chpNode : Nat := 0x0110
/-- CHP_IDENT (R560), offset 0x0840. -/
def chpIdent : Nat := 0x0840
/-- CTX_DOORBELL (R561), offset 0x0140. -/
def ctxDoorbell : Nat := 0x0140
/-- CTX_SYNC_SEL (R561), offset 0x0144. -/
def ctxSyncSel : Nat := 0x0144
/-- CTX_BIND (R561), offset 0x0800. -/
def ctxBind : Nat := 0x0800
/-- CTX_SYNC_WIN(j) (R561), offset 0x0900 + 8 each. -/
def ctxSyncWin (i : Nat) : Nat := 0x0900 + 8 * i
/-- PWR_SHED_FLOOR (R581), offset 0x0100. -/
def pwrShedFloor : Nat := 0x0100
/-- PWR_SLEW_CTRL (R581), offset 0x0104. -/
def pwrSlewCtrl : Nat := 0x0104
/-- PWR_CAP_CTRL (R581), offset 0x0108. -/
def pwrCapCtrl : Nat := 0x0108
/-- PWR_THERM_CTRL (R581), offset 0x010C. -/
def pwrThermCtrl : Nat := 0x010C
/-- PWR_GATE_CTRL (R581), offset 0x0140. -/
def pwrGateCtrl : Nat := 0x0140
/-- PWR_SHED_STATUS (R581), offset 0x0800. -/
def pwrShedStatus : Nat := 0x0800
/-- PWR_EST_STATUS (R581), offset 0x0810. -/
def pwrEstStatus : Nat := 0x0810
/-- PWR_EST_CAL (R581), offset 0x0818. -/
def pwrEstCal : Nat := 0x0818
/-- PWR_THERM_STATUS (R581), offset 0x0820. -/
def pwrThermStatus : Nat := 0x0820
/-- PWR_SHED1_CNT (R581), offset 0x0900. -/
def pwrShed1Cnt : Nat := 0x0900
/-- PWR_SHED2_CNT (R581), offset 0x0904. -/
def pwrShed2Cnt : Nat := 0x0904
/-- PWR_SHED3_CNT (R581), offset 0x0908. -/
def pwrShed3Cnt : Nat := 0x0908
/-- PWR_SHED4_CNT (R581), offset 0x090C. -/
def pwrShed4Cnt : Nat := 0x090C
/-- PWR_SLEW_THROTTLE_CNT (R581), offset 0x0910. -/
def pwrSlewThrottleCnt : Nat := 0x0910
/-- PWR_CAL_REJECT_CNT (R581), offset 0x0914. -/
def pwrCalRejectCnt : Nat := 0x0914
/-- CHP_BOOT_STATUS (R612), offset 0x0870. -/
def chpBootStatus : Nat := 0x0870
/-- CHP_PFAULT_LAST (R612), offset 0x0868. -/
def chpPfaultLast : Nat := 0x0868
/-- CHP_SEQ_STATUS(s) (R612), offset 0x08C0 + 4 each. -/
def chpSeqStatus (i : Nat) : Nat := 0x08C0 + 4 * i
/-- CHP_PFAULT_CNT (R612), offset 0x0A5C. -/
def chpPfaultCnt : Nat := 0x0A5C
/-- CHP_PFAULT_TX_CNT (R612), offset 0x0A60. -/
def chpPfaultTxCnt : Nat := 0x0A60
/-- CHP_PFAULT_SUPP_CNT (R612), offset 0x0A64. -/
def chpPfaultSuppCnt : Nat := 0x0A64
/-- DIE_D2D_RETIRE_CNT (R612), offset 0x0904. -/
def dieD2dRetireCnt : Nat := 0x0904
/-- TRC_CTRL (R613), offset 0x0100. -/
def trcCtrl : Nat := 0x0100
/-- TRC_STATUS (R613), offset 0x0800. -/
def trcStatus : Nat := 0x0800
/-- TRC_LOST_CNT (R613), offset 0x0900. -/
def trcLostCnt : Nat := 0x0900
/-- GST_CTRL (R614), offset 0x0100. -/
def gstCtrl : Nat := 0x0100
/-- GST_STATUS (R614), offset 0x0800. -/
def gstStatus : Nat := 0x0800
/-- GST_DUP_DROP_CNT (R614), offset 0x0900. -/
def gstDupDropCnt : Nat := 0x0900
/-- GST_ABSORB_CNT (R614), offset 0x0904. -/
def gstAbsorbCnt : Nat := 0x0904
/-- GST_UNSUPPORTED_CNT (R614), offset 0x0908. -/
def gstUnsupportedCnt : Nat := 0x0908
/-- CHP_CHATTER_CLR (R635), offset 0x0190. -/
def chpChatterClr : Nat := 0x0190
/-- CHP_PIN_STATUS (R635), offset 0x08B0. -/
def chpPinStatus : Nat := 0x08B0
/-- CHP_CHATTER_CNT (R635), offset 0x0A68. -/
def chpChatterCnt : Nat := 0x0A68
/-- EP4_RC_EVICT (R398), offset 0x0900. -/
def ep4RcEvict : Nat := 0x0900
/-- EP4_MP_ERR_CNT (R398), offset 0x0900. -/
def ep4MpErrCnt : Nat := 0x0900
/-- EP4_WIN_MISS_CNT (R398), offset 0x0904. -/
def ep4WinMissCnt : Nat := 0x0904
/-- EP4_ATOM_WAIT_CNT (R398), offset 0x0908. -/
def ep4AtomWaitCnt : Nat := 0x0908
/-- EP4_MGR_REFUSED_CNT (R398), offset 0x090C. -/
def ep4MgrRefusedCnt : Nat := 0x090C
/-- EP4_RB_FULL_CNT (R398), offset 0x0900. -/
def ep4RbFullCnt : Nat := 0x0900
/-- EP4_RB_HIT_CNT (R398), offset 0x0904. -/
def ep4RbHitCnt : Nat := 0x0904
/-- EP4_SCR_ECC_CNT (R398), offset 0x0908. -/
def ep4ScrEccCnt : Nat := 0x0908
/-- GRD_MGR (R435), offset 0x0184. -/
def grdMgr : Nat := 0x0184
/-- EP4_MGR (R435), offset 0x0100. -/
def ep4Mgr : Nat := 0x0100
/-- EP4_COMMIT_MASK (R556), offset 0x0300. -/
def ep4CommitMask : Nat := 0x0300
/-- EP4_COMMIT_CTRL (R556), offset 0x0304. -/
def ep4CommitCtrl : Nat := 0x0304
/-- EP4_COMMIT_AT_LO (R556), offset 0x0308. -/
def ep4CommitAtLo : Nat := 0x0308
/-- EP4_COMMIT_AT_HI (R556), offset 0x030C. -/
def ep4CommitAtHi : Nat := 0x030C
/-- EP4_COMMIT_STATUS (R556), offset 0x0880. -/
def ep4CommitStatus : Nat := 0x0880
/-- EP4_COMMIT_GEN (R556), offset 0x0888. -/
def ep4CommitGen : Nat := 0x0888
/-- EP4_EPOCH (R556), offset 0x088C. -/
def ep4Epoch : Nat := 0x088C
/-- EP4_CFG_DIGEST_LO (R556), offset 0x08A0. -/
def ep4CfgDigestLo : Nat := 0x08A0
/-- EP4_CFG_DIGEST_HI (R556), offset 0x08A4. -/
def ep4CfgDigestHi : Nat := 0x08A4
/-- EP4_BUS_ERR (R556), offset 0x08B0. -/
def ep4BusErr : Nat := 0x08B0
/-- EP4_BUS_ERR_CNT (R556), offset 0x0A48. -/
def ep4BusErrCnt : Nat := 0x0A48
/-- EP4_TMR_SCRUB_CNT (R556), offset 0x0A4C. -/
def ep4TmrScrubCnt : Nat := 0x0A4C
/-- EP4_EPOCH_SKEW_CNT (R556), offset 0x0A50. -/
def ep4EpochSkewCnt : Nat := 0x0A50
/-- EP4_COMMIT_LATE_CNT (R556), offset 0x0A54. -/
def ep4CommitLateCnt : Nat := 0x0A54
/-- EP4_COMMIT_REFUSED_CNT (R556), offset 0x0A58. -/
def ep4CommitRefusedCnt : Nat := 0x0A58
/-- EP4_INT_SUM(i) (R556), offset 0x08C0 + 4 each. -/
def ep4IntSum (i : Nat) : Nat := 0x08C0 + 4 * i
/-- EP4_CTX_INT_SUM(i) (R556), offset 0x0980 + 4 each. -/
def ep4CtxIntSum (i : Nat) : Nat := 0x0980 + 4 * i
/-- EP4_GRD_CTRL (R462), offset 0x0400. -/
def ep4GrdCtrl : Nat := 0x0400
/-- EP4_GRD_AT_LO (R462), offset 0x0408. -/
def ep4GrdAtLo : Nat := 0x0408
/-- EP4_GRD_AT_HI (R462), offset 0x040C. -/
def ep4GrdAtHi : Nat := 0x040C
/-- EP4_GRD_APPROVE_LO (R462), offset 0x0410. -/
def ep4GrdApproveLo : Nat := 0x0410
/-- EP4_GRD_APPROVE_HI (R462), offset 0x0414. -/
def ep4GrdApproveHi : Nat := 0x0414
/-- EP4_GRD_STATE (R462), offset 0x0A00. -/
def ep4GrdState : Nat := 0x0A00
/-- EP4_GRD_DIGEST_LO (R462), offset 0x0A08. -/
def ep4GrdDigestLo : Nat := 0x0A08
/-- EP4_GRD_DIGEST_HI (R462), offset 0x0A0C. -/
def ep4GrdDigestHi : Nat := 0x0A0C
/-- EP4_GRD_REMAIN (R462), offset 0x0A18. -/
def ep4GrdRemain : Nat := 0x0A18
/-- EP4_GRD_ERR (R462), offset 0x0A20. -/
def ep4GrdErr : Nat := 0x0A20
/-- EP4_GRD_ERR_ADDR_LO (R462), offset 0x0A24. -/
def ep4GrdErrAddrLo : Nat := 0x0A24
/-- EP4_GRD_ERR_ADDR_HI (R462), offset 0x0A28. -/
def ep4GrdErrAddrHi : Nat := 0x0A28
/-- Page header and common control offsets (R540, R555, R552). -/
def snapCtrl : Nat := 0x0040
def snapStatus : Nat := 0x0044
def snapStitchLo : Nat := 0x0048
def snapStitchHi : Nat := 0x004C
def intStatus : Nat := 0x0050
def intEnable : Nat := 0x0054
def intForce : Nat := 0x0058
def errLog0 : Nat := 0x0060
def errLog1 : Nat := 0x0064
def errLog2 : Nat := 0x0068
def errLog3 : Nat := 0x006C
def indAddr : Nat := 0x1000
def indData : Nat := 0x1004
def indCtrl : Nat := 0x1008
end R

namespace F
def pwrEstStatus_estStale : Fld := ⟨0x0810, 0, 1⟩
def pwrEstStatus_rejected : Fld := ⟨0x0810, 1, 7⟩
def pwrEstStatus_est : Fld := ⟨0x0810, 8, 12⟩
def pwrEstStatus_meas : Fld := ⟨0x0810, 20, 12⟩
def pwrEstCal_offset : Fld := ⟨0x0818, 0, 16⟩
def pwrEstCal_gain : Fld := ⟨0x0818, 16, 16⟩
def ep4CtxCqSize_log2 : Fld := ⟨0x0308, 0, 5⟩
def ep4CtxCqSize_irqEn : Fld := ⟨0x0308, 5, 1⟩
def ep4CtxRingSize_log2 (i : Nat) : Fld := ⟨0x0108 + 16 * i, 0, 5⟩
def ctxSyncSel_block : Fld := ⟨0x0144, 0, 8⟩
def ctxSyncSel_quarter : Fld := ⟨0x0144, 8, 2⟩
def prtCreditAlloc0_low : Fld := ⟨0x0184, 0, 16⟩
def prtCreditAlloc0_high : Fld := ⟨0x0184, 16, 16⟩
def prtCreditAlloc1_low : Fld := ⟨0x0188, 0, 16⟩
def prtCreditAlloc1_high : Fld := ⟨0x0188, 16, 16⟩
def prtCreditAlloc2_low : Fld := ⟨0x018C, 0, 16⟩
def prtCreditAlloc2_high : Fld := ⟨0x018C, 16, 16⟩
def sthCtrl_role : Fld := ⟨0x0100, 0, 2⟩
def sthCtrl_outEn : Fld := ⟨0x0100, 2, 1⟩
def sthInDelay_delay : Fld := ⟨0x0104, 0, 16⟩
def sthHoldoverLimit_limit : Fld := ⟨0x0108, 0, 16⟩
def sthStatus_state : Fld := ⟨0x0800, 0, 2⟩
def sthStatus_inValid : Fld := ⟨0x0800, 2, 1⟩
def sthStatus_offset : Fld := ⟨0x0800, 8, 16⟩
def sthCycle_cycle : Fld := ⟨0x0810, 0, 10⟩
def prtPktErrLast_reason : Fld := ⟨0x091C, 0, 8⟩
def prtPktErrLast_opcode : Fld := ⟨0x091C, 8, 8⟩
def prtPktErrLast_vc : Fld := ⟨0x091C, 16, 3⟩
def cluSyncCtrl_waitLimit : Fld := ⟨0x0300, 0, 16⟩
def cluSyncWaiters_count : Fld := ⟨0x0A00, 0, 14⟩
def cluAtomInflight_entries : Fld := ⟨0x0A04, 0, 15⟩
def cluSyncHot_bank : Fld := ⟨0x0A08, 0, 4⟩
def cluSyncHot_depth : Fld := ⟨0x0A08, 4, 11⟩
def cluSyncHot_object : Fld := ⟨0x0A08, 15, 17⟩
def chpTileRetire_retire : Fld := ⟨0x0140, 0, 18⟩
def tilFabCtrl_ctEnable : Fld := ⟨0x0100, 0, 1⟩
def tilFabCtrl_ctLead : Fld := ⟨0x0100, 4, 10⟩
def tilMidStatus_maxOcc : Fld := ⟨0x0800, 0, 7⟩
def tilMidStatus_outTile : Fld := ⟨0x0800, 7, 5⟩
def tilMidStatus_expressMax : Fld := ⟨0x0800, 12, 4⟩
def tilReseqStatus_occ : Fld := ⟨0x0804, 0, 13⟩
def tilReseqStatus_high : Fld := ⟨0x0804, 16, 13⟩
def dieD2dStatus_active : Fld := ⟨0x0800, 0, 6⟩
def dieD2dStatus_retired : Fld := ⟨0x0800, 6, 1⟩
def cluBufAlpha_alphaVc0 : Fld := ⟨0x0200, 0, 3⟩
def cluBufAlpha_alphaVc1 : Fld := ⟨0x0200, 4, 3⟩
def cluBufAlpha_alphaVc2 : Fld := ⟨0x0200, 8, 3⟩
def cluBufAlpha_alphaVc4 : Fld := ⟨0x0200, 16, 3⟩
def cluBufAlpha_alphaVc5 : Fld := ⟨0x0200, 20, 3⟩
def cluBufMin_minVc0 : Fld := ⟨0x0204, 0, 6⟩
def cluBufMin_minVc1 : Fld := ⟨0x0204, 6, 6⟩
def cluBufMin_minVc2 : Fld := ⟨0x0204, 12, 6⟩
def cluBufMin_minVc4 : Fld := ⟨0x0204, 18, 6⟩
def cluBufMin_minVc5 : Fld := ⟨0x0204, 24, 6⟩
def cluLiningCtrl_enVc0 : Fld := ⟨0x0208, 0, 1⟩
def cluLiningCtrl_enVc1 : Fld := ⟨0x0208, 1, 1⟩
def cluLiningCtrl_enVc2 : Fld := ⟨0x0208, 2, 1⟩
def cluLiningCtrl_enVc5 : Fld := ⟨0x0208, 5, 1⟩
def cluLiningCtrl_liningMax : Fld := ⟨0x0208, 8, 16⟩
def cluPoolStatus_free : Fld := ⟨0x0A30, 0, 21⟩
def cluLiningStatus_used : Fld := ⟨0x0A34, 0, 16⟩
def cluLiningStatus_wbuf : Fld := ⟨0x0A34, 16, 11⟩
def prtHoldCtrl_portHold : Fld := ⟨0x0180, 0, 16⟩
def prtCreditStatus_allocErr : Fld := ⟨0x0840, 0, 1⟩
def prtCreditStatus_holdState : Fld := ⟨0x0840, 1, 2⟩
def prtCreditStatus_remaining : Fld := ⟨0x0840, 8, 16⟩
def prtTxCredit0_low : Fld := ⟨0x0844, 0, 16⟩
def prtTxCredit0_high : Fld := ⟨0x0844, 16, 16⟩
def prtTxCredit1_low : Fld := ⟨0x0848, 0, 16⟩
def prtTxCredit1_high : Fld := ⟨0x0848, 16, 16⟩
def prtTxCredit2_low : Fld := ⟨0x084C, 0, 16⟩
def prtTxCredit2_high : Fld := ⟨0x084C, 16, 16⟩
def ep4ZlyCtrl_en : Fld := ⟨0x010C, 0, 1⟩
def ep4ZlyCtrl_zlyTest : Fld := ⟨0x010C, 1, 1⟩
def prtMarkCtrl_markVc0 : Fld := ⟨0x0190, 0, 16⟩
def prtMarkCtrl_markVc2 : Fld := ⟨0x0190, 16, 16⟩
def chpZlyCtrl_en : Fld := ⟨0x0160, 0, 1⟩
def chpZlyCtrl_bank : Fld := ⟨0x0160, 1, 1⟩
def chpZlyStatus_liveEn : Fld := ⟨0x0850, 0, 1⟩
def chpZlyStatus_liveBank : Fld := ⟨0x0850, 1, 1⟩
def chpZlyStatus_planErr : Fld := ⟨0x0850, 2, 1⟩
def chpZlyStatus_errCode : Fld := ⟨0x0850, 3, 3⟩
def chpZlyStatus_slot : Fld := ⟨0x0850, 6, 7⟩
def cluSvcMark_thr : Fld := ⟨0x020C, 0, 16⟩
def mdrMapCtrl_en : Fld := ⟨0x0108, 0, 1⟩
def mdrMapCtrl_sizeLog2 : Fld := ⟨0x0108, 4, 5⟩
def mdrSmpCtrl_en : Fld := ⟨0x0118, 0, 1⟩
def mdrSmpCtrl_sizeLog2 : Fld := ⟨0x0118, 4, 5⟩
def mdrSmpSel_en (i : Nat) : Fld := ⟨0x0120 + 8 * i, 0, 1⟩
def mdrSmpSel_vcMask (i : Nat) : Fld := ⟨0x0120 + 8 * i, 1, 6⟩
def mdrSmpSel_opEn (i : Nat) : Fld := ⟨0x0120 + 8 * i, 7, 1⟩
def mdrSmpSel_opcode (i : Nat) : Fld := ⟨0x0120 + 8 * i, 8, 8⟩
def mdrSmpKey_pkey (i : Nat) : Fld := ⟨0x0124 + 8 * i, 0, 16⟩
def mdrSmpKey_mask (i : Nat) : Fld := ⟨0x0124 + 8 * i, 16, 16⟩
def mdrSmpN_n (i : Nat) : Fld := ⟨0x0140 + 4 * i, 0, 24⟩
def pltCtrl_stallLimit : Fld := ⟨0x0100, 0, 16⟩
def pltSpillCtrl_spillLwm : Fld := ⟨0x0104, 0, 16⟩
def pltSpillCtrl_spillHwm : Fld := ⟨0x0104, 16, 16⟩
def pltStatus_resident : Fld := ⟨0x0800, 0, 11⟩
def pltStatus_waiting : Fld := ⟨0x0800, 11, 14⟩
def pltCluFree_pages (i : Nat) : Fld := ⟨0x0810 + 4 * i, 0, 15⟩
def pltCluFree_slots (i : Nat) : Fld := ⟨0x0810 + 4 * i, 15, 15⟩
def pltDescErr_group : Fld := ⟨0x0830, 0, 13⟩
def pltDescErr_code : Fld := ⟨0x0830, 13, 4⟩
def cufStatus_open : Fld := ⟨0x0800, 0, 10⟩
def cufStatus_faulted : Fld := ⟨0x0800, 10, 10⟩
def cufStoreFree_free (i : Nat) : Fld := ⟨0x0810 + 4 * i, 0, 16⟩
def cufDescErr_group : Fld := ⟨0x0830, 0, 9⟩
def cufDescErr_code : Fld := ⟨0x0830, 9, 4⟩
def pltBktDescErr_group : Fld := ⟨0x0834, 0, 10⟩
def pltBktDescErr_code : Fld := ⟨0x0834, 10, 4⟩
def cluHbmLayout_liningUnits : Fld := ⟨0x0210, 0, 10⟩
def cluHbmLayout_spillUnits : Fld := ⟨0x0210, 10, 10⟩
def cluHbmShare_pool : Fld := ⟨0x0214, 0, 7⟩
def cluHbmShare_liningWr : Fld := ⟨0x0214, 7, 7⟩
def cluHbmShare_liningRd : Fld := ⟨0x0214, 14, 7⟩
def cluHbmShare_spill : Fld := ⟨0x0214, 21, 7⟩
def cluScrubCtrl_period : Fld := ⟨0x0218, 0, 8⟩
def cluScrubCtrl_scrubEn : Fld := ⟨0x0218, 8, 1⟩
def cluScrubCtrl_ceLimit : Fld := ⟨0x0218, 16, 16⟩
def cluHbmStatus_state : Fld := ⟨0x0A60, 0, 2⟩
def cluHbmStatus_layoutErr : Fld := ⟨0x0A60, 2, 1⟩
def cluHbmStatus_poolUnits : Fld := ⟨0x0A60, 8, 10⟩
def cluHbmStatus_scrubPos : Fld := ⟨0x0A60, 18, 10⟩
def chpStackRetire_retire : Fld := ⟨0x0144, 0, 6⟩
def chpPoolErr_region : Fld := ⟨0x0858, 0, 6⟩
def chpPoolErr_code : Fld := ⟨0x0858, 6, 3⟩
def ep4Cap0_ports : Fld := ⟨0x0800, 0, 5⟩
def ep4Cap0_engines : Fld := ⟨0x0800, 5, 6⟩
def ep4Cap0_out256 : Fld := ⟨0x0800, 11, 4⟩
def ep4Cap0_ctx16 : Fld := ⟨0x0800, 15, 7⟩
def ep4Cap0_host : Fld := ⟨0x0800, 22, 2⟩
def ep4Cap0_hostWidth : Fld := ⟨0x0800, 24, 2⟩
def ep4Cap1_scratchMib : Fld := ⟨0x0804, 0, 7⟩
def ep4Cap1_rbK : Fld := ⟨0x0804, 7, 7⟩
def ep4Cap1_rc64 : Fld := ⟨0x0804, 14, 5⟩
def ep4Cap1_windows : Fld := ⟨0x0804, 19, 7⟩
def ep4Cap1_mpWidth : Fld := ⟨0x0804, 26, 2⟩
def ep4Cap1_atom256 : Fld := ⟨0x0804, 28, 4⟩
def ep4Node_node : Fld := ⟨0x0100, 0, 10⟩
def ep4PinSeed_seed : Fld := ⟨0x0104, 0, 16⟩
def ep4TimCtrl_plane : Fld := ⟨0x0100, 0, 4⟩
def ep4TimCtrl_named : Fld := ⟨0x0100, 4, 1⟩
def ep4TimCtrl_holdoverLimit : Fld := ⟨0x0100, 16, 16⟩
def ep4TimStatus_state : Fld := ⟨0x0800, 0, 2⟩
def ep4TimStatus_timingPlane : Fld := ⟨0x0800, 2, 4⟩
def ep4TimStatus_spread : Fld := ⟨0x0800, 6, 1⟩
def ep4TimStatus_spreadVal : Fld := ⟨0x0800, 8, 16⟩
def ep4TimOffset_offset (i : Nat) : Fld := ⟨0x0810 + 4 * i, 0, 16⟩
def ep4TimOffset_valid (i : Nat) : Fld := ⟨0x0810 + 4 * i, 16, 1⟩
def ep4PrtStatus_state : Fld := ⟨0x0800, 0, 2⟩
def ep4PrtStatus_plane : Fld := ⟨0x0800, 2, 4⟩
def ep4PrtStatus_dupPlane : Fld := ⟨0x0800, 6, 1⟩
def ep4PrtStatus_step : Fld := ⟨0x0800, 7, 3⟩
def ep4PrtStatus_width : Fld := ⟨0x0800, 10, 3⟩
def ep4RbStatus_freeLines : Fld := ⟨0x0800, 0, 17⟩
def ep4HostStatus_up : Fld := ⟨0x0800, 0, 1⟩
def ep4HostStatus_width : Fld := ⟨0x0800, 1, 5⟩
def ep4HostStatus_gts : Fld := ⟨0x0800, 6, 8⟩
def ep4RcCtrl_uPeriod : Fld := ⟨0x0100, 0, 6⟩
def ep4RcCtrl_gShift : Fld := ⟨0x0100, 6, 4⟩
def ep4RcCtrl_frSteps : Fld := ⟨0x0100, 10, 4⟩
def ep4RcRate_rAi : Fld := ⟨0x0104, 0, 11⟩
def ep4RcRate_rMin : Fld := ⟨0x0104, 16, 11⟩
def ep4RcStatus_entries : Fld := ⟨0x0800, 0, 11⟩
def ep4EngBind_context : Fld := ⟨0x0100, 0, 10⟩
def ep4EngBind_bound : Fld := ⟨0x0100, 10, 1⟩
def ep4EngStatus_state : Fld := ⟨0x0800, 0, 3⟩
def ep4EngStatus_held : Fld := ⟨0x0800, 3, 3⟩
def ep4EngStatus_slots : Fld := ⟨0x0800, 6, 7⟩
def ep4EngStatus_tags : Fld := ⟨0x0800, 13, 12⟩
def ep4CtxFault_state : Fld := ⟨0x0908, 0, 2⟩
def ep4CtxFault_reason : Fld := ⟨0x0908, 8, 8⟩
def ep4CtxFault_stitch : Fld := ⟨0x0908, 16, 15⟩
def ep4CtxFault_clear : Fld := ⟨0x0908, 31, 1⟩
def ep4AbortCtrl_quarantine : Fld := ⟨0x0108, 0, 20⟩
def grdCtrl_view : Fld := ⟨0x0100, 0, 1⟩
def grdCtrl_seal : Fld := ⟨0x0100, 1, 1⟩
def grdCtrl_abort : Fld := ⟨0x0100, 2, 1⟩
def grdCtrl_atEn : Fld := ⟨0x0100, 3, 1⟩
def grdRelayCtrl_node : Fld := ⟨0x0140, 0, 10⟩
def grdRelayCtrl_op : Fld := ⟨0x0140, 10, 1⟩
def grdRelayCtrl_go : Fld := ⟨0x0140, 11, 1⟩
def grdEnforce_en : Fld := ⟨0x0180, 0, 1⟩
def grdState_state : Fld := ⟨0x0800, 0, 2⟩
def grdState_approvedA : Fld := ⟨0x0800, 2, 1⟩
def grdState_approvedB : Fld := ⟨0x0800, 3, 1⟩
def grdState_items : Fld := ⟨0x0800, 4, 16⟩
def grdRemain_remain : Fld := ⟨0x0818, 0, 26⟩
def grdErr_code : Fld := ⟨0x0820, 0, 4⟩
def grdHoldTile_hold : Fld := ⟨0x0830, 0, 18⟩
def grdHoldClu_hold : Fld := ⟨0x0834, 0, 6⟩
def grdRelayStatus_busy : Fld := ⟨0x0840, 0, 1⟩
def grdRelayStatus_done : Fld := ⟨0x0840, 1, 1⟩
def grdRelayStatus_status : Fld := ⟨0x0840, 2, 8⟩
def grdRelayStatus_timeout : Fld := ⟨0x0840, 10, 1⟩
def ep4CtxConf_state : Fld := ⟨0x0A20, 0, 2⟩
def ep4CtxConf_scrubbing : Fld := ⟨0x0A20, 2, 1⟩
def prtLinkCtrl_en : Fld := ⟨0x0100, 0, 1⟩
def prtLinkCtrl_maxStep : Fld := ⟨0x0100, 1, 3⟩
def prtLinkCtrl_fecPref : Fld := ⟨0x0100, 4, 1⟩
def prtLinkCtrl_minWidth : Fld := ⟨0x0100, 5, 2⟩
def prtSleepCtrl_idleLight : Fld := ⟨0x0108, 0, 8⟩
def prtSleepCtrl_deepIdle : Fld := ⟨0x0108, 8, 16⟩
def prtRetryCtrl_timeout : Fld := ⟨0x010C, 0, 8⟩
def prtRetryCtrl_limit : Fld := ⟨0x010C, 8, 4⟩
def prtRetryCtrl_laneErrLimit : Fld := ⟨0x010C, 12, 16⟩
def prtLinkStatus_state : Fld := ⟨0x0800, 0, 3⟩
def prtLinkStatus_step : Fld := ⟨0x0800, 3, 3⟩
def prtLinkStatus_laneMask : Fld := ⟨0x0800, 6, 4⟩
def prtLinkStatus_fec : Fld := ⟨0x0800, 10, 2⟩
def prtLinkStatus_txSleep : Fld := ⟨0x0800, 12, 2⟩
def prtLinkStatus_rxSleep : Fld := ⟨0x0800, 14, 1⟩
def prtLinkStatus_fresh : Fld := ⟨0x0800, 15, 1⟩
def prtLinkStatus_refuseReason : Fld := ⟨0x0800, 16, 3⟩
def prtSpeedCap_maxStep : Fld := ⟨0x0804, 0, 3⟩
def prtSpeedCap_lanes : Fld := ⟨0x0804, 3, 4⟩
def prtPartner_node : Fld := ⟨0x0808, 0, 10⟩
def prtPartner_role : Fld := ⟨0x0808, 10, 1⟩
def prtPartner_maxStep : Fld := ⟨0x0808, 11, 3⟩
def prtPartner_epoch : Fld := ⟨0x0808, 14, 8⟩
def sdsRecalCtrl_lane : Fld := ⟨0x0100, 0, 8⟩
def sdsRecalCtrl_go : Fld := ⟨0x0100, 8, 1⟩
def sdsMarginCtrl_marginLow : Fld := ⟨0x0104, 0, 8⟩
def sdsRecalStatus_busy : Fld := ⟨0x0800, 0, 1⟩
def sdsRecalStatus_result : Fld := ⟨0x0800, 1, 2⟩
def sdsRecalStatus_lane : Fld := ⟨0x0800, 3, 8⟩
def ocuEngCtrl_mode (i : Nat) : Fld := ⟨0x0100 + 4 * i, 0, 2⟩
def ocuEngCtrl_laserEn (i : Nat) : Fld := ⟨0x0100 + 4 * i, 2, 1⟩
def ocuLoopCtrl_filterLen : Fld := ⟨0x0110, 0, 11⟩
def ocuLoopCtrl_sweepLog : Fld := ⟨0x0110, 11, 4⟩
def ocuLoopCtrl_lockTol : Fld := ⟨0x0110, 15, 16⟩
def ocuProbeCtrl_period : Fld := ⟨0x0114, 0, 16⟩
def ocuCapCtrl_slot : Fld := ⟨0x0118, 0, 2⟩
def ocuCapCtrl_ring : Fld := ⟨0x0118, 2, 5⟩
def ocuCapCtrl_go : Fld := ⟨0x0118, 7, 1⟩
def ocuEngStatus_link (i : Nat) : Fld := ⟨0x0800 + 4 * i, 0, 2⟩
def ocuEngStatus_type (i : Nat) : Fld := ⟨0x0800 + 4 * i, 2, 4⟩
def ocuEngStatus_table (i : Nat) : Fld := ⟨0x0800 + 4 * i, 6, 1⟩
def ocuEngStatus_locked (i : Nat) : Fld := ⟨0x0800 + 4 * i, 7, 6⟩
def ocuEngStatus_pair (i : Nat) : Fld := ⟨0x0800 + 4 * i, 13, 12⟩
def ocuEngStatus_losChatter (i : Nat) : Fld := ⟨0x0800 + 4 * i, 25, 1⟩
def ocuEngStatus_fault (i : Nat) : Fld := ⟨0x0800 + 4 * i, 26, 1⟩
def ocuEngTemp_temp (i : Nat) : Fld := ⟨0x0810 + 4 * i, 0, 16⟩
def ocuCapStatus_busy : Fld := ⟨0x0820, 0, 1⟩
def ocuCapStatus_count : Fld := ⟨0x0820, 1, 9⟩
def ocuElsStatus_present (i : Nat) : Fld := ⟨0x0830 + 4 * i, 0, 1⟩
def ocuElsStatus_on (i : Nat) : Fld := ⟨0x0830 + 4 * i, 1, 1⟩
def ocuElsStatus_fault (i : Nat) : Fld := ⟨0x0830 + 4 * i, 2, 1⟩
def ocuElsStatus_eol (i : Nat) : Fld := ⟨0x0830 + 4 * i, 3, 1⟩
def ocuElsStatus_chatter (i : Nat) : Fld := ⟨0x0830 + 4 * i, 4, 1⟩
def ocuElsStatus_idErr (i : Nat) : Fld := ⟨0x0830 + 4 * i, 5, 1⟩
def chpCommitCtrl_go : Fld := ⟨0x0104, 0, 1⟩
def chpCommitCtrl_atEn : Fld := ⟨0x0104, 1, 1⟩
def chpCommitCtrl_cancel : Fld := ⟨0x0104, 2, 1⟩
def chpCommitCtrl_epochEn : Fld := ⟨0x0104, 3, 1⟩
def chpCommitCtrl_epoch : Fld := ⟨0x0104, 8, 8⟩
def chpIntRoute_aEn : Fld := ⟨0x0120, 0, 1⟩
def chpIntRoute_bEn : Fld := ⟨0x0120, 1, 1⟩
def chpCommitStatus_pending : Fld := ⟨0x0800, 0, 1⟩
def chpCommitStatus_late : Fld := ⟨0x0800, 1, 1⟩
def chpEpoch_epoch : Fld := ⟨0x080C, 0, 8⟩
def chpEpoch_previous : Fld := ⟨0x080C, 8, 8⟩
def chpBusErr_path : Fld := ⟨0x0860, 0, 2⟩
def chpBusErr_write : Fld := ⟨0x0860, 2, 1⟩
def chpBusErr_page : Fld := ⟨0x0860, 3, 11⟩
def chpBusErr_offset : Fld := ⟨0x0860, 14, 14⟩
def chpNode_plane : Fld := ⟨0x0110, 0, 4⟩
def chpNode_valid : Fld := ⟨0x0110, 4, 1⟩
def chpIdent_part : Fld := ⟨0x0840, 0, 16⟩
def chpIdent_revision : Fld := ⟨0x0840, 16, 8⟩
def chpIdent_node : Fld := ⟨0x0840, 24, 8⟩
def ctxBind_pkey : Fld := ⟨0x0800, 0, 16⟩
def ctxBind_bound : Fld := ⟨0x0800, 16, 1⟩
def ctxBind_confidential : Fld := ⟨0x0800, 17, 1⟩
def ctxSyncWin_value (i : Nat) : Fld := ⟨0x0900 + 8 * i, 0, 64⟩
def pwrShedFloor_floor : Fld := ⟨0x0100, 0, 3⟩
def pwrSlewCtrl_slew : Fld := ⟨0x0104, 0, 10⟩
def pwrSlewCtrl_pBase : Fld := ⟨0x0104, 10, 10⟩
def pwrCapCtrl_pCap : Fld := ⟨0x0108, 0, 10⟩
def pwrCapCtrl_pOther : Fld := ⟨0x0108, 10, 10⟩
def pwrThermCtrl_tThrottle : Fld := ⟨0x010C, 0, 8⟩
def pwrThermCtrl_tCrit : Fld := ⟨0x010C, 8, 8⟩
def pwrThermCtrl_tHbm : Fld := ⟨0x010C, 16, 8⟩
def pwrGateCtrl_kind : Fld := ⟨0x0140, 0, 2⟩
def pwrGateCtrl_unit : Fld := ⟨0x0140, 2, 5⟩
def pwrGateCtrl_action : Fld := ⟨0x0140, 7, 2⟩
def pwrGateCtrl_req : Fld := ⟨0x0140, 9, 2⟩
def pwrShedStatus_level : Fld := ⟨0x0800, 0, 3⟩
def pwrShedStatus_vLevel : Fld := ⟨0x0800, 3, 3⟩
def pwrShedStatus_brkLevel : Fld := ⟨0x0800, 6, 3⟩
def pwrShedStatus_capLevel : Fld := ⟨0x0800, 9, 3⟩
def pwrShedStatus_tLevel : Fld := ⟨0x0800, 12, 3⟩
def pwrShedStatus_floor : Fld := ⟨0x0800, 15, 3⟩
def pwrShedStatus_brkChatter : Fld := ⟨0x0800, 18, 1⟩
def pwrShedStatus_f : Fld := ⟨0x0800, 19, 6⟩
def pwrThermStatus_maxTemp : Fld := ⟨0x0820, 0, 8⟩
def pwrThermStatus_sensor : Fld := ⟨0x0820, 8, 6⟩
def pwrThermStatus_trip : Fld := ⟨0x0820, 14, 1⟩
def chpBootStatus_phase : Fld := ⟨0x0870, 0, 3⟩
def chpBootStatus_degraded : Fld := ⟨0x0870, 3, 1⟩
def chpBootStatus_bootMs : Fld := ⟨0x0870, 4, 16⟩
def chpPfaultLast_key : Fld := ⟨0x0868, 0, 16⟩
def chpPfaultLast_reason : Fld := ⟨0x0868, 16, 8⟩
def chpPfaultLast_received : Fld := ⟨0x0868, 24, 1⟩
def chpSeqStatus_active (i : Nat) : Fld := ⟨0x08C0 + 4 * i, 0, 1⟩
def chpSeqStatus_aOk (i : Nat) : Fld := ⟨0x08C0 + 4 * i, 1, 1⟩
def chpSeqStatus_bOk (i : Nat) : Fld := ⟨0x08C0 + 4 * i, 2, 1⟩
def chpSeqStatus_version (i : Nat) : Fld := ⟨0x08C0 + 4 * i, 16, 16⟩
def trcCtrl_en : Fld := ⟨0x0100, 0, 1⟩
def trcCtrl_mode : Fld := ⟨0x0100, 1, 1⟩
def trcCtrl_mask : Fld := ⟨0x0100, 16, 16⟩
def trcStatus_wr0 : Fld := ⟨0x0800, 0, 12⟩
def trcStatus_wr1 : Fld := ⟨0x0800, 12, 12⟩
def trcStatus_wrapped : Fld := ⟨0x0800, 24, 2⟩
def trcStatus_frozen : Fld := ⟨0x0800, 26, 2⟩
def gstCtrl_window : Fld := ⟨0x0100, 0, 12⟩
def gstCtrl_quiet : Fld := ⟨0x0100, 12, 8⟩
def gstCtrl_clean : Fld := ⟨0x0100, 20, 6⟩
def gstCtrl_maxBad : Fld := ⟨0x0100, 26, 6⟩
def gstStatus_active : Fld := ⟨0x0800, 0, 8⟩
def gstStatus_admitted : Fld := ⟨0x0800, 8, 8⟩
def gstStatus_failed : Fld := ⟨0x0800, 16, 8⟩
def chpChatterClr_sel : Fld := ⟨0x0190, 0, 2⟩
def chpChatterClr_index : Fld := ⟨0x0190, 2, 6⟩
def chpChatterClr_go : Fld := ⟨0x0190, 8, 1⟩
def chpPinStatus_pwrbrk : Fld := ⟨0x08B0, 0, 1⟩
def chpPinStatus_pwrbrkChatter : Fld := ⟨0x08B0, 1, 1⟩
def chpPinStatus_resetChatter : Fld := ⟨0x08B0, 2, 1⟩
def chpPinStatus_thermtrip : Fld := ⟨0x08B0, 3, 1⟩
def grdMgr_node : Fld := ⟨0x0184, 0, 10⟩
def grdMgr_valid : Fld := ⟨0x0184, 10, 1⟩
def ep4Mgr_node : Fld := ⟨0x0100, 0, 10⟩
def ep4Mgr_valid : Fld := ⟨0x0100, 10, 1⟩
def ep4CommitCtrl_go : Fld := ⟨0x0304, 0, 1⟩
def ep4CommitCtrl_atEn : Fld := ⟨0x0304, 1, 1⟩
def ep4CommitCtrl_cancel : Fld := ⟨0x0304, 2, 1⟩
def ep4CommitCtrl_epochEn : Fld := ⟨0x0304, 3, 1⟩
def ep4CommitCtrl_epoch : Fld := ⟨0x0304, 8, 8⟩
def ep4CommitStatus_pending : Fld := ⟨0x0880, 0, 1⟩
def ep4CommitStatus_late : Fld := ⟨0x0880, 1, 1⟩
def ep4Epoch_epoch : Fld := ⟨0x088C, 0, 8⟩
def ep4Epoch_previous : Fld := ⟨0x088C, 8, 8⟩
def ep4BusErr_path : Fld := ⟨0x08B0, 0, 2⟩
def ep4BusErr_write : Fld := ⟨0x08B0, 2, 1⟩
def ep4BusErr_page : Fld := ⟨0x08B0, 3, 11⟩
def ep4BusErr_offset : Fld := ⟨0x08B0, 14, 14⟩
def ep4GrdCtrl_view : Fld := ⟨0x0400, 0, 1⟩
def ep4GrdCtrl_seal : Fld := ⟨0x0400, 1, 1⟩
def ep4GrdCtrl_abort : Fld := ⟨0x0400, 2, 1⟩
def ep4GrdCtrl_atEn : Fld := ⟨0x0400, 3, 1⟩
def ep4GrdState_state : Fld := ⟨0x0A00, 0, 2⟩
def ep4GrdState_approvedA : Fld := ⟨0x0A00, 2, 1⟩
def ep4GrdState_approvedB : Fld := ⟨0x0A00, 3, 1⟩
def ep4GrdState_items : Fld := ⟨0x0A00, 4, 16⟩
def ep4GrdRemain_remain : Fld := ⟨0x0A18, 0, 26⟩
def ep4GrdErr_code : Fld := ⟨0x0A20, 0, 4⟩
/-! Fields of table entries: the first number is the word within the entry. -/
def route_portA : Fld := ⟨0, 0, 8⟩
def route_portB : Fld := ⟨0, 8, 8⟩
def route_mode : Fld := ⟨0, 16, 2⟩
def key_key : Fld := ⟨0, 0, 16⟩
def key_valid : Fld := ⟨0, 16, 1⟩
def syncGrant_pkey : Fld := ⟨0, 0, 16⟩
def syncGrant_valid : Fld := ⟨0, 16, 1⟩
def bind_pkey : Fld := ⟨0, 0, 16⟩
def bind_bound : Fld := ⟨0, 16, 1⟩
def bind_confidential : Fld := ⟨0, 17, 1⟩
def region_valid : Fld := ⟨0, 0, 1⟩
def region_stackMask : Fld := ⟨0, 1, 6⟩
def region_pkey : Fld := ⟨0, 16, 16⟩
def region_fabBase : Fld := ⟨1, 0, 26⟩
def region_stkBase : Fld := ⟨2, 0, 10⟩
def region_perStack : Fld := ⟨2, 10, 10⟩
def laser_forceDark : Fld := ⟨0, 0, 1⟩
def laser_closed : Fld := ⟨0, 1, 4⟩
def laser_bypass : Fld := ⟨0, 5, 4⟩
def laser_probeOff : Fld := ⟨0, 9, 1⟩
def seqSel_active : Fld := ⟨0, 0, 1⟩
def regionStat_state : Fld := ⟨0, 0, 2⟩
def regionStat_zeroDone : Fld := ⟨0, 2, 10⟩
def lane_state : Fld := ⟨0, 0, 2⟩
def lane_lock : Fld := ⟨0, 2, 1⟩
def lane_preset : Fld := ⟨0, 3, 4⟩
def lane_eyeUpper : Fld := ⟨1, 0, 8⟩
def lane_eyeMid : Fld := ⟨1, 8, 8⟩
def lane_eyeLower : Fld := ⟨1, 16, 8⟩
def lane_eyeWidth : Fld := ⟨1, 24, 8⟩
def lane_taps : Fld := ⟨2, 0, 30⟩
def lane_symErr : Fld := ⟨3, 0, 32⟩
def lane_stuff : Fld := ⟨4, 0, 32⟩
def lane_stuffViol : Fld := ⟨5, 0, 32⟩
def ring_ditherHz : Fld := ⟨0, 0, 12⟩
def ring_amp : Fld := ⟨0, 12, 8⟩
def ring_phase : Fld := ⟨0, 20, 8⟩
def ring_setpoint : Fld := ⟨1, 0, 24⟩
def ring_gain : Fld := ⟨2, 0, 16⟩
def ring_detune : Fld := ⟨2, 16, 16⟩
def ring_park : Fld := ⟨3, 0, 16⟩
def ring_chan : Fld := ⟨3, 16, 2⟩
def ring_gainStep : Fld := ⟨3, 18, 2⟩
def ring_autoGain : Fld := ⟨3, 20, 1⟩
def ring_heater : Fld := ⟨4, 0, 16⟩
def ring_state : Fld := ⟨4, 16, 3⟩
def tpoint_temp : Fld := ⟨0, 0, 16⟩
def tpoint_heater : Fld := ⟨0, 16, 16⟩
def smpRec_value : Fld := ⟨0, 0, 16⟩
def smpRec_valid : Fld := ⟨0, 16, 1⟩
def smpRec_reason : Fld := ⟨0, 17, 3⟩
def smpRec_channel : Fld := ⟨0, 20, 2⟩
def smpRec_gain : Fld := ⟨0, 22, 2⟩
def smpRec_frame : Fld := ⟨0, 24, 8⟩
def conn_baseline : Fld := ⟨0, 0, 16⟩
def conn_capture : Fld := ⟨0, 16, 1⟩
def conn_last : Fld := ⟨1, 0, 16⟩
def conn_inspect : Fld := ⟨1, 16, 1⟩
def conn_clean : Fld := ⟨1, 17, 1⟩
def els_minutes : Fld := ⟨8, 0, 32⟩
def els_firstBias : Fld := ⟨9, 0, 16⟩
def els_bias : Fld := ⟨9, 16, 16⟩
def els_drift : Fld := ⟨10, 0, 10⟩
def pdesc_valid : Fld := ⟨0, 0, 1⟩
def pdesc_half : Fld := ⟨0, 1, 1⟩
def pdesc_op : Fld := ⟨0, 2, 2⟩
def pdesc_mode : Fld := ⟨0, 4, 2⟩
def pdesc_inFmt : Fld := ⟨0, 6, 4⟩
def pdesc_outFmt : Fld := ⟨0, 10, 4⟩
def pdesc_rounding : Fld := ⟨0, 14, 1⟩
def pdesc_ownerMode : Fld := ⟨0, 15, 2⟩
def pdesc_chunkLog : Fld := ⟨0, 17, 3⟩
def pdesc_pkey : Fld := ⟨1, 0, 16⟩
def pdesc_members : Fld := ⟨1, 16, 8⟩
def pdesc_capacity : Fld := ⟨2, 0, 32⟩
def pdesc_memberBase : Fld := ⟨3, 0, 17⟩
def pdesc_quota : Fld := ⟨3, 20, 11⟩
def pdesc_ownerBase : Fld := ⟨4, 0, 16⟩
def pdesc_ownerLen : Fld := ⟨4, 16, 9⟩
def pdesc_scaleMode : Fld := ⟨5, 0, 2⟩
def pdesc_shift : Fld := ⟨5, 2, 7⟩
def pdesc_clampEn : Fld := ⟨5, 9, 1⟩
def pdesc_release : Fld := ⟨5, 12, 10⟩
def pdesc_quantum : Fld := ⟨6, 0, 12⟩
def pdesc_scaleConst : Fld := ⟨7, 0, 32⟩
def pdesc_clampLo : Fld := ⟨8, 0, 32⟩
def pdesc_clampHi : Fld := ⟨9, 0, 32⟩
def pdesc_seedLo : Fld := ⟨10, 0, 32⟩
def pdesc_seedHi : Fld := ⟨11, 0, 32⟩
def pdesc_tileMask : Fld := ⟨12, 0, 18⟩
def pstat_state : Fld := ⟨0, 0, 2⟩
def pstat_passLow : Fld := ⟨0, 2, 8⟩
def pstat_open : Fld := ⟨0, 10, 13⟩
def pstat_reason : Fld := ⟨0, 24, 8⟩
def pstat_passes : Fld := ⟨1, 0, 32⟩
def pstat_missing : Fld := ⟨2, 0, 8⟩
def pstat_overflow : Fld := ⟨2, 8, 12⟩
def pstat_padded : Fld := ⟨2, 20, 12⟩
def pstat_rearm : Fld := ⟨3, 0, 1⟩
def member_port : Fld := ⟨0, 0, 8⟩
def member_context : Fld := ⟨0, 8, 10⟩
def member_contrib : Fld := ⟨0, 18, 1⟩
def member_recv : Fld := ⟨0, 19, 1⟩
def owner_member : Fld := ⟨0, 0, 8⟩
def bdesc_valid : Fld := ⟨0, 0, 1⟩
def bdesc_ownerMode : Fld := ⟨0, 1, 2⟩
def bdesc_recLog : Fld := ⟨0, 4, 3⟩
def bdesc_buckets : Fld := ⟨0, 8, 9⟩
def bdesc_pkey : Fld := ⟨1, 0, 16⟩
def bdesc_members : Fld := ⟨1, 16, 8⟩
def bdesc_capacity : Fld := ⟨2, 0, 17⟩
def bdesc_memberBase : Fld := ⟨3, 0, 17⟩
def bdesc_quota : Fld := ⟨3, 20, 11⟩
def bdesc_ownerBase : Fld := ⟨4, 0, 16⟩
def bdesc_fill : Fld := ⟨5, 0, 32⟩
def bdesc_quantum : Fld := ⟨6, 0, 12⟩
def bdesc_tileMask : Fld := ⟨7, 0, 18⟩
def cdesc_valid : Fld := ⟨0, 0, 1⟩
def cdesc_kind : Fld := ⟨0, 1, 1⟩
def cdesc_op : Fld := ⟨0, 2, 2⟩
def cdesc_inFmt : Fld := ⟨0, 4, 4⟩
def cdesc_deadline : Fld := ⟨0, 9, 7⟩
def cdesc_pkey : Fld := ⟨1, 0, 16⟩
def cdesc_members : Fld := ⟨1, 16, 8⟩
def cdesc_len : Fld := ⟨2, 0, 9⟩
def cdesc_release : Fld := ⟨2, 16, 10⟩
def cdesc_memberBase : Fld := ⟨3, 0, 17⟩
def cstat_state : Fld := ⟨0, 0, 2⟩
def cstat_arrived : Fld := ⟨0, 8, 8⟩
def cstat_reason : Fld := ⟨0, 24, 8⟩
def cstat_lastOpen : Fld := ⟨1, 0, 32⟩
def cstat_lastArriver : Fld := ⟨2, 0, 8⟩
def cstat_slowest : Fld := ⟨2, 8, 8⟩
def cstat_lateRounds : Fld := ⟨2, 16, 16⟩
def cstat_rearm : Fld := ⟨3, 0, 1⟩
def cstat_clear : Fld := ⟨3, 1, 1⟩
def cmc_missed : Fld := ⟨0, 0, 16⟩
def cmc_late : Fld := ⟨0, 16, 16⟩
def pair_valid : Fld := ⟨0, 0, 1⟩
def pair_workPort : Fld := ⟨0, 8, 8⟩
def pair_newPort : Fld := ⟨0, 16, 8⟩
def pairStat_state : Fld := ⟨0, 0, 3⟩
def pairStat_code : Fld := ⟨0, 3, 3⟩
def pairStat_run : Fld := ⟨0, 8, 8⟩
def pairStat_bad : Fld := ⟨0, 16, 8⟩
def reach_mask : Fld := ⟨0, 0, 16⟩
def win_valid : Fld := ⟨0, 0, 1⟩
def win_writeEn : Fld := ⟨0, 1, 1⟩
def win_atomicEn : Fld := ⟨0, 2, 1⟩
def win_pkey : Fld := ⟨0, 16, 16⟩
def win_fabLo : Fld := ⟨1, 0, 32⟩
def win_fabHi : Fld := ⟨2, 0, 8⟩
def win_pages : Fld := ⟨3, 0, 32⟩
def win_locLo : Fld := ⟨4, 12, 20⟩
def win_locHi : Fld := ⟨5, 0, 32⟩
def lwin_valid : Fld := ⟨0, 0, 1⟩
def lwin_baseLo : Fld := ⟨0, 12, 20⟩
def lwin_baseHi : Fld := ⟨1, 0, 32⟩
def lwin_pages : Fld := ⟨2, 0, 32⟩
def ebind_pkey : Fld := ⟨0, 0, 16⟩
def ebind_bound : Fld := ⟨0, 16, 1⟩
def ebind_confidential : Fld := ⟨0, 17, 1⟩
def ebind_mgr : Fld := ⟨0, 18, 1⟩
def ebind_bounceLo : Fld := ⟨1, 12, 20⟩
def ebind_bounceHi : Fld := ⟨2, 0, 32⟩
def ebind_bouncePages : Fld := ⟨3, 0, 32⟩
def alloc_scrBase : Fld := ⟨0, 0, 11⟩
def alloc_scrSize : Fld := ⟨0, 11, 11⟩
def alloc_rbQuota : Fld := ⟨0, 22, 9⟩
/-- Zelry plan words (R233, R237, R397). -/
def plan_period : Fld := ⟨0, 0, 12⟩
def plan_slots : Fld := ⟨0, 12, 7⟩
def plan_guard : Fld := ⟨0, 19, 11⟩
def slot_start : Fld := ⟨0, 0, 12⟩
def slot_length : Fld := ⟨0, 12, 8⟩
def entry_src : Fld := ⟨0, 0, 8⟩
def entry_budget : Fld := ⟨0, 16, 16⟩
def entry_dst : Fld := ⟨0, 0, 10⟩
def entry_homeMask : Fld := ⟨0, 10, 4⟩
end F

end Sys2Proof.Machine
end

