-- ==== Sys2Proof/Machine/RegMap.lean ====
section
/-! DEFINITION. The register map: which locations of each page are implemented (R535, R536), and for each word which bits
are RWS, RW, W1C and WO, its reset value and its commit group, as the field tables of the chapters state them.  Bits that
are none of these are RO.  Group 32 stands for "no commit group", 33 for "Guard item" (R449).  Generated from the field
tables of spec/, one row per register. -/

namespace Sys2Proof.Machine

/-- The kinds of page of R557 (SX-4) and R369 (EP-4, prefix e). -/
inductive PageKind where
  | chip | guard | power | stitch | mdr | trace | port | tile | cluster | die | serdes | ocu | pleat | cuff | gusset | ctx | eId | eTim | eRc | eMp | eScr | eHost | ePort | eEng | eCtx
  deriving DecidableEq, Repr

/-- One row: `count` words from `off`, `stride` bytes apart, with the masks of each access code, the reset value and the
commit group. -/
structure RegRow where
  off : Nat
  stride : Nat
  count : Nat
  rws : Nat
  rw : Nat
  w1c : Nat
  wo : Nat
  rst : Nat
  group : Nat
  deriving DecidableEq, Repr

/-- One row of an indirect table: word `word` of every entry of `period` words, in a table of `len` words at window select
`sel`. -/
structure TabRow where
  sel : Nat
  len : Nat
  period : Nat
  word : Nat
  rws : Nat
  rw : Nat
  w1c : Nat
  wo : Nat
  rst : Nat
  group : Nat
  deriving DecidableEq, Repr

def rows_chip : List RegRow := [
  ⟨0x0100, 0, 1, 0, 0xFFFFFFFF, 0, 0, 0, 32⟩,  -- CHP_COMMIT_MASK R556
  ⟨0x0104, 0, 1, 0, 0xFFFFFFFA, 0, 5, 0, 32⟩,  -- CHP_COMMIT_CTRL R556
  ⟨0x0108, 0, 1, 0, 0xFFFFFFFF, 0, 0, 0, 32⟩,  -- CHP_COMMIT_AT_LO R556
  ⟨0x010C, 0, 1, 0, 0xFFFFFFFF, 0, 0, 0, 32⟩,  -- CHP_COMMIT_AT_HI R556
  ⟨0x0110, 0, 1, 0xFFFFFFFF, 0, 0, 0, 0, 0⟩,  -- CHP_NODE R560
  ⟨0x0120, 0, 1, 0, 0xFFFFFFFF, 0, 0, 3, 32⟩,  -- CHP_INT_ROUTE R556
  ⟨0x0140, 0, 1, 0xFFFFFFFF, 0, 0, 0, 0, 1⟩,  -- CHP_TILE_RETIRE R191
  ⟨0x0144, 0, 1, 0xFFFFFFFF, 0, 0, 0, 0, 1⟩,  -- CHP_STACK_RETIRE R365
  ⟨0x0160, 0, 1, 0xFFFFFFFF, 0, 0, 0, 1, 6⟩,  -- CHP_ZLY_CTRL R249
  ⟨0x0190, 0, 1, 0, 0, 0, 0xFFFFFFFF, 0, 32⟩,  -- CHP_CHATTER_CLR R635
  ⟨0x0800, 0, 1, 0, 0, 2, 0, 0, 32⟩,  -- CHP_COMMIT_STATUS R556
  ⟨0x0808, 0, 1, 0, 0, 0, 0, 0, 32⟩,  -- CHP_COMMIT_GEN R556
  ⟨0x080C, 0, 1, 0, 0, 0, 0, 0, 32⟩,  -- CHP_EPOCH R556
  ⟨0x0820, 0, 1, 0, 0, 0, 0, 0, 32⟩,  -- CHP_CFG_DIGEST_LO R556
  ⟨0x0824, 0, 1, 0, 0, 0, 0, 0, 32⟩,  -- CHP_CFG_DIGEST_HI R556
  ⟨0x0840, 0, 1, 0, 0, 0, 0, 0xFF005804, 32⟩,  -- CHP_IDENT R560
  ⟨0x0850, 0, 1, 0, 0, 0, 0, 0x1FC1, 32⟩,  -- CHP_ZLY_STATUS R249
  ⟨0x0858, 0, 1, 0, 0, 0, 0, 0, 32⟩,  -- CHP_POOL_ERR R365
  ⟨0x0860, 0, 1, 0, 0, 0, 0, 0, 32⟩,  -- CHP_BUS_ERR R556
  ⟨0x0868, 0, 1, 0, 0, 0, 0, 0, 32⟩,  -- CHP_PFAULT_LAST R612
  ⟨0x0870, 0, 1, 0, 0, 0, 0, 0, 32⟩,  -- CHP_BOOT_STATUS R612
  ⟨0x0880, 4, 9, 0, 0, 0, 0, 0, 32⟩,  -- CHP_INT_SUM(i) R556
  ⟨0x08B0, 0, 1, 0, 0, 0, 0, 0, 32⟩,  -- CHP_PIN_STATUS R635
  ⟨0x08C0, 4, 8, 0, 0, 0, 0, 6, 32⟩,  -- CHP_SEQ_STATUS(s) R612
  ⟨0x0900, 4, 32, 0, 0, 0, 0, 0, 32⟩,  -- CHP_CTX_INT_SUM(i) R556
  ⟨0x0A40, 0, 1, 0, 0, 0, 0, 0, 32⟩,  -- CHP_ROUTE_SPRAY_FALLBACK_CNT R191
  ⟨0x0A48, 0, 1, 0, 0, 0, 0, 0, 32⟩,  -- CHP_BUS_ERR_CNT R556
  ⟨0x0A4C, 0, 1, 0, 0, 0, 0, 0, 32⟩,  -- CHP_TMR_SCRUB_CNT R556
  ⟨0x0A50, 0, 1, 0, 0, 0, 0, 0, 32⟩,  -- CHP_EPOCH_SKEW_CNT R556
  ⟨0x0A54, 0, 1, 0, 0, 0, 0, 0, 32⟩,  -- CHP_COMMIT_LATE_CNT R556
  ⟨0x0A58, 0, 1, 0, 0, 0, 0, 0, 32⟩,  -- CHP_COMMIT_REFUSED_CNT R556
  ⟨0x0A5C, 0, 1, 0, 0, 0, 0, 0, 32⟩,  -- CHP_PFAULT_CNT R612
  ⟨0x0A60, 0, 1, 0, 0, 0, 0, 0, 32⟩,  -- CHP_PFAULT_TX_CNT R612
  ⟨0x0A64, 0, 1, 0, 0, 0, 0, 0, 32⟩,  -- CHP_PFAULT_SUPP_CNT R612
  ⟨0x0A68, 0, 1, 0, 0, 0, 0, 0, 32⟩  -- CHP_CHATTER_CNT R635
  ]

def rows_guard : List RegRow := [
  ⟨0x0100, 0, 1, 0, 0xFFFFFFF9, 0, 6, 0, 32⟩,  -- GRD_CTRL R461
  ⟨0x0108, 0, 1, 0, 0xFFFFFFFF, 0, 0, 0, 32⟩,  -- GRD_AT_LO R461
  ⟨0x010C, 0, 1, 0, 0xFFFFFFFF, 0, 0, 0, 32⟩,  -- GRD_AT_HI R461
  ⟨0x0110, 0, 1, 0, 0, 0, 0xFFFFFFFF, 0, 32⟩,  -- GRD_APPROVE_LO R461
  ⟨0x0114, 0, 1, 0, 0, 0, 0xFFFFFFFF, 0, 32⟩,  -- GRD_APPROVE_HI R461
  ⟨0x0140, 0, 1, 0, 0xFFFFF7FF, 0, 0x800, 0, 32⟩,  -- GRD_RELAY_CTRL R461
  ⟨0x0144, 0, 1, 0, 0xFFFFFFFF, 0, 0, 0, 32⟩,  -- GRD_RELAY_ADDR_LO R461
  ⟨0x0148, 0, 1, 0, 0xFFFFFFFF, 0, 0, 0, 32⟩,  -- GRD_RELAY_ADDR_HI R461
  ⟨0x014C, 0, 1, 0, 0xFFFFFFFF, 0, 0, 0, 32⟩,  -- GRD_RELAY_DATA R461
  ⟨0x0180, 0, 1, 0xFFFFFFFF, 0, 0, 0, 1, 33⟩,  -- GRD_ENFORCE R461
  ⟨0x0184, 0, 1, 0xFFFFFFFF, 0, 0, 0, 0, 33⟩,  -- GRD_MGR R435
  ⟨0x0800, 0, 1, 0, 0, 0, 0, 0, 32⟩,  -- GRD_STATE R461
  ⟨0x0808, 0, 1, 0, 0, 0, 0, 0, 32⟩,  -- GRD_DIGEST_LO R461
  ⟨0x080C, 0, 1, 0, 0, 0, 0, 0, 32⟩,  -- GRD_DIGEST_HI R461
  ⟨0x0818, 0, 1, 0, 0, 0, 0, 0, 32⟩,  -- GRD_REMAIN R461
  ⟨0x0820, 0, 1, 0, 0, 0, 0, 0, 32⟩,  -- GRD_ERR R461
  ⟨0x0824, 0, 1, 0, 0, 0, 0, 0, 32⟩,  -- GRD_ERR_ADDR_LO R461
  ⟨0x0828, 0, 1, 0, 0, 0, 0, 0, 32⟩,  -- GRD_ERR_ADDR_HI R461
  ⟨0x0830, 0, 1, 0, 0, 0, 0, 0, 32⟩,  -- GRD_HOLD_TILE R461
  ⟨0x0834, 0, 1, 0, 0, 0, 0, 0, 32⟩,  -- GRD_HOLD_CLU R461
  ⟨0x0840, 0, 1, 0, 0, 0, 0, 0, 32⟩,  -- GRD_RELAY_STATUS R461
  ⟨0x0900, 0, 1, 0, 0, 0, 0, 0, 32⟩,  -- GRD_COMMIT_CNT R461
  ⟨0x0904, 0, 1, 0, 0, 0, 0, 0, 32⟩,  -- GRD_APPROVE_BAD_CNT R461
  ⟨0x0908, 0, 1, 0, 0, 0, 0, 0, 32⟩,  -- GRD_EXPIRED_CNT R461
  ⟨0x090C, 0, 1, 0, 0, 0, 0, 0, 32⟩,  -- GRD_STAGE_REFUSED_CNT R461
  ⟨0x0910, 0, 1, 0, 0, 0, 0, 0, 32⟩,  -- GRD_HELD_CNT R461
  ⟨0x0914, 0, 1, 0, 0, 0, 0, 0, 32⟩,  -- GRD_TORN_CNT R461
  ⟨0x0918, 0, 1, 0, 0, 0, 0, 0, 32⟩,  -- GRD_RELAY_REFUSED_CNT R461
  ⟨0x091C, 0, 1, 0, 0, 0, 0, 0, 32⟩  -- GRD_MGR_REFUSED_CNT R461
  ]

def rows_power : List RegRow := [
  ⟨0x0100, 0, 1, 0xFFFFFFFF, 0, 0, 0, 0, 12⟩,  -- PWR_SHED_FLOOR R581
  ⟨0x0104, 0, 1, 0xFFFFFFFF, 0, 0, 0, 0x64014, 12⟩,  -- PWR_SLEW_CTRL R581
  ⟨0x0108, 0, 1, 0xFFFFFFFF, 0, 0, 0, 0x16AEE, 12⟩,  -- PWR_CAP_CTRL R581
  ⟨0x010C, 0, 1, 0xFFFFFFFF, 0, 0, 0, 0x5F6E5F, 12⟩,  -- PWR_THERM_CTRL R581
  ⟨0x0140, 0, 1, 0, 0xFFFFF9FF, 0, 0, 0, 32⟩,  -- PWR_GATE_CTRL R581
  ⟨0x0800, 0, 1, 0, 0, 0, 0, 0x1F80000, 32⟩,  -- PWR_SHED_STATUS R581
  ⟨0x0810, 0, 1, 0, 0, 0, 0, 0, 32⟩,  -- PWR_EST_STATUS R581
  ⟨0x0818, 0, 1, 0, 0, 0, 0, 0x10000000, 32⟩,  -- PWR_EST_CAL R581
  ⟨0x0820, 0, 1, 0, 0, 0, 0, 0, 32⟩,  -- PWR_THERM_STATUS R581
  ⟨0x0900, 0, 1, 0, 0, 0, 0, 0, 32⟩,  -- PWR_SHED1_CNT R581
  ⟨0x0904, 0, 1, 0, 0, 0, 0, 0, 32⟩,  -- PWR_SHED2_CNT R581
  ⟨0x0908, 0, 1, 0, 0, 0, 0, 0, 32⟩,  -- PWR_SHED3_CNT R581
  ⟨0x090C, 0, 1, 0, 0, 0, 0, 0, 32⟩,  -- PWR_SHED4_CNT R581
  ⟨0x0910, 0, 1, 0, 0, 0, 0, 0, 32⟩,  -- PWR_SLEW_THROTTLE_CNT R581
  ⟨0x0914, 0, 1, 0, 0, 0, 0, 0, 32⟩  -- PWR_CAL_REJECT_CNT R581
  ]

def rows_stitch : List RegRow := [
  ⟨0x0100, 0, 1, 0xFFFFFFFF, 0, 0, 0, 4, 0⟩,  -- STH_CTRL R73
  ⟨0x0104, 0, 1, 0xFFFFFFFF, 0, 0, 0, 0, 0⟩,  -- STH_IN_DELAY R73
  ⟨0x0108, 0, 1, 0xFFFFFFFF, 0, 0, 0, 0x7D0, 0⟩,  -- STH_HOLDOVER_LIMIT R73
  ⟨0x0110, 0, 1, 0xFFFFFFFF, 0, 0, 0, 0, 0⟩,  -- STH_SEED_LO R73
  ⟨0x0114, 0, 1, 0xFFFFFFFF, 0, 0, 0, 0, 0⟩,  -- STH_SEED_HI R73
  ⟨0x0800, 0, 1, 0, 0, 0, 0, 0, 32⟩,  -- STH_STATUS R73
  ⟨0x0808, 0, 1, 0, 0, 0, 0, 0, 32⟩,  -- STH_NOW_LO R73
  ⟨0x080C, 0, 1, 0, 0, 0, 0, 0, 32⟩,  -- STH_NOW_HI R73
  ⟨0x0810, 0, 1, 0, 0, 0, 0, 0, 32⟩,  -- STH_CYCLE R73
  ⟨0x0820, 0, 1, 0, 0, 0, 0, 0, 32⟩,  -- STH_FRAME_ERR R73
  ⟨0x0824, 0, 1, 0, 0, 0, 0, 0, 32⟩  -- STH_NUM_MISMATCH R73
  ]

def rows_mdr : List RegRow := [
  ⟨0x0100, 0, 1, 0xFFFFFFFF, 0, 0, 0, 0, 7⟩,  -- MDR_MAP_BASE_LO R251
  ⟨0x0104, 0, 1, 0xFFFFFFFF, 0, 0, 0, 0, 7⟩,  -- MDR_MAP_BASE_HI R251
  ⟨0x0108, 0, 1, 0xFFFFFFFF, 0, 0, 0, 0xC0, 7⟩,  -- MDR_MAP_CTRL R251
  ⟨0x0110, 0, 1, 0xFFFFFFFF, 0, 0, 0, 0, 7⟩,  -- MDR_SMP_BASE_LO R251
  ⟨0x0114, 0, 1, 0xFFFFFFFF, 0, 0, 0, 0, 7⟩,  -- MDR_SMP_BASE_HI R251
  ⟨0x0118, 0, 1, 0xFFFFFFFF, 0, 0, 0, 0xC0, 7⟩,  -- MDR_SMP_CTRL R251
  ⟨0x0120, 8, 4, 0xFFFFFFFF, 0, 0, 0, 0, 7⟩,  -- MDR_SMP_SEL(c) R251
  ⟨0x0124, 8, 4, 0xFFFFFFFF, 0, 0, 0, 0, 7⟩,  -- MDR_SMP_KEY(c) R251
  ⟨0x0140, 4, 4, 0xFFFFFFFF, 0, 0, 0, 0x10000, 7⟩,  -- MDR_SMP_N(c) R251
  ⟨0x0800, 0, 1, 0, 0, 0, 0, 0, 32⟩,  -- MDR_MAP_PROD R251
  ⟨0x0804, 0, 1, 0, 0xFFFFFFFF, 0, 0, 0, 32⟩,  -- MDR_MAP_CONS R251
  ⟨0x0808, 0, 1, 0, 0, 0, 0, 0, 32⟩,  -- MDR_SMP_PROD R251
  ⟨0x080C, 0, 1, 0, 0xFFFFFFFF, 0, 0, 0, 32⟩,  -- MDR_SMP_CONS R251
  ⟨0x0900, 0, 1, 0, 0, 0, 0, 0, 32⟩,  -- MDR_MAP_LATE_CNT R251
  ⟨0x0904, 0, 1, 0, 0, 0, 0, 0, 32⟩,  -- MDR_MAP_FULL_CNT R251
  ⟨0x0908, 0, 1, 0, 0, 0, 0, 0, 32⟩,  -- MDR_MAP_SHED_CNT R251
  ⟨0x090C, 0, 1, 0, 0, 0, 0, 0, 32⟩,  -- MDR_SMP_TAKEN_CNT R251
  ⟨0x0910, 0, 1, 0, 0, 0, 0, 0, 32⟩,  -- MDR_SMP_LATE_CNT R251
  ⟨0x0914, 0, 1, 0, 0, 0, 0, 0, 32⟩,  -- MDR_SMP_FULL_CNT R251
  ⟨0x0918, 0, 1, 0, 0, 0, 0, 0, 32⟩,  -- MDR_SMP_RATE_CNT R251
  ⟨0x091C, 0, 1, 0, 0, 0, 0, 0, 32⟩  -- MDR_SMP_SHED_CNT R251
  ]

def rows_trace : List RegRow := [
  ⟨0x0100, 0, 1, 0xFFFFFFFF, 0, 0, 0, 0xFFFF0001, 13⟩,  -- TRC_CTRL R613
  ⟨0x0800, 0, 1, 0, 0, 0, 0, 0, 32⟩,  -- TRC_STATUS R613
  ⟨0x0900, 0, 1, 0, 0, 0, 0, 0, 32⟩  -- TRC_LOST_CNT R613
  ]

def rows_port : List RegRow := [
  ⟨0x0100, 0, 1, 0xFFFFFFFF, 0, 0, 0, 9, 5⟩,  -- PRT_LINK_CTRL R504
  ⟨0x0108, 0, 1, 0xFFFFFFFF, 0, 0, 0, 4, 5⟩,  -- PRT_SLEEP_CTRL R504
  ⟨0x010C, 0, 1, 0xFFFFFFFF, 0, 0, 0, 0x3E8808, 5⟩,  -- PRT_RETRY_CTRL R504
  ⟨0x0180, 0, 1, 0xFFFFFFFF, 0, 0, 0, 0x100, 5⟩,  -- PRT_HOLD_CTRL R218
  ⟨0x0184, 0, 1, 0xFFFFFFFF, 0, 0, 0, 0x18001800, 5⟩,  -- PRT_CREDIT_ALLOC0 R218
  ⟨0x0188, 0, 1, 0xFFFFFFFF, 0, 0, 0, 0x4001800, 5⟩,  -- PRT_CREDIT_ALLOC1 R218
  ⟨0x018C, 0, 1, 0xFFFFFFFF, 0, 0, 0, 0xA000200, 5⟩,  -- PRT_CREDIT_ALLOC2 R218
  ⟨0x0190, 0, 1, 0xFFFFFFFF, 0, 0, 0, 0x1000100, 5⟩,  -- PRT_MARK_CTRL R248
  ⟨0x0800, 0, 1, 0, 0, 0, 0, 1, 32⟩,  -- PRT_LINK_STATUS R504
  ⟨0x0804, 0, 1, 0, 0, 0, 0, 0x7C, 32⟩,  -- PRT_SPEED_CAP R504
  ⟨0x0808, 0, 1, 0, 0, 0, 0, 0x3FF, 32⟩,  -- PRT_PARTNER R504
  ⟨0x0840, 0, 1, 0, 0, 0, 0, 0, 32⟩,  -- PRT_CREDIT_STATUS R218
  ⟨0x0844, 0, 1, 0, 0, 0, 0, 0, 32⟩,  -- PRT_TX_CREDIT0 R218
  ⟨0x0848, 0, 1, 0, 0, 0, 0, 0, 32⟩,  -- PRT_TX_CREDIT1 R218
  ⟨0x084C, 0, 1, 0, 0, 0, 0, 0, 32⟩,  -- PRT_TX_CREDIT2 R218
  ⟨0x0900, 0, 1, 0, 0, 0, 0, 0, 32⟩,  -- PRT_RUNT_CNT R100
  ⟨0x0904, 0, 1, 0, 0, 0, 0, 0, 32⟩,  -- PRT_MALFORMED_CNT R100
  ⟨0x0908, 0, 1, 0, 0, 0, 0, 0, 32⟩,  -- PRT_SRC_MISMATCH_CNT R100
  ⟨0x090C, 0, 1, 0, 0, 0, 0, 0, 32⟩,  -- PRT_PKEY_IN_CNT R100
  ⟨0x0910, 0, 1, 0, 0, 0, 0, 0, 32⟩,  -- PRT_PKEY_OUT_CNT R100
  ⟨0x0914, 0, 1, 0, 0, 0, 0, 0, 32⟩,  -- PRT_EPOCH_STALE_CNT R100
  ⟨0x0918, 0, 1, 0, 0, 0, 0, 0, 32⟩,  -- PRT_ROUTE_MISS_CNT R100
  ⟨0x091C, 0, 1, 0, 0, 0, 0, 0, 32⟩,  -- PRT_PKT_ERR_LAST R100
  ⟨0x0920, 0, 1, 0, 0, 0, 0, 0, 32⟩,  -- PRT_HOLD_GRAN_CNT R193
  ⟨0x0924, 0, 1, 0, 0, 0, 0, 0, 32⟩,  -- PRT_STOMP_TX_CNT R193
  ⟨0x0928, 0, 1, 0, 0, 0, 0, 0, 32⟩,  -- PRT_CT_TX_CNT R193
  ⟨0x092C, 0, 1, 0, 0, 0, 0, 0, 32⟩,  -- PRT_SF_TX_CNT R193
  ⟨0x0940, 0, 1, 0, 0, 0, 0, 0, 32⟩,  -- PRT_FLUSH_PKT_CNT R218
  ⟨0x0944, 0, 1, 0, 0, 0, 0, 0, 32⟩,  -- PRT_HOLD_DISCARD_CNT R218
  ⟨0x0948, 0, 1, 0, 0, 0, 0, 0, 32⟩,  -- PRT_RX_TRUNC_CNT R218
  ⟨0x094C, 0, 1, 0, 0, 0, 0, 0, 32⟩,  -- PRT_SHED_REFUSED_CNT R218
  ⟨0x0950, 0, 1, 0, 0, 0, 0, 0, 32⟩,  -- PRT_HOLD_RESUME_CNT R218
  ⟨0x0954, 0, 1, 0, 0, 0, 0, 0, 32⟩,  -- PRT_CREDIT_SHORT_CNT R218
  ⟨0x0958, 0, 1, 0, 0, 0, 0, 0, 32⟩,  -- PRT_MARK_CNT R248
  ⟨0x095C, 0, 1, 0, 0, 0, 0, 0, 32⟩,  -- PRT_ZLY_OFFPLAN_CNT R248
  ⟨0x0960, 0, 1, 0, 0, 0, 0, 0, 32⟩,  -- PRT_ZLY_LATE_CNT R248
  ⟨0x0964, 0, 1, 0, 0, 0, 0, 0, 32⟩,  -- PRT_ZLY_TEST_ERR_CNT R248
  ⟨0x0970, 0, 1, 0, 0, 0, 0, 0, 32⟩,  -- PRT_CRC_ERR_CNT R504
  ⟨0x0974, 0, 1, 0, 0, 0, 0, 0, 32⟩,  -- PRT_REPLAY_CNT R504
  ⟨0x0978, 0, 1, 0, 0, 0, 0, 0, 32⟩,  -- PRT_FEC_CORR_CNT R504
  ⟨0x097C, 0, 1, 0, 0, 0, 0, 0, 32⟩,  -- PRT_FEC_UNCORR_CNT R504
  ⟨0x0980, 0, 1, 0, 0, 0, 0, 0, 32⟩,  -- PRT_LINK_DOWN_CNT R504
  ⟨0x0984, 0, 1, 0, 0, 0, 0, 0, 32⟩,  -- PRT_WIDTH_CHANGE_CNT R504
  ⟨0x0988, 0, 1, 0, 0, 0, 0, 0, 32⟩,  -- PRT_SLEEP_ENTRY_CNT R504
  ⟨0x098C, 0, 1, 0, 0, 0, 0, 0, 32⟩,  -- PRT_CTRL_DROP_CNT R504
  ⟨0x0990, 0, 1, 0, 0, 0, 0, 0, 32⟩,  -- PRT_STEP_FAIL_CNT R504
  ⟨0x0994, 0, 1, 0, 0, 0, 0, 0, 32⟩,  -- PRT_TX_LOST_CNT R504
  ⟨0x0998, 0, 1, 0, 0, 0, 0, 0, 32⟩  -- PRT_STOMP_RX_CNT R504
  ]

def rows_tile : List RegRow := [
  ⟨0x0100, 0, 1, 0xFFFFFFFF, 0, 0, 0, 0x801, 3⟩,  -- TIL_FAB_CTRL R192
  ⟨0x0800, 0, 1, 0, 0, 0, 0, 0, 32⟩,  -- TIL_MID_STATUS R192
  ⟨0x0804, 0, 1, 0, 0, 0, 0, 0, 32⟩,  -- TIL_RESEQ_STATUS R192
  ⟨0x0930, 0, 1, 0, 0, 0, 0, 0, 32⟩,  -- TIL_CT_GRANT_CNT R192
  ⟨0x0934, 0, 1, 0, 0, 0, 0, 0, 32⟩,  -- TIL_CT_DENY_CNT R192
  ⟨0x0938, 0, 1, 0, 0, 0, 0, 0, 32⟩,  -- TIL_RESEQ_TIMEOUT_CNT R192
  ⟨0x093C, 0, 1, 0, 0, 0, 0, 0, 32⟩  -- TIL_VOID_CELL_CNT R192
  ]

def rows_cluster : List RegRow := [
  ⟨0x0200, 0, 1, 0xFFFFFFFF, 0, 0, 0, 0x330443, 4⟩,  -- CLU_BUF_ALPHA R217
  ⟨0x0204, 0, 1, 0xFFFFFFFF, 0, 0, 0, 0x8048208, 4⟩,  -- CLU_BUF_MIN R217
  ⟨0x0208, 0, 1, 0xFFFFFFFF, 0, 0, 0, 0x40007, 4⟩,  -- CLU_LINING_CTRL R217
  ⟨0x020C, 0, 1, 0xFFFFFFFF, 0, 0, 0, 0x40, 4⟩,  -- CLU_SVC_MARK R250
  ⟨0x0210, 0, 1, 0xFFFFFFFF, 0, 0, 0, 0x10080, 4⟩,  -- CLU_HBM_LAYOUT R364
  ⟨0x0214, 0, 1, 0xFFFFFFFF, 0, 0, 0, 0x1E50A28, 4⟩,  -- CLU_HBM_SHARE R364
  ⟨0x0218, 0, 1, 0xFFFFFFFF, 0, 0, 0, 0x3E80118, 4⟩,  -- CLU_SCRUB_CTRL R364
  ⟨0x0300, 0, 1, 0xFFFFFFFF, 0, 0, 0, 0x4E20, 4⟩,  -- CLU_SYNC_CTRL R158
  ⟨0x0A00, 0, 1, 0, 0, 0, 0, 0, 32⟩,  -- CLU_SYNC_WAITERS R158
  ⟨0x0A04, 0, 1, 0, 0, 0, 0, 0, 32⟩,  -- CLU_ATOM_INFLIGHT R158
  ⟨0x0A08, 0, 1, 0, 0, 0, 0, 0, 32⟩,  -- CLU_SYNC_HOT R158
  ⟨0x0A10, 0, 1, 0, 0, 0, 0, 0, 32⟩,  -- CLU_SYNC_OPS_CNT R158
  ⟨0x0A14, 0, 1, 0, 0, 0, 0, 0, 32⟩,  -- CLU_SYNC_NOTIFY_CNT R158
  ⟨0x0A18, 0, 1, 0, 0, 0, 0, 0, 32⟩,  -- CLU_SYNC_EXPIRED_CNT R158
  ⟨0x0A1C, 0, 1, 0, 0, 0, 0, 0, 32⟩,  -- CLU_SYNC_WAIT_FULL_CNT R158
  ⟨0x0A20, 0, 1, 0, 0, 0, 0, 0, 32⟩,  -- CLU_ATOM_POOL_CNT R158
  ⟨0x0A24, 0, 1, 0, 0, 0, 0, 0, 32⟩,  -- CLU_ATOM_PARK_CNT R158
  ⟨0x0A28, 0, 1, 0, 0, 0, 0, 0, 32⟩,  -- CLU_SYNC_POISON_CNT R158
  ⟨0x0A30, 0, 1, 0, 0, 0, 0, 0, 32⟩,  -- CLU_POOL_STATUS R217
  ⟨0x0A34, 0, 1, 0, 0, 0, 0, 0, 32⟩,  -- CLU_LINING_STATUS R217
  ⟨0x0A40, 0, 1, 0, 0, 0, 0, 0, 32⟩,  -- CLU_SPILL_PKT_CNT R217
  ⟨0x0A44, 0, 1, 0, 0, 0, 0, 0, 32⟩,  -- CLU_READBACK_PKT_CNT R217
  ⟨0x0A48, 0, 1, 0, 0, 0, 0, 0, 32⟩,  -- CLU_ADMIT_WAIT_CNT R217
  ⟨0x0A4C, 0, 1, 0, 0, 0, 0, 0, 32⟩,  -- LINING_POISON_CNT R217
  ⟨0x0A50, 0, 1, 0, 0, 0, 0, 0, 32⟩,  -- LINING_FULL_CNT R217
  ⟨0x0A60, 0, 1, 0, 0, 0, 0, 0x24000, 32⟩,  -- CLU_HBM_STATUS R364
  ⟨0x0A70, 0, 1, 0, 0, 0, 0, 0, 32⟩,  -- CLU_HBM_CE_CNT R364
  ⟨0x0A74, 0, 1, 0, 0, 0, 0, 0, 32⟩,  -- CLU_HBM_UE_CNT R364
  ⟨0x0A78, 0, 1, 0, 0, 0, 0, 0, 32⟩,  -- CLU_SCRUB_PASS_CNT R364
  ⟨0x0A7C, 0, 1, 0, 0, 0, 0, 0, 32⟩  -- CLU_RETIRE_DISCARD_CNT R364
  ]

def rows_die : List RegRow := [
  ⟨0x0800, 0, 1, 0, 0, 0, 0, 0x20, 32⟩,  -- DIE_D2D_STATUS R193
  ⟨0x0804, 0, 1, 0, 0, 0, 0, 0xFFFFFFFF, 32⟩,  -- DIE_D2D_MODULES R193
  ⟨0x0900, 0, 1, 0, 0, 0, 0, 0, 32⟩,  -- DIE_XD_WAIT_CNT R193
  ⟨0x0904, 0, 1, 0, 0, 0, 0, 0, 32⟩  -- DIE_D2D_RETIRE_CNT R612
  ]

def rows_serdes : List RegRow := [
  ⟨0x0100, 0, 1, 0, 0xFFFFFEFF, 0, 0x100, 0, 32⟩,  -- SDS_RECAL_CTRL R505
  ⟨0x0104, 0, 1, 0xFFFFFFFF, 0, 0, 0, 0x18, 10⟩,  -- SDS_MARGIN_CTRL R505
  ⟨0x0800, 0, 1, 0, 0, 0, 0, 0, 32⟩  -- SDS_RECAL_STATUS R505
  ]

def rows_ocu : List RegRow := [
  ⟨0x0100, 4, 4, 0xFFFFFFFF, 0, 0, 0, 0, 11⟩,  -- OCU_ENG_CTRL(s) R532
  ⟨0x0110, 0, 1, 0xFFFFFFFF, 0, 0, 0, 0x2043E8, 11⟩,  -- OCU_LOOP_CTRL R532
  ⟨0x0114, 0, 1, 0xFFFFFFFF, 0, 0, 0, 0x64, 11⟩,  -- OCU_PROBE_CTRL R532
  ⟨0x0118, 0, 1, 0, 0xFFFFFF7F, 0, 0x80, 0, 32⟩,  -- OCU_CAP_CTRL R532
  ⟨0x0800, 4, 4, 0, 0, 0, 0, 0x492000, 32⟩,  -- OCU_ENG_STATUS(s) R532
  ⟨0x0810, 4, 4, 0, 0, 0, 0, 0, 32⟩,  -- OCU_ENG_TEMP(s) R532
  ⟨0x0820, 0, 1, 0, 0, 0, 0, 0, 32⟩,  -- OCU_CAP_STATUS R532
  ⟨0x0830, 4, 2, 0, 0, 4, 0, 0, 32⟩,  -- OCU_ELS_STATUS(i) R532
  ⟨0x0900, 0, 1, 0, 0, 0, 0, 0, 32⟩,  -- OCU_LOS_CNT R532
  ⟨0x0904, 0, 1, 0, 0, 0, 0, 0, 32⟩,  -- OCU_CTL_CRC_CNT R532
  ⟨0x0908, 0, 1, 0, 0, 0, 0, 0, 32⟩,  -- OCU_RING_LOST_CNT R532
  ⟨0x090C, 0, 1, 0, 0, 0, 0, 0, 32⟩  -- OCU_REOPEN_CNT R532
  ]

def rows_pleat : List RegRow := [
  ⟨0x0100, 0, 1, 0xFFFFFFFF, 0, 0, 0, 0x4E20, 8⟩,  -- PLT_CTRL R288
  ⟨0x0104, 0, 1, 0xFFFFFFFF, 0, 0, 0, 0x8000400, 8⟩,  -- PLT_SPILL_CTRL R288
  ⟨0x0110, 0, 1, 0xFFFFFFFF, 0, 0, 0, 0, 8⟩,  -- PLT_ENG_RETIRE0 R288
  ⟨0x0114, 0, 1, 0xFFFFFFFF, 0, 0, 0, 0, 8⟩,  -- PLT_ENG_RETIRE1 R288
  ⟨0x0118, 0, 1, 0xFFFFFFFF, 0, 0, 0, 0, 8⟩,  -- PLT_ENG_RETIRE2 R288
  ⟨0x011C, 0, 1, 0xFFFFFFFF, 0, 0, 0, 0, 8⟩,  -- PLT_ENG_RETIRE3 R288
  ⟨0x0120, 0, 1, 0xFFFFFFFF, 0, 0, 0, 0, 8⟩,  -- PLT_ENG_RETIRE4 R288
  ⟨0x0800, 0, 1, 0, 0, 0, 0, 0, 32⟩,  -- PLT_STATUS R288
  ⟨0x0810, 4, 6, 0, 0, 0, 0, 0x20006000, 32⟩,  -- PLT_CLU_FREE(c) R288
  ⟨0x0830, 0, 1, 0, 0, 0, 0, 0, 32⟩,  -- PLT_DESC_ERR R288
  ⟨0x0834, 0, 1, 0, 0, 0, 0, 0, 32⟩,  -- PLT_BKT_DESC_ERR R344
  ⟨0x0900, 0, 1, 0, 0, 0, 0, 0, 32⟩,  -- PLT_CONTRIB_CNT R288
  ⟨0x0904, 0, 1, 0, 0, 0, 0, 0, 32⟩,  -- PLT_RESULT_CNT R288
  ⟨0x0908, 0, 1, 0, 0, 0, 0, 0, 32⟩,  -- PLT_PROTO_DROP_CNT R288
  ⟨0x090C, 0, 1, 0, 0, 0, 0, 0, 32⟩,  -- PLT_FAULTED_DROP_CNT R288
  ⟨0x0910, 0, 1, 0, 0, 0, 0, 0, 32⟩,  -- PLT_PAD_CNT R288
  ⟨0x0914, 0, 1, 0, 0, 0, 0, 0, 32⟩,  -- PLT_OVERFLOW_CNT R288
  ⟨0x0918, 0, 1, 0, 0, 0, 0, 0, 32⟩,  -- PLT_SPILL_CNT R288
  ⟨0x091C, 0, 1, 0, 0, 0, 0, 0, 32⟩,  -- PLT_RELOAD_CNT R288
  ⟨0x0920, 0, 1, 0, 0, 0, 0, 0, 32⟩,  -- PLT_DESCHED_CNT R288
  ⟨0x0924, 0, 1, 0, 0, 0, 0, 0, 32⟩,  -- PLT_ADMIT_WAIT_CNT R288
  ⟨0x0928, 0, 1, 0, 0, 0, 0, 0, 32⟩,  -- PLT_GROUP_FAULT_CNT R288
  ⟨0x092C, 0, 1, 0, 0, 0, 0, 0, 32⟩,  -- PLT_SAT_CNT R311
  ⟨0x0930, 0, 1, 0, 0, 0, 0, 0, 32⟩,  -- PLT_NAN_OUT_CNT R311
  ⟨0x0934, 0, 1, 0, 0, 0, 0, 0, 32⟩,  -- PLT_INF_OUT_CNT R311
  ⟨0x0938, 0, 1, 0, 0, 0, 0, 0, 32⟩,  -- PLT_BKT_DELIVER_CNT R344
  ⟨0x093C, 0, 1, 0, 0, 0, 0, 0, 32⟩,  -- PLT_BKT_DROP_REC_CNT R344
  ⟨0x0940, 0, 1, 0, 0, 0, 0, 0, 32⟩,  -- PLT_BKT_FILL_REC_CNT R344
  ⟨0x0944, 0, 1, 0, 0, 0, 0, 0, 32⟩  -- PLT_BKT_DROPMAP_CNT R344
  ]

def rows_cuff : List RegRow := [
  ⟨0x0800, 0, 1, 0, 0, 0, 0, 0, 32⟩,  -- CUF_STATUS R342
  ⟨0x0810, 4, 6, 0, 0, 0, 0, 0xB800, 32⟩,  -- CUF_STORE_FREE(c) R342
  ⟨0x0830, 0, 1, 0, 0, 0, 0, 0, 32⟩,  -- CUF_DESC_ERR R342
  ⟨0x0900, 0, 1, 0, 0, 0, 0, 0, 32⟩,  -- CUF_CONTRIB_CNT R342
  ⟨0x0904, 0, 1, 0, 0, 0, 0, 0, 32⟩,  -- CUF_ROUND_CNT R342
  ⟨0x0908, 0, 1, 0, 0, 0, 0, 0, 32⟩,  -- CUF_LATE_ROUND_CNT R342
  ⟨0x090C, 0, 1, 0, 0, 0, 0, 0, 32⟩,  -- CUF_LATE_DROP_CNT R342
  ⟨0x0910, 0, 1, 0, 0, 0, 0, 0, 32⟩,  -- CUF_EARLY_DROP_CNT R342
  ⟨0x0914, 0, 1, 0, 0, 0, 0, 0, 32⟩,  -- CUF_PROTO_DROP_CNT R342
  ⟨0x0918, 0, 1, 0, 0, 0, 0, 0, 32⟩,  -- CUF_FAULTED_DROP_CNT R342
  ⟨0x091C, 0, 1, 0, 0, 0, 0, 0, 32⟩,  -- CUF_RESULT_CNT R342
  ⟨0x0920, 0, 1, 0, 0, 0, 0, 0, 32⟩,  -- CUF_RESULT_DROP_CNT R342
  ⟨0x0924, 0, 1, 0, 0, 0, 0, 0, 32⟩,  -- CUF_SAT_CNT R342
  ⟨0x0928, 0, 1, 0, 0, 0, 0, 0, 32⟩  -- CUF_GROUP_FAULT_CNT R342
  ]

def rows_gusset : List RegRow := [
  ⟨0x0100, 0, 1, 0xFFFFFFFF, 0, 0, 0, 0x110087D0, 14⟩,  -- GST_CTRL R614
  ⟨0x0800, 0, 1, 0, 0, 0, 0, 0, 32⟩,  -- GST_STATUS R614
  ⟨0x0900, 0, 1, 0, 0, 0, 0, 0, 32⟩,  -- GST_DUP_DROP_CNT R614
  ⟨0x0904, 0, 1, 0, 0, 0, 0, 0, 32⟩,  -- GST_ABSORB_CNT R614
  ⟨0x0908, 0, 1, 0, 0, 0, 0, 0, 32⟩  -- GST_UNSUPPORTED_CNT R614
  ]

def rows_ctx : List RegRow := [
  ⟨0x0140, 0, 1, 0, 0xFFFFFFFF, 0, 0, 0, 32⟩,  -- CTX_DOORBELL R561
  ⟨0x0144, 0, 1, 0, 0x3FF, 0, 0, 0, 32⟩,  -- CTX_SYNC_SEL R561
  ⟨0x0800, 0, 1, 0, 0, 0, 0, 0, 32⟩,  -- CTX_BIND R561
  ⟨0x0900, 4, 128, 0, 0, 0, 0, 0, 32⟩  -- CTX_SYNC_WIN(j) R561
  ]

def rows_eId : List RegRow := [
  ⟨0x0100, 0, 1, 0xFFFFFFFF, 0, 0, 0, 0x3FF, 0⟩,  -- EP4_NODE R370
  ⟨0x0104, 0, 1, 0xFFFFFFFF, 0, 0, 0, 0, 0⟩,  -- EP4_PIN_SEED R375
  ⟨0x0108, 0, 1, 0xFFFFFFFF, 0, 0, 0, 0x20000, 0⟩,  -- EP4_ABORT_CTRL R432
  ⟨0x010C, 0, 1, 0xFFFFFFFF, 0, 0, 0, 1, 3⟩,  -- EP4_ZLY_CTRL R238
  ⟨0x0300, 0, 1, 0, 0xFFFFFFFF, 0, 0, 0, 32⟩,  -- EP4_COMMIT_MASK R556
  ⟨0x0304, 0, 1, 0, 0xFFFFFFFA, 0, 5, 0, 32⟩,  -- EP4_COMMIT_CTRL R556
  ⟨0x0308, 0, 1, 0, 0xFFFFFFFF, 0, 0, 0, 32⟩,  -- EP4_COMMIT_AT_LO R556
  ⟨0x030C, 0, 1, 0, 0xFFFFFFFF, 0, 0, 0, 32⟩,  -- EP4_COMMIT_AT_HI R556
  ⟨0x0400, 0, 1, 0, 0xFFFFFFF9, 0, 6, 0, 32⟩,  -- EP4_GRD_CTRL R462
  ⟨0x0408, 0, 1, 0, 0xFFFFFFFF, 0, 0, 0, 32⟩,  -- EP4_GRD_AT_LO R462
  ⟨0x040C, 0, 1, 0, 0xFFFFFFFF, 0, 0, 0, 32⟩,  -- EP4_GRD_AT_HI R462
  ⟨0x0410, 0, 1, 0, 0, 0, 0xFFFFFFFF, 0, 32⟩,  -- EP4_GRD_APPROVE_LO R462
  ⟨0x0414, 0, 1, 0, 0, 0, 0xFFFFFFFF, 0, 32⟩,  -- EP4_GRD_APPROVE_HI R462
  ⟨0x0800, 0, 1, 0, 0, 0, 0, 0, 32⟩,  -- EP4_CAP0 R370
  ⟨0x0804, 0, 1, 0, 0, 0, 0, 0, 32⟩,  -- EP4_CAP1 R370
  ⟨0x0880, 0, 1, 0, 0, 2, 0, 0, 32⟩,  -- EP4_COMMIT_STATUS R556
  ⟨0x0888, 0, 1, 0, 0, 0, 0, 0, 32⟩,  -- EP4_COMMIT_GEN R556
  ⟨0x088C, 0, 1, 0, 0, 0, 0, 0, 32⟩,  -- EP4_EPOCH R556
  ⟨0x08A0, 0, 1, 0, 0, 0, 0, 0, 32⟩,  -- EP4_CFG_DIGEST_LO R556
  ⟨0x08A4, 0, 1, 0, 0, 0, 0, 0, 32⟩,  -- EP4_CFG_DIGEST_HI R556
  ⟨0x08B0, 0, 1, 0, 0, 0, 0, 0, 32⟩,  -- EP4_BUS_ERR R556
  ⟨0x08C0, 4, 2, 0, 0, 0, 0, 0, 32⟩,  -- EP4_INT_SUM(i) R556
  ⟨0x0910, 0, 1, 0, 0, 0, 0, 0, 32⟩,  -- EP4_DB_ERR_CNT R432
  ⟨0x0914, 0, 1, 0, 0, 0, 0, 0, 32⟩,  -- EP4_UNMATCHED_CNT R432
  ⟨0x0918, 0, 1, 0, 0, 0, 0, 0, 32⟩,  -- EP4_STRAY_RSP_CNT R432
  ⟨0x091C, 0, 1, 0, 0, 0, 0, 0, 32⟩,  -- EP4_PFAULT_RX_CNT R432
  ⟨0x0920, 0, 1, 0, 0, 0, 0, 0, 32⟩,  -- EP4_GRD_REFUSED_CNT R462
  ⟨0x0980, 4, 32, 0, 0, 0, 0, 0, 32⟩,  -- EP4_CTX_INT_SUM(i) R556
  ⟨0x0A00, 0, 1, 0, 0, 0, 0, 0, 32⟩,  -- EP4_GRD_STATE R462
  ⟨0x0A08, 0, 1, 0, 0, 0, 0, 0, 32⟩,  -- EP4_GRD_DIGEST_LO R462
  ⟨0x0A0C, 0, 1, 0, 0, 0, 0, 0, 32⟩,  -- EP4_GRD_DIGEST_HI R462
  ⟨0x0A18, 0, 1, 0, 0, 0, 0, 0, 32⟩,  -- EP4_GRD_REMAIN R462
  ⟨0x0A20, 0, 1, 0, 0, 0, 0, 0, 32⟩,  -- EP4_GRD_ERR R462
  ⟨0x0A24, 0, 1, 0, 0, 0, 0, 0, 32⟩,  -- EP4_GRD_ERR_ADDR_LO R462
  ⟨0x0A28, 0, 1, 0, 0, 0, 0, 0, 32⟩,  -- EP4_GRD_ERR_ADDR_HI R462
  ⟨0x0A48, 0, 1, 0, 0, 0, 0, 0, 32⟩,  -- EP4_BUS_ERR_CNT R556
  ⟨0x0A4C, 0, 1, 0, 0, 0, 0, 0, 32⟩,  -- EP4_TMR_SCRUB_CNT R556
  ⟨0x0A50, 0, 1, 0, 0, 0, 0, 0, 32⟩,  -- EP4_EPOCH_SKEW_CNT R556
  ⟨0x0A54, 0, 1, 0, 0, 0, 0, 0, 32⟩,  -- EP4_COMMIT_LATE_CNT R556
  ⟨0x0A58, 0, 1, 0, 0, 0, 0, 0, 32⟩  -- EP4_COMMIT_REFUSED_CNT R556
  ]

def rows_eTim : List RegRow := [
  ⟨0x0100, 0, 1, 0xFFFFFFFF, 0, 0, 0, 0x7D00000, 0⟩,  -- EP4_TIM_CTRL R378
  ⟨0x0800, 0, 1, 0, 0, 0, 0, 0, 32⟩,  -- EP4_TIM_STATUS R378
  ⟨0x0810, 4, 16, 0, 0, 0, 0, 0, 32⟩,  -- EP4_TIM_OFFSET(j) R378
  ⟨0x0900, 0, 1, 0, 0, 0, 0, 0, 32⟩  -- EP4_TIM_NUM_MISMATCH R378
  ]

def rows_eRc : List RegRow := [
  ⟨0x0100, 0, 1, 0xFFFFFFFF, 0, 0, 0, 0x1484, 1⟩,  -- EP4_RC_CTRL R396
  ⟨0x0104, 0, 1, 0xFFFFFFFF, 0, 0, 0, 0x200010, 1⟩,  -- EP4_RC_RATE R396
  ⟨0x0800, 0, 1, 0, 0, 0, 0, 0, 32⟩,  -- EP4_RC_STATUS R396
  ⟨0x0900, 0, 1, 0, 0, 0, 0, 0, 32⟩  -- EP4_RC_EVICT R398
  ]

def rows_eMp : List RegRow := [
  ⟨0x0100, 0, 1, 0xFFFFFFFF, 0, 0, 0, 0, 33⟩,  -- EP4_MGR R435
  ⟨0x0900, 0, 1, 0, 0, 0, 0, 0, 32⟩,  -- EP4_MP_ERR_CNT R398
  ⟨0x0904, 0, 1, 0, 0, 0, 0, 0, 32⟩,  -- EP4_WIN_MISS_CNT R398
  ⟨0x0908, 0, 1, 0, 0, 0, 0, 0, 32⟩,  -- EP4_ATOM_WAIT_CNT R398
  ⟨0x090C, 0, 1, 0, 0, 0, 0, 0, 32⟩  -- EP4_MGR_REFUSED_CNT R398
  ]

def rows_eScr : List RegRow := [
  ⟨0x0800, 0, 1, 0, 0, 0, 0, 0, 32⟩,  -- EP4_RB_STATUS R393
  ⟨0x0900, 0, 1, 0, 0, 0, 0, 0, 32⟩,  -- EP4_RB_FULL_CNT R398
  ⟨0x0904, 0, 1, 0, 0, 0, 0, 0, 32⟩,  -- EP4_RB_HIT_CNT R398
  ⟨0x0908, 0, 1, 0, 0, 0, 0, 0, 32⟩  -- EP4_SCR_ECC_CNT R398
  ]

def rows_eHost : List RegRow := [
  ⟨0x0800, 0, 1, 0, 0, 0, 0, 0, 32⟩,  -- EP4_HOST_STATUS R395
  ⟨0x0900, 0, 1, 0, 0, 0, 0, 0, 32⟩,  -- EP4_AUTH_FAIL_CNT R462
  ⟨0x0904, 0, 1, 0, 0, 0, 0, 0, 32⟩  -- EP4_KEY_REFUSED_CNT R462
  ]

def rows_ePort : List RegRow := [
  ⟨0x0100, 0, 1, 0xFFFFFFFF, 0, 0, 0, 9, 3⟩,  -- PRT_LINK_CTRL R464
  ⟨0x0108, 0, 1, 0xFFFFFFFF, 0, 0, 0, 4, 3⟩,  -- PRT_SLEEP_CTRL R464
  ⟨0x010C, 0, 1, 0xFFFFFFFF, 0, 0, 0, 0x3E8808, 3⟩,  -- PRT_RETRY_CTRL R464
  ⟨0x0184, 0, 1, 0, 0, 0, 0, 0, 3⟩,  -- PRT_CREDIT_ALLOC0 R464
  ⟨0x0188, 0, 1, 0, 0, 0, 0, 0, 3⟩,  -- PRT_CREDIT_ALLOC1 R464
  ⟨0x018C, 0, 1, 0, 0, 0, 0, 0, 3⟩,  -- PRT_CREDIT_ALLOC2 R464
  ⟨0x0800, 0, 1, 0, 0, 0, 0, 0, 32⟩,  -- EP4_PRT_STATUS R378
  ⟨0x0804, 0, 1, 0, 0, 0, 0, 0x7C, 32⟩,  -- PRT_SPEED_CAP R464
  ⟨0x0808, 0, 1, 0, 0, 0, 0, 0x3FF, 32⟩,  -- PRT_PARTNER R464
  ⟨0x0844, 0, 1, 0, 0, 0, 0, 0, 32⟩,  -- PRT_TX_CREDIT0 R464
  ⟨0x0848, 0, 1, 0, 0, 0, 0, 0, 32⟩,  -- PRT_TX_CREDIT1 R464
  ⟨0x084C, 0, 1, 0, 0, 0, 0, 0, 32⟩,  -- PRT_TX_CREDIT2 R464
  ⟨0x0900, 0, 1, 0, 0, 0, 0, 0, 32⟩,  -- PRT_RUNT_CNT R464
  ⟨0x0904, 0, 1, 0, 0, 0, 0, 0, 32⟩,  -- PRT_MALFORMED_CNT R464
  ⟨0x0914, 0, 1, 0, 0, 0, 0, 0, 32⟩,  -- PRT_EPOCH_STALE_CNT R464
  ⟨0x091C, 0, 1, 0, 0, 0, 0, 0, 32⟩,  -- PRT_PKT_ERR_LAST R464
  ⟨0x0924, 0, 1, 0, 0, 0, 0, 0, 32⟩,  -- PRT_STOMP_TX_CNT R464
  ⟨0x0954, 0, 1, 0, 0, 0, 0, 0, 32⟩,  -- PRT_CREDIT_SHORT_CNT R464
  ⟨0x0970, 0, 1, 0, 0, 0, 0, 0, 32⟩,  -- PRT_CRC_ERR_CNT R464
  ⟨0x0974, 0, 1, 0, 0, 0, 0, 0, 32⟩,  -- PRT_REPLAY_CNT R464
  ⟨0x0978, 0, 1, 0, 0, 0, 0, 0, 32⟩,  -- PRT_FEC_CORR_CNT R464
  ⟨0x097C, 0, 1, 0, 0, 0, 0, 0, 32⟩,  -- PRT_FEC_UNCORR_CNT R464
  ⟨0x0980, 0, 1, 0, 0, 0, 0, 0, 32⟩,  -- PRT_LINK_DOWN_CNT R464
  ⟨0x0984, 0, 1, 0, 0, 0, 0, 0, 32⟩,  -- PRT_WIDTH_CHANGE_CNT R464
  ⟨0x0988, 0, 1, 0, 0, 0, 0, 0, 32⟩,  -- PRT_SLEEP_ENTRY_CNT R464
  ⟨0x098C, 0, 1, 0, 0, 0, 0, 0, 32⟩,  -- PRT_CTRL_DROP_CNT R464
  ⟨0x0990, 0, 1, 0, 0, 0, 0, 0, 32⟩,  -- PRT_STEP_FAIL_CNT R464
  ⟨0x0994, 0, 1, 0, 0, 0, 0, 0, 32⟩,  -- PRT_TX_LOST_CNT R464
  ⟨0x0998, 0, 1, 0, 0, 0, 0, 0, 32⟩  -- PRT_STOMP_RX_CNT R464
  ]

def rows_eEng : List RegRow := [
  ⟨0x0100, 0, 1, 0xFFFFFFFF, 0, 0, 0, 0, 33⟩,  -- EP4_ENG_BIND R430
  ⟨0x0800, 0, 1, 0, 0, 0, 0, 0, 32⟩,  -- EP4_ENG_STATUS R430
  ⟨0x0900, 0, 1, 0, 0, 0, 0, 0, 32⟩,  -- EP4_ENG_DESC_CNT R430
  ⟨0x0904, 0, 1, 0, 0, 0, 0, 0, 32⟩,  -- EP4_ENG_PKT_CNT R430
  ⟨0x0908, 0, 1, 0, 0, 0, 0, 0, 32⟩,  -- EP4_ENG_NACK_CNT R430
  ⟨0x090C, 0, 1, 0, 0, 0, 0, 0, 32⟩,  -- EP4_ENG_ABORT_CNT R430
  ⟨0x0910, 0, 1, 0, 0, 0, 0, 0, 32⟩  -- EP4_ENG_BADDESC_CNT R430
  ]

def rows_eCtx : List RegRow := [
  ⟨0x0100, 16, 32, 0xFFFFF000, 0, 0, 0, 0, 5⟩,  -- EP4_CTX_RING_LO(k) R431
  ⟨0x0104, 16, 32, 0xFFFFFFFF, 0, 0, 0, 0, 5⟩,  -- EP4_CTX_RING_HI(k) R431
  ⟨0x0108, 16, 32, 0x1F, 0, 0, 0, 4, 5⟩,  -- EP4_CTX_RING_SIZE(k) R431
  ⟨0x0300, 0, 1, 0xFFFFF000, 0, 0, 0, 0, 5⟩,  -- EP4_CTX_CQ_LO R431
  ⟨0x0304, 0, 1, 0xFFFFFFFF, 0, 0, 0, 0, 5⟩,  -- EP4_CTX_CQ_HI R431
  ⟨0x0308, 0, 1, 0x3F, 0, 0, 0, 4, 5⟩,  -- EP4_CTX_CQ_SIZE R431
  ⟨0x0800, 4, 32, 0, 0xFFFFFFFF, 0, 0, 0, 32⟩,  -- EP4_CTX_DB(k) R431
  ⟨0x0880, 4, 32, 0, 0, 0, 0, 0, 32⟩,  -- EP4_CTX_CONS(k) R431
  ⟨0x0900, 0, 1, 0, 0, 0, 0, 0, 32⟩,  -- EP4_CTX_CQ_PROD R431
  ⟨0x0904, 0, 1, 0, 0xFFFFFFFF, 0, 0, 0, 32⟩,  -- EP4_CTX_CQ_CONS R431
  ⟨0x0908, 0, 1, 0, 0, 0, 0x80000000, 0, 32⟩,  -- EP4_CTX_FAULT R431
  ⟨0x0A00, 4, 8, 0, 0, 0, 0xFFFFFFFF, 0, 32⟩,  -- EP4_CTX_KEY(i) R462
  ⟨0x0A20, 0, 1, 0, 0, 0, 0, 0, 32⟩,  -- EP4_CTX_CONF R462
  ⟨0x0A28, 0, 1, 0, 0, 0, 0, 0, 32⟩,  -- EP4_CTX_SEQ_TX_LO R462
  ⟨0x0A2C, 0, 1, 0, 0, 0, 0, 0, 32⟩,  -- EP4_CTX_SEQ_TX_HI R462
  ⟨0x0A30, 0, 1, 0, 0, 0, 0, 0, 32⟩,  -- EP4_CTX_SEQ_RX_LO R462
  ⟨0x0A34, 0, 1, 0, 0, 0, 0, 0, 32⟩  -- EP4_CTX_SEQ_RX_HI R462
  ]

def tabs_chip : List TabRow := [
  ⟨2, 1024, 1, 0, 0xFFFFFFFF, 0, 0, 0, 0xFF00, 2⟩,  -- route entry R164
  ⟨4, 64, 1, 0, 0, 0, 0, 0, 0, 32⟩  -- region status R365
  ]

def tabs_guard : List TabRow := [
  ⟨1, 9216, 1, 0, 0xFFFFFFFF, 0, 0, 0, 0, 33⟩,  -- key entry R436
  ⟨2, 256, 1, 0, 0xFFFFFFFF, 0, 0, 0, 0, 33⟩,  -- sync grant R436
  ⟨3, 1024, 1, 0, 0xFFFFFFFF, 0, 0, 0, 0, 33⟩,  -- SX-4 binding R439
  ⟨4, 256, 4, 0, 0xFFFFFFFF, 0, 0, 0, 0, 33⟩,  -- region word R349
  ⟨4, 256, 4, 1, 0xFFFFFFFF, 0, 0, 0, 0, 33⟩,  -- region word R349
  ⟨4, 256, 4, 2, 0xFFFFFFFF, 0, 0, 0, 0, 33⟩,  -- region word R349
  ⟨4, 256, 4, 3, 0xFFFFFFFF, 0, 0, 0, 0, 33⟩,  -- region word R349
  ⟨5, 36, 1, 0, 0xFFFFFFFF, 0, 0, 0, 0, 33⟩,  -- laser override R526
  ⟨6, 8, 1, 0, 0xFFFFFFFF, 0, 0, 0, 0, 33⟩,  -- slot selection R592
  ⟨7, 65536, 1, 0, 0xFFFFFFFF, 0, 0, 0, 0, 33⟩  -- image word R592
  ]

def tabs_trace : List TabRow := [
  ⟨1, 32768, 4, 0, 0, 0, 0, 0, 0, 32⟩,  -- trace record R613
  ⟨1, 32768, 4, 1, 0, 0, 0, 0, 0, 32⟩,  -- trace record R613
  ⟨1, 32768, 4, 2, 0, 0, 0, 0, 0, 32⟩,  -- trace record R613
  ⟨1, 32768, 4, 3, 0, 0, 0, 0, 0, 32⟩  -- trace record R613
  ]

def tabs_tile : List TabRow := [
  ⟨1, 864, 1, 0, 0, 0, 0, 0, 0, 32⟩  -- arbiter weight R192
  ]

def tabs_cluster : List TabRow := [
  ⟨2, 150, 1, 0, 0, 0, 0, 0, 0, 32⟩  -- account word R217
  ]

def tabs_serdes : List TabRow := [
  ⟨1, 1152, 8, 0, 0, 0, 0, 0, 0, 32⟩,  -- lane word R505
  ⟨1, 1152, 8, 1, 0, 0, 0, 0, 0, 32⟩,  -- lane word R505
  ⟨1, 1152, 8, 2, 0, 0, 0, 0, 0, 32⟩,  -- lane word R505
  ⟨1, 1152, 8, 3, 0, 0, 0, 0, 0, 32⟩,  -- lane word R505
  ⟨1, 1152, 8, 4, 0, 0, 0, 0, 0, 32⟩,  -- lane word R505
  ⟨1, 1152, 8, 5, 0, 0, 0, 0, 0, 32⟩,  -- lane word R505
  ⟨1, 1152, 8, 6, 0, 0, 0, 0, 0, 32⟩,  -- lane word reserved
  ⟨1, 1152, 8, 7, 0, 0, 0, 0, 0, 32⟩  -- lane word reserved
  ]

def tabs_ocu : List TabRow := [
  ⟨1, 1024, 8, 0, 0xFFFFFFFF, 0, 0, 0, 0x10000, 11⟩,  -- ring word R533
  ⟨1, 1024, 8, 1, 0xFFFFFFFF, 0, 0, 0, 0, 11⟩,  -- ring word R533
  ⟨1, 1024, 8, 2, 0xFFFFFFFF, 0, 0, 0, 0, 11⟩,  -- ring word R533
  ⟨1, 1024, 8, 3, 0xFFFFFFFF, 0, 0, 0, 0x180000, 11⟩,  -- ring word R533
  ⟨1, 1024, 8, 4, 0, 0, 0, 0, 0, 11⟩,  -- ring word R533
  ⟨1, 1024, 8, 5, 0xFFFFFFFF, 0, 0, 0, 0, 11⟩,  -- ring word reserved R533
  ⟨1, 1024, 8, 6, 0xFFFFFFFF, 0, 0, 0, 0, 11⟩,  -- ring word reserved R533
  ⟨1, 1024, 8, 7, 0xFFFFFFFF, 0, 0, 0, 0, 11⟩,  -- ring word reserved R533
  ⟨2, 1024, 1, 0, 0xFFFFFFFF, 0, 0, 0, 0, 11⟩,  -- table point R533
  ⟨3, 256, 1, 0, 0, 0, 0, 0, 0, 32⟩,  -- sample record R533
  ⟨4, 32, 2, 0, 0, 0xFFFEFFFF, 0, 0x10000, 0x8000, 32⟩,  -- connector word R533
  ⟨4, 32, 2, 1, 0, 0, 0x30000, 0, 0x8000, 32⟩,  -- connector word R533
  ⟨5, 32, 16, 0, 0, 0, 0, 0, 0, 32⟩,  -- ELS identity R533
  ⟨5, 32, 16, 1, 0, 0, 0, 0, 0, 32⟩,  -- ELS identity R533
  ⟨5, 32, 16, 2, 0, 0, 0, 0, 0, 32⟩,  -- ELS identity R533
  ⟨5, 32, 16, 3, 0, 0, 0, 0, 0, 32⟩,  -- ELS identity R533
  ⟨5, 32, 16, 4, 0, 0, 0, 0, 0, 32⟩,  -- ELS identity R533
  ⟨5, 32, 16, 5, 0, 0, 0, 0, 0, 32⟩,  -- ELS identity R533
  ⟨5, 32, 16, 6, 0, 0, 0, 0, 0, 32⟩,  -- ELS identity R533
  ⟨5, 32, 16, 7, 0, 0, 0, 0, 0, 32⟩,  -- ELS identity R533
  ⟨5, 32, 16, 8, 0, 0xFFFFFFFF, 0, 0, 0, 32⟩,  -- ELS ledger R533
  ⟨5, 32, 16, 9, 0, 0xFFFF, 0, 0, 0, 32⟩,  -- ELS ledger R533
  ⟨5, 32, 16, 10, 0, 0, 0, 0, 0, 32⟩,  -- ELS ledger R533
  ⟨5, 32, 16, 11, 0, 0, 0, 0, 0, 32⟩,  -- ELS reserved R533
  ⟨5, 32, 16, 12, 0, 0, 0, 0, 0, 32⟩,  -- ELS reserved R533
  ⟨5, 32, 16, 13, 0, 0, 0, 0, 0, 32⟩,  -- ELS reserved R533
  ⟨5, 32, 16, 14, 0, 0, 0, 0, 0, 32⟩,  -- ELS reserved R533
  ⟨5, 32, 16, 15, 0, 0, 0, 0, 0, 32⟩  -- ELS reserved R533
  ]

def tabs_pleat : List TabRow := [
  ⟨1, 131072, 16, 0, 0xFFFFFFFF, 0, 0, 0, 0, 8⟩,  -- Pleat descriptor R259
  ⟨1, 131072, 16, 1, 0xFFFFFFFF, 0, 0, 0, 0, 8⟩,  -- Pleat descriptor R259
  ⟨1, 131072, 16, 2, 0xFFFFFFFF, 0, 0, 0, 0, 8⟩,  -- Pleat descriptor R259
  ⟨1, 131072, 16, 3, 0xFFFFFFFF, 0, 0, 0, 0, 8⟩,  -- Pleat descriptor R259
  ⟨1, 131072, 16, 4, 0xFFFFFFFF, 0, 0, 0, 0, 8⟩,  -- Pleat descriptor R259
  ⟨1, 131072, 16, 5, 0xFFFFFFFF, 0, 0, 0, 0, 8⟩,  -- Pleat descriptor R259
  ⟨1, 131072, 16, 6, 0xFFFFFFFF, 0, 0, 0, 0x10, 8⟩,  -- Pleat descriptor R259
  ⟨1, 131072, 16, 7, 0xFFFFFFFF, 0, 0, 0, 0, 8⟩,  -- Pleat descriptor R259
  ⟨1, 131072, 16, 8, 0xFFFFFFFF, 0, 0, 0, 0, 8⟩,  -- Pleat descriptor R259
  ⟨1, 131072, 16, 9, 0xFFFFFFFF, 0, 0, 0, 0, 8⟩,  -- Pleat descriptor R259
  ⟨1, 131072, 16, 10, 0xFFFFFFFF, 0, 0, 0, 0, 8⟩,  -- Pleat descriptor R259
  ⟨1, 131072, 16, 11, 0xFFFFFFFF, 0, 0, 0, 0, 8⟩,  -- Pleat descriptor R259
  ⟨1, 131072, 16, 12, 0xFFFFFFFF, 0, 0, 0, 0x3FFFF, 8⟩,  -- Pleat descriptor R259
  ⟨1, 131072, 16, 13, 0, 0, 0, 0, 0, 8⟩,  -- Pleat descriptor reserved R259
  ⟨1, 131072, 16, 14, 0, 0, 0, 0, 0, 8⟩,  -- Pleat descriptor reserved R259
  ⟨1, 131072, 16, 15, 0, 0, 0, 0, 0, 8⟩,  -- Pleat descriptor reserved R259
  ⟨2, 32768, 4, 0, 0, 0, 0, 0, 0, 32⟩,  -- Pleat status R289
  ⟨2, 32768, 4, 1, 0, 0, 0, 0, 0, 32⟩,  -- Pleat status R289
  ⟨2, 32768, 4, 2, 0, 0, 0, 0, 0xFF, 32⟩,  -- Pleat status R289
  ⟨2, 32768, 4, 3, 0, 0, 0, 0xFFFFFFFF, 0, 32⟩,  -- Pleat status R289
  ⟨3, 131072, 1, 0, 0xFFFFFFFF, 0, 0, 0, 0, 8⟩,  -- member entry R260
  ⟨4, 65536, 1, 0, 0xFFFFFFFF, 0, 0, 0, 0, 8⟩,  -- owner entry R260
  ⟨5, 8192, 8, 0, 0xFFFFFFFF, 0, 0, 0, 0, 8⟩,  -- bucket descriptor R333
  ⟨5, 8192, 8, 1, 0xFFFFFFFF, 0, 0, 0, 0, 8⟩,  -- bucket descriptor R333
  ⟨5, 8192, 8, 2, 0xFFFFFFFF, 0, 0, 0, 0, 8⟩,  -- bucket descriptor R333
  ⟨5, 8192, 8, 3, 0xFFFFFFFF, 0, 0, 0, 0, 8⟩,  -- bucket descriptor R333
  ⟨5, 8192, 8, 4, 0xFFFFFFFF, 0, 0, 0, 0, 8⟩,  -- bucket descriptor R333
  ⟨5, 8192, 8, 5, 0xFFFFFFFF, 0, 0, 0, 0, 8⟩,  -- bucket descriptor R333
  ⟨5, 8192, 8, 6, 0xFFFFFFFF, 0, 0, 0, 0x10, 8⟩,  -- bucket descriptor R333
  ⟨5, 8192, 8, 7, 0xFFFFFFFF, 0, 0, 0, 0x3FFFF, 8⟩,  -- bucket descriptor R333
  ⟨6, 4096, 4, 0, 0, 0, 0, 0, 0, 32⟩,  -- bucket status R341
  ⟨6, 4096, 4, 1, 0, 0, 0, 0, 0, 32⟩,  -- bucket status R341
  ⟨6, 4096, 4, 2, 0, 0, 0, 0, 0xFF, 32⟩,  -- bucket status R341
  ⟨6, 4096, 4, 3, 0, 0, 0, 0xFFFFFFFF, 0, 32⟩  -- bucket status R341
  ]

def tabs_cuff : List TabRow := [
  ⟨1, 2048, 4, 0, 0xFFFFFFFF, 0, 0, 0, 0, 9⟩,  -- Cuff descriptor R313
  ⟨1, 2048, 4, 1, 0xFFFFFFFF, 0, 0, 0, 0, 9⟩,  -- Cuff descriptor R313
  ⟨1, 2048, 4, 2, 0xFFFFFFFF, 0, 0, 0, 0, 9⟩,  -- Cuff descriptor R313
  ⟨1, 2048, 4, 3, 0xFFFFFFFF, 0, 0, 0, 0, 9⟩,  -- Cuff descriptor R313
  ⟨2, 2048, 4, 0, 0, 0, 0, 0, 0, 32⟩,  -- Cuff status R343
  ⟨2, 2048, 4, 1, 0, 0, 0, 0, 0, 32⟩,  -- Cuff status R343
  ⟨2, 2048, 4, 2, 0, 0, 0, 0, 0xFFFF, 32⟩,  -- Cuff status R343
  ⟨2, 2048, 4, 3, 0, 0, 0, 0xFFFFFFFF, 0, 32⟩,  -- Cuff status R343
  ⟨3, 73728, 1, 0, 0xFFFFFFFF, 0, 0, 0, 0, 9⟩,  -- Cuff member entry R312
  ⟨4, 73728, 1, 0, 0, 0xFFFFFFFF, 0, 0, 0, 32⟩  -- member counters R343
  ]

def tabs_gusset : List TabRow := [
  ⟨1, 8, 1, 0, 0xFFFFFFFF, 0, 0, 0, 0, 14⟩,  -- pair word R614
  ⟨2, 64, 8, 0, 0, 0, 0, 0, 0, 32⟩,  -- pair status R614
  ⟨2, 64, 8, 1, 0, 0, 0, 0, 0, 32⟩,  -- pair status R614
  ⟨2, 64, 8, 2, 0, 0, 0, 0, 0, 32⟩,  -- pair status R614
  ⟨2, 64, 8, 3, 0, 0, 0, 0, 0, 32⟩,  -- pair status R614
  ⟨2, 64, 8, 4, 0, 0, 0, 0, 0, 32⟩,  -- pair status R614
  ⟨2, 64, 8, 5, 0, 0, 0, 0, 0, 32⟩,  -- pair status R614
  ⟨2, 64, 8, 6, 0, 0, 0, 0, 0, 32⟩,  -- pair status R614
  ⟨2, 64, 8, 7, 0, 0, 0, 0, 0, 32⟩  -- pair status R614
  ]

def tabs_eId : List TabRow := [
  ⟨1, 1024, 1, 0, 0xFFFFFFFF, 0, 0, 0, 0xFFFF, 0⟩  -- reach entry R374
  ]

def tabs_eMp : List TabRow := [
  ⟨1, 512, 8, 0, 0xFFFFFFFF, 0, 0, 0, 0, 33⟩,  -- export window R386
  ⟨1, 512, 8, 1, 0xFFFFFFFF, 0, 0, 0, 0, 33⟩,  -- export window R386
  ⟨1, 512, 8, 2, 0xFFFFFFFF, 0, 0, 0, 0, 33⟩,  -- export window R386
  ⟨1, 512, 8, 3, 0xFFFFFFFF, 0, 0, 0, 0, 33⟩,  -- export window R386
  ⟨1, 512, 8, 4, 0xFFFFFFFF, 0, 0, 0, 0, 33⟩,  -- export window R386
  ⟨1, 512, 8, 5, 0xFFFFFFFF, 0, 0, 0, 0, 33⟩,  -- export window R386
  ⟨1, 512, 8, 6, 0, 0, 0, 0, 0, 33⟩,  -- export window reserved R386
  ⟨1, 512, 8, 7, 0, 0, 0, 0, 0, 33⟩,  -- export window reserved R386
  ⟨2, 4096, 4, 0, 0xFFFFFFFF, 0, 0, 0, 0, 33⟩,  -- local window R404
  ⟨2, 4096, 4, 1, 0xFFFFFFFF, 0, 0, 0, 0, 33⟩,  -- local window R404
  ⟨2, 4096, 4, 2, 0xFFFFFFFF, 0, 0, 0, 0, 33⟩,  -- local window R404
  ⟨2, 4096, 4, 3, 0xFFFFFFFF, 0, 0, 0, 0, 33⟩,  -- local window R404
  ⟨3, 4096, 4, 0, 0xFFFFFFFF, 0, 0, 0, 0, 33⟩,  -- EP-4 binding R440
  ⟨3, 4096, 4, 1, 0xFFFFF000, 0, 0, 0, 0, 33⟩,  -- EP-4 binding R440
  ⟨3, 4096, 4, 2, 0xFFFFFFFF, 0, 0, 0, 0, 33⟩,  -- EP-4 binding R440
  ⟨3, 4096, 4, 3, 0xFFFFFFFF, 0, 0, 0, 0, 33⟩  -- EP-4 binding R440
  ]

def tabs_eScr : List TabRow := [
  ⟨1, 1024, 1, 0, 0xFFFFFFFF, 0, 0, 0, 0, 33⟩  -- allocation word R391
  ]

/-- The direct registers of each page kind. -/
def directRows : PageKind → List RegRow
  | .chip => rows_chip
  | .guard => rows_guard
  | .power => rows_power
  | .stitch => rows_stitch
  | .mdr => rows_mdr
  | .trace => rows_trace
  | .port => rows_port
  | .tile => rows_tile
  | .cluster => rows_cluster
  | .die => rows_die
  | .serdes => rows_serdes
  | .ocu => rows_ocu
  | .pleat => rows_pleat
  | .cuff => rows_cuff
  | .gusset => rows_gusset
  | .ctx => rows_ctx
  | .eId => rows_eId
  | .eTim => rows_eTim
  | .eRc => rows_eRc
  | .eMp => rows_eMp
  | .eScr => rows_eScr
  | .eHost => rows_eHost
  | .ePort => rows_ePort
  | .eEng => rows_eEng
  | .eCtx => rows_eCtx

/-- The indirect tables of each page kind (R559, R369). -/
def tableRows : PageKind → List TabRow
  | .chip => tabs_chip
  | .guard => tabs_guard
  | .power => []
  | .stitch => []
  | .mdr => []
  | .trace => tabs_trace
  | .port => []
  | .tile => tabs_tile
  | .cluster => tabs_cluster
  | .die => []
  | .serdes => tabs_serdes
  | .ocu => tabs_ocu
  | .pleat => tabs_pleat
  | .cuff => tabs_cuff
  | .gusset => tabs_gusset
  | .ctx => []
  | .eId => tabs_eId
  | .eTim => []
  | .eRc => []
  | .eMp => tabs_eMp
  | .eScr => tabs_eScr
  | .eHost => []
  | .ePort => []
  | .eEng => []
  | .eCtx => []

end Sys2Proof.Machine
end

