-- ==== Sys2Proof/Config.lean ====
section
/-! DEFINITION. What an implementation fixes and this manual leaves to it, and the values it leaves open.

Every constant here that the manual does not state is opaque: nothing in Lean can evaluate it or prove a value of it, so a
claim about the model holds whatever it is. -/

namespace Sys2Proof.Config

/-- A fresh value that the manual leaves open: the `n`-th open value of a run, `w` bits of it (log 4).  The counter is
`Mach.freeCtr`. -/
opaque freeBits : (w : Nat) → Nat → BitVec w

/-- The silicon revision of CHP_IDENT, set at manufacture (R560). -/
opaque chipRevision : BitVec 8

/-- The ROM image words of sequencer `s` (R590, R592). -/
opaque romWord : Nat → Nat → Word

/-- EP4_HOST_STATUS [13:0] in a stitch: the host link's state, width and rate, which no command tells (R395, log 46). -/
opaque hostLink : Nat → BitVec 14

end Sys2Proof.Config
end

