-- ==== Sys2Proof/Machine/Tbl.lean ====
section
/-! DEFINITION. Sparse tables: the one form in which the model holds memories, register files and per-unit state.

A table is a list of (key, value) pairs in one canonical form: keys strictly rising, and no entry equal to what an unlisted
key reads as.  The value of an unlisted key is an argument of every operation, so that one table form serves memories
(an unwritten byte), registers (the reset value) and units (a unit at reset). -/

namespace Sys2Proof.Machine

/-- A sparse table from numbers to `α`. -/
abbrev Tbl (α : Type) := List (Nat × α)

namespace Tbl
variable {α : Type}

/-- The value at key `k`; `d k` where the table lists nothing. -/
def get (d : Nat → α) : Tbl α → Nat → α
  | [], k => d k
  | (j, v) :: t, k => if j = k then v else get d t k

/-- The table without key `k`. -/
def erase : Tbl α → Nat → Tbl α
  | [], _ => []
  | (j, v) :: t, k => if j = k then erase t k else (j, v) :: erase t k

/-- The table with `v` at key `k`, in rising order of keys; the key must not be listed. -/
def insert : Tbl α → Nat → α → Tbl α
  | [], k, v => [(k, v)]
  | (j, w) :: t, k, v => if k < j then (k, v) :: (j, w) :: t else (j, w) :: insert t k v

/-- Write `v` at key `k`.  Writing what an unlisted key reads as removes the entry, so equal contents are equal tables. -/
def set [DecidableEq α] (d : Nat → α) (t : Tbl α) (k : Nat) (v : α) : Tbl α :=
  if v = d k then erase t k else insert (erase t k) k v

/-- Change the value at key `k`. -/
def modify [DecidableEq α] (d : Nat → α) (t : Tbl α) (k : Nat) (f : α → α) : Tbl α :=
  set d t k (f (get d t k))

/-- Keys strictly rising, from a lower bound on. -/
def rising : Option Nat → Tbl α → Bool
  | _, [] => true
  | none, (j, _) :: t => rising (some j) t
  | some i, (j, _) :: t => decide (i < j) && rising (some j) t

/-- The canonical form: keys strictly rising, no entry equal to what an unlisted key reads as. -/
def wf [DecidableEq α] (d : Nat → α) (t : Tbl α) : Bool :=
  rising none t && t.all fun e => decide (e.2 ≠ d e.1)

end Tbl

/-- A byte memory: sparse bytes by address.  A byte that nothing has written reads 0 (DESIGN CHOICE, log 2). -/
abbrev Mem := Tbl Byte

namespace Mem

/-- What an unlisted byte reads as (log 2). -/
def unwritten : Nat → Byte := fun _ => 0

/-- One byte. -/
def read (m : Mem) (a : Nat) : Byte := Tbl.get unwritten m a

/-- Write one byte. -/
def write (m : Mem) (a : Nat) (b : Byte) : Mem := Tbl.set unwritten m a b

/-- `n` bytes from address `a`. -/
def readN (m : Mem) (a : Nat) : Nat → List Byte
  | 0 => []
  | n + 1 => read m a :: readN m (a + 1) n

/-- Write a list of bytes from address `a`. -/
def writeN (m : Mem) (a : Nat) : List Byte → Mem
  | [] => m
  | b :: bs => writeN (write m a b) (a + 1) bs

/-- The canonical form of a byte memory. -/
def wf (m : Mem) : Bool := Tbl.wf unwritten m

end Mem

end Sys2Proof.Machine
end

