-- ==== Sys2Proof/Machine/State.lean ====
section
/-! DEFINITION. The state of the block: everything the spec gives one SX-4 and the EP-4 instance attached to it, as plain
data, with the queue of waiting commands; the reasons a command can stop; and the state after power-on reset.

Per-unit state (a port, a tile, a group, a context) stands in sparse tables (`Tbl`) in which a unit at its reset state is
not listed.  Registers and table words have ONE home, the register file: a status register is written by the effect that
changes it and read back as it stands. -/

namespace Sys2Proof.Machine
open Sys2Proof

/-! ## Reasons to stop -/

/-- Why the block cannot carry out a command. -/
inductive Fault where
  /-- The command names a unit that the spec gives the chip none of: an SX-4 port above 143 (R19), a cluster above 5, an
  EP-4 port, engine or context beyond the instance's parameters (R367).  Raised by every meaning that takes a unit number.
  Safe: the hardware has no such unit, so no such command can arrive. -/
  | noSuchUnit
  /-- A write of 1 to a reserved write-only bit: the manual states no effect, and the chip is outside its specification until
  the next power-on reset (R537).  Raised by the meanings that write registers.  Safe: nothing is claimed of such a chip. -/
  | outsideSpecification
  deriving DecidableEq, Repr

/-- Why a command has no meaning in the model. -/
inductive Refusal where
  /-- The command's meaning is not written.  Raised by the dispatch alone.  Safe. -/
  | notModelled (mnemonic : String)
  deriving DecidableEq, Repr

/-! ## Outputs -/

/-- What the block drives outward: flits and control messages on its links, STITCH_OUT symbols, interrupts, answers of
register accesses, memory-port and host-bus requests, writes through the management port, pins. -/
inductive Out where
  | flit (c : Chip) (port : Nat) (f : Flit)
  | ctl (c : Chip) (port : Nat) (m : Ctl)
  | wakePattern (c : Chip) (port : Nat)
  | stitchOut (symbol : Nat)
  | irq (c : Chip) (path : Nat)
  | answer (c : Chip) (path : Path) (ok : Bool) (words : List Word)
  | memRequest (tag cmd addr len ord op : Nat) (poison : Bool) (data : List Byte)
  | hostRequest (id : Nat) (write : Bool) (addr : Nat) (len : Nat) (data : List Byte)
  | managementWrite (addr : Nat) (data : List Byte)
  | downFrame (engine : Nat) (bits : BitVec 736)
  | elsOn (module : Nat) (on : Bool)
  | elsRead (module : Nat)
  | thermTrip
  | alert
  | notify (ctx : Nat)
  | i3c (data : List Byte)
  deriving DecidableEq, Repr

/-! ## Registers (chapters "Register model" and "Register page index") -/

/-- An indirect window of one page for one path (R552). -/
structure Window where
  addr : Nat := 0
  ctrl : Nat := 0
  busy : Bool := false
  err : Bool := false
  timeout : Bool := false
  data : Word := 0
  /-- high half of a fetched 64-bit value, `data` being its low half (R157) -/
  high : Word := 0
  /-- the window stands at the high word (R157) -/
  atHigh : Bool := false
  /-- the low half written so far of a 64-bit value (R157) -/
  low : Option Word := none
  deriving DecidableEq, Repr

/-- A commit waiting for its hem (R543). -/
structure PendingCommit where
  mask : Nat
  at_ : Nat
  named : Bool
  epoch : Option Nat
  deriving DecidableEq, Repr

/-- A snapshot waiting for its hem (R551). -/
structure PendingSnap where
  page : Nat
  scope : Nat
  group : Nat
  at_ : Nat
  deriving DecidableEq, Repr

/-- The register file of one chip.  Keys are the item addresses of R452: page, window select, and byte offset or
IND_ADDR. -/
structure RegFile where
  /-- every bit that is not RWS: RW, W1C and RO words -/
  word : Tbl Word := []
  /-- the shadow copies of RWS words; for Guard items the staged copies (R450) -/
  shadow : Tbl Word := []
  /-- the live copies of RWS words -/
  live : Tbl Word := []
  /-- holding words and snapshot copies (R551) -/
  snap : Tbl Word := []
  /-- the live configuration from which the published digests were computed (R553) -/
  digested : Tbl Word := []
  /-- latches of 64-bit pairs by page and path (R550) -/
  latch : Tbl Word := []
  /-- indirect windows by page and path (R552) -/
  win : Tbl Window := []
  /-- status words of retired units' pages as they read at retirement, and a 1 at each such page's first word (R540) -/
  frozen : Tbl Word := []
  /-- triple-stored copies that an upset has changed: key, copy (0 to 2), bits flipped (R548) -/
  upsets : List (Nat × Nat × Word) := []
  commit : Option PendingCommit := none
  snaps : List PendingSnap := []
  /-- stitch by which the recomputation of digests that is running must end (R553) -/
  digestBy : Option Nat := none
  /-- shadow writes held until after the copy of a hem that applies their group (R544) -/
  held : List (Nat × Word) := []
  /-- words of tables that a commit has swapped, as lookups still see them until cycle 0 of the next stitch (R49) -/
  swapped : Tbl Word := []
  /-- stitch at which the chip's own epoch last changed (R554) -/
  epochChanged : Option Nat := none
  /-- an interrupt request line is raised (R555) -/
  requesting : Bool := false
  deriving DecidableEq, Repr

/-! ## Timing (chapter "The stitch timebase") -/

/-- The timing states of R63. -/
inductive TState where
  | free
  | acquiring
  | locked
  | holdover
  deriving DecidableEq, Repr

/-- The SX-4's stitch counter and its alignment. -/
structure Timing where
  number : Nat := 0
  cycle : Nat := 0
  st : TState := .free
  loaded : Bool := false
  inValid : Bool := false
  /-- last measured boundary error in 1/64-cycle units (R73) -/
  offset : Int := 0
  /-- consecutive stitches with the phase error within 0.1 ns (R63) -/
  goodPhase : Nat := 0
  /-- consecutive valid frames equal to the own count (R63, R65) -/
  goodFrames : Nat := 0
  /-- consecutive invalid frames (R63) -/
  badFrames : Nat := 0
  /-- stitches spent in HOLDOVER (R66) -/
  holdStitches : Nat := 0
  expired : Bool := false
  /-- stitches since a source loaded or a follower was committed to source (R64, R644) -/
  sourceStitches : Nat := 0
  /-- the role that was live at the last boundary (R64) -/
  wasSource : Bool := false
  /-- the frame in progress: the stitch k of the frame received last (R59) -/
  frameK : Option Nat := none
  /-- symbols of the frame in progress, stitch 1 upward -/
  frameBits : List Nat := []
  /-- number of the last valid frame, to be loaded at the next marker (R63) -/
  frameF : Option Nat := none
  deriving DecidableEq, Repr

/-- The EP-4's stitch counter and its alignment (R69 to R72). -/
structure EpTiming where
  number : Nat := 0
  cycle : Nat := 0
  st : TState := .free
  loaded : Bool := false
  estimated : Bool := false
  goodPhase : Nat := 0
  goodSets : Nat := 0
  lastSet : Option Nat := none
  holdStitches : Nat := 0
  expired : Bool := false
  silence : Nat := 0
  spreadRun : Nat := 0
  /-- per port: own receive and transmit times of the last ordered sets in the form of R483 plus 1, 0 for none, and the stitch of
  the last measurement -/
  exch : Tbl (Nat × Nat × Nat) := []
  deriving DecidableEq, Repr

/-! ## Links (chapter "Lanes and links") -/

/-- The states of a port's link (R504). -/
inductive LState where
  | down
  | s0
  | climbing
  | up
  | refused
  | disabled
  deriving DecidableEq, Repr

/-- One transmitted data flit that is not yet acknowledged, the packets it carries (for R489: key, opcode), and the EP-4
descriptors (64 times the engine plus the slot) whose packets end in it (R120). -/
structure HeldFlit where
  flit : Flit
  keys : List (Nat × Nat)
  since : Nat
  own : List Nat := []
  deriving DecidableEq, Repr

/-- The link of one port of either chip. -/
structure Link where
  st : LState := .s0
  step : Nat := 0
  mask : Nat := 0
  fec : Nat := 0
  /-- transmit direction: 0 awake, 1 light, 2 deep, 3 waking (R504) -/
  txSleep : Nat := 0
  rxSleep : Bool := false
  fresh : Bool := false
  refuse : Nat := 0
  /-- what negotiation recorded of the partner (R490) -/
  partner : Option CapMsg := none
  /-- the last CAP received since training began, and the one refused (R491) -/
  lastCap : Option CapMsg := none
  /-- epoch of the partner's last CAP or KEEPALIVE; the last value for which EPOCH_SKEW was raised (R554) -/
  partEpoch : Nat := 0
  skewFor : Option Nat := none
  /-- held at S0 because a lower-numbered port has the same plane (R373) -/
  dup : Bool := false
  /-- allocations recorded at negotiation (R490, R196) -/
  alloc : List Nat := [0, 0, 0, 0, 0, 0]
  /-- own receive allocations advertised in CAP (R196) -/
  ownAlloc : List Nat := []
  /-- whether the port's first negotiation since reset has ended (R490) -/
  negotiated : Bool := false
  target : Nat := 0
  accSent : Bool := false
  accRecv : Bool := false
  /-- lanes whose equalisation has ended by EQ done or fail, and those that failed (R493) -/
  eqDone : Nat := 0
  eqFailed : Nat := 0
  ownCheck : Option Nat := none
  partnerCheck : Option Nat := none
  /-- lanes in use at each step reached in this climb (R494) -/
  lanesAt : List (Nat × Nat) := []
  activeSent : Bool := false
  /-- the step and mask of the ACTIVE received (R495) -/
  activeRecv : Option (Nat × Nat) := none
  /-- the training message that waits for its answer (R484) -/
  unanswered : Option Ctl := none
  /-- preset and tap moves of the own transmitter, per lane (R493) -/
  taps : List (Nat × List Int) := []
  failedLanes : Nat := 0
  /-- a proposed lane mask that waits for accept (R496, R498) -/
  proposed : Option Nat := none
  /-- lane of this port under recalibration (R498) -/
  recal : Option Nat := none
  /-- last sequence number accepted (R486) -/
  rxSeq : Nat := 1023
  nak : Bool := false
  txSeq : Nat := 0
  replay : List HeldFlit := []
  lastAck : Nat := 1023
  /-- ack value for which a nak resend has been made (R487) -/
  nakFor : Option Nat := none
  episodes : Nat := 0
  /-- granules of the packet in progress at the receiver (R479) -/
  asm : List (BitVec 128) := []
  /-- the packet in progress that has entered the switch at its header (R180) -/
  asmPid : Option Nat := none
  /-- transmit credits per VC (R196) -/
  credit : List Nat := [0, 0, 0, 0, 0, 0]
  /-- cumulative granules returned per VC, and the value last reported (R482) -/
  returned : List Nat := [0, 0, 0, 0, 0, 0]
  reported : List Nat := [0, 0, 0, 0, 0, 0]
  nextReport : Nat := 0
  /-- last cumulative count seen from the partner per VC (R482) -/
  seenCredit : List Nat := [0, 0, 0, 0, 0, 0]
  idleStitches : Nat := 0
  lightStitches : Nat := 0
  deriving DecidableEq, Repr

/-! ## Trace (R608) is held in the register file's words and in one table of records. -/

/-! ## The EP-4 instance's parameters (R367) -/

/-- The parameters of R367 in the units of EP4_CAP0 and EP4_CAP1, and the receive allocations that the licensee sets
(R464).  They never change (R368).  The values at reset are one conforming instance (DESIGN CHOICE, log 7). -/
structure EpParams where
  ports : Nat := 16
  engines : Nat := 32
  out256 : Nat := 8
  ctx16 : Nat := 64
  host : Nat := 1
  hostWidth : Nat := 3
  scratchMib : Nat := 64
  rbK : Nat := 64
  rc64 : Nat := 16
  windows : Nat := 64
  mpWidth : Nat := 3
  atom256 : Nat := 8
  alloc : List Nat := [6144, 6144, 6144, 1024, 512, 2560]
  deriving DecidableEq, Repr

/-! ## The switch core and the buffers (chapters "Switch core" and "Buffers, credits and the Lining") -/

/-- Where a packet is charged (R201). -/
inductive Part where
  /-- no request decided yet -/
  | none
  /-- in its account's wait list (R203) -/
  | waiting
  | guaranteed
  | shared
  | lining
  /-- in no account: VC3 copies, ingress NACKs, PFAULTs (R200, R98, R598) -/
  | exempt
  deriving DecidableEq, Repr

/-- The cut-through standing of a packet (R180 to R182). -/
inductive Ct where
  | none
  | claimed
  | judged (granted : Bool)
  | granted
  | denied
  deriving DecidableEq, Repr

/-- The mapping of a pool request, fixed at its ingress (R351, R354). -/
structure PoolMap where
  region : Nat
  pkey : Nat
  mask : Nat
  fabBase : Nat
  stkBase : Nat
  deriving DecidableEq, Repr

/-- A packet that the SX-4 holds, from its ingress queue to the last granule sent (R195).  Inputs and outputs are ports 0
to 143; 144 + t is the Pleat core of tile t; input 162 + c is the response path of cluster c, output 162 + c its memory
service; output 168 is the register service; inputs 170 to 172 are the ingress NACK path, the fault unit and the Cuff
unit (R159). -/
structure Held where
  id : Nat
  pkt : Packet
  input : Nat
  output : Nat
  part : Part := .none
  /-- place in the order of requests at the accounts (R203) -/
  stamp : Nat := 0
  ct : Ct := .none
  /-- granules received, granules put into cells, granules released in order at the output tile, granules sent -/
  arrived : Nat
  formed : Nat := 0
  released : Nat := 0
  sent : Nat := 0
  started : Bool := false
  /-- consecutive hold granules (R184) -/
  holds : Nat := 0
  /-- the HBM4 write of a Lining packet has completed (R207) -/
  written : Bool := false
  /-- readback staging: 0 not read, 1 reading, 2 wholly in the staging (R208) -/
  staging : Nat := 0
  /-- a request of this packet has been counted in LINING_FULL_CNT (R206) -/
  fullCounted : Bool := false
  /-- last stitch of the Zelry slot of a VC5 packet (R236) -/
  slotEnd : Option Nat := none
  /-- place in the order of arrival at the memory service of a request parked there (R152) -/
  parked : Option Nat := none
  /-- stitch and cycle from which a Cuff copy is eligible, as stitch times 875 plus cycle (R327) -/
  notBefore : Nat := 0
  /-- the mapping of a pool request (R351) -/
  pool : Option PoolMap := none
  deriving DecidableEq, Repr

/-- A cell (R160): its flow, its sequence number, the granules of each packet in it. -/
structure Cell where
  input : Nat
  output : Nat
  vc : Nat
  seq : Nat
  segs : List (Nat × Nat)
  keys : List Nat
  express : Bool
  void : Bool := false
  /-- cell slot from which it is present where it stands (R172) -/
  present : Nat
  deriving DecidableEq, Repr

/-- The arbiter of one output port (R186, R187). -/
structure Arb where
  /-- place in the rotation VC0, VC1, VC2, VC5 -/
  rr : Nat := 0
  /-- per VC: tile last visited, plus 1 -/
  tile : Tbl Nat := []
  /-- per VC: visits left in that tile -/
  left : Tbl Nat := []
  /-- per VC and tile: input last visited, plus 1 -/
  inp : Tbl Nat := []
  /-- per VC and input -/
  deficit : Tbl Nat := []
  deriving DecidableEq, Repr

/-- The hold of one port (R210 to R214): 0 up, 1 holding, 2 flushed, 3 down and not yet held. -/
structure PortHold where
  st : Nat := 0
  expiry : Nat := 0
  node : Nat := 0x3FF
  /-- keys for which the hold or the flushed port has raised its one partition fault -/
  keys : List Nat := []
  /-- the flush comes in the next hem whatever the expiry (R214) -/
  flushDue : Bool := false
  deriving DecidableEq, Repr

/-- Bins and counts of one account in the epoch (R241, R242). -/
structure MapAcct where
  bins : List Nat := [0, 0, 0, 0, 0, 0, 0, 0]
  most : Nat := 0
  sent : Nat := 0
  marked : Nat := 0
  deriving DecidableEq, Repr

/-- A frozen map batch (R242). -/
structure MapBatch where
  tile : Nat
  epoch : Nat
  records : List (List Byte)
  deriving DecidableEq, Repr

/-- A captured sample that waits for its ring (R246). -/
structure Sample where
  tile : Nat
  at_ : Nat
  /-- the packet it was taken from -/
  pid : Nat
  record : List Byte
  deriving DecidableEq, Repr

/-! ## The Gusset (chapter "Bring-up and in-service operation", R602 to R607) -/

/-- One shadow pair in progress; its reported state stands in the pair status words. -/
structure PairRun where
  /-- opening stitch of the window -/
  opened : Nat := 0
  wSum : Nat := 0
  nSum : Nat := 0
  wCount : Nat := 0
  nCount : Nat := 0
  /-- last stitch in which either node sent a compared packet, plus 1 -/
  last : Nat := 0
  dirty : Bool := false
  /-- packets for the working port are copied (R603, R607) -/
  copying : Bool := false
  deriving DecidableEq, Repr

/-! ## Pleat and bucket groups (chapters "Pleat in-network reduction" and "Cuff rounds and bucket exchange") -/

/-- A unit or part in progress on a port (R268). -/
structure PUnit where
  bucket : Bool
  group : Nat
  pass : Nat
  idx : Nat
  member : Nat
  /-- offset at which the next packet must start -/
  next : Nat
  deriving DecidableEq, Repr

/-- The running state of a Pleat group; a bucket group has the same with buckets in place of chunks (R337). -/
structure PGroup where
  /-- fault reason of R282; 0 not faulted -/
  reason : Nat := 0
  passLow : Nat := 0
  /-- per member: pass times 2^32 plus chunk that it must send next (R268) -/
  next : Tbl Nat := []
  /-- chunks of passes in the window that are complete: pass, index -/
  done : List (Nat × Nat) := []
  passes : Nat := 0
  overflow : Nat := 0
  padded : Nat := 0
  resident : Bool := false
  /-- stitch since which it is resident -/
  since : Nat := 0
  /-- descheduled, its slots and reservation held until the spill writes complete (R277) -/
  leaving : Bool := false
  rearm : Bool := false
  /-- bucket groups: source and bucket of each part of the pass with dropped bytes (R340) -/
  drops : List (Nat × Nat) := []
  deriving DecidableEq, Repr

/-- An open chunk or bucket (R272, R338). -/
structure Chunk where
  bucket : Bool
  group : Nat
  pass : Nat
  idx : Nat
  tile : Nat
  /-- stitch of its first admission -/
  opened : Nat
  stall : Nat := 0
  /-- 0 pages in SRAM, 1 spill being written, 2 spilled, 3 being read back (R275) -/
  spill : Nat := 0
  /-- order of its most recent packet -/
  last : Nat := 0
  /-- packets accumulated, in order of application: member, offset, bytes -/
  pkts : List (Nat × Nat × List Byte) := []
  /-- members whose unit has ended -/
  ended : List Nat := []
  /-- buckets: source and bytes of each filled record place (R338) -/
  places : List (Nat × List Byte) := []
  deriving DecidableEq, Repr

/-- A copy held for its release stitch (R284). -/
structure Release where
  group : Nat
  pass : Nat
  idx : Nat
  tile : Nat
  port : Nat
  at_ : Nat
  /-- pages its result takes, counted once per chunk (R273) -/
  pages : Nat
  pkts : List Packet
  deriving DecidableEq, Repr

/-- The state of the Pleat cores.  Group keys: g for Pleat groups, 8192 + g for bucket groups. -/
structure PleatSt where
  groups : Tbl PGroup := []
  chunks : List Chunk := []
  units : Tbl (Option PUnit) := []
  releases : List Release := []
  /-- active groups in the order in which they became active (R276) -/
  active : List Nat := []
  order : Nat := 0
  /-- turn of each tile's engines (R285) -/
  turn : Tbl Nat := []
  deriving DecidableEq, Repr

/-! ## Cuff groups (chapter "Cuff rounds and bucket exchange") -/

/-- An open round (R319, R321): opening stitch, deadline live when it opened, accepted contributions in order of arrival:
member, stitch times 875 plus cycle of arrival, bytes. -/
structure Round where
  s : Nat
  d : Nat
  accepted : List (Nat × Nat × List Byte)
  deriving DecidableEq, Repr

/-- The running state of a Cuff group.  Its results with copies not yet sent are the copies held. -/
structure CGroup where
  reason : Nat := 0
  round : Option Round := none
  lastClosed : Option Nat := none
  rearm : Bool := false
  deriving DecidableEq, Repr

/-! ## Atomics, sync objects and the pool (chapters "Atomics and sync objects" and "Switch memory pool") -/

/-- A recorded wait (R146): the request, its object, threshold, stitch of recording and limit (R148). -/
structure Waiter where
  obj : Nat
  thr : Nat
  at_ : Nat
  limit : Nat
  port : Nat
  pkt : Packet
  deriving DecidableEq, Repr

/-- One part of a pool request in one stack (R352): stack, local address, length, offset in the request. -/
structure PoolPart where
  stack : Nat
  addr : Nat
  len : Nat
  off : Nat
  done : Bool := false
  deriving DecidableEq, Repr

/-- A request in a memory service that is not finished: a pool request with its parts, or a sync-object operation held
behind an earlier store (R110, R141, R352).  `id` is its place in the order of arrival. -/
structure PoolReq where
  id : Nat
  pkt : Packet
  port : Nat
  home : Nat
  /-- the mapping of a pool request; none for a sync-object operation -/
  map : Option PoolMap
  parts : List PoolPart := []
  /-- whether an error has been met, which the answer reports (R359, R363) -/
  poisoned : Bool := false
  /-- bytes read so far: offset in the request, bytes -/
  data : List (Nat × List Byte) := []
  /-- segments of a read that hold an uncorrectable word, by offset (R359) -/
  badSeg : List Nat := []
  /-- prior value of an atomic -/
  prior : List Byte := []
  /-- operation entry: bank of a sync object (below 16) or 16 + line number of a pool atomic; none of a read or write -/
  entry : Option Nat := none
  deriving DecidableEq, Repr

/-- The state of the memory services. -/
structure MemSt where
  /-- values of the sync objects (R142) -/
  obj : Tbl DWord := []
  /-- objects marked poisoned, and objects whose stored code is uncorrectable and not yet found (R154) -/
  objPoison : List Nat := []
  objBad : List Nat := []
  waiters : List Waiter := []
  reqs : List PoolReq := []
  nextReq : Nat := 0
  /-- 32-byte words that read as uncorrectable: stack times 2^40 plus address (R358, R359) -/
  bad : List Nat := []
  /-- correctable errors of each stack in the interval in progress (R361) -/
  ceCount : Tbl Nat := []
  /-- next word the scrubber reads in each stack, in 32-byte words (R360) -/
  scrubAt : Tbl Nat := []
  /-- stacks retired; stacks that failed and wait for their hem (R362) -/
  retired : List Nat := []
  failing : List Nat := []
  /-- the stacks are in self-refresh (R356) -/
  selfRefresh : Bool := false
  deriving DecidableEq, Repr

/-! ## The EP-4: memory port, engines, tags (chapters "EP-4 end-point block" and "EP-4 engines and descriptors") -/

/-- What an access at the memory port serves. -/
inductive MpUse where
  /-- part of a fabric request: its number, offset in the request -/
  | serve (id off : Nat)
  /-- part of a gathering of local bytes: its number, offset in it -/
  | fetch (id off : Nat)
  /-- a write of a descriptor's results: engine, slot, and the tag whose response it writes -/
  | sink (engine slot : Nat) (tag : Option Nat)
  /-- a descriptor's completion record -/
  | record (engine slot : Nat)
  deriving DecidableEq, Repr

/-- A request at the memory port that is not answered (R379). -/
structure MpReq where
  tag : Nat
  cmd : Nat
  addr : Nat
  len : Nat
  ord : Nat
  modifier : Nat := 0
  data : List Byte := []
  use : MpUse
  deriving DecidableEq, Repr

/-- What gathered local bytes are for. -/
inductive FetchUse where
  /-- the payload of a waiting packet -/
  | tx (id : Nat)
  /-- a piece of a local copy: offset in the copy -/
  | copy (engine slot off : Nat)
  /-- a piece of a copy to the host: offset in the copy -/
  | host (engine slot off : Nat)
  /-- the part table of a bucket send (R414) -/
  | table (engine slot : Nat)
  deriving DecidableEq, Repr

/-- Local bytes being gathered: accesses still out, pieces read so far, worst status of R384. -/
structure Fetch where
  id : Nat
  out : Nat
  pieces : List (Nat × List Byte) := []
  status : Nat := 0
  use : FetchUse
  deriving DecidableEq, Repr

/-- A fabric request that an EP-4 serves (R388 to R390). -/
structure Serve where
  id : Nat
  pkt : Packet
  port : Nat
  window : Nat
  addr : Nat
  /-- accesses issued (R382, R390) -/
  issued : Bool := false
  /-- an atomic that found the unit full: its VC0 credits are withheld -/
  withheld : Bool := false
  out : Nat := 0
  /-- worst status of R384 -/
  status : Nat := 0
  badSeg : List Nat := []
  pieces : List (Nat × List Byte) := []
  deriving DecidableEq, Repr

/-- A packet that waits for its port (R418): its descriptor, the port fixed for it (none: stream 63 sprays), the tags that a
flagged store waits for (R122), the last stitch in which it may start (R415). -/
structure EpTx where
  id : Nat
  pkt : Packet
  owner : Option (Nat × Nat) := none
  port : Option Nat
  tag : Option Nat := none
  ready : Bool := true
  /-- a flagged store that is held (R122) -/
  held : Bool := false
  waitFor : List Nat := []
  failed : Bool := false
  by_ : Option Nat := none
  /-- a response to a request that arrived marked (R222) -/
  marked : Bool := false
  deriving DecidableEq, Repr

/-- A tag in use or quarantined (R417, R429). -/
structure TagSt where
  engine : Nat
  slot : Nat
  ctx : Nat
  key : Nat
  op : Nat
  dst : Nat
  stream : Nat
  plane : Nat := 0
  sent : Bool := false
  vc5 : Bool := false
  /-- offset in the descriptor, and bytes asked for -/
  off : Nat := 0
  len : Nat := 0
  /-- writes of its response not yet answered at the memory port -/
  sinks : Nat := 0
  answered : Bool := false
  quarantine : Option Nat := none
  deriving DecidableEq, Repr

/-- A descriptor slot (R417). -/
structure Slot where
  engine : Nat
  num : Nat
  /-- order of take in the engine (R102) -/
  order : Nat
  index : Nat
  ctx : Nat
  key : Nat
  words : List Nat
  begun : Bool := false
  /-- progress of issue in bytes, units or parts -/
  next : Nat := 0
  allIssued : Bool := false
  /-- packets not answered or not yet accepted by retry; accesses and gatherings out -/
  packets : Nat := 0
  access : Nat := 0
  /-- complete for FENCE (R120, R420) -/
  complete : Bool := false
  /-- its record may be written; its record is being written -/
  done : Bool := false
  writing : Bool := false
  aborted : Bool := false
  poisoned : Bool := false
  nacked : Option Nat := none
  priorFailed : Bool := false
  other : Nat := 0
  moved : Nat := 0
  value : Nat := 0
  planes : Nat := 0
  echo : Bool := false
  late : Bool := false
  padded : Bool := false
  truncated : Bool := false
  acks : Nat := 0
  unretired : Bool := false
  units : Nat := 0
  /-- lines that a prefetch asked for -/
  lines : List Nat := []
  deriving DecidableEq, Repr

/-- A line of the read buffer (R127); not valid while its prefetch fills it. -/
structure RbLine where
  ctx : Nat
  addr : Nat
  valid : Bool := false
  bad : Bool := false
  data : List Byte := []
  deriving DecidableEq, Repr

/-- A rate entry (R225 to R229): r, t and the tokens with 8 fraction bits, a with 16. -/
structure RateEntry where
  vc : Nat
  node : Nat
  plane : Nat
  r : Nat
  t : Nat
  a : Nat := 0
  inc : Nat := 0
  m : Nat := 0
  n : Nat := 0
  tokens : Nat
  quiet : Nat := 0
  deriving DecidableEq, Repr

/-- A host-bus access of a HOST_COPY (R395, R446): its descriptor, the offset of its plaintext in the copy. -/
structure HostReq where
  id : Nat
  engine : Nat
  slot : Nat
  write : Bool
  off : Nat
  len : Nat
  deriving DecidableEq, Repr

/-- The session key of a context: words written since the last application, and the key (R444). -/
structure SessionKey where
  words : List (Nat × Word) := []
  key : Option (BitVec 256) := none
  deriving DecidableEq, Repr

/-- A unit in progress at a receiving port, and the receive it matched (R416). -/
structure RecvUnit where
  engine : Nat
  slot : Nat
  /-- false while the packets of an unmatched unit are being discarded -/
  matched : Bool := true
  deriving DecidableEq, Repr

/-- The running state of the EP-4 beyond its registers, links and timing. -/
structure EpSt where
  slots : List Slot := []
  orders : Tbl Nat := []
  /-- per engine: order of the last FENCE taken, plus 1 -/
  fence : Tbl Nat := []
  /-- engines held for a ring fault (R403) -/
  ringFault : List Nat := []
  tags : Tbl (Option TagSt) := []
  tx : List EpTx := []
  nextTx : Nat := 0
  mp : List MpReq := []
  nextMp : Nat := 0
  fetch : List Fetch := []
  nextFetch : Nat := 0
  serve : List Serve := []
  nextServe : Nat := 0
  rb : List RbLine := []
  rates : List RateEntry := []
  /-- spray pointer of each engine, plus 1; 0 is the value after reset (R376) -/
  spray : Tbl Nat := []
  /-- granules sent per port and slot in a plan period, and each port's period (R237) -/
  zlyUsed : Tbl Nat := []
  zlyPeriod : Tbl Nat := []
  /-- per port: number of the next ZLY_TEST and the state of its sequence (R238) -/
  zlyTest : Tbl (Nat × Nat) := []
  host : List HostReq := []
  nextHost : Nat := 0
  keys : Tbl SessionKey := []
  recv : Tbl (Option RecvUnit) := []
  /-- fault taken by each aborting context: reason, stitch (R427) -/
  abort : Tbl (Option (Nat × Nat)) := []
  /-- faulted contexts that return to ready with the next stitch (R427) -/
  clearing : List Nat := []
  /-- contexts whose notification is pending, oldest first (R425) -/
  notify : List Nat := []
  /-- uncorrectable 8-byte words of the scratch (R392) -/
  scrBad : List Nat := []
  /-- scratch ranges being zeroed: context, first byte, bytes (R441) -/
  scrub : List (Nat × Nat × Nat) := []
  deriving DecidableEq, Repr

/-! ## The Guard (chapter "Isolation, confidential contexts and dual control") -/

/-- What a Guard holds beyond its registers (R451 to R454). -/
structure GuardRun where
  /-- stitch of the seal -/
  sealAt : Nat := 0
  /-- at-stitch of the sealed change, when at_en was 1 -/
  at_ : Option Nat := none
  /-- stitch in whose hem an ARMED change commits -/
  due : Option Nat := none
  /-- low word of the approval being written -/
  low : Word := 0
  /-- a reset discarded a change; the event waits for READY -/
  lost : Bool := false
  deriving DecidableEq, Repr

/-- A relay in progress (R456): target node, operation, stitch of its start. -/
structure Relay where
  node : Nat
  read : Bool
  at_ : Nat
  deriving DecidableEq, Repr

/-! ## Optical engines (chapter "Optical engine control") and input filters (chapter "Package, signals and electrical
data").  Heater codes, ring states, pair states, link states, temperatures, connector words and ledgers stand in the OCU
pages' words. -/

/-- One engine's control link: runs of bad and good upstream frames, the first frame of the good run, the temperatures of
the last good frames (newest first), the ring in the next dither slot (R510, R513, R520). -/
structure EngRun where
  bad : Nat := 0
  good : Nat := 0
  start : Nat := 0
  temps : List Int := []
  slot : Nat := 0
  deriving DecidableEq, Repr

/-- The lock-in loop of one ring (R514 to R518). -/
structure RingRun where
  /-- invalid samples left, and the reason of the most recent event -/
  inv : Nat := 0
  reason : Nat := 0
  /-- monitor channel and gain step in force; those sent last; changes on their way, by the frame they act in -/
  chan : Nat := 0
  gain : Nat := 2
  sentChan : Nat := 0
  sentGain : Nat := 2
  due : List (Nat × Nat × Nat) := []
  /-- gain step that ranging has reached, once it has moved; valid samples below 0x1000 in a row -/
  step : Option Nat := none
  low : Nat := 0
  /-- demodulated values in the filter, newest first -/
  filt : List Int := []
  /-- codes sent: frame, code, whether in a sweep; newest first -/
  sent : List (Nat × Nat × Bool) := []
  /-- the sweep begins with the next frame -/
  fresh : Bool := false
  /-- best frame of the sweep: sum and count of its valid samples, its code -/
  peak : Option (Nat × Nat × Nat) := none
  /-- consecutive updates inside (TRACK) or outside (LOCKED) the tolerance; updates since TRACK began -/
  run : Nat := 0
  updates : Nat := 0
  /-- last LOCKED heater code since the engine link came up -/
  locked : Option Nat := none
  deriving DecidableEq, Repr

/-- One fibre pair (R522, R527): the frame in which its state was entered and the stitch at which it opened, light seen per
frame since (newest first), the last frame with light, the frame from which the next pulse may be commanded, frames whose
downstream frame carries a pulse, frames whose upstream frame reports a counting pulse, and what those reported. -/
structure PairOpt where
  since : Nat := 0
  openedAt : Nat := 0
  hist : List Bool := []
  lastLight : Nat := 0
  nextPulse : Nat := 0
  pulses : List Nat := []
  counting : List Nat := []
  sum : Int := 0
  count : Nat := 0
  /-- the next judgement's mean becomes the baseline (R528) -/
  capture : Bool := false
  /-- the pair closed on loss of light; loss of light now; the frame in which OE_LOS_N last fell -/
  byLos : Bool := false
  los : Bool := false
  losFrame : Option Nat := none
  deriving DecidableEq, Repr

/-- Bias readings of one ELS module taken toward its first-light bias: their sum and number (R531). -/
structure ElsRun where
  sum : Nat := 0
  count : Nat := 0
  deriving DecidableEq, Repr

/-! ## Power (chapter "Power, shedding and thermal") -/

/-- One of the five sources of the shed level (R566): the level it asks for, the level that its triggers hold now, for each
level the stitch in which a trigger for it or above was last present, the stitch of its last change, and a rise that waits
for its hem. -/
structure ShedSrc where
  level : Nat := 0
  cond : Nat := 0
  seen : List Nat := [0, 0, 0, 0, 0]
  changed : Nat := 0
  risen : Bool := false
  deriving DecidableEq, Repr

/-- What the power page keeps beyond its registers. -/
structure PowerRun where
  volt : ShedSrc := {}
  brk : ShedSrc := {}
  floor : ShedSrc := {}
  cap : ShedSrc := {}
  therm : ShedSrc := {}
  /-- PWRBRK_N asserted after filtering; stitch since which it is taken as asserted; PWRBRK_STUCK raised (R570) -/
  brkPin : Bool := false
  brkSince : Option Nat := none
  stuck : Bool := false
  /-- power of past stitches as runs: value, length; newest first, 20,000 stitches (R574) -/
  hist : List (Nat × Nat) := []
  /-- power of the last stitch (R575), credit fraction in 1/64 -/
  prev : Nat := 0
  f : Nat := 64
  /-- calibration window: stitches, sums of x, y, x², xy with x = g × E in 1/4,096 W; the 16-stitch sum in progress and
  the least and greatest complete ones (R573) -/
  calN : Nat := 0
  calX : Nat := 0
  calY : Nat := 0
  calXX : Nat := 0
  calXY : Nat := 0
  cal16 : Nat := 0
  calLo : Option Nat := none
  calHi : Nat := 0
  /-- thermal triggers present: throttle, throttle + 5, crit, hbm, hbm + 5 (R577) -/
  trips : List Bool := [false, false, false, false, false]
  /-- hottest on-die and HBM4 readings: temperature, sensor -/
  die : Option (Int × Nat) := none
  hbm : Option (Int × Nat) := none
  /-- TRC_LOST_CNT when the level left 0 (R608) -/
  lostAt : Nat := 0
  /-- gate or reset requested: kind, unit, action (R579) -/
  gate : Option (Nat × Nat × Nat) := none
  /-- units that are clock-gated: kind, unit -/
  gated : List (Nat × Nat) := []
  deriving DecidableEq, Repr

/-! ## Boot (chapter "Bring-up and in-service operation") -/

/-- Boot in progress (R584): whether VDD_CORE is absent or RESET_N asserted, so that no phase runs; milliseconds so far. -/
structure BootRun where
  off : Bool := false
  ms : Nat := 0
  deriving DecidableEq, Repr

/-! ## The machine -/

/-- The byte memories: the six HBM4 stacks (R346), the local memory behind the EP-4's memory port (R379) and the EP-4's
scratch SRAM (R392).  Key of a stack byte: its local address plus `stack` times 2^40. -/
structure Store where
  hbm : Mem := []
  loc : Mem := []
  scratch : Mem := []
  deriving DecidableEq, Repr

/-- Everything but the byte memories and the queue. -/
structure Mach where
  epParams : EpParams := {}
  regs : RegFile := {}
  epRegs : RegFile := {}
  time : Timing := {}
  epTime : EpTiming := {}
  link : Tbl Link := []
  epLink : Tbl Link := []
  /-- per SX-4 port: receive time of the last ordered set and transmit time of the own last one (R68) -/
  sxExch : Tbl (Nat × Nat) := []

  /-- packets held by the SX-4, oldest first -/
  held : List Held := []
  nextId : Nat := 0
  nextStamp : Nat := 0
  /-- middle and express queues, oldest first: intermediate tile, output tile, cell (R169) -/
  mid : List (Nat × Nat × Cell) := []
  /-- cells at their output tiles, not yet released (R175) -/
  reseq : List Cell := []
  seqIn : Tbl Nat := []
  seqOut : Tbl Nat := []
  /-- cell slots since reset, and the slot at which the present pattern began (R167) -/
  slot : Nat := 0
  patStart : Nat := 0
  /-- per input tile: output tile last served, plus 1; per input tile and output tile: flow last served, plus 1 (R168) -/
  rrTile : Tbl Nat := []
  rrFlow : Tbl Nat := []
  /-- crossing allowance of each die in sevenths of a cell; per intermediate tile the slot of its last crossing (R173) -/
  allow : List Nat := [0, 0]
  lastCross : Tbl Nat := []
  /-- tiles out of stage 1, and tiles out of stage 2 (R189) -/
  out1 : List Nat := []
  out2 : List Nat := []
  /-- die-to-die modules that have failed and wait for their hem (R597) -/
  modFailed : List Nat := []
  arb : Tbl Arb := []
  /-- spray toggle of each route entry (R165) -/
  toggle : Tbl Nat := []
  hold : Tbl PortHold := []
  /-- credits withheld per port and VC, at key 8 × port + VC (R216) -/
  owed : Tbl Nat := []
  owedRr : Tbl Nat := []
  /-- clusters that have raised LINING_FULL in this stitch (R206) -/
  liningFull : List Nat := []
  /-- last PFAULT broadcast of a key: stitch and reason (R598, R642) -/
  faultSent : Tbl (Option (Nat × Nat)) := []
  /-- packets that have reached a unit and wait for their command: chip, port, packet -/
  arrivedPkts : List (Chip × Nat × Packet) := []
  /-- granules admitted per output and slot in the Zelry period in progress, and that period's number (R235) -/
  zlyUsed : Tbl Nat := []
  zlyPeriod : Nat := 0
  /-- ZLY_TEST sequence expected per port (R240) -/
  zlySeq : Tbl (Option Nat) := []
  mapAcct : Tbl MapAcct := []
  /-- stitches sampled in the epoch in progress (R241) -/
  mapTicks : Nat := 0
  mapBatch : List MapBatch := []
  mapDropped : Tbl Nat := []
  /-- per tile and class: packets since the last sample (R244) -/
  smpCount : Tbl Nat := []
  /-- per tile: samples captured in this stitch (R245) -/
  smpNow : Tbl Nat := []
  smpWait : List Sample := []
  /-- SAMPLE_DROPPED has been raised in this stitch (R252) -/
  smpDropped : Bool := false

  gusset : Tbl PairRun := []

  plt : PleatSt := {}

  cuff : Tbl CGroup := []

  mem : MemSt := {}

  ep : EpSt := {}

  guardSx : GuardRun := {}
  guardEp : GuardRun := {}
  /-- confidential keys torn, for the next hem (R458) -/
  torn : List Nat := []
  relay : Option Relay := none


  oeng : Tbl EngRun := []
  rings : Tbl RingRun := []
  pairs : Tbl PairOpt := []
  els : Tbl ElsRun := []
  /-- engine slot and ring under capture, per OCU page (R532) -/
  ocuCap : Tbl (Nat × Nat) := []
  /-- per filtered input (64 times its sel plus its index): stitches of the counted changes of the last 1 ms; inputs with
  CHATTER latched (R625) -/
  changes : Tbl (List Nat) := []
  chatter : List Nat := []


  power : PowerRun := {}


  boot : BootRun := {}
  /-- the address that I3C wrote last (R632); no reset value is given (DESIGN CHOICE, log 47) -/
  i3cAddr : Nat := 0
  /-- what the block has driven, newest first -/
  out : List Out := []
  /-- how many open values have been taken (log 4); the model's own, not the spec's -/
  freeCtr : Nat := 0
  deriving DecidableEq, Repr

/-- The state of the block: the machine, its byte memories and the commands that wait, first in first out. -/
structure State where
  m : Mach
  store : Store
  pending : List Instr
  deriving DecidableEq, Repr

/-- The machine right after power-on reset (R583). -/
def Mach.reset : Mach := {}

/-- The state right after power-on reset (R583): every register at its reset value, memories with nothing written, no
command waiting. -/
def State.reset : State := { m := Mach.reset, store := {}, pending := [] }

end Sys2Proof.Machine
end

