-- ==== Sys2Proof/Machine/Ops.lean ====
section
/-! DEFINITION. The named operations on registers, counters, events and the trace that every chapter's meanings use:
item addresses (R452), access codes (R541), live and shadow copies, triple-stored fields (R548), events with their
severities (R637 to R641), the error log (R555), interrupt requests and trace records (R608, R609). -/

namespace Sys2Proof.Machine
open Sys2Proof

/-! ## Pages (R557, R369) -/

namespace Pg
def chip : Nat := 0x000
def guard : Nat := 0x001
def power : Nat := 0x002
def stitch : Nat := 0x003
def mdr : Nat := 0x004
def trace : Nat := 0x005
def port (p : Nat) : Nat := 0x010 + p
def tile (t : Nat) : Nat := 0x0A0 + t
def cluster (c : Nat) : Nat := 0x0C0 + c
def die (d : Nat) : Nat := 0x0D0 + d
def serdes (k : Nat) : Nat := 0x0E0 + k
def ocu (q : Nat) : Nat := 0x0F0 + q
def pleat : Nat := 0x100
def cuff : Nat := 0x101
def gusset : Nat := 0x102
def ctx (c : Nat) : Nat := 0x400 + c
/-- EP-4 pages: identity, timing, rate control, memory port, scratch, host (R369). -/
def eId : Nat := 0x000
def eTim : Nat := 0x001
def eRc : Nat := 0x002
def eMp : Nat := 0x003
def eScr : Nat := 0x004
def eHost : Nat := 0x005
def eng (e : Nat) : Nat := 0x020 + e
end Pg

/-- The kind of page at an index; none where the chip implements no page (R557, R562). -/
def pageKind (par : EpParams) : Chip → Nat → Option PageKind
  | .sx, i =>
    if i = 0x000 then some .chip else if i = 0x001 then some .guard else if i = 0x002 then some .power
    else if i = 0x003 then some .stitch else if i = 0x004 then some .mdr else if i = 0x005 then some .trace
    else if 0x010 ≤ i ∧ i ≤ 0x09F then some .port
    else if 0x0A0 ≤ i ∧ i ≤ 0x0B1 then some .tile
    else if 0x0C0 ≤ i ∧ i ≤ 0x0C5 then some .cluster
    else if 0x0D0 ≤ i ∧ i ≤ 0x0D1 then some .die
    else if 0x0E0 ≤ i ∧ i ≤ 0x0E3 then some .serdes
    else if 0x0F0 ≤ i ∧ i ≤ 0x0F8 then some .ocu
    else if i = 0x100 then some .pleat else if i = 0x101 then some .cuff else if i = 0x102 then some .gusset
    else if 0x400 ≤ i ∧ i ≤ 0x7FF then some .ctx
    else none
  | .ep, i =>
    if i = 0x000 then some .eId else if i = 0x001 then some .eTim else if i = 0x002 then some .eRc
    else if i = 0x003 then some .eMp else if i = 0x004 then some .eScr else if i = 0x005 then some .eHost
    else if 0x010 ≤ i ∧ i < 0x010 + par.ports then some .ePort
    else if 0x020 ≤ i ∧ i < 0x020 + par.engines then some .eEng
    else if 0x400 ≤ i ∧ i < 0x400 + 16 * par.ctx16 then some .eCtx
    else none

/-- The block code of PAGE_ID (R540). -/
def blockCode : PageKind → Nat
  | .chip | .eId => 0
  | .guard | .eTim => 1
  | .power | .eRc => 2
  | .stitch | .eMp => 3
  | .mdr | .eScr => 4
  | .trace | .eHost => 5
  | .port | .ePort => 6
  | .tile => 7
  | .cluster => 8
  | .die => 9
  | .serdes => 10
  | .ocu => 11
  | .pleat => 12
  | .cuff => 13
  | .gusset => 14
  | .ctx | .eEng | .eCtx => 15

/-- The die whose trace ring takes a page's records (R608, R18, R19).  The OCU page 4 serves engines of both dies; its
records go to the ring of its first engine's die (DEDUCED, log 8). -/
def dieOfPage (i : Nat) : Nat :=
  if 0x010 ≤ i ∧ i ≤ 0x09F then (i - 0x010) / 72
  else if 0x0A0 ≤ i ∧ i ≤ 0x0B1 then (i - 0x0A0) / 9
  else if 0x0C0 ≤ i ∧ i ≤ 0x0C5 then (i - 0x0C0) / 3
  else if 0x0D0 ≤ i ∧ i ≤ 0x0D1 then i - 0x0D0
  else if 0x0E0 ≤ i ∧ i ≤ 0x0E3 then (i - 0x0E0) / 2
  else if 0x0F0 ≤ i ∧ i ≤ 0x0F8 then (4 * (i - 0x0F0)) / 18
  else 0

/-! ## Item addresses and the register map -/

/-- An item address: page in [63:48], window select in [47:44], IND_ADDR or byte offset in [43:0] (R452). -/
def item (page sel a : Nat) : Nat := page * 2 ^ 48 + sel * 2 ^ 44 + a

def itemPage (k : Nat) : Nat := k / 2 ^ 48
def itemSel (k : Nat) : Nat := k / 2 ^ 44 % 16
def itemOff (k : Nat) : Nat := k % 2 ^ 44

/-- Whether a row of the register map holds the word at offset `off`. -/
def RegRow.has (r : RegRow) (off : Nat) : Bool :=
  if r.count ≤ 1 then r.off == off
  else r.off ≤ off && (off - r.off) % r.stride == 0 && decide ((off - r.off) / r.stride < r.count)

/-- Whether a row of an indirect table holds the word at `a` of select `sel`. -/
def TabRow.has (r : TabRow) (sel a : Nat) : Bool :=
  r.sel == sel && decide (a < r.len) && a % r.period == r.word

/-- The access masks, reset value and commit group of one word. -/
structure WordInfo where
  rws : Word
  rw : Word
  w1c : Word
  wo : Word
  rst : Word
  group : Nat
  deriving DecidableEq, Repr

def WordInfo.ofReg (r : RegRow) : WordInfo :=
  ⟨BitVec.ofNat 32 r.rws, BitVec.ofNat 32 r.rw, BitVec.ofNat 32 r.w1c, BitVec.ofNat 32 r.wo, BitVec.ofNat 32 r.rst,
   r.group⟩

def WordInfo.ofTab (r : TabRow) : WordInfo :=
  ⟨BitVec.ofNat 32 r.rws, BitVec.ofNat 32 r.rw, BitVec.ofNat 32 r.w1c, BitVec.ofNat 32 r.wo, BitVec.ofNat 32 r.rst,
   r.group⟩

/-- A read-only word that resets to 0. -/
def WordInfo.ro : WordInfo := ⟨0, 0, 0, 0, 0, 32⟩

/-- The common control words of every page (R555); the windows (R552) are kept apart. -/
def commonInfo (off : Nat) : Option WordInfo :=
  if off < 0x20 ∧ off % 4 = 0 then some .ro
  else if off = R.snapCtrl then some ⟨0, 0xFFFFFFFE, 0, 1, 0, 32⟩
  else if off = R.snapStatus ∨ off = R.snapStitchLo ∨ off = R.snapStitchHi then some .ro
  else if off = R.intStatus then some ⟨0, 0, 0xFFFFFFFF, 0, 0, 32⟩
  else if off = R.intEnable then some ⟨0, 0xFFFFFFFF, 0, 0, 0, 32⟩
  else if off = R.intForce then some ⟨0, 0, 0, 0xFFFFFFFF, 0, 32⟩
  else if off = R.errLog0 then some ⟨0, 0, 0x80000000, 0, 0, 32⟩
  else if off = R.errLog1 ∨ off = R.errLog2 ∨ off = R.errLog3 then some .ro
  else none

/-- A direct register of a page kind: the common words and the rows of its chapters. -/
def directInfo (k : PageKind) (off : Nat) : Option WordInfo :=
  match commonInfo off with
  | some i => some i
  | none => ((directRows k).find? (fun r => r.has off)).map .ofReg

/-- The words of a Zelry plan bank (R233). -/
def planInfo (a : Nat) : Option WordInfo :=
  if a < 0x10000 then
    let r := a % 0x8000
    if r = 0 then some ⟨0xFFFFFFFF, 0, 0, 0, 1, 6⟩
    else if 256 ≤ r ∧ r / 256 ≤ 64 then
      if r % 256 = 0 then some ⟨0xFFFFFFFF, 0, 0, 0, 0, 6⟩
      else if r % 256 ≤ 144 then some ⟨0xFFFFFFFF, 0, 0, 0, 0xFF, 6⟩
      else none
    else none
  else none

/-- The words of an EP-4 port's Zelry plan (R397). -/
def epPlanInfo (a : Nat) : Option WordInfo :=
  if a = 0 then some ⟨0xFFFFFFFF, 0, 0, 0, 1, 3⟩
  else if a ≤ 128 then some ⟨0xFFFFFFFF, 0, 0, 0, 0, 3⟩
  else none

/-- The reset value of a ring word (R533): the dither frequency and the sign of the gain depend on the ring. -/
def ringReset (a : Nat) (w : Word) : Word :=
  let r := a / 8 % 32
  if a % 8 = 0 then w ||| BitVec.ofNat 32 (1000 + 40 * r)
  else if a % 8 = 2 then (if r < 16 then 0xFF00 else 0x100)
  else w

/-- A word of an indirect table. -/
def tableInfo (par : EpParams) (k : PageKind) (sel a : Nat) : Option WordInfo :=
  if k = .chip ∧ sel = 3 then planInfo a
  else if k = .ePort ∧ sel = 1 then epPlanInfo a
  else
    match ((tableRows k).find? (fun r => r.has sel a)).map WordInfo.ofTab with
    | none => none
    | some i =>
      if k = .ocu ∧ sel = 1 then some { i with rst := ringReset a i.rst }
      else if k = .guard ∧ sel = 7 then some { i with rst := Config.romWord (a / 8192) (a % 4096) }
      else if k = .eMp ∧ sel = 1 ∧ par.windows * 8 ≤ a then none
      else if (k = .eMp ∧ (sel = 2 ∨ sel = 3) ∧ 64 * par.ctx16 ≤ a) then none
      else if k = .eScr ∧ sel = 1 ∧ 16 * par.ctx16 ≤ a then none
      else some i

/-- The word at an item address. -/
def wordInfo (par : EpParams) (c : Chip) (k : Nat) : Option WordInfo :=
  match pageKind par c (itemPage k) with
  | none => none
  | some pk => if itemSel k = 0 then directInfo pk (itemOff k) else tableInfo par pk (itemSel k) (itemOff k)

/-- The masks of an item; a word that does not exist has none. -/
def info (par : EpParams) (c : Chip) (k : Nat) : WordInfo := (wordInfo par c k).getD .ro

/-- What an unwritten word reads as: its reset value. -/
def rstWord (par : EpParams) (c : Chip) (k : Nat) : Word := (info par c k).rst

/-! ## The register file of a chip -/

namespace Mach

def rf (m : Mach) : Chip → RegFile
  | .sx => m.regs
  | .ep => m.epRegs

def setRf (m : Mach) (c : Chip) (r : RegFile) : Mach :=
  match c with
  | .sx => { m with regs := r }
  | .ep => { m with epRegs := r }

/-- The stitch number of a chip (R46). -/
def now (m : Mach) : Chip → Nat
  | .sx => m.time.number
  | .ep => m.epTime.number

/-- The cycle within the stitch (R45). -/
def cyc (m : Mach) : Chip → Nat
  | .sx => m.time.cycle
  | .ep => m.epTime.cycle

def setCyc (m : Mach) (c : Chip) (x : Nat) : Mach :=
  match c with
  | .sx => { m with time := { m.time with cycle := x } }
  | .ep => { m with epTime := { m.epTime with cycle := x } }

/-- The copy of a word that is not RWS. -/
def word (m : Mach) (c : Chip) (k : Nat) : Word := Tbl.get (rstWord m.epParams c) (m.rf c).word k

def shadow (m : Mach) (c : Chip) (k : Nat) : Word := Tbl.get (rstWord m.epParams c) (m.rf c).shadow k

def liveCopy (m : Mach) (c : Chip) (k : Nat) : Word := Tbl.get (rstWord m.epParams c) (m.rf c).live k

def setWord (m : Mach) (c : Chip) (k : Nat) (v : Word) : Mach :=
  m.setRf c { m.rf c with word := Tbl.set (rstWord m.epParams c) (m.rf c).word k v }

def setShadow (m : Mach) (c : Chip) (k : Nat) (v : Word) : Mach :=
  m.setRf c { m.rf c with shadow := Tbl.set (rstWord m.epParams c) (m.rf c).shadow k v }

def setLive (m : Mach) (c : Chip) (k : Nat) (v : Word) : Mach :=
  m.setRf c { m.rf c with live := Tbl.set (rstWord m.epParams c) (m.rf c).live k v }

/-- The bitwise majority of three copies (R548). -/
def majority (a b d : Word) : Word := (a &&& b) ||| (b &&& d) ||| (a &&& d)

/-- The bits of a word that are stored three times: the fields marked TMR (R548). -/
def tmrBits (c : Chip) (k : Nat) : Word :=
  let pg := itemPage k
  let off := itemOff k
  if itemSel k ≠ 0 then 0
  else if Pg.port 0 ≤ pg ∧ pg < Pg.port (match c with | .sx => 144 | .ep => 16) ∧ off = R.prtLinkCtrl then 1
  else
    match c with
    | .sx =>
      if pg = Pg.guard ∧ off = R.grdEnforce then 1
      else if pg = Pg.guard ∧ off = R.grdState then 3
      else if pg = Pg.power ∧ off = F.pwrShedFloor_floor.off then 7
      else if Pg.ocu 0 ≤ pg ∧ pg < Pg.ocu 9 ∧ (List.range 4).any (fun i => off == (F.ocuEngCtrl_laserEn i).off) then 4
      else if pg = Pg.chip ∧ off = R.chpCommitGen then BitVec.allOnes 32
      else 0
    | .ep =>
      if pg = Pg.eId ∧ off = R.ep4GrdState then 3
      else if pg = Pg.eId ∧ off = R.ep4CommitGen then BitVec.allOnes 32
      else 0

/-- A value as its three copies vote it; `first` is the number of its first copy (0 live, 3 shadow). -/
def voted (m : Mach) (c : Chip) (k first : Nat) (v : Word) : Word :=
  let bits := tmrBits c k
  if bits = 0 then v
  else
    let copy := fun i =>
      (m.rf c).upsets.foldl (fun a u => if u.1 = k ∧ u.2.1 = first + i then a ^^^ (u.2.2 &&& bits) else a) v
    majority (copy 0) (copy 1) (copy 2)

/-- The word that governs the hardware: the live copy of RWS bits, the one copy of the others. -/
def live (m : Mach) (c : Chip) (k : Nat) : Word :=
  let i := info m.epParams c k
  m.voted c k 0 ((m.liveCopy c k &&& i.rws) ||| (m.word c k &&& ~~~i.rws))

/-- A field of a direct register, as it governs. -/
def fld (m : Mach) (c : Chip) (page : Nat) (f : Fld) : Nat :=
  bitsOf (m.live c (item page 0 f.off)).toNat f.lo f.w

/-- A field of a direct register that is one bit. -/
def bit (m : Mach) (c : Chip) (page : Nat) (f : Fld) : Bool := m.fld c page f != 0

/-- A 32-bit register, as it governs. -/
def reg (m : Mach) (c : Chip) (page off : Nat) : Nat := (m.live c (item page 0 off)).toNat

/-- A field of entry `e` of a table whose entries have `per` words. -/
def tfld (m : Mach) (c : Chip) (page sel per e : Nat) (f : Fld) : Nat :=
  bitsOf (m.live c (item page sel (per * e + f.off))).toNat f.lo f.w

/-- A whole table word, as it governs. -/
def tword (m : Mach) (c : Chip) (page sel a : Nat) : Nat := (m.live c (item page sel a)).toNat

/-- A word of a table that commits swap, as a lookup sees it: until cycle 0 of the stitch after a commit, the old one
(R49). -/
def seen (m : Mach) (c : Chip) (k : Nat) : Nat := (Tbl.get (m.live c) (m.rf c).swapped k).toNat

/-- A field of a one-word entry of a table that commits swap, as a lookup sees it. -/
def lookup (m : Mach) (c : Chip) (page sel e : Nat) (f : Fld) : Nat := bitsOf (m.seen c (item page sel e)) f.lo f.w

/-- A field of a direct register that is swapped with its tables. -/
def seenFld (m : Mach) (c : Chip) (page : Nat) (f : Fld) : Nat := bitsOf (m.seen c (item page 0 f.off)) f.lo f.w

/-- A word with one field replaced. -/
def withField (w : Word) (lo n v : Nat) : Word :=
  let mask : Word := BitVec.ofNat 32 (place (2 ^ n - 1) lo n)
  (w &&& ~~~mask) ||| BitVec.ofNat 32 (place v lo n)

/-- Hardware sets a field of a status word. -/
def setFld (m : Mach) (c : Chip) (page : Nat) (f : Fld) (v : Nat) : Mach :=
  let k := item page 0 f.off
  m.setWord c k (withField (m.word c k) f.lo f.w v)

/-- Hardware sets a whole status word. -/
def setReg (m : Mach) (c : Chip) (page off v : Nat) : Mach := m.setWord c (item page 0 off) (BitVec.ofNat 32 v)

/-- Hardware sets a field of a table word that is not RWS. -/
def setTFld (m : Mach) (c : Chip) (page sel per e : Nat) (f : Fld) (v : Nat) : Mach :=
  let k := item page sel (per * e + f.off)
  m.setWord c k (withField (m.word c k) f.lo f.w v)

/-- Hardware sets a whole table word. -/
def setTWord (m : Mach) (c : Chip) (page sel a v : Nat) : Mach := m.setWord c (item page sel a) (BitVec.ofNat 32 v)

/-- A saturating counter counts `n` (R643: 32 bits, stays at 0xFFFF_FFFF). -/
def bumpBy (m : Mach) (c : Chip) (page off n : Nat) : Mach :=
  let k := item page 0 off
  m.setWord c k (BitVec.ofNat 32 (min ((m.word c k).toNat + n) 0xFFFFFFFF))

/-- A saturating counter counts one. -/
def bump (m : Mach) (c : Chip) (page off : Nat) : Mach := m.bumpBy c page off 1

/-- A field of a table word counts, saturating at the field's width. -/
def bumpT (m : Mach) (c : Chip) (page sel per e : Nat) (f : Fld) : Mach :=
  m.setTFld c page sel per e f (min (m.tfld c page sel per e f + 1) (2 ^ f.w - 1))

/-- Drive something outward. -/
def emit (m : Mach) (o : Out) : Mach := { m with out := o :: m.out }

/-- Take a fresh open value of `w` bits (log 4). -/
def fresh (m : Mach) (w : Nat) : BitVec w × Mach := (Config.freeBits w m.freeCtr, { m with freeCtr := m.freeCtr + 1 })

/-! ## Interrupt requests (R555) -/

/-- Whether any page requests: INT_STATUS AND INT_ENABLE non-zero on some page. -/
def anyRequest (m : Mach) (c : Chip) : Bool :=
  (m.rf c).word.any fun e =>
    itemSel e.1 == 0 && itemOff e.1 == R.intStatus
      && (e.2 &&& m.word c (item (itemPage e.1) 0 R.intEnable)) != 0

/-- Whether one page requests. -/
def pageRequests (m : Mach) (c : Chip) (page : Nat) : Bool :=
  (m.word c (item page 0 R.intStatus) &&& m.word c (item page 0 R.intEnable)) != 0

/-- Signal each enabled path when the chip passes from no requesting page to at least one. -/
def updateIrq (m : Mach) (c : Chip) : Mach :=
  let req := m.anyRequest c
  let was := (m.rf c).requesting
  let m := m.setRf c { m.rf c with requesting := req }
  if req && !was then
    match c with
    | .sx =>
      let m := if m.bit .sx Pg.chip F.chpIntRoute_aEn then m.emit (.irq .sx 0) else m
      if m.bit .sx Pg.chip F.chpIntRoute_bEn then m.emit (.irq .sx 1) else m
    | .ep => if m.epParams.host = 0 then m else m.emit (.irq .ep 0)
  else m

/-! ## Events (R637 to R641) -/

/-- Set an event's INT_STATUS bit. -/
def setIntBit (m : Mach) (c : Chip) (page bit : Nat) : Mach :=
  let k := item page 0 R.intStatus
  (m.setWord c k (m.word c k ||| BitVec.ofNat 32 (2 ^ bit))).updateIrq c

/-- Enter an event of error severity in the page's error log (R555, R641). -/
def logError (m : Mach) (c : Chip) (page bit detail : Nat) : Mach :=
  let k0 := item page 0 R.errLog0
  let w0 := (m.word c k0).toNat
  if bitsOf w0 31 1 = 1 then m.setWord c k0 (BitVec.ofNat 32 (w0 ||| 2 ^ 30))
  else
    let m := m.setWord c k0 (BitVec.ofNat 32 (2 ^ 31 + bit % 32))
    let m := m.setReg c page R.errLog1 detail
    let m := m.setReg c page R.errLog2 (m.now c % 2 ^ 32)
    m.setReg c page R.errLog3 (m.now c / 2 ^ 32)

/-! ## Trace (R608, R609) -/

/-- The effective shed level (R566). -/
def shedLevel (m : Mach) : Nat := m.fld .sx Pg.power F.pwrShedStatus_level

def ringWr (m : Mach) (d : Nat) : Nat := m.fld .sx Pg.trace ⟨R.trcStatus, 12 * d, 12⟩
def ringWrapped (m : Mach) (d : Nat) : Bool := m.bit .sx Pg.trace ⟨R.trcStatus, 24 + d, 1⟩
def ringFrozen (m : Mach) (d : Nat) : Bool := m.bit .sx Pg.trace ⟨R.trcStatus, 26 + d, 1⟩

/-- Store one record of four words at the ring's write index and advance it. -/
def ringStore (m : Mach) (d page type bit detail : Nat) : Mach :=
  let wr := m.ringWr d
  let at_ := 16384 * d + 4 * wr
  let m := m.setTWord .sx Pg.trace 1 at_ (m.time.number % 2 ^ 32)
  let m := m.setTWord .sx Pg.trace 1 (at_ + 1) (m.time.number / 2 ^ 32)
  let m := m.setTWord .sx Pg.trace 1 (at_ + 2) (m.time.cycle % 1024 + type % 16 * 2 ^ 12 + page % 4096 * 2 ^ 16)
  let m := m.setTWord .sx Pg.trace 1 (at_ + 3) (bit % 256 + detail % 2 ^ 16 * 2 ^ 16)
  let m := m.setFld .sx Pg.trace ⟨R.trcStatus, 12 * d, 12⟩ (wr + 1)
  if wr = 4095 then m.setFld .sx Pg.trace ⟨R.trcStatus, 24 + d, 1⟩ 1 else m

/-- A full ring in mode 1 stops: frozen is set and TRACE_FROZEN raised (R609).  The event's own record goes to the die-0
ring, unless that ring is the one that stopped. -/
def ringFreeze (m : Mach) (d : Nat) : Mach :=
  let m := m.setFld .sx Pg.trace ⟨R.trcStatus, 26 + d, 1⟩ 1
  let m := m.setIntBit .sx Pg.trace 0
  if d = 1 ∧ !m.ringFrozen 0 ∧ m.shedLevel = 0 ∧ !m.ringWrapped 0 then m.ringStore 0 Pg.trace 1 0 0
  else m.bump .sx Pg.trace R.trcLostCnt

/-- Write a record of `type` from `page`.  EVENT and COMMIT records are counted instead at shed level 1 and above. -/
def trace (m : Mach) (page type bit detail : Nat) : Mach :=
  if !m.bit .sx Pg.trace F.trcCtrl_en then m
  else if type = 1 ∧ bitsOf (m.fld .sx Pg.trace F.trcCtrl_mask)
      (match pageKind m.epParams .sx page with | some k => blockCode k | none => 0) 1 = 0 then m
  else if (type = 1 ∨ type = 7) ∧ 1 ≤ m.shedLevel then m.bump .sx Pg.trace R.trcLostCnt
  else
    let d := dieOfPage page
    let stop := m.bit .sx Pg.trace F.trcCtrl_mode
    if m.ringFrozen d then m.bump .sx Pg.trace R.trcLostCnt
    else if stop && m.ringWrapped d then (m.ringFreeze d).bump .sx Pg.trace R.trcLostCnt
    else
      let m := m.ringStore d page type bit detail
      if stop && m.ringWrapped d then m.ringFreeze d else m

end Mach

/-- Whether an event is of error severity: error or critical in the tables of R638 and R639. -/
def errorSeverity (k : PageKind) (bit : Nat) : Bool :=
  match k with
  | .chip => bit == 0 || bit == 3 || bit == 6
  | .guard => bit == 3
  | .power => bit == 4 || bit == 5
  | .stitch | .eTim => bit == 2
  | .port => bit == 5 || bit == 7 || bit == 8
  | .ePort => bit == 5
  | .tile => bit == 0
  | .cluster => bit == 0 || bit == 2 || bit == 4
  | .die => bit == 0 || bit == 1
  | .ocu => bit == 1 || bit == 7
  | .pleat => bit == 0 || bit == 2
  | .cuff => bit == 0
  | .eEng => bit == 0
  | .eCtx => bit == 1
  | _ => false

namespace Mach

/-- Raise an event: its bit, the error log when it is of error severity, a trace record (R638 to R641). -/
def raise (m : Mach) (c : Chip) (page bit detail : Nat) : Mach :=
  let m := m.setIntBit c page bit
  let m :=
    match pageKind m.epParams c page with
    | some k => if errorSeverity k bit then m.logError c page bit detail else m
    | none => m
  match c with
  | .sx => m.trace page 1 bit detail
  | .ep => m

/-- Rewrite upset copies with the majority: one count and one event for each word that disagreed (R548).  A vote of
GRD_STATE that yields 3 is taken as OPEN by the Guard's own reading. -/
def scrubTmr (m : Mach) (c : Chip) : Mach :=
  let ups := (m.rf c).upsets
  ups.foldl
    (fun m u =>
      if u.2.2 &&& tmrBits c u.1 = 0 then m
      else
        let page := if c = .sx then Pg.chip else Pg.eId
        let m := m.bump c page (if c = .sx then R.chpTmrScrubCnt else R.ep4TmrScrubCnt)
        if c = .sx then m.raise .sx Pg.chip 5 0 else m)
    (let keys := (ups.map (fun u => (u.1, u.2.1 / 3))).eraseDups
     let m' := keys.foldl
       (fun a k =>
         if k.2 = 0 then
           let v := m.voted c k.1 0 ((m.liveCopy c k.1 &&& (info m.epParams c k.1).rws)
             ||| (m.word c k.1 &&& ~~~(info m.epParams c k.1).rws))
           if (info m.epParams c k.1).rws = 0 then a.setWord c k.1 v else a.setLive c k.1 v
         else a.setShadow c k.1 (m.voted c k.1 3 (m.shadow c k.1)))
       m
     m'.setRf c { m'.rf c with upsets := [] })

end Mach

end Sys2Proof.Machine
end

