-- ==== Sys2Proof/Machine/Timebase.lean ====
section
/-! DEFINITION. The stitch timebase (chapter "The stitch timebase"): the timing states of the SX-4 and the EP-4, the
STITCH_IN frame receiver, the ordered sets and the symbols of STITCH_OUT. -/

namespace Sys2Proof.Machine
open Sys2Proof

/-! ## Outcomes of meanings -/

/-- A command that changes the machine only. -/
def State.go (s : State) (f : Mach → Mach) : Host.Outcome State Fault Refusal := .next { s with m := f s.m }

/-- A command that changes the machine, reading the byte memories. -/
def State.goR (s : State) (f : Store → Mach → Mach) : Host.Outcome State Fault Refusal :=
  .next { s with m := f s.store s.m }

/-- A command that changes the machine and the byte memories. -/
def State.goS (s : State) (f : Store × Mach → Store × Mach) : Host.Outcome State Fault Refusal :=
  .next { s with store := (f (s.store, s.m)).1, m := (f (s.store, s.m)).2 }

/-- A command that names a unit: `noSuchUnit` where the chip has none of that number. -/
def State.unit (ok : Bool) (o : Host.Outcome State Fault Refusal) : Host.Outcome State Fault Refusal :=
  if ok then o else .fault .noSuchUnit

namespace Mach

/-! ## Links as the other chapters see them -/

def lk (m : Mach) (c : Chip) (p : Nat) : Link :=
  match c with
  | .sx => Tbl.get (fun _ => {}) m.link p
  | .ep => Tbl.get (fun _ => {}) m.epLink p

/-- Ports of a chip (R17, R367). -/
def portCount (m : Mach) : Chip → Nat
  | .sx => 144
  | .ep => m.epParams.ports

def hasPort (m : Mach) (c : Chip) (p : Nat) : Bool := decide (p < m.portCount c)

/-- A port that is up (R495). -/
def isUp (m : Mach) (c : Chip) (p : Nat) : Bool := (m.lk c p).st == .up

/-- The EP-4 port's plane: its partner's node less 960 (R372). -/
def planeOfPort (m : Mach) (p : Nat) : Nat :=
  match (m.lk .ep p).partner with
  | some q => q.node - 960
  | none => 0

/-! ## The SX-4 -/

def isSource (m : Mach) : Bool := m.fld .sx Pg.stitch F.sthCtrl_role == 1

def tstateCode : TState → Nat
  | .free => 0
  | .acquiring => 1
  | .locked => 2
  | .holdover => 3

/-- Set the SX-4's timing and report it in STH_STATUS (R73). -/
def putTime (m : Mach) (t : Timing) : Mach :=
  let m := { m with time := t }
  let m := m.setFld .sx Pg.stitch F.sthStatus_state (tstateCode t.st)
  let m := m.setFld .sx Pg.stitch F.sthStatus_inValid (if t.inValid then 1 else 0)
  m.setFld .sx Pg.stitch F.sthStatus_offset (codeOf t.offset 16)

/-- 0.1 ns is 11.2 units of 1/64 cycle (8.93 ps, R63). -/
def phaseGood (i : Int) : Bool := decide (-11 ≤ i ∧ i ≤ 11)

/-- Enter HOLDOVER and raise STITCH_HOLDOVER (R63, R65). -/
def enterHoldover (m : Mach) : Mach :=
  (m.putTime { m.time with st := .holdover, holdStitches := 0, expired := false, goodFrames := 0,
                           sourceStitches := 0 }).raise .sx Pg.stitch 1 0

/-- The symbol of a pulse's width (R58): 0, 1, the frame marker 2, or none of them. -/
def pulseSymbol (w : Nat) : Option Nat :=
  if 80 ≤ w ∧ w ≤ 120 then some 0
  else if 180 ≤ w ∧ w ≤ 220 then some 1
  else if 280 ≤ w ∧ w ≤ 320 then some 2
  else none

/-- The number of ones in F[63:6] modulo 32 (R59). -/
def frameOnes (f : Nat) : Nat := ((List.range 58).map (fun i => bitsOf f (6 + i) 1)).foldl (· + ·) 0 % 32

/-- The symbol that stitch `n` carries in its frame (R59). -/
def stitchSymbol (n : Nat) : Nat :=
  let k := n % 64
  let f := n - k
  if k = 0 then 2
  else if k ≤ 58 then bitsOf f (k + 5) 1
  else bitsOf (frameOnes f) (k - 59) 1

/-- The number and check that the 63 symbols after a marker spell: F when the check matches (R59, R60). -/
def frameNumber (bits : List Nat) : Option Nat :=
  let f := (bits.take 58).foldr (fun b a => b + 2 * a) 0 * 64
  let chk := (bits.drop 58).foldr (fun b a => b + 2 * a) 0
  if chk = frameOnes f then some f else none

/-- An invalid frame (R60): counted, not used; the third in a row takes a locked follower to HOLDOVER (R63). -/
def frameInvalid (m : Mach) : Mach :=
  let m := m.bump .sx Pg.stitch R.sthFrameErr
  let t := { m.time with inValid := false, goodFrames := 0, badFrames := m.time.badFrames + 1, frameK := none,
                         frameBits := [], frameF := none }
  let m := m.putTime t
  if t.st = .locked ∧ t.badFrames ≥ 3 then m.enterHoldover else m

/-- A valid frame of number `f`, complete in the stitch in progress, whose own count should be `f + 63` (R63, R65). -/
def frameValid (m : Mach) (f : Nat) : Mach :=
  let t := { m.time with inValid := true, badFrames := 0, frameK := none, frameBits := [], frameF := some f }
  if !t.loaded then m.putTime { t with st := .acquiring }
  else if t.number = f + 63 then m.putTime { t with goodFrames := t.goodFrames + 1 }
  else
    let m := (m.putTime { t with goodFrames := 0 }).bump .sx Pg.stitch R.sthNumMismatch
    let m := m.raise .sx Pg.stitch 3 0
    if t.st = .locked then m.enterHoldover else m

/-- A frame marker: it ends a frame in progress as invalid and begins a new one; in ACQUIRING it loads the stitch number
F + 64 once (R60, R63, R64). -/
def frameMarker (m : Mach) : Mach :=
  let m := if m.time.frameK.isSome then m.frameInvalid else m
  let t := { m.time with frameK := some 0, frameBits := [] }
  match t.st, t.loaded, t.frameF with
  | .acquiring, false, some f =>
    m.putTime { t with number := f + 64, cycle := 0, loaded := true, goodPhase := 0, goodFrames := 0 }
  | _, _, _ => m.putTime t

/-- One expected edge of STITCH_IN (R58 to R60); `none` is a missing edge. -/
def stitchPulse (m : Mach) (p : Option Pulse) : Mach :=
  match p with
  | none => if m.time.frameK.isSome then m.frameInvalid else m
  | some q =>
    if q.interval < 495 ∨ 505 < q.interval then m.frameInvalid
    else
      match pulseSymbol q.width with
      | none => m.frameInvalid
      | some 2 => m.frameMarker
      | some b =>
        match m.time.frameK with
        | none => m
        | some k =>
          let bits := m.time.frameBits ++ [b]
          if k + 1 < 63 then m.putTime { m.time with frameK := some (k + 1), frameBits := bits }
          else
            match frameNumber bits with
            | some f => m.frameValid f
            | none => m.frameInvalid

/-- A commit changed the role (R64): a source that has not loaded enters ACQUIRING; a follower committed from LOCKED
enters HOLDOVER. -/
def roleCommitted (m : Mach) (was : Bool) : Mach :=
  let is := m.isSource
  if is = was then m
  else if is then
    if m.time.loaded then m.putTime { m.time with sourceStitches := 0, goodFrames := 0, frameK := none, frameBits := [] }
    else m.putTime { m.time with st := .acquiring, frameK := none, frameBits := [] }
  else if m.time.st = .locked then m.enterHoldover else m.putTime { m.time with goodFrames := 0 }

/-- Cycle 0 of the next stitch (R46): the number advances by one, or a source in ACQUIRING that has not loaded loads
STH_SEED (R64); the phase error measured over the stitch that ended is taken, zero for a source (R644). -/
def advanceStitch (m : Mach) (phase : Int) : Mach :=
  let src := m.isSource
  let t := m.time
  let ph : Int := if src then 0 else phase
  if src ∧ t.st = .acquiring ∧ !t.loaded then
    m.putTime { t with
      number := m.reg .sx Pg.stitch R.sthSeedLo + 2 ^ 32 * m.reg .sx Pg.stitch R.sthSeedHi,
      cycle := 0, loaded := true, offset := 0, goodPhase := 0, sourceStitches := 0, wasSource := src }
  else
    m.putTime { t with
      number := (t.number + 1) % 2 ^ 64, cycle := 0, offset := ph, wasSource := src,
      goodPhase := if t.loaded && phaseGood ph then t.goodPhase + 1 else 0,
      sourceStitches := if src && t.loaded then t.sourceStitches + 1 else 0,
      holdStitches := if t.st = .holdover then t.holdStitches + 1 else t.holdStitches }

/-- Whether the SX-4 may enter LOCKED (R63, R64, R65). -/
def lockReady (m : Mach) : Bool :=
  let t := m.time
  match t.st with
  | .acquiring =>
    t.loaded && (if m.isSource then decide (64 ≤ t.sourceStitches)
                 else decide (64 ≤ t.goodPhase) && decide (2 ≤ t.goodFrames))
  | .holdover =>
    if m.isSource then decide (64 ≤ t.sourceStitches) else decide (2 ≤ t.goodFrames) && phaseGood t.offset
  | _ => false

/-- Whether COMMIT_AT, Cuff rounds, Zelry slots and congestion epochs are open: not in FREE or ACQUIRING (R67). -/
def timed (m : Mach) : Bool := m.time.st == .locked || m.time.st == .holdover

/-! ## The EP-4 -/

def putEpTime (m : Mach) (t : EpTiming) : Mach :=
  ({ m with epTime := t } : Mach).setFld .ep Pg.eTim F.ep4TimStatus_state (tstateCode t.st)

/-- The timing plane's port: the named plane while it is served, else the lowest-numbered plane whose port is at S1 or
above (R69, R378). -/
def epTimingPort (m : Mach) : Option Nat :=
  let served := (List.range m.epParams.ports).filter fun p =>
    1 ≤ (m.lk .ep p).step && ((m.lk .ep p).st == .up || (m.lk .ep p).st == .climbing)
  let named := if m.bit .ep Pg.eTim F.ep4TimCtrl_named then
      served.find? (fun p => m.planeOfPort p == m.fld .ep Pg.eTim F.ep4TimCtrl_plane)
    else none
  match named with
  | some p => some p
  | none =>
    served.foldl
      (fun a p =>
        match a with
        | none => some p
        | some q => if m.planeOfPort p < m.planeOfPort q then some p else a)
      none

def epEnterHoldover (m : Mach) : Mach :=
  (m.putEpTime { m.epTime with st := .holdover, holdStitches := 0, expired := false, goodSets := 0 }).raise
    .ep Pg.eTim 1 0

/-- A time of R483, low 16 bits of the stitch and 1/64-cycle units within it, as one number of units. -/
def setTime (t : Nat) : Nat := t / 65536 % 65536 * 56000 + t % 65536

/-- The signed difference of two such times. -/
def timeDiff (a b : Nat) : Int :=
  let span : Int := 65536 * 56000
  let d := ((a : Int) - b) % span
  if d < span / 2 then d else d - span

/-- The offset estimate of R69: half of (t2 - t1) - (t4 - t3). -/
def offsetEstimate (t1 t2 t3 t4 : Nat) : Int := (timeDiff t2 t1 - timeDiff t4 t3) / 2

/-- The spread between the earliest and the latest plane (R71). -/
def epSpread (m : Mach) : Nat :=
  let offs := (List.range 16).filterMap fun j =>
    if m.bit .ep Pg.eTim (F.ep4TimOffset_valid j) then some (signedOf (m.fld .ep Pg.eTim (F.ep4TimOffset_offset j)) 16)
    else none
  match offs with
  | [] => 0
  | o :: os => (os.foldl max o - os.foldl min o).toNat

/-- Take one measurement of a plane's offset, and judge the spread: above 2 ns (224 units) for 16 consecutive
measurements raises STITCH_SPREAD (R71). -/
def epMeasure (m : Mach) (plane : Nat) (off : Int) : Mach :=
  let m := m.setFld .ep Pg.eTim (F.ep4TimOffset_offset plane) (codeOf off 16)
  let m := m.setFld .ep Pg.eTim (F.ep4TimOffset_valid plane) 1
  let sp := m.epSpread
  let m := m.setFld .ep Pg.eTim F.ep4TimStatus_spreadVal (min sp 65535)
  let run := if 224 < sp then m.epTime.spreadRun + 1 else 0
  let m := m.putEpTime { m.epTime with spreadRun := run }
  let m := m.setFld .ep Pg.eTim F.ep4TimStatus_spread (if 16 ≤ run then 1 else 0)
  if run = 16 then m.raise .ep Pg.eTim 4 0 else m

/-- Move the EP-4's boundary, and its stitch number with it, by whole cycles to the cycle nearest the estimate (R69). -/
def epMoveBoundary (m : Mach) (off : Int) : Mach :=
  let cycles : Int := (off + 32) / 64
  let pos : Int := (m.epTime.number * 875 + m.epTime.cycle : Nat) - cycles
  let p := pos.toNat
  m.putEpTime { m.epTime with number := p / 875, cycle := p % 875, estimated := true }

/-- What a set from the timing plane does to the timing state (R69): the load on leaving FREE, and the comparison of its
number with the own count afterwards. -/
def epFollow (m : Mach) (number : Nat) : Mach :=
  let t := m.epTime
  match t.st with
  | .free => m.putEpTime { t with st := .acquiring, number := number, cycle := 0, loaded := true, estimated := false,
                                  goodPhase := 0, goodSets := 0, lastSet := some number }
  | _ =>
    if t.number = number then
      let seq := match t.lastSet with | some l => decide (number = l + 16) | none => true
      m.putEpTime { t with goodSets := if seq then t.goodSets + 1 else 1, lastSet := some number }
    else
      let m := (m.putEpTime { t with goodSets := 0, lastSet := none }).bump .ep Pg.eTim R.ep4TimNumMismatch
      let m := m.raise .ep Pg.eTim 3 0
      if t.st = .locked then m.epEnterHoldover else m

/-- Whether the EP-4 may enter LOCKED (R69, R72). -/
def epLockReady (m : Mach) : Bool :=
  let t := m.epTime
  match t.st with
  | .acquiring => decide (64 ≤ t.goodPhase) && decide (2 ≤ t.goodSets)
  | .holdover => decide (2 ≤ t.goodSets) && decide (1 ≤ t.goodPhase)
  | _ => false

/-- Cycle 0 of the EP-4's next stitch. -/
def epAdvanceStitch (m : Mach) (phase : Int) : Mach :=
  let t := m.epTime
  let m := m.putEpTime { t with
    number := (t.number + 1) % 2 ^ 64, cycle := 0,
    goodPhase := if t.loaded && phaseGood phase then t.goodPhase + 1 else 0,
    silence := t.silence + 1,
    holdStitches := if t.st = .holdover then t.holdStitches + 1 else t.holdStitches }
  let m := (List.range m.epParams.ports).foldl
    (fun m p =>
      match Tbl.get (fun _ => (0, 0, 0)) m.epTime.exch p with
      | (_, _, last) =>
        if last + 64 < m.epTime.number then m.setFld .ep Pg.eTim (F.ep4TimOffset_valid (m.planeOfPort p % 16)) 0 else m)
    m
  match m.epTimingPort with
  | some p => m.setFld .ep Pg.eTim F.ep4TimStatus_timingPlane (m.planeOfPort p % 16)
  | none => m

end Mach

/-! ## Meanings -/

/-- STITCH_IN_FRAME (R58 to R60, R63 to R65): the edges of a frame are received.  A source ignores them (R67). -/
def execStitchInFrame (pulses : List (Option Pulse)) (s : State) : Host.Outcome State Fault Refusal :=
  s.go fun m => if m.time.wasSource then m else pulses.foldl Mach.stitchPulse m

/-- STITCH_EDGE_MISSING (R63): two stitches without a rising edge take a locked follower to HOLDOVER. -/
def execStitchEdgeMissing (s : State) : Host.Outcome State Fault Refusal :=
  s.go fun m => if m.time.st = .locked ∧ !m.time.wasSource then m.enterHoldover else m

/-- STITCH_LOCK (R63, R65, R644): the chip enters LOCKED once its conditions hold, and raises STITCH_LOCKED. -/
def execStitchLock (c : Chip) (s : State) : Host.Outcome State Fault Refusal :=
  s.go fun m =>
    match c with
    | .sx => if m.lockReady then (m.putTime { m.time with st := .locked, badFrames := 0 }).raise .sx Pg.stitch 0 0 else m
    | .ep => if m.epLockReady then (m.putEpTime { m.epTime with st := .locked }).raise .ep Pg.eTim 0 0 else m

/-- STITCH_HOLDOVER_EXPIRED (R66): raised once after the limit of stitches in HOLDOVER; nothing else changes. -/
def execStitchHoldoverExpired (c : Chip) (s : State) : Host.Outcome State Fault Refusal :=
  s.go fun m =>
    match c with
    | .sx =>
      if m.time.st = .holdover ∧ !m.time.expired
          ∧ m.fld .sx Pg.stitch F.sthHoldoverLimit_limit ≤ m.time.holdStitches then
        (m.putTime { m.time with expired := true }).raise .sx Pg.stitch 2 0
      else m
    | .ep =>
      if m.epTime.st = .holdover ∧ !m.epTime.expired
          ∧ m.fld .ep Pg.eTim F.ep4TimCtrl_holdoverLimit ≤ m.epTime.holdStitches then
        (m.putEpTime { m.epTime with expired := true }).raise .ep Pg.eTim 2 0
      else m

/-- The receive side of a stitch ordered set at an EP-4 port (R69 to R71). -/
def Mach.epOrderedSet (m : Mach) (port number tRx tTx rxTime : Nat) : Mach :=
  let plane := m.planeOfPort port % 16
  let prev := Tbl.get (fun _ => (0, 0, 0)) m.epTime.exch port
  let m := m.putEpTime { m.epTime with silence := 0 }
  let timing := m.epTimingPort = some port
  let m := if timing then m.epFollow number else m
  let m :=
    if prev.1 = 0 ∨ prev.2.1 = 0 then m
    else
      let off := Mach.offsetEstimate tTx (prev.1 - 1) (prev.2.1 - 1) tRx
      let m := if timing ∧ m.epTime.st = .acquiring ∧ !m.epTime.estimated then m.epMoveBoundary off else m
      m.epMeasure plane off
  m.putEpTime { m.epTime with
    exch := Tbl.set (fun _ => (0, 0, 0)) m.epTime.exch port (rxTime + 1, prev.2.1, m.epTime.number) }

/-- STITCH_ORDERED_SET (R68, R69): the receiver records its receive time; an EP-4 measures its offset and follows its
timing plane. -/
def execStitchOrderedSet (c : Chip) (port number tRx tTx rxTime : Nat) (s : State) :
    Host.Outcome State Fault Refusal :=
  State.unit (s.m.hasPort c port) <| s.go fun m =>
    match c with
    | .sx => { m with sxExch := Tbl.modify (fun _ => (0, 0)) m.sxExch port (fun e => (rxTime, e.2)) }
    | .ep => m.epOrderedSet port number tRx tTx rxTime

/-- EP4_STITCH_SILENCE (R72): 2,048 stitches without an ordered set take a locked EP-4 to HOLDOVER. -/
def execEp4StitchSilence (s : State) : Host.Outcome State Fault Refusal :=
  s.go fun m => if m.epTime.st = .locked ∧ 2048 ≤ m.epTime.silence then m.epEnterHoldover else m

end Sys2Proof.Machine
end

