-- ==== Sys2Proof/Machine/Packets.lean ====
section
/-! DEFINITION. Cizon packets (chapter "Cizon packets and fabric addressing"): the header's fields, the opcodes, the
malformed conditions of R99 in their order, and how packets are built. -/

namespace Sys2Proof
namespace Packet

/-! ## Header fields (R79) -/

def opcode (p : Packet) : Nat := bitsOf p.hdr.toNat 0 8
def vc (p : Packet) : Nat := bitsOf p.hdr.toNat 8 3
def length (p : Packet) : Nat := bitsOf p.hdr.toNat 12 13
def relaxed (p : Packet) : Nat := bitsOf p.hdr.toNat 25 1
def flagged (p : Packet) : Nat := bitsOf p.hdr.toNat 26 1
def mark (p : Packet) : Nat := bitsOf p.hdr.toNat 27 1
def echo (p : Packet) : Nat := bitsOf p.hdr.toNat 28 1
def poison (p : Packet) : Nat := bitsOf p.hdr.toNat 29 1
def last (p : Packet) : Nat := bitsOf p.hdr.toNat 30 1
def dst (p : Packet) : Nat := bitsOf p.hdr.toNat 32 10
def src (p : Packet) : Nat := bitsOf p.hdr.toNat 42 10
def epoch (p : Packet) : Nat := bitsOf p.hdr.toNat 52 4
def stream (p : Packet) : Nat := bitsOf p.hdr.toNat 56 6
def pkey (p : Packet) : Nat := bitsOf p.hdr.toNat 64 16
def context (p : Packet) : Nat := bitsOf p.hdr.toNat 80 10
def tag (p : Packet) : Nat := bitsOf p.hdr.toNat 96 16
def status (p : Packet) : Nat := bitsOf p.hdr.toNat 112 8
def modifier (p : Packet) : Nat := bitsOf p.hdr.toNat 120 8
def address (p : Packet) : Nat := bitsOf p.hdr.toNat 128 64
def aux (p : Packet) : Nat := bitsOf p.hdr.toNat 192 64

/-- Fields of a fabric address (R87). -/
def addrNode (p : Packet) : Nat := bitsOf p.address 54 10
def addrSpace (p : Packet) : Nat := bitsOf p.address 52 2
def offset (p : Packet) : Nat := bitsOf p.address 0 52

/-- The reserved header bits of R79, which are sent as zero. -/
def reservedBits (p : Packet) : Nat :=
  bitsOf p.hdr.toNat 11 1 + bitsOf p.hdr.toNat 31 1 + bitsOf p.hdr.toNat 62 2 + bitsOf p.hdr.toNat 90 6

/-- The extent in granules (R75): 2 + ceil(L / 16). -/
def granules (p : Packet) : Nat := 2 + ceilDiv p.length 16

/-- Set one header bit (R78 lets an SX-4 set mark and poison). -/
def setBit (p : Packet) (b : Nat) : Packet := { p with hdr := p.hdr ||| BitVec.ofNat 256 (2 ^ b) }

def setMark (p : Packet) : Packet := p.setBit 27
def setPoison (p : Packet) : Packet := p.setBit 29

end Packet

namespace Op
def read : Nat := 0x01
def write : Nat := 0x02
def flagWrite : Nat := 0x03
def atomic : Nat := 0x04
def atomicPosted : Nat := 0x05
def syncWait : Nat := 0x06
def readData : Nat := 0x21
def writeAck : Nat := 0x22
def atomicData : Nat := 0x23
def atomicAck : Nat := 0x24
def syncNotify : Nat := 0x25
def nack : Nat := 0x2F
def pltContrib : Nat := 0x40
def pltShard : Nat := 0x41
def pltResult : Nat := 0x42
def bktSend : Nat := 0x43
def bktDeliver : Nat := 0x44
def bktDropmap : Nat := 0x45
def cufContrib : Nat := 0x60
def cufResult : Nat := 0x61
def mgtRead : Nat := 0x80
def mgtWrite : Nat := 0x81
def mgtData : Nat := 0x82
def mgtAck : Nat := 0x83
def pfault : Nat := 0x88
def zlyTest : Nat := 0xA0
end Op

namespace Status
def late : Nat := 0x01
def poisoned : Nat := 0x02
def pkeyDenied : Nat := 0x03
def contextDenied : Nat := 0x04
def badAddress : Nat := 0x05
def misaligned : Nat := 0x06
def badSpace : Nat := 0x07
def accessDenied : Nat := 0x08
def noRoute : Nat := 0x09
def refusedShed : Nat := 0x0A
end Status

namespace Machine

/-! ## Opcodes (R92) -/

/-- The home VC of an opcode; none where the code is unassigned. -/
def homeVc (op : Nat) : Option Nat :=
  if op = Op.read ∨ op = Op.write ∨ op = Op.flagWrite ∨ op = Op.atomic ∨ op = Op.atomicPosted ∨ op = Op.syncWait then some 0
  else if op = Op.readData ∨ op = Op.writeAck ∨ op = Op.atomicData ∨ op = Op.atomicAck ∨ op = Op.syncNotify
      ∨ op = Op.nack then some 1
  else if op = Op.pltContrib ∨ op = Op.pltShard ∨ op = Op.pltResult ∨ op = Op.bktSend ∨ op = Op.bktDeliver
      ∨ op = Op.bktDropmap then some 2
  else if op = Op.cufContrib ∨ op = Op.cufResult then some 3
  else if op = Op.mgtRead ∨ op = Op.mgtWrite ∨ op = Op.mgtData ∨ op = Op.mgtAck ∨ op = Op.pfault then some 4
  else if op = Op.zlyTest then some 5
  else none

/-- Whether units of the opcode span packets (R92). -/
def spansPackets (op : Nat) : Bool :=
  op == Op.readData || op == Op.pltContrib || op == Op.pltShard || op == Op.pltResult || op == Op.bktSend
    || op == Op.bktDeliver

/-- A VC0 request. -/
def isRequest (op : Nat) : Bool := homeVc op == some 0

/-- A legal atomic combination and its payload length (R93). -/
def atomicLen (modifier : Nat) : Option Nat :=
  let op := bitsOf modifier 0 4
  let w := bitsOf modifier 4 2
  let f := bitsOf modifier 6 2
  if op ≤ 2 ∧ w ≤ 1 ∧ f ≤ 2 then some (4 * 2 ^ w)
  else if op = 3 ∧ w ≤ 2 ∧ f = 0 then some (8 * 2 ^ w)
  else none

/-- The operand width in bytes of an atomic (R93). -/
def atomicWidth (modifier : Nat) : Nat := 4 * 2 ^ bitsOf modifier 4 2

/-- The VC is the home VC, or VC5 where R91 lets it be. -/
def vcAllowed (op vc : Nat) : Bool :=
  match homeVc op with
  | none => false
  | some h => vc == h || (decide (h ≤ 3) && vc == 5)

/-- The payload rule of R92 for a length of at most 4,096; atomics are judged only when their combination is legal. -/
def lengthOk (op modifier len : Nat) : Bool :=
  if op = Op.read ∨ op = Op.syncWait ∨ op = Op.writeAck ∨ op = Op.atomicAck ∨ op = Op.nack ∨ op = Op.mgtRead
      ∨ op = Op.mgtAck ∨ op = Op.pfault then len == 0
  else if op = Op.write ∨ op = Op.flagWrite then true
  else if op = Op.atomic ∨ op = Op.atomicPosted then
    match atomicLen modifier with
    | some n => len == n
    | none => true
  else if op = Op.atomicData then len == 4 || len == 8 || len == 16
  else if op = Op.syncNotify then len == 8
  else if op = Op.bktDropmap then len == 32
  else if op = Op.cufContrib then decide (1 ≤ len ∧ len ≤ 256)
  else if op = Op.cufResult then decide (33 ≤ len ∧ len ≤ 288)
  else if op = Op.mgtWrite ∨ op = Op.mgtData then decide (4 ≤ len ∧ len ≤ 64 ∧ len % 4 = 0)
  else decide (1 ≤ len)

/-- The PFAULT reason codes that R642 assigns. -/
def pfaultReasonOk (r : Nat) : Bool := decide (1 ≤ r ∧ r ≤ 13) || decide (0x20 ≤ r ∧ r ≤ 0x2A)

/-- The aux field is within its opcode's use (R92; R95 and R114 give ATOMIC_ACK the bit aux[0], log 11). -/
def auxOk (p : Packet) : Bool :=
  let op := p.opcode
  let a := p.aux
  if op = Op.read then decide (1 ≤ a ∧ a ≤ 16384)
  else if op = Op.readData then decide (a < 65536 ∧ a % 4096 = 0)
  else if op = Op.writeAck ∨ op = Op.atomicAck then decide (a ≤ 1)
  else if op = Op.nack then (if p.status = Status.pkeyDenied then decide (a < 65536) else a == 0)
  else if op = Op.pltContrib ∨ op = Op.pltShard ∨ op = Op.pltResult then decide (a < 2 ^ 53)
  else if op = Op.bktSend ∨ op = Op.bktDeliver then decide (a < 2 ^ 29)
  else if op = Op.bktDropmap then decide (a < 2 ^ 21)
  else if op = Op.mgtRead then decide (1 ≤ a ∧ a ≤ 16)
  else if op = Op.pfault then pfaultReasonOk (a % 256)
  else if op = Op.syncWait ∨ op = Op.cufContrib ∨ op = Op.cufResult ∨ op = Op.zlyTest then true
  else a == 0

/-- The modifier is legal: an atomic combination of R93, zero elsewhere. -/
def modifierOk (p : Packet) : Bool :=
  if p.opcode = Op.atomic ∨ p.opcode = Op.atomicPosted then (atomicLen p.modifier).isSome else p.modifier == 0

/-- Responses and results, the opcodes that may carry a status. -/
def carriesStatus (op : Nat) : Bool :=
  homeVc op == some 1 || op == Op.mgtData || op == Op.mgtAck || op == Op.cufResult

/-- Mark and echo as R86 allows them at the receiving chip: a packet from an EP-4 carries no mark. -/
def markEchoOk (c : Chip) (p : Packet) : Bool :=
  (p.mark == 0 || (c == .ep && (p.vc == 0 || p.vc == 2))) && (p.echo == 0 || p.vc == 1)

/-- The lowest reason of R99 that a packet received by chip `c` meets; none when its header is well-formed. -/
def malformed (c : Chip) (p : Packet) : Option Nat :=
  let op := p.opcode
  let request := isRequest op || op == Op.mgtRead || op == Op.mgtWrite
  if 6 ≤ p.vc then some 0x01
  else if homeVc op = none then some 0x02
  else if !vcAllowed op p.vc then some 0x03
  else if 4096 < p.length then some 0x04
  else if !lengthOk op p.modifier p.length then some 0x05
  else if p.extent ≠ 16 * p.granules then some 0x06
  else if p.reservedBits ≠ 0 ∨ !modifierOk p ∨ !auxOk p then some 0x07
  else if p.relaxed ≠ (if p.stream = 63 then 1 else 0) then some 0x08
  else if (op = Op.flagWrite ∧ p.flagged = 0)
      ∨ (p.flagged = 1 ∧ op ≠ Op.flagWrite ∧ op ≠ Op.atomic ∧ op ≠ Op.atomicPosted) then some 0x09
  else if p.last = 0 ∧ !spansPackets op then some 0x0A
  else if !markEchoOk c p then some 0x0B
  else if 976 ≤ p.dst ∨ 976 ≤ p.src then some 0x0C
  else if request ∧ p.addrNode ≠ p.dst then some 0x0D
  else if request ∧ p.addrSpace = 3 then some 0x0E
  else if (!carriesStatus op ∧ p.status ≠ 0) ∨ 0x0A < p.status then some 0x0F
  else none

/-! ## Building packets -/

/-- The fields of a packet to build; relaxed follows from the stream (R81), the length from the payload. -/
structure HdrSpec where
  opcode : Nat
  vc : Nat
  flagged : Nat := 0
  echo : Nat := 0
  poison : Nat := 0
  last : Nat := 1
  dst : Nat
  src : Nat
  epoch : Nat := 0
  stream : Nat := 0
  pkey : Nat := 0
  context : Nat := 0
  tag : Nat := 0
  status : Nat := 0
  modifier : Nat := 0
  address : Nat := 0
  aux : Nat := 0

/-- Lay out a header (R79) and join its payload. -/
def HdrSpec.packet (h : HdrSpec) (payload : List Byte) : Packet :=
  { hdr := BitVec.ofNat 256
      (place h.opcode 0 8 + place h.vc 8 3 + place payload.length 12 13
        + place (if h.stream = 63 then 1 else 0) 25 1 + place h.flagged 26 1 + place h.echo 28 1 + place h.poison 29 1
        + place h.last 30 1 + place h.dst 32 10 + place h.src 42 10 + place h.epoch 52 4 + place h.stream 56 6
        + place h.pkey 64 16 + place h.context 80 10 + place h.tag 96 16 + place h.status 112 8 + place h.modifier 120 8
        + place h.address 128 64 + place h.aux 192 64),
    payload := payload,
    extent := 16 * (2 + ceilDiv payload.length 16) }

/-- A fabric address (R87). -/
def fabricAddr (node space offset : Nat) : Nat := node * 2 ^ 54 + space * 2 ^ 52 + offset

namespace Mach

/-- The own configuration epoch (R546), changed by a commit from cycle 0 of the next stitch (R47). -/
def epochNow (m : Mach) : Chip → Nat
  | .sx => m.seenFld .sx Pg.chip F.chpEpoch_epoch
  | .ep => m.seenFld .ep Pg.eId F.ep4Epoch_epoch

def epochPrev (m : Mach) : Chip → Nat
  | .sx => m.seenFld .sx Pg.chip F.chpEpoch_previous
  | .ep => m.seenFld .ep Pg.eId F.ep4Epoch_previous

/-- The SX-4's node: 960 + plane; 0x3FF while no plane is assigned (R560). -/
def sxNode (m : Mach) : Nat :=
  if m.bit .sx Pg.chip F.chpNode_valid then 960 + m.fld .sx Pg.chip F.chpNode_plane else 0x3FF

/-- The EP-4's node (R370). -/
def epNode (m : Mach) : Nat := m.fld .ep Pg.eId F.ep4Node_node

def nodeOf (m : Mach) : Chip → Nat
  | .sx => m.sxNode
  | .ep => m.epNode

/-- A response to a request (R94): fields copied from the request, the responder's own epoch. -/
def response (m : Mach) (c : Chip) (q : Packet) (opcode status echo poison aux : Nat) (payload : List Byte) : Packet :=
  HdrSpec.packet
    { opcode := opcode, vc := if 0x80 ≤ opcode then 4 else 1, echo := echo, poison := poison, dst := q.src, src := q.dst,
      epoch := m.epochNow c % 16, stream := q.stream, pkey := q.pkey, context := q.context, tag := q.tag,
      status := status, address := q.address, aux := aux } payload

/-- The NACK that an SX-4 builds at its ingress (R98). -/
def ingressNack (m : Mach) (q : Packet) (status : Nat) : Packet :=
  HdrSpec.packet
    { opcode := Op.nack, vc := 1, dst := q.src, src := q.dst, epoch := m.epochNow .sx % 16, stream := q.stream,
      pkey := 0, context := q.context, tag := q.tag, status := status, address := q.address,
      aux := if status = Status.pkeyDenied then q.pkey else 0 } []

/-- The PFAULT an SX-4 sends to a partner (R598). -/
def pfaultPacket (m : Mach) (c : Chip) (dst key reason : Nat) : Packet :=
  HdrSpec.packet
    { opcode := Op.pfault, vc := 4, dst := dst, src := m.nodeOf c, epoch := m.epochNow c % 16, pkey := key,
      address := fabricAddr dst 2 0, aux := reason % 256 + m.now c % 2 ^ 56 * 256 } []

end Mach
end Machine
end Sys2Proof
end

