-- ==== Sys2Proof/Machine/Flits.lean ====
section
/-! DEFINITION. The transmit side of a link (chapter "Lanes and links", R467 and R476 to R487): flits and their CRC, credit
reports, the replay buffer, control messages, and the sending of a packet's granules. -/

namespace Sys2Proof.Machine
open Sys2Proof

/-! ## CRC (R478) -/

/-- One bit into the CRC-64, most significant bit first (DEDUCED, log 9). -/
def crc64Bit (c : DWord) (b : Bool) : DWord :=
  let top := c.msb != b
  (c <<< 1) ^^^ (if top then 0x42F0E1EBA9EA3693#64 else 0#64)

def crc64Byte (c : DWord) (b : Byte) : DWord :=
  (List.range 8).foldl (fun c i => crc64Bit c (b.getMsbD i)) c

/-- CRC-64 of R478: initial value all ones, final XOR all ones. -/
def crc64 (bs : List Byte) : DWord := ~~~(bs.foldl crc64Byte (BitVec.allOnes 64))

/-- The bytes of a granule, least significant first. -/
def granBytes (g : BitVec 128) : List Byte := leBytes 16 g.toNat

/-- The flit's bytes 0 to 247 (R476). -/
def flitBody (hdr : BitVec 64) (gran : List (BitVec 128)) : List Byte :=
  leBytes 8 hdr.toNat ++ (gran.map granBytes).flatten

def flitCrc (hdr : BitVec 64) (gran : List (BitVec 128)) : DWord := crc64 (flitBody hdr gran)

/-- A flit that its receiver accepts (R475, R478). -/
def flitGood (f : Flit) : Bool := !f.uncorrectable && f.gran.length == 15 && f.crc == flitCrc f.hdr f.gran

/-! ## Header fields (R477) -/

namespace FlitHdr
def kind (h : BitVec 64) : Nat := bitsOf h.toNat 0 2
def seq (h : BitVec 64) : Nat := bitsOf h.toNat 2 10
def ack (h : BitVec 64) : Nat := bitsOf h.toNat 12 10
def nak (h : BitVec 64) : Bool := bitsOf h.toNat 22 1 == 1
def stomp (h : BitVec 64) : Bool := bitsOf h.toNat 23 1 == 1
def holdFrom (h : BitVec 64) : Nat := bitsOf h.toNat 24 4
def creditVc (h : BitVec 64) : Nat := bitsOf h.toNat 28 3
def creditCount (h : BitVec 64) : Nat := bitsOf h.toNat 32 16
def startMap (h : BitVec 64) : Nat := bitsOf h.toNat 48 15
end FlitHdr

/-! ## Packets as granules (R75, R79) -/

/-- Split a byte list into granules, the last one padded with zeros. -/
def bytesToGran : Nat → List Byte → List (BitVec 128)
  | 0, _ => []
  | n + 1, bs => BitVec.ofNat 128 (ofLeBytes (bs.take 16)) :: bytesToGran n (bs.drop 16)

/-- A packet's granules: two of header, then its payload. -/
def granulesOf (p : Packet) : List (BitVec 128) :=
  BitVec.ofNat 128 p.hdr.toNat :: BitVec.ofNat 128 (p.hdr.toNat / 2 ^ 128)
    :: bytesToGran (ceilDiv p.length 16) p.payload

/-- The packet that a list of granules spells; its extent is what arrived. -/
def packetOf (gs : List (BitVec 128)) : Packet :=
  let hdr : BitVec 256 := BitVec.ofNat 256 ((gs.getD 0 0).toNat + (gs.getD 1 0).toNat * 2 ^ 128)
  let p : Packet := { hdr := hdr, payload := [], extent := 16 * gs.length }
  { p with payload := ((gs.drop 2).map granBytes).flatten.take p.length }

/-! ## Rates (R467) -/

/-- Width of a lane mask: the widest of x4, x2 and x1 (R465). -/
def widthOf (mask : Nat) : Nat :=
  let n := ((List.range 4).map (fun i => bitsOf mask i 1)).foldl (· + ·) 0
  if n = 4 then 4 else if 2 ≤ n then 2 else n

/-- Payload rate in Gb/s (R467). -/
def payloadRate (step width : Nat) : Nat :=
  if step = 1 then (if width = 4 then 191 else if width = 2 then 95 else if width = 1 then 47 else 0)
  else if step = 2 then (if width = 4 then 382 else if width = 2 then 191 else if width = 1 then 95 else 0)
  else if step = 3 then (if width = 4 then 722 else if width = 2 then 361 else if width = 1 then 180 else 0)
  else if step = 4 then (if width = 4 then 764 else if width = 2 then 382 else if width = 1 then 191 else 0)
  else 0

def Link.rate (l : Link) : Nat := payloadRate l.step (widthOf l.mask)

/-! ## Transmission -/

namespace Mach

def setLk (m : Mach) (c : Chip) (p : Nat) (l : Link) : Mach :=
  match c with
  | .sx => { m with link := Tbl.set (fun _ => {}) m.link p l }
  | .ep => { m with epLink := Tbl.set (fun _ => {}) m.epLink p l }

/-- Page of a port on either chip. -/
def portPage (p : Nat) : Nat := Pg.port p

/-- The VC whose count the next header reports (R482): in rotation, one whose count changed, else each in turn. -/
def reportVc (l : Link) : Nat :=
  let order := (List.range 6).map fun i => (l.nextReport + i) % 6
  (order.find? (fun v => l.returned.getD v 0 != l.reported.getD v 0)).getD (l.nextReport % 6)

/-- A flit header (R477), and the link after it has reported a credit count and its acknowledgement. -/
def header (l : Link) (kind seq stomp holdFrom startMap : Nat) : BitVec 64 × Link :=
  let v := reportVc l
  let n := l.returned.getD v 0
  (BitVec.ofNat 64 (place kind 0 2 + place seq 2 10 + place l.rxSeq 12 10 + place (if l.nak then 1 else 0) 22 1
      + place stomp 23 1 + place holdFrom 24 4 + place v 28 3 + place n 32 16 + place startMap 48 15),
   { l with reported := l.reported.set v n, nextReport := (v + 1) % 6, lastAck := l.rxSeq })

def mkFlit (hdr : BitVec 64) (gran : List (BitVec 128)) : Flit :=
  { hdr := hdr, gran := gran, crc := flitCrc hdr gran, uncorrectable := false }

/-- Send one data flit and hold it for replay (R486). -/
def sendData (m : Mach) (c : Chip) (p : Nat) (gran : List (BitVec 128)) (startMap stomp holdFrom : Nat)
    (keys : List (Nat × Nat)) : Mach :=
  let l := m.lk c p
  let (h, l) := header l 0 l.txSeq stomp holdFrom startMap
  let f := mkFlit h (gran ++ List.replicate (15 - gran.length) 0)
  let l := { l with txSeq := (l.txSeq + 1) % 1024, idleStitches := 0,
                    replay := l.replay ++ [{ flit := f, keys := keys, since := m.now c }] }
  (m.setLk c p l).emit (.flit c p f)

/-- Send granules in as few data flits as hold them; `start` says that the first begins a packet. -/
def sendGrans (m : Mach) (c : Chip) (p : Nat) (keys : List (Nat × Nat)) (start : Bool) (hold : Bool) :
    Nat → List (BitVec 128) → Mach
  | 0, _ => m
  | n + 1, gs =>
    if gs = [] then m
    else
      let here := gs.take 15
      let m := m.sendData c p here (if start then 1 else 0) 0
        (if hold && decide (here.length < 15) then here.length else 15) keys
      sendGrans m c p keys false hold n (gs.drop 15)

/-- Flits that `n` granules take. -/
def flitsFor (n : Nat) : Nat := ceilDiv n 15

/-- Take credits for a packet (R76). -/
def takeCredit (m : Mach) (c : Chip) (p vc n : Nat) : Mach :=
  let l := m.lk c p
  m.setLk c p { l with credit := l.credit.set vc (l.credit.getD vc 0 - n) }

/-- The least allocation of each VC (R197). -/
def minAlloc (vc : Nat) : Nat := if vc = 3 then 20 else if vc = 4 then 6 else 258

/-- Whether port `p` can start a packet of `n` granules on `vc` (R76, R197, R486): up, awake, a partner that advertises
enough, credits for the whole packet and room in the replay buffer. -/
def canSend (m : Mach) (c : Chip) (p vc n : Nat) : Bool :=
  let l := m.lk c p
  l.st == .up && l.txSleep == 0 && decide (minAlloc vc ≤ l.alloc.getD vc 0) && decide (n ≤ l.credit.getD vc 0) && decide (l.replay.length + flitsFor n ≤ 384)

/-- Send a whole packet (R479). -/
def sendWhole (m : Mach) (c : Chip) (p : Nat) (pkt : Packet) : Mach :=
  let gs := granulesOf pkt
  (m.takeCredit c p pkt.vc gs.length).sendGrans c p [(pkt.pkey, pkt.opcode)] true false (flitsFor gs.length) gs

/-- Send a control message (R483, R484). -/
def sendCtl (m : Mach) (c : Chip) (p : Nat) (x : Ctl) : Mach :=
  let l := m.lk c p
  m.setLk c p { l with idleStitches := 0 } |>.emit (.ctl c p x)

/-- Send a training message, which is repeated until its answer arrives (R484). -/
def sendTraining (m : Mach) (c : Chip) (p : Nat) (x : Ctl) : Mach :=
  (m.setLk c p { m.lk c p with unanswered := some x }).emit (.ctl c p x)

/-- Return credits of `n` granules received on a VC (R198). -/
def returnCredit (m : Mach) (c : Chip) (p vc n : Nat) : Mach :=
  let l := m.lk c p
  m.setLk c p { l with returned := l.returned.set vc ((l.returned.getD vc 0 + n) % 65536) }

end Mach
end Sys2Proof.Machine
end

