-- ==== Sys2Proof/Machine/Hash.lean ====
section
/-! DEFINITION. The 64-bit FNV-1a hash (R452), which the digests of R452, R553 and R605 share. -/

namespace Sys2Proof.Machine
open Sys2Proof

def fnvBasis : DWord := 0xCBF29CE484222325#64
def fnvPrime : DWord := 0x00000100000001B3#64

/-- FNV-1a over bytes, from a running value. -/
def fnvFrom (h : DWord) (bs : List Byte) : DWord := bs.foldl (fun h b => (h ^^^ b.zeroExtend 64) * fnvPrime) h

def fnv1a (bs : List Byte) : DWord := fnvFrom fnvBasis bs

end Sys2Proof.Machine
end

