-- ==== Sys2Proof/Machine/Buffers.lean ====
section
/-! DEFINITION. What the switch holds and how it accounts for it: partition faults (R598 to R600), the packets held, the
accounts of the packet pool and the Lining (R200 to R208), link credits and their withholding (R198, R216), port holds and
flushes (R210 to R214), the shadow copies of the Gusset (R603). -/

namespace Sys2Proof.Machine
open Sys2Proof

namespace Reason
def member : Nat := 1
def sequence : Nat := 2
def duplicate : Nat := 3
def stale : Nat := 4
def stall : Nat := 5
def poison : Nat := 6
def portDown : Nat := 7
def descChanged : Nat := 8
def keyRemoved : Nat := 9
def tileRetired : Nat := 10
def bucket : Nat := 11
def resultLost : Nat := 12
def torn : Nat := 13
def packetLost : Nat := 0x20
def stomped : Nat := 0x21
def cellLost : Nat := 0x22
def dataPoisoned : Nat := 0x23
def epochStale : Nat := 0x24
def zelryDrop : Nat := 0x25
def regionChanged : Nat := 0x26
def tagExpired : Nat := 0x27
def localPoison : Nat := 0x28
def responseLost : Nat := 0x29
def windowChanged : Nat := 0x2A
end Reason

/-! ## Places -/

def Held.gran (h : Held) : Nat := h.pkt.granules
def Held.vc (h : Held) : Nat := h.pkt.vc
def Held.key (h : Held) : Nat := h.pkt.pkey

/-- Tile at which a packet leaves the fabric (R159). -/
def outTile (output src : Nat) : Nat :=
  if output < 144 then output / 8
  else if output < 162 then output - 144
  else if output < 168 then 3 * (output - 162) + src % 3
  else 0

/-- Tile at which a packet enters the fabric (R159). -/
def inTile (input : Nat) : Nat :=
  if input < 144 then input / 8 else if input < 162 then input - 144 else 3 * (input - 162)

def Held.outT (h : Held) : Nat := outTile h.output h.pkt.src

def dieOfTile (t : Nat) : Nat := t / 9
def clusterOfTile (t : Nat) : Nat := t / 3

/-- The account of an output and VC: cluster and number in it (R200, R217). -/
def acctOf (output vc : Nat) : Nat × Nat :=
  if output < 144 then (output / 24, output % 24 * 6 + vc)
  else if output < 162 then ((output - 144) / 3, 145 + (output - 144) % 3)
  else if output < 168 then (output - 162, 144)
  else (0, if vc = 4 then 149 else 148)

def Held.acct (h : Held) : Nat × Nat := acctOf h.output h.vc

/-- The VC whose minimum and factor an account uses. -/
def acctVc (n : Nat) : Nat :=
  if n < 144 then n % 6 else if n = 144 then 0 else if n ≤ 147 then 2 else if n = 148 then 0 else 4

def sumOf {α : Type} (l : List α) (f : α → Nat) : Nat := (l.map f).foldl (· + ·) 0

namespace Mach

/-! ## Keys (R436, R438) -/

def holdsKey (m : Mach) (port key : Nat) : Bool :=
  (List.range 64).any fun s =>
    m.tfld .sx Pg.guard 1 1 (64 * port + s) F.key_valid == 1 && m.tfld .sx Pg.guard 1 1 (64 * port + s) F.key_key == key

/-- Checks 4 and 7 of R98 as the enforcement enable leaves them (R438). -/
def keyPasses (m : Mach) (port key : Nat) : Bool :=
  if m.bit .sx Pg.guard F.grdEnforce_en then m.holdsKey port key else key != 0xFFFF

/-- A key bound to a confidential context in the SX-4's bindings (R439). -/
def confidentialKey (m : Mach) (key : Nat) : Bool :=
  (List.range 1024).any fun c =>
    m.tfld .sx Pg.guard 3 1 c F.bind_bound == 1 && m.tfld .sx Pg.guard 3 1 c F.bind_confidential == 1
      && m.tfld .sx Pg.guard 3 1 c F.bind_pkey == key

/-! ## Held packets -/

def findHeld (m : Mach) (id : Nat) : Option Held := m.held.find? (fun h => h.id == id)

def updHeld (m : Mach) (id : Nat) (f : Held → Held) : Mach :=
  { m with held := m.held.map fun h => if h.id = id then f h else h }

def removeHeld (m : Mach) (id : Nat) : Mach := { m with held := m.held.filter fun h => h.id != id }

/-- Take a packet in.  It stands behind every packet held before it. -/
def push (m : Mach) (pkt : Packet) (input output : Nat) (f : Held → Held := fun h => h) : Mach :=
  let h : Held := f { id := m.nextId, pkt := pkt, input := input, output := output, arrived := pkt.granules }
  { m with held := m.held ++ [h], nextId := m.nextId + 1 }

/-- A packet that no account holds and that does not cross the fabric: it is at its output at once. -/
def pushExempt (m : Mach) (pkt : Packet) (input output : Nat) (notBefore : Nat := 0) : Mach :=
  m.push pkt input output fun h =>
    { h with part := .exempt, formed := h.gran, released := h.gran, notBefore := notBefore }

/-! ## Credits (R198, R216) -/

/-- Fraction of the payload rate, in 1/64, at which a port returns VC0, VC2 and VC5 credits together (R216, R575). -/
def creditFrac (m : Mach) : Nat := if m.shedLevel = 3 then min m.power.f 32 else m.power.f

/-- Credits of a VC are limited by the fraction; at level 4 VC2, VC3 and VC5 are not returned at all (R216). -/
def limited (m : Mach) (vc : Nat) : Bool := (vc == 0 || vc == 2 || vc == 5) && decide (m.creditFrac < 64)
def stopped (m : Mach) (vc : Nat) : Bool := m.shedLevel == 4 && (vc == 2 || vc == 3 || vc == 5)

def setOwed (m : Mach) (port vc n : Nat) : Mach :=
  { m with owed := Tbl.set (fun _ => 0) m.owed (8 * port + vc) n }

/-- Return the credits of granules received at an SX-4 port, or owe them under shedding or the slew limit. -/
def giveCredit (m : Mach) (port vc n : Nat) : Mach :=
  if 144 ≤ port ∨ n = 0 then m
  else if m.limited vc || m.stopped vc then m.setOwed port vc (Tbl.get (fun _ => 0) m.owed (8 * port + vc) + n)
  else m.returnCredit .sx port vc n

/-- What a port owes of one VC is returned, within the budget that the limited VCs share. -/
def releaseVc (p : Nat) (a : Mach × Nat) (vc : Nat) : Mach × Nat :=
  let m := a.1
  let o := Tbl.get (fun _ => 0) m.owed (8 * p + vc)
  let n := if m.stopped vc then 0 else if m.limited vc then min o a.2 else o
  if n = 0 then a else ((m.setOwed p vc (o - n)).returnCredit .sx p vc n, if m.limited vc then a.2 - n else a.2)

/-- At each stitch: credits withheld are returned as the level and the fraction allow (R216, R575), the first VC in turn
rotating. -/
def releaseOwed (m : Mach) : Mach :=
  (List.range 144).foldl
    (fun m p =>
      let budget := (m.lk .sx p).rate * 500 * m.creditFrac / 8192
      let start := Tbl.get (fun _ => 0) m.owedRr p
      let order := (List.range 6).map fun i => (start + i) % 6
      let m := (order.foldl (releaseVc p) (m, budget)).1
      if m.creditFrac < 64 then { m with owedRr := Tbl.set (fun _ => 0) m.owedRr p ((start + 1) % 6) } else m)
    m

/-- Discard a packet: its granules still in the ingress queue return their credits (R198). -/
def dropHeld (m : Mach) (h : Held) : Mach :=
  (m.removeHeld h.id).giveCredit h.input h.vc (h.arrived - h.formed)

/-! ## Partition faults (R598 to R600) -/

/-- Send PFAULT for a key to every up port that holds it. -/
def broadcast (m : Mach) (key reason : Nat) : Mach :=
  (List.range 144).foldl
    (fun m p =>
      if m.isUp .sx p && m.holdsKey p key then
        let dst := match (m.lk .sx p).partner with | some q => q.node | none => 0x3FF
        (m.pushExempt (m.pfaultPacket .sx dst key reason) 171 p).bump .sx Pg.chip R.chpPfaultTxCnt
      else m)
    m

/-- A second fault of a key in the stitch of its broadcast, with a lower code: the PFAULTs still queued carry the lower
code (R642). -/
def lowerReason (m : Mach) (key reason : Nat) : Mach :=
  { m with
    held := m.held.map fun h =>
      if h.input = 171 ∧ h.key = key ∧ !h.started then { h with pkt := m.pfaultPacket .sx h.pkt.dst key reason } else h
    faultSent := Tbl.set (fun _ => none) m.faultSent key (some (m.time.number, reason)) }

/-- Record the broadcast of a key's fault. -/
def markFault (m : Mach) (key reason : Nat) : Mach :=
  { m with faultSent := Tbl.set (fun _ => none) m.faultSent key (some (m.time.number, reason)) }

/-- Remove every waiter of a key without answering it (R150). -/
def dropWaiters (m : Mach) (key : Nat) : Mach :=
  { m with mem := { m.mem with waiters := m.mem.waiters.filter fun w => w.pkt.pkey != key } }

/-- Whether a fault of the key has been broadcast within 64 stitches (R598). -/
def faultRecent (m : Mach) (key : Nat) : Option (Nat × Nat) :=
  match Tbl.get (fun _ => none) m.faultSent key with
  | some r => if m.time.number ≤ r.1 + 64 then some r else none
  | none => none

/-- The record of a fault in the chip page (R600, R612). -/
def faultRecord (m : Mach) (key reason : Nat) (received : Bool) : Mach :=
  let word := key % 65536 + reason % 256 * 65536 + (if received then 2 ^ 24 else 0)
  ((m.bump .sx Pg.chip R.chpPfaultCnt).setReg .sx Pg.chip R.chpPfaultLast word).raise .sx Pg.chip 0 word

/-- Raise a partition fault for a key (R598, R600), or take one that an end-point sent (R599). -/
def pfault (m : Mach) (key reason : Nat) (received : Bool := false) : Mach :=
  let m := (m.faultRecord key reason received).dropWaiters key
  match m.faultRecent key with
  | some r =>
    let m := m.bump .sx Pg.chip R.chpPfaultSuppCnt
    if m.time.number = r.1 ∧ reason < r.2 then m.lowerReason key reason else m
  | none => (m.markFault key reason).broadcast key reason

/-- One partition fault for each key of a list, the fabric key apart. -/
def pfaultKeys (m : Mach) (keys : List Nat) (reason : Nat) : Mach :=
  (keys.filter (· != 0)).eraseDups.foldl (fun m k => m.pfault k reason) m

/-! ## Accounts (R200 to R206) -/

/-- The minimum of an account's guaranteed part, in granules (R217). -/
def minOf (m : Mach) (cl vc : Nat) : Nat :=
  let f := fun x => m.fld .sx (Pg.cluster cl) x
  64 * (if vc = 0 then max (f F.cluBufMin_minVc0) 5 else if vc = 1 then max (f F.cluBufMin_minVc1) 5
        else if vc = 2 then max (f F.cluBufMin_minVc2) 5 else if vc = 4 then max (f F.cluBufMin_minVc4) 1
        else if vc = 5 then max (f F.cluBufMin_minVc5) 5 else 0)

/-- The code k of a VC's factor α (R202, R217). -/
def alphaOf (m : Mach) (cl vc : Nat) : Nat :=
  let f := fun x => m.fld .sx (Pg.cluster cl) x
  let k := if vc = 0 then f F.cluBufAlpha_alphaVc0 else if vc = 1 then f F.cluBufAlpha_alphaVc1
    else if vc = 2 then f F.cluBufAlpha_alphaVc2 else if vc = 4 then f F.cluBufAlpha_alphaVc4
    else f F.cluBufAlpha_alphaVc5
  if k = 7 then 3 else k

/-- Granules of an account in one part. -/
def heldIn (m : Mach) (a : Nat × Nat) (p : Part) : Nat :=
  sumOf (m.held.filter fun h => h.part == p && h.acct == a) Held.gran

/-- Granules of an account in the Lining, those wholly in the staging apart (R208). -/
def liningOf (m : Mach) (a : Nat × Nat) : Nat :=
  sumOf (m.held.filter fun h => h.part == .lining && h.staging != 2 && h.acct == a) Held.gran

/-- The shared part S of a cluster (R200). -/
def sharedSize (m : Mach) (cl : Nat) : Nat :=
  let n := m.minOf cl
  1048576 - (24 * (n 0 + n 1 + n 2 + n 4 + n 5) + n 0 + 3 * n 2 + (if cl = 0 then n 0 + n 4 else 0))

/-- What an account is charged in the shared part: its packets there, and the excess of its guaranteed holding over a
minimum that a commit lowered (R205). -/
def sharedOf (m : Mach) (a : Nat × Nat) : Nat :=
  m.heldIn a .shared + (m.heldIn a .guaranteed - m.minOf a.1 (acctVc a.2))

/-- Free shared granules F of a cluster (R201, R204). -/
def freeShared (m : Mach) (cl : Nat) : Nat :=
  m.sharedSize cl - sumOf (List.range 150) (fun n => m.sharedOf (cl, n))

/-- Whether an account may use the Lining (R206). -/
def liningAllowed (m : Mach) (output vc : Nat) : Bool :=
  let cl := (acctOf output vc).1
  let f := fun x => m.bit .sx (Pg.cluster cl) x
  let en := if 162 ≤ output then f F.cluLiningCtrl_enVc0
    else if vc = 0 then f F.cluLiningCtrl_enVc0 else if vc = 1 then f F.cluLiningCtrl_enVc1
    else if vc = 2 then f F.cluLiningCtrl_enVc2 else if vc = 5 then f F.cluLiningCtrl_enVc5 else false
  (decide (output < 144) || (decide (162 ≤ output) && decide (output < 168))) && en
    && m.fld .sx (Pg.cluster cl) F.cluHbmLayout_liningUnits != 0 && !m.mem.retired.contains cl

/-- Granules of a cluster's Lining region in use, and of its write buffer (R206, R207). -/
def liningUsed (m : Mach) (cl : Nat) : Nat :=
  sumOf (m.held.filter fun h => h.part == .lining && h.staging != 2 && h.acct.1 == cl) Held.gran
def liningWbuf (m : Mach) (cl : Nat) : Nat :=
  sumOf (m.held.filter fun h => h.part == .lining && !h.written && h.acct.1 == cl) Held.gran

/-- Whether the Lining region and the account's limit have room for `g` granules (R206). -/
def liningRoom (m : Mach) (a : Nat × Nat) (g : Nat) : Bool :=
  decide (m.liningOf a + g ≤ m.fld .sx (Pg.cluster a.1) F.cluLiningCtrl_liningMax * 65536)
    && decide (m.liningUsed a.1 + g ≤ m.fld .sx (Pg.cluster a.1) F.cluHbmLayout_liningUnits * 4194304)

/-- What an account decides for a request of `g` granules (R201). -/
inductive Decision where
  | part (p : Part)
  | wait
  | waitFull
  deriving DecidableEq, Repr

def tryLining (m : Mach) (a : Nat × Nat) (g : Nat) : Decision :=
  if !m.liningRoom a g then .waitFull
  else if m.liningWbuf a.1 + g ≤ 65536 then .part .lining
  else .wait

/-- The guaranteed or the shared part takes the request (R201). -/
def sramRoom (m : Mach) (a : Nat × Nat) (g : Nat) : Option Part :=
  if m.heldIn a .guaranteed + g ≤ m.minOf a.1 (acctVc a.2) then some .guaranteed
  else if (m.sharedOf a + g) * 8 ≤ 2 ^ m.alphaOf a.1 (acctVc a.2) * m.freeShared a.1 then some .shared
  else none

/-- The decision of R201. -/
def decideAdmit (m : Mach) (output vc g : Nat) : Decision :=
  let a := acctOf output vc
  let allowed := m.liningAllowed output vc
  if allowed ∧ m.liningOf a ≠ 0 then m.tryLining a g
  else
    match m.sramRoom a g with
    | some p => .part p
    | none => if allowed then m.tryLining a g else .wait

/-- The account's occupancy (R220). -/
def occupancy (m : Mach) (a : Nat × Nat) : Nat := m.heldIn a .guaranteed + m.heldIn a .shared + m.liningOf a

/-! ## Shadow copies (R603) -/

/-- Whether a packet for the working port is copied. -/
def copiedKind (p : Packet) : Bool :=
  isRequest p.opcode || p.opcode == Op.pltResult || p.opcode == Op.bktDeliver || p.opcode == Op.bktDropmap
    || p.opcode == Op.cufResult || p.opcode == Op.pfault

def pairOf (m : Mach) (i : Nat) : PairRun := Tbl.get (fun _ => {}) m.gusset i
def setPair (m : Mach) (i : Nat) (r : PairRun) : Mach := { m with gusset := Tbl.set (fun _ => {}) m.gusset i r }
def workPort (m : Mach) (i : Nat) : Nat := m.tfld .sx Pg.gusset 1 1 i F.pair_workPort
def newPort (m : Mach) (i : Nat) : Nat := m.tfld .sx Pg.gusset 1 1 i F.pair_newPort

/-- Copy a packet admitted for port `w` to the newcomers that shadow it: taken at once by the guaranteed or shared part, or
dropped, counted, and the window dirty. -/
def shadowCopy (m : Mach) (w : Nat) (pkt : Packet) : Mach :=
  if !copiedKind pkt then m
  else
    (List.range 8).foldl
      (fun m i =>
        let r := m.pairOf i
        if r.copying ∧ m.workPort i = w then
          let n := m.newPort i
          if pkt.vc = 3 then m.pushExempt pkt 173 n
          else
            match m.sramRoom (acctOf n pkt.vc) pkt.granules with
            | some p => m.push pkt 173 n fun h => { h with part := p, formed := h.gran, released := h.gran }
            | none => (m.bump .sx Pg.gusset R.gstDupDropCnt).setPair i { r with dirty := true }
        else m)
      m

/-! ## Port holds (R210 to R214) -/

def holdOf (m : Mach) (p : Nat) : PortHold := Tbl.get (fun _ => {}) m.hold p
def setHold (m : Mach) (p : Nat) (h : PortHold) : Mach := { m with hold := Tbl.set (fun _ => {}) m.hold p h }

/-- The detail word of LINK_PROTOCOL_ERR, CUT_THROUGH_STOMP and PORT_HOLD_FLUSHED (R640). -/
def packetDetail (pkt : Packet) (reason : Nat) : Nat := pkt.pkey + pkt.opcode * 65536 + reason * 2 ^ 24

/-- Discard a packet for a port that takes nothing: counted at the port, one partition fault per key until the port comes up
(R211, R213). -/
def discardAt (m : Mach) (p : Nat) (h : Held) (counter : Nat) : Mach :=
  let m := (m.dropHeld h).bump .sx (Pg.port p) counter
  let r := m.holdOf p
  if r.keys.contains h.key ∨ h.key = 0 then m
  else (m.setHold p { r with keys := h.key :: r.keys }).pfault h.key Reason.packetLost

/-- Flush a port (R213): every held packet and waiting request, one partition fault per key, PORT_HOLD_FLUSHED. -/
def flushPort (m : Mach) (p : Nat) : Mach :=
  let gone := m.held.filter fun h => h.output == p && h.part != .none
  let m := gone.foldl (fun m h => (m.dropHeld h).bump .sx (Pg.port p) R.prtFlushPktCnt) m
  let keys := (gone.map Held.key).filter (· != 0) |>.eraseDups
  let up := m.isUp .sx p
  let m := m.setHold p { (m.holdOf p) with st := if up then 0 else 2, flushDue := false, keys := if up then [] else keys }
  let m := m.pfaultKeys keys Reason.packetLost
  m.raise .sx (Pg.port p) 8 (match gone with | h :: _ => packetDetail h.pkt 0 | [] => 0)

/-- A port goes down (R210): its partly sent packet is lost; the others are held until the expiry stitch. -/
def holdStart (m : Mach) (p : Nat) : Mach :=
  let part := m.held.filter fun h => h.output == p && h.started
  let m := part.foldl (fun m h => (m.dropHeld h).bump .sx (Pg.port p) R.prtFlushPktCnt) m
  let m := m.pfaultKeys (part.map Held.key) Reason.packetLost
  let r := m.holdOf p
  if r.st = 0 then
    m.setHold p { r with
      st := 1, keys := [], expiry := m.time.number + m.fld .sx (Pg.port p) F.prtHoldCtrl_portHold,
      node := match (m.lk .sx p).partner with | some q => q.node | none => 0x3FF }
  else m

/-- A port comes up (R212, R214): the hold ends and the packets leave, or a different partner has them flushed in the next
hem. -/
def holdEnd (m : Mach) (p node : Nat) : Mach :=
  let r := m.holdOf p
  if r.st = 1 then
    if node = r.node ∧ !r.flushDue then
      (m.setHold p { r with st := 0, keys := [] }).bump .sx (Pg.port p) R.prtHoldResumeCnt
    else m.setHold p { r with flushDue := true }
  else m.setHold p { r with st := 0, keys := [] }

/-- A port whose packets may leave. -/
def mayLeave (m : Mach) (p : Nat) : Bool :=
  let r := m.holdOf p
  m.isUp .sx p && r.st == 0 && !r.flushDue

/-- PORT_HOLD_EXPIRY's work at a port (R212 to R214). -/
def holdExpiry (m : Mach) (p : Nat) : Mach :=
  let r := m.holdOf p
  if r.flushDue then m.flushPort p
  else if r.st = 1 ∧ r.expiry ≤ m.time.number ∧ !m.isUp .sx p then m.flushPort p
  else m

end Mach

/-! ## Meaning -/

/-- PORT_HOLD_EXPIRY (R213, R214): at the cut-off of its expiry stitch a port that is still down is flushed; a port whose
partner changed or whose tile retired is flushed in the hem. -/
def execPortHoldExpiry (port : Nat) (s : State) : Host.Outcome State Fault Refusal :=
  State.unit (s.m.hasPort .sx port) <| s.go fun m => m.holdExpiry port

end Sys2Proof.Machine
end

