-- ==== Sys2Proof/Machine/Gusset.lean ====
section
/-! DEFINITION. Shadow admission with the Gusset (R602 to R607, R614). -/

namespace Sys2Proof.Machine
open Sys2Proof

/-- A header with one field cleared. -/
def clearBits (h : BitVec 256) (lo n : Nat) : BitVec 256 := h &&& ~~~(BitVec.ofNat 256 (place (2 ^ n - 1) lo n))

/-- The packet hash of R605. -/
def packetHash (p : Packet) : Nat :=
  let h := clearBits (clearBits (clearBits (clearBits (clearBits p.hdr 42 10) 96 16) 52 4) 27 1) 28 1
  (fnv1a (leBytes 32 h.toNat ++ p.payload)).toNat

/-- A compared packet (R605). -/
def isCompared (p : Packet) : Bool :=
  match homeVc p.opcode with
  | some 0 => p.stream != 63
  | some 1 | some 2 | some 3 => true
  | _ => false

namespace Mach

def pairState (m : Mach) (i : Nat) : Nat := m.tfld .sx Pg.gusset 2 8 i F.pairStat_state
def pairValid (m : Mach) (i : Nat) : Bool := m.tfld .sx Pg.gusset 1 1 i F.pair_valid == 1

/-- The pair whose newcomer a port is while the pair stays valid (R604, R607). -/
def newcomerPair (m : Mach) (p : Nat) : Option Nat :=
  (List.range 8).find? fun i =>
    m.pairValid i && m.newPort i == p && (m.pairState i == 1 || m.pairState i == 2 || m.pairState i == 3)

/-- Count a compared packet that a node sent (R605). -/
def noteCompared (m : Mach) (p : Nat) (pkt : Packet) : Mach :=
  if !isCompared pkt then m
  else
    (List.range 8).foldl
      (fun m i =>
        let r := m.pairOf i
        if m.pairState i = 1 ∧ m.pairValid i ∧ r.opened ≤ m.time.number then
          if m.workPort i = p then
            m.setPair i { r with wSum := (r.wSum + packetHash pkt) % 2 ^ 64, wCount := r.wCount + 1,
                                 last := m.time.number + 1 }
          else if m.newPort i = p then
            m.setPair i { r with nSum := (r.nSum + packetHash pkt) % 2 ^ 64, nCount := r.nCount + 1,
                                 last := m.time.number + 1 }
          else m
        else m)
      m

/-- Absorb a packet from a newcomer (R604). -/
def absorb (m : Mach) (i p : Nat) (pkt : Packet) : Mach :=
  let m := m.bump .sx Pg.gusset R.gstAbsorbCnt
  let dirty := fun (m : Mach) => m.setPair i { m.pairOf i with dirty := true }
  let op := pkt.opcode
  if op = Op.write ∨ op = Op.flagWrite then m.pushExempt (m.response .sx pkt Op.writeAck 0 0 0 0 []) 170 p
  else if op = Op.atomicPosted then m.pushExempt (m.response .sx pkt Op.atomicAck 0 0 0 0 []) 170 p
  else if op = Op.read ∨ op = Op.atomic ∨ op = Op.syncWait then
    dirty ((m.pushExempt (m.response .sx pkt Op.nack Status.accessDenied 0 0 0 []) 170 p).bump
      .sx Pg.gusset R.gstUnsupportedCnt)
  else if op = Op.pfault then dirty m
  else m

/-- A verdict (R607): state 2 admitted or 3 failed, with a code. -/
def pairVerdict (m : Mach) (i st code : Nat) : Mach :=
  let m := m.setTFld .sx Pg.gusset 2 8 i F.pairStat_state st
  let m := m.setTFld .sx Pg.gusset 2 8 i F.pairStat_code code
  m.raise .sx Pg.gusset (if st = 2 then 0 else 1) 0

/-- A port of a shadowing pair goes down (R607). -/
def gussetPortDown (m : Mach) (p : Nat) : Mach :=
  (List.range 8).foldl
    (fun m i =>
      if m.pairState i = 1 ∧ (m.workPort i = p ∨ m.newPort i = p) then m.pairVerdict i 3 7 else m)
    m

/-- In each hem, copying stops for pairs with a verdict (R607). -/
def gussetHem (m : Mach) : Mach :=
  (List.range 8).foldl
    (fun m i =>
      if (m.pairOf i).copying ∧ m.pairState i ≠ 1 then m.setPair i { m.pairOf i with copying := false } else m)
    m

/-- Whether a window closes in the hem of the present stitch (R606). -/
def windowCloses (m : Mach) (i : Nat) : Bool :=
  let r := m.pairOf i
  let win := max (m.fld .sx Pg.gusset F.gstCtrl_window) 1
  let quiet := max (m.fld .sx Pg.gusset F.gstCtrl_quiet) 1
  let s := m.time.number
  m.pairState i == 1 && m.pairValid i
    && ((decide (r.opened + win ≤ s + 1) && decide (r.last + quiet ≤ s + 1)) || decide (r.opened + 16 * win ≤ s + 1))

/-- Close a window and judge it (R606, R607). -/
def closeWindow (m : Mach) (i : Nat) : Mach :=
  let r := m.pairOf i
  let put := fun (m : Mach) (w v : Nat) => m.setTWord .sx Pg.gusset 2 (8 * i + w) v
  let m := put m 1 (min (m.tword .sx Pg.gusset 2 (8 * i + 1) + 1) 0xFFFFFFFF)
  let m := put (put m 2 (r.wSum % 2 ^ 32)) 3 (r.wSum / 2 ^ 32)
  let m := put (put m 4 (r.nSum % 2 ^ 32)) 5 (r.nSum / 2 ^ 32)
  let m := put (put m 6 (r.wCount % 2 ^ 32)) 7 (r.nCount % 2 ^ 32)
  let m := m.setPair i { opened := m.time.number + 1, copying := r.copying }
  if r.wSum = r.nSum ∧ r.wCount = r.nCount ∧ !r.dirty then
    let run := min (m.tfld .sx Pg.gusset 2 8 i F.pairStat_run + 1) 255
    let m := m.setTFld .sx Pg.gusset 2 8 i F.pairStat_run run
    if max (m.fld .sx Pg.gusset F.gstCtrl_clean) 1 ≤ run then m.pairVerdict i 2 0 else m
  else
    let m := m.setTFld .sx Pg.gusset 2 8 i F.pairStat_run 0
    let bad := min (m.tfld .sx Pg.gusset 2 8 i F.pairStat_bad + 1) 255
    let m := m.setTFld .sx Pg.gusset 2 8 i F.pairStat_bad bad
    if max (m.fld .sx Pg.gusset F.gstCtrl_maxBad) 1 ≤ bad then m.pairVerdict i 3 6 else m

/-- Ports of a valid group's members, in the table of `sel` of a page. -/
def memberPorts (m : Mach) (page sel base n : Nat) : List Nat :=
  (List.range n).map fun i => m.tfld .sx page sel 1 (base + i) F.member_port

/-- Whether a port is a member of a valid Pleat, bucket or Cuff group (R602, code 4). -/
def inSomeGroup (m : Mach) (p : Nat) : Bool :=
  ((List.range 8192).any fun g =>
      m.tfld .sx Pg.pleat 1 16 g F.pdesc_valid == 1
        && (m.memberPorts Pg.pleat 3 (m.tfld .sx Pg.pleat 1 16 g F.pdesc_memberBase)
              (m.tfld .sx Pg.pleat 1 16 g F.pdesc_members)).contains p)
    || ((List.range 1024).any fun g =>
      m.tfld .sx Pg.pleat 5 8 g F.bdesc_valid == 1
        && (m.memberPorts Pg.pleat 3 (m.tfld .sx Pg.pleat 5 8 g F.bdesc_memberBase)
              (m.tfld .sx Pg.pleat 5 8 g F.bdesc_members)).contains p)
    || ((List.range 512).any fun g =>
      m.tfld .sx Pg.cuff 1 4 g F.cdesc_valid == 1
        && (m.memberPorts Pg.cuff 3 (m.tfld .sx Pg.cuff 1 4 g F.cdesc_memberBase)
              (m.tfld .sx Pg.cuff 1 4 g F.cdesc_members)).contains p)

/-- Partner node of an SX-4 port; 0x3FF while none is recorded (R504). -/
def partnerNode (m : Mach) (p : Nat) : Nat := match (m.lk .sx p).partner with | some q => q.node | none => 0x3FF

/-- The refusal code of a pair that a commit makes valid; 0 accepted (R602). -/
def pairRefusal (m : Mach) (i : Nat) : Nat :=
  let w := m.workPort i
  let n := m.newPort i
  let other := (List.range 8).any fun j =>
    j != i && m.pairValid j && (m.workPort j == w || m.workPort j == n || m.newPort j == w || m.newPort j == n)
  if w = n ∨ other then 1
  else if !m.isUp .sx w ∨ !m.isUp .sx n then 2
  else if (List.range 64).any (fun s =>
      m.tfld .sx Pg.guard 1 1 (64 * w + s) F.key_valid == 1
        && m.confidentialKey (m.tfld .sx Pg.guard 1 1 (64 * w + s) F.key_key)) then 3
  else if m.inSomeGroup n then 4
  else if m.partnerNode w = m.partnerNode n then 5
  else 0

/-- A commit applied pair `i`, whose word before the commit had `was` in valid (R602). -/
def pairCommitted (m : Mach) (i : Nat) (was : Bool) : Mach :=
  if m.pairValid i then
    if was then m
    else
      let code := m.pairRefusal i
      let m := m.setTWord .sx Pg.gusset 2 (8 * i) (if code = 0 then 1 else 4 + code * 8)
      if code = 0 then m.setPair i { opened := m.time.number + 1, copying := true } else m
  else (m.setTWord .sx Pg.gusset 2 (8 * i) 0).setPair i {}

end Mach

/-- GUSSET_WINDOW_CLOSE (R606, R607): a window that meets its conditions closes and is judged. -/
def execGussetWindowClose (pair : Nat) (s : State) : Host.Outcome State Fault Refusal :=
  State.unit (decide (pair < 8)) <| s.go fun m => if m.windowCloses pair then m.closeWindow pair else m

end Sys2Proof.Machine
end

