-- ==== Sys2Proof/Machine/Pleat.lean ====
section
/-! DEFINITION. Pleat in-network reduction and bucket exchange (chapters "Pleat in-network reduction" and "Cuff rounds and
bucket exchange"): descriptors, placement, admission, the judging of contributions, chunks and buckets, results, residency,
spill, faults and re-arming.

A group key is g for Pleat group g and 8192 + g for bucket group g; commands that may name either take a group key. -/

namespace Sys2Proof.Machine
open Sys2Proof

/-! ## Packet fields (R92, R256) -/

namespace PltAux
def group (p : Packet) : Nat := bitsOf p.aux 0 13
def member (p : Packet) : Nat := bitsOf p.aux 13 8
def chunk (p : Packet) : Nat := bitsOf p.aux 21 24
def pass (p : Packet) : Nat := bitsOf p.aux 45 8
def bucket (p : Packet) : Nat := bitsOf p.aux 21 8
end PltAux

/-- Opcodes that name bucket groups. -/
def isBucketOp (op : Nat) : Bool := op == Op.bktSend || op == Op.bktDeliver || op == Op.bktDropmap

/-- The group key that a VC2 packet names. -/
def groupKeyOf (p : Packet) : Nat := if isBucketOp p.opcode then 8192 + PltAux.group p else PltAux.group p

/-- One member table entry (R260). -/
structure Member where
  port : Nat
  context : Nat
  contrib : Bool
  recv : Bool
  deriving DecidableEq, Repr

/-- What Pleat and bucket groups have in common (R259, R333, R337). -/
structure GroupDesc where
  bucket : Bool
  number : Nat
  valid : Bool
  pkey : Nat
  members : Nat
  memberBase : Nat
  quota : Nat
  quantum : Nat
  tileMask : Nat
  /-- K, or N_b -/
  count : Nat
  deriving DecidableEq, Repr

namespace Mach

def pd (m : Mach) (g : Nat) (f : Fld) : Nat := m.tfld .sx Pg.pleat 1 16 g f
def bd (m : Mach) (g : Nat) (f : Fld) : Nat := m.tfld .sx Pg.pleat 5 8 g f

/-- E (R255). -/
def elemsOf (m : Mach) (g : Nat) : Nat := 256 * 2 ^ m.pd g F.pdesc_chunkLog

/-- K (R255). -/
def chunksOf (m : Mach) (g : Nat) : Nat := ceilDiv (m.pd g F.pdesc_capacity) (m.elemsOf g)

/-- Valid elements of chunk `i` (R255). -/
def validElems (m : Mach) (g i : Nat) : Nat := min (m.elemsOf g) (m.pd g F.pdesc_capacity - i * m.elemsOf g)

/-- Record size of a bucket group (R333). -/
def recSize (m : Mach) (g : Nat) : Nat := 16 * 2 ^ m.bd g F.bdesc_recLog

def gdesc (m : Mach) (gk : Nat) : GroupDesc :=
  if gk < 8192 then
    { bucket := false, number := gk, valid := m.pd gk F.pdesc_valid == 1, pkey := m.pd gk F.pdesc_pkey,
      members := m.pd gk F.pdesc_members, memberBase := m.pd gk F.pdesc_memberBase, quota := m.pd gk F.pdesc_quota,
      quantum := m.pd gk F.pdesc_quantum, tileMask := m.pd gk F.pdesc_tileMask, count := m.chunksOf gk }
  else
    let g := gk - 8192
    if 1024 ≤ g then
      { bucket := true, number := g, valid := false, pkey := 0, members := 0, memberBase := 0, quota := 0, quantum := 0,
        tileMask := 0, count := 0 }
    else
      { bucket := true, number := g, valid := m.bd g F.bdesc_valid == 1, pkey := m.bd g F.bdesc_pkey,
        members := m.bd g F.bdesc_members, memberBase := m.bd g F.bdesc_memberBase, quota := m.bd g F.bdesc_quota,
        quantum := m.bd g F.bdesc_quantum, tileMask := m.bd g F.bdesc_tileMask, count := m.bd g F.bdesc_buckets }

def memberOf (m : Mach) (page sel base i : Nat) : Member :=
  let f := fun x => m.tfld .sx page sel 1 (base + i) x
  { port := f F.member_port, context := f F.member_context, contrib := f F.member_contrib == 1,
    recv := f F.member_recv == 1 }

def membersOf (m : Mach) (d : GroupDesc) : List Member :=
  (List.range d.members).map (m.memberOf Pg.pleat 3 d.memberBase)

/-- Indices of the contributing and of the receiving members. -/
def contribs (m : Mach) (d : GroupDesc) : List Nat :=
  (List.range d.members).filter fun i => (m.memberOf Pg.pleat 3 d.memberBase i).contrib
def receivers (m : Mach) (d : GroupDesc) : List Nat :=
  (List.range d.members).filter fun i => (m.memberOf Pg.pleat 3 d.memberBase i).recv

/-- Tiles of a mask that are in service (R266, R189). -/
def tilesOf (m : Mach) (mask : Nat) : List Nat :=
  (List.range 18).filter fun t => bitsOf mask t 1 == 1 && !m.out1.contains t

/-- The tile of chunk or bucket `i` (R266, R337). -/
def placeOf (m : Mach) (d : GroupDesc) (i : Nat) : Nat :=
  let t := m.tilesOf d.tileMask
  if t = [] then 0 else t.getD ((i + d.number) % t.length) 0

/-- The tile whose Pleat core a VC2 packet is bound for; tile 0 takes what names no valid group. -/
def pleatTile (m : Mach) (p : Packet) : Nat :=
  m.placeOf (m.gdesc (groupKeyOf p)) (if isBucketOp p.opcode then PltAux.bucket p else PltAux.chunk p)

/-- Owners of a chunk or bucket, as member indices (R261, R334). -/
def ownersOf (m : Mach) (gk i : Nat) : List Nat :=
  let d := m.gdesc gk
  let mode := if d.bucket then m.bd d.number F.bdesc_ownerMode else m.pd gk F.pdesc_ownerMode
  if !d.bucket ∧ m.pd gk F.pdesc_half = 1 then
    if mode = 1 then
      let n := m.contribs d
      [n.getD (i * n.length / max d.count 1) 0]
    else [m.tfld .sx Pg.pleat 4 1 (m.pd gk F.pdesc_ownerBase + i % max (m.pd gk F.pdesc_ownerLen) 1) F.owner_member]
  else if mode = 0 then m.receivers d
  else if mode = 1 then
    let r := m.receivers d
    [r.getD (i * r.length / max d.count 1) 0]
  else if d.bucket then [m.tfld .sx Pg.pleat 4 1 (m.bd d.number F.bdesc_ownerBase + i) F.owner_member]
  else [m.tfld .sx Pg.pleat 4 1 (m.pd gk F.pdesc_ownerBase + i % max (m.pd gk F.pdesc_ownerLen) 1) F.owner_member]

/-! ## Running state -/

def grp (m : Mach) (gk : Nat) : PGroup := Tbl.get (fun _ => {}) m.plt.groups gk
def setPlt (m : Mach) (p : PleatSt) : Mach := { m with plt := p }
def setGrp (m : Mach) (gk : Nat) (g : PGroup) : Mach :=
  m.setPlt { m.plt with groups := Tbl.set (fun _ => {}) m.plt.groups gk g }

def Chunk.gk (c : Chunk) : Nat := if c.bucket then 8192 + c.group else c.group

def sameChunk (gk pass idx : Nat) (c : Chunk) : Bool := Chunk.gk c == gk && c.pass == pass && c.idx == idx

def chunk? (m : Mach) (gk pass idx : Nat) : Option Chunk := m.plt.chunks.find? (sameChunk gk pass idx)

def updChunk (m : Mach) (gk pass idx : Nat) (f : Chunk → Chunk) : Mach :=
  m.setPlt { m.plt with chunks := m.plt.chunks.map fun c => if sameChunk gk pass idx c then f c else c }

def removeChunk (m : Mach) (gk pass idx : Nat) : Mach :=
  m.setPlt { m.plt with chunks := m.plt.chunks.filter fun c => !sameChunk gk pass idx c }

/-- Groups whose live descriptor is valid. -/
def validGroups (m : Mach) : List Nat :=
  m.regs.live.filterMap fun e =>
    if itemPage e.1 = Pg.pleat ∧ e.2.toNat % 2 = 1 then
      if itemSel e.1 = 1 ∧ itemOff e.1 % 16 = 0 then some (itemOff e.1 / 16)
      else if itemSel e.1 = 5 ∧ itemOff e.1 % 8 = 0 then some (8192 + itemOff e.1 / 8)
      else none
    else none

/-! ## Pages and slots (R273, R274, R337) -/

def pagesOf (bytes : Nat) : Nat := ceilDiv bytes 512

/-- Accumulator bytes per element (R273). -/
def accBytes (mode fmt : Nat) : Nat := if mode ≠ 0 then 4 else if fmt = 4 then 8 else if isMx fmt then 40 else 4

def treeAdd (m : Mach) (g : Nat) : Bool := m.pd g F.pdesc_mode == 1 && m.pd g F.pdesc_op == 0

def bucketPages (m : Mach) (g : Nat) : Nat :=
  let c := m.bd g F.bdesc_capacity
  pagesOf (c + c / m.recSize g)

/-- Pages of a result or shard held for release; none when W = 0. -/
def heldPages (m : Mach) (g : Nat) : Nat :=
  if m.pd g F.pdesc_release = 0 then 0
  else if m.pd g F.pdesc_half = 1 then pagesOf (fmtBytes (m.pd g F.pdesc_inFmt) (m.elemsOf g))
  else pagesOf (fmtBytes (m.pd g F.pdesc_outFmt) (m.elemsOf g))

/-- P_max (R274), P_b (R337). -/
def pMax (m : Mach) (gk : Nat) : Nat :=
  if 8192 ≤ gk then m.bucketPages (gk - 8192)
  else if m.pd gk F.pdesc_half = 1 then m.heldPages gk
  else
    (if m.treeAdd gk then (m.pd gk F.pdesc_members - 1) * pagesOf (4 * m.elemsOf gk)
     else pagesOf (accBytes (m.pd gk F.pdesc_mode) (m.pd gk F.pdesc_inFmt) * m.elemsOf gk)) + m.heldPages gk

/-- Pages that an open chunk takes now. -/
def chunkPages (m : Mach) (c : Chunk) : Nat :=
  if c.bucket then m.bucketPages c.group
  else if m.pd c.group F.pdesc_half = 1 then m.heldPages c.group
  else if m.treeAdd c.group then
    let leaves := (List.range (m.pd c.group F.pdesc_members)).map c.ended.contains
    max 1 (heldNodes leaves 9) * pagesOf (4 * m.elemsOf c.group)
  else pagesOf (accBytes (m.pd c.group F.pdesc_mode) (m.pd c.group F.pdesc_inFmt) * m.elemsOf c.group)

/-- Free SRAM pages of a cluster (R273). -/
def freePages (m : Mach) (cl : Nat) : Nat :=
  24576 - sumOf (m.plt.chunks.filter fun c => clusterOfTile c.tile == cl && c.spill != 2) m.chunkPages
    - sumOf (m.plt.releases.filter fun r => clusterOfTile r.tile == cl) (·.pages)

/-- Chunks of a group open in a cluster, those with copies still held included (R272). -/
def openIn (m : Mach) (gk cl : Nat) : Nat :=
  (m.plt.chunks.filter fun c => Chunk.gk c == gk && clusterOfTile c.tile == cl).length
    + ((m.plt.releases.filter fun r => r.group == gk && clusterOfTile r.tile == cl).map
        fun r => (r.pass, r.idx)).eraseDups.length

/-- Open chunks of a group. -/
def openCount (m : Mach) (gk : Nat) : Nat := sumOf (List.range 6) (m.openIn gk)

/-- Free chunk slots of a cluster. -/
def freeSlots (m : Mach) (cl : Nat) : Nat :=
  16384 - (m.plt.chunks.filter fun c => clusterOfTile c.tile == cl).length
    - ((m.plt.releases.filter fun r => clusterOfTile r.tile == cl).map fun r => (r.group, r.pass, r.idx)).eraseDups.length

/-- Pages of the Pleat spill region, 64 MiB units of 131,072 pages (R274, R346). -/
def backing (m : Mach) (cl : Nat) : Nat :=
  24576 + (if m.mem.retired.contains cl then 0 else m.fld .sx (Pg.cluster cl) F.cluHbmLayout_spillUnits * 131072)

/-! ## Activity and residency (R276, R277) -/

/-- Packets of a group that wait for admission. -/
def waitingOf (m : Mach) (gk : Nat) : List Held :=
  m.held.filter fun h => h.part == .waiting && decide (144 ≤ h.output ∧ h.output < 162) && groupKeyOf h.pkt == gk

def isActive (m : Mach) (gk : Nat) : Bool :=
  (m.gdesc gk).valid && (m.grp gk).reason == 0 && (m.openCount gk != 0 || m.waitingOf gk != [])

/-- Bring the order of active groups up to date with the group that has just become active. -/
def noteActive (m : Mach) (gk : Nat) : Mach :=
  if m.isActive gk ∧ !m.plt.active.contains gk then m.setPlt { m.plt with active := m.plt.active ++ [gk] } else m

/-- Clusters that hold a tile of T. -/
def clustersOf (m : Mach) (d : GroupDesc) : List Nat := ((m.tilesOf d.tileMask).map clusterOfTile).eraseDups

/-- Slots and pages that a group charges in a cluster: its reservation while resident or leaving, else its open chunks. -/
def charge (m : Mach) (gk cl : Nat) : Nat × Nat :=
  let d := m.gdesc gk
  let g := m.grp gk
  if g.resident ∨ g.leaving then (if (m.clustersOf d).contains cl then (d.quota, d.quota * m.pMax gk) else (0, 0))
  else
    let cs := m.plt.chunks.filter fun c => Chunk.gk c == gk && clusterOfTile c.tile == cl
    (0, sumOf cs m.chunkPages)

/-- Whether a group fits, the groups of `free` counted as gone. -/
def fits (m : Mach) (gk : Nat) (free : List Nat) : Bool :=
  let d := m.gdesc gk
  let others := (m.plt.groups.map (·.1)).filter fun k => k != gk && !free.contains k
  decide ((others.filter fun k => (m.grp k).resident).length < 1024)
    && (m.clustersOf d).all fun cl =>
      let used := others.map fun k => m.charge k cl
      decide (sumOf used (·.1) + d.quota ≤ 16384) && decide (sumOf used (·.2) + d.quota * m.pMax gk ≤ m.backing cl)

/-- Deschedule a resident group (R277): its open chunks are spilled.  It stands behind the groups that wait already, as the
bound on their wait requires (DEDUCED, log 51). -/
def deschedule (m : Mach) (gk : Nat) : Mach :=
  let toSpill := m.plt.chunks.filter fun c => Chunk.gk c == gk && c.spill == 0
  let m := m.setPlt { m.plt with
    chunks := m.plt.chunks.map fun c => if Chunk.gk c = gk ∧ c.spill = 0 then { c with spill := 1 } else c
    active := m.plt.active.filter (· != gk) ++ [gk] }
  let m := m.setGrp gk { m.grp gk with
    resident := false, leaving := m.plt.chunks.any fun c => Chunk.gk c == gk && c.spill == 1 }
  (m.bump .sx Pg.pleat R.pltDeschedCnt).bumpBy .sx Pg.pleat R.pltSpillCnt toSpill.length

/-- The resident groups past their quantum, the longest resident first. -/
def oldestPast (m : Mach) : Option Nat :=
  let past := (m.plt.groups.map (·.1)).filter fun k =>
    (m.grp k).resident && decide ((m.grp k).since + (m.gdesc k).quantum ≤ m.time.number)
  past.foldl
    (fun a k =>
      match a with
      | none => some k
      | some j => if (m.grp k).since < (m.grp j).since then some k else a)
    none

/-- Deschedule until the first waiting group would fit (R277). -/
def makeRoom (m : Mach) (first : Nat) : Nat → Mach
  | 0 => m
  | n + 1 =>
    let leaving := (m.plt.groups.map (·.1)).filter fun k => (m.grp k).leaving
    if m.fits first leaving then m
    else
      match m.oldestPast with
      | some k => makeRoom (m.deschedule k) first n
      | none => m

/-- Make waiting groups resident in their order, until one does not fit (R276). -/
def admitGroups (m : Mach) : List Nat → Mach
  | [] => m
  | gk :: rest =>
    if m.fits gk [] then
      admitGroups (m.setGrp gk { m.grp gk with resident := true, since := m.time.number }) rest
    else m

/-- GROUP_RESIDENCY's work in a hem (R276, R277); nothing is descheduled while HBM4 is in self-refresh (R286). -/
def residency (m : Mach) : Mach :=
  let idle := (m.plt.groups.map (·.1)).filter fun k => (m.grp k).resident && !m.isActive k
  let m := idle.foldl (fun m k => m.setGrp k { m.grp k with resident := false }) m
  let m := m.setPlt { m.plt with active := m.plt.active.filter m.isActive }
  let waiting := m.plt.active.filter fun k => !(m.grp k).resident && !(m.grp k).leaving
  let m :=
    match waiting with
    | first :: _ => if m.mem.selfRefresh then m else m.makeRoom first (m.plt.groups.length + 1)
    | [] => m
  m.admitGroups (m.plt.active.filter fun k => !(m.grp k).resident && !(m.grp k).leaving)

/-! ## Faults (R282, R341) -/

/-- Fault a group: its chunks, held results and waiting contributions are discarded, its reservation freed, a partition
fault raised for its key (or the key it had before a change, log 12), the reason recorded. -/
def pleatFault (m : Mach) (gk reason : Nat) (key : Option Nat := none) : Mach :=
  if (m.grp gk).reason ≠ 0 then m
  else
    let d := m.gdesc gk
    let m := (m.waitingOf gk).foldl dropHeld m
    let m := m.setPlt { m.plt with
      chunks := m.plt.chunks.filter fun c => Chunk.gk c != gk
      releases := m.plt.releases.filter fun r => r.group != gk
      active := m.plt.active.filter (· != gk)
      units := m.plt.units.filter fun e =>
        match e.2 with
        | some u => (if u.bucket then 8192 + u.group else u.group) != gk
        | none => false }
    let g := m.grp gk
    let m := m.setGrp gk { g with reason := reason, resident := false, leaving := false, done := [], drops := [],
                                  next := [] }
    let m := m.bump .sx Pg.pleat R.pltGroupFaultCnt
    let m := m.raise .sx Pg.pleat 0 (d.number + (if d.bucket then 8192 else 0) + reason * 2 ^ 24)
    m.pfault (key.getD d.pkey) reason

/-- Every valid group with a member on a port faults (R210, R282). -/
def pleatPortDown (m : Mach) (p : Nat) : Mach :=
  (m.validGroups.filter fun gk => (m.membersOf (m.gdesc gk)).any fun x => x.port == p).foldl
    (fun m gk => m.pleatFault gk Reason.portDown) m

/-- A member's port lost the group's key in a Guard commit (R265). -/
def pleatKeyRemoved (m : Mach) (p key : Nat) : Mach :=
  (m.validGroups.filter fun gk =>
      (m.gdesc gk).pkey == key && (m.membersOf (m.gdesc gk)).any fun x => x.port == p).foldl
    (fun m gk => m.pleatFault gk Reason.keyRemoved) m

/-- Active groups that hold a tile of `lost` fault (R266, R189). -/
def pleatTileRetired (m : Mach) (t : Nat) : Mach :=
  (m.validGroups.filter fun gk => m.isActive gk && bitsOf (m.gdesc gk).tileMask t 1 == 1).foldl
    (fun m gk => m.pleatFault gk Reason.tileRetired) m

/-! ## Admission (R272) -/

/-- The pass and index that a packet names; a bucket part belongs to the pass in progress (R340). -/
def unitOf (m : Mach) (p : Packet) : Nat × Nat :=
  if isBucketOp p.opcode then ((m.grp (groupKeyOf p)).passLow, PltAux.bucket p) else (PltAux.pass p, PltAux.chunk p)

/-- Whether the group of a packet judges it at all: valid, not faulted, its key (R267). -/
def judged (m : Mach) (p : Packet) : Bool :=
  let gk := groupKeyOf p
  let d := m.gdesc gk
  d.valid && d.pkey == p.pkey && (m.grp gk).reason == 0
    && (p.opcode == Op.pltContrib || p.opcode == Op.pltShard || p.opcode == Op.bktSend)

/-- Whether a new chunk could open at a tile. -/
def canOpen (m : Mach) (gk pass idx : Nat) : Bool :=
  let d := m.gdesc gk
  let t := m.placeOf d idx
  let cl := clusterOfTile t
  let c : Chunk := { bucket := d.bucket, group := d.number, pass := pass, idx := idx, tile := t, opened := 0 }
  decide (m.openIn gk cl < d.quota) && decide (0 < m.freeSlots cl) && decide (m.chunkPages c ≤ m.freePages cl)

/-- The Pleat core's own condition for admission (R271, R272). -/
def pleatAdmits (m : Mach) (p : Packet) : Bool :=
  if !m.judged p then true
  else
    let gk := groupKeyOf p
    let d := m.gdesc gk
    let (pass, idx) := m.unitOf p
    let dist := (pass + 256 - (m.grp gk).passLow) % 256
    if 128 ≤ dist ∨ d.count ≤ idx then true
    else if 4 ≤ dist then false
    else if !(m.grp gk).resident then false
    else if (m.grp gk).done.contains (pass, idx) then true
    else
      match m.chunk? gk pass idx with
      | some c => c.spill == 0
      | none => m.canOpen gk pass idx

/-- The first packet of a chunk opens it (R272). -/
def openChunk (m : Mach) (p : Packet) : Mach :=
  if !m.judged p then m
  else
    let gk := groupKeyOf p
    let d := m.gdesc gk
    let (pass, idx) := m.unitOf p
    let dist := (pass + 256 - (m.grp gk).passLow) % 256
    if 4 ≤ dist ∨ d.count ≤ idx ∨ (m.grp gk).done.contains (pass, idx) then m
    else
      match m.chunk? gk pass idx with
      | some _ => m
      | none =>
        m.setPlt { m.plt with
          chunks := m.plt.chunks ++ [{ bucket := d.bucket, group := d.number, pass := pass, idx := idx,
                                       tile := m.placeOf d idx, opened := m.time.number, last := m.plt.order }]
          order := m.plt.order + 1 }

/-! ## Results (R280, R284, R339, R340) -/

/-- Cut a byte string into packets' payloads of at most `n` bytes. -/
def cutBytes (n : Nat) : Nat → List Byte → List (List Byte)
  | 0, _ => []
  | k + 1, bs => if bs.length ≤ n then [bs] else bs.take n :: cutBytes n k (bs.drop n)

/-- Bytes of every packet of a result unit but the last (R280). -/
def resultCut (fmt : Nat) : Nat := if isMx fmt then 4096 / unitBytes fmt * unitBytes fmt else 4096

/-- A packet that the Pleat core or the Cuff unit sends to a member (R280, R324). -/
def resultPacket (m : Mach) (op vc status pkey : Nat) (x : Member) (aux addr last : Nat) (payload : List Byte) : Packet :=
  HdrSpec.packet
    { opcode := op, vc := vc, last := last, dst := m.partnerNode x.port, src := m.sxNode, epoch := m.epochNow .sx % 16,
      stream := 63, pkey := pkey, context := x.context, status := status, address := addr, aux := aux } payload

/-- A unit of packets from bytes, from offset `off` on. -/
def unitPackets (m : Mach) (op pkey : Nat) (x : Member) (aux cut : Nat) : Nat → Nat → List Byte → List Packet
  | 0, _, _ => []
  | n + 1, off, bs =>
    if bs.length ≤ cut then [m.resultPacket op 2 0 pkey x aux off 1 bs]
    else m.resultPacket op 2 0 pkey x aux off 0 (bs.take cut) :: unitPackets m op pkey x aux cut n (off + cut) (bs.drop cut)

/-- The aux field of a unit for a member (R256, R280, R339). -/
def unitAux (d : GroupDesc) (member pass idx : Nat) : Nat :=
  if d.bucket then d.number + member * 2 ^ 13 + idx * 2 ^ 21
  else d.number + member * 2 ^ 13 + idx * 2 ^ 21 + pass * 2 ^ 45

/-- A Pleat core's packets enter the fabric (R159, R280). -/
def issue (m : Mach) (tile port : Nat) (pkts : List Packet) : Mach :=
  pkts.foldl (fun m p => m.push p (144 + tile) port) m

/-- Send the copies of a unit, or hold them for their release stitches (R284); `counted` says that the copies count in
PLT_RESULT_CNT. -/
def sendCopies (m : Mach) (gk pass idx tile window pages : Nat) (copies : List (Nat × Nat × List Packet)) : Mach :=
  if window = 0 then
    copies.foldl (fun m c => (m.issue tile c.2.1 c.2.2).bump .sx Pg.pleat R.pltResultCnt) m
  else
    let rs := copies.zipIdx.map fun c =>
      ({ group := gk, pass := pass, idx := idx, tile := tile, port := c.1.2.1,
         at_ := m.time.number + 1 + c.1.1 % window, pages := if c.2 = 0 then pages else 0,
         pkts := c.1.2.2 } : Release)
    m.setPlt { m.plt with releases := m.plt.releases ++ rs }

/-- The rank of a member among the receiving ones (R253). -/
def receiverIndex (m : Mach) (d : GroupDesc) (i : Nat) : Nat :=
  ((m.receivers d).findIdx? (· == i)).getD 0

/-- pass_low advances past passes whose chunks are all complete (R271, R279). -/
def advancePass (m : Mach) (gk : Nat) : Nat → Mach
  | 0 => m
  | n + 1 =>
    let g := m.grp gk
    let here := g.done.filter fun e => e.1 == g.passLow
    if here.length = (m.gdesc gk).count then
      advancePass (m.setGrp gk { g with passLow := (g.passLow + 1) % 256, passes := min (g.passes + 1) 0xFFFFFFFF,
                                        done := g.done.filter fun e => e.1 != g.passLow }) gk n
    else m

def markDone (m : Mach) (gk pass idx : Nat) : Mach :=
  (m.setGrp gk { m.grp gk with done := (pass, idx) :: (m.grp gk).done }).advancePass gk 4

/-! ## Judging a packet (R267, R268, R271, R336) -/

/-- Bytes of a chunk's valid elements, or the capacity of a bucket. -/
def fullBytes (m : Mach) (gk idx : Nat) : Nat :=
  if 8192 ≤ gk then m.bd (gk - 8192) F.bdesc_capacity
  else fmtBytes (m.pd gk F.pdesc_inFmt) (m.validElems gk idx)

/-- The address of an empty unit or part (R269, R336): the size of a whole chunk, or the capacity. -/
def emptyAddr (m : Mach) (gk : Nat) : Nat :=
  if 8192 ≤ gk then m.bd (gk - 8192) F.bdesc_capacity else fmtBytes (m.pd gk F.pdesc_inFmt) (m.elemsOf gk)

def isEmptyUnit (m : Mach) (p : Packet) : Bool :=
  p.length == 1 && p.last == 1 && p.address == m.emptyAddr (groupKeyOf p)

/-- Bytes that every packet but the last must hold a whole number of. -/
def wholeOf (m : Mach) (gk : Nat) : Nat :=
  if 8192 ≤ gk then m.recSize (gk - 8192) else unitBytes (m.pd gk F.pdesc_inFmt)

/-- What the core does with a packet. -/
inductive Verdict where
  | proto
  | faultedDrop
  | fault (reason : Nat)
  | twoFaults (other : Nat)
  | take
  deriving DecidableEq, Repr

def portUnit (m : Mach) (port : Nat) : Option PUnit := Tbl.get (fun _ => none) m.plt.units port

/-- The verdict on a packet that arrived on a port (R267, then R271, then R268). -/
def pleatVerdict (m : Mach) (port : Nat) (p : Packet) : Verdict :=
  let op := p.opcode
  let gk := groupKeyOf p
  let d := m.gdesc gk
  let g := m.grp gk
  let i := PltAux.member p
  let x := m.memberOf Pg.pleat 3 d.memberBase i
  let (pass, idx) := m.unitOf p
  let gather := !d.bucket && m.pd gk F.pdesc_half == 1
  if op ≠ Op.pltContrib ∧ op ≠ Op.pltShard ∧ op ≠ Op.bktSend then .proto
  else if p.dst ≠ m.sxNode ∨ p.pkey ≠ d.pkey ∨ !d.valid then .proto
  else if g.reason ≠ 0 then .faultedDrop
  else if d.members ≤ i ∨ !x.contrib ∨ x.port ≠ port ∨ x.context ≠ p.context then .fault Reason.member
  else if (op = Op.pltShard) ≠ (gather = true) then .fault Reason.member
  else if gather ∧ idx < d.count ∧ !(m.ownersOf gk idx).contains i then .fault Reason.member
  else if 128 ≤ (pass + 256 - g.passLow) % 256 then .fault Reason.stale
  else
    let same := fun (u : PUnit) => u.bucket == d.bucket && u.group == d.number && u.pass == pass && u.idx == idx
    match m.portUnit port with
    | some u =>
      if !same u then
        .twoFaults (if u.bucket then 8192 + u.group else u.group)
      else if p.address ≠ u.next then .fault Reason.sequence
      else if p.last = 0 ∧ p.length % m.wholeOf gk ≠ 0 then .fault Reason.sequence
      else .take
    | none =>
      let expected := if m.isEmptyUnit p then m.emptyAddr gk else 0
      if p.address ≠ expected then .fault Reason.sequence
      else if p.last = 0 ∧ p.length % m.wholeOf gk ≠ 0 then .fault Reason.sequence
      else if d.count ≤ idx then .fault (if d.bucket then Reason.bucket else Reason.sequence)
      else if (g.done.contains (pass, idx)
          || (match m.chunk? gk pass idx with | some c => c.ended.contains i | none => false)) then
        .fault Reason.duplicate
      else if Tbl.get (fun _ => 0) g.next i ≠ pass * 2 ^ 32 + idx then .fault Reason.sequence
      else .take

/-- The member's next unit after one has ended (R268). -/
def advanceNext (m : Mach) (gk i pass idx : Nat) : Mach :=
  let d := m.gdesc gk
  let n := if idx + 1 < d.count then pass * 2 ^ 32 + idx + 1 else (pass + 1) % 256 * 2 ^ 32
  m.setGrp gk { m.grp gk with next := Tbl.set (fun _ => 0) (m.grp gk).next i n }

/-- Track the unit in progress on the port (R268). -/
def trackUnit (m : Mach) (port : Nat) (p : Packet) : Mach :=
  let gk := groupKeyOf p
  let (pass, idx) := m.unitOf p
  let d := m.gdesc gk
  let u : Option PUnit :=
    if p.last = 1 then none
    else some { bucket := d.bucket, group := d.number, pass := pass, idx := idx, member := PltAux.member p,
                next := p.address + p.length }
  m.setPlt { m.plt with units := Tbl.set (fun _ => none) m.plt.units port u }

/-- A unit has ended with `total` bytes: what it lacks is padding, what it has beyond is discarded (R269, R270). -/
def padUnit (m : Mach) (gk idx total : Nat) (empty : Bool) : Mach :=
  let full := m.fullBytes gk idx
  let short := empty || decide (total < full)
  let extra := !empty && (decide (full < total) || total % m.wholeOf gk != 0)
  let g := m.grp gk
  let m := m.setGrp gk { g with padded := if short then min (g.padded + 1) 4095 else g.padded,
                                overflow := if extra then min (g.overflow + 1) 4095 else g.overflow }
  let m := if short then m.bump .sx Pg.pleat R.pltPadCnt else m
  if extra then m.bump .sx Pg.pleat R.pltOverflowCnt else m

/-- Accumulate a contribution packet (R268 to R270). -/
def takeContrib (m : Mach) (port : Nat) (p : Packet) : Mach :=
  let gk := groupKeyOf p
  let (pass, idx) := m.unitOf p
  let i := PltAux.member p
  let empty := m.isEmptyUnit p && (m.portUnit port).isNone
  let m := m.openChunk p
  let order := m.plt.order
  let m := m.updChunk gk pass idx fun c =>
    { c with pkts := c.pkts ++ [(i, p.address, p.payload)], last := order,
             ended := if p.last = 1 then c.ended ++ [i] else c.ended }
  let m := (m.setPlt { m.plt with order := order + 1 }).trackUnit port p
  if p.last = 1 then
    ((m.padUnit gk idx (p.address + p.length) empty).bump .sx Pg.pleat R.pltContribCnt).advanceNext gk i pass idx
  else m

/-! ## Shards (R281) -/

/-- Padding packets of zeros from an offset to the end of the chunk. -/
def padPackets (m : Mach) (pkey : Nat) (x : Member) (aux cut off full : Nat) : List Packet :=
  if off < full then m.unitPackets Op.pltResult pkey x aux cut (full - off + 1) off (List.replicate (full - off) 0) else []

/-- The result packets that one shard packet gives a receiving member. -/
def shardOut (m : Mach) (gk pass idx : Nat) (p : Packet) (empty : Bool) (i : Nat) : List Packet :=
  let d := m.gdesc gk
  let x := m.memberOf Pg.pleat 3 d.memberBase i
  let aux := unitAux d i pass idx
  let full := m.fullBytes gk idx
  let cut := resultCut (m.pd gk F.pdesc_inFmt)
  if empty then m.padPackets d.pkey x aux cut 0 full
  else if full ≤ p.address then []
  else
    let here := p.payload.take (full - p.address)
    let fin := p.address + here.length
    let whole := decide (full ≤ fin)
    m.resultPacket Op.pltResult 2 0 d.pkey x aux p.address (if whole then 1 else 0) here
      :: (if p.last = 1 ∧ !whole then m.padPackets d.pkey x aux cut fin full else [])

/-- A shard packet: replicated as it arrives when W = 0, held until its unit ends when W > 0 (R281). -/
def takeShard (m : Mach) (port : Nat) (p : Packet) : Mach :=
  let gk := groupKeyOf p
  let d := m.gdesc gk
  let (pass, idx) := m.unitOf p
  let i := PltAux.member p
  let tile := m.placeOf d idx
  let window := m.pd gk F.pdesc_release
  let empty := m.isEmptyUnit p && (m.portUnit port).isNone
  let m := m.openChunk p
  let order := m.plt.order
  let m := m.updChunk gk pass idx fun c =>
    { c with pkts := c.pkts ++ [(i, p.address, p.payload)], last := order,
             ended := if p.last = 1 then c.ended ++ [i] else c.ended }
  let m := (m.setPlt { m.plt with order := order + 1 }).trackUnit port p
  let m :=
    if window = 0 then
      (m.receivers d).foldl
        (fun m r => m.issue tile (m.memberOf Pg.pleat 3 d.memberBase r).port (m.shardOut gk pass idx p empty r)) m
    else m
  if p.last = 1 then
    let m := ((m.padUnit gk idx (p.address + p.length) empty).bump .sx Pg.pleat R.pltContribCnt).advanceNext gk i pass idx
    let full := m.fullBytes gk idx
    let m :=
      if window = 0 then m.bumpBy .sx Pg.pleat R.pltResultCnt (m.receivers d).length
      else
        let bytes := match m.chunk? gk pass idx with
          | some c => if empty then [] else (c.pkts.map fun e => e.2.2).flatten.take full
          | none => []
        let bytes := bytes ++ List.replicate (full - bytes.length) 0
        let cut := resultCut (m.pd gk F.pdesc_inFmt)
        let copies := (m.receivers d).map fun r =>
          let x := m.memberOf Pg.pleat 3 d.memberBase r
          (m.receiverIndex d r, x.port,
           m.unitPackets Op.pltResult d.pkey x (unitAux d r pass idx) cut (full + 1) 0 bytes)
        m.sendCopies gk pass idx tile window (m.heldPages gk) copies
    (m.removeChunk gk pass idx).markDone gk pass idx
  else m

/-! ## Buckets (R338) -/

/-- Place a packet's whole records at the next free places; the rest is dropped. -/
def placeRecords (r cap src : Nat) : Nat → List Byte → List (Nat × List Byte) → List (Nat × List Byte) × Nat
  | 0, _, ps => (ps, 0)
  | n + 1, bs, ps =>
    if bs = [] then (ps, 0)
    else if bs.length < r ∨ cap / r ≤ ps.length then
      let q := placeRecords r cap src n (bs.drop r) ps
      (q.1, q.2 + 1)
    else placeRecords r cap src n (bs.drop r) (ps ++ [(src, bs.take r)])

/-- A part's packet: records placed in the order of admission (R338). -/
def takeRecords (m : Mach) (port : Nat) (p : Packet) : Mach :=
  let gk := groupKeyOf p
  let d := m.gdesc gk
  let (pass, idx) := m.unitOf p
  let i := PltAux.member p
  let empty := m.isEmptyUnit p && (m.portUnit port).isNone
  let r := m.recSize d.number
  let cap := m.bd d.number F.bdesc_capacity
  let m := m.openChunk p
  let before := match m.chunk? gk pass idx with | some c => c.places | none => []
  let (places, dropped) := if empty then (before, 0) else placeRecords r cap i (p.payload.length + 1) p.payload before
  let order := m.plt.order
  let m := m.updChunk gk pass idx fun c =>
    { c with places := places, last := order, ended := if p.last = 1 then c.ended ++ [i] else c.ended }
  let m := (m.setPlt { m.plt with order := order + 1 }).trackUnit port p
  let m := m.bumpBy .sx Pg.pleat R.pltBktDropRecCnt dropped
  let g := m.grp gk
  let m :=
    if dropped = 0 ∨ g.drops.contains (i, idx) then m
    else m.setGrp gk { g with drops := (i, idx) :: g.drops, overflow := min (g.overflow + 1) 4095 }
  if p.last = 1 then m.advanceNext gk i pass idx else m

/-! ## Arrival at the core -/

/-- Act on a verdict. -/
def pleatAct (m : Mach) (port : Nat) (p : Packet) : Mach :=
  let gk := groupKeyOf p
  match m.pleatVerdict port p with
  | .proto => m.bump .sx Pg.pleat R.pltProtoDropCnt
  | .faultedDrop => m.bump .sx Pg.pleat R.pltFaultedDropCnt
  | .fault r => (m.bump .sx Pg.pleat R.pltProtoDropCnt).pleatFault gk r
  | .twoFaults other =>
    ((m.bump .sx Pg.pleat R.pltProtoDropCnt).pleatFault other Reason.sequence).pleatFault gk Reason.sequence
  | .take =>
    if p.opcode = Op.bktSend then m.takeRecords port p
    else if p.opcode = Op.pltShard then m.takeShard port p
    else m.takeContrib port p

/-- Packets from one port are judged in the order in which they arrived there (R268): whether a packet held for a Pleat core
has an earlier one of its port before it. -/
def pleatBlocked (m : Mach) (h : Held) : Bool :=
  m.held.any fun e => e.input == h.input && decide (e.id < h.id) && decide (144 ≤ e.output ∧ e.output < 162)

/-- Whether a packet at a Pleat core is whole and admitted. -/
def Held.ready (h : Held) : Bool := h.part != .none && h.part != .waiting && h.released == h.gran

/-- A packet reaches the Pleat core of a tile: the held packet is judged, or, where none is held, the packet as given,
which arrived on its source's port. -/
def pleatArrive (m : Mach) (tile : Nat) (p : Packet) : Mach :=
  match m.held.find? fun h => h.output == 144 + tile && h.pkt == p with
  | some h =>
    if !Held.ready h || m.pleatBlocked h then m
    else (m.removeHeld h.id).pleatAct h.input p
  | none =>
    let port := ((List.range 144).find? fun q => m.partnerNode q == p.src).getD 144
    m.pleatAct port p

/-! ## Completion (R279, R339, R340) -/

/-- Accumulated value of element `j` of a chunk. -/
def accumulate (mode op fmt members : Nat) (pkts : List (Nat × Nat × List Val)) (j : Nat) : Val :=
  let here := pkts.filterMap fun e =>
    if e.2.1 ≤ j then (e.2.2[j - e.2.1]?).map fun v => (e.1, v) else none
  let _ := fmt
  if mode = 0 then combineExact op (here.map (·.2))
  else if mode = 2 then combineArrival op (here.map (·.2))
  else combineTree op ((List.range members).map fun i => (here.find? fun e => e.1 == i).map (·.2))

/-- The post-operations of a descriptor (R302). -/
def postOps (m : Mach) (g : Nat) : PostOps :=
  { scaleMode := m.pd g F.pdesc_scaleMode
    shift := signedOf (m.pd g F.pdesc_shift) 7
    scale := FloatFmt.fp32.decode (m.pd g F.pdesc_scaleConst)
    clamp := m.pd g F.pdesc_clampEn == 1
    lo := FloatFmt.fp32.decode (m.pd g F.pdesc_clampLo)
    hi := FloatFmt.fp32.decode (m.pd g F.pdesc_clampHi)
    stochastic := m.pd g F.pdesc_rounding == 1
    seed := m.pd g F.pdesc_seedLo + m.pd g F.pdesc_seedHi * 2 ^ 32 }

/-- Form a chunk's result (R279, R302). -/
def chunkResult (m : Mach) (c : Chunk) : List Byte × ResultCounts :=
  let g := c.group
  let fmt := m.pd g F.pdesc_inFmt
  let n := m.validElems g c.idx
  let pkts := c.pkts.map fun e => (e.1, e.2.1 / unitBytes fmt * unitElems fmt, elementsOf fmt e.2.2)
  let acc := (List.range n).map
    (accumulate (m.pd g F.pdesc_mode) (m.pd g F.pdesc_op) fmt (m.pd g F.pdesc_members) pkts)
  formResult (m.pd g F.pdesc_outFmt) (m.postOps g) c.pass c.idx acc

/-- Whether every contributing member's unit has ended and the pages are in SRAM (R279). -/
def chunkComplete (m : Mach) (c : Chunk) : Bool :=
  c.spill == 0 && (m.contribs (m.gdesc (Chunk.gk c))).all c.ended.contains

/-- CHUNK_COMPLETE's work (R279, R280, R284). -/
def completeChunk (m : Mach) (gk pass idx : Nat) : Mach :=
  match m.chunk? gk pass idx with
  | none => m
  | some c =>
    if c.bucket ∨ !m.chunkComplete c ∨ m.pd gk F.pdesc_half = 1 then m
    else
      let d := m.gdesc gk
      let r := m.chunkResult c
      let m := m.bumpBy .sx Pg.pleat R.pltSatCnt r.2.sat
      let m := m.bumpBy .sx Pg.pleat R.pltNanOutCnt r.2.nan
      let m := m.bumpBy .sx Pg.pleat R.pltInfOutCnt r.2.inf
      let cut := resultCut (m.pd gk F.pdesc_outFmt)
      let copies := (m.ownersOf gk idx).map fun i =>
        let x := m.memberOf Pg.pleat 3 d.memberBase i
        (m.receiverIndex d i, x.port,
         m.unitPackets Op.pltResult d.pkey x (unitAux d i pass idx) cut (r.1.length + 1) 0 r.1)
      let m := m.sendCopies gk pass idx c.tile (m.pd gk F.pdesc_release) (m.heldPages gk) copies
      (m.removeChunk gk pass idx).markDone gk pass idx

/-- Issue the copies of a group whose stitch has come (R284). -/
def releaseDue (m : Mach) (gk : Nat) : Mach :=
  let due := m.plt.releases.filter fun r => r.group == gk && decide (r.at_ ≤ m.time.number)
  let left := m.plt.releases.filter fun r => !(r.group == gk && decide (r.at_ ≤ m.time.number))
  -- the pages of a chunk's result stay taken until its last copy is issued
  let left := left.zipIdx.map fun e =>
    let first := (left.take e.2).all fun q => !(q.group == e.1.group && q.pass == e.1.pass && q.idx == e.1.idx)
    { e.1 with pages := if first then m.heldPages e.1.group else 0 }
  let m := m.setPlt { m.plt with releases := left }
  due.foldl (fun m r => (m.issue r.tile r.port r.pkts).bump .sx Pg.pleat R.pltResultCnt) m

/-- The unit that a complete bucket delivers: its places, the fill, the source table (R339). -/
def bucketUnit (r cap fill : Nat) (places : List (Nat × List Byte)) : List Byte :=
  let n := cap / r
  let fillRec := (List.range r).map fun k => (leBytes 4 fill).getD (k % 4) 0
  (places.map (·.2)).flatten ++ (List.replicate (n - places.length) fillRec).flatten
    ++ places.map (fun p => BitVec.ofNat 8 p.1) ++ List.replicate (n - places.length) (0xFF : Byte)

/-- The end of a bucket pass (R340): every source is sent its drop map. -/
def bucketPassEnd (m : Mach) (gk : Nat) : Mach :=
  let d := m.gdesc gk
  let g := m.grp gk
  let tile := m.placeOf d 0
  let m := (m.contribs d).foldl
    (fun m i =>
      let x := m.memberOf Pg.pleat 3 d.memberBase i
      let bits := ((g.drops.filter fun e => e.1 == i).map fun e => 2 ^ e.2).foldl (· + ·) 0
      (m.issue tile x.port
        [m.resultPacket Op.bktDropmap 2 0 d.pkey x (d.number + i * 2 ^ 13) 0 1 (leBytes 32 bits)]).bump
        .sx Pg.pleat R.pltBktDropmapCnt)
    m
  m.setGrp gk { m.grp gk with passLow := ((m.grp gk).passLow + 1) % 256, passes := min ((m.grp gk).passes + 1) 0xFFFFFFFF,
                              done := [], drops := [] }

/-- BUCKET_COMPLETE's work (R339, R340). -/
def completeBucket (m : Mach) (gk pass idx : Nat) : Mach :=
  match m.chunk? gk pass idx with
  | none => m
  | some c =>
    if !c.bucket ∨ !m.chunkComplete c then m
    else
      let d := m.gdesc gk
      let r := m.recSize d.number
      let cap := m.bd d.number F.bdesc_capacity
      let filled := cap / r - c.places.length
      let bytes := bucketUnit r cap (m.bd d.number F.bdesc_fill) c.places
      let m := (m.ownersOf gk idx).foldl
        (fun m i =>
          let x := m.memberOf Pg.pleat 3 d.memberBase i
          m.issue c.tile x.port
            (m.unitPackets Op.bktDeliver d.pkey x (unitAux d i pass idx) 4096 (bytes.length + 1) 0 bytes))
        m
      let m := (m.bump .sx Pg.pleat R.pltBktDeliverCnt).bumpBy .sx Pg.pleat R.pltBktFillRecCnt filled
      let g := m.grp gk
      let m := m.setGrp gk { g with done := (pass, idx) :: g.done,
                                    padded := if filled = 0 then g.padded else min (g.padded + 1) 4095 }
      let m := m.removeChunk gk pass idx
      if (m.grp gk).done.length = d.count then m.bucketPassEnd gk else m

/-! ## Spill (R275, R277) -/

/-- Chunks of a cluster to spill, the one whose most recent packet arrived longest ago first, until free pages would reach
the high mark. -/
def spillPick (m : Mach) (cl goal : Nat) : Nat → Mach
  | 0 => m
  | n + 1 =>
    let soon := sumOf (m.plt.chunks.filter fun c => clusterOfTile c.tile == cl && c.spill == 1) m.chunkPages
    if goal ≤ m.freePages cl + soon then m
    else
      let cand := m.plt.chunks.filter fun c => clusterOfTile c.tile == cl && c.spill == 0 && m.chunkPages c != 0
      match cand with
      | [] => m
      | c :: cs =>
        let o := cs.foldl (fun a b => if b.last < a.last then b else a) c
        spillPick ((m.updChunk (Chunk.gk o) o.pass o.idx fun c => { c with spill := 1 }).bump .sx Pg.pleat R.pltSpillCnt)
          cl goal n

def spillStart (m : Mach) (cl : Nat) : Mach :=
  let lwm := m.fld .sx Pg.pleat F.pltSpillCtrl_spillLwm
  let hwm := max (m.fld .sx Pg.pleat F.pltSpillCtrl_spillHwm) lwm
  if m.freePages cl < lwm ∧ !m.mem.selfRefresh ∧ !m.mem.retired.contains cl then
    m.spillPick cl hwm (m.plt.chunks.length + 1)
  else m

/-- The writes of a spilled chunk complete (R275, R277). -/
def spillDone (m : Mach) (gk pass idx : Nat) : Mach :=
  let m := m.updChunk gk pass idx fun c => if c.spill = 1 then { c with spill := 2 } else c
  let g := m.grp gk
  if g.leaving ∧ !(m.plt.chunks.any fun c => Chunk.gk c == gk && c.spill == 1) then m.setGrp gk { g with leaving := false }
  else m

/-- A spilled chunk is read back when free pages allow (R275). -/
def readBack (m : Mach) (gk pass idx : Nat) (bad : Bool) : Mach :=
  match m.chunk? gk pass idx with
  | none => m
  | some c =>
    if c.spill ≠ 2 ∨ m.mem.selfRefresh ∨ !(m.grp gk).resident ∨ m.freePages (clusterOfTile c.tile) < m.chunkPages c then m
    else if bad then m.pleatFault gk Reason.poison
    else (m.updChunk gk pass idx fun c => { c with spill := 0 }).bump .sx Pg.pleat R.pltReloadCnt

/-! ## Stall (R278) -/

/-- At each cut-off, the timers of incomplete chunks of resident groups, at shed levels 0 to 2. -/
def stallTick (m : Mach) : Mach :=
  let level := m.shedLevel
  m.setPlt { m.plt with
    chunks := m.plt.chunks.map fun c =>
      let g := m.grp (Chunk.gk c)
      if c.opened < m.time.number ∧ level ≤ 2 ∧ g.resident ∧ g.since < m.time.number
          ∧ !((m.contribs (m.gdesc (Chunk.gk c))).all c.ended.contains) then { c with stall := c.stall + 1 }
      else c }

/-- CHUNK_STALL's condition. -/
def stalled (m : Mach) (gk pass idx : Nat) : Bool :=
  match m.chunk? gk pass idx with
  | some c =>
    let lim := m.fld .sx Pg.pleat F.pltCtrl_stallLimit
    lim != 0 && decide (lim ≤ c.stall)
  | none => false

/-! ## Validation and commits (R263, R264, R335) -/

/-- Tables of R262. -/
def comboOk (half inF mode op outF : Nat) : Bool :=
  if half = 1 then decide (inF ≤ 11) && op == 0 && outF == inF
  else if inF ≤ 2 then (mode == 1 || mode == 2) && decide (op ≤ 2) && decide (outF ≤ 9)
  else if inF ≤ 9 then mode == 0 && decide (op ≤ 2) && decide (outF ≤ 9)
  else if inF ≤ 11 then mode == 0 && decide (op ≤ 2) && (outF == 0 || outF == 2 || outF == 10 || outF == 11)
  else false

/-- Codes 1, 2, 3 and 7, which Pleat and bucket groups share. -/
def groupCode (m : Mach) (d : GroupDesc) (code456 : Option Nat) (pages : Nat) : Nat :=
  let ms := m.membersOf d
  let ports := ms.map (·.port)
  if d.members = 0 ∨ 144 < d.members ∨ 131072 < d.memberBase + d.members then 1
  else if ports.any (fun p => 144 ≤ p) ∨ ports.eraseDups.length ≠ ports.length
      ∨ ports.any (fun p => m.out1.contains (p / 8)) ∨ ports.any (fun p => !m.holdsKey p d.pkey) then 2
  else if d.pkey = 0 ∨ d.pkey = 0xFFFF then 3
  else
    match code456 with
    | some c => c
    | none =>
      if m.contribs d = [] ∨ m.receivers d = [] ∨ d.quota = 0 ∨ 1024 < d.quota ∨ d.quantum = 0
          ∨ m.tilesOf d.tileMask = [] then 7
      else if (m.clustersOf d).any (fun cl => m.backing cl < d.quota * pages) then 8
      else 0

/-- The code under which a Pleat descriptor fails; 0 valid (R263). -/
def pleatCode (m : Mach) (g : Nat) : Nat :=
  let d := m.gdesc g
  let f := m.pd g
  let half := f F.pdesc_half
  let mode := f F.pdesc_ownerMode
  let cap := f F.pdesc_capacity
  let owners := (List.range (f F.pdesc_ownerLen)).map fun i =>
    m.tfld .sx Pg.pleat 4 1 (f F.pdesc_ownerBase + i) F.owner_member
  let badOwner := owners.any fun i =>
    decide (d.members ≤ i) || (if half = 1 then !(m.contribs d).contains i else !(m.receivers d).contains i)
  let c456 : Option Nat :=
    if !comboOk half (f F.pdesc_inFmt) (f F.pdesc_mode) (f F.pdesc_op) (f F.pdesc_outFmt) ∨ mode = 3
        ∨ f F.pdesc_scaleMode = 3 ∨ f F.pdesc_op = 3 ∨ f F.pdesc_mode = 3 ∨ 12 ≤ f F.pdesc_outFmt then some 4
    else if 5 < f F.pdesc_chunkLog ∨ cap = 0 ∨ 2 ^ 24 < m.chunksOf g
        ∨ ((isMx (f F.pdesc_inFmt) ∨ isMx (f F.pdesc_outFmt)) ∧ cap % 32 ≠ 0) then some 5
    else if (mode = 2 ∧ (f F.pdesc_ownerLen = 0 ∨ 65536 < f F.pdesc_ownerBase + f F.pdesc_ownerLen ∨ badOwner))
        ∨ (half = 1 ∧ mode = 0) then some 6
    else none
  m.groupCode d c456 (m.pMax g)

/-- The code under which a bucket descriptor fails; 0 valid (R335). -/
def bucketCode (m : Mach) (g : Nat) : Nat :=
  let d := m.gdesc (8192 + g)
  let f := m.bd g
  let mode := f F.bdesc_ownerMode
  let cap := f F.bdesc_capacity
  let nb := f F.bdesc_buckets
  let badOwner := (List.range nb).any fun b =>
    let i := m.tfld .sx Pg.pleat 4 1 (f F.bdesc_ownerBase + b) F.owner_member
    decide (d.members ≤ i) || !(m.receivers d).contains i
  let c456 : Option Nat :=
    if mode = 0 ∨ mode = 3 then some 4
    else if cap < 16 ∨ 65536 < cap ∨ cap % m.recSize g ≠ 0 ∨ nb = 0 ∨ 256 < nb then some 5
    else if mode = 2 ∧ (65536 < f F.bdesc_ownerBase + nb ∨ badOwner) then some 6
    else none
  m.groupCode d c456 (m.bucketPages g)

/-- Whether a group is idle (R264, R335). -/
def groupIdle (m : Mach) (gk : Nat) : Bool :=
  (m.gdesc gk).valid && (m.grp gk).reason == 0 && m.openCount gk == 0
    && !(m.held.any fun h => decide (144 ≤ h.output ∧ h.output < 162) && groupKeyOf h.pkt == gk)

/-- Words of a descriptor: window select, words. -/
def descWords (gk : Nat) : List Nat :=
  if gk < 8192 then (List.range 16).map fun w => item Pg.pleat 1 (16 * gk + w)
  else (List.range 8).map fun w => item Pg.pleat 5 (8 * (gk - 8192) + w)

/-- Give a descriptor the live words it had before. -/
def restoreWords (m old : Mach) (ks : List Nat) : Mach := ks.foldl (fun m k => m.setLive .sx k (old.liveCopy .sx k)) m

/-- Groups that a change of the given items touches: by their descriptor, or by a member or owner entry of theirs. -/
def touchedGroups (m : Mach) (ks : List Nat) : List Nat :=
  let own := ks.filterMap fun k =>
    if itemPage k = Pg.pleat then
      if itemSel k = 1 then some (itemOff k / 16) else if itemSel k = 5 then some (8192 + itemOff k / 8) else none
    else none
  let mem := (ks.filter fun k => itemPage k == Pg.pleat && itemSel k == 3).map itemOff
  let own' := (ks.filter fun k => itemPage k == Pg.pleat && itemSel k == 4).map itemOff
  let byTable := m.validGroups.filter fun gk =>
    let d := m.gdesc gk
    let ob := if d.bucket then m.bd d.number F.bdesc_ownerBase else m.pd gk F.pdesc_ownerBase
    let ol := if d.bucket then (if m.bd d.number F.bdesc_ownerMode = 2 then d.count else 0)
      else (if m.pd gk F.pdesc_ownerMode = 2 then m.pd gk F.pdesc_ownerLen else 0)
    (mem.any fun e => decide (d.memberBase ≤ e ∧ e < d.memberBase + d.members))
      || own'.any fun e => decide (ob ≤ e ∧ e < ob + ol)
  (own ++ byTable).eraseDups

/-- Group 8 has been copied; `old` is the machine before the copy, `ks` the items whose live word changed (R263, R264). -/
def pleatCommitted (m old : Mach) (ks : List Nat) : Mach :=
  (m.touchedGroups ks).foldl
    (fun m gk =>
      let d := m.gdesc gk
      let code := if !d.valid then 0 else if d.bucket then m.bucketCode d.number else m.pleatCode gk
      if code ≠ 0 then
        let m := m.restoreWords old (descWords gk)
        let word := if d.bucket then d.number + code * 1024 else d.number + code * 8192
        (m.setReg .sx Pg.pleat (if d.bucket then R.pltBktDescErr else R.pltDescErr) word).raise .sx Pg.pleat 1 word
      else if (old.gdesc gk).valid ∧ !old.groupIdle gk then m.pleatFault gk Reason.descChanged (some (old.gdesc gk).pkey)
      else m.setGrp gk { reason := (m.grp gk).reason, rearm := (m.grp gk).rearm })
    m

end Mach

/-! ## Meanings -/

/-- PLT_CONTRIB (R267 to R270): a contribution packet is judged at the Pleat core of a tile and accumulated. -/
def execPltContrib (tile : Nat) (pkt : Packet) (s : State) : Host.Outcome State Fault Refusal :=
  State.unit (decide (tile < 18)) <| s.go fun m => m.pleatArrive tile pkt

/-- PLT_SHARD (R281): a shard is judged as a contribution is, and replicated or held for release. -/
def execPltShard (tile : Nat) (pkt : Packet) (s : State) : Host.Outcome State Fault Refusal :=
  State.unit (decide (tile < 18)) <| s.go fun m => m.pleatArrive tile pkt

/-- BKT_SEND (R336, R338): a part's packet is judged and its whole records placed. -/
def execBktSend (tile : Nat) (pkt : Packet) (s : State) : Host.Outcome State Fault Refusal :=
  State.unit (decide (tile < 18)) <| s.go fun m => m.pleatArrive tile pkt

/-- CHUNK_COMPLETE (R279): a complete chunk's result is formed and issued, or held for release. -/
def execChunkComplete (group pass index : Nat) (s : State) : Host.Outcome State Fault Refusal :=
  State.unit (decide (group < 8192)) <| s.go fun m => m.completeChunk group pass index

/-- RESULT_RELEASE (R284): the copies whose stitch has come enter the fabric. -/
def execResultRelease (group : Nat) (s : State) : Host.Outcome State Fault Refusal :=
  State.unit (decide (group < 8192)) <| s.go fun m => m.releaseDue group

/-- PLEAT_SPILL (R275): a cluster short of free pages starts spilling. -/
def execPleatSpill (cluster : Nat) (s : State) : Host.Outcome State Fault Refusal :=
  State.unit (decide (cluster < 6)) <| s.go fun m => m.spillStart cluster

/-- SPILL_WRITE_DONE (R275, R277): the spill writes of a chunk or bucket complete; `group` is a group key. -/
def execSpillWriteDone (group pass index : Nat) (s : State) : Host.Outcome State Fault Refusal :=
  State.unit (decide (group < 9216)) <| s.go fun m => m.spillDone group pass index

/-- SPILL_READBACK (R275): a spilled chunk or bucket is read back; `group` is a group key. -/
def execSpillReadback (group pass index : Nat) (uncorrectable : Bool) (s : State) : Host.Outcome State Fault Refusal :=
  State.unit (decide (group < 9216)) <| s.go fun m => m.readBack group pass index uncorrectable

/-- GROUP_RESIDENCY (R276, R277): in a hem idle groups leave, groups past their quantum are descheduled, waiting groups
become resident. -/
def execGroupResidency (s : State) : Host.Outcome State Fault Refusal := s.go Mach.residency

/-- CHUNK_STALL (R278): an incomplete chunk whose timer has reached the limit faults its group; `group` is a group key. -/
def execChunkStall (group pass index : Nat) (s : State) : Host.Outcome State Fault Refusal :=
  State.unit (decide (group < 9216)) <| s.go fun m =>
    if m.stalled group pass index then m.pleatFault group Reason.stall else m

/-- GROUP_REARM (R283): writing rearm of a faulted group requests its re-arming; on another group it has no effect. -/
def execGroupRearm (bucket : Bool) (group : Nat) (s : State) : Host.Outcome State Fault Refusal :=
  State.unit (decide (group < if bucket then 1024 else 8192)) <| s.go fun m =>
    let gk := if bucket then 8192 + group else group
    if (m.grp gk).reason ≠ 0 then m.setGrp gk { m.grp gk with rearm := true } else m

/-- GROUP_REARM_APPLY (R283): in the next hem the groups requested are re-armed with pass_low 0 and no reason. -/
def execGroupRearmApply (s : State) : Host.Outcome State Fault Refusal :=
  s.go fun m => m.setPlt { m.plt with groups := m.plt.groups.filter fun e => !e.2.rearm }

/-- BUCKET_COMPLETE (R339, R340): a complete bucket is filled, given its source table and delivered; the last of a pass
sends the drop maps. -/
def execBucketComplete (group bucket pass : Nat) (s : State) : Host.Outcome State Fault Refusal :=
  State.unit (decide (group < 1024)) <| s.go fun m => m.completeBucket (8192 + group) pass bucket

end Sys2Proof.Machine
end

