-- ==== Sys2Proof/Machine/Cuff.lean ====
section
/-! DEFINITION. Cuff rounds (chapter "Cuff rounds and bucket exchange", R312 to R331, R342, R343): descriptors, the judging of
contributions, the close of a round, results and their release, faults and re-arming. -/

namespace Sys2Proof.Machine
open Sys2Proof

namespace CufAux
def group (p : Packet) : Nat := bitsOf p.aux 0 9
def member (p : Packet) : Nat := bitsOf p.aux 9 8
def opening (p : Packet) : Nat := bitsOf p.aux 17 47
end CufAux

/-- The stitch with the given low 47 bits that lies nearest the own stitch number (R319). -/
def fullStitch (now low : Nat) : Nat :=
  let base := now / 2 ^ 47 * 2 ^ 47 + low
  if base + 2 ^ 46 ≤ now then base + 2 ^ 47
  else if now + 2 ^ 46 ≤ base ∧ 2 ^ 47 ≤ base then base - 2 ^ 47
  else base

/-- The 47-bit form of aux in CUF_CONTRIB and CUF_RESULT. -/
def cufAux (group member s : Nat) : Nat := group % 512 + member % 256 * 2 ^ 9 + s % 2 ^ 47 * 2 ^ 17

namespace Mach

/-! ## Packets that wait for a unit's command -/

/-- Leave a packet at a unit for the command of its opcode. -/
def deliver (m : Mach) (c : Chip) (port : Nat) (p : Packet) : Mach :=
  { m with arrivedPkts := m.arrivedPkts ++ [(c, port, p)] }

/-- Whether the packet waits there. -/
def waits (m : Mach) (c : Chip) (port : Nat) (p : Packet) : Bool := m.arrivedPkts.contains (c, port, p)

/-- Take the packet, if it waits. -/
def collect (m : Mach) (c : Chip) (port : Nat) (p : Packet) : Mach :=
  { m with arrivedPkts := m.arrivedPkts.erase (c, port, p) }

/-! ## Descriptors (R312, R313) -/

def cd (m : Mach) (g : Nat) (f : Fld) : Nat := m.tfld .sx Pg.cuff 1 4 g f
def cgrp (m : Mach) (g : Nat) : CGroup := Tbl.get (fun _ => {}) m.cuff g
def setCgrp (m : Mach) (g : Nat) (x : CGroup) : Mach := { m with cuff := Tbl.set (fun _ => {}) m.cuff g x }
def cmember (m : Mach) (g i : Nat) : Member := m.memberOf Pg.cuff 3 (m.cd g F.cdesc_memberBase) i
def cmembers (m : Mach) (g : Nat) : List Member := (List.range (m.cd g F.cdesc_members)).map (m.cmember g)
def ccontribs (m : Mach) (g : Nat) : List Nat :=
  (List.range (m.cd g F.cdesc_members)).filter fun i => (m.cmember g i).contrib

/-- Groups whose live descriptor is valid. -/
def validCuffs (m : Mach) : List Nat :=
  m.regs.live.filterMap fun e =>
    if itemPage e.1 = Pg.cuff ∧ itemSel e.1 = 1 ∧ itemOff e.1 % 4 = 0 ∧ e.2.toNat % 2 = 1 then some (itemOff e.1 / 4)
    else none

/-- What a group takes of the Cuff store (R317). -/
def cuffUse (m : Mach) (g : Nat) : Nat :=
  if m.cd g F.cdesc_valid = 1 then m.cd g F.cdesc_members * (ceilDiv (m.cd g F.cdesc_len) 16) * 16 + 1024 else 0

/-- Free Cuff store of a cluster in bytes (R342). -/
def cuffFree (m : Mach) (cl : Nat) : Nat :=
  2944 * 1024 - sumOf (m.validCuffs.filter fun g => g % 6 == cl) m.cuffUse

/-! ## Result copies (R326) -/

/-- The unsent copies of a group, oldest first. -/
def cuffCopies (m : Mach) (g : Nat) : List Held :=
  m.held.filter fun h => h.input == 172 && CufAux.group h.pkt == g && !h.started

/-- Opening stitches (47 bits) of the results with copies not yet sent, oldest first. -/
def cuffHeld (m : Mach) (g : Nat) : List Nat := ((m.cuffCopies g).map fun h => CufAux.opening h.pkt).eraseDups

def dropCopies (m : Mach) (hs : List Held) : Mach := hs.foldl (fun m h => m.removeHeld h.id) m

/-- R316. -/
def cuffIdle (m : Mach) (g : Nat) : Bool :=
  m.cd g F.cdesc_valid == 1 && (m.cgrp g).reason == 0 && (m.cgrp g).round == none && m.cuffCopies g == []

/-! ## Faults (R330) -/

/-- Fault a group: the open round and every copy not being transmitted are discarded, a partition fault raised for its key
(or the key it had before a change, log 12). -/
def cuffFault (m : Mach) (g reason : Nat) (key : Option Nat := none) : Mach :=
  if (m.cgrp g).reason ≠ 0 then m
  else
    let m := m.dropCopies (m.cuffCopies g)
    let m := m.setCgrp g { m.cgrp g with reason := reason, round := none }
    let m := m.bump .sx Pg.cuff R.cufGroupFaultCnt
    let m := m.raise .sx Pg.cuff 0 (g + reason * 2 ^ 24)
    m.pfault (key.getD (m.cd g F.cdesc_pkey)) reason

/-- Valid groups with a member on a port. -/
def cuffsOn (m : Mach) (p : Nat) : List Nat :=
  m.validCuffs.filter fun g => (m.cmembers g).any fun x => x.port == p

def cuffPortDown (m : Mach) (p : Nat) : Mach := (m.cuffsOn p).foldl (fun m g => m.cuffFault g Reason.portDown) m

/-- A member's port lost the group's key in a Guard commit (R316). -/
def cuffKeyRemoved (m : Mach) (p key : Nat) : Mach :=
  ((m.cuffsOn p).filter fun g => m.cd g F.cdesc_pkey == key).foldl (fun m g => m.cuffFault g Reason.keyRemoved) m

/-! ## Judging (R321) -/

/-- One count in a member counter: the missed or the late field (R329). -/
def countMember (m : Mach) (g i : Nat) (f : Fld) : Mach := m.bumpT .sx Pg.cuff 4 1 (m.cd g F.cdesc_memberBase + i) f

def cuffAccept (m : Mach) (g i s x : Nat) (payload : List Byte) : Mach :=
  let c := m.cgrp g
  let n := m.time.number
  let (r, m) : Round × Mach :=
    match c.round with
    | some r => (r, m)
    | none => ({ s := s, d := m.cd g F.cdesc_deadline, accepted := [] },
               m.setTFld .sx Pg.cuff 2 4 g F.cstat_lastOpen (s % 2 ^ 32))
  (m.setCgrp g { c with round := some { r with accepted := r.accepted ++ [(i, n * 875 + x, payload)] } }).bump
    .sx Pg.cuff R.cufContribCnt

/-- A contribution arrives at the Cuff unit in cycle `x` and is judged by the first row of R321 that applies.  One to a round
older than the open one fits no row and is taken as late (DEDUCED, log 13). -/
def cuffJudge (m : Mach) (port x : Nat) (p : Packet) : Mach :=
  let g := CufAux.group p
  let i := CufAux.member p
  let n := m.time.number
  let s := fullStitch n (CufAux.opening p)
  let c := m.cgrp g
  let mem := m.cmember g i
  let proto := fun (m : Mach) => m.bump .sx Pg.cuff R.cufProtoDropCnt
  let d := match c.round with | some r => if r.s = s then r.d else m.cd g F.cdesc_deadline | none => m.cd g F.cdesc_deadline
  let closed : Bool := match c.lastClosed with | some l => decide (s ≤ l) | none => false
  let older : Bool := match c.round with | some r => decide (s < r.s) | none => false
  let earlierOpen : Bool := match c.round with | some r => decide (r.s < s) | none => false
  let twice : Bool := match c.round with | some r => r.accepted.any (fun a => a.1 == i) | none => false
  if p.dst ≠ m.sxNode then proto m
  else if !m.timed ∨ m.cd g F.cdesc_valid = 0 ∨ p.pkey ≠ m.cd g F.cdesc_pkey then proto m
  else if c.reason ≠ 0 then m.bump .sx Pg.cuff R.cufFaultedDropCnt
  else if m.cd g F.cdesc_members ≤ i ∨ !mem.contrib ∨ mem.port ≠ port ∨ mem.context ≠ p.context then
    (proto m).cuffFault g Reason.member
  else if closed ∨ s + d < n ∨ (n = s + d ∧ 840 ≤ x) ∨ older then
    (m.bump .sx Pg.cuff R.cufLateDropCnt).countMember g i F.cmc_late
  else if n < s ∨ earlierOpen then m.bump .sx Pg.cuff R.cufEarlyDropCnt
  else if twice then (proto m).cuffFault g Reason.duplicate
  else m.cuffAccept g i s x p.payload

/-! ## The result (R314, R325) -/

/-- The bytes of member `i` accepted in a round. -/
def Round.bytes (r : Round) (i : Nat) : Option (List Byte) := (r.accepted.find? (fun a => a.1 == i)).map (fun a => a.2.2)

/-- The result of a reduce group and its saturated elements. -/
def cuffReduce (m : Mach) (g : Nat) (r : Round) : List Byte × Nat :=
  let fmt := m.cd g F.cdesc_inFmt
  let op := m.cd g F.cdesc_op
  let len := m.cd g F.cdesc_len
  let els : List (Option (List Val)) := (List.range (m.cd g F.cdesc_members)).map fun i =>
    (Round.bytes r i).map fun b => elementsOf fmt (b.take len)
  let acc := (List.range (len / unitBytes fmt)).map fun j =>
    let leaves := els.map fun e => e.bind fun vs => vs[j]?
    if fmt ≤ 2 then combineTree op leaves else combineExact op (leaves.filterMap id)
  let (bytes, n) := formResult fmt {} 0 0 acc
  (bytes, n.sat)

/-- The result of a gather group. -/
def cuffGather (m : Mach) (g : Nat) (r : Round) : List Byte :=
  let len := m.cd g F.cdesc_len
  ((List.range (m.cd g F.cdesc_members)).map fun i =>
    let b := ((Round.bytes r i).getD []).take len
    b ++ List.replicate (len - b.length) 0).flatten

/-- The status block of R325 for a close in stitch `n`. -/
def statusBlock (m : Mach) (g : Nat) (r : Round) (late : Bool) (n : Nat) : List Byte :=
  let len := m.cd g F.cdesc_len
  let u := if m.cd g F.cdesc_kind = 1 then 1 else unitBytes (m.cd g F.cdesc_inFmt)
  let padded := r.accepted.any fun a => decide (a.2.2.length < len)
  let cut := r.accepted.any fun a => decide (len < a.2.2.length) || a.2.2.length % u != 0
  let bitmap := sumOf r.accepted fun a => 2 ^ a.1
  let lastArr := match r.accepted.getLast? with | some a => a.1 | none => 0xFF
  leBytes 18 bitmap ++ leBytes 2 r.accepted.length
    ++ [BitVec.ofNat 8 lastArr,
        BitVec.ofNat 8 ((if late then 1 else 0) + (if padded then 2 else 0) + (if cut then 4 else 0))]
    ++ leBytes 2 (n - r.s) ++ leBytes 8 r.s

/-! ## The close (R322, R324, R326, R327, R329) -/

/-- Whether every contributing member arrived before the cut-off of the present stitch. -/
def cuffComplete (m : Mach) (g : Nat) (r : Round) : Bool :=
  (m.ccontribs g).all fun i => r.accepted.any fun a => a.1 == i && decide (a.2.1 < m.time.number * 875 + 840)

/-- The slowest member (R329); 0xFF while every missed count is 0. -/
def cuffSlowest (m : Mach) (g : Nat) : Nat :=
  let missed := fun i => m.tfld .sx Pg.cuff 4 1 (m.cd g F.cdesc_memberBase + i) F.cmc_missed
  ((m.ccontribs g).foldl (fun (b : Nat × Nat) i => if b.2 < missed i then (i, missed i) else b) (0xFF, 0)).1

/-- Queue the copies of a closed round, one per receiving member. -/
def cuffIssue (m : Mach) (g : Nat) (r : Round) (late : Bool) (payload : List Byte) : Mach :=
  let c := m.time.number
  let w := m.cd g F.cdesc_release
  let recv := (List.range (m.cd g F.cdesc_members)).filter fun i => (m.cmember g i).recv
  recv.zipIdx.foldl
    (fun m e =>
      let mem := m.cmember g e.1
      let pkt := HdrSpec.packet
        { opcode := Op.cufResult, vc := 3, dst := m.partnerNode mem.port, src := m.sxNode, epoch := m.epochNow .sx % 16,
          stream := 63, pkey := m.cd g F.cdesc_pkey, context := mem.context, status := if late then Status.late else 0,
          aux := cufAux g e.1 r.s } payload
      m.pushExempt pkt 172 mem.port (if w = 0 then c * 875 + 848 else (c + 1 + e.2 % w) * 875))
    m

/-- Make room for a result: the older of two held results loses its unsent copies; copies not yet eligible become
eligible. -/
def cuffSupersede (m : Mach) (g : Nat) : Mach × Bool :=
  let hs := m.cuffHeld g
  let lost := decide (2 ≤ hs.length)
  let oldest := hs.headD 0
  let gone := if lost then (m.cuffCopies g).filter fun h => CufAux.opening h.pkt == oldest else []
  let m := (m.dropCopies gone).bumpBy .sx Pg.cuff R.cufResultDropCnt gone.length
  ({ m with held := m.held.map fun h => if h.input = 172 ∧ CufAux.group h.pkt = g then { h with notBefore := 0 } else h },
   lost)

/-- Close a round at the cut-off of the present stitch. -/
def cuffClose (m : Mach) (g : Nat) (r : Round) (late : Bool) : Mach :=
  let m := m.setCgrp g { m.cgrp g with round := none, lastClosed := some r.s }
  let m := m.bump .sx Pg.cuff R.cufRoundCnt
  let absent := (m.ccontribs g).filter fun i => (Round.bytes r i).isNone
  let m := if late then
      absent.foldl (fun m i => m.countMember g i F.cmc_missed)
        ((m.bump .sx Pg.cuff R.cufLateRoundCnt).bumpT .sx Pg.cuff 2 4 g F.cstat_lateRounds)
    else m
  let lastArr := match r.accepted.getLast? with | some a => a.1 | none => 0xFF
  let m := m.setTFld .sx Pg.cuff 2 4 g F.cstat_lastArriver lastArr
  let m := m.setTFld .sx Pg.cuff 2 4 g F.cstat_slowest (m.cuffSlowest g)
  let (bytes, sat) := if m.cd g F.cdesc_kind = 1 then (m.cuffGather g r, 0) else m.cuffReduce g r
  let m := m.bumpBy .sx Pg.cuff R.cufSatCnt sat
  let (m, lost) := m.cuffSupersede g
  let m := m.cuffIssue g r late (bytes ++ m.statusBlock g r late m.time.number)
  if lost then m.cuffFault g Reason.resultLost else m

/-- The Cuff unit examines a group's open round at the cut-off. -/
def cuffCutOff (m : Mach) (g : Nat) : Mach :=
  match (m.cgrp g).round with
  | none => m
  | some r =>
    if m.cuffComplete g r then m.cuffClose g r false
    else if r.s + r.d ≤ m.time.number then m.cuffClose g r true
    else m

/-- Re-arm the groups requested (R330). -/
def cuffRearmAll (m : Mach) : Mach :=
  (m.cuff.filter fun e => e.2.rearm).foldl
    (fun m e => (m.setCgrp e.1 { e.2 with reason := 0, rearm := false }).setTFld .sx Pg.cuff 2 4 e.1 F.cstat_lateRounds 0)
    m

/-- Set every member counter of a group to 0 (R343). -/
def cuffClear (m : Mach) (g : Nat) : Mach :=
  (List.range (m.cd g F.cdesc_members)).foldl
    (fun m i => m.setTWord .sx Pg.cuff 4 (m.cd g F.cdesc_memberBase + i) 0) m

/-! ## Validation (R315) -/

/-- The code under which a descriptor fails; 0 valid.  `touched` are the groups of the same commit: those above `g` still
count with what they took before it (DEDUCED, log 14). -/
def cuffCode (m old : Mach) (touched : List Nat) (g : Nat) : Nat :=
  let f := m.cd g
  let ms := m.cmembers g
  let ports := ms.map (·.port)
  let n := f F.cdesc_members
  let len := f F.cdesc_len
  let fmt := f F.cdesc_inFmt
  let gather := f F.cdesc_kind = 1
  let use := sumOf ((List.range 86).map fun k => 6 * k + g % 6) fun q =>
    if touched.contains q ∧ g < q then old.cuffUse q else m.cuffUse q
  if n = 0 ∨ 144 < n ∨ 73728 < f F.cdesc_memberBase + n then 1
  else if ports.any (fun p => 144 ≤ p) ∨ ports.eraseDups.length ≠ ports.length
      ∨ ports.any (fun p => m.out1.contains (p / 8)) ∨ ports.any (fun p => !m.holdsKey p (f F.cdesc_pkey)) then 2
  else if f F.cdesc_pkey = 0 ∨ f F.cdesc_pkey = 0xFFFF then 3
  else if f F.cdesc_op = 3 ∨ (5 ≤ fmt ∧ fmt ≤ 9) ∨ 12 ≤ fmt ∨ (gather ∧ f F.cdesc_op ≠ 0) then 4
  else if f F.cdesc_deadline = 0 ∨ 64 < f F.cdesc_deadline ∨ len = 0 ∨ 256 < len
      ∨ (!gather ∧ len % unitBytes fmt ≠ 0) ∨ (gather ∧ 256 < n * len) then 5
  else if m.ccontribs g = [] ∨ !ms.any (·.recv) then 6
  else if 2944 * 1024 < use then 7
  else 0

/-- Groups that a change of the given items touches. -/
def touchedCuffs (m : Mach) (ks : List Nat) : List Nat :=
  let own := ks.filterMap fun k => if itemPage k = Pg.cuff ∧ itemSel k = 1 then some (itemOff k / 4) else none
  let mem := (ks.filter fun k => itemPage k == Pg.cuff && itemSel k == 3).map itemOff
  let byMem := m.validCuffs.filter fun g =>
    mem.any fun e => decide (m.cd g F.cdesc_memberBase ≤ e ∧ e < m.cd g F.cdesc_memberBase + m.cd g F.cdesc_members)
  ((own ++ byMem).eraseDups).mergeSort (fun a b => a ≤ b)

/-- Group 9 has been copied; `old` is the machine before the copy, `ks` the items whose live word changed (R315, R316). -/
def cuffCommitted (m old : Mach) (ks : List Nat) : Mach :=
  let touched := m.touchedCuffs ks
  touched.foldl
    (fun m g =>
      let code := if m.cd g F.cdesc_valid = 0 then 0 else m.cuffCode old touched g
      if code ≠ 0 then
        let m := m.restoreWords old ((List.range 4).map fun w => item Pg.cuff 1 (4 * g + w))
        let word := g + code * 512
        (m.setReg .sx Pg.cuff R.cufDescErr word).raise .sx Pg.cuff 1 word
      else if old.cd g F.cdesc_valid = 1 ∧ !old.cuffIdle g then
        m.cuffFault g Reason.descChanged (some (old.cd g F.cdesc_pkey))
      else if old.cd g F.cdesc_valid = 0 then m.setTFld .sx Pg.cuff 2 4 g F.cstat_lateRounds 0
      else m)
    m

end Mach

/-! ## Meanings -/

/-- CUF_CONTRIB (R318 to R321): a contribution arrives from a port at the Cuff unit in cycle `x`; its VC3 credits return when
the Cuff path takes it. -/
def execCufContrib (port : Nat) (pkt : Packet) (x : Nat) (s : State) : Host.Outcome State Fault Refusal :=
  State.unit (s.m.hasPort .sx port) <| s.go fun m =>
    let m := if m.waits .sx port pkt then (m.collect .sx port pkt).giveCredit port 3 pkt.granules else m
    m.cuffJudge port x pkt

/-- CUFF_ROUND_CLOSE (R322): at a cut-off the Cuff unit examines a group's open round, and closes it when it is complete or
its deadline has come. -/
def execCuffRoundClose (group : Nat) (s : State) : Host.Outcome State Fault Refusal :=
  State.unit (decide (group < 512)) <| s.go fun m => m.cuffCutOff group

/-- CUFF_REARM (R330, R343): writing rearm of a faulted group requests its re-arming; on another group it has no effect. -/
def execCuffRearm (group : Nat) (s : State) : Host.Outcome State Fault Refusal :=
  State.unit (decide (group < 512)) <| s.go fun m =>
    if (m.cgrp group).reason ≠ 0 then m.setCgrp group { m.cgrp group with rearm := true } else m

/-- CUFF_REARM_APPLY (R330): in the next hem the groups requested are re-armed. -/
def execCuffRearmApply (s : State) : Host.Outcome State Fault Refusal := s.go Mach.cuffRearmAll

/-- CUFF_COUNTER_CLEAR (R343): every member counter of the group becomes 0. -/
def execCuffCounterClear (group : Nat) (s : State) : Host.Outcome State Fault Refusal :=
  State.unit (decide (group < 512)) <| s.go fun m => m.cuffClear group

end Sys2Proof.Machine
end

