-- ==== Sys2Proof/Machine/Holding.lean ====
section
/-! DEFINITION. Which blocks of the SX-4 hold a confidential key (chapter "Isolation, confidential contexts and dual
control", HELD and TORN), and the confidential keys that a lost block tears (R457, R458). -/

namespace Sys2Proof.Machine
open Sys2Proof

namespace Mach

/-- Keys bound in a confidential entry of the SX-4's context bindings (R439). -/
def confKeys (m : Mach) : List Nat :=
  (m.regs.live.filterMap fun e =>
    if itemPage e.1 = Pg.guard ∧ itemSel e.1 = 3 ∧ m.tfld .sx Pg.guard 3 1 (itemOff e.1) F.bind_bound = 1
        ∧ m.tfld .sx Pg.guard 3 1 (itemOff e.1) F.bind_confidential = 1 then
      some (m.tfld .sx Pg.guard 3 1 (itemOff e.1) F.bind_pkey)
    else none).eraseDups

/-- Confidential keys that a tile holds. -/
def tileHolds (m : Mach) (t : Nat) : List Nat :=
  m.confKeys.filter fun k => (List.range 8).any fun i => m.holdsKey (8 * t + i) k

/-- Valid pool regions of a key that name a stack, by their live words (R349). -/
def regionHolds (m : Mach) (k c : Nat) : Bool :=
  (List.range 64).any fun r =>
    m.tfld .sx Pg.guard 4 4 r F.region_valid == 1 && m.tfld .sx Pg.guard 4 4 r F.region_pkey == k
      && bitsOf (m.tfld .sx Pg.guard 4 4 r F.region_stackMask) c 1 == 1

/-- Confidential keys that a cluster and its stack hold. -/
def clusterHolds (m : Mach) (c : Nat) : List Nat :=
  m.confKeys.filter fun k =>
    m.regionHolds k c
      || (m.validCuffs.any fun g => g % 6 == c && m.cd g F.cdesc_pkey == k)
      || (m.validGroups.any fun g =>
          (m.gdesc g).pkey == k && (List.range 3).any fun i => bitsOf (m.gdesc g).tileMask (3 * c + i) 1 == 1)

/-- Confidential keys that a die holds. -/
def dieHolds (m : Mach) (d : Nat) : List Nat :=
  (((List.range 9).map fun i => m.tileHolds (9 * d + i)).flatten
    ++ ((List.range 3).map fun i => m.clusterHolds (3 * d + i)).flatten).eraseDups

/-- Confidential keys that a lost block held wait for the next hem (R458). -/
def tear (m : Mach) (keys : List Nat) : Mach := { m with torn := (m.torn ++ keys).eraseDups }

/-- A request on a holding block is refused HELD (R457). -/
def heldRefused (m : Mach) : Mach := m.bump .sx Pg.guard R.grdHeldCnt

end Mach

end Sys2Proof.Machine
end

