-- ==== Sys2Proof/Machine/Telemetry.lean ====
section
/-! DEFINITION. Congestion maps and packet sampling (chapter "Congestion control, telemetry and sampling", R241 to R247). -/

namespace Sys2Proof.Machine
open Sys2Proof
namespace Mach

/-! ## Rings in the management host's memory (R247) -/

/-- log2 of a ring's size; values outside 6 to 20 act as 6 (R251). -/
def ringLog (m : Mach) (f : Fld) : Nat :=
  let k := m.fld .sx Pg.mdr f
  if 6 ≤ k ∧ k ≤ 20 then k else 6

/-- Records that a ring has room for: none while it is disabled. -/
def ringRoom (m : Mach) (en size : Fld) (prod cons : Nat) : Nat :=
  if !m.bit .sx Pg.mdr en then 0
  else
    let used := (m.reg .sx Pg.mdr prod + 2 ^ 32 - m.reg .sx Pg.mdr cons) % 2 ^ 32
    2 ^ m.ringLog size - used

/-- Write one record and then advance the producer index. -/
def ringPut (m : Mach) (size : Fld) (lo hi prod : Nat) (record : List Byte) : Mach :=
  let base := m.reg .sx Pg.mdr lo / 4096 * 4096 + m.reg .sx Pg.mdr hi * 2 ^ 32
  let k := m.reg .sx Pg.mdr prod
  (m.emit (.managementWrite (base + k % 2 ^ m.ringLog size * record.length) record)).setReg
    .sx Pg.mdr prod ((k + 1) % 2 ^ 32)

/-! ## Congestion maps (R241 to R243) -/

/-- The bin of an occupancy (R241). -/
def mapBin (n : Nat) : Nat :=
  if n = 0 then 0 else if n < 64 then 1 else if n < 512 then 2 else if n < 4096 then 3 else if n < 32768 then 4
  else if n < 262144 then 5 else if n < 1048576 then 6 else 7

def mapKey (a : Nat × Nat) : Nat := a.1 * 150 + a.2

def mapOf (m : Mach) (k : Nat) : MapAcct := Tbl.get (fun _ => {}) m.mapAcct k
def setMap (m : Mach) (k : Nat) (x : MapAcct) : Mach := { m with mapAcct := Tbl.set (fun _ => {}) m.mapAcct k x }

/-- Cycle 0 of a stitch: one count in the bin of every account with packets; bin 0 is counted by the stitches sampled. -/
def mapTick (m : Mach) : Mach :=
  let accts := (m.held.filter fun h => h.part == .guaranteed || h.part == .shared || h.part == .lining).map Held.acct
  let m := accts.eraseDups.foldl
    (fun m a =>
      let o := m.occupancy a
      let x := m.mapOf (mapKey a)
      let b := mapBin o
      if b = 0 then m
      else m.setMap (mapKey a) { x with bins := x.bins.set b (x.bins.getD b 0 + 1), most := max x.most o })
    m
  { m with mapTicks := m.mapTicks + 1 }

/-- A packet leaves an account: counted, and marked or not (R242). -/
def mapSent (m : Mach) (a : Nat × Nat) (marked : Bool) : Mach :=
  let x := m.mapOf (mapKey a)
  m.setMap (mapKey a) { x with sent := x.sent + 1, marked := if marked then x.marked + 1 else x.marked }

/-- The tile, output byte and VC under which an account is reported. -/
def mapPlace (k : Nat) : Nat × Nat × Nat :=
  let cl := k / 150
  let n := k % 150
  if n < 144 then (3 * cl + n / 48, 24 * cl + n / 6, n % 6)
  else if n = 144 then (3 * cl, 0xF0, 0)
  else if n ≤ 147 then (3 * cl + (n - 145), 0xF2, 2)
  else (0, 0xF1, if n = 148 then 0 else 4)

/-- An account record of R242. -/
def mapRecord (m : Mach) (k : Nat) (x : MapAcct) : List Byte :=
  let (tile, out, vc) := mapPlace k
  let rest := sumOf (x.bins.drop 1) id
  [0x02, BitVec.ofNat 8 out, BitVec.ofNat 8 vc, BitVec.ofNat 8 tile] ++ leBytes 2 (min (x.most / 64) 65535)
    ++ [0, 0] ++ leBytes 4 x.sent ++ leBytes 4 x.marked ++ leBytes 2 (m.mapTicks - rest)
    ++ ((x.bins.drop 1).map (leBytes 2)).flatten

/-- The hem that ends an epoch: each tile freezes a batch of its accounts, in account order (log 15). -/
def mapFreeze (m : Mach) : Mach :=
  let first := m.time.number / 1024 * 1024
  let batches := (List.range 18).map fun t =>
    ({ tile := t, epoch := first,
       records := (m.mapAcct.filter fun e => (mapPlace e.1).1 == t).map fun e => m.mapRecord e.1 e.2 } : MapBatch)
  { m with mapBatch := m.mapBatch ++ batches, mapAcct := [], mapTicks := 0 }

def mapDrop (m : Mach) (b : MapBatch) (counter : Nat) : Mach :=
  let m := { m with mapDropped := Tbl.modify (fun _ => 0) m.mapDropped b.tile (· + 1) }
  (m.bump .sx Pg.mdr counter).raise .sx Pg.mdr 1 0

/-- The header record of a batch (R242). -/
def mapHeader (m : Mach) (b : MapBatch) : List Byte :=
  [0x01, BitVec.ofNat 8 b.tile] ++ leBytes 2 b.records.length
    ++ leBytes 4 (Tbl.get (fun _ => 0) m.mapDropped b.tile) ++ leBytes 8 b.epoch ++ List.replicate 16 0

def mapWrite (m : Mach) (b : MapBatch) : Mach :=
  (m.mapHeader b :: b.records).foldl
    (fun m r => m.ringPut F.mdrMapCtrl_sizeLog2 R.mdrMapBaseLo R.mdrMapBaseHi R.mdrMapProd r) m

/-- Push the batch of a tile when its turn has come: batches leave in ascending tile order. -/
def mapPush (m : Mach) (tile : Nat) : Mach :=
  match m.mapBatch with
  | [] => m
  | b :: rest =>
    if b.tile ≠ tile then m
    else
      let m := { m with mapBatch := rest }
      if 1 ≤ m.shedLevel then m.mapDrop b R.mdrMapShedCnt
      else if m.ringRoom F.mdrMapCtrl_en F.mdrMapCtrl_sizeLog2 R.mdrMapProd R.mdrMapCons < b.records.length + 1 then
        m.mapDrop b R.mdrMapFullCnt
      else
        let m := { m.mapWrite b with mapDropped := Tbl.set (fun _ => 0) m.mapDropped b.tile 0 }
        if rest.any (fun c => c.epoch == b.epoch) then m else m.raise .sx Pg.mdr 0 0

/-- The cut-off of a stitch: batches not written by the 16th stitch of the next epoch are late (R243). -/
def mapLate (m : Mach) : Mach :=
  let late := m.mapBatch.filter fun b => decide (b.epoch + 1024 + 15 ≤ m.time.number)
  late.foldl (fun m b => m.mapDrop b R.mdrMapLateCnt)
    { m with mapBatch := m.mapBatch.filter fun b => !decide (b.epoch + 1024 + 15 ≤ m.time.number) }

/-! ## Packet sampling (R244 to R246) -/

/-- Whether a packet matches class `c` (R244). -/
def sampleMatch (m : Mach) (c : Nat) (p : Packet) : Bool :=
  let f := fun x => m.fld .sx Pg.mdr x
  f (F.mdrSmpSel_en c) == 1 && bitsOf (f (F.mdrSmpSel_vcMask c)) p.vc 1 == 1
    && (f (F.mdrSmpSel_opEn c) == 0 || f (F.mdrSmpSel_opcode c) == p.opcode)
    && (p.pkey &&& f (F.mdrSmpKey_mask c)) == (f (F.mdrSmpKey_pkey c) &&& f (F.mdrSmpKey_mask c))

/-- Count a packet in the class counters of its tile; the classes whose counter reached N, as bits. -/
def sampleCount (m : Mach) (tile : Nat) (p : Packet) : Nat × Mach :=
  (List.range 4).foldl
    (fun (a : Nat × Mach) c =>
      if !a.2.sampleMatch c p then a
      else
        let n := max (a.2.fld .sx Pg.mdr (F.mdrSmpN_n c)) 1
        let k := Tbl.get (fun _ => 0) a.2.smpCount (4 * tile + c) + 1
        let put := fun (v : Nat) => { a.2 with smpCount := Tbl.set (fun _ => 0) a.2.smpCount (4 * tile + c) v }
        if n ≤ k then (a.1 + 2 ^ c, put 0) else (a.1, put k))
    (0, m)

/-- Whether a packet's (key, context) is bound to a confidential context (R245, R439). -/
def confidentialPacket (m : Mach) (p : Packet) : Bool :=
  let f := fun x => m.tfld .sx Pg.guard 3 1 p.context x
  f F.bind_bound == 1 && f F.bind_confidential == 1 && f F.bind_pkey == p.pkey

/-- A sample record (R246). -/
def sampleRecord (m : Mach) (port out classes : Nat) (p : Packet) : List Byte :=
  let conf := m.confidentialPacket p
  let bytes := (leBytes 32 p.hdr.toNat ++ (if conf then [] else p.payload)).take 128
  leBytes 8 m.time.number ++ leBytes 2 (m.time.cycle % 1024) ++ [BitVec.ofNat 8 port, BitVec.ofNat 8 out,
    BitVec.ofNat 8 (classes + if conf then 16 else 0), 0] ++ leBytes 2 (ceilDiv p.extent 16) ++ List.replicate 16 0
    ++ bytes ++ List.replicate (128 - bytes.length) 0

/-- A packet that passed checks 4 to 6 is counted, and sampled when its turn has come.  `out` is the output port, 0xFF for
an internal target; the packet will be held under number `pid`. -/
def sample (m : Mach) (port out pid : Nat) (p : Packet) : Mach :=
  let tile := port / 8
  let (classes, m) := m.sampleCount tile p
  if classes = 0 then m
  else if 1 ≤ m.shedLevel then m.bump .sx Pg.mdr R.mdrSmpShedCnt
  else if 2 ≤ Tbl.get (fun _ => 0) m.smpNow tile then m.bump .sx Pg.mdr R.mdrSmpRateCnt
  else
    { m with
      smpNow := Tbl.modify (fun _ => 0) m.smpNow tile (· + 1)
      smpWait := m.smpWait ++ [{ tile := tile, at_ := m.time.number, pid := pid,
                                 record := m.sampleRecord port out classes p }] }

/-- Change the record of a packet that waits as a sample. -/
def samplePatch (m : Mach) (pid : Nat) (f : List Byte → List Byte) : Mach :=
  { m with smpWait := m.smpWait.map fun x => if x.pid = pid then { x with record := f x.record } else x }

/-- The occupancy of the packet's account at its admission. -/
def sampleAdmitted (m : Mach) (pid occ : Nat) : Mach :=
  m.samplePatch pid fun r => r.take 16 ++ leBytes 4 (occ % 2 ^ 21) ++ r.drop 20

/-- The packet claimed cut-through. -/
def sampleClaimed (m : Mach) (pid : Nat) : Mach :=
  m.samplePatch pid fun r => r.set 12 (r.getD 12 0 ||| 0x20)

/-- A sample is dropped: SAMPLE_DROPPED once in a stitch (R252). -/
def sampleDrop (m : Mach) (counter : Nat) : Mach :=
  let m := m.bump .sx Pg.mdr counter
  if m.smpDropped then m else ({ m with smpDropped := true } : Mach).raise .sx Pg.mdr 2 0

/-- Push the oldest sample of a tile. -/
def samplePush (m : Mach) (tile : Nat) : Mach :=
  match m.smpWait.find? (fun x => x.tile == tile) with
  | none => m
  | some x =>
    let m := { m with smpWait := m.smpWait.erase x }
    if x.at_ + 1 < m.time.number then m.sampleDrop R.mdrSmpLateCnt
    else if m.ringRoom F.mdrSmpCtrl_en F.mdrSmpCtrl_sizeLog2 R.mdrSmpProd R.mdrSmpCons = 0 then
      m.sampleDrop R.mdrSmpFullCnt
    else
      (m.ringPut F.mdrSmpCtrl_sizeLog2 R.mdrSmpBaseLo R.mdrSmpBaseHi R.mdrSmpProd x.record).bump
        .sx Pg.mdr R.mdrSmpTakenCnt

/-- Cycle 0 of a stitch: the tiles' limits start afresh, and samples not written within the stitch after their capture are
dropped: for a full ring while the ring is full, late otherwise (R246). -/
def sampleTick (m : Mach) : Mach :=
  let m := { m with smpNow := [], smpDropped := false }
  let old := m.smpWait.filter fun x => decide (x.at_ + 1 < m.time.number)
  let full := m.ringRoom F.mdrSmpCtrl_en F.mdrSmpCtrl_sizeLog2 R.mdrSmpProd R.mdrSmpCons = 0
  old.foldl (fun m _ => m.sampleDrop (if full then R.mdrSmpFullCnt else R.mdrSmpLateCnt))
    { m with smpWait := m.smpWait.filter fun x => !decide (x.at_ + 1 < m.time.number) }

/-! ## ZLY_TEST (R240) -/

def zlyTest (m : Mach) (port aux : Nat) : Mach :=
  let next := { m with zlySeq := Tbl.set (fun _ => none) m.zlySeq port (some ((aux + 1) % 2 ^ 64)) }
  match Tbl.get (fun _ => none) m.zlySeq port with
  | none => next
  | some e => if aux = e then next else next.bump .sx (Pg.port port) R.prtZlyTestErrCnt

end Mach

/-! ## Meanings -/

/-- MAP_BATCH_PUSH (R243): a frozen batch is written to the map ring, or dropped. -/
def execMapBatchPush (tile : Nat) (s : State) : Host.Outcome State Fault Refusal :=
  State.unit (decide (tile < 18)) <| s.go fun m => m.mapPush tile

/-- SAMPLE_PUSH (R246): a captured sample is written to the sample ring, or dropped. -/
def execSamplePush (tile : Nat) (s : State) : Host.Outcome State Fault Refusal :=
  State.unit (decide (tile < 18)) <| s.go fun m => m.samplePush tile

/-- ZLY_TEST (R240): a ZLY_TEST addressed to the SX-4 is consumed by its input port engine. -/
def execZlyTest (port : Nat) (pkt : Packet) (s : State) : Host.Outcome State Fault Refusal :=
  State.unit (s.m.hasPort .sx port) <| s.go fun m => (m.collect .sx port pkt).zlyTest port pkt.aux

end Sys2Proof.Machine
end

