-- ==== Sys2Proof/Machine/Ingress.lean ====
section
/-! DEFINITION. The ingress of the switch: routing (R164, R165), the mapping of pool requests (R351), the checks of R98, the
Zelry admission of R232 and R235, admission to the accounts (R201, R203, R211) and cut-through claims (R180, R181). -/

namespace Sys2Proof.Machine
open Sys2Proof

/-! ## The interleave of the pool (R349, R351) -/

/-- Stacks of a mask, in ascending number. -/
def stacksOf (mask : Nat) : List Nat := (List.range 6).filter fun s => bitsOf mask s 1 == 1

/-- Stack and local address of a fabric offset in a region. -/
def PoolMap.locate (r : PoolMap) (off : Nat) : Nat × Nat :=
  let ss := stacksOf r.mask
  let rel := off - r.fabBase * 2 ^ 26
  let g := rel / 256
  (ss.getD (g % max ss.length 1) 0, r.stkBase * 2 ^ 26 + g / max ss.length 1 * 256 + rel % 256)

/-- Bytes that a VC0 request covers. -/
def requestBytes (p : Packet) : Nat :=
  if p.opcode = Op.read then p.aux % 65536
  else if p.opcode = Op.atomic ∨ p.opcode = Op.atomicPosted then atomicWidth p.modifier
  else p.length

/-- Cluster and bank of a sync object (R142). -/
def objCluster (i : Nat) : Nat := i / 16 % 6

/-- Where an accepted packet goes. -/
inductive Target where
  | unit (output : Nat) (pool : Option PoolMap)
  | mailbox
  | refuse (status : Nat)
  | noRoute
  | drop
  deriving DecidableEq, Repr

namespace Mach

def rg (m : Mach) (r : Nat) (f : Fld) : Nat := m.tfld .sx Pg.guard 4 4 r f
def regionState (m : Mach) (r : Nat) : Nat := m.tfld .sx Pg.chip 4 1 r F.regionStat_state
def regionMap (m : Mach) (r : Nat) : PoolMap :=
  { region := r, pkey := m.rg r F.region_pkey, mask := m.rg r F.region_stackMask, fabBase := m.rg r F.region_fabBase,
    stkBase := m.rg r F.region_stkBase }

/-- Length of a region's fabric range (R349). -/
def regionBytes (m : Mach) (r : Nat) : Nat :=
  (stacksOf (m.rg r F.region_stackMask)).length * m.rg r F.region_perStack * 2 ^ 26

/-- The mapping of a pool request (R351); none is BAD_ADDRESS. -/
def mapPool (m : Mach) (p : Packet) : Option PoolMap :=
  let off := p.offset
  let holds := fun r =>
    let base := m.rg r F.region_fabBase * 2 ^ 26
    m.rg r F.region_valid == 1 && decide (base ≤ off ∧ off < base + m.regionBytes r)
  match (List.range 64).find? holds with
  | none => none
  | some r =>
    let fin := m.rg r F.region_fabBase * 2 ^ 26 + m.regionBytes r
    if m.rg r F.region_pkey = p.pkey ∧ m.regionState r = 2 ∧ off + requestBytes p ≤ fin then some (m.regionMap r) else none

/-! ## Routing (R164, R165) -/

/-- Look up a destination: the output port, and the machine with the entry's toggle moved. -/
def route (m : Mach) (dst stream : Nat) : Option Nat × Mach :=
  let f := fun x => m.lookup .sx Pg.chip 2 dst x
  let port := fun (p : Nat) => if p < 144 then some p else none
  let a := f F.route_portA
  let b := f F.route_portB
  if f F.route_mode = 1 then (port a, m)
  else if f F.route_mode = 2 then
    if stream ≠ 63 then (port a, m)
    else if m.partnerNode a = dst ∧ m.partnerNode b = dst then
      let t := Tbl.get (fun _ => 0) m.toggle dst
      (port (if t = 0 then a else b), { m with toggle := Tbl.set (fun _ => 0) m.toggle dst (1 - t) })
    else (port a, m.bump .sx Pg.chip R.chpRouteSprayFallbackCnt)
  else (none, m)

/-- Where a packet that passed checks 1 to 5 goes (R165, R159, R32, R318); a PFAULT takes no check 6 (R599). -/
def target (m : Mach) (p : Packet) : Target × Mach :=
  let op := p.opcode
  let own := decide (p.dst = m.sxNode)
  let routed := fun (t : Target) =>
    if own then (t, m)
    else
      match m.route p.dst p.stream with
      | (some _, m') => (t, m')
      | (none, m') => (Target.noRoute, m')
  if op = Op.pfault then (.mailbox, m) else
  match homeVc op with
  | some 2 => routed (.unit (144 + m.pleatTile p) none)
  | some 3 => routed .mailbox
  | _ =>
    if !own then
      match m.route p.dst p.stream with
      | (some o, m') => (.unit o none, m')
      | (none, m') => (.noRoute, m')
    else if op = Op.syncWait ∧ p.addrSpace ≠ 1 then (.refuse Status.accessDenied, m)
    else if isRequest op then
      if p.addrSpace = 0 then
        match m.mapPool p with
        | some r => (.unit (162 + (r.locate p.offset).1) (some r), m)
        | none => (.refuse Status.badAddress, m)
      else if p.addrSpace = 1 then (.unit (162 + objCluster (p.offset / 8)) none, m)
      else (.unit 168 none, m)
    else if op = Op.mgtRead ∨ op = Op.mgtWrite then (.unit 168 none, m)
    else if homeVc op = some 1 then (.drop, m)
    else (.mailbox, m)

/-! ## Discards (R98, R100) -/

/-- PRT_PKT_ERR_LAST (R100). -/
def pktErr (m : Mach) (port reason op vc : Nat) : Mach :=
  m.setReg .sx (Pg.port port) R.prtPktErrLast (reason + op % 256 * 2 ^ 8 + vc % 8 * 2 ^ 16)

/-- Credits of everything that arrived of a packet (R198). -/
def creditAll (m : Mach) (port : Nat) (p : Packet) : Mach := m.giveCredit port p.vc (ceilDiv p.extent 16)

/-- Discard at a check: counted, recorded, its credits returned. -/
def checkFailed (m : Mach) (port counter reason : Nat) (p : Packet) : Mach :=
  ((m.bump .sx (Pg.port port) counter).pktErr port reason p.opcode p.vc).creditAll port p

/-- Answer a VC0 request from the ingress with a NACK of R98, on the port it came by. -/
def nackAt (m : Mach) (port status : Nat) (p : Packet) : Mach :=
  if isRequest p.opcode then m.pushExempt (m.ingressNack p status) 170 port else m

/-- The fabric key's opcodes (R97). -/
def fabricOk (p : Packet) : Bool := homeVc p.opcode == some 4 || p.opcode == Op.zlyTest

/-- Checks 4 and 7 of R98. -/
def keyOk (m : Mach) (port : Nat) (p : Packet) : Bool :=
  if p.pkey = 0 then fabricOk p || (p.opcode == Op.nack && p.src == m.sxNode) else m.keyPasses port p.pkey

/-- Check 5 of R98. -/
def epochOk (m : Mach) (c : Chip) (p : Packet) : Bool :=
  p.vc == 4 || p.epoch == m.epochNow c % 16 || p.epoch == m.epochPrev c % 16

/-! ## Zelry at the ingress (R232, R235) -/

def zlyOn (m : Mach) : Bool := m.seenFld .sx Pg.chip F.chpZlyCtrl_en != 0
def zlyBank (m : Mach) : Nat := m.seenFld .sx Pg.chip F.chpZlyCtrl_bank * 0x8000
def zlyP (m : Mach) : Nat := max (bitsOf (m.seen .sx (item Pg.chip 3 m.zlyBank)) 0 12) 1

/-- Slot of a phase: its number and last phase. -/
def zlySlot (m : Mach) (phase : Nat) : Option (Nat × Nat) :=
  let n := bitsOf (m.seen .sx (item Pg.chip 3 m.zlyBank)) 12 7
  (List.range n).findSome? fun s =>
    let w := m.seen .sx (item Pg.chip 3 (m.zlyBank + 256 * (s + 1)))
    let a := bitsOf w 0 12
    let l := bitsOf w 12 8
    if a ≤ phase ∧ phase < a + l then some (s, a + l - 1) else none

/-- A packet that the Zelry mode does not let in (R232). -/
def zlyDiscard (m : Mach) (port : Nat) (p : Packet) : Mach :=
  ((m.bump .sx (Pg.port port) R.prtZlyOffplanCnt).creditAll port p).pfaultKeys [p.pkey] Reason.zelryDrop

/-- The budget of a slot in the present period: granules used. -/
def zlyBudgetUsed (m : Mach) (o s : Nat) : Nat :=
  if m.zlyPeriod = m.time.number / m.zlyP then Tbl.get (fun _ => 0) m.zlyUsed (o * 64 + s) else 0

def zlyCharge (m : Mach) (o s n : Nat) : Mach :=
  let per := m.time.number / m.zlyP
  let used := m.zlyBudgetUsed o s + n
  if m.zlyPeriod = per then { m with zlyUsed := Tbl.set (fun _ => 0) m.zlyUsed (o * 64 + s) used }
  else { m with zlyPeriod := per, zlyUsed := Tbl.set (fun _ => 0) [] (o * 64 + s) used }

/-- The Zelry check of a packet for output `o` (144 and above an internal target): whether it passes, its slot's last stitch,
and the machine with its granules charged. -/
def zlyCheck (m : Mach) (port o : Nat) (p : Packet) : Bool × Option Nat × Mach :=
  if p.vc = 4 then (true, none, m)
  else if !m.zlyOn then (p.vc != 5 || p.opcode == Op.zlyTest, none, m)
  else if p.vc ≠ 5 then (false, none, m)
  else if 144 ≤ o ∧ p.dst = m.sxNode then (true, none, m)
  else if !m.timed then (false, none, m)
  else
    let phase := m.time.number % m.zlyP
    match m.zlySlot phase with
    | none => (false, none, m)
    | some (s, fin) =>
      let w := m.seen .sx (item Pg.chip 3 (m.zlyBank + 256 * (s + 1) + 1 + o))
      if o < 144 ∧ bitsOf w 0 8 = port ∧ m.zlyBudgetUsed o s + p.granules ≤ bitsOf w 16 16 then
        (true, some (m.time.number - phase + fin), m.zlyCharge o s p.granules)
      else (false, none, m)

/-! ## Reception (R98) -/

/-- Place a packet in its ingress queue. -/
def enqueue (m : Mach) (port output : Nat) (p : Packet) (pool : Option PoolMap) (slotEnd : Option Nat) (arrived : Nat) :
    Mach :=
  m.push p port output fun h => { h with pool := pool, slotEnd := slotEnd, arrived := arrived }

/-- Checks 6 and beyond: routing, sampling, Zelry, shedding, placement. -/
def receiveTo (m : Mach) (port arrived : Nat) (p : Packet) : Mach :=
  let (t, m) := m.target p
  let out := match t with | .unit o _ => o | _ => 255
  match t with
  | .noRoute => (m.checkFailed port R.prtRouteMissCnt 0x14 p).nackAt port Status.noRoute p
  | _ =>
    let m := m.sample port (if out < 144 then out else 0xFF) m.nextId p
    let (ok, slotEnd, m) := m.zlyCheck port out p
    if !ok then m.zlyDiscard port p
    else if m.shedLevel = 4 ∧ isRequest p.opcode ∧ p.vc = 0 then
      ((m.bump .sx (Pg.port port) R.prtShedRefusedCnt).creditAll port p).nackAt port Status.refusedShed p
    else
      match t with
      | .unit o r => m.enqueue port o p r slotEnd arrived
      | .mailbox =>
        if homeVc p.opcode = some 3 then m.deliver .sx port p else (m.deliver .sx port p).creditAll port p
      | .refuse st => (m.creditAll port p).pushExempt (m.response .sx p Op.nack st 0 0 0 []) 170 port
      | _ => m.creditAll port p

/-- A packet reaches an SX-4 port and takes the checks of R98 in order.  `arrived` granules of it are here. -/
def receive (m : Mach) (port arrived : Nat) (p : Packet) : Mach :=
  if p.extent < 32 then
    ((m.bump .sx (Pg.port port) R.prtRuntCnt).pktErr port 0x10 0 0).raise .sx (Pg.port port) 6 (0x10 * 2 ^ 24)
  else
    match malformed .sx p with
    | some r => m.checkFailed port R.prtMalformedCnt r p
    | none =>
      if p.src ≠ m.partnerNode port then m.checkFailed port R.prtSrcMismatchCnt 0x11 p
      else
        let m := m.noteCompared port p
        match (if homeVc p.opcode = some 4 ∧ p.opcode ≠ Op.pfault then none else m.newcomerPair port) with
        | some i => (m.absorb i port p).creditAll port p
        | none =>
          if !m.keyOk port p then (m.checkFailed port R.prtPkeyInCnt 0x12 p).nackAt port Status.pkeyDenied p
          else if !m.epochOk .sx p then
            (m.checkFailed port R.prtEpochStaleCnt 0x13 p).pfaultKeys [p.pkey] Reason.epochStale
          else m.receiveTo port arrived p

/-! ## Admission (R201, R203, R206, R211) -/

/-- A port for which packets are discarded: flushed, on a retired tile, or not up since reset (log 10). -/
def deadPort (m : Mach) (p : Nat) : Bool :=
  let st := (m.holdOf p).st
  m.out1.contains (p / 8) || st == 2 || (st == 0 && !m.isUp .sx p)

/-- A packet that would have to cross a retired die-to-die interface (R174). -/
def cutOff (m : Mach) (h : Held) : Bool :=
  m.bit .sx (Pg.die 0) F.dieD2dStatus_retired && decide (h.input < 168)
    && dieOfTile (inTile h.input) != dieOfTile h.outT

def isPleatOut (o : Nat) : Bool := decide (144 ≤ o ∧ o < 162)

/-- What the account decides for a held packet (R201, R272). -/
def decideHeld (m : Mach) (h : Held) : Decision :=
  if isPleatOut h.output && !m.pleatAdmits h.pkt then .wait else m.decideAdmit h.output h.vc h.gran

/-- R211: the port is holding, the SRAM cannot take the packet and the Lining has no room for it. -/
def holdRefuses (m : Mach) (h : Held) : Bool :=
  decide (h.output < 144) && (m.holdOf h.output).st == 1 && (m.sramRoom h.acct h.gran).isNone
    && !(m.liningAllowed h.output h.vc && m.liningRoom h.acct h.gran)

/-- Admit a packet to a part. -/
def admitAt (m : Mach) (h : Held) (p : Part) : Mach :=
  let m := m.sampleAdmitted h.id (m.occupancy h.acct)
  let m := m.updHeld h.id fun h => { h with part := p }
  let m := if p = .lining then m.bump .sx (Pg.cluster h.acct.1) R.cluSpillPktCnt else m
  let m := if isPleatOut h.output then (m.openChunk h.pkt).noteActive (groupKeyOf h.pkt) else m
  if h.output < 144 ∧ h.input ≠ 173 then m.shadowCopy h.output h.pkt else m

/-- A request that waits because the Lining is full: counted once, the event once per stitch and cluster (R206). -/
def countFull (m : Mach) (h : Held) : Mach :=
  let cl := h.acct.1
  let m := if h.fullCounted then m
    else (m.updHeld h.id fun h => { h with fullCounted := true }).bump .sx (Pg.cluster cl) R.liningFullCnt
  if m.liningFull.contains cl then m
  else ({ m with liningFull := cl :: m.liningFull } : Mach).raise .sx (Pg.cluster cl) 1 0

/-- A request joins its account's wait list (R203). -/
def waitIn (m : Mach) (h : Held) : Mach :=
  let m := m.updHeld h.id fun h => { h with part := .waiting, stamp := m.nextStamp }
  let m := ({ m with nextStamp := m.nextStamp + 1 } : Mach).bump .sx (Pg.cluster h.acct.1) R.cluAdmitWaitCnt
  if isPleatOut h.output then m.noteActive (groupKeyOf h.pkt) else m

/-- The admission decision of the first undecided packet of an ingress queue.  What is bound for an internal target that a
retired tile or interface cuts off is discarded as lost (log 16). -/
def admission (m : Mach) (input output vc : Nat) : Mach :=
  match m.held.find? fun h =>
      h.input == input && h.output == output && h.vc == vc && (h.part == .none || h.part == .waiting) with
  | none => m
  | some h =>
    if h.part = .waiting then m
    else if output < 144 ∧ (m.deadPort output ∨ m.cutOff h) then m.discardAt output h R.prtFlushPktCnt
    else if m.out1.contains h.outT ∨ m.cutOff h then (m.dropHeld h).pfaultKeys [h.key] Reason.packetLost
    else if m.held.any fun e => e.part == .waiting && e.acct == h.acct then m.waitIn h
    else
      match m.decideHeld h with
      | .part p => m.admitAt h p
      | d =>
        if m.holdRefuses h then m.discardAt output h R.prtHoldDiscardCnt
        else if d = .waitFull then (m.waitIn h).countFull h
        else m.waitIn h

/-- The requests at the heads of the wait lists of a cluster, oldest first. -/
def waitHeads (m : Mach) (cl : Nat) : List Held :=
  let ws := m.held.filter fun h => h.part == .waiting && h.acct.1 == cl
  let heads := ws.filter fun h => ws.all fun e => e.acct != h.acct || decide (h.stamp ≤ e.stamp)
  heads.mergeSort fun a b => a.stamp ≤ b.stamp

/-- Serve the first head that can be served: admitted, or refused under R211. -/
def admitFirst (m : Mach) : List Held → Option Mach
  | [] => none
  | h :: rest =>
    match m.decideHeld h with
    | .part p => some (m.admitAt h p)
    | _ => if m.holdRefuses h then some (m.discardAt h.output h R.prtHoldDiscardCnt) else m.admitFirst rest

/-- Admit waiting requests of a cluster as space allows. -/
def admitWaiting (m : Mach) (cl : Nat) : Nat → Mach
  | 0 => m
  | n + 1 =>
    match m.admitFirst (m.waitHeads cl) with
    | some m' => m'.admitWaiting cl n
    | none => (m.waitHeads cl).foldl (fun m h => if m.decideHeld h = .waitFull then m.countFull h else m) m

/-! ## Cut-through claims (R180, R181) -/

/-- L_o in granules (R183). -/
def leadOf (m : Mach) (o : Nat) : Nat :=
  max (max (m.fld .sx (Pg.tile (o / 8)) F.tilFabCtrl_ctLead) 128) (ceilDiv (9 * (m.lk .sx o).rate * 4 * 1000) (1750 * 128))

/-- Modules of the die-to-die interface in service (R173, R597). -/
def modulesUp (m : Mach) : Nat := m.fld .sx (Pg.die 0) F.dieD2dStatus_active

/-- Whether the input tile claims cut-through for a packet (R180). -/
def claims (m : Mach) (h : Held) : Bool :=
  decide (h.input < 144 ∧ h.output < 144) && (h.part == .guaranteed || h.part == .shared) && h.ct == .none && h.formed == 0
    && m.bit .sx (Pg.tile (h.input / 8)) F.tilFabCtrl_ctEnable
    && decide ((m.lk .sx h.output).rate ≤ (m.lk .sx h.input).rate)
    && (h.input / 72 == h.output / 72 || m.modulesUp == 32) && decide (m.leadOf h.output < h.gran)

/-- A packet whose cut-through is granted, or in progress. -/
def Held.cutting (h : Held) : Bool := h.ct == .judged true || h.ct == .granted

/-- Whether the output tile grants a claim (R181). -/
def grants (m : Mach) (h : Held) : Bool :=
  let others := m.held.filter fun e => e.id != h.id
  !(others.any fun e => e.output == h.output && e.vc == h.vc && e.released != 0)
    && !(others.any fun e => e.output == h.output && Held.cutting e)
    && decide ((others.filter fun e => decide (e.output < 144) && e.output / 8 == h.output / 8 && Held.cutting e).length < 4)
    && m.isUp .sx h.output && (m.lk .sx h.output).txSleep == 0

/-- First packet of an ingress queue that `p` picks. -/
def queueFind (m : Mach) (input output vc : Nat) (p : Held → Bool) : Option Held :=
  m.held.find? fun h => h.input == input && h.output == output && h.vc == vc && p h

def ctClaim (m : Mach) (input output vc : Nat) : Mach :=
  match m.queueFind input output vc m.claims with
  | none => m
  | some h =>
    let g := m.grants h
    let m := (m.updHeld h.id fun h => { h with ct := .judged g }).sampleClaimed h.id
    m.bump .sx (Pg.tile (output / 8)) (if g then R.tilCtGrantCnt else R.tilCtDenyCnt)

def ctGrant (m : Mach) (input output vc : Nat) : Mach :=
  match m.queueFind input output vc (fun h => h.ct == .judged true || h.ct == .judged false) with
  | none => m
  | some h => m.updHeld h.id fun h => { h with ct := if h.ct = .judged true then .granted else .denied }

end Mach

/-! ## Meanings -/

/-- Inputs and outputs of R159 by number. -/
def fabricEnds (input output vc : Nat) : Bool := decide (input < 174 ∧ output < 169 ∧ vc < 6)

/-- ORDINARY_PACKET (R30, R98, R163, R165): a packet is received whole at an SX-4 port that is up, checked, looked up and
placed in its ingress queue. -/
def execOrdinaryPacket (port : Nat) (pkt : Packet) (s : State) : Host.Outcome State Fault Refusal :=
  State.unit (s.m.hasPort .sx port) <| s.go fun m => if m.isUp .sx port then m.receive port pkt.granules pkt else m

/-- ADMISSION_DECISION (R201, R206, R211, R272): the account decides for the first undecided packet of an ingress queue. -/
def execAdmissionDecision (input output vc : Nat) (s : State) : Host.Outcome State Fault Refusal :=
  State.unit (fabricEnds input output vc) <| s.go fun m => m.admission input output vc

/-- ADMIT_WAITING (R203): freed space admits the waiting requests of a cluster in arrival order. -/
def execAdmitWaiting (cluster : Nat) (s : State) : Host.Outcome State Fault Refusal :=
  State.unit (decide (cluster < 6)) <| s.go fun m => m.admitWaiting cluster m.held.length

/-- CT_CLAIM (R180, R181): a claim reaches the output tile and is granted or denied. -/
def execCtClaim (input output vc : Nat) (s : State) : Host.Outcome State Fault Refusal :=
  State.unit (fabricEnds input output vc) <| s.go fun m => m.ctClaim input output vc

/-- CT_GRANT (R180, R182): the grant or denial reaches the input tile. -/
def execCtGrant (input output vc : Nat) (s : State) : Host.Outcome State Fault Refusal :=
  State.unit (fabricEnds input output vc) <| s.go fun m => m.ctGrant input output vc

end Sys2Proof.Machine
end

