-- ==== Sys2Proof/Machine/Fabric.lean ====
section
/-! DEFINITION. The two-stage fabric (chapter "Switch core: two-stage fabric and ordering", R160 to R182, R189, R597): cells,
the cyclic patterns, the die crossing, resequencing, lost cells, retired tiles and modules. -/

namespace Sys2Proof.Machine
open Sys2Proof

/-- A flow's number: input, output, VC. -/
def flowOf (input output vc : Nat) : Nat := input * 2048 + output * 8 + vc
def Held.flow (h : Held) : Nat := flowOf h.input h.output h.vc
def Cell.flow (c : Cell) : Nat := flowOf c.input c.output c.vc

/-- Next of a list of numbers after the one last served (`last` is that number plus 1): the next larger, else the least. -/
def nextAfter (last : Nat) (xs : List Nat) : Option Nat :=
  let least := fun (ys : List Nat) => ys.foldl (fun a y => match a with | none => some y | some z => some (min y z)) none
  match least (xs.filter fun x => decide (last ≤ x)) with
  | some x => some x
  | none => least xs

namespace Mach

/-! ## Patterns (R167, R170) -/

/-- Tiles of a die in rank order: those that have not left the patterns. -/
def ranks (m : Mach) (d : Nat) : List Nat := (List.range 9).map (9 * d + ·) |>.filter fun t => !m.out2.contains t

def patSlot (m : Mach) : Nat := m.slot - m.patStart

/-- Intermediate tile of an input tile in this slot. -/
def stage1To (m : Mach) (x : Nat) : Option Nat :=
  let r := m.ranks (dieOfTile x)
  if m.out1.contains x ∨ r = [] then none
  else
    match r[(r.idxOf x + m.patSlot) % r.length]? with
    | some y => if m.out1.contains y then none else some y
    | none => none

/-- Output tile on the own die, and on the other die, of an intermediate in this slot. -/
def stage2Own (m : Mach) (y : Nat) : Option Nat :=
  let r := m.ranks (dieOfTile y)
  r[(r.idxOf y + m.patSlot) % max r.length 1]?

def stage2Cross (m : Mach) (y : Nat) : Option Nat :=
  let d := dieOfTile y
  let own := m.ranks d
  let other := m.ranks (1 - d)
  other[(own.idxOf y + m.patSlot) % max (max own.length other.length) 1]?

/-- Width of a cross connection from a die (R170). -/
def crossWidth (m : Mach) (d : Nat) : Nat := min 16 (72 / max (m.ranks d).length 1)

/-! ## Void cells (R178) -/

/-- The reader makes a cell void: counted on its tile page, one partition fault for each key in the header. -/
def makeVoid (m : Mach) (tile : Nat) (c : Cell) : Mach :=
  (m.bump .sx (Pg.tile tile) R.tilVoidCellCnt).pfaultKeys c.keys Reason.cellLost

/-- How a cell's read ends in this slot: good, uncorrectable payload, uncorrectable header. `voided` lists cells by flow times
4096 plus sequence number; an entry of that plus 2^32 is a header error. -/
inductive ReadOutcome where
  | good
  | void
  | gone
  deriving DecidableEq, Repr

def readCell (voided : List Nat) (c : Cell) : ReadOutcome :=
  let k := c.flow * 4096 + c.seq
  if voided.contains (k + 2 ^ 32) then .gone else if voided.contains k then .void else .good

/-! ## Stage 1 (R161, R168, R169, R182) -/

/-- Whether a packet's granules may go into ordinary cells. -/
def Held.stored (h : Held) : Bool :=
  (h.part == .guaranteed || h.part == .shared || h.part == .lining) && (h.ct == .none || h.ct == .denied)
    && h.arrived == h.gran

/-- The packets of a flow not yet wholly in cells, in order. -/
def flowRest (m : Mach) (flow : Nat) : List Held := m.held.filter fun h => h.flow == flow && decide (h.formed < h.gran)

/-- Segments of the next cell: packet, granules. -/
def takeSegs : Nat → List Held → List (Nat × Nat × Nat)
  | _, [] => []
  | room, h :: rest =>
    if room = 0 ∨ !Held.stored h then []
    else
      let n := min room (h.gran - h.formed)
      (h.id, n, h.key) :: takeSegs (room - n) rest

/-- Form a cell from the given segments and move it to the intermediate (R160, R161, R169, R198). -/
def formCell (m : Mach) (voided : List Nat) (h : Held) (segs : List (Nat × Nat × Nat)) (y : Nat) (express : Bool) : Mach :=
  let flow := h.flow
  let seq := Tbl.get (fun _ => 0) m.seqIn flow
  let c : Cell := { input := h.input, output := h.output, vc := h.vc, seq := seq, segs := segs.map fun s => (s.1, s.2.1),
                    keys := (segs.map fun s => s.2.2).eraseDups, express := express, present := m.slot + 1 }
  let m := { m with seqIn := Tbl.set (fun _ => 0) m.seqIn flow ((seq + 1) % 4096) }
  let m := segs.foldl (fun m s => m.updHeld s.1 fun h => { h with formed := h.formed + s.2.1 }) m
  let m := m.giveCredit h.input h.vc (sumOf segs fun s => s.2.1)
  let put := fun (m : Mach) (c : Cell) => { m with mid := m.mid ++ [(y, h.outT, c)] }
  match readCell voided c with
  | .good => put m c
  | .void => put (m.makeVoid (inTile h.input) c) { c with void := true }
  | .gone => m

/-- Middle credits left for (input tile, intermediate, output tile). -/
def midCredits (m : Mach) (x y o : Nat) : Nat :=
  7 - (m.mid.filter fun e => e.1 == y && e.2.1 == o && inTile e.2.2.input == x && !e.2.2.express).length

/-- Heads of the flows that enter at tile `x`. -/
def flowHeads (m : Mach) (x : Nat) : List Held :=
  let hs := m.held.filter fun h => decide (h.input < 168) && inTile h.input == x && decide (h.formed < h.gran)
  hs.filter fun h => hs.all fun e => e.flow != h.flow || decide (h.id ≤ e.id)

/-- Express cells of an input tile: at most one per granted flow. -/
def expressOut (m : Mach) (voided : List Nat) (x y : Nat) : Mach × Nat :=
  let hs := (m.flowHeads x).filter fun h => h.ct == .granted && decide (h.formed < h.arrived)
  ((hs.take 8).foldl (fun m h => m.formCell voided h [(h.id, min 16 (h.arrived - h.formed), h.key)] y true) m,
   min hs.length 8)

/-- One ordinary cell of an input tile: round robin over output tiles, then over flows. -/
def ordinaryOut (m : Mach) (voided : List Nat) (x y : Nat) : Option Mach :=
  let hs := (m.flowHeads x).filter fun h => Held.stored h && decide (0 < m.midCredits x y h.outT)
  match nextAfter (Tbl.get (fun _ => 0) m.rrTile x) (hs.map Held.outT) with
  | none => none
  | some o =>
    let here := hs.filter fun h => h.outT == o
    match nextAfter (Tbl.get (fun _ => 0) m.rrFlow (x * 18 + o)) (here.map Held.flow) with
    | none => none
    | some f =>
      match here.find? fun h => h.flow == f with
      | none => none
      | some h =>
        let m := { m with rrTile := Tbl.set (fun _ => 0) m.rrTile x (o + 1)
                          rrFlow := Tbl.set (fun _ => 0) m.rrFlow (x * 18 + o) (f + 1) }
        some (m.formCell voided h (takeSegs 16 (m.flowRest f)) y false)

def ordinaryFill (m : Mach) (voided : List Nat) (x y : Nat) : Nat → Mach
  | 0 => m
  | n + 1 =>
    match m.ordinaryOut voided x y with
    | some m' => m'.ordinaryFill voided x y n
    | none => m

def stage1 (m : Mach) (voided : List Nat) (x : Nat) : Mach :=
  match m.stage1To x with
  | none => m
  | some y =>
    let (m, n) := m.expressOut voided x y
    m.ordinaryFill voided x y (8 - n)

/-! ## Stage 2 (R170 to R173) -/

/-- Cells at an intermediate for an output tile that may leave now: express first, then ordinary, oldest first. -/
def leaving (m : Mach) (y o : Nat) : List Cell :=
  let here := (m.mid.filter fun e => e.1 == y && e.2.1 == o && decide (e.2.2.present ≤ m.slot)).map fun e => e.2.2
  here.filter (·.express) ++ here.filter (!·.express)

/-- Discard the packets of a cell that reaches a retired tile (R189). -/
def cellDead (m : Mach) (c : Cell) : Mach :=
  let hs := c.segs.filterMap fun s => m.findHeld s.1
  let m := hs.foldl (fun m h => let m := m.dropHeld h
                                if h.output < 144 then m.bump .sx (Pg.port h.output) R.prtFlushPktCnt else m) m
  m.pfaultKeys (hs.map Held.key) Reason.packetLost

/-- Move one cell from an intermediate to its output tile, present there after `lag` slots. -/
def moveCell (m : Mach) (voided : List Nat) (y o lag : Nat) (c : Cell) : Mach :=
  let m := { m with mid := m.mid.erase (y, o, c) }
  let put := fun (m : Mach) (c : Cell) => { m with reseq := m.reseq ++ [{ c with present := m.slot + lag }] }
  if m.out1.contains o then m.cellDead c
  else
    match readCell voided c with
    | .good => put m c
    | .void => if c.void then put m c else put (m.makeVoid y c) { c with void := true }
    | .gone => m

def stage2OwnMove (m : Mach) (voided : List Nat) (y : Nat) : Mach :=
  match m.stage2Own y with
  | none => m
  | some o => ((m.leaving y o).take 8).foldl (fun m c => m.moveCell voided y o 1 c) m

/-- The cross connections of a die, the one that crossed least recently first. -/
def crossOrder (m : Mach) (d : Nat) : List Nat :=
  (m.ranks d).mergeSort fun a b =>
    Tbl.get (fun _ => 0) m.lastCross a ≤ Tbl.get (fun _ => 0) m.lastCross b

def stage2CrossMove (m : Mach) (voided : List Nat) (d y : Nat) : Mach :=
  match m.stage2Cross y with
  | none => m
  | some o =>
    let cells := (m.leaving y o).take (m.crossWidth d)
    let n := min cells.length (m.allow.getD d 0 / 7)
    let m := m.bumpBy .sx (Pg.die d) R.dieXdWaitCnt (cells.length - n)
    if n = 0 then m
    else
      let m := { m with allow := m.allow.set d (m.allow.getD d 0 - 7 * n),
                        lastCross := Tbl.set (fun _ => 0) m.lastCross y (m.slot + 1) }
      (cells.take n).foldl (fun m c => m.moveCell voided y o 4 c) m

/-- The crossing allowance of a slot, in sevenths of a cell (R173). -/
def refill (m : Mach) : Mach :=
  let gain := 16 * m.modulesUp
  { m with allow := m.allow.map fun a => min gain (a + gain) }

/-! ## Resequencing (R175, R177, R178) -/

/-- End a packet with a granule in a void or lost cell: discarded, or, when it is being cut through, ended with STOMP by its
port (R178). -/
def breakPacket (m : Mach) (pid : Nat) : Mach :=
  match m.findHeld pid with
  | none => m
  | some h =>
    let m := m.dropHeld h
    if h.started then (m.sendData .sx h.output [] 0 1 15 []).bump .sx (Pg.port h.output) R.prtStompTxCnt else m

/-- Release a cell in its turn. -/
def releaseCell (m : Mach) (voided : List Nat) (c : Cell) : Mach :=
  let m := { m with reseq := m.reseq.erase c,
                    seqOut := Tbl.set (fun _ => 0) m.seqOut c.flow ((c.seq + 1) % 4096) }
  let o := outTile c.output (match m.findHeld (c.segs.headD (0, 0)).1 with | some h => h.pkt.src | none => 0)
  let bad := c.void || readCell voided c == ReadOutcome.void
  let m := if readCell voided c = ReadOutcome.void ∧ !c.void then m.makeVoid o c else m
  if bad then c.segs.foldl (fun m s => m.breakPacket s.1) m
  else c.segs.foldl (fun m s => m.updHeld s.1 fun h => { h with released := h.released + s.2 }) m

/-- Release every cell whose turn has come. -/
def releaseAll (m : Mach) (voided : List Nat) : Nat → Mach
  | 0 => m
  | n + 1 =>
    match m.reseq.find? fun c =>
        decide (c.present ≤ m.slot) && c.seq == Tbl.get (fun _ => 0) m.seqOut c.flow && readCell voided c != ReadOutcome.gone with
    | some c => (m.releaseCell voided c).releaseAll voided n
    | none => m

/-- Output tile of a cell at its output. -/
def cellTile (m : Mach) (c : Cell) : Nat :=
  outTile c.output (match m.findHeld (c.segs.headD (0, 0)).1 with | some h => h.pkt.src | none => 0)

/-- Largest occupancy of the resequencing buffers (R192). -/
def reseqHigh (m : Mach) : Mach :=
  let held := m.reseq.filter fun c => decide (c.present ≤ m.slot)
  (held.map m.cellTile).eraseDups.foldl
    (fun m t =>
      let n := (held.filter fun c => m.cellTile c == t).length
      if m.fld .sx (Pg.tile t) F.tilReseqStatus_high < n then m.setFld .sx (Pg.tile t) F.tilReseqStatus_high n else m)
    m

/-- One cell slot: stage 1, then stage 2, then release (R167 to R175). -/
def cellSlot (m : Mach) (voided : List Nat) : Mach :=
  let m := m.refill
  let m := (List.range 18).foldl (fun m x => m.stage1 voided x) m
  let m := ((m.ranks 0) ++ (m.ranks 1)).foldl (fun m y => m.stage2OwnMove voided y) m
  let m := (m.crossOrder 0).foldl (fun m y => m.stage2CrossMove voided 0 y) m
  let m := (m.crossOrder 1).foldl (fun m y => m.stage2CrossMove voided 1 y) m
  let m := m.releaseAll voided m.reseq.length
  let m := { m with reseq := m.reseq.filter fun c => readCell voided c != ReadOutcome.gone || decide (m.slot < c.present) }
  let m := m.reseqHigh
  { m with slot := m.slot + 1 }

/-! ## Lost cells (R179) -/

/-- Granules of a packet that are in cells still under way or held. -/
def inCells (m : Mach) (pid : Nat) : Nat :=
  let n := fun (c : Cell) => sumOf (c.segs.filter fun s => s.1 == pid) fun s => s.2
  sumOf m.mid (fun e => n e.2.2) + sumOf m.reseq n

/-- Advance a flow past a gap that has stood for 1,024 cell slots. -/
def reseqTimeout (m : Mach) (tile flow : Nat) : Mach :=
  let held := m.reseq.filter fun c => c.flow == flow && decide (c.present + 1024 ≤ m.slot) && m.cellTile c == tile
  if held = [] then m
  else
    let nxt := Tbl.get (fun _ => 0) m.seqOut flow
    let all := m.reseq.filter fun c => c.flow == flow
    let gap := all.foldl (fun g c => min g ((c.seq + 4096 - nxt) % 4096)) 4096
    let m := { m with seqOut := Tbl.set (fun _ => 0) m.seqOut flow ((nxt + gap) % 4096) }
    let short := m.held.filter fun h => h.flow == flow && decide (h.released + m.inCells h.id < h.formed)
    let m := short.foldl (fun m h => m.breakPacket h.id) m
    let m := m.pfaultKeys (short.map Held.key) Reason.cellLost
    (m.bump .sx (Pg.tile tile) R.tilReseqTimeoutCnt).raise .sx (Pg.tile tile) 0 0

/-! ## Retired tiles (R189) -/

/-- Step 1 in the hem of the retirement: tile `x` leaves stage 1, and everything in its ingress queues or bound for it is
discarded with one partition fault per key. -/
def retireTile (m : Mach) (x : Nat) : Mach :=
  if m.out1.contains x then m
  else
    let m := { m with out1 := m.out1 ++ [x] }
    let queued := fun (h : Held) => decide (h.input < 168) && inTile h.input == x && decide (h.formed < h.gran)
    let gone := m.held.filter fun h => queued h || (decide (h.output < 168) && h.outT == x)
    let m := gone.foldl
      (fun m h =>
        let m := m.removeHeld h.id
        if queued h ∧ h.input < 144 then m.bump .sx (Pg.port h.input) R.prtFlushPktCnt
        else if h.output < 144 then m.bump .sx (Pg.port h.output) R.prtFlushPktCnt
        else m)
      m
    let m := m.pfaultKeys (gone.map Held.key) Reason.packetLost
    let k := item Pg.chip 0 R.chpTileRetire
    let bit : Word := BitVec.ofNat 32 (2 ^ x)
    let m := (m.setLive .sx k (m.liveCopy .sx k ||| bit)).setShadow .sx k (m.shadow .sx k ||| bit)
    let m := (List.range 8).foldl (fun m i => m.setHold (8 * x + i) { m.holdOf (8 * x + i) with flushDue := true }) m
    (m.pleatTileRetired x).raise .sx Pg.chip 6 x

/-- Step 2 in the next hem: retired tiles leave stage 2, the ranks are recomputed and the patterns restart. -/
def retireStage2 (m : Mach) : Mach :=
  if m.out1 = m.out2 then m
  else
    let going := m.out1.filter fun x => !m.out2.contains x
    { m with out2 := m.out1, patStart := m.slot, mid := m.mid.filter fun e => !going.contains e.1 }

/-! ## Die-to-die modules (R174, R597) -/

/-- A module fails: it waits for its hem, and which of the cells in the crossing it had accepted is open (log 4). -/
def moduleFails (m : Mach) (k : Nat) : Mach :=
  if m.modFailed.contains k ∨ bitsOf (m.reg .sx (Pg.die 0) R.dieD2dModules) k 1 = 0 then m
  else
    let m := { m with modFailed := m.modFailed ++ [k] }
    let crossing := m.reseq.filter fun c =>
      decide (m.slot < c.present) && dieOfTile (inTile c.input) != dieOfTile (m.cellTile c)
    crossing.foldl
      (fun m c =>
        let (lost, m) := m.fresh 1
        if lost = 1 then { m with reseq := m.reseq.erase c } else m)
      m

/-- Fewer than 8 modules: the interface is retired (R174); the confidential keys of both dies are torn (R458). -/
def retireInterface (m : Mach) : Mach :=
  let m := [0, 1].foldl (fun m d => (m.setFld .sx (Pg.die d) F.dieD2dStatus_retired 1).raise .sx (Pg.die d) 1 0) m
  let cross := m.mid.filter fun e => dieOfTile e.1 != dieOfTile e.2.1
  let m := { m with mid := m.mid.filter fun e => dieOfTile e.1 == dieOfTile e.2.1 }
  let keys := (cross.map fun e => e.2.2.keys).flatten
  let cut := m.held.filter fun h => m.cutOff h && decide (h.released < h.gran)
  let m := cut.foldl
    (fun m h =>
      let m := m.breakPacket h.id
      if h.output < 144 ∧ h.part ≠ .none then m.bump .sx (Pg.port h.output) R.prtFlushPktCnt else m)
    m
  (m.pfaultKeys (keys ++ cut.map Held.key) Reason.packetLost).tear (m.dieHolds 0 ++ m.dieHolds 1)

/-- A module is retired on both die pages. -/
def retireModule (m : Mach) (k : Nat) : Mach :=
  [0, 1].foldl
    (fun m d =>
      let w := m.word .sx (item (Pg.die d) 0 R.dieD2dModules)
      let m := m.setWord .sx (item (Pg.die d) 0 R.dieD2dModules) (w &&& ~~~(BitVec.ofNat 32 (2 ^ k)))
      let m := m.setFld .sx (Pg.die d) F.dieD2dStatus_active (m.fld .sx (Pg.die d) F.dieD2dStatus_active - 1)
      (m.bump .sx (Pg.die d) R.dieD2dRetireCnt).raise .sx (Pg.die d) 0 k)
    m

/-- The hem after a failure: every failed module is retired. -/
def retireModules (m : Mach) : Mach :=
  let ks := m.modFailed
  let m := ks.foldl retireModule { m with modFailed := [] }
  if m.modulesUp < 8 ∧ !m.bit .sx (Pg.die 0) F.dieD2dStatus_retired then m.retireInterface else m

end Mach

/-! ## Meanings -/

/-- CELL_SLOT (R167 to R175, R178): the tiles move cells in stage 1 and stage 2 and release them in order.  `voided` lists the
cells whose read in this slot is uncorrectable: flow times 4096 plus sequence number, plus 2^32 for a header. -/
def execCellSlot (voided : List Nat) (s : State) : Host.Outcome State Fault Refusal :=
  s.go fun m => m.cellSlot voided

/-- RESEQ_TIMEOUT (R179): a flow whose gap has stood for 1,024 cell slots is advanced past it. -/
def execReseqTimeout (tile flow : Nat) (s : State) : Host.Outcome State Fault Refusal :=
  State.unit (decide (tile < 18)) <| s.go fun m => m.reseqTimeout tile flow

/-- TILE_RETIRE_STAGE2 (R189): in the hem after their retirement tiles leave stage 2 and the patterns restart. -/
def execTileRetireStage2 (s : State) : Host.Outcome State Fault Refusal := s.go Mach.retireStage2

/-- D2D_MODULE_FAILURE (R597): a die-to-die module fails and waits for its hem. -/
def execD2dModuleFailure (module : Nat) (s : State) : Host.Outcome State Fault Refusal :=
  State.unit (decide (module < 32)) <| s.go fun m => m.moduleFails module

/-- D2D_MODULE_RETIRE (R174, R597): in the next hem failed modules are retired, and with fewer than 8 the interface. -/
def execD2dModuleRetire (s : State) : Host.Outcome State Fault Refusal := s.go Mach.retireModules

end Sys2Proof.Machine
end

