-- ==== Sys2Proof/Machine/Egress.lean ====
section
/-! DEFINITION. The egress of the switch: the arbiter (R186, R187), marks (R220), key check 7 of R98, whole and cut-through
transmission (R183, R184), Cuff copies (R326), the Lining's writes and readback (R207 to R209), the Zelry cut-off (R236). -/

namespace Sys2Proof.Machine
open Sys2Proof

/-- The source tile under which the arbiter finds an input (R187): internal sources beside the fabric stand with the output
port's own tile. -/
def Held.srcTile (h : Held) : Nat := if h.input < 168 then inTile h.input else h.output / 8

/-- Cycles that `n` granules take at a payload rate in Gb/s (R467). -/
def cyclesFor (n rate : Nat) : Nat := ceilDiv (n * 128 * 7) (4 * max rate 1)

namespace Mach

def now875 (m : Mach) : Nat := m.time.number * 875 + m.time.cycle

/-- Whether a packet is in an output queue: its first granule has been released (R175). -/
def Held.queued (h : Held) : Bool := h.released != 0

/-- Whether a packet at the head of its sub-queue may be selected (R161, R183, R208, R236, R326). -/
def eligible (m : Mach) (h : Held) : Bool :=
  (h.part != .none && h.part != .waiting)
    && (if h.ct == .granted then decide (m.leadOf h.output ≤ h.released)
        else h.released == h.gran && (h.part != .lining || h.staging == 2))
    && decide (h.notBefore ≤ m.now875)
    && (match h.slotEnd with
        | some e => decide (m.now875 + cyclesFor h.gran (m.lk .sx h.output).rate ≤ e * 875 + 840)
        | none => true)

/-- Heads of the sub-queues of a port and VC. -/
def subHeads (m : Mach) (port vc : Nat) : List Held :=
  let hs := m.held.filter fun h => h.output == port && h.vc == vc
  hs.filter fun h => hs.all fun e => e.input != h.input || decide (h.id ≤ e.id)

/-- Heads that may be sent now. -/
def sendable (m : Mach) (port vc : Nat) : List Held :=
  (m.subHeads port vc).filter fun h => m.eligible h && m.canSend .sx port vc h.gran

/-! ## The arbiter (R186, R187) -/

def arbOf (m : Mach) (p : Nat) : Arb := Tbl.get (fun _ => {}) m.arb p
def setArb (m : Mach) (p : Nat) (a : Arb) : Mach := { m with arb := Tbl.set (fun _ => {}) m.arb p a }

/-- The weight latched for a port, VC and source tile (R192). -/
def weightOf (m : Mach) (port vc tile : Nat) : Nat :=
  m.tword .sx (Pg.tile (port / 8)) 1 ((port % 8 * 6 + vc) * 18 + tile) % 16

/-- Cycle 0 of a stitch: every arbiter latches its weights. -/
def latchWeights (m : Mach) : Mach :=
  let queued := (m.held.filter fun h => decide (h.output < 144) && Held.queued h).map fun h => (h.output, h.vc, h.srcTile, h.input)
  let places := queued.eraseDups.map fun q => item (Pg.tile (q.1 / 8)) 1 ((q.1 % 8 * 6 + q.2.1) * 18 + q.2.2.1)
  let old := m.regs.word.filter fun e =>
    !(decide (Pg.tile 0 ≤ itemPage e.1 ∧ itemPage e.1 ≤ Pg.tile 17) && itemSel e.1 == 1)
  let m := m.setRf .sx { m.regs with word := old }
  places.foldl (fun m k => m.setWord .sx k (m.word .sx k + 1)) m

/-- The arbiter with the deficits of empty sub-queues returned to 0. -/
def arbClean (m : Mach) (port : Nat) : Arb :=
  let a := m.arbOf port
  { a with deficit := a.deficit.filter fun e =>
      m.held.any fun h => h.output == port && h.vc == e.1 / 256 && h.input == e.1 % 256 && Held.queued h }

/-- One selection within a VC: grants of 16 granules until a packet is sent; `hs` are the eligible heads. -/
def select (m : Mach) (port vc : Nat) (hs : List Held) (a : Arb) : Nat → Arb × Option Held
  | 0 => (a, none)
  | n + 1 =>
    let get := fun (t : Tbl Nat) k => Tbl.get (fun _ => 0) t k
    let set := fun (t : Tbl Nat) k v => Tbl.set (fun _ => 0) t k v
    let cur := get a.tile vc - 1
    let stay := decide (0 < get a.left vc) && hs.any fun h => h.srcTile == cur
    match (if stay then some cur else nextAfter (get a.tile vc) (hs.map Held.srcTile)) with
    | none => (a, none)
    | some t =>
      let a := if stay then a
        else { a with tile := set a.tile vc (t + 1), left := set a.left vc (max (m.weightOf port vc t) 1) }
      let here := hs.filter fun h => h.srcTile == t
      match nextAfter (get a.inp (32 * vc + t)) (here.map (·.input)) with
      | none => (a, none)
      | some i =>
        let d := get a.deficit (256 * vc + i) + 16
        let a := { a with inp := set a.inp (32 * vc + t) (i + 1), left := set a.left vc (get a.left vc - 1) }
        match here.find? fun h => h.input == i with
        | none => (a, none)
        | some h =>
          if h.gran ≤ d then ({ a with deficit := set a.deficit (256 * vc + i) (d - h.gran) }, some h)
          else m.select port vc hs { a with deficit := set a.deficit (256 * vc + i) d } n

/-- The VCs in the order in which the port considers them: VC4, VC3, then the others from the place of the rotation. -/
def vcOrder (rr : Nat) : List Nat :=
  [4, 3] ++ ((List.range 4).map fun i => [0, 1, 2, 5].getD ((rr + i) % 4) 0)

/-- Choose the next packet of a port. -/
def choose (m : Mach) (port : Nat) : Mach × Option Held :=
  let a := m.arbClean port
  match (vcOrder a.rr).find? fun vc => m.sendable port vc != [] with
  | none => (m.setArb port a, none)
  | some vc =>
    let hs := m.sendable port vc
    let (a, h) := m.select port vc hs a (20 * hs.length + 40)
    let rr := match [0, 1, 2, 5].idxOf? vc with | some k => (k + 1) % 4 | none => a.rr
    (m.setArb port { a with rr := rr }, h)

/-! ## Transmission -/

/-- Threshold of an account's marks, in granules; 0 disables (R220). -/
def markAt (m : Mach) (port vc : Nat) : Nat :=
  64 * (if vc = 0 then m.fld .sx (Pg.port port) F.prtMarkCtrl_markVc0
        else if vc = 2 then m.fld .sx (Pg.port port) F.prtMarkCtrl_markVc2 else 0)

/-- Whether a packet is marked as it is selected (R220, R221). -/
def marks (m : Mach) (h : Held) : Bool :=
  let t := m.markAt h.output h.vc
  decide (0 < t) && h.ct != .granted && decide (t ≤ m.occupancy h.acct - (if h.part == .exempt then 0 else h.gran))

/-- Check 7 of R98 fails: discarded, counted at the output port, a VC0 request answered. -/
def keyOutFailed (m : Mach) (h : Held) : Mach :=
  let m := m.dropHeld h
  let m := (m.bump .sx (Pg.port h.output) R.prtPkeyOutCnt).pktErr h.output 0x15 h.pkt.opcode h.vc
  if h.input < 144 then m.nackAt h.input Status.pkeyDenied h.pkt else m

/-- One flit of a packet in progress: what has been released, or hold granules (R184, R480). -/
def sendOn (m : Mach) (h : Held) : Mach :=
  let n := min 15 (h.released - h.sent)
  let ends := decide (h.sent + n = h.gran)
  let gs := ((granulesOf h.pkt).drop h.sent).take n
  let holds := if ends then 0 else 15 - n
  let m := m.sendData .sx h.output gs (if h.sent = 0 then 1 else 0) 0 (if holds = 0 then 15 else n) [(h.key, h.pkt.opcode)]
  let m := m.bumpBy .sx (Pg.port h.output) R.prtHoldGranCnt holds
  if ends then (m.removeHeld h.id).mapSent h.acct false
  else m.updHeld h.id fun h => { h with sent := h.sent + n, holds := if n = 0 then h.holds + holds else holds }

/-- Send the whole flits that a started packet has ready. -/
def sendReady (m : Mach) (id : Nat) : Nat → Mach
  | 0 => m
  | n + 1 =>
    match m.findHeld id with
    | none => m
    | some h => if h.sent + 15 ≤ h.released then (m.sendOn h).sendReady id n else m

/-- Send the packet that the arbiter chose. -/
def sendChosen (m : Mach) (h : Held) : Mach :=
  if h.input ≠ 170 ∧ !m.keyOk h.output h.pkt then m.keyOutFailed h
  else if h.ct = .granted then
    let m := (m.takeCredit .sx h.output h.vc h.gran).bump .sx (Pg.port h.output) R.prtCtTxCnt
    (m.updHeld h.id fun h => { h with started := true }).sendReady h.id 20
  else
    let mark := m.marks h
    let pkt := if mark then h.pkt.setMark else h.pkt
    let m := if mark then m.bump .sx (Pg.port h.output) R.prtMarkCnt else m
    let m := (m.removeHeld h.id).sendWhole .sx h.output pkt
    let m := m.bump .sx (Pg.port h.output) R.prtSfTxCnt
    let m := if h.part = .exempt then m else m.mapSent h.acct mark
    if h.input = 172 then m.bump .sx Pg.cuff R.cufResultCnt else m

/-- The packet in progress on a port. -/
def inProgress (m : Mach) (port : Nat) : Option Held := m.held.find? fun h => h.output == port && h.started

/-- A port sends: the next flit of the packet in progress, or the next packet. -/
def transmit (m : Mach) (port : Nat) : Mach :=
  if !m.mayLeave port then m
  else
    match m.inProgress port with
    | some h => if 64 ≤ h.holds ∨ 384 ≤ (m.lk .sx port).replay.length then m else m.sendOn h
    | none =>
      match m.choose port with
      | (m, some h) => m.sendChosen h
      | (m, none) => m

/-- 64 consecutive hold granules have been sent: the packet ends with STOMP (R184). -/
def stompOut (m : Mach) (port : Nat) : Mach :=
  match m.inProgress port with
  | none => m
  | some h =>
    if h.holds < 64 then m
    else
      let m := (m.breakPacket h.id).raise .sx (Pg.port port) 7 (packetDetail h.pkt 0)
      m.pfaultKeys [h.key] Reason.stomped

/-- Send the Cuff copy at the head of a port's VC3 sub-queue (R326). -/
def sendCuff (m : Mach) (port : Nat) : Mach :=
  if !m.mayLeave port ∨ (m.inProgress port).isSome then m
  else
    match (m.sendable port 3).find? fun h => h.input == 172 with
    | some h => m.sendChosen h
    | none => m

/-! ## Zelry at the egress (R236) -/

/-- The cut-off of a stitch: VC5 packets whose slot ends are dropped. -/
def zlyLate (m : Mach) : Mach :=
  let late := m.held.filter fun h =>
    decide (h.output < 144) && !h.started && (match h.slotEnd with | some e => decide (e ≤ m.time.number) | none => false)
  let m := late.foldl (fun m h => (m.dropHeld h).bump .sx (Pg.port h.output) R.prtZlyLateCnt) m
  m.pfaultKeys (late.map Held.key) Reason.zelryDrop

/-! ## The Lining (R207 to R209) -/

def liningWritten (m : Mach) (pid : Nat) : Mach :=
  match m.findHeld pid with
  | some h => if h.part = .lining ∧ h.released = h.gran then m.updHeld pid fun h => { h with written := true } else m
  | none => m

/-- Granules in the staging of an output: 32 KiB each (R195). -/
def stagingUsed (m : Mach) (output : Nat) : Nat :=
  sumOf (m.held.filter fun h => h.output == output && h.staging != 0) Held.gran

def readbackStart (m : Mach) (output vc : Nat) : Mach :=
  match m.held.find? fun h => h.output == output && h.vc == vc && h.part == .lining && h.staging == 0 with
  | some h =>
    if h.written ∧ m.stagingUsed output + h.gran ≤ 2048 then m.updHeld h.id fun h => { h with staging := 1 } else m
  | none => m

/-- A readback ends.  Whether an uncorrectable error of a packet with payload lies in its header or its payload is open
(log 4). -/
def readbackDone (m : Mach) (pid : Nat) (bad : Bool) : Mach :=
  match m.findHeld pid with
  | none => m
  | some h =>
    if h.staging ≠ 1 then m
    else
      let cl := h.acct.1
      let m := (m.updHeld pid fun h => { h with staging := 2 }).bump .sx (Pg.cluster cl) R.cluReadbackPktCnt
      if !bad then m
      else
        let (inHeader, m) : Bool × Mach :=
          if h.pkt.length = 0 then (true, m) else let r := m.fresh 1; (r.1 == 1, r.2)
        let m := (m.bump .sx (Pg.cluster cl) R.liningPoisonCnt).raise .sx (Pg.cluster cl) 2 0
        let m := if inHeader then m.removeHeld pid else m.updHeld pid fun h => { h with pkt := h.pkt.setPoison }
        m.pfaultKeys [h.key] Reason.dataPoisoned

end Mach

/-! ## Meanings -/

/-- PACKET_TRANSMIT (R183, R184, R186, R187, R220): the output port sends the next flit of the packet in progress, or selects
a packet and starts it. -/
def execPacketTransmit (port : Nat) (s : State) : Host.Outcome State Fault Refusal :=
  State.unit (s.m.hasPort .sx port) <| s.go fun m => m.transmit port

/-- CUT_THROUGH_STOMP (R184): after 64 consecutive hold granules the packet is ended with STOMP. -/
def execCutThroughStomp (port : Nat) (s : State) : Host.Outcome State Fault Refusal :=
  State.unit (s.m.hasPort .sx port) <| s.go fun m => m.stompOut port

/-- CUFF_COPY_SEND (R326): an eligible result copy at the head of a port's VC3 sub-queue is sent. -/
def execCuffCopySend (port : Nat) (s : State) : Host.Outcome State Fault Refusal :=
  State.unit (s.m.hasPort .sx port) <| s.go fun m => m.sendCuff port

/-- LINING_WRITE_DONE (R207): the HBM4 write of a Lining packet completes. -/
def execLiningWriteDone (pid : Nat) (s : State) : Host.Outcome State Fault Refusal := s.go fun m => m.liningWritten pid

/-- LINING_READBACK_START (R208): the oldest Lining packet of an output and VC is read back once written and the staging has
room. -/
def execLiningReadbackStart (output vc : Nat) (s : State) : Host.Outcome State Fault Refusal :=
  State.unit (fabricEnds 0 output vc) <| s.go fun m => m.readbackStart output vc

/-- LINING_READBACK_DONE (R208, R209): a packet is wholly in the staging. -/
def execLiningReadbackDone (pid : Nat) (uncorrectable : Bool) (s : State) : Host.Outcome State Fault Refusal :=
  s.go fun m => m.readbackDone pid uncorrectable

end Sys2Proof.Machine
end

