-- ==== Sys2Proof/Machine/MemSvc.lean ====
section
/-! DEFINITION. The memory services of the switch (chapters "Atomics and sync objects" and "Switch memory pool"): sync objects
and their waiters (R142 to R150, R154), pool requests over the interleaved stacks (R351, R352), operation entries and parking
(R152), ECC and poison (R358 to R361), region grants and zeroing (R350, R353, R354), the layout of a stack (R346, R348) and
stack retirement (R362, R363). -/

namespace Sys2Proof.Machine
open Sys2Proof

/-- Stores of R103. -/
def isStore (op : Nat) : Bool := op == Op.write || op == Op.flagWrite || op == Op.atomic || op == Op.atomicPosted

def isAtomic (op : Nat) : Bool := op == Op.atomic || op == Op.atomicPosted

/-- Address of a stack byte in the HBM4 memory of the model. -/
def hbmKey (stack addr : Nat) : Nat := stack * 2 ^ 40 + addr

/-- The parts of a request in the interleave (R351, R352): one for each granule of interleave it touches. -/
def poolParts (r : PoolMap) (base len : Nat) : Nat → Nat → List PoolPart
  | 0, _ => []
  | n + 1, off =>
    if len ≤ off then []
    else
      let k := min (256 - (base + off) % 256) (len - off)
      { stack := (r.locate (base + off)).1, addr := (r.locate (base + off)).2, len := k, off := off }
        :: poolParts r base len n (off + k)

/-- The parts of a packet's bytes. -/
def partsOf (r : PoolMap) (p : Packet) : List PoolPart :=
  poolParts r p.offset (requestBytes p) (requestBytes p / 256 + 2) 0

/-- The operation entry that a request takes (R152): its sync-object bank, or 16 plus the number of its 64-byte line. -/
def entryOf (r : Option PoolMap) (p : Packet) : Option Nat :=
  match r with
  | none => some (p.offset / 8 % 16)
  | some r =>
    if isAtomic p.opcode then some (16 + hbmKey (r.locate p.offset).1 (r.locate p.offset).2 / 64) else none

/-- Sync-object operations that R90 and R145 accept. -/
def syncOpOk (p : Packet) : Bool :=
  (p.opcode == Op.read && p.aux == 8) || p.opcode == Op.syncWait
    || (isAtomic p.opcode && bitsOf p.modifier 4 2 == 1 && decide (bitsOf p.modifier 6 2 ≤ 1))

/-- Numbers of the 32-byte words that a stretch of a stack touches (R358). -/
def wordsIn (base len : Nat) : List Nat :=
  if len = 0 then [] else (List.range ((base + len - 1) / 32 - base / 32 + 1)).map (base / 32 + ·)

namespace Mach

def setMem (m : Mach) (x : MemSt) : Mach := { m with mem := x }

/-! ## Answers (R94, R223) -/

/-- Whether a response that leaves on VC1 carries echo (R223). -/
def svcEcho (m : Mach) (cl : Nat) : Nat :=
  let t := 64 * m.fld .sx (Pg.cluster cl) F.cluSvcMark_thr
  if t ≠ 0 ∧ t ≤ m.occupancy (cl, 144) then 1 else 0

/-- A response of a cluster leaves by the port its request came by (log 17). -/
def svcAnswer (m : Mach) (cl port : Nat) (p : Packet) : Mach := m.push p (162 + cl) port

def svcNack (m : Mach) (cl port : Nat) (q : Packet) (st : Nat) : Mach :=
  m.svcAnswer cl port (m.response .sx q Op.nack st (m.svcEcho cl) 0 0 [])

def svcReply (m : Mach) (cl port : Nat) (q : Packet) (op : Nat) (payload : List Byte) : Mach :=
  m.svcAnswer cl port (m.response .sx q op 0 (m.svcEcho cl) 0 0 payload)

/-- One READ_DATA segment (R89, R92, R94). -/
def readSegment (m : Mach) (c : Chip) (q : Packet) (off : Nat) (fin bad : Bool) (echo : Nat) (bytes : List Byte) : Packet :=
  HdrSpec.packet
    { opcode := Op.readData, vc := 1, echo := if fin then echo else 0, poison := if bad then 1 else 0,
      last := if fin then 1 else 0, dst := q.src, src := q.dst, epoch := m.epochNow c % 16, stream := q.stream,
      pkey := q.pkey, context := q.context, tag := q.tag, status := if bad then Status.poisoned else 0,
      address := (q.address + off) % 2 ^ 64, aux := off } bytes

/-- The segments of a read of `data`; `bad` lists the offsets of the poisoned ones. -/
def readSegments (m : Mach) (c : Chip) (q : Packet) (bad : List Nat) (echo : Nat) (data : List Byte) : List Packet :=
  let n := max (ceilDiv data.length 4096) 1
  (List.range n).map fun i =>
    m.readSegment c q (4096 * i) (i + 1 == n) (bad.contains (4096 * i)) echo ((data.drop (4096 * i)).take 4096)

/-! ## Sync objects (R142 to R150) -/

def obj (m : Mach) (i : Nat) : DWord := Tbl.get (fun _ => 0) m.mem.obj i
def setObj (m : Mach) (i : Nat) (v : DWord) : Mach := m.setMem { m.mem with obj := Tbl.set (fun _ => 0) m.mem.obj i v }

/-- The key to which a block of sync objects is granted (R143, R436). -/
def grantKey (m : Mach) (block : Nat) : Option Nat :=
  let w := m.tword .sx Pg.guard 2 block
  if bitsOf w 16 1 = 1 then some (bitsOf w 0 16) else none

/-- The first check of R145 that a request to a sync object fails; a poisoned request is refused after them (R85). -/
def syncRefusal (m : Mach) (p : Packet) : Option Nat :=
  if 0x7FFF8 < p.offset then some Status.badAddress
  else if p.offset % 8 ≠ 0 then some Status.misaligned
  else if !syncOpOk p then some Status.accessDenied
  else if m.grantKey (p.offset / 8 / 256) ≠ some p.pkey then some Status.badAddress
  else if p.poison = 1 then some Status.poisoned
  else none

/-- SYNC_NOTIFY to a waiter or to a request (R146). -/
def notify (m : Mach) (port : Nat) (q : Packet) (v : DWord) : Mach :=
  m.svcReply (objCluster (q.offset / 8)) port q Op.syncNotify (leBytes 8 v.toNat)

/-- Answer the waiters of an object that its new value satisfies: ascending threshold, then order of arrival (R147). -/
def answerWaiters (m : Mach) (i : Nat) (v : DWord) : Mach :=
  let due := (m.mem.waiters.filter fun w => w.obj == i && decide (w.thr ≤ v.toNat)).mergeSort fun a b => a.thr ≤ b.thr
  let m := m.setMem { m.mem with waiters := m.mem.waiters.filter fun w => !(w.obj == i && decide (w.thr ≤ v.toNat)) }
  due.foldl (fun m w => (m.notify w.port w.pkt v).bump .sx (Pg.cluster (objCluster i)) R.cluSyncNotifyCnt) m

/-- End recorded waits as expired (R148): answered with the object's current value. -/
def expireWaits (m : Mach) (p : Waiter → Bool) : Mach :=
  let due := m.mem.waiters.filter p
  let m := m.setMem { m.mem with waiters := m.mem.waiters.filter fun w => !p w }
  due.foldl
    (fun m w => (m.notify w.port w.pkt (m.obj w.obj)).bump .sx (Pg.cluster (objCluster w.obj)) R.cluSyncExpiredCnt) m

/-- A bank operation finds the object's code uncorrectable (R154). -/
def objDetect (m : Mach) (i : Nat) : Mach :=
  let cl := objCluster i
  let m := m.setMem { m.mem with
    objPoison := i :: m.mem.objPoison, objBad := m.mem.objBad.filter (· != i), waiters := m.mem.waiters.filter fun w => w.obj != i }
  let m := (m.bump .sx (Pg.cluster cl) R.cluSyncPoisonCnt).raise .sx (Pg.cluster cl) 0 i
  match m.grantKey (i / 256) with
  | some k => m.pfaultKeys [k] Reason.dataPoisoned
  | none => m

/-- A bank operation reads an object; none where it is poisoned. -/
def objRead (m : Mach) (i : Nat) : Option DWord × Mach :=
  if m.mem.objPoison.contains i then (none, m)
  else if m.mem.objBad.contains i then (none, m.objDetect i)
  else (some (m.obj i), m)

/-- Waiters recorded in a cluster (R149). -/
def waitersIn (m : Mach) (cl : Nat) : Nat := (m.mem.waiters.filter fun w => objCluster w.obj == cl).length

/-- A SYNC_WAIT is evaluated (R146, R149). -/
def syncWaitOn (m : Mach) (port : Nat) (p : Packet) (i : Nat) (v : DWord) : Mach :=
  let cl := objCluster i
  if p.aux ≤ v.toNat then (m.notify port p v).bump .sx (Pg.cluster cl) R.cluSyncNotifyCnt
  else if 8192 ≤ m.waitersIn cl then (m.notify port p v).bump .sx (Pg.cluster cl) R.cluSyncWaitFullCnt
  else
    let w : Waiter :=
      { obj := i, thr := p.aux, at_ := m.time.number, limit := m.fld .sx (Pg.cluster cl) F.cluSyncCtrl_waitLimit,
        port := port, pkt := p }
    m.setMem { m.mem with waiters := m.mem.waiters ++ [w] }

/-- One operation on a sync object that passed the checks. -/
def syncDo (m : Mach) (port : Nat) (p : Packet) : Mach :=
  let i := p.offset / 8
  let cl := objCluster i
  match m.objRead i with
  | (none, m) => m.svcNack cl port p Status.poisoned
  | (some v, m) =>
    let m := m.bump .sx (Pg.cluster cl) R.cluSyncOpsCnt
    if p.opcode = Op.read then m.svcReply cl port p Op.readData (leBytes 8 v.toNat)
    else if p.opcode = Op.syncWait then m.syncWaitOn port p i v
    else
      let new := BitVec.ofNat 64 (ofLeBytes (atomicBytes p.modifier (leBytes 8 v.toNat) p.payload))
      let m := (m.setObj i new).answerWaiters i new
      if p.opcode = Op.atomic then m.svcReply cl port p Op.atomicData (leBytes 8 v.toNat)
      else m.svcReply cl port p Op.atomicAck []

/-- The grant of a block of objects changes (R144). -/
def grantChanged (m : Mach) (block : Nat) : Mach :=
  let inBlock := fun (i : Nat) => i / 256 == block
  let m := m.setMem { m.mem with
    obj := m.mem.obj.filter fun e => !inBlock e.1,
    objPoison := m.mem.objPoison.filter fun i => !inBlock i,
    objBad := m.mem.objBad.filter fun i => !inBlock i }
  m.expireWaits fun w => inBlock w.obj

/-- CLU_SYNC_HOT at a hem (R158). -/
def syncHot (m : Mach) (cl : Nat) : Mach :=
  let of := fun (b : Nat) => m.mem.reqs.filter fun r => r.home == cl && r.entry == some b
  let best := (List.range 16).foldl (fun a b => if (of a).length < (of b).length then b else a) 0
  match of best with
  | [] => m.setReg .sx (Pg.cluster cl) R.cluSyncHot 0
  | r :: rs =>
    m.setReg .sx (Pg.cluster cl) R.cluSyncHot
      (best + place (rs.length + 1) 4 11 + 2 ^ 15 + place (r.pkt.offset / 8) 16 16)

/-! ## Arrival at a memory service (R104, R110, R141, R152) -/

/-- A store that must wait for an earlier store of its source and stream (R110, R141). -/
def heldBack (m : Mach) (id : Nat) (p : Packet) : Bool :=
  let same := fun (q : Packet) => isStore q.opcode && q.src == p.src && q.stream == p.stream
  isStore p.opcode && p.stream != 63
    && ((m.mem.reqs.any fun r => decide (r.id < id) && same r.pkt)
      || (m.held.any fun h => match h.parked with | some n => decide (n < id) && same h.pkt | none => false))

/-- Requests that hold operation entries of a cluster. -/
def entriesOf (m : Mach) (cl : Nat) : List PoolReq := m.mem.reqs.filter fun r => r.home == cl && r.entry.isSome

/-- Whether the unit and the bank or line are below their limits (R152). -/
def entryFree (m : Mach) (cl e : Nat) : Bool :=
  decide ((m.entriesOf cl).length < 16384) && decide (((m.entriesOf cl).filter fun r => r.entry == some e).length < 1024)

def addReq (m : Mach) (r : PoolReq) : Mach := m.setMem { m.mem with reqs := m.mem.reqs ++ [r] }
def removeReq (m : Mach) (id : Nat) : Mach := m.setMem { m.mem with reqs := m.mem.reqs.filter fun r => r.id != id }

/-- Remove a finished request and answer it (R94, R352, R359). -/
def finishReq (m : Mach) (r : PoolReq) : Mach :=
  let m := m.removeReq r.id
  let p := r.pkt
  if p.opcode = Op.read then
    let data := ((r.data.mergeSort fun a b => a.1 ≤ b.1).map (·.2)).flatten
    (m.readSegments .sx p r.badSeg (m.svcEcho r.home) data).foldl (fun m x => m.svcAnswer r.home r.port x) m
  else if r.poisoned then m.svcNack r.home r.port p Status.poisoned
  else if p.opcode = Op.atomic then m.svcReply r.home r.port p Op.atomicData r.prior
  else if p.opcode = Op.atomicPosted then m.svcReply r.home r.port p Op.atomicAck []
  else m.svcReply r.home r.port p Op.writeAck []

/-- A request has its place at the unit: a sync-object operation is performed, a pool request has its parts issued. -/
def serveReq (m : Mach) (id port cl : Nat) (map : Option PoolMap) (p : Packet) : Mach :=
  let back := m.heldBack id p
  match map with
  | none =>
    if back then m.addReq { id := id, pkt := p, port := port, home := cl, map := none, entry := entryOf none p }
    else m.syncDo port p
  | some r =>
    let q : PoolReq := { id := id, pkt := p, port := port, home := cl, map := some r, parts := partsOf r p,
                         entry := entryOf (some r) p }
    if q.parts = [] ∧ !back then m.finishReq q else m.addReq q

/-- The status with which a memory service refuses a request outright (R85, R93, R145). -/
def svcRefusal (m : Mach) (map : Option PoolMap) (p : Packet) : Option Nat :=
  match map with
  | none => m.syncRefusal p
  | some _ =>
    if p.poison = 1 then some Status.poisoned
    else if isAtomic p.opcode ∧ p.offset % atomicWidth p.modifier ≠ 0 then some Status.misaligned
    else none

/-- Whether a request must park (R152). -/
def mustPark (m : Mach) (cl : Nat) (map : Option PoolMap) (p : Packet) : Bool :=
  match entryOf map p with
  | some e => !m.entryFree cl e
  | none => false

/-- A request reaches the memory service of cluster `cl`; `h` is its place in the pool when it crossed the switch. -/
def svcArrive (m : Mach) (port cl : Nat) (map : Option PoolMap) (p : Packet) (h : Option Held) : Mach :=
  let gone := fun (m : Mach) => match h with | some h => m.removeHeld h.id | none => m
  match m.svcRefusal map p with
  | some st => (gone m).svcNack cl port p st
  | none =>
    let id := m.mem.nextReq
    let m := m.setMem { m.mem with nextReq := id + 1 }
    if m.mustPark cl map p then
      let m := m.bump .sx (Pg.cluster cl) R.cluAtomParkCnt
      match h with
      | some h => m.updHeld h.id fun h => { h with parked := some id }
      | none =>
        m.push p port (162 + cl) fun h =>
          { h with part := .shared, formed := h.gran, released := h.gran, parked := some id, pool := map }
    else (gone m).serveReq id port cl map p

/-- A packet wholly at its output (R208). -/
def heldWhole (h : Held) : Bool :=
  h.released == h.gran && (h.part == .guaranteed || h.part == .shared || (h.part == .lining && h.staging == 2))

/-- The packet of a command, waiting at an internal target from `lo` on. -/
def findAt (m : Mach) (lo hi : Nat) (p : Packet) : Option Held :=
  m.held.find? fun h => h.pkt == p && decide (lo ≤ h.output ∧ h.output < hi) && h.parked.isNone

/-- A request to space 0b00 or 0b01 of the SX-4 is served: taken from the switch when it waits there, else as it comes at
`port` (R32, R156, R351). -/
def memoryRequest (m : Mach) (port : Nat) (p : Packet) : Mach :=
  match m.findAt 162 168 p with
  | some h => if heldWhole h then m.svcArrive h.input (h.output - 162) h.pool p (some h) else m
  | none =>
    if m.shedLevel = 4 then m.nackAt port Status.refusedShed p
    else if p.addrSpace = 1 then m.svcArrive port (objCluster (p.offset / 8)) none p none
    else if p.opcode = Op.syncWait then m.pushExempt (m.response .sx p Op.nack Status.accessDenied 0 0 0 []) 170 port
    else
      match m.mapPool p with
      | some r => m.svcArrive port (r.locate p.offset).1 (some r) p none
      | none => m.pushExempt (m.response .sx p Op.nack Status.badAddress 0 0 0 []) 170 port

/-- A freed entry goes to the oldest parked request whose bank or line and unit are below their limits (R152). -/
def resumeParked (m : Mach) (cl : Nat) : Mach :=
  let older := fun (a : Option (Nat × Held)) (h : Held) =>
    match h.parked, a with
    | some n, some (k, _) => if n < k then some (n, h) else a
    | some n, none => some (n, h)
    | none, _ => a
  let free := m.held.filter fun h => h.output == 162 + cl && h.parked.isSome && !m.mustPark cl h.pool h.pkt
  match free.foldl older none with
  | some (id, h) => (m.removeHeld h.id).serveReq id h.input cl h.pool h.pkt
  | none => m

/-! ## Errors of the stacks (R358, R359, R361) -/

/-- Count corrected errors of a stack; HBM_CE_RATE once in an interval. -/
def countCe (m : Mach) (s n : Nat) : Mach :=
  let old := Tbl.get (fun _ => 0) m.mem.ceCount s
  let m := m.bumpBy .sx (Pg.cluster s) R.cluHbmCeCnt n
  let m := m.setMem { m.mem with ceCount := Tbl.set (fun _ => 0) m.mem.ceCount s (old + n) }
  let lim := m.fld .sx (Pg.cluster s) F.cluScrubCtrl_ceLimit
  if old ≤ lim ∧ lim < old + n then m.raise .sx (Pg.cluster s) 5 0 else m

/-- An access reads an uncorrectable word. -/
def countUe (m : Mach) (w : Nat) : Mach :=
  let s := w / 2 ^ 35
  (m.bump .sx (Pg.cluster s) R.cluHbmUeCnt).raise .sx (Pg.cluster s) 4 (w % 2 ^ 35)

def isBad (m : Mach) (w : Nat) : Bool := m.mem.bad.contains w
def markBad (m : Mach) (w : Nat) : Mach := if m.isBad w then m else m.setMem { m.mem with bad := w :: m.mem.bad }
def clearBad (m : Mach) (w : Nat) : Mach := m.setMem { m.mem with bad := m.mem.bad.filter (· != w) }

/-- Read one word's bytes from `lo` to below `hi`; the bytes of an uncorrectable word are open. -/
def readWord (hbm : Mem) (m : Mach) (w lo hi : Nat) : List Byte × Mach :=
  if m.isBad w then
    let (v, m) := m.fresh 256
    (((leBytes 32 v.toNat).drop (lo - 32 * w)).take (hi - lo), m)
  else (Mem.readN hbm lo (hi - lo), m)

/-- A read takes a part from its stack. -/
def partRead (hbm : Mem) (m : Mach) (r : PoolReq) (pt : PoolPart) : PoolReq × Mach :=
  let base := hbmKey pt.stack pt.addr
  (wordsIn base pt.len).foldl
    (fun (a : PoolReq × Mach) w =>
      let lo := max base (32 * w)
      let hi := min (base + pt.len) (32 * w + 32)
      let off := pt.off + (lo - base)
      let bad := a.2.isBad w
      let (bs, m) := readWord hbm a.2 w lo hi
      let m := if bad then m.countUe w else m
      ({ a.1 with
          data := a.1.data ++ [(off, bs)],
          badSeg := if bad then off / 4096 * 4096 :: (off + (hi - lo) - 1) / 4096 * 4096 :: a.1.badSeg else a.1.badSeg
          poisoned := a.1.poisoned || bad }, m))
    (r, m)

/-- A write applies a part to its stack, word by word (R359). -/
def partWrite (hbm : Mem) (m : Mach) (r : PoolReq) (pt : PoolPart) : Mem × PoolReq × Mach :=
  let base := hbmKey pt.stack pt.addr
  (wordsIn base pt.len).foldl
    (fun (a : Mem × PoolReq × Mach) w =>
      let lo := max base (32 * w)
      let hi := min (base + pt.len) (32 * w + 32)
      let bs := (r.pkt.payload.drop (pt.off + (lo - base))).take (hi - lo)
      if hi - lo = 32 then (Mem.writeN a.1 lo bs, a.2.1, a.2.2.clearBad w)
      else if a.2.2.isBad w then (a.1, { a.2.1 with poisoned := true }, a.2.2.countUe w)
      else (Mem.writeN a.1 lo bs, a.2.1, a.2.2))
    (hbm, r, m)

/-- An atomic is executed in its cluster (R133, R155). -/
def partAtomic (hbm : Mem) (m : Mach) (r : PoolReq) (pt : PoolPart) : Mem × PoolReq × Mach :=
  let base := hbmKey pt.stack pt.addr
  if m.isBad (base / 32) then (hbm, { r with poisoned := true }, m.countUe (base / 32))
  else
    let old := Mem.readN hbm base pt.len
    (Mem.writeN hbm base (atomicBytes r.pkt.modifier old r.pkt.payload), { r with prior := old },
      m.bump .sx (Pg.cluster pt.stack) R.cluAtomPoolCnt)

/-- The words of a part that the access reads: all of a read or an atomic, the partly covered ones of a write. -/
def wordsRead (r : PoolReq) (pt : PoolPart) : List Nat :=
  let base := hbmKey pt.stack pt.addr
  (wordsIn base pt.len).filter fun w =>
    !(r.pkt.opcode == Op.write || r.pkt.opcode == Op.flagWrite)
      || decide (32 * w < base) || decide (base + pt.len < 32 * w + 32)

/-- Apply or read one part; `ce` and `ue` number, from the part's first word, the words in which it meets a correctable or
an uncorrectable error. -/
def partAccess (hbm : Mem) (m : Mach) (r : PoolReq) (pt : PoolPart) (ce ue : List Nat) : Mem × PoolReq × Mach :=
  let w0 := hbmKey pt.stack pt.addr / 32
  let rd := wordsRead r pt
  let m := m.countCe pt.stack (rd.filter fun w => ce.contains (w - w0)).length
  let m := (rd.filter fun w => ue.contains (w - w0)).foldl markBad m
  let hit := rd.any m.isBad
  let (hbm, r, m) :=
    if r.pkt.opcode = Op.read then
      let (r, m) := partRead hbm m r pt
      (hbm, r, m)
    else if isAtomic r.pkt.opcode then partAtomic hbm m r pt
    else partWrite hbm m r pt
  match hit, r.map with
  | true, some p => (hbm, r, m.pfaultKeys [p.pkey] Reason.dataPoisoned)
  | _, _ => (hbm, r, m)

def updReq (m : Mach) (r : PoolReq) : Mach :=
  m.setMem { m.mem with reqs := m.mem.reqs.map fun q => if q.id = r.id then r else q }

/-- A request with one more part ended: answered when it was the last (R352). -/
def partEnded (m : Mach) (r : PoolReq) : Mach :=
  if r.parts.all (·.done) then m.finishReq r else m.updReq r

def donePart (r : PoolReq) (k : Nat) : PoolReq :=
  { r with parts := r.parts.mapIdx fun i p => if i = k then { p with done := true } else p }

/-- A part of a pool request is applied or read, or a held operation runs at last. -/
def poolPartDone (s : Store) (m : Mach) (rid part : Nat) (ce ue : List Nat) : Store × Mach :=
  match m.mem.reqs.find? fun r => r.id == rid with
  | none => (s, m)
  | some r =>
    if m.heldBack r.id r.pkt then (s, m)
    else
      match r.map, r.parts with
      | none, _ => (s, (m.removeReq r.id).syncDo r.port r.pkt)
      | some _, [] => (s, m.finishReq r)
      | some _, ps =>
        match ps[part]? with
        | none => (s, m)
        | some pt =>
          if pt.done then (s, m)
          else
            let (hbm, r, m) := partAccess s.hbm m r pt ce ue
            ({ s with hbm := hbm }, m.partEnded (donePart r part))

/-! ## Scrub (R360, R361) -/

/-- Units of the pool area of a stack (R346). -/
def poolUnits (m : Mach) (s : Nat) : Nat :=
  768 - m.fld .sx (Pg.cluster s) F.cluHbmLayout_liningUnits - m.fld .sx (Pg.cluster s) F.cluHbmLayout_spillUnits

/-- The serving region that holds a word of a stack. -/
def regionAt (m : Mach) (s addr : Nat) : Option Nat :=
  (List.range 64).find? fun r =>
    let b := m.rg r F.region_stkBase * 2 ^ 26
    m.rg r F.region_valid == 1 && m.regionState r == 2 && (stacksOf (m.rg r F.region_stackMask)).contains s
      && decide (b ≤ addr ∧ addr < b + m.rg r F.region_perStack * 2 ^ 26)

/-- The scrubber reads its next word: 0 good, 1 corrected and rewritten, 2 uncorrectable (R360). -/
def scrubRead (m : Mach) (s outcome : Nat) : Mach :=
  let total := m.poolUnits s * 2 ^ 21
  if !m.bit .sx (Pg.cluster s) F.cluScrubCtrl_scrubEn ∨ m.shedLevel ≠ 0 ∨ m.mem.retired.contains s ∨ m.mem.selfRefresh
      ∨ total = 0 then m
  else
    let p := Tbl.get (fun _ => 0) m.mem.scrubAt s
    let a := if p < total then p else 0
    let w := s * 2 ^ 35 + a
    let m :=
      if outcome = 2 ∨ m.isBad w then
        let m := (m.markBad w).countUe w
        match m.regionAt s (32 * a) with
        | some r => m.pfaultKeys [m.rg r F.region_pkey] Reason.dataPoisoned
        | none => m
      else if outcome = 1 then m.countCe s 1
      else m
    let m := m.setMem { m.mem with scrubAt := Tbl.set (fun _ => 0) m.mem.scrubAt s ((a + 1) % total) }
    if a + 1 = total then m.bump .sx (Pg.cluster s) R.cluScrubPassCnt else m

/-! ## Regions (R350, R353, R354) -/

/-- Whether two stretches overlap. -/
def overlap (a la b lb : Nat) : Bool := decide (a < b + lb) && decide (b < a + la)

/-- The lowest rejection code of R350 that a region's words meet, judged against the other live regions; 0 for none. -/
def regionCode (m : Mach) (r : Nat) : Nat :=
  let f := fun (i : Nat) (x : Fld) => m.rg i x
  let ss := stacksOf (f r F.region_stackMask)
  let others := (List.range 64).filter fun i => i != r && f i F.region_valid == 1
  if f r F.region_valid = 0 then 0
  else if ss = [] ∨ ss.any m.mem.retired.contains then 1
  else if f r F.region_perStack = 0
      ∨ ss.any (fun s => decide (m.poolUnits s < f r F.region_stkBase + f r F.region_perStack)) then 2
  else if f r F.region_pkey = 0 ∨ f r F.region_pkey = 0xFFFF then 3
  else if 2 ^ 52 < f r F.region_fabBase * 2 ^ 26 + m.regionBytes r
      ∨ others.any (fun i =>
        overlap (f r F.region_fabBase * 2 ^ 26) (m.regionBytes r) (f i F.region_fabBase * 2 ^ 26) (m.regionBytes i)) then 4
  else if others.any (fun i =>
      (ss.any (stacksOf (f i F.region_stackMask)).contains)
        && overlap (f r F.region_stkBase) (f r F.region_perStack) (f i F.region_stkBase) (f i F.region_perStack)) then 5
  else 0

/-- A region is refused (R350). -/
def regionRejected (m : Mach) (r code : Nat) : Mach :=
  (m.setReg .sx Pg.chip R.chpPoolErr (r % 64 + code * 64)).raise .sx Pg.chip 2 (r % 64 + code * 64)

/-- Requests that R351 mapped to a region and that are not answered. -/
def mappedTo (m : Mach) (r : Nat) : Bool :=
  let of := fun (p : Option PoolMap) => match p with | some p => p.region == r | none => false
  (m.mem.reqs.any fun q => of q.map) || (m.held.any fun h => of h.pool)

def setRegionState (m : Mach) (r st : Nat) : Mach := m.setTWord .sx Pg.chip 4 r st

/-- A commit has changed a region (R353, R354): `old` is the machine before it. -/
def regionChanged (m old : Mach) (r : Nat) : Mach :=
  let same := [F.region_pkey, F.region_stackMask, F.region_fabBase, F.region_stkBase, F.region_perStack].all fun f =>
    m.rg r f == old.rg r f
  let was := old.rg r F.region_valid == 1
  let is := m.rg r F.region_valid == 1
  if was && is && same && old.regionState r != 3 then m
  else
    let m := if was && m.mappedTo r then m.pfaultKeys [old.rg r F.region_pkey] Reason.regionChanged else m
    m.setRegionState r (if is then 1 else 0)

/-- Bytes of a region's extent (R353). -/
def inExtent (m : Mach) (r key : Nat) : Bool :=
  let b := m.rg r F.region_stkBase * 2 ^ 26
  let a := key % 2 ^ 40
  (stacksOf (m.rg r F.region_stackMask)).contains (key / 2 ^ 40)
    && decide (b ≤ a ∧ a < b + m.rg r F.region_perStack * 2 ^ 26)

/-- Zeroing of a region is done (R353): it waits for the requests of the old mapping (R354) and for leaving level 4 (R356). -/
def zeroingDone (s : Store) (m : Mach) (r : Nat) : Store × Mach :=
  if m.regionState r ≠ 1 ∨ m.mappedTo r ∨ m.shedLevel = 4 then (s, m)
  else
    ({ s with hbm := s.hbm.filter fun e => !m.inExtent r e.1 },
     (m.setMem { m.mem with bad := m.mem.bad.filter fun w => !m.inExtent r (32 * w) }).setRegionState r 2)

/-! ## Layout and shares (R348, R355) -/

/-- Whether a new CLU_HBM_LAYOUT may be applied: `lin` and `sp` are its units. -/
def layoutOk (m : Mach) (cl lin sp : Nat) : Bool :=
  let f := fun x => m.fld .sx (Pg.cluster cl) x
  m.mem.retired.contains cl
    || (decide (lin + sp ≤ 768)
      && !((List.range 64).any fun r =>
          m.rg r F.region_valid == 1 && (stacksOf (m.rg r F.region_stackMask)).contains cl
            && decide (768 - lin - sp < m.rg r F.region_stkBase + m.rg r F.region_perStack))
      && (f F.cluHbmLayout_liningUnits == lin || m.liningUsed cl == 0)
      && (f F.cluHbmLayout_spillUnits == sp
        || !(m.plt.chunks.any fun c => clusterOfTile c.tile == cl && c.spill != 0)))

/-- Whether a new CLU_HBM_SHARE may be applied (R355). -/
def shareOk (w : Nat) : Bool := decide (bitsOf w 0 7 + bitsOf w 7 7 + bitsOf w 14 7 + bitsOf w 21 7 ≤ 99)

/-! ## Retirement of a stack (R362, R363) -/

/-- Accesses in flight to a stack end POISONED. -/
def endAccesses (m : Mach) (s : Nat) : Mach :=
  (m.mem.reqs.filter fun r => r.parts.any fun p => p.stack == s && !p.done).foldl
    (fun m r =>
      let gone := r.parts.filter fun p => p.stack == s && !p.done
      let (r, m) := gone.foldl
        (fun (a : PoolReq × Mach) p =>
          let (v, m) := a.2.fresh (8 * p.len)
          ({ a.1 with
              data := a.1.data ++ [(p.off, leBytes p.len v.toNat)]
              badSeg := p.off / 4096 * 4096 :: (p.off + p.len - 1) / 4096 * 4096 :: a.1.badSeg }, m))
        (r, m)
      m.partEnded { r with
        poisoned := true, parts := r.parts.map fun p => if p.stack = s then { p with done := true } else p })
    m

/-- Lining packets of a cluster whose stack is gone. -/
def dropLining (m : Mach) (s : Nat) : Mach :=
  let gone := m.held.filter fun h => h.part == .lining && h.staging != 2 && h.acct.1 == s
  let m := gone.foldl (fun m h => (m.dropHeld h).bump .sx (Pg.cluster s) R.cluRetireDiscardCnt) m
  m.pfaultKeys (gone.map Held.key) Reason.packetLost

/-- Regions that a retired stack takes with it. -/
def loseRegions (m : Mach) (s : Nat) : Mach :=
  let rs := (List.range 64).filter fun r =>
    m.rg r F.region_valid == 1 && (stacksOf (m.rg r F.region_stackMask)).contains s && m.regionState r != 3
  rs.foldl (fun m r => (m.setRegionState r 3).pfaultKeys [m.rg r F.region_pkey] Reason.regionChanged) m

/-- Groups that a retired stack faults. -/
def loseChunks (m : Mach) (s : Nat) : Mach :=
  let spilled := (m.plt.chunks.filter fun c => clusterOfTile c.tile == s && c.spill != 0).map Chunk.gk
  let wide := (m.plt.groups.map (·.1)).filter fun g =>
    ((m.grp g).resident || (m.grp g).leaving) && decide (24576 < (m.charge g s).2)
  (spilled ++ wide).eraseDups.foldl (fun m g => m.pleatFault g Reason.poison) m

/-- Trace records of the stacks that enter (2) or leave (3) self-refresh (R608). -/
def refreshTrace (m : Mach) (type : Nat) : Mach :=
  ((List.range 6).filter fun s => !m.mem.retired.contains s).foldl (fun (m : Mach) s => m.trace (Pg.cluster s) type 0 0) m

/-- Retire a stack. -/
def retireStack (m : Mach) (s : Nat) : Mach :=
  if m.mem.retired.contains s then m
  else
    let k := item Pg.chip 0 R.chpStackRetire
    let bit : Word := BitVec.ofNat 32 (2 ^ s)
    let m := (m.setLive .sx k (m.liveCopy .sx k ||| bit)).setShadow .sx k (m.shadow .sx k ||| bit)
    let m := m.endAccesses s
    let m := ((m.loseRegions s).dropLining s).loseChunks s
    let m := m.setMem { m.mem with retired := s :: m.mem.retired, failing := m.mem.failing.filter (· != s) }
    m.raise .sx Pg.chip 3 s

end Mach

/-! ## Meanings -/

/-- SYNC_WAIT_EXPIRY (R148): recorded waits whose limit has passed are answered with the current value. -/
def execSyncWaitExpiry (s : State) : Host.Outcome State Fault Refusal :=
  s.go fun m => m.expireWaits fun w => w.limit != 0 && decide (w.at_ + w.limit ≤ m.time.number)

/-- PARKED_REQUEST_RESUME (R152): a freed entry goes to the oldest parked request that it can serve. -/
def execParkedRequestResume (cluster : Nat) (s : State) : Host.Outcome State Fault Refusal :=
  State.unit (decide (cluster < 6)) <| s.go fun m => m.resumeParked cluster

/-- POOL_PART_DONE (R352, R355, R358, R359): a part of a pool request is applied or read in its stack; the home cluster
responds when it was the last. -/
def execPoolPartDone (rid part : Nat) (corrected lost : List Nat) (s : State) : Host.Outcome State Fault Refusal :=
  s.goS fun x => Mach.poolPartDone x.1 x.2 rid part corrected lost

/-- SCRUB_READ (R360): the scrubber of a stack reads its next pool word. -/
def execScrubRead (stack outcome : Nat) (s : State) : Host.Outcome State Fault Refusal :=
  State.unit (decide (stack < 6)) <| s.go fun m => m.scrubRead stack outcome

/-- HBM_CE_INTERVAL (R361): an interval of 2^21 stitches ends and its count begins again. -/
def execHbmCeInterval (stack : Nat) (s : State) : Host.Outcome State Fault Refusal :=
  State.unit (decide (stack < 6)) <| s.go fun m =>
    m.setMem { m.mem with ceCount := Tbl.set (fun _ => 0) m.mem.ceCount stack 0 }

/-- REGION_ZEROING_DONE (R353, R354): a region whose extent has been zeroed begins to serve. -/
def execRegionZeroingDone (region : Nat) (s : State) : Host.Outcome State Fault Refusal :=
  State.unit (decide (region < 64)) <| s.goS fun x => Mach.zeroingDone x.1 x.2 region

/-- SELF_REFRESH_ENTRY (R356): at shed level 4, once the accesses in flight have completed, the stacks enter self-refresh. -/
def execSelfRefreshEntry (s : State) : Host.Outcome State Fault Refusal :=
  s.go fun m =>
    if m.shedLevel = 4 ∧ !m.mem.selfRefresh ∧ !(m.mem.reqs.any fun r => r.map.isSome) then
      (m.setMem { m.mem with selfRefresh := true }).refreshTrace 2
    else m

end Sys2Proof.Machine
end

