-- ==== Sys2Proof/Machine/Endpoint.lean ====
section
/-! DEFINITION. The EP-4 as a node of the fabric (chapter "EP-4 end-point block"): bindings and planes (R372 to R376), its
slots and tags as counts (R417, R421), the rate controller (R225 to R230), Zelry at the EP-4 (R237, R238), its transmit
queue, partition faults (R426, R427), the memory port (R379 to R384) and the requests it serves (R386 to R390). -/

namespace Sys2Proof.Machine
open Sys2Proof

/-! ## Status codes (R423) -/

namespace Done
def nack : Nat := 1
def priorFailed : Nat := 2
def rbFull : Nat := 3
def waitExpired : Nat := 4
def noPlane : Nat := 5
def poisoned : Nat := 6
def badLocal : Nat := 7
def noHost : Nat := 8
def aborted : Nat := 9
def cuffMissed : Nat := 10
def notLocked : Nat := 11
def badDesc : Nat := 12
def hostError : Nat := 13
def authFailed : Nat := 14
end Done

/-- The header with another VC. -/
def pktOnVc (p : Packet) (vc : Nat) : Packet :=
  { p with hdr := (p.hdr &&& ~~~(BitVec.ofNat 256 (7 * 2 ^ 8))) ||| BitVec.ofNat 256 (vc % 8 * 2 ^ 8) }

/-- Pieces of a stretch of local memory that cross no 4,096-byte boundary (R380): offset, length. -/
def mpPieces (addr len : Nat) : Nat → Nat → List (Nat × Nat)
  | 0, _ => []
  | n + 1, off =>
    if len ≤ off then []
    else
      let k := min (4096 - (addr + off) % 4096) (len - off)
      (off, k) :: mpPieces addr len n (off + k)

def localPieces (addr len : Nat) : List (Nat × Nat) := mpPieces addr len (len / 4096 + 2) 0

namespace Slot

/-- The recorded status (R421). -/
def status (s : Slot) : Nat :=
  if s.aborted then Done.aborted else if s.poisoned then Done.poisoned else if s.nacked.isSome then Done.nack
  else if s.priorFailed then Done.priorFailed else s.other

def w (s : Slot) (i : Nat) : Nat := s.words.getD i 0
def op (s : Slot) : Nat := bitsOf (s.w 0) 0 8
def cq (s : Slot) : Bool := bitsOf (s.w 0) 8 1 == 1
def irq (s : Slot) : Bool := bitsOf (s.w 0) 9 1 == 1
def flag (s : Slot) : Bool := bitsOf (s.w 0) 10 1 == 1
def srcSpace (s : Slot) : Nat := bitsOf (s.w 0) 11 1
def dstSpace (s : Slot) : Nat := bitsOf (s.w 0) 12 1
def stream (s : Slot) : Nat := bitsOf (s.w 0) 16 6
def modifier (s : Slot) : Nat := bitsOf (s.w 0) 24 8
def len (s : Slot) : Nat := bitsOf (s.w 0) 32 32

end Slot

namespace Mach

def setEp (m : Mach) (e : EpSt) : Mach := { m with ep := e }

/-! ## Bindings (R399, R430, R440) -/

def engCtx (m : Mach) (e : Nat) : Option Nat :=
  if m.bit .ep (Pg.eng e) F.ep4EngBind_bound then some (m.fld .ep (Pg.eng e) F.ep4EngBind_context) else none

def ctxCount (m : Mach) : Nat := 16 * m.epParams.ctx16
def ebindF (m : Mach) (c : Nat) (f : Fld) : Nat := m.tfld .ep Pg.eMp 3 4 c f
def epBound (m : Mach) (c : Nat) : Bool := decide (c < m.ctxCount) && m.ebindF c F.ebind_bound == 1
def epConf (m : Mach) (c : Nat) : Bool := m.ebindF c F.ebind_confidential == 1
def epKey (m : Mach) (c : Nat) : Nat := m.ebindF c F.ebind_pkey

/-- Fault state of a context: 0 ready, 1 aborting, 2 faulted (R427). -/
def ctxFault (m : Mach) (c : Nat) : Nat := m.fld .ep (Pg.ctx c) F.ep4CtxFault_state

/-- Confidential state of a context: 0 plain, 1 unkeyed, 2 keyed, 3 torn (R462). -/
def ctxConf (m : Mach) (c : Nat) : Nat := m.fld .ep (Pg.ctx c) F.ep4CtxConf_state
def ctxScrubbing (m : Mach) (c : Nat) : Bool := m.bit .ep (Pg.ctx c) F.ep4CtxConf_scrubbing

/-! ## Planes and pins (R374, R375) -/

/-- The port that serves a plane (R374). -/
def planePort (m : Mach) (j : Nat) : Option Nat :=
  (List.range m.epParams.ports).find? fun p => m.isUp .ep p && decide (1 ≤ (m.lk .ep p).step) && m.planeOfPort p == j

def servedPlanes (m : Mach) : List Nat := (List.range 16).filter fun j => (m.planePort j).isSome

/-- Candidate planes of a destination. -/
def candidates (m : Mach) (d : Nat) : List Nat :=
  if 960 ≤ d ∧ d ≤ 975 then m.servedPlanes.filter (· == d - 960)
  else m.servedPlanes.filter fun j => bitsOf (m.lookup .ep Pg.eId 1 d F.reach_mask) j 1 == 1

/-- The mix of R375. -/
def pinMix (seed d s : Nat) : Nat := ((seed ^^^ (d * 64) ^^^ s) % 65536) * 0x6D2B % 65536 / 256

/-- Tags in use or quarantined. -/
def tagList (m : Mach) : List (Nat × TagSt) := m.ep.tags.filterMap fun e => e.2.map fun t => (e.1, t)
def tagOf (m : Mach) (t : Nat) : Option TagSt := Tbl.get (fun _ => none) m.ep.tags t
def setTag (m : Mach) (t : Nat) (x : Option TagSt) : Mach :=
  m.setEp { m.ep with tags := Tbl.set (fun _ => none) m.ep.tags t x }

/-- Stores of a source and destination that are outstanding (R108). -/
def openStores (m : Mach) (e s d : Nat) : List (Nat × TagSt) :=
  m.tagList.filter fun t =>
    t.2.engine == e && t.2.stream == s && t.2.dst == d && isStore t.2.op && !t.2.answered && t.2.quarantine.isNone

/-- The pinned plane of an ordered stream (R375); none where no candidate is served. -/
def pinPlane (m : Mach) (e s d : Nat) : Option Nat :=
  match m.openStores e s d with
  | t :: _ => some t.2.plane
  | [] =>
    let cands := m.candidates d
    cands[pinMix (m.fld .ep Pg.eId F.ep4PinSeed_seed) d s * cands.length / 256]?

/-! ## Slots (R417, R421) -/

def findSlot (m : Mach) (e n : Nat) : Option Slot := m.ep.slots.find? fun s => s.engine == e && s.num == n

def updSlot (m : Mach) (e n : Nat) (f : Slot → Slot) : Mach :=
  m.setEp { m.ep with slots := m.ep.slots.map fun s => if s.engine = e ∧ s.num = n then f s else s }

def removeSlot (m : Mach) (e n : Nat) : Mach :=
  m.setEp { m.ep with slots := m.ep.slots.filter fun s => !(s.engine == e && s.num == n) }

/-- A descriptor completes: counted, and its slot freed when no record is due (R417). -/
def finishSlot (m : Mach) (s : Slot) : Mach :=
  let m := m.updSlot s.engine s.num fun s => { s with complete := true, done := true }
  let pg := Pg.eng s.engine
  let m := m.bump .ep pg R.ep4EngDescCnt
  let st := s.status
  let m := if st = Done.nack then m.bump .ep pg R.ep4EngNackCnt
    else if st = Done.aborted then m.bump .ep pg R.ep4EngAbortCnt
    else if st = Done.badDesc then m.bump .ep pg R.ep4EngBaddescCnt else m
  if st = 0 ∧ !s.cq then m.removeSlot s.engine s.num else m

/-- A descriptor that has nothing left to issue or to wait for completes; an abort ends in its own step (R427). -/
def settle (m : Mach) (e n : Nat) : Mach :=
  match m.findSlot e n with
  | some s => if s.begun && s.allIssued && s.packets == 0 && s.access == 0 && !s.done && !s.aborted then m.finishSlot s else m
  | none => m

/-- Change a slot and complete it if that was its last step. -/
def slotDo (m : Mach) (e n : Nat) (f : Slot → Slot) : Mach := (m.updSlot e n f).settle e n

/-! ## The rate controller (R225 to R230) -/

/-- r_max of a port with 8 fraction bits (R226). -/
def rMax (m : Mach) (p : Nat) : Nat := (m.lk .ep p).rate * 1000

def rateOf (m : Mach) (vc node plane : Nat) : Option RateEntry :=
  m.ep.rates.find? fun e => e.vc == vc && e.node == node && e.plane == plane

def setRates (m : Mach) (rs : List RateEntry) : Mach :=
  ({ m with ep := { m.ep with rates := rs } } : Mach).setFld .ep Pg.eRc F.ep4RcStatus_entries rs.length

def bucketDepth (r : Nat) : Nat := max (258 * 256) (2 * r)

/-- The table with room for one more entry: the entry of highest r is replaced when all are in use (R226). -/
def rateRoom (m : Mach) : Mach :=
  if m.ep.rates.length < 64 * m.epParams.rc64 then m
  else
    let top := m.ep.rates.foldl (fun a e => max a e.r) 0
    let i := m.ep.rates.findIdx fun e => e.r == top
    (m.setRates (m.ep.rates.eraseIdx i)).bump .ep Pg.eRc R.ep4RcEvict

/-- Count a response or VC2 packet for an entry; a mark creates the entry (R226, R227). -/
def rateCount (m : Mach) (port vc node plane : Nat) (marked : Bool) : Mach :=
  let add := fun (e : RateEntry) => { e with n := e.n + 1, m := if marked then e.m + 1 else e.m }
  match m.rateOf vc node plane with
  | some _ =>
    m.setRates (m.ep.rates.map fun e => if e.vc = vc ∧ e.node = node ∧ e.plane = plane then add e else e)
  | none =>
    if !marked then m
    else
      let m := m.rateRoom
      let r := m.rMax port
      m.setRates (m.ep.rates ++ [add { vc := vc, node := node, plane := plane, r := r, t := r, tokens := bucketDepth r }])

/-- One entry's update (R228), r_max and the parameters given. -/
def rateStep (rmax g fr ai rmin : Nat) (e : RateEntry) : RateEntry :=
  let e :=
    if e.n = 0 then e
    else
      let f := e.m * 65536 / e.n
      let a := if e.a ≤ f then e.a + (f - e.a) / 2 ^ g else e.a - (e.a - f) / 2 ^ g
      if 0 < e.m then
        { e with a := a, t := e.r, r := max (min rmin rmax) (e.r * (131072 - a) / 131072), inc := 0 }
      else
        let t := if fr < e.inc + 1 then min rmax (e.t + ai) else e.t
        { e with a := a, inc := e.inc + 1, t := t, r := (e.r + t) / 2 }
  { e with quiet := if 0 < e.m then 0 else e.quiet + 1, m := 0, n := 0 }

/-- The update of every entry (R228), and the freeing of quiet ones (R226). -/
def rateUpdate (m : Mach) : Mach :=
  let c := fun x => m.fld .ep Pg.eRc x
  let g := min (max (c F.ep4RcCtrl_gShift) 1) 8
  let ai := 256 * min (max (c F.ep4RcRate_rAi) 1) 1024
  let rmin := 256 * min (max (c F.ep4RcRate_rMin) 1) 1024
  let rmaxOf := fun (e : RateEntry) => match m.planePort e.plane with | some p => m.rMax p | none => 0
  let es := m.ep.rates.map fun e => rateStep (rmaxOf e) g (c F.ep4RcCtrl_frSteps) ai rmin e
  m.setRates (es.filter fun e => !(decide (64 ≤ e.quiet) && decide (rmaxOf e ≤ e.r + 256)))

/-- u_period (R396). -/
def uPeriod (m : Mach) : Nat :=
  let u := m.fld .ep Pg.eRc F.ep4RcCtrl_uPeriod
  if u = 0 then 64 else u

/-- Cycle 0 of a stitch: every bucket gains r (R229). -/
def rateRefill (m : Mach) : Mach :=
  m.setRates (m.ep.rates.map fun e => { e with tokens := min (bucketDepth e.r) (e.tokens + e.r) })

/-- A port retrains or changes width: the entries of its plane are deleted (R230). -/
def rateForget (m : Mach) (plane : Nat) : Mach := m.setRates (m.ep.rates.filter fun e => e.plane != plane)

def rateAllows (m : Mach) (vc node plane gran : Nat) : Bool :=
  match m.rateOf vc node plane with
  | some e => decide (256 * gran ≤ e.tokens)
  | none => true

def rateTake (m : Mach) (vc node plane gran : Nat) : Mach :=
  m.setRates (m.ep.rates.map fun e =>
    if e.vc = vc ∧ e.node = node ∧ e.plane = plane then { e with tokens := e.tokens - 256 * gran } else e)

/-! ## Zelry at the EP-4 (R237, R238) -/

def epZlyOn (m : Mach) : Bool := m.seenFld .ep Pg.eId F.ep4ZlyCtrl_en != 0
def epTimed (m : Mach) : Bool := m.epTime.st == .locked || m.epTime.st == .holdover
def epPlanP (m : Mach) (p : Nat) : Nat := max (m.lookup .ep (Pg.port p) 1 0 F.plan_period) 1

/-- The slot of the present stitch at a port: number and last stitch. -/
def epSlotNow (m : Mach) (p : Nat) : Option (Nat × Nat) :=
  let n := m.epTime.number
  let phase := n % m.epPlanP p
  (List.range (min (m.lookup .ep (Pg.port p) 1 0 F.plan_slots) 64)).findSome? fun s =>
    let a := m.lookup .ep (Pg.port p) 1 (1 + s) F.slot_start
    let l := m.lookup .ep (Pg.port p) 1 (1 + s) F.slot_length
    if a ≤ phase ∧ phase < a + l then some (s, n - phase + a + l - 1) else none

def epSlotUsed (m : Mach) (p s : Nat) : Nat :=
  if Tbl.get (fun _ => 0) m.ep.zlyPeriod p = m.epTime.number / m.epPlanP p then
    Tbl.get (fun _ => 0) m.ep.zlyUsed (64 * p + s)
  else 0

def epSlotCharge (m : Mach) (p s n : Nat) : Mach :=
  let per := m.epTime.number / m.epPlanP p
  let used := m.epSlotUsed p s + n
  let kept := if Tbl.get (fun _ => 0) m.ep.zlyPeriod p = per then m.ep.zlyUsed
    else m.ep.zlyUsed.filter fun e => e.1 / 64 != p
  m.setEp { m.ep with
    zlyPeriod := Tbl.set (fun _ => 0) m.ep.zlyPeriod p per
    zlyUsed := Tbl.set (fun _ => 0) kept (64 * p + s) used }

/-- The slot that admits a packet of `gran` granules to `dst` at a port now; `home` is its home VC, none for ZLY_TEST. -/
def epAdmits (m : Mach) (p dst : Nat) (home : Option Nat) (gran : Nat) : Option Nat :=
  if m.epTime.st ≠ .locked then none
  else
    match m.epSlotNow p with
    | none => none
    | some (s, fin) =>
      let f := fun x => m.lookup .ep (Pg.port p) 1 (65 + s) x
      let maskOk : Bool := match home with | some v => bitsOf (f F.entry_homeMask) v 1 == 1 | none => true
      let now := m.epTime.number * 875 + m.epTime.cycle
      let cut := fin * 875 + 840 - m.lookup .ep (Pg.port p) 1 0 F.plan_guard
      if f F.entry_dst = dst ∧ maskOk ∧ m.epSlotUsed p s + gran ≤ f F.entry_budget
          ∧ now + cyclesFor gran (m.lk .ep p).rate ≤ cut then some s
      else none

/-! ## The transmit queue -/

/-- Send a packet on a port; `own` names the descriptor that its acceptance completes (R120). -/
def epSend (m : Mach) (p : Nat) (pkt : Packet) (own : List Nat) : Mach :=
  let m := m.sendWhole .ep p pkt
  let l := m.lk .ep p
  m.setLk .ep p { l with
    replay := l.replay.mapIdx fun i f => if i + 1 = l.replay.length then { f with own := own } else f }

def pushTx (m : Mach) (x : EpTx) : Mach :=
  m.setEp { m.ep with tx := m.ep.tx ++ [{ x with id := m.ep.nextTx }], nextTx := m.ep.nextTx + 1 }

def removeTx (m : Mach) (id : Nat) : Mach := m.setEp { m.ep with tx := m.ep.tx.filter fun x => x.id != id }

def updTx (m : Mach) (id : Nat) (f : EpTx → EpTx) : Mach :=
  m.setEp { m.ep with tx := m.ep.tx.map fun x => if x.id = id then f x else x }

/-- A store that the flagged ordering holds: itself, or behind one of its source and destination (R122, R124). -/
def txHeldStore (m : Mach) (x : EpTx) : Bool :=
  isStore x.pkt.opcode
    && (x.held
      || (x.pkt.stream != 63 && m.ep.tx.any fun y =>
        decide (y.id < x.id) && y.held && y.pkt.stream == x.pkt.stream && y.pkt.dst == x.pkt.dst
          && y.owner.map (·.1) == x.owner.map (·.1)))

/-- Whether an earlier waiting packet keeps `x` back: of its source and destination (R107, R419), of its port for VC2
(R268), of its port and destination for responses (R94). -/
def txBehind (m : Mach) (x : EpTx) : Bool :=
  m.ep.tx.any fun y =>
    decide (y.id < x.id)
      && (match homeVc x.pkt.opcode with
        | some 0 =>
          homeVc y.pkt.opcode == some 0 && x.pkt.stream != 63 && y.pkt.stream == x.pkt.stream && y.pkt.dst == x.pkt.dst
            && y.owner.map (·.1) == x.owner.map (·.1) && (isStore x.pkt.opcode || !m.txHeldStore y)
        | some 1 => homeVc y.pkt.opcode == some 1 && y.port == x.port && y.pkt.dst == x.pkt.dst
        | some 2 => homeVc y.pkt.opcode == some 2 && y.pkt.dst == x.pkt.dst
        | _ => false)

/-- The ports that a packet may take, in order of preference: the one fixed for it, or the spray of R376. -/
def txPorts (m : Mach) (x : EpTx) : List Nat :=
  match x.port, x.owner with
  | some p, _ => [p]
  | none, some (e, _) =>
    let v := Tbl.get (fun _ => 0) m.ep.spray e
    let cs := m.candidates x.pkt.dst
    (((List.range 16).map fun i => (v + i) % 16).filter cs.contains).filterMap m.planePort
  | none, none => []

/-- Whether a move between the home VC and VC5 is free of outstanding stores (R108). -/
def vcMoveOk (m : Mach) (x : EpTx) (five : Bool) : Bool :=
  match x.owner with
  | some (e, _) =>
    !isStore x.pkt.opcode || x.pkt.stream == 63
      || (m.openStores e x.pkt.stream x.pkt.dst).all fun t => !t.2.sent || t.2.vc5 == five
  | none => true

/-- Whether `x` can start on port `p` now: the Zelry slot that takes it, if any. -/
def txOn (m : Mach) (x : EpTx) (p : Nat) : Option (Option Nat) :=
  let g := x.pkt.granules
  let home := (homeVc x.pkt.opcode).getD 4
  if m.epZlyOn ∧ home ≤ 3 then
    match m.epAdmits p x.pkt.dst (some home) g with
    | some s => if m.canSend .ep p 5 g && m.vcMoveOk x true then some (some s) else none
    | none => none
  else if m.canSend .ep p home g && m.vcMoveOk x false
      && (decide (home ≠ 0 ∧ home ≠ 2) || m.rateAllows home (if home = 2 then 960 + m.planeOfPort p else x.pkt.dst)
        (m.planeOfPort p) g) then some none
  else none

/-- The port for `x`: planes without tokens are passed over (R376). -/
def txPick (m : Mach) (x : EpTx) : Option (Nat × Option Nat) :=
  (m.txPorts x).findSome? fun p => (m.txOn x p).map fun s => (p, s)

/-- Start a packet. -/
def txSend (m : Mach) (x : EpTx) (p : Nat) (slot : Option Nat) : Mach :=
  let home := (homeVc x.pkt.opcode).getD 4
  let g := x.pkt.granules
  let plane := m.planeOfPort p
  let pkt := match slot with
    | some _ => pktOnVc x.pkt 5
    | none => if x.marked && home == 1 && x.pkt.last == 1 then x.pkt.setBit 28 else x.pkt
  let m := m.removeTx x.id
  let m := match slot with
    | some s => m.epSlotCharge p s g
    | none => if home = 0 then m.rateTake 0 x.pkt.dst plane g else if home = 2 then m.rateTake 2 (960 + plane) plane g else m
  let m := match x.tag, x.tag.bind m.tagOf with
    | some t, some ts => m.setTag t (some { ts with sent := true, plane := plane, vc5 := slot.isSome })
    | _, _ => m
  match x.owner with
  | none => m.epSend p pkt []
  | some (e, n) =>
    let m := if x.port.isNone && home == 0 then m.setEp { m.ep with spray := Tbl.set (fun _ => 0) m.ep.spray e (plane + 1) } else m
    let m := m.updSlot e n fun s => { s with planes := s.planes ||| 2 ^ plane }
    (m.bump .ep (Pg.eng e) R.ep4EngPktCnt).epSend p pkt (if home = 2 ∨ home = 3 then [64 * e + n] else [])

/-- A Cuff share that can no longer start in time is not sent (R320, R415). -/
def txMissed (m : Mach) (x : EpTx) : Mach :=
  match x.owner with
  | some (e, n) => (m.removeTx x.id).slotDo e n fun s => { s with other := Done.cuffMissed, packets := s.packets - 1 }
  | none => m.removeTx x.id

def txTry (m : Mach) (id : Nat) : Mach :=
  match m.ep.tx.find? fun x => x.id == id with
  | none => m
  | some x =>
    if (match x.by_ with | some b => decide (b < m.epTime.number) | none => false) then m.txMissed x
    else if !x.ready || m.txHeldStore x || m.txBehind x then m
    else
      match m.txPick x with
      | some (p, s) => m.txSend x p s
      | none => m

/-- Start every waiting packet that can start, oldest first. -/
def epPump (m : Mach) : Mach := (m.ep.tx.map (·.id)).foldl txTry m

/-! ## Partition faults (R426, R427) -/

/-- A torn context: its key is zeroised (R459). -/
def tearCtx (m : Mach) (c : Nat) : Mach :=
  (m.setEp { m.ep with keys := Tbl.set (fun _ => {}) m.ep.keys c {} }).setFld .ep (Pg.ctx c) F.ep4CtxConf_state 3

/-- Number of a context's slot. -/
def ownerCtx (m : Mach) (o : Option (Nat × Nat)) : Option Nat :=
  match o with
  | some (e, n) => (m.findSlot e n).map (·.ctx)
  | none => none

/-- Steps 1 and 2 of an abort (R427): nothing more is issued, the read buffer is emptied, tags are quarantined. -/
def abortStart (m : Mach) (c reason : Nat) : Mach :=
  let gone := m.ep.tx.filter fun x => m.ownerCtx x.owner == some c
  let m := gone.foldl
    (fun m x => match x.tag with | some t => (m.removeTx x.id).setTag t none | none => m.removeTx x.id) m
  let q := max (m.fld .ep Pg.eId F.ep4AbortCtrl_quarantine) 1
  let m := (m.tagList.filter fun t => t.2.ctx == c && t.2.quarantine.isNone).foldl
    (fun m t =>
      if t.2.answered then m.setTag t.1 none
      else m.setTag t.1 (some { t.2 with quarantine := some (m.epTime.number + q) }))
    m
  let m := m.setEp { m.ep with
    rb := m.ep.rb.filter (fun l => l.ctx != c)
    slots := m.ep.slots.map (fun s => if s.ctx = c ∧ !s.complete then { s with aborted := true } else s)
    abort := Tbl.set (fun _ => none) m.ep.abort c (some (reason, m.epTime.number)) }
  let m := m.setFld .ep (Pg.ctx c) F.ep4CtxFault_state 1
  if reason = Reason.torn ∧ m.epConf c then m.tearCtx c else m

/-- The EP-4 acts on a partition fault for a key; `received` tells a PFAULT packet from its own detection. -/
def epFault (m : Mach) (key reason : Nat) (received : Bool) : Mach :=
  let cs := (List.range m.ctxCount).filter fun c => m.epBound c && m.epKey c == key
  if cs.any fun c => m.ctxFault c != 0 then if received then m.bump .ep Pg.eId R.ep4PfaultRxCnt else m
  else cs.foldl (fun m c => m.abortStart c reason) m

/-- The EP-4 raises a partition fault (R426): PFAULT on every plane it serves, and it acts on the fault at once. -/
def epPfault (m : Mach) (key reason : Nat) : Mach :=
  if key = 0 then m
  else
    let m := m.servedPlanes.foldl
      (fun m j => m.pushTx { id := 0, pkt := m.pfaultPacket .ep (960 + j) key reason, port := m.planePort j }) m
    m.epFault key reason false

/-! ## The memory port (R379 to R384) -/

/-- Issue a request at the memory port. -/
def mpPush (m : Mach) (cmd addr len ord modifier : Nat) (data : List Byte) (use : MpUse) : Mach :=
  let tag := ((List.range 65536).find? fun i =>
    !(m.ep.mp.any fun q => q.tag == (m.ep.nextMp + i) % 65536)).map (fun i => (m.ep.nextMp + i) % 65536) |>.getD 0
  let q : MpReq := { tag := tag, cmd := cmd, addr := addr, len := len, ord := ord, modifier := modifier, data := data,
                     use := use }
  (m.setEp { m.ep with mp := m.ep.mp ++ [q], nextMp := (tag + 1) % 65536 }).emit
    (.memRequest tag cmd addr len ord modifier false data)

/-- Write a descriptor's results to local memory; `tag` is the tag whose response they are, if any. -/
def sinkLocal (m : Mach) (e n addr : Nat) (bs : List Byte) (tag : Option Nat) : Mach :=
  let ps := localPieces addr bs.length
  let m := m.updSlot e n fun s => { s with access := s.access + ps.length }
  let m := match tag, tag.bind m.tagOf with
    | some t, some ts => m.setTag t (some { ts with sinks := ts.sinks + ps.length })
    | _, _ => m
  ps.foldl (fun m p => m.mpPush 1 (addr + p.1) p.2 0 0 ((bs.drop p.1).take p.2) (.sink e n tag)) m

/-- Begin to gather bytes of local memory. -/
def fetchLocal (m : Mach) (addr len : Nat) (use : FetchUse) : Mach :=
  let ps := localPieces addr len
  let id := m.ep.nextFetch
  let m := m.setEp { m.ep with fetch := m.ep.fetch ++ [{ id := id, out := ps.length, use := use }], nextFetch := id + 1 }
  ps.foldl (fun m p => m.mpPush 0 (addr + p.1) p.2 0 0 [] (.fetch id p.1)) m

/-! ## Requests served through export windows (R386 to R390) -/

def winF (m : Mach) (w : Nat) (f : Fld) : Nat := m.tfld .ep Pg.eMp 1 8 w f
def winFab (m : Mach) (w : Nat) : Nat := m.winF w F.win_fabLo * 2 ^ 12 + m.winF w F.win_fabHi * 2 ^ 44
def winLoc (m : Mach) (w : Nat) : Nat := m.winF w F.win_locLo * 2 ^ 12 + m.winF w F.win_locHi * 2 ^ 32
def winBytes (m : Mach) (w : Nat) : Nat := m.winF w F.win_pages * 4096

/-- Map a request through its window: the window and local address, or the status of its refusal (R388). -/
def mapWindow (m : Mach) (p : Packet) : Except Nat (Nat × Nat) :=
  let off := p.offset
  match (List.range m.epParams.windows).find? fun w =>
      m.winF w F.win_valid == 1 && decide (m.winFab w ≤ off ∧ off < m.winFab w + m.winBytes w) with
  | none => .error Status.badAddress
  | some w =>
    if m.winF w F.win_pkey ≠ p.pkey ∨ m.winFab w + m.winBytes w < off + requestBytes p then .error Status.badAddress
    else if (p.opcode = Op.write ∨ p.opcode = Op.flagWrite) ∧ m.winF w F.win_writeEn = 0 then .error Status.accessDenied
    else if isAtomic p.opcode ∧ m.winF w F.win_atomicEn = 0 then .error Status.accessDenied
    else .ok (w, m.winLoc w + (off - m.winFab w))

/-- A response leaves by the port its request came by; when that port is down it is lost (R377, R428). -/
def epRespond (m : Mach) (port : Nat) (q : Packet) (p : Packet) : Mach :=
  if m.isUp .ep port then m.pushTx { id := 0, pkt := p, port := some port, marked := q.mark == 1 }
  else m.epPfault p.pkey Reason.responseLost

def epNack (m : Mach) (port : Nat) (q : Packet) (st : Nat) : Mach :=
  m.epRespond port q (m.response .ep q Op.nack st 0 0 0 [])

def serveStoreOf (p q : Packet) : Bool := isStore q.opcode && q.src == p.src && q.stream == p.stream

/-- Naturally aligned 16-byte units that two stretches share (R390). -/
def shareUnit (a la b lb : Nat) : Bool :=
  decide (0 < la ∧ 0 < lb) && decide (a / 16 ≤ (b + lb - 1) / 16) && decide (b / 16 ≤ (a + la - 1) / 16)

/-- The order identifier of a store (R382): none where it must wait. -/
def ordFor (m : Mach) (v : Serve) : Option Nat :=
  if !isStore v.pkt.opcode ∨ v.pkt.stream = 63 then some 0
  else
    let of := fun (q : MpReq) =>
      match q.use with
      | .serve id _ => m.ep.serve.any fun w => w.id == id && serveStoreOf v.pkt w.pkt
      | _ => false
    match m.ep.mp.find? fun q => q.ord != 0 && of q with
    | some q => some q.ord
    | none => ((List.range 4095).map (· + 1)).find? fun o => !(m.ep.mp.any fun q => q.ord == o)

/-- Whether a waiting request may go to the memory port. -/
def mayServe (m : Mach) (v : Serve) : Bool :=
  let store := isStore v.pkt.opcode
  let earlier := m.ep.serve.filter fun w => decide (w.id < v.id) && serveStoreOf v.pkt w.pkt
  let atomics := m.ep.serve.filter fun w => w.issued && isAtomic w.pkt.opcode
  !v.issued
    && !(store && v.pkt.stream != 63
      && (if requestBytes v.pkt = 0 then earlier != [] else earlier.any fun w => !w.issued))
    && !(isAtomic v.pkt.opcode && decide (256 * m.epParams.atom256 ≤ atomics.length))
    && !(store && atomics.any fun w =>
      shareUnit w.addr (requestBytes w.pkt) v.addr (requestBytes v.pkt))

def updServe (m : Mach) (id : Nat) (f : Serve → Serve) : Mach :=
  m.setEp { m.ep with serve := m.ep.serve.map fun v => if v.id = id then f v else v }

/-- Answer a served request (R114, R384). -/
def serveAnswer (m : Mach) (v : Serve) : Mach :=
  let m := m.setEp { m.ep with serve := m.ep.serve.filter fun w => w.id != v.id }
  let q := v.pkt
  if v.status = 2 then m.epNack v.port q Status.badAddress
  else
    let m := if v.status = 1 then m.epPfault q.pkey Reason.localPoison else m
    if q.opcode = Op.read then
      let data := ((v.pieces.mergeSort fun a b => a.1 ≤ b.1).map (·.2)).flatten
      (m.readSegments .ep q v.badSeg 0 data).foldl (fun m p => m.epRespond v.port q p) m
    else if v.status = 1 then m.epNack v.port q Status.poisoned
    else if q.opcode = Op.atomic then
      m.epRespond v.port q (m.response .ep q Op.atomicData 0 0 0 0 ((v.pieces.map (·.2)).flatten))
    else if q.opcode = Op.atomicPosted then m.epRespond v.port q (m.response .ep q Op.atomicAck 0 0 0 1 [])
    else m.epRespond v.port q (m.response .ep q Op.writeAck 0 0 0 1 [])

/-- Issue a request at the memory port when it may go. -/
def serveTry (m : Mach) (id : Nat) : Mach :=
  match m.ep.serve.find? fun v => v.id == id with
  | none => m
  | some v =>
    if !m.mayServe v then m
    else
      match m.ordFor v with
      | none => m
      | some ord =>
        let n := requestBytes v.pkt
        let m := if v.withheld then m.returnCredit .ep v.port v.pkt.vc v.pkt.granules else m
        if n = 0 then m.serveAnswer v
        else
          let ps := if isAtomic v.pkt.opcode then [(0, n)] else localPieces v.addr n
          let cmd := if v.pkt.opcode = Op.read then 0 else if isAtomic v.pkt.opcode then 2 else 1
          let m := m.updServe id fun v => { v with issued := true, withheld := false, out := ps.length }
          ps.foldl
            (fun m p =>
              m.mpPush cmd (v.addr + p.1) p.2 ord (if cmd = 2 then v.pkt.modifier else 0)
                (if cmd = 2 then v.pkt.payload else (v.pkt.payload.drop p.1).take p.2) (.serve id p.1))
            m

/-- Issue what can go to the memory port, in order of arrival. -/
def serveAll (m : Mach) : Mach := (m.ep.serve.map (·.id)).foldl serveTry m

/-- Credits of a packet that leaves the receive allocation (R198, R199). -/
def epCredit (m : Mach) (port : Nat) (p : Packet) : Mach := m.returnCredit .ep port p.vc p.granules

/-- A VC0 request in space 0b00 reaches the EP-4; `queued` says that it crossed a link and holds credits. -/
def epMemory (m : Mach) (port : Nat) (p : Packet) (queued : Bool) : Mach :=
  let give := fun (m : Mach) => if queued then m.epCredit port p else m
  match m.mapWindow p with
  | .error st =>
    let m := if st = Status.badAddress then m.bump .ep Pg.eMp R.ep4WinMissCnt else m
    (give m).epNack port p st
  | .ok (w, addr) =>
    if isAtomic p.opcode ∧ p.offset % atomicWidth p.modifier ≠ 0 then (give m).epNack port p Status.misaligned
    else
      let full := isAtomic p.opcode && decide (256 * m.epParams.atom256
        ≤ (m.ep.serve.filter fun v => isAtomic v.pkt.opcode).length)
      let m := if full then m.bump .ep Pg.eMp R.ep4AtomWaitCnt else give m
      let id := m.ep.nextServe
      let v : Serve := { id := id, pkt := p, port := port, window := w, addr := addr, withheld := full && queued }
      (m.setEp { m.ep with serve := m.ep.serve ++ [v], nextServe := id + 1 }).serveAll

/-- Segments of a read that a stretch of it touches. -/
def segsOf (off len : Nat) : List Nat :=
  (List.range ((off + len - 1) / 4096 - off / 4096 + 1)).map fun i => (off / 4096 + i) * 4096

/-- An access for a fabric request is answered (R384). -/
def serveAnswered (m : Mach) (id off len status : Nat) (bytes : List Byte) : Mach :=
  let m := m.updServe id fun v =>
    { v with
        out := v.out - 1, status := max v.status status, pieces := v.pieces ++ [(off, bytes)],
        badSeg := if status = 1 then segsOf off len ++ v.badSeg else v.badSeg }
  match m.ep.serve.find? fun v => v.id == id with
  | some v => (if v.out = 0 then m.serveAnswer v else m).serveAll
  | none => m.serveAll

end Mach

/-! ## Meaning -/

/-- RC_UPDATE (R226 to R228): in the hem of every u_period-th stitch the rate entries are updated. -/
def execRcUpdate (s : State) : Host.Outcome State Fault Refusal :=
  s.go fun m => if m.epTime.number % m.uPeriod = m.uPeriod - 1 then m.rateUpdate else m

end Sys2Proof.Machine
end

