-- ==== Sys2Proof/Machine/Engines.lean ====
section
/-! DEFINITION. The EP-4 engines (chapter "EP-4 engines and descriptors"): local windows and scratch (R391, R392, R404), the
read buffer (R127 to R129, R393), tags (R417, R429), how each op issues its packets and copies (R409 to R416), and the moves
that follow when an access at the memory port or the host bus is answered. -/

namespace Sys2Proof.Machine
open Sys2Proof

/-- The byte memories and the machine. -/
abbrev SM := Store × Mach

/-! ## Descriptor ops (R406) -/

namespace DOp
def nop : Nat := 0x00
def fence : Nat := 0x01
def put : Nat := 0x02
def get : Nat := 0x03
def prefetch : Nat := 0x04
def invalidate : Nat := 0x05
def atomic : Nat := 0x06
def atomicPosted : Nat := 0x07
def syncWait : Nat := 0x08
def localCopy : Nat := 0x09
def hostCopy : Nat := 0x0A
def mgt : Nat := 0x0B
def pltSend : Nat := 0x10
def bktSend : Nat := 0x11
def cufSend : Nat := 0x12
def collRecv : Nat := 0x13
end DOp

/-- Ops that send one stream of requests to the node of word 2. -/
def opAsks (op : Nat) : Bool :=
  op == DOp.put || op == DOp.get || op == DOp.prefetch || op == DOp.atomic || op == DOp.atomicPosted || op == DOp.syncWait
    || op == DOp.mgt

def opColl (op : Nat) : Bool := op == DOp.pltSend || op == DOp.bktSend || op == DOp.cufSend || op == DOp.collRecv

/-- A fabric address `off` bytes further on in the same space of the same node. -/
def addrPlus (a off : Nat) : Nat := a / 2 ^ 52 * 2 ^ 52 + (a % 2 ^ 52 + off) % 2 ^ 52

/-- Bits of a planes mask, ascending. -/
def planesOf (mask : Nat) : List Nat := (List.range 16).filter fun j => bitsOf mask j 1 == 1

/-- Where the bytes of a packet come from: at hand, or to be read at a local address. -/
inductive Body where
  | now (bs : List Byte)
  | later (addr : Nat)

namespace Slot

/-- The planes field of a descriptor that has one. -/
def planeMask (s : Slot) : Nat :=
  if s.op = DOp.pltSend then bitsOf (s.w 2) 37 16
  else if s.op = DOp.bktSend then 2 ^ bitsOf (s.w 2) 27 4
  else if s.op = DOp.cufSend then bitsOf (s.w 2) 17 16
  else if s.op = DOp.collRecv then bitsOf (s.w 2) 30 16
  else 0

def dstNode (s : Slot) : Nat := bitsOf (s.w 2) 54 10

/-- Slice size S of R287 and chunks K of R413. -/
def chunkElems (s : Slot) : Nat := 256 * 2 ^ bitsOf (s.w 2) 29 3
def sliceOf (ct p e : Nat) : Nat := ceilDiv (ceilDiv ct p) e * e

/-- Bytes that an atomic's operand and swap value spell (R93, R406). -/
def operands (s : Slot) : List Byte :=
  let n := 4 * 2 ^ bitsOf s.modifier 4 2
  let lo := leBytes n (s.w 4 + s.w 5 * 2 ^ 64)
  if bitsOf s.modifier 0 4 = 3 then lo ++ leBytes n (s.w 6 + s.w 7 * 2 ^ 64) else lo

end Slot

namespace Mach

/-! ## Local windows and scratch (R391, R392, R404) -/

def lwF (m : Mach) (c : Nat) (f : Fld) : Nat := m.tfld .ep Pg.eMp 2 4 c f
def lwBase (m : Mach) (c : Nat) : Nat := m.lwF c F.lwin_baseLo * 2 ^ 12 + m.lwF c F.lwin_baseHi * 2 ^ 32

/-- Whether a stretch lies wholly inside the local window of a context. -/
def inLocal (m : Mach) (c addr len : Nat) : Bool :=
  len == 0 || (m.lwF c F.lwin_valid == 1
    && decide (m.lwBase c ≤ addr ∧ addr + len ≤ m.lwBase c + m.lwF c F.lwin_pages * 4096))

def allocF (m : Mach) (c : Nat) (f : Fld) : Nat := m.tfld .ep Pg.eScr 1 1 c f
def scrBase (m : Mach) (c : Nat) : Nat := m.allocF c F.alloc_scrBase * 65536
def inScratch (m : Mach) (c off len : Nat) : Bool :=
  len == 0 || decide (off + len ≤ m.allocF c F.alloc_scrSize * 65536)

def inPlace (m : Mach) (c space addr len : Nat) : Bool :=
  if space = 1 then m.inScratch c addr len else m.inLocal c addr len

/-! ## Rings (R400, R422) -/

def descLog (m : Mach) (c k : Nat) : Nat :=
  let n := m.fld .ep (Pg.ctx c) (F.ep4CtxRingSize_log2 k)
  if 4 ≤ n ∧ n ≤ 16 then n else 4

def descBase (m : Mach) (c k : Nat) : Nat :=
  m.reg .ep (Pg.ctx c) (R.ep4CtxRingLo k) / 4096 * 4096 + m.reg .ep (Pg.ctx c) (R.ep4CtxRingHi k) * 2 ^ 32

def descProd (m : Mach) (c k : Nat) : Nat := m.reg .ep (Pg.ctx c) (R.ep4CtxDb k)
def descCons (m : Mach) (c k : Nat) : Nat := m.reg .ep (Pg.ctx c) (R.ep4CtxCons k)

/-- Difference of two indices modulo 2^32. -/
def idxDiff (a b : Nat) : Nat := (a + 2 ^ 32 - b % 2 ^ 32) % 2 ^ 32

def cqLog (m : Mach) (c : Nat) : Nat :=
  let n := m.fld .ep (Pg.ctx c) F.ep4CtxCqSize_log2
  if 4 ≤ n ∧ n ≤ 20 then n else 4

def cqBase (m : Mach) (c : Nat) : Nat :=
  m.reg .ep (Pg.ctx c) R.ep4CtxCqLo / 4096 * 4096 + m.reg .ep (Pg.ctx c) R.ep4CtxCqHi * 2 ^ 32

def cqFull (m : Mach) (c : Nat) : Bool :=
  decide (2 ^ m.cqLog c ≤ idxDiff (m.reg .ep (Pg.ctx c) R.ep4CtxCqProd) (m.reg .ep (Pg.ctx c) R.ep4CtxCqCons))

/-! ## Tags (R417) -/

/-- Tag entries of an engine: tags in use or quarantined, and collective descriptors not complete. -/
def tagUse (m : Mach) (e : Nat) : Nat :=
  (m.tagList.filter fun t => t.1 / 2048 == e).length
    + (m.ep.slots.filter fun s => s.engine == e && opColl s.op && !s.done).length

def tagMax (m : Mach) : Nat := 256 * m.epParams.out256

/-- A free tag of an engine. -/
def freshTag (m : Mach) (e : Nat) : Option Nat :=
  if m.tagMax ≤ m.tagUse e then none
  else ((List.range m.tagMax).map (2048 * e + ·)).find? fun t => (m.tagOf t).isNone

/-- A tag is free again; flagged stores that waited for it note whether its store failed (R122, R123). -/
def freeTag (m : Mach) (t : Nat) (failed : Bool) : Mach :=
  let m := m.setTag t none
  m.setEp { m.ep with tx := m.ep.tx.map fun x =>
    if x.waitFor.contains t then { x with waitFor := x.waitFor.erase t, failed := x.failed || failed } else x }

/-- A waiting packet is never issued: its tag is free again. -/
def dropTx (m : Mach) (x : EpTx) : Mach :=
  let m := m.removeTx x.id
  let m := match x.tag with | some t => m.freeTag t true | none => m
  match x.owner with
  | some (e, n) => m.updSlot e n fun s => { s with packets := s.packets - 1 }
  | none => m

/-- Lines that a prefetch reserved and whose reads will not be sent. -/
def rbDrop (m : Mach) (s : Slot) : Mach :=
  m.setEp { m.ep with rb := m.ep.rb.filter fun l =>
    l.valid || l.ctx != s.ctx || !s.lines.contains l.addr
      || m.tagList.any fun t => t.2.engine == s.engine && t.2.slot == s.num && t.2.off == l.addr }

/-- A descriptor issues none of its packets that have not been issued (R421). -/
def slotStop (m : Mach) (e n : Nat) (f : Slot → Slot) : Mach :=
  let mine := m.ep.tx.filter fun x => x.owner == some (e, n)
  let m := (mine.foldl dropTx m).updSlot e n fun s => { f s with allIssued := true }
  match m.findSlot e n with
  | some s => (if s.op = DOp.prefetch then m.rbDrop s else m).settle e n
  | none => m

/-- An own access failed (R384, R392): poisoned with a partition fault, or bad-local-address. -/
def ownFail (m : Mach) (e n status : Nat) : Mach :=
  match m.findSlot e n with
  | none => m
  | some s =>
    if status = 1 then
      (m.slotStop e n fun s => { s with poisoned := true }).epPfault s.key Reason.localPoison
    else m.slotStop e n fun s => { s with other := Done.badLocal }

/-! ## Issue (R102, R107, R108, R122, R375) -/

/-- The plane and port for a packet of a descriptor: no candidate; a pinned plane whose port is down; or the plane with its
port, both none on stream 63. -/
def planeFor (m : Mach) (s : Slot) (dst : Nat) : Except Bool (Nat × Option Nat) :=
  if s.stream = 63 then (if (m.candidates dst).isEmpty then .error true else .ok (0, none))
  else
    match m.pinPlane s.engine s.stream dst with
    | none => .error true
    | some j =>
      match m.planePort j with
      | some p => .ok (j, some p)
      | none => .error false

/-- What a request packet of a descriptor carries. -/
structure Ask where
  op : Nat
  addr : Nat
  flagged : Nat := 0
  modifier : Nat := 0
  aux : Nat := 0
  off : Nat := 0
  len : Nat := 0
  bytes : Nat := 0
  body : Body := .now []

/-- Queue a packet whose payload is at hand or is being read. -/
def queueTx (m : Mach) (x : EpTx) (h : HdrSpec) (bytes : Nat) (b : Body) : Mach :=
  match b with
  | .now bs => m.pushTx { x with pkt := h.packet bs }
  | .later a =>
    let id := m.ep.nextTx
    (m.pushTx { x with pkt := h.packet (List.replicate bytes 0), ready := false }).fetchLocal a bytes (.tx id)

/-- Issue one request packet under a tag; none while no tag is free or the pinned plane's port is down. -/
def ask (m : Mach) (s : Slot) (a : Ask) : Option Mach :=
  let dst := bitsOf a.addr 54 10
  match m.planeFor s dst with
  | .error true => some (m.slotStop s.engine s.num fun s => { s with other := Done.noPlane })
  | .error false => none
  | .ok (j, port) =>
    match m.freshTag s.engine with
    | none => none
    | some t =>
      let vc := if 0x80 ≤ a.op then 4 else 0
      let key := if vc = 4 then 0 else s.key
      let wait := if a.flagged = 0 then [] else
        (m.tagList.filter fun t => t.2.engine == s.engine && t.2.stream == s.stream && isStore t.2.op && !t.2.answered
          && t.2.quarantine.isNone).map (·.1)
      let h : HdrSpec :=
        { opcode := a.op, vc := vc, flagged := a.flagged, dst := dst, src := m.epNode, epoch := m.epochNow .ep % 16,
          stream := s.stream, pkey := key, context := s.ctx, tag := t, modifier := a.modifier, address := a.addr,
          aux := a.aux }
      let m := m.setTag t (some
        { engine := s.engine, slot := s.num, ctx := s.ctx, key := key, op := a.op, dst := dst, stream := s.stream,
          plane := j, off := a.off, len := a.len })
      let m := m.updSlot s.engine s.num fun s => { s with packets := s.packets + 1 }
      some (m.queueTx { id := 0, pkt := h.packet [], owner := some (s.engine, s.num), port := port, tag := some t,
                        held := !wait.isEmpty, waitFor := wait } h a.bytes a.body)

/-- Queue one packet of a Pleat, bucket or Cuff send for a plane (R413 to R415): no tag. -/
def issueColl (m : Mach) (s : Slot) (op vc plane addr aux fin : Nat) (by_ : Option Nat) (bytes : Nat) (b : Body) : Mach :=
  let h : HdrSpec :=
    { opcode := op, vc := vc, last := fin, dst := 960 + plane, src := m.epNode, epoch := m.epochNow .ep % 16,
      stream := s.stream, pkey := s.key, context := s.ctx, address := addr, aux := aux }
  let m := m.updSlot s.engine s.num fun s => { s with packets := s.packets + 1 }
  m.queueTx { id := 0, pkt := h.packet [], owner := some (s.engine, s.num), port := none, by_ := by_ } h bytes b

/-- Whether the descriptor has packets that have not started. -/
def hasTx (m : Mach) (s : Slot) : Bool := m.ep.tx.any fun x => x.owner == some (s.engine, s.num)

/-- Whether a gathering or a host access of the descriptor is out. -/
def isBusy (m : Mach) (s : Slot) : Bool :=
  decide (0 < s.access)
    || (m.ep.host.any fun h => h.engine == s.engine && h.slot == s.num)
    || m.ep.fetch.any fun f =>
      match f.use with
      | .copy e n _ | .host e n _ | .table e n => e == s.engine && n == s.num
      | .tx _ => false

/-- Whether an earlier descriptor keeps a descriptor's next packet back: one of the same stream and destination that is not
wholly issued (R107, R419), or an INVALIDATE before a lookup (R129). -/
def slotBehind (m : Mach) (s : Slot) : Bool :=
  m.ep.slots.any fun t =>
    t.engine == s.engine && decide (t.order < s.order) && !t.aborted && !t.done && !t.allIssued
      && ((t.op == DOp.invalidate && (s.op == DOp.get || s.op == DOp.prefetch))
        || (opAsks t.op && opAsks s.op && s.stream != 63 && t.stream == s.stream && t.dstNode == s.dstNode))

end Mach

/-! ## Bytes of scratch and of destinations -/

namespace SM

/-- Read scratch of a context: the bytes, and whether a word was uncorrectable (R392). -/
def scrRead (x : SM) (c off len : Nat) : List Byte × Nat :=
  let a := x.2.scrBase c + off
  (x.1.scratch.readN a len, ((List.range ((a + len - 1) / 8 + 1 - a / 8)).filter fun i =>
    decide (0 < len) && x.2.ep.scrBad.contains (a / 8 + i)).length)

/-- Write scratch of a context; a word wholly written is correctable again. -/
def scrWrite (x : SM) (c off : Nat) (bs : List Byte) : SM :=
  let a := x.2.scrBase c + off
  ({ x.1 with scratch := x.1.scratch.writeN a bs },
   x.2.setEp { x.2.ep with scrBad := x.2.ep.scrBad.filter fun w => !(decide (a ≤ 8 * w ∧ 8 * w + 8 ≤ a + bs.length)) })

/-- Write bytes at a descriptor's destination. -/
def sinkTo (x : SM) (s : Slot) (space addr : Nat) (bs : List Byte) (tag : Option Nat) : SM :=
  if space = 1 then x.scrWrite s.ctx addr bs else (x.1, x.2.sinkLocal s.engine s.num addr bs tag)

/-- The descriptor's source at `addr`, as a packet body; none where scratch held an uncorrectable word, which has ended the
descriptor. -/
def source (x : SM) (s : Slot) (addr len : Nat) : Option Body × Mach :=
  if len = 0 then (some (.now []), x.2)
  else if s.srcSpace = 1 then
    let (bs, bad) := x.scrRead s.ctx addr len
    if bad = 0 then (some (.now bs), x.2)
    else (none, (x.2.bumpBy .ep Pg.eScr R.ep4ScrEccCnt bad).ownFail s.engine s.num 1)
  else (some (.later addr), x.2)

/-! ## PUT, GET, ATOMIC, SYNC_WAIT, MGT -/

/-- The next WRITE of a PUT (R409, R410). -/
def stepPut (x : SM) (s : Slot) : Option SM :=
  let a := s.w 2
  let k := min (4096 - (a + s.next) % 4096) (s.len - s.next)
  let fin := decide (s.next + k = s.len)
  let flag := s.flag && fin
  match x.source s (s.w 3 + s.next) k with
  | (none, m) => some (x.1, m)
  | (some b, m) =>
    (m.ask s { op := if flag then Op.flagWrite else Op.write, addr := addrPlus a s.next, flagged := if flag then 1 else 0,
                 off := s.next, len := k, bytes := k, body := b }).map fun m =>
      (x.1, m.updSlot s.engine s.num fun t => { t with next := s.next + k, allIssued := t.allIssued || fin })

/-- Valid lines of a context that hold a read, in order; none where a byte of it lies in none (R128). -/
def rbHit (m : Mach) (c addr len : Nat) : Option (List RbLine) :=
  let first := addr / 256 * 256
  ((List.range ((addr + len - 1) / 256 - addr / 256 + 1)).map fun i => first + 256 * i).mapM fun l =>
    m.ep.rb.find? fun r => r.ctx == c && r.addr == l && r.valid

/-- The next READ of a GET, or its service from the read buffer (R128, R393, R409). -/
def stepGet (x : SM) (s : Slot) : Option SM :=
  let a := addrPlus (s.w 2) s.next
  let k := min (16384 - a % 16384) (s.len - s.next)
  let fin := decide (s.next + k = s.len)
  match rbHit x.2 s.ctx a k with
  | some ls =>
    match ls.find? (·.bad) with
    | some l =>
      let m := x.2.setEp { x.2.ep with rb := x.2.ep.rb.filter fun r => r != l }
      some (x.1, (m.bump .ep Pg.eScr R.ep4ScrEccCnt).ownFail s.engine s.num 1)
    | none =>
      let bs := (((ls.map (·.data)).flatten).drop (a % 256)).take k
      let m := x.2.bump .ep Pg.eScr R.ep4RbHitCnt
      let m := m.updSlot s.engine s.num fun t =>
        { t with next := s.next + k, allIssued := fin, moved := t.moved + k }
      some (SM.sinkTo (x.1, m) s s.dstSpace (s.w 3 + s.next) bs none)
  | none =>
    (x.2.ask s { op := Op.read, addr := a, aux := k, off := s.next, len := k }).map fun m =>
      (x.1, m.updSlot s.engine s.num fun t => { t with next := s.next + k, allIssued := t.allIssued || fin })

/-- The one packet of an op that sends one. -/
def stepOne (x : SM) (s : Slot) (a : Mach.Ask) : Option SM :=
  (x.2.ask s a).map fun m => (x.1, m.updSlot s.engine s.num fun t => { t with allIssued := true })

def stepAtomic (x : SM) (s : Slot) (op : Nat) : Option SM :=
  x.stepOne s { op := op, addr := s.w 2, flagged := if s.flag then 1 else 0, modifier := s.modifier,
                body := .now s.operands }

def stepMgt (x : SM) (s : Slot) : Option SM :=
  if bitsOf (s.w 4) 0 1 = 1 then
    x.stepOne s { op := Op.mgtWrite, addr := s.w 2, bytes := 4 * s.len, len := 4 * s.len, body := .later (s.w 3) }
  else x.stepOne s { op := Op.mgtRead, addr := s.w 2, aux := s.len, len := 4 * s.len }

/-! ## PREFETCH and INVALIDATE (R127, R129, R393) -/

/-- Lines of the read buffer that a range touches: their fabric addresses. -/
def linesOf (addr len : Nat) : List Nat :=
  if len = 0 then [] else (List.range ((addr + len - 1) / 256 - addr / 256 + 1)).map fun i => addr / 256 * 256 + 256 * i

/-- Reserve the lines of a prefetch that the context does not hold, or refuse it (R127, R393). -/
def reserve (x : SM) (s : Slot) : SM :=
  let m := x.2
  let held := m.ep.rb.filter fun l => l.ctx == s.ctx
  let need := (linesOf (s.w 2) s.len).filter fun a => !(held.any fun l => l.addr == a)
  let quota := 256 * m.allocF s.ctx F.alloc_rbQuota
  if need ≠ [] ∧ (quota < held.length + need.length ∨ 1024 * m.epParams.rbK < m.ep.rb.length + need.length) then
    (x.1, (m.bump .ep Pg.eScr R.ep4RbFullCnt).slotStop s.engine s.num fun t => { t with other := Done.rbFull })
  else
    let m := m.setEp { m.ep with rb := m.ep.rb ++ need.map fun a => { ctx := s.ctx, addr := a } }
    (x.1, m.updSlot s.engine s.num fun t => { t with lines := need, units := 1, allIssued := need == [] })

def stepPrefetch (x : SM) (s : Slot) : Option SM :=
  if s.units = 0 then some (x.reserve s)
  else
    match s.lines[s.next]? with
    | none => some (x.1, x.2.updSlot s.engine s.num fun t => { t with allIssued := true })
    | some l =>
      (x.2.ask s { op := Op.read, addr := l, aux := 256, off := l, len := 256 }).map fun m =>
        (x.1, m.updSlot s.engine s.num fun t =>
          { t with next := s.next + 1, allIssued := t.allIssued || decide (s.next + 1 = s.lines.length) })

def inRange (s : Slot) (addr len : Nat) : Bool :=
  s.len == 0 || (decide (s.w 2 < addr + len) && decide (addr < s.w 2 + s.len))

/-- INVALIDATE waits until no line in its range is being filled and no earlier prefetch of its engine has still to
reserve lines there; then the valid lines are removed (R129). -/
def stepInvalidate (x : SM) (s : Slot) : Option SM :=
  let m := x.2
  let filling := m.ep.rb.any fun l => l.ctx == s.ctx && !l.valid && inRange s l.addr 256
  let due := m.ep.slots.any fun t =>
    t.engine == s.engine && t.ctx == s.ctx && decide (t.order < s.order) && t.op == DOp.prefetch && t.units == 0
      && !t.allIssued && !t.aborted && !t.done && inRange s (t.w 2) t.len
  if filling || due then none
  else
    let m := m.setEp { m.ep with rb := m.ep.rb.filter fun l => !(l.ctx == s.ctx && inRange s l.addr 256) }
    some (x.1, m.updSlot s.engine s.num fun t => { t with allIssued := true })

/-! ## LOCAL_COPY (R409) -/

def overlaps (s : Slot) : Bool :=
  s.srcSpace == s.dstSpace && decide (s.w 3 < s.w 4 + s.len ∧ s.w 4 < s.w 3 + s.len)

/-- Put one piece of a local copy at its destination; the content is open where source and destination overlap. -/
def copyPiece (x : SM) (s : Slot) (off : Nat) (bs : List Byte) : SM :=
  let (bs, m) := if overlaps s then
      let (v, m) := x.2.fresh (8 * bs.length)
      (leBytes bs.length v.toNat, m)
    else (bs, x.2)
  let m := m.updSlot s.engine s.num fun t =>
    { t with next := off + bs.length, moved := t.moved + bs.length,
             allIssued := t.allIssued || decide (off + bs.length = s.len) }
  SM.sinkTo (x.1, m) s s.dstSpace (s.w 4 + off) bs none

def stepCopy (x : SM) (s : Slot) : Option SM :=
  if x.2.isBusy s then none
  else
    let k := min 4096 (s.len - s.next)
    match x.source s (s.w 3 + s.next) k with
    | (none, m) => some (x.1, m)
    | (some (.now bs), _) => some (x.copyPiece s s.next bs)
    | (some (.later a), m) => some (x.1, m.fetchLocal a k (.copy s.engine s.num s.next))

/-! ## HOST_COPY (R395, R446 to R448) -/

def toHost (s : Slot) : Bool := bitsOf (s.w 5) 0 1 == 0

/-- Bytes of a bounce record of `n` plaintext bytes (R446). -/
def recordLen (n : Nat) : Nat := ceilDiv (32 + n) 64 * 64

/-- Host address of the piece or record at offset `off`. -/
def hostAddr (m : Mach) (s : Slot) (off : Nat) : Nat :=
  if m.epConf s.ctx then s.w 4 + off / 4096 * recordLen 4096 else s.w 4 + off

/-- Bytes 0 to 15 of a record. -/
def recordHead (seq n ctx dir : Nat) : List Byte :=
  leBytes 8 seq ++ leBytes 4 n ++ leBytes 2 ctx ++ [BitVec.ofNat 8 dir, 0]

/-- The initialisation vector of a record (R447). -/
def recordIv (seq ctx dir : Nat) : List Byte := leBytes 8 seq ++ leBytes 2 ctx ++ [0, BitVec.ofNat 8 dir]

def seqReg (m : Mach) (c lo hi : Nat) : Nat := m.reg .ep (Pg.ctx c) lo + m.reg .ep (Pg.ctx c) hi * 2 ^ 32
def setSeq (m : Mach) (c lo hi v : Nat) : Mach :=
  (m.setReg .ep (Pg.ctx c) lo (v % 2 ^ 32)).setReg .ep (Pg.ctx c) hi (v / 2 ^ 32 % 2 ^ 32)

def hostPush (m : Mach) (s : Slot) (write : Bool) (off len : Nat) (data : List Byte) : Mach :=
  let id := m.ep.nextHost
  let h : HostReq := { id := id, engine := s.engine, slot := s.num, write := write, off := off, len := len }
  (m.setEp { m.ep with host := m.ep.host ++ [h], nextHost := id + 1 }).emit (.hostRequest id write (hostAddr m s off) len data)

/-- Send one piece of a copy to the host, sealed in a record for a confidential context. -/
def hostSend (m : Mach) (s : Slot) (off : Nat) (bs : List Byte) : Mach :=
  if m.epConf s.ctx then
    match (Tbl.get (fun _ => {}) m.ep.keys s.ctx : SessionKey).key with
    | none => m.slotStop s.engine s.num fun t => { t with other := Done.authFailed }
    | some key =>
      let seq := seqReg m s.ctx R.ep4CtxSeqTxLo R.ep4CtxSeqTxHi
      let head := recordHead seq bs.length s.ctx 0
      let (ct, tag) := gcmSeal key (recordIv seq s.ctx 0) head bs
      let rec0 := head ++ ct ++ tag
      let data := rec0 ++ List.replicate (recordLen bs.length - rec0.length) 0
      hostPush (setSeq m s.ctx R.ep4CtxSeqTxLo R.ep4CtxSeqTxHi (seq + 1)) s true off bs.length data
  else hostPush m s true off bs.length bs

/-- Total bytes that a copy takes in the bounce window. -/
def bounceLen (n : Nat) : Nat := n / 4096 * recordLen 4096 + (if n % 4096 = 0 then 0 else recordLen (n % 4096))

/-- Why a HOST_COPY moves nothing (R395, R446). -/
def hostRefusal (m : Mach) (s : Slot) : Option Nat :=
  if m.epParams.host = 0 then some Done.noHost
  else if !m.epConf s.ctx then none
  else if m.ctxConf s.ctx ≠ 2 then some Done.authFailed
  else
    let lo := m.ebindF s.ctx F.ebind_bounceLo * 2 ^ 12 + m.ebindF s.ctx F.ebind_bounceHi * 2 ^ 32
    let hi := lo + m.ebindF s.ctx F.ebind_bouncePages * 4096
    if lo ≤ s.w 4 ∧ s.w 4 + bounceLen s.len ≤ hi then none else some Done.badLocal

def stepHost (x : SM) (s : Slot) : Option SM :=
  if x.2.isBusy s then none
  else if s.next = 0 ∧ (hostRefusal x.2 s).isSome then
    some (x.1, x.2.slotStop s.engine s.num fun t => { t with other := (hostRefusal x.2 s).getD 0 })
  else
    let k := min 4096 (s.len - s.next)
    if toHost s then
      match x.source s (s.w 3 + s.next) k with
      | (none, m) => some (x.1, m)
      | (some (.now bs), m) => some (x.1, hostSend m s s.next bs)
      | (some (.later a), m) => some (x.1, m.fetchLocal a k (.host s.engine s.num s.next))
    else
      some (x.1, hostPush x.2 s false s.next (if x.2.epConf s.ctx then recordLen k else k) [])

/-- Check a record from the host (R448): its plaintext when it passes. -/
def openRecord (m : Mach) (s : Slot) (off : Nat) (bs : List Byte) : Option (List Byte) :=
  let n := min 4096 (s.len - off)
  let seq := seqReg m s.ctx R.ep4CtxSeqRxLo R.ep4CtxSeqRxHi
  let head := bs.take 16
  match (Tbl.get (fun _ => {}) m.ep.keys s.ctx : SessionKey).key with
  | none => none
  | some key =>
    if ofLeBytes ((bs.drop 12).take 2) = s.ctx ∧ ofLeBytes ((bs.drop 14).take 1) = 1 ∧ ofLeBytes (bs.take 8) = seq
        ∧ ofLeBytes ((bs.drop 8).take 4) = n then
      gcmOpen key (recordIv seq s.ctx 1) head ((bs.drop 16).take n) ((bs.drop (16 + n)).take 16)
    else none

/-- One piece of a HOST_COPY is done. -/
def hostDone (m : Mach) (s : Slot) (off n : Nat) : Mach :=
  m.updSlot s.engine s.num fun t =>
    { t with next := off + n, moved := t.moved + n, allIssued := t.allIssued || decide (off + n = s.len) }

/-- An answer of the host bus. -/
def hostAnswered (x : SM) (h : HostReq) (ok : Bool) (bs : List Byte) : SM :=
  match x.2.findSlot h.engine h.slot with
  | none => x
  | some s =>
    let m := x.2
    let n := min 4096 (s.len - h.off)
    if s.aborted ∨ s.done then x
    else if !ok then (x.1, m.slotStop s.engine s.num fun t => { t with other := Done.hostError })
    else if h.write then (x.1, hostDone m s h.off n)
    else if m.epConf s.ctx then
      match openRecord m s h.off bs with
      | some pt =>
        let m := setSeq m s.ctx R.ep4CtxSeqRxLo R.ep4CtxSeqRxHi (seqReg m s.ctx R.ep4CtxSeqRxLo R.ep4CtxSeqRxHi + 1)
        SM.sinkTo (x.1, hostDone m s h.off n) s s.srcSpace (s.w 3 + h.off) pt none
      | none =>
        let m := (m.bump .ep Pg.eHost R.ep4AuthFailCnt).raise .ep Pg.eHost 0 0
        (x.1, m.slotStop s.engine s.num fun t => { t with other := Done.authFailed })
    else SM.sinkTo (x.1, hostDone m s h.off n) s s.srcSpace (s.w 3 + h.off) (bs.take n ++ List.replicate (n - bs.length) 0) none

/-! ## PLT_SEND, BKT_SEND, CUF_SEND (R413 to R415) -/

/-- Pieces of a unit of `len` bytes in packets of at most `cut`. -/
def unitCuts (cut len : Nat) : List (Nat × Nat) :=
  (List.range (ceilDiv len (max cut 1))).map fun i => (i * cut, min cut (len - i * cut))

/-- Queue the packets of one unit whose bytes start at `addr` of the source. -/
def sendUnit (x : SM) (s : Slot) (op plane aux cut addr len : Nat) : SM :=
  (unitCuts cut len).foldl
    (fun x p =>
      match x.source s (addr + p.1) p.2 with
      | (none, m) => (x.1, m)
      | (some b, m) => (x.1, m.issueColl s op 2 plane p.1 aux (if p.1 + p.2 = len then 1 else 0) none p.2 b))
    x

/-- The units of chunk `i` of a Pleat part, one on each plane used (R413). -/
def sendChunk (x : SM) (s : Slot) (i : Nat) : SM :=
  let w := s.w 2
  let fmt := bitsOf w 32 4
  let e := s.chunkElems
  let ps := planesOf s.planeMask
  let sl := Slot.sliceOf (bitsOf (s.w 4) 0 32) ps.length e
  let op := if bitsOf w 36 1 = 1 then Op.pltShard else Op.pltContrib
  let aux := bitsOf w 0 13 + bitsOf w 13 8 * 2 ^ 13 + i % 2 ^ 24 * 2 ^ 21 + bitsOf w 21 8 * 2 ^ 45
  let cut := 4096 / unitBytes fmt * unitBytes fmt
  ps.zipIdx.foldl
    (fun x pj =>
      let j := pj.2
      let lo := j * sl + i * e
      let top := min (j * sl + (i + 1) * e) s.len
      let hi := if j + 1 < ps.length then min top ((j + 1) * sl) else top
      if hi ≤ lo then (x.1, x.2.issueColl s op 2 pj.1 (fmtBytes fmt e) aux 1 none 1 (.now [0]))
      else x.sendUnit s op pj.1 aux cut (s.w 3 + fmtBytes fmt lo) (fmtBytes fmt (hi - lo)))
    x

/-- Elements of V that no unit covers (R413). -/
def pltTruncated (s : Slot) : Bool :=
  let e := s.chunkElems
  let ps := planesOf s.planeMask
  let sl := Slot.sliceOf (bitsOf (s.w 4) 0 32) ps.length e
  let k := ceilDiv (bitsOf (s.w 4) 32 32) e
  (List.range ps.length).any fun j =>
    decide (j * sl + k * e < (if j + 1 < ps.length then min s.len ((j + 1) * sl) else s.len))

/-- A unit holds fewer elements than its chunk has at capacity C, so that it is padded (R269, R270; DEDUCED, log 45). -/
def pltPadded (s : Slot) : Bool :=
  let e := s.chunkElems
  let ps := planesOf s.planeMask
  let sl := Slot.sliceOf (bitsOf (s.w 4) 0 32) ps.length e
  let cap := bitsOf (s.w 4) 32 32
  (List.range ps.length).any fun j =>
    let top := min (j * sl + cap) s.len
    let hi := if j + 1 < ps.length then min top ((j + 1) * sl) else top
    decide (hi < j * sl + cap)

def stepPlt (x : SM) (s : Slot) : Option SM :=
  if x.2.hasTx s then none
  else if ceilDiv (bitsOf (s.w 4) 32 32) s.chunkElems ≤ s.next then
    some (x.1, x.2.updSlot s.engine s.num fun t => { t with allIssued := true, truncated := pltTruncated s, padded := pltPadded s })
  else
    let x := x.sendChunk s s.next
    some (x.1, x.2.updSlot s.engine s.num fun t => { t with next := s.next + 1 })

/-- Entry `b` of a part table that has been read: local address and length of the part (R414). -/
def partOf (s : Slot) (b : Nat) : Nat × Nat := (s.w 3 + bitsOf (s.w (8 + b)) 0 32, bitsOf (s.w (8 + b)) 32 32)

def buckets (s : Slot) : Nat := bitsOf (s.w 2) 18 9

def stepBkt (x : SM) (s : Slot) : Option SM :=
  if x.2.hasTx s ∨ x.2.isBusy s then none
  else if buckets s = 0 ∨ 8 + buckets s ≤ 8 + s.next then
    some (x.1, x.2.updSlot s.engine s.num fun t => { t with allIssued := true })
  else if s.words.length ≤ 8 then some (x.1, x.2.fetchLocal (s.w 3) (8 * buckets s) (.table s.engine s.num))
  else
    let w := s.w 2
    let plane := bitsOf w 27 4
    let b := s.next
    let aux := bitsOf w 0 10 + bitsOf w 10 8 * 2 ^ 13 + b % 256 * 2 ^ 21
    let (a, len) := partOf s b
    let x := if len = 0 then (x.1, x.2.issueColl s Op.bktSend 2 plane (bitsOf (s.w 4) 0 17) aux 1 none 1 (.now [0]))
      else x.sendUnit { s with words := s.words.set 0 (s.w 0 - bitsOf (s.w 0) 11 1 * 2 ^ 11) } Op.bktSend plane aux 4096 a len
    some (x.1, x.2.updSlot s.engine s.num fun t => { t with next := b + 1 })

/-- The part table has been read: every part must lie in the local window (R404, R414). -/
def tableRead (m : Mach) (s : Slot) (bs : List Byte) : Mach :=
  let words := s.words ++ (List.range (buckets s)).map fun i => ofLeBytes ((bs.drop (8 * i)).take 8)
  let t := { s with words := words }
  if (List.range (buckets s)).all fun b => m.inLocal s.ctx (partOf t b).1 (partOf t b).2 then
    m.updSlot s.engine s.num fun t => { t with words := words }
  else m.slotStop s.engine s.num fun t => { t with other := Done.badLocal }

/-- Opening stitch and deadline of a CUF_SEND (R406, R407). -/
def cufOpen (s : Slot) : Nat := s.w 4
def cufDeadline (s : Slot) : Nat := bitsOf (s.w 2) 33 7

/-- Send every share of a CUF_SEND (R415). -/
def sendShares (x : SM) (s : Slot) : SM :=
  let ps := planesOf s.planeMask
  let share := s.len / ps.length
  let aux := cufAux (bitsOf (s.w 2) 0 9) (bitsOf (s.w 2) 9 8) (cufOpen s)
  let x := ps.zipIdx.foldl
    (fun x pj =>
      match x.source s (s.w 3 + pj.2 * share) share with
      | (none, m) => (x.1, m)
      | (some b, m) =>
        (x.1, m.issueColl s Op.cufContrib 3 pj.1 0 aux 1 (some (cufOpen s + cufDeadline s)) share b))
    x
  (x.1, x.2.updSlot s.engine s.num fun t => { t with allIssued := true })

/-! ## Advance -/

/-- The next move of a descriptor; none when it cannot move now. -/
def advance (x : SM) (s : Slot) : Option SM :=
  if s.op = DOp.put then x.stepPut s
  else if s.op = DOp.get then x.stepGet s
  else if s.op = DOp.prefetch then x.stepPrefetch s
  else if s.op = DOp.invalidate then x.stepInvalidate s
  else if s.op = DOp.atomic then x.stepAtomic s Op.atomic
  else if s.op = DOp.atomicPosted then x.stepAtomic s Op.atomicPosted
  else if s.op = DOp.syncWait then x.stepOne s { op := Op.syncWait, addr := s.w 2, aux := s.w 4 }
  else if s.op = DOp.localCopy then x.stepCopy s
  else if s.op = DOp.hostCopy then x.stepHost s
  else if s.op = DOp.mgt then x.stepMgt s
  else if s.op = DOp.pltSend then x.stepPlt s
  else if s.op = DOp.bktSend then x.stepBkt s
  else if s.op = DOp.collRecv then
    if bitsOf (s.w 5) 0 32 ≤ s.units then
      some (x.1, x.2.updSlot s.engine s.num fun t => { t with allIssued := true })
    else none
  else none

/-- Move a descriptor as far as it goes, in at most `fuel` moves. -/
def advanceAll : Nat → SM → Nat → Nat → SM
  | 0, x, e, n => (x.1, x.2.settle e n)
  | k + 1, x, e, n =>
    match x.2.findSlot e n with
    | none => x
    | some s =>
      if s.begun && !s.allIssued && !s.aborted && !s.done && !x.2.slotBehind s then
        match x.advance s with
        | some y => advanceAll k y e n
        | none => (x.1, x.2.settle e n)
      else (x.1, x.2.settle e n)

/-- Moves that a descriptor can need: one for each packet, line, piece or unit, and the ends. -/
def moves (s : Slot) : Nat := s.len / 256 + buckets s + bitsOf (s.w 4) 32 32 / 256 + 8

/-- A gathering of local bytes is complete. -/
def fetched (x : SM) (f : Fetch) : SM :=
  let m := x.2.setEp { x.2.ep with fetch := x.2.ep.fetch.filter fun g => g.id != f.id }
  let bs := ((f.pieces.mergeSort fun a b => a.1 ≤ b.1).map (·.2)).flatten
  let live := fun (e n : Nat) => (m.findSlot e n).filter fun s => !s.aborted && !s.done
  match f.use with
  | .tx id =>
    match m.ep.tx.find? fun t => t.id == id with
    | none => (x.1, m)
    | some t =>
      if f.status = 0 then (x.1, m.updTx id fun t => { t with pkt := { t.pkt with payload := bs }, ready := true })
      else
        match t.owner with
        | some (e, n) => (x.1, m.ownFail e n f.status)
        | none => (x.1, m.removeTx id)
  | .copy e n off =>
    match live e n with
    | none => (x.1, m)
    | some s => if f.status = 0 then SM.copyPiece (x.1, m) s off bs else (x.1, m.ownFail e n f.status)
  | .host e n off =>
    match live e n with
    | none => (x.1, m)
    | some s => if f.status = 0 then (x.1, hostSend m s off bs) else (x.1, m.ownFail e n f.status)
  | .table e n =>
    match live e n with
    | none => (x.1, m)
    | some s => if f.status = 0 then (x.1, tableRead m s bs) else (x.1, m.ownFail e n f.status)

/-- Let every descriptor move and every packet start that can: what the engines do after any EP-4 command. -/
def epRun (x : SM) : SM :=
  let x := (x.2.ep.fetch.filter fun f => f.out == 0).foldl fetched x
  let order := x.2.ep.slots.mergeSort fun a b => a.order ≤ b.order
  let x := order.foldl (fun x s => x.advanceAll (moves s) s.engine s.num) x
  (x.1, x.2.epPump)

end SM

end Sys2Proof.Machine
end

