-- ==== Sys2Proof/Machine/EngCmds.lean ====
section
/-! DEFINITION. The commands of the EP-4 engines (chapter "EP-4 engines and descriptors"): doorbells (R401), the take of a
descriptor and its checks (R402 to R408), the ops (R409 to R416), responses and units that arrive (R416, R421, R429),
completion records (R422 to R425), faults and aborts (R426 to R429), session keys and host copies (R444 to R448). -/

namespace Sys2Proof.Machine
open Sys2Proof

/-! ## The check of a descriptor (R408) -/

namespace Slot

def fabricAddrOk (s : Slot) : Bool := decide (bitsOf (s.w 2) 52 2 ≠ 3 ∧ bitsOf (s.w 2) 54 10 < 976)

/-- Words that the op does not name are zero (R406). -/
def restZero (s : Slot) : Bool :=
  let z := fun (is : List Nat) => is.all fun i => s.w i == 0
  let n := 4 * 2 ^ bitsOf s.modifier 4 2
  let cas := bitsOf s.modifier 0 4 == 3
  if s.op ≤ DOp.fence then z [2, 3, 4, 5, 6, 7]
  else if s.op = DOp.put ∨ s.op = DOp.get then z [4, 5, 6, 7]
  else if s.op = DOp.prefetch ∨ s.op = DOp.invalidate then z [3, 4, 5, 6, 7]
  else if s.op = DOp.atomic ∨ s.op = DOp.atomicPosted then
    (s.op == DOp.atomic || z [3])
      && decide (s.w 4 + s.w 5 * 2 ^ 64 < 2 ^ (8 * n))
      && (if cas then decide (s.w 6 + s.w 7 * 2 ^ 64 < 2 ^ (8 * n)) else z [6, 7])
  else if s.op = DOp.syncWait then z [5, 6, 7]
  else if s.op = DOp.localCopy then z [2, 5, 6, 7]
  else if s.op = DOp.hostCopy then z [2, 6, 7] && decide (s.w 5 < 2)
  else if s.op = DOp.mgt then z [5, 6, 7] && decide (s.w 4 < 2)
  else if s.op = DOp.pltSend then z [5, 6, 7] && decide (s.w 2 < 2 ^ 53)
  else if s.op = DOp.bktSend then z [5, 6, 7] && decide (s.w 2 < 2 ^ 31) && decide (s.w 4 < 2 ^ 17)
  else if s.op = DOp.cufSend then z [5, 6, 7] && decide (s.w 2 < 2 ^ 40)
  else
    let kind := bitsOf (s.w 2) 0 2
    z [6, 7] && decide (s.w 2 < 2 ^ 46) && (kind == 0 || bitsOf (s.w 2) 15 15 == 0)
      && (kind == 3 || decide (s.w 5 < 2 ^ 32))
      && (if kind = 0 then decide (s.w 4 < 2 ^ 32) else if kind = 1 then decide (s.w 4 < 2 ^ 20)
          else kind == 3 || s.w 4 == 0)

/-- The length is in its row of R406. -/
def lengthFits (s : Slot) : Bool :=
  if s.op = DOp.get ∨ s.op = DOp.prefetch ∨ s.op = DOp.localCopy ∨ s.op = DOp.hostCopy then decide (1 ≤ s.len)
  else if s.op = DOp.mgt then decide (1 ≤ s.len ∧ s.len ≤ 16)
  else if s.op = DOp.cufSend then decide (1 ≤ s.len ∧ s.len ≤ 4096)
  else if s.op = DOp.put ∨ s.op = DOp.invalidate ∨ s.op = DOp.pltSend then true
  else s.len == 0

/-- Whether a descriptor breaks a rule of R408; `mgr` is the mgr bit of its context's binding. -/
def badDesc (s : Slot) (mgr : Bool) : Bool :=
  let atom := s.op == DOp.atomic || s.op == DOp.atomicPosted
  let p := (planesOf s.planeMask).length
  !(decide (s.op ≤ DOp.mgt) || decide (DOp.pltSend ≤ s.op ∧ s.op ≤ DOp.collRecv))
    || bitsOf (s.w 0) 13 3 != 0 || bitsOf (s.w 0) 22 2 != 0 || !s.restZero || !s.lengthFits
    || ((opAsks s.op || s.op == DOp.invalidate) && !s.fabricAddrOk)
    || (if atom then (atomicLen s.modifier).isNone else s.modifier != 0)
    || (s.flag && !atom && s.op != DOp.put)
    || ((s.op == DOp.pltSend || s.op == DOp.cufSend || s.op == DOp.collRecv) && s.planeMask == 0)
    || (s.op == DOp.pltSend && isMx (bitsOf (s.w 2) 32 4) && (s.len % 32 != 0 || bitsOf (s.w 4) 0 32 % 32 != 0))
    || (s.op == DOp.cufSend && (s.len % p != 0 || decide (256 < s.len / p)))
    || (s.op == DOp.mgt && (!mgr || bitsOf (s.w 2) 52 2 != 2))

end Slot

namespace Mach

/-- Whether every address that the descriptor names lies inside its bound (R392, R404). -/
def placesOk (m : Mach) (s : Slot) : Bool :=
  let c := s.ctx
  if s.op = DOp.put ∨ s.op = DOp.hostCopy ∨ s.op = DOp.cufSend then m.inPlace c s.srcSpace (s.w 3) s.len
  else if s.op = DOp.get then m.inPlace c s.dstSpace (s.w 3) s.len
  else if s.op = DOp.atomic then m.inLocal c (s.w 3) (atomicWidth s.modifier)
  else if s.op = DOp.syncWait then m.inLocal c (s.w 3) 8
  else if s.op = DOp.localCopy then m.inPlace c s.srcSpace (s.w 3) s.len && m.inPlace c s.dstSpace (s.w 4) s.len
  else if s.op = DOp.mgt then m.inLocal c (s.w 3) (4 * s.len)
  else if s.op = DOp.pltSend then m.inPlace c s.srcSpace (s.w 3) (fmtBytes (bitsOf (s.w 2) 32 4) s.len)
  else if s.op = DOp.bktSend then m.inLocal c (s.w 3) (8 * bitsOf (s.w 2) 18 9)
  else if s.op = DOp.collRecv then m.inPlace c s.dstSpace (s.w 3) 1
  else true

/-- The status with which a descriptor completes at its take, 0 when it is to be carried out (R404, R408, R413, R415). -/
def takeStatus (m : Mach) (s : Slot) : Nat :=
  if s.badDesc (m.ebindF s.ctx F.ebind_mgr == 1) then Done.badDesc
  else if !m.placesOk s then Done.badLocal
  else if s.op = DOp.cufSend ∧ m.epTime.st ≠ .locked then Done.notLocked
  else if s.op = DOp.cufSend ∧ SM.cufOpen s + SM.cufDeadline s < m.epTime.number then Done.cuffMissed
  else if (s.op = DOp.pltSend ∨ s.op = DOp.bktSend ∨ s.op = DOp.cufSend)
      ∧ !(planesOf s.planeMask).all fun j => (m.planePort j).isSome then Done.noPlane
  else 0

/-! ## The take (R402, R403, R418) -/

def freeSlot (m : Mach) (e : Nat) : Option Nat := (List.range 64).find? fun n => (m.findSlot e n).isNone

/-- A record of the engine waits while the completion ring is full (R424). -/
def cqHeld (m : Mach) (e c : Nat) : Bool :=
  m.cqFull c && m.ep.slots.any fun s => s.engine == e && s.done && (s.cq || s.status != 0)

/-- Whether the posted ring lies wholly inside the local window (R403). -/
def ringInside (m : Mach) (c e : Nat) : Bool := m.inLocal c (m.descBase c e) (64 * 2 ^ m.descLog c e)

/-- A descriptor must wait for a FENCE before it (R119). -/
def fenceHeld (m : Mach) (e : Nat) : Bool :=
  m.ep.slots.any fun s =>
    s.engine == e && !s.complete && decide (s.order + 1 < Tbl.get (fun _ => 0) m.ep.fence e)

/-- The engine cannot read its ring (R403). -/
def ringFail (m : Mach) (e : Nat) : Mach :=
  (m.setEp { m.ep with ringFault := e :: m.ep.ringFault }).raise .ep (Pg.eng e) 0 0

/-- The slot that a taken descriptor enters. -/
def newSlot (m : Mach) (e n c : Nat) (words : List Nat) : Slot :=
  { engine := e, num := n, order := Tbl.get (fun _ => 0) m.ep.orders 0, index := m.descCons c e, ctx := c,
    key := m.epKey c, words := words }

/-- The consumer index advances past the descriptor, and it enters its slot. -/
def enter (m : Mach) (e c : Nat) (s : Slot) : Mach :=
  let m := m.setReg .ep (Pg.ctx c) (R.ep4CtxCons e) ((m.descCons c e + 1) % 2 ^ 32)
  m.setEp { m.ep with slots := m.ep.slots ++ [s], orders := Tbl.set (fun _ => 0) m.ep.orders 0 (s.order + 1) }

/-- Take the descriptor of `words` into slot `n`, its read having been answered with `status`. -/
def takeInto (m : Mach) (e n c status : Nat) (words : List Nat) : Mach :=
  let s := m.newSlot e n c words
  if status = 1 then
    let m := (m.enter e c { s with poisoned := true }).bump .ep Pg.eMp R.ep4MpErrCnt
    (m.finishSlot { s with poisoned := true }).epPfault s.key Reason.localPoison
  else if m.ctxFault c = 2 then
    let s := { s with aborted := true }
    (m.enter e c s).finishSlot s
  else
    let st := m.takeStatus s
    let s := { s with other := st, complete := s.op == DOp.nop || s.op == DOp.fence }
    let m := m.enter e c s
    let m := if s.op = DOp.fence ∧ st = 0 then
        m.setEp { m.ep with fence := Tbl.set (fun _ => 0) m.ep.fence e (s.order + 1) }
      else m
    if st = 0 then m else m.finishSlot s

/-- Whether engine `e`, bound to context `c`, looks at its ring. -/
def takes (m : Mach) (e c : Nat) : Bool :=
  m.epBound c && m.ctxFault c != 1 && !m.ctxScrubbing c && !m.ep.ringFault.contains e && m.descProd c e != m.descCons c e

end Mach

namespace SM

/-- The words of the descriptor at the consumer index. -/
def descWords (x : SM) (c e : Nat) : List Nat :=
  let a := x.2.descBase c e + 64 * (x.2.descCons c e % 2 ^ x.2.descLog c e)
  (List.range 8).map fun i => ofLeBytes (x.1.loc.readN (a + 8 * i) 8)

/-- DESCRIPTOR_TAKE: one descriptor. -/
def takeDesc (x : SM) (e status : Nat) : SM :=
  let m := x.2
  match m.engCtx e with
  | none => x
  | some c =>
    if !m.takes e c then x
    else if !m.ringInside c e then (x.1, m.ringFail e)
    else
      match m.freeSlot e with
      | none => x
      | some n =>
        if m.cqHeld e c then x
        else if m.ctxFault c = 0 ∧ (m.fenceHeld e ∨ m.tagMax ≤ m.tagUse e) then x
        else if status = 2 then (x.1, (m.bump .ep Pg.eMp R.ep4MpErrCnt).ringFail e)
        else if status = 1 then
          let (v, m) := m.fresh 512
          (x.1, m.takeInto e n c 1 ((List.range 8).map fun i => bitsOf v.toNat (64 * i) 64))
        else (x.1, m.takeInto e n c 0 (x.descWords c e))

/-! ## Ops -/

/-- Carry out a taken descriptor of one op. -/
def begin (x : SM) (e n op : Nat) : SM :=
  match x.2.findSlot e n with
  | none => x
  | some s =>
    if s.op = op ∧ !s.begun ∧ !s.done ∧ !s.aborted then
      (x.1, x.2.updSlot e n fun s => { s with begun := true, allIssued := op == DOp.nop || op == DOp.fence })
    else x

/-- CUF_SEND_START (R415): the opening stitch is reached. -/
def cufStart (x : SM) (e n : Nat) : SM :=
  match x.2.findSlot e n with
  | none => x
  | some s =>
    if s.op = DOp.cufSend ∧ s.begun ∧ !s.allIssued ∧ !s.aborted ∧ !s.done ∧ cufOpen s ≤ x.2.epTime.number then
      x.sendShares s
    else x

end SM

namespace Mach

/-- FLAGGED_STORE_RELEASE (R122, R123): a flagged store whose earlier stores are all answered is sent, or completes
prior-failed and is not sent. -/
def releaseFlagged (m : Mach) (e stream : Nat) : Mach :=
  (m.ep.tx.filter fun x => x.held && x.waitFor.isEmpty && x.pkt.stream == stream && x.owner.map (·.1) == some e).foldl
    (fun m x =>
      if x.failed then
        let m := m.dropTx x
        match x.owner with
        | some (e, n) => m.slotDo e n fun s => { s with priorFailed := true }
        | none => m
      else m.updTx x.id fun x => { x with held := false })
    m

/-! ## Responses (R411, R421, R429) -/

/-- A tag's response unit has been received and written. -/
def tagDone (m : Mach) (t : Nat) : Mach :=
  match m.tagOf t with
  | some ts =>
    if ts.answered && ts.sinks == 0 then
      (m.freeTag t false).slotDo ts.engine ts.slot fun s => { s with packets := s.packets - 1 }
    else m
  | none => m

/-- Whether a response of this opcode answers a request of that opcode. -/
def answersOp (req rsp : Nat) : Bool :=
  if rsp = Op.nack then isRequest req
  else if rsp = Op.readData then req == Op.read
  else if rsp = Op.writeAck then req == Op.write || req == Op.flagWrite
  else if rsp = Op.atomicData then req == Op.atomic
  else if rsp = Op.atomicAck then req == Op.atomicPosted
  else if rsp = Op.syncNotify then req == Op.syncWait
  else if rsp = Op.mgtData then req == Op.mgtRead
  else if rsp = Op.mgtAck then req == Op.mgtRead || req == Op.mgtWrite
  else false

/-- The tag that a response answers; none for a stray (R429). -/
def answeredTag (m : Mach) (p : Packet) : Option TagSt :=
  match m.tagOf p.tag with
  | some t =>
    if t.quarantine.isSome || p.src != t.dst || !t.sent || t.answered || !answersOp t.op p.opcode
      || (p.opcode == Op.readData && decide (t.len < p.aux + p.length)) then none
    else some t
  | none => none

/-- A stray response (R429): counted; the final packet of a quarantined tag's response ends the quarantine. -/
def strayRsp (m : Mach) (p : Packet) : Mach :=
  let m := m.bump .ep Pg.eId R.ep4StrayRspCnt
  match m.tagOf p.tag with
  | some t => if t.quarantine.isSome ∧ p.src = t.dst ∧ p.last = 1 then m.freeTag p.tag false else m
  | none => m

/-- Fill a line of the read buffer (R127). -/
def rbFill (m : Mach) (c addr : Nat) (bs : List Byte) : Mach :=
  m.setEp { m.ep with rb := m.ep.rb.map fun l =>
    if l.ctx = c ∧ l.addr = addr then { l with valid := true, data := bs } else l }

def rbForget (m : Mach) (c addr : Nat) : Mach :=
  m.setEp { m.ep with rb := m.ep.rb.filter fun l => !(l.ctx == c && l.addr == addr && !l.valid) }

/-- Note the flags of a response in its descriptor's record (R422). -/
def noteRsp (m : Mach) (t : TagSt) (p : Packet) : Mach :=
  m.updSlot t.engine t.slot fun s =>
    { s with
        echo := s.echo || p.echo == 1, poisoned := s.poisoned || (p.poison == 1 && p.opcode != Op.nack),
        acks := if p.opcode = Op.writeAck ∨ p.opcode = Op.atomicAck then s.acks + 1 else s.acks,
        unretired := s.unretired || ((p.opcode == Op.writeAck || p.opcode == Op.atomicAck) && bitsOf p.aux 0 1 == 0) }

end Mach

namespace SM

/-- What a response does to its descriptor. -/
def applyRsp (x : SM) (t : TagSt) (s : Slot) (p : Packet) : SM :=
  let m := x.2
  let tag := some p.tag
  let fail := fun (st : Nat) => (m.slotStop t.engine t.slot fun s =>
    { s with nacked := if s.nacked.isSome then s.nacked else some st })
  if p.opcode = Op.nack then
    (x.1, if s.op = DOp.prefetch then (fail p.status).rbForget t.ctx t.off else fail p.status)
  else if p.opcode = Op.mgtAck then if p.status = 0 then x else (x.1, fail p.status)
  else if p.poison = 1 then (x.1, if s.op = DOp.prefetch then m.rbForget t.ctx t.off else m)
  else if p.opcode = Op.readData then
    if s.op = DOp.prefetch then (x.1, m.rbFill t.ctx t.off p.payload)
    else
      let m := m.updSlot t.engine t.slot fun s => { s with moved := s.moved + p.length }
      SM.sinkTo (x.1, m) s s.dstSpace (s.w 3 + t.off + p.aux) p.payload tag
  else if p.opcode = Op.writeAck then (x.1, m.updSlot t.engine t.slot fun s => { s with moved := s.moved + t.len })
  else if p.opcode = Op.atomicData then
    (x.1, (m.updSlot t.engine t.slot fun s => { s with value := ofLeBytes (p.payload.take 8) }).sinkLocal t.engine t.slot
      (s.w 3) p.payload tag)
  else if p.opcode = Op.syncNotify then
    let v := ofLeBytes p.payload
    (x.1, (m.updSlot t.engine t.slot fun r =>
      { r with value := v, other := if v < s.w 4 then Done.waitExpired else r.other }).sinkLocal t.engine t.slot
        (s.w 3) p.payload tag)
  else if p.opcode = Op.mgtData then (x.1, m.sinkLocal t.engine t.slot (s.w 3) p.payload tag)
  else x

/-- A response reaches the EP-4 at a port. -/
def response (x : SM) (port : Nat) (p : Packet) : SM :=
  let queued := x.2.waits .ep port p
  let m := if queued then (x.2.collect .ep port p).epCredit port p else x.2
  let m := if p.vc = 1 ∧ p.last = 1 then m.rateCount port 0 p.src (m.planeOfPort port) (p.echo == 1) else m
  match m.answeredTag p with
  | none => (x.1, m.strayRsp p)
  | some t =>
    let m := m.noteRsp t p
    let x := match m.findSlot t.engine t.slot with
      | some s => SM.applyRsp (x.1, m) t s p
      | none => (x.1, m)
    let m := x.2
    let m := match m.tagOf p.tag with
      | some t =>
        if p.last = 1 then
          let failed := p.opcode == Op.nack
          let m := m.setTag p.tag (some { t with answered := true })
          if failed then
            (m.freeTag p.tag true).slotDo t.engine t.slot fun s => { s with packets := s.packets - 1 }
          else m.tagDone p.tag
        else m
      | none => m
    (x.1, m)

/-! ## Units without a request (R416) -/

/-- The kind of receive that an opcode fits. -/
def recvKind (op : Nat) : Nat :=
  if op = Op.pltResult then 0 else if op = Op.bktDeliver then 1 else if op = Op.bktDropmap then 2 else 3

/-- Whether a posted receive takes a unit whose first packet is `p`, arriving from plane `plane`. -/
def recvFits (s : Slot) (p : Packet) (plane : Nat) : Bool :=
  let w := s.w 2
  let kind := recvKind p.opcode
  s.op == DOp.collRecv && s.begun && !s.aborted && !s.done && !s.allIssued && s.ctx == p.context && bitsOf w 0 2 == kind
    && bitsOf w 2 13 == (if kind = 3 then CufAux.group p else bitsOf p.aux 0 13)
    && (kind != 0 || bitsOf w 15 8 == bitsOf p.aux 45 8)
    && (kind != 3 || (s.w 4) % 2 ^ 47 == CufAux.opening p)
    && bitsOf w 30 16 / 2 ^ plane % 2 == 1

/-- The receive that takes a packet: that of the unit in progress at its port, else the oldest that fits. -/
def recvFor (m : Mach) (port : Nat) (p : Packet) : RecvUnit :=
  let inUnit := if spansPackets p.opcode then Tbl.get (fun _ => none) m.ep.recv port else none
  match inUnit with
  | some r => r
  | none =>
    match (m.ep.slots.mergeSort fun a b => a.order ≤ b.order).find? fun s => recvFits s p (m.planeOfPort port) with
    | some s => { engine := s.engine, slot := s.num }
    | none => { engine := 0, slot := 0, matched := false }

/-- Where a unit's packet is written (R416). -/
def recvPlace (s : Slot) (p : Packet) (plane : Nat) : Nat :=
  let w := s.w 2
  let ps := planesOf s.planeMask
  let j := (ps.filter (· < plane)).length
  let kind := bitsOf w 0 2
  if kind = 0 then
    let e := 256 * 2 ^ bitsOf w 23 3
    let sl := Slot.sliceOf (bitsOf (s.w 4) 0 32) ps.length e
    s.w 3 + fmtBytes (bitsOf w 26 4) (j * sl + bitsOf p.aux 21 24 * e) + p.address
  else if kind = 1 then
    let cap := bitsOf (s.w 4) 0 17
    s.w 3 + bitsOf p.aux 21 8 * (cap + cap / (16 * 2 ^ bitsOf (s.w 4) 17 3)) + p.address
  else if kind = 2 then s.w 3
  else s.w 3 + j * 64 * ceilDiv p.length 64

/-- Write a packet of a matched unit. -/
def recvWrite (x : SM) (s : Slot) (p : Packet) (plane : Nat) : SM :=
  let kind := bitsOf (s.w 2) 0 2
  let addr := recvPlace s p plane
  let late := kind == 3 && p.status == Status.late
  let m := x.2.updSlot s.engine s.num fun s =>
    { s with
        echo := s.echo || p.mark == 1, planes := s.planes ||| 2 ^ plane, late := s.late || late,
        poisoned := s.poisoned || p.poison == 1,
        value := if kind = 2 then ofLeBytes (p.payload.take 8) else if late then s.value ||| 2 ^ plane else s.value,
        units := if p.last = 1 then s.units + 1 else s.units }
  if p.poison = 1 then (x.1, m)
  else if !m.inPlace s.ctx s.dstSpace addr p.length then
    (x.1, m.updSlot s.engine s.num fun s => { s with other := Done.badLocal })
  else
    SM.sinkTo (x.1, m.updSlot s.engine s.num fun s => { s with moved := s.moved + p.length }) s s.dstSpace addr p.payload none

/-- A unit's packet reaches the EP-4 at a port. -/
def unit (x : SM) (port : Nat) (p : Packet) : SM :=
  let queued := x.2.waits .ep port p
  let m := if queued then (x.2.collect .ep port p).epCredit port p else x.2
  let plane := m.planeOfPort port
  let m := if homeVc p.opcode = some 2 then m.rateCount port 2 (960 + plane) plane (p.mark == 1) else m
  let r := recvFor m port p
  let started := spansPackets p.opcode && (Tbl.get (fun _ => none) m.ep.recv port).isSome
  let m := if spansPackets p.opcode then
      m.setEp { m.ep with recv := Tbl.set (fun _ => none) m.ep.recv port (if p.last = 1 then none else some r) }
    else m
  if r.matched then
    match m.findSlot r.engine r.slot with
    | some s => if s.aborted ∨ s.done then (x.1, m) else SM.recvWrite (x.1, m) s p plane
    | none => (x.1, m)
  else if started then (x.1, m)
  else (x.1, (m.bump .ep Pg.eId R.ep4UnmatchedCnt).epPfault p.pkey Reason.responseLost)

/-! ## The memory port's answers (R381, R384) -/

/-- The memory's effect of a request and the bytes of its answer: open where the answer says uncorrectable data. -/
def memEffect (x : SM) (q : MpReq) (status : Nat) : List Byte × SM :=
  if status = 2 then ([], x)
  else if q.cmd = 1 then
    if status = 0 then ([], ({ x.1 with loc := x.1.loc.writeN q.addr q.data }, x.2))
    else
      let (v, m) := x.2.fresh (8 * q.len)
      ([], ({ x.1 with loc := x.1.loc.writeN q.addr (leBytes q.len v.toNat) }, m))
  else
    let (old, m) := if status = 0 then (x.1.loc.readN q.addr q.len, x.2)
      else
        let (v, m) := x.2.fresh (8 * q.len)
        (leBytes q.len v.toNat, m)
    if q.cmd = 0 then (old, (x.1, m))
    else (old, ({ x.1 with loc := x.1.loc.writeN q.addr (atomicBytes q.modifier old q.data) }, m))

/-- A record's write is answered (R384, R424, R425). -/
def recorded (m : Mach) (e n status : Nat) : Mach :=
  match m.findSlot e n with
  | none => m
  | some s =>
    if status = 1 then
      (m.updSlot e n fun s => { s with writing := false, poisoned := true }).epPfault s.key Reason.localPoison
    else if status = 2 then m.updSlot e n fun s => { s with writing := false, other := Done.badLocal }
    else
      let pg := Pg.ctx s.ctx
      let m := m.setReg .ep pg R.ep4CtxCqProd ((m.reg .ep pg R.ep4CtxCqProd + 1) % 2 ^ 32)
      let m := m.removeSlot e n
      if s.irq ∧ m.bit .ep pg F.ep4CtxCqSize_irqEn ∧ !m.ep.notify.contains s.ctx then
        (m.setEp { m.ep with notify := m.ep.notify ++ [s.ctx] }).emit (.notify s.ctx)
      else m

/-- MP_RESPONSE: the request of tag `tag` is answered with `status`. -/
def mpAnswer (x : SM) (tag status : Nat) : SM :=
  match x.2.ep.mp.find? fun q => q.tag == tag with
  | none => x
  | some q =>
    let first := x.2.ep.mp.find? fun r => r.ord == q.ord
    if 2 < status ∨ (q.ord ≠ 0 ∧ first.map (·.tag) ≠ some tag) then x
    else
      let (bs, x) := x.memEffect q status
      let m := x.2.setEp { x.2.ep with mp := x.2.ep.mp.filter fun r => r.tag != tag }
      let m := if status = 0 then m else m.bump .ep Pg.eMp R.ep4MpErrCnt
      match q.use with
      | .serve id off => (x.1, m.serveAnswered id off q.len status bs)
      | .fetch id off =>
        (x.1, m.setEp { m.ep with fetch := m.ep.fetch.map fun f =>
          if f.id = id then { f with out := f.out - 1, pieces := f.pieces ++ [(off, bs)], status := max f.status status }
          else f })
      | .sink e n t =>
        let m := m.updSlot e n fun s => { s with access := s.access - 1 }
        let m := if status = 0 then m else m.ownFail e n status
        let m := match t, t.bind m.tagOf with
          | some t, some ts => (m.setTag t (some { ts with sinks := ts.sinks - 1 })).tagDone t
          | _, _ => m
        (x.1, m.settle e n)
      | .record e n => (x.1, recorded m e n status)

/-! ## Completion records (R422, R424) -/

/-- The 32 bytes of the record that a descriptor leaves at index `k` of a ring of 2^`lg` records. -/
def recordBytes (s : Slot) (k lg : Nat) : List Byte :=
  let b := fun (x : Bool) (i : Nat) => if x then 2 ^ i else 0
  leBytes 4 s.index ++ leBytes 1 s.engine ++ leBytes 1 s.status ++ leBytes 1 s.op
    ++ leBytes 1 (1 - k / 2 ^ lg % 2 + b s.echo 1 + b s.late 2 + b s.padded 3 + b s.truncated 4
        + b (decide (0 < s.acks) && !s.unretired) 5)
    ++ leBytes 2 (s.nacked.getD 0) ++ leBytes 2 s.planes ++ leBytes 4 (min s.moved (2 ^ 32 - 1)) ++ leBytes 8 s.value
    ++ leBytes 8 (s.w 1)

/-- COMPLETION_WRITE: the record of a completed descriptor, once its local writes are answered and the ring has room. -/
def writeRecord (m : Mach) (e n : Nat) : Mach :=
  match m.findSlot e n with
  | none => m
  | some s =>
    let busy := m.ep.slots.any fun t => t.ctx == s.ctx && t.writing
    if !s.done || s.writing || busy || decide (0 < s.access) || m.cqFull s.ctx || !(s.cq || s.status != 0) then m
    else
      let lg := m.cqLog s.ctx
      let k := m.reg .ep (Pg.ctx s.ctx) R.ep4CtxCqProd
      let m := m.updSlot e n fun s => { s with writing := true }
      m.mpPush 1 (m.cqBase s.ctx + 32 * (k % 2 ^ lg)) 32 0 0 (recordBytes s k lg) (.record e n)

end SM

namespace Mach

/-! ## Aborts (R427, R429) -/

/-- Whether the context has no request at the memory port. -/
def ctxQuiet (m : Mach) (c : Nat) : Bool :=
  let mine := fun (e n : Nat) => m.ownerCtx (some (e, n)) == some c
  !(m.ep.mp.any fun q =>
    match q.use with
    | .sink e n _ | .record e n => mine e n
    | .fetch id _ =>
      m.ep.fetch.any fun f => f.id == id &&
        match f.use with
        | .copy e n _ | .host e n _ | .table e n => mine e n
        | .tx _ => false
    | .serve _ _ => false)

/-- CONTEXT_ABORT_DONE: steps 3 to 5 of an abort. -/
def abortDone (m : Mach) (c : Nat) : Mach :=
  match Tbl.get (fun _ => none) m.ep.abort c with
  | none => m
  | some (reason, at_) =>
    if m.ctxFault c ≠ 1 ∨ !m.ctxQuiet c then m
    else
      let m := (m.ep.slots.filter fun s => s.ctx == c && s.aborted && !s.done).foldl
        (fun m s => m.finishSlot { s with access := 0 }) m
      let m := m.setEp { m.ep with
        host := m.ep.host.filter (fun h => m.ownerCtx (some (h.engine, h.slot)) != some c)
        fetch := m.ep.fetch.filter (fun f =>
          match f.use with
          | .copy e n _ | .host e n _ | .table e n => m.ownerCtx (some (e, n)) != some c
          | .tx id => m.ep.tx.any fun t => t.id == id)
        abort := Tbl.set (fun _ => none) m.ep.abort c none }
      let pg := Pg.ctx c
      let m := m.setFld .ep pg F.ep4CtxFault_state 2
      let m := m.setFld .ep pg F.ep4CtxFault_reason reason
      let m := m.setFld .ep pg F.ep4CtxFault_stitch (at_ % 2 ^ 15)
      m.raise .ep pg 1 0

/-- CONTEXT_FAULT_CLEAR: a faulted context is to return to ready with the next stitch. -/
def faultClear (m : Mach) (c : Nat) : Mach :=
  if m.ctxFault c = 2 ∧ !m.ep.clearing.contains c then m.setEp { m.ep with clearing := m.ep.clearing ++ [c] } else m

/-- The stitch boundary ends the wait of `faultClear`; a drained ring may be read again (R403). -/
def applyClears (m : Mach) : Mach :=
  let m := m.ep.clearing.foldl (fun m c => m.setFld .ep (Pg.ctx c) F.ep4CtxFault_state 0) m
  m.setEp { m.ep with
    ringFault := m.ep.ringFault.filter fun e => match m.engCtx e with | some c => !m.ep.clearing.contains c | none => false
    clearing := [] }

/-- TAG_QUARANTINE_EXPIRY (R429). -/
def tagExpire (m : Mach) (t : Nat) : Mach :=
  match m.tagOf t with
  | some ts =>
    match ts.quarantine with
    | some b => if b ≤ m.epTime.number then (m.freeTag t false).epPfault ts.key Reason.tagExpired else m
    | none => m
  | none => m

/-- PFAULT (R427, R459): every context of the key is aborted; reason TORN also tears its confidential contexts, which the
EP-4 then reports itself. -/
def pfaultIn (m : Mach) (port : Nat) (p : Packet) : Mach :=
  let m := if m.waits .ep port p then (m.collect .ep port p).epCredit port p else m
  let key := p.pkey
  let reason := p.aux % 256
  let conf := (List.range m.ctxCount).filter fun c => m.epBound c && m.epKey c == key && m.epConf c && m.ctxConf c != 3
  let m := m.epFault key reason true
  if reason = Reason.torn ∧ conf ≠ [] then (conf.foldl (fun m c => m.tearCtx c) m).epPfault key Reason.torn else m

/-! ## Doorbells (R401) and session keys (R444) -/

/-- A write of `value` to EP4_CTX_DB(k). -/
def doorbell (m : Mach) (c k value : Nat) : Mach :=
  if m.ctxScrubbing c then m
  else
    let prod := m.descProd c k
    let used := idxDiff prod (m.descCons c k)
    if idxDiff value prod ≤ 2 ^ m.descLog c k - used then m.setReg .ep (Pg.ctx c) (R.ep4CtxDb k) (value % 2 ^ 32)
    else (m.bump .ep Pg.eId R.ep4DbErrCnt).raise .ep (Pg.ctx c) 0 0

/-- Whether a HOST_COPY of the context has been taken and is not complete. -/
def hostCopying (m : Mach) (c : Nat) : Bool :=
  m.ep.slots.any fun s => s.ctx == c && s.op == DOp.hostCopy && !s.complete

/-- A write of word `i` of EP4_CTX_KEY over `path`. -/
def keyWrite (m : Mach) (c i : Nat) (w : Word) (path : Path) : Mach :=
  if path ≠ .accel ∨ !m.epConf c ∨ m.ctxConf c = 3 ∨ m.hostCopying c then m.bump .ep Pg.eHost R.ep4KeyRefusedCnt
  else
    let k : SessionKey := Tbl.get (fun _ => {}) m.ep.keys c
    let words := (k.words.filter fun x => x.1 != i) ++ [(i, w)]
    if i = 7 ∧ (List.range 7).all (fun j => words.any fun x => x.1 == j) then
      let v := (List.range 8).foldl
        (fun a j => a + ((words.find? fun x => x.1 == j).map (fun x => x.2.toNat)).getD 0 * 2 ^ (32 * j)) 0
      let m := m.setEp { m.ep with
        keys := Tbl.set (fun _ => {}) m.ep.keys c { words := [], key := some (BitVec.ofNat 256 v) } }
      let m := m.setFld .ep (Pg.ctx c) F.ep4CtxConf_state 2
      SM.setSeq (SM.setSeq m c R.ep4CtxSeqTxLo R.ep4CtxSeqTxHi 0) c R.ep4CtxSeqRxLo R.ep4CtxSeqRxHi 0
    else m.setEp { m.ep with keys := Tbl.set (fun _ => {}) m.ep.keys c { k with words := words } }

/-- All eight words of a session key, low word first. -/
def keyLoad (m : Mach) (c value : Nat) (path : Path) : Mach :=
  (List.range 8).foldl (fun m i => m.keyWrite c i (BitVec.ofNat 32 (value / 2 ^ (32 * i))) path) m

end Mach

namespace SM

/-- CONTEXT_SCRUB_DONE (R441, step 5): zeros stand in the scratch ranges, and the context is no longer scrubbing. -/
def scrubDone (x : SM) (c : Nat) : SM :=
  let rs := x.2.ep.scrub.filter fun r => r.1 == c
  let inside := fun (a : Nat) => rs.any fun r => decide (r.2.1 ≤ a ∧ a < r.2.1 + r.2.2)
  if !x.2.ctxScrubbing c then x
  else
    ({ x.1 with scratch := x.1.scratch.filter fun e => !inside e.1 },
     (x.2.setEp { x.2.ep with
        scrub := x.2.ep.scrub.filter (fun r => r.1 != c)
        scrBad := x.2.ep.scrBad.filter (fun w => !inside (8 * w)) }).setFld .ep (Pg.ctx c) F.ep4CtxConf_scrubbing 0)

/-- HOST_BUS_ANSWER: an access of a HOST_COPY is answered. -/
def hostAnswer (x : SM) (id : Nat) (ok : Bool) (bs : List Byte) : SM :=
  match x.2.ep.host.find? fun h => h.id == id with
  | none => x
  | some h => SM.hostAnswered (x.1, x.2.setEp { x.2.ep with host := x.2.ep.host.filter fun g => g.id != id }) h ok bs

end SM

/-! ## Meanings -/

/-- A command of the EP-4: its effect, and then whatever the engines can do. -/
def State.epGo (s : State) (f : SM → SM) : Host.Outcome State Fault Refusal := s.goS fun x => SM.epRun (f x)

def State.epGoM (s : State) (f : Mach → Mach) : Host.Outcome State Fault Refusal := s.epGo fun x => (x.1, f x.2)

/-- A descriptor slot of the instance. -/
def Mach.hasSlot (m : Mach) (e n : Nat) : Bool := decide (e < m.epParams.engines ∧ n < 64)
def Mach.hasEng (m : Mach) (e : Nat) : Bool := decide (e < m.epParams.engines)
def Mach.hasCtx (m : Mach) (c : Nat) : Bool := decide (c < m.ctxCount)

/-- DESCRIPTOR_TAKE (R402): a posted descriptor enters a free slot; `status` is the answer to its read. -/
def execDescriptorTake (e status : Nat) (s : State) : Host.Outcome State Fault Refusal :=
  State.unit (s.m.hasEng e) (s.epGo fun x => x.takeDesc e status)

/-- NOP (R420): complete when taken. -/
def execNop (e n : Nat) (s : State) : Host.Outcome State Fault Refusal :=
  State.unit (s.m.hasSlot e n) (s.epGo fun x => x.begin e n DOp.nop)

/-- FENCE (R119, R420): complete when taken; the take holds later descriptors. -/
def execFence (e n : Nat) (s : State) : Host.Outcome State Fault Refusal :=
  State.unit (s.m.hasSlot e n) (s.epGo fun x => x.begin e n DOp.fence)

/-- PUT (R409, R410). -/
def execPut (e n : Nat) (s : State) : Host.Outcome State Fault Refusal :=
  State.unit (s.m.hasSlot e n) (s.epGo fun x => x.begin e n DOp.put)

/-- GET (R409). -/
def execGet (e n : Nat) (s : State) : Host.Outcome State Fault Refusal :=
  State.unit (s.m.hasSlot e n) (s.epGo fun x => x.begin e n DOp.get)

/-- PREFETCH (R127, R393). -/
def execPrefetch (e n : Nat) (s : State) : Host.Outcome State Fault Refusal :=
  State.unit (s.m.hasSlot e n) (s.epGo fun x => x.begin e n DOp.prefetch)

/-- INVALIDATE (R129). -/
def execInvalidate (e n : Nat) (s : State) : Host.Outcome State Fault Refusal :=
  State.unit (s.m.hasSlot e n) (s.epGo fun x => x.begin e n DOp.invalidate)

/-- ATOMIC (R411). -/
def execDescAtomic (e n : Nat) (s : State) : Host.Outcome State Fault Refusal :=
  State.unit (s.m.hasSlot e n) (s.epGo fun x => x.begin e n DOp.atomic)

/-- ATOMIC_POSTED (R406, R410). -/
def execDescAtomicPosted (e n : Nat) (s : State) : Host.Outcome State Fault Refusal :=
  State.unit (s.m.hasSlot e n) (s.epGo fun x => x.begin e n DOp.atomicPosted)

/-- SYNC_WAIT (R411). -/
def execDescSyncWait (e n : Nat) (s : State) : Host.Outcome State Fault Refusal :=
  State.unit (s.m.hasSlot e n) (s.epGo fun x => x.begin e n DOp.syncWait)

/-- LOCAL_COPY (R392, R409). -/
def execLocalCopy (e n : Nat) (s : State) : Host.Outcome State Fault Refusal :=
  State.unit (s.m.hasSlot e n) (s.epGo fun x => x.begin e n DOp.localCopy)

/-- HOST_COPY (R395, R446). -/
def execHostCopy (e n : Nat) (s : State) : Host.Outcome State Fault Refusal :=
  State.unit (s.m.hasSlot e n) (s.epGo fun x => x.begin e n DOp.hostCopy)

/-- MGT (R412). -/
def execMgt (e n : Nat) (s : State) : Host.Outcome State Fault Refusal :=
  State.unit (s.m.hasSlot e n) (s.epGo fun x => x.begin e n DOp.mgt)

/-- PLT_SEND (R413). -/
def execPltSend (e n : Nat) (s : State) : Host.Outcome State Fault Refusal :=
  State.unit (s.m.hasSlot e n) (s.epGo fun x => x.begin e n DOp.pltSend)

/-- BKT_SEND (R414). -/
def execDescBktSend (e n : Nat) (s : State) : Host.Outcome State Fault Refusal :=
  State.unit (s.m.hasSlot e n) (s.epGo fun x => x.begin e n DOp.bktSend)

/-- CUF_SEND (R415): waits for its opening stitch. -/
def execCufSend (e n : Nat) (s : State) : Host.Outcome State Fault Refusal :=
  State.unit (s.m.hasSlot e n) (s.epGo fun x => x.begin e n DOp.cufSend)

/-- CUF_SEND_START (R415): its shares are sent. -/
def execCufSendStart (e n : Nat) (s : State) : Host.Outcome State Fault Refusal :=
  State.unit (s.m.hasSlot e n) (s.epGo fun x => x.cufStart e n)

/-- COLL_RECV (R416): the receive is posted. -/
def execCollRecv (e n : Nat) (s : State) : Host.Outcome State Fault Refusal :=
  State.unit (s.m.hasSlot e n) (s.epGo fun x => x.begin e n DOp.collRecv)

/-- FLAGGED_STORE_RELEASE (R122, R123). -/
def execFlaggedStoreRelease (e stream : Nat) (s : State) : Host.Outcome State Fault Refusal :=
  State.unit (s.m.hasEng e) (s.epGoM fun m => m.releaseFlagged e stream)

/-- MP_RESPONSE (R381, R384). -/
def execMpResponse (tag status : Nat) (s : State) : Host.Outcome State Fault Refusal :=
  s.epGo fun x => x.mpAnswer tag status

/-- COMPLETION_WRITE (R424). -/
def execCompletionWrite (e n : Nat) (s : State) : Host.Outcome State Fault Refusal :=
  State.unit (s.m.hasSlot e n) (s.epGoM fun m => SM.writeRecord m e n)

/-- NOTIFY_READY (R425): the oldest pending notification ends. -/
def execNotifyReady (s : State) : Host.Outcome State Fault Refusal :=
  s.epGoM fun m => m.setEp { m.ep with notify := m.ep.notify.drop 1 }

/-- CONTEXT_ABORT_DONE (R427). -/
def execContextAbortDone (c : Nat) (s : State) : Host.Outcome State Fault Refusal :=
  State.unit (s.m.hasCtx c) (s.epGoM fun m => m.abortDone c)

/-- CONTEXT_FAULT_CLEAR (R427). -/
def execContextFaultClear (c : Nat) (s : State) : Host.Outcome State Fault Refusal :=
  State.unit (s.m.hasCtx c) (s.epGoM fun m => m.faultClear c)

/-- TAG_QUARANTINE_EXPIRY (R429). -/
def execTagQuarantineExpiry (tag : Nat) (s : State) : Host.Outcome State Fault Refusal :=
  s.epGoM fun m => m.tagExpire tag

/-- SESSION_KEY_LOAD (R444): the eight words of a key are written over `path`. -/
def execSessionKeyLoad (c value : Nat) (path : Path) (s : State) : Host.Outcome State Fault Refusal :=
  State.unit (s.m.hasCtx c) (s.epGoM fun m => m.keyLoad c value path)

/-- CONTEXT_SCRUB_DONE (R441). -/
def execContextScrubDone (c : Nat) (s : State) : Host.Outcome State Fault Refusal :=
  State.unit (s.m.hasCtx c) (s.epGo fun x => x.scrubDone c)

/-- DOORBELL (R401): a write of a ring's producer index. -/
def execDoorbell (c k value : Nat) (_path : Path) (s : State) : Host.Outcome State Fault Refusal :=
  State.unit (s.m.hasCtx c && decide (k < 32)) (s.epGoM fun m => m.doorbell c k value)

/-- PFAULT (R427). -/
def execPfault (port : Nat) (p : Packet) (s : State) : Host.Outcome State Fault Refusal :=
  State.unit (s.m.hasPort .ep port) (s.epGoM fun m => m.pfaultIn port p)

/-- READ_DATA (R94, R409). -/
def execReadData (port : Nat) (p : Packet) (s : State) : Host.Outcome State Fault Refusal :=
  State.unit (s.m.hasPort .ep port)
    (s.epGo fun x => if p.opcode = Op.readData then x.response port p else x)

/-- WRITE_ACK (R95, R114). -/
def execWriteAck (port : Nat) (p : Packet) (s : State) : Host.Outcome State Fault Refusal :=
  State.unit (s.m.hasPort .ep port)
    (s.epGo fun x => if p.opcode = Op.writeAck then x.response port p else x)

/-- ATOMIC_DATA (R411). -/
def execAtomicData (port : Nat) (p : Packet) (s : State) : Host.Outcome State Fault Refusal :=
  State.unit (s.m.hasPort .ep port)
    (s.epGo fun x => if p.opcode = Op.atomicData then x.response port p else x)

/-- ATOMIC_ACK (R95, R114). -/
def execAtomicAck (port : Nat) (p : Packet) (s : State) : Host.Outcome State Fault Refusal :=
  State.unit (s.m.hasPort .ep port)
    (s.epGo fun x => if p.opcode = Op.atomicAck then x.response port p else x)

/-- SYNC_NOTIFY (R411). -/
def execSyncNotify (port : Nat) (p : Packet) (s : State) : Host.Outcome State Fault Refusal :=
  State.unit (s.m.hasPort .ep port)
    (s.epGo fun x => if p.opcode = Op.syncNotify then x.response port p else x)

/-- NACK (R421). -/
def execNack (port : Nat) (p : Packet) (s : State) : Host.Outcome State Fault Refusal :=
  State.unit (s.m.hasPort .ep port)
    (s.epGo fun x => if p.opcode = Op.nack then x.response port p else x)

/-- PLT_RESULT (R416). -/
def execPltResult (port : Nat) (p : Packet) (s : State) : Host.Outcome State Fault Refusal :=
  State.unit (s.m.hasPort .ep port)
    (s.epGo fun x => if p.opcode = Op.pltResult then x.unit port p else x)

/-- BKT_DELIVER (R416). -/
def execBktDeliver (port : Nat) (p : Packet) (s : State) : Host.Outcome State Fault Refusal :=
  State.unit (s.m.hasPort .ep port)
    (s.epGo fun x => if p.opcode = Op.bktDeliver then x.unit port p else x)

/-- BKT_DROPMAP (R340, R416). -/
def execBktDropmap (port : Nat) (p : Packet) (s : State) : Host.Outcome State Fault Refusal :=
  State.unit (s.m.hasPort .ep port)
    (s.epGo fun x => if p.opcode = Op.bktDropmap then x.unit port p else x)

/-- CUF_RESULT (R416). -/
def execCufResult (port : Nat) (p : Packet) (s : State) : Host.Outcome State Fault Refusal :=
  State.unit (s.m.hasPort .ep port)
    (s.epGo fun x => if p.opcode = Op.cufResult then x.unit port p else x)

/-- HOST_BUS_ANSWER (R395, R448). -/
def execHostBusAnswer (id : Nat) (ok : Bool) (bs : List Byte) (s : State) : Host.Outcome State Fault Refusal :=
  s.epGo fun x => x.hostAnswer id ok bs

end Sys2Proof.Machine
end

