-- ==== Sys2Proof/Machine/Guard.lean ====
section
/-! DEFINITION. The Guards of the two chips: staging, sealing, approval, expiry and commit of a protection change, the relay
to end-points, and torn keys (chapter "Isolation, confidential contexts and dual control"). -/

namespace Sys2Proof.Machine
open Sys2Proof

/-! ## Principals (R434) -/

/-- The two principals. -/
inductive Principal where
  | a
  | b
  deriving DecidableEq, Repr

/-- The principal of an access by its path.  On an EP-4 the path `i3c` stands for a request that a relay of principal B
sent (R456). -/
def principal (c : Chip) (path : Path) : Option Principal :=
  match c, path with
  | .sx, .pcie => some .a
  | .ep, .bar0 => some .a
  | _, .vc4 => some .a
  | _, .i3c => some .b
  | _, _ => none

/-- Page of the Guard's registers, and a register's offset there by chip (R461, R462). -/
def guardPage (c : Chip) : Nat := if c = .sx then Pg.guard else Pg.eId
def byChip (c : Chip) (sx ep : Nat) : Nat := if c = .sx then sx else ep

/-- CRC-32 of a sequencer image (R591), bit by bit and over bytes. -/
def crc32Bit (c : Word) (b : Bool) : Word :=
  let x := (c &&& 1 == 1) != b
  if x then (c >>> 1) ^^^ 0xEDB88320#32 else c >>> 1
def crc32Byte (c : Word) (b : Byte) : Word := (List.range 8).foldl (fun c i => crc32Bit c (b.getLsbD i)) c
def crc32 (bs : List Byte) : Word := ~~~(bs.foldl crc32Byte (BitVec.allOnes 32))

namespace Mach

/-! ## Items (R449, R450) -/

/-- Whether the word at an item address is a Guard item. -/
def guardItem (m : Mach) (c : Chip) (k : Nat) : Bool :=
  match wordInfo m.epParams c k with
  | some i => i.group == 33
  | none => false

/-- Item addresses in ascending order, without repeats. -/
def sortKeys (ks : List Nat) : List Nat :=
  (ks.foldl (fun (t : Tbl Unit) k => Tbl.insert (Tbl.erase t k) k ()) []).map (·.1)

/-- The change: every staged word that differs from its live word, in ascending item address. -/
def guardChange (m : Mach) (c : Chip) : List Nat :=
  sortKeys (((m.rf c).shadow.map (·.1) ++ (m.rf c).live.map (·.1)).filter fun k =>
    m.guardItem c k && m.shadow c k != m.liveCopy c k)

/-- The staged copy is reloaded from live. -/
def guardReload (m : Mach) (c : Chip) (ks : List Nat) : Mach :=
  ks.foldl (fun m k => m.setShadow c k (m.liveCopy c k)) m

/-! ## The lock state (R451) -/

def guardRun (m : Mach) : Chip → GuardRun
  | .sx => m.guardSx
  | .ep => m.guardEp

def setGuardRun (m : Mach) (c : Chip) (g : GuardRun) : Mach :=
  match c with
  | .sx => { m with guardSx := g }
  | .ep => { m with guardEp := g }

/-- The lock state: 0 OPEN, 1 SEALED, 2 ARMED; a vote that yields 3 is OPEN (R548). -/
def guardState (m : Mach) (c : Chip) : Nat :=
  let v := m.fld c (guardPage c) (if c = .sx then F.grdState_state else F.ep4GrdState_state)
  if v = 3 then 0 else v

def setGuardState (m : Mach) (c : Chip) (v : Nat) : Mach :=
  m.setFld c (guardPage c) (if c = .sx then F.grdState_state else F.ep4GrdState_state) v

def approvedFld (c : Chip) : Principal → Fld
  | .a => if c = .sx then F.grdState_approvedA else F.ep4GrdState_approvedA
  | .b => if c = .sx then F.grdState_approvedB else F.ep4GrdState_approvedB

/-- A counter of the Guard page; the EP-4 has none of them (R462). -/
def guardCount (m : Mach) (c : Chip) (off : Nat) : Mach := if c = .sx then m.bump .sx Pg.guard off else m

/-- A Guard event: 0 committed, 1 discarded, 2 late (R638, R639). -/
def guardEvent (m : Mach) (c : Chip) (n : Nat) : Mach := m.raise c (guardPage c) (byChip c n (8 + n)) 0

def guardErr (m : Mach) (c : Chip) (code : Nat) (k : Option Nat) : Mach :=
  let pg := guardPage c
  let m := m.setReg c pg (byChip c R.grdErr R.ep4GrdErr) code
  match k with
  | some k =>
    (m.setReg c pg (byChip c R.grdErrAddrLo R.ep4GrdErrAddrLo) (k % 2 ^ 32)).setReg c pg
      (byChip c R.grdErrAddrHi R.ep4GrdErrAddrHi) (k / 2 ^ 32)
  | none => m

/-- OPEN again: no approval stands. -/
def guardOpen (m : Mach) (c : Chip) : Mach :=
  let m := m.setGuardState c 0
  let m := (m.setFld c (guardPage c) (approvedFld c .a) 0).setFld c (guardPage c) (approvedFld c .b) 0
  m.setGuardRun c { m.guardRun c with at_ := none, due := none }

/-- A sealed or armed change is discarded: staged words are reloaded and the event raised. -/
def guardDiscard (m : Mach) (c : Chip) (event : Nat) : Mach :=
  ((m.guardReload c (m.guardChange c)).guardOpen c).guardEvent c event

/-- A change of stitches that a chip times by its own count (R454, R67). -/
def chipTimed (m : Mach) : Chip → Bool
  | .sx => m.timed
  | .ep => m.epTimed

/-- The stitch in whose hem a request served at cycle `x` is due (R51). -/
def dueStitch (m : Mach) (c : Chip) (x : Nat) : Nat := if x ≤ 776 then m.now c else m.now c + 1

/-- A request for a named stitch that is late (R52, R67). -/
def isLate (m : Mach) (c : Chip) (x at_ : Nat) : Bool :=
  !m.chipTimed c || decide (at_ < m.now c) || (decide (at_ = m.now c) && decide (776 < x))

/-! ## Staging, seal, abort (R450 to R452) -/

/-- A write of an item by a path. -/
def guardStage (m : Mach) (c : Chip) (path : Path) (k : Nat) (value : Word) : Mach :=
  if c = .ep ∧ path = .accel then m.bump .ep Pg.eId R.ep4GrdRefusedCnt
  else if (principal c path).isNone ∨ !m.guardItem c k then m
  else if m.guardState c ≠ 0 then m.guardCount c R.grdStageRefusedCnt
  else m.setShadow c k (value &&& (info m.epParams c k).rws)

/-- The digest of a change sealed in stitch `n` for `at_` (R452). -/
def guardDigest (m : Mach) (c : Chip) (n : Nat) (at_ : Option Nat) (ks : List Nat) : DWord :=
  let h := fnv1a (leBytes 8 n ++ leBytes 2 (m.nodeOf c) ++ leBytes 8 (at_.getD 0))
  ks.foldl (fun h k => fnvFrom h (leBytes 8 k ++ leBytes 4 (m.shadow c k).toNat)) h

/-- GRD_AT when at_en is 1. -/
def guardAt (m : Mach) (c : Chip) : Option Nat :=
  let pg := guardPage c
  if m.bit c pg (if c = .sx then F.grdCtrl_atEn else F.ep4GrdCtrl_atEn) then
    some (m.reg c pg (byChip c R.grdAtLo R.ep4GrdAtLo) + m.reg c pg (byChip c R.grdAtHi R.ep4GrdAtHi) * 2 ^ 32)
  else none

/-- A seal is written. -/
def guardSeal (m : Mach) (c : Chip) : Mach :=
  let n := m.now c
  let ks := m.guardChange c
  let at_ := m.guardAt c
  let ranged : Bool := match at_ with
    | some a => decide (n + 2 ≤ a ∧ a ≤ n + 120000000)
    | none => true
  if m.guardState c ≠ 0 then m
  else if ks = [] then m.guardErr c 8 none
  else if !ranged then m.guardErr c 9 none
  else
    let d := (m.guardDigest c n at_ ks).toNat
    let pg := guardPage c
    let m := (m.setReg c pg (byChip c R.grdDigestLo R.ep4GrdDigestLo) (d % 2 ^ 32)).setReg c pg
      (byChip c R.grdDigestHi R.ep4GrdDigestHi) (d / 2 ^ 32)
    (m.setGuardState c 1).setGuardRun c { m.guardRun c with sealAt := n, at_ := at_, due := none }

/-- An abort is written. -/
def guardAbort (m : Mach) (c : Chip) : Mach := if m.guardState c = 1 then m.guardDiscard c 1 else m

/-- A write of the seal or abort bit by a path: principals alone act (R434); the accelerator path is counted (R450). -/
def guardWrite (m : Mach) (c : Chip) (path : Path) (f : Mach → Mach) : Mach :=
  if c = .ep ∧ path = .accel then m.bump .ep Pg.eId R.ep4GrdRefusedCnt
  else if (principal c path).isNone then m
  else f m

/-! ## Approval, arming, expiry (R451, R453, R454) -/

/-- Both principals have approved. -/
def guardArm (m : Mach) (c : Chip) (x : Nat) : Mach :=
  match (m.guardRun c).at_ with
  | none => (m.setGuardState c 2).setGuardRun c { m.guardRun c with due := some (m.dueStitch c x) }
  | some a =>
    if m.isLate c x a then m.guardDiscard c 2
    else (m.setGuardState c 2).setGuardRun c { m.guardRun c with due := some a }

/-- An approval of `value` by a principal, its high word written at cycle `x`. -/
def guardApprove (m : Mach) (c : Chip) (who : Principal) (value x : Nat) : Mach :=
  let pg := guardPage c
  let digest := m.reg c pg (byChip c R.grdDigestLo R.ep4GrdDigestLo)
    + m.reg c pg (byChip c R.grdDigestHi R.ep4GrdDigestHi) * 2 ^ 32
  if m.guardState c ≠ 1 ∨ m.bit c pg (approvedFld c who) then m
  else if value ≠ digest then (m.guardCount c R.grdApproveBadCnt).guardDiscard c 1
  else
    let m := m.setFld c pg (approvedFld c who) 1
    if m.bit c pg (approvedFld c .a) ∧ m.bit c pg (approvedFld c .b) then m.guardArm c x else m

/-- The cut-off of the expiry stitch. -/
def guardExpire (m : Mach) (c : Chip) : Mach :=
  if m.guardState c = 1 ∧ (m.guardRun c).sealAt + 60000000 ≤ m.now c then
    (m.guardCount c R.grdExpiredCnt).guardDiscard c 1
  else m

/-! ## Validation of items (R455) -/

/-- Words of an item of a table (R349, R386, R404, R440); the others are one word. -/
def unitWords (c : Chip) (k : Nat) : Nat :=
  match c with
  | .sx => if itemPage k = Pg.guard ∧ itemSel k = 4 then 4 else 1
  | .ep =>
    if itemPage k = Pg.eMp ∧ itemSel k = 1 then 8
    else if itemPage k = Pg.eMp ∧ (itemSel k = 2 ∨ itemSel k = 3) then 4
    else 1

/-- The first word of the item that a word belongs to, and the item's number in its table. -/
def unitBase (c : Chip) (k : Nat) : Nat := if itemSel k = 0 then k else k - itemOff k % unitWords c k
def unitNum (c : Chip) (k : Nat) : Nat := itemOff k / unitWords c k

/-- Key 0x0000 or 0xFFFF. -/
def badKey (k : Nat) : Bool := k == 0 || k == 0xFFFF

/-- The lowest of several codes; 0 stands for none. -/
def lowestCode (cs : List Nat) : Nat := (cs.filter (· != 0)).foldl (fun a c => if a = 0 then c else min a c) 0

/-- A code when a condition holds. -/
def codeIf (b : Bool) (n : Nat) : Nat := if b then n else 0

/-- Word `i` of the live image of a sequencer's slot (R592). -/
def imageWord (m : Mach) (s slot i : Nat) : Nat := m.tword .sx Pg.guard 7 ((2 * s + slot) * 4096 + i)

/-- Whether the image of a slot passes R591.  The ROM image, in a slot that no commit has written, passes (the reset values
of CHP_SEQ_STATUS, R612). -/
def imageGood (m : Mach) (s slot : Nat) : Bool :=
  let w0 := m.imageWord s slot 0
  let n := bitsOf w0 16 16
  let rom := m.regs.live.all fun e =>
    !(itemPage e.1 == Pg.guard && itemSel e.1 == 7 && itemOff e.1 / 4096 == 2 * s + slot)
  rom || bitsOf w0 0 8 == 1 && bitsOf w0 8 8 == s && decide (5 ≤ n ∧ n ≤ 4096)
    && (crc32 ((List.range (n - 4)).map (fun i => leBytes 4 (m.imageWord s slot (4 + i)))).flatten).toNat
        == m.imageWord s slot 3

/-- The slot that a sequencer has selected. -/
def imageSlot (m : Mach) (s : Nat) : Nat := bitsOf (m.tword .sx Pg.guard 6 s) 0 1

/-- The code of an SX-4 item: `m` has the new words live, `old` is the machine before it. -/
def itemCodeSx (m old : Mach) (k : Nat) : Nat :=
  let n := unitNum .sx k
  let w := m.tword .sx Pg.guard (itemSel k) n
  let on := bitsOf w 16 1 == 1
  let bad := codeIf (on && badKey (bitsOf w 0 16)) 1
  if itemSel k = 1 then
    let other := fun (s : Nat) => m.tword .sx Pg.guard 1 (n / 64 * 64 + s)
    lowestCode [bad, codeIf (on && (List.range 64).any fun s =>
      s != n % 64 && bitsOf (other s) 16 1 == 1 && bitsOf (other s) 0 16 == bitsOf w 0 16) 2]
  else if itemSel k = 2 ∨ itemSel k = 3 then bad
  else if itemSel k = 4 then codeIf (m.regionCode n != 0) 4
  else if itemSel k = 6 then codeIf (!m.imageGood n (m.imageSlot n)) 4
  else if itemSel k = 7 then codeIf (old.imageSlot (n / 8192) == n / 4096 % 2) 4
  else 0

/-- Engines bound to a context. -/
def enginesOf (m : Mach) (c : Nat) : List Nat := (List.range m.epParams.engines).filter fun e => m.engCtx e == some c

/-- An engine that holds a slot, a tag or a quarantined tag (R430). -/
def engBusy (m : Mach) (e : Nat) : Bool := m.tagUse e != 0 || m.ep.slots.any fun s => s.engine == e

def ctxBusy (m : Mach) (c : Nat) : Bool := (m.enginesOf c).any m.engBusy

/-- A window that R387 refuses. -/
def windowBad (m : Mach) (w : Nat) : Bool :=
  let lo := m.winFab w
  let n := m.winBytes w
  m.winF w F.win_valid == 1
    && (badKey (m.winF w F.win_pkey) || n == 0 || decide (2 ^ 52 < lo + n)
      || (List.range m.epParams.windows).any fun v =>
          v != w && m.winF v F.win_valid == 1 && overlap lo n (m.winFab v) (m.winBytes v))

/-- Contexts that an engine's binding concerns: the one it leaves and the one it names. -/
def bindCtxs (m old : Mach) (e : Nat) : List Nat :=
  ((match old.engCtx e with | some c => [c] | none => []) ++ (match m.engCtx e with | some c => [c] | none => [])).eraseDups

/-- An allocation word whose scratch range reaches beyond the SRAM (R391). -/
def allocBad (m : Mach) (c : Nat) : Bool :=
  decide (m.epParams.scratchMib * 16 < m.allocF c F.alloc_scrBase + m.allocF c F.alloc_scrSize)

def isEngPage (pg : Nat) : Bool := decide (0x20 ≤ pg ∧ pg < 0x40)

/-- The code of an EP-4 item. -/
def itemCodeEp (m old : Mach) (k : Nat) : Nat :=
  let n := unitNum .ep k
  let pg := itemPage k
  if pg = Pg.eMp ∧ itemSel k = 1 then codeIf (m.windowBad n) 4
  else if pg = Pg.eMp ∧ itemSel k = 3 then
    lowestCode
      [codeIf (m.ebindF n F.ebind_bound == 1 && badKey (m.epKey n)) 1, codeIf (old.ctxBusy n) 3,
       codeIf (m.epConf n && m.ebindF n F.ebind_mgr == 1) 4]
  else if pg = Pg.eScr ∧ itemSel k = 1 then lowestCode [codeIf (old.ctxBusy n) 3, codeIf (m.allocBad n) 4]
  else if isEngPage pg then
    codeIf (old.engBusy (pg - 0x20) || (m.bindCtxs old (pg - 0x20)).any old.ctxBusy) 3
  else 0

def itemCode (c : Chip) (m old : Mach) (k : Nat) : Nat :=
  match c with
  | .sx => m.itemCodeSx old k
  | .ep => m.itemCodeEp old k

/-- What a refused item leaves in its own chapter's registers; `m` keeps the old words live, `new` had the new ones. -/
def itemRefused (c : Chip) (m new : Mach) (k : Nat) : Mach :=
  let n := unitNum c k
  let pg := itemPage k
  match c with
  | .sx => if itemSel k = 4 then m.regionRejected n (new.regionCode n) else m
  | .ep =>
    if pg = Pg.eMp ∧ itemSel k = 1 then m.raise .ep Pg.eMp 0 0
    else if pg = Pg.eScr ∧ itemSel k = 1 ∧ new.allocBad n then m.raise .ep Pg.eScr 0 0
    else if isEngPage pg then m.raise .ep pg 1 0
    else m

/-- Validate and apply one item, given the changed words of it. -/
def guardItemApply (c : Chip) (m : Mach) (base : Nat) (ks : List Nat) : Bool × Mach :=
  let new := ks.foldl (fun (m' : Mach) k => m'.setLive c k (m.shadow c k)) m
  let code := itemCode c new m base
  if code = 0 then (true, new)
  else (false, itemRefused c ((m.guardReload c ks).guardErr c code (some (ks.headD base))) new base)

/-! ## What an applied item does (R437, R441, R442, R144, R353, R389) -/

/-- Every register of a page returns to its reset value. -/
def resetPage (m : Mach) (c : Chip) (page : Nat) : Mach :=
  let keep := fun (t : Tbl Word) => t.filter fun e => itemPage e.1 != page
  let r := m.rf c
  (m.setRf c { r with
    word := keep r.word, shadow := keep r.shadow, live := keep r.live, snap := keep r.snap
    held := r.held.filter fun e => itemPage e.1 != page }).updateIrq c

/-- Keys that a port held and holds no more. -/
def keysRemoved (m old : Mach) (p : Nat) : List Nat :=
  ((List.range 64).filterMap fun s =>
    let w := old.tword .sx Pg.guard 1 (64 * p + s)
    if bitsOf w 16 1 = 1 ∧ !m.holdsKey p (bitsOf w 0 16) then some (bitsOf w 0 16) else none).eraseDups

/-- The key that a block of sync objects is granted to changed. -/
def grantMoved (m old : Mach) (b : Nat) : Bool := m.grantKey b != old.grantKey b

/-- Everything that follows the items applied on an SX-4. -/
def guardAppliedSx (m old : Mach) (units : List Nat) : Mach :=
  let of := fun (sel : Nat) => (units.filter fun k => itemSel k == sel).map (unitNum .sx)
  let ports := ((of 1).map (· / 64)).eraseDups
  let gone := ports.flatMap fun p => (m.keysRemoved old p).map fun k => (p, k)
  let m := m.pfaultKeys (gone.map (·.2)) Reason.keyRemoved
  let m := gone.foldl (fun (m : Mach) x => (m.pleatKeyRemoved x.1 x.2).cuffKeyRemoved x.1 x.2) m
  let m := ((of 2).filter (m.grantMoved old)).foldl grantChanged m
  let m := (of 3).foldl (fun (m : Mach) c => m.resetPage .sx (Pg.ctx c)) m
  (of 4).foldl (fun (m : Mach) r => m.regionChanged old r) m

/-- The confidential state that a context's entry gives; a torn context stays torn unless its entry itself is rewritten
(R459). -/
def confAfter (m : Mach) (c : Nat) (rewritten : Bool) : Nat :=
  if m.ctxConf c = 3 ∧ !rewritten then 3 else if m.epBound c ∧ m.epConf c then 1 else 0

/-- Scratch ranges of an allocation word. -/
def scratchRange (m : Mach) (c : Nat) : List (Nat × Nat × Nat) :=
  if m.allocF c F.alloc_scrSize = 0 then [] else [(c, m.scrBase c, m.allocF c F.alloc_scrSize * 65536)]

/-- The scrubbing of a context (R441). -/
def scrubCtx (m old : Mach) (c : Nat) (rewritten : Bool) : Mach :=
  let st := m.confAfter c rewritten
  let m := m.resetPage .ep (Pg.ctx c)
  let ranges := (old.scratchRange c ++ m.scratchRange c).eraseDups
  let m := m.setEp { m.ep with
    keys := Tbl.set (fun _ => {}) m.ep.keys c {}
    rb := m.ep.rb.filter (fun l => l.ctx != c)
    abort := Tbl.set (fun _ => none) m.ep.abort c none
    clearing := m.ep.clearing.filter (· != c)
    scrub := m.ep.scrub.filter (fun r => r.1 != c) ++ ranges }
  let m := m.setFld .ep (Pg.ctx c) F.ep4CtxConf_state st
  m.setFld .ep (Pg.ctx c) F.ep4CtxConf_scrubbing (if ranges = [] then 0 else 1)

/-- A rebound engine loses its spray pointer (R441); a ring fault of its old binding ends (R403). -/
def rebound (m : Mach) (e : Nat) : Mach :=
  m.setEp { m.ep with spray := Tbl.erase m.ep.spray e, ringFault := m.ep.ringFault.filter (· != e) }

/-- A changed window with requests of its old mapping unanswered (R389). -/
def windowMoved (m old : Mach) (w : Nat) : Mach :=
  if m.ep.serve.any (fun v => v.window == w) then m.epPfault (old.winF w F.win_pkey) Reason.windowChanged else m

/-- Everything that follows the items applied on an EP-4. -/
def guardAppliedEp (m old : Mach) (units : List Nat) : Mach :=
  let of := fun (pg sel : Nat) => (units.filter fun k => itemPage k == pg && itemSel k == sel).map (unitNum .ep)
  let engs := (units.filter fun k => isEngPage (itemPage k)).map fun k => itemPage k - 0x20
  let m := (of Pg.eMp 1).foldl (fun (m : Mach) w => m.windowMoved old w) m
  let entries := of Pg.eMp 3
  let others := (of Pg.eScr 1 ++ engs.flatMap (fun e => m.bindCtxs old e)).filter fun c => !entries.contains c
  let m := entries.foldl (fun (m : Mach) c => m.scrubCtx old c true) m
  let m := others.eraseDups.foldl (fun (m : Mach) c => m.scrubCtx old c false) m
  engs.foldl rebound m

/-! ## The Guard commit (R455) -/

/-- Recomputation of the digests begins, or begins anew (R553). -/
def digestStart (m : Mach) (c : Chip) : Mach := m.setRf c { m.rf c with digestBy := some (m.now c + 1024) }

/-- The items of a change in the order of application: image words before selections (R592). -/
def guardUnits (c : Chip) (ks : List Nat) : List Nat :=
  let us := (ks.map (unitBase c)).eraseDups
  if c = .sx then (us.filter fun k => itemSel k != 6) ++ us.filter fun k => itemSel k == 6 else us

/-- Validate and apply the items one after another: the items applied, and the machine. -/
def guardApply (m : Mach) (c : Chip) : List Nat × Mach :=
  let ks := m.guardChange c
  (guardUnits c ks).foldl
    (fun (a : List Nat × Mach) u =>
      let (ok, m) := guardItemApply c a.2 u (ks.filter fun k => unitBase c k == u)
      (if ok then a.1 ++ [u] else a.1, m))
    ([], m)

/-- COMMIT_GEN, low 16 bits, for the trace (R608). -/
def commitGen (m : Mach) (c : Chip) : Nat :=
  m.reg c (byChip c Pg.chip Pg.eId) (byChip c R.chpCommitGen R.ep4CommitGen)

/-- A commit record in the trace; the EP-4 has no trace unit. -/
def traceCommit (m : Mach) (c : Chip) (page : Nat) : Mach :=
  if c = .sx then m.trace page 7 0 (m.commitGen .sx % 65536) else m

/-- The commit hem of an armed change. -/
def guardCommit (m : Mach) (c : Chip) : Mach :=
  let due : Bool := match (m.guardRun c).due with | some d => decide (d ≤ m.now c) | none => false
  if m.guardState c ≠ 2 ∨ !due then m
  else
    let (units, m') := m.guardApply c
    let m' := match c with
      | .sx => m'.guardAppliedSx m units
      | .ep => m'.guardAppliedEp m units
    let m' := ((m'.guardOpen c).guardCount c R.grdCommitCnt).guardEvent c 0
    (m'.traceCommit c Pg.guard).digestStart c

/-! ## The relay (R456) -/

/-- A write of GRD_RELAY_CTRL by a path: principal B alone (R456). -/
def relayGo (m : Mach) (path : Path) (value : Nat) : Mach :=
  if principal .sx path ≠ some .b then m.bump .sx Pg.guard R.grdRelayRefusedCnt
  else
    let m := m.setReg .sx Pg.guard R.grdRelayCtrl (value % 2 ^ 32 - value / 2 ^ 11 % 2 * 2 ^ 11)
    if bitsOf value 11 1 = 0 ∨ m.bit .sx Pg.guard F.grdRelayStatus_busy then m
    else
      let node := bitsOf value 0 10
      let rd := bitsOf value 10 1 == 1
      let addr := m.reg .sx Pg.guard R.grdRelayAddrLo + m.reg .sx Pg.guard R.grdRelayAddrHi * 2 ^ 32
      let p := HdrSpec.packet
        { opcode := if rd then Op.mgtRead else Op.mgtWrite, vc := 4, dst := node, src := m.sxNode,
          epoch := m.epochNow .sx % 16, address := addr, aux := if rd then 1 else 0 }
        (if rd then [] else leBytes 4 (m.reg .sx Pg.guard R.grdRelayData))
      let m := ({ m with relay := some ⟨node, rd, m.time.number⟩ } : Mach).setReg .sx Pg.guard R.grdRelayStatus 1
      match m.route node 0 with
      | (some o, m) => m.push p 162 o
      | (none, m) => m

/-- A reply of the relay's node (R456): its status, and the word read. -/
def relayReply (m : Mach) (p : Packet) : Mach :=
  match m.relay with
  | some r =>
    if p.src ≠ r.node then m
    else
      let m := ({ m with relay := none } : Mach).setReg .sx Pg.guard R.grdRelayStatus (2 + p.status * 4)
      if p.opcode = Op.mgtData then m.setReg .sx Pg.guard R.grdRelayData (ofLeBytes (p.payload.take 4)) else m
  | none => m

/-- No reply within 2,000 stitches. -/
def relayTimeout (m : Mach) : Mach :=
  match m.relay with
  | some r =>
    if r.at_ + 2000 ≤ m.time.number then ({ m with relay := none } : Mach).setReg .sx Pg.guard R.grdRelayStatus (2 ^ 10) else m
  | none => m

/-! ## Torn keys (R458) -/

/-- A confidential key is torn: its packets are discarded, its groups faulted, one partition fault raised. -/
def tearKey (m : Mach) (k : Nat) : Mach :=
  let m := (m.held.filter fun h => h.key == k).foldl dropHeld m
  let m := { m with arrivedPkts := m.arrivedPkts.filter fun x => !(x.1 == Chip.sx && x.2.2.pkey == k) }
  let m := m.setMem { m.mem with reqs := m.mem.reqs.filter fun r => r.pkt.pkey != k }
  let m := m.pfault k Reason.torn
  let m := (m.validGroups.filter fun g => (m.gdesc g).pkey == k).foldl (fun (m : Mach) g => m.pleatFault g Reason.torn) m
  let m := (m.validCuffs.filter fun g => m.cd g F.cdesc_pkey == k).foldl (fun (m : Mach) g => m.cuffFault g Reason.torn) m
  (m.bump .sx Pg.guard R.grdTornCnt).raise .sx Pg.guard 3 0

/-- The hem after a holding block was lost. -/
def tearAll (m : Mach) : Mach := m.torn.foldl tearKey { m with torn := [] }

end Mach

/-! ## Meanings -/

/-- An item address within the fields of R452. -/
def itemOk (page sel a : Nat) : Bool := decide (page < 2 ^ 16 ∧ sel < 16 ∧ a < 2 ^ 44)

/-- GUARD_STAGE (R450, R451): a write of a Guard item lands in its staged copy. -/
def execGuardStage (c : Chip) (path : Path) (page sel address value : Nat) (s : State) : Host.Outcome State Fault Refusal :=
  State.unit (itemOk page sel address) <| s.go fun m => m.guardStage c path (item page sel address) (BitVec.ofNat 32 value)

/-- GUARD_SEAL (R451, R452, R454): the change is sealed, or refused with code 8 or 9. -/
def execGuardSeal (c : Chip) (path : Path) (_x : Nat) (s : State) : Host.Outcome State Fault Refusal :=
  s.go fun m => m.guardWrite c path fun m => m.guardSeal c

/-- GUARD_ABORT (R451): a sealed change is discarded. -/
def execGuardAbort (c : Chip) (path : Path) (s : State) : Host.Outcome State Fault Refusal :=
  s.go fun m => m.guardWrite c path fun m => m.guardAbort c

/-- GUARD_APPROVE (R453, R454): a principal's approval, taken as its high word is written at cycle `x`. -/
def execGuardApprove (c : Chip) (path : Path) (value x : Nat) (s : State) : Host.Outcome State Fault Refusal :=
  s.go fun m => m.guardWrite c path fun m =>
    match principal c path with
    | some who => m.guardApprove c who value x
    | none => m

/-- GUARD_EXPIRY (R451): at the cut-off of its expiry stitch a sealed change is discarded. -/
def execGuardExpiry (c : Chip) (s : State) : Host.Outcome State Fault Refusal := s.go fun m => m.guardExpire c

/-- GUARD_COMMIT (R455): in its hem an armed change is validated and applied item by item. -/
def execGuardCommit (c : Chip) (s : State) : Host.Outcome State Fault Refusal :=
  match c with
  | .sx => s.go fun m => m.guardCommit .sx
  | .ep => s.epGoM fun m => m.guardCommit .ep

/-- RELAY_GO (R456): principal B's request goes out as one MGT packet. -/
def execRelayGo (path : Path) (value : Nat) (s : State) : Host.Outcome State Fault Refusal :=
  s.go fun m => m.relayGo path value

/-- RELAY_TIMEOUT (R456): no reply has come within 2,000 stitches. -/
def execRelayTimeout (s : State) : Host.Outcome State Fault Refusal := s.go Mach.relayTimeout

/-- TORN_KEY (R458): the keys torn since the last hem. -/
def execTornKey (s : State) : Host.Outcome State Fault Refusal := s.go Mach.tearAll

end Sys2Proof.Machine
end

