-- ==== Sys2Proof/Machine/Light.lean ====
section
/-! DEFINITION. What the links see of the optical engines (R507, R508), and the filtered inputs with their CHATTER windows
(chapter "Package, signals and electrical data", R624 to R626). -/

namespace Sys2Proof.Machine
open Sys2Proof

/-! ## Pages of engines and modules (R532) -/

/-- OCU page and slot of an engine; OCU page and index of an ELS module. -/
def ocuPage (e : Nat) : Nat := Pg.ocu (e / 4)
def elsPage (k : Nat) : Nat := Pg.ocu (k / 2)

/-- The state of pair `f` in OCU_ENG_STATUS of slot `s`. -/
def pairFld (s f : Nat) : Fld := ⟨R.ocuEngStatus s, 13 + 3 * f, 3⟩

namespace Mach

/-- 0 OPEN, 1 CLOSED, 2 PROBE, 3 HANDSHAKE, 4 OPENING. -/
def eyeState (m : Mach) (e f : Nat) : Nat := m.fld .sx (ocuPage e) (pairFld (e % 4) f)

/-- Ring words are entries `32 s + r`. -/
def ringIdx (e r : Nat) : Nat := 32 * (e % 4) + r

def ringF (m : Mach) (e r : Nat) (f : Fld) : Nat := m.tfld .sx (ocuPage e) 1 8 (ringIdx e r) f

/-- 0 OFF, 1 SWEEP, 2 TRACK, 3 LOCKED, 4 PARKED, 5 HELD, 6 TABLE. -/
def ringState (m : Mach) (e r : Nat) : Nat := m.ringF e r F.ring_state

/-- Working lanes of a port (R508). -/
def workingLanes (m : Mach) (p : Nat) : Nat :=
  let e := p / 4
  let f := p % 4
  let held := fun st : Nat => st == 3 || st == 6
  if m.eyeState e f ≠ 0 then 0
  else
    sumOf (List.range 4) fun k =>
      if held (m.ringState e (4 * f + k)) && held (m.ringState e (16 + 4 * f + k)) then 2 ^ k else 0

/-- Live laser_en of an engine (R532). -/
def laserEn (m : Mach) (e : Nat) : Bool := m.bit .sx (ocuPage e) (F.ocuEngCtrl_laserEn (e % 4))

/-! ## CHATTER (R625, R626) -/

/-- Inputs: 64 times the sel of CHP_CHATTER_CLR plus the index. -/
def inPwrbrk : Nat := 0
def inReset : Nat := 64
def inLos (e : Nat) : Nat := 128 + e
def inEls (k : Nat) : Nat := 192 + k

def chattering (m : Mach) (i : Nat) : Bool := m.chatter.contains i

/-- Whether changes of an input are counted (R626). -/
def counts (m : Mach) (i : Nat) : Bool :=
  if i / 64 = 2 then m.laserEn (i % 64)
  else if i / 64 = 3 then m.laserEn (2 * (i % 64)) || m.laserEn (2 * (i % 64) + 1)
  else true

/-- Show whether CHATTER of an input is latched (R625, R635). -/
def showChatter (m : Mach) (i : Nat) : Mach :=
  let v := if m.chattering i then 1 else 0
  let n := i % 64
  match i / 64 with
  | 0 => (m.setFld .sx Pg.chip F.chpPinStatus_pwrbrkChatter v).setFld .sx Pg.power F.pwrShedStatus_brkChatter v
  | 1 => m.setFld .sx Pg.chip F.chpPinStatus_resetChatter v
  | 2 => m.setFld .sx (ocuPage n) (F.ocuEngStatus_losChatter (n % 4)) v
  | _ => m.setFld .sx (elsPage n) (F.ocuElsStatus_chatter (n % 2)) v

/-- `n` changes of an input's sampled level now; whether CHATTER latches with them. -/
def pinChanges (m : Mach) (i n : Nat) : Mach × Bool :=
  if !m.counts i then ({ m with changes := Tbl.set (fun _ => []) m.changes i [] }, false)
  else
    let old := (Tbl.get (fun _ => []) m.changes i).filter fun t => m.time.number < t + 2000
    let win := List.replicate n m.time.number ++ old
    let m := { m with changes := Tbl.set (fun _ => []) m.changes i win }
    if 16 < win.length ∧ !m.chattering i then
      let m := ({ m with chatter := m.chatter ++ [i] } : Mach).showChatter i
      ((m.bump .sx Pg.chip R.chpChatterCnt).raise .sx Pg.chip 4 (i / 64 + i % 64 * 4), true)
    else (m, false)

/-- An assertion of an input whose deassertions no command tells: with the deassertion before it, when the window holds
an earlier assertion. -/
def pinAsserted (m : Mach) (i : Nat) : Mach × Bool :=
  let old := (Tbl.get (fun _ => []) m.changes i).filter fun t => m.time.number < t + 2000
  m.pinChanges i (if old = [] then 1 else 2)

/-- CHP_CHATTER_CLR: the latch and the window are cleared (R625). -/
def chatterCleared (m : Mach) (i : Nat) : Mach :=
  ({ m with chatter := m.chatter.filter (· != i), changes := Tbl.set (fun _ => []) m.changes i [] } : Mach).showChatter i

end Mach

end Sys2Proof.Machine
end

