-- ==== Sys2Proof/Machine/Links.lean ====
section
/-! DEFINITION. Links (chapter "Lanes and links"): reception of flits and link-level retry (R477 to R489), training and the
speed ladder (R490 to R495), lanes lost and regained (R496 to R498), sleep (R499 to R502) and margin readout (R503). -/

namespace Sys2Proof.Machine
open Sys2Proof

/-- A command of one chip's port: an EP-4's engines move on after it. -/
def State.onPort (s : State) (c : Chip) (p : Nat) (f : Mach → Mach) : Host.Outcome State Fault Refusal :=
  State.unit (s.m.hasPort c p)
    (match c with | .sx => s.go fun m => if m.boot.off then m else f m | .ep => s.epGoM f)

namespace Mach

def updLk (m : Mach) (c : Chip) (p : Nat) (f : Link → Link) : Mach := m.setLk c p (f (m.lk c p))

/-- A field of PRT_LINK_CTRL and its neighbours. -/
def prt (m : Mach) (c : Chip) (p : Nat) (f : Fld) : Nat := m.fld c (portPage p) f

/-! ## Settings (R504) -/

def ownMaxStep (m : Mach) (c : Chip) (p : Nat) : Nat := min (m.prt c p F.prtLinkCtrl_maxStep) 4
def minWidth (m : Mach) (c : Chip) (p : Nat) : Nat := 2 ^ min (m.prt c p F.prtLinkCtrl_minWidth) 2

/-- Receive allocations that a port advertises (R196, R464). -/
def allocOf (m : Mach) (c : Chip) (p : Nat) : List Nat :=
  match c with
  | .ep => m.epParams.alloc
  | .sx => [m.prt .sx p F.prtCreditAlloc0_low, m.prt .sx p F.prtCreditAlloc0_high, m.prt .sx p F.prtCreditAlloc1_low,
            m.prt .sx p F.prtCreditAlloc1_high, m.prt .sx p F.prtCreditAlloc2_low, m.prt .sx p F.prtCreditAlloc2_high]

/-- Lanes that a port can train on: of an SX-4 port its working lanes (R508), without those that have failed. -/
def ownLanes (m : Mach) (c : Chip) (p : Nat) : Nat :=
  let lit := match c with | .sx => m.workingLanes p | .ep => 15
  lit &&& (15 - (m.lk c p).failedLanes % 16)

/-- The CAP that a port sends (R483, R490). -/
def ownCap (m : Mach) (c : Chip) (p : Nat) (seen : Bool) : CapMsg :=
  let l := m.lk c p
  { node := m.nodeOf c, switch := c == .sx, fresh := c == .ep && !l.negotiated, seen := seen,
    fecPref := m.prt c p F.prtLinkCtrl_fecPref == 1, maxStep := m.ownMaxStep c p, lanes := m.ownLanes c p,
    epoch := m.epochNow c % 256, version := 1, alloc := m.allocOf c p }

/-- CAP goes out on every working lane: on none while there is none (R490). -/
def sendCap (m : Mach) (c : Chip) (p : Nat) (seen : Bool) : Mach :=
  if m.ownLanes c p = 0 then m else m.sendTraining c p (.cap (m.ownCap c p seen))

/-! ## Lane words (R505) -/

def laneSet (m : Mach) (p k : Nat) (f : Fld) (v : Nat) : Mach :=
  m.setTFld .sx (Pg.serdes ((4 * p + k) / 144)) 1 8 ((4 * p + k) % 144) f v

/-- Show the state of a port's lanes. -/
def showLanes (m : Mach) (c : Chip) (p : Nat) : Mach :=
  match c with
  | .ep => m
  | .sx =>
    let l := m.lk .sx p
    (List.range 4).foldl
      (fun m k =>
        let used := bitsOf l.mask k 1 == 1 && (l.st == .up || l.st == .climbing)
        let st := if l.recal = some k then 3 else if bitsOf l.failedLanes k 1 = 1 then 2 else if used then 1 else 0
        (m.laneSet p k F.lane_state st).laneSet p k F.lane_lock (if used || l.recal == some k then 1 else 0))
      m

/-! ## Duplicate planes (R373) -/

/-- A lower-numbered port of the instance that negotiated the same plane. -/
def dupOf (m : Mach) (p node : Nat) : Bool :=
  (List.range p).any fun q =>
    let l := m.lk .ep q
    (match l.partner with | some x => x.node == node | none => false) && !l.dup
      && (l.st == .up || l.st == .climbing || (l.st == .s0 && l.lastCap.isSome))

/-! ## Going down (R488, R489, R210, R215, R373) -/

/-- Training begins at S0 (R490): what a link keeps is what its registers and the hold need. -/
def restart (m : Mach) (c : Chip) (p : Nat) : Mach :=
  let l := m.lk c p
  let en := m.prt c p F.prtLinkCtrl_en == 1
  let l' : Link :=
    { st := if en then .s0 else .disabled, partner := l.partner, partEpoch := l.partEpoch, skewFor := l.skewFor,
      alloc := l.alloc, negotiated := l.negotiated, fresh := l.fresh, taps := [] }
  let m := (m.setLk c p l').showLanes c p
  if en then m.sendCap c p false else m

/-- Packets in flits that were not acknowledged: key and opcode of each (R489). -/
def unacked (l : Link) : List (Nat × Nat) :=
  (l.replay.mapIdx fun i f =>
    if i = 0 ∨ FlitHdr.startMap f.flit.hdr ≠ 0 then f.keys else []).flatten

/-- Losses of a link that goes down (R489). -/
def lostOnLink (m : Mach) (c : Chip) (p : Nat) (l : Link) : Mach :=
  let gone := unacked l
  let m := m.bumpBy c (portPage p) R.prtTxLostCnt gone.length
  let keys := (gone.map (·.1)).filter (· != 0) |>.eraseDups
  match c with
  | .sx => m.pfaultKeys keys Reason.packetLost
  | .ep => keys.foldl (fun m k => m.epPfault k Reason.responseLost) m

/-- The packet in progress at a receiver whose link goes down (R215, R489). -/
def truncated (m : Mach) (c : Chip) (p : Nat) (l : Link) : Mach :=
  if l.asm = [] then m
  else
    match c with
    | .ep => m
    | .sx =>
      let key := bitsOf ((l.asm.getD 0 0).toNat) 64 16
      match l.asmPid.bind m.findHeld with
      | some h =>
        if h.started then m
        else (m.breakPacket h.id).bump .sx (portPage p) R.prtRxTruncCnt |>.pfaultKeys [h.key] Reason.packetLost
      | none =>
        let m := m.bump .sx (portPage p) R.prtRxTruncCnt
        if 2 ≤ l.asm.length ∧ l.asmPid.isNone then m.pfaultKeys [key] Reason.packetLost else m

/-- Responses queued at an EP-4 for a port that is down are lost (R377, R428). -/
def queuedLost (m : Mach) (p : Nat) : Mach :=
  let gone := m.ep.tx.filter fun x => x.port == some p && homeVc x.pkt.opcode == some 1
  let m := gone.foldl (fun m x => m.removeTx x.id) m
  ((gone.map fun x => x.pkt.pkey).filter (· != 0)).eraseDups.foldl (fun m k => m.epPfault k Reason.responseLost) m

/-- Ports that were held for a duplicate plane train again when the kept port goes down (R373). -/
def dupFree (m : Mach) (p : Nat) : Mach :=
  let plane := (m.lk .ep p).partner.map (·.node)
  (List.range m.epParams.ports).foldl
    (fun m q =>
      let l := m.lk .ep q
      if l.dup && l.partner.map (·.node) == plane && p < q && !m.dupOf q (plane.getD 0) then m.restart .ep q else m)
    m

/-- A link that is up goes down (R488). -/
def linkDown (m : Mach) (c : Chip) (p : Nat) : Mach :=
  let l := m.lk c p
  if l.st ≠ .up then m.restart c p
  else
    let m := (m.bump c (portPage p) R.prtLinkDownCnt).raise c (portPage p) 1 0
    let m := m.updLk c p fun l => { l with st := .down }
    let m := m.truncated c p l
    let m := match c with
      | .sx => (((m.holdStart p).pleatPortDown p).cuffPortDown p).gussetPortDown p
      | .ep => (m.rateForget (m.planeOfPort p)).queuedLost p
    let m := m.lostOnLink c p l
    let m := m.restart c p
    if c = .ep then m.dupFree p else m

/-- A commit changed en of PRT_LINK_CTRL (R488, R504). -/
def linkEnable (m : Mach) (c : Chip) (p : Nat) : Mach :=
  let on := m.prt c p F.prtLinkCtrl_en == 1
  let st := (m.lk c p).st
  if on ∧ st = .disabled then m.restart c p
  else if !on ∧ st ≠ .disabled then m.linkDown c p
  else m

/-! ## Negotiation (R490, R491, R460, R554) -/

/-- Compare the partner's epoch with the own (R554). -/
def compareEpoch (m : Mach) (c : Chip) (p epoch : Nat) : Mach :=
  let m := m.updLk c p fun l => { l with partEpoch := epoch }
  let recent : Bool := match (m.rf c).epochChanged with | some n => decide (n ≤ m.now c ∧ m.now c ≤ n + 2) | none => false
  if recent ∨ epoch = m.epochNow c % 256 then
    if epoch = m.epochNow c % 256 then m.updLk c p fun l => { l with skewFor := none } else m
  else if (m.lk c p).skewFor = some epoch then m
  else
    let m := m.updLk c p fun l => { l with skewFor := some epoch }
    (m.bump c (if c = .sx then Pg.chip else Pg.eId) (if c = .sx then R.chpEpochSkewCnt else R.ep4EpochSkewCnt)).raise c
      (portPage p) 9 0

/-- The lowest refuse_reason that a partner meets; 0 for none (R491). -/
def refuseReason (m : Mach) (c : Chip) (x : CapMsg) : Nat :=
  let roleBad := match c with | .sx => x.switch | .ep => !x.switch
  let nodeBad := match c with | .sx => decide (959 < x.node) | .ep => decide (x.node < 960 ∨ 975 < x.node)
  if roleBad then 1 else if nodeBad then 2 else if x.version ≠ 1 then 3
  else if c = .ep ∧ 959 < m.epNode then 4 else 0

/-- FEC of a step (R473): 0 none, 1 RS(544,514), 2 RS(272,258). -/
def fecFor (m : Mach) (p step : Nat) : Nat :=
  if step < 3 then 0
  else
    match (m.lk .sx p).partner with
    | some x => if m.prt .sx p F.prtLinkCtrl_fecPref = 1 ∧ x.fecPref then 2 else 1
    | none => 1

/-- The SX-4 asks for a step (R492). -/
def askStep (m : Mach) (p n : Nat) : Mach := m.sendTraining .sx p (.step n 0 (m.fecFor p n))

/-- A CAP with fresh = 1 (R460): held packets are flushed, and the confidential keys of the port are torn. -/
def freshPartner (m : Mach) (p : Nat) : Mach :=
  let r := m.holdOf p
  let m := if r.st = 1 ∨ r.st = 3 then m.setHold p { r with flushDue := true } else m
  let keys := (List.range 64).filterMap fun s =>
    let w := m.tword .sx Pg.guard 1 (64 * p + s)
    if bitsOf w 16 1 = 1 ∧ m.confidentialKey (bitsOf w 0 16) then some (bitsOf w 0 16) else none
  { m with torn := (m.torn ++ keys).eraseDups }

/-- Negotiation ends (R490): the partner is recorded; the SX-4 leads the climb (R492). -/
def negotiationEnds (m : Mach) (c : Chip) (p : Nat) (x : CapMsg) : Mach :=
  let m := m.updLk c p fun l =>
    { l with
        partner := some x, alloc := x.alloc, fresh := x.fresh, negotiated := true, refuse := 0, unanswered := none,
        ownAlloc := m.allocOf c p, mask := bitsOf x.lanes 0 4 &&& m.ownLanes c p,
        lanesAt := [(0, bitsOf x.lanes 0 4 &&& m.ownLanes c p)],
        dup := c == .ep && m.dupOf p x.node }
  match c with
  | .sx =>
    let m := if x.fresh then m.freshPartner p else m
    let target := min (m.ownMaxStep .sx p) (min x.maxStep 4)
    if target = 0 then m
    else ((m.updLk .sx p fun l => { l with st := .climbing, target := target }).askStep p 1).showLanes .sx p
  | .ep =>
    -- higher-numbered ports of the plane are held at S0 (R373)
    (List.range m.epParams.ports).foldl
      (fun m q =>
        let l := m.lk .ep q
        if p < q && !(m.lk .ep p).dup && l.partner.map (·.node) == some x.node && (l.st == .up || l.st == .climbing) then
          (m.linkDown .ep q).updLk .ep q fun l => { l with dup := true }
        else m)
      m

/-- CAP (R490). -/
def capIn (m : Mach) (c : Chip) (p : Nat) (x : CapMsg) : Mach :=
  if (m.lk c p).st = .disabled ∨ m.ownLanes c p = 0 then m
  else
    let m := m.compareEpoch c p x.epoch
    let l := m.lk c p
    if l.st = .climbing ∧ l.step = 0 ∧ l.lastCap.map (fun y => { y with seen := x.seen }) = some x then
      m.emit (.ctl c p (.cap (m.ownCap c p true)))
    else
      let m := if l.st = .up ∨ l.st = .climbing then m.linkDown c p else m
      let l := m.lk c p
      let r := m.refuseReason c x
      if r ≠ 0 then
        if l.st = .refused ∧ l.lastCap = some x then m
        else
          let m := m.updLk c p fun l => { l with st := .refused, refuse := r, lastCap := some x }
          (m.sendCap c p false).raise c (portPage p) 2 0
      else if l.dup ∧ c = .ep ∧ m.dupOf p x.node then m.updLk c p fun l => { l with lastCap := some x }
      else
        let m := m.updLk c p fun l => { l with st := .s0, refuse := 0, lastCap := some x, dup := false }
        let m := m.sendCap c p true
        if x.seen then m.negotiationEnds c p x else m

/-! ## The climb (R492 to R495) -/

/-- Rank of a lane mask: the lanes that a width of R465 takes. -/
def lowestLanes (mask n : Nat) : Nat :=
  (((List.range 4).filter fun i => bitsOf mask i 1 == 1).take n).foldl (fun a i => a + 2 ^ i) 0

/-- The widest mask of R465 within a set of lanes. -/
def widestMask (mask : Nat) : Nat := lowestLanes mask (widthOf mask)

def maskAt (l : Link) (n : Nat) : Nat := ((l.lanesAt.find? fun x => x.1 == n).map (·.2)).getD 0

/-- Each transmitter changes to step `n` (R492). -/
def enterStep (m : Mach) (c : Chip) (p n fec : Nat) : Mach :=
  let m := m.updLk c p fun l =>
    { l with
        st := .climbing, step := n, fec := fec, accSent := false, accRecv := false, eqDone := 0, eqFailed := 0,
        ownCheck := none, partnerCheck := none, unanswered := none,
        taps := (List.range 4).map fun k => (k, [0, 0, 0, 0, 0, 0]) }
  let m := match c with
    | .sx => (List.range 4).foldl (fun (m : Mach) k => m.laneSet p k F.lane_preset 0) m
    | .ep => m
  m.showLanes c p

/-- The port comes up (R495, R197, R210). -/
def linkUp (m : Mach) (c : Chip) (p : Nat) : Mach :=
  let m := m.updLk c p fun l =>
    { l with
        st := .up, credit := l.alloc, unanswered := none, activeSent := false, activeRecv := none, txSleep := 0,
        rxSleep := false, rxSeq := 1023, nak := false, txSeq := 0, replay := [], lastAck := 1023, nakFor := none,
        episodes := 0, asm := [], asmPid := none, returned := [0, 0, 0, 0, 0, 0], reported := [0, 0, 0, 0, 0, 0],
        seenCredit := [0, 0, 0, 0, 0, 0], nextReport := 0, idleStitches := 0, lightStitches := 0 }
  let l := m.lk c p
  let short := (List.range 6).any fun v => decide (l.alloc.getD v 0 < minAlloc v)
  let m := if short then m.bump c (portPage p) R.prtCreditShortCnt else m
  let m := (m.raise c (portPage p) 0 0).showLanes c p
  match c with
  | .sx => ({ m with zlySeq := Tbl.erase m.zlySeq p } : Mach).holdEnd p (m.partnerNode p)
  | .ep =>
    (m.setEp { m.ep with zlyTest := Tbl.modify (fun _ => (0, 0)) m.ep.zlyTest p fun e => (0, e.2) }).rateForget
      (m.planeOfPort p)

/-- Both ACTIVE messages name the port's step and mask (R495). -/
def activeTry (m : Mach) (c : Chip) (p : Nat) : Mach :=
  let l := m.lk c p
  if l.st = .climbing ∧ l.activeSent ∧ l.activeRecv = some (l.step, l.mask) then m.linkUp c p else m

/-- The climb ends (R494, R495): ACTIVE is sent, or the port stays in training when it could not reach S1. -/
def climbEnds (m : Mach) (c : Chip) (p : Nat) : Mach :=
  let l := m.lk c p
  if l.step = 0 then (m.updLk c p fun l => { l with st := .s0, unanswered := none, lastCap := none }).showLanes c p
  else
    let m := m.updLk c p fun l => { l with activeSent := true }
    (m.sendTraining c p (.active l.step l.mask)).activeTry c p

/-- A step was judged to fail (R494). -/
def fallBack (m : Mach) (c : Chip) (p : Nat) : Mach :=
  let m := m.updLk c p fun l => { l with step := l.step - 1, mask := maskAt l (l.step - 1), fec := if l.step ≤ 3 then 0 else l.fec }
  ((m.bump c (portPage p) R.prtStepFailCnt).raise c (portPage p) 3 0).climbEnds c p

/-- Both ends' CHECK is known (R494). -/
def judgeStep (m : Mach) (c : Chip) (p : Nat) : Mach :=
  let l := m.lk c p
  match l.ownCheck, l.partnerCheck with
  | some a, some b =>
    let pass := a &&& b &&& maskAt l 0
    let w := widthOf pass
    let n := l.step
    if w = 4 then
      let m := m.updLk c p fun l => { l with mask := 15, lanesAt := (n, 15) :: l.lanesAt, unanswered := none }
      let m := m.showLanes c p
      let target := match c with
        | .sx => l.target
        | .ep => min (m.ownMaxStep .ep p) (match l.partner with | some x => min x.maxStep 4 | none => 0)
      if n = target then m.climbEnds c p
      else if c = .sx then m.askStep p (n + 1) else m
    else if m.minWidth c p ≤ w ∧ payloadRate (n - 1) (widthOf (maskAt l (n - 1))) < payloadRate n w then
      let mask := widestMask pass
      let m := m.updLk c p fun l =>
        { l with mask := mask, lanesAt := (n, mask) :: l.lanesAt, failedLanes := 15 - pass, unanswered := none }
      (m.showLanes c p).climbEnds c p
    else m.fallBack c p
  | _, _ => m

/-- STEP request (R492): the EP-4 accepts the next step. -/
def stepRequest (m : Mach) (c : Chip) (p n fec : Nat) : Mach :=
  let l := m.lk c p
  if c = .sx ∨ l.dup ∨ l.partner.isNone ∨ !(l.st = .s0 ∨ l.st = .climbing) then m
  else if n = l.step + 1 ∧ n ≤ m.ownMaxStep .ep p then
    (m.updLk .ep p fun l => { l with accSent := true, fec := fec }).sendTraining .ep p (.step n 1 fec)
  else if n = l.step ∧ 0 < n then m.emit (.ctl .ep p (.step n 1 fec))
  else m.emit (.ctl .ep p (.step n 2 fec))

/-- Whether the SX-4 waits for the answer to its request for step `n`. -/
def asksStep (l : Link) (n : Nat) : Bool :=
  match l.unanswered with | some (.step k 0 _) => k == n | _ => false

/-- STEP accept (R492): the SX-4 answers accept and changes; the EP-4 changes on that answer. -/
def stepAccept (m : Mach) (c : Chip) (p n fec : Nat) : Mach :=
  let l := m.lk c p
  match c with
  | .sx =>
    if l.st = .climbing ∧ n = l.step + 1 ∧ asksStep l n then
      (m.emit (.ctl .sx p (.step n 1 fec))).enterStep .sx p n fec
    else m
  | .ep => if l.accSent ∧ n = l.step + 1 then m.enterStep .ep p n fec else m

/-- STEP refuse: the climb ends at the current step. -/
def stepRefuse (m : Mach) (c : Chip) (p n : Nat) : Mach :=
  let l := m.lk c p
  if c = .sx ∧ l.st = .climbing ∧ n = l.step + 1
      ∧ asksStep l n then m.climbEnds .sx p
  else m

/-- EQ preset (R493): the own transmitter's taps of a lane go to a preset. -/
def eqPreset (m : Mach) (c : Chip) (p lane preset : Nat) : Mach :=
  m.updLk c p fun l =>
    { l with taps := (l.taps.filter fun t => t.1 != lane) ++ [(lane, (preset : Int) :: [0, 0, 0, 0, 0])] }

/-- The move of one tap: 0 hold, 1 increment, 2 decrement. -/
def tapMove (r : Nat) : Int := if r = 1 then 1 else if r = 2 then -1 else 0

/-- EQ adjust (R493): the taps pre2, pre1, main, post1, post2 of a lane move. -/
def eqAdjust (m : Mach) (c : Chip) (p lane : Nat) (reqs : List Nat) : Mach :=
  m.updLk c p fun l =>
    { l with taps := l.taps.map fun t =>
        if t.1 = lane then (t.1, t.2.headD 0 :: List.zipWith (· + ·) t.2.tail (reqs.map tapMove)) else t }

/-- EQ done and EQ fail (R493): equalisation of a lane has ended. -/
def eqEnd (m : Mach) (c : Chip) (p lane : Nat) (failed : Bool) : Mach :=
  m.updLk c p fun l =>
    { l with eqDone := l.eqDone ||| 2 ^ lane, eqFailed := if failed then l.eqFailed ||| 2 ^ lane else l.eqFailed }

/-- The own check of a step or of a recalibration is over (R493): CHECK reports the lanes that passed. -/
def checkEnd (m : Mach) (c : Chip) (p mask : Nat) : Mach :=
  let l := m.lk c p
  if l.st = .climbing ∧ 0 < l.step ∧ l.ownCheck.isNone ∧ !l.activeSent then
    let m := m.updLk c p fun l => { l with ownCheck := some (mask % 16) }
    (m.sendTraining c p (.check (mask % 16) l.step)).judgeStep c p
  else m

/-- CHECK (R494). -/
def checkIn (m : Mach) (c : Chip) (p mask step : Nat) : Mach :=
  let l := m.lk c p
  if l.st = .climbing ∧ step = l.step ∧ l.partnerCheck.isNone ∧ !l.activeSent then
    (m.updLk c p fun l => { l with partnerCheck := some (mask % 16) }).judgeStep c p
  else m

/-- A step gained no lock on any lane within 20 ms (R492). -/
def lockTimeout (m : Mach) (c : Chip) (p : Nat) : Mach :=
  let l := m.lk c p
  if l.st = .climbing ∧ 0 < l.step ∧ l.ownCheck.isNone ∧ !l.activeSent then m.fallBack c p else m

/-- ACTIVE (R495). -/
def activeIn (m : Mach) (c : Chip) (p step mask : Nat) : Mach :=
  if (m.lk c p).st = .climbing then (m.updLk c p fun l => { l with activeRecv := some (step, mask) }).activeTry c p else m

/-! ## Retry (R486 to R488) -/

/-- Resend every held flit; the port counts a resend episode. -/
def resend (m : Mach) (c : Chip) (p : Nat) : Mach :=
  let l := m.lk c p
  let limit := max (m.prt c p F.prtRetryCtrl_limit) 1
  if limit ≤ l.episodes then (m.raise c (portPage p) 5 0).linkDown c p
  else
    let now := m.now c
    let m := m.updLk c p fun l =>
      { l with episodes := l.episodes + 1, replay := l.replay.map fun f => { f with since := now } }
    l.replay.foldl (fun m f => m.emit (.flit c p f.flit)) (m.bump c (portPage p) R.prtReplayCnt)

/-- The packets of a descriptor end in a flit that is acknowledged (R120). -/
def ownAcked (m : Mach) (own : List Nat) : Mach :=
  own.foldl (fun m o => m.slotDo (o / 64) (o % 64) fun s => { s with packets := s.packets - 1 }) m

/-- Held flits after those that `ack` covers: `ack` names the last flit received in order. -/
def ackRest (ack : Nat) (r : List HeldFlit) : List HeldFlit :=
  if r.any fun f => FlitHdr.seq f.flit.hdr == ack then (r.dropWhile fun f => FlitHdr.seq f.flit.hdr != ack).drop 1 else r

/-- The ack, nak and credit fields of any good flit (R477, R482, R487). -/
def takeFields (m : Mach) (c : Chip) (p : Nat) (h : BitVec 64) : Mach :=
  let l := m.lk c p
  let rest := ackRest (FlitHdr.ack h) l.replay
  let freed := l.replay.take (l.replay.length - rest.length)
  let v := FlitHdr.creditVc h
  let n := FlitHdr.creditCount h
  let m := m.updLk c p fun l =>
    let l := if freed = [] then l else { l with replay := rest, episodes := 0, nakFor := none }
    let l := if v < 6 then
        { l with credit := l.credit.set v (l.credit.getD v 0 + (n + 65536 - l.seenCredit.getD v 0) % 65536),
                 seenCredit := l.seenCredit.set v n }
      else l
    { l with rxSleep := false, txSleep := if l.txSleep = 3 then 0 else l.txSleep }
  let m := freed.foldl (fun m f => m.ownAcked f.own) m
  if FlitHdr.nak h ∧ rest ≠ [] ∧ (m.lk c p).nakFor ≠ some (FlitHdr.ack h) then
    (m.updLk c p fun l => { l with nakFor := some (FlitHdr.ack h) }).resend c p
  else m

/-- A flit that fails its CRC, or of a reserved kind (R475, R477, R478, R486). -/
def badFlit (m : Mach) (c : Chip) (p : Nat) (f : Flit) : Mach :=
  let m := if f.uncorrectable then m.bump c (portPage p) R.prtFecUncorrCnt else m
  (m.bump c (portPage p) R.prtCrcErrCnt).updLk c p fun l => { l with nak := true }

/-! ## Packets out of flits (R479 to R481) -/

/-- Opcodes that an EP-4 takes. -/
def epTakes (op : Nat) : Bool :=
  isRequest op || homeVc op == some 1 || homeVc op == some 4 || op == Op.pltResult || op == Op.bktDeliver
    || op == Op.bktDropmap || op == Op.cufResult

def epErr (m : Mach) (p counter reason op vc : Nat) : Mach :=
  (m.bump .ep (portPage p) counter).setReg .ep (portPage p) R.prtPktErrLast (reason + op % 256 * 2 ^ 8 + vc % 8 * 2 ^ 16)

/-- A packet reaches an EP-4 port: checks 1, 2 and 5 of R98 (R464). -/
def epReceive (m : Mach) (p : Nat) (pkt : Packet) : Mach :=
  let back := fun (m : Mach) => m.returnCredit .ep p pkt.vc (ceilDiv pkt.extent 16)
  if pkt.extent < 32 then (m.epErr p R.prtRuntCnt 0x10 0 0).raise .ep (portPage p) 6 (0x10 * 2 ^ 24)
  else
    match malformed .ep pkt with
    | some r => back (m.epErr p R.prtMalformedCnt r pkt.opcode pkt.vc)
    | none =>
      if !m.epochOk .ep pkt then
        (back (m.epErr p R.prtEpochStaleCnt 0x13 pkt.opcode pkt.vc)).epPfault pkt.pkey Reason.epochStale
      else if epTakes pkt.opcode then m.deliver .ep p pkt
      else back m

/-- A whole packet has been received on a port. -/
def gotPacket (m : Mach) (c : Chip) (p : Nat) (pkt : Packet) : Mach :=
  match c with
  | .sx => m.receive p pkt.granules pkt
  | .ep => m.epReceive p pkt

/-- Granules of the packet in progress, by its header (R479). -/
def wantGran (gs : List (BitVec 128)) : Nat := 2 + ceilDiv (bitsOf ((gs.getD 0 0).toNat) 12 13) 16

/-- A packet in progress that entered the switch at its header: tell it what has arrived since; credits of granules of a
packet that has been discarded return as they come (R185, R198). -/
def tellHeld (m : Mach) (p pid n fresh : Nat) (gs : List (BitVec 128)) : Mach :=
  match m.findHeld pid with
  | some _ => m.updHeld pid fun h => { h with arrived := n, pkt := { h.pkt with payload := (packetOf gs).payload } }
  | none => m.giveCredit p (bitsOf ((gs.getD 0 0).toNat) 8 3) fresh

/-- The packet in progress ends before its extent: malformed (R99, reason 0x06, R479), or a runt; one being cut through is
broken off (R185). -/
def cutShort (m : Mach) (c : Chip) (p : Nat) : Mach :=
  let l := m.lk c p
  let m := m.updLk c p fun l => { l with asm := [], asmPid := none }
  match c, l.asmPid with
  | .sx, some pid =>
    let key := bitsOf ((l.asm.getD 0 0).toNat) 64 16
    let m := (m.bump .sx (portPage p) R.prtMalformedCnt).pktErr p 0x06 (bitsOf ((l.asm.getD 0 0).toNat) 0 8)
      (bitsOf ((l.asm.getD 0 0).toNat) 8 3)
    (m.breakPacket pid).pfaultKeys [key] Reason.stomped
  | _, _ => m.gotPacket c p { packetOf l.asm with extent := 16 * l.asm.length }

/-- One granule of a data flit: `start` is its start_map bit. -/
def granule (m : Mach) (c : Chip) (p : Nat) (start : Bool) (g : BitVec 128) : Mach :=
  let m := if start ∧ (m.lk c p).asm ≠ [] then m.cutShort c p else m
  let l := m.lk c p
  if !start ∧ l.asm = [] then m
  else
    let gs := l.asm ++ [g]
    if 1 < gs.length ∧ gs.length = wantGran gs then
      let m := m.updLk c p fun l => { l with asm := [], asmPid := none }
      match l.asmPid with
      | some pid => m.tellHeld p pid gs.length 1 gs
      | none => m.gotPacket c p (packetOf gs)
    else
      let m := m.updLk c p fun l => { l with asm := gs }
      match l.asmPid with
      | some pid => m.tellHeld p pid gs.length 1 gs
      | none => m

/-- A packet whose header has arrived enters the switch at once when its tile may claim cut-through for it (R180). -/
def enterEarly (m : Mach) (p : Nat) : Mach :=
  let l := m.lk .sx p
  if l.asm.length < 2 ∨ l.asmPid.isSome then m
  else
    let pkt := { packetOf l.asm with extent := 16 * wantGran l.asm }
    let m' := m.receive p l.asm.length pkt
    match m'.findHeld m.nextId with
    | some h =>
      if h.input = p ∧ h.output < 144 ∧ m'.claims h then m'.updLk .sx p fun l => { l with asmPid := some m.nextId }
      else m
    | none => m

/-- A flit with stomp = 1 ends the packet in progress (R481, R185, R161). -/
def stompIn (m : Mach) (c : Chip) (p : Nat) : Mach :=
  let l := m.lk c p
  if l.asm = [] then m
  else
    let vc := bitsOf ((l.asm.getD 0 0).toNat) 8 3
    let m := (m.updLk c p fun l => { l with asm := [], asmPid := none }).bump c (portPage p) R.prtStompRxCnt
    match c, l.asmPid with
    | .sx, some pid =>
      let key := bitsOf ((l.asm.getD 0 0).toNat) 64 16
      (m.breakPacket pid).pfaultKeys [key] Reason.stomped
    | .sx, none => m.giveCredit p vc l.asm.length
    | .ep, _ => m.returnCredit .ep p vc l.asm.length

/-- The data area of an accepted data flit. -/
def takeData (m : Mach) (c : Chip) (p : Nat) (f : Flit) : Mach :=
  let m := if FlitHdr.stomp f.hdr then m.stompIn c p else m
  let hold := FlitHdr.holdFrom f.hdr
  let m := (f.gran.take hold).zipIdx.foldl
    (fun m g => m.granule c p (bitsOf (FlitHdr.startMap f.hdr) g.2 1 == 1) g.1) m
  if c = .sx then m.enterEarly p else m

/-- DATA_FLIT (R486). -/
def dataIn (m : Mach) (c : Chip) (p : Nat) (f : Flit) : Mach :=
  if (m.lk c p).st ≠ .up then m
  else if !flitGood f ∨ FlitHdr.kind f.hdr = 3 then m.badFlit c p f
  else if FlitHdr.kind f.hdr ≠ 0 then m
  else
    let m := m.takeFields c p f.hdr
    let l := m.lk c p
    if l.st ≠ .up then m
    else
      let d := (FlitHdr.seq f.hdr + 1024 - l.rxSeq) % 1024
      if d = 1 then
        (m.updLk c p fun l => { l with rxSeq := FlitHdr.seq f.hdr, nak := false }).takeData c p f
      else if d = 0 ∨ 512 ≤ d then m
      else m.updLk c p fun l => { l with nak := true }

/-- IDLE_FLIT (R477). -/
def idleIn (m : Mach) (c : Chip) (p : Nat) (f : Flit) : Mach :=
  if (m.lk c p).st ≠ .up then m
  else if !flitGood f ∨ FlitHdr.kind f.hdr = 3 then m.badFlit c p f
  else if FlitHdr.kind f.hdr ≠ 2 then m
  else m.takeFields c p f.hdr

/-- REPLAY_TIMEOUT (R487). -/
def replayTimeout (m : Mach) (c : Chip) (p : Nat) : Mach :=
  let l := m.lk c p
  match l.replay with
  | [] => m
  | f :: _ =>
    if l.st = .up ∧ f.since + max (m.prt c p F.prtRetryCtrl_timeout) 1 ≤ m.now c then m.resend c p else m

/-! ## Lanes in service (R496, R498) -/

/-- Both transmitters move to a new mask and resend (R496). -/
def applyMask (m : Mach) (c : Chip) (p mask : Nat) : Mach :=
  let m := m.updLk c p fun l => { l with mask := mask, proposed := none }
  let m := (m.bump c (portPage p) R.prtWidthChangeCnt).raise c (portPage p) 4 0
  let m := match c with | .ep => m.rateForget (m.planeOfPort p) | .sx => m
  (m.lk c p).replay.foldl (fun m f => m.emit (.flit c p f.flit)) (m.showLanes c p)

/-- Propose a narrower mask, or take the link down below min_width. -/
def narrowTo (m : Mach) (c : Chip) (p mask : Nat) : Mach :=
  if widthOf mask < m.minWidth c p ∨ widthOf mask = 0 then m.linkDown c p
  else (m.updLk c p fun l => { l with proposed := some mask }).sendTraining c p (.lane 0 mask)

/-- LANE_FAILURE (R496). -/
def laneFails (m : Mach) (c : Chip) (p lane : Nat) : Mach :=
  let l := m.lk c p
  if l.st = .up ∧ bitsOf l.mask lane 1 = 1 ∧ lane < 4 then
    let m := (m.updLk c p fun l => { l with failedLanes := l.failedLanes ||| 2 ^ lane }).showLanes c p
    m.narrowTo c p (widestMask (l.mask &&& (15 - ((m.lk c p).failedLanes % 16))))
  else m

/-- LANE narrow (R496): answered with accept, or taken down below min_width. -/
def laneNarrow (m : Mach) (c : Chip) (p mask : Nat) : Mach :=
  let l := m.lk c p
  if l.st ≠ .up ∨ mask = 0 ∨ (mask &&& l.mask) ≠ mask ∨ widestMask mask ≠ mask then
    if l.st = .up then m.sendCtl c p (.lane 3 mask) else m
  else if widthOf mask < m.minWidth c p then m.linkDown c p
  else (m.sendCtl c p (.lane 1 mask)).applyMask c p mask

/-- The recalibration of a port's lane ends with a result (R498, R505). -/
def recalEnds (m : Mach) (p result : Nat) : Mach :=
  let pg := Pg.serdes (4 * p / 144)
  let m := (m.updLk .sx p fun l => { l with recal := none, unanswered := none }).showLanes .sx p
  let m := (m.setFld .sx pg F.sdsRecalStatus_busy 0).setFld .sx pg F.sdsRecalStatus_result result
  m.raise .sx pg 1 0

/-- LANE accept (R496, R498). -/
def laneAccept (m : Mach) (c : Chip) (p mask : Nat) : Mach :=
  let l := m.lk c p
  if l.st = .up ∧ l.proposed = some mask then
    let m := (m.updLk c p fun l => { l with unanswered := none }).applyMask c p mask
    if c = .sx ∧ l.recal.isSome ∧ mask = 15 then m.recalEnds p 1 else m
  else m

/-- LANE widen (R498). -/
def laneWiden (m : Mach) (c : Chip) (p mask : Nat) : Mach :=
  let l := m.lk c p
  if l.st ≠ .up then m
  else if mask = 15 ∧ l.mask ≠ 15 then
    ((m.sendCtl c p (.lane 1 mask)).updLk c p fun l => { l with failedLanes := 0 }).applyMask c p mask
  else m.sendCtl c p (.lane 3 mask)

/-- LANE refuse (R498). -/
def laneRefuse (m : Mach) (c : Chip) (p mask : Nat) : Mach :=
  let l := m.lk c p
  if l.st = .up ∧ l.proposed = some mask then
    let m := m.updLk c p fun l => { l with proposed := none, unanswered := none }
    if c = .sx ∧ l.recal.isSome then m.recalEnds p 3 else m
  else m

/-- SDS_RECAL_CTRL.go (R498): the named lane is recalibrated. -/
def recalibrate (m : Mach) (k lane : Nat) : Mach :=
  let sx := 144 * k + lane
  let p := sx / 4
  let n := sx % 4
  let l := m.lk .sx p
  let pg := Pg.serdes k
  if m.bit .sx pg F.sdsRecalStatus_busy ∨ l.st ≠ .up ∨ 144 ≤ lane then m
  else
    let m := (m.setFld .sx pg F.sdsRecalStatus_busy 1).setFld .sx pg F.sdsRecalStatus_lane lane
    let m := (m.updLk .sx p fun l => { l with recal := some n }).showLanes .sx p
    if l.mask = 15 then m.narrowTo .sx p (lowestLanes (15 - 2 ^ n) 2) else m

/-- The recalibration's check is over on both ends (R498). -/
def recalDone (m : Mach) (k : Nat) (passed : Bool) : Mach :=
  let pg := Pg.serdes k
  let sx := 144 * k + m.fld .sx pg F.sdsRecalStatus_lane
  let p := sx / 4
  let l := m.lk .sx p
  if !m.bit .sx pg F.sdsRecalStatus_busy ∨ l.recal ≠ some (sx % 4) ∨ l.st ≠ .up ∨ l.proposed.isSome then m
  else if passed then
    (m.updLk .sx p fun l => { l with proposed := some 15, failedLanes := 0 }).sendTraining .sx p (.lane 2 15)
  else (m.updLk .sx p fun l => { l with failedLanes := l.failedLanes ||| 2 ^ (sx % 4) }).recalEnds p 2

/-! ## Sleep (R499 to R502) -/

/-- Whether a transmit direction has something to send: a packet, an acknowledgement or a credit count. -/
def txDue (m : Mach) (c : Chip) (p : Nat) : Bool :=
  let l := m.lk c p
  let packet := match c with
    | .sx => m.held.any fun h => h.output == p && h.released != 0 && h.part != .none && h.part != .waiting
    | .ep => m.ep.tx.any fun x => x.ready && (m.txPorts x).contains p
  packet || l.lastAck != l.rxSeq || l.returned != l.reported || l.nak || l.replay != []

/-- At each stitch boundary: idle stitches and stitches of light sleep are counted (R500). -/
def sleepTick (m : Mach) (c : Chip) : Mach :=
  (List.range (m.portCount c)).foldl
    (fun m p =>
      let l := m.lk c p
      if l.st ≠ .up then m
      else
        m.setLk c p { l with
          idleStitches := if m.txDue c p then 0 else l.idleStitches + 1,
          lightStitches := if l.txSleep = 1 then l.lightStitches + 1 else 0 })
    m

/-- LIGHT_SLEEP_ENTRY (R500). -/
def lightSleep (m : Mach) (c : Chip) (p : Nat) : Mach :=
  let l := m.lk c p
  let need := if c = .sx ∧ 3 ≤ m.shedLevel then 1 else m.prt c p F.prtSleepCtrl_idleLight
  if l.st = .up ∧ l.txSleep = 0 ∧ need ≠ 0 ∧ need ≤ l.idleStitches ∧ !m.txDue c p then
    let m := (List.range 4).foldl (fun m _ => m.emit (.ctl c p (.sleep 1))) m
    (m.updLk c p fun l => { l with txSleep := 1, lightStitches := 0 }).bump c (portPage p) R.prtSleepEntryCnt
  else m

/-- DEEP_SLEEP_ENTRY (R500). -/
def deepSleep (m : Mach) (c : Chip) (p : Nat) : Mach :=
  let l := m.lk c p
  let need := m.prt c p F.prtSleepCtrl_deepIdle
  if l.st = .up ∧ l.txSleep = 1 ∧ need ≠ 0 ∧ need ≤ l.lightStitches then m.updLk c p fun l => { l with txSleep := 2 }
  else m

/-- WAKE (R501): a sleeping direction with something to send sends the wake pattern; once its receiver has reported lock,
the direction is awake. -/
def wake (m : Mach) (c : Chip) (p : Nat) : Mach :=
  let l := m.lk c p
  if l.st ≠ .up ∨ !m.txDue c p then m
  else if l.txSleep = 1 ∨ l.txSleep = 2 then (m.updLk c p fun l => { l with txSleep := 3 }).emit (.wakePattern c p)
  else if l.txSleep = 3 then m.updLk c p fun l => { l with txSleep := 0, idleStitches := 0 }
  else m

/-! ## Margin (R503) -/

/-- MARGIN_MEASURE: the eye of one SX-4 lane that carries traffic. -/
def margin (m : Mach) (lane upper mid lower width : Nat) : Mach :=
  let p := lane / 4
  let l := m.lk .sx p
  let pg := Pg.serdes (lane / 144)
  if bitsOf l.mask (lane % 4) 1 = 0 ∨ !(l.st = .up ∨ l.st = .climbing) then m
  else
    let put := fun (m : Mach) (f : Fld) (v : Nat) => m.laneSet p (lane % 4) f v
    let low := m.fld .sx pg F.sdsMarginCtrl_marginLow
    let m := put (put m F.lane_eyeMid mid) F.lane_eyeWidth width
    let m := if l.step = 0 then m else put (put m F.lane_eyeUpper upper) F.lane_eyeLower lower
    if mid % 256 < low ∨ (l.step ≠ 0 ∧ (upper % 256 < low ∨ lower % 256 < low)) then m.raise .sx pg 0 0 else m

/-- TRAINING_RETRY (R494): a port in training that could not reach S1 begins again at S0. -/
def trainAgain (m : Mach) (c : Chip) (p : Nat) : Mach :=
  let l := m.lk c p
  if l.st = .s0 ∧ !l.dup then m.restart c p else m

/-- TRAINING_REPEAT (R484); a repeated CAP carries what the port presents now (R371, R560). -/
def trainRepeat (m : Mach) (c : Chip) (p : Nat) : Mach :=
  match (m.lk c p).unanswered with
  | some (.cap x) => m.emit (.ctl c p (.cap (m.ownCap c p x.seen)))
  | some x => m.emit (.ctl c p x)
  | none => m

end Mach

/-! ## Meanings -/

/-- DATA_FLIT (R486). -/
def execDataFlit (c : Chip) (p : Nat) (f : Flit) (s : State) : Host.Outcome State Fault Refusal :=
  s.onPort c p fun m => m.dataIn c p f

/-- IDLE_FLIT (R477). -/
def execIdleFlit (c : Chip) (p : Nat) (f : Flit) (s : State) : Host.Outcome State Fault Refusal :=
  s.onPort c p fun m => m.idleIn c p f

/-- REPLAY_TIMEOUT (R487). -/
def execReplayTimeout (c : Chip) (p : Nat) (s : State) : Host.Outcome State Fault Refusal :=
  s.onPort c p fun m => m.replayTimeout c p

/-- FLIT_LOCK_LOSS (R488, R502): the link goes down, unless the quiet line was announced. -/
def execFlitLockLoss (c : Chip) (p : Nat) (s : State) : Host.Outcome State Fault Refusal :=
  s.onPort c p fun m =>
    let l := m.lk c p
    if (l.st = .up ∨ l.st = .climbing) ∧ !l.rxSleep then m.linkDown c p else m

/-- CAP (R490). -/
def execCap (c : Chip) (p : Nat) (x : CapMsg) (s : State) : Host.Outcome State Fault Refusal :=
  s.onPort c p fun m => m.capIn c p x

/-- STEP_REQUEST (R492). -/
def execStepRequest (c : Chip) (p n fec : Nat) (s : State) : Host.Outcome State Fault Refusal :=
  s.onPort c p fun m => m.stepRequest c p n fec

/-- STEP_ACCEPT (R492). -/
def execStepAccept (c : Chip) (p n fec : Nat) (s : State) : Host.Outcome State Fault Refusal :=
  s.onPort c p fun m => m.stepAccept c p n fec

/-- STEP_REFUSE (R492). -/
def execStepRefuse (c : Chip) (p n : Nat) (s : State) : Host.Outcome State Fault Refusal :=
  s.onPort c p fun m => m.stepRefuse c p n

/-- EQ_PRESET (R493). -/
def execEqPreset (c : Chip) (p lane preset : Nat) (s : State) : Host.Outcome State Fault Refusal :=
  s.onPort c p fun m => m.eqPreset c p lane preset

/-- EQ_ADJUST (R493). -/
def execEqAdjust (c : Chip) (p lane : Nat) (reqs : List Nat) (s : State) : Host.Outcome State Fault Refusal :=
  s.onPort c p fun m => m.eqAdjust c p lane reqs

/-- EQ_DONE (R493). -/
def execEqDone (c : Chip) (p lane : Nat) (s : State) : Host.Outcome State Fault Refusal :=
  s.onPort c p fun m => m.eqEnd c p lane false

/-- EQ_FAIL (R493). -/
def execEqFail (c : Chip) (p lane : Nat) (s : State) : Host.Outcome State Fault Refusal :=
  s.onPort c p fun m => m.eqEnd c p lane true

/-- CHECK (R494). -/
def execCheck (c : Chip) (p mask step : Nat) (s : State) : Host.Outcome State Fault Refusal :=
  s.onPort c p fun m => m.checkIn c p mask step

/-- ACTIVE (R495). -/
def execActive (c : Chip) (p step mask : Nat) (s : State) : Host.Outcome State Fault Refusal :=
  s.onPort c p fun m => m.activeIn c p step mask

/-- KEEPALIVE (R485, R554). -/
def execKeepalive (c : Chip) (p epoch _node : Nat) (s : State) : Host.Outcome State Fault Refusal :=
  s.onPort c p fun m => if m.isUp c p then m.compareEpoch c p epoch else m

/-- SLEEP (R502). -/
def execSleep (c : Chip) (p _depth : Nat) (s : State) : Host.Outcome State Fault Refusal :=
  s.onPort c p fun m => if m.isUp c p then m.updLk c p fun l => { l with rxSleep := true } else m

/-- LANE_NARROW (R496). -/
def execLaneNarrow (c : Chip) (p mask : Nat) (s : State) : Host.Outcome State Fault Refusal :=
  s.onPort c p fun m => m.laneNarrow c p mask

/-- LANE_ACCEPT (R496). -/
def execLaneAccept (c : Chip) (p mask : Nat) (s : State) : Host.Outcome State Fault Refusal :=
  s.onPort c p fun m => m.laneAccept c p mask

/-- LANE_WIDEN (R498). -/
def execLaneWiden (c : Chip) (p mask : Nat) (s : State) : Host.Outcome State Fault Refusal :=
  s.onPort c p fun m => m.laneWiden c p mask

/-- LANE_REFUSE (R498). -/
def execLaneRefuse (c : Chip) (p mask : Nat) (s : State) : Host.Outcome State Fault Refusal :=
  s.onPort c p fun m => m.laneRefuse c p mask

/-- STEP_LOCK_TIMEOUT (R492). -/
def execStepLockTimeout (c : Chip) (p : Nat) (s : State) : Host.Outcome State Fault Refusal :=
  s.onPort c p fun m => m.lockTimeout c p

/-- EQ_TIMEOUT (R493): equalisation of the step is over on every lane. -/
def execEqTimeout (c : Chip) (p : Nat) (s : State) : Host.Outcome State Fault Refusal :=
  s.onPort c p fun m => if (m.lk c p).st = .climbing then m.updLk c p fun l => { l with eqDone := 15 } else m

/-- CHECK_WINDOW_END (R493). -/
def execCheckWindowEnd (c : Chip) (p mask : Nat) (s : State) : Host.Outcome State Fault Refusal :=
  s.onPort c p fun m => m.checkEnd c p mask

/-- TRAINING_RETRY (R494). -/
def execTrainingRetry (c : Chip) (p : Nat) (s : State) : Host.Outcome State Fault Refusal :=
  s.onPort c p fun m => m.trainAgain c p

/-- TRAINING_REPEAT (R484). -/
def execTrainingRepeat (c : Chip) (p : Nat) (s : State) : Host.Outcome State Fault Refusal :=
  s.onPort c p fun m => m.trainRepeat c p

/-- LANE_FAILURE (R496). -/
def execLaneFailure (c : Chip) (p lane : Nat) (s : State) : Host.Outcome State Fault Refusal :=
  s.onPort c p fun m => m.laneFails c p lane

/-- LANE_RECALIBRATE (R498). -/
def execLaneRecalibrate (k lane : Nat) (s : State) : Host.Outcome State Fault Refusal :=
  State.unit (decide (k < 4 ∧ lane < 144)) (s.go fun m => m.recalibrate k lane)

/-- LANE_RECAL_COMPLETE (R498). -/
def execLaneRecalComplete (k : Nat) (passed : Bool) (s : State) : Host.Outcome State Fault Refusal :=
  State.unit (decide (k < 4)) (s.go fun m => m.recalDone k passed)

/-- LIGHT_SLEEP_ENTRY (R500). -/
def execLightSleepEntry (c : Chip) (p : Nat) (s : State) : Host.Outcome State Fault Refusal :=
  s.onPort c p fun m => m.lightSleep c p

/-- DEEP_SLEEP_ENTRY (R500). -/
def execDeepSleepEntry (c : Chip) (p : Nat) (s : State) : Host.Outcome State Fault Refusal :=
  s.onPort c p fun m => m.deepSleep c p

/-- WAKE (R501). -/
def execWake (c : Chip) (p : Nat) (s : State) : Host.Outcome State Fault Refusal :=
  s.onPort c p fun m => m.wake c p

/-- MARGIN_MEASURE (R503). -/
def execMarginMeasure (lane upper mid lower width : Nat) (s : State) : Host.Outcome State Fault Refusal :=
  State.unit (decide (lane < 576)) (s.go fun m => m.margin lane upper mid lower width)

end Sys2Proof.Machine
end

