-- ==== Sys2Proof/Machine/Optics.lean ====
section
/-! DEFINITION. Optical engine control (chapter "Optical engine control"): control frames, monitor samples, ring locking and
table mode, eye safety, connector inspection and external laser sources (R509 to R534). -/

namespace Sys2Proof.Machine
open Sys2Proof

/-! ## Frames (R510, R511) -/

/-- CRC-16 of R510: polynomial 0x1021, initial value 0xFFFF, bits in the order sent. -/
def crc16 (bits : List Bool) : Nat :=
  bits.foldl
    (fun r b =>
      let fb := (bitsOf r 15 1 == 1) != b
      let s := 2 * r % 65536
      if fb then s ^^^ 0x1021 else s)
    0xFFFF

/-- Bits `lo` to `lo + n - 1` of a number, in the order sent. -/
def sentBits (x lo n : Nat) : List Bool := (List.range n).map fun i => bitsOf x (lo + i) 1 == 1

/-- Whether an upstream frame has its sync word and CRC (R511, R513). -/
def upGood (u : UpFrame) : Bool :=
  bitsOf u.toNat 0 32 == 0x3D9A61F2 && bitsOf u.toNat 2192 16 == crc16 (sentBits u.toNat 32 2160)

/-- The four samples of ring `r`. -/
def upSamples (u : UpFrame) (r : Nat) : List Nat := (List.range 4).map fun j => bitsOf u.toNat (32 + 16 * (4 * r + j)) 16

def upLos (u : UpFrame) (f : Nat) : Bool := bitsOf u.toNat (2080 + f) 1 == 1
def upLight (u : UpFrame) (f : Nat) : Bool := bitsOf u.toNat (2084 + f) 1 == 1
def upFault (u : UpFrame) : Bool := bitsOf u.toNat 2092 1 == 1
/-- Reflected level of fibre `f`, 0.1 dB; none when the field is 0x8000. -/
def upLevel (u : UpFrame) (f : Nat) : Option Int :=
  let v := bitsOf u.toNat (2096 + 16 * f) 16
  if v = 0x8000 then none else some (signedOf v 16)
def upTemp (u : UpFrame) : Int := signedOf (bitsOf u.toNat 2160 16) 16
def upType (u : UpFrame) : Nat := bitsOf u.toNat 2176 4

/-! ## The reference wave (R517) -/

/-- sin(2π k / n) times 2^64, by its series on a quarter turn. -/
def sinFixed (k n : Nat) : Int :=
  let k := k % n
  let neg := n ≤ 2 * k
  let h := if neg then 2 * k - n else 2 * k
  let h := if n < 2 * h then n - h else h
  let one : Int := 2 ^ 64
  let x : Int := (57952155664616982740 * (h : Int)) / n
  let sq := x * x / one
  let step := fun (a : Int × Int) (i : Nat) =>
    let t := -(a.2 * sq / one) / ((2 * i + 2) * (2 * i + 3) : Nat)
    (a.1 + t, t)
  let s := ((List.range 14).foldl step (x, x)).1
  if neg then -s else s

/-- c_n of R517: round(127 sin(2π (f_d n / 40,000 + phase / 256))). -/
def refWave (hz phase n : Nat) : Int :=
  let s := 127 * sinFixed (256 * hz * n + 40000 * phase) 10240000
  let half : Int := 2 ^ 63
  if 0 ≤ s then (s + half) / (2 * half) else -((-s + half) / (2 * half))

namespace Mach

/-! ## Lookups -/

def eng? (m : Mach) (e : Nat) : EngRun := Tbl.get (fun _ => {}) m.oeng e
def updEng (m : Mach) (e : Nat) (f : EngRun → EngRun) : Mach := { m with oeng := Tbl.modify (fun _ => {}) m.oeng e f }
def ringRun (m : Mach) (e r : Nat) : RingRun := Tbl.get (fun _ => {}) m.rings (32 * e + r)
def updRing (m : Mach) (e r : Nat) (f : RingRun → RingRun) : Mach :=
  { m with rings := Tbl.modify (fun _ => {}) m.rings (32 * e + r) f }
def pairOpt (m : Mach) (e f : Nat) : PairOpt := Tbl.get (fun _ => {}) m.pairs (4 * e + f)
def updPair (m : Mach) (e f : Nat) (g : PairOpt → PairOpt) : Mach :=
  { m with pairs := Tbl.modify (fun _ => {}) m.pairs (4 * e + f) g }

/-- The frame in progress: frame i begins at stitch 200 i (R509). -/
def frameNow (m : Mach) : Nat := m.time.number / 200

def ocuLink (m : Mach) (e : Nat) : Nat := m.fld .sx (ocuPage e) (F.ocuEngStatus_link (e % 4))
def ocuType (m : Mach) (e : Nat) : Nat := m.fld .sx (ocuPage e) (F.ocuEngStatus_type (e % 4))
def ocuMode (m : Mach) (e : Nat) : Nat := m.fld .sx (ocuPage e) (F.ocuEngCtrl_mode (e % 4))

/-- Table mode (R520). -/
def tableMode (m : Mach) (e : Nat) : Bool := m.ocuType e == 2 || m.ocuMode e == 1

/-- Engine temperature: the mean over the last 16 good frames (R520). -/
def engTemp (m : Mach) (e : Nat) : Int :=
  let ts := (m.eng? e).temps
  if ts = [] then 0 else (ts.foldl (· + ·) 0).tdiv ts.length

def filterLen (m : Mach) (e : Nat) : Nat := min (max (m.fld .sx (ocuPage e) F.ocuLoopCtrl_filterLen) 64) 1024
def sweepStep (m : Mach) (e : Nat) : Nat := 2 ^ min (max (m.fld .sx (ocuPage e) F.ocuLoopCtrl_sweepLog) 4) 12
def lockTol (m : Mach) (e : Nat) : Nat := m.fld .sx (ocuPage e) F.ocuLoopCtrl_lockTol
/-- Probe period in frames: below 100 acts as 100 (R532). -/
def probePeriod (m : Mach) (e : Nat) : Nat := max (m.fld .sx (ocuPage e) F.ocuProbeCtrl_period) 100

/-- Detail word of an OCU event (R640). -/
def ocuDetail (e f r : Nat) : Nat := e % 4 + 4 * f + 16 * r

/-! ## The table of a ring (R520) -/

def tablePoint (m : Mach) (e r k : Nat) : Int × Int :=
  let w := m.tword .sx (ocuPage e) 2 (8 * ringIdx e r + k)
  (signedOf (bitsOf w 0 16) 16, (bitsOf w 16 16 : Nat))

/-- The heater code of a ring's table at temperature `t`. -/
def tableAt (pts : List (Int × Int)) (t : Int) : Int :=
  match pts with
  | [] => 0
  | [p] => p.2
  | p :: q :: ps =>
    if t < p.1 then p.2
    else if t ≤ q.1 then p.2 + ((t - p.1) * (q.2 - p.2)).tdiv (q.1 - p.1)
    else tableAt (q :: ps) t

def tableCode (m : Mach) (e r : Nat) : Nat :=
  (tableAt ((List.range 8).map (m.tablePoint e r)) (m.engTemp e)).toNat % 65536

/-! ## Ring states (R508, R518) -/

/-- A ring takes a state and a heater code.  A lane in use that a ring leaves has failed (R508); the first working lane of
a port starts its training (R490, R524). -/
def ringTo (m : Mach) (e r st h : Nat) : Mach :=
  let p := 4 * e + r % 16 / 4
  let was := m.workingLanes p
  let old := m.ringState e r
  let m := m.setTWord .sx (ocuPage e) 1 (8 * ringIdx e r + 4) (h % 65536 + st * 65536)
  if old = st then m
  else
    let n := sumOf (List.range 32) fun i => if m.ringState e i = 3 ∨ m.ringState e i = 6 then 1 else 0
    let m := m.setFld .sx (ocuPage e) (F.ocuEngStatus_locked (e % 4)) n
    let is := m.workingLanes p
    let m := (List.range 4).foldl
      (fun m k => if bitsOf was k 1 = 1 ∧ bitsOf is k 1 = 0 then m.laneFails .sx p k else m) m
    if was = 0 ∧ is ≠ 0 ∧ (m.lk .sx p).st = .s0 then m.sendCap .sx p false else m

/-- An event that makes samples invalid (R514). -/
def ringEvent (run : RingRun) (reason n : Nat) : RingRun := { run with reason := reason, inv := max run.inv n }

/-- The filter of a ring restarts (R514, reason 3). -/
def filterRestart (m : Mach) (e r : Nat) : Mach :=
  m.updRing e r fun run => { ringEvent run 3 0 with filt := [] }

/-- Entry to TRACK. -/
def ringTrack (m : Mach) (e r h : Nat) : Mach :=
  ((m.filterRestart e r).updRing e r fun run => { run with run := 0, updates := 0 }).ringTo e r 2 h

/-- Entry to SWEEP: from 0 with the next frame. -/
def ringSweep (m : Mach) (e r : Nat) : Mach :=
  (m.updRing e r fun run => { run with fresh := true, peak := none }).ringTo e r 1 (m.ringF e r F.ring_heater)

/-- What a ring does when its pair is open: SWEEP if it has not been LOCKED since the link came up, else TRACK. -/
def ringStart (m : Mach) (e r : Nat) : Mach :=
  match (m.ringRun e r).locked with
  | none => m.ringSweep e r
  | some h => m.ringTrack e r (if r < 16 then h else m.ringF e r F.ring_heater)

/-- Bring a ring to the state that its engine and its pair call for. -/
def ringFit (m : Mach) (e r : Nat) : Mach :=
  let opened := m.eyeState e (r % 16 / 4) == 0
  let st := m.ringState e r
  let park := m.ringF e r F.ring_park
  let heater := m.ringF e r F.ring_heater
  if m.ocuLink e ≠ 2 ∨ 2 ≤ m.ocuMode e then m.ringTo e r 0 park
  else if m.tableMode e then
    if r < 16 ∧ !opened then m.ringTo e r 4 park else m.ringTo e r 6 (m.tableCode e r)
  else if opened then if 1 ≤ st ∧ st ≤ 3 then m else m.ringStart e r
  else if r < 16 then m.ringTo e r 4 park
  else m.ringTo e r 5 (if st = 0 then park else heater)

def pairRings (f : Nat) : List Nat := (List.range 4).map (4 * f + ·) ++ (List.range 4).map (16 + 4 * f + ·)

/-! ## Pair states (R522) -/

/-- A signed 16-bit level of a connector word. -/
def level16 (v : Nat) : Int := signedOf v 16

/-- The connector of a pair that enters OPEN is judged, or captured as the baseline (R527, R528). -/
def judgeConnector (m : Mach) (e f : Nat) : Mach :=
  let o := m.pairOpt e f
  let pg := ocuPage e
  let i := 4 * (e % 4) + f
  if o.count < 2 then m
  else
    let mean := o.sum.tdiv o.count
    let base := m.tfld .sx pg 4 2 i F.conn_baseline
    if o.capture then
      ((m.setTFld .sx pg 4 2 i F.conn_baseline (codeOf mean 16)).setTFld .sx pg 4 2 i F.conn_last (codeOf mean 16)).updPair
        e f fun o => { o with capture := false }
    else if base = 0x8000 then m
    else
      let m := m.setTFld .sx pg 4 2 i F.conn_last (codeOf mean 16)
      let rise := mean - level16 base
      let m := if 30 ≤ rise then (m.setTFld .sx pg 4 2 i F.conn_inspect 1).raise .sx pg 5 (ocuDetail e f 0) else m
      if 60 ≤ rise then (m.setTFld .sx pg 4 2 i F.conn_clean 1).raise .sx pg 6 (ocuDetail e f 0) else m

/-- A pair takes a state, with what it does to its rings and its port (R508, R518, R522). -/
def pairTo (m : Mach) (e f st : Nat) (byLos : Bool := false) : Mach :=
  let old := m.eyeState e f
  if old = st then m
  else
    let pg := ocuPage e
    let i := m.frameNow
    let m := m.setFld .sx pg (pairFld (e % 4) f) st
    let m := m.updPair e f fun o =>
      { o with
          since := i, hist := [], lastLight := i, byLos := if st = 1 then byLos else o.byLos,
          nextPulse := if st = 2 ∨ st = 4 then i else o.nextPulse }
    if st = 0 then
      let m := (m.bump .sx pg R.ocuReopenCnt).judgeConnector e f
      let m := m.updPair e f fun o => { o with openedAt := m.time.number }
      (pairRings f).foldl (fun m r => (m.updRing e r fun run => ringEvent run 5 4).ringFit e r) m
    else if old = 0 then
      let m := m.updPair e f fun o => { o with sum := 0, count := 0, counting := [], pulses := [] }
      let m := if byLos then m.bump .sx pg R.ocuLosCnt else m
      let m := m.raise .sx pg 0 (ocuDetail e f 0)
      let m := (pairRings f).foldl (fun m r => m.ringFit e r) m
      let p := 4 * e + f
      if (m.lk .sx p).st = .up ∨ (m.lk .sx p).st = .climbing then m.linkDown .sx p else m
    else m

/-- Loss of light on a pair: an open pair past its grace, or one that opened in this very frame, closes (R522, R525). -/
def pairLos (m : Mach) (e f : Nat) : Mach :=
  let o := m.pairOpt e f
  if m.eyeState e f = 0 ∧ (o.openedAt + 4000 ≤ m.time.number ∨ (o.losFrame = some m.frameNow ∧ o.since = m.frameNow)) then
    m.pairTo e f 1 true
  else m

/-- A pair opens, unless loss of light arrived in this frame or CHATTER holds it (R523, R525). -/
def pairOpens (m : Mach) (e f : Nat) : Mach :=
  if m.chattering (inLos e) then m
  else if (m.pairOpt e f).losFrame = some m.frameNow then m.pairTo e f 1 true
  else m.pairTo e f 0

/-- Whether a holding cause of R525 names a pair; `probe_off` holds only a pair that closed on loss of light. -/
def pairHeldDark (m : Mach) (e f : Nat) : Bool :=
  let lz := fun (fl : Fld) => m.tfld .sx Pg.guard 5 1 e fl
  !m.laserEn e || decide (2 ≤ m.ocuMode e) || lz F.laser_forceDark == 1 || bitsOf (lz F.laser_closed) f 1 == 1
    || m.bit .sx (elsPage (e / 2)) (F.ocuElsStatus_fault (e / 2 % 2)) || m.ocuLink e != 2
    || m.bit .sx (ocuPage e) (F.ocuEngStatus_fault (e % 4))
    || (m.eyeState e f == 1 && (m.pairOpt e f).byLos && lz F.laser_probeOff == 1)

/-- Holding causes act, and pairs whose cause has ended go to PROBE, in the frame that begins (R522, R525). -/
def holdPairs (m : Mach) (e : Nat) : Mach :=
  (List.range 4).foldl
    (fun m f =>
      if m.pairHeldDark e f then m.pairTo e f 1
      else if m.eyeState e f = 1 then m.pairTo e f 2
      else m)
    m

/-- A double pulse in the light history (R522), newest frame first: two frames of dark, a run of `b`, dark, a run of `a`
whose first frame lies `d` frames before the other's, two frames of dark. -/
def doublePulse (h : List Bool) : Bool :=
  [1, 2].any fun a => [1, 2].any fun b => [2, 3, 4].any fun d =>
    a < d && (h.take (b + d + 4) ==
      [false, false] ++ List.replicate b true ++ List.replicate (d - a) false ++ List.replicate a true ++ [false, false])

/-- What an upstream frame tells of a pair (R522, R527). -/
def pairFrame (m : Mach) (e f i : Nat) (u : UpFrame) : Mach :=
  let light := upLight u f
  let m := m.updPair e f fun o =>
    let got : Option Int := if o.counting.contains i then upLevel u f else none
    { o with
        los := upLos u f, hist := (light :: o.hist).take 12, lastLight := if light then i else o.lastLight,
        counting := o.counting.filter (i < ·),
        sum := o.sum + got.getD 0, count := if got.isSome then o.count + 1 else o.count }
  let o := m.pairOpt e f
  match m.eyeState e f with
  | 0 => if o.los then m.pairLos e f else m
  | 2 =>
    if !light then m
    else if bitsOf (m.tfld .sx Pg.guard 5 1 e F.laser_bypass) f 1 = 1 then m.pairOpens e f
    else m.pairTo e f 3
  | 3 => if doublePulse o.hist then m.pairTo e f 4 else m
  | 4 => if doublePulse o.hist ∨ o.hist.take 3 = [true, true, true] then m.pairOpens e f else m
  | _ => m

/-! ## Samples and loops (R514 to R518) -/

/-- One sample record goes to the capture in progress (R532, R533). -/
def captureSample (m : Mach) (e r w : Nat) : Mach :=
  let pg := ocuPage e
  if m.bit .sx pg F.ocuCapStatus_busy ∧ Tbl.get (fun _ => (0, 0)) m.ocuCap (e / 4) = (e % 4, r) then
    let n := m.fld .sx pg F.ocuCapStatus_count
    let m := (m.setTWord .sx pg 3 n w).setFld .sx pg F.ocuCapStatus_count (n + 1)
    if n + 1 = 256 then m.setFld .sx pg F.ocuCapStatus_busy 0 else m
  else m

/-- Changes of channel or gain that act with frame `i`, and the frame's own events. -/
def ringEvents (m : Mach) (e r i : Nat) (bad : Bool) : RingRun :=
  let run := m.ringRun e r
  let run := if m.eyeState e (r % 16 / 4) = 0 then run else ringEvent run 5 4
  let act := run.due.filter fun d => d.1 ≤ i
  let run := act.foldl
    (fun run d =>
      let run' := { run with chan := d.2.1, gain := d.2.2 }
      let run' := if d.2.1 ≠ run.chan then ringEvent run' 1 4 else run'
      if d.2.2 ≠ run.gain then ringEvent run' 2 16 else run')
    run
  let run := { run with due := run.due.filter fun d => i < d.1 }
  if bad then ringEvent run 4 4
  else if m.bit .sx (ocuPage e) (F.ocuEngStatus_fault (e % 4)) then ringEvent run 6 4
  else run

/-- The gain step that the OCU commands a ring (R515, R533). -/
def gainOf (m : Mach) (e r : Nat) (run : RingRun) : Nat :=
  if m.ringF e r F.ring_autoGain = 1 then run.step.getD (m.ringF e r F.ring_gainStep) else m.ringF e r F.ring_gainStep

/-- Gain ranging after one sample (R515). -/
def ranging (m : Mach) (e r x : Nat) (valid : Bool) (run : RingRun) : RingRun :=
  if m.ringF e r F.ring_autoGain = 0 then { run with step := none, low := 0 }
  else
    let now := m.gainOf e r run
    if x = 0xFFFF then { run with step := some (now - 1), low := 0 }
    else if !valid then run
    else if x < 0x1000 then
      if run.low + 1 = 256 then { run with step := some (min (now + 1) 3), low := 0 } else { run with low := run.low + 1 }
    else { run with low := 0 }

/-- One sample of a ring: the run after it, whether it is valid, its record. -/
def oneSample (m : Mach) (e r i j x : Nat) (run : RingRun) : RingRun × Bool × Nat :=
  let valid := run.inv == 0 && m.eyeState e (r % 16 / 4) == 0 && m.ocuType e != 2
  let record := x + (if valid then 65536 else 0) + run.reason * 2 ^ 17 + run.chan * 2 ^ 20 + run.gain * 2 ^ 22
    + i % 256 * 2 ^ 24
  let run := { run with inv := run.inv - 1 }
  let run := m.ranging e r x valid run
  let run :=
    if valid && run.chan == 0 && !m.tableMode e then
      let c := refWave (m.ringF e r F.ring_ditherHz) (m.ringF e r F.ring_phase) (4 * (i - (m.eng? e).start) + j)
      { run with filt := (((x : Int) * c) :: run.filt).take 1024 }
    else run
  (run, valid, record)

/-- The samples of one ring in one frame: what is left is the sum and number of its valid ones. -/
def ringSamples (m : Mach) (e r i : Nat) (u : UpFrame) (bad : Bool) : Mach × Nat × Nat :=
  let run := m.ringEvents e r i bad
  let m := m.updRing e r fun _ => run
  ((upSamples u r).zipIdx).foldl
    (fun (a : Mach × Nat × Nat) x =>
      let (run, valid, w) := a.1.oneSample e r i x.2 x.1 (a.1.ringRun e r)
      let m := (a.1.updRing e r fun _ => run).captureSample e r w
      if valid then (m, a.2.1 + x.1, a.2.2 + 1) else (m, a.2.1, a.2.2))
    (m, 0, 0)

/-- The best frame of a sweep so far: samples of frame `i` were taken under the code sent in frame `i - 2`. -/
def sweepPeak (m : Mach) (e r i sum n : Nat) : Mach :=
  let run := m.ringRun e r
  match run.sent.find? fun s => s.1 + 2 == i && s.2.2 with
  | none => m
  | some s =>
    let better : Bool := match run.peak with | none => true | some q => decide (q.1 * n < sum * q.2.1)
    if n ≠ 0 ∧ run.chan = 0 ∧ better then m.updRing e r fun run => { run with peak := some (sum, n, s.2.1) } else m

/-- A ring returns from TRACK to SWEEP (R518). -/
def ringLost (m : Mach) (e r : Nat) : Mach :=
  ((m.bump .sx (ocuPage e) R.ocuRingLostCnt).raise .sx (ocuPage e) 2 (ocuDetail e (r % 16 / 4) r)).ringSweep e r

/-- The update of R518 for a ring in TRACK or LOCKED with its filter full. -/
def ringUpdate (m : Mach) (e r : Nat) : Mach :=
  let run := m.ringRun e r
  let len := m.filterLen e
  let y := ((run.filt.take len).foldl (· + ·) 0).tdiv len
  let err := y - signedOf (m.ringF e r F.ring_setpoint) 24
  let step := err * signedOf (m.ringF e r F.ring_gain) 16 / 65536
  let step := min (max step (-4096)) 4096
  let h := (min (max ((m.ringF e r F.ring_heater : Int) + step) 0) 65535).toNat
  let inside := decide (err.natAbs ≤ m.lockTol e)
  if m.ringState e r = 2 then
    let n := if inside then run.run + 1 else 0
    let m := m.updRing e r fun run => { run with run := n, updates := run.updates + 1 }
    if 64 ≤ n then (m.updRing e r fun run => { run with run := 0, locked := some h }).ringTo e r 3 h
    else if h = 0 ∨ h = 65535 ∨ 2048 ≤ run.updates + 1 then m.ringLost e r
    else m.ringTo e r 2 h
  else
    let n := if inside then 0 else run.run + 1
    let m := m.updRing e r fun run => { run with run := n }
    if 16 ≤ n then m.ringTrack e r h
    else (m.updRing e r fun run => { run with locked := some h }).ringTo e r 3 h

/-- One ring in one upstream frame. -/
def ringFrame (m : Mach) (e r i : Nat) (u : UpFrame) (bad : Bool) : Mach :=
  let (m, sum, n) := m.ringSamples e r i u bad
  if n = 0 then m
  else
    let st := m.ringState e r
    if st = 1 then m.sweepPeak e r i sum n
    else if (st = 2 ∨ st = 3) ∧ m.filterLen e ≤ (m.ringRun e r).filt.length then m.ringUpdate e r
    else m

/-! ## Upstream (R511, R513) -/

def setLink (m : Mach) (e v : Nat) : Mach := m.setFld .sx (ocuPage e) (F.ocuEngStatus_link (e % 4)) v

/-- The engine's link goes down: every pair closes, every ring is off. -/
def engineDown (m : Mach) (e : Nat) : Mach :=
  let m := (m.setLink e 0).raise .sx (ocuPage e) 1 (ocuDetail e 0 0)
  let m := (List.range 4).foldl (fun m f => m.pairTo e f 1) m
  let m := (List.range 32).foldl (fun m r => (m.updRing e r fun run => { run with locked := none }).ringFit e r) m
  m.updEng e fun g => { g with temps := [] }

/-- The engine's link comes up: its type is taken and every ring restarts as after power-on. -/
def engineUp (m : Mach) (e : Nat) (u : UpFrame) : Mach :=
  let m := (m.setLink e 2).setFld .sx (ocuPage e) (F.ocuEngStatus_type (e % 4)) (upType u)
  (List.range 32).foldl
    (fun m r =>
      (m.updRing e r fun run =>
        { run with locked := none, peak := none, fresh := false, run := 0, updates := 0, filt := [], step := none,
                   low := 0 }).ringFit e r)
    m

/-- A frame with a bad sync word or CRC is discarded and counted. -/
def upBad (m : Mach) (e i : Nat) (u : UpFrame) : Mach :=
  let m := m.bump .sx (ocuPage e) R.ocuCtlCrcCnt
  let m := m.updEng e fun g => { g with bad := g.bad + 1, good := 0 }
  let m := (List.range 32).foldl (fun m r => m.ringFrame e r i u true) m
  let m := (List.range 4).foldl (fun m f => m.updPair e f fun o => { o with hist := (false :: o.hist).take 12 }) m
  if m.ocuLink e = 2 then if 8 ≤ (m.eng? e).bad then m.engineDown e else m
  else m.setLink e 0

/-- A good frame: status, temperature, samples, pairs. -/
def upTake (m : Mach) (e i : Nat) (u : UpFrame) : Mach :=
  let pg := ocuPage e
  let up := m.ocuLink e == 2
  let m := m.updEng e fun g =>
    { g with
        bad := 0, good := g.good + 1, start := if !up && g.good == 0 then i else g.start,
        temps := (upTemp u :: g.temps).take 16 }
  let m := m.setFld .sx pg (F.ocuEngTemp_temp (e % 4)) (codeOf (m.engTemp e) 16)
  let m := m.setFld .sx pg (F.ocuEngStatus_fault (e % 4)) (if upFault u then 1 else 0)
  if !up then if 16 ≤ (m.eng? e).good then m.engineUp e u else m.setLink e 1
  else
    let m := m.setFld .sx pg (F.ocuEngStatus_table (e % 4)) (if m.tableMode e then 1 else 0)
    let m := (List.range 32).foldl (fun m r => m.ringFrame e r i u false) m
    (List.range 4).foldl (fun m f => m.pairFrame e f i u) m

/-! ## Downstream (R510, R518) -/

/-- The code that a ring sends in the frame that begins, with its sweep's progress. -/
def ringCode (m : Mach) (e r i : Nat) : Mach :=
  let m := m.ringFit e r
  let run := m.ringRun e r
  let was := m.ringF e r F.ring_heater
  let m :=
    if m.ringState e r ≠ 1 then m
    else if run.fresh then (m.updRing e r fun run => { run with fresh := false }).ringTo e r 1 0
    else if was + m.sweepStep e ≤ 65535 then m.ringTo e r 1 (was + m.sweepStep e)
    else
      match run.peak with
      | none => m.ringTo e r 1 0
      | some q =>
        let h : Int := (q.2.2 : Int) + signedOf (m.ringF e r F.ring_detune) 16
        m.ringTrack e r (min (max h 0) 65535).toNat
  let chan := m.ringF e r F.ring_chan
  m.updRing e r fun run =>
    let gain := m.gainOf e r run
    { run with
        sent := ((i, m.ringF e r F.ring_heater, m.ringState e r == 1) :: run.sent).take 3,
        due := if chan ≠ run.sentChan ∨ gain ≠ run.sentGain then run.due ++ [(i + 2, chan, gain)] else run.due,
        sentChan := chan, sentGain := gain }

/-- Pair command of pair `f` in frame `i`: 0 closed, 1 pulse, 2 open (R510). -/
def pairCommand (m : Mach) (e f i : Nat) : Nat :=
  if m.eyeState e f = 0 then 2 else if (m.pairOpt e f).pulses.contains i then 1 else 0

/-- The downstream frame of an engine, without its CRC. -/
def downBody (m : Mach) (e i : Nat) : Nat :=
  let slot := (m.eng? e).slot
  let dither := slot + m.ringF e slot F.ring_ditherHz * 2 ^ 5 + m.ringF e slot F.ring_amp * 2 ^ 17
    + (if m.tableMode e then 0 else 2 ^ 25)
  0xB5E34C07
    + sumOf (List.range 32) (fun r => place (m.ringF e r F.ring_heater) (32 + 16 * r) 16)
    + sumOf (List.range 4) (fun f => place (m.pairCommand e f i) (544 + 2 * f) 2)
    + sumOf (List.range 32) (fun r =>
        place ((m.ringRun e r).sentChan + 4 * (m.ringRun e r).sentGain) (560 + 4 * r) 4)
    + place dither 688 32

/-- DOWNSTREAM_FRAME (R510, R518, R522, R525). -/
def downstream (m : Mach) (e : Nat) : Mach :=
  let i := m.frameNow
  let m := m.holdPairs e
  let m := m.setFld .sx (ocuPage e) (F.ocuEngStatus_table (e % 4)) (if m.tableMode e && m.ocuLink e == 2 then 1 else 0)
  let m := (List.range 32).foldl (fun m r => m.ringCode e r i) m
  let body := m.downBody e i
  let m := m.emit (.downFrame e (BitVec.ofNat 736 (body + place (crc16 (sentBits body 32 688)) 720 16)))
  let m := (List.range 4).foldl (fun m f => m.updPair e f fun o => { o with pulses := o.pulses.filter (i < ·) }) m
  m.updEng e fun g => { g with slot := (g.slot + 1) % 32 }

/-! ## Probing (R522, R527) -/

/-- PROBE_PULSE: a pair in PROBE commands a pulse, one in HANDSHAKE or OPENING a double pulse, from the next frame on. -/
def probePulse (m : Mach) (e f : Nat) : Mach :=
  let i := m.frameNow
  let st := m.eyeState e f
  let o := m.pairOpt e f
  if st < 2 ∨ i < o.nextPulse then m
  else
    let at_ := if st = 2 then [i + 1] else [i + 1, i + 4]
    m.updPair e f fun o =>
      { o with
          pulses := o.pulses ++ at_, nextPulse := i + (if st = 4 then 10 else m.probePeriod e),
          counting := if st = 2 then o.counting else o.counting ++ at_.map (· + 2) }

/-- HANDSHAKE_TIMEOUT: three periods without light take a pair back to PROBE. -/
def pairTimeout (m : Mach) (e f : Nat) : Mach :=
  let o := m.pairOpt e f
  let st := m.eyeState e f
  if (st = 3 ∨ st = 4) ∧ max o.since o.lastLight + 3 * m.probePeriod e ≤ m.frameNow then m.pairTo e f 2 else m

/-- OE_LOS: loss of light on one pair; CHATTER, once latched, is loss of light on every pair (R523, R625). -/
def oeLos (m : Mach) (e f : Nat) : Mach :=
  let lose := fun (m : Mach) (f : Nat) =>
    (m.updPair e f fun o => { o with los := true, losFrame := some m.frameNow }).pairLos e f
  let (m, latched) := m.pinAsserted (inLos e)
  if latched ∨ m.chattering (inLos e) then (List.range 4).foldl lose m else lose m f

/-- OPEN_GRACE_END: an open pair with loss of light set at the end of its 2 ms closes. -/
def graceEnd (m : Mach) (e f : Nat) : Mach :=
  let o := m.pairOpt e f
  if m.eyeState e f = 0 ∧ o.openedAt + 4000 ≤ m.time.number ∧ (o.los ∨ m.chattering (inLos e)) then m.pairTo e f 1 true
  else m

/-! ## Commits of ring words and tables (R516, R520) -/

/-- An engine's dither frequencies that no commit may leave (R516). -/
def ditherBad (hz : List Nat) : Bool :=
  hz.any (fun f => decide (f < 1000 ∨ 4000 < f))
    || (hz.zipIdx.any fun a => hz.zipIdx.any fun b => a.2 < b.2 && (decide (a.1 < b.1 + 40) && decide (b.1 < a.1 + 40)))

/-- Table temperatures that are not strictly ascending (R520). -/
def tableBad : List Int → Bool
  | a :: b :: ts => decide (b ≤ a) || tableBad (b :: ts)
  | _ => false

/-! ## External laser sources (R529 to R531) -/

def elsF (m : Mach) (k : Nat) (f : Fld) : Nat := m.tfld .sx (elsPage k) 5 16 (k % 2) f
def setEls (m : Mach) (k : Nat) (f : Fld) (v : Nat) : Mach := m.setTFld .sx (elsPage k) 5 16 (k % 2) f v
def elsBit (m : Mach) (k : Nat) (f : Nat → Fld) : Bool := m.bit .sx (elsPage k) (f (k % 2))
def setElsBit (m : Mach) (k : Nat) (f : Nat → Fld) (v : Bool) : Mach :=
  m.setFld .sx (elsPage k) (f (k % 2)) (if v then 1 else 0)
/-- Detail word of an ELS event. -/
def elsDetail (k : Nat) : Nat := k % 2 * 512

/-- ELS_ON follows its conditions (R529). -/
def elsUpdate (m : Mach) (k : Nat) : Mach :=
  let on := m.elsBit k F.ocuElsStatus_present && !m.elsBit k F.ocuElsStatus_idErr && !m.elsBit k F.ocuElsStatus_fault
    && (m.laserEn (2 * k) || m.laserEn (2 * k + 1))
  if on = m.elsBit k F.ocuElsStatus_on then m else (m.setElsBit k F.ocuElsStatus_on on).emit (.elsOn k on)

/-- Drift and end of life (R531). -/
def elsDrift (m : Mach) (k : Nat) : Mach :=
  let first := m.elsF k F.els_firstBias
  let bias := m.elsF k F.els_bias
  let d := if first = 0 then 0 else ((bias : Int) - first).natAbs * 1000 / first
  let m := m.setEls k F.els_drift (min d 1023)
  let life := m.tword .sx (elsPage k) 5 (16 * (k % 2) + 6)
  if (200 ≤ d ∨ 60 * life ≤ m.elsF k F.els_minutes) ∧ !m.elsBit k F.ocuElsStatus_eol then
    (m.setElsBit k F.ocuElsStatus_eol true).raise .sx (elsPage k) 8 (elsDetail k)
  else m

/-- A module is inserted: its record is read and its ledger starts again (R529, R531). -/
def elsInserted (m : Mach) (k : Nat) (id : List Byte) : Mach :=
  let put := fun (m : Mach) (w : Nat) =>
    m.setTWord .sx (elsPage k) 5 (16 * (k % 2) + w) (ofLeBytes ((id.drop (4 * w)).take 4))
  let m := (List.range 8).foldl put m
  let m := (((m.setEls k F.els_minutes 0).setEls k F.els_firstBias 0).setEls k F.els_bias 0).setEls k F.els_drift 0
  let m := { m with els := Tbl.set (fun _ => {}) m.els k {} }
  let bits := (id.take 30).flatMap fun b => sentBits b.toNat 0 8
  let ok := id.length == 32 && ofLeBytes (id.drop 30) == crc16 bits
  ((m.setElsBit k F.ocuElsStatus_present true).setElsBit k F.ocuElsStatus_idErr (!ok)).setElsBit k F.ocuElsStatus_eol false

/-- One bias reading (R531). -/
def elsReading (m : Mach) (k bias : Nat) : Mach :=
  let m := m.setEls k F.els_bias bias
  let g : ElsRun := Tbl.get (fun _ => {}) m.els k
  let m :=
    if m.elsF k F.els_minutes = 0 ∨ m.elsF k F.els_firstBias ≠ 0 ∨ 16 ≤ g.count then m
    else
      let g : ElsRun := { sum := g.sum + bias % 65536, count := g.count + 1 }
      let m := { m with els := Tbl.set (fun _ => {}) m.els k g }
      if g.count = 16 then m.setEls k F.els_firstBias (g.sum / 16) else m
  if m.elsF k F.els_firstBias = 0 then m else m.elsDrift k

/-- ELS_POLL (R529). -/
def elsPoll (m : Mach) (k : Nat) (a : Option ElsRead) : Mach :=
  let m := m.emit (.elsRead k)
  match a with
  | none => (m.setElsBit k F.ocuElsStatus_present false).elsUpdate k
  | some x =>
    let m := if m.elsBit k F.ocuElsStatus_present then m else m.elsInserted k x.identity
    (m.elsReading k x.bias).elsUpdate k

/-- ELS_FAULT (R530). -/
def elsFaulted (m : Mach) (k : Nat) : Mach :=
  let m := (m.pinAsserted (inEls k)).1
  ((m.setElsBit k F.ocuElsStatus_fault true).raise .sx (elsPage k) 7 (elsDetail k)).elsUpdate k

/-- A write of 1 to the fault bit (R530): it stays set while ELS_FAULT_N is asserted, which the block cannot know from its
commands (log 4), or in CHATTER. -/
def elsFaultCleared (m : Mach) (k : Nat) : Mach :=
  if m.chattering (inEls k) ∨ !m.elsBit k F.ocuElsStatus_fault then m
  else
    let (b, m) := m.fresh 1
    if b = 1 then m else (m.setElsBit k F.ocuElsStatus_fault false).elsUpdate k

/-- ELS_LEDGER_MINUTE (R531). -/
def elsMinute (m : Mach) (k : Nat) : Mach :=
  if m.elsBit k F.ocuElsStatus_on ∧ !m.elsBit k F.ocuElsStatus_fault then
    (m.setEls k F.els_minutes (min (m.elsF k F.els_minutes + 1) 0xFFFFFFFF)).elsDrift k
  else m

/-- OCU_CAP_CTRL (R532). -/
def ocuCapture (m : Mach) (q value : Nat) : Mach :=
  let pg := Pg.ocu q
  let m := m.setReg .sx pg R.ocuCapCtrl (value - place (bitsOf value 7 1) 7 1)
  if bitsOf value 7 1 = 0 then m
  else
    let m := { m with ocuCap := Tbl.set (fun _ => (0, 0)) m.ocuCap q (bitsOf value 0 2, bitsOf value 2 5) }
    (m.setFld .sx pg F.ocuCapStatus_count 0).setFld .sx pg F.ocuCapStatus_busy 1

end Mach

/-! ## Meanings -/

/-- A command of optical engine `e` (R507). -/
def State.onEngine (s : State) (e : Nat) (f : Mach → Mach) : Host.Outcome State Fault Refusal :=
  State.unit (decide (e < 36)) (s.go f)

/-- DOWNSTREAM_FRAME (R510). -/
def execDownstreamFrame (e : Nat) (s : State) : Host.Outcome State Fault Refusal := 
  s.onEngine e fun m => if m.boot.off then m else m.downstream e

/-- UPSTREAM_FRAME (R513). -/
def execUpstreamFrame (e : Nat) (u : UpFrame) (s : State) : Host.Outcome State Fault Refusal :=
  s.onEngine e fun m =>
    if m.boot.off then m else if upGood u then m.upTake e m.frameNow u else m.upBad e m.frameNow u

/-- OE_LOS (R523). -/
def execOeLos (e f : Nat) (s : State) : Host.Outcome State Fault Refusal :=
  State.unit (decide (f < 4)) (s.onEngine e fun m => m.oeLos e f)

/-- PROBE_PULSE (R522). -/
def execProbePulse (e f : Nat) (s : State) : Host.Outcome State Fault Refusal :=
  State.unit (decide (f < 4)) (s.onEngine e fun m => m.probePulse e f)

/-- OPEN_GRACE_END (R522). -/
def execOpenGraceEnd (e f : Nat) (s : State) : Host.Outcome State Fault Refusal :=
  State.unit (decide (f < 4)) (s.onEngine e fun m => m.graceEnd e f)

/-- HANDSHAKE_TIMEOUT (R522). -/
def execHandshakeTimeout (e f : Nat) (s : State) : Host.Outcome State Fault Refusal :=
  State.unit (decide (f < 4)) (s.onEngine e fun m => m.pairTimeout e f)

/-- OCU_CAPTURE (R532). -/
def execOcuCapture (q value : Nat) (s : State) : Host.Outcome State Fault Refusal :=
  State.unit (decide (q < 9)) (s.go fun m => m.ocuCapture q value)

/-- BASELINE_CAPTURE (R528). -/
def execBaselineCapture (e f : Nat) (s : State) : Host.Outcome State Fault Refusal :=
  State.unit (decide (f < 4)) (s.onEngine e fun m => m.updPair e f fun o => { o with capture := true })

/-- ELS_POLL (R529). -/
def execElsPoll (k : Nat) (a : Option ElsRead) (s : State) : Host.Outcome State Fault Refusal :=
  State.unit (decide (k < 18)) (s.go fun m => m.elsPoll k a)

/-- ELS_FAULT (R530). -/
def execElsFault (k : Nat) (s : State) : Host.Outcome State Fault Refusal :=
  State.unit (decide (k < 18)) (s.go fun m => m.elsFaulted k)

/-- ELS_FAULT_CLEAR (R530). -/
def execElsFaultClear (k : Nat) (s : State) : Host.Outcome State Fault Refusal :=
  State.unit (decide (k < 18)) (s.go fun m => m.elsFaultCleared k)

/-- ELS_LEDGER_MINUTE (R531). -/
def execElsLedgerMinute (k : Nat) (s : State) : Host.Outcome State Fault Refusal :=
  State.unit (decide (k < 18)) (s.go fun m => m.elsMinute k)

end Sys2Proof.Machine
end

