-- ==== Sys2Proof/Machine/Power.lean ====
section
/-! DEFINITION. Power, shedding and thermal (chapter "Power, shedding and thermal"): the sources and the effective shed
level, the power estimator, cap and slew limit, thermal levels, gating and block reset (R563 to R582). -/

namespace Sys2Proof.Machine
open Sys2Proof

namespace Mach

def setPower (m : Mach) (p : PowerRun) : Mach := { m with power := p }

/-! ## Sources of the shed level (R566) -/

/-- The five sources: 0 voltage, 1 PWRBRK_N, 2 floor, 3 cap, 4 thermal. -/
def shedSrc (m : Mach) : Nat → ShedSrc
  | 0 => m.power.volt
  | 1 => m.power.brk
  | 2 => m.power.floor
  | 3 => m.power.cap
  | _ => m.power.therm

/-- Set a source; its level shows in PWR_SHED_STATUS.  The floor's field shows the live floor itself (R581). -/
def setShedSrc (m : Mach) (i : Nat) (x : ShedSrc) : Mach :=
  let p := m.power
  match i with
  | 0 => (m.setPower { p with volt := x }).setFld .sx Pg.power F.pwrShedStatus_vLevel x.level
  | 1 => (m.setPower { p with brk := x }).setFld .sx Pg.power F.pwrShedStatus_brkLevel x.level
  | 2 => m.setPower { p with floor := x }
  | 3 => (m.setPower { p with cap := x }).setFld .sx Pg.power F.pwrShedStatus_capLevel x.level
  | _ => (m.setPower { p with therm := x }).setFld .sx Pg.power F.pwrShedStatus_tLevel x.level

/-- The triggers of a source hold level `cond` from now on: a rise waits for its hem. -/
def shedAsk (m : Mach) (i cond : Nat) : Mach :=
  let x := m.shedSrc i
  let seen := x.seen.mapIdx fun n t => if n ≤ x.cond ∧ cond < n then m.time.number else t
  let x := { x with cond := cond, seen := seen }
  m.setShedSrc i (if x.level < cond then { x with level := cond, risen := true } else x)

/-- Whether a source falls one level in this hem. -/
def shedFalls (m : Mach) (x : ShedSrc) : Bool :=
  x.level != 0 && !x.risen && decide (x.cond < x.level)
    && decide (x.seen.getD x.level 0 + 2000 ≤ m.time.number) && decide (x.changed + 2000 ≤ m.time.number)

/-- The largest of the sources. -/
def shedTop (m : Mach) : Nat := (List.range 5).foldl (fun a i => max a (m.shedSrc i).level) 0

/-- The effective level changes (R566, R581, R582, R608, R356). -/
def setEffective (m : Mach) (level : Nat) : Mach :=
  let old := m.shedLevel
  if level = old then m
  else
    let m := if old = 0 then m.setPower { m.power with lostAt := m.reg .sx Pg.trace R.trcLostCnt } else m
    let m := m.setFld .sx Pg.power F.pwrShedStatus_level level
    let m := if level = 0 then m else m.bump .sx Pg.power (R.pwrShed1Cnt + 4 * (level - 1))
    let m := m.trace Pg.power 6 0 level
    let m := if old < 2 ∧ 2 ≤ level then m.trace Pg.pleat 2 0 0 else m
    let m := if 2 ≤ old ∧ level < 2 then m.trace Pg.pleat 3 0 0 else m
    let m := if m.mem.selfRefresh ∧ level < 4 then (m.setMem { m.mem with selfRefresh := false }).refreshTrace 3 else m
    let lost := m.reg .sx Pg.trace R.trcLostCnt - m.power.lostAt
    let m := if level = 0 ∧ lost ≠ 0 then m.trace Pg.trace 8 0 (min lost 65535) else m
    m.raise .sx Pg.power 0 0

/-- SHED_RISE: at the hem after a source rose.  The change counts from cycle 0 of the stitch that follows. -/
def shedRise (m : Mach) : Mach :=
  let m := (List.range 5).foldl
    (fun (m : Mach) i =>
      let x := m.shedSrc i
      if x.risen then m.setShedSrc i { x with risen := false, changed := m.time.number + 1 } else m)
    m
  m.setEffective (max m.shedLevel m.shedTop)

/-- SHED_FALL: sources that may fall do so in the hem, one level each. -/
def shedFall (m : Mach) : Mach :=
  let m := (List.range 5).foldl
    (fun (m : Mach) i =>
      let x := m.shedSrc i
      if m.shedFalls x then m.setShedSrc i { x with level := x.level - 1, changed := m.time.number } else m)
    m
  if (List.range 5).any fun i => (m.shedSrc i).risen then m else m.setEffective m.shedTop

/-- Voltage level of the lowest monitor, in millivolts (R567, R568). -/
def voltLevel (mv : Nat) : Nat :=
  if 2 * mv < 1365 then 4 else if 2 * mv < 1395 then 3 else if 2 * mv < 1425 then 2 else if 2 * mv < 1455 then 1 else 0

/-- PWRBRK_N is taken as asserted, or not, from now on (R570, R625). -/
def brkUpdate (m : Mach) : Mach :=
  if m.power.brkPin ∨ m.chattering inPwrbrk then
    let m := m.setPower { m.power with brkSince := some (m.power.brkSince.getD m.time.number) }
    m.shedAsk 1 (max m.power.brk.cond 1)
  else (m.setPower { m.power with brkSince := none, stuck := false }).shedAsk 1 0

/-- PWRBRK_N. -/
def pwrbrk (m : Mach) (asserted : Bool) : Mach :=
  let m := if asserted = m.power.brkPin then m else (m.pinChanges inPwrbrk 1).1
  let m := m.setPower { m.power with brkPin := asserted }
  (m.setFld .sx Pg.chip F.chpPinStatus_pwrbrk (if asserted then 1 else 0)).brkUpdate

/-- PWRBRK_HOLD: 1 ms and 1 s of assertion (R570). -/
def pwrbrkHold (m : Mach) : Mach :=
  match m.power.brkSince with
  | none => m
  | some t =>
    let m := if t + 2000 ≤ m.time.number then m.shedAsk 1 2 else m
    if t + 2000000 ≤ m.time.number ∧ !m.power.stuck then
      (m.setPower { m.power with stuck := true }).raise .sx Pg.power 1 0
    else m

/-- A commit changed the floor (R571). -/
def floorCommitted (m : Mach) : Mach :=
  let n := min (m.fld .sx Pg.power F.pwrShedFloor_floor) 4
  (m.setFld .sx Pg.power F.pwrShedStatus_floor n).shedAsk 2 n

/-! ## Estimator, cap and slew (R572 to R575) -/

def estStale (m : Mach) : Bool := m.bit .sx Pg.power F.pwrEstStatus_estStale
def gain (m : Mach) : Nat := m.fld .sx Pg.power F.pwrEstCal_gain
def pOther (m : Mach) : Nat := m.fld .sx Pg.power F.pwrCapCtrl_pOther
/-- p_cap: above 750 acts as 750 (R581). -/
def pCap (m : Mach) : Nat := min (m.fld .sx Pg.power F.pwrCapCtrl_pCap) 750

/-- The power of one more stitch, in runs of equal values, at most `n` stitches. -/
def pushRun (v : Nat) (h : List (Nat × Nat)) : List (Nat × Nat) :=
  match h with
  | (w, k) :: t => if w = v then (w, k + 1) :: t else (v, 1) :: (w, k) :: t
  | [] => [(v, 1)]

/-- Sum and number of the newest `n` stitches of a history. -/
def sumRun : Nat → List (Nat × Nat) → Nat × Nat
  | _, [] => (0, 0)
  | n, (v, k) :: t =>
    let j := min n k
    let r := sumRun (n - j) t
    (v * j + r.1, j + r.2)

/-- The newest `n` stitches of a history. -/
def cutRun : Nat → List (Nat × Nat) → List (Nat × Nat)
  | _, [] => []
  | n, (v, k) :: t => if n = 0 then [] else (v, min n k) :: cutRun (n - min n k) t

/-- The cap level that the means ask for (R574). -/
def capAsk (m : Mach) : Nat :=
  let a := sumRun 20000 m.power.hist
  let b := sumRun 2000 m.power.hist
  if (m.pCap + 70) * b.2 < b.1 then 3
  else if m.pCap * a.2 < a.1 then 2
  else if a.1 + 20 * a.2 < m.pCap * a.2 then 0
  else m.power.cap.level

/-- The credit fraction after a stitch of `p` watts (R575), in 1/64. -/
def slewStep (m : Mach) (p : Nat) : Nat :=
  let slew := m.fld .sx Pg.power F.pwrSlewCtrl_slew
  let allow := 20 * max m.power.prev (m.fld .sx Pg.power F.pwrSlewCtrl_pBase) + slew
  if slew = 0 then 64
  else if allow < 20 * p then max (m.power.f / 2) 4
  else min (m.power.f + 4) 64

/-- The calibration window takes one stitch (R573). -/
def calTake (m : Mach) (x y : Nat) : Mach :=
  let p := m.power
  let n := p.calN + 1
  let s := p.cal16 + y
  let full := n % 16 == 0
  m.setPower { p with
    calN := n, calX := p.calX + x, calY := p.calY + y, calXX := p.calXX + x * x, calXY := p.calXY + x * y,
    cal16 := if full then 0 else s,
    calLo := if full then some (min (p.calLo.getD s) s) else p.calLo,
    calHi := if full then max p.calHi s else p.calHi }

/-- One stitch of the estimator: activity sum `act`, core-rail power `rail` in watts (R572 to R575). -/
def powerTick (m : Mach) (act rail : Nat) : Mach :=
  let est : Int := ((m.gain * act / 4096 + m.pOther : Nat) : Int)
    + signedOf (m.fld .sx Pg.power F.pwrEstCal_offset) 16
  let pEst := est.toNat
  let pRail := rail + m.pOther
  let m := m.setFld .sx Pg.power F.pwrEstStatus_est (min pEst 4095)
  let m := m.setFld .sx Pg.power F.pwrEstStatus_meas (min pRail 4095)
  let m := m.calTake (m.gain * act) pRail
  let p := if m.estStale then pRail else pEst
  let f := m.slewStep p
  let m := m.setPower { m.power with hist := cutRun 20000 (pushRun p m.power.hist), prev := p, f := f }
  let m := m.setFld .sx Pg.power F.pwrShedStatus_f (min f 63)
  let m := if f < 64 then m.bump .sx Pg.power R.pwrSlewThrottleCnt else m
  m.shedAsk 3 m.capAsk

/-- The fit of a window by least squares: the new gain in 1/4,096 and the new offset, when it is accepted (R573).  With x in
1/4,096 W the slope is `num / den`. -/
def calFit (m : Mach) : Option (Nat × Int) :=
  let p := m.power
  let n : Int := p.calN
  let den : Int := n * p.calXX - (p.calX : Int) * p.calX
  let num : Int := n * p.calXY - (p.calX : Int) * p.calY
  let g : Int := m.gain
  if den = 0 ∨ p.calHi < p.calLo.getD 0 + 75 * 16 ∨ 10 * g * num < 9 * den ∨ 11 * den < 10 * g * num then none
  else
    some ((g * num * 4096 / den).toNat, (p.calY * den - num * p.calX) / (n * den) - m.pOther)

/-- CAL_WINDOW_END (R573). -/
def calEnd (m : Mach) : Mach :=
  if m.power.calN < 4096 then m
  else
    let fit := m.calFit
    let m := m.setPower { m.power with calN := 0, calX := 0, calY := 0, calXX := 0, calXY := 0, cal16 := 0, calLo := none,
                                       calHi := 0 }
    match fit with
    | some r =>
      let m := (m.setFld .sx Pg.power F.pwrEstCal_gain r.1).setFld .sx Pg.power F.pwrEstCal_offset (codeOf r.2 16)
      (m.setFld .sx Pg.power F.pwrEstStatus_rejected 0).setFld .sx Pg.power F.pwrEstStatus_estStale 0
    | none =>
      let m := m.bump .sx Pg.power R.pwrCalRejectCnt
      let n := min (m.fld .sx Pg.power F.pwrEstStatus_rejected + 1) 127
      let m := m.setFld .sx Pg.power F.pwrEstStatus_rejected n
      if n = 64 then (m.setFld .sx Pg.power F.pwrEstStatus_estStale 1).raise .sx Pg.power 2 0 else m

/-! ## Thermal (R576 to R578) -/

/-- A trigger ends 3 °C below its threshold. -/
def tripStep (t limit : Int) (was : Bool) : Bool := decide (limit ≤ t) || (was && decide (limit - 3 < t))

/-- The hottest of a list of readings and its place, from index `i` on; the lowest index of equals. -/
def hottest (i : Nat) (ts : List Int) : Option (Int × Nat) :=
  (ts.zipIdx i).foldl
    (fun a x => match a with | some b => if b.1 < x.1 then some x else a | none => some x)
    none

/-- Show the hottest reading, and ask for the thermal level of the triggers present. -/
def thermShow (m : Mach) : Mach :=
  let best := match m.power.die, m.power.hbm with
    | some a, some b => if a.1 < b.1 then some b else some a
    | some a, none => some a
    | none, b => b
  let m := match best with
    | some b =>
      (m.setFld .sx Pg.power F.pwrThermStatus_maxTemp (min b.1.toNat 255)).setFld .sx Pg.power F.pwrThermStatus_sensor b.2
    | none => m
  let t := fun i => m.power.trips.getD i false
  m.shedAsk 4 (if t 2 then 4 else if t 1 || t 4 then 3 else if t 0 || t 3 then 2 else 0)

/-- Limits after their bounds (R578). -/
def tThrottle (m : Mach) : Nat := min (m.fld .sx Pg.power F.pwrThermCtrl_tThrottle) 105
def tCrit (m : Mach) : Nat := min (m.fld .sx Pg.power F.pwrThermCtrl_tCrit) 115
def tHbm (m : Mach) : Nat := min (m.fld .sx Pg.power F.pwrThermCtrl_tHbm) 100

/-- THERMAL_SAMPLE (R577). -/
def thermSample (m : Mach) (ts : List Int) : Mach :=
  match hottest 0 ts with
  | none => m
  | some h =>
    let was := m.power.trips
    let now := [tripStep h.1 m.tThrottle (was.getD 0 false), tripStep h.1 (m.tThrottle + 5) (was.getD 1 false),
                tripStep h.1 m.tCrit (was.getD 2 false), was.getD 3 false, was.getD 4 false]
    let m := m.setPower { m.power with trips := now, die := some h }
    let m := if now.getD 0 false ∧ !was.getD 0 false then m.raise .sx Pg.power 3 0 else m
    let m := if now.getD 2 false ∧ !was.getD 2 false then m.raise .sx Pg.power 4 0 else m
    let m :=
      if 125 ≤ h.1 ∧ !m.bit .sx Pg.power F.pwrThermStatus_trip then
        let m := (m.setFld .sx Pg.power F.pwrThermStatus_trip 1).setFld .sx Pg.chip F.chpPinStatus_thermtrip 1
        (m.emit .thermTrip).raise .sx Pg.power 5 0
      else m
    m.thermShow

/-- HBM_TEMP_REPORT (R576, R577). -/
def hbmSample (m : Mach) (ts : List Nat) : Mach :=
  match hottest 54 (ts.map fun t => (t : Int)) with
  | none => m
  | some h =>
    let was := m.power.trips
    let now := [was.getD 0 false, was.getD 1 false, was.getD 2 false, tripStep h.1 m.tHbm (was.getD 3 false),
                tripStep h.1 (m.tHbm + 5) (was.getD 4 false)]
    (m.setPower { m.power with trips := now, hbm := some h }).thermShow

/-! ## Gating and block reset (R579, R580) -/

/-- Units of PWR_GATE_CTRL: 0 tile, 1 cluster, 2 stack, 3 die. -/
def gateUnits (kind : Nat) : Nat := [18, 6, 6, 2].getD kind 0

def gateTiles (kind unit : Nat) : List Nat :=
  match kind with
  | 0 => [unit]
  | 1 => (List.range 3).map (3 * unit + ·)
  | 3 => (List.range 9).map (9 * unit + ·)
  | _ => []

def gateStacks (kind unit : Nat) : List Nat :=
  match kind with
  | 1 | 2 => [unit]
  | 3 => (List.range 3).map (3 * unit + ·)
  | _ => []

/-- The page of a unit, for its trace records. -/
def gatePage (kind unit : Nat) : Nat := if kind = 0 then Pg.tile unit else if kind = 3 then Pg.die unit else Pg.cluster unit

/-- Whether a unit is retired: all its tiles and stacks are. -/
def gateRetired (m : Mach) (kind unit : Nat) : Bool :=
  (gateTiles kind unit).all m.out1.contains && (gateStacks kind unit).all m.mem.retired.contains

/-- Confidential keys that a unit holds (R457). -/
def gateHolds (m : Mach) (kind unit : Nat) : List Nat :=
  (((gateTiles kind unit).map m.tileHolds).flatten ++ ((gateStacks kind unit).map m.clusterHolds).flatten).eraseDups

/-- A write of PWR_GATE_CTRL: an action waits for the next hem. -/
def gateWrite (m : Mach) (value : Nat) : Mach :=
  let action := bitsOf value 7 2
  let m := m.setReg .sx Pg.power R.pwrGateCtrl (value - place (bitsOf value 9 2) 9 2)
  m.setPower { m.power with gate := if action = 0 then none else some (bitsOf value 0 2, bitsOf value 2 5, action) }

/-- Packets that a set of tiles holds: queued at their inputs, or bound for them. -/
def tilesHold (ts : List Nat) (h : Held) : Bool :=
  (decide (h.input < 168) && ts.contains (inTile h.input) && decide (h.formed < h.gran))
    || (decide (h.output < 168) && ts.contains h.outT)

/-- The cells that a set of tiles holds or that are bound for them go, and their flows start again. -/
def dropCells (m : Mach) (ts : List Nat) : Mach :=
  let flows := (m.seqIn.map (·.1)).filter fun f => ts.contains (outTile (f / 8 % 256) 0)
  { m with
      mid := m.mid.filter fun e => !ts.contains e.1 && !ts.contains e.2.1
      reseq := m.reseq.filter fun c => !ts.contains (m.cellTile c)
      seqOut := flows.foldl (fun t f => Tbl.set (fun _ => 0) t f (Tbl.get (fun _ => 0) m.seqIn f)) m.seqOut }

/-- Groups that have state in a set of tiles, and Cuff groups of the clusters, fault with POISON. -/
def poisonGroups (m : Mach) (ts clusters : List Nat) : Mach :=
  let gs := (((m.plt.chunks.filter fun c => ts.contains c.tile).map Chunk.gk)
    ++ ((m.plt.releases.filter fun r => ts.contains r.tile).map (·.group))
    ++ (m.plt.groups.map (·.1)).filter fun g =>
        ((m.grp g).resident || (m.grp g).leaving) && ts.any fun t => bitsOf (m.gdesc g).tileMask t 1 == 1).eraseDups
  let m := gs.foldl (fun (m : Mach) g => m.pleatFault g Reason.poison) m
  (m.validCuffs.filter fun g => clusters.contains (g % 6) && !m.cuffIdle g).foldl
    (fun (m : Mach) g => m.cuffFault g Reason.poison) m

/-- A cluster's sync objects return to 0, its waiters go unanswered, and its requests are discarded: the keys concerned. -/
def clearObjects (m : Mach) (cl : Nat) : List Nat × Mach :=
  let keys := (List.range 256).filterMap m.grantKey
  let mine := fun (r : PoolReq) => r.home == cl
  (keys ++ (m.mem.reqs.filter mine).map (fun r => r.pkt.pkey),
   m.setMem { m.mem with
     obj := m.mem.obj.filter fun e => objCluster e.1 != cl
     objPoison := m.mem.objPoison.filter fun o => objCluster o != cl
     objBad := m.mem.objBad.filter fun o => objCluster o != cl
     waiters := m.mem.waiters.filter fun w => objCluster w.obj != cl
     reqs := m.mem.reqs.filter fun r => !mine r })

/-- A block reset of a tile or a cluster, in its hem (R580). -/
def blockReset (m : Mach) (kind unit : Nat) : Mach :=
  let ts := gateTiles kind unit
  let clusters := if kind = 1 then [unit] else []
  let ports := (ts.map fun t => (List.range 8).map (8 * t + ·)).flatten
  let m := ports.foldl
    (fun (m : Mach) p => if (m.lk .sx p).st = .up ∨ (m.lk .sx p).st = .climbing then m.linkDown .sx p else m) m
  let m := m.poisonGroups ts clusters
  let gone := m.held.filter (tilesHold ts)
  let cells := ((m.mid.filter fun e => ts.contains e.1).map fun e => e.2.2.keys).flatten
  let m := (gone.foldl dropHeld m).dropCells ts
  let (keys, m) := clusters.foldl
    (fun (a : List Nat × Mach) c => let (k, m) := a.2.clearObjects c; (a.1 ++ k, m)) ([], m)
  m.pfaultKeys (gone.map Held.key ++ cells ++ keys) Reason.packetLost

/-- A request is answered in PWR_GATE_CTRL.req. -/
def gateAnswer (m : Mach) (v : Nat) : Mach :=
  (m.setPower { m.power with gate := none }).setFld .sx Pg.power F.pwrGateCtrl_req v

/-- GATE_REQUEST_SERVE (R579). -/
def gateServe (m : Mach) : Mach :=
  match m.power.gate with
  | none => m
  | some (kind, unit, action) =>
    if gateUnits kind ≤ unit then m.gateAnswer 3
    else if m.gateHolds kind unit ≠ [] ∧ action ≠ 2 then (m.heldRefused).gateAnswer 2
    else if (action ≠ 3 ∧ !m.gateRetired kind unit) ∨ (action = 3 ∧ 2 ≤ kind) then m.gateAnswer 3
    else
      let m := m.gateAnswer 1
      let was := m.power.gated.contains (kind, unit)
      match action with
      | 1 =>
        if was then m
        else (m.setPower { m.power with gated := m.power.gated ++ [(kind, unit)] }).trace (gatePage kind unit) 2 0 0
      | 2 =>
        if !was then m
        else (m.setPower { m.power with gated := m.power.gated.filter (· != (kind, unit)) }).trace (gatePage kind unit) 3 0 0
      | _ => m.blockReset kind unit

end Mach

/-! ## Meanings -/

/-- VOLTAGE_TRIGGER (R568): the voltage that the lowest monitor has held for its time. -/
def execVoltageTrigger (mv : Nat) (s : State) : Host.Outcome State Fault Refusal :=
  s.go fun m => m.shedAsk 0 (Mach.voltLevel mv)

/-- PWRBRK_N (R570). -/
def execPwrbrkN (asserted : Bool) (s : State) : Host.Outcome State Fault Refusal := s.go fun m => m.pwrbrk asserted

/-- PWRBRK_HOLD (R570). -/
def execPwrbrkHold (s : State) : Host.Outcome State Fault Refusal := s.go Mach.pwrbrkHold

/-- SHED_RISE (R566). -/
def execShedRise (s : State) : Host.Outcome State Fault Refusal := s.go Mach.shedRise

/-- SHED_FALL (R566). -/
def execShedFall (s : State) : Host.Outcome State Fault Refusal := s.go Mach.shedFall

/-- CAL_WINDOW_END (R573). -/
def execCalWindowEnd (s : State) : Host.Outcome State Fault Refusal := s.go Mach.calEnd

/-- THERMAL_SAMPLE (R577). -/
def execThermalSample (temps : List Int) (s : State) : Host.Outcome State Fault Refusal :=
  s.go fun m => m.thermSample temps

/-- HBM_TEMP_REPORT (R577). -/
def execHbmTempReport (temps : List Nat) (s : State) : Host.Outcome State Fault Refusal :=
  s.go fun m => m.hbmSample temps

/-- The value of PWR_GATE_CTRL that requests an action. -/
def gateValue (kind unit action : Nat) : Nat := kind + unit * 4 + action * 128

/-- A gate command: the unit must exist. -/
def State.onGate (s : State) (kind unit action : Nat) : Host.Outcome State Fault Refusal :=
  State.unit (decide (unit < Mach.gateUnits kind)) (s.go fun m => m.gateWrite (gateValue kind unit action))

/-- CLOCK_GATE (R579). -/
def execClockGate (kind unit : Nat) (s : State) : Host.Outcome State Fault Refusal := s.onGate kind unit 1

/-- UNGATE (R579). -/
def execUngate (kind unit : Nat) (s : State) : Host.Outcome State Fault Refusal := s.onGate kind unit 2

/-- BLOCK_RESET (R580). -/
def execBlockReset (kind unit : Nat) (s : State) : Host.Outcome State Fault Refusal := s.onGate kind unit 3

/-- GATE_REQUEST_SERVE (R579). -/
def execGateRequestServe (s : State) : Host.Outcome State Fault Refusal := s.go Mach.gateServe

end Sys2Proof.Machine
end

