-- ==== Sys2Proof/Machine/Boot.lean ====
section
/-! DEFINITION. Resets, boot phases and filtered inputs (chapters "Bring-up and in-service operation" and "Package, signals
and electrical data"): R583 to R586, R624 to R630, R635, and the reset of an EP-4 instance (R459, R460). -/

namespace Sys2Proof.Machine
open Sys2Proof

namespace Mach

/-! ## Resets (R583) -/

/-- Every part of the SX-4 at its reset values; the EP-4, what has been driven and the model's own counter stay. -/
def sxReset (m : Mach) : Mach :=
  { Mach.reset with
      epParams := m.epParams, epRegs := m.epRegs, epTime := m.epTime, epLink := m.epLink, ep := m.ep, guardEp := m.guardEp,
      arrivedPkts := m.arrivedPkts.filter fun x => x.1 == Chip.ep, out := m.out, freeCtr := m.freeCtr }

/-- Words of a page with given selects and offsets. -/
def keepWords (t : Tbl Word) (p : Nat → Bool) : Tbl Word := t.filter fun e => p e.1

/-- What a core reset keeps of the register file: the stitch page's configuration, and the trace unit (R25, R583). -/
def keptRegs (r : RegFile) : RegFile :=
  let trace := fun k => itemPage k == Pg.trace
  let both := fun k => itemPage k == Pg.stitch || trace k
  { word := keepWords r.word trace, shadow := keepWords r.shadow both, live := keepWords r.live both }

/-- The safety inputs among the filtered ones: all but RESET_N (R622, R25). -/
def isSafety (i : Nat) : Bool := i / 64 != 1

/-- A core reset (R583): the always-on domain stays, except the Guard's lock state. -/
def coreReset (m : Mach) : Mach :=
  let lost := m.guardState .sx == 1 || m.guardState .sx == 2 || m.guardSx.lost
  let n := { m.sxReset with
    regs := keptRegs m.regs, time := m.time, sxExch := m.sxExch, chatter := m.chatter.filter isSafety
    changes := m.changes.filter fun e => isSafety e.1, guardSx := { lost := lost }
    power := { brkPin := m.power.brkPin } }
  let n := n.putTime m.time
  let n := n.chatter.foldl showChatter n
  let n := n.setFld .sx Pg.chip F.chpPinStatus_pwrbrk (if m.power.brkPin then 1 else 0)
  n.brkUpdate.updateIrq .sx

/-- The trace's STOP record (R608). -/
def stopRecord (m : Mach) : Mach := m.trace Pg.chip 4 0 0

/-! ## Boot phases (R584 to R586) -/

def bootPhase (m : Mach) : Nat := m.fld .sx Pg.chip F.chpBootStatus_phase

/-- READY (R584). -/
def ready (m : Mach) : Bool := m.bootPhase == 5

/-- The phase ends: the next begins, or the chip is READY, where the loss of a Guard change is reported (R451, R608). -/
def phaseEnd (m : Mach) (ms : Nat) : Mach :=
  if m.boot.off ∨ m.bootPhase ≥ 5 then m
  else
    let total := m.boot.ms + ms
    let m := { m with boot := { m.boot with ms := total } }
    let m := m.setFld .sx Pg.chip F.chpBootStatus_phase (m.bootPhase + 1)
    if !m.ready then m
    else
      let m := m.setFld .sx Pg.chip F.chpBootStatus_bootMs (min total 65535)
      let m := m.trace Pg.chip 5 0 0
      if m.guardSx.lost then ({ m with guardSx := { m.guardSx with lost := false } } : Mach).guardEvent .sx 1 else m

/-- A Pleat engine's retirement bit (R585, R288). -/
def retireEngine (m : Mach) (e : Nat) : Mach :=
  let k := item Pg.pleat 0 (R.pltEngRetire0 + 4 * (e / 32))
  let bit : Word := BitVec.ofNat 32 (2 ^ (e % 32))
  ((m.setLive .sx k (m.liveCopy .sx k ||| bit)).setShadow .sx k (m.shadow .sx k ||| bit)).raise .sx Pg.pleat 2 e

/-- Retire a tile with its shadow bit. -/
def bootTile (m : Mach) (t : Nat) : Mach :=
  let k := item Pg.chip 0 R.chpTileRetire
  (m.setShadow .sx k (m.shadow .sx k ||| BitVec.ofNat 32 (2 ^ t))).retireTile t

/-- A unit that has not completed a phase is retired (R585). -/
def bootRetire (m : Mach) (u : BootUnit) : Mach :=
  let m := m.setFld .sx Pg.chip F.chpBootStatus_degraded 1
  match u with
  | .tile t => m.bootTile t
  | .cluster c => (((List.range 3).map (3 * c + ·)).foldl bootTile m).retireStack c
  | .pleatEngine e => m.retireEngine e
  | .module k => m.moduleFails k
  | .stack s => m.retireStack s

/-- BOOT_PHASE_LIMIT. -/
def phaseLimit (m : Mach) (ms : Nat) (failed : List BootUnit) : Mach :=
  if m.boot.off ∨ m.bootPhase ≥ 5 then m else (failed.foldl bootRetire m).phaseEnd ms

/-- CHP_CHATTER_CLR (R625, R635). -/
def chatterWrite (m : Mach) (value : Nat) : Mach :=
  let sel := bitsOf value 0 2
  let n := bitsOf value 2 6
  let i := match sel with | 0 => inPwrbrk | 1 => inReset | 2 => inLos n | _ => inEls n
  if bitsOf value 8 1 = 0 ∨ (sel = 2 ∧ 36 ≤ n) ∨ (sel = 3 ∧ 18 ≤ n) then m
  else
    let m := m.chatterCleared i
    if sel = 0 then m.brkUpdate else m

/-! ## The EP-4 instance (R459, R460, R490) -/

/-- Every part of the EP-4 at its reset values; its confidential contexts become torn, and each port presents fresh = 1 at
its next negotiation.  The bytes of its memories stay. -/
def instanceReset (m : Mach) : Mach :=
  let torn := (List.range m.ctxCount).filter fun c => m.epConf c || m.ctxConf c == 3
  let m := { m with
    epRegs := {}, epTime := {}, epLink := [], ep := {}, guardEp := {}
    arrivedPkts := m.arrivedPkts.filter fun x => x.1 == Chip.sx }
  torn.foldl (fun (m : Mach) c => m.setFld .ep (Pg.ctx c) F.ep4CtxConf_state 3) m

end Mach

/-! ## Meanings -/

/-- POWER_ON_RESET (R583): everything of the SX-4 returns to reset values. -/
def execPowerOnReset (s : State) : Host.Outcome State Fault Refusal :=
  .next { s with m := s.m.sxReset, store := { s.store with hbm := [] } }

/-- CORE_RESET (R583): by RESET_N, whose CHATTER suppresses it (R625) and whose deassertion starts the boot (R630), or by
VDD_CORE applied. -/
def execCoreReset (byPin : Bool) (s : State) : Host.Outcome State Fault Refusal :=
  let m := if byPin then (s.m.pinChanges Mach.inReset 1).1 else s.m
  if byPin ∧ m.chattering Mach.inReset then .next { s with m := m }
  else
    let trip := if byPin then m.fld .sx Pg.chip F.chpPinStatus_thermtrip else 0
    let seen := Tbl.get (fun _ => []) m.changes Mach.inReset
    let m := (if byPin then m.stopRecord else m).coreReset
    let m := (m.setFld .sx Pg.chip F.chpPinStatus_thermtrip trip).setFld .sx Pg.power F.pwrThermStatus_trip trip
    let m := { m with
      boot := { off := byPin }, changes := Tbl.set (fun _ => []) m.changes Mach.inReset (if byPin then seen else []) }
    .next { s with m := m, store := { s.store with hbm := [] } }

/-- CORE_SUPPLY_LOSS (R608, R583): a STOP record, and the core's state is lost. -/
def execCoreSupplyLoss (s : State) : Host.Outcome State Fault Refusal :=
  .next { s with m := { s.m.stopRecord.coreReset with boot := { off := true } }, store := { s.store with hbm := [] } }

/-- RESET_N_DEASSERTION (R630, R584). -/
def execResetNDeassertion (s : State) : Host.Outcome State Fault Refusal :=
  s.go fun m =>
    let m := (m.pinChanges Mach.inReset 1).1
    { m with boot := { m.boot with off := false } }

/-- BOOT_PHASE_END (R584). -/
def execBootPhaseEnd (ms : Nat) (s : State) : Host.Outcome State Fault Refusal := s.go fun m => m.phaseEnd ms

/-- Units that exist (R17, R19, R22). -/
def bootUnitOk : BootUnit → Bool
  | .tile t => decide (t < 18)
  | .cluster c => decide (c < 6)
  | .pleatEngine e => decide (e < 144)
  | .module k => decide (k < 32)
  | .stack s => decide (s < 6)

/-- BOOT_PHASE_LIMIT (R585). -/
def execBootPhaseLimit (ms : Nat) (failed : List BootUnit) (s : State) : Host.Outcome State Fault Refusal :=
  State.unit (failed.all bootUnitOk) <| s.go fun m => m.phaseLimit ms failed

/-- CHATTER_CLEAR (R625); a 1 in the reserved bits of CHP_CHATTER_CLR puts the chip outside its specification (R537). -/
def execChatterClear (value : Nat) (s : State) : Host.Outcome State Fault Refusal :=
  if value / 2 ^ 9 % 2 ^ 23 ≠ 0 then .fault .outsideSpecification else s.go fun m => m.chatterWrite value

/-- INSTANCE_RESET (R459). -/
def execInstanceReset (s : State) : Host.Outcome State Fault Refusal := s.go Mach.instanceReset

/-- HBM_STACK_FAILURE (R362): the accesses in flight to the stack end, and it waits for its hem; the confidential keys that
it held are torn (R458). -/
def execHbmStackFailure (stack : Nat) (s : State) : Host.Outcome State Fault Refusal :=
  State.unit (decide (stack < 6)) <| s.go fun m =>
    if m.mem.retired.contains stack ∨ m.mem.failing.contains stack then m
    else
      let m := (m.endAccesses stack).tear (m.clusterHolds stack)
      m.setMem { m.mem with failing := m.mem.failing ++ [stack] }

/-- HBM_STACK_RETIRE_HEM (R363): stacks that failed are retired in the next hem. -/
def execHbmStackRetireHem (s : State) : Host.Outcome State Fault Refusal :=
  s.go fun m => m.mem.failing.foldl (fun (m : Mach) k => m.retireStack k) m

end Sys2Proof.Machine
end

