-- ==== Sys2Proof/Machine/Status.lean ====
section
/-! DEFINITION. Status words that read what the machine is now: page headers (R540), digests (R553), summaries of interrupts
(R555), and the occupancies and states that the chapters' status registers report.  Every other word reads as it stands in
the register file. -/

namespace Sys2Proof.Machine
open Sys2Proof

/-- A value in the place of a field. -/
def put (f : Fld) (v : Nat) : Nat := place v f.lo f.w

/-- 1 when a condition holds. -/
def bit01 (b : Bool) : Nat := if b then 1 else 0

/-- The number whose bit `i` is set for each `i` below `n` with `p i`. -/
def maskOf (n : Nat) (p : Nat → Bool) : Nat := sumOf ((List.range n).filter p) (2 ^ ·)

/-! ## Page headers (R540, R557) -/

/-- Words of the table at a window select; 0 where there is none. -/
def tableLen (k : PageKind) (sel : Nat) : Nat :=
  if k = .chip ∧ sel = 3 then 0x10000
  else if k = .ePort ∧ sel = 1 then 129
  else ((tableRows k).filter fun r => r.sel == sel).foldl (fun a r => max a r.len) 0

/-- The commit group of a row: Guard items of an EP-4 make up group 2 (R449). -/
def shownGroup (c : Chip) (g : Nat) : Nat := if c = .ep ∧ g = 33 then 2 else g

/-- COMMIT_GROUP of a page kind. -/
def pageGroups (c : Chip) (k : PageKind) : Nat :=
  let gs := (((directRows k).map (·.group)) ++ (tableRows k).map (·.group)).map (shownGroup c)
  maskOf 32 gs.contains

/-- PAGE_CAP. -/
def pageCap (k : PageKind) : Nat :=
  let live := (directRows k).any fun r => decide (0x800 ≤ r.off)
  let conf := (directRows k).any fun r => decide (r.off < 0x200)
  bit01 live + 2 * bit01 (tableRows k != [] || k == .ePort) + 4 * bit01 conf

namespace Mach

/-- Whether the unit that a page serves is retired. -/
def pageRetired (m : Mach) (c : Chip) (page : Nat) : Bool :=
  match c, pageKind m.epParams c page with
  | .sx, some .port => m.out1.contains ((page - Pg.port 0) / 8)
  | .sx, some .tile => m.out1.contains (page - Pg.tile 0)
  | .sx, some .cluster => m.gateRetired 1 (page - Pg.cluster 0)
  | .sx, some .die => m.gateRetired 3 (page - Pg.die 0)
  | _, _ => false

/-- The pending commit names a group of the page. -/
def commitOn (m : Mach) (c : Chip) (k : PageKind) : Bool :=
  match (m.rf c).commit with
  | some q => q.mask &&& pageGroups c k != 0
  | none => false

/-- SHADOW_DIRTY. -/
def shadowDirty (m : Mach) (c : Chip) (page : Nat) : Nat :=
  let ks := (((m.rf c).shadow ++ (m.rf c).live).map (·.1)).filter fun k => itemPage k == page && m.shadow c k != m.liveCopy c k
  let gs := ks.map fun k => shownGroup c (info m.epParams c k).group
  maskOf 32 gs.contains

/-- The RWS words of a page, in ascending item address. -/
def rwsWords (m : Mach) (c : Chip) (page : Nat) : List Nat :=
  match pageKind m.epParams c page with
  | none => []
  | some k =>
    let ks := ((List.range 448).map fun i => item page 0 (0x100 + 4 * i))
      ++ (List.range 16).flatMap fun s => if s = 0 then [] else (List.range (tableLen k s)).map (item page s)
    ks.filter fun a => (info m.epParams c a).rws != 0

/-- A value in the configuration that the published digests cover. -/
def digestedWord (m : Mach) (c : Chip) (k : Nat) : Word := Tbl.get (rstWord m.epParams c) (m.rf c).digested k

/-- The hash of some words (R553). -/
def digestOf (m : Mach) (c : Chip) (ks : List Nat) : Nat :=
  (ks.foldl (fun h k => fnvFrom h (leBytes 8 k ++ leBytes 4 (m.digestedWord c k).toNat)) fnvBasis).toNat

def pageDigest (m : Mach) (c : Chip) (page : Nat) : Nat := m.digestOf c (m.rwsWords c page)

/-- The chip digest: every management page but the stitch page, or the EP-4's timing page. -/
def chipDigest (m : Mach) (c : Chip) : Nat :=
  let left := if c = .sx then Pg.stitch else Pg.eTim
  m.digestOf c (((List.range 0x400).filter (· != left)).flatMap (m.rwsWords c))

/-- A header word. -/
def headerWord (m : Mach) (c : Chip) (page : Nat) (k : PageKind) (off : Nat) : Nat :=
  match off with
  | 0x00 => page + blockCode k * 2 ^ 12
  | 0x04 => 0x0101
  | 0x08 => pageCap k
  | 0x0C => bit01 (m.pageRetired c page) + 2 * bit01 (m.rf c).digestBy.isSome + 4 * bit01 (m.commitOn c k)
  | 0x10 => pageGroups c k
  | 0x14 => m.shadowDirty c page
  | 0x18 => m.pageDigest c page % 2 ^ 32
  | 0x1C => m.pageDigest c page / 2 ^ 32
  | _ => 0

/-! ## Snapshots (R551) -/

/-- Pages that a snapshot takes. -/
def snapCovers (m : Mach) (c : Chip) (s : PendingSnap) (page : Nat) : Bool :=
  match pageKind m.epParams c page with
  | none => false
  | some k =>
    if s.scope = 1 then bitsOf (pageGroups c k) s.group 1 == 1
    else if s.scope = 2 then decide (page < 0x400)
    else page == s.page

def snapPending (m : Mach) (c : Chip) (page : Nat) : Bool := (m.rf c).snaps.any fun s => m.snapCovers c s page

/-! ## Words of each page -/

/-- A live status word of the chip page. -/
def chipStatus (m : Mach) (off : Nat) (w : Nat) : Nat :=
  if off = R.chpCommitStatus then w + bit01 m.regs.commit.isSome
  else if off = R.chpCfgDigestLo then m.chipDigest .sx % 2 ^ 32
  else if off = R.chpCfgDigestHi then m.chipDigest .sx / 2 ^ 32
  else if off = R.chpIdent then
    0x5804 + Config.chipRevision.toNat * 2 ^ 16
      + put F.chpIdent_node (if m.bit .sx Pg.chip F.chpNode_valid then m.fld .sx Pg.chip F.chpNode_plane else 0xFF)
  else if off = R.chpZlyStatus then
    w % 64 / 4 * 4 + bit01 (m.bit .sx Pg.chip F.chpZlyCtrl_en) + put F.chpZlyStatus_liveBank (m.fld .sx Pg.chip F.chpZlyCtrl_bank)
      + put F.chpZlyStatus_slot (match m.zlySlot (m.time.number % m.zlyP) with | some s => s.1 | none => 0x7F)
  else if R.chpIntSum 0 ≤ off ∧ off ≤ R.chpIntSum 8 then
    maskOf 32 fun b => m.pageRequests .sx (8 * (off - R.chpIntSum 0) + b)
  else if R.chpCtxIntSum 0 ≤ off ∧ off ≤ R.chpCtxIntSum 31 then
    maskOf 32 fun b => m.pageRequests .sx (Pg.ctx (8 * (off - R.chpCtxIntSum 0) + b))
  else if R.chpSeqStatus 0 ≤ off ∧ off ≤ R.chpSeqStatus 7 then
    let s := (off - R.chpSeqStatus 0) / 4
    m.imageSlot s + 2 * bit01 (m.imageGood s 0) + 4 * bit01 (m.imageGood s 1)
      + m.imageWord s (m.imageSlot s) 1 % 2 ^ 16 * 2 ^ 16
  else w

/-- GRD_STATE.items and GRD_REMAIN (R461). -/
def guardItems (m : Mach) (c : Chip) : Nat := min (m.guardChange c).length 0xFFFF
def guardRemain (m : Mach) (c : Chip) : Nat :=
  if m.guardState c = 1 then (m.guardRun c).sealAt + 60000000 - m.now c else 0

def guardStatus (m : Mach) (off w : Nat) : Nat :=
  if off = R.grdState then w % 16 + put F.grdState_items (m.guardItems .sx)
  else if off = R.grdRemain then m.guardRemain .sx
  else if off = R.grdHoldTile then maskOf 18 fun t => m.tileHolds t != []
  else if off = R.grdHoldClu then maskOf 6 fun x => m.clusterHolds x != []
  else w

def stitchStatus (m : Mach) (off w : Nat) : Nat :=
  if off = R.sthNowLo then m.time.number % 2 ^ 32
  else if off = R.sthNowHi then m.time.number / 2 ^ 32
  else if off = R.sthCycle then m.time.cycle
  else w

/-- The code of a link's state (R504). -/
def lstateCode : LState → Nat
  | .down => 0
  | .s0 => 1
  | .climbing => 2
  | .up => 3
  | .refused => 4
  | .disabled => 5

/-- Words that the port pages of both chips have (R464, R504). -/
def linkWord (m : Mach) (c : Chip) (p : Nat) (off w : Nat) : Nat :=
  let l := m.lk c p
  if off = R.prtSpeedCap then 4 + put F.prtSpeedCap_lanes (15 &&& (15 ^^^ l.failedLanes))
  else if off = R.prtPartner then
    (match l.partner with
      | some q => q.node + put F.prtPartner_role (bit01 q.switch) + put F.prtPartner_maxStep q.maxStep
      | none => 0x3FF) + put F.prtPartner_epoch l.partEpoch
  else if off = R.prtTxCredit0 then l.credit.getD 0 0 + l.credit.getD 1 0 * 2 ^ 16
  else if off = R.prtTxCredit1 then l.credit.getD 2 0 + l.credit.getD 3 0 * 2 ^ 16
  else if off = R.prtTxCredit2 then l.credit.getD 4 0 + l.credit.getD 5 0 * 2 ^ 16
  else w

def portStatus (m : Mach) (p : Nat) (off w : Nat) : Nat :=
  let l := m.lk .sx p
  if off = R.prtLinkStatus then
    lstateCode l.st + put F.prtLinkStatus_step l.step + put F.prtLinkStatus_laneMask l.mask + put F.prtLinkStatus_fec l.fec
      + put F.prtLinkStatus_txSleep l.txSleep + put F.prtLinkStatus_rxSleep (bit01 l.rxSleep)
      + put F.prtLinkStatus_fresh (bit01 l.fresh) + put F.prtLinkStatus_refuseReason l.refuse
  else if off = R.prtCreditStatus then
    let h := m.holdOf p
    w % 2 + put F.prtCreditStatus_holdState h.st
      + put F.prtCreditStatus_remaining (if h.st = 1 then h.expiry - m.time.number else 0)
  else m.linkWord .sx p off w

/-- Cells of a tile as intermediate, bound for an output tile: in the middle queue, or the express queue. -/
def midCells (m : Mach) (y : Nat) (express : Bool) (o : Nat) : Nat :=
  (m.mid.filter fun e => e.1 == y && e.2.1 == o && e.2.2.express == express).length

/-- The fullest queue: its cells and output tile, the lowest of several. -/
def fullest (m : Mach) (y : Nat) (express : Bool) : Nat × Nat :=
  (List.range 18).foldl (fun (b : Nat × Nat) o => if b.1 < m.midCells y express o then (m.midCells y express o, o) else b) (0, 0)

def tileStatus (m : Mach) (t : Nat) (off w : Nat) : Nat :=
  if off = R.tilMidStatus then
    (m.fullest t false).1 + put F.tilMidStatus_outTile (m.fullest t false).2
      + put F.tilMidStatus_expressMax (m.fullest t true).1
  else if off = R.tilReseqStatus then
    (w / 2 ^ 13 * 2 ^ 13) + (m.reseq.filter fun x => m.cellTile x == t && decide (x.present ≤ m.slot)).length
  else w

def clusterStatus (m : Mach) (x : Nat) (off w : Nat) : Nat :=
  if off = R.cluSyncWaiters then m.waitersIn x
  else if off = R.cluAtomInflight then (m.entriesOf x).length
  else if off = R.cluPoolStatus then m.freeShared x
  else if off = R.cluLiningStatus then ceilDiv (m.liningUsed x) 65536 + put F.cluLiningStatus_wbuf (ceilDiv (m.liningWbuf x) 64)
  else if off = R.cluHbmStatus then
    (if m.mem.retired.contains x then 2 else if m.mem.selfRefresh then 1 else 0)
      + w / 4 % 2 * 4 + put F.cluHbmStatus_poolUnits (m.poolUnits x)
      + put F.cluHbmStatus_scrubPos (Tbl.get (fun _ => 0) m.mem.scrubAt x / 2 ^ 21)
  else w

/-- An account word of a cluster (R217). -/
def accountWord (m : Mach) (x a : Nat) : Nat :=
  let acct := (x, a)
  m.heldIn acct .guaranteed + m.heldIn acct .shared + 2 ^ 21 * bit01 (m.liningOf acct != 0)
    + 2 ^ 22 * min (m.held.filter fun h => h.part == .waiting && h.acct == acct).length 255

def pleatStatus (m : Mach) (off w : Nat) : Nat :=
  if off = R.pltStatus then
    (m.plt.groups.filter fun e => e.2.resident).length
      + put F.pltStatus_waiting (m.plt.active.filter fun g => !(m.grp g).resident).length
  else if R.pltCluFree 0 ≤ off ∧ off ≤ R.pltCluFree 5 then
    let x := (off - R.pltCluFree 0) / 4
    m.freePages x + put (F.pltCluFree_slots 0) (m.freeSlots x)
  else w

/-- A status word of a Pleat or bucket group (R289, R341). -/
def groupWord (m : Mach) (gk n : Nat) : Nat :=
  let g := m.grp gk
  let st := if g.reason ≠ 0 then 3 else if !m.isActive gk then 0 else if g.resident then 1 else 2
  match n with
  | 0 => st + put F.pstat_passLow g.passLow + put F.pstat_open (m.openCount gk) + put F.pstat_reason g.reason
  | 1 => min g.passes 0xFFFFFFFF
  | 2 =>
    let missing :=
      match m.plt.chunks.find? fun x => Chunk.gk x == gk with
      | some x => ((m.contribs (m.gdesc gk)).find? fun i => !x.ended.contains i).getD 0xFF
      | none => 0xFF
    missing + put F.pstat_overflow (min g.overflow 0xFFF) + put F.pstat_padded (min g.padded 0xFFF)
  | _ => 0

def cuffStatus (m : Mach) (off w : Nat) : Nat :=
  if off = R.cufStatus then
    (m.cuff.filter fun e => e.2.round.isSome).length + put F.cufStatus_faulted (m.cuff.filter fun e => e.2.reason != 0).length
  else if R.cufStoreFree 0 ≤ off ∧ off ≤ R.cufStoreFree 5 then m.cuffFree ((off - R.cufStoreFree 0) / 4) / 64
  else w

/-- A status word of a Cuff group (R343); words 1 and 2 stand in the register file but for the slowest member. -/
def cuffWord (m : Mach) (g n w : Nat) : Nat :=
  let x := m.cgrp g
  match n with
  | 0 =>
    (if x.reason ≠ 0 then 3 else if x.round.isSome then 1 else if m.cuffHeld g ≠ [] then 2 else 0)
      + put F.cstat_arrived (match x.round with | some r => r.accepted.length | none => 0) + put F.cstat_reason x.reason
  | 2 => w - place (bitsOf w 8 8) 8 8 + put F.cstat_slowest (m.cuffSlowest g)
  | _ => w

def gussetStatus (m : Mach) (off w : Nat) : Nat :=
  if off = R.gstStatus then
    let inSt := fun (st : Nat) => maskOf 8 fun i => m.pairState i == st
    inSt 1 + put F.gstStatus_admitted (inSt 2) + put F.gstStatus_failed (inSt 3)
  else w

/-- A status word of an SX-4 context page (R561); the sync window is read by bank operations of its own. -/
def ctxStatus (m : Mach) (x off w : Nat) : Nat :=
  if off = R.ctxBind then m.tword .sx Pg.guard 3 x % 2 ^ 18 else w

/-! ### The EP-4 -/

def epIdStatus (m : Mach) (off w : Nat) : Nat :=
  let q := m.epParams
  if off = R.ep4Cap0 then
    q.ports + put F.ep4Cap0_engines q.engines + put F.ep4Cap0_out256 q.out256 + put F.ep4Cap0_ctx16 q.ctx16
      + put F.ep4Cap0_host q.host + put F.ep4Cap0_hostWidth q.hostWidth
  else if off = R.ep4Cap1 then
    q.scratchMib + put F.ep4Cap1_rbK q.rbK + put F.ep4Cap1_rc64 q.rc64 + put F.ep4Cap1_windows q.windows
      + put F.ep4Cap1_mpWidth q.mpWidth + put F.ep4Cap1_atom256 q.atom256
  else if off = R.ep4CommitStatus then w + bit01 m.epRegs.commit.isSome
  else if off = R.ep4CfgDigestLo then m.chipDigest .ep % 2 ^ 32
  else if off = R.ep4CfgDigestHi then m.chipDigest .ep / 2 ^ 32
  else if R.ep4IntSum 0 ≤ off ∧ off ≤ R.ep4IntSum 1 then
    maskOf 32 fun b => m.pageRequests .ep (8 * (off - R.ep4IntSum 0) + b)
  else if R.ep4CtxIntSum 0 ≤ off ∧ off ≤ R.ep4CtxIntSum 31 then
    maskOf 32 fun b => m.pageRequests .ep (Pg.ctx (8 * (off - R.ep4CtxIntSum 0) + b))
  else if off = R.ep4GrdState then w % 16 + put F.ep4GrdState_items (m.guardItems .ep)
  else if off = R.ep4GrdRemain then m.guardRemain .ep
  else w

/-- EP4_PRT_STATUS (R378). -/
def epPortStatus (m : Mach) (p : Nat) (off w : Nat) : Nat :=
  let l := m.lk .ep p
  if off = R.ep4PrtStatus then
    (match l.st with | .down => 0 | .disabled => 0 | .s0 => 1 | .climbing => 1 | .up => 2 | .refused => 3)
      + put F.ep4PrtStatus_plane (match l.partner with | some q => q.node - 960 | none => 0)
      + put F.ep4PrtStatus_dupPlane (bit01 l.dup) + put F.ep4PrtStatus_step l.step + put F.ep4PrtStatus_width (widthOf l.mask)
  else if R.prtCreditAlloc0 ≤ off ∧ off ≤ R.prtCreditAlloc2 then
    let i := 2 * ((off - R.prtCreditAlloc0) / 4)
    m.epParams.alloc.getD i 0 + m.epParams.alloc.getD (i + 1) 0 * 2 ^ 16
  else m.linkWord .ep p off w

/-- Why the next posted descriptor cannot be taken: 0 none, 1 fence, 2 slots, 3 tags, 4 cq, 5 ring (R418). -/
def engHeld (m : Mach) (e c : Nat) : Nat :=
  if m.ep.ringFault.contains e then 5
  else if m.descProd c e = m.descCons c e then 0
  else if !m.ringInside c e then 5
  else if m.fenceHeld e then 1
  else if (m.freeSlot e).isNone then 2
  else if m.tagMax ≤ m.tagUse e then 3
  else if m.cqHeld e c then 4
  else 0

/-- EP4_ENG_STATUS (R418, R430). -/
def engStatus (m : Mach) (e : Nat) : Nat :=
  let slots := (m.ep.slots.filter fun s => s.engine == e).length
  let sh := put F.ep4EngStatus_slots slots + put F.ep4EngStatus_tags (m.tagUse e)
  match m.engCtx e with
  | none => sh
  | some c =>
    if m.ctxFault c = 1 then 4 + sh
    else if m.ctxFault c = 2 then 5 + sh
    else if m.engHeld e c ≠ 0 then 3 + put F.ep4EngStatus_held (m.engHeld e c) + sh
    else (if slots = 0 ∧ m.descProd c e = m.descCons c e then 1 else 2) + sh

/-- EP4_HOST_STATUS: no command tells the state of the host link, so it is open in every stitch (log 46). -/
def hostStatus (m : Mach) : Nat := if m.epParams.host = 0 then 0 else (Config.hostLink m.epTime.number).toNat

/-! ### All pages -/

/-- A direct word as it reads, given what the register file holds. -/
def directStatus (m : Mach) (c : Chip) (page : Nat) (k : PageKind) (off w : Nat) : Nat :=
  if off < 0x20 then m.headerWord c page k off
  else if off = R.snapStatus then w + bit01 (m.snapPending c page)
  else
    match k with
    | .chip => m.chipStatus off w
    | .guard => m.guardStatus off w
    | .stitch => m.stitchStatus off w
    | .port => m.portStatus (page - Pg.port 0) off w
    | .tile => m.tileStatus (page - Pg.tile 0) off w
    | .cluster => m.clusterStatus (page - Pg.cluster 0) off w
    | .pleat => m.pleatStatus off w
    | .cuff => m.cuffStatus off w
    | .gusset => m.gussetStatus off w
    | .ctx => m.ctxStatus (page - Pg.ctx 0) off w
    | .eId => m.epIdStatus off w
    | .eScr => if off = R.ep4RbStatus then 1024 * m.epParams.rbK - m.ep.rb.length else w
    | .eHost => if off = R.ep4HostStatus then m.hostStatus else w
    | .ePort => m.epPortStatus (page - Pg.port 0) off w
    | .eEng => if off = R.ep4EngStatus then m.engStatus (page - Pg.eng 0) else w
    | _ => w

/-- A table word as it reads, given what the register file holds. -/
def tableStatus (m : Mach) (page : Nat) (k : PageKind) (sel a w : Nat) : Nat :=
  match k, sel with
  | .pleat, 2 => m.groupWord (a / 4) (a % 4)
  | .pleat, 6 => m.groupWord (8192 + a / 4) (a % 4)
  | .cuff, 2 => m.cuffWord (a / 4) (a % 4) w
  | .cluster, 2 => m.accountWord (page - Pg.cluster 0) a
  | _, _ => w

/-- A word of which no copy is asked for: shadow of RWS bits, the one copy of the others, write-only bits as 0 (R541). -/
def storedRead (m : Mach) (c : Chip) (k : Nat) : Word :=
  let i := info m.epParams c k
  (m.voted c k 3 (m.shadow c k) &&& i.rws) ||| (m.voted c k 0 (m.word c k) &&& ~~~i.rws &&& ~~~i.wo)

/-- Whether a retired unit's page has its status words kept as they were at retirement (R540). -/
def pageFrozen (m : Mach) (c : Chip) (page : Nat) : Bool := Tbl.get (fun _ => 0) (m.rf c).frozen (item page 0 0) != 0

/-- A word as a read returns it, of a page that is not kept. -/
def currentStatus (m : Mach) (c : Chip) (k : Nat) : Word :=
  let w := (m.storedRead c k).toNat
  match pageKind m.epParams c (itemPage k) with
  | none => 0
  | some pk =>
    BitVec.ofNat 32
      (if itemSel k = 0 then m.directStatus c (itemPage k) pk (itemOff k) w
       else m.tableStatus (itemPage k) pk (itemSel k) (itemOff k) w)

/-- Offsets of the words of the live status area that a page has. -/
def liveOffsets (k : PageKind) : List Nat :=
  ((List.range 256).map (0x800 + 4 * ·)).filter fun o => (directInfo k o).isSome

/-- Keep the status words of a page as they are now (R540). -/
def freezePage (m : Mach) (c : Chip) (page : Nat) : Mach :=
  match pageKind m.epParams c page with
  | none => m
  | some k =>
    let put := fun (t : Tbl Word) (e : Nat × Word) => Tbl.set (fun _ => 0) t e.1 e.2
    let words := (liveOffsets k).map fun o => (item page 0 o, m.currentStatus c (item page 0 o))
    m.setRf c { m.rf c with frozen := ((item page 0 0, (1 : Word)) :: words).foldl put (m.rf c).frozen }

/-- Keep the pages of units that have been retired (DEDUCED, log 48: at the next boundary or commit hem). -/
def freezeRetired (m : Mach) : Mach :=
  ((List.range 0x100).filter fun p => m.pageRetired .sx p && !m.pageFrozen .sx p).foldl (fun (m : Mach) p => m.freezePage .sx p) m

/-- A word as a read returns it. -/
def readStatus (m : Mach) (c : Chip) (k : Nat) : Word :=
  if itemSel k = 0 ∧ 0x800 ≤ itemOff k ∧ m.pageFrozen c (itemPage k) then Tbl.get (fun _ => 0) (m.rf c).frozen k
  else m.currentStatus c k

end Mach

end Sys2Proof.Machine
end

