-- ==== Sys2Proof/Machine/Regs.lean ====
section
/-! DEFINITION. Register accesses (chapter "Register model"): which locations a path reaches and what it meets elsewhere (R28,
R536, R538), reads with their latches (R549, R550), writes by access code with what each register does (R541), bit aliases
(R547), indirect windows (R552, R157), commits as they are requested (R543, R545) and snapshots (R551). -/

namespace Sys2Proof.Machine
open Sys2Proof

/-- Fields of IND_CTRL: the window select, and its single bits. -/
def Window.sel (w : Window) : Nat := w.ctrl % 16
def Window.bit (w : Window) (b : Nat) : Bool := bitsOf w.ctrl b 1 == 1

/-- How one access to one word ends. -/
inductive Access where
  /-- served; the word read, 0 for a write -/
  | ok (w : Word)
  /-- a bus error (R536) -/
  | busError
  /-- refused with a status (R561) -/
  | denied (status : Nat)
  /-- a 1 written to a reserved write-only bit (R537) -/
  | outside
  deriving DecidableEq, Repr

/-- The three management paths of each chip and VC0, as R536 numbers them in BUS_ERR.  On an EP-4 the path `i3c` stands for a
relayed request of principal B, which arrives on VC4 (R456). -/
def pathCode (c : Chip) : Path → Nat
  | .pcie | .bar0 => 0
  | .vc4 => 1
  | .i3c => if c = .sx then 2 else 1
  | .accel => 2
  | .vc0 => 3

/-- Reserved fields among the writable bits of configuration words 0x0100 to 0x01FF, as the field tables of the chapters give
them: offset, stride, count, mask.  A bit alias of such a bit ignores writes (R547). -/
def reservedRows : PageKind → List (Nat × Nat × Nat × Nat)
  | .stitch => [(0x100, 0, 1, 0xFFFFFFF8), (0x104, 0, 1, 0xFFFF0000), (0x108, 0, 1, 0xFFFF0000)]
  | .chip => [(0x140, 0, 1, 0xFFFC0000), (0x160, 0, 1, 0xFFFFFFFC), (0x144, 0, 1, 0xFFFFFFC0),
      (0x104, 0, 1, 0xFFFF00F0), (0x120, 0, 1, 0xFFFFFFFC), (0x110, 0, 1, 0xFFFFFFE0), (0x190, 0, 1, 0xFFFFFE00)]
  | .tile => [(0x100, 0, 1, 0xFFFFC00E)]
  | .port => [(0x180, 0, 1, 0xFFFF0000), (0x100, 0, 1, 0xFFFFFF80), (0x108, 0, 1, 0xFF000000),
      (0x10C, 0, 1, 0xF0000000)]
  | .eId => [(0x10C, 0, 1, 0xFFFFFFFC), (0x100, 0, 1, 0xFFFFFC00), (0x104, 0, 1, 0xFFFF0000),
      (0x108, 0, 1, 0xFFF00000)]
  | .mdr => [(0x100, 0, 1, 0xFFF), (0x110, 0, 1, 0xFFF), (0x108, 0, 1, 0xFFFFFE0E), (0x118, 0, 1, 0xFFFFFE0E),
      (0x120, 8, 4, 0xFFFF0000), (0x140, 4, 4, 0xFF000000)]
  | .pleat => [(0x100, 0, 1, 0xFFFF0000), (0x120, 0, 1, 0xFFFF0000)]
  | .eTim => [(0x100, 0, 1, 0xFFE0)]
  | .eRc => [(0x100, 0, 1, 0xFFFFC000), (0x104, 0, 1, 0xF800F800)]
  | .eEng => [(0x100, 0, 1, 0xFFFFF800)]
  | .guard => [(0x100, 0, 1, 0xFFFFFFF0), (0x140, 0, 1, 0xFFFFF000), (0x180, 0, 1, 0xFFFFFFFE),
      (0x184, 0, 1, 0xFFFFF800)]
  | .serdes => [(0x100, 0, 1, 0xFFFFFE00), (0x104, 0, 1, 0xFFFFFF00)]
  | .ocu => [(0x100, 4, 4, 0xFFFFFFF8), (0x110, 0, 1, 0x80000000), (0x114, 0, 1, 0xFFFF0000),
      (0x118, 0, 1, 0xFFFFFF00)]
  | .power => [(0x100, 0, 1, 0xFFFFFFF8), (0x104, 0, 1, 0xFFF00000), (0x108, 0, 1, 0xFFF00000),
      (0x10C, 0, 1, 0xFF000000), (0x140, 0, 1, 0xFFFFF800)]
  | .trace => [(0x100, 0, 1, 0xFFFC)]
  | .eMp => [(0x100, 0, 1, 0xFFFFF800)]
  | .ePort => [(0x100, 0, 1, 0xFFFFFF80), (0x108, 0, 1, 0xFF000000), (0x10C, 0, 1, 0xF0000000)]
  | _ => []

def reservedOf (k : PageKind) (off : Nat) : Word :=
  match (reservedRows k).find? fun r => if r.2.2.1 ≤ 1 then r.1 == off
      else decide (r.1 ≤ off) && (off - r.1) % r.2.1 == 0 && decide ((off - r.1) / r.2.1 < r.2.2.1) with
  | some r => BitVec.ofNat 32 r.2.2.2
  | none => 0

/-- INT_STATUS bits that a page kind has (R638, R639). -/
def eventBits : PageKind → Nat
  | .chip => 0x7F
  | .guard => 0xF
  | .power => 0x3F
  | .stitch => 0xF
  | .mdr => 7
  | .port => 0x3FF
  | .cluster => 0x3F
  | .die | .serdes | .cuff | .gusset | .eEng | .eCtx => 3
  | .ocu => 0x1FF
  | .pleat => 7
  | .trace | .tile | .ctx | .eMp | .eScr | .eHost => 1
  | .eId => 0x701
  | .eTim => 0x1F
  | .ePort => 0x67F
  | .eRc => 0

/-- Low offsets of the 64-bit pairs of RO words (R550). -/
def roPairs : PageKind → List Nat
  | .chip => [0x18, 0x48, 0x68, R.chpCfgDigestLo]
  | .guard => [0x18, 0x48, 0x68, R.grdDigestLo, R.grdErrAddrLo]
  | .stitch => [0x18, 0x48, 0x68, R.sthNowLo]
  | .eId => [0x18, 0x48, 0x68, R.ep4CfgDigestLo, R.ep4GrdDigestLo, R.ep4GrdErrAddrLo]
  | .eCtx => [0x18, 0x48, 0x68, R.ep4CtxSeqTxLo, R.ep4CtxSeqRxLo]
  | _ => [0x18, 0x48, 0x68]

/-- The offset of the live word that a direct or a holding offset shows (R535). -/
def liveOff (off : Nat) : Nat := if 0xC00 ≤ off then off - 0x400 else off

/-- Whether a location below the indirect window is implemented (R535). -/
def directAt (k : PageKind) (off : Nat) : Bool := decide (off < 0x1000) && (directInfo k (liveOff off)).isSome

def isCtxKind (k : PageKind) : Bool := k == .ctx || k == .eCtx

/-- Bits that a write may carry as 1 to a register of a context page (R538). -/
def ctxMask (k : PageKind) (off : Nat) : Word :=
  if off = R.snapCtrl then 0xFF
  else if off = 0x1008 then 0x6007F
  else if off = 0x1000 ∨ off = 0x1004 then 0xFFFFFFFF
  else
    match directInfo k off with
    | some i => i.rws ||| i.rw ||| i.w1c ||| i.wo
    | none => 0

/-- The word and bit of an alias (R547). -/
def aliasWord (off : Nat) : Nat := 0x100 + (off - 0x2000) / 128 * 4
def aliasBit (off : Nat) : Nat := (off - 0x2000) / 4 % 32

namespace Mach

/-! ## Reach (R28, R370, R584) and bus errors (R536, R556) -/

/-- The page at an index, as a path reaches it. -/
def reaches (m : Mach) (c : Chip) (path : Path) (page : Nat) : Option PageKind :=
  match pageKind m.epParams c page with
  | none => none
  | some k =>
    match c with
    | .sx =>
      if !(m.ready && !m.boot.off) && !(([Pg.chip, Pg.power, Pg.stitch, Pg.trace] : List Nat).contains page) then none
      else if k = .ctx then (if path = .vc4 ∨ path = .vc0 then some k else none)
      else if path = .pcie ∨ path = .vc4 ∨ path = .i3c then some k else none
    | .ep =>
      if path = .pcie then none
      else if path = .vc0 then (if k = .eCtx then some k else none) else some k

def busError (m : Mach) (c : Chip) (path : Path) (write : Bool) (page off : Nat) : Mach :=
  let pg := byChip c Pg.chip Pg.eId
  (m.bump c pg (byChip c R.chpBusErrCnt R.ep4BusErrCnt)).setReg c pg (byChip c R.chpBusErr R.ep4BusErr)
    (pathCode c path + place (bit01 write) 2 1 + place page 3 11 + place off 14 14)

/-! ## Triple-stored words (R548) -/

/-- A read rewrites the copies of its word that disagree. -/
def scrubWord (m : Mach) (c : Chip) (k : Nat) : Mach :=
  let mine := (m.rf c).upsets.filter fun u => u.1 == k
  if mine = [] then m
  else
    let rest := (m.rf c).upsets.filter fun u => u.1 != k
    let m := (m.setRf c { m.rf c with upsets := mine }).scrubTmr c
    m.setRf c { m.rf c with upsets := rest }

/-! ## Sync objects by bank operations of management and context pages (R151, R157, R561) -/

/-- One bank operation that reads an object; none where it is poisoned. -/
def bankRead (m : Mach) (i : Nat) : Option DWord × Mach :=
  let (v, m) := m.objRead i
  (v, m.bump .sx (Pg.cluster (objCluster i)) R.cluSyncOpsCnt)

/-- One bank operation that writes both halves of an object: it clears a poison mark and may satisfy waiters. -/
def bankWrite (m : Mach) (i : Nat) (v : DWord) : Mach :=
  let m := m.setMem { m.mem with
    objPoison := m.mem.objPoison.filter (· != i), objBad := m.mem.objBad.filter (· != i) }
  ((m.setObj i v).answerWaiters i v).bump .sx (Pg.cluster (objCluster i)) R.cluSyncOpsCnt

/-- The object at a word of CTX_SYNC_WIN. -/
def ctxObject (m : Mach) (x off : Nat) : Nat :=
  let sel := m.reg .sx (Pg.ctx x) R.ctxSyncSel
  256 * (sel % 256) + 64 * (sel / 256 % 4) + (off - 0x900) / 8

/-- The selected block is granted to the context's key. -/
def ctxGranted (m : Mach) (x : Nat) : Bool :=
  let b := m.tword .sx Pg.guard 3 x
  let sel := m.reg .sx (Pg.ctx x) R.ctxSyncSel
  bitsOf b 16 1 == 1 && m.grantKey (sel % 256) == some (bitsOf b 0 16)

/-- A read of CTX_SYNC_WIN: the whole object, or the status of its refusal. -/
def ctxWindow (m : Mach) (x off : Nat) : Except Nat DWord × Mach :=
  if !m.ctxGranted x then (.error Status.accessDenied, m)
  else
    match m.bankRead (m.ctxObject x off) with
    | (some v, m) => (.ok v, m)
    | (none, m) => (.error Status.poisoned, m)

def isSyncWin (k : PageKind) (off : Nat) : Bool := k == .ctx && decide (0x900 ≤ off ∧ off < 0xB00)

/-- A half of an object as CTX_SYNC_WIN shows it at `off`. -/
def halfAt (off : Nat) (v : DWord) : Word := BitVec.ofNat 32 (if off % 8 = 0 then v.toNat % 2 ^ 32 else v.toNat / 2 ^ 32)

/-! ## Snapshots (R551) -/

def snapWord (m : Mach) (c : Chip) (k : Nat) : Word := Tbl.get (fun _ => 0) (m.rf c).snap k

/-- Whether a snapshot or a commit asked for at a hem is due now: one asked for by number at that stitch, any other at the
first hem that follows (R51). -/
def dueNow (m : Mach) (c : Chip) (named : Bool) (at_ : Nat) : Bool :=
  if named then at_ == m.now c else at_ != m.now c + 1

/-- SNAP_CTRL. -/
def snapWrite (m : Mach) (c : Chip) (page value : Nat) : Mach :=
  let m := m.setReg c page R.snapCtrl (value / 2 * 2)
  if value % 2 = 0 then m
  else
    let at_ := match (m.rf c).snaps.find? fun s => m.snapCovers c s page with
      | some s => s.at_
      | none => m.dueStitch c (m.cyc c)
    let s : PendingSnap := { page := page, scope := bitsOf value 1 2, group := bitsOf value 3 5, at_ := at_ }
    m.setRf c { m.rf c with snaps := (m.rf c).snaps ++ [s] }

/-- The words of a page that a snapshot copies: holding key and value. -/
def snapWords (m : Mach) (c : Chip) (page : Nat) (k : PageKind) : List (Nat × Word) :=
  let direct := (liveOffsets k).map fun o =>
    (item page 0 (o + 0x400),
      if isSyncWin k o then
        (if m.ctxGranted (page - Pg.ctx 0) ∧ !m.mem.objPoison.contains (m.ctxObject (page - Pg.ctx 0) o) then
          halfAt o (m.obj (m.ctxObject (page - Pg.ctx 0) o)) else 0)
      else m.readStatus c (item page 0 o))
  let tables := (List.range 16).flatMap fun s =>
    if s = 0 then []
    else
      ((List.range (tableLen k s)).filter fun a =>
        match tableInfo m.epParams k s a with | some i => i.rws == 0 | none => false).map fun a =>
          (item page s a, m.readStatus c (item page s a))
  direct ++ tables

/-- A page is snapped: its copies, its generation and its stitch. -/
def snapPage (m : Mach) (c : Chip) (page : Nat) : Mach :=
  match pageKind m.epParams c page with
  | none => m
  | some k =>
    let put := fun (t : Tbl Word) (e : Nat × Word) => Tbl.set (fun _ => 0) t e.1 e.2
    let m := m.setRf c { m.rf c with snap := (m.snapWords c page k).foldl put (m.rf c).snap }
    let gen := m.reg c page R.snapStatus / 2 ^ 16
    let m := m.setReg c page R.snapStatus ((gen + 1) % 2 ^ 16 * 2 ^ 16)
    (m.setReg c page R.snapStitchLo (m.now c % 2 ^ 32)).setReg c page R.snapStitchHi (m.now c / 2 ^ 32)

/-- The snapshots that are due in this hem. -/
def snapTake (m : Mach) (c : Chip) : Mach :=
  let due := (m.rf c).snaps.filter fun s => m.dueNow c false s.at_
  let pages := (List.range 0x800).filter fun p => due.any fun s => m.snapCovers c s p
  let m := m.setRf c { m.rf c with snaps := (m.rf c).snaps.filter fun s => !m.dueNow c false s.at_ }
  pages.foldl (fun (m : Mach) p => m.snapPage c p) m

/-! ## Commit requests (R51, R52, R543, R545, R67) -/

/-- Go. -/
def commitGo (m : Mach) (c : Chip) : Mach :=
  let pg := byChip c Pg.chip Pg.eId
  if (m.rf c).commit.isSome then m.bump c pg (byChip c R.chpCommitRefusedCnt R.ep4CommitRefusedCnt)
  else
    let ctrl := m.reg c pg (byChip c R.chpCommitCtrl R.ep4CommitCtrl)
    let named := bitsOf ctrl 1 1 == 1
    let at_ := m.reg c pg (byChip c R.chpCommitAtLo R.ep4CommitAtLo)
      + m.reg c pg (byChip c R.chpCommitAtHi R.ep4CommitAtHi) * 2 ^ 32
    if named ∧ m.isLate c (m.cyc c) at_ then
      (m.bump c pg (byChip c R.chpCommitLateCnt R.ep4CommitLateCnt)).setFld c pg
        (if c = .sx then F.chpCommitStatus_late else F.ep4CommitStatus_late) 1
    else
      let q : PendingCommit :=
        { mask := m.reg c pg (byChip c R.chpCommitMask R.ep4CommitMask)
          at_ := if named then at_ else m.dueStitch c (m.cyc c), named := named
          epoch := if bitsOf ctrl 3 1 = 1 then some (bitsOf ctrl 8 8) else none }
      m.setRf c { m.rf c with commit := some q }

/-- Cancel. -/
def commitCancel (m : Mach) (c : Chip) : Mach :=
  match (m.rf c).commit with
  | some q => if m.dueNow c q.named q.at_ ∧ 776 < m.cyc c then m else m.setRf c { m.rf c with commit := none }
  | none => m

/-- COMMIT_CTRL: cancel, then go; before READY go is ignored (R584). -/
def commitCtrl (m : Mach) (c : Chip) (value : Nat) : Mach :=
  let m := m.setReg c (byChip c Pg.chip Pg.eId) (byChip c R.chpCommitCtrl R.ep4CommitCtrl)
    (value - place (bitsOf value 0 1) 0 1 - place (bitsOf value 2 1) 2 1)
  let m := if bitsOf value 2 1 = 1 then m.commitCancel c else m
  if bitsOf value 0 1 = 1 ∧ (c = .ep ∨ m.ready) then m.commitGo c else m

/-! ## Writes by access code (R541) -/

/-- Words whose live 1 bits cannot be written 0, and which of their bits (R191, R365, R288). -/
def stickyMask (c : Chip) (k : Nat) : Word :=
  if c = .ep then 0
  else if k = item Pg.chip 0 R.chpTileRetire then 0x3FFFF
  else if k = item Pg.chip 0 R.chpStackRetire then 0x3F
  else if itemPage k = Pg.pleat ∧ itemSel k = 0 ∧ R.pltEngRetire0 ≤ itemOff k ∧ itemOff k < R.pltEngRetire4 then 0xFFFFFFFF
  else if k = item Pg.pleat 0 R.pltEngRetire4 then 0xFFFF
  else 0

/-- A write lands in the shadow. -/
def shadowLand (m : Mach) (c : Chip) (k : Nat) (v : Word) : Mach :=
  m.setShadow c k ((v &&& (info m.epParams c k).rws) ||| (m.liveCopy c k &&& stickyMask c k))

/-- Whether a shadow write is held: it is served in cycles 848 to 871 of a hem that applies its group (R544). -/
def holdsWrite (m : Mach) (c : Chip) (k : Nat) : Bool :=
  match (m.rf c).commit with
  | some q => m.dueNow c q.named q.at_ && decide (848 ≤ m.cyc c ∧ m.cyc c ≤ 871) && bitsOf q.mask (info m.epParams c k).group 1 == 1
  | none => false

/-- A write of an RWS word. -/
def shadowWrite (m : Mach) (c : Chip) (k : Nat) (v : Word) : Mach :=
  if m.holdsWrite c k then m.setRf c { m.rf c with held := (m.rf c).held ++ [(k, v)] } else m.shadowLand c k v

/-- A write of the one copy of a word: RW bits take the value, W1C bits are cleared by 1. -/
def wordWrite (m : Mach) (c : Chip) (k : Nat) (v : Word) : Mach :=
  let i := info m.epParams c k
  let w := m.word c k
  m.setWord c k ((w &&& ~~~(i.rw ||| i.w1c)) ||| (v &&& i.rw) ||| (w &&& i.w1c &&& ~~~v))

/-- A write of a word with no effect of its own. -/
def plainWrite (m : Mach) (c : Chip) (k : Nat) (v : Word) : Mach :=
  if (info m.epParams c k).rws = 0 then m.wordWrite c k v else m.shadowWrite c k v

/-! ## What single registers do when written -/

/-- GRD_CTRL and EP4_GRD_CTRL (R451, R461). -/
def guardCtrl (m : Mach) (c : Chip) (path : Path) (k : Nat) (v : Word) : Mach :=
  m.guardWrite c path fun m =>
    let m := m.wordWrite c k v
    let m := if v.getLsbD 2 then m.guardAbort c else m
    if v.getLsbD 1 ∧ (c = .ep ∨ m.ready) then m.guardSeal c else m

/-- A word of GRD_APPROVE: the high word is the approval (R453). -/
def guardApproveWord (m : Mach) (c : Chip) (path : Path) (high : Bool) (v : Word) : Mach :=
  m.guardWrite c path fun m =>
    match principal c path with
    | none => m
    | some who =>
      let g := m.guardRun c
      if high then m.guardApprove c who (g.low.toNat + v.toNat * 2 ^ 32) (m.cyc c) else m.setGuardRun c { g with low := v }

/-- The Guard page of the SX-4 (R456, R461). -/
def guardReg (m : Mach) (path : Path) (off k : Nat) (v : Word) : Mach :=
  if off = R.grdCtrl then m.guardCtrl .sx path k v
  else if off = R.grdApproveLo then m.guardApproveWord .sx path false v
  else if off = R.grdApproveHi then m.guardApproveWord .sx path true v
  else if off = R.grdRelayCtrl then m.relayGo path v.toNat
  else if off = R.grdRelayAddrLo ∨ off = R.grdRelayAddrHi ∨ off = R.grdRelayData then
    (if principal .sx path = some .b then m.wordWrite .sx k v else m.bump .sx Pg.guard R.grdRelayRefusedCnt)
  else m.plainWrite .sx k v

/-- Page 0x000 of an EP-4 (R450, R462, R556). -/
def epIdReg (m : Mach) (path : Path) (off k : Nat) (v : Word) : Mach :=
  if off = R.ep4CommitCtrl then m.commitCtrl .ep v.toNat
  else if off = R.ep4GrdCtrl then m.guardCtrl .ep path k v
  else if off = R.ep4GrdAtLo ∨ off = R.ep4GrdAtHi then m.guardWrite .ep path fun m => m.wordWrite .ep k v
  else if off = R.ep4GrdApproveLo then m.guardApproveWord .ep path false v
  else if off = R.ep4GrdApproveHi then m.guardApproveWord .ep path true v
  else m.plainWrite .ep k v

/-- SDS_RECAL_CTRL (R505): the lane is stored, and go starts its recalibration. -/
def recalWrite (m : Mach) (page k : Nat) (v : Word) : Mach :=
  let m := m.wordWrite .sx k v
  if v.getLsbD 8 then m.recalibrate (page - Pg.serdes 0) (v.toNat % 256) else m

/-- An OCU page (R530, R532). -/
def ocuReg (m : Mach) (page off k : Nat) (v : Word) : Mach :=
  let q := page - Pg.ocu 0
  if off = R.ocuCapCtrl then m.ocuCapture q v.toNat
  else if off = R.ocuElsStatus 0 ∨ off = R.ocuElsStatus 1 then
    (if v.getLsbD 2 then m.elsFaultCleared (2 * q + (off - R.ocuElsStatus 0) / 4) else m)
  else m.plainWrite .sx k v

/-- CTX_DOORBELL (R561): the value is stored and the event raised. -/
def ctxDoorbell (m : Mach) (x : Nat) (v : Word) : Mach :=
  (m.setReg .sx (Pg.ctx x) R.ctxDoorbell v.toNat).raise .sx (Pg.ctx x) 0 0

/-- A context page of an EP-4 (R401, R427, R444). -/
def epCtxReg (m : Mach) (path : Path) (page off k : Nat) (v : Word) : Mach :=
  let x := page - Pg.ctx 0
  if R.ep4CtxDb 0 ≤ off ∧ off ≤ R.ep4CtxDb 31 then m.doorbell x ((off - R.ep4CtxDb 0) / 4) v.toNat
  else if off = R.ep4CtxFault then (if v.getLsbD 31 then m.faultClear x else m)
  else if R.ep4CtxKey 0 ≤ off ∧ off ≤ R.ep4CtxKey 7 then m.keyWrite x ((off - R.ep4CtxKey 0) / 4) v path
  else m.plainWrite .ep k v

/-- The common control words (R551, R555, R641). -/
def commonReg (m : Mach) (c : Chip) (page : Nat) (pk : PageKind) (off k : Nat) (v : Word) : Mach :=
  if off = R.snapCtrl then m.snapWrite c page v.toNat
  else if off = R.intForce then
    let st := item page 0 R.intStatus
    (m.setWord c st (m.word c st ||| (v &&& BitVec.ofNat 32 (eventBits pk)))).updateIrq c
  else if off = R.errLog0 then
    (if v.getLsbD 31 then m.setWord c k (m.word c k &&& 0x3FFFFFFF) else m)
  else (m.wordWrite c k v).updateIrq c

/-- A write of a direct register, whatever its page. -/
def directWrite (m : Mach) (c : Chip) (path : Path) (page : Nat) (pk : PageKind) (off : Nat) (v : Word) : Mach :=
  let k := item page 0 off
  if (info m.epParams c k).group = 33 then m.guardStage c path k v
  else if off < 0x100 then m.commonReg c page pk off k v
  else
    match pk with
    | .chip => if off = R.chpCommitCtrl then m.commitCtrl .sx v.toNat
        else if off = R.chpChatterClr then m.chatterWrite v.toNat else m.plainWrite .sx k v
    | .guard => m.guardReg path off k v
    | .power => if off = R.pwrGateCtrl then m.gateWrite v.toNat else m.plainWrite .sx k v
    | .serdes => if off = R.sdsRecalCtrl then m.recalWrite page k v else m.plainWrite .sx k v
    | .ocu => m.ocuReg page off k v
    | .ctx => if off = R.ctxDoorbell then m.ctxDoorbell (page - Pg.ctx 0) v else m.plainWrite .sx k v
    | .eId => m.epIdReg path off k v
    | .eCtx => m.epCtxReg path page off k v
    | _ => m.plainWrite c k v

/-- A 1 in a reserved write-only bit of a direct register (R537, R635). -/
def directOutside (pk : PageKind) (off : Nat) (v : Word) : Bool :=
  pk == .chip && off == R.chpChatterClr && decide (2 ^ 9 ≤ v.toNat)

/-! ## Indirect windows (R552) -/

def winKey (c : Chip) (path : Path) (page : Nat) : Nat := 4 * page + pathCode c path
def winOf (m : Mach) (c : Chip) (path : Path) (page : Nat) : Window := Tbl.get (fun _ => {}) (m.rf c).win (winKey c path page)
def setWin (m : Mach) (c : Chip) (path : Path) (page : Nat) (w : Window) : Mach :=
  m.setRf c { m.rf c with win := Tbl.set (fun _ => {}) (m.rf c).win (winKey c path page) w }

/-- The sync-object window of a cluster page (R157). -/
def isSyncTab (k : PageKind) (sel : Nat) : Bool := k == .cluster && sel == 1

/-- Whether R552 refuses an access to word `a` of a table. -/
def tabRefused (m : Mach) (c : Chip) (page : Nat) (k : PageKind) (sel a : Nat) (write : Bool) : Bool :=
  if sel = 0 then
    write || decide (0x1C0 ≤ a)
      || (match directInfo k (0x100 + 4 * a) with | some i => i.rws == 0 | none => true)
  else if m.pageRetired c page then true
  else if isSyncTab k sel then !(decide (a < 65536) && objCluster a == page - Pg.cluster 0)
  else
    match tableInfo m.epParams k sel a with
    | none => true
    | some i => write && (i.rws ||| i.rw ||| i.w1c ||| i.wo) == 0

/-- The Guard's view: staged words (R450). -/
def guardView (m : Mach) (c : Chip) : Bool := bitsOf (m.reg c (guardPage c) (byChip c R.grdCtrl R.ep4GrdCtrl)) 0 1 == 1

/-- A table word as a window fetches it (R541, R551). -/
def tabRead (m : Mach) (c : Chip) (page : Nat) (w : Window) : Word :=
  if w.sel = 0 then m.live c (item page 0 (0x100 + 4 * w.addr))
  else
    let k := item page w.sel w.addr
    let i := info m.epParams c k
    if w.bit 5 ∧ i.rws = 0 then m.snapWord c k
    else if i.rws ≠ 0 ∧ (w.bit 4 ∨ (i.group = 33 ∧ !m.guardView c)) then m.live c k
    else m.readStatus c k

/-- A fetch starts at the word at which the window stands, or is refused at once. -/
def fetchStart (m : Mach) (c : Chip) (path : Path) (page : Nat) (k : PageKind) (w : Window) : Mach :=
  let w := { w with atHigh := false, low := none, data := 0, high := 0 }
  m.setWin c path page
    (if m.tabRefused c page k w.sel w.addr false then { w with busy := false, err := true } else { w with busy := true })

/-- The fetch ends and the word is held (R552, R157). -/
def fetchDone (m : Mach) (c : Chip) (path : Path) (page : Nat) : Mach :=
  let w := m.winOf c path page
  match w.busy, pageKind m.epParams c page with
  | true, some k =>
    if m.tabRefused c page k w.sel w.addr false then m.setWin c path page { w with busy := false, err := true, data := 0, high := 0 }
    else if isSyncTab k w.sel then
      match m.bankRead w.addr with
      | (some v, m) => m.setWin c path page
          { w with busy := false, data := BitVec.ofNat 32 (v.toNat % 2 ^ 32), high := BitVec.ofNat 32 (v.toNat / 2 ^ 32) }
      | (none, m) => m.setWin c path page { w with busy := false, data := 0, high := 0, err := true }
    else m.setWin c path page { w with busy := false, data := m.tabRead c page w }
  | _, _ => m

/-- IND_ADDR: the word is selected and its fetch starts.  A pair in progress is abandoned (R157). -/
def indAddr (m : Mach) (c : Chip) (path : Path) (page : Nat) (k : PageKind) (v : Word) : Mach :=
  let w := m.winOf c path page
  m.fetchStart c path page k { w with addr := v.toNat, err := w.err || w.atHigh }

/-- IND_CTRL: [15:0] are stored, err and timeout are cleared by 1. -/
def indCtrl (m : Mach) (c : Chip) (path : Path) (page : Nat) (v : Word) : Mach :=
  let w := m.winOf c path page
  m.setWin c path page
    { w with ctrl := v.toNat % 2 ^ 16, err := w.err && !v.getLsbD 17, timeout := w.timeout && !v.getLsbD 18 }

def indCtrlRead (w : Window) : Word :=
  BitVec.ofNat 32 (w.ctrl + place (bit01 w.busy) 16 1 + place (bit01 w.err) 17 1 + place (bit01 w.timeout) 18 1)

/-- The object that a cluster holds after `i` (R142). -/
def nextObject (i : Nat) : Nat := if i % 16 = 15 then i + 81 else i + 1

/-- After an access with auto-increment the next word's fetch starts. -/
def indAdvance (m : Mach) (c : Chip) (path : Path) (page : Nat) (k : PageKind) : Mach :=
  let w := m.winOf c path page
  if w.bit 6 then m.fetchStart c path page k { w with addr := (w.addr + 1) % 2 ^ 32 } else m

/-- From the high word of an object the window goes to a low word (R157). -/
def syncAdvance (m : Mach) (c : Chip) (path : Path) (page : Nat) (k : PageKind) : Mach :=
  let w := m.winOf c path page
  m.fetchStart c path page k (if w.bit 6 then { w with addr := nextObject w.addr } else w)

/-- A pair is abandoned: err is set, and the window stands at the object's low word again (R157, log 49). -/
def syncAbandon (m : Mach) (c : Chip) (path : Path) (page : Nat) (k : PageKind) : Mach :=
  m.fetchStart c path page k { m.winOf c path page with err := true }

/-- An access is refused: err is set (R552). -/
def indErr (m : Mach) (c : Chip) (path : Path) (page : Nat) : Mach :=
  m.setWin c path page { m.winOf c path page with err := true }

/-- A read of IND_DATA; one that waits for a fetch is served when it ends. -/
def indRead (m : Mach) (c : Chip) (path : Path) (page : Nat) (k : PageKind) : Word × Mach :=
  let m := m.fetchDone c path page
  let w := m.winOf c path page
  if m.tabRefused c page k w.sel w.addr false then (0, (m.indErr c path page).indAdvance c path page k)
  else if isSyncTab k w.sel then
    if w.low.isSome then (0, m.syncAbandon c path page k)
    else if w.atHigh then (w.high, m.syncAdvance c path page k)
    else (w.data, m.setWin c path page { w with atHigh := true })
  else (w.data, m.indAdvance c path page k)

/-- A 1 in a reserved write-only bit of word 3 of a group's status (R289, R341, R343, R537). -/
def tabOutside (k : PageKind) (sel a : Nat) (v : Word) : Bool :=
  a % 4 == 3 && ((k == .pleat && (sel == 2 || sel == 6) && decide (2 ≤ v.toNat))
    || (k == .cuff && sel == 2 && decide (4 ≤ v.toNat)))

/-- A write of a table word, by the table's access code. -/
def tabWrite (m : Mach) (c : Chip) (path : Path) (page : Nat) (k : PageKind) (sel a : Nat) (v : Word) : Mach :=
  let key := item page sel a
  let q := page - Pg.ocu 0
  if (info m.epParams c key).group = 33 then m.guardStage c path key v
  else if k = .pleat ∧ (sel = 2 ∨ sel = 6) then
    let gk := if sel = 6 then 8192 + a / 4 else a / 4
    if v.getLsbD 0 ∧ (m.grp gk).reason ≠ 0 then m.setGrp gk { m.grp gk with rearm := true } else m
  else if k = .cuff ∧ sel = 2 then
    let g := a / 4
    let m := if v.getLsbD 0 ∧ (m.cgrp g).reason ≠ 0 then m.setCgrp g { m.cgrp g with rearm := true } else m
    if v.getLsbD 1 then m.cuffClear g else m
  else if k = .ocu ∧ sel = 4 ∧ a % 2 = 0 then
    let m := m.wordWrite c key v
    if v.getLsbD 16 then m.updPair (4 * q + a / 8) (a / 2 % 4) fun o => { o with capture := true } else m
  else if k = .ocu ∧ sel = 5 ∧ m.elsBit (2 * q + a / 16) F.ocuElsStatus_on then m
  else m.plainWrite c key v

/-- A write of IND_DATA; one that waits for a fetch is served when it ends. -/
def indWrite (m : Mach) (c : Chip) (path : Path) (page : Nat) (k : PageKind) (v : Word) : Access × Mach :=
  let m := m.fetchDone c path page
  let w := m.winOf c path page
  if m.tabRefused c page k w.sel w.addr true then (.ok 0, (m.indErr c path page).indAdvance c path page k)
  else if isSyncTab k w.sel then
    match w.atHigh, w.low with
    | false, _ => (.ok 0, m.setWin c path page { w with low := some v, atHigh := true })
    | true, none => (.ok 0, m.syncAbandon c path page k)
    | true, some lo =>
      (.ok 0, (m.bankWrite w.addr (BitVec.ofNat 64 (lo.toNat + v.toNat * 2 ^ 32))).syncAdvance c path page k)
  else if tabOutside k w.sel w.addr v then (.outside, m)
  else (.ok 0, (m.tabWrite c path page k w.sel w.addr v).indAdvance c path page k)

/-- An IND_DATA access that has waited 10 µs. -/
def indTimeout (m : Mach) (c : Chip) (path : Path) (page : Nat) : Bool × Mach :=
  let w := m.winOf c path page
  if w.busy then (true, m.setWin c path page { w with timeout := true }) else (false, m)

/-! ## One access to one word -/

def latchOf (m : Mach) (c : Chip) (path : Path) (page : Nat) : Word :=
  Tbl.get (fun _ => 0) (m.rf c).latch (winKey c path page)
def setLatch (m : Mach) (c : Chip) (path : Path) (page : Nat) (v : Word) : Mach :=
  m.setRf c { m.rf c with latch := Tbl.set (fun _ => 0) (m.rf c).latch (winKey c path page) v }

/-- A direct word or holding word as it reads, the latch of a pair apart. -/
def directWord (m : Mach) (c : Chip) (page off : Nat) : Word :=
  if 0xC00 ≤ off then m.snapWord c (item page 0 off) else m.readStatus c (item page 0 off)

/-- A read of a direct or holding word.  The low word of an RO pair latches the high word for its path, and the high word
comes from the latch (R550). -/
def directRead (m : Mach) (c : Chip) (path : Path) (page : Nat) (k : PageKind) (off : Nat) : Word × Mach :=
  let v := m.directWord c page off
  let m := m.scrubWord c (item page 0 off)
  if path = .vc0 then (v, m)
  else if (roPairs k).contains (liveOff off) then (v, m.setLatch c path page (m.directWord c page (off + 4)))
  else if 4 ≤ liveOff off ∧ (roPairs k).contains (liveOff off - 4) then (m.latchOf c path page, m)
  else (v, m)

/-- A read of the word at `off` of a page by a path. -/
def regRead (m : Mach) (c : Chip) (path : Path) (page off : Nat) : Access × Mach :=
  let bad := (Access.busError, m.busError c path false page off)
  match m.reaches c path page with
  | none => bad
  | some k =>
    if off % 4 ≠ 0 ∨ 0x4000 ≤ off then bad
    else if isSyncWin k off then
      match m.ctxWindow (page - Pg.ctx 0) off with
      | (.ok v, m) => (.ok (halfAt off v), m)
      | (.error st, m) => (.denied st, m)
    else if off < 0x1000 then
      if directAt k off then
        let (v, m) := m.directRead c path page k off
        (.ok v, m)
      else bad
    else if off < 0x100C ∧ path ≠ .vc0 then
      if off = 0x1000 then (.ok (BitVec.ofNat 32 (m.winOf c path page).addr), m)
      else if off = 0x1008 then (.ok (indCtrlRead (m.winOf c path page)), m)
      else
        let (v, m) := m.indRead c path page k
        (.ok v, m)
    else if 0x2000 ≤ off ∧ (directInfo k (aliasWord off)).isSome then
      (.ok (if (m.directWord c page (aliasWord off)).getLsbD (aliasBit off) then 1 else 0),
        m.scrubWord c (item page 0 (aliasWord off)))
    else bad

/-- A write of a bit through its alias (R547). -/
def aliasWrite (m : Mach) (c : Chip) (path : Path) (page : Nat) (k : PageKind) (off : Nat) (v : Word) : Mach :=
  let wd := aliasWord off
  let i := info m.epParams c (item page 0 wd)
  let b : Word := 1 <<< aliasBit off
  let old := m.storedRead c (item page 0 wd) &&& ~~~i.w1c
  if (reservedOf k wd &&& b) != 0 then m
  else if ((i.rws ||| i.rw) &&& b) != 0 then
    m.directWrite c path page k wd (if v.getLsbD 0 then old ||| b else old &&& ~~~b)
  else if ((i.w1c ||| i.wo) &&& b) != 0 ∧ v.getLsbD 0 then m.directWrite c path page k wd (old ||| b)
  else m

/-- Whether a write to a context page breaks R538. -/
def ctxRefuses (k : PageKind) (off : Nat) (v : Word) : Bool :=
  isCtxKind k && (if 0x2000 ≤ off then decide (2 ≤ v.toNat) else (v &&& ~~~(ctxMask k off)) != 0)

/-- Whether a write to `off` is a bus error: a location that is not implemented, or R538. -/
def writeBad (m : Mach) (c : Chip) (path : Path) (page off : Nat) (v : Word) : Bool :=
  match m.reaches c path page with
  | none => true
  | some k =>
    decide (off % 4 ≠ 0)
      || !(directAt k off || (decide (0x1000 ≤ off ∧ off < 0x100C) && path != .vc0)
        || (decide (0x2000 ≤ off ∧ off < 0x4000) && (directInfo k (aliasWord off)).isSome))
      || ctxRefuses k off v

/-- A write of the word at `off` of a page by a path. -/
def regWrite (m : Mach) (c : Chip) (path : Path) (page off : Nat) (v : Word) : Access × Mach :=
  match m.writeBad c path page off v, m.reaches c path page with
  | false, some k =>
    if off < 0xC00 then
      if directOutside k off v then (.outside, m) else (.ok 0, m.directWrite c path page k off v)
    else if off < 0x1000 then (.ok 0, m)
    else if off = 0x1000 then (.ok 0, m.indAddr c path page k v)
    else if off = 0x1004 then m.indWrite c path page k v
    else if off = 0x1008 then (.ok 0, m.indCtrl c path page v)
    else (.ok 0, m.aliasWrite c path page k off v)
  | _, _ => (.busError, m.busError c path true page off)

/-! ## Accesses of several words (R539) -/

/-- Read `n` words at ascending offsets. -/
def regReads (m : Mach) (c : Chip) (path : Path) : Nat → Nat → List Access × Mach
  | 0, _ => ([], m)
  | n + 1, a =>
    let (x, m) := m.regRead c path (a / 0x4000) (a % 0x4000)
    let (xs, m) := m.regReads c path n (a + 4)
    (x :: xs, m)

/-- Write words at ascending offsets. -/
def regWrites (m : Mach) (c : Chip) (path : Path) : List Word → Nat → List Access × Mach
  | [], _ => ([], m)
  | v :: vs, a =>
    let (x, m) := m.regWrite c path (a / 0x4000) (a % 0x4000) v
    let (xs, m) := m.regWrites c path vs (a + 4)
    (x :: xs, m)

end Mach

end Sys2Proof.Machine
end

