-- ==== Sys2Proof/Machine/RegCmds.lean ====
section
/-! DEFINITION. The commands that access registers (chapter "Register model"; R632): writes, reads that are answered, windows,
aliases, commits and snapshots as they are requested or taken, and the I3C port. -/

namespace Sys2Proof.Machine
open Sys2Proof

/-- After an access to an EP-4 its engines do what they can. -/
def State.ran (s : State) (c : Chip) (m : Mach) : State :=
  match c with
  | .sx => { s with m := m }
  | .ep =>
    let x := SM.epRun (s.store, m)
    { s with store := x.1, m := x.2 }

/-- How an access that has no answer ends. -/
def State.wrote (s : State) (c : Chip) (a : Access × Mach) : Host.Outcome State Fault Refusal :=
  match a.1 with
  | .outside => .fault .outsideSpecification
  | _ => .next (s.ran c a.2)

/-- A read is answered: with its word, or as R536 says for its path. -/
def Mach.answered (m : Mach) (c : Chip) (path : Path) (a : Access) : Mach :=
  match a with
  | .ok w => m.emit (.answer c path true [w])
  | _ => m.emit (.answer c path false [0xFFFFFFFF])

/-- A read by a path. -/
def State.readReg (s : State) (c : Chip) (path : Path) (page off : Nat) : Host.Outcome State Fault Refusal :=
  let a := s.m.regRead c path page off
  .next (s.ran c (a.2.answered c path a.1))

/-- A write by a path. -/
def State.writeReg (s : State) (c : Chip) (path : Path) (page off value : Nat) : Host.Outcome State Fault Refusal :=
  s.wrote c (s.m.regWrite c path page off (BitVec.ofNat 32 value))

/-- REGISTER_WRITE (R541): a write served at cycle `x`. -/
def execRegisterWrite (c : Chip) (path : Path) (page offset value x : Nat) (s : State) : Host.Outcome State Fault Refusal :=
  ({ s with m := s.m.setCyc c x } : State).writeReg c path page offset value

/-- COMMIT_GO (R543, R545): COMMIT_CTRL is written with go. -/
def execCommitGo (c : Chip) (value x : Nat) (s : State) : Host.Outcome State Fault Refusal :=
  s.go fun m => (m.setCyc c x).commitCtrl c (value % 2 ^ 32 ||| 1)

/-- COMMIT_CANCEL (R545): COMMIT_CTRL is written with cancel. -/
def execCommitCancel (c : Chip) (value x : Nat) (s : State) : Host.Outcome State Fault Refusal :=
  s.go fun m => (m.setCyc c x).commitCtrl c (value % 2 ^ 32 ||| 4)

/-- SNAPSHOT_REQUEST (R551): SNAP_CTRL of a page is written with go. -/
def execSnapshotRequest (c : Chip) (page value x : Nat) (s : State) : Host.Outcome State Fault Refusal :=
  State.unit (pageKind s.m.epParams c page).isSome <| s.go fun m => (m.setCyc c x).snapWrite c page (value % 2 ^ 32 ||| 1)

/-- SNAPSHOT_TAKE (R551): the pages of the snapshots that are due copy their live words. -/
def execSnapshotTake (c : Chip) (s : State) : Host.Outcome State Fault Refusal := s.go fun m => m.snapTake c

/-- IND_ADDR_WRITE (R552). -/
def execIndAddrWrite (c : Chip) (path : Path) (page value : Nat) (s : State) : Host.Outcome State Fault Refusal :=
  s.writeReg c path page 0x1000 value

/-- IND_FETCH_DONE (R552): the fetched word is held. -/
def execIndFetchDone (c : Chip) (path : Path) (page : Nat) (s : State) : Host.Outcome State Fault Refusal :=
  s.go fun m => m.fetchDone c path page

/-- IND_DATA_READ (R552). -/
def execIndDataRead (c : Chip) (path : Path) (page : Nat) (s : State) : Host.Outcome State Fault Refusal :=
  s.readReg c path page 0x1004

/-- IND_DATA_WRITE (R552). -/
def execIndDataWrite (c : Chip) (path : Path) (page value : Nat) (s : State) : Host.Outcome State Fault Refusal :=
  s.writeReg c path page 0x1004 value

/-- IND_TIMEOUT (R552): an access that has waited 10 µs ends, a read with 0xFFFF_FFFF. -/
def execIndTimeout (c : Chip) (path : Path) (page : Nat) (write : Bool) (s : State) : Host.Outcome State Fault Refusal :=
  s.go fun m =>
    let a := m.indTimeout c path page
    if a.1 && !write then a.2.emit (.answer c path true [0xFFFFFFFF]) else a.2

/-- BIT_ALIAS_WRITE (R547): a write at an alias offset. -/
def execBitAliasWrite (c : Chip) (path : Path) (page offset value : Nat) (s : State) : Host.Outcome State Fault Refusal :=
  if 0x2000 ≤ offset ∧ offset < 0x4000 then s.writeReg c path page offset value else .next s

/-- PAIR_LOW_READ (R550). -/
def execPairLowRead (c : Chip) (path : Path) (page offset : Nat) (s : State) : Host.Outcome State Fault Refusal :=
  s.readReg c path page offset

/-- INT_FORCE (R555, R641): the bits written are set in INT_STATUS. -/
def execIntForce (c : Chip) (page value : Nat) (s : State) : Host.Outcome State Fault Refusal :=
  match pageKind s.m.epParams c page with
  | some k => s.go fun m => m.commonReg c page k R.intForce (item page 0 R.intForce) (BitVec.ofNat 32 value)
  | none => .fault .noSuchUnit

/-- DIGEST_DONE (R553): all digests change together. -/
def execDigestDone (c : Chip) (s : State) : Host.Outcome State Fault Refusal :=
  s.go fun m =>
    if (m.rf c).digestBy.isSome then m.setRf c { m.rf c with digested := (m.rf c).live, digestBy := none } else m

/-- CTX_DOORBELL (R561): a write of a context page's doorbell by a path. -/
def execCtxDoorbell (ctx value : Nat) (path : Path) (s : State) : Host.Outcome State Fault Refusal :=
  State.unit (decide (ctx < 1024)) <| s.writeReg .sx path (Pg.ctx ctx) R.ctxDoorbell value

/-! ## The I3C port (R632) -/

/-- Whole words of a list of bytes, little-endian; the bytes of a part word are dropped. -/
def wholeWords : List Byte → List Word
  | a :: b :: c :: d :: bs => BitVec.ofNat 32 (ofLeBytes [a, b, c, d]) :: wholeWords bs
  | _ => []

/-- I3C_PRIVATE_WRITE: an address, then up to 64 bytes for consecutive words. -/
def execI3cPrivateWrite (bytes : List Byte) (s : State) : Host.Outcome State Fault Refusal :=
  if bytes.length < 4 then .next s
  else
    let a := ofLeBytes (bytes.take 4)
    let r := ({ s.m with i3cAddr := a } : Mach).regWrites .sx .i3c (wholeWords ((bytes.drop 4).take 64)) a
    if r.1.contains .outside then .fault .outsideSpecification else .next { s with m := r.2 }

/-- I3C_PRIVATE_READ: up to 64 bytes from the address written last. -/
def execI3cPrivateRead (count : Nat) (s : State) : Host.Outcome State Fault Refusal :=
  s.go fun m =>
    let n := min count 64
    let r := m.regReads .sx .i3c (ceilDiv n 4) m.i3cAddr
    let word := fun (a : Access) => match a with | .ok w => leBytes 4 w.toNat | _ => leBytes 4 0xFFFFFFFF
    r.2.emit (.i3c ((r.1.flatMap word).take n))

end Sys2Proof.Machine
end

