-- ==== Sys2Proof/Machine/Requests.lean ====
section
/-! DEFINITION. Requests that reach their target: the memory services, the context and register pages in space 0b10 (R90, R370,
R439, R561), in-band management (R435), the replies to a relay or an MGT descriptor (R412, R456), and a partition fault that an
end-point reports (R599). -/

namespace Sys2Proof.Machine
open Sys2Proof

namespace Mach

/-! ## Context pages over VC0 -/

/-- Whether a request's context is bound to its key (R370, R439). -/
def ctxBound (m : Mach) (c : Chip) (p : Packet) : Bool :=
  match c with
  | .sx =>
    let b := m.tword .sx Pg.guard 3 p.context
    bitsOf b 16 1 == 1 && bitsOf b 0 16 == p.pkey
  | .ep => m.epBound p.context && m.epKey p.context == p.pkey && !m.ctxScrubbing p.context

/-- A location that a VC0 read of a context page cannot reach. -/
def readBad (m : Mach) (c : Chip) (page off : Nat) : Bool :=
  match m.reaches c .vc0 page with
  | none => true
  | some k => !(directAt k off || (decide (0x2000 ≤ off) && (directInfo k (aliasWord off)).isSome))

/-- The bytes that served accesses read, or the status of the first that was not. -/
def joined : List Access → Except Nat (List Byte)
  | [] => .ok []
  | a :: as =>
    match a, joined as with
    | .ok w, .ok bs => .ok (leBytes 4 w.toNat ++ bs)
    | .ok _, .error st => .error st
    | .denied st, _ => .error st
    | _, _ => .error Status.accessDenied

/-- A read of 4 or 8 bytes of a context page: one whole access. -/
def ctxRead (m : Mach) (c : Chip) (page off n : Nat) : Except Nat (List Byte) × Mach :=
  let offs := (List.range (n / 4)).map (off + 4 * ·)
  match offs.find? (m.readBad c page) with
  | some o => (.error Status.accessDenied, m.busError c .vc0 false page o)
  | none =>
    if c = .sx ∧ n = 8 ∧ isSyncWin .ctx off then
      match m.ctxWindow (page - Pg.ctx 0) off with
      | (.ok v, m) => (.ok (leBytes 8 v.toNat), m)
      | (.error st, m) => (.error st, m)
    else
      let r := m.regReads c .vc0 (n / 4) (page * 0x4000 + off)
      (joined r.1, r.2)

/-- A write of 4 or 8 bytes to a context page: nothing of it lands when a word breaks R538. -/
def ctxWrite (m : Mach) (c : Chip) (page off : Nat) (ws : List Word) : Except Nat (List Byte) × Mach :=
  match (ws.mapIdx fun i w => (off + 4 * i, w)).find? fun x => m.writeBad c .vc0 page x.1 x.2 with
  | some x => (.error Status.accessDenied, m.busError c .vc0 true page x.1)
  | none => (.ok [], (m.regWrites c .vc0 ws (page * 0x4000 + off)).2)

/-- A VC0 request in space 0b10: what it reads, or the status of its refusal (R90, R370, R536). -/
def ctxRequest (m : Mach) (c : Chip) (p : Packet) : Except Nat (List Byte) × Mach :=
  let page := 0x400 + p.context
  let off := p.offset % 0x4000
  let n := requestBytes p
  let write := p.opcode == Op.write || p.opcode == Op.flagWrite
  if !(p.opcode == Op.read || write) ∨ p.offset / 0x4000 ≠ page ∨ (c = .ep ∧ (pageKind m.epParams c page).isNone) then
    (.error Status.accessDenied, m)
  else if !(n == 4 || n == 8) ∨ off % n ≠ 0 then (.error Status.misaligned, m)
  else if !m.ctxBound c p then (.error Status.contextDenied, m)
  else if p.poison = 1 then (.error Status.poisoned, m)
  else if write then m.ctxWrite c page off (wholeWords p.payload)
  else m.ctxRead c page off n

/-- The response to a register request: `ack` is aux of a WRITE_ACK. -/
def ctxResponse (m : Mach) (c : Chip) (p : Packet) (r : Except Nat (List Byte)) : Packet :=
  match r with
  | .error st => m.response c p Op.nack st 0 0 0 []
  | .ok bs =>
    if p.opcode = Op.read then m.response c p Op.readData 0 0 0 0 bs
    else m.response c p Op.writeAck 0 0 0 (if c = .ep then 1 else 0) []

/-! ## In-band management (R435, R536) -/

/-- The manager node of a chip: GRD_MGR, EP4_MGR. -/
def mgrWord (m : Mach) : Chip → Nat
  | .sx => m.reg .sx Pg.guard R.grdMgr
  | .ep => m.reg .ep Pg.eMp R.ep4Mgr

/-- The path on which a chip serves a management request; none where it serves it not. -/
def mgtPath (m : Mach) (c : Chip) (p : Packet) : Option Path :=
  if c = .ep ∧ 960 ≤ p.src ∧ p.src ≤ 975 then some .i3c
  else if bitsOf (m.mgrWord c) 10 1 = 1 ∧ bitsOf (m.mgrWord c) 0 10 = p.src then some .vc4
  else none

/-- A management request is served: its accesses, and the machine. -/
def mgtAccess (m : Mach) (c : Chip) (path : Path) (p : Packet) : List Access × Mach :=
  if p.addrSpace ≠ 2 then ([.denied Status.accessDenied], m)
  else if p.poison = 1 then ([.denied Status.poisoned], m)
  else if p.opcode = Op.mgtRead then m.regReads c path (p.aux % 32) p.offset
  else m.regWrites c path (wholeWords p.payload) p.offset

/-- The answer to a management request. -/
def mgtAnswer (m : Mach) (c : Chip) (p : Packet) (as : List Access) : Packet :=
  match joined as with
  | .error st => m.response c p Op.mgtAck st 0 0 0 []
  | .ok bs => if p.opcode = Op.mgtRead then m.response c p Op.mgtData 0 0 0 0 bs else m.response c p Op.mgtAck 0 0 0 0 []

/-- A management request from elsewhere than the manager node. -/
def mgtRefused (m : Mach) : Chip → Mach
  | .sx => m.bump .sx Pg.guard R.grdMgrRefusedCnt
  | .ep => m.bump .ep Pg.eMp R.ep4MgrRefusedCnt

/-- A management request reaches its chip: whether it put the chip outside its specification, the answer, the machine. -/
def mgtRequest (m : Mach) (c : Chip) (p : Packet) : Bool × Packet × Mach :=
  match m.mgtPath c p with
  | none =>
    let m := m.mgtRefused c
    (false, m.response c p Op.mgtAck Status.accessDenied 0 0 0 [], m)
  | some path =>
    let (as, m) := m.mgtAccess c path p
    (as.contains .outside, m.mgtAnswer c p as, m)

/-! ## Where requests wait -/

/-- Take a request for the register service of the SX-4 from where it waits, or as it comes at `port`: the port that it came
by.  None while it is still crossing the switch. -/
def takeRegister (m : Mach) (port : Nat) (p : Packet) : Option (Nat × Mach) :=
  match m.findAt 168 169 p with
  | some h => if heldWhole h then some (h.input, m.removeHeld h.id) else none
  | none => some (port, m)

/-- Take a packet from where it waits at the EP-4; its credits are returned (R198). -/
def takeAtEp (m : Mach) (port : Nat) (p : Packet) : Mach :=
  if m.waits .ep port p then (m.collect .ep port p).epCredit port p else m

/-- A response of the register service of the SX-4 leaves by the port that its request came by. -/
def registerAnswer (m : Mach) (port : Nat) (p : Packet) : Mach := m.push p 162 port

/-! ## VC0 requests -/

/-- A VC0 request reaches the SX-4. -/
def sxRequest (m : Mach) (port : Nat) (p : Packet) : Mach :=
  if p.dst ≠ m.sxNode then m
  else if p.addrSpace ≠ 2 then (if p.addrSpace = 3 then m else m.memoryRequest port p)
  else
    match m.takeRegister port p with
    | none => m
    | some (from_, m') =>
      if m.shedLevel = 4 ∧ (m.findAt 168 169 p).isNone then m.nackAt port Status.refusedShed p
      else
        let (r, m) := m'.ctxRequest .sx p
        m.registerAnswer from_ (m.ctxResponse .sx p r)

/-- A VC0 request reaches the EP-4 (R90, R370, R388). -/
def epRequest (m : Mach) (port : Nat) (p : Packet) : Mach :=
  if p.dst ≠ m.epNode ∨ p.addrSpace = 3 then m
  else
    let queued := m.waits .ep port p
    let give := fun (m : Mach) => m.takeAtEp port p
    if p.addrSpace = 1 then (give m).epNack port p Status.badSpace
    else if p.addrSpace = 2 then
      let (r, m) := (give m).ctxRequest .ep p
      m.epRespond port p (m.ctxResponse .ep p r)
    else if p.poison = 1 then (give m).epNack port p Status.poisoned
    else if p.opcode = Op.syncWait then (give m).epNack port p Status.accessDenied
    else (if queued then m.collect .ep port p else m).epMemory port p queued

end Mach

/-- A VC0 request of opcode `op`. -/
def State.request (s : State) (op : Nat) (c : Chip) (port : Nat) (p : Packet) : Host.Outcome State Fault Refusal :=
  State.unit (s.m.hasPort c port) <|
    if p.opcode ≠ op then .next s
    else
      match c with
      | .sx => s.go fun m => m.sxRequest port p
      | .ep => s.epGoM fun m => m.epRequest port p

/-- READ (R90): answered with READ_DATA or NACK. -/
def execRead (c : Chip) (port : Nat) (pkt : Packet) (s : State) : Host.Outcome State Fault Refusal :=
  s.request Op.read c port pkt

/-- WRITE (R90, R110). -/
def execWrite (c : Chip) (port : Nat) (pkt : Packet) (s : State) : Host.Outcome State Fault Refusal :=
  s.request Op.write c port pkt

/-- FLAG_WRITE (R121): applied as a write; its source held it until its earlier stores were applied. -/
def execFlagWrite (c : Chip) (port : Nat) (pkt : Packet) (s : State) : Host.Outcome State Fault Refusal :=
  s.request Op.flagWrite c port pkt

/-- ATOMIC (R133). -/
def execAtomic (c : Chip) (port : Nat) (pkt : Packet) (s : State) : Host.Outcome State Fault Refusal :=
  s.request Op.atomic c port pkt

/-- ATOMIC_POSTED (R133). -/
def execAtomicPosted (c : Chip) (port : Nat) (pkt : Packet) (s : State) : Host.Outcome State Fault Refusal :=
  s.request Op.atomicPosted c port pkt

/-- SYNC_WAIT (R146). -/
def execSyncWait (c : Chip) (port : Nat) (pkt : Packet) (s : State) : Host.Outcome State Fault Refusal :=
  s.request Op.syncWait c port pkt

/-- A VC4 management request of opcode `op`. -/
def State.mgt (s : State) (op : Nat) (c : Chip) (port : Nat) (p : Packet) : Host.Outcome State Fault Refusal :=
  State.unit (s.m.hasPort c port) <|
    if p.opcode ≠ op ∨ p.dst ≠ s.m.nodeOf c then .next s
    else
      match c with
      | .sx =>
        match s.m.takeRegister port p with
        | none => .next s
        | some (from_, m) =>
          let (out, a, m) := m.mgtRequest .sx p
          if out then .fault .outsideSpecification else s.go fun _ => m.registerAnswer from_ a
      | .ep =>
        let (out, a, m) := (s.m.takeAtEp port p).mgtRequest .ep p
        if out then .fault .outsideSpecification else s.epGoM fun _ => m.epRespond port p a

/-- MGT_READ (R435). -/
def execMgtRead (c : Chip) (port : Nat) (pkt : Packet) (s : State) : Host.Outcome State Fault Refusal :=
  s.mgt Op.mgtRead c port pkt

/-- MGT_WRITE (R435). -/
def execMgtWrite (c : Chip) (port : Nat) (pkt : Packet) (s : State) : Host.Outcome State Fault Refusal :=
  s.mgt Op.mgtWrite c port pkt

/-- A VC4 reply of opcode `op`: on the SX-4 it ends the relay, on the EP-4 it completes an MGT descriptor. -/
def State.mgtReply (s : State) (op : Nat) (c : Chip) (port : Nat) (p : Packet) : Host.Outcome State Fault Refusal :=
  State.unit (s.m.hasPort c port) <|
    if p.opcode ≠ op then .next s
    else
      match c with
      | .sx => s.go fun m => (m.collect .sx port p).relayReply p
      | .ep => s.epGo fun x => x.response port p

/-- MGT_DATA (R412, R456). -/
def execMgtData (c : Chip) (port : Nat) (pkt : Packet) (s : State) : Host.Outcome State Fault Refusal :=
  s.mgtReply Op.mgtData c port pkt

/-- MGT_ACK (R412, R456). -/
def execMgtAck (c : Chip) (port : Nat) (pkt : Packet) (s : State) : Host.Outcome State Fault Refusal :=
  s.mgtReply Op.mgtAck c port pkt

/-- A PFAULT from an end-point: of a key that its port does not hold it is discarded under check 4 (R599); else the SX-4 handles
it as a fault of its own. -/
def Mach.endpointFault (m : Mach) (port : Nat) (p : Packet) : Mach :=
  if m.waits .sx port p then
    let m := m.collect .sx port p
    if p.pkey = 0 then m else m.pfault p.pkey (p.aux % 256) true
  else if !m.keyOk port p then m.checkFailed port R.prtPkeyInCnt 0x12 p
  else if p.pkey = 0 then m
  else m.pfault p.pkey (p.aux % 256) true

/-- PFAULT_FROM_ENDPOINT (R599, R600). -/
def execPfaultFromEndpoint (port : Nat) (pkt : Packet) (s : State) : Host.Outcome State Fault Refusal :=
  State.unit (s.m.hasPort .sx port) (s.go fun m => if pkt.opcode = Op.pfault then m.endpointFault port pkt else m)

end Sys2Proof.Machine
end

