-- ==== Sys2Proof/Machine/Hem.lean ====
section
/-! DEFINITION. The stitch boundary (R46), the cut-off of the hem (R47, R53) and the commit hem (R544): what the two chips do
of themselves in every stitch, and the validation and copying of committed configuration. -/

namespace Sys2Proof.Machine
open Sys2Proof

namespace Mach

/-! ## Cycle 0 of a stitch: what each link sends (R61, R68, R485) -/

/-- Ports whose transmit direction is awake. -/
def awakePorts (m : Mach) (c : Chip) : List Nat :=
  (List.range (m.portCount c)).filter fun p => m.isUp c p && (m.lk c p).txSleep == 0

/-- Receive time of the partner's previous ordered set and transmit time of the own previous one. -/
def setTimes (m : Mach) (c : Chip) (p : Nat) : Nat × Nat :=
  match c with
  | .sx => Tbl.get (fun _ => (0, 0)) m.sxExch p
  | .ep => let e := Tbl.get (fun _ => (0, 0, 0)) m.epTime.exch p; (e.1 - 1, e.2.1 - 1)

/-- Record the transmit time of an ordered set. -/
def setSent (m : Mach) (c : Chip) (p t : Nat) : Mach :=
  match c with
  | .sx => { m with sxExch := Tbl.modify (fun _ => (0, 0)) m.sxExch p (fun e => (e.1, t)) }
  | .ep => m.putEpTime { m.epTime with exch := Tbl.modify (fun _ => (0, 0, 0)) m.epTime.exch p (fun e => (e.1, t + 1, e.2.2)) }

/-- Send the stitch ordered set on a port (R68, R483).  The flit boundary at which it leaves is open: the time within the
stitch is a free value. -/
def orderedSet (m : Mach) (c : Chip) (p : Nat) : Mach :=
  let t := m.setTimes c p
  let m := m.emit (.ctl c p (.stitch (m.now c) t.1 t.2))
  let (x, m) := m.fresh 16
  m.setSent c p (m.now c % 65536 * 65536 + x.toNat % 56000)

/-- The control messages that fall due with a stitch. -/
def linkBeats (m : Mach) (c : Chip) : Mach :=
  let m := if m.now c % 16 = 0 then (m.awakePorts c).foldl (fun (m : Mach) p => m.orderedSet c p) m else m
  if m.now c % 64 = 8 then
    (m.awakePorts c).foldl (fun (m : Mach) p => m.emit (.ctl c p (.keepalive (m.epochNow c % 256) (m.nodeOf c)))) m
  else m

/-- The pulse on STITCH_OUT (R59, R61). -/
def stitchPulseOut (m : Mach) : Mach :=
  if m.timed && m.bit .sx Pg.stitch F.sthCtrl_outEn then m.emit (.stitchOut (stitchSymbol m.time.number)) else m

/-! ## ZLY_TEST from the EP-4 (R238) -/

/-- One step of the PRBS31 sequence of R469: the bit and the next state. -/
def prbsStep (s : Nat) : Nat × Nat :=
  let b := (bitsOf s 30 1 + bitsOf s 27 1) % 2
  (b, s * 2 % 2 ^ 31 + b)

/-- One byte of the sequence, first bit least significant. -/
def prbsByte (s : Nat) : Byte × Nat :=
  let r := (List.range 8).foldl (fun (a : Nat × Nat) i => let x := prbsStep a.2; (a.1 + x.1 * 2 ^ i, x.2)) (0, s)
  (BitVec.ofNat 8 r.1, r.2)

/-- `n` bytes of the sequence. -/
def prbsBytes (s : Nat) : Nat → List Byte × Nat
  | 0 => ([], s)
  | n + 1 =>
    let b := prbsByte s
    let r := prbsBytes b.2 n
    (b.1 :: r.1, r.2)

/-- Send one ZLY_TEST on a port in slot `s`. -/
def zlySend (m : Mach) (p s : Nat) : Mach :=
  let e := Tbl.get (fun _ => (0, 0)) m.ep.zlyTest p
  let r := prbsBytes (if e.2 = 0 then 0x4B3C2D1E else e.2) 256
  let pkt := HdrSpec.packet
    { opcode := Op.zlyTest, vc := 5, dst := 960 + m.planeOfPort p, src := m.epNode, epoch := m.epochNow .ep % 16,
      aux := e.1 } r.1
  let m := m.setEp { m.ep with zlyTest := Tbl.set (fun _ => (0, 0)) m.ep.zlyTest p ((e.1 + 1) % 2 ^ 64, r.2) }
  (m.epSlotCharge p s pkt.granules).epSend p pkt []

/-- The ZLY_TESTs that a port sends in the stitch that begins, `used` cycles of which are taken. -/
def zlySends (m : Mach) (p used : Nat) : Nat → Mach
  | 0 => m
  | n + 1 =>
    let each := cyclesFor 18 (m.lk .ep p).rate
    let at_ := { m with epTime := { m.epTime with cycle := used } }
    if 875 < used + each ∨ !m.canSend .ep p 5 18 then m
    else
      match at_.epAdmits p (960 + m.planeOfPort p) none 18 with
      | some s => (m.zlySend p s).zlySends p (used + each) n
      | none => m

/-- While zly_test is 1, every port sends in its slots toward its plane. -/
def zlyTests (m : Mach) : Mach :=
  if m.epZlyOn && m.seenFld .ep Pg.eId F.ep4ZlyCtrl_zlyTest == 1 then
    (List.range m.epParams.ports).foldl (fun (m : Mach) p => if m.isUp .ep p then m.zlySends p 0 256 else m) m
  else m

/-! ## The boundary (R46) -/

/-- Lookups see the swapped tables, and units retired in the hem show no more than they did (R49, R540). -/
def armTables (m : Mach) (c : Chip) : Mach := m.setRf c { m.rf c with swapped := [] }

/-- Cycle 0 of a stitch of the SX-4: the always-on counter and STITCH_OUT go on without the core (R46, R583). -/
def sxBoundary (m : Mach) (phase : Int) (activity rail : Nat) : Mach :=
  let m := (m.advanceStitch phase).stitchPulseOut
  if m.boot.off then m
  else
    let m := (m.armTables .sx).freezeRetired
    let m := (m.powerTick activity rail).latchWeights.mapTick.sampleTick
    let m := { m.releaseOwed with liningFull := [] }
    (m.sleepTick .sx).linkBeats .sx

/-- Cycle 0 of a stitch of the EP-4. -/
def epBoundary (m : Mach) (phase : Int) : Mach :=
  let m := ((m.epAdvanceStitch phase).armTables .ep).rateRefill.applyClears
  (((m.sleepTick .ep).linkBeats .ep)).zlyTests

/-! ## The cut-off (R47, R53, R55) -/

/-- The cut-off of the SX-4: late Zelry packets and map batches are dropped, Cuff rounds examined, stall timers advance, an
epoch that ends is frozen, triple-stored copies are voted.  FREE and ACQUIRING close no epoch and have no open round
(R67). -/
def sxCutOff (m : Mach) : Mach :=
  if m.boot.off then m else
  let m := m.zlyLate.mapLate.stallTick
  let m := (m.cuff.map (·.1)).foldl (fun (m : Mach) g => m.cuffCutOff g) m
  let m := if m.timed ∧ m.time.number % 1024 = 1023 then m.mapFreeze else m
  let m := (List.range 6).foldl (fun (m : Mach) c => m.syncHot c) m
  m.gussetHem.scrubTmr .sx

/-! ## Copying a group (R541, R544) -/

/-- Words of a commit group whose shadow differs from live, in ascending item address. -/
def groupWords (m : Mach) (c : Chip) (g : Nat) : List Nat :=
  sortKeys (((m.rf c).shadow.map (·.1) ++ (m.rf c).live.map (·.1)).filter fun k =>
    (info m.epParams c k).group == g && m.shadow c k != m.liveCopy c k)

/-- Copy words from shadow to live. -/
def copyWords (m : Mach) (c : Chip) (ks : List Nat) : Mach := ks.foldl (fun (m : Mach) k => m.setLive c k (m.shadow c k)) m

/-- A field of a word's shadow. -/
def shadowFld (m : Mach) (c : Chip) (k : Nat) (f : Fld) : Nat := bitsOf (m.shadow c k).toNat f.lo f.w

/-- Whether any port of a chip is above S0 (R371, R560). -/
def anyAboveS0 (m : Mach) (c : Chip) : Bool :=
  (List.range (m.portCount c)).any fun p =>
    decide (1 ≤ (m.lk c p).step) && ((m.lk c p).st == .up || (m.lk c p).st == .climbing)

/-- Bits that a retirement word sets anew. -/
def newBits (m : Mach) (k n : Nat) : List Nat :=
  (List.range n).filter fun b => bitsOf (m.shadow .sx k).toNat b 1 == 1 && bitsOf (m.liveCopy .sx k).toNat b 1 == 0

/-! ## The groups of the SX-4 (R542) -/

/-- Group 0: CHP_NODE is left while a port is above S0 (R560); a change of role acts (R64). -/
def commitChip (m : Mach) : Mach :=
  let was := m.isSource
  let node := item Pg.chip 0 R.chpNode
  let ks := (m.groupWords .sx 0).filter fun k => k != node || !m.anyAboveS0 .sx
  (m.copyWords .sx ks).roleCommitted was

/-- A retirement word: its other bits are copied, and each new bit is refused HELD or applied (R189, R362, R457). -/
def commitRetire (m : Mach) (off n : Nat) (holds : Mach → Nat → List Nat) (retire : Mach → Nat → Mach) : Mach :=
  let k := item Pg.chip 0 off
  let bits : Word := BitVec.ofNat 32 (2 ^ n - 1)
  let new := m.newBits k n
  let m := m.setLive .sx k ((m.liveCopy .sx k &&& bits) ||| (m.shadow .sx k &&& ~~~bits))
  new.foldl (fun (m : Mach) b => if holds m b = [] then retire m b else m.heldRefused) m

/-- Group 1: tiles, then stacks. -/
def commitRetirements (m : Mach) : Mach :=
  (m.commitRetire R.chpTileRetire 18 tileHolds retireTile).commitRetire R.chpStackRetire 6 clusterHolds retireStack

/-- Group 4: a cluster's layout and shares apply when they pass (R348, R355). -/
def commitCluster (m : Mach) (ks : List Nat) (cl : Nat) : Mach :=
  let lay := item (Pg.cluster cl) 0 R.cluHbmLayout
  let sh := item (Pg.cluster cl) 0 R.cluHbmShare
  let badLay := ks.contains lay && !m.layoutOk cl (m.shadowFld .sx lay F.cluHbmLayout_liningUnits)
    (m.shadowFld .sx lay F.cluHbmLayout_spillUnits)
  let badSh := ks.contains sh && !shareOk (m.shadow .sx sh).toNat
  let mine := ks.filter fun k => itemPage k == Pg.cluster cl && !(badLay && k == lay) && !(badSh && k == sh)
  let m := m.copyWords .sx mine
  let m := if ks.contains lay || ks.contains sh then
      m.setFld .sx (Pg.cluster cl) F.cluHbmStatus_layoutErr (if badLay || badSh then 1 else 0) else m
  if badLay || badSh then
    m.raise .sx (Pg.cluster cl) 3 (m.readStatus .sx (item (Pg.cluster cl) 0 R.cluHbmStatus)).toNat
  else m

/-- The sum of the allocations that a port's shadow words give (R196). -/
def shadowAlloc (m : Mach) (p : Nat) : Nat :=
  sumOf ([R.prtCreditAlloc0, R.prtCreditAlloc1, R.prtCreditAlloc2] : List Nat) fun o =>
    let w := (m.shadow .sx (item (Pg.port p) 0 o)).toNat
    w % 65536 + w / 65536

/-- Group 5: a port's allocations apply together when they fit (R196); en acts at once (R504), but on a retired tile's port
(R540). -/
def commitPort (m : Mach) (ks : List Nat) (p : Nat) : Mach :=
  let alloc := ([R.prtCreditAlloc0, R.prtCreditAlloc1, R.prtCreditAlloc2] : List Nat).map fun o => item (Pg.port p) 0 o
  let named := ks.any alloc.contains
  let bad := named && decide (22528 < m.shadowAlloc p)
  let m := m.copyWords .sx (ks.filter fun k => itemPage k == Pg.port p && !(bad && alloc.contains k))
  let m := if named then m.setFld .sx (Pg.port p) F.prtCreditStatus_allocErr (if bad then 1 else 0) else m
  if m.out1.contains (p / 8) then m else m.linkEnable .sx p

/-! ### Zelry plans (R234) -/

/-- The lowest error code of a plan's slots 0 to `n` - 1 of period `per`; `slot s` is its slot word and `bad s` whether an
entry of it is wrong. -/
def planCode (per n : Nat) (slot : Nat → Nat) (bad : Nat → Bool) : Nat :=
  let start := fun s => bitsOf (slot s) 0 12
  let len := fun s => bitsOf (slot s) 12 8
  if per = 0 ∨ 64 < n then 1
  else if (List.range n).any (fun s => len s == 0 || decide (per < start s + len s)) then 2
  else if (List.range (n - 1)).any (fun s => decide (start (s + 1) < start s + len s)) then 3
  else if (List.range n).any bad then 4
  else 0

/-- Item address of a word of plan bank `b`. -/
def bankWord (b a : Nat) : Nat := item Pg.chip 3 (b * 0x8000 + a)

/-- The code of bank `b` as its shadow words give it. -/
def bankCode (m : Mach) (b : Nat) : Nat :=
  let w := fun a => (m.shadow .sx (bankWord b a)).toNat
  planCode (bitsOf (w 0) 0 12) (bitsOf (w 0) 12 7) (fun s => w (256 * (s + 1)))
    (fun s => (List.range 144).any fun o =>
      let src := bitsOf (w (256 * (s + 1) + 1 + o)) 0 8
      decide (144 ≤ src ∧ src ≤ 254))

/-- Group 6: each changed bank is validated; CHP_ZLY_CTRL is not applied with a rejected bank (R234, R249). -/
def commitZelry (m : Mach) : Mach :=
  let ks := m.groupWords .sx 6
  let ctrl := item Pg.chip 0 R.chpZlyCtrl
  let bankOf := fun (k : Nat) => itemOff k / 0x8000
  let inBank := fun (k : Nat) => itemSel k == 3
  let banks := [0, 1].filter fun b => ks.any fun k => inBank k && bankOf k == b
  let codes := banks.map fun b => (b, m.bankCode b)
  let rejected := codes.filter fun x => x.2 != 0
  let isBad := fun (b : Nat) => rejected.any fun x => x.1 == b
  let named := m.shadowFld .sx ctrl F.chpZlyCtrl_bank
  let m := m.copyWords .sx (ks.filter fun k => if inBank k then !isBad (bankOf k) else !isBad named)
  match rejected.getLast? with
  | some x =>
    let m := (m.setFld .sx Pg.chip F.chpZlyStatus_planErr 1).setFld .sx Pg.chip F.chpZlyStatus_errCode x.2
    m.raise .sx Pg.chip 1 (m.readStatus .sx (item Pg.chip 0 R.chpZlyStatus)).toNat
  | none => if banks = [] then m else m.setFld .sx Pg.chip F.chpZlyStatus_planErr 0

/-! ### Pleat, Cuff, power, Gusset (R263, R288, R315, R571, R602) -/

/-- Group 8. -/
def commitPleat (m : Mach) : Mach :=
  let ks := m.groupWords .sx 8
  let new := m.copyWords .sx ks
  let retired := (List.range 5).flatMap fun i =>
    let k := item Pg.pleat 0 (R.pltEngRetire0 + 4 * i)
    (m.newBits k (if i = 4 then 16 else 32)).map (32 * i + ·)
  retired.foldl (fun (m : Mach) e => m.raise .sx Pg.pleat 2 e) (new.pleatCommitted m ks)

/-- Group 9. -/
def commitCuff (m : Mach) : Mach :=
  let ks := m.groupWords .sx 9
  (m.copyWords .sx ks).cuffCommitted m ks

/-- Group 12. -/
def commitPower (m : Mach) : Mach := (m.copyWords .sx (m.groupWords .sx 12)).floorCommitted

/-- Group 14. -/
def commitGusset (m : Mach) : Mach :=
  let was := (List.range 8).map fun i => (i, m.pairValid i)
  let ks := m.groupWords .sx 14
  was.foldl
    (fun (m : Mach) x => if ks.contains (item Pg.gusset 1 x.1) then m.pairCommitted x.1 x.2 else m)
    (m.copyWords .sx ks)

/-! ### Optics (R514, R516, R520, R529) -/

/-- The engine whose ring words hold an item of an OCU page, and the ring. -/
def ringOf (k per : Nat) : Nat × Nat :=
  let i := itemOff k / per
  (4 * (itemPage k - Pg.ocu 0) + i / 32, i % 32)

/-- Whether an engine's dither frequencies would be wrong with its shadow words. -/
def ditherRefused (m : Mach) (e : Nat) : Bool :=
  m.ocuType e != 2 &&
    ditherBad ((List.range 32).map fun r => m.shadowFld .sx (item (ocuPage e) 1 (8 * ringIdx e r)) F.ring_ditherHz)

/-- Whether a ring's table would not ascend with its shadow words. -/
def tableRefused (m : Mach) (e r : Nat) : Bool :=
  tableBad ((List.range 8).map fun i =>
    signedOf (bitsOf (m.shadow .sx (item (ocuPage e) 2 (8 * ringIdx e r + i))).toNat 0 16) 16)

/-- Group 11: the ring words of an engine and the table of a ring apply when they pass; filters restart with a new length,
and ELS_ON follows laser_en. -/
def commitOptics (m : Mach) : Mach :=
  let old := m
  let ks := m.groupWords .sx 11
  let isRing := fun (k : Nat) => itemSel k == 1
  let isTab := fun (k : Nat) => itemSel k == 2
  let engines := ((ks.filter isRing).map fun k => (ringOf k 8).1).eraseDups
  let tables := ((ks.filter isTab).map fun k => ringOf k 8).eraseDups
  let noRing := engines.filter m.ditherRefused
  let noTab := tables.filter fun x => m.tableRefused x.1 x.2
  let m := m.copyWords .sx (ks.filter fun k =>
    !(isRing k && noRing.contains (ringOf k 8).1) && !(isTab k && noTab.contains (ringOf k 8)))
  let m := noRing.foldl (fun (m : Mach) e => m.raise .sx (ocuPage e) 3 (ocuDetail e 0 0)) m
  let m := noTab.foldl (fun (m : Mach) x => m.raise .sx (ocuPage x.1) 4 (ocuDetail x.1 (x.2 % 16 / 4) x.2)) m
  let m := (List.range 36).foldl
    (fun (m : Mach) e =>
      if m.filterLen e = old.filterLen e then m
      else (List.range 32).foldl (fun (m : Mach) r => m.filterRestart e r) m) m
  (List.range 18).foldl (fun (m : Mach) k => m.elsUpdate k) m

/-- One group of the SX-4.  Groups 15 to 31 are unassigned. -/
def commitGroupSx (m : Mach) (g : Nat) : Mach :=
  match g with
  | 0 => m.commitChip
  | 1 => m.commitRetirements
  | 4 => let ks := m.groupWords .sx 4; (List.range 6).foldl (fun (m : Mach) c => m.commitCluster ks c) m
  | 5 => let ks := m.groupWords .sx 5
         ((ks.map fun k => itemPage k - Pg.port 0).eraseDups).foldl (fun (m : Mach) p => m.commitPort ks p) m
  | 6 => m.commitZelry
  | 8 => m.commitPleat
  | 9 => m.commitCuff
  | 11 => m.commitOptics
  | 12 => m.commitPower
  | 14 => m.commitGusset
  | g => if g < 15 then m.copyWords .sx (m.groupWords .sx g) else m

/-! ## The groups of the EP-4 (R369) -/

/-- Group 0: EP4_NODE is rejected while a port is above S0 (R371). -/
def commitId (m : Mach) : Mach :=
  let ks := m.groupWords .ep 0
  let node := item Pg.eId 0 R.ep4Node
  let bad := ks.contains node && m.anyAboveS0 .ep
  let m := m.copyWords .ep (ks.filter fun k => !(bad && k == node))
  if bad then m.raise .ep Pg.eId 0 0 else m

/-- The code of a port's plan as its shadow words give it (R234, R397). -/
def epPlanCode (m : Mach) (p : Nat) : Nat :=
  let w := fun a => (m.shadow .ep (item (Pg.port p) 1 a)).toNat
  planCode (bitsOf (w 0) 0 12) (bitsOf (w 0) 12 7) (fun s => w (1 + s)) (fun _ => false)

/-- Group 3: ports, their plans and EP4_ZLY_CTRL. -/
def commitPorts (m : Mach) : Mach :=
  let ks := m.groupWords .ep 3
  let isPlan := fun (k : Nat) => itemSel k == 1
  let portOf := fun (k : Nat) => itemPage k - Pg.port 0
  let bad := (((ks.filter isPlan).map portOf).eraseDups).filter fun p => m.epPlanCode p != 0
  let m := m.copyWords .ep (ks.filter fun k => !(isPlan k && bad.contains (portOf k)))
  let m := bad.foldl (fun (m : Mach) p => m.raise .ep (Pg.port p) 10 0) m
  (List.range m.epParams.ports).foldl
    (fun (m : Mach) p => if ks.contains (item (Pg.port p) 0 R.prtLinkCtrl) then m.linkEnable .ep p else m) m

/-- One group of the EP-4; its group 2 holds Guard items only, which no commit touches (R449). -/
def commitGroupEp (m : Mach) (g : Nat) : Mach :=
  match g with
  | 0 => m.commitId
  | 3 => m.commitPorts
  | g => if g < 5 then m.copyWords .ep (m.groupWords .ep g) else m

/-! ## The commit (R544, R546, R49, R553) -/

/-- Tables and registers that a commit swaps for lookups: routes and Zelry plans, reach entries and port plans. -/
def swaps (c : Chip) (k : Nat) : Bool :=
  match c with
  | .sx => itemPage k == Pg.chip && (itemSel k == 2 || itemSel k == 3 || k == item Pg.chip 0 R.chpZlyCtrl
      || k == item Pg.chip 0 R.chpEpoch)
  | .ep => (itemPage k == Pg.eId && (itemSel k == 1 || k == item Pg.eId 0 R.ep4ZlyCtrl || k == item Pg.eId 0 R.ep4Epoch))
      || (decide (Pg.port 0 ≤ itemPage k ∧ itemPage k < Pg.port 16) && itemSel k == 1)

/-- Lookups see what stood before the commit until cycle 0 of the next stitch (R49). -/
def keepSwapped (m old : Mach) (c : Chip) : Mach :=
  let ks := sortKeys ((((m.rf c).live ++ (old.rf c).live ++ (m.rf c).word ++ (old.rf c).word).map (·.1)).filter fun k =>
    swaps c k && m.live c k != old.live c k)
  m.setRf c { m.rf c with swapped := ks.foldl (fun t k => Tbl.set (m.live c) t k (old.live c k)) (m.rf c).swapped }

/-- COMMIT_GEN, and the epochs when the request names one (R546). -/
def commitCount (m : Mach) (c : Chip) (epoch : Option Nat) : Mach :=
  let pg := byChip c Pg.chip Pg.eId
  let m := m.setReg c pg (byChip c R.chpCommitGen R.ep4CommitGen) ((m.commitGen c + 1) % 2 ^ 32)
  match epoch with
  | some e =>
    let off := byChip c R.chpEpoch R.ep4Epoch
    let m := m.setReg c pg off (e % 256 + m.reg c pg off % 256 * 256)
    m.setRf c { m.rf c with epochChanged := some (m.now c + 1) }
  | none => m

/-- The named groups, one after another. -/
def commitGroups (m : Mach) (c : Chip) (mask : Nat) : Mach :=
  ((List.range 32).filter fun g => bitsOf mask g 1 == 1).foldl
    (fun (m : Mach) g => match c with | .sx => m.commitGroupSx g | .ep => m.commitGroupEp g) m

/-- Writes held until after the copy land (R544). -/
def landHeld (m : Mach) (c : Chip) : Mach :=
  let ws := (m.rf c).held
  ws.foldl (fun (m : Mach) w => m.shadowLand c w.1 w.2) (m.setRf c { m.rf c with held := [] })

/-- The commit hem of a chip: any Guard commit that is due, then the commit that is due. -/
def commitHem (m : Mach) (c : Chip) : Mach :=
  let m := m.guardCommit c
  match (m.rf c).commit with
  | none => m
  | some q =>
    if m.dueNow c q.named q.at_ then
      let old := m
      let m := m.setRf c { m.rf c with commit := none }
      let m := ((m.commitGroups c q.mask).commitCount c q.epoch).keepSwapped old c
      let m := m.landHeld c
      let m := if c = .sx then m.freezeRetired else m
      (m.traceCommit c (byChip c Pg.chip Pg.eId)).digestStart c
    else m

end Mach

/-! ## Meanings -/

/-- STITCH_BOUNDARY (R46): cycle 0 of the next stitch of a chip, with the phase error measured over the stitch that ended,
the activity sum and the core-rail power of that stitch (R572). -/
def execStitchBoundary (c : Chip) (phase : Int) (activity rail : Nat) (s : State) : Host.Outcome State Fault Refusal :=
  match c with
  | .sx => s.go fun m => m.sxBoundary phase activity rail
  | .ep => s.epGoM fun m => m.epBoundary phase

/-- HEM_CUT_OFF (R47, R53): cycle 840 of the stitch in progress. -/
def execHemCutOff (c : Chip) (s : State) : Host.Outcome State Fault Refusal :=
  match c with
  | .sx => s.go Mach.sxCutOff
  | .ep => s.epGoM fun m => m.scrubTmr .ep

/-- COMMIT_APPLY (R544 to R546): in the commit hem the named groups are validated and copied. -/
def execCommitApply (c : Chip) (s : State) : Host.Outcome State Fault Refusal :=
  match c with
  | .sx => s.go fun m => m.commitHem .sx
  | .ep => s.epGoM fun m => m.commitHem .ep

end Sys2Proof.Machine
end

