-- ==== Sys2Proof/Machine/Dispatch.lean ====
section
/-! DEFINITION. The dispatch: one arm for each command, each one direct call of that command's meaning. -/

namespace Sys2Proof.Machine
open Sys2Proof

/-- The effect of one command on everything but the queue. -/
def exec (i : Instr) (s : State) : Host.Outcome State Fault Refusal :=
  match i with
  | .powerOnReset => Sys2Proof.Machine.execPowerOnReset s
  | .coreReset byPin => Sys2Proof.Machine.execCoreReset byPin s
  | .coreSupplyLoss => Sys2Proof.Machine.execCoreSupplyLoss s
  | .bootPhaseEnd ms => Sys2Proof.Machine.execBootPhaseEnd ms s
  | .bootPhaseLimit ms failed => Sys2Proof.Machine.execBootPhaseLimit ms failed s
  | .stitchBoundary c phase activity rail => Sys2Proof.Machine.execStitchBoundary c phase activity rail s
  | .hemCutOff c => Sys2Proof.Machine.execHemCutOff c s
  | .commitApply c => Sys2Proof.Machine.execCommitApply c s
  | .stitchInFrame pulses => Sys2Proof.Machine.execStitchInFrame pulses s
  | .stitchEdgeMissing => Sys2Proof.Machine.execStitchEdgeMissing s
  | .stitchLock c => Sys2Proof.Machine.execStitchLock c s
  | .stitchHoldoverExpired c => Sys2Proof.Machine.execStitchHoldoverExpired c s
  | .stitchOrderedSet c port number tRx tTx rxTime => Sys2Proof.Machine.execStitchOrderedSet c port number tRx tTx rxTime s
  | .ep4StitchSilence => Sys2Proof.Machine.execEp4StitchSilence s
  | .dataFlit c port flit => Sys2Proof.Machine.execDataFlit c port flit s
  | .idleFlit c port flit => Sys2Proof.Machine.execIdleFlit c port flit s
  | .replayTimeout c port => Sys2Proof.Machine.execReplayTimeout c port s
  | .flitLockLoss c port => Sys2Proof.Machine.execFlitLockLoss c port s
  | .cap c port msg => Sys2Proof.Machine.execCap c port msg s
  | .stepRequest c port step fec => Sys2Proof.Machine.execStepRequest c port step fec s
  | .stepAccept c port step fec => Sys2Proof.Machine.execStepAccept c port step fec s
  | .stepRefuse c port step => Sys2Proof.Machine.execStepRefuse c port step s
  | .eqPreset c port lane preset => Sys2Proof.Machine.execEqPreset c port lane preset s
  | .eqAdjust c port lane requests => Sys2Proof.Machine.execEqAdjust c port lane requests s
  | .eqDone c port lane => Sys2Proof.Machine.execEqDone c port lane s
  | .eqFail c port lane => Sys2Proof.Machine.execEqFail c port lane s
  | .check c port mask step => Sys2Proof.Machine.execCheck c port mask step s
  | .active c port step mask => Sys2Proof.Machine.execActive c port step mask s
  | .keepalive c port epoch node => Sys2Proof.Machine.execKeepalive c port epoch node s
  | .sleep c port depth => Sys2Proof.Machine.execSleep c port depth s
  | .laneNarrow c port mask => Sys2Proof.Machine.execLaneNarrow c port mask s
  | .laneAccept c port mask => Sys2Proof.Machine.execLaneAccept c port mask s
  | .laneWiden c port mask => Sys2Proof.Machine.execLaneWiden c port mask s
  | .laneRefuse c port mask => Sys2Proof.Machine.execLaneRefuse c port mask s
  | .stepLockTimeout c port => Sys2Proof.Machine.execStepLockTimeout c port s
  | .eqTimeout c port => Sys2Proof.Machine.execEqTimeout c port s
  | .checkWindowEnd c port mask => Sys2Proof.Machine.execCheckWindowEnd c port mask s
  | .trainingRetry c port => Sys2Proof.Machine.execTrainingRetry c port s
  | .trainingRepeat c port => Sys2Proof.Machine.execTrainingRepeat c port s
  | .laneFailure c port lane => Sys2Proof.Machine.execLaneFailure c port lane s
  | .laneRecalibrate chiplet lane => Sys2Proof.Machine.execLaneRecalibrate chiplet lane s
  | .laneRecalComplete chiplet passed => Sys2Proof.Machine.execLaneRecalComplete chiplet passed s
  | .lightSleepEntry c port => Sys2Proof.Machine.execLightSleepEntry c port s
  | .deepSleepEntry c port => Sys2Proof.Machine.execDeepSleepEntry c port s
  | .wake c port => Sys2Proof.Machine.execWake c port s
  | .marginMeasure lane upper mid lower width => Sys2Proof.Machine.execMarginMeasure lane upper mid lower width s
  | .ordinaryPacket port pkt => Sys2Proof.Machine.execOrdinaryPacket port pkt s
  | .admissionDecision input output vc => Sys2Proof.Machine.execAdmissionDecision input output vc s
  | .admitWaiting cluster => Sys2Proof.Machine.execAdmitWaiting cluster s
  | .cellSlot voided => Sys2Proof.Machine.execCellSlot voided s
  | .ctClaim input output vc => Sys2Proof.Machine.execCtClaim input output vc s
  | .ctGrant input output vc => Sys2Proof.Machine.execCtGrant input output vc s
  | .packetTransmit port => Sys2Proof.Machine.execPacketTransmit port s
  | .cutThroughStomp port => Sys2Proof.Machine.execCutThroughStomp port s
  | .reseqTimeout tile flow => Sys2Proof.Machine.execReseqTimeout tile flow s
  | .tileRetireStage2 => Sys2Proof.Machine.execTileRetireStage2 s
  | .d2dModuleFailure module => Sys2Proof.Machine.execD2dModuleFailure module s
  | .d2dModuleRetire => Sys2Proof.Machine.execD2dModuleRetire s
  | .liningWriteDone pid => Sys2Proof.Machine.execLiningWriteDone pid s
  | .liningReadbackStart output vc => Sys2Proof.Machine.execLiningReadbackStart output vc s
  | .liningReadbackDone pid uncorrectable => Sys2Proof.Machine.execLiningReadbackDone pid uncorrectable s
  | .portHoldExpiry port => Sys2Proof.Machine.execPortHoldExpiry port s
  | .rcUpdate => Sys2Proof.Machine.execRcUpdate s
  | .mapBatchPush tile => Sys2Proof.Machine.execMapBatchPush tile s
  | .samplePush tile => Sys2Proof.Machine.execSamplePush tile s
  | .read c port pkt => Sys2Proof.Machine.execRead c port pkt s
  | .write c port pkt => Sys2Proof.Machine.execWrite c port pkt s
  | .flagWrite c port pkt => Sys2Proof.Machine.execFlagWrite c port pkt s
  | .atomic c port pkt => Sys2Proof.Machine.execAtomic c port pkt s
  | .atomicPosted c port pkt => Sys2Proof.Machine.execAtomicPosted c port pkt s
  | .syncWait c port pkt => Sys2Proof.Machine.execSyncWait c port pkt s
  | .syncWaitExpiry => Sys2Proof.Machine.execSyncWaitExpiry s
  | .parkedRequestResume cluster => Sys2Proof.Machine.execParkedRequestResume cluster s
  | .poolPartDone rid part corrected lost => Sys2Proof.Machine.execPoolPartDone rid part corrected lost s
  | .readData port pkt => Sys2Proof.Machine.execReadData port pkt s
  | .writeAck port pkt => Sys2Proof.Machine.execWriteAck port pkt s
  | .atomicData port pkt => Sys2Proof.Machine.execAtomicData port pkt s
  | .atomicAck port pkt => Sys2Proof.Machine.execAtomicAck port pkt s
  | .syncNotify port pkt => Sys2Proof.Machine.execSyncNotify port pkt s
  | .nack port pkt => Sys2Proof.Machine.execNack port pkt s
  | .pltContrib tile pkt => Sys2Proof.Machine.execPltContrib tile pkt s
  | .pltShard tile pkt => Sys2Proof.Machine.execPltShard tile pkt s
  | .pltResult port pkt => Sys2Proof.Machine.execPltResult port pkt s
  | .chunkComplete group pass index => Sys2Proof.Machine.execChunkComplete group pass index s
  | .resultRelease group => Sys2Proof.Machine.execResultRelease group s
  | .pleatSpill cluster => Sys2Proof.Machine.execPleatSpill cluster s
  | .spillReadback group pass index uncorrectable => Sys2Proof.Machine.execSpillReadback group pass index uncorrectable s
  | .groupResidency => Sys2Proof.Machine.execGroupResidency s
  | .chunkStall group pass index => Sys2Proof.Machine.execChunkStall group pass index s
  | .groupRearm bucket group => Sys2Proof.Machine.execGroupRearm bucket group s
  | .groupRearmApply => Sys2Proof.Machine.execGroupRearmApply s
  | .bktSend tile pkt => Sys2Proof.Machine.execBktSend tile pkt s
  | .bucketComplete group bucket pass => Sys2Proof.Machine.execBucketComplete group bucket pass s
  | .bktDeliver port pkt => Sys2Proof.Machine.execBktDeliver port pkt s
  | .bktDropmap port pkt => Sys2Proof.Machine.execBktDropmap port pkt s
  | .cufContrib port pkt x => Sys2Proof.Machine.execCufContrib port pkt x s
  | .cuffRoundClose group => Sys2Proof.Machine.execCuffRoundClose group s
  | .cuffCopySend port => Sys2Proof.Machine.execCuffCopySend port s
  | .cufResult port pkt => Sys2Proof.Machine.execCufResult port pkt s
  | .cuffRearm group => Sys2Proof.Machine.execCuffRearm group s
  | .cuffRearmApply => Sys2Proof.Machine.execCuffRearmApply s
  | .cuffCounterClear group => Sys2Proof.Machine.execCuffCounterClear group s
  | .mgtRead c port pkt => Sys2Proof.Machine.execMgtRead c port pkt s
  | .mgtWrite c port pkt => Sys2Proof.Machine.execMgtWrite c port pkt s
  | .mgtData c port pkt => Sys2Proof.Machine.execMgtData c port pkt s
  | .mgtAck c port pkt => Sys2Proof.Machine.execMgtAck c port pkt s
  | .pfault port pkt => Sys2Proof.Machine.execPfault port pkt s
  | .contextAbortDone ctx => Sys2Proof.Machine.execContextAbortDone ctx s
  | .pfaultFromEndpoint port pkt => Sys2Proof.Machine.execPfaultFromEndpoint port pkt s
  | .zlyTest port pkt => Sys2Proof.Machine.execZlyTest port pkt s
  | .ctxDoorbell ctx value path => Sys2Proof.Machine.execCtxDoorbell ctx value path s
  | .doorbell ctx ring value path => Sys2Proof.Machine.execDoorbell ctx ring value path s
  | .descriptorTake engine status => Sys2Proof.Machine.execDescriptorTake engine status s
  | .nop engine slot => Sys2Proof.Machine.execNop engine slot s
  | .fence engine slot => Sys2Proof.Machine.execFence engine slot s
  | .put engine slot => Sys2Proof.Machine.execPut engine slot s
  | .get engine slot => Sys2Proof.Machine.execGet engine slot s
  | .prefetch engine slot => Sys2Proof.Machine.execPrefetch engine slot s
  | .invalidate engine slot => Sys2Proof.Machine.execInvalidate engine slot s
  | .descAtomic engine slot => Sys2Proof.Machine.execDescAtomic engine slot s
  | .descAtomicPosted engine slot => Sys2Proof.Machine.execDescAtomicPosted engine slot s
  | .descSyncWait engine slot => Sys2Proof.Machine.execDescSyncWait engine slot s
  | .localCopy engine slot => Sys2Proof.Machine.execLocalCopy engine slot s
  | .hostCopy engine slot => Sys2Proof.Machine.execHostCopy engine slot s
  | .mgt engine slot => Sys2Proof.Machine.execMgt engine slot s
  | .pltSend engine slot => Sys2Proof.Machine.execPltSend engine slot s
  | .descBktSend engine slot => Sys2Proof.Machine.execDescBktSend engine slot s
  | .cufSend engine slot => Sys2Proof.Machine.execCufSend engine slot s
  | .cufSendStart engine slot => Sys2Proof.Machine.execCufSendStart engine slot s
  | .collRecv engine slot => Sys2Proof.Machine.execCollRecv engine slot s
  | .flaggedStoreRelease engine stream => Sys2Proof.Machine.execFlaggedStoreRelease engine stream s
  | .mpResponse tag status => Sys2Proof.Machine.execMpResponse tag status s
  | .completionWrite engine slot => Sys2Proof.Machine.execCompletionWrite engine slot s
  | .notifyReady => Sys2Proof.Machine.execNotifyReady s
  | .contextFaultClear ctx => Sys2Proof.Machine.execContextFaultClear ctx s
  | .tagQuarantineExpiry tag => Sys2Proof.Machine.execTagQuarantineExpiry tag s
  | .sessionKeyLoad ctx value path => Sys2Proof.Machine.execSessionKeyLoad ctx value path s
  | .contextScrubDone ctx => Sys2Proof.Machine.execContextScrubDone ctx s
  | .guardStage c path page sel address value => Sys2Proof.Machine.execGuardStage c path page sel address value s
  | .guardSeal c path x => Sys2Proof.Machine.execGuardSeal c path x s
  | .guardAbort c path => Sys2Proof.Machine.execGuardAbort c path s
  | .guardApprove c path value x => Sys2Proof.Machine.execGuardApprove c path value x s
  | .guardExpiry c => Sys2Proof.Machine.execGuardExpiry c s
  | .guardCommit c => Sys2Proof.Machine.execGuardCommit c s
  | .relayGo path value => Sys2Proof.Machine.execRelayGo path value s
  | .relayTimeout => Sys2Proof.Machine.execRelayTimeout s
  | .tornKey => Sys2Proof.Machine.execTornKey s
  | .downstreamFrame engine => Sys2Proof.Machine.execDownstreamFrame engine s
  | .upstreamFrame engine frame => Sys2Proof.Machine.execUpstreamFrame engine frame s
  | .oeLos engine pair => Sys2Proof.Machine.execOeLos engine pair s
  | .probePulse engine pair => Sys2Proof.Machine.execProbePulse engine pair s
  | .openGraceEnd engine pair => Sys2Proof.Machine.execOpenGraceEnd engine pair s
  | .handshakeTimeout engine pair => Sys2Proof.Machine.execHandshakeTimeout engine pair s
  | .ocuCapture ocu value => Sys2Proof.Machine.execOcuCapture ocu value s
  | .baselineCapture engine pair => Sys2Proof.Machine.execBaselineCapture engine pair s
  | .elsPoll module answer => Sys2Proof.Machine.execElsPoll module answer s
  | .elsFault module => Sys2Proof.Machine.execElsFault module s
  | .elsFaultClear module => Sys2Proof.Machine.execElsFaultClear module s
  | .elsLedgerMinute module => Sys2Proof.Machine.execElsLedgerMinute module s
  | .commitGo c value x => Sys2Proof.Machine.execCommitGo c value x s
  | .commitCancel c value x => Sys2Proof.Machine.execCommitCancel c value x s
  | .snapshotRequest c page value x => Sys2Proof.Machine.execSnapshotRequest c page value x s
  | .snapshotTake c => Sys2Proof.Machine.execSnapshotTake c s
  | .indAddrWrite c path page value => Sys2Proof.Machine.execIndAddrWrite c path page value s
  | .indFetchDone c path page => Sys2Proof.Machine.execIndFetchDone c path page s
  | .indDataRead c path page => Sys2Proof.Machine.execIndDataRead c path page s
  | .indDataWrite c path page value => Sys2Proof.Machine.execIndDataWrite c path page value s
  | .indTimeout c path page write => Sys2Proof.Machine.execIndTimeout c path page write s
  | .bitAliasWrite c path page offset value => Sys2Proof.Machine.execBitAliasWrite c path page offset value s
  | .pairLowRead c path page offset => Sys2Proof.Machine.execPairLowRead c path page offset s
  | .intForce c page value => Sys2Proof.Machine.execIntForce c page value s
  | .digestDone c => Sys2Proof.Machine.execDigestDone c s
  | .registerWrite c path page offset value x => Sys2Proof.Machine.execRegisterWrite c path page offset value x s
  | .i3cPrivateWrite bytes => Sys2Proof.Machine.execI3cPrivateWrite bytes s
  | .i3cPrivateRead count => Sys2Proof.Machine.execI3cPrivateRead count s
  | .voltageTrigger millivolts => Sys2Proof.Machine.execVoltageTrigger millivolts s
  | .pwrbrkN asserted => Sys2Proof.Machine.execPwrbrkN asserted s
  | .pwrbrkHold => Sys2Proof.Machine.execPwrbrkHold s
  | .shedRise => Sys2Proof.Machine.execShedRise s
  | .shedFall => Sys2Proof.Machine.execShedFall s
  | .selfRefreshEntry => Sys2Proof.Machine.execSelfRefreshEntry s
  | .calWindowEnd => Sys2Proof.Machine.execCalWindowEnd s
  | .thermalSample temps => Sys2Proof.Machine.execThermalSample temps s
  | .hbmTempReport temps => Sys2Proof.Machine.execHbmTempReport temps s
  | .clockGate kind unit => Sys2Proof.Machine.execClockGate kind unit s
  | .ungate kind unit => Sys2Proof.Machine.execUngate kind unit s
  | .blockReset kind unit => Sys2Proof.Machine.execBlockReset kind unit s
  | .gateRequestServe => Sys2Proof.Machine.execGateRequestServe s
  | .regionZeroingDone region => Sys2Proof.Machine.execRegionZeroingDone region s
  | .scrubRead stack outcome => Sys2Proof.Machine.execScrubRead stack outcome s
  | .hbmCeInterval stack => Sys2Proof.Machine.execHbmCeInterval stack s
  | .hbmStackFailure stack => Sys2Proof.Machine.execHbmStackFailure stack s
  | .hbmStackRetireHem => Sys2Proof.Machine.execHbmStackRetireHem s
  | .gussetWindowClose pair => Sys2Proof.Machine.execGussetWindowClose pair s
  | .chatterClear value => Sys2Proof.Machine.execChatterClear value s
  | .instanceReset => Sys2Proof.Machine.execInstanceReset s
  | .spillWriteDone group pass index => Sys2Proof.Machine.execSpillWriteDone group pass index s
  | .hostBusAnswer id ok data => Sys2Proof.Machine.execHostBusAnswer id ok data s
  | .resetNDeassertion => Sys2Proof.Machine.execResetNDeassertion s

end Sys2Proof.Machine
end

