-- ==== Sys2Proof/WellFormed.lean ====
section
/-! DEFINITION. Which commands are well formed: every operand lies in the range that its field, or the largest chip and
EP-4 instance that the spec allows, gives it.  Nothing here looks at a state: whether the instance at hand has the unit
is `Instr.unitsExist`. -/

namespace Sys2Proof

/-- A port that some chip of the spec has: 144 of the SX-4 (R19), at most 16 of an EP-4 (R367). -/
def portOk (c : Chip) (p : Nat) : Bool :=
  match c with
  | .sx => decide (p < 144)
  | .ep => decide (p < 16)

/-- A register word (R536). -/
def wordOk (v : Nat) : Bool := decide (v < 2 ^ 32)

/-- A cycle of a stitch (R45). -/
def cycleOk (x : Nat) : Bool := decide (x < 875)

/-- A path that reaches the registers of a chip (R434, R536): an SX-4 has its PCI Express port, an EP-4 its BAR0 and its
accelerator's register path (R370, R401). -/
def pathOk (c : Chip) (path : Path) : Bool :=
  match c, path with
  | .sx, .bar0 | .sx, .accel | .ep, .pcie => false
  | _, _ => true

/-- A time as STITCH carries it (R483): 1/64 cycles in [15:0], 0 to 55,999, the stitch number's low bits in [31:16]. -/
def timeOk (t : Nat) : Bool := decide (t < 2 ^ 32 ∧ t % 65536 < 56000)

/-- Ends and class of a flow of the switch core (R159): 174 inputs, 169 outputs, six classes. -/
def endsOk (input output vc : Nat) : Bool := decide (input < 174 ∧ output < 169 ∧ vc < 6)

/-- A unit of PWR_GATE_CTRL (R579): 18 tiles, 6 clusters, 6 stacks, 2 dies. -/
def gateOk (kind unit : Nat) : Bool :=
  decide ((kind = 0 ∧ unit < 18) ∨ (kind = 1 ∧ unit < 6) ∨ (kind = 2 ∧ unit < 6) ∨ (kind = 3 ∧ unit < 2))

/-- A unit that a boot phase tests (R585). -/
def BootUnit.wf : BootUnit → Bool
  | .tile t => decide (t < 18)
  | .cluster c => decide (c < 6)
  | .pleatEngine e => decide (e < 144)
  | .module m => decide (m < 32)
  | .stack s => decide (s < 6)

/-- A packet: whole granules on the link, and no more payload than they hold (R75). -/
def Packet.wf (p : Packet) : Bool :=
  decide (p.extent % 16 = 0) && decide (p.payload.length ≤ p.extent - 32)

/-- A flit carries fifteen granules (R476). -/
def Flit.wf (f : Flit) : Bool := decide (f.gran.length = 15)

/-- The fields of CAP in their widths (R483). -/
def CapMsg.wf (m : CapMsg) : Bool :=
  decide (m.node < 1024 ∧ m.maxStep < 256 ∧ m.lanes < 256 ∧ m.epoch < 256 ∧ m.version < 256)
    && decide (m.alloc.length = 6) && m.alloc.all fun a => decide (a < 65536)

/-- An ELS module's answer: an identity record of 32 bytes and 16 bits of bias current (R529). -/
def ElsRead.wf (a : ElsRead) : Bool := decide (a.identity.length = 32) && decide (a.bias < 65536)

/-- A well-formed command. -/
def Instr.wf : Instr → Bool
  | .powerOnReset => true
  | .coreReset _ => true
  | .coreSupplyLoss => true
  | .bootPhaseEnd _ => true
  | .bootPhaseLimit _ failed => failed.all BootUnit.wf
  | .stitchBoundary _ _ _ _ => true
  | .hemCutOff _ => true
  | .commitApply _ => true
  | .stitchInFrame pulses => decide (pulses.length ≤ 64)
  | .stitchEdgeMissing => true
  | .stitchLock _ => true
  | .stitchHoldoverExpired _ => true
  | .stitchOrderedSet c port number tRx tTx rxTime => portOk c port && decide (number < 2 ^ 64) && timeOk tRx && timeOk tTx && timeOk rxTime
  | .ep4StitchSilence => true
  | .dataFlit c port flit => portOk c port && flit.wf
  | .idleFlit c port flit => portOk c port && flit.wf
  | .replayTimeout c port => portOk c port
  | .flitLockLoss c port => portOk c port
  | .cap c port msg => portOk c port && msg.wf
  | .stepRequest c port step fec => portOk c port && decide (step < 256) && decide (fec < 256)
  | .stepAccept c port step fec => portOk c port && decide (step < 256) && decide (fec < 256)
  | .stepRefuse c port step => portOk c port && decide (step < 256)
  | .eqPreset c port lane preset => portOk c port && decide (lane < 256) && decide (preset < 256)
  | .eqAdjust c port lane requests => portOk c port && decide (lane < 256) && decide (requests.length = 5) && requests.all fun r => decide (r < 256)
  | .eqDone c port lane => portOk c port && decide (lane < 256)
  | .eqFail c port lane => portOk c port && decide (lane < 256)
  | .check c port mask step => portOk c port && decide (mask < 256) && decide (step < 256)
  | .active c port step mask => portOk c port && decide (step < 256) && decide (mask < 256)
  | .keepalive c port epoch node => portOk c port && decide (epoch < 256) && decide (node < 1024)
  | .sleep c port depth => portOk c port && decide (depth = 1 ∨ depth = 2)
  | .laneNarrow c port mask => portOk c port && decide (mask < 256)
  | .laneAccept c port mask => portOk c port && decide (mask < 256)
  | .laneWiden c port mask => portOk c port && decide (mask < 256)
  | .laneRefuse c port mask => portOk c port && decide (mask < 256)
  | .stepLockTimeout c port => portOk c port
  | .eqTimeout c port => portOk c port
  | .checkWindowEnd c port mask => portOk c port && decide (mask < 256)
  | .trainingRetry c port => portOk c port
  | .trainingRepeat c port => portOk c port
  | .laneFailure c port lane => portOk c port && decide (lane < 4)
  | .laneRecalibrate chiplet lane => decide (chiplet < 4 ∧ lane < 144)
  | .laneRecalComplete chiplet _ => decide (chiplet < 4)
  | .lightSleepEntry c port => portOk c port
  | .deepSleepEntry c port => portOk c port
  | .wake c port => portOk c port
  | .marginMeasure lane _ _ _ _ => decide (lane < 576)
  | .ordinaryPacket port pkt => portOk .sx port && pkt.wf
  | .admissionDecision input output vc => endsOk input output vc
  | .admitWaiting cluster => decide (cluster < 6)
  | .cellSlot _ => true
  | .ctClaim input output vc => endsOk input output vc
  | .ctGrant input output vc => endsOk input output vc
  | .packetTransmit port => portOk .sx port
  | .cutThroughStomp port => portOk .sx port
  | .reseqTimeout tile _ => decide (tile < 18)
  | .tileRetireStage2 => true
  | .d2dModuleFailure module => decide (module < 32)
  | .d2dModuleRetire => true
  | .liningWriteDone _ => true
  | .liningReadbackStart output vc => endsOk 0 output vc
  | .liningReadbackDone _ _ => true
  | .portHoldExpiry port => portOk .sx port
  | .rcUpdate => true
  | .mapBatchPush tile => decide (tile < 18)
  | .samplePush tile => decide (tile < 18)
  | .read c port pkt => portOk c port && pkt.wf
  | .write c port pkt => portOk c port && pkt.wf
  | .flagWrite c port pkt => portOk c port && pkt.wf
  | .atomic c port pkt => portOk c port && pkt.wf
  | .atomicPosted c port pkt => portOk c port && pkt.wf
  | .syncWait c port pkt => portOk c port && pkt.wf
  | .syncWaitExpiry => true
  | .parkedRequestResume cluster => decide (cluster < 6)
  | .poolPartDone _ _ _ _ => true
  | .readData port pkt => portOk .ep port && pkt.wf
  | .writeAck port pkt => portOk .ep port && pkt.wf
  | .atomicData port pkt => portOk .ep port && pkt.wf
  | .atomicAck port pkt => portOk .ep port && pkt.wf
  | .syncNotify port pkt => portOk .ep port && pkt.wf
  | .nack port pkt => portOk .ep port && pkt.wf
  | .pltContrib tile pkt => decide (tile < 18) && pkt.wf
  | .pltShard tile pkt => decide (tile < 18) && pkt.wf
  | .pltResult port pkt => portOk .ep port && pkt.wf
  | .chunkComplete group _ _ => decide (group < 8192)
  | .resultRelease group => decide (group < 8192)
  | .pleatSpill cluster => decide (cluster < 6)
  | .spillReadback group _ _ _ => decide (group < 9216)
  | .groupResidency => true
  | .chunkStall group _ _ => decide (group < 9216)
  | .groupRearm bucket group => decide (group < if bucket then 1024 else 8192)
  | .groupRearmApply => true
  | .bktSend tile pkt => decide (tile < 18) && pkt.wf
  | .bucketComplete group _ _ => decide (group < 1024)
  | .bktDeliver port pkt => portOk .ep port && pkt.wf
  | .bktDropmap port pkt => portOk .ep port && pkt.wf
  | .cufContrib port pkt x => portOk .sx port && pkt.wf && cycleOk x
  | .cuffRoundClose group => decide (group < 512)
  | .cuffCopySend port => portOk .sx port
  | .cufResult port pkt => portOk .ep port && pkt.wf
  | .cuffRearm group => decide (group < 512)
  | .cuffRearmApply => true
  | .cuffCounterClear group => decide (group < 512)
  | .mgtRead c port pkt => portOk c port && pkt.wf
  | .mgtWrite c port pkt => portOk c port && pkt.wf
  | .mgtData c port pkt => portOk c port && pkt.wf
  | .mgtAck c port pkt => portOk c port && pkt.wf
  | .pfault port pkt => portOk .ep port && pkt.wf
  | .contextAbortDone ctx => decide (ctx < 1024)
  | .pfaultFromEndpoint port pkt => portOk .sx port && pkt.wf
  | .zlyTest port pkt => portOk .sx port && pkt.wf
  | .ctxDoorbell ctx value path => decide (ctx < 1024) && wordOk value && pathOk .sx path
  | .doorbell ctx ring value path => decide (ctx < 1024) && decide (ring < 32) && wordOk value && pathOk .ep path
  | .descriptorTake engine status => decide (engine < 32) && decide (status < 4)
  | .nop engine slot => decide (engine < 32 ∧ slot < 64)
  | .fence engine slot => decide (engine < 32 ∧ slot < 64)
  | .put engine slot => decide (engine < 32 ∧ slot < 64)
  | .get engine slot => decide (engine < 32 ∧ slot < 64)
  | .prefetch engine slot => decide (engine < 32 ∧ slot < 64)
  | .invalidate engine slot => decide (engine < 32 ∧ slot < 64)
  | .descAtomic engine slot => decide (engine < 32 ∧ slot < 64)
  | .descAtomicPosted engine slot => decide (engine < 32 ∧ slot < 64)
  | .descSyncWait engine slot => decide (engine < 32 ∧ slot < 64)
  | .localCopy engine slot => decide (engine < 32 ∧ slot < 64)
  | .hostCopy engine slot => decide (engine < 32 ∧ slot < 64)
  | .mgt engine slot => decide (engine < 32 ∧ slot < 64)
  | .pltSend engine slot => decide (engine < 32 ∧ slot < 64)
  | .descBktSend engine slot => decide (engine < 32 ∧ slot < 64)
  | .cufSend engine slot => decide (engine < 32 ∧ slot < 64)
  | .cufSendStart engine slot => decide (engine < 32 ∧ slot < 64)
  | .collRecv engine slot => decide (engine < 32 ∧ slot < 64)
  | .flaggedStoreRelease engine stream => decide (engine < 32) && decide (stream < 64)
  | .mpResponse _ status => decide (status < 4)
  | .completionWrite engine slot => decide (engine < 32 ∧ slot < 64)
  | .notifyReady => true
  | .contextFaultClear ctx => decide (ctx < 1024)
  | .tagQuarantineExpiry _ => true
  | .sessionKeyLoad ctx value path => decide (ctx < 1024) && wordOk value && pathOk .ep path
  | .contextScrubDone ctx => decide (ctx < 1024)
  | .guardStage c path page sel address value => decide (page < 2048 ∧ sel < 16 ∧ address < 2 ^ 44) && pathOk c path && wordOk value
  | .guardSeal c path x => pathOk c path && cycleOk x
  | .guardAbort c path => pathOk c path
  | .guardApprove c path value x => pathOk c path && decide (value < 2 ^ 64) && cycleOk x
  | .guardExpiry _ => true
  | .guardCommit _ => true
  | .relayGo path value => pathOk .sx path && wordOk value
  | .relayTimeout => true
  | .tornKey => true
  | .downstreamFrame engine => decide (engine < 36)
  | .upstreamFrame engine _ => decide (engine < 36)
  | .oeLos engine pair => decide (engine < 36) && decide (pair < 4)
  | .probePulse engine pair => decide (engine < 36) && decide (pair < 4)
  | .openGraceEnd engine pair => decide (engine < 36) && decide (pair < 4)
  | .handshakeTimeout engine pair => decide (engine < 36) && decide (pair < 4)
  | .ocuCapture ocu value => decide (ocu < 9) && wordOk value
  | .baselineCapture engine pair => decide (engine < 36) && decide (pair < 4)
  | .elsPoll module answer => decide (module < 18) && answer.all ElsRead.wf
  | .elsFault module => decide (module < 18)
  | .elsFaultClear module => decide (module < 18)
  | .elsLedgerMinute module => decide (module < 18)
  | .commitGo _ value x => wordOk value && cycleOk x
  | .commitCancel _ value x => wordOk value && cycleOk x
  | .snapshotRequest _ page value x => decide (page < 2048) && wordOk value && cycleOk x
  | .snapshotTake _ => true
  | .indAddrWrite c path page value => pathOk c path && decide (page < 2048) && wordOk value
  | .indFetchDone c path page => pathOk c path && decide (page < 2048)
  | .indDataRead c path page => pathOk c path && decide (page < 2048)
  | .indDataWrite c path page value => pathOk c path && decide (page < 2048) && wordOk value
  | .indTimeout c path page _ => pathOk c path && decide (page < 2048)
  | .bitAliasWrite c path page offset value => pathOk c path && decide (page < 2048) && decide (offset < 16384 ∧ offset % 4 = 0) && wordOk value
  | .pairLowRead c path page offset => pathOk c path && decide (page < 2048) && decide (offset < 16384 ∧ offset % 4 = 0)
  | .intForce _ page value => decide (page < 2048) && wordOk value
  | .digestDone _ => true
  | .registerWrite c path page offset value x => pathOk c path && decide (page < 2048) && decide (offset < 16384 ∧ offset % 4 = 0) && wordOk value && cycleOk x
  | .i3cPrivateWrite _ => true
  | .i3cPrivateRead _ => true
  | .voltageTrigger _ => true
  | .pwrbrkN _ => true
  | .pwrbrkHold => true
  | .shedRise => true
  | .shedFall => true
  | .selfRefreshEntry => true
  | .calWindowEnd => true
  | .thermalSample temps => decide (temps ≠ [])
  | .hbmTempReport temps => decide (temps ≠ [])
  | .clockGate kind unit => gateOk kind unit
  | .ungate kind unit => gateOk kind unit
  | .blockReset kind unit => gateOk kind unit
  | .gateRequestServe => true
  | .regionZeroingDone region => decide (region < 64)
  | .scrubRead stack outcome => decide (stack < 6) && decide (outcome < 3)
  | .hbmCeInterval stack => decide (stack < 6)
  | .hbmStackFailure stack => decide (stack < 6)
  | .hbmStackRetireHem => true
  | .gussetWindowClose pair => decide (pair < 8)
  | .chatterClear value => wordOk value
  | .instanceReset => true
  | .spillWriteDone group _ _ => decide (group < 9216)
  | .hostBusAnswer _ _ _ => true
  | .resetNDeassertion => true

end Sys2Proof
end

