-- ==== Sys2Proof/Safety.lean ====
section
/-! DEFINITION. When a command completes, and what completing leaves alone: the terms in which the statements speak of
safe runs. -/

namespace Sys2Proof
open Sys2Proof.Machine

/-- The units that a command names exist on the chips at hand.  Where this fails the command ends in `noSuchUnit`. -/
def Instr.unitsExist (m : Mach) : Instr → Bool
  | .powerOnReset => true
  | .coreReset _ => true
  | .coreSupplyLoss => true
  | .bootPhaseEnd _ => true
  | .bootPhaseLimit _ failed => failed.all bootUnitOk
  | .stitchBoundary _ _ _ _ => true
  | .hemCutOff _ => true
  | .commitApply _ => true
  | .stitchInFrame _ => true
  | .stitchEdgeMissing => true
  | .stitchLock _ => true
  | .stitchHoldoverExpired _ => true
  | .stitchOrderedSet c port _ _ _ _ => m.hasPort c port
  | .ep4StitchSilence => true
  | .dataFlit c port _ => m.hasPort c port
  | .idleFlit c port _ => m.hasPort c port
  | .replayTimeout c port => m.hasPort c port
  | .flitLockLoss c port => m.hasPort c port
  | .cap c port _ => m.hasPort c port
  | .stepRequest c port _ _ => m.hasPort c port
  | .stepAccept c port _ _ => m.hasPort c port
  | .stepRefuse c port _ => m.hasPort c port
  | .eqPreset c port _ _ => m.hasPort c port
  | .eqAdjust c port _ _ => m.hasPort c port
  | .eqDone c port _ => m.hasPort c port
  | .eqFail c port _ => m.hasPort c port
  | .check c port _ _ => m.hasPort c port
  | .active c port _ _ => m.hasPort c port
  | .keepalive c port _ _ => m.hasPort c port
  | .sleep c port _ => m.hasPort c port
  | .laneNarrow c port _ => m.hasPort c port
  | .laneAccept c port _ => m.hasPort c port
  | .laneWiden c port _ => m.hasPort c port
  | .laneRefuse c port _ => m.hasPort c port
  | .stepLockTimeout c port => m.hasPort c port
  | .eqTimeout c port => m.hasPort c port
  | .checkWindowEnd c port _ => m.hasPort c port
  | .trainingRetry c port => m.hasPort c port
  | .trainingRepeat c port => m.hasPort c port
  | .laneFailure c port _ => m.hasPort c port
  | .laneRecalibrate chiplet lane => decide (chiplet < 4 ∧ lane < 144)
  | .laneRecalComplete chiplet _ => decide (chiplet < 4)
  | .lightSleepEntry c port => m.hasPort c port
  | .deepSleepEntry c port => m.hasPort c port
  | .wake c port => m.hasPort c port
  | .marginMeasure lane _ _ _ _ => decide (lane < 576)
  | .ordinaryPacket port _ => m.hasPort .sx port
  | .admissionDecision input output vc => fabricEnds input output vc
  | .admitWaiting cluster => decide (cluster < 6)
  | .cellSlot _ => true
  | .ctClaim input output vc => fabricEnds input output vc
  | .ctGrant input output vc => fabricEnds input output vc
  | .packetTransmit port => m.hasPort .sx port
  | .cutThroughStomp port => m.hasPort .sx port
  | .reseqTimeout tile _ => decide (tile < 18)
  | .tileRetireStage2 => true
  | .d2dModuleFailure module => decide (module < 32)
  | .d2dModuleRetire => true
  | .liningWriteDone _ => true
  | .liningReadbackStart output vc => fabricEnds 0 output vc
  | .liningReadbackDone _ _ => true
  | .portHoldExpiry port => m.hasPort .sx port
  | .rcUpdate => true
  | .mapBatchPush tile => decide (tile < 18)
  | .samplePush tile => decide (tile < 18)
  | .read c port _ => m.hasPort c port
  | .write c port _ => m.hasPort c port
  | .flagWrite c port _ => m.hasPort c port
  | .atomic c port _ => m.hasPort c port
  | .atomicPosted c port _ => m.hasPort c port
  | .syncWait c port _ => m.hasPort c port
  | .syncWaitExpiry => true
  | .parkedRequestResume cluster => decide (cluster < 6)
  | .poolPartDone _ _ _ _ => true
  | .readData port _ => m.hasPort .ep port
  | .writeAck port _ => m.hasPort .ep port
  | .atomicData port _ => m.hasPort .ep port
  | .atomicAck port _ => m.hasPort .ep port
  | .syncNotify port _ => m.hasPort .ep port
  | .nack port _ => m.hasPort .ep port
  | .pltContrib tile _ => decide (tile < 18)
  | .pltShard tile _ => decide (tile < 18)
  | .pltResult port _ => m.hasPort .ep port
  | .chunkComplete group _ _ => decide (group < 8192)
  | .resultRelease group => decide (group < 8192)
  | .pleatSpill cluster => decide (cluster < 6)
  | .spillReadback group _ _ _ => decide (group < 9216)
  | .groupResidency => true
  | .chunkStall group _ _ => decide (group < 9216)
  | .groupRearm bucket group => decide (group < if bucket then 1024 else 8192)
  | .groupRearmApply => true
  | .bktSend tile _ => decide (tile < 18)
  | .bucketComplete group _ _ => decide (group < 1024)
  | .bktDeliver port _ => m.hasPort .ep port
  | .bktDropmap port _ => m.hasPort .ep port
  | .cufContrib port _ _ => m.hasPort .sx port
  | .cuffRoundClose group => decide (group < 512)
  | .cuffCopySend port => m.hasPort .sx port
  | .cufResult port _ => m.hasPort .ep port
  | .cuffRearm group => decide (group < 512)
  | .cuffRearmApply => true
  | .cuffCounterClear group => decide (group < 512)
  | .mgtRead c port _ => m.hasPort c port
  | .mgtWrite c port _ => m.hasPort c port
  | .mgtData c port _ => m.hasPort c port
  | .mgtAck c port _ => m.hasPort c port
  | .pfault port _ => m.hasPort .ep port
  | .contextAbortDone ctx => m.hasCtx ctx
  | .pfaultFromEndpoint port _ => m.hasPort .sx port
  | .zlyTest port _ => m.hasPort .sx port
  | .ctxDoorbell ctx _ _ => decide (ctx < 1024)
  | .doorbell ctx ring _ _ => m.hasCtx ctx && decide (ring < 32)
  | .descriptorTake engine _ => m.hasEng engine
  | .nop engine slot => m.hasSlot engine slot
  | .fence engine slot => m.hasSlot engine slot
  | .put engine slot => m.hasSlot engine slot
  | .get engine slot => m.hasSlot engine slot
  | .prefetch engine slot => m.hasSlot engine slot
  | .invalidate engine slot => m.hasSlot engine slot
  | .descAtomic engine slot => m.hasSlot engine slot
  | .descAtomicPosted engine slot => m.hasSlot engine slot
  | .descSyncWait engine slot => m.hasSlot engine slot
  | .localCopy engine slot => m.hasSlot engine slot
  | .hostCopy engine slot => m.hasSlot engine slot
  | .mgt engine slot => m.hasSlot engine slot
  | .pltSend engine slot => m.hasSlot engine slot
  | .descBktSend engine slot => m.hasSlot engine slot
  | .cufSend engine slot => m.hasSlot engine slot
  | .cufSendStart engine slot => m.hasSlot engine slot
  | .collRecv engine slot => m.hasSlot engine slot
  | .flaggedStoreRelease engine _ => m.hasEng engine
  | .mpResponse _ _ => true
  | .completionWrite engine slot => m.hasSlot engine slot
  | .notifyReady => true
  | .contextFaultClear ctx => m.hasCtx ctx
  | .tagQuarantineExpiry _ => true
  | .sessionKeyLoad ctx _ _ => m.hasCtx ctx
  | .contextScrubDone ctx => m.hasCtx ctx
  | .guardStage _ _ page sel address _ => itemOk page sel address
  | .guardSeal _ _ _ => true
  | .guardAbort _ _ => true
  | .guardApprove _ _ _ _ => true
  | .guardExpiry _ => true
  | .guardCommit _ => true
  | .relayGo _ _ => true
  | .relayTimeout => true
  | .tornKey => true
  | .downstreamFrame engine => decide (engine < 36)
  | .upstreamFrame engine _ => decide (engine < 36)
  | .oeLos engine pair => decide (engine < 36) && decide (pair < 4)
  | .probePulse engine pair => decide (engine < 36) && decide (pair < 4)
  | .openGraceEnd engine pair => decide (engine < 36) && decide (pair < 4)
  | .handshakeTimeout engine pair => decide (engine < 36) && decide (pair < 4)
  | .ocuCapture ocu _ => decide (ocu < 9)
  | .baselineCapture engine pair => decide (engine < 36) && decide (pair < 4)
  | .elsPoll module _ => decide (module < 18)
  | .elsFault module => decide (module < 18)
  | .elsFaultClear module => decide (module < 18)
  | .elsLedgerMinute module => decide (module < 18)
  | .commitGo _ _ _ => true
  | .commitCancel _ _ _ => true
  | .snapshotRequest c page _ _ => (pageKind m.epParams c page).isSome
  | .snapshotTake _ => true
  | .indAddrWrite _ _ _ _ => true
  | .indFetchDone _ _ _ => true
  | .indDataRead _ _ _ => true
  | .indDataWrite _ _ _ _ => true
  | .indTimeout _ _ _ _ => true
  | .bitAliasWrite _ _ _ _ _ => true
  | .pairLowRead _ _ _ _ => true
  | .intForce c page _ => (pageKind m.epParams c page).isSome
  | .digestDone _ => true
  | .registerWrite _ _ _ _ _ _ => true
  | .i3cPrivateWrite _ => true
  | .i3cPrivateRead _ => true
  | .voltageTrigger _ => true
  | .pwrbrkN _ => true
  | .pwrbrkHold => true
  | .shedRise => true
  | .shedFall => true
  | .selfRefreshEntry => true
  | .calWindowEnd => true
  | .thermalSample _ => true
  | .hbmTempReport _ => true
  | .clockGate kind unit => decide (unit < Mach.gateUnits kind)
  | .ungate kind unit => decide (unit < Mach.gateUnits kind)
  | .blockReset kind unit => decide (unit < Mach.gateUnits kind)
  | .gateRequestServe => true
  | .regionZeroingDone region => decide (region < 64)
  | .scrubRead stack _ => decide (stack < 6)
  | .hbmCeInterval stack => decide (stack < 6)
  | .hbmStackFailure stack => decide (stack < 6)
  | .hbmStackRetireHem => true
  | .gussetWindowClose pair => decide (pair < 8)
  | .chatterClear _ => true
  | .instanceReset => true
  | .spillWriteDone group _ _ => decide (group < 9216)
  | .hostBusAnswer _ _ _ => true
  | .resetNDeassertion => true

/-- Commands that may carry a register write chosen by their operands, and so may set a reserved write-only bit (R537). -/
def Instr.writesRegisters : Instr → Bool
  | .powerOnReset => false
  | .coreReset _ => false
  | .coreSupplyLoss => false
  | .bootPhaseEnd _ => false
  | .bootPhaseLimit _ _ => false
  | .stitchBoundary _ _ _ _ => false
  | .hemCutOff _ => false
  | .commitApply _ => false
  | .stitchInFrame _ => false
  | .stitchEdgeMissing => false
  | .stitchLock _ => false
  | .stitchHoldoverExpired _ => false
  | .stitchOrderedSet _ _ _ _ _ _ => false
  | .ep4StitchSilence => false
  | .dataFlit _ _ _ => false
  | .idleFlit _ _ _ => false
  | .replayTimeout _ _ => false
  | .flitLockLoss _ _ => false
  | .cap _ _ _ => false
  | .stepRequest _ _ _ _ => false
  | .stepAccept _ _ _ _ => false
  | .stepRefuse _ _ _ => false
  | .eqPreset _ _ _ _ => false
  | .eqAdjust _ _ _ _ => false
  | .eqDone _ _ _ => false
  | .eqFail _ _ _ => false
  | .check _ _ _ _ => false
  | .active _ _ _ _ => false
  | .keepalive _ _ _ _ => false
  | .sleep _ _ _ => false
  | .laneNarrow _ _ _ => false
  | .laneAccept _ _ _ => false
  | .laneWiden _ _ _ => false
  | .laneRefuse _ _ _ => false
  | .stepLockTimeout _ _ => false
  | .eqTimeout _ _ => false
  | .checkWindowEnd _ _ _ => false
  | .trainingRetry _ _ => false
  | .trainingRepeat _ _ => false
  | .laneFailure _ _ _ => false
  | .laneRecalibrate _ _ => false
  | .laneRecalComplete _ _ => false
  | .lightSleepEntry _ _ => false
  | .deepSleepEntry _ _ => false
  | .wake _ _ => false
  | .marginMeasure _ _ _ _ _ => false
  | .ordinaryPacket _ _ => false
  | .admissionDecision _ _ _ => false
  | .admitWaiting _ => false
  | .cellSlot _ => false
  | .ctClaim _ _ _ => false
  | .ctGrant _ _ _ => false
  | .packetTransmit _ => false
  | .cutThroughStomp _ => false
  | .reseqTimeout _ _ => false
  | .tileRetireStage2 => false
  | .d2dModuleFailure _ => false
  | .d2dModuleRetire => false
  | .liningWriteDone _ => false
  | .liningReadbackStart _ _ => false
  | .liningReadbackDone _ _ => false
  | .portHoldExpiry _ => false
  | .rcUpdate => false
  | .mapBatchPush _ => false
  | .samplePush _ => false
  | .read _ _ _ => false
  | .write _ _ _ => false
  | .flagWrite _ _ _ => false
  | .atomic _ _ _ => false
  | .atomicPosted _ _ _ => false
  | .syncWait _ _ _ => false
  | .syncWaitExpiry => false
  | .parkedRequestResume _ => false
  | .poolPartDone _ _ _ _ => false
  | .readData _ _ => false
  | .writeAck _ _ => false
  | .atomicData _ _ => false
  | .atomicAck _ _ => false
  | .syncNotify _ _ => false
  | .nack _ _ => false
  | .pltContrib _ _ => false
  | .pltShard _ _ => false
  | .pltResult _ _ => false
  | .chunkComplete _ _ _ => false
  | .resultRelease _ => false
  | .pleatSpill _ => false
  | .spillReadback _ _ _ _ => false
  | .groupResidency => false
  | .chunkStall _ _ _ => false
  | .groupRearm _ _ => false
  | .groupRearmApply => false
  | .bktSend _ _ => false
  | .bucketComplete _ _ _ => false
  | .bktDeliver _ _ => false
  | .bktDropmap _ _ => false
  | .cufContrib _ _ _ => false
  | .cuffRoundClose _ => false
  | .cuffCopySend _ => false
  | .cufResult _ _ => false
  | .cuffRearm _ => false
  | .cuffRearmApply => false
  | .cuffCounterClear _ => false
  | .mgtRead _ _ _ => true
  | .mgtWrite _ _ _ => true
  | .mgtData _ _ _ => false
  | .mgtAck _ _ _ => false
  | .pfault _ _ => false
  | .contextAbortDone _ => false
  | .pfaultFromEndpoint _ _ => false
  | .zlyTest _ _ => false
  | .ctxDoorbell _ _ _ => true
  | .doorbell _ _ _ _ => false
  | .descriptorTake _ _ => false
  | .nop _ _ => false
  | .fence _ _ => false
  | .put _ _ => false
  | .get _ _ => false
  | .prefetch _ _ => false
  | .invalidate _ _ => false
  | .descAtomic _ _ => false
  | .descAtomicPosted _ _ => false
  | .descSyncWait _ _ => false
  | .localCopy _ _ => false
  | .hostCopy _ _ => false
  | .mgt _ _ => false
  | .pltSend _ _ => false
  | .descBktSend _ _ => false
  | .cufSend _ _ => false
  | .cufSendStart _ _ => false
  | .collRecv _ _ => false
  | .flaggedStoreRelease _ _ => false
  | .mpResponse _ _ => false
  | .completionWrite _ _ => false
  | .notifyReady => false
  | .contextFaultClear _ => false
  | .tagQuarantineExpiry _ => false
  | .sessionKeyLoad _ _ _ => false
  | .contextScrubDone _ => false
  | .guardStage _ _ _ _ _ _ => false
  | .guardSeal _ _ _ => false
  | .guardAbort _ _ => false
  | .guardApprove _ _ _ _ => false
  | .guardExpiry _ => false
  | .guardCommit _ => false
  | .relayGo _ _ => false
  | .relayTimeout => false
  | .tornKey => false
  | .downstreamFrame _ => false
  | .upstreamFrame _ _ => false
  | .oeLos _ _ => false
  | .probePulse _ _ => false
  | .openGraceEnd _ _ => false
  | .handshakeTimeout _ _ => false
  | .ocuCapture _ _ => false
  | .baselineCapture _ _ => false
  | .elsPoll _ _ => false
  | .elsFault _ => false
  | .elsFaultClear _ => false
  | .elsLedgerMinute _ => false
  | .commitGo _ _ _ => false
  | .commitCancel _ _ _ => false
  | .snapshotRequest _ _ _ _ => false
  | .snapshotTake _ => false
  | .indAddrWrite _ _ _ _ => true
  | .indFetchDone _ _ _ => false
  | .indDataRead _ _ _ => false
  | .indDataWrite _ _ _ _ => true
  | .indTimeout _ _ _ _ => false
  | .bitAliasWrite _ _ _ _ _ => true
  | .pairLowRead _ _ _ _ => false
  | .intForce _ _ _ => false
  | .digestDone _ => false
  | .registerWrite _ _ _ _ _ _ => true
  | .i3cPrivateWrite _ => true
  | .i3cPrivateRead _ => false
  | .voltageTrigger _ => false
  | .pwrbrkN _ => false
  | .pwrbrkHold => false
  | .shedRise => false
  | .shedFall => false
  | .selfRefreshEntry => false
  | .calWindowEnd => false
  | .thermalSample _ => false
  | .hbmTempReport _ => false
  | .clockGate _ _ => false
  | .ungate _ _ => false
  | .blockReset _ _ => false
  | .gateRequestServe => false
  | .regionZeroingDone _ => false
  | .scrubRead _ _ => false
  | .hbmCeInterval _ => false
  | .hbmStackFailure _ => false
  | .hbmStackRetireHem => false
  | .gussetWindowClose _ => false
  | .chatterClear _ => true
  | .instanceReset => false
  | .spillWriteDone _ _ _ => false
  | .hostBusAnswer _ _ _ => false
  | .resetNDeassertion => false

namespace Machine

/-- A command completes in a state: it answers a next state. -/
def completes (c : Instr) (s : State) : Bool :=
  match exec c s with
  | .next _ => true
  | _ => false

/-- The byte memories are in their canonical form: addresses strictly rising, no byte listed that reads as unwritten. -/
def Store.wf (x : Store) : Bool := x.hbm.wf && x.loc.wf && x.scratch.wf

/-- The machine without its register files and without what it has driven: every other piece of its state.  Two machines
whose `bare` parts are equal differ in registers and outputs at most. -/
def Mach.bare (m : Mach) : Mach := { m with regs := {}, epRegs := {}, out := [] }

/-- An event's bit of a page's INT_STATUS (R555). -/
def Mach.event (m : Mach) (c : Chip) (page bit : Nat) : Bool :=
  bitsOf (m.word c (item page 0 R.intStatus)).toNat bit 1 == 1

/-- The words that raising an event of a page may write (R555, R609, R641): its INT_STATUS, its error log, the trace page. -/
def eventWord (page k : Nat) : Bool :=
  itemPage k == Pg.trace
    || (itemPage k == page && itemSel k == 0
        && [R.intStatus, R.errLog0, R.errLog1, R.errLog2, R.errLog3].contains (itemOff k))

/-- From `m` to `n`, the register file of a chip keeps everything but the one copy of non-RWS bits of the words `touched`
names, and the state of its interrupt request line. -/
def Mach.regsKept (m n : Mach) (c : Chip) (touched : Nat → Bool) : Prop :=
  n.rf c = { m.rf c with word := (n.rf c).word, requesting := (n.rf c).requesting }
    ∧ ∀ k, touched k = false → n.word c k = m.word c k

/-- The pulse of a symbol on STITCH_IN at its nominal interval and width (R58): 500 ns apart; 100, 200 or 300 ns wide. -/
def symbolPulse (b : Nat) : Pulse := ⟨500, 100 * (b + 1)⟩

/-- The frame that stitch `f` begins, as STITCH_OUT of the stitches `f` to `f + 63` carries it (R59). -/
def framePulses (f : Nat) : List (Option Pulse) :=
  (List.range 64).map fun i => some (symbolPulse (Mach.stitchSymbol (f + i)))

/-- The other of the two chips. -/
def otherChip : Chip → Chip
  | .sx => .ep
  | .ep => .sx

/-- `t` is `s` but for what `m` says of the machine outside the register files and outputs, and, in the register file of
chip `c`, the words that `touched` names: the frame of a command. -/
def State.becomes (s t : State) (m : Mach) (c : Chip) (touched : Nat → Bool) : Prop :=
  t.m.bare = m.bare ∧ s.m.regsKept t.m c touched ∧ t.m.rf (otherChip c) = s.m.rf (otherChip c)
    ∧ t.store = s.store ∧ t.pending = s.pending

/-- Neither the byte memories nor the queue changed. -/
def State.kept (s t : State) : Prop := t.store = s.store ∧ t.pending = s.pending

/-- No descriptor, packet or gathering of local data is in progress in the EP-4's engines. -/
def Mach.epIdle (m : Mach) : Prop := m.ep.slots = [] ∧ m.ep.tx = [] ∧ m.ep.fetch = []

/-- A port of a chip that exists, on an SX-4 whose core runs or an EP-4 whose engines have nothing in progress. -/
def Mach.portRuns (m : Mach) (c : Chip) (p : Nat) : Prop :=
  m.hasPort c p = true ∧ (c = .sx → m.boot.off = false) ∧ (c = .ep → m.epIdle)

/-- The words of an SX-4 port's four lanes in the lane tables (R505). -/
def laneWord (c : Chip) (p k : Nat) : Bool :=
  c == .sx && (List.range 32).any fun i => k == item (Pg.serdes (4 * p / 144)) 1 (8 * (4 * p % 144) + i)

/-- The preset and tap moves of one lane of the own transmitter (R493). -/
def Link.tapsOf (l : Link) (lane : Nat) : Option (List Int) := (l.taps.find? fun t => t.1 == lane).map (·.2)

/-- No word of the register file. -/
def noWord : Nat → Bool := fun _ => false

/-- One register of a port's page. -/
def portWord (p off k : Nat) : Bool := k == item (Pg.port p) 0 off

/-- A counter of a page stands one higher, or at its greatest value (R643). -/
def Mach.counted (m n : Mach) (c : Chip) (page off : Nat) : Prop :=
  (n.word c (item page 0 off)).toNat = min ((m.word c (item page 0 off)).toNat + 1) 0xFFFFFFFF

/-- A request for a target of the SX-4 waits whole at output `out`, one of `lo` to below `hi`, mapped as `map`, or comes at
its port directly while the switch is below shed level 4. -/
def Mach.atTarget (m : Mach) (lo hi : Nat) (x : Packet) (out : Nat) (map : Option PoolMap) : Prop :=
  match m.findAt lo hi x with
  | some h => heldWhole h = true ∧ h.output = out ∧ h.pool = map
  | none => m.shedLevel < 4

/-- The port by which such a request came, and the packets that are held when it has been taken. -/
def Mach.taken (m : Mach) (lo hi : Nat) (x : Packet) (port : Nat) : Nat × List Held :=
  match m.findAt lo hi x with
  | some h => (h.input, m.held.filter fun e => e.id != h.id)
  | none => (port, m.held)

/-- What is held when cluster `cl` has taken a request and answered it with the packets `ps`. -/
def Mach.heldWith (m : Mach) (o : Nat × List Held) (cl : Nat) (ps : List Packet) : List Held :=
  o.2 ++ ps.mapIdx fun i p => { id := m.nextId + i, pkt := p, input := 162 + cl, output := o.1, arrived := p.granules }

/-- The command by which a VC0 request reaches its target. -/
def requestInstr (c : Chip) (port : Nat) (x : Packet) : Option Instr :=
  if x.opcode = Op.read then some (.read c port x)
  else if x.opcode = Op.write then some (.write c port x)
  else if x.opcode = Op.flagWrite then some (.flagWrite c port x)
  else if x.opcode = Op.atomic then some (.atomic c port x)
  else if x.opcode = Op.atomicPosted then some (.atomicPosted c port x)
  else if x.opcode = Op.syncWait then some (.syncWait c port x)
  else none

/-- What the chips have driven, newest first, but for their interrupt requests, which the interrupt pages decide. -/
def Mach.driven (m : Mach) : List Out := m.out.filter fun o => match o with | .irq _ _ => false | _ => true

/-- One register of a page. -/
def pageWord (page off k : Nat) : Bool := k == item page 0 off

/-- A descriptor as its take leaves it, when nothing of it has begun (R402, R420). -/
def Slot.untouched (d : Slot) : Prop :=
  d = { engine := d.engine, num := d.num, order := d.order, index := d.index, ctx := d.ctx, key := d.key, words := d.words,
        complete := d.op == DOp.nop || d.op == DOp.fence }

/-- The engines have one descriptor, `d`, and nothing waits to be sent, gathered or moved on the host bus. -/
def Mach.sole (m : Mach) (d : Slot) : Prop :=
  m.hasSlot d.engine d.num = true ∧ m.ep.slots = [d] ∧ m.ep.tx = [] ∧ m.ep.fetch = [] ∧ m.ep.host = []

/-- The machine with `d` as its one descriptor. -/
def Mach.withSlot (m : Mach) (d : Slot) : Mach := { m with ep := { m.ep with slots := [d] } }

/-- The request that descriptor `d` sends under tag `t` to `addr` (R79, R102, R410, R412). -/
def Mach.requestOf (m : Mach) (d : Slot) (t op addr aux modifier flagged : Nat) (bytes : List Byte) : Packet :=
  HdrSpec.packet
    { opcode := op, vc := if 0x80 ≤ op then 4 else 0, flagged := flagged, dst := bitsOf addr 54 10, src := m.epNode,
      epoch := m.epochNow .ep % 16, stream := d.stream, pkey := if 0x80 ≤ op then 0 else d.key, context := d.ctx, tag := t,
      modifier := modifier, address := addr, aux := aux } bytes

/-- The outstanding stores of a descriptor's engine and stream, by tag: what a flagged store waits for (R122). -/
def Mach.storesBefore (m : Mach) (d : Slot) : List Nat :=
  (m.tagList.filter fun t => t.2.engine == d.engine && t.2.stream == d.stream && isStore t.2.op && !t.2.answered
    && t.2.quarantine.isNone).map (·.1)

/-- A descriptor's last request `x` waits to be sent under tag `t`, on plane `j` at `port`; `off` and `len` say which of the
descriptor's bytes it moves, `wait` what it waits for, `ready` whether its bytes are at hand. -/
def Mach.requested (m : Mach) (d : Slot) (t j : Nat) (port : Option Nat) (x : Packet) (off len : Nat) (wait : List Nat)
    (ready : Bool) : Mach :=
  { m with ep := { m.ep with
      slots := [{ d with begun := true, allIssued := true, packets := 1 }],
      tags := Tbl.set (fun _ => none) m.ep.tags t
        (some { engine := d.engine, slot := d.num, ctx := d.ctx, key := if 0x80 ≤ x.opcode then 0 else d.key,
                op := x.opcode, dst := x.dst, stream := d.stream, plane := j, off := off, len := len }),
      tx := [{ id := m.ep.nextTx, pkt := x, owner := some (d.engine, d.num), port := port, tag := some t, ready := ready,
               held := !wait.isEmpty, waitFor := wait }],
      nextTx := m.ep.nextTx + 1 } }

/-- The machine when a response has been taken in at a port: its credits are returned, and a VC1 response is counted in the
rates of its plane (R198, R227). -/
def Mach.takingIn (m : Mach) (port : Nat) (x : Packet) : Mach :=
  let n := m.takeAtEp port x
  if x.vc = 1 ∧ x.last = 1 then n.rateCount port 0 x.src (n.planeOfPort port) (x.echo == 1) else n

/-- A descriptor after a response, as its completion record will tell it (R422). -/
def Slot.noting (d : Slot) (x : Packet) : Slot :=
  let ack : Bool := x.opcode == Op.writeAck || x.opcode == Op.atomicAck
  { d with
      echo := d.echo || x.echo == 1, poisoned := d.poisoned || (x.poison == 1 && x.opcode != Op.nack),
      acks := if ack then d.acks + 1 else d.acks, unretired := d.unretired || (ack && bitsOf x.aux 0 1 == 0) }

/-- The one descriptor `d` waits for one last response, under tag `tag` with the request `ts`. -/
def Mach.awaits (m : Mach) (d : Slot) (tag : Nat) (ts : TagSt) : Prop :=
  m.ep.slots = [d] ∧ m.ep.tx = [] ∧ m.ep.fetch = [] ∧ m.tagOf tag = some ts ∧ ts.engine = d.engine ∧ ts.slot = d.num ∧
    ts.sinks = 0 ∧ d.begun = true ∧ d.allIssued = true ∧ d.packets = 1 ∧ d.access = 0 ∧ d.done = false ∧ d.aborted = false

/-- The command by which a response reaches the EP-4 at a port. -/
def responseInstr (port : Nat) (x : Packet) : Option Instr :=
  if x.opcode = Op.readData then some (.readData port x)
  else if x.opcode = Op.writeAck then some (.writeAck port x)
  else if x.opcode = Op.atomicData then some (.atomicData port x)
  else if x.opcode = Op.atomicAck then some (.atomicAck port x)
  else if x.opcode = Op.syncNotify then some (.syncNotify port x)
  else if x.opcode = Op.nack then some (.nack port x)
  else if x.opcode = Op.mgtData then some (.mgtData .ep port x)
  else if x.opcode = Op.mgtAck then some (.mgtAck .ep port x)
  else none

/-- A packet of a collective of descriptor `d` for a plane's switch: no tag, whole in itself (R413 to R415). -/
def Mach.collPacket (m : Mach) (d : Slot) (op vc plane addr aux : Nat) (bytes : List Byte) : Packet :=
  HdrSpec.packet
    { opcode := op, vc := vc, dst := 960 + plane, src := m.epNode, epoch := m.epochNow .ep % 16, stream := d.stream,
      pkey := d.key, context := d.ctx, address := addr, aux := aux } bytes

/-- The machine with `d` as its one descriptor and its packets `ps` waiting to be sent, each with the stitch, if any, by
which it must be sent; `ready` says whether their bytes are at hand. -/
def Mach.collected (m : Mach) (d : Slot) (ps : List (Packet × Option Nat)) (ready : Bool := true) : Mach :=
  { m with ep := { m.ep with
      slots := [d],
      tx := ps.mapIdx fun i x =>
        { id := m.ep.nextTx + i, pkt := x.1, owner := some (d.engine, d.num), port := none, by_ := x.2, ready := ready },
      nextTx := m.ep.nextTx + ps.length } }

/-- The command by which a collective's unit reaches the EP-4 at a port. -/
def unitInstr (port : Nat) (x : Packet) : Option Instr :=
  if x.opcode = Op.pltResult then some (.pltResult port x)
  else if x.opcode = Op.bktDeliver then some (.bktDeliver port x)
  else if x.opcode = Op.bktDropmap then some (.bktDropmap port x)
  else if x.opcode = Op.cufResult then some (.cufResult port x)
  else none

/-- The machine when a whole unit has been taken in at a port: its credits are returned, and a unit on VC2 is counted in the
rates of its plane (R198, R227). -/
def Mach.takingUnit (m : Mach) (port : Nat) (x : Packet) : Mach :=
  let n := m.takeAtEp port x
  let plane := n.planeOfPort port
  let n := if x.opcode = Op.cufResult then n else n.rateCount port 2 (960 + plane) plane (x.mark == 1)
  if x.opcode = Op.pltResult ∨ x.opcode = Op.bktDeliver then
    { n with ep := { n.ep with recv := Tbl.set (fun _ => none) n.ep.recv port none } }
  else n

/-- A receive after a whole unit from `plane`, as its completion record will tell it (R416, R422). -/
def Slot.receiving (d : Slot) (x : Packet) (plane : Nat) : Slot :=
  let kind := bitsOf (d.w 2) 0 2
  let late := kind == 3 && x.status == Status.late
  { d with
      echo := d.echo || x.mark == 1, planes := d.planes ||| 2 ^ plane, late := d.late || late,
      value := if kind = 2 then ofLeBytes (x.payload.take 8) else if late then d.value ||| 2 ^ plane else d.value,
      units := d.units + 1, moved := d.moved + x.length }

/-- A field of a direct register as it stands in the one copy of its word (R505, R548). -/
def Mach.stored (m : Mach) (c : Chip) (page : Nat) (f : Fld) : Nat := bitsOf (m.word c (item page 0 f.off)).toNat f.lo f.w

/-- A 32-bit register as it stands in the one copy of its word. -/
def Mach.storedReg (m : Mach) (c : Chip) (page off : Nat) : Nat := (m.word c (item page 0 off)).toNat

/-- A field of a table entry as it stands in the one copy of its word. -/
def Mach.storedT (m : Mach) (c : Chip) (page sel per e : Nat) (f : Fld) : Nat :=
  bitsOf (m.word c (item page sel (per * e + f.off))).toNat f.lo f.w

/-- The state field of a chip's Guard (R461, R462). -/
def guardStateFld (c : Chip) : Fld := if c = .sx then F.grdState_state else F.ep4GrdState_state

/-- A Guard change has ended: the Guard is OPEN, no approval stands, every staged word is the live one, the Guard's event is
raised (0 committed, 1 discarded, 2 late), and nothing else is new but the words that `touched` names. -/
def State.discards (s t : State) (c : Chip) (event : Nat) (touched : Nat → Bool) : Prop :=
  t.m.stored c (guardPage c) (guardStateFld c) = 0 ∧
    (∀ who : Principal, t.m.stored c (guardPage c) (Mach.approvedFld c who) = 0) ∧
    t.m.event c (guardPage c) (byChip c event (8 + event)) = true ∧
    (∀ k, t.m.shadow c k = if s.m.guardItem c k then s.m.liveCopy c k else s.m.shadow c k) ∧
    t.m.bare = (s.m.setGuardRun c { s.m.guardRun c with at_ := none, due := none }).bare ∧
    t.m.rf c = { s.m.rf c with
      word := (t.m.rf c).word, requesting := (t.m.rf c).requesting, shadow := (t.m.rf c).shadow } ∧
    (∀ k, touched k = false → t.m.word c k = s.m.word c k) ∧
    t.m.rf (otherChip c) = s.m.rf (otherChip c) ∧ s.kept t

/-- A packet at the Pleat core of a tile: the port that it came by and the machine with it taken; none while it waits there
for the rest of itself, for its admission or for an earlier packet of its port (R268, R272). -/
def Mach.atPleat (m : Mach) (tile : Nat) (x : Packet) : Option (Nat × Mach) :=
  match m.held.find? fun h => h.output == 144 + tile && h.pkt == x with
  | some h => if Mach.Held.ready h && !m.pleatBlocked h then some (h.input, m.removeHeld h.id) else none
  | none => some (((List.range 144).find? fun q => m.partnerNode q == x.src).getD 144, m)

/-- A Pleat or bucket group has faulted: its reason stands, nothing of it is open, held, waiting or resident, and the fault is
counted and reported (R282, R341). -/
def State.groupFaults (s t : State) (gk reason : Nat) : Prop :=
  (t.m.grp gk).reason = reason ∧ (t.m.grp gk).resident = false ∧ (t.m.grp gk).leaving = false ∧
    (∀ c ∈ t.m.plt.chunks, Mach.Chunk.gk c ≠ gk) ∧ (∀ r ∈ t.m.plt.releases, r.group ≠ gk) ∧ gk ∉ t.m.plt.active ∧
    s.m.counted t.m .sx Pg.pleat R.pltGroupFaultCnt ∧ t.m.event .sx Pg.pleat 0 = true ∧ s.kept t

/-- A Cuff group has faulted: its reason stands, it has no open round and no unsent copy, and the fault is counted and reported
(R330). -/
def State.cuffFaults (s t : State) (g reason : Nat) : Prop :=
  (t.m.cgrp g).reason = reason ∧ (t.m.cgrp g).round = none ∧ t.m.cuffCopies g = [] ∧
    s.m.counted t.m .sx Pg.cuff R.cufGroupFaultCnt ∧ t.m.event .sx Pg.cuff 0 = true ∧ s.kept t

/-- As `becomes`, for a command that also writes the parts of its chip's register file that `back` takes from the file as it
was. -/
def State.becomesBut (s t : State) (m : Mach) (c : Chip) (back : RegFile → RegFile → RegFile) (touched : Nat → Bool) : Prop :=
  s.becomes { t with m := t.m.setRf c (back (t.m.rf c) (s.m.rf c)) } m c touched

/-- Direct registers whose write has an effect of its own, beside storing the value, and commands of their own. -/
def ownWrite (k : PageKind) (off : Nat) : Bool :=
  match k with
  | .chip => [R.chpCommitCtrl, R.chpChatterClr].contains off
  | .guard => [R.grdCtrl, R.grdApproveLo, R.grdApproveHi, R.grdRelayCtrl, R.grdRelayAddrLo, R.grdRelayAddrHi,
      R.grdRelayData].contains off
  | .power => off == R.pwrGateCtrl
  | .serdes => off == R.sdsRecalCtrl
  | .ocu => [R.ocuCapCtrl, R.ocuElsStatus 0, R.ocuElsStatus 1].contains off
  | .eId => [R.ep4CommitCtrl, R.ep4GrdCtrl, R.ep4GrdAtLo, R.ep4GrdAtHi, R.ep4GrdApproveLo, R.ep4GrdApproveHi].contains off
  | .ctx => off == R.ctxDoorbell
  | .eCtx => true
  | _ => false

end Machine
end Sys2Proof
end

