-- ==== Sys2Proof/Certificates/Slice0/Obligations.lean ====
section
/-! DEFINITION. The statements about the model, for the provers. -/

open Sys2Proof Sys2Proof.Machine

/-! ## The queue and the outcomes -/

/-- A step runs the command at the front of the queue on the state with the rest of the queue.
With no command waiting a step changes nothing: the model's choice (log 50), not the manual's. -/
def Obligations.StepsTakeTheFrontCommand : Prop :=
  (∀ (c : Instr) (rest : List Instr) (s : State), s.pending = c :: rest → step s = exec c { s with pending := rest }) ∧
  (∀ s : State, s.pending = [] → step s = .next s)

/-- Every command whose units exist answers a next state with the same commands waiting, but for the commands that carry a
register write, which may also put the chip outside its specification (R537).
A command that names a unit which the chips do not have ends in `noSuchUnit`: the model's own stop.
No command is refused.
What it fixes beyond the manual is the model's choice: log 123, 142. -/
def Obligations.CommandsCompleteOrStop : Prop :=
  (∀ (c : Instr) (s : State), c.unitsExist s.m = true →
      (∃ t, exec c s = .next t ∧ t.pending = s.pending)
        ∨ (c.writesRegisters = true ∧ exec c s = .fault .outsideSpecification)) ∧
  (∀ (c : Instr) (s : State), c.unitsExist s.m = false → exec c s = .fault .noSuchUnit) ∧
  (∀ (c : Instr) (s : State) (r : Refusal), exec c s ≠ .refused r)

/-! ## The byte memories -/

/-- Every command keeps the byte memories in canonical form: addresses strictly rising, no unwritten byte listed. -/
def Obligations.StepsKeepMemoriesCanonical : Prop :=
  ∀ s t : State, s.store.wf = true → step s = .next t → t.store.wf = true

/-- The memories after reset are in canonical form. -/
def Obligations.ResetMemoriesCanonical : Prop :=
  State.reset.store.wf = true

/-! ## Timing -/

/-- Two stitches without an edge on STITCH_IN take a locked follower to HOLDOVER, and an EP-4 that is locked enters HOLDOVER
after 2,048 stitches without an ordered set; both raise STITCH_HOLDOVER.
A chip whose conditions hold enters LOCKED and raises STITCH_LOCKED.
STITCH_HOLDOVER_EXPIRED is raised when HOLDOVER reaches its limit, and nothing but the report changes. -/
def Obligations.TimingStatesAreEntered : Prop :=
  ((∀ s : State, s.m.time.st = .locked → s.m.time.wasSource = false →
      ∃ t, exec .stitchEdgeMissing s = .next t ∧ t.m.event .sx Pg.stitch 1 = true ∧
        s.becomes t { s.m with time := { s.m.time with
          st := .holdover, holdStitches := 0, expired := false, goodFrames := 0, sourceStitches := 0 } } .sx
          (fun k => eventWord Pg.stitch k || k == item Pg.stitch 0 R.sthStatus)) ∧
    (∀ s : State, s.m.epTime.st = .locked → 2048 ≤ s.m.epTime.silence →
      ∃ t, exec .ep4StitchSilence s = .next t ∧ t.m.event .ep Pg.eTim 1 = true ∧
        s.becomes t { s.m with epTime := { s.m.epTime with
          st := .holdover, holdStitches := 0, expired := false, goodSets := 0 } } .ep
          (fun k => eventWord Pg.eTim k || k == item Pg.eTim 0 F.ep4TimStatus_state.off))) ∧
  ((∀ s : State, s.m.lockReady = true →
      ∃ t, exec (.stitchLock .sx) s = .next t ∧ t.m.event .sx Pg.stitch 0 = true ∧
        s.becomes t { s.m with time := { s.m.time with st := .locked, badFrames := 0 } } .sx
          (fun k => eventWord Pg.stitch k || k == item Pg.stitch 0 R.sthStatus)) ∧
    (∀ s : State, s.m.epLockReady = true →
      ∃ t, exec (.stitchLock .ep) s = .next t ∧ t.m.event .ep Pg.eTim 0 = true ∧
        s.becomes t { s.m with epTime := { s.m.epTime with st := .locked } } .ep
          (fun k => eventWord Pg.eTim k || k == item Pg.eTim 0 F.ep4TimStatus_state.off))) ∧
  ((∀ s : State, s.m.time.st = .holdover → s.m.time.expired = false →
      s.m.fld .sx Pg.stitch F.sthHoldoverLimit_limit ≤ s.m.time.holdStitches →
      ∃ t, exec (.stitchHoldoverExpired .sx) s = .next t ∧ t.m.event .sx Pg.stitch 2 = true ∧
        s.becomes t { s.m with time := { s.m.time with expired := true } } .sx
          (fun k => eventWord Pg.stitch k || k == item Pg.stitch 0 R.sthStatus)) ∧
    (∀ s : State, s.m.epTime.st = .holdover → s.m.epTime.expired = false →
      s.m.fld .ep Pg.eTim F.ep4TimCtrl_holdoverLimit ≤ s.m.epTime.holdStitches →
      ∃ t, exec (.stitchHoldoverExpired .ep) s = .next t ∧ t.m.event .ep Pg.eTim 2 = true ∧
        s.becomes t { s.m with epTime := { s.m.epTime with expired := true } } .ep
          (fun k => eventWord Pg.eTim k || k == item Pg.eTim 0 F.ep4TimStatus_state.off)))

/-- A stitch boundary advances the chip's stitch number by one and begins cycle 0, whatever else falls due; a source that
is acquiring and has not loaded takes the seed instead.
What it fixes beyond the manual is the model's choice: log 22. -/
def Obligations.BoundaryAdvancesTheStitch : Prop :=
  (∀ (s : State) (ph : Int) (a r : Nat), ∃ t, exec (.stitchBoundary .sx ph a r) s = .next t ∧
    t.m.time.cycle = 0 ∧ t.m.time.st = s.m.time.st ∧ s.kept t ∧
    t.m.time.number =
      if s.m.isSource ∧ s.m.time.st = .acquiring ∧ s.m.time.loaded = false then
        s.m.reg .sx Pg.stitch R.sthSeedLo + 2 ^ 32 * s.m.reg .sx Pg.stitch R.sthSeedHi
      else (s.m.time.number + 1) % 2 ^ 64) ∧
  (∀ (s : State) (ph : Int) (a r : Nat), s.m.epIdle → ∃ t, exec (.stitchBoundary .ep ph a r) s = .next t ∧
    t.m.epTime.number = (s.m.epTime.number + 1) % 2 ^ 64 ∧ t.m.epTime.cycle = 0 ∧ t.m.epTime.st = s.m.epTime.st ∧
    s.kept t)

/-- The symbols of a frame: stitch k of the frame whose first stitch has number F carries the frame marker for k = 0, bit
k + 5 of F for k = 1 to 58, and bit k - 59 of the number of ones in F[63:6], modulo 32, for k = 59 to 63.
In LOCKED and HOLDOVER with out_en live at 1 the boundary of every stitch puts its symbol on STITCH_OUT.
To a receiver the 63 symbols after the marker spell F. -/
def Obligations.FramesCarryTheirNumber : Prop :=
  ((∀ f k : Nat, f % 64 = 0 → f < 2 ^ 64 → k < 64 →
      Mach.stitchSymbol (f + k) =
        if k = 0 then 2 else if k ≤ 58 then f / 2 ^ (k + 5) % 2
        else (((List.range 64).filter fun i => decide (6 ≤ i) && f.testBit i).length % 32) / 2 ^ (k - 59) % 2) ∧
    (∀ (s : State) (ph : Int) (a r : Nat), s.m.time.st = .locked ∨ s.m.time.st = .holdover →
      s.m.bit .sx Pg.stitch F.sthCtrl_outEn = true →
      ∃ t, exec (.stitchBoundary .sx ph a r) s = .next t ∧
        Out.stitchOut (Mach.stitchSymbol t.m.time.number) ∈ t.m.out) ∧
    (∀ f : Nat, f % 64 = 0 → f < 2 ^ 64 →
      Mach.frameNumber ((List.range 63).map fun i => Mach.stitchSymbol (f + 1 + i)) = some f))

/-- A whole frame of number F on STITCH_IN, at its nominal widths, is read: a follower that has not loaded acquires; one
whose own count is F + 63 counts it as good; one whose count differs keeps its count, counts the mismatch and raises
STITCH_NUM_MISMATCH.
The receiver of a stitch ordered set records its receive time: at an SX-4 port and nothing else; at an EP-4 port with
the number of the stitch, ending the silence, and an EP-4 in FREE whose timing plane it is loads the number it carries.
What it fixes beyond the manual is the model's choice: log 19. -/
def Obligations.ReferencesAreTaken : Prop :=
  (∀ (s : State) (f : Nat), f % 64 = 0 → f < 2 ^ 64 → s.m.time.wasSource = false → s.m.time.frameK = none →
      (s.m.time.loaded = false → s.m.time.frameF = none →
        ∃ t, exec (.stitchInFrame (framePulses f)) s = .next t ∧
          s.becomes t { s.m with time := { s.m.time with
            st := .acquiring, inValid := true, badFrames := 0, frameBits := [], frameF := some f } } .sx
            (fun k => k == item Pg.stitch 0 R.sthStatus)) ∧
      (s.m.time.loaded = true → s.m.time.number = f + 63 →
        ∃ t, exec (.stitchInFrame (framePulses f)) s = .next t ∧
          s.becomes t { s.m with time := { s.m.time with
            inValid := true, badFrames := 0, frameBits := [], frameF := some f,
            goodFrames := s.m.time.goodFrames + 1 } } .sx (fun k => k == item Pg.stitch 0 R.sthStatus)) ∧
      (s.m.time.loaded = true → s.m.time.number ≠ f + 63 → s.m.time.st ≠ .locked →
        ∃ t, exec (.stitchInFrame (framePulses f)) s = .next t ∧ t.m.event .sx Pg.stitch 3 = true ∧
          s.becomes t { s.m with time := { s.m.time with
            inValid := true, badFrames := 0, frameBits := [], frameF := some f, goodFrames := 0 } } .sx
            (fun k => eventWord Pg.stitch k || (k == item Pg.stitch 0 R.sthStatus || k == item Pg.stitch 0 R.sthNumMismatch)))) ∧
  ((∀ (s : State) (p n a b r : Nat), p < 144 → ∃ t, exec (.stitchOrderedSet .sx p n a b r) s = .next t ∧
      t = { s with m := { s.m with sxExch := t.m.sxExch } } ∧
      ∀ q, Tbl.get (fun _ => (0, 0)) t.m.sxExch q
        = if q = p then (r, (Tbl.get (fun _ => (0, 0)) s.m.sxExch p).2) else Tbl.get (fun _ => (0, 0)) s.m.sxExch q) ∧
    (∀ (s : State) (p n a b r : Nat), p < s.m.epParams.ports → ∃ t, exec (.stitchOrderedSet .ep p n a b r) s = .next t ∧
      t.m.epTime.silence = 0 ∧ s.kept t ∧ t.m.time = s.m.time ∧
      Tbl.get (fun _ => (0, 0, 0)) t.m.epTime.exch p
        = (r + 1, (Tbl.get (fun _ => (0, 0, 0)) s.m.epTime.exch p).2.1, t.m.epTime.number) ∧
      (s.m.epTime.st = .free → s.m.epTimingPort = some p → (Tbl.get (fun _ => (0, 0, 0)) s.m.epTime.exch p).1 = 0 →
        t.m.epTime.st = .acquiring ∧ t.m.epTime.number = n ∧ t.m.epTime.cycle = 0 ∧ t.m.epTime.loaded = true)))

/-- In every hem the triple-stored fields are voted and no upset copy is left; while an SX-4's core is off its cut-off does
nothing.
A due commit of one group that no rule validates copies exactly that group's words from shadow to live, ends the
request and counts COMMIT_GEN; the shadow copies stay.
What it fixes beyond the manual is the model's choice: log 23, 26, 141. -/
def Obligations.HemsVoteAndCommit : Prop :=
  ((∀ s : State, s.m.boot.off = false → ∃ t, exec (.hemCutOff .sx) s = .next t ∧ t.m.regs.upsets = [] ∧ s.kept t) ∧
    (∀ s : State, s.m.boot.off = true → exec (.hemCutOff .sx) s = .next s) ∧
    (∀ s : State, s.m.epIdle → ∃ t, exec (.hemCutOff .ep) s = .next t ∧ t.m.epRegs.upsets = [] ∧ s.kept t)) ∧
  (∀ (c : Chip) (s : State) (g : Nat), g ∈ (if c = .sx then [2, 3, 7, 10, 13] else [1, 2, 4]) →
      (c = .ep → s.m.epIdle) → s.m.guardState c ≠ 2 → (s.m.rf c).held = [] →
      ∀ q, (s.m.rf c).commit = some q → q.mask = 2 ^ g → s.m.dueNow c q.named q.at_ = true →
      ∃ t, exec (.commitApply c) s = .next t ∧ (t.m.rf c).commit = none ∧ s.kept t ∧
        (∀ k, t.m.shadow c k = s.m.shadow c k) ∧
        (∀ k, t.m.liveCopy c k
          = if (info s.m.epParams c k).group = g then s.m.shadow c k else s.m.liveCopy c k) ∧
        (t.m.word c (item (byChip c Pg.chip Pg.eId) 0 (byChip c R.chpCommitGen R.ep4CommitGen))).toNat
          = (s.m.commitGen c + 1) % 2 ^ 32)

/-! ## Lanes and links -/

/-- The equalisation messages move the own transmitter's taps of their lane (preset; hold, increment, decrement), or end
equalisation of the lane, as failed or not; its time limit ends it on every lane of a port that climbs.
What it fixes beyond the manual is the model's choice: log 83. -/
def Obligations.EqualisationFollowsItsMessages : Prop :=
  ∀ (c : Chip) (s : State) (p lane : Nat), s.m.portRuns c p →
    (∀ q : Nat, ∃ t, exec (.eqPreset c p lane q) s = .next t ∧
      s.becomes t (s.m.setLk c p { s.m.lk c p with taps := (t.m.lk c p).taps }) c noWord ∧
      ∀ k, (t.m.lk c p).tapsOf k = if k = lane then some [(q : Int), 0, 0, 0, 0, 0] else (s.m.lk c p).tapsOf k) ∧
    (∀ (q x₁ x₂ x₃ x₄ x₅ : Int) (r₁ r₂ r₃ r₄ r₅ : Nat), (s.m.lk c p).tapsOf lane = some [q, x₁, x₂, x₃, x₄, x₅] →
      ∃ t, exec (.eqAdjust c p lane [r₁, r₂, r₃, r₄, r₅]) s = .next t ∧
        s.becomes t (s.m.setLk c p { s.m.lk c p with taps := (t.m.lk c p).taps }) c noWord ∧
        ∀ k, (t.m.lk c p).tapsOf k =
          if k = lane then
            some [q, x₁ + Mach.tapMove r₁, x₂ + Mach.tapMove r₂, x₃ + Mach.tapMove r₃, x₄ + Mach.tapMove r₄, x₅ + Mach.tapMove r₅]
          else (s.m.lk c p).tapsOf k) ∧
    (∃ t, exec (.eqDone c p lane) s = .next t ∧
      s.becomes t (s.m.setLk c p { s.m.lk c p with eqDone := (s.m.lk c p).eqDone ||| 2 ^ lane }) c noWord) ∧
    (∃ t, exec (.eqFail c p lane) s = .next t ∧
      s.becomes t (s.m.setLk c p { s.m.lk c p with
        eqDone := (s.m.lk c p).eqDone ||| 2 ^ lane, eqFailed := (s.m.lk c p).eqFailed ||| 2 ^ lane }) c noWord) ∧
    ((s.m.lk c p).st = .climbing → ∃ t, exec (.eqTimeout c p) s = .next t ∧
      s.becomes t (s.m.setLk c p { s.m.lk c p with eqDone := 15 }) c noWord)

/-- A direction that has had nothing to send for its idle threshold enters light sleep and counts it; from light sleep it
enters deep sleep; with something to send it begins to wake and then is awake.  A receiver told of sleep does not take the
quiet line for a loss of flit lock.
What it fixes beyond the manual is the model's choice: log 82. -/
def Obligations.SleepIsEnteredAndLeft : Prop :=
  ∀ (c : Chip) (s : State) (p : Nat), s.m.portRuns c p → (s.m.lk c p).st = .up →
    ((s.m.lk c p).txSleep = 0 → s.m.txDue c p = false → (c = .sx → s.m.shedLevel < 3) →
      s.m.fld c (Pg.port p) F.prtSleepCtrl_idleLight ≠ 0 →
      s.m.fld c (Pg.port p) F.prtSleepCtrl_idleLight ≤ (s.m.lk c p).idleStitches →
      ∃ t, exec (.lightSleepEntry c p) s = .next t ∧ s.m.counted t.m c (Pg.port p) R.prtSleepEntryCnt ∧
        t.m.driven = List.replicate 4 (.ctl c p (.sleep 1)) ++ s.m.driven ∧
        s.becomes t (s.m.setLk c p { s.m.lk c p with txSleep := 1, lightStitches := 0 }) c
          (portWord p R.prtSleepEntryCnt)) ∧
    ((s.m.lk c p).txSleep = 1 → s.m.fld c (Pg.port p) F.prtSleepCtrl_deepIdle ≠ 0 →
      s.m.fld c (Pg.port p) F.prtSleepCtrl_deepIdle ≤ (s.m.lk c p).lightStitches →
      ∃ t, exec (.deepSleepEntry c p) s = .next t ∧
        s.becomes t (s.m.setLk c p { s.m.lk c p with txSleep := 2 }) c noWord) ∧
    ((s.m.lk c p).txSleep = 1 ∨ (s.m.lk c p).txSleep = 2 → s.m.txDue c p = true →
      ∃ t, exec (.wake c p) s = .next t ∧ t.m.driven = .wakePattern c p :: s.m.driven ∧
        s.becomes t (s.m.setLk c p { s.m.lk c p with txSleep := 3 }) c noWord) ∧
    ((s.m.lk c p).txSleep = 3 → s.m.txDue c p = true →
      ∃ t, exec (.wake c p) s = .next t ∧
        s.becomes t (s.m.setLk c p { s.m.lk c p with txSleep := 0, idleStitches := 0 }) c noWord) ∧
    (∀ depth : Nat, ∃ t, exec (.sleep c p depth) s = .next t ∧
      s.becomes t (s.m.setLk c p { s.m.lk c p with rxSleep := true }) c noWord) ∧
    ((s.m.lk c p).rxSleep = true → exec (.flitLockLoss c p) s = .next s)

/-- When flit lock is lost in training, training begins again at S0: the port keeps of its link only what negotiation
recorded, and an enabled port with a lane to train on sends its CAP.
When an EP-4's link loses flit lock while up, it counts a link down, raises LINK_DOWN and trains again from S0.
A port in training that could not reach S1 begins again at S0, and a training message without its answer is sent again,
a CAP with what the port presents now; neither touches anything else.
What it fixes beyond the manual is the model's choice: log 75, 76. -/
def Obligations.TrainingStartsOverWhenLockIsLost : Prop :=
  (∀ (c : Chip) (s : State) (p : Nat), s.m.portRuns c p → (s.m.lk c p).st = .climbing → (s.m.lk c p).rxSleep = false →
      s.m.fld c (Pg.port p) F.prtLinkCtrl_en = 1 →
      ∃ t, exec (.flitLockLoss c p) s = .next t ∧ (t.m.lk c p).st = .s0 ∧ (t.m.lk c p).step = 0 ∧
        (t.m.lk c p).replay = [] ∧ (t.m.lk c p).partner = (s.m.lk c p).partner ∧
        (t.m.ownLanes c p ≠ 0 → t.m.driven = .ctl c p (.cap (t.m.ownCap c p false)) :: s.m.driven) ∧
        s.becomes t (s.m.setLk c p (t.m.lk c p)) c (laneWord c p)) ∧
  (∀ (s : State) (p : Nat), s.m.portRuns .ep p → (s.m.lk .ep p).st = .up → (s.m.lk .ep p).rxSleep = false →
      s.m.fld .ep (Pg.port p) F.prtLinkCtrl_en = 1 → (s.m.lk .ep p).replay = [] → (s.m.lk .ep p).asm = [] →
      ∃ t, exec (.flitLockLoss .ep p) s = .next t ∧ t.m.event .ep (Pg.port p) 1 = true ∧
        s.m.counted t.m .ep (Pg.port p) R.prtLinkDownCnt ∧ (t.m.lk .ep p).st = .s0 ∧ s.kept t ∧ t.m.rf .sx = s.m.rf .sx) ∧
  (∀ (c : Chip) (s : State) (p : Nat), s.m.portRuns c p →
      ((s.m.lk c p).st = .s0 → (s.m.lk c p).dup = false → s.m.fld c (Pg.port p) F.prtLinkCtrl_en = 1 →
        ∃ t, exec (.trainingRetry c p) s = .next t ∧ (t.m.lk c p).st = .s0 ∧ (t.m.lk c p).step = 0 ∧
          (t.m.lk c p).lastCap = none ∧
          (t.m.ownLanes c p ≠ 0 → (t.m.lk c p).unanswered = some (.cap (t.m.ownCap c p false))) ∧
          s.becomes t (s.m.setLk c p (t.m.lk c p)) c (laneWord c p)) ∧
      (∀ x : Ctl, (s.m.lk c p).unanswered = some x → (∀ y, x ≠ .cap y) →
        ∃ t, exec (.trainingRepeat c p) s = .next t ∧ t.m.driven = .ctl c p x :: s.m.driven ∧ s.becomes t s.m c noWord) ∧
      (∀ y : CapMsg, (s.m.lk c p).unanswered = some (.cap y) →
        ∃ t, exec (.trainingRepeat c p) s = .next t ∧
          t.m.driven = .ctl c p (.cap (s.m.ownCap c p y.seen)) :: s.m.driven ∧ s.becomes t s.m c noWord))

/-- The flit held longest, once it is as old as the retry timeout, has every held flit sent again: one resend episode is
counted, and each held flit's age begins anew.
A flit that fails its CRC on a port that is up is counted and asks for a resend; nothing of it is taken.  A data flit
repeated from before the last one accepted changes nothing beyond its header's fields.
A good idle flit without nak releases the held flits up to the one it acknowledges and adds the credits returned since
the last report of its VC.
A good data flit that is next in sequence is accepted: its first granule begins a packet when none is in progress.
What it fixes beyond the manual is the model's choice: log 79, 81. -/
def Obligations.FlitsAreTakenAcknowledgedAndReplayed : Prop :=
  (∀ (c : Chip) (s : State) (p : Nat) (f : HeldFlit) (rest : List HeldFlit), s.m.portRuns c p → (s.m.lk c p).st = .up →
      (s.m.lk c p).replay = f :: rest → (s.m.lk c p).episodes < max (s.m.fld c (Pg.port p) F.prtRetryCtrl_limit) 1 →
      f.since + max (s.m.fld c (Pg.port p) F.prtRetryCtrl_timeout) 1 ≤ s.m.now c →
      ∃ t, exec (.replayTimeout c p) s = .next t ∧ s.m.counted t.m c (Pg.port p) R.prtReplayCnt ∧
        t.m.driven = ((f :: rest).map fun g => Out.flit c p g.flit).reverse ++ s.m.driven ∧
        s.becomes t (s.m.setLk c p { s.m.lk c p with
          episodes := (s.m.lk c p).episodes + 1,
          replay := (f :: rest).map fun g => { g with since := s.m.now c } }) c (portWord p R.prtReplayCnt)) ∧
  (∀ (c : Chip) (s : State) (p : Nat) (f : Flit), s.m.portRuns c p → (s.m.lk c p).st = .up →
      flitGood f = false → f.uncorrectable = false →
      (∃ t, exec (.dataFlit c p f) s = .next t ∧ s.m.counted t.m c (Pg.port p) R.prtCrcErrCnt ∧
        s.becomes t (s.m.setLk c p { s.m.lk c p with nak := true }) c (portWord p R.prtCrcErrCnt)) ∧
      (∃ t, exec (.idleFlit c p f) s = .next t ∧ s.m.counted t.m c (Pg.port p) R.prtCrcErrCnt ∧
        s.becomes t (s.m.setLk c p { s.m.lk c p with nak := true }) c (portWord p R.prtCrcErrCnt))) ∧
  (∀ (c : Chip) (s : State) (p : Nat) (f : Flit), s.m.portRuns c p → (s.m.lk c p).st = .up → flitGood f = true →
      FlitHdr.kind f.hdr = 2 → FlitHdr.nak f.hdr = false → FlitHdr.creditVc f.hdr < 6 → s.m.ep.slots = [] →
      ∃ t, exec (.idleFlit c p f) s = .next t ∧
        (t.m.lk c p).replay = Mach.ackRest (FlitHdr.ack f.hdr) (s.m.lk c p).replay ∧
        (t.m.lk c p).seenCredit = (s.m.lk c p).seenCredit.set (FlitHdr.creditVc f.hdr) (FlitHdr.creditCount f.hdr) ∧
        (t.m.lk c p).credit = (s.m.lk c p).credit.set (FlitHdr.creditVc f.hdr)
          ((s.m.lk c p).credit.getD (FlitHdr.creditVc f.hdr) 0
            + (FlitHdr.creditCount f.hdr + 65536 - (s.m.lk c p).seenCredit.getD (FlitHdr.creditVc f.hdr) 0) % 65536) ∧
        (t.m.lk c p).rxSleep = false ∧
        s.becomes t (s.m.setLk c p (t.m.lk c p)) c noWord) ∧
  (∀ (c : Chip) (s : State) (p : Nat) (f : Flit), s.m.portRuns c p → (s.m.lk c p).st = .up → flitGood f = true →
      FlitHdr.kind f.hdr = 0 → FlitHdr.nak f.hdr = false → 6 ≤ FlitHdr.creditVc f.hdr → (s.m.lk c p).replay = [] →
      FlitHdr.seq f.hdr = ((s.m.lk c p).rxSeq + 1) % 1024 → FlitHdr.stomp f.hdr = false → (s.m.lk c p).asm = [] →
      FlitHdr.startMap f.hdr = 1 → FlitHdr.holdFrom f.hdr = 1 →
      ∃ t, exec (.dataFlit c p f) s = .next t ∧ (t.m.lk c p).rxSeq = FlitHdr.seq f.hdr ∧
        (t.m.lk c p).asm = f.gran.take 1 ∧ (t.m.lk c p).nak = false ∧
        s.becomes t (s.m.setLk c p (t.m.lk c p)) c noWord)

/-- A CAP that a port in S0 takes: a partner of the wrong role, node, version or one met by an unfit own node is refused
with the lowest reason it meets and LINK_REFUSED; any other is answered with the own CAP, which says that it was seen.
Negotiation ends with a CAP that has seen the own one: the port records its partner and the allocations, and an SX-4
leads the climb by asking for step 1.
A KEEPALIVE on a port that is up records the partner's epoch; one that differs from the own, which has not just
changed, is counted and raised as EPOCH_SKEW once for each value.
What it fixes beyond the manual is the model's choice: log 77. -/
def Obligations.PartnersNegotiate : Prop :=
  (∀ (c : Chip) (s : State) (p : Nat) (x : CapMsg) (r : Nat), s.m.portRuns c p → (s.m.lk c p).st = .s0 →
      s.m.ownLanes c p ≠ 0 → (s.m.lk c p).dup = false → x.epoch = s.m.epochNow c % 256 → x.seen = false →
      (r = if x.switch = (c == .sx) then 1
        else if (c = .sx ∧ 959 < x.node) ∨ (c = .ep ∧ (x.node < 960 ∨ 975 < x.node)) then 2
        else if x.version ≠ 1 then 3 else if c = .ep ∧ 959 < s.m.epNode then 4 else 0) →
      (r ≠ 0 → ∃ t, exec (.cap c p x) s = .next t ∧ t.m.event c (Pg.port p) 2 = true ∧
        s.becomes t (s.m.setLk c p { s.m.lk c p with
          st := .refused, refuse := r, lastCap := some x, partEpoch := x.epoch, skewFor := none,
          unanswered := some (.cap (s.m.ownCap c p false)) }) c (eventWord (Pg.port p))) ∧
      (r = 0 → ∃ t, exec (.cap c p x) s = .next t ∧ t.m.driven = .ctl c p (.cap (s.m.ownCap c p true)) :: s.m.driven ∧
        s.becomes t (s.m.setLk c p { s.m.lk c p with
          refuse := 0, lastCap := some x, partEpoch := x.epoch, skewFor := none,
          unanswered := some (.cap (s.m.ownCap c p true)) }) c noWord)) ∧
  (∀ (c : Chip) (s : State) (p : Nat) (x : CapMsg), s.m.portRuns c p → (s.m.lk c p).st = .s0 → s.m.ownLanes c p ≠ 0 →
      x.epoch = s.m.epochNow c % 256 → x.seen = true → s.m.refuseReason c x = 0 → x.fresh = false →
      (c = .sx → 0 < s.m.ownMaxStep .sx p ∧ 0 < x.maxStep) →
      (c = .ep → ∀ q, q ≠ p → (s.m.lk .ep q).partner.map (·.node) ≠ some x.node) →
      ∃ t, exec (.cap c p x) s = .next t ∧ (t.m.lk c p).partner = some x ∧ (t.m.lk c p).alloc = x.alloc ∧
        (t.m.lk c p).negotiated = true ∧ (t.m.lk c p).mask = bitsOf x.lanes 0 4 &&& s.m.ownLanes c p ∧
        (c = .sx → (t.m.lk c p).st = .climbing ∧ (t.m.lk c p).target = min (s.m.ownMaxStep .sx p) (min x.maxStep 4) ∧
          (t.m.lk c p).unanswered = some (.step 1 0 0)) ∧
        s.becomes t (s.m.setLk c p (t.m.lk c p)) c (laneWord c p)) ∧
  (∀ (c : Chip) (s : State) (p epoch node : Nat), s.m.portRuns c p → (s.m.lk c p).st = .up →
      (epoch = s.m.epochNow c % 256 → ∃ t, exec (.keepalive c p epoch node) s = .next t ∧
        s.becomes t (s.m.setLk c p { s.m.lk c p with partEpoch := epoch, skewFor := none }) c noWord) ∧
      (epoch ≠ s.m.epochNow c % 256 → (s.m.rf c).epochChanged = none → (s.m.lk c p).skewFor ≠ some epoch →
        ∃ t, exec (.keepalive c p epoch node) s = .next t ∧ t.m.event c (Pg.port p) 9 = true ∧
          s.m.counted t.m c (byChip c Pg.chip Pg.eId) (byChip c R.chpEpochSkewCnt R.ep4EpochSkewCnt) ∧
          s.becomes t (s.m.setLk c p { s.m.lk c p with partEpoch := epoch, skewFor := some epoch }) c
            (fun k => eventWord (Pg.port p) k
              || k == item (byChip c Pg.chip Pg.eId) 0 (byChip c R.chpEpochSkewCnt R.ep4EpochSkewCnt))) ∧
      (epoch ≠ s.m.epochNow c % 256 → (s.m.rf c).epochChanged = none → (s.m.lk c p).skewFor = some epoch →
        ∃ t, exec (.keepalive c p epoch node) s = .next t ∧
          s.becomes t (s.m.setLk c p { s.m.lk c p with partEpoch := epoch }) c noWord))

/-- The climb goes one step at a time: the EP-4 accepts a request for the next step within its max_step and refuses any
other; on the accept each end enters the step with no check known; a refused SX-4 ends its climb at the step it has.
The end of a step's check window has the port report the lanes that passed, and the partner's CHECK is kept until both
are known; when every lane passed at both ends, an SX-4 below its target asks for the next step.  Without lock within its
limit a step has failed: it is counted, STEP_FAIL is raised, and the port falls back by one step and sends ACTIVE, or from
step 1 goes back to S0.
ACTIVE is kept until the port has sent its own; when it names the port's step and mask and the own one is sent, the
link comes up with the partner's allocations as credits, empty retry state and LINK_UP. -/
def Obligations.LinksClimbStepByStep : Prop :=
  ((∀ (s : State) (p n fec : Nat), s.m.portRuns .ep p → (s.m.lk .ep p).dup = false → (s.m.lk .ep p).partner ≠ none →
      (s.m.lk .ep p).st = .s0 ∨ (s.m.lk .ep p).st = .climbing →
      (n = (s.m.lk .ep p).step + 1 → n ≤ s.m.ownMaxStep .ep p → ∃ t, exec (.stepRequest .ep p n fec) s = .next t ∧
        t.m.driven = .ctl .ep p (.step n 1 fec) :: s.m.driven ∧
        s.becomes t (s.m.setLk .ep p { s.m.lk .ep p with
          accSent := true, fec := fec, unanswered := some (.step n 1 fec) }) .ep noWord) ∧
      (n ≠ (s.m.lk .ep p).step + 1 ∨ s.m.ownMaxStep .ep p < n → n ≠ (s.m.lk .ep p).step →
        ∃ t, exec (.stepRequest .ep p n fec) s = .next t ∧ t.m.driven = .ctl .ep p (.step n 2 fec) :: s.m.driven ∧
          s.becomes t s.m .ep noWord)) ∧
    (∀ (c : Chip) (s : State) (p n fec : Nat), s.m.portRuns c p → n = (s.m.lk c p).step + 1 →
      (c = .ep → (s.m.lk .ep p).accSent = true) →
      (c = .sx → (s.m.lk .sx p).st = .climbing ∧ (s.m.lk .sx p).unanswered = some (.step n 0 fec)) →
      ∃ t, exec (.stepAccept c p n fec) s = .next t ∧ (t.m.lk c p).st = .climbing ∧ (t.m.lk c p).step = n ∧
        (t.m.lk c p).fec = fec ∧ (t.m.lk c p).ownCheck = none ∧ (t.m.lk c p).partnerCheck = none ∧
        (t.m.lk c p).eqDone = 0 ∧ (∀ k < 4, (t.m.lk c p).tapsOf k = some [0, 0, 0, 0, 0, 0]) ∧
        s.becomes t (s.m.setLk c p (t.m.lk c p)) c (laneWord c p)) ∧
    (∀ (s : State) (p n fec : Nat), s.m.portRuns .sx p → (s.m.lk .sx p).st = .climbing → n = (s.m.lk .sx p).step + 1 →
      (s.m.lk .sx p).unanswered = some (.step n 0 fec) → (s.m.lk .sx p).activeRecv = none →
      ((s.m.lk .sx p).step ≠ 0 → ∃ t, exec (.stepRefuse .sx p n) s = .next t ∧
        t.m.driven = .ctl .sx p (.active (s.m.lk .sx p).step (s.m.lk .sx p).mask) :: s.m.driven ∧
        s.becomes t (s.m.setLk .sx p { s.m.lk .sx p with
          activeSent := true, unanswered := some (.active (s.m.lk .sx p).step (s.m.lk .sx p).mask) }) .sx noWord) ∧
      ((s.m.lk .sx p).step = 0 → ∃ t, exec (.stepRefuse .sx p n) s = .next t ∧
        s.becomes t (s.m.setLk .sx p { s.m.lk .sx p with st := .s0, unanswered := none, lastCap := none }) .sx
          (laneWord .sx p)))) ∧
  (∀ (c : Chip) (s : State) (p mask : Nat), s.m.portRuns c p → (s.m.lk c p).st = .climbing →
      (s.m.lk c p).activeSent = false → 0 < (s.m.lk c p).step →
      ((s.m.lk c p).ownCheck = none → (s.m.lk c p).partnerCheck = none →
        ∃ t, exec (.checkWindowEnd c p mask) s = .next t ∧
          t.m.driven = .ctl c p (.check (mask % 16) (s.m.lk c p).step) :: s.m.driven ∧
          s.becomes t (s.m.setLk c p { s.m.lk c p with
            ownCheck := some (mask % 16), unanswered := some (.check (mask % 16) (s.m.lk c p).step) }) c noWord) ∧
      ((s.m.lk c p).ownCheck = none → (s.m.lk c p).partnerCheck = none →
        ∃ t, exec (.check c p mask (s.m.lk c p).step) s = .next t ∧
          s.becomes t (s.m.setLk c p { s.m.lk c p with partnerCheck := some (mask % 16) }) c noWord) ∧
      (c = .sx → (s.m.lk c p).ownCheck = some 15 → (s.m.lk c p).partnerCheck = none → mask % 16 = 15 →
        Mach.maskAt (s.m.lk c p) 0 = 15 → (s.m.lk c p).step ≠ (s.m.lk c p).target →
        ∃ t, exec (.check c p mask (s.m.lk c p).step) s = .next t ∧ (t.m.lk c p).mask = 15 ∧
          (t.m.lk c p).step = (s.m.lk c p).step ∧
          (t.m.lk c p).unanswered = some (.step ((s.m.lk c p).step + 1) 0 (s.m.fecFor p ((s.m.lk c p).step + 1))) ∧
          s.becomes t (s.m.setLk c p (t.m.lk c p)) c (laneWord c p)) ∧
      ((s.m.lk c p).ownCheck = none → (s.m.lk c p).activeRecv = none →
        ∃ t, exec (.stepLockTimeout c p) s = .next t ∧ t.m.event c (Pg.port p) 3 = true ∧
          s.m.counted t.m c (Pg.port p) R.prtStepFailCnt ∧ (t.m.lk c p).step = (s.m.lk c p).step - 1 ∧
          (t.m.lk c p).st = (if (s.m.lk c p).step = 1 then .s0 else .climbing) ∧
          (t.m.lk c p).activeSent = decide (1 < (s.m.lk c p).step) ∧
          s.becomes t (s.m.setLk c p (t.m.lk c p)) c
            (fun k => laneWord c p k || (eventWord (Pg.port p) k || portWord p R.prtStepFailCnt k)))) ∧
  (∀ (c : Chip) (s : State) (p step mask : Nat), s.m.portRuns c p → (s.m.lk c p).st = .climbing →
      ((s.m.lk c p).activeSent = false → ∃ t, exec (.active c p step mask) s = .next t ∧
        s.becomes t (s.m.setLk c p { s.m.lk c p with activeRecv := some (step, mask) }) c noWord) ∧
      ((s.m.lk c p).activeSent = true → step = (s.m.lk c p).step → mask = (s.m.lk c p).mask →
        ∃ t, exec (.active c p step mask) s = .next t ∧ t.m.event c (Pg.port p) 0 = true ∧ (t.m.lk c p).st = .up ∧
          (t.m.lk c p).credit = (s.m.lk c p).alloc ∧ (t.m.lk c p).rxSeq = 1023 ∧ (t.m.lk c p).txSeq = 0 ∧
          (t.m.lk c p).replay = [] ∧ (t.m.lk c p).step = (s.m.lk c p).step ∧ (t.m.lk c p).mask = (s.m.lk c p).mask ∧
          s.kept t ∧ t.m.rf (otherChip c) = s.m.rf (otherChip c)))

/-- A lane that fails on a link that is up has the port propose the widest mask of the lanes left, if it is no narrower
than min_width.
Both ends of a link move to a narrower or the full mask that one proposes and the other accepts: a narrow proposal
within min_width and a widen proposal to four lanes are answered with accept, any other widen with refuse; the mask changes
with WIDTH_CHANGE counted and raised; a refused proposal is dropped. -/
def Obligations.LaneMasksFollowFailureAndAgreement : Prop :=
  (∀ (c : Chip) (s : State) (p lane mask : Nat), s.m.portRuns c p → (s.m.lk c p).st = .up → lane < 4 →
      bitsOf (s.m.lk c p).mask lane 1 = 1 →
      mask = Mach.widestMask ((s.m.lk c p).mask &&& (15 - ((s.m.lk c p).failedLanes ||| 2 ^ lane) % 16)) →
      s.m.minWidth c p ≤ widthOf mask → widthOf mask ≠ 0 →
      ∃ t, exec (.laneFailure c p lane) s = .next t ∧ t.m.driven = .ctl c p (.lane 0 mask) :: s.m.driven ∧
        s.becomes t (s.m.setLk c p { s.m.lk c p with
          failedLanes := (s.m.lk c p).failedLanes ||| 2 ^ lane, proposed := some mask,
          unanswered := some (.lane 0 mask) }) c (laneWord c p)) ∧
  (∀ (c : Chip) (s : State) (p mask : Nat), s.m.portRuns c p → (s.m.lk c p).st = .up → (s.m.lk c p).recal = none →
      (mask ≠ 0 → mask &&& (s.m.lk c p).mask = mask → Mach.widestMask mask = mask → s.m.minWidth c p ≤ widthOf mask →
        ∃ t, exec (.laneNarrow c p mask) s = .next t ∧ t.m.event c (Pg.port p) 4 = true ∧
          s.m.counted t.m c (Pg.port p) R.prtWidthChangeCnt ∧ .ctl c p (.lane 1 mask) ∈ t.m.driven ∧
          s.becomes t { s.m.setLk c p { s.m.lk c p with mask := mask, proposed := none, idleStitches := 0 }
            with ep := t.m.ep } c
            (fun k => laneWord c p k || (eventWord (Pg.port p) k || portWord p R.prtWidthChangeCnt k))) ∧
      ((s.m.lk c p).proposed = some mask →
        ∃ t, exec (.laneAccept c p mask) s = .next t ∧ t.m.event c (Pg.port p) 4 = true ∧
          s.m.counted t.m c (Pg.port p) R.prtWidthChangeCnt ∧
          s.becomes t { s.m.setLk c p { s.m.lk c p with mask := mask, proposed := none, unanswered := none }
            with ep := t.m.ep } c
            (fun k => laneWord c p k || (eventWord (Pg.port p) k || portWord p R.prtWidthChangeCnt k))) ∧
      (mask = 15 → (s.m.lk c p).mask ≠ 15 →
        ∃ t, exec (.laneWiden c p mask) s = .next t ∧ t.m.event c (Pg.port p) 4 = true ∧
          s.m.counted t.m c (Pg.port p) R.prtWidthChangeCnt ∧
          s.becomes t { s.m.setLk c p { s.m.lk c p with
            mask := 15, proposed := none, failedLanes := 0, idleStitches := 0 } with ep := t.m.ep } c
            (fun k => laneWord c p k || (eventWord (Pg.port p) k || portWord p R.prtWidthChangeCnt k))) ∧
      (mask ≠ 15 → ∃ t, exec (.laneWiden c p mask) s = .next t ∧ t.m.driven = .ctl c p (.lane 3 mask) :: s.m.driven ∧
        s.becomes t (s.m.setLk c p { s.m.lk c p with idleStitches := 0 }) c noWord) ∧
      ((s.m.lk c p).proposed = some mask → ∃ t, exec (.laneRefuse c p mask) s = .next t ∧
        s.becomes t (s.m.setLk c p { s.m.lk c p with proposed := none, unanswered := none }) c noWord))

/-- A lane of an SX-4 macro is recalibrated: it is shown busy, and a four-lane link proposes to go on with two others; a
failed recalibration is reported and raised and leaves the lane failed; a passed one has the port propose all four lanes.
When a recalibration's check is over on both ends, a lane that passed has the port propose all four lanes again, and
one that did not is left failed, with result 2 and RECAL_DONE.
A margin measurement of a lane that carries traffic puts the middle eye's height and width into the lane's words and,
above S0, the outer eyes' heights; MARGIN_LOW is raised when one of them is below margin_low. -/
def Obligations.LanesAreRecalibratedAndMeasured : Prop :=
  (∀ (s : State) (k lane : Nat), k < 4 → lane < 144 → s.m.bit .sx (Pg.serdes k) F.sdsRecalStatus_busy = false →
      (s.m.lk .sx ((144 * k + lane) / 4)).st = .up →
      ((s.m.lk .sx ((144 * k + lane) / 4)).mask ≠ 15 →
        ∃ t, exec (.laneRecalibrate k lane) s = .next t ∧ t.m.stored .sx (Pg.serdes k) F.sdsRecalStatus_busy = 1 ∧
          t.m.stored .sx (Pg.serdes k) F.sdsRecalStatus_lane = lane ∧
          s.becomes t (s.m.setLk .sx ((144 * k + lane) / 4)
            { s.m.lk .sx ((144 * k + lane) / 4) with recal := some (lane % 4) }) .sx
            (fun j => laneWord .sx ((144 * k + lane) / 4) j || j == item (Pg.serdes k) 0 F.sdsRecalStatus_busy.off)) ∧
      ((s.m.lk .sx ((144 * k + lane) / 4)).mask = 15 → s.m.minWidth .sx ((144 * k + lane) / 4) ≤ 2 →
        ∃ t, exec (.laneRecalibrate k lane) s = .next t ∧ t.m.stored .sx (Pg.serdes k) F.sdsRecalStatus_busy = 1 ∧
          t.m.stored .sx (Pg.serdes k) F.sdsRecalStatus_lane = lane ∧
          t.m.driven = .ctl .sx ((144 * k + lane) / 4) (.lane 0 (if lane % 4 < 2 then (if lane % 4 = 0 then 6 else 5) else 3)) :: s.m.driven ∧
          s.becomes t (s.m.setLk .sx ((144 * k + lane) / 4)
            { s.m.lk .sx ((144 * k + lane) / 4) with
              recal := some (lane % 4), proposed := some (if lane % 4 < 2 then (if lane % 4 = 0 then 6 else 5) else 3),
              unanswered := some (.lane 0 (if lane % 4 < 2 then (if lane % 4 = 0 then 6 else 5) else 3)) }) .sx
            (fun j => laneWord .sx ((144 * k + lane) / 4) j || j == item (Pg.serdes k) 0 F.sdsRecalStatus_busy.off))) ∧
  (∀ (s : State) (k lane : Nat), k < 4 → lane < 144 → s.m.bit .sx (Pg.serdes k) F.sdsRecalStatus_busy = true →
      s.m.fld .sx (Pg.serdes k) F.sdsRecalStatus_lane = lane →
      (s.m.lk .sx ((144 * k + lane) / 4)).st = .up → (s.m.lk .sx ((144 * k + lane) / 4)).recal = some (lane % 4) →
      (s.m.lk .sx ((144 * k + lane) / 4)).proposed = none →
      (∃ t, exec (.laneRecalComplete k true) s = .next t ∧
        t.m.driven = .ctl .sx ((144 * k + lane) / 4) (.lane 2 15) :: s.m.driven ∧
        s.becomes t (s.m.setLk .sx ((144 * k + lane) / 4)
          { s.m.lk .sx ((144 * k + lane) / 4) with
            proposed := some 15, failedLanes := 0, unanswered := some (.lane 2 15) }) .sx noWord) ∧
      (∃ t, exec (.laneRecalComplete k false) s = .next t ∧ t.m.event .sx (Pg.serdes k) 1 = true ∧
        t.m.stored .sx (Pg.serdes k) F.sdsRecalStatus_busy = 0 ∧ t.m.stored .sx (Pg.serdes k) F.sdsRecalStatus_result = 2 ∧
        s.becomes t (s.m.setLk .sx ((144 * k + lane) / 4)
          { s.m.lk .sx ((144 * k + lane) / 4) with
            recal := none, unanswered := none,
            failedLanes := (s.m.lk .sx ((144 * k + lane) / 4)).failedLanes ||| 2 ^ (lane % 4) }) .sx
          (fun j => eventWord (Pg.serdes k) j || (laneWord .sx ((144 * k + lane) / 4) j
            || j == item (Pg.serdes k) 0 F.sdsRecalStatus_busy.off)))) ∧
  (∀ (s : State) (lane upper mid lower width : Nat), lane < 576 → upper < 256 → mid < 256 → lower < 256 → width < 256 →
      bitsOf (s.m.lk .sx (lane / 4)).mask (lane % 4) 1 = 1 → (s.m.lk .sx (lane / 4)).st = .up →
      (s.m.lk .sx (lane / 4)).step ≠ 0 →
      ∃ t, exec (.marginMeasure lane upper mid lower width) s = .next t ∧
        (t.m.word .sx (item (Pg.serdes (lane / 144)) 1 (8 * (lane % 144) + 1))).toNat
          = upper + mid * 2 ^ 8 + lower * 2 ^ 16 + width * 2 ^ 24 ∧
        ((s.m.fld .sx (Pg.serdes (lane / 144)) F.sdsMarginCtrl_marginLow > min upper (min mid lower) →
          t.m.event .sx (Pg.serdes (lane / 144)) 0 = true) ∧
        (s.m.fld .sx (Pg.serdes (lane / 144)) F.sdsMarginCtrl_marginLow ≤ min upper (min mid lower) → s.m.regsKept t.m .sx
          (fun j => j == item (Pg.serdes (lane / 144)) 1 (8 * (lane % 144) + 1)))) ∧
        s.becomes t s.m .sx (fun j => eventWord (Pg.serdes (lane / 144)) j
          || j == item (Pg.serdes (lane / 144)) 1 (8 * (lane % 144) + 1)))

/-! ## The switch core and the buffers -/

/-- A packet that passes the checks of its port and whose destination is another node with a route by port A is placed last
in the ingress queue of that port; one whose source is not the port's partner is discarded, counted and recorded, and its
credits return. -/
def Obligations.PacketsAreCheckedAndPlaced : Prop :=
  ∀ (s : State) (p : Nat) (x : Packet), p < 144 → s.m.isUp .sx p = true → 32 ≤ x.extent → malformed .sx x = none →
    (x.src ≠ s.m.partnerNode p → s.m.power.f = 64 → s.m.shedLevel < 4 → ∃ t, exec (.ordinaryPacket p x) s = .next t ∧
      s.m.counted t.m .sx (Pg.port p) R.prtSrcMismatchCnt ∧
      (t.m.word .sx (item (Pg.port p) 0 R.prtPktErrLast)).toNat = 0x11 + x.opcode * 2 ^ 8 + x.vc * 2 ^ 16 ∧
      s.becomes t (s.m.returnCredit .sx p x.vc (ceilDiv x.extent 16)) .sx
        (fun k => portWord p R.prtSrcMismatchCnt k || portWord p R.prtPktErrLast k)) ∧
    (x.src = s.m.partnerNode p → s.m.gusset = [] → s.m.newcomerPair p = none → s.m.keyOk p x = true →
      s.m.epochOk .sx x = true → isRequest x.opcode = true → x.vc = 0 → x.dst ≠ s.m.sxNode →
      s.m.lookup .sx Pg.chip 2 x.dst F.route_mode = 1 → s.m.lookup .sx Pg.chip 2 x.dst F.route_portA < 144 →
      s.m.zlyOn = false → s.m.shedLevel < 4 →
      ∃ t, exec (.ordinaryPacket p x) s = .next t ∧
        t.m.held = s.m.held ++
          [{ id := s.m.nextId, pkt := x, input := p, output := s.m.lookup .sx Pg.chip 2 x.dst F.route_portA,
             arrived := x.granules }] ∧
        s.becomes t { s.m with
          held := t.m.held, nextId := s.m.nextId + 1, smpCount := t.m.smpCount, smpNow := t.m.smpNow,
          smpWait := t.m.smpWait } .sx (fun k => itemPage k == Pg.mdr))

/-- The account of a packet's output and VC decides for the first undecided packet of an ingress queue.  Where the Lining is
not allowed and nothing of the account waits, the guaranteed part takes it while it fits below the minimum, else the shared
part within its share, else it waits last in the list; behind a waiting packet of its account it waits as well.
A request that waits alone in its cluster is admitted to the guaranteed part as soon as it fits there. -/
def Obligations.PacketsAreAdmittedByTheirAccounts : Prop :=
  (∀ (s : State) (h : Held) (pre post : List Held), s.m.held = pre ++ h :: post → h.part = .none →
      (∀ e ∈ pre, ¬(e.input = h.input ∧ e.output = h.output ∧ e.vc = h.vc ∧ (e.part = .none ∨ e.part = .waiting))) →
      (∀ e ∈ pre ++ post, e.id ≠ h.id) → h.output < 144 → h.input < 144 → h.vc < 6 → s.m.deadPort h.output = false →
      s.m.cutOff h = false → s.m.out1 = [] → (s.m.holdOf h.output).st = 0 → s.m.liningAllowed h.output h.vc = false →
      s.m.smpWait = [] → s.m.gusset = [] →
      ((∀ e ∈ pre ++ post, e.part = .waiting → e.acct ≠ h.acct) →
        s.m.heldIn h.acct .guaranteed + h.gran ≤ s.m.minOf h.acct.1 (acctVc h.acct.2) →
        ∃ t, exec (.admissionDecision h.input h.output h.vc) s = .next t ∧
          s.becomes t { s.m with held := pre ++ { h with part := .guaranteed } :: post } .sx noWord) ∧
      ((∀ e ∈ pre ++ post, e.part = .waiting → e.acct ≠ h.acct) →
        s.m.minOf h.acct.1 (acctVc h.acct.2) < s.m.heldIn h.acct .guaranteed + h.gran →
        (s.m.sharedOf h.acct + h.gran) * 8 ≤ 2 ^ s.m.alphaOf h.acct.1 (acctVc h.acct.2) * s.m.freeShared h.acct.1 →
        ∃ t, exec (.admissionDecision h.input h.output h.vc) s = .next t ∧
          s.becomes t { s.m with held := pre ++ { h with part := .shared } :: post } .sx noWord) ∧
      ((∃ e ∈ pre ++ post, e.part = .waiting ∧ e.acct = h.acct) ∨
          (s.m.minOf h.acct.1 (acctVc h.acct.2) < s.m.heldIn h.acct .guaranteed + h.gran ∧
            2 ^ s.m.alphaOf h.acct.1 (acctVc h.acct.2) * s.m.freeShared h.acct.1 < (s.m.sharedOf h.acct + h.gran) * 8) →
        ∃ t, exec (.admissionDecision h.input h.output h.vc) s = .next t ∧
          s.m.counted t.m .sx (Pg.cluster h.acct.1) R.cluAdmitWaitCnt ∧
          s.becomes t { s.m with
            held := pre ++ { h with part := .waiting, stamp := s.m.nextStamp } :: post, nextStamp := s.m.nextStamp + 1 } .sx
            (fun k => k == item (Pg.cluster h.acct.1) 0 R.cluAdmitWaitCnt))) ∧
  (∀ (s : State) (h : Held) (pre post : List Held), s.m.held = pre ++ h :: post → h.part = .waiting →
      (∀ e ∈ pre ++ post, e.part ≠ .waiting) → (∀ e ∈ pre ++ post, e.id ≠ h.id) → h.output < 144 → h.vc < 6 →
      h.acct.1 < 6 → s.m.liningAllowed h.output h.vc = false → s.m.smpWait = [] → s.m.gusset = [] →
      s.m.heldIn h.acct .guaranteed + h.gran ≤ s.m.minOf h.acct.1 (acctVc h.acct.2) →
      ∃ t, exec (.admitWaiting h.acct.1) s = .next t ∧
        s.becomes t { s.m with held := pre ++ { h with part := .guaranteed } :: post } .sx noWord)

/-- A claim that reaches an output tile is granted when nothing is queued on its port and VC, no cut-through packet is
granted or in progress on the port and fewer than four on the tile, and the port is up and awake; otherwise it is denied.
Either is counted, and the answer decides how the packet's cells go.
A port sends a whole stored packet that alone waits for it: it takes the packet's credits, sends its granules in as few
flits as hold them, keeps those for replay, counts the packet, and holds it no longer.  A Cuff result is counted as one.
A packet that has been cut through for 64 hold granules in a row is ended with STOMP: it is held no longer, a flit with
stomp goes out, the stomp is counted and CUT_THROUGH_STOMP raised.
What it fixes beyond the manual is the model's choice: log 28. -/
def Obligations.PortsTransmitAndCutThrough : Prop :=
  (∀ (s : State) (h : Held) (pre post : List Held), s.m.held = pre ++ h :: post → (∀ e ∈ pre ++ post, e.id ≠ h.id) →
      h.input < 144 → h.output < 144 → h.vc < 6 → s.m.smpWait = [] →
      (∀ e ∈ pre, ¬(e.input = h.input ∧ e.output = h.output ∧ e.vc = h.vc)) →
      (s.m.claims h = true →
        (∀ e ∈ pre ++ post, ¬(e.output = h.output ∧ e.vc = h.vc ∧ e.released ≠ 0)) →
        (∀ e ∈ pre ++ post, e.output = h.output → Mach.Held.cutting e = false) →
        ((pre ++ post).filter fun e => decide (e.output < 144) && e.output / 8 == h.output / 8 && Mach.Held.cutting e).length < 4 →
        s.m.isUp .sx h.output = true → (s.m.lk .sx h.output).txSleep = 0 →
        ∃ t, exec (.ctClaim h.input h.output h.vc) s = .next t ∧
          s.m.counted t.m .sx (Pg.tile (h.output / 8)) R.tilCtGrantCnt ∧
          s.becomes t { s.m with held := pre ++ { h with ct := .judged true } :: post } .sx
            (fun k => k == item (Pg.tile (h.output / 8)) 0 R.tilCtGrantCnt)) ∧
      (s.m.claims h = true →
        ((∃ e ∈ pre ++ post, e.output = h.output ∧ (e.vc = h.vc ∧ e.released ≠ 0 ∨ Mach.Held.cutting e = true)) ∨
          s.m.isUp .sx h.output = false ∨ (s.m.lk .sx h.output).txSleep ≠ 0) →
        ∃ t, exec (.ctClaim h.input h.output h.vc) s = .next t ∧
          s.m.counted t.m .sx (Pg.tile (h.output / 8)) R.tilCtDenyCnt ∧
          s.becomes t { s.m with held := pre ++ { h with ct := .judged false } :: post } .sx
            (fun k => k == item (Pg.tile (h.output / 8)) 0 R.tilCtDenyCnt)) ∧
      (∀ g : Bool, h.ct = .judged g →
        ∃ t, exec (.ctGrant h.input h.output h.vc) s = .next t ∧
          s.becomes t { s.m with held := pre ++ { h with ct := if g then .granted else .denied } :: post } .sx noWord)) ∧
  (∀ (s : State) (h : Held) (p : Nat), p < 144 → s.m.held = [h] → h.output = p → s.m.mayLeave p = true →
      (h.part = .guaranteed ∨ h.part = .shared ∨ h.part = .exempt) → h.released = h.gran → h.started = false → h.slotEnd = none → h.notBefore = 0 →
      (h.ct = .none ∨ h.ct = .denied) → s.m.canSend .sx p h.vc h.gran = true → s.m.keyOk p h.pkt = true → 0 < h.gran →
      s.m.marks h = false → h.vc < 6 →
      (h.input ≠ 172 → ∃ t, exec (.packetTransmit p) s = .next t ∧ t.m.held = [] ∧
        s.m.counted t.m .sx (Pg.port p) R.prtSfTxCnt ∧
        (t.m.lk .sx p).credit = (s.m.lk .sx p).credit.set h.vc ((s.m.lk .sx p).credit.getD h.vc 0 - h.gran) ∧
        (t.m.lk .sx p).replay.length = (s.m.lk .sx p).replay.length + ceilDiv h.gran 15 ∧
        s.becomes t { s.m.setLk .sx p (t.m.lk .sx p) with held := [], arb := t.m.arb, mapAcct := t.m.mapAcct } .sx
          (portWord p R.prtSfTxCnt)) ∧
      (h.input = 172 → h.vc = 3 → ∃ t, exec (.cuffCopySend p) s = .next t ∧ t.m.held = [] ∧
        s.m.counted t.m .sx (Pg.port p) R.prtSfTxCnt ∧ s.m.counted t.m .sx Pg.cuff R.cufResultCnt ∧
        (t.m.lk .sx p).credit = (s.m.lk .sx p).credit.set h.vc ((s.m.lk .sx p).credit.getD h.vc 0 - h.gran) ∧
        s.becomes t { s.m.setLk .sx p (t.m.lk .sx p) with held := [], mapAcct := t.m.mapAcct } .sx
          (fun k => portWord p R.prtSfTxCnt k || k == item Pg.cuff 0 R.cufResultCnt))) ∧
  (∀ (s : State) (h : Held) (p : Nat), p < 144 → s.m.held = [h] → h.output = p → h.started = true → 64 ≤ h.holds →
      h.arrived = h.formed →
      ∃ t, exec (.cutThroughStomp p) s = .next t ∧ t.m.event .sx (Pg.port p) 7 = true ∧
        s.m.counted t.m .sx (Pg.port p) R.prtStompTxCnt ∧ (∀ e ∈ t.m.held, e.input = 171) ∧
        (∃ f, (t.m.lk .sx p).replay = (s.m.lk .sx p).replay ++ [f] ∧ FlitHdr.stomp f.flit.hdr = true) ∧ s.kept t)

/-- One cell slot with a single stored packet of at most 16 granules and empty queues: it goes whole, as one cell with the
flow's next sequence number, to the intermediate tile of its own die that the pattern gives, and its credits return.
A cell that is due at its output tile with the flow's next sequence number is released in a cell slot: its granules
stand in the output queue.  A void one takes its packets with it, counted at no tile again.
A gap that has stood for 1,024 cell slots is passed: the flow goes on with the oldest cell held, and the loss is counted
and raised.  In the hem after their retirement tiles leave stage 2 and the patterns begin again.
A die-to-die module in service that fails waits for its hem, and of the cells in the crossing it keeps or loses any; in
that hem it is retired on both dies, counted and raised.
What it fixes beyond the manual is the model's choice: log 4. -/
def Obligations.CellsCrossTheFabric : Prop :=
  (∀ (s : State) (h : Held), s.m.held = [h] → h.input < 144 → h.output < 144 → h.formed = 0 →
      0 < h.gran → h.gran ≤ 16 → h.arrived = h.gran → h.part = .guaranteed → h.ct = .none → s.m.mid = [] → s.m.reseq = [] →
      s.m.out1 = [] → s.m.out2 = [] → s.m.power.f = 64 → s.m.shedLevel < 3 →
      ∃ t, exec (.cellSlot []) s = .next t ∧
        t.m.mid = [(9 * (h.input / 72) + (h.input / 8 % 9 + (s.m.slot - s.m.patStart)) % 9, h.output / 8,
          { input := h.input, output := h.output, vc := h.vc, seq := Tbl.get (fun _ => 0) s.m.seqIn h.flow,
            segs := [(h.id, h.gran)], keys := [h.key], express := false, present := s.m.slot + 1 })] ∧
        t.m.held = [{ h with formed := h.gran }] ∧
        Tbl.get (fun _ => 0) t.m.seqIn h.flow = (Tbl.get (fun _ => 0) s.m.seqIn h.flow + 1) % 4096 ∧
        s.becomes t { s.m.returnCredit .sx h.input h.vc h.gran with
          held := t.m.held, mid := t.m.mid, seqIn := t.m.seqIn, rrTile := t.m.rrTile, rrFlow := t.m.rrFlow,
          allow := t.m.allow, slot := s.m.slot + 1 } .sx noWord) ∧
  (∀ (s : State) (h : Held) (c : Cell), s.m.held = [h] → s.m.reseq = [c] → s.m.mid = [] → h.formed = h.gran →
      c.input = h.input → c.output = h.output → c.vc = h.vc → c.segs = [(h.id, h.gran)] → h.started = false →
      c.present ≤ s.m.slot → c.seq = Tbl.get (fun _ => 0) s.m.seqOut c.flow → s.m.out1 = [] → s.m.out2 = [] →
      (c.void = false → ∃ t, exec (.cellSlot []) s = .next t ∧
        s.becomes t { s.m with
          held := [{ h with released := h.released + h.gran }], reseq := [], allow := t.m.allow, slot := s.m.slot + 1,
          seqOut := Tbl.set (fun _ => 0) s.m.seqOut c.flow ((c.seq + 1) % 4096) } .sx noWord) ∧
      (c.void = true → h.arrived = h.formed → ∃ t, exec (.cellSlot []) s = .next t ∧
        s.becomes t { s.m with
          held := [], reseq := [], allow := t.m.allow, slot := s.m.slot + 1,
          seqOut := Tbl.set (fun _ => 0) s.m.seqOut c.flow ((c.seq + 1) % 4096) } .sx noWord)) ∧
  ((∀ (s : State) (tile : Nat) (c : Cell), tile < 18 → s.m.reseq = [c] → s.m.cellTile c = tile →
      c.present + 1024 ≤ s.m.slot → s.m.held = [] →
      ∃ t, exec (.reseqTimeout tile c.flow) s = .next t ∧ t.m.event .sx (Pg.tile tile) 0 = true ∧
        s.m.counted t.m .sx (Pg.tile tile) R.tilReseqTimeoutCnt ∧
        (c.seq < 4096 → Tbl.get (fun _ => 0) s.m.seqOut c.flow < 4096 → Tbl.get (fun _ => 0) t.m.seqOut c.flow = c.seq) ∧
        s.becomes t { s.m with seqOut := t.m.seqOut } .sx
          (fun k => eventWord (Pg.tile tile) k || k == item (Pg.tile tile) 0 R.tilReseqTimeoutCnt)) ∧
    (∀ s : State, s.m.out1 ≠ s.m.out2 → ∃ t, exec .tileRetireStage2 s = .next t ∧
      s.becomes t { s.m with
        out2 := s.m.out1, patStart := s.m.slot,
        mid := s.m.mid.filter fun e => !(s.m.out1.filter fun x => !s.m.out2.contains x).contains e.1 } .sx noWord)) ∧
  ((∀ (s : State) (k : Nat), k < 32 → k ∉ s.m.modFailed → bitsOf (s.m.reg .sx (Pg.die 0) R.dieD2dModules) k 1 = 1 →
      ∃ t, exec (.d2dModuleFailure k) s = .next t ∧ t.m.modFailed = s.m.modFailed ++ [k] ∧
        (∀ c ∈ t.m.reseq, c ∈ s.m.reseq) ∧ (∀ c ∈ s.m.reseq, c.present ≤ s.m.slot → c ∈ t.m.reseq) ∧
        s.becomes t { s.m with modFailed := t.m.modFailed, reseq := t.m.reseq, freeCtr := t.m.freeCtr } .sx noWord) ∧
    (∀ (s : State) (k n : Nat), k < 32 → s.m.modFailed = [k] → s.m.fld .sx (Pg.die 0) F.dieD2dStatus_active = n →
      s.m.fld .sx (Pg.die 1) F.dieD2dStatus_active = n → 9 ≤ n →
      ∃ t, exec .d2dModuleRetire s = .next t ∧
        (∀ d, d < 2 → t.m.event .sx (Pg.die d) 0 = true ∧ s.m.counted t.m .sx (Pg.die d) R.dieD2dRetireCnt ∧
          t.m.word .sx (item (Pg.die d) 0 R.dieD2dModules)
            = s.m.word .sx (item (Pg.die d) 0 R.dieD2dModules) &&& ~~~(BitVec.ofNat 32 (2 ^ k))) ∧
        s.becomes t { s.m with modFailed := [] } .sx
          (fun j => eventWord (Pg.die 0) j || eventWord (Pg.die 1) j ||
            [item (Pg.die 0) 0 R.dieD2dModules, item (Pg.die 1) 0 R.dieD2dModules, item (Pg.die 0) 0 R.dieD2dRetireCnt,
             item (Pg.die 1) 0 R.dieD2dRetireCnt, item (Pg.die 0) 0 F.dieD2dStatus_active.off,
             item (Pg.die 1) 0 F.dieD2dStatus_active.off].contains j)))

/-- The Lining: its packet is written once all its granules are released; once written, it is read back when the staging has
room; a readback without error leaves it wholly in the staging and is counted.
A port that is still down at the expiry of its hold is flushed: what was held for it is discarded and counted, the port
stays flushed until it comes up, and PORT_HOLD_FLUSHED is raised.
What it fixes beyond the manual is the model's choice: log 32. -/
def Obligations.HeldPacketsWaitInTheLiningAndAtPorts : Prop :=
  (∀ (s : State) (h : Held) (pre post : List Held), s.m.held = pre ++ h :: post → (∀ e ∈ pre ++ post, e.id ≠ h.id) →
      h.part = .lining → h.output < 169 → h.vc < 6 →
      (h.released = h.gran → ∃ t, exec (.liningWriteDone h.id) s = .next t ∧
        s.becomes t { s.m with held := pre ++ { h with written := true } :: post } .sx noWord) ∧
      (h.staging = 0 → h.written = true →
        (∀ e ∈ pre, ¬(e.output = h.output ∧ e.vc = h.vc ∧ e.part = .lining ∧ e.staging = 0)) →
        s.m.stagingUsed h.output + h.gran ≤ 2048 →
        ∃ t, exec (.liningReadbackStart h.output h.vc) s = .next t ∧
          s.becomes t { s.m with held := pre ++ { h with staging := 1 } :: post } .sx noWord) ∧
      (h.staging = 1 → ∃ t, exec (.liningReadbackDone h.id false) s = .next t ∧
        s.m.counted t.m .sx (Pg.cluster h.acct.1) R.cluReadbackPktCnt ∧
        s.becomes t { s.m with held := pre ++ { h with staging := 2 } :: post } .sx
          (fun k => k == item (Pg.cluster h.acct.1) 0 R.cluReadbackPktCnt)) ∧
      (h.staging = 1 → 0 < h.pkt.length → h.key = 0 → ∃ t, exec (.liningReadbackDone h.id true) s = .next t ∧
        t.m.event .sx (Pg.cluster h.acct.1) 2 = true ∧
        (t.m.held = pre ++ post ∨ t.m.held = pre ++ { h with staging := 2, pkt := h.pkt.setPoison } :: post))) ∧
  (∀ (s : State) (p : Nat), p < 144 → (s.m.holdOf p).st = 1 → (s.m.holdOf p).flushDue = false →
      (s.m.holdOf p).expiry ≤ s.m.time.number → s.m.isUp .sx p = false →
      ∃ t, exec (.portHoldExpiry p) s = .next t ∧ t.m.event .sx (Pg.port p) 8 = true ∧ (t.m.holdOf p).st = 2 ∧
        (∀ h ∈ t.m.held, h.output = p → h.part = .none ∨ h.input = 171) ∧ s.kept t ∧
        (t.m.word .sx (item (Pg.port p) 0 R.prtFlushPktCnt)).toNat
          = min ((s.m.word .sx (item (Pg.port p) 0 R.prtFlushPktCnt)).toNat
              + (s.m.held.filter fun h => h.output == p && h.part != .none).length) 0xFFFFFFFF)

/-! ## The memory services -/

/-- Integer atomics compute in place, modulo the operand's width: add, minimum and maximum (unsigned or signed), and compare
and swap, which stores only over the value compared.
A granted, readable sync object is read, changed by an atomic, or waited for: the answer carries its value before, the
waiters whose threshold the new value reaches are answered first, and a wait is answered at once, recorded, or, where the
cluster's table is full, answered with the present value.  A request that fails its checks changes no object and gets NACK.
A recorded wait whose limit has passed is answered with the object's present value and counted; the others stay.
What it fixes beyond the manual is the model's choice: log 17, 36, 37. -/
def Obligations.SyncObjectsComputeAndWait : Prop :=
  (∀ w, w < 2 → ∀ old v u : Nat, old < 2 ^ (32 * 2 ^ w) → v < 2 ^ (32 * 2 ^ w) → u < 2 ^ (32 * 2 ^ w) →
      let n := 4 * 2 ^ w
      let run := fun (modifier : Nat) => ofLeBytes (atomicBytes modifier (leBytes n old) (leBytes n v ++ leBytes n u))
      run (16 * w) = (old + v) % 2 ^ (8 * n) ∧ run (16 * w + 64) = (old + v) % 2 ^ (8 * n) ∧
      run (16 * w + 1) = min old v ∧ run (16 * w + 2) = max old v ∧
      (signedOf (run (16 * w + 65)) (8 * n) = min (signedOf old (8 * n)) (signedOf v (8 * n))) ∧
      (signedOf (run (16 * w + 66)) (8 * n) = max (signedOf old (8 * n)) (signedOf v (8 * n))) ∧
      run (16 * w + 3) = if old = v then u else old) ∧
  (∀ (s : State) (p : Nat) (x : Packet), p < 144 → x.dst = s.m.sxNode → x.addrSpace = 1 →
      s.m.atTarget 162 168 x (162 + objCluster (x.offset / 8)) none →
      let i := x.offset / 8
      let cl := objCluster i
      let v := s.m.obj i
      let o := s.m.taken 162 168 x p
      let e := ({ s.m with held := o.2 } : Mach).svcEcho cl
      let ops := pageWord (Pg.cluster cl) R.cluSyncOpsCnt
      let ntf := pageWord (Pg.cluster cl) R.cluSyncNotifyCnt
      (∀ st c, s.m.syncRefusal x = some st → requestInstr .sx p x = some c → ∃ t, exec c s = .next t ∧
        s.becomes t { s.m with
          held := s.m.heldWith o cl [s.m.response .sx x Op.nack st e 0 0 []], nextId := s.m.nextId + 1 } .sx noWord) ∧
      (s.m.syncRefusal x = none → i ∉ s.m.mem.objPoison → i ∉ s.m.mem.objBad → s.m.mem.reqs = [] →
        (∀ h ∈ s.m.held, h.parked = none) →
        (x.opcode = Op.read → ∃ t, exec (.read .sx p x) s = .next t ∧
          s.m.counted t.m .sx (Pg.cluster cl) R.cluSyncOpsCnt ∧
          s.becomes t { s.m with
            held := s.m.heldWith o cl [s.m.response .sx x Op.readData 0 e 0 0 (leBytes 8 v.toNat)],
            nextId := s.m.nextId + 1, mem := { s.m.mem with nextReq := s.m.mem.nextReq + 1 } } .sx ops) ∧
        (∀ c, x.opcode = Op.atomic ∨ x.opcode = Op.atomicPosted → requestInstr .sx p x = some c →
          let new := BitVec.ofNat 64 (ofLeBytes (atomicBytes x.modifier (leBytes 8 v.toNat) x.payload))
          let answer := if x.opcode = Op.atomic then s.m.response .sx x Op.atomicData 0 e 0 0 (leBytes 8 v.toNat)
            else s.m.response .sx x Op.atomicAck 0 e 0 0 []
          ((∀ w ∈ s.m.mem.waiters, w.obj = i → new.toNat < w.thr) → ∃ t, exec c s = .next t ∧
            s.m.counted t.m .sx (Pg.cluster cl) R.cluSyncOpsCnt ∧
            s.becomes t { s.m with
              held := s.m.heldWith o cl [answer], nextId := s.m.nextId + 1,
              mem := { s.m.mem with
                nextReq := s.m.mem.nextReq + 1, obj := Tbl.set (fun _ => 0) s.m.mem.obj i new } } .sx ops) ∧
          (∀ w, s.m.mem.waiters = [w] → w.obj = i → w.thr ≤ new.toNat → ∃ t, exec c s = .next t ∧
            s.m.counted t.m .sx (Pg.cluster cl) R.cluSyncOpsCnt ∧ s.m.counted t.m .sx (Pg.cluster cl) R.cluSyncNotifyCnt ∧
            t.m.mem.waiters = [] ∧ t.m.obj i = new ∧
            (∃ a b, t.m.held = o.2 ++ [a, b] ∧ a.output = w.port ∧ a.pkt.opcode = Op.syncNotify ∧
              a.pkt.payload = leBytes 8 new.toNat ∧ a.pkt.tag = w.pkt.tag ∧ b.output = o.1 ∧
              b.pkt.opcode = (if x.opcode = Op.atomic then Op.atomicData else Op.atomicAck)) ∧
            s.m.regsKept t.m .sx (fun k => ops k || ntf k) ∧ s.kept t)) ∧
        (x.opcode = Op.syncWait →
          let value := s.m.response .sx x Op.syncNotify 0 e 0 0 (leBytes 8 v.toNat)
          (x.aux ≤ v.toNat → ∃ t, exec (.syncWait .sx p x) s = .next t ∧
            s.m.counted t.m .sx (Pg.cluster cl) R.cluSyncNotifyCnt ∧
            s.becomes t { s.m with
              held := s.m.heldWith o cl [value], nextId := s.m.nextId + 1,
              mem := { s.m.mem with nextReq := s.m.mem.nextReq + 1 } } .sx (fun k => ops k || ntf k)) ∧
          (v.toNat < x.aux → s.m.waitersIn cl < 8192 → ∃ t, exec (.syncWait .sx p x) s = .next t ∧
            s.becomes t { s.m with
              held := o.2,
              mem := { s.m.mem with
                nextReq := s.m.mem.nextReq + 1,
                waiters := s.m.mem.waiters ++ [{
                  obj := i, thr := x.aux, at_ := s.m.time.number, port := o.1, pkt := x,
                  limit := s.m.fld .sx (Pg.cluster cl) F.cluSyncCtrl_waitLimit }] } } .sx ops) ∧
          (v.toNat < x.aux → 8192 ≤ s.m.waitersIn cl → ∃ t, exec (.syncWait .sx p x) s = .next t ∧
            s.m.counted t.m .sx (Pg.cluster cl) R.cluSyncWaitFullCnt ∧
            s.becomes t { s.m with
              held := s.m.heldWith o cl [value], nextId := s.m.nextId + 1,
              mem := { s.m.mem with nextReq := s.m.mem.nextReq + 1 } } .sx
              (fun k => ops k || k == item (Pg.cluster cl) 0 R.cluSyncWaitFullCnt))))) ∧
  (∀ (s : State) (w : Waiter) (pre post : List Waiter), s.m.mem.waiters = pre ++ w :: post → w.limit ≠ 0 →
      w.at_ + w.limit ≤ s.m.time.number → (∀ u ∈ pre ++ post, u.limit = 0 ∨ s.m.time.number < u.at_ + u.limit) →
      ∃ t, exec .syncWaitExpiry s = .next t ∧ s.m.counted t.m .sx (Pg.cluster (objCluster w.obj)) R.cluSyncExpiredCnt ∧
        (∃ a, t.m.held = s.m.held ++ [a] ∧ a.output = w.port ∧ a.pkt.opcode = Op.syncNotify ∧ a.pkt.tag = w.pkt.tag ∧
          a.pkt.payload = leBytes 8 (s.m.obj w.obj).toNat) ∧
        s.becomes t { s.m with
          held := t.m.held, nextId := s.m.nextId + 1, mem := { s.m.mem with waiters := pre ++ post } } .sx
          (pageWord (Pg.cluster (objCluster w.obj)) R.cluSyncExpiredCnt))

/-- The interleave of a region places its bytes in different places, and the parts of a request cover exactly its bytes where
the interleave places them. -/
def Obligations.ThePoolIsInterleaved : Prop :=
  ∀ r : PoolMap, stacksOf r.mask ≠ [] →
    (∀ a b, r.fabBase * 2 ^ 26 ≤ a → r.fabBase * 2 ^ 26 ≤ b → r.locate a = r.locate b → a = b) ∧
    (∀ x : Packet, r.fabBase * 2 ^ 26 ≤ x.offset →
      (∀ pt ∈ partsOf r x, 0 < pt.len ∧ pt.off + pt.len ≤ requestBytes x ∧
        ∀ k, k < pt.len → r.locate (x.offset + pt.off + k) = (pt.stack, pt.addr + k)) ∧
      ∀ k, k < requestBytes x → ∃ pt ∈ partsOf r x, pt.off ≤ k ∧ k < pt.off + pt.len)

/-- A request for the pool is taken into its cluster with its parts; one without bytes is answered at once; an atomic that
finds no operation entry parks and keeps its place.
A freed operation entry goes to the request parked alone in the cluster: it leaves the switch and its parts are issued.
The last part of a pool request, free of errors: a write stores its bytes and no other byte and is acknowledged, a read
answers the bytes of its stack, an atomic stores what it computes and answers the bytes before; then the request is gone.
What it fixes beyond the manual is the model's choice: log 17. -/
def Obligations.PoolRequestsAreServedInParts : Prop :=
  (∀ (s : State) (p : Nat) (x : Packet) (r : PoolMap) (c : Instr), p < 144 → x.dst = s.m.sxNode → x.addrSpace = 0 →
      x.opcode ≠ Op.syncWait → requestInstr .sx p x = some c → s.m.atTarget 162 168 x (162 + (r.locate x.offset).1) (some r) →
      (s.m.findAt 162 168 x = none → s.m.mapPool x = some r) →
      let cl := (r.locate x.offset).1
      let o := s.m.taken 162 168 x p
      let n := s.m.mem.nextReq
      (∀ st, s.m.svcRefusal (some r) x = some st → ∃ t, exec c s = .next t ∧
        s.becomes t { s.m with
          held := s.m.heldWith o cl [s.m.response .sx x Op.nack st (({ s.m with held := o.2 } : Mach).svcEcho cl) 0 0 []],
          nextId := s.m.nextId + 1 } .sx noWord) ∧
      (s.m.svcRefusal (some r) x = none → s.m.mustPark cl (some r) x = false → 0 < requestBytes x →
        ∃ t, exec c s = .next t ∧ s.becomes t { s.m with
          held := o.2,
          mem := { s.m.mem with
            nextReq := n + 1,
            reqs := s.m.mem.reqs ++ [{
              id := n, pkt := x, port := o.1, home := cl, map := some r, parts := partsOf r x,
              entry := entryOf (some r) x }] } } .sx noWord) ∧
      (s.m.svcRefusal (some r) x = none → x.opcode = Op.write → requestBytes x = 0 → s.m.heldBack n x = false →
        ∃ t, exec c s = .next t ∧ s.becomes t { s.m with
          held := s.m.heldWith o cl [s.m.response .sx x Op.writeAck 0 (({ s.m with held := o.2 } : Mach).svcEcho cl) 0 0 []],
          nextId := s.m.nextId + 1,
          mem := { s.m.mem with nextReq := n + 1, reqs := s.m.mem.reqs.filter fun q => q.id != n } } .sx noWord) ∧
      (∀ h pre post, s.m.held = pre ++ h :: post → s.m.findAt 162 168 x = some h → s.m.svcRefusal (some r) x = none →
        s.m.mustPark cl (some r) x = true → (∀ e ∈ pre ++ post, e.id ≠ h.id) →
        ∃ t, exec c s = .next t ∧ s.m.counted t.m .sx (Pg.cluster cl) R.cluAtomParkCnt ∧
          s.becomes t { s.m with
            held := pre ++ { h with parked := some n } :: post, mem := { s.m.mem with nextReq := n + 1 } } .sx
            (pageWord (Pg.cluster cl) R.cluAtomParkCnt))) ∧
  (∀ (s : State) (h : Held) (pre post : List Held), s.m.held = pre ++ h :: post → ∀ (cl n : Nat) (r : PoolMap), cl < 6 →
      h.output = 162 + cl → h.parked = some n → h.pool = some r → (∀ e ∈ pre ++ post, e.id ≠ h.id) →
      (∀ e ∈ pre ++ post, e.output = 162 + cl → e.parked = none) → s.m.mustPark cl (some r) h.pkt = false →
      0 < requestBytes h.pkt →
      ∃ t, exec (.parkedRequestResume cl) s = .next t ∧ s.becomes t { s.m with
        held := pre ++ post,
        mem := { s.m.mem with reqs := s.m.mem.reqs ++ [{
          id := n, pkt := h.pkt, port := h.input, home := cl, map := some r, parts := partsOf r h.pkt,
          entry := entryOf (some r) h.pkt }] } } .sx noWord) ∧
  (∀ (s : State) (r : PoolReq) (pre post : List PoolReq), s.m.mem.reqs = pre ++ r :: post → ∀ pt, r.parts = [pt] →
      (∀ e ∈ pre ++ post, e.id ≠ r.id) → r.map ≠ none → s.m.heldBack r.id r.pkt = false → pt.done = false →
      pt.off = 0 → r.data = [] → r.badSeg = [] → r.poisoned = false → 0 < pt.len → pt.len ≤ 256 → pt.addr < 2 ^ 40 →
      s.m.mem.bad = [] →
      let base := hbmKey pt.stack pt.addr
      let e := s.m.svcEcho r.home
      let old := Mem.readN s.store.hbm base pt.len
      let done := fun (t : State) (a : Packet) =>
        t.m.bare = ({ s.m with
          held := s.m.heldWith (r.port, s.m.held) r.home [a], nextId := s.m.nextId + 1,
          mem := { s.m.mem with reqs := pre ++ post, ceCount := t.m.mem.ceCount } } : Mach).bare ∧
        (∀ k, Tbl.get (fun _ => 0) t.m.mem.ceCount k = Tbl.get (fun _ => 0) s.m.mem.ceCount k) ∧
        t.m.rf .ep = s.m.rf .ep ∧ t.store = { s.store with hbm := t.store.hbm } ∧ t.pending = s.pending
      let stored := fun (t : State) (bs : List Byte) =>
        ∀ a, t.store.hbm.read a = if base ≤ a ∧ a < base + pt.len then bs.getD (a - base) 0 else s.store.hbm.read a
      ((r.pkt.opcode = Op.write ∨ r.pkt.opcode = Op.flagWrite) → r.pkt.payload.length = pt.len →
        ∃ t, exec (.poolPartDone r.id 0 [] []) s = .next t ∧ stored t r.pkt.payload ∧
          done t (s.m.response .sx r.pkt Op.writeAck 0 e 0 0 []) ∧ s.m.regsKept t.m .sx noWord) ∧
      (r.pkt.opcode = Op.read → ∃ t, exec (.poolPartDone r.id 0 [] []) s = .next t ∧ t.store = s.store ∧
        done t (s.m.readSegment .sx r.pkt 0 true false e old) ∧ s.m.regsKept t.m .sx noWord) ∧
      (r.pkt.opcode = Op.atomic ∨ r.pkt.opcode = Op.atomicPosted → pt.len = atomicWidth r.pkt.modifier →
        ∃ t, exec (.poolPartDone r.id 0 [] []) s = .next t ∧ stored t (atomicBytes r.pkt.modifier old r.pkt.payload) ∧
          done t (if r.pkt.opcode = Op.atomic then s.m.response .sx r.pkt Op.atomicData 0 e 0 0 old
            else s.m.response .sx r.pkt Op.atomicAck 0 e 0 0 []) ∧
          s.m.counted t.m .sx (Pg.cluster pt.stack) R.cluAtomPoolCnt ∧
          s.m.regsKept t.m .sx (pageWord (Pg.cluster pt.stack) R.cluAtomPoolCnt)))

/-! ## The stacks, power, telemetry and the Gusset -/

/-- A region that is being zeroed serves once its extent reads as zeros, every other byte kept; it waits while requests of
the old mapping run and at shed level 4.
The scrubber of a serving stack steps through the pool area and counts its passes; what it corrects is counted, what it
cannot correct reads as uncorrectable from then on, is counted and raised.  It rests while disabled and under shedding.
An interval's end begins the error count of its stack again.  A stack that fails ends the accesses in flight to it and
waits for its hem; there it is retired: no region and no Lining packet stays on it, its bit is set and the event raised.
What it fixes beyond the manual is the model's choice: log 39. -/
def Obligations.StacksAreZeroedScrubbedAndRetired : Prop :=
  (∀ (s : State) (r : Nat), r < 64 →
      (s.m.regionState r = 1 → s.m.mappedTo r = false → s.m.shedLevel ≠ 4 →
        ∃ t, exec (.regionZeroingDone r) s = .next t ∧ t.m.regionState r = 2 ∧
          (∀ a, t.store.hbm.read a = if s.m.inExtent r a then 0 else s.store.hbm.read a) ∧
          t.m.bare = ({ s.m with
            mem := { s.m.mem with bad := s.m.mem.bad.filter fun w => !s.m.inExtent r (32 * w) } } : Mach).bare ∧
          s.m.regsKept t.m .sx (fun k => k == item Pg.chip 4 r) ∧ t.m.rf .ep = s.m.rf .ep ∧
          t.store = { s.store with hbm := t.store.hbm } ∧ t.pending = s.pending) ∧
      (s.m.regionState r ≠ 1 ∨ s.m.mappedTo r = true ∨ s.m.shedLevel = 4 → exec (.regionZeroingDone r) s = .next s)) ∧
  (∀ (s : State) (k : Nat), k < 6 →
      let total := s.m.poolUnits k * 2 ^ 21
      let p := Tbl.get (fun _ => 0) s.m.mem.scrubAt k
      let moved := Tbl.set (fun _ => 0) s.m.mem.scrubAt k ((p + 1) % total)
      let pass := fun t : State => p + 1 = total → s.m.counted t.m .sx (Pg.cluster k) R.cluScrubPassCnt
      (s.m.bit .sx (Pg.cluster k) F.cluScrubCtrl_scrubEn = true → s.m.shedLevel = 0 → k ∉ s.m.mem.retired →
        s.m.mem.selfRefresh = false → p < total → k * 2 ^ 35 + p ∉ s.m.mem.bad →
        (∃ t, exec (.scrubRead k 0) s = .next t ∧ pass t ∧
          s.becomes t { s.m with mem := { s.m.mem with scrubAt := moved } } .sx
            (fun j => p + 1 == total && pageWord (Pg.cluster k) R.cluScrubPassCnt j)) ∧
        (Tbl.get (fun _ => 0) s.m.mem.ceCount k + 1 ≤ s.m.fld .sx (Pg.cluster k) F.cluScrubCtrl_ceLimit →
          ∃ t, exec (.scrubRead k 1) s = .next t ∧ pass t ∧ s.m.counted t.m .sx (Pg.cluster k) R.cluHbmCeCnt ∧
            s.becomes t { s.m with
              mem := { s.m.mem with
                scrubAt := moved,
                ceCount := Tbl.set (fun _ => 0) s.m.mem.ceCount k (Tbl.get (fun _ => 0) s.m.mem.ceCount k + 1) } } .sx
              (fun j => pageWord (Pg.cluster k) R.cluScrubPassCnt j || pageWord (Pg.cluster k) R.cluHbmCeCnt j)) ∧
        (s.m.regionAt k (32 * p) = none →
          ∃ t, exec (.scrubRead k 2) s = .next t ∧ pass t ∧ s.m.counted t.m .sx (Pg.cluster k) R.cluHbmUeCnt ∧
            t.m.event .sx (Pg.cluster k) 4 = true ∧
            s.becomes t { s.m with
              mem := { s.m.mem with scrubAt := moved, bad := (k * 2 ^ 35 + p) :: s.m.mem.bad } } .sx
              (fun j => pageWord (Pg.cluster k) R.cluScrubPassCnt j || pageWord (Pg.cluster k) R.cluHbmUeCnt j
                || eventWord (Pg.cluster k) j))) ∧
      (s.m.bit .sx (Pg.cluster k) F.cluScrubCtrl_scrubEn = false ∨ s.m.shedLevel ≠ 0 ∨ k ∈ s.m.mem.retired ∨
          s.m.mem.selfRefresh = true → ∀ o, exec (.scrubRead k o) s = .next s)) ∧
  ((∀ (s : State) (k : Nat), k < 6 → ∃ t, exec (.hbmCeInterval k) s = .next t ∧
      s.becomes t { s.m with mem := { s.m.mem with ceCount := Tbl.set (fun _ => 0) s.m.mem.ceCount k 0 } } .sx noWord) ∧
    (∀ (s : State) (k : Nat), k < 6 → k ∉ s.m.mem.retired → k ∉ s.m.mem.failing →
      (∀ r ∈ s.m.mem.reqs, ∀ pt ∈ r.parts, pt.stack = k → pt.done = true) →
      ∃ t, exec (.hbmStackFailure k) s = .next t ∧
        s.becomes t { s.m with
          mem := { s.m.mem with failing := s.m.mem.failing ++ [k] },
          torn := (s.m.torn ++ s.m.clusterHolds k).eraseDups } .sx noWord) ∧
    (∀ (s : State) (k : Nat), k < 6 → k ∉ s.m.mem.retired → k ∉ s.m.mem.failing → ∀ r, s.m.mem.reqs = [r] →
      ∀ pt, r.parts = [pt] → pt.stack = k → pt.done = false → r.pkt.opcode = Op.write →
      ∃ t, exec (.hbmStackFailure k) s = .next t ∧ t.m.mem.reqs = [] ∧
        t.m.held = s.m.heldWith (r.port, s.m.held) r.home
          [s.m.response .sx r.pkt Op.nack Status.poisoned (s.m.svcEcho r.home) 0 0 []] ∧ s.kept t) ∧
    (∀ (s : State) (k : Nat), k < 6 → s.m.mem.failing = [k] → k ∉ s.m.mem.retired → s.m.mem.reqs = [] →
      ∃ t, exec .hbmStackRetireHem s = .next t ∧ t.m.mem.retired = k :: s.m.mem.retired ∧ t.m.mem.failing = [] ∧
        t.m.event .sx Pg.chip 3 = true ∧ bitsOf (t.m.liveCopy .sx (item Pg.chip 0 R.chpStackRetire)).toNat k 1 = 1 ∧
        (∀ r, r < 64 → s.m.rg r F.region_valid = 1 → k ∈ stacksOf (s.m.rg r F.region_stackMask) → t.m.storedT .sx Pg.chip 4 1 r F.regionStat_state = 3) ∧
        (∀ h ∈ t.m.held, h.part = .lining → h.staging ≠ 2 → h.acct.1 ≠ k) ∧ s.kept t))

/-- A source of the shed level follows its triggers at once when they ask for more, and waits for its hem: the voltage, by
the thresholds of the lowest monitor, and PWRBRK_N, which asks for 1 at once, for 2 after 1 ms and is stuck after 1 s.
In the hem the effective level becomes the largest of the sources' levels; a source that may fall does so by one level,
and the effective level follows once no source has just risen.  At level 4, with no access in flight, the stacks enter
self-refresh.
With no thermal trigger present, the hottest reading asks for level 4 at t_crit, 3 at 5 °C above t_throttle, 2 at
t_throttle; a reading of the die of 125 °C drives THERMTRIP.  HBM4 readings ask by t_hbm in the same way, up to level 3.
What it fixes beyond the manual is the model's choice: log 104, 105. -/
def Obligations.ShedLevelsFollowTheirSources : Prop :=
  ((∀ (s : State) (mv : Nat),
      let l := if 2 * mv < 1365 then 4 else if 2 * mv < 1395 then 3 else if 2 * mv < 1425 then 2
        else if 2 * mv < 1455 then 1 else 0
      let v := s.m.power.volt
      ∃ t, exec (.voltageTrigger mv) s = .next t ∧ t.m.power.volt.cond = l ∧ t.m.power.volt.level = max v.level l ∧
        t.m.power.volt.risen = (v.risen || decide (v.level < l)) ∧ t.m.power.volt.changed = v.changed ∧
        t.m.shedLevel = s.m.shedLevel ∧ s.becomes t { s.m with power := { s.m.power with volt := t.m.power.volt } } .sx
          (pageWord Pg.power F.pwrShedStatus_vLevel.off)) ∧
    (∀ s : State, s.m.power.brkPin = false → s.m.power.brkSince = none →
      ∃ t, exec (.pwrbrkN true) s = .next t ∧ t.m.power.brkPin = true ∧ t.m.power.brkSince = some s.m.time.number ∧
        t.m.power.brk.level = max s.m.power.brk.level (max s.m.power.brk.cond 1) ∧
        t.m.stored .sx Pg.chip F.chpPinStatus_pwrbrk = 1 ∧
        s.becomes t { s.m with
          power := { s.m.power with brkPin := true, brkSince := t.m.power.brkSince, brk := t.m.power.brk },
          changes := t.m.changes, chatter := t.m.chatter } .sx
          (fun k => itemPage k == Pg.power || itemPage k == Pg.chip || itemPage k == Pg.trace)) ∧
    (∀ (s : State) (t0 : Nat), s.m.power.brkSince = some t0 → ∃ t, exec .pwrbrkHold s = .next t ∧
      (t0 + 2000 ≤ s.m.time.number → t.m.power.brk.level = max s.m.power.brk.level 2) ∧
      (t0 + 2000000 ≤ s.m.time.number → t.m.power.stuck = true) ∧
      (t0 + 2000000 ≤ s.m.time.number → s.m.power.stuck = false → t.m.event .sx Pg.power 1 = true) ∧
      (s.m.time.number < t0 + 2000 → t = s) ∧
      s.becomes t { s.m with power := { s.m.power with brk := t.m.power.brk, stuck := t.m.power.stuck } } .sx
        (fun k => pageWord Pg.power F.pwrShedStatus_brkLevel.off k || eventWord Pg.power k))) ∧
  ((∀ s : State, (∀ i, i < 5 → (s.m.shedSrc i).level ≤ 4) → s.m.shedLevel ≤ 4 →
      ∃ t, exec .shedRise s = .next t ∧
        t.m.shedLevel = max s.m.shedLevel ((List.range 5).foldl (fun a i => max a (s.m.shedSrc i).level) 0) ∧
        (∀ i, i < 5 → t.m.shedSrc i = if (s.m.shedSrc i).risen then
          { s.m.shedSrc i with risen := false, changed := s.m.time.number + 1 } else s.m.shedSrc i) ∧
        (t.m.shedLevel ≠ s.m.shedLevel → t.m.event .sx Pg.power 0 = true ∧
          s.m.counted t.m .sx Pg.power (R.pwrShed1Cnt + 4 * (t.m.shedLevel - 1))) ∧
        s.becomes t { s.m with
          power := t.m.power, mem := { s.m.mem with selfRefresh := t.m.mem.selfRefresh } } .sx
          (fun k => itemPage k == Pg.power || itemPage k == Pg.trace)) ∧
    (∀ s : State, (∀ i, i < 5 → (s.m.shedSrc i).level ≤ 4) → s.m.shedLevel ≤ 4 →
      ∃ t, exec .shedFall s = .next t ∧
        (∀ i, i < 5 → t.m.shedSrc i = if s.m.shedFalls (s.m.shedSrc i) then
          { s.m.shedSrc i with level := (s.m.shedSrc i).level - 1, changed := s.m.time.number } else s.m.shedSrc i) ∧
        ((∀ i, i < 5 → (s.m.shedSrc i).risen = false) →
          t.m.shedLevel = (List.range 5).foldl (fun a i => max a (t.m.shedSrc i).level) 0) ∧
        ((∃ i, i < 5 ∧ (s.m.shedSrc i).risen = true) → t.m.shedLevel = s.m.shedLevel) ∧
        s.becomes t { s.m with
          power := t.m.power, mem := { s.m.mem with selfRefresh := t.m.mem.selfRefresh } } .sx
          (fun k => itemPage k == Pg.power || itemPage k == Pg.trace) ∧
        (t.m.shedLevel < s.m.shedLevel → t.m.mem.selfRefresh = false)) ∧
    (∀ s : State, s.m.shedLevel = 4 → s.m.mem.selfRefresh = false → (∀ r ∈ s.m.mem.reqs, r.map = none) →
      ∃ t, exec .selfRefreshEntry s = .next t ∧
        s.becomes t { s.m with mem := { s.m.mem with selfRefresh := true } } .sx (fun k => itemPage k == Pg.trace))) ∧
  (∀ s : State, s.m.power.trips = [false, false, false, false, false] → s.m.power.therm.level = 0 →
      (∀ ts T i, Mach.hottest 0 ts = some (T, i) →
        let l := if (s.m.tCrit : Int) ≤ T then 4 else if (s.m.tThrottle + 5 : Int) ≤ T then 3
          else if (s.m.tThrottle : Int) ≤ T then 2 else 0
        ∃ t, exec (.thermalSample ts) s = .next t ∧ t.m.power.die = some (T, i) ∧ t.m.power.therm.level = l ∧
          ((s.m.tThrottle : Int) ≤ T → t.m.event .sx Pg.power 3 = true) ∧
          ((s.m.tCrit : Int) ≤ T → t.m.event .sx Pg.power 4 = true) ∧
          (125 ≤ T → s.m.bit .sx Pg.power F.pwrThermStatus_trip = false → t.m.event .sx Pg.power 5 = true ∧
            t.m.driven = .thermTrip :: s.m.driven ∧ t.m.stored .sx Pg.chip F.chpPinStatus_thermtrip = 1) ∧
          (T < 125 → t.m.driven = s.m.driven) ∧
          s.becomes t { s.m with
            power := { s.m.power with die := t.m.power.die, trips := t.m.power.trips, therm := t.m.power.therm } } .sx
            (fun k => itemPage k == Pg.power || itemPage k == Pg.trace || pageWord Pg.chip F.chpPinStatus_thermtrip.off k)) ∧
      (∀ (ts : List Nat) T i, Mach.hottest 54 (ts.map fun t => (t : Int)) = some (T, i) →
        let l := if (s.m.tHbm + 5 : Int) ≤ T then 3 else if (s.m.tHbm : Int) ≤ T then 2 else 0
        ∃ t, exec (.hbmTempReport ts) s = .next t ∧ t.m.power.hbm = some (T, i) ∧ t.m.power.therm.level = l ∧
          s.becomes t { s.m with
            power := { s.m.power with hbm := t.m.power.hbm, trips := t.m.power.trips, therm := t.m.power.therm } } .sx
            (fun k => itemPage k == Pg.power)))

/-- A calibration window of 4,096 stitches ends: an accepted fit sets gain and offset and clears the rejections; a rejected
one is counted, and the 64th in a row makes the estimator stale.  A shorter window goes on.
A gate request waits in PWR_GATE_CTRL for its hem.  There a unit that does not hold a confidential key and is retired is
gated, or ungated; one that is not retired is refused with 3, one that holds a key with 2, counted.  A block reset takes the
links of the unit's tiles down, and no packet stays in them.
What it fixes beyond the manual is the model's choice: log 106, 108, 109. -/
def Obligations.PowerIsCalibratedAndGated : Prop :=
  (∀ s : State,
      let cleared := { s.m.power with
        calN := 0, calX := 0, calY := 0, calXX := 0, calXY := 0, cal16 := 0, calLo := none, calHi := 0 }
      (s.m.power.calN < 4096 → exec .calWindowEnd s = .next s) ∧
      (4096 ≤ s.m.power.calN → ∃ t, exec .calWindowEnd s = .next t ∧
        (∀ g o, s.m.calFit = some (g, o) →
          t.m.stored .sx Pg.power F.pwrEstCal_gain = g % 65536 ∧
          t.m.stored .sx Pg.power F.pwrEstCal_offset = codeOf o 16 % 65536 ∧
          t.m.stored .sx Pg.power F.pwrEstStatus_rejected = 0 ∧ t.m.stored .sx Pg.power F.pwrEstStatus_estStale = 0) ∧
        (s.m.calFit = none → s.m.counted t.m .sx Pg.power R.pwrCalRejectCnt ∧
          t.m.stored .sx Pg.power F.pwrEstStatus_rejected = min (s.m.fld .sx Pg.power F.pwrEstStatus_rejected + 1) 127 ∧
          (s.m.fld .sx Pg.power F.pwrEstStatus_rejected = 63 → t.m.stored .sx Pg.power F.pwrEstStatus_estStale = 1 ∧ t.m.event .sx Pg.power 2 = true)) ∧
        s.becomes t { s.m with power := cleared } .sx
          (fun k => [R.pwrEstCal, R.pwrEstStatus, R.pwrCalRejectCnt].any (fun o => pageWord Pg.power o k)
            || eventWord Pg.power k))) ∧
  ((∀ (s : State) (kind unit : Nat), unit < Mach.gateUnits kind → ∀ (c : Instr) (a : Nat),
      (c = .clockGate kind unit ∧ a = 1) ∨ (c = .ungate kind unit ∧ a = 2) ∨ (c = .blockReset kind unit ∧ a = 3) →
      ∃ t, exec c s = .next t ∧
        (t.m.word .sx (item Pg.power 0 R.pwrGateCtrl)).toNat = kind + unit * 4 + a * 128 ∧
        s.becomes t { s.m with power := { s.m.power with gate := some (kind, unit, a) } } .sx
          (pageWord Pg.power R.pwrGateCtrl)) ∧
    (∀ (s : State) (kind unit a : Nat), s.m.power.gate = some (kind, unit, a) → unit < Mach.gateUnits kind → a = 1 ∨ a = 2 →
      let req := fun (t : State) n => t.m.stored .sx Pg.power F.pwrGateCtrl_req = n
      let ctl := pageWord Pg.power R.pwrGateCtrl
      (s.m.gateRetired kind unit = true → (s.m.gateHolds kind unit = [] ∨ a = 2) →
        ∃ t, exec .gateRequestServe s = .next t ∧ req t 1 ∧
          ((kind, unit) ∈ t.m.power.gated ↔ a = 1) ∧ (∀ u, u ≠ (kind, unit) → (u ∈ t.m.power.gated ↔ u ∈ s.m.power.gated)) ∧
          s.becomes t { s.m with power := { s.m.power with gate := none, gated := t.m.power.gated } } .sx
            (fun k => ctl k || itemPage k == Pg.trace)) ∧
      (s.m.gateRetired kind unit = false → (s.m.gateHolds kind unit = [] ∨ a = 2) →
        ∃ t, exec .gateRequestServe s = .next t ∧ req t 3 ∧
          s.becomes t { s.m with power := { s.m.power with gate := none } } .sx ctl) ∧
      (s.m.gateHolds kind unit ≠ [] → a = 1 →
        ∃ t, exec .gateRequestServe s = .next t ∧ req t 2 ∧ s.m.counted t.m .sx Pg.guard R.grdHeldCnt ∧
          s.becomes t { s.m with power := { s.m.power with gate := none } } .sx
            (fun k => ctl k || pageWord Pg.guard R.grdHeldCnt k))) ∧
    (∀ (s : State) (kind unit : Nat), s.m.power.gate = some (kind, unit, 3) → unit < Mach.gateUnits kind → kind < 2 →
      s.m.gateHolds kind unit = [] →
      ∃ t, exec .gateRequestServe s = .next t ∧ t.m.stored .sx Pg.power F.pwrGateCtrl_req = 1 ∧ t.m.power.gate = none ∧
        (∀ p, p < 144 → p / 8 ∈ Mach.gateTiles kind unit → t.m.isUp .sx p = false) ∧
        (∀ h ∈ t.m.held, Mach.tilesHold (Mach.gateTiles kind unit) h = true → h.input = 171) ∧
        (∀ e ∈ t.m.mid, e.1 ∉ Mach.gateTiles kind unit) ∧ s.kept t))

/-- The turn of a tile's frozen batch: its header and records go to the map ring in order and the producer index follows;
with too little room, or under shedding, it is dropped, counted and raised.  The oldest sample of a tile goes to the sample
ring, or is dropped for lack of room.
A rate entry: with marked packets in the period its rate falls by half of the moving fraction, not below the floor, and
the target remembers the rate before; without, the rate moves half way to its target, which rises after fr_steps updates.
Then the period's counts begin again.
What it fixes beyond the manual is the model's choice: log 15. -/
def Obligations.TelemetryIsPushedAndRatesFollow : Prop :=
  ((∀ (s : State) (b : MapBatch) (rest : List MapBatch), s.m.mapBatch = b :: rest → ∀ tile, tile < 18 → b.tile = tile →
      let n := b.records.length + 1
      let room := s.m.ringRoom F.mdrMapCtrl_en F.mdrMapCtrl_sizeLog2 R.mdrMapProd R.mdrMapCons
      (s.m.shedLevel = 0 → n ≤ room → ∃ t, exec (.mapBatchPush tile) s = .next t ∧
        (t.m.driven.take n).reverse.map (fun o => match o with | .managementWrite _ r => r | _ => [])
          = s.m.mapHeader b :: b.records ∧ t.m.driven.drop n = s.m.driven ∧
        t.m.storedReg .sx Pg.mdr R.mdrMapProd = (s.m.reg .sx Pg.mdr R.mdrMapProd + n) % 2 ^ 32 ∧
        ((∀ c ∈ rest, c.epoch ≠ b.epoch) → t.m.event .sx Pg.mdr 0 = true) ∧
        s.becomes t { s.m with mapBatch := rest, mapDropped := Tbl.set (fun _ => 0) s.m.mapDropped tile 0 } .sx
          (fun k => pageWord Pg.mdr R.mdrMapProd k || eventWord Pg.mdr k)) ∧
      (∀ cnt, (s.m.shedLevel ≠ 0 ∧ cnt = R.mdrMapShedCnt) ∨ (s.m.shedLevel = 0 ∧ room < n ∧ cnt = R.mdrMapFullCnt) →
        ∃ t, exec (.mapBatchPush tile) s = .next t ∧ t.m.driven = s.m.driven ∧ t.m.event .sx Pg.mdr 1 = true ∧
          s.m.counted t.m .sx Pg.mdr cnt ∧
          s.becomes t { s.m with
            mapBatch := rest, mapDropped := Tbl.modify (fun _ => 0) s.m.mapDropped tile (· + 1) } .sx
            (fun k => pageWord Pg.mdr cnt k || eventWord Pg.mdr k))) ∧
    (∀ (s : State) (x : Machine.Sample) (rest : List Machine.Sample), s.m.smpWait = x :: rest → ∀ tile, tile < 18 → x.tile = tile →
      s.m.time.number ≤ x.at_ + 1 →
      let room := s.m.ringRoom F.mdrSmpCtrl_en F.mdrSmpCtrl_sizeLog2 R.mdrSmpProd R.mdrSmpCons
      (0 < room → ∃ t, exec (.samplePush tile) s = .next t ∧
        (∃ a, t.m.driven = .managementWrite a x.record :: s.m.driven) ∧ s.m.counted t.m .sx Pg.mdr R.mdrSmpTakenCnt ∧
        t.m.storedReg .sx Pg.mdr R.mdrSmpProd = (s.m.reg .sx Pg.mdr R.mdrSmpProd + 1) % 2 ^ 32 ∧
        s.becomes t { s.m with smpWait := rest } .sx
          (fun k => pageWord Pg.mdr R.mdrSmpProd k || pageWord Pg.mdr R.mdrSmpTakenCnt k)) ∧
      (room = 0 → ∃ t, exec (.samplePush tile) s = .next t ∧ t.m.driven = s.m.driven ∧
        s.m.counted t.m .sx Pg.mdr R.mdrSmpFullCnt ∧ (s.m.smpDropped = false → t.m.event .sx Pg.mdr 2 = true) ∧
        s.becomes t { s.m with smpWait := rest, smpDropped := true } .sx
          (fun k => pageWord Pg.mdr R.mdrSmpFullCnt k || eventWord Pg.mdr k)))) ∧
  (∀ (s : State) (e : RateEntry), s.m.ep.rates = [e] → s.m.epTime.number % s.m.uPeriod = s.m.uPeriod - 1 → 0 < e.n →
      e.quiet < 63 →
      let c := fun x => s.m.fld .ep Pg.eRc x
      let g := min (max (c F.ep4RcCtrl_gShift) 1) 8
      let f := e.m * 65536 / e.n
      let a := if e.a ≤ f then e.a + (f - e.a) / 2 ^ g else e.a - (e.a - f) / 2 ^ g
      let top := match s.m.planePort e.plane with | some p => (s.m.lk .ep p).rate * 1000 | none => 0
      let floor := min (256 * min (max (c F.ep4RcRate_rMin) 1) 1024) top
      let target := if c F.ep4RcCtrl_frSteps < e.inc + 1 then min top (e.t + 256 * min (max (c F.ep4RcRate_rAi) 1) 1024) else e.t
      ∃ t, exec .rcUpdate s = .next t ∧
        t.m.ep.rates = [if 0 < e.m then
            { e with a := a, t := e.r, r := max floor (e.r * (131072 - a) / 131072), inc := 0, quiet := 0, m := 0, n := 0 }
          else { e with a := a, t := target, r := (e.r + target) / 2, inc := e.inc + 1, quiet := e.quiet + 1, n := 0 }] ∧
        t.m.bare = ({ s.m with ep := { s.m.ep with rates := t.m.ep.rates } } : Mach).bare ∧
        s.m.regsKept t.m .ep (pageWord Pg.eRc F.ep4RcStatus_entries.off) ∧ t.m.rf .sx = s.m.rf .sx ∧ s.kept t)

/-- A ZLY_TEST is consumed where it arrives: the first that its port receives after each training is accepted whatever its
aux; a later one is compared with the expected value, and one that does not match is counted.  Either way the received aux
plus one is expected next; nothing else changes, whatever the payload.  A link that comes up expects no value. -/
def Obligations.TestPacketsAreConsumed : Prop :=
  (∀ (s : State) (p : Nat) (x : Packet), p < 144 →
    let wrong : Bool := match Tbl.get (fun _ => none) s.m.zlySeq p with | some e => e != x.aux | none => false
    ∃ t, exec (.zlyTest p x) s = .next t ∧
      Tbl.get (fun _ => none) t.m.zlySeq p = some ((x.aux + 1) % 2 ^ 64) ∧
      (wrong = true → s.m.counted t.m .sx (Pg.port p) R.prtZlyTestErrCnt) ∧
      s.becomes t { s.m with zlySeq := t.m.zlySeq, arrivedPkts := s.m.arrivedPkts.erase (.sx, p, x) } .sx
        (fun k => wrong && portWord p R.prtZlyTestErrCnt k)) ∧
  (∀ (s : State) (p : Nat), s.m.portRuns .sx p → (s.m.lk .sx p).st = .climbing → (s.m.lk .sx p).activeSent = true →
    ∃ t, exec (.active .sx p (s.m.lk .sx p).step (s.m.lk .sx p).mask) s = .next t ∧
      Tbl.get (fun _ => none) t.m.zlySeq p = none)

/-- A window of the Gusset that meets its conditions closes: it is counted, its sums are shown and begin again; equal ones
lengthen the run of clean windows, up to admission, and others end it, up to failure with code 6. -/
def Obligations.GussetWindowsAreJudged : Prop :=
  ∀ (s : State) (i : Nat), i < 8 → s.m.windowCloses i = true →
    let r := s.m.pairOf i
    let f := fun (t : State) x => t.m.storedT .sx Pg.gusset 2 8 i x
    let w := fun (t : State) j => (t.m.word .sx (item Pg.gusset 2 (8 * i + j))).toNat
    let run := min (s.m.tfld .sx Pg.gusset 2 8 i F.pairStat_run + 1) 255
    let bad := min (s.m.tfld .sx Pg.gusset 2 8 i F.pairStat_bad + 1) 255
    ∃ t, exec (.gussetWindowClose i) s = .next t ∧
      w t 1 = min (s.m.tword .sx Pg.gusset 2 (8 * i + 1) + 1) 0xFFFFFFFF ∧ w t 2 = r.wSum % 2 ^ 32 ∧ w t 4 = r.nSum % 2 ^ 32 ∧ w t 6 = r.wCount % 2 ^ 32 ∧
      w t 7 = r.nCount % 2 ^ 32 ∧
      (r.wSum = r.nSum ∧ r.wCount = r.nCount ∧ r.dirty = false → f t F.pairStat_run = run ∧
        (max (s.m.fld .sx Pg.gusset F.gstCtrl_clean) 1 ≤ run → f t F.pairStat_state = 2 ∧ t.m.event .sx Pg.gusset 0 = true) ∧
        (run < max (s.m.fld .sx Pg.gusset F.gstCtrl_clean) 1 → f t F.pairStat_state = 1)) ∧
      (¬(r.wSum = r.nSum ∧ r.wCount = r.nCount ∧ r.dirty = false) → f t F.pairStat_run = 0 ∧ f t F.pairStat_bad = bad ∧
        (max (s.m.fld .sx Pg.gusset F.gstCtrl_maxBad) 1 ≤ bad → f t F.pairStat_state = 3 ∧ f t F.pairStat_code = 6 ∧
          t.m.event .sx Pg.gusset 1 = true)) ∧
      s.becomes t { s.m with
        gusset := Tbl.set (fun _ => {}) s.m.gusset i { opened := s.m.time.number + 1, copying := r.copying } } .sx
        (fun k => (List.range 8).any (fun j => k == item Pg.gusset 2 (8 * i + j)) || eventWord Pg.gusset k)

/-! ## The engines of the EP-4 -/

/-- A doorbell within the ring's room advances its producer index; one beyond it changes nothing, is counted and raised. A
context page's doorbell on the switch stores its value and raises its event.
A posted descriptor enters the engine's lowest free slot with its eight words, and the consumer index advances; one that
breaks a rule completes at once with its status.  A ring that cannot be read stops its engine.
A NOP and a FENCE complete when they are carried out: counted, and gone when no record is due.
What it fixes beyond the manual is the model's choice: log 65. -/
def Obligations.DescriptorsAreRungTakenAndFenced : Prop :=
  ((∀ (s : State) (c k v : Nat) (path : Path), s.m.hasCtx c = true → k < 32 → s.m.epIdle → s.m.ctxScrubbing c = false →
      let room := 2 ^ s.m.descLog c k - Mach.idxDiff (s.m.descProd c k) (s.m.descCons c k)
      (Mach.idxDiff v (s.m.descProd c k) ≤ room → ∃ t, exec (.doorbell c k v path) s = .next t ∧ t.m.descProd c k = v % 2 ^ 32 ∧
        s.becomes t s.m .ep (pageWord (Pg.ctx c) (R.ep4CtxDb k))) ∧
      (room < Mach.idxDiff v (s.m.descProd c k) → ∃ t, exec (.doorbell c k v path) s = .next t ∧
        s.m.counted t.m .ep Pg.eId R.ep4DbErrCnt ∧ t.m.event .ep (Pg.ctx c) 0 = true ∧
        s.becomes t s.m .ep (fun j => pageWord Pg.eId R.ep4DbErrCnt j || eventWord (Pg.ctx c) j))) ∧
    (∀ (s : State) (c v : Nat) (path : Path), c < 1024 → s.m.reaches .sx path (Pg.ctx c) = some .ctx →
      ∃ t, exec (.ctxDoorbell c v path) s = .next t ∧ t.m.word .sx (item (Pg.ctx c) 0 R.ctxDoorbell) = BitVec.ofNat 32 v ∧
        t.m.event .sx (Pg.ctx c) 0 = true ∧
        s.becomes t s.m .sx (fun j => pageWord (Pg.ctx c) R.ctxDoorbell j || eventWord (Pg.ctx c) j))) ∧
  (∀ (s : State) (e c n : Nat), s.m.hasEng e = true → s.m.epIdle → s.m.engCtx e = some c → s.m.takes e c = true →
      s.m.freeSlot e = some n →
      let words := SM.descWords (s.store, s.m) c e
      let d := s.m.newSlot e n c words
      let st := s.m.takeStatus d
      let held := s.m.cqHeld e c = true ∨ s.m.fenceHeld e = true ∨ s.m.tagMax ≤ s.m.tagUse e
      (s.m.ringInside c e = true → s.m.ctxFault c = 0 → ¬held →
        (∃ t, exec (.descriptorTake e 0) s = .next t ∧
          t.m.descCons c e = (s.m.descCons c e + 1) % 2 ^ 32 ∧
          (st = 0 → t.m.ep.slots = [{ d with complete := d.op == DOp.nop || d.op == DOp.fence }] ∧
            t.m.ep.fence = (if d.op = DOp.fence then Tbl.set (fun _ => 0) s.m.ep.fence e (d.order + 1) else s.m.ep.fence)) ∧
          (st ≠ 0 → t.m.ep.slots = [{ d with other := st, complete := true, done := true }] ∧ t.m.ep.fence = s.m.ep.fence ∧
            s.m.counted t.m .ep (Pg.eng e) R.ep4EngDescCnt) ∧
          s.becomes t { s.m with ep := { s.m.ep with
              slots := t.m.ep.slots, fence := t.m.ep.fence,
              orders := Tbl.set (fun _ => 0) s.m.ep.orders 0 (Tbl.get (fun _ => 0) s.m.ep.orders 0 + 1) } } .ep
            (fun j => pageWord (Pg.ctx c) (R.ep4CtxCons e) j || (st != 0 && (pageWord (Pg.eng e) R.ep4EngDescCnt j
              || pageWord (Pg.eng e) R.ep4EngBaddescCnt j))))) ∧
      (s.m.ringInside c e = true → s.m.ctxFault c = 0 → held → exec (.descriptorTake e 0) s = .next s) ∧
      (s.m.ringInside c e = false → ∃ t, exec (.descriptorTake e 0) s = .next t ∧ t.m.event .ep (Pg.eng e) 0 = true ∧
        s.becomes t { s.m with ep := { s.m.ep with ringFault := e :: s.m.ep.ringFault } } .ep (eventWord (Pg.eng e)))) ∧
  (∀ (s : State) (d : Slot) (c : Instr), s.m.sole d → d.untouched →
      (c = .nop d.engine d.num ∧ d.op = DOp.nop) ∨ (c = .fence d.engine d.num ∧ d.op = DOp.fence) →
      ∃ t, exec c s = .next t ∧ s.m.counted t.m .ep (Pg.eng d.engine) R.ep4EngDescCnt ∧
        s.becomes t { s.m with ep := { s.m.ep with
          slots := if d.cq then [{ d with begun := true, allIssued := true, complete := true, done := true }] else [] } } .ep
          (pageWord (Pg.eng d.engine) R.ep4EngDescCnt))

/-- A descriptor that asks in one packet issues it under a fresh tag on its plane, with its own key and context; the bytes of
a PUT come from scratch at once or are gathered from local memory; a flagged store waits for the open stores of its stream.
With no candidate plane served, such a descriptor completes with status 5 and sends nothing; while its pinned plane is
down, or no tag is free, it waits.
What it fixes beyond the manual is the model's choice: log 63. -/
def Obligations.DescriptorsIssueTheirRequests : Prop :=
  (∀ (s : State) (d : Slot) (t j : Nat) (port : Option Nat), s.m.sole d → d.untouched → s.m.freshTag d.engine = some t →
      s.m.planeFor d d.dstNode = .ok (j, port) →
      let a := d.w 2 % 2 ^ 64
      let req := fun op aux modifier flagged bytes => s.m.requestOf d t op a aux modifier flagged bytes
      let wait := if d.flag then s.m.storesBefore d else []
      let f := if d.flag then 1 else 0
      let moved : Slot := { d with next := d.len }
      d.w 2 < 2 ^ 64 →
      (d.op = DOp.get → SM.rbHit s.m d.ctx a d.len = none → 0 < d.len → d.len ≤ 16384 - a % 16384 →
        exec (.get d.engine d.num) s = .next { s with
          m := (s.m.requested moved t j port (req Op.read d.len 0 0 []) 0 d.len [] true).epPump }) ∧
      (d.op = DOp.put → d.len ≤ 4096 - a % 4096 → (d.len = 0 ∨ d.srcSpace = 1 ∧ s.m.ep.scrBad = []) →
        exec (.put d.engine d.num) s = .next { s with
          m := (s.m.requested moved t j port (req (if d.flag then Op.flagWrite else Op.write) 0 0 f
            (s.store.scratch.readN (s.m.scrBase d.ctx + d.w 3) d.len)) 0 d.len wait true).epPump }) ∧
      (d.op = DOp.put → d.len ≤ 4096 - a % 4096 → 0 < d.len → d.srcSpace = 0 →
        exec (.put d.engine d.num) s = .next { s with
          m := ((s.m.requested moved t j port (req (if d.flag then Op.flagWrite else Op.write) 0 0 f
            (List.replicate d.len 0)) 0 d.len wait false).fetchLocal (d.w 3) d.len (.tx s.m.ep.nextTx)).epPump }) ∧
      (d.op = DOp.atomic → exec (.descAtomic d.engine d.num) s = .next { s with
          m := (s.m.requested d t j port (req Op.atomic 0 d.modifier f d.operands) 0 0 wait true).epPump }) ∧
      (d.op = DOp.atomicPosted → exec (.descAtomicPosted d.engine d.num) s = .next { s with
          m := (s.m.requested d t j port (req Op.atomicPosted 0 d.modifier f d.operands) 0 0 wait true).epPump }) ∧
      (d.op = DOp.syncWait → exec (.descSyncWait d.engine d.num) s = .next { s with
          m := (s.m.requested d t j port (req Op.syncWait (d.w 4) 0 0 []) 0 0 [] true).epPump }) ∧
      (d.op = DOp.mgt → d.w 4 = 0 → exec (.mgt d.engine d.num) s = .next { s with
          m := (s.m.requested d t j port (req Op.mgtRead d.len 0 0 []) 0 (4 * d.len) [] true).epPump }) ∧
      (d.op = DOp.mgt → d.w 4 = 1 → 0 < d.len → exec (.mgt d.engine d.num) s = .next { s with
          m := ((s.m.requested d t j port (req Op.mgtWrite 0 0 0 (List.replicate (4 * d.len) 0)) 0 (4 * d.len) [] false).fetchLocal
            (d.w 3) (4 * d.len) (.tx s.m.ep.nextTx)).epPump })) ∧
  (∀ (s : State) (d : Slot), s.m.sole d → d.untouched → d.w 2 < 2 ^ 64 → s.m.ep.scrBad = [] →
      (d.op = DOp.get → 0 < d.len ∧ SM.rbHit s.m d.ctx (d.w 2) (min (16384 - d.w 2 % 16384) d.len) = none) →
      ∀ c : Instr, (c, d.op) ∈ [(Instr.get d.engine d.num, DOp.get), (.put d.engine d.num, DOp.put),
        (.descAtomic d.engine d.num, DOp.atomic), (.descAtomicPosted d.engine d.num, DOp.atomicPosted),
        (.descSyncWait d.engine d.num, DOp.syncWait), (.mgt d.engine d.num, DOp.mgt)] →
      (s.m.planeFor d d.dstNode = .error true → ∃ t, exec c s = .next t ∧
        s.m.counted t.m .ep (Pg.eng d.engine) R.ep4EngDescCnt ∧
        s.becomes t (s.m.withSlot { d with
          begun := true, allIssued := true, other := Done.noPlane, complete := true, done := true,
          next := if d.op = DOp.get then min (16384 - d.w 2 % 16384) d.len
            else if d.op = DOp.put then min (4096 - d.w 2 % 4096) d.len else 0 }) .ep
          (pageWord (Pg.eng d.engine) R.ep4EngDescCnt)) ∧
      (s.m.planeFor d d.dstNode = .error false ∨
          (s.m.freshTag d.engine = none ∧ ∃ r, s.m.planeFor d d.dstNode = .ok r) →
        exec c s = .next { s with m := s.m.withSlot { d with begun := true } }))

/-- Local bytes that cross no 4,096-byte boundary are read in one access under a memory-port tag that no other access has.
The notification that has waited longest ends.  With it, as with every command of the EP-4, a waiting packet starts on
the first port that takes it: its flits leave, its credits and its rate tokens are spent, and its tag notes the plane. -/
def Obligations.LocalBytesAreReadyAndPacketsStart : Prop :=
  (∀ (m : Mach) (a n : Nat) (use : FetchUse), 0 < n → a % 4096 + n ≤ 4096 → m.ep.mp.length < 65536 →
      ∃ tag, tag < 65536 ∧ (∀ q ∈ m.ep.mp, q.tag ≠ tag) ∧
        m.fetchLocal a n use = { m with
          ep := { m.ep with
            fetch := m.ep.fetch ++ [{ id := m.ep.nextFetch, out := 1, use := use }], nextFetch := m.ep.nextFetch + 1,
            mp := m.ep.mp ++ [{ tag := tag, cmd := 0, addr := a, len := n, ord := 0, use := .fetch m.ep.nextFetch 0 }],
            nextMp := (tag + 1) % 65536 },
          out := .memRequest tag 0 a n 0 0 false [] :: m.out }) ∧
  (∀ s : State, s.m.ep.slots = [] → s.m.ep.fetch = [] →
      exec .notifyReady s = .next { s with
        m := ({ s.m with ep := { s.m.ep with notify := s.m.ep.notify.drop 1 } } : Mach).epPump } ∧
      (∀ x, s.m.ep.tx = [x] → x.by_ = none → x.ready = true → x.held = false → x.owner ≠ none → homeVc x.pkt.opcode = some 0 →
        x.pkt.vc = 0 →
        (s.m.txPick x = none → s.m.epPump = s.m) ∧
        (∀ p, s.m.txPick x = some (p, none) → ∀ tag, x.tag = some tag → ∀ ts, s.m.tagOf tag = some ts →
          let n := s.m.epPump
          let g := x.pkt.granules
          n.ep.tx = [] ∧ n.tagOf tag = some { ts with sent := true, plane := s.m.planeOfPort p, vc5 := false } ∧
          ((granulesOf x.pkt).length = g →
            (n.lk .ep p).credit = (s.m.lk .ep p).credit.set 0 ((s.m.lk .ep p).credit.getD 0 0 - g) ∧
            (n.lk .ep p).replay.length = (s.m.lk .ep p).replay.length + ceilDiv g 15) ∧
          (∀ q, q ≠ p → n.lk .ep q = s.m.lk .ep q) ∧ n.ep.slots = [] ∧ n.rf .sx = s.m.rf .sx)))

/-- PREFETCH reserves the lines that its context does not hold and reads each under a tag; it is refused as a whole beyond the
quota or the buffer, with status 3, and completes at once when it holds them all.  INVALIDATE removes the lines of its range
once none of them is being filled.
LOCAL_COPY moves up to 4,096 bytes at a time: within scratch at once, each byte to its place and no other byte changed,
the content open where source and destination overlap; from local memory the bytes are gathered first.
What it fixes beyond the manual is the model's choice: log 58, 62. -/
def Obligations.LinesAndLocalCopies : Prop :=
  (∀ (s : State) (d : Slot), s.m.sole d → d.untouched →
      let l := d.w 2 / 256 * 256
      let mine := s.m.ep.rb.filter fun r => r.ctx == d.ctx
      let room := mine.length + 1 ≤ 256 * s.m.allocF d.ctx F.alloc_rbQuota ∧ s.m.ep.rb.length + 1 ≤ 1024 * s.m.epParams.rbK
      let now : Slot := { d with begun := true, allIssued := true }
      (d.op = DOp.prefetch → 0 < d.len → (d.w 2 + d.len - 1) / 256 = d.w 2 / 256 → d.w 2 < 2 ^ 64 →
        (∀ t, s.m.freshTag d.engine = some t → ∀ j port, s.m.planeFor d d.dstNode = .ok (j, port) →
          (∀ r ∈ mine, r.addr ≠ l) → room →
          exec (.prefetch d.engine d.num) s = .next { s with
            m := (({ s.m with ep := { s.m.ep with rb := s.m.ep.rb ++ [{ ctx := d.ctx, addr := l }] } } : Mach).requested
              { d with units := 1, lines := [l], next := 1 } t j port (s.m.requestOf d t Op.read l 256 0 0 []) l 256 []
              true).epPump }) ∧
        ((∃ r ∈ mine, r.addr = l) →
          exec (.prefetch d.engine d.num) s = .next { s with
            m := (s.m.withSlot { now with units := 1 }).finishSlot { now with units := 1 } }) ∧
        ((∀ r ∈ mine, r.addr ≠ l) → ¬room → ∃ t, exec (.prefetch d.engine d.num) s = .next t ∧
          s.m.counted t.m .ep Pg.eScr R.ep4RbFullCnt ∧
          s.becomes t (s.m.withSlot { now with other := Done.rbFull, complete := true, done := true }) .ep
            (fun k => pageWord Pg.eScr R.ep4RbFullCnt k || pageWord (Pg.eng d.engine) R.ep4EngDescCnt k))) ∧
      (d.op = DOp.invalidate →
        ((∀ r ∈ mine, SM.inRange d r.addr 256 = true → r.valid = true) →
          exec (.invalidate d.engine d.num) s = .next { s with
            m := (({ s.m with ep := { s.m.ep with
              rb := s.m.ep.rb.filter fun r => !(r.ctx == d.ctx && SM.inRange d r.addr 256) } } : Mach).withSlot now).finishSlot
                now }) ∧
        ((∃ r ∈ mine, SM.inRange d r.addr 256 = true ∧ r.valid = false) →
          exec (.invalidate d.engine d.num) s = .next { s with m := s.m.withSlot { d with begun := true } }))) ∧
  (∀ (s : State) (d : Slot), s.m.sole d → d.untouched → d.op = DOp.localCopy → 0 < d.len →
      let base := s.m.scrBase d.ctx
      let bytes := s.store.scratch.readN (base + d.w 3) d.len
      let lap : Bool := decide (d.w 3 < d.w 4 + d.len ∧ d.w 4 < d.w 3 + d.len)
      let now : Slot := { d with begun := true, allIssued := true, next := d.len, moved := d.len }
      (d.srcSpace = 1 → d.dstSpace = 1 → d.len ≤ 4096 → s.m.ep.scrBad = [] → lap = false →
        exec (.localCopy d.engine d.num) s = .next { s with
          store := { s.store with scratch := s.store.scratch.writeN (base + d.w 4) bytes },
          m := (s.m.withSlot now).finishSlot now }) ∧
      (d.srcSpace = 1 → d.dstSpace = 1 → d.len ≤ 4096 → s.m.ep.scrBad = [] → lap = true →
        ∃ t, exec (.localCopy d.engine d.num) s = .next t ∧
          (∀ a, a < base + d.w 4 ∨ base + d.w 4 + d.len ≤ a → t.store.scratch.read a = s.store.scratch.read a) ∧
          t.m = (({ s.m with freeCtr := s.m.freeCtr + 1 } : Mach).withSlot now).finishSlot now ∧
          t.store = { s.store with scratch := t.store.scratch } ∧ t.pending = s.pending) ∧
      (d.srcSpace = 0 →
        exec (.localCopy d.engine d.num) s = .next { s with
          m := (s.m.withSlot { d with begun := true }).fetchLocal (d.w 3) (min 4096 d.len) (.copy d.engine d.num 0) }))

/-- HOST_COPY of a plain context puts its accesses on the host bus; without a host bus it completes with status 8.  The
answer to its last access completes it: bytes from the host stand at their place, an error ends it with status 13.
A confidential context's bytes leave for the host only in sealed records, numbered without gaps: bytes 0 to 15, the
ciphertext and the tag of its session key, padded to 64 bytes.  A record from the host that does not pass is counted and
raised, and the copy ends with status 14 and moves nothing. -/
def Obligations.HostCopiesMoveAndSealBytes : Prop :=
  ((∀ (s : State) (d : Slot), s.m.sole d → d.untouched → d.op = DOp.hostCopy → 0 < d.len →
      let k := min 4096 d.len
      let asks := fun (write : Bool) (bytes : List Byte) => { s.m with
        ep := { s.m.ep with
          slots := [{ d with begun := true }], nextHost := s.m.ep.nextHost + 1,
          host := [{ id := s.m.ep.nextHost, engine := d.engine, slot := d.num, write := write, off := 0, len := k }] },
        out := .hostRequest s.m.ep.nextHost write (d.w 4) k bytes :: s.m.out }
      (s.m.epParams.host = 0 → ∃ t, exec (.hostCopy d.engine d.num) s = .next t ∧
        s.becomes t (s.m.withSlot { d with
          begun := true, allIssued := true, other := Done.noHost, complete := true, done := true }) .ep
          (pageWord (Pg.eng d.engine) R.ep4EngDescCnt)) ∧
      (s.m.epParams.host ≠ 0 → s.m.epConf d.ctx = false → d.w 5 = 0 → d.srcSpace = 1 → s.m.ep.scrBad = [] →
        exec (.hostCopy d.engine d.num) s = .next { s with
          m := asks true (s.store.scratch.readN (s.m.scrBase d.ctx + d.w 3) k) }) ∧
      (s.m.epParams.host ≠ 0 → s.m.epConf d.ctx = false → d.w 5 = 1 →
        exec (.hostCopy d.engine d.num) s = .next { s with m := asks false [] })) ∧
    (∀ (s : State) (d : Slot), s.m.ep.slots = [d] → ∀ h, s.m.ep.host = [h] → h.engine = d.engine → h.slot = d.num →
      s.m.ep.tx = [] → s.m.ep.fetch = [] → d.op = DOp.hostCopy → d.begun = true → d.allIssued = false → d.done = false →
      d.aborted = false → d.packets = 0 → d.access = 0 → h.off < d.len → d.len ≤ h.off + 4096 → s.m.epConf d.ctx = false →
      ∀ bytes : List Byte, bytes.length = d.len - h.off →
      let free : Mach := { s.m with ep := { s.m.ep with host := [] } }
      let now : Slot := { d with next := d.len, moved := d.moved + (d.len - h.off), allIssued := true }
      (h.write = true → exec (.hostBusAnswer h.id true bytes) s = .next { s with m := (free.withSlot now).finishSlot now }) ∧
      (h.write = false → d.srcSpace = 1 → s.m.ep.scrBad = [] → exec (.hostBusAnswer h.id true bytes) s = .next { s with
        store := { s.store with
          scratch := s.store.scratch.writeN (s.m.scrBase d.ctx + (d.w 3 + h.off)) bytes },
        m := (free.withSlot now).finishSlot now }) ∧
      (let end_ : Slot := { d with other := Done.hostError, allIssued := true }
       exec (.hostBusAnswer h.id false bytes) s = .next { s with m := (free.withSlot end_).finishSlot end_ }))) ∧
  ((∀ (s : State) (d : Slot), s.m.sole d → d.untouched → d.op = DOp.hostCopy → 0 < d.len → d.len ≤ 4096 → d.w 5 = 0 →
      d.srcSpace = 1 → s.m.ep.scrBad = [] → s.m.epConf d.ctx = true → SM.hostRefusal s.m d = none → ∀ key,
      (Tbl.get (fun _ => {}) s.m.ep.keys d.ctx : SessionKey).key = some key →
      let seq := SM.seqReg s.m d.ctx R.ep4CtxSeqTxLo R.ep4CtxSeqTxHi
      let bytes := s.store.scratch.readN (s.m.scrBase d.ctx + d.w 3) d.len
      let head := leBytes 8 seq ++ leBytes 4 d.len ++ leBytes 2 d.ctx ++ [0, 0]
      let sealed := gcmSeal key (leBytes 8 seq ++ leBytes 2 d.ctx ++ [0, 0]) head bytes
      ∃ t, exec (.hostCopy d.engine d.num) s = .next t ∧
        SM.seqReg t.m d.ctx R.ep4CtxSeqTxLo R.ep4CtxSeqTxHi = (seq + 1) % 2 ^ 64 ∧
        (∃ pad, pad < 64 ∧ t.m.driven = .hostRequest s.m.ep.nextHost true (d.w 4) d.len
          (head ++ sealed.1 ++ sealed.2 ++ List.replicate pad 0) :: s.m.driven ∧
          (16 + d.len + 16 + pad) % 64 = 0) ∧
        t.m.ep.slots = [{ d with begun := true }] ∧ s.kept t) ∧
    (∀ (s : State) (d : Slot), s.m.ep.slots = [d] → ∀ h, s.m.ep.host = [h] → h.engine = d.engine → h.slot = d.num →
      s.m.ep.tx = [] → s.m.ep.fetch = [] → d.op = DOp.hostCopy → d.begun = true → d.allIssued = false → d.done = false →
      d.aborted = false → d.packets = 0 → d.access = 0 → d.poisoned = false → d.nacked = none → d.priorFailed = false →
      h.write = false → s.m.epConf d.ctx = true → ∀ bytes : List Byte, SM.openRecord s.m d h.off bytes = none →
      ∃ t, exec (.hostBusAnswer h.id true bytes) s = .next t ∧ s.m.counted t.m .ep Pg.eHost R.ep4AuthFailCnt ∧
        t.m.event .ep Pg.eHost 0 = true ∧
        s.becomes t (({ s.m with ep := { s.m.ep with host := [] } } : Mach).withSlot { d with
          allIssued := true, other := Done.authFailed, complete := true, done := true }) .ep
          (fun k => pageWord Pg.eHost R.ep4AuthFailCnt k || pageWord (Pg.eng d.engine) R.ep4EngDescCnt k
            || eventWord Pg.eHost k)) ∧
    (∀ (s : State) (c v : Nat) (path : Path), s.m.hasCtx c = true → s.m.epIdle →
      (path = .accel → s.m.epConf c = true → s.m.ctxConf c ≠ 3 → v < 2 ^ 256 →
        ∃ t, exec (.sessionKeyLoad c v path) s = .next t ∧ t.m.stored .ep (Pg.ctx c) F.ep4CtxConf_state = 2 ∧
          (∀ o ∈ [R.ep4CtxSeqTxLo, R.ep4CtxSeqTxHi, R.ep4CtxSeqRxLo, R.ep4CtxSeqRxHi], t.m.storedReg .ep (Pg.ctx c) o = 0) ∧
          s.becomes t { s.m with ep := { s.m.ep with
              keys := Tbl.set (fun _ => {}) s.m.ep.keys c { words := [], key := some (BitVec.ofNat 256 v) } } } .ep
            (fun k => itemPage k == Pg.ctx c)) ∧
      (path ≠ .accel ∨ s.m.epConf c = false ∨ s.m.ctxConf c = 3 → ∃ t, exec (.sessionKeyLoad c v path) s = .next t ∧
        (t.m.word .ep (item Pg.eHost 0 R.ep4KeyRefusedCnt)).toNat
          = min ((s.m.word .ep (item Pg.eHost 0 R.ep4KeyRefusedCnt)).toNat + 8) 0xFFFFFFFF ∧
        s.becomes t s.m .ep (pageWord Pg.eHost R.ep4KeyRefusedCnt))))

/-- The one response that a descriptor waits for: an acknowledgement completes it and counts in its record; what a READ, an
ATOMIC, a SYNC_WAIT or a management read answers goes to its place, in scratch at once, in local memory by the memory port; a
line fills the read buffer; a NACK ends it with the first status.  Its tag is free again, or waits for the local writes.
A response to no request that is out is a stray: counted, and nothing more, but that the last packet of a quarantined
tag's response ends the quarantine.
What it fixes beyond the manual is the model's choice: log 63. -/
def Obligations.ResponsesCompleteOrAreStray : Prop :=
  (∀ (s : State) (d : Slot), ∀ (x : Packet) (p : Nat) (ts : TagSt), s.m.answeredTag x = some ts → s.m.awaits d x.tag ts →
      s.m.hasPort .ep p = true →
      let pre := s.m.takingIn p x
      let e := d.noting x
      let free := fun (f : Slot) => ((pre.withSlot { f with packets := 0 }).setTag x.tag none).finishSlot { f with packets := 0 }
      let sunk := fun (f : Slot) (addr : Nat) =>
        ((pre.withSlot f).sinkLocal d.engine d.num addr x.payload (some x.tag)).setTag x.tag
          (some { ts with sinks := (localPieces addr x.payload.length).length, answered := true })
      (x.opcode = Op.readData → x.last = 0 → x.poison = 0 → d.op ≠ DOp.prefetch → d.dstSpace = 1 → s.m.ep.scrBad = [] →
        exec (.readData p x) s = .next { s with
          store := { s.store with scratch := s.store.scratch.writeN (s.m.scrBase d.ctx + (d.w 3 + ts.off + x.aux)) x.payload },
          m := pre.withSlot { e with moved := d.moved + x.length } }) ∧
      (x.last = 1 →
      (x.opcode = Op.writeAck → x.poison = 0 → exec (.writeAck p x) s = .next { s with
        m := free { e with moved := d.moved + ts.len } }) ∧
      (x.opcode = Op.atomicAck → x.poison = 0 → exec (.atomicAck p x) s = .next { s with m := free e }) ∧
      (x.opcode = Op.nack → d.op ≠ DOp.prefetch → exec (.nack p x) s = .next { s with
        m := free { e with nacked := some (d.nacked.getD x.status) } }) ∧
      (x.opcode = Op.mgtAck → exec (.mgtAck .ep p x) s = .next { s with
        m := free (if x.status = 0 then e else { e with nacked := some (d.nacked.getD x.status) }) }) ∧
      (x.opcode = Op.readData → x.poison = 0 → d.op ≠ DOp.prefetch → d.dstSpace = 1 → s.m.ep.scrBad = [] →
        exec (.readData p x) s = .next { s with
          store := { s.store with scratch := s.store.scratch.writeN (s.m.scrBase d.ctx + (d.w 3 + ts.off + x.aux)) x.payload },
          m := free { e with moved := d.moved + x.length } }) ∧
      (x.opcode = Op.readData → x.poison = 0 → d.op = DOp.prefetch → exec (.readData p x) s = .next { s with
        m := (((({ pre with ep := { pre.ep with
          rb := pre.ep.rb.map fun l => if l.ctx = ts.ctx ∧ l.addr = ts.off then { l with valid := true, data := x.payload } else l } } :
          Mach).withSlot { e with packets := 0 }).setTag x.tag none).finishSlot { e with packets := 0 }) }) ∧
      (x.payload ≠ [] → x.poison = 0 →
        (x.opcode = Op.readData → d.op ≠ DOp.prefetch → d.dstSpace = 0 → exec (.readData p x) s = .next { s with
          m := sunk { e with moved := d.moved + x.length } (d.w 3 + ts.off + x.aux) }) ∧
        (x.opcode = Op.atomicData → exec (.atomicData p x) s = .next { s with
          m := sunk { e with value := ofLeBytes (x.payload.take 8) } (d.w 3) }) ∧
        (x.opcode = Op.syncNotify → exec (.syncNotify p x) s = .next { s with
          m := sunk { e with
            value := ofLeBytes x.payload, other := if ofLeBytes x.payload < d.w 4 then Done.waitExpired else d.other } (d.w 3) }) ∧
        (x.opcode = Op.mgtData → exec (.mgtData .ep p x) s = .next { s with m := sunk e (d.w 3) })))) ∧
  (∀ (s : State) (x : Packet) (p : Nat) (c : Instr), s.m.hasPort .ep p = true → s.m.epIdle → responseInstr p x = some c →
      s.m.answeredTag x = none →
      let pre := (s.m.takingIn p x).bump .ep Pg.eId R.ep4StrayRspCnt
      (s.m.tagOf x.tag = none → exec c s = .next { s with m := pre }) ∧
      (∀ ts, s.m.tagOf x.tag = some ts → (ts.quarantine = none ∨ x.src ≠ ts.dst ∨ x.last = 0) →
        exec c s = .next { s with m := pre }) ∧
      (∀ ts, s.m.tagOf x.tag = some ts → ∀ b, ts.quarantine = some b → x.src = ts.dst → x.last = 1 →
        exec c s = .next { s with m := pre.setTag x.tag none }))

/-- The memory port answers: the last write of a descriptor's results completes it, with its bytes in local memory and no
other byte changed; gathered bytes become the packet's payload, and the packet may start.
The record of a completed descriptor is written to its completion ring when the ring has room, one record at a time of
its context; the answer advances the producer index, frees the slot and, where asked for, notifies.
What it fixes beyond the manual is the model's choice: log 60, 68. -/
def Obligations.MemoryAnswersAndRecords : Prop :=
  ((∀ (s : State) (q : MpReq), s.m.ep.mp = [q] → ∀ d : Slot, s.m.ep.slots = [d] →
      ∀ tag : Nat, ∀ ts : TagSt, s.m.tagOf tag = some ts → s.m.ep.tx = [] → s.m.ep.fetch = [] → ts.engine = d.engine →
      ts.slot = d.num → ts.sinks = 1 → ts.answered = true → d.begun = true → d.allIssued = true → d.packets = 1 →
      d.access = 1 → d.done = false → d.aborted = false → q.cmd = 1 → q.use = .sink d.engine d.num (some tag) →
      let now : Slot := { d with access := 0, packets := 0 }
      exec (.mpResponse q.tag 0) s = .next { s with
        store := { s.store with loc := s.store.loc.writeN q.addr q.data },
        m := ((({ s.m with ep := { s.m.ep with mp := [] } } : Mach).withSlot now).setTag tag none).finishSlot now }) ∧
    (∀ (s : State) (q : MpReq), s.m.ep.mp = [q] → ∀ f, s.m.ep.fetch = [f] → ∀ x, s.m.ep.tx = [x] → s.m.ep.slots = [] →
      f.out = 1 → f.use = .tx x.id → f.pieces = [] → f.status = 0 → q.cmd = 0 → q.use = .fetch f.id 0 →
      exec (.mpResponse q.tag 0) s = .next { s with
        m := ({ s.m with ep := { s.m.ep with
          mp := [], fetch := [],
          tx := [{ x with pkt := { x.pkt with payload := s.store.loc.readN q.addr q.len }, ready := true }] } } :
          Mach).epPump }) ∧
    (∀ (s : State) (q : MpReq), s.m.ep.mp = [q] → s.m.epIdle → ∀ v, s.m.ep.serve = [v] → q.use = .serve v.id 0 → v.out = 1 →
      v.status = 0 → v.pieces = [] → v.badSeg = [] → v.issued = true → s.m.isUp .ep v.port = true →
      let done : Mach := { s.m with ep := { s.m.ep with mp := [], serve := [] } }
      let old := s.store.loc.readN q.addr q.len
      let answer := fun (x : Packet) => (done.pushTx { id := 0, pkt := x, port := some v.port, marked := v.pkt.mark == 1 }).epPump
      (q.cmd = 0 → v.pkt.opcode = Op.read → 0 < q.len → q.len ≤ 4096 → exec (.mpResponse q.tag 0) s = .next { s with
        m := answer (s.m.readSegment .ep v.pkt 0 true false 0 old) }) ∧
      (q.cmd = 1 → (v.pkt.opcode = Op.write ∨ v.pkt.opcode = Op.flagWrite) → exec (.mpResponse q.tag 0) s = .next { s with
        store := { s.store with loc := s.store.loc.writeN q.addr q.data },
        m := answer (s.m.response .ep v.pkt Op.writeAck 0 0 0 1 []) }) ∧
      (q.cmd = 2 → v.pkt.opcode = Op.atomic → exec (.mpResponse q.tag 0) s = .next { s with
        store := { s.store with loc := s.store.loc.writeN q.addr (atomicBytes q.modifier old q.data) },
        m := answer (s.m.response .ep v.pkt Op.atomicData 0 0 0 0 old) }))) ∧
  ((∀ (s : State) (d : Slot), s.m.sole d → d.done = true → d.writing = false → d.access = 0 → (d.cq = true ∨ d.status ≠ 0) →
      (s.m.cqFull d.ctx = false → s.m.ep.mp = [] →
        let k := s.m.reg .ep (Pg.ctx d.ctx) R.ep4CtxCqProd
        ∃ t, exec (.completionWrite d.engine d.num) s = .next t ∧ ∃ tag bytes,
          t.m.ep.mp = [{
            tag := tag, cmd := 1, addr := s.m.cqBase d.ctx + 32 * (k % 2 ^ s.m.cqLog d.ctx), len := 32, ord := 0,
            data := bytes, use := .record d.engine d.num }] ∧
          bytes.length = 32 ∧ bytes.take 4 = leBytes 4 d.index ∧ bytes.getD 5 0 = BitVec.ofNat 8 d.status ∧
          bytes.getD 6 0 = BitVec.ofNat 8 d.op ∧ (bytes.getD 7 0).toNat % 2 = 1 - k / 2 ^ s.m.cqLog d.ctx % 2 ∧
          bytes.drop 24 = leBytes 8 (d.w 1) ∧ t.m.ep.slots = [{ d with writing := true }] ∧
          s.becomes t { s.m with ep := { s.m.ep with slots := t.m.ep.slots, mp := t.m.ep.mp, nextMp := t.m.ep.nextMp } } .ep
            noWord) ∧
      (s.m.cqFull d.ctx = true → exec (.completionWrite d.engine d.num) s = .next s)) ∧
    (∀ (s : State) (q : MpReq), s.m.ep.mp = [q] → ∀ d, s.m.ep.slots = [d] → s.m.sole d → d.done = true → q.cmd = 1 → q.use = .record d.engine d.num →
      let wake : Bool := d.irq && s.m.bit .ep (Pg.ctx d.ctx) F.ep4CtxCqSize_irqEn && !s.m.ep.notify.contains d.ctx
      ∃ t, exec (.mpResponse q.tag 0) s = .next t ∧ t.store = { s.store with loc := s.store.loc.writeN q.addr q.data } ∧
        t.m.storedReg .ep (Pg.ctx d.ctx) R.ep4CtxCqProd = (s.m.reg .ep (Pg.ctx d.ctx) R.ep4CtxCqProd + 1) % 2 ^ 32 ∧
        t.m.driven = (if wake then [.notify d.ctx] else []) ++ s.m.driven ∧
        t.m.bare = ({ s.m with ep := { s.m.ep with
          mp := [], slots := [], notify := s.m.ep.notify ++ if wake then [d.ctx] else [] } } : Mach).bare ∧
        s.m.regsKept t.m .ep (pageWord (Pg.ctx d.ctx) R.ep4CtxCqProd) ∧ t.m.rf .sx = s.m.rf .sx ∧ t.pending = s.pending))

/-- A partition fault of a key aborts the contexts bound to it: nothing more is issued, the read buffer keeps none of their
lines and what they have out is quarantined; once the memory port is quiet their descriptors complete with status 9 and they
are faulted; a faulted one is ready again with the next stitch after it is cleared.  A fault of a context that is aborting or
faulted is counted only.
A flagged store whose earlier stores have all been answered may start; when one of them failed it is not sent, and its
descriptor completes with status 2.
What it fixes beyond the manual is the model's choice: log 59, 72. -/
def Obligations.FaultsAbortAndFlagsRelease : Prop :=
  ((∀ (s : State) (p : Nat) (x : Packet) (c : Nat), s.m.hasPort .ep p = true → s.m.epBound c = true →
      s.m.epKey c = x.pkey → x.opcode = Op.pfault → x.aux % 256 ≠ Reason.torn → s.m.ep.fetch = [] → s.m.ep.tx = [] →
      (∀ d ∈ s.m.ep.slots, s.m.epBound d.ctx = true ∧ s.m.epKey d.ctx = x.pkey ∧ d.complete = false) →
      ((∀ b, b < s.m.ctxCount → s.m.epBound b = true → s.m.epKey b = x.pkey → s.m.ctxFault b = 0) →
        ∃ t, exec (.pfault p x) s = .next t ∧ t.m.stored .ep (Pg.ctx c) F.ep4CtxFault_state = 1 ∧ (∀ l ∈ t.m.ep.rb, l.ctx ≠ c) ∧
          Tbl.get (fun _ => none) t.m.ep.abort c = some (x.aux % 256, s.m.epTime.number) ∧
          t.m.ep.slots = s.m.ep.slots.map (fun d => { d with aborted := true }) ∧
          (∀ k ts, t.m.tagOf k = some ts → ts.ctx = c → ts.quarantine.isSome = true) ∧ s.kept t) ∧
      (s.m.ctxFault c ≠ 0 → ∃ t, exec (.pfault p x) s = .next t ∧ s.m.counted t.m .ep Pg.eId R.ep4PfaultRxCnt ∧
        t.m.ctxFault c = s.m.ctxFault c ∧ t.pending = s.pending)) ∧
    (∀ (s : State) (d : Slot), ∀ reason at_ : Nat, s.m.sole d → s.m.hasCtx d.ctx = true → s.m.ctxFault d.ctx = 1 →
      s.m.ctxQuiet d.ctx = true → Tbl.get (fun _ => none) s.m.ep.abort d.ctx = some (reason, at_) → d.aborted = true →
      d.done = false →
      ∃ t, exec (.contextAbortDone d.ctx) s = .next t ∧ t.m.stored .ep (Pg.ctx d.ctx) F.ep4CtxFault_state = 2 ∧ t.m.event .ep (Pg.ctx d.ctx) 1 = true ∧
        t.m.stored .ep (Pg.ctx d.ctx) F.ep4CtxFault_stitch = at_ % 2 ^ 15 ∧
        (reason < 256 → t.m.stored .ep (Pg.ctx d.ctx) F.ep4CtxFault_reason = reason) ∧
        s.m.counted t.m .ep (Pg.eng d.engine) R.ep4EngAbortCnt ∧
        s.becomes t { s.m with ep := { s.m.ep with
            slots := [{ d with complete := true, done := true }], abort := Tbl.set (fun _ => none) s.m.ep.abort d.ctx none } } .ep
          (fun k => itemPage k == Pg.ctx d.ctx || pageWord (Pg.eng d.engine) R.ep4EngAbortCnt k
            || pageWord (Pg.eng d.engine) R.ep4EngDescCnt k)) ∧
    (∀ (s : State) (c : Nat), s.m.hasCtx c = true → s.m.epIdle → s.m.ctxFault c = 2 → c ∉ s.m.ep.clearing →
      exec (.contextFaultClear c) s = .next { s with
        m := { s.m with ep := { s.m.ep with clearing := s.m.ep.clearing ++ [c] } } }) ∧
    (∀ (s : State) (k : Nat), ∀ ts : TagSt, s.m.tagOf k = some ts → ∀ b, ts.quarantine = some b → s.m.epIdle →
      (b ≤ s.m.epTime.number → exec (.tagQuarantineExpiry k) s = .next { s with
        m := ((s.m.setTag k none).epPfault ts.key Reason.tagExpired).epPump }) ∧
      (s.m.epTime.number < b → exec (.tagQuarantineExpiry k) s = .next s)) ∧
    (∀ (s : State) (c : Nat), s.m.hasCtx c = true → s.m.epIdle → s.m.ctxScrubbing c = true →
      ∃ t, exec (.contextScrubDone c) s = .next t ∧ t.m.stored .ep (Pg.ctx c) F.ep4CtxConf_scrubbing = 0 ∧
        (∀ a, t.store.scratch.read a = if ∃ r ∈ s.m.ep.scrub, r.1 = c ∧ r.2.1 ≤ a ∧ a < r.2.1 + r.2.2 then 0
          else s.store.scratch.read a) ∧
        t.m.bare = ({ s.m with ep := { s.m.ep with
          scrub := s.m.ep.scrub.filter (·.1 != c), scrBad := t.m.ep.scrBad } } : Mach).bare ∧
        t.store = { s.store with scratch := t.store.scratch } ∧
        s.m.regsKept t.m .ep (pageWord (Pg.ctx c) F.ep4CtxConf_scrubbing.off) ∧ t.pending = s.pending)) ∧
  (∀ (s : State) (d : Slot), s.m.ep.slots = [d] → s.m.hasEng d.engine = true → s.m.ep.fetch = [] → ∀ x, s.m.ep.tx = [x] →
      x.owner = some (d.engine, d.num) → x.held = true → x.waitFor = [] → d.begun = true → d.allIssued = true →
      d.packets = 1 → d.access = 0 → d.done = false → d.aborted = false →
      (x.failed = false → exec (.flaggedStoreRelease d.engine x.pkt.stream) s = .next { s with
        m := ({ s.m with ep := { s.m.ep with tx := [{ x with held := false }] } } : Mach).epPump }) ∧
      (x.failed = true → ∀ tag, x.tag = some tag →
        let end_ : Slot := { d with packets := 0, priorFailed := true }
        exec (.flaggedStoreRelease d.engine x.pkt.stream) s = .next { s with
          m := ((({ s.m with ep := { s.m.ep with tx := [] } } : Mach).setTag tag none).withSlot end_).finishSlot end_ }))

/-- A VC0 request for local memory goes through the first export window that holds its offset: it waits at the memory port as
one access, ordered behind the earlier stores of its source and stream, or is refused with the status of the check it fails.
A VC0 request for a context page is answered by the register service: from a context that is not bound to its key with
CONTEXT_DENIED, on the switch and on the EP-4; a doorbell of the switch is written and acknowledged.
What it fixes beyond the manual is the model's choice: log 55, 126, 128. -/
def Obligations.EndpointsServeRequests : Prop :=
  (∀ (s : State) (p : Nat) (x : Packet), ∀ c, requestInstr .ep p x = some c → s.m.hasPort .ep p = true → s.m.epIdle →
      s.m.isUp .ep p = true → x.dst = s.m.epNode →
      let given := s.m.takeAtEp p x
      let answer := fun (m : Mach) (y : Packet) =>
        (m.pushTx { id := 0, pkt := y, port := some p, marked := x.mark == 1 }).epPump
      let nack := fun st => s.m.response .ep x Op.nack st 0 0 0 []
      (x.addrSpace = 1 → exec c s = .next { s with m := answer given (nack Status.badSpace) }) ∧
      (x.addrSpace = 0 → x.poison = 1 → exec c s = .next { s with m := answer given (nack Status.poisoned) }) ∧
      (x.addrSpace = 0 → x.poison = 0 → x.opcode = Op.syncWait →
        exec c s = .next { s with m := answer given (nack Status.accessDenied) }) ∧
      (x.addrSpace = 0 → x.poison = 0 → x.opcode ≠ Op.syncWait →
        (s.m.mapWindow x = .error Status.badAddress → exec c s = .next { s with
          m := answer (given.bump .ep Pg.eMp R.ep4WinMissCnt) (nack Status.badAddress) }) ∧
        (s.m.mapWindow x = .error Status.accessDenied →
          exec c s = .next { s with m := answer given (nack Status.accessDenied) }) ∧
        (∀ w a, s.m.mapWindow x = .ok (w, a) →
          (isAtomic x.opcode = true → x.offset % atomicWidth x.modifier ≠ 0 →
            exec c s = .next { s with m := answer given (nack Status.misaligned) }) ∧
          ((isAtomic x.opcode = true → x.offset % atomicWidth x.modifier = 0) → s.m.ep.serve = [] → s.m.ep.mp = [] →
            0 < s.m.epParams.atom256 →
            let n := requestBytes x
            let cmd := if x.opcode = Op.read then 0 else if isAtomic x.opcode then 2 else 1
            let ord := if isStore x.opcode ∧ x.stream ≠ 63 then 1 else 0
            let tag := s.m.ep.nextMp % 65536
            let data := if x.opcode = Op.read then [] else if cmd = 2 then x.payload else x.payload.take n
            let modifier := if cmd = 2 then x.modifier else 0
            (0 < n → isAtomic x.opcode = true ∨ a % 4096 + n ≤ 4096 → (x.opcode = Op.read → x.payload = []) →
              exec c s = .next { s with m := { given with
                ep := { given.ep with
                  nextServe := given.ep.nextServe + 1, nextMp := (tag + 1) % 65536,
                  serve := [{ id := given.ep.nextServe, pkt := x, port := p, window := w, addr := a, issued := true, out := 1 }],
                  mp := [{
                    tag := tag, cmd := cmd, addr := a, len := n, ord := ord, modifier := modifier, data := data,
                    use := .serve given.ep.nextServe 0 }] },
                out := .memRequest tag cmd a n ord modifier false data :: given.out } }) ∧
            (n = 0 → x.opcode = Op.write → exec c s = .next { s with
              m := answer { given with ep := { given.ep with nextServe := given.ep.nextServe + 1 } }
                (s.m.response .ep x Op.writeAck 0 0 0 1 []) }))))) ∧
  ((∀ (s : State) (p : Nat) (x : Packet), ∀ c, requestInstr .sx p x = some c → p < 144 → x.dst = s.m.sxNode →
      x.addrSpace = 2 → s.m.atTarget 168 169 x 168 none →
      let o := s.m.taken 168 169 x p
      let r := ({ s.m with held := o.2 } : Mach).ctxRequest .sx x
      exec c s = .next { s with m := r.2.push (r.2.ctxResponse .sx x r.1) 162 o.1 }) ∧
    (∀ (s : State) (p : Nat) (x : Packet), ∀ c, requestInstr .ep p x = some c → s.m.hasPort .ep p = true → s.m.epIdle →
      s.m.isUp .ep p = true → x.dst = s.m.epNode → x.addrSpace = 2 → x.opcode = Op.read ∨ x.opcode = Op.write →
      x.offset / 0x4000 = 0x400 + x.context → (pageKind s.m.epParams .ep (0x400 + x.context)).isSome = true →
      requestBytes x = 4 → x.offset % 4 = 0 → s.m.ctxBound .ep x = false →
      exec c s = .next { s with
        m := ((s.m.takeAtEp p x).pushTx { id := 0, pkt := s.m.response .ep x Op.nack Status.contextDenied 0 0 0 [],
                                          port := some p, marked := x.mark == 1 }).epPump }) ∧
    (∀ (m : Mach) (x : Packet), x.opcode = Op.write ∨ x.opcode = Op.read → x.offset / 0x4000 = 0x400 + x.context →
      requestBytes x = 4 → x.offset % 4 = 0 → m.ctxBound .sx x = false →
      m.ctxRequest .sx x = (.error Status.contextDenied, m)) ∧
    (∀ (s : State) (p : Nat) (x : Packet), p < 144 → x.dst = s.m.sxNode → x.addrSpace = 2 → s.m.atTarget 168 169 x 168 none →
      x.opcode = Op.write → x.offset / 0x4000 = 0x400 + x.context → x.offset % 0x4000 = R.ctxDoorbell → x.payload.length = 4 →
      x.length = 4 → s.m.ctxBound .sx x = true → x.poison = 0 → s.m.reaches .sx .vc0 (0x400 + x.context) = some .ctx →
      let o := s.m.taken 168 169 x p
      ∃ t, exec (.write .sx p x) s = .next t ∧
        t.m.word .sx (item (0x400 + x.context) 0 R.ctxDoorbell) = BitVec.ofNat 32 (ofLeBytes x.payload) ∧
        t.m.event .sx (0x400 + x.context) 0 = true ∧
        s.becomes t { s.m with
          held := s.m.heldWith o 0 [s.m.response .sx x Op.writeAck 0 0 0 0 []], nextId := s.m.nextId + 1 } .sx
          (fun k => pageWord (0x400 + x.context) R.ctxDoorbell k || eventWord (0x400 + x.context) k)))

/-- In-band management is served from the manager node alone: a read is answered with its words, a write with its
acknowledgement; from any other node it changes no register, is counted and refused.
A PFAULT from an end-point whose port holds its key is a fault of the switch: recorded and raised, the key's waiters are
gone, and, unless the key's fault was broadcast within 64 stitches, a PFAULT goes to every up port that holds the key.  One
of a key that its port does not hold is discarded and counted.
What it fixes beyond the manual is the model's choice: log 30, 127, 139. -/
def Obligations.ManagementIsServedAndFaultsBroadcast : Prop :=
  ((∀ (s : State) (p : Nat) (x : Packet), p < 144 → x.dst = s.m.sxNode → s.m.atTarget 168 169 x 168 none →
      let o := s.m.taken 168 169 x p
      let taken : Mach := { s.m with held := o.2 }
      let answer := fun (m : Mach) (op st : Nat) (bs : List Byte) =>
        (Host.Outcome.next { s with m := m.push (m.response .sx x op st 0 0 0 bs) 162 o.1 } : Host.Outcome State Fault Refusal)
      (s.m.mgtPath .sx x = some .vc4 → x.addrSpace = 2 → x.poison = 0 → x.opcode = Op.mgtRead → ∀ bs,
        Mach.joined (taken.regReads .sx .vc4 (x.aux % 32) x.offset).1 = .ok bs →
        (∀ a ∈ (taken.regReads .sx .vc4 (x.aux % 32) x.offset).1, a ≠ .outside) →
        exec (.mgtRead .sx p x) s = answer (taken.regReads .sx .vc4 (x.aux % 32) x.offset).2 Op.mgtData 0 bs) ∧
      (s.m.mgtPath .sx x = some .vc4 → x.addrSpace = 2 → x.poison = 0 → x.opcode = Op.mgtWrite → ∀ bs,
        Mach.joined (taken.regWrites .sx .vc4 (wholeWords x.payload) x.offset).1 = .ok bs →
        (∀ a ∈ (taken.regWrites .sx .vc4 (wholeWords x.payload) x.offset).1, a ≠ .outside) →
        exec (.mgtWrite .sx p x) s = answer (taken.regWrites .sx .vc4 (wholeWords x.payload) x.offset).2 Op.mgtAck 0 []) ∧
      (s.m.mgtPath .sx x = none → x.opcode = Op.mgtRead ∨ x.opcode = Op.mgtWrite →
        exec (if x.opcode = Op.mgtRead then .mgtRead .sx p x else .mgtWrite .sx p x) s
          = answer (taken.bump .sx Pg.guard R.grdMgrRefusedCnt) Op.mgtAck Status.accessDenied [])) ∧
    (∀ (s : State) (p : Nat) (x : Packet), s.m.hasPort .ep p = true → s.m.epIdle → s.m.isUp .ep p = true →
      x.dst = s.m.epNode → s.m.mgtPath .ep x = none → x.opcode = Op.mgtRead ∨ x.opcode = Op.mgtWrite →
      exec (if x.opcode = Op.mgtRead then .mgtRead .ep p x else .mgtWrite .ep p x) s = .next { s with
        m := ((((s.m.takeAtEp p x).bump .ep Pg.eMp R.ep4MgrRefusedCnt).pushTx {
          id := 0, pkt := s.m.response .ep x Op.mgtAck Status.accessDenied 0 0 0 [], port := some p,
          marked := x.mark == 1 }).epPump) })) ∧
  (∀ (s : State) (p : Nat) (x : Packet), p < 144 → x.opcode = Op.pfault → x.pkey ≠ 0 →
      let ports := (List.range 144).filter fun q => s.m.isUp .sx q && s.m.holdsKey q x.pkey
      let word := x.pkey + x.aux % 256 * 65536 + 2 ^ 24
      let arrived := s.m.arrivedPkts.erase (.sx, p, x)
      (s.m.waits .sx p x = true ∨ s.m.keyOk p x = true →
        ∃ t, exec (.pfaultFromEndpoint p x) s = .next t ∧ t.m.event .sx Pg.chip 0 = true ∧
          s.m.counted t.m .sx Pg.chip R.chpPfaultCnt ∧ t.m.storedReg .sx Pg.chip R.chpPfaultLast = word ∧
          t.m.mem = { s.m.mem with waiters := s.m.mem.waiters.filter fun w => w.pkt.pkey != x.pkey } ∧
          (s.m.faultRecent x.pkey = none →
            Tbl.get (fun _ => none) t.m.faultSent x.pkey = some (s.m.time.number, x.aux % 256) ∧
            (∃ hs, t.m.held = s.m.held ++ hs ∧ hs.map (·.output) = ports ∧
              ∀ h ∈ hs, h.input = 171 ∧ h.part = .exempt ∧ h.pkt.opcode = Op.pfault ∧ h.pkt.pkey = x.pkey ∧
                h.pkt.aux % 256 = x.aux % 256)) ∧
          (∀ r, s.m.faultRecent x.pkey = some r → ¬(s.m.time.number = r.1 ∧ x.aux % 256 < r.2) → t.m.held = s.m.held ∧
            s.m.counted t.m .sx Pg.chip R.chpPfaultSuppCnt) ∧
          s.becomes t { s.m with
            arrivedPkts := arrived, mem := t.m.mem, held := t.m.held, nextId := t.m.nextId, faultSent := t.m.faultSent } .sx
            (fun k => itemPage k == Pg.chip || itemPage k == Pg.trace)) ∧
      (s.m.waits .sx p x = false → s.m.keyOk p x = false → s.m.power.f = 64 → s.m.shedLevel < 4 →
        ∃ t, exec (.pfaultFromEndpoint p x) s = .next t ∧ s.m.counted t.m .sx (Pg.port p) R.prtPkeyInCnt ∧
          s.becomes t (s.m.returnCredit .sx p x.vc (ceilDiv x.extent 16)) .sx
            (fun k => portWord p R.prtPkeyInCnt k || portWord p R.prtPktErrLast k)))

/-! ## Collectives of the EP-4 -/

/-- A send of a collective forms one packet for each plane used, under no tag: PLT_SEND the units of the next chunk, each the
slice of its plane and a unit without elements as one byte of padding; BKT_SEND reads its part table first.
CUF_SEND waits for its opening stitch; at CUF_SEND_START, not before that stitch, it sends one share to each plane used,
each with the stitch of its deadline.
COLL_RECV is posted and waits for its units.  A whole unit from a plane that it names is written at its place, and
completes the receive when it is the last of its count; a unit that no receive fits is counted, and its context's key faults. -/
def Obligations.CollectivesAreSentAndReceived : Prop :=
  ((∀ (s : State) (d : Slot), s.m.sole d → d.untouched → d.op = DOp.pltSend → s.m.ep.scrBad = [] → d.srcSpace = 1 →
      let fmt := bitsOf (d.w 2) 32 4
      let e := d.chunkElems
      let ps := planesOf d.planeMask
      let sl := Slot.sliceOf (bitsOf (d.w 4) 0 32) ps.length e
      let top := fun j => if j + 1 < ps.length then min (min (j * sl + e) d.len) ((j + 1) * sl) else min (j * sl + e) d.len
      let aux := bitsOf (d.w 2) 0 13 + bitsOf (d.w 2) 13 8 * 2 ^ 13 + bitsOf (d.w 2) 21 8 * 2 ^ 45
      let op := if bitsOf (d.w 2) 36 1 = 1 then Op.pltShard else Op.pltContrib
      let unit := fun (pl j : Nat) =>
        if top j ≤ j * sl then s.m.collPacket d op 2 pl (fmtBytes fmt e) aux [0]
        else s.m.collPacket d op 2 pl 0 aux
          (s.store.scratch.readN (s.m.scrBase d.ctx + (d.w 3 + fmtBytes fmt (j * sl))) (fmtBytes fmt (top j - j * sl)))
      (0 < bitsOf (d.w 4) 32 32 → 0 < e → ps ≠ [] →
        (∀ j, j < ps.length → j * sl < top j →
          0 < fmtBytes fmt (top j - j * sl) ∧ fmtBytes fmt (top j - j * sl) ≤ 4096 / unitBytes fmt * unitBytes fmt) →
        exec (.pltSend d.engine d.num) s = .next { s with
          m := (s.m.collected { d with begun := true, next := 1, packets := ps.length }
            (ps.mapIdx fun j pl => (unit pl j, none))).epPump }) ∧
      (bitsOf (d.w 4) 32 32 = 0 →
        let now : Slot := { d with begun := true, allIssued := true, truncated := SM.pltTruncated d, padded := SM.pltPadded d }
        exec (.pltSend d.engine d.num) s = .next { s with m := (s.m.withSlot now).finishSlot now })) ∧
    (∀ (s : State) (d : Slot), s.m.sole d → d.untouched → d.op = DOp.bktSend → d.words.length = 8 →
      (SM.buckets d = 0 → exec (.descBktSend d.engine d.num) s = .next { s with
        m := (s.m.withSlot { d with begun := true, allIssued := true }).finishSlot { d with begun := true, allIssued := true } }) ∧
      (SM.buckets d ≠ 0 → exec (.descBktSend d.engine d.num) s = .next { s with
        m := (s.m.withSlot { d with begun := true }).fetchLocal (d.w 3) (8 * SM.buckets d) (.table d.engine d.num) })) ∧
    (∀ (s : State) (d : Slot) (q : MpReq) (id : Nat), s.m.ep.slots = [d] → s.m.ep.mp = [q] → s.m.ep.tx = [] → s.m.ep.host = [] →
      s.m.ep.fetch = [{ id := id, out := 1, use := .table d.engine d.num }] → ({ d with begun := false } : Slot).untouched →
      d.begun = true → d.op = DOp.bktSend → d.words.length = 8 → SM.buckets d = 1 → q.cmd = 0 → q.len = 8 → q.use = .fetch id 0 →
      let read : Slot := { d with words := d.words ++ [ofLeBytes (s.store.loc.readN q.addr 8)] }
      let part := SM.partOf read 0
      let given : Mach := { s.m with ep := { s.m.ep with mp := [], fetch := [] } }
      let plane := bitsOf (d.w 2) 27 4
      let aux := bitsOf (d.w 2) 0 10 + bitsOf (d.w 2) 10 8 * 2 ^ 13
      let now : Slot := { read with next := 1, packets := 1 }
      (s.m.inLocal d.ctx part.1 part.2 = true → part.2 = 0 → exec (.mpResponse q.tag 0) s = .next { s with
        m := (given.collected now [(s.m.collPacket d Op.bktSend 2 plane (bitsOf (d.w 4) 0 17) aux [0], none)]).epPump }) ∧
      (s.m.inLocal d.ctx part.1 part.2 = true → 0 < part.2 → part.2 ≤ 4096 → exec (.mpResponse q.tag 0) s = .next { s with
        m := ((given.collected now [(s.m.collPacket d Op.bktSend 2 plane 0 aux (List.replicate part.2 0), none)] false).fetchLocal
          part.1 part.2 (.tx s.m.ep.nextTx)).epPump }) ∧
      (s.m.inLocal d.ctx part.1 part.2 = false → exec (.mpResponse q.tag 0) s = .next { s with
        m := (given.withSlot { d with other := Done.badLocal, allIssued := true }).finishSlot
          { d with other := Done.badLocal, allIssued := true } }))) ∧
  (∀ (s : State) (d : Slot), s.m.sole d → d.op = DOp.cufSend →
      (d.untouched → exec (.cufSend d.engine d.num) s = .next { s with m := s.m.withSlot { d with begun := true } }) ∧
      (({ d with begun := false } : Slot).untouched → d.begun = true →
        (s.m.epTime.number < d.w 4 → exec (.cufSendStart d.engine d.num) s = .next s) ∧
        (d.w 4 ≤ s.m.epTime.number → d.srcSpace = 1 → s.m.ep.scrBad = [] →
          let ps := planesOf d.planeMask
          let share := d.len / ps.length
          let aux := cufAux (bitsOf (d.w 2) 0 9) (bitsOf (d.w 2) 9 8) (d.w 4)
          ps ≠ [] → 0 < share →
          exec (.cufSendStart d.engine d.num) s = .next { s with
            m := (s.m.collected { d with allIssued := true, packets := ps.length }
              (ps.mapIdx fun j pl => (s.m.collPacket d Op.cufContrib 3 pl 0 aux
                (s.store.scratch.readN (s.m.scrBase d.ctx + (d.w 3 + j * share)) share),
                some (d.w 4 + bitsOf (d.w 2) 33 7)))).epPump }))) ∧
  ((∀ (s : State) (d : Slot), s.m.sole d → d.untouched → d.op = DOp.collRecv →
      (0 < bitsOf (d.w 5) 0 32 →
        exec (.collRecv d.engine d.num) s = .next { s with m := s.m.withSlot { d with begun := true } }) ∧
      (bitsOf (d.w 5) 0 32 = 0 → exec (.collRecv d.engine d.num) s = .next { s with
        m := (s.m.withSlot { d with begun := true, allIssued := true }).finishSlot { d with begun := true, allIssued := true } })) ∧
    (∀ (s : State) (p : Nat) (x : Packet), ∀ c, unitInstr p x = some c → s.m.hasPort .ep p = true → x.last = 1 →
      Tbl.get (fun _ => none) s.m.ep.recv p = none →
      let taken := s.m.takingUnit p x
      (s.m.ep.fetch = [] → s.m.ep.tx = [] → ∀ d, s.m.ep.slots = [d] → SM.recvFits d x (s.m.planeOfPort p) = true →
        d.access = 0 → d.packets = 0 → d.dstSpace = 1 → s.m.ep.scrBad = [] → x.poison = 0 →
        let a := SM.recvPlace d x (s.m.planeOfPort p)
        s.m.inPlace d.ctx 1 a x.length = true →
        let now := d.receiving x (s.m.planeOfPort p)
        let store := { s.store with scratch := s.store.scratch.writeN (s.m.scrBase d.ctx + a) x.payload }
        (now.units < bitsOf (d.w 5) 0 32 → exec c s = .next { s with store := store, m := taken.withSlot now }) ∧
        (bitsOf (d.w 5) 0 32 ≤ now.units → exec c s = .next { s with
          store := store, m := (taken.withSlot { now with allIssued := true }).finishSlot { now with allIssued := true } })) ∧
      (s.m.epIdle → exec c s = .next { s with
        m := ((taken.bump .ep Pg.eId R.ep4UnmatchedCnt).epPfault x.pkey Reason.responseLost).epPump })))

/-! ## The Guard -/

/-- A principal's write of a Guard item lands in its staged copy while the Guard is OPEN, and is refused otherwise; a seal
takes a change that is not empty and in range of its stitch, with its digest; the accelerator's path is counted and refused.
A sealed change is discarded by an abort, by an approval with a wrong digest, at its expiry, or when it would be armed too
late for its stitch; the right approval of one principal is noted, and with both the change is ARMED for its stitch.
What it fixes beyond the manual is the model's choice: log 132, 140. -/
def Obligations.GuardChangesAreSealedAndApproved : Prop :=
  (∀ (s : State) (c : Chip) (path : Path) (x v : Nat),
      let pg := guardPage c
      let now := s.m.now c
      let ks := s.m.guardChange c
      let err := fun (code : Nat) (t : State) => t.m.storedReg c pg (byChip c R.grdErr R.ep4GrdErr) = code ∧
        s.becomes t s.m c (pageWord pg (byChip c R.grdErr R.ep4GrdErr))
      (∀ page sel a, itemOk page sel a = true →
        let k := item page sel a
        (principal c path ≠ none → s.m.guardItem c k = true → s.m.guardState c = 0 →
          ∃ t, exec (.guardStage c path page sel a v) s = .next t ∧
            t.m.shadow c k = BitVec.ofNat 32 v &&& (info s.m.epParams c k).rws ∧
            (∀ j, j ≠ k → t.m.shadow c j = s.m.shadow c j) ∧
            t.m.rf c = { s.m.rf c with shadow := (t.m.rf c).shadow } ∧ t.m.rf (otherChip c) = s.m.rf (otherChip c) ∧
            t.m.bare = s.m.bare ∧ t.m.out = s.m.out ∧ s.kept t) ∧
        (principal c path ≠ none → s.m.guardItem c k = true → s.m.guardState c ≠ 0 →
          ∃ t, exec (.guardStage c path page sel a v) s = .next t ∧ (c = .sx → s.m.counted t.m .sx pg R.grdStageRefusedCnt) ∧
            s.becomes t s.m c (fun k => c == .sx && pageWord pg R.grdStageRefusedCnt k)) ∧
        (principal c path = none ∨ s.m.guardItem c k = false → ¬(c = .ep ∧ path = .accel) →
          exec (.guardStage c path page sel a v) s = .next s)) ∧
      (principal c path ≠ none → s.m.guardState c = 0 →
        (ks = [] → ∃ t, exec (.guardSeal c path x) s = .next t ∧ err 8 t) ∧
        (∀ a, s.m.guardAt c = some a → ks ≠ [] → a < now + 2 ∨ now + 120000000 < a →
          ∃ t, exec (.guardSeal c path x) s = .next t ∧ err 9 t) ∧
        ((s.m.guardAt c).all (fun a => decide (now + 2 ≤ a ∧ a ≤ now + 120000000)) = true → ks ≠ [] →
          ∃ t, exec (.guardSeal c path x) s = .next t ∧ t.m.stored c pg (guardStateFld c) = 1 ∧
            t.m.storedReg c pg (byChip c R.grdDigestLo R.ep4GrdDigestLo)
                + t.m.storedReg c pg (byChip c R.grdDigestHi R.ep4GrdDigestHi) * 2 ^ 32
              = (s.m.guardDigest c now (s.m.guardAt c) ks).toNat ∧
            s.becomes t (s.m.setGuardRun c { s.m.guardRun c with sealAt := now, at_ := s.m.guardAt c, due := none }) c
              (fun k => [(guardStateFld c).off, byChip c R.grdDigestLo R.ep4GrdDigestLo,
                byChip c R.grdDigestHi R.ep4GrdDigestHi].any fun o => pageWord pg o k))) ∧
      (principal c path = none ∨ s.m.guardState c ≠ 0 → ¬(c = .ep ∧ path = .accel) →
        exec (.guardSeal c path x) s = .next s) ∧
      (∀ i ∈ [Instr.guardSeal .ep .accel x, .guardAbort .ep .accel, .guardApprove .ep .accel v x],
        ∃ t, exec i s = .next t ∧ s.m.counted t.m .ep Pg.eId R.ep4GrdRefusedCnt ∧
          s.becomes t s.m .ep (pageWord Pg.eId R.ep4GrdRefusedCnt))) ∧
  (∀ (s : State) (c : Chip) (path : Path) (x v : Nat), s.m.guardState c = 1 →
      let pg := guardPage c
      let state := pageWord pg (guardStateFld c).off
      let digest := s.m.reg c pg (byChip c R.grdDigestLo R.ep4GrdDigestLo)
        + s.m.reg c pg (byChip c R.grdDigestHi R.ep4GrdDigestHi) * 2 ^ 32
      let run := s.m.guardRun c
      let armed := fun (due : Nat) (t : State) => t.m.stored c pg (guardStateFld c) = 2 ∧
        s.becomes t (s.m.setGuardRun c { run with due := some due }) c state
      (principal c path ≠ none → ∃ t, exec (.guardAbort c path) s = .next t ∧
        s.discards t c 1 (fun k => state k || eventWord pg k)) ∧
      (run.sealAt + 60000000 ≤ s.m.now c → ∃ t, exec (.guardExpiry c) s = .next t ∧
        (c = .sx → s.m.counted t.m .sx pg R.grdExpiredCnt) ∧
        s.discards t c 1 (fun k => state k || eventWord pg k || c == .sx && pageWord pg R.grdExpiredCnt k)) ∧
      (s.m.now c < run.sealAt + 60000000 → exec (.guardExpiry c) s = .next s) ∧
      (∀ who, principal c path = some who → s.m.bit c pg (Mach.approvedFld c who) = false →
        let both := s.m.bit c pg (Mach.approvedFld c (match who with | .a => .b | .b => .a))
        (v ≠ digest → ∃ t, exec (.guardApprove c path v x) s = .next t ∧
          (c = .sx → s.m.counted t.m .sx pg R.grdApproveBadCnt) ∧
          s.discards t c 1 (fun k => state k || eventWord pg k || c == .sx && pageWord pg R.grdApproveBadCnt k)) ∧
        (v = digest → both = false → ∃ t, exec (.guardApprove c path v x) s = .next t ∧
          t.m.stored c pg (Mach.approvedFld c who) = 1 ∧ s.becomes t s.m c state) ∧
        (v = digest → both = true → run.at_ = none → ∃ t, exec (.guardApprove c path v x) s = .next t ∧
          armed (if x ≤ 776 then s.m.now c else s.m.now c + 1) t) ∧
        (v = digest → both = true → ∀ a, run.at_ = some a →
          (s.m.isLate c x a = false → ∃ t, exec (.guardApprove c path v x) s = .next t ∧ armed a t) ∧
          (s.m.isLate c x a = true → ∃ t, exec (.guardApprove c path v x) s = .next t ∧
            s.discards t c 2 (fun k => state k || eventWord pg k)))))

/-- In its hem an armed change is validated: an item that passes is live with what its rule makes follow, one that fails
keeps its old value, with its code and address; the Guard is OPEN again, and the commit counted and reported.
What it fixes beyond the manual is the model's choice: log 132. -/
def Obligations.ChangesAreCommittedInTheirHem : Prop :=
  (∀ (s : State) (c : Chip) (u d : Nat), s.m.guardState c = 2 → (s.m.guardRun c).due = some d → (c = .ep → s.m.epIdle) →
    let ks := s.m.guardChange c
    let new := ks.foldl (fun (m : Mach) k => m.setLive c k (s.m.shadow c k)) s.m
    (s.m.now c < d → exec (.guardCommit c) s = .next s) ∧
    (d ≤ s.m.now c → Mach.guardUnits c ks = [u] → Mach.itemCode c new s.m u = 0 →
      let m := match c with | .sx => new.guardAppliedSx s.m [u] | .ep => new.guardAppliedEp s.m [u]
      exec (.guardCommit c) s = .next { s with
        m := ((((m.guardOpen c).guardCount c R.grdCommitCnt).guardEvent c 0).traceCommit c Pg.guard).digestStart c }) ∧
    (d ≤ s.m.now c → Mach.guardUnits c ks = [u] → Mach.itemCode c new s.m u ≠ 0 →
      ∃ t, exec (.guardCommit c) s = .next t ∧
        t.m.storedReg c (guardPage c) (byChip c R.grdErr R.ep4GrdErr) = Mach.itemCode c new s.m u ∧
        (c = .sx → s.m.counted t.m .sx Pg.guard R.grdCommitCnt) ∧ (t.m.rf c).digestBy = some (s.m.now c + 1024) ∧
        s.discards { t with m := t.m.setRf c { t.m.rf c with digestBy := (s.m.rf c).digestBy } } c 0
          (fun k => itemPage k == guardPage c || itemPage k == Pg.trace
            || (if c = .sx then itemPage k == Pg.chip else itemPage k == itemPage u)))) ∧
  (∀ (m old : Mach) (n : Nat), n < 2 ^ 44 →
    m.guardAppliedSx old [item Pg.guard 3 n] = m.resetPage .sx (Pg.ctx n) ∧
    m.guardAppliedSx old [item Pg.guard 6 n] = m ∧ m.guardAppliedSx old [item Pg.guard 7 n] = m) ∧
  (∀ (m old : Mach) (n : Nat), 4 * n < 2 ^ 44 →
    m.guardAppliedEp old [item Pg.eMp 3 (4 * n)] = m.scrubCtx old n true ∧
    m.guardAppliedEp old [item Pg.eMp 2 (4 * n)] = m)

/-- Principal B alone starts the relay: its request goes out as one management packet, and the relay is busy until a reply of
its node leaves its status and data, or 2,000 stitches have passed.
In the hem after the loss, a torn key is faulted with reason TORN, counted and reported, and no packet or request of it is
left waiting.
What it fixes beyond the manual is the model's choice: log 138, 139. -/
def Obligations.TheRelayAndTornKeys : Prop :=
  ((∀ (s : State) (path : Path) (v : Nat),
      let ctl := pageWord Pg.guard R.grdRelayCtrl
      let word := v % 2 ^ 32 - v / 2 ^ 11 % 2 * 2 ^ 11
      let started := (({ s.m.setReg .sx Pg.guard R.grdRelayCtrl word with
        relay := some ⟨v % 1024, bitsOf v 10 1 == 1, s.m.time.number⟩ } : Mach).setReg .sx Pg.guard R.grdRelayStatus 1)
      (principal .sx path ≠ some .b → ∃ t, exec (.relayGo path v) s = .next t ∧
        s.m.counted t.m .sx Pg.guard R.grdRelayRefusedCnt ∧ s.becomes t s.m .sx (pageWord Pg.guard R.grdRelayRefusedCnt)) ∧
      (principal .sx path = some .b → bitsOf v 11 1 = 0 ∨ s.m.bit .sx Pg.guard F.grdRelayStatus_busy = true →
        ∃ t, exec (.relayGo path v) s = .next t ∧ t.m.storedReg .sx Pg.guard R.grdRelayCtrl = word ∧ s.becomes t s.m .sx ctl) ∧
      (principal .sx path = some .b → bitsOf v 11 1 = 1 → s.m.bit .sx Pg.guard F.grdRelayStatus_busy = false →
        ∃ t, exec (.relayGo path v) s = .next t ∧ t.m.relay = started.relay ∧
          t.m.storedReg .sx Pg.guard R.grdRelayStatus = 1 ∧
          ((started.route (v % 1024) 0).1 = none → t.m.held = s.m.held) ∧
          (∀ o, (started.route (v % 1024) 0).1 = some o → ∃ h, t.m.held = s.m.held ++ [h] ∧ h.output = o ∧ h.input = 162 ∧
            h.pkt.dst = v % 1024 ∧ h.pkt.vc = 4 ∧
            (bitsOf v 10 1 = 1 → h.pkt.opcode = Op.mgtRead ∧ h.pkt.aux = 1 ∧ h.pkt.payload = []) ∧
            (bitsOf v 10 1 = 0 → h.pkt.opcode = Op.mgtWrite ∧
              h.pkt.payload = leBytes 4 (s.m.reg .sx Pg.guard R.grdRelayData))) ∧
          s.becomes t { s.m with relay := t.m.relay, held := t.m.held, nextId := t.m.nextId, toggle := t.m.toggle } .sx
            (fun k => ctl k || pageWord Pg.guard R.grdRelayStatus k || pageWord Pg.chip R.chpRouteSprayFallbackCnt k))) ∧
    (∀ (s : State) (r : Relay), s.m.relay = some r →
      let ended := fun (t : State) => s.becomes t { s.m with relay := none, arrivedPkts := t.m.arrivedPkts } .sx
        (fun k => pageWord Pg.guard R.grdRelayStatus k || pageWord Pg.guard R.grdRelayData k)
      (r.at_ + 2000 ≤ s.m.time.number → ∃ t, exec .relayTimeout s = .next t ∧ ended t ∧
        t.m.storedReg .sx Pg.guard R.grdRelayStatus = 2 ^ 10) ∧
      (s.m.time.number < r.at_ + 2000 → exec .relayTimeout s = .next s) ∧
      (∀ (p : Nat) (x : Packet), p < 144 →
        let taken := s.m.arrivedPkts.erase (.sx, p, x)
        (x.src = r.node → x.opcode = Op.mgtData → ∃ t, exec (.mgtData .sx p x) s = .next t ∧ ended t ∧ t.m.arrivedPkts = taken ∧
          t.m.storedReg .sx Pg.guard R.grdRelayStatus = 2 + x.status * 4 ∧
          t.m.storedReg .sx Pg.guard R.grdRelayData = ofLeBytes (x.payload.take 4)) ∧
        (x.src = r.node → x.opcode = Op.mgtAck → ∃ t, exec (.mgtAck .sx p x) s = .next t ∧ ended t ∧ t.m.arrivedPkts = taken ∧
          t.m.storedReg .sx Pg.guard R.grdRelayStatus = 2 + x.status * 4 ∧
          t.m.word .sx (item Pg.guard 0 R.grdRelayData) = s.m.word .sx (item Pg.guard 0 R.grdRelayData)) ∧
        (x.src ≠ r.node → x.opcode = Op.mgtData → exec (.mgtData .sx p x) s = .next { s with
          m := { s.m with arrivedPkts := taken } }) ∧
        (x.src ≠ r.node → x.opcode = Op.mgtAck → exec (.mgtAck .sx p x) s = .next { s with
          m := { s.m with arrivedPkts := taken } })))) ∧
  (∀ (s : State) (k : Nat), s.m.torn = [k] → s.m.held.all (fun h => h.key != k) = true →
      s.m.validGroups.all (fun g => (s.m.gdesc g).pkey != k) = true →
      s.m.validCuffs.all (fun g => s.m.cd g F.cdesc_pkey != k) = true →
      let cleared : Mach := { s.m with
        torn := [], arrivedPkts := s.m.arrivedPkts.filter fun x => !(x.1 == Chip.sx && x.2.2.pkey == k),
        mem := { s.m.mem with reqs := s.m.mem.reqs.filter fun r => r.pkt.pkey != k } }
      ∃ t, exec .tornKey s = .next t ∧ t.m.torn = [] ∧ t.m.event .sx Pg.guard 3 = true ∧
        s.m.counted t.m .sx Pg.guard R.grdTornCnt ∧ t.m.arrivedPkts = cleared.arrivedPkts ∧
        t.m.mem = { cleared.mem with waiters := s.m.mem.waiters.filter fun w => w.pkt.pkey != k } ∧
        t.m.bare = (cleared.pfault k Reason.torn).bare ∧
        (∀ h ∈ t.m.held, h ∈ s.m.held ∨ h.pkt.opcode = Op.pfault ∧ h.pkt.pkey = k % 65536) ∧ s.kept t)

/-! ## Pleat and bucket groups -/

/-- A packet at a Pleat core is judged: one of no group that knows it, or of a faulted group, is counted; one that breaks a
rule of its group faults the group with the rule's reason; one that waits for its admission stays.
An accepted contribution joins its chunk, which it opens when it is the first; its bytes are kept in the order of arrival,
and a whole unit ends its member's part and is counted.
A whole shard of a group without a release window is replicated to every receiving member and completes its chunk; a part
of a bucket fills its records' places in the order of arrival, what does not fit being dropped and noted.
What it fixes beyond the manual is the model's choice: log 43, 52, 53. -/
def Obligations.PleatPacketsAreAccumulated : Prop :=
  (∀ (s : State) (tile : Nat) (x : Packet), tile < 18 →
      ∀ c ∈ [Instr.pltContrib tile x, .pltShard tile x, .bktSend tile x],
      let gk := groupKeyOf x
      (s.m.atPleat tile x = none → exec c s = .next s) ∧
      (∀ port given, s.m.atPleat tile x = some (port, given) →
        let d := given.gdesc gk
        let i := PltAux.member x
        let r := given.memberOf Pg.pleat 3 d.memberBase i
        let u := given.unitOf x
        let sort : Bool := x.opcode == Op.pltContrib || x.opcode == Op.pltShard || x.opcode == Op.bktSend
        let known : Bool := sort && x.dst == s.m.sxNode && x.pkey == d.pkey && d.valid
        let member : Bool := decide (i < d.members) && r.contrib && r.port == port && r.context == x.context
        let gather : Bool := !d.bucket && given.pd gk F.pdesc_half == 1
        let counted := fun (t : State) o => s.m.counted t.m .sx Pg.pleat o ∧ s.becomes t given .sx (pageWord Pg.pleat o)
        let faults := fun (t : State) (reason : Nat) => s.m.counted t.m .sx Pg.pleat R.pltProtoDropCnt ∧
          s.groupFaults t gk reason
        (known = false → ∃ t, exec c s = .next t ∧ counted t R.pltProtoDropCnt) ∧
        (known = true → (given.grp gk).reason ≠ 0 → ∃ t, exec c s = .next t ∧ counted t R.pltFaultedDropCnt) ∧
        (known = true → (given.grp gk).reason = 0 →
          (member = false → ∃ t, exec c s = .next t ∧ faults t Reason.member) ∧
          (member = true → (x.opcode = Op.pltShard ↔ gather = true) →
            (gather = true → d.count ≤ u.2 ∨ (given.ownersOf gk u.2).contains i = true) →
            (128 ≤ (u.1 + 256 - (given.grp gk).passLow) % 256 → ∃ t, exec c s = .next t ∧ faults t Reason.stale) ∧
            ((u.1 + 256 - (given.grp gk).passLow) % 256 < 128 → given.portUnit port = none → x.address = 0 → x.last = 1 →
              given.emptyAddr gk ≠ 0 →
              (d.count ≤ u.2 → ∃ t, exec c s = .next t ∧ faults t (if d.bucket then Reason.bucket else Reason.sequence)) ∧
              (u.2 < d.count → (given.grp gk).done.contains u = true → ∃ t, exec c s = .next t ∧ faults t Reason.duplicate)))))) ∧
  (∀ (s : State) (tile : Nat) (x : Packet), tile < 18 → ∀ port given, s.m.atPleat tile x = some (port, given) →
      x.opcode = Op.pltContrib → given.pleatVerdict port x = .take →
      let gk := groupKeyOf x
      let pass := PltAux.pass x
      let idx := PltAux.chunk x
      let i := PltAux.member x
      let old := given.chunk? gk pass idx
      (pass + 256 - (given.grp gk).passLow) % 256 < 4 → idx < (given.gdesc gk).count →
      (given.grp gk).done.contains (pass, idx) = false →
      ∃ t, exec (.pltContrib tile x) s = .next t ∧
        (∀ ch, t.m.chunk? gk pass idx = some ch →
          ch.pkts = (match old with | some o => o.pkts | none => []) ++ [(i, x.address, x.payload)] ∧
          ch.ended = (match old with | some o => o.ended | none => []) ++ (if x.last = 1 then [i] else []) ∧
          (old = none → ch.tile = given.placeOf (given.gdesc gk) idx ∧ ch.opened = s.m.time.number)) ∧
        (t.m.chunk? gk pass idx).isSome = true ∧
        t.m.plt.chunks.filter (fun e => !Mach.sameChunk gk pass idx e) =
          given.plt.chunks.filter (fun e => !Mach.sameChunk gk pass idx e) ∧
        (x.last = 1 → t.m.portUnit port = none ∧ s.m.counted t.m .sx Pg.pleat R.pltContribCnt ∧
          Tbl.get (fun _ => 0) (t.m.grp gk).next i
            = if idx + 1 < (given.gdesc gk).count then pass * 2 ^ 32 + idx + 1 else (pass + 1) % 256 * 2 ^ 32) ∧
        (x.last = 0 → (t.m.portUnit port).map (·.next) = some (x.address + x.length)) ∧
        s.becomes t { given with plt := t.m.plt } .sx
          (fun k => pageWord Pg.pleat R.pltContribCnt k || pageWord Pg.pleat R.pltPadCnt k || pageWord Pg.pleat R.pltOverflowCnt k)) ∧
  (∀ (s : State) (tile : Nat) (x : Packet), tile < 18 → ∀ port given, s.m.atPleat tile x = some (port, given) →
      given.pleatVerdict port x = .take → x.last = 1 →
      let gk := groupKeyOf x
      let d := given.gdesc gk
      let u := given.unitOf x
      let i := PltAux.member x
      let old := given.chunk? gk u.1 u.2
      (u.1 + 256 - (given.grp gk).passLow) % 256 < 4 → u.2 < d.count → (given.grp gk).done.contains u = false →
      (x.opcode = Op.pltShard → given.pd gk F.pdesc_release = 0 →
        let empty := given.isEmptyUnit x && (given.portUnit port).isNone
        ∃ t, exec (.pltShard tile x) s = .next t ∧
          (t.m.held.map fun h => (h.input, h.output, h.pkt)) = (given.held.map fun h => (h.input, h.output, h.pkt)) ++
            ((given.receivers d).map fun r => (given.shardOut gk u.1 u.2 x empty r).map fun p =>
              (144 + given.placeOf d u.2, (given.memberOf Pg.pleat 3 d.memberBase r).port, p)).flatten ∧
          t.m.chunk? gk u.1 u.2 = none ∧ s.m.counted t.m .sx Pg.pleat R.pltContribCnt ∧ s.kept t) ∧
      (x.opcode = Op.bktSend →
        let before := match old with | some o => o.places | none => []
        let put := if given.isEmptyUnit x && (given.portUnit port).isNone then (before, 0)
          else Mach.placeRecords (given.recSize d.number) (given.bd d.number F.bdesc_capacity) i (x.payload.length + 1) x.payload before
        ∃ t, exec (.bktSend tile x) s = .next t ∧ (t.m.chunk? gk u.1 u.2).isSome = true ∧
          (∀ ch, t.m.chunk? gk u.1 u.2 = some ch → ch.places = put.1 ∧
            ch.ended = (match old with | some o => o.ended | none => []) ++ [i]) ∧
          (put.2 ≠ 0 → (i, u.2) ∈ (t.m.grp gk).drops) ∧ (put.2 = 0 → (t.m.grp gk).drops = (given.grp gk).drops) ∧
          s.becomes t { given with plt := t.m.plt } .sx (pageWord Pg.pleat R.pltBktDropRecCnt)))

/-- A chunk whose every contribution has ended forms its result, one unit to each owner, at once or held for its release
stitch, whose copies then enter the fabric; a complete bucket is delivered with its fill and its source table, and the last of
a pass sends every source its drop map.
What it fixes beyond the manual is the model's choice: log 44, 54. -/
def Obligations.ChunksAndBucketsComplete : Prop :=
  (∀ (s : State) (g pass idx : Nat), g < 8192 →
    let d := s.m.gdesc g
    (s.m.chunk? g pass idx = none → exec (.chunkComplete g pass idx) s = .next s) ∧
    (∀ c, s.m.chunk? g pass idx = some c →
      (s.m.chunkComplete c = false → exec (.chunkComplete g pass idx) s = .next s) ∧
      (c.bucket = false → s.m.chunkComplete c = true → s.m.pd g F.pdesc_half ≠ 1 →
        let bytes := (s.m.chunkResult c).1
        let copies := (s.m.ownersOf g idx).map fun i =>
          ((s.m.memberOf Pg.pleat 3 d.memberBase i).port,
            s.m.unitPackets Op.pltResult d.pkey (s.m.memberOf Pg.pleat 3 d.memberBase i) (Mach.unitAux d i pass idx)
              (Mach.resultCut (s.m.pd g F.pdesc_outFmt)) (bytes.length + 1) 0 bytes)
        ∃ t, exec (.chunkComplete g pass idx) s = .next t ∧ t.m.chunk? g pass idx = none ∧
          t.m.plt.chunks = s.m.plt.chunks.filter (fun e => !Mach.sameChunk g pass idx e) ∧
          (s.m.pd g F.pdesc_release = 0 → t.m.plt.releases = s.m.plt.releases ∧
            (t.m.held.map fun h => (h.input, h.output, h.pkt)) = (s.m.held.map fun h => (h.input, h.output, h.pkt)) ++
              (copies.map fun y => y.2.map fun p => (144 + c.tile, y.1, p)).flatten) ∧
          (s.m.pd g F.pdesc_release ≠ 0 → t.m.held = s.m.held ∧
            (t.m.plt.releases.map fun r => (r.group, r.port, r.pkts)) =
              (s.m.plt.releases.map fun r => (r.group, r.port, r.pkts)) ++ copies.map fun y => (g, y.1, y.2)) ∧ s.kept t))) ∧
  (∀ (s : State) (g : Nat), g < 8192 →
    let due := s.m.plt.releases.filter fun r => r.group == g && decide (r.at_ ≤ s.m.time.number)
    ∃ t, exec (.resultRelease g) s = .next t ∧
      (t.m.held.map fun h => (h.input, h.output, h.pkt)) = (s.m.held.map fun h => (h.input, h.output, h.pkt)) ++
        (due.map fun r => r.pkts.map fun p => (144 + r.tile, r.port, p)).flatten ∧
      (t.m.plt.releases.map fun r => (r.group, r.at_, r.port, r.pkts)) =
        ((s.m.plt.releases.filter fun r => !(r.group == g && decide (r.at_ ≤ s.m.time.number))).map fun r =>
          (r.group, r.at_, r.port, r.pkts)) ∧
      t.m.plt = { s.m.plt with releases := t.m.plt.releases } ∧ s.kept t) ∧
  (∀ (s : State) (g pass idx : Nat), g < 1024 →
    let gk := 8192 + g
    let d := s.m.gdesc gk
    ∀ c, s.m.chunk? gk pass idx = some c →
      (s.m.chunkComplete c = false → exec (.bucketComplete g idx pass) s = .next s) ∧
      (s.m.chunkComplete c = true →
        let bytes := Mach.bucketUnit (s.m.recSize g) (s.m.bd g F.bdesc_capacity) (s.m.bd g F.bdesc_fill) c.places
        let units := (s.m.ownersOf gk idx).map fun i =>
          (s.m.unitPackets Op.bktDeliver d.pkey (s.m.memberOf Pg.pleat 3 d.memberBase i) (Mach.unitAux d i pass idx) 4096
            (bytes.length + 1) 0 bytes).map fun p => (144 + c.tile, (s.m.memberOf Pg.pleat 3 d.memberBase i).port, p)
        let maps := (s.m.contribs d).map fun i =>
          (144 + s.m.placeOf d 0, (s.m.memberOf Pg.pleat 3 d.memberBase i).port,
            s.m.resultPacket Op.bktDropmap 2 0 d.pkey (s.m.memberOf Pg.pleat 3 d.memberBase i) (g + i * 2 ^ 13) 0 1
              (leBytes 32 ((((s.m.grp gk).drops.filter fun e => e.1 == i).map fun e => 2 ^ e.2).foldl (· + ·) 0)))
        let last := (s.m.grp gk).done.length + 1 = d.count
        ∃ t, exec (.bucketComplete g idx pass) s = .next t ∧ t.m.chunk? gk pass idx = none ∧
          s.m.counted t.m .sx Pg.pleat R.pltBktDeliverCnt ∧
          (t.m.held.map fun h => (h.input, h.output, h.pkt)) = (s.m.held.map fun h => (h.input, h.output, h.pkt)) ++
            units.flatten ++ (if last then maps else []) ∧
          (last → (t.m.grp gk).passLow = ((s.m.grp gk).passLow + 1) % 256 ∧ (t.m.grp gk).done = [] ∧
            (t.m.grp gk).drops = []) ∧ s.kept t))

/-- A cluster short of pages spills the chunk that waited longest; its writes done, the chunk is read back when its group is
resident and pages allow, and one that reads uncorrectable faults its group.
In a hem an idle group leaves residency, the first waiting group that fits becomes resident, and for one that does not a
group past its quantum is descheduled, its open chunks spilled; a chunk stalled to the limit faults its group, and a faulted
group is armed anew in the hem after it is asked for.
What it fixes beyond the manual is the model's choice: log 51. -/
def Obligations.GroupsSpillAndTakeTurns : Prop :=
  ((∀ (s : State) (cl : Nat), cl < 6 →
      let low := s.m.fld .sx Pg.pleat F.pltSpillCtrl_spillLwm
      (low ≤ s.m.freePages cl ∨ s.m.mem.selfRefresh = true ∨ cl ∈ s.m.mem.retired → exec (.pleatSpill cl) s = .next s) ∧
      (∀ c, s.m.plt.chunks = [c] → clusterOfTile c.tile = cl → c.spill = 0 → s.m.chunkPages c ≠ 0 → s.m.freePages cl < low →
        s.m.mem.selfRefresh = false → cl ∉ s.m.mem.retired →
        ∃ t, exec (.pleatSpill cl) s = .next t ∧ s.m.counted t.m .sx Pg.pleat R.pltSpillCnt ∧
          s.becomes t { s.m with plt := { s.m.plt with chunks := [{ c with spill := 1 }] } } .sx
            (pageWord Pg.pleat R.pltSpillCnt))) ∧
    (∀ (s : State) (c : Chunk) (rest : List Chunk), s.m.plt.chunks = c :: rest → Mach.Chunk.gk c < 9216 →
      rest.all (fun e => !Mach.sameChunk (Mach.Chunk.gk c) c.pass c.idx e) = true →
      let gk := Mach.Chunk.gk c
      let g := s.m.grp gk
      let left := fun (f : Chunk) => { s.m with plt := { s.m.plt with chunks := f :: rest } }
      (c.spill = 1 → g.leaving = false ∨ rest.any (fun e => Mach.Chunk.gk e == gk && e.spill == 1) = true →
        exec (.spillWriteDone gk c.pass c.idx) s = .next { s with m := left { c with spill := 2 } }) ∧
      (c.spill = 1 → g.leaving = true → rest.any (fun e => Mach.Chunk.gk e == gk && e.spill == 1) = false →
        exec (.spillWriteDone gk c.pass c.idx) s = .next { s with
          m := (left { c with spill := 2 }).setGrp gk { g with leaving := false } }) ∧
      (c.spill ≠ 2 ∨ s.m.mem.selfRefresh = true ∨ g.resident = false ∨
          s.m.freePages (clusterOfTile c.tile) < s.m.chunkPages c →
        ∀ bad, exec (.spillReadback gk c.pass c.idx bad) s = .next s) ∧
      (c.spill = 2 → s.m.mem.selfRefresh = false → g.resident = true →
        s.m.chunkPages c ≤ s.m.freePages (clusterOfTile c.tile) →
        (∃ t, exec (.spillReadback gk c.pass c.idx false) s = .next t ∧ s.m.counted t.m .sx Pg.pleat R.pltReloadCnt ∧
          s.becomes t (left { c with spill := 0 }) .sx (pageWord Pg.pleat R.pltReloadCnt)) ∧
        (g.reason = 0 → ∃ t, exec (.spillReadback gk c.pass c.idx true) s = .next t ∧ s.groupFaults t gk Reason.poison)))) ∧
  ((∀ (s : State) (gk : Nat), s.m.plt.active = [gk] → s.m.isActive gk = true → (s.m.grp gk).resident = false →
      (s.m.grp gk).leaving = false → s.m.plt.groups.all (fun e => !(s.m.grp e.1).resident && !(s.m.grp e.1).leaving) = true →
      (s.m.fits gk [] = true → exec .groupResidency s = .next { s with
        m := s.m.setGrp gk { s.m.grp gk with resident := true, since := s.m.time.number } }) ∧
      (s.m.fits gk [] = false → exec .groupResidency s = .next s)) ∧
    (∀ (s : State) (gk : Nat) (g : PGroup), s.m.plt.groups = [(gk, g)] → s.m.plt.active = [] → g.resident = true →
      s.m.isActive gk = false →
      exec .groupResidency s = .next { s with m := s.m.setGrp gk { g with resident := false } }) ∧
    (∀ (s : State) (j gk : Nat) (g : PGroup) (c : Chunk), s.m.plt.groups = [(j, g)] → s.m.plt.active = [j, gk] → j ≠ gk →
      s.m.plt.chunks = [c] → Mach.Chunk.gk c = j → c.spill = 0 → s.m.isActive j = true → s.m.isActive gk = true →
      g.resident = true → g.leaving = false → g.since + (s.m.gdesc j).quantum ≤ s.m.time.number → s.m.fits gk [] = false →
      s.m.mem.selfRefresh = false →
      ∃ t, exec .groupResidency s = .next t ∧ t.m.grp j = { g with resident := false, leaving := true } ∧
        t.m.plt.chunks = [{ c with spill := 1 }] ∧ t.m.plt.active = [gk, j] ∧
        s.m.counted t.m .sx Pg.pleat R.pltDeschedCnt ∧ s.m.counted t.m .sx Pg.pleat R.pltSpillCnt ∧
        s.becomes t { s.m with plt := t.m.plt } .sx
          (fun k => pageWord Pg.pleat R.pltDeschedCnt k || pageWord Pg.pleat R.pltSpillCnt k)) ∧
    (∀ (s : State) (gk pass idx : Nat), gk < 9216 → (s.m.grp gk).reason = 0 →
      (s.m.stalled gk pass idx = true → ∃ t, exec (.chunkStall gk pass idx) s = .next t ∧ s.groupFaults t gk Reason.stall) ∧
      (s.m.stalled gk pass idx = false → exec (.chunkStall gk pass idx) s = .next s)) ∧
    (∀ (s : State) (bucket : Bool) (n : Nat), (n < if bucket then 1024 else 8192) →
      let gk := if bucket then 8192 + n else n
      ((s.m.grp gk).reason ≠ 0 → exec (.groupRearm bucket n) s = .next { s with
        m := s.m.setGrp gk { s.m.grp gk with rearm := true } }) ∧
      ((s.m.grp gk).reason = 0 → exec (.groupRearm bucket n) s = .next s)) ∧
    (∀ s : State, exec .groupRearmApply s = .next { s with
      m := { s.m with plt := { s.m.plt with groups := s.m.plt.groups.filter fun e => !e.2.rearm } } }))

/-! ## Cuff groups -/

/-- A contribution to a Cuff group is judged when it arrives, in this order: unknown, of a faulted group, of no member, late,
early, a duplicate; otherwise it is accepted, and opens the round when none is open.
What it fixes beyond the manual is the model's choice: log 13. -/
def Obligations.CuffContributionsAreJudged : Prop :=
  ∀ (s : State) (p cyc : Nat) (x : Packet), p < 144 →
    let given := if s.m.waits .sx p x then (s.m.collect .sx p x).giveCredit p 3 x.granules else s.m
    let g := CufAux.group x
    let i := CufAux.member x
    let n := s.m.time.number
    let st := fullStitch n (CufAux.opening x)
    let c := given.cgrp g
    let r := given.cmember g i
    let known : Bool := x.dst == s.m.sxNode && given.timed && given.cd g F.cdesc_valid != 0 && x.pkey == given.cd g F.cdesc_pkey
    let member : Bool := decide (i < given.cd g F.cdesc_members) && r.contrib && r.port == p && r.context == x.context
    let counted := fun (t : State) o => s.m.counted t.m .sx Pg.cuff o ∧ s.becomes t given .sx (pageWord Pg.cuff o)
    let taken := fun (t : State) (y : Round) => s.m.counted t.m .sx Pg.cuff R.cufContribCnt ∧
      s.becomes t (given.setCgrp g { c with round := some y }) .sx
        (fun k => pageWord Pg.cuff R.cufContribCnt k || k == item Pg.cuff 2 (4 * g + F.cstat_lastOpen.off))
    let late := fun (t : State) => s.m.counted t.m .sx Pg.cuff R.cufLateDropCnt ∧
      s.becomes t given .sx (fun k => pageWord Pg.cuff R.cufLateDropCnt k ||
        k == item Pg.cuff 4 (given.cd g F.cdesc_memberBase + i + F.cmc_late.off)) ∧
      t.m.storedT .sx Pg.cuff 4 1 (given.cd g F.cdesc_memberBase + i) F.cmc_late
        = min (s.m.storedT .sx Pg.cuff 4 1 (given.cd g F.cdesc_memberBase + i) F.cmc_late + 1) (2 ^ F.cmc_late.w - 1)
    let this := fun (d : Nat) => s.m.time.number ≤ st + d ∧ ¬(n = st + d ∧ 840 ≤ cyc)
    let ex := fun (P : State → Prop) => ∃ t, exec (.cufContrib p x cyc) s = .next t ∧ P t
    (known = false → ex fun t => counted t R.cufProtoDropCnt) ∧
    (known = true →
      (c.reason ≠ 0 → ex fun t => counted t R.cufFaultedDropCnt) ∧
      (c.reason = 0 → member = false → ex fun t => s.m.counted t.m .sx Pg.cuff R.cufProtoDropCnt ∧
        s.cuffFaults t g Reason.member) ∧
      (c.reason = 0 → member = true →
        (∀ l, c.lastClosed = some l → st ≤ l → ex late) ∧
        ((∀ l ∈ c.lastClosed.toList, l < st) →
          (c.round = none → ¬this (given.cd g F.cdesc_deadline) → ex late) ∧
          (c.round = none → this (given.cd g F.cdesc_deadline) → n < st → ex fun t => counted t R.cufEarlyDropCnt) ∧
          (c.round = none → this (given.cd g F.cdesc_deadline) → st ≤ n → ex fun t =>
            taken t { s := st, d := given.cd g F.cdesc_deadline, accepted := [(i, n * 875 + cyc, x.payload)] }) ∧
          (∀ y, c.round = some y →
            (st < y.s → ex late) ∧
            (y.s < st → this (given.cd g F.cdesc_deadline) → ex fun t => counted t R.cufEarlyDropCnt) ∧
            (st = y.s → ¬this y.d → ex late) ∧
            (st = y.s → this y.d → st ≤ n → (y.accepted.any fun a => a.1 == i) = true → ex fun t =>
              s.m.counted t.m .sx Pg.cuff R.cufProtoDropCnt ∧ s.cuffFaults t g Reason.duplicate) ∧
            (st = y.s → this y.d → st ≤ n → (y.accepted.any fun a => a.1 == i) = false → ex fun t =>
              taken t { y with accepted := y.accepted ++ [(i, n * 875 + cyc, x.payload)] })))))

/-- At a cut-off a round closes when it is complete or its deadline has come: its result goes to every receiving member with
its status block, a late one counts its absent members; a result that supersedes two unsent ones faults the group.
Writing rearm of a faulted Cuff group has it armed anew in the next hem, with no late rounds; clearing a group's counters
leaves each of them 0. -/
def Obligations.CuffRoundsCloseAndGroupsRearm : Prop :=
  (∀ (s : State) (g : Nat), g < 512 →
      (((s.m.cgrp g).round = none → exec (.cuffRoundClose g) s = .next s) ∧
      (∀ r, (s.m.cgrp g).round = some r →
        let n := s.m.time.number
        let late := !s.m.cuffComplete g r
        let w := s.m.cd g F.cdesc_release
        let recv := (List.range (s.m.cd g F.cdesc_members)).filter fun i => (s.m.cmember g i).recv
        let bytes := (if s.m.cd g F.cdesc_kind = 1 then s.m.cuffGather g r else (s.m.cuffReduce g r).1)
          ++ s.m.statusBlock g r late n
        (s.m.cuffComplete g r = false → n < r.s + r.d → exec (.cuffRoundClose g) s = .next s) ∧
        (s.m.cuffComplete g r = true ∨ r.s + r.d ≤ n →
          (∃ t, exec (.cuffRoundClose g) s = .next t ∧ s.m.counted t.m .sx Pg.cuff R.cufRoundCnt ∧
            (t.m.cgrp g).round = none ∧ (t.m.cgrp g).lastClosed = some r.s ∧
            ((s.m.cuffHeld g).length < 2 →
              t.m.cgrp g = { s.m.cgrp g with round := none, lastClosed := some r.s } ∧
              (t.m.held.take s.m.held.length) = (s.m.held.map fun h =>
                if h.input = 172 ∧ CufAux.group h.pkt = g then { h with notBefore := 0 } else h) ∧
              ((t.m.held.drop s.m.held.length).map fun h => (h.input, h.output, h.notBefore, h.pkt.payload)) =
                (recv.mapIdx fun j i => (172, (s.m.cmember g i).port, (if w = 0 then n * 875 + 848 else (n + 1 + j % w) * 875),
                  bytes)) ∧
              (∀ h ∈ t.m.held.drop s.m.held.length, h.pkt.opcode = Op.cufResult ∧
                h.pkt.status = if late then Status.late else 0) ∧
              s.becomes t { s.m with cuff := t.m.cuff, held := t.m.held, nextId := t.m.nextId } .sx
                (fun k => itemPage k == Pg.cuff)) ∧
            (late = true → s.m.counted t.m .sx Pg.cuff R.cufLateRoundCnt ∧
              ∀ i ∈ s.m.ccontribs g, Mach.Round.bytes r i = none →
                t.m.storedT .sx Pg.cuff 4 1 (s.m.cd g F.cdesc_memberBase + i) F.cmc_missed
                  = min (s.m.storedT .sx Pg.cuff 4 1 (s.m.cd g F.cdesc_memberBase + i) F.cmc_missed + 1)
                      (2 ^ F.cmc_missed.w - 1)) ∧
            (2 ≤ (s.m.cuffHeld g).length → (s.m.cgrp g).reason = 0 → (t.m.cgrp g).reason = Reason.resultLost ∧
              t.m.cuffCopies g = [] ∧ s.m.counted t.m .sx Pg.cuff R.cufGroupFaultCnt ∧ t.m.event .sx Pg.cuff 0 = true) ∧
            s.kept t))))) ∧
  (∀ (s : State) (g : Nat), g < 512 →
      ((s.m.cgrp g).reason ≠ 0 → exec (.cuffRearm g) s = .next { s with
        m := s.m.setCgrp g { s.m.cgrp g with rearm := true } }) ∧
      ((s.m.cgrp g).reason = 0 → exec (.cuffRearm g) s = .next s) ∧
      ((s.m.cuff.filter fun e => e.2.rearm) = [] → exec .cuffRearmApply s = .next s) ∧
      (∀ e, (s.m.cuff.filter fun e => e.2.rearm) = [(g, e)] → ∃ t, exec .cuffRearmApply s = .next t ∧
        t.m.cgrp g = { e with reason := 0, rearm := false } ∧ t.m.storedT .sx Pg.cuff 2 4 g F.cstat_lateRounds = 0 ∧
        s.becomes t (s.m.setCgrp g { e with reason := 0, rearm := false }) .sx
          (fun k => k == item Pg.cuff 2 (4 * g + F.cstat_lateRounds.off))) ∧
      (let at_ := fun i => item Pg.cuff 4 (s.m.cd g F.cdesc_memberBase + i)
        ∃ t, exec (.cuffCounterClear g) s = .next t ∧
          ((List.range (s.m.cd g F.cdesc_members)).all fun i => t.m.word .sx (at_ i) == 0) = true ∧
          s.becomes t s.m .sx (fun k => (List.range (s.m.cd g F.cdesc_members)).any fun i => k == at_ i)))

/-! ## Optical engines -/

/-- A downstream frame carries its sync word, every ring's heater code, every pair's command and its CRC; with it, a pair that
a cause holds dark closes, and a closed pair that none holds goes to PROBE.
An upstream frame that fails its check is discarded and counted; eight in a row take the engine's link down and close its
pairs.  Sixteen good ones bring it up; then every good frame is read: light opens the pairs step by step, loss of light closes
them.
What it fixes beyond the manual is the model's choice: log 24, 89, 90. -/
def Obligations.EngineFramesAreExchanged : Prop :=
  (∀ (s : State) (e : Nat), e < 36 →
      (s.m.boot.off = true → exec (.downstreamFrame e) s = .next s) ∧
      (s.m.boot.off = false → ∃ t, exec (.downstreamFrame e) s = .next t ∧ s.kept t ∧
        (t.m.eng? e).slot = ((s.m.eng? e).slot + 1) % 32 ∧
        (∀ f, f < 4 →
          (s.m.pairHeldDark e f = true → t.m.eyeState e f = 1) ∧
          (s.m.pairHeldDark e f = false → s.m.eyeState e f = 1 → t.m.eyeState e f = 2) ∧
          (s.m.pairHeldDark e f = false → s.m.eyeState e f ≠ 1 → t.m.eyeState e f = s.m.eyeState e f)) ∧
        (∀ w rest, t.m.driven = .downFrame e w :: rest →
          bitsOf w.toNat 0 32 = 0xB5E34C07 ∧
          bitsOf w.toNat 720 16 = crc16 (sentBits w.toNat 32 688) ∧
          (∀ r, r < 32 → bitsOf w.toNat (32 + 16 * r) 16 = t.m.ringF e r F.ring_heater) ∧
          (∀ f, f < 4 → bitsOf w.toNat (544 + 2 * f) 2 = if t.m.eyeState e f = 0 then 2
            else if s.m.eyeState e f ≠ 0 ∧ (s.m.pairOpt e f).pulses.contains (s.m.time.number / 200) then 1 else 0)) ∧
        (t.m.driven.head?.map fun o => match o with | .downFrame n _ => n | _ => 99) = some e)) ∧
  (∀ (s : State) (e : Nat) (u : UpFrame), e < 36 →
      let run := s.m.eng? e
      let pair := fun (f st : Nat) => ∃ t, exec (.upstreamFrame e u) s = .next t ∧ t.m.eyeState e f = st ∧ s.kept t
      (s.m.boot.off = true → exec (.upstreamFrame e u) s = .next s) ∧
      (s.m.boot.off = false → upGood u = false →
        ∃ t, exec (.upstreamFrame e u) s = .next t ∧ s.kept t ∧ s.m.counted t.m .sx (ocuPage e) R.ocuCtlCrcCnt ∧
          (t.m.eng? e).bad = run.bad + 1 ∧ (t.m.eng? e).good = 0 ∧
          (s.m.ocuLink e ≠ 2 → t.m.ocuLink e = 0) ∧
          (s.m.ocuLink e = 2 → run.bad < 7 → t.m.ocuLink e = 2 ∧ ∀ f, f < 4 → t.m.eyeState e f = s.m.eyeState e f) ∧
          (s.m.ocuLink e = 2 → 7 ≤ run.bad → t.m.ocuLink e = 0 ∧ t.m.event .sx (ocuPage e) 1 = true ∧
            ∀ f, f < 4 → t.m.eyeState e f = 1)) ∧
      (s.m.boot.off = false → upGood u = true →
        (∃ t, exec (.upstreamFrame e u) s = .next t ∧ s.kept t ∧ (t.m.eng? e).bad = 0 ∧ (t.m.eng? e).good = run.good + 1 ∧
          (t.m.eng? e).temps = (upTemp u :: run.temps).take 16 ∧
          t.m.stored .sx (ocuPage e) (F.ocuEngStatus_fault (e % 4)) = (if upFault u then 1 else 0) ∧
          (s.m.ocuLink e ≠ 2 → run.good < 15 → t.m.ocuLink e = 1) ∧
          (s.m.ocuLink e ≠ 2 → 15 ≤ run.good → t.m.ocuLink e = 2 ∧ t.m.ocuType e = upType u)) ∧
        (s.m.ocuLink e = 2 → ∀ f, f < 4 →
          (s.m.eyeState e f = 2 → upLight u f = false → pair f 2) ∧
          (s.m.eyeState e f = 2 → upLight u f = true → bitsOf (s.m.tfld .sx Pg.guard 5 1 e F.laser_bypass) f 1 = 0 → pair f 3) ∧
          (s.m.eyeState e f = 3 → Mach.doublePulse ((upLight u f :: (s.m.pairOpt e f).hist).take 12) = true → pair f 4) ∧
          (s.m.eyeState e f = 3 → Mach.doublePulse ((upLight u f :: (s.m.pairOpt e f).hist).take 12) = false → pair f 3) ∧
          (s.m.eyeState e f = 4 → Mach.doublePulse ((upLight u f :: (s.m.pairOpt e f).hist).take 12) = true →
            s.m.chattering (Mach.inLos e) = false → (s.m.pairOpt e f).losFrame ≠ some (s.m.time.number / 200) → pair f 0) ∧
          (s.m.eyeState e f = 0 → upLos u f = true → (s.m.pairOpt e f).openedAt + 4000 ≤ s.m.time.number → pair f 1) ∧
          (s.m.eyeState e f = 0 → upLos u f = false → pair f 0))))

/-- Loss of light closes an open pair whose grace is over: it is counted and raised.  At the end of its grace an open pair
with loss of light closes too, and one that has seen no light for three periods goes back to PROBE; a pair commands its probe
pulses when they are due.
A ring in TRACK moves its heater by its error and locks after 64 updates within tolerance; in LOCKED it goes back to TRACK
after 16 outside it; a capture takes the samples of one ring, and the next judgement of a pair may become its baseline.
A poll of a laser module finds it absent, newly inserted or present, and ELS_ON follows; a fault is latched, raised and
turns the laser off, and its clearing waits for the pin, whose level no command tells (a free bit); the ledger counts minutes of light.
What it fixes beyond the manual is the model's choice: log 93, 94, 95, 96, 98, 99, 100, 101. -/
def Obligations.PairsRingsAndLasers : Prop :=
  (∀ (s : State) (e f : Nat), e < 36 → f < 4 →
      let o := s.m.pairOpt e f
      let i := s.m.time.number / 200
      let closes := fun (t : State) => t.m.eyeState e f = 1 ∧ (t.m.pairOpt e f).byLos = true ∧ t.m.event .sx (ocuPage e) 0 = true ∧
        s.kept t
      (∃ t, exec (.oeLos e f) s = .next t ∧ s.kept t ∧ (t.m.pairOpt e f).los = true ∧ (t.m.pairOpt e f).losFrame = some i ∧
        (s.m.eyeState e f ≠ 0 → t.m.eyeState e f = s.m.eyeState e f) ∧
        (s.m.eyeState e f = 0 → o.openedAt + 4000 ≤ s.m.time.number → closes t) ∧
        (s.m.eyeState e f = 0 → s.m.time.number < o.openedAt + 4000 → o.since ≠ i → t.m.eyeState e f = 0)) ∧
      (s.m.eyeState e f = 0 → o.openedAt + 4000 ≤ s.m.time.number → o.los = true ∨ s.m.chattering (Mach.inLos e) = true →
        ∃ t, exec (.openGraceEnd e f) s = .next t ∧ closes t ∧ s.m.counted t.m .sx (ocuPage e) R.ocuLosCnt) ∧
      (s.m.eyeState e f ≠ 0 ∨ s.m.time.number < o.openedAt + 4000 ∨
          (o.los = false ∧ s.m.chattering (Mach.inLos e) = false) →
        exec (.openGraceEnd e f) s = .next s) ∧
      (s.m.eyeState e f = 3 ∨ s.m.eyeState e f = 4 → max o.since o.lastLight + 3 * s.m.probePeriod e ≤ i →
        ∃ t, exec (.handshakeTimeout e f) s = .next t ∧ t.m.eyeState e f = 2 ∧
          s.becomes t { s.m with pairs := Tbl.modify (fun _ => {}) s.m.pairs (4 * e + f) fun q =>
            { q with since := i, hist := [], lastLight := i, nextPulse := i } } .sx (pageWord (ocuPage e) (R.ocuEngStatus (e % 4)))) ∧
      ((s.m.eyeState e f ≠ 3 ∧ s.m.eyeState e f ≠ 4) ∨ i < max o.since o.lastLight + 3 * s.m.probePeriod e →
        exec (.handshakeTimeout e f) s = .next s) ∧
      (s.m.eyeState e f < 2 ∨ i < o.nextPulse → exec (.probePulse e f) s = .next s) ∧
      (2 ≤ s.m.eyeState e f → o.nextPulse ≤ i → ∃ t, exec (.probePulse e f) s = .next t ∧
        (t.m.pairOpt e f).pulses = o.pulses ++ (if s.m.eyeState e f = 2 then [i + 1] else [i + 1, i + 4]) ∧
        (t.m.pairOpt e f).nextPulse = i + (if s.m.eyeState e f = 4 then 10 else s.m.probePeriod e) ∧
        (t.m.pairOpt e f).counting = o.counting ++ (if s.m.eyeState e f = 2 then [] else [i + 3, i + 6]) ∧
        s.becomes t { s.m with pairs := t.m.pairs } .sx noWord)) ∧
  ((∀ (m : Mach) (e r : Nat), e < 36 → r < 32 →
      let run := m.ringRun e r
      let y := ((run.filt.take (m.filterLen e)).foldl (· + ·) 0).tdiv (m.filterLen e)
      let err := y - signedOf (m.ringF e r F.ring_setpoint) 24
      let step := min (max (err * signedOf (m.ringF e r F.ring_gain) 16 / 65536) (-4096)) 4096
      let h := (min (max ((m.ringF e r F.ring_heater : Int) + step) 0) 65535).toNat
      let n := m.ringUpdate e r
      (m.ringState e r = 2 → err.natAbs ≤ m.lockTol e →
        (63 ≤ run.run → n.ringState e r = 3 ∧ n.ringF e r F.ring_heater = h ∧ (n.ringRun e r).locked = some h) ∧
        (run.run < 63 → 0 < h → h < 65535 → run.updates < 2047 → n.ringState e r = 2 ∧ n.ringF e r F.ring_heater = h ∧
          (n.ringRun e r).run = run.run + 1)) ∧
      (m.ringState e r = 2 → m.lockTol e < err.natAbs →
        (0 < h → h < 65535 → run.updates < 2047 → n.ringState e r = 2 ∧ n.ringF e r F.ring_heater = h ∧
          (n.ringRun e r).run = 0) ∧
        (h = 0 ∨ h = 65535 ∨ 2047 ≤ run.updates → n.ringState e r = 1 ∧ n.event .sx (ocuPage e) 2 = true ∧
          m.counted n .sx (ocuPage e) R.ocuRingLostCnt)) ∧
      (m.ringState e r = 3 → m.lockTol e < err.natAbs →
        (15 ≤ run.run → n.ringState e r = 2 ∧ n.ringF e r F.ring_heater = h) ∧
        (run.run < 15 → n.ringState e r = 3 ∧ n.ringF e r F.ring_heater = h ∧ (n.ringRun e r).run = run.run + 1))) ∧
    (∀ (s : State) (q v : Nat), q < 9 →
      ∃ t, exec (.ocuCapture q v) s = .next t ∧
        t.m.storedReg .sx (Pg.ocu q) R.ocuCapCtrl = (v - place (bitsOf v 7 1) 7 1) % 2 ^ 32 ∧
        (bitsOf v 7 1 = 0 → s.becomes t s.m .sx (pageWord (Pg.ocu q) R.ocuCapCtrl)) ∧
        (bitsOf v 7 1 = 1 → t.m.stored .sx (Pg.ocu q) F.ocuCapStatus_busy = 1 ∧
          t.m.stored .sx (Pg.ocu q) F.ocuCapStatus_count = 0 ∧
          s.becomes t { s.m with ocuCap := Tbl.set (fun _ => (0, 0)) s.m.ocuCap q (bitsOf v 0 2, bitsOf v 2 5) } .sx
            (fun k => pageWord (Pg.ocu q) R.ocuCapCtrl k || pageWord (Pg.ocu q) R.ocuCapStatus k))) ∧
    (∀ (s : State) (e f : Nat), e < 36 → f < 4 → exec (.baselineCapture e f) s = .next { s with
      m := { s.m with pairs := Tbl.modify (fun _ => {}) s.m.pairs (4 * e + f) fun o => { o with capture := true } } })) ∧
  (∀ (s : State) (k : Nat), k < 18 →
      let pg := elsPage k
      let on := fun (t : State) => t.m.elsBit k F.ocuElsStatus_on
      let lit := s.m.laserEn (2 * k) || s.m.laserEn (2 * k + 1)
      let here := fun j => itemPage j == pg || itemPage j == Pg.trace
      (∃ t, exec (.elsPoll k none) s = .next t ∧ t.m.elsBit k F.ocuElsStatus_present = false ∧ on t = false ∧
        t.m.driven = (if on s then [.elsOn k false] else []) ++ .elsRead k :: s.m.driven ∧
        s.becomes t s.m .sx (pageWord pg (R.ocuElsStatus (k % 2)))) ∧
      (∀ a : ElsRead, s.m.elsBit k F.ocuElsStatus_present = false →
        ∃ t, exec (.elsPoll k (some a)) s = .next t ∧ t.m.elsBit k F.ocuElsStatus_present = true ∧
          t.m.elsF k F.els_minutes = 0 ∧ t.m.elsF k F.els_bias = a.bias % 65536 ∧
          (∀ w, w < 8 → (t.m.word .sx (item pg 5 (16 * (k % 2) + w))).toNat = ofLeBytes ((a.identity.drop (4 * w)).take 4)) ∧
          (t.m.elsBit k F.ocuElsStatus_idErr = false ↔ a.identity.length = 32 ∧
            ofLeBytes (a.identity.drop 30) = crc16 ((a.identity.take 30).flatMap fun b => sentBits b.toNat 0 8)) ∧
          on t = (!t.m.elsBit k F.ocuElsStatus_idErr && !s.m.elsBit k F.ocuElsStatus_fault && lit) ∧
          s.becomes t { s.m with els := Tbl.set (fun _ => {}) s.m.els k {} } .sx here) ∧
      (∀ a : ElsRead, s.m.elsBit k F.ocuElsStatus_present = true →
        ∃ t, exec (.elsPoll k (some a)) s = .next t ∧ t.m.elsF k F.els_bias = a.bias % 65536 ∧
          on t = (!s.m.elsBit k F.ocuElsStatus_idErr && !s.m.elsBit k F.ocuElsStatus_fault && lit) ∧
          s.becomes t { s.m with els := t.m.els } .sx here) ∧
      (∃ t, exec (.elsFault k) s = .next t ∧ t.m.elsBit k F.ocuElsStatus_fault = true ∧ on t = false ∧
        t.m.event .sx pg 7 = true ∧
        s.becomes t { s.m with changes := t.m.changes, chatter := t.m.chatter } .sx (fun j => here j || itemPage j == Pg.chip)) ∧
      (s.m.elsBit k F.ocuElsStatus_fault = false ∨ s.m.chattering (Mach.inEls k) = true →
        exec (.elsFaultClear k) s = .next s) ∧
      (s.m.elsBit k F.ocuElsStatus_fault = true → s.m.chattering (Mach.inEls k) = false →
        ∃ t, exec (.elsFaultClear k) s = .next t ∧
          if Config.freeBits 1 s.m.freeCtr = 1 then t = { s with m := { s.m with freeCtr := s.m.freeCtr + 1 } }
          else t.m.elsBit k F.ocuElsStatus_fault = false ∧
            on t = (s.m.elsBit k F.ocuElsStatus_present && !s.m.elsBit k F.ocuElsStatus_idErr && lit) ∧
            s.becomes t { s.m with freeCtr := s.m.freeCtr + 1 } .sx (pageWord pg (R.ocuElsStatus (k % 2)))) ∧
      (on s = true → s.m.elsBit k F.ocuElsStatus_fault = false → ∃ t, exec (.elsLedgerMinute k) s = .next t ∧
        t.m.elsF k F.els_minutes = min (s.m.elsF k F.els_minutes + 1) 0xFFFFFFFF ∧ s.becomes t s.m .sx here) ∧
      (on s = false ∨ s.m.elsBit k F.ocuElsStatus_fault = true → exec (.elsLedgerMinute k) s = .next s))

/-! ## Registers -/

/-- A write of go requests a commit of the named groups at the hem of R51 or at a named stitch; it is refused while one is
pending and late when its stitch has passed.  A write of cancel withdraws a pending commit up to cycle 776 of its stitch. -/
def Obligations.CommitsAreRequestedAndCancelled : Prop :=
  ∀ (s : State) (c : Chip) (v x : Nat),
    let pg := byChip c Pg.chip Pg.eId
    let ctl := byChip c R.chpCommitCtrl R.ep4CommitCtrl
    let late := byChip c R.chpCommitLateCnt R.ep4CommitLateCnt
    let refused := byChip c R.chpCommitRefusedCnt R.ep4CommitRefusedCnt
    let status := if c = .sx then F.chpCommitStatus_late else F.ep4CommitStatus_late
    let now := s.m.now c
    let named := bitsOf v 1 1 == 1
    let at_ := s.m.reg c pg (byChip c R.chpCommitAtLo R.ep4CommitAtLo)
      + s.m.reg c pg (byChip c R.chpCommitAtHi R.ep4CommitAtHi) * 2 ^ 32
    let tooLate := s.m.chipTimed c = false ∨ at_ < now ∨ (at_ = now ∧ 776 < x)
    let kept := (s.m.rf c).commit.filter fun q => decide (q.at_ = now ∧ 776 < x)
    let standing := if bitsOf v 2 1 = 1 then kept else (s.m.rf c).commit
    let ends := fun (q : Option PendingCommit) (words : List Nat) (t : State) => (t.m.rf c).commit = q ∧
      t.m.storedReg c pg ctl = v % 2 ^ 32 - v % 2 - v / 4 % 2 * 4 ∧
      s.becomesBut t (s.m.setCyc c x) c (fun n o => { n with commit := o.commit }) fun k => (ctl :: words).any fun o => pageWord pg o k
    (∀ q, (s.m.rf c).commit = some q → q.named = false → now ≤ q.at_ ∧ q.at_ ≤ now + 1) →
    (bitsOf v 0 1 = 0 → ∃ t, exec (.commitCancel c v x) s = .next t ∧ ends kept [] t) ∧
    ((c = .sx → s.m.ready = true) →
      (standing ≠ none → ∃ t, exec (.commitGo c v x) s = .next t ∧ s.m.counted t.m c pg refused ∧ ends standing [refused] t) ∧
      (standing = none → named = true → tooLate → ∃ t, exec (.commitGo c v x) s = .next t ∧ s.m.counted t.m c pg late ∧
        t.m.stored c pg status = 1 ∧ ends none [late, status.off] t) ∧
      (standing = none → ¬(named = true ∧ tooLate) → ∃ t, exec (.commitGo c v x) s = .next t ∧
        ends (some { mask := s.m.reg c pg (byChip c R.chpCommitMask R.ep4CommitMask), named := named,
                     at_ := if named then at_ else if x ≤ 776 then now else now + 1,
                     epoch := if bitsOf v 3 1 = 1 then some (bitsOf v 8 8) else none }) [] t)) ∧
    (c = .sx → s.m.ready = false → ∃ t, exec (.commitGo c v x) s = .next t ∧ ends standing [] t) ∧
    (bitsOf v 0 1 = 1 → exec (.commitCancel c v x) s = exec (.commitGo c (v ||| 4) x) s)

/-- A snapshot is taken in the hem of R51, merged into one that its page waits for.  In that hem every page of its scope copies
its live words into its holding words and notes its generation and its stitch; no other page does.
What it fixes beyond the manual is the model's choice: log 119. -/
def Obligations.SnapshotsAreRequestedAndTaken : Prop :=
  (∀ (s : State) (c : Chip) (page v x : Nat) (kind : PageKind), pageKind s.m.epParams c page = some kind →
    let hem := if x ≤ 776 then s.m.now c else s.m.now c + 1
    let due := match (s.m.rf c).snaps.find? fun q => s.m.snapCovers c q page with | some q => q.at_ | none => hem
    ∃ t, exec (.snapshotRequest c page v x) s = .next t ∧
      (t.m.rf c).snaps = (s.m.rf c).snaps ++ [⟨page, bitsOf v 1 2, bitsOf v 3 5, due⟩] ∧
      s.becomesBut t (s.m.setCyc c x) c (fun n o => { n with snaps := o.snaps }) (pageWord page R.snapCtrl)) ∧
  (∀ (s : State) (c : Chip) (q : PendingSnap), (s.m.rf c).snaps = [q] →
    (q.at_ = s.m.now c + 1 → exec (.snapshotTake c) s = .next s) ∧
    (q.at_ ≤ s.m.now c → ∃ t, exec (.snapshotTake c) s = .next t ∧ (t.m.rf c).snaps = [] ∧
      (∀ p kind, pageKind s.m.epParams c p = some kind → p < 0x800 →
        let inScope : Bool := match q.scope with
          | 1 => bitsOf (pageGroups c kind) q.group 1 == 1
          | 2 => decide (p < 0x400)
          | _ => p == q.page
        (inScope = true → (kind ≠ .ctx → ∀ off ∈ Mach.liveOffsets kind,
            t.m.snapWord c (item p 0 (off + 0x400)) = s.m.readStatus c (item p 0 off)) ∧
          t.m.storedReg c p R.snapStatus = (s.m.storedReg c p R.snapStatus / 2 ^ 16 + 1) % 2 ^ 16 * 2 ^ 16 ∧
          t.m.storedReg c p R.snapStitchLo = s.m.now c % 2 ^ 32 ∧
          t.m.storedReg c p R.snapStitchHi = s.m.now c / 2 ^ 32 % 2 ^ 32) ∧
        (inScope = false → ∀ off, off < 0x1000 → t.m.snapWord c (item p 0 off) = s.m.snapWord c (item p 0 off) ∧
          t.m.word c (item p 0 off) = s.m.word c (item p 0 off))) ∧
      s.becomesBut t s.m c (fun n o => { n with snap := o.snap, snaps := o.snaps }) (fun k => itemSel k == 0 &&
        [R.snapStatus, R.snapStitchLo, R.snapStitchHi].contains (itemOff k))))

/-- A write of an RWS word lands in its shadow, or is held in cycles 848 to 871 of a hem that applies its group; any other
word takes the value at once under its access codes.  A location that the path does not reach is a bus error, and a 1 in a
reserved write-only bit puts the chip outside its specification.
What it fixes beyond the manual is the model's choice: log 120, 123. -/
def Obligations.WritesLandInShadowsOrAtOnce : Prop :=
  ∀ (s : State) (c : Chip) (path : Path) (page off v x : Nat), (c = .ep → s.m.epIdle) →
    let k := item page 0 off
    let i := info s.m.epParams c k
    let w : Word := BitVec.ofNat 32 v
    let cmd := Instr.registerWrite c path page off v x
    let m := s.m.setCyc c x
    let id := byChip c Pg.chip Pg.eId
    let cnt := byChip c R.chpBusErrCnt R.ep4BusErrCnt
    let err := byChip c R.chpBusErr R.ep4BusErr
    let fails := ∃ t, exec cmd s = .next t ∧ s.m.counted t.m c id cnt ∧
      t.m.storedReg c id err = (pathCode c path + 4 + page % 2 ^ 11 * 8 + off % 2 ^ 14 * 2 ^ 14) ∧
      s.becomes t m c (fun j => pageWord id cnt j || pageWord id err j)
    (pageKind s.m.epParams c page = none → fails) ∧
    (c = .sx → Pg.ctx 0 ≤ page → path ≠ .vc4 → path ≠ .vc0 → fails) ∧
    (c = .sx → s.m.ready = false → page ∉ [Pg.chip, Pg.power, Pg.stitch, Pg.trace] → fails) ∧
    (∀ kind, s.m.reaches c path page = some kind →
      (off % 4 ≠ 0 ∨ 0x4000 ≤ off ∨ (0x100C ≤ off ∧ off < 0x2000) ∨ (off < 0x1000 ∧ directInfo kind (liveOff off) = none) → fails) ∧
      (isCtxKind kind = false → off % 4 = 0 → off < 0xC00 → (directInfo kind off).isSome = true → i.group ≠ 33 →
        (0x100 ≤ off → i.rws ≠ 0 →
          ((∀ q, (s.m.rf c).commit = some q → q.at_ = s.m.now c → x < 848 ∨ 871 < x ∨ bitsOf q.mask i.group 1 = 0) →
            (∀ q, (s.m.rf c).commit = some q → q.named = false → q.at_ = s.m.now c ∨ q.at_ = s.m.now c + 1) →
            ∃ t, exec cmd s = .next t ∧
              t.m.shadow c k = (w &&& i.rws) ||| (s.m.liveCopy c k &&& Mach.stickyMask c k) ∧
              (∀ j, j ≠ k → t.m.shadow c j = s.m.shadow c j) ∧
              s.becomesBut t m c (fun n o => { n with shadow := o.shadow }) noWord) ∧
          (∀ q, (s.m.rf c).commit = some q → q.at_ = s.m.now c → 848 ≤ x → x ≤ 871 → bitsOf q.mask i.group 1 = 1 →
            ∃ t, exec cmd s = .next t ∧ (t.m.rf c).held = (s.m.rf c).held ++ [(k, w)] ∧
              s.becomesBut t m c (fun n o => { n with held := o.held }) noWord)) ∧
        (0x100 ≤ off → i.rws = 0 → ownWrite kind off = false → ∃ t, exec cmd s = .next t ∧
          t.m.word c k = ((s.m.word c k &&& ~~~(i.rw ||| i.w1c)) ||| (w &&& i.rw) ||| (s.m.word c k &&& i.w1c &&& ~~~w)) ∧
          s.becomes t m c (fun j => j == k)) ∧
        (off = R.intStatus → ∃ t, exec cmd s = .next t ∧ t.m.word c k = s.m.word c k &&& ~~~w ∧
          (t.m.rf c).requesting = t.m.anyRequest c ∧ s.becomes t m c (fun j => j == k)) ∧
        (off = R.intEnable → ∃ t, exec cmd s = .next t ∧ t.m.word c k = w ∧
          (t.m.rf c).requesting = t.m.anyRequest c ∧ s.becomes t m c (fun j => j == k))) ∧
      (c = .sx → page = Pg.chip → off = R.chpChatterClr → 2 ^ 9 ≤ v % 2 ^ 32 → exec cmd s = .fault .outsideSpecification))

/-- A bit written through its alias acts as a write of its word with only that bit changed; an alias of a read-only or
reserved bit is ignored, of an unimplemented word a bus error.
Reading the low word of a read-only pair answers it and latches the high word for its path, which a later read of the high
word answers.
INT_FORCE sets the page's event bits that it writes and nothing else; the digests that are being recomputed change
together.
What it fixes beyond the manual is the model's choice: log 117, 121. -/
def Obligations.BitsPairsAndDigests : Prop :=
  (∀ (s : State) (c : Chip) (path : Path) (page n b v : Nat) (kind : PageKind), n < 64 → b < 32 →
      s.m.reaches c path page = some kind → isCtxKind kind = false → (c = .ep → s.m.epIdle) →
      let off := 0x100 + 4 * n
      let k := item page 0 off
      let i := info s.m.epParams c k
      let bit : Word := 1 <<< b
      let cmd := Instr.bitAliasWrite c path page (0x2000 + 4 * (32 * n + b)) v
      let id := byChip c Pg.chip Pg.eId
      let cnt := byChip c R.chpBusErrCnt R.ep4BusErrCnt
      let err := byChip c R.chpBusErr R.ep4BusErr
      let set := fun (w : Word) => if v % 2 = 1 then w ||| bit else w &&& ~~~bit
      (directInfo kind off = none → ∃ t, exec cmd s = .next t ∧ s.m.counted t.m c id cnt ∧
        s.becomes t s.m c (fun j => pageWord id cnt j || pageWord id err j)) ∧
      ((directInfo kind off).isSome = true →
        (((i.rws ||| i.rw ||| i.w1c ||| i.wo) &&& bit = 0 ∨ reservedOf kind off &&& bit ≠ 0) → exec cmd s = .next s) ∧
        (reservedOf kind off &&& bit = 0 → i.group ≠ 33 → (s.m.rf c).upsets = [] → (s.m.rf c).commit = none →
          (i.rws &&& bit ≠ 0 → ∃ t, exec cmd s = .next t ∧
            t.m.shadow c k = (set (s.m.shadow c k) &&& i.rws) ||| (s.m.liveCopy c k &&& Mach.stickyMask c k) ∧
            (∀ j, j ≠ k → t.m.shadow c j = s.m.shadow c j) ∧
            s.becomesBut t s.m c (fun r o => { r with shadow := o.shadow }) noWord) ∧
          (i.rws = 0 → i.rw &&& bit ≠ 0 → ownWrite kind off = false → ∃ t, exec cmd s = .next t ∧
            t.m.word c k = set (s.m.word c k) ∧ s.becomes t s.m c (fun j => j == k)) ∧
          (i.wo &&& bit ≠ 0 → v % 2 = 0 → exec cmd s = .next s) ∧
          (i.wo &&& bit ≠ 0 → v % 2 = 1 →
            exec cmd s = exec (.registerWrite c path page off ((s.m.storedRead c k &&& ~~~i.w1c) ||| bit).toNat (s.m.cyc c)) s))) ∧
      exec (.bitAliasWrite c path page (0x4000 + n) v) s = .next s ∧ exec (.bitAliasWrite c path page off v) s = .next s) ∧
  (∀ (s : State) (c : Chip) (path : Path) (page off : Nat) (kind : PageKind), s.m.reaches c path page = some kind →
      path ≠ .vc0 → off ∈ roPairs kind → (directInfo kind off).isSome = true → (directInfo kind (off + 4)).isSome = true →
      (c = .ep → s.m.epIdle) → (s.m.rf c).upsets = [] →
      ∃ t, exec (.pairLowRead c path page off) s = .next t ∧
        t.m.out = .answer c path true [s.m.readStatus c (item page 0 off)] :: s.m.out ∧
        t.m.latchOf c path page = s.m.readStatus c (item page 0 (off + 4)) ∧
        s.becomesBut t s.m c (fun n o => { n with latch := o.latch }) noWord ∧
        exec (.pairLowRead c path page (off + 4)) t = .next { t with
          m := t.m.emit (.answer c path true [s.m.readStatus c (item page 0 (off + 4))]) }) ∧
  ((∀ (s : State) (c : Chip) (page v : Nat) (kind : PageKind), pageKind s.m.epParams c page = some kind →
      ∃ t, exec (.intForce c page v) s = .next t ∧
        t.m.word c (item page 0 R.intStatus)
          = (s.m.word c (item page 0 R.intStatus) ||| (BitVec.ofNat 32 v &&& BitVec.ofNat 32 (eventBits kind))) ∧
        (t.m.rf c).requesting = t.m.anyRequest c ∧ s.becomes t s.m c (pageWord page R.intStatus)) ∧
    (∀ (s : State) (c : Chip),
      ((s.m.rf c).digestBy = none → exec (.digestDone c) s = .next s) ∧
      ((s.m.rf c).digestBy ≠ none → ∃ t, exec (.digestDone c) s = .next t ∧ (t.m.rf c).digestBy = none ∧
        (∀ k, t.m.digestedWord c k = s.m.liveCopy c k) ∧ t.m.out = s.m.out ∧
        s.becomesBut t s.m c (fun n o => { n with digested := o.digested, digestBy := o.digestBy }) noWord)))

/-- Writing IND_ADDR starts the fetch of a table's word; when it ends the word is held, IND_DATA answers it, and with inc the
next word is fetched.  Writing IND_DATA stores under the table's access code.  An access that R552 refuses sets err: such a
read answers 0 and such a write is discarded.
What it fixes beyond the manual is the model's choice: log 49, 118. -/
def Obligations.WindowsFetchAndStore : Prop :=
  ∀ (s : State) (c : Chip) (path : Path) (page v : Nat) (kind : PageKind), s.m.reaches c path page = some kind →
    path ≠ .vc0 → (c = .ep → s.m.epIdle) →
    let w := s.m.winOf c path page
    let reads := fun (a : Nat) => s.m.tabRefused c page kind w.sel a false
    let fetch := fun (a : Nat) => { w with
      addr := a, busy := !reads a, err := w.err || reads a, data := 0, high := 0, atHigh := false, low := none }
    let next := if bitsOf w.ctrl 6 1 = 1 then fetch ((w.addr + 1) % 2 ^ 32) else w
    let sync := Mach.isSyncTab kind w.sel
    let becomes := fun (t : State) (win : Window) => t.m.winOf c path page = win ∧
      s.becomesBut t s.m c (fun n o => { n with win := o.win }) noWord
    (w.atHigh = false → ∃ t, exec (.indAddrWrite c path page v) s = .next t ∧ becomes t (fetch (v % 2 ^ 32))) ∧
    (w.busy = false → exec (.indFetchDone c path page) s = .next s) ∧
    (w.busy = true → reads w.addr = false →
      (sync = false → ∃ t, exec (.indFetchDone c path page) s = .next t ∧
        becomes t { w with busy := false, data := s.m.tabRead c page w }) ∧
      (sync = true → w.addr ∉ s.m.mem.objPoison → w.addr ∉ s.m.mem.objBad → c = .sx →
        ∃ t, exec (.indFetchDone c path page) s = .next t ∧
          t.m.winOf c path page = { w with
            busy := false, data := (s.m.obj w.addr).setWidth 32, high := (s.m.obj w.addr >>> 32).setWidth 32 } ∧
          s.m.counted t.m .sx (Pg.cluster (objCluster w.addr)) R.cluSyncOpsCnt ∧
          s.becomesBut t s.m c (fun n o => { n with win := o.win }) (pageWord (Pg.cluster (objCluster w.addr)) R.cluSyncOpsCnt)) ∧
      (sync = true → w.addr ∈ s.m.mem.objPoison → ∃ t, exec (.indFetchDone c path page) s = .next t ∧
        t.m.winOf c path page = { w with busy := false, err := true, data := 0, high := 0 } ∧ s.kept t)) ∧
    (w.busy = false → sync = false →
      (reads w.addr = false → ∃ t, exec (.indDataRead c path page) s = .next t ∧
        t.m.out = .answer c path true [w.data] :: s.m.out ∧ becomes t next) ∧
      (reads w.addr = true → bitsOf w.ctrl 6 1 = 0 → ∃ t, exec (.indDataRead c path page) s = .next t ∧
        t.m.out = .answer c path true [0] :: s.m.out ∧ becomes t { w with err := true }) ∧
      (s.m.tabRefused c page kind w.sel w.addr true = true → bitsOf w.ctrl 6 1 = 0 →
        ∃ t, exec (.indDataWrite c path page v) s = .next t ∧ becomes t { w with err := true }) ∧
      (s.m.tabRefused c page kind w.sel w.addr true = false →
        let k := item page w.sel w.addr
        let i := info s.m.epParams c k
        i.group ≠ 33 → ¬ (kind = .pleat ∧ (w.sel = 2 ∨ w.sel = 6)) → ¬ (kind = .cuff ∧ w.sel = 2) →
        ¬ (kind = .ocu ∧ (w.sel = 5 ∨ w.sel = 4 ∧ w.addr % 2 = 0)) → (s.m.rf c).commit = none →
        (i.rws ≠ 0 → ∃ t, exec (.indDataWrite c path page v) s = .next t ∧ t.m.winOf c path page = next ∧
          t.m.shadow c k = BitVec.ofNat 32 v &&& i.rws ∧ (∀ j, j ≠ k → t.m.shadow c j = s.m.shadow c j) ∧
          s.becomesBut t s.m c (fun n o => { n with win := o.win, shadow := o.shadow }) noWord) ∧
        (i.rws = 0 → ∃ t, exec (.indDataWrite c path page v) s = .next t ∧ t.m.winOf c path page = next ∧
          t.m.word c k = ((s.m.word c k &&& ~~~(i.rw ||| i.w1c)) ||| (BitVec.ofNat 32 v &&& i.rw)
            ||| (s.m.word c k &&& i.w1c &&& ~~~(BitVec.ofNat 32 v))) ∧
          s.becomesBut t s.m c (fun n o => { n with win := o.win }) (fun j => j == k)))) ∧
    (w.busy = false → sync = true → reads w.addr = false → c = .sx →
      (w.atHigh = false → ∃ t, exec (.indDataRead c path page) s = .next t ∧
        t.m.out = .answer c path true [w.data] :: s.m.out ∧ becomes t { w with atHigh := true }) ∧
      (w.atHigh = true → w.low = none → ∃ t, exec (.indDataRead c path page) s = .next t ∧
        t.m.out = .answer c path true [w.high] :: s.m.out ∧
        ((t.m.winOf c path page).addr = if bitsOf w.ctrl 6 1 = 1 then Mach.nextObject w.addr else w.addr)) ∧
      (w.atHigh = false → ∃ t, exec (.indDataWrite c path page v) s = .next t ∧
        becomes t { w with atHigh := true, low := some (BitVec.ofNat 32 v) }) ∧
      (∀ lo, w.low = some lo → w.atHigh = true → s.m.mem.waiters = [] → ∃ t, exec (.indDataWrite c path page v) s = .next t ∧
        t.m.obj w.addr = BitVec.ofNat 32 v ++ lo ∧ w.addr ∉ t.m.mem.objPoison ∧
        (∀ j, j ≠ w.addr → t.m.obj j = s.m.obj j) ∧ s.m.counted t.m .sx (Pg.cluster (objCluster w.addr)) R.cluSyncOpsCnt ∧ s.kept t)) ∧
    (∀ write, (w.busy = false → exec (.indTimeout c path page write) s = .next s) ∧
      (w.busy = true → ∃ t, exec (.indTimeout c path page write) s = .next t ∧ becomes t { w with timeout := true } ∧
        t.m.out = if write then s.m.out else .answer c path true [0xFFFFFFFF] :: s.m.out))

/-- An I3C private write names an address and writes its whole words from there on; a read answers the words from the address
written last.
A write of a context page's doorbell stores the value and raises the page's event; over the management port or I3C it is a
bus error.
What it fixes beyond the manual is the model's choice: log 120. -/
def Obligations.PortsAndDoorbellsReachRegisters : Prop :=
  (∀ (s : State) (a : List Byte), a.length = 4 →
      let at_ := ofLeBytes a
      let page := at_ / 0x4000
      let off := at_ % 0x4000
      let k := item page 0 off
      let i := info s.m.epParams .sx k
      let aim := fun (n : Nat) => ({ s with m := { s.m with i3cAddr := n } } : State)
      (∀ d, d.length < 4 → exec (.i3cPrivateWrite (a ++ d)) s = .next (aim at_) ∧ exec (.i3cPrivateWrite d) s = .next s) ∧
      (∀ d kind, d.length = 4 → s.m.reaches .sx .i3c page = some kind → 0x100 ≤ off → off < 0xC00 → off % 4 = 0 →
        (directInfo kind off).isSome = true → i.group ≠ 33 → i.rws ≠ 0 → (s.m.rf .sx).commit = none →
        ∃ t, exec (.i3cPrivateWrite (a ++ d)) s = .next t ∧
          t.m.shadow .sx k = (BitVec.ofNat 32 (ofLeBytes d) &&& i.rws) ||| (s.m.liveCopy .sx k &&& Mach.stickyMask .sx k) ∧
          (∀ j, j ≠ k → t.m.shadow .sx j = s.m.shadow .sx j) ∧
          s.becomesBut t (aim at_).m .sx (fun n o => { n with shadow := o.shadow }) noWord) ∧
      (∀ d, d.length = 4 →
        exec (.i3cPrivateWrite (a ++ d)) s = exec (.registerWrite .sx .i3c page off (ofLeBytes d) (s.m.cyc .sx)) (aim at_)) ∧
      (∀ d e b : List Byte, d.length = 4 → e.length < 61 → b.length = 4 → ofLeBytes b = at_ + 4 →
        ∀ t, exec (.i3cPrivateWrite (a ++ d)) s = .next t → ∀ u, exec (.i3cPrivateWrite (b ++ e)) t = .next u →
          exec (.i3cPrivateWrite (a ++ (d ++ e))) s = .next { u with m := { u.m with i3cAddr := at_ } }) ∧
      (∀ d e : List Byte, d.length = 64 → exec (.i3cPrivateWrite (a ++ (d ++ e))) s = exec (.i3cPrivateWrite (a ++ d)) s) ∧
      (∀ n kind, s.m.i3cAddr = at_ → n ≤ 64 → s.m.reaches .sx .i3c page = some kind → off % 4 = 0 → off + n ≤ 0xC00 →
        s.m.regs.upsets = [] →
        (∀ j, j < (n + 3) / 4 → (directInfo kind (off + 4 * j)).isSome = true ∧ off + 4 * j ∉ roPairs kind ∧
          (4 ≤ off + 4 * j → off + 4 * j - 4 ∉ roPairs kind)) →
        exec (.i3cPrivateRead n) s = .next { s with m := s.m.emit (.i3c
          (((List.range ((n + 3) / 4)).flatMap fun j => leBytes 4 (s.m.readStatus .sx (item page 0 (off + 4 * j))).toNat).take n)) }) ∧
      (s.m.i3cAddr = at_ → s.m.reaches .sx .i3c page = none → ∃ t, exec (.i3cPrivateRead 4) s = .next t ∧
        t.m.out = .i3c [0xFF, 0xFF, 0xFF, 0xFF] :: s.m.out ∧ s.m.counted t.m .sx Pg.chip R.chpBusErrCnt ∧
        s.becomes t s.m .sx (fun j => pageWord Pg.chip R.chpBusErrCnt j || pageWord Pg.chip R.chpBusErr j)) ∧
      (∀ n, 64 < n → exec (.i3cPrivateRead n) s = exec (.i3cPrivateRead 64) s)) ∧
  (∀ (s : State) (x v : Nat) (path : Path), x < 1024 →
      let pg := Pg.ctx x
      ((path = .vc4 ∨ path = .vc0) → s.m.ready = true → s.m.boot.off = false →
        ∃ t, exec (.ctxDoorbell x v path) s = .next t ∧ t.m.storedReg .sx pg R.ctxDoorbell = v % 2 ^ 32 ∧
          t.m.event .sx pg 0 = true ∧ s.becomes t s.m .sx (fun k => pageWord pg R.ctxDoorbell k || eventWord pg k)) ∧
      ((path ≠ .vc4 ∧ path ≠ .vc0) ∨ s.m.ready = false ∨ s.m.boot.off = true →
        ∃ t, exec (.ctxDoorbell x v path) s = .next t ∧ s.m.counted t.m .sx Pg.chip R.chpBusErrCnt ∧
          s.becomes t s.m .sx (fun j => pageWord Pg.chip R.chpBusErrCnt j || pageWord Pg.chip R.chpBusErr j)))

/-! ## Resets and boot -/

/-- A power-on reset returns everything of the SX-4 to reset values.  A core reset leaves the always-on domain: the stitch
number and timing, the stitch page's configuration and the trace rings; so does the loss of the core's supply, which is
recorded first.  RESET_N in CHATTER applies no reset.
An instance reset returns every part of the EP-4 to its reset values; the contexts that were confidential or torn are torn
from then on, and its memories keep their bytes.
What it fixes beyond the manual is the model's choice: log 110, 111, 112, 113. -/
def Obligations.ResetsAndTornContexts : Prop :=
  (∀ s : State,
      let recent := (Tbl.get (fun _ => []) s.m.changes Mach.inReset).filter fun t => decide (s.m.time.number < t + 2000)
      let counting := ({ s.m with
        changes := Tbl.set (fun _ => []) s.m.changes Mach.inReset (s.m.time.number :: recent) } : Mach)
      let cleared := fun (t : State) =>
        t.m.held = [] ∧ t.m.link = [] ∧ t.m.mid = [] ∧ t.m.reseq = [] ∧ t.m.out1 = [] ∧ t.m.out2 = [] ∧ t.m.modFailed = [] ∧
          t.m.hold = [] ∧ t.m.plt = {} ∧ t.m.cuff = [] ∧ t.m.mem = {} ∧ t.m.gusset = [] ∧ t.m.relay = none ∧ t.m.torn = [] ∧
          t.m.oeng = [] ∧ t.m.rings = [] ∧ t.m.pairs = [] ∧ t.m.els = [] ∧ t.m.guardState .sx = 0 ∧ t.m.bootPhase = 0 ∧
          t.m.regs.commit = none ∧ t.m.regs.snaps = [] ∧ t.m.regs.win = [] ∧ t.m.regs.latch = [] ∧
          t.store = { s.store with hbm := [] } ∧ t.pending = s.pending ∧
          t.m.rf .ep = s.m.rf .ep ∧ t.m.ep = s.m.ep ∧ t.m.epLink = s.m.epLink ∧ t.m.epTime = s.m.epTime ∧
          t.m.guardEp = s.m.guardEp
      let core := fun (rings : Mach) (off : Bool) (t : State) => cleared t ∧ t.m.boot = { off := off } ∧ t.m.time = s.m.time ∧
        t.m.sxExch = s.m.sxExch ∧
        (∀ k, t.m.shadow .sx k = (if itemPage k = Pg.stitch ∨ itemPage k = Pg.trace then s.m.shadow .sx k
          else rstWord s.m.epParams .sx k)) ∧
        (∀ k, t.m.liveCopy .sx k = if itemPage k = Pg.stitch ∨ itemPage k = Pg.trace then s.m.liveCopy .sx k
          else rstWord s.m.epParams .sx k) ∧
        (∀ k, itemPage k = Pg.trace → t.m.word .sx k = rings.word .sx k) ∧
        (∀ k, itemPage k ∉ [Pg.chip, Pg.power, Pg.stitch, Pg.trace] → (List.range 9).all (fun q => itemPage k != Pg.ocu q) = true →
          t.m.word .sx k = rstWord s.m.epParams .sx k)
      (∃ t, exec .powerOnReset s = .next t ∧ cleared t ∧ t.m.time = {} ∧ t.m.boot = {} ∧ t.m.power = {} ∧ t.m.chatter = [] ∧
        ∀ k, t.m.word .sx k = rstWord s.m.epParams .sx k ∧ t.m.shadow .sx k = rstWord s.m.epParams .sx k ∧
          t.m.liveCopy .sx k = rstWord s.m.epParams .sx k) ∧
      (∃ t, exec .coreSupplyLoss s = .next t ∧ core (s.m.trace Pg.chip 4 0 0) true t) ∧
      (∃ t, exec (.coreReset false) s = .next t ∧ core s.m false t) ∧
      (s.m.chattering Mach.inReset = false → recent.length < 16 →
        ∃ t, exec (.coreReset true) s = .next t ∧ core (s.m.trace Pg.chip 4 0 0) true t) ∧
      (s.m.chattering Mach.inReset = true → exec (.coreReset true) s = .next { s with m := counting } ∧
        exec .resetNDeassertion s = .next { s with m := { counting with boot := { s.m.boot with off := false } } }) ∧
      (s.m.chattering Mach.inReset = false → recent.length < 16 →
        exec .resetNDeassertion s = .next { s with m := { counting with boot := { s.m.boot with off := false } } }) ∧
      (s.m.chattering Mach.inReset = false → 16 ≤ recent.length →
        ∃ t, exec (.coreReset true) s = .next t ∧ s.m.counted t.m .sx Pg.chip R.chpChatterCnt ∧ t.m.event .sx Pg.chip 4 = true ∧
          t.m.stored .sx Pg.chip F.chpPinStatus_resetChatter = 1 ∧
          s.becomes t { counting with chatter := s.m.chatter ++ [Mach.inReset] } .sx
            (fun k => pageWord Pg.chip R.chpChatterCnt k || pageWord Pg.chip R.chpPinStatus k || eventWord Pg.chip k))) ∧
  (∀ s : State,
      let tornNow := fun (x : Nat) => decide (x < s.m.ctxCount) && (s.m.epConf x || s.m.ctxConf x == 3)
      ∃ t, exec .instanceReset s = .next t ∧
        t.m.bare = { s.m.bare with
          epTime := {}, epLink := [], ep := {}, guardEp := {},
          arrivedPkts := s.m.arrivedPkts.filter fun x => x.1 == Chip.sx } ∧
        (∀ x, tornNow x = true → t.m.stored .ep (Pg.ctx x) F.ep4CtxConf_state = 3) ∧
        (∀ k, (List.range s.m.ctxCount).all (fun x => !tornNow x || k != item (Pg.ctx x) 0 F.ep4CtxConf_state.off) = true →
          t.m.word .ep k = rstWord s.m.epParams .ep k) ∧
        t.m.rf .ep = { word := t.m.epRegs.word } ∧ t.m.rf .sx = s.m.rf .sx ∧ t.m.out = s.m.out ∧ s.kept t)

/-- A boot phase that ends gives way to the next, until READY, where the loss of a Guard change is reported.  At its limit the
units that have not completed it are retired, and boot goes on.
CHP_CHATTER_CLR with go ends CHATTER of the input that it names and empties its window; PWRBRK_N is then taken as its pin
stands.  A 1 in its reserved bits puts the chip outside its specification.
What it fixes beyond the manual is the model's choice: log 123. -/
def Obligations.BootRunsAndChatterEnds : Prop :=
  (∀ (s : State) (ms : Nat),
      let p := s.m.bootPhase
      let total := s.m.boot.ms + ms
      let on := { s.m with boot := { s.m.boot with ms := total } }
      let status := pageWord Pg.chip R.chpBootStatus
      (s.m.boot.off = true ∨ 5 ≤ p → exec (.bootPhaseEnd ms) s = .next s ∧
        ∀ failed : List BootUnit, failed.all bootUnitOk = true → exec (.bootPhaseLimit ms failed) s = .next s) ∧
      (s.m.boot.off = false → p < 4 → ∃ t, exec (.bootPhaseEnd ms) s = .next t ∧
        t.m.stored .sx Pg.chip F.chpBootStatus_phase = p + 1 ∧ s.becomes t on .sx status) ∧
      (s.m.boot.off = false → p = 4 → ∃ t, exec (.bootPhaseEnd ms) s = .next t ∧
        t.m.stored .sx Pg.chip F.chpBootStatus_phase = 5 ∧ t.m.stored .sx Pg.chip F.chpBootStatus_bootMs = min total 65535 ∧
        (s.m.guardSx.lost = true → t.m.event .sx Pg.guard 1 = true) ∧
        s.becomes t { on with guardSx := { s.m.guardSx with lost := false } } .sx
          (fun k => status k || itemPage k == Pg.trace || (s.m.guardSx.lost && eventWord Pg.guard k))) ∧
      exec (.bootPhaseLimit ms []) s = exec (.bootPhaseEnd ms) s ∧
      (s.m.boot.off = false → p < 5 →
        let ends := fun (u : BootUnit) (holds : State → Prop) => ∃ t, exec (.bootPhaseLimit ms [u]) s = .next t ∧
          t.m.stored .sx Pg.chip F.chpBootStatus_phase = p + 1 ∧ t.m.stored .sx Pg.chip F.chpBootStatus_degraded = 1 ∧ holds t
        let retired := fun (page off b : Nat) (t : State) =>
          bitsOf (t.m.liveCopy .sx (item page 0 off)).toNat b 1 = 1 ∧ bitsOf (t.m.shadow .sx (item page 0 off)).toNat b 1 = 1
        (∀ n, n < 18 → n ∉ s.m.out1 → ends (.tile n) fun t =>
          t.m.out1 = s.m.out1 ++ [n] ∧ retired Pg.chip R.chpTileRetire n t ∧ t.m.event .sx Pg.chip 6 = true) ∧
        (∀ n, n < 6 → n ∉ s.m.mem.retired → ends (.stack n) fun t =>
          t.m.mem.retired = n :: s.m.mem.retired ∧ retired Pg.chip R.chpStackRetire n t ∧ t.m.event .sx Pg.chip 3 = true) ∧
        (∀ n, n < 6 → (∀ i, i < 3 → 3 * n + i ∉ s.m.out1) → n ∉ s.m.mem.retired → ends (.cluster n) fun t =>
          t.m.out1 = s.m.out1 ++ [3 * n, 3 * n + 1, 3 * n + 2] ∧ t.m.mem.retired = n :: s.m.mem.retired ∧
          retired Pg.chip R.chpStackRetire n t ∧ ∀ i, i < 3 → retired Pg.chip R.chpTileRetire (3 * n + i) t) ∧
        (∀ n, n < 144 → ends (.pleatEngine n) fun t =>
          retired Pg.pleat (R.pltEngRetire0 + 4 * (n / 32)) (n % 32) t ∧ t.m.event .sx Pg.pleat 2 = true) ∧
        (∀ n, n < 32 → n ∉ s.m.modFailed → bitsOf (s.m.reg .sx (Pg.die 0) R.dieD2dModules) n 1 = 1 → ends (.module n) fun t =>
          t.m.modFailed = s.m.modFailed ++ [n]))) ∧
  (∀ (s : State) (v : Nat),
      let sel := v % 4
      let n := v / 4 % 64
      let i := if sel < 2 then 64 * sel else 64 * sel + n
      let done := { s.m with
        chatter := s.m.chatter.filter (· != i), changes := Tbl.set (fun _ => []) s.m.changes i [] }
      let shown : Nat × Fld := match sel with
        | 1 => (Pg.chip, F.chpPinStatus_resetChatter)
        | 2 => (ocuPage n, F.ocuEngStatus_losChatter (n % 4))
        | _ => (elsPage n, F.ocuElsStatus_chatter (n % 2))
      (v / 2 ^ 9 % 2 ^ 23 ≠ 0 → exec (.chatterClear v) s = .fault .outsideSpecification) ∧
      (v / 2 ^ 9 % 2 ^ 23 = 0 → v / 2 ^ 8 % 2 = 0 ∨ (sel = 2 ∧ 36 ≤ n) ∨ (sel = 3 ∧ 18 ≤ n) → exec (.chatterClear v) s = .next s) ∧
      (v / 2 ^ 9 % 2 ^ 23 = 0 → v / 2 ^ 8 % 2 = 1 → (sel = 2 → n < 36) → (sel = 3 → n < 18) →
        (1 ≤ sel → ∃ t, exec (.chatterClear v) s = .next t ∧ t.m.stored .sx shown.1 shown.2 = 0 ∧
          s.becomes t done .sx (pageWord shown.1 shown.2.off)) ∧
        (sel = 0 → ∃ t, exec (.chatterClear v) s = .next t ∧ t.m.stored .sx Pg.chip F.chpPinStatus_pwrbrkChatter = 0 ∧
          t.m.stored .sx Pg.power F.pwrShedStatus_brkChatter = 0 ∧
          (s.m.power.brkPin = false → t.m.power.brkSince = none ∧ t.m.power.brk.cond = 0) ∧
          (s.m.power.brkPin = true → t.m.power.brkSince = some (s.m.power.brkSince.getD s.m.time.number)) ∧
          s.becomes t { done with power := t.m.power } .sx
            (fun k => pageWord Pg.chip R.chpPinStatus k || pageWord Pg.power F.pwrShedStatus_brkChatter.off k))))
end

