-- ==== Sys2Proof/Laws/Tbl.lean ====
section
/-! SUPPORT. What the operations on sparse tables and byte memories do: a read after a write, and that every write keeps
the canonical form. -/

namespace Sys2Proof.Machine
open Sys2Proof

namespace Tbl
variable {α : Type}

@[simp] theorem get_nil (d : Nat → α) (k : Nat) : get d [] k = d k := rfl

theorem get_erase (d : Nat → α) (t : Tbl α) (k j : Nat) : get d (erase t k) j = if j = k then d j else get d t j := by
  induction t with
  | nil => simp [erase]
  | cons e t ih =>
    obtain ⟨i, v⟩ := e
    by_cases h : i = k
    · subst h
      by_cases hj : j = i
      · subst hj; simpa [erase] using ih
      · simp [erase, get, ih, hj, Ne.symm hj]
    · by_cases hj : j = k
      · subst hj; simp [erase, get, h, ih]
      · simp [erase, get, h, ih, hj]

theorem get_insert (d : Nat → α) (t : Tbl α) (k : Nat) (v : α) (j : Nat) (h : ∀ e ∈ t, e.1 ≠ k) :
    get d (insert t k v) j = if j = k then v else get d t j := by
  induction t with
  | nil => simp [insert, get, eq_comm]
  | cons e t ih =>
    obtain ⟨i, w⟩ := e
    have hi : i ≠ k := h (i, w) (by simp)
    have ht := ih fun e he => h e (by simp [he])
    unfold insert
    split
    · simp [get, eq_comm]
    · by_cases hj : j = k
      · subst hj; simp [get, hi, ht]
      · simp [get, ht, hj]

theorem erase_keys (t : Tbl α) (k : Nat) : ∀ e ∈ erase t k, e.1 ≠ k ∧ e ∈ t := by
  induction t with
  | nil => simp [erase]
  | cons e t ih =>
    obtain ⟨i, w⟩ := e
    by_cases h : i = k
    · simp only [erase, h, if_true]
      intro x hx; exact ⟨(ih x hx).1, by simp [(ih x hx).2]⟩
    · intro x hx
      simp only [erase, h, if_false, List.mem_cons] at hx
      rcases hx with rfl | hx
      · exact ⟨h, by simp⟩
      · exact ⟨(ih x hx).1, by simp [(ih x hx).2]⟩

/-- A read after a write: the value written at its key, the old value at every other. -/
@[simp] theorem get_set [DecidableEq α] (d : Nat → α) (t : Tbl α) (k : Nat) (v : α) (j : Nat) :
    get d (set d t k v) j = if j = k then v else get d t j := by
  unfold set
  split
  · rename_i h; rw [get_erase]; split <;> simp_all
  · rw [get_insert _ _ _ _ _ fun e he => (erase_keys t k e he).1, get_erase]; split <;> rfl

@[simp] theorem get_modify [DecidableEq α] (d : Nat → α) (t : Tbl α) (k : Nat) (f : α → α) (j : Nat) :
    get d (modify d t k f) j = if j = k then f (get d t k) else get d t j := get_set ..

/-! ### The canonical form -/

theorem rising_of_none {t : Tbl α} {i : Nat} (h : rising none t = true) (hi : ∀ e ∈ t, i < e.1) :
    rising (some i) t = true := by
  cases t with
  | nil => rfl
  | cons e t => simp_all [rising]

theorem rising_tail {o : Option Nat} {e : Nat × α} {t : Tbl α} (h : rising o (e :: t) = true) :
    rising none t = true ∧ ∀ x ∈ t, e.1 < x.1 := by
  obtain ⟨j, v⟩ := e
  have h' : rising (some j) t = true := by cases o <;> simp_all [rising]
  clear h
  induction t generalizing j v with
  | nil => simp [rising]
  | cons x t ih =>
    obtain ⟨i, w⟩ := x
    simp only [rising, Bool.and_eq_true, decide_eq_true_eq] at h'
    refine ⟨by simpa [rising] using h'.2, ?_⟩
    intro y hy
    rcases List.mem_cons.1 hy with rfl | hy
    · exact h'.1
    · exact Nat.lt_trans h'.1 ((ih i w h'.2).2 y hy)

theorem rising_cons {e : Nat × α} {t : Tbl α} (ht : rising none t = true) (h : ∀ x ∈ t, e.1 < x.1) :
    rising none (e :: t) = true := by
  obtain ⟨j, v⟩ := e
  exact rising_of_none ht h

theorem rising_erase {t : Tbl α} (h : rising none t = true) (k : Nat) : rising none (erase t k) = true := by
  induction t with
  | nil => rfl
  | cons e t ih =>
    obtain ⟨h1, h2⟩ := rising_tail h
    obtain ⟨i, w⟩ := e
    by_cases hk : i = k
    · simpa [erase, hk] using ih h1
    · simp only [erase, hk, if_false]
      exact rising_cons (ih h1) fun x hx => h2 x (erase_keys t k x hx).2

theorem insert_mem (t : Tbl α) (k : Nat) (v : α) : ∀ x ∈ insert t k v, x = (k, v) ∨ x ∈ t := by
  induction t with
  | nil => simp [insert]
  | cons e t ih =>
    obtain ⟨i, w⟩ := e
    unfold insert
    split
    · intro x hx; simpa using hx
    · intro x hx
      rcases List.mem_cons.1 hx with rfl | hx
      · simp
      · rcases ih x hx with h | h <;> simp [h]

theorem rising_insert {t : Tbl α} (h : rising none t = true) (k : Nat) (v : α) (hk : ∀ e ∈ t, e.1 ≠ k) :
    rising none (insert t k v) = true := by
  induction t with
  | nil => rfl
  | cons e t ih =>
    obtain ⟨h1, h2⟩ := rising_tail h
    obtain ⟨i, w⟩ := e
    have hik : i ≠ k := hk (i, w) (by simp)
    unfold insert
    split
    · rename_i hlt
      refine rising_cons h fun x hx => ?_
      rcases List.mem_cons.1 hx with rfl | hx
      · exact hlt
      · exact Nat.lt_trans hlt (h2 x hx)
    · rename_i hlt
      refine rising_cons (ih h1 fun x hx => hk x (by simp [hx])) fun x hx => ?_
      rcases insert_mem t k v x hx with rfl | hx
      · show i < k; omega
      · exact h2 x hx

/-- Every write keeps the canonical form. -/
theorem wf_set [DecidableEq α] {d : Nat → α} {t : Tbl α} (h : wf d t = true) (k : Nat) (v : α) :
    wf d (set d t k v) = true := by
  simp only [wf, Bool.and_eq_true, List.all_eq_true, decide_eq_true_eq] at h ⊢
  unfold set
  split
  · exact ⟨rising_erase h.1 k, fun x hx => h.2 x (erase_keys t k x hx).2⟩
  · rename_i hv
    refine ⟨rising_insert (rising_erase h.1 k) k v fun e he => (erase_keys t k e he).1, fun x hx => ?_⟩
    rcases insert_mem _ k v x hx with rfl | hx
    · exact hv
    · exact h.2 x (erase_keys t k x hx).2

theorem wf_nil [DecidableEq α] (d : Nat → α) : wf d ([] : Tbl α) = true := rfl

end Tbl

namespace Mem

@[simp] theorem read_write (m : Mem) (a : Nat) (b : Byte) (x : Nat) :
    read (write m a b) x = if x = a then b else read m x := Tbl.get_set ..

theorem wf_write {m : Mem} (h : m.wf = true) (a : Nat) (b : Byte) : (m.write a b).wf = true := Tbl.wf_set h a b

theorem wf_writeN (bs : List Byte) {m : Mem} (h : m.wf = true) (a : Nat) : (m.writeN a bs).wf = true := by
  induction bs generalizing m a with
  | nil => exact h
  | cons b bs ih => exact ih (wf_write h a b) (a + 1)

theorem wf_nil : Mem.wf [] = true := rfl

/-- A write of several bytes leaves every byte outside them alone. -/
theorem read_writeN_out (bs : List Byte) (m : Mem) (a x : Nat) (h : x < a ∨ a + bs.length ≤ x) :
    (m.writeN a bs).read x = m.read x := by
  induction bs generalizing m a with
  | nil => rfl
  | cons b bs ih =>
    simp only [List.length_cons] at h
    rw [writeN, ih _ _ (by omega), read_write, if_neg (by omega)]

/-- A write of several bytes is read back. -/
theorem read_writeN_in (bs : List Byte) (m : Mem) (a i : Nat) (h : i < bs.length) :
    (m.writeN a bs).read (a + i) = bs[i] := by
  induction bs generalizing m a i with
  | nil => simp at h
  | cons b bs ih =>
    cases i with
    | zero => rw [writeN, read_writeN_out _ _ _ _ (by omega)]; simp
    | succ i => rw [writeN, show a + (i + 1) = a + 1 + i by omega, ih _ _ _ (by simpa using h)]; rfl

end Mem

end Sys2Proof.Machine
end

