-- ==== Sys2Proof/Laws/Regs.lean ====
section
/-! SUPPORT. What the operations on registers, events, the trace and outputs do: each changes the register files and the
outputs only, and of the registers the words it names. -/

set_option Elab.async false

namespace Sys2Proof.Machine
open Sys2Proof

/-! ### Item addresses -/

theorem item_off (page a : Nat) (h : a < 2 ^ 44) : itemOff (item page 0 a) = a := by
  simp only [itemOff, item]; omega

theorem item_sel (page sel a : Nat) (h : a < 2 ^ 44) (hs : sel < 16) : itemSel (item page sel a) = sel := by
  simp only [itemSel, item]; omega

theorem item_page (page sel a : Nat) (h : a < 2 ^ 44) (hs : sel < 16) : itemPage (item page sel a) = page := by
  simp only [itemPage, item]; omega

/-- Item addresses of different words differ. -/
theorem item_inj {p q u v a b : Nat} (ha : a < 2 ^ 44) (hb : b < 2 ^ 44) (hu : u < 16) (hv : v < 16) :
    item p u a = item q v b ↔ p = q ∧ u = v ∧ a = b := by
  constructor
  · intro h
    have h1 := congrArg itemPage h
    have h2 := congrArg itemSel h
    have h3 : itemOff (item p u a) = itemOff (item q v b) := congrArg itemOff h
    rw [item_page _ _ _ ha hu, item_page _ _ _ hb hv] at h1
    rw [item_sel _ _ _ ha hu, item_sel _ _ _ hb hv] at h2
    simp only [itemOff, item] at h3
    exact ⟨h1, h2, by omega⟩
  · rintro ⟨rfl, rfl, rfl⟩; rfl

namespace Mach

/-! ### The register file of a chip -/

@[simp] theorem rf_setRf (m : Mach) (c : Chip) (r : RegFile) : (m.setRf c r).rf c = r := by cases c <;> rfl

theorem rf_setRf_other (m : Mach) (c d : Chip) (r : RegFile) (h : d ≠ c) : (m.setRf c r).rf d = m.rf d := by
  cases c <;> cases d <;> first | rfl | exact absurd rfl h

@[simp] theorem setRf_epParams (m : Mach) (c : Chip) (r : RegFile) : (m.setRf c r).epParams = m.epParams := by
  cases c <;> rfl

@[simp] theorem setRf_bare (m : Mach) (c : Chip) (r : RegFile) : (m.setRf c r).bare = m.bare := by cases c <;> rfl

@[simp] theorem setRf_time (m : Mach) (c : Chip) (r : RegFile) : (m.setRf c r).time = m.time := by cases c <;> rfl

@[simp] theorem setRf_epTime (m : Mach) (c : Chip) (r : RegFile) : (m.setRf c r).epTime = m.epTime := by cases c <;> rfl

/-- A read of a word after a write of a word. -/
@[simp] theorem word_setWord (m : Mach) (c : Chip) (k : Nat) (v : Word) (j : Nat) :
    (m.setWord c k v).word c j = if j = k then v else m.word c j := by
  simp [word, setWord]

theorem word_setWord_other (m : Mach) (c d : Chip) (k : Nat) (v : Word) (j : Nat) (h : d ≠ c) :
    (m.setWord c k v).word d j = m.word d j := by
  simp [word, setWord, rf_setRf_other _ _ _ _ h]

@[simp] theorem setWord_bare (m : Mach) (c : Chip) (k : Nat) (v : Word) : (m.setWord c k v).bare = m.bare := by
  simp [setWord]

@[simp] theorem setFld_bare (m : Mach) (c : Chip) (p : Nat) (f : Fld) (v : Nat) : (m.setFld c p f v).bare = m.bare := by
  simp [setFld]

@[simp] theorem setReg_bare (m : Mach) (c : Chip) (p o v : Nat) : (m.setReg c p o v).bare = m.bare := by simp [setReg]

@[simp] theorem setTFld_bare (m : Mach) (c : Chip) (p u n e : Nat) (f : Fld) (v : Nat) :
    (m.setTFld c p u n e f v).bare = m.bare := by simp [setTFld]

@[simp] theorem setTWord_bare (m : Mach) (c : Chip) (p u a v : Nat) : (m.setTWord c p u a v).bare = m.bare := by
  simp [setTWord]

@[simp] theorem bumpBy_bare (m : Mach) (c : Chip) (p o n : Nat) : (m.bumpBy c p o n).bare = m.bare := by simp [bumpBy]

@[simp] theorem bump_bare (m : Mach) (c : Chip) (p o : Nat) : (m.bump c p o).bare = m.bare := by simp [bump]

@[simp] theorem bumpT_bare (m : Mach) (c : Chip) (p u n e : Nat) (f : Fld) : (m.bumpT c p u n e f).bare = m.bare := by
  simp [bumpT]

@[simp] theorem emit_bare (m : Mach) (o : Out) : (m.emit o).bare = m.bare := rfl

@[simp] theorem updateIrq_bare (m : Mach) (c : Chip) : (m.updateIrq c).bare = m.bare := by
  cases c <;> simp [updateIrq, apply_ite Mach.bare]

@[simp] theorem setIntBit_bare (m : Mach) (c : Chip) (p b : Nat) : (m.setIntBit c p b).bare = m.bare := by
  simp [setIntBit]

@[simp] theorem logError_bare (m : Mach) (c : Chip) (p b d : Nat) : (m.logError c p b d).bare = m.bare := by
  simp [logError, apply_ite Mach.bare]

@[simp] theorem ringStore_bare (m : Mach) (d p t b x : Nat) : (m.ringStore d p t b x).bare = m.bare := by
  simp [ringStore, apply_ite Mach.bare]

@[simp] theorem ringFreeze_bare (m : Mach) (d : Nat) : (m.ringFreeze d).bare = m.bare := by
  simp [ringFreeze, apply_ite Mach.bare]

@[simp] theorem trace_bare (m : Mach) (p t b d : Nat) : (m.trace p t b d).bare = m.bare := by
  simp [trace, apply_ite Mach.bare]

/-- Raising an event changes registers and outputs only. -/
@[simp] theorem raise_bare (m : Mach) (c : Chip) (p b d : Nat) : (m.raise c p b d).bare = m.bare := by
  cases c <;> (simp only [raise]; split <;> simp [apply_ite Mach.bare])

/-! ### From the bare machine to its fields -/

@[simp] theorem bare_bare (m : Mach) : m.bare.bare = m.bare := rfl
@[simp] theorem bare_time (m : Mach) : m.bare.time = m.time := rfl
@[simp] theorem bare_epTime (m : Mach) : m.bare.epTime = m.epTime := rfl
@[simp] theorem bare_epParams (m : Mach) : m.bare.epParams = m.epParams := rfl

theorem putTime_bare (m : Mach) (t : Timing) : (m.putTime t).bare = { m.bare with time := t } := by
  simp only [putTime, setFld_bare]; rfl

theorem putEpTime_bare (m : Mach) (t : EpTiming) : (m.putEpTime t).bare = { m.bare with epTime := t } := by
  simp only [putEpTime, setFld_bare]; rfl

/-! ### Events -/

theorem event_setWord (m : Mach) (c : Chip) (k : Nat) (v : Word) (p b : Nat) (h : item p 0 R.intStatus ≠ k) :
    (m.setWord c k v).event c p b = m.event c p b := by
  simp [event, h]

theorem event_congr {m n : Mach} {c : Chip} {p b : Nat}
    (h : n.word c (item p 0 R.intStatus) = m.word c (item p 0 R.intStatus)) : n.event c p b = m.event c p b := by
  simp [event, h]

@[simp] theorem event_emit (m : Mach) (o : Out) (c : Chip) (p b : Nat) : (m.emit o).event c p b = m.event c p b := by
  cases c <;> rfl

@[simp] theorem word_emit (m : Mach) (o : Out) (c : Chip) (k : Nat) : (m.emit o).word c k = m.word c k := by
  cases c <;> rfl

@[simp] theorem rf_emit (m : Mach) (o : Out) (c : Chip) : (m.emit o).rf c = m.rf c := by cases c <;> rfl

@[simp] theorem epParams_emit (m : Mach) (o : Out) : (m.emit o).epParams = m.epParams := rfl

/-- The interrupt request line's update changes nothing else of the register file. -/
theorem updateIrq_rf (m : Mach) (c : Chip) :
    (m.updateIrq c).rf c = { m.rf c with requesting := m.anyRequest c } := by
  cases c <;> simp only [updateIrq] <;> (repeat' split) <;> simp

@[simp] theorem updateIrq_epParams (m : Mach) (c : Chip) : (m.updateIrq c).epParams = m.epParams := by
  rw [← bare_epParams, updateIrq_bare, bare_epParams]

@[simp] theorem word_updateIrq (m : Mach) (c : Chip) (k : Nat) : (m.updateIrq c).word c k = m.word c k := by
  simp [word, updateIrq_rf]

theorem bits_or (a b i : Nat) : bitsOf (a ||| b) i 1 = 1 ↔ bitsOf a i 1 = 1 ∨ bitsOf b i 1 = 1 := by
  have h (n : Nat) : bitsOf n i 1 = 1 ↔ n.testBit i = true := by
    rw [Nat.testBit_eq_decide_div_mod_eq]; simp [bitsOf]
  simp [h, Nat.testBit_or]

theorem bits_pow (i b : Nat) (hb : b < 32) : bitsOf (BitVec.ofNat 32 (2 ^ i)).toNat b 1 = 1 ↔ i = b := by
  rw [bitsOf, BitVec.toNat_ofNat]
  have h := Nat.testBit_eq_decide_div_mod_eq (x := 2 ^ i % 2 ^ 32) (i := b)
  rw [Nat.testBit_mod_two_pow, Nat.testBit_two_pow] at h
  simp only [hb, decide_true, Bool.true_and] at h
  have h' := decide_eq_decide.1 h
  simpa using h'.symm

/-- Setting one event's bit sets it and leaves the other events as they were. -/
theorem event_setIntBit (m : Mach) (c : Chip) (p b q d : Nat) (hb : b < 32) :
    (m.setIntBit c q d).event c p b = (m.event c p b || (decide (q = p) && decide (d = b))) := by
  simp only [setIntBit, event, word_updateIrq, word_setWord]
  by_cases h : p = q
  · subst h
    simp only [if_true, BitVec.toNat_or, decide_true, Bool.true_and]
    rw [Bool.eq_iff_iff]
    simp only [beq_iff_eq, bits_or, bits_pow _ _ hb, Bool.or_eq_true, decide_eq_true_eq]
  · have : item p 0 R.intStatus ≠ item q 0 R.intStatus := fun e =>
      h ((item_inj (by decide) (by decide) (by decide) (by decide)).1 e).1
    simp [this, Ne.symm h]

end Mach

/-! ### What a chip's register file keeps -/

theorem Mach.regsKept.refl (m : Mach) (c : Chip) (f : Nat → Bool) : m.regsKept m c f := ⟨rfl, fun _ _ => rfl⟩

theorem Mach.regsKept.trans {m n o : Mach} {c : Chip} {f : Nat → Bool} (h : m.regsKept n c f) (g : n.regsKept o c f) :
    m.regsKept o c f :=
  ⟨by rw [g.1, h.1], fun k hk => (g.2 k hk).trans (h.2 k hk)⟩

theorem Mach.regsKept.mono {m n : Mach} {c : Chip} {f g : Nat → Bool} (h : m.regsKept n c f)
    (hfg : ∀ k, g k = false → f k = false) : m.regsKept n c g := ⟨h.1, fun k hk => h.2 k (hfg k hk)⟩

theorem Mach.regsKept.or {m n : Mach} {c : Chip} {f : Nat → Bool} (h : m.regsKept n c f) (g : Nat → Bool) :
    m.regsKept n c (fun k => f k || g k) := h.mono fun k hk => by simp only [Bool.or_eq_false_iff] at hk; exact hk.1

theorem Mach.regsKept_setWord (m : Mach) (c : Chip) (k : Nat) (v : Word) (f : Nat → Bool) (h : f k = true) :
    m.regsKept (m.setWord c k v) c f := by
  refine ⟨by simp [Mach.setWord], fun j hj => ?_⟩
  have : j ≠ k := fun e => by simp [e, h] at hj
  simp [this]

theorem Mach.regsKept_emit (m : Mach) (o : Out) (c : Chip) (f : Nat → Bool) : m.regsKept (m.emit o) c f :=
  ⟨by simp, fun _ _ => by simp⟩

theorem Mach.regsKept_updateIrq (m : Mach) (c : Chip) (f : Nat → Bool) : m.regsKept (m.updateIrq c) c f := by
  exact ⟨by simp [Mach.updateIrq_rf], fun _ _ => by simp⟩

/-- The words that raising an event of page `p` may write. -/
theorem eventWord_own (p o : Nat) (ho : o ∈ [R.intStatus, R.errLog0, R.errLog1, R.errLog2, R.errLog3]) :
    eventWord p (item p 0 o) = true := by
  have h : o < 2 ^ 44 := by
    simp only [List.mem_cons, List.not_mem_nil, or_false] at ho
    rcases ho with rfl | rfl | rfl | rfl | rfl <;> decide
  simp only [eventWord, item_page p 0 o h (by decide), item_sel p 0 o h (by decide), item_off p o h]
  simp only [beq_self_eq_true, Bool.true_and]
  rw [List.contains_iff_mem.2 ho, Bool.or_true]

theorem eventWord_trace (p u a : Nat) (ha : a < 2 ^ 44) (hu : u < 16) : eventWord p (item Pg.trace u a) = true := by
  simp [eventWord, item_page _ u a ha hu]

theorem Mach.regsKept_setIntBit (m : Mach) (c : Chip) (p b : Nat) (f : Nat → Bool)
    (h : f (item p 0 R.intStatus) = true) : m.regsKept (m.setIntBit c p b) c f :=
  (m.regsKept_setWord c _ _ f h).trans (Mach.regsKept_updateIrq _ c f)

namespace Mach

theorem regsKept_ite {m a b : Mach} {c : Chip} {f : Nat → Bool} (p : Prop) [Decidable p] (ha : m.regsKept a c f)
    (hb : m.regsKept b c f) : m.regsKept (if p then a else b) c f := by split <;> assumption

theorem regsKept_logError (m : Mach) (c : Chip) (p b d : Nat) : m.regsKept (m.logError c p b d) c (eventWord p) := by
  have h0 := eventWord_own p R.errLog0 (by decide)
  have h1 := eventWord_own p R.errLog1 (by decide)
  have h2 := eventWord_own p R.errLog2 (by decide)
  have h3 := eventWord_own p R.errLog3 (by decide)
  exact regsKept_ite _ (regsKept_setWord _ _ _ _ _ h0)
    ((((regsKept_setWord _ _ _ _ _ h0).trans (regsKept_setWord _ _ _ _ _ h1)).trans
      (regsKept_setWord _ _ _ _ _ h2)).trans (regsKept_setWord _ _ _ _ _ h3))

theorem regsKept_ringStore (m : Mach) (d p t b x q : Nat) (hd : d < 2) :
    m.regsKept (m.ringStore d p t b x) .sx (eventWord q) := by
  have hw : m.ringWr d < 4096 := by simp only [ringWr, fld, bitsOf]; omega
  have ht (a : Nat) (ha : a < 2 ^ 44) : eventWord q (item Pg.trace 1 a) = true := eventWord_trace q 1 a ha (by decide)
  have hs : eventWord q (item Pg.trace 0 R.trcStatus) = true := eventWord_trace q 0 _ (by decide) (by decide)
  have h5 (v0 v1 v2 v3 v4 : Word) : m.regsKept (((((m.setWord .sx (item Pg.trace 1 (16384 * d + 4 * m.ringWr d)) v0).setWord
      .sx (item Pg.trace 1 (16384 * d + 4 * m.ringWr d + 1)) v1).setWord
      .sx (item Pg.trace 1 (16384 * d + 4 * m.ringWr d + 2)) v2).setWord
      .sx (item Pg.trace 1 (16384 * d + 4 * m.ringWr d + 3)) v3).setWord .sx (item Pg.trace 0 R.trcStatus) v4)
      .sx (eventWord q) :=
    ((((regsKept_setWord _ _ _ _ _ (ht _ (by omega))).trans (regsKept_setWord _ _ _ _ _ (ht _ (by omega)))).trans
    (regsKept_setWord _ _ _ _ _ (ht _ (by omega)))).trans (regsKept_setWord _ _ _ _ _ (ht _ (by omega)))).trans
    (regsKept_setWord _ _ _ _ _ hs)
  exact regsKept_ite _ ((h5 _ _ _ _ _).trans (regsKept_setWord _ _ _ _ _ hs)) (h5 _ _ _ _ _)

theorem regsKept_bump (m : Mach) (c : Chip) (p o : Nat) (f : Nat → Bool) (h : f (item p 0 o) = true) :
    m.regsKept (m.bump c p o) c f := regsKept_setWord _ _ _ _ _ h

theorem regsKept_ringFreeze (m : Mach) (d q : Nat) : m.regsKept (m.ringFreeze d) .sx (eventWord q) := by
  have hs (o : Nat) (ho : o < 2 ^ 44) : eventWord q (item Pg.trace 0 o) = true := eventWord_trace q 0 o ho (by decide)
  exact ((regsKept_setWord _ _ _ _ _ (hs R.trcStatus (by decide))).trans
    (regsKept_setIntBit _ _ _ _ _ (hs R.intStatus (by decide)))).trans
    (regsKept_ite _ (regsKept_ringStore _ _ _ _ _ _ _ (by decide)) (regsKept_bump _ _ _ _ _ (hs _ (by decide))))

theorem dieOfPage_lt (i : Nat) : dieOfPage i < 2 := by
  unfold dieOfPage; repeat' split
  all_goals omega

theorem regsKept_trace (m : Mach) (p t b d q : Nat) : m.regsKept (m.trace p t b d) .sx (eventWord q) := by
  have hl : eventWord q (item Pg.trace 0 R.trcLostCnt) = true := eventWord_trace q 0 _ (by decide) (by decide)
  have hb (n : Mach) : n.regsKept (n.bump .sx Pg.trace R.trcLostCnt) .sx (eventWord q) := regsKept_bump _ _ _ _ _ hl
  have hst := regsKept_ringStore m (dieOfPage p) p t b d q (dieOfPage_lt p)
  refine regsKept_ite _ (.refl ..) (regsKept_ite _ (.refl ..) (regsKept_ite _ (hb m) (regsKept_ite _ (hb m)
    (regsKept_ite _ ((regsKept_ringFreeze ..).trans (hb _)) (regsKept_ite _ (hst.trans (regsKept_ringFreeze ..)) hst)))))

/-- What raising an event does to the chip's own register file: the page's INT_STATUS and error log, and the trace page. -/
theorem regsKept_raise (m : Mach) (c : Chip) (p b d : Nat) : m.regsKept (m.raise c p b d) c (eventWord p) := by
  have h1 := regsKept_setIntBit m c p b _ (eventWord_own p R.intStatus (by decide))
  have h2 : (m.setIntBit c p b).regsKept (match pageKind (m.setIntBit c p b).epParams c p with
      | some k => if errorSeverity k b then (m.setIntBit c p b).logError c p b d else m.setIntBit c p b
      | none => m.setIntBit c p b) c (eventWord p) := by
    split
    · exact regsKept_ite _ (regsKept_logError ..) (.refl ..)
    · exact .refl ..
  cases c
  · exact (h1.trans h2).trans (regsKept_trace ..)
  · exact h1.trans h2

/-! ### The other chip's register file -/

theorem rf_ite (p : Prop) [Decidable p] (a b : Mach) (c : Chip) :
    (if p then a else b).rf c = if p then a.rf c else b.rf c := by split <;> rfl

theorem rf_setWord_other (m : Mach) (c d : Chip) (k : Nat) (v : Word) (h : d ≠ c) : (m.setWord c k v).rf d = m.rf d :=
  rf_setRf_other _ _ _ _ h

theorem rf_updateIrq_other (m : Mach) (c d : Chip) (h : d ≠ c) : (m.updateIrq c).rf d = m.rf d := by
  cases c <;> simp only [updateIrq] <;> (repeat' split) <;> simp [rf_setRf_other _ _ _ _ h]

theorem rf_setIntBit_other (m : Mach) (c d : Chip) (p b : Nat) (h : d ≠ c) : (m.setIntBit c p b).rf d = m.rf d := by
  simp [setIntBit, rf_updateIrq_other _ _ _ h, rf_setWord_other _ _ _ _ _ h]

theorem rf_logError_other (m : Mach) (c e : Chip) (p b d : Nat) (h : e ≠ c) : (m.logError c p b d).rf e = m.rf e := by
  simp only [logError, setReg]; split <;> simp [rf_setWord_other _ _ _ _ _ h]

theorem rf_ringStore_ep (m : Mach) (d p t b x : Nat) : (m.ringStore d p t b x).rf .ep = m.rf .ep := by
  have h (n : Mach) (k : Nat) (v : Word) : (n.setWord .sx k v).rf .ep = n.rf .ep :=
    rf_setWord_other _ _ _ _ _ (by decide)
  simp only [ringStore, setTWord, setFld]; split <;> simp [h]

theorem rf_ringFreeze_ep (m : Mach) (d : Nat) : (m.ringFreeze d).rf .ep = m.rf .ep := by
  have h (n : Mach) (k : Nat) (v : Word) : (n.setWord .sx k v).rf .ep = n.rf .ep :=
    rf_setWord_other _ _ _ _ _ (by decide)
  simp only [ringFreeze, rf_ite, rf_ringStore_ep]
  simp only [setFld, bump, bumpBy, h, rf_setIntBit_other _ .sx .ep _ _ (by decide), ite_self]

theorem rf_trace_ep (m : Mach) (p t b d : Nat) : (m.trace p t b d).rf .ep = m.rf .ep := by
  have h (n : Mach) (k : Nat) (v : Word) : (n.setWord .sx k v).rf .ep = n.rf .ep :=
    rf_setWord_other _ _ _ _ _ (by decide)
  simp only [trace, rf_ite, rf_ringStore_ep, rf_ringFreeze_ep]
  simp only [bump, bumpBy, h, rf_ringFreeze_ep, ite_self]

theorem rf_raise_other (m : Mach) (c e : Chip) (p b d : Nat) (h : e ≠ c) : (m.raise c p b d).rf e = m.rf e := by
  have hr : (match pageKind (m.setIntBit c p b).epParams c p with
      | some k => if errorSeverity k b then (m.setIntBit c p b).logError c p b d else m.setIntBit c p b
      | none => m.setIntBit c p b).rf e = m.rf e := by
    split
    · split <;> simp [rf_logError_other _ _ _ _ _ _ h, rf_setIntBit_other _ _ _ _ _ h]
    · exact rf_setIntBit_other _ _ _ _ _ h
  cases c <;> cases e <;> first | exact absurd rfl h | skip
  · exact (rf_trace_ep ..).trans hr
  · exact hr

/-! ### An event once raised stands -/

theorem event_setWord_trace (m : Mach) (u a : Nat) (v : Word) (p b : Nat) (ha : a < 2 ^ 44) (hu : u < 16)
    (h : u ≠ 0 ∨ a ≠ R.intStatus) : (m.setWord .sx (item Pg.trace u a) v).event .sx p b = m.event .sx p b :=
  event_setWord _ _ _ _ _ _ fun e => by
    have := (item_inj (by decide) ha (by decide) hu).1 e
    rcases h with h | h
    · exact h this.2.1.symm
    · exact h this.2.2.symm

theorem event_logError (m : Mach) (c : Chip) (p b d q i : Nat) :
    (m.logError c p b d).event c q i = m.event c q i := by
  have h (n : Mach) (o : Nat) (v : Word) (ho : o < 2 ^ 44) (hne : o ≠ R.intStatus) :
      (n.setWord c (item p 0 o) v).event c q i = n.event c q i :=
    event_setWord _ _ _ _ _ _ fun e => hne ((item_inj (by decide) ho (by decide) (by decide)).1 e).2.2.symm
  have h0 (n : Mach) (v : Word) := h n R.errLog0 v (by decide) (by decide)
  have h1 (n : Mach) (v : Word) := h n R.errLog1 v (by decide) (by decide)
  have h2 (n : Mach) (v : Word) := h n R.errLog2 v (by decide) (by decide)
  have h3 (n : Mach) (v : Word) := h n R.errLog3 v (by decide) (by decide)
  simp only [logError, setReg]; split <;> simp only [h0, h1, h2, h3]

theorem event_ringStore (m : Mach) (d p t b x q i : Nat) (hd : d < 2) :
    (m.ringStore d p t b x).event .sx q i = m.event .sx q i := by
  have hw : m.ringWr d < 4096 := by simp only [ringWr, fld, bitsOf]; omega
  have h1 (n : Mach) (j : Nat) (v : Word) (hj : j < 4) :
      (n.setWord .sx (item Pg.trace 1 (16384 * d + 4 * m.ringWr d + j)) v).event .sx q i = n.event .sx q i :=
    event_setWord_trace _ _ _ _ _ _ (by omega) (by decide) (.inl (by decide))
  have h1' (n : Mach) (v : Word) := h1 n 0 v (by decide)
  have hs (n : Mach) (v : Word) : (n.setWord .sx (item Pg.trace 0 R.trcStatus) v).event .sx q i = n.event .sx q i :=
    event_setWord_trace _ _ _ _ _ _ (by decide) (by decide) (.inr (by decide))
  simp only [Nat.add_zero] at h1'
  simp only [ringStore, setTWord, setFld]
  split <;> simp only [hs, h1', h1 _ 1 _ (by decide), h1 _ 2 _ (by decide), h1 _ 3 _ (by decide)]

theorem event_lost (m : Mach) (q i : Nat) : (m.bump .sx Pg.trace R.trcLostCnt).event .sx q i = m.event .sx q i :=
  event_setWord_trace _ _ _ _ _ _ (by decide) (by decide) (.inr (by decide))

theorem event_ringFreeze (m : Mach) (d q i : Nat) (hi : i < 32) (h : m.event .sx q i = true) :
    (m.ringFreeze d).event .sx q i = true := by
  have hs : (m.setFld .sx Pg.trace ⟨R.trcStatus, 26 + d, 1⟩ 1).event .sx q i = m.event .sx q i :=
    event_setWord_trace m 0 R.trcStatus _ _ _ (by decide) (by decide) (.inr (by decide))
  simp only [ringFreeze]
  split
  · rw [event_ringStore _ _ _ _ _ _ _ _ (by decide), event_setIntBit _ _ _ _ _ _ hi, hs, h, Bool.true_or]
  · rw [event_lost, event_setIntBit _ _ _ _ _ _ hi, hs, h, Bool.true_or]

theorem event_trace (m : Mach) (p t b d q i : Nat) (hi : i < 32) (h : m.event .sx q i = true) :
    (m.trace p t b d).event .sx q i = true := by
  have hst := event_ringStore m (dieOfPage p) p t b d q i (dieOfPage_lt p)
  have ite (P : Prop) [Decidable P] (a e : Mach) (ha : a.event .sx q i = true) (he : e.event .sx q i = true) :
      (if P then a else e).event .sx q i = true := by split <;> assumption
  exact ite _ _ _ h (ite _ _ _ h (ite _ _ _ ((event_lost ..).trans h) (ite _ _ _ ((event_lost ..).trans h)
    (ite _ _ _ ((event_lost ..).trans (event_ringFreeze _ _ _ _ hi h))
      (ite _ _ _ (event_ringFreeze _ _ _ _ hi (hst.trans h)) (hst.trans h))))))

/-- Raising an event sets its bit, and every event that stood still stands. -/
theorem event_raise (m : Mach) (c : Chip) (p b d q i : Nat) (hi : i < 32)
    (h : m.event c q i = true ∨ (p = q ∧ b = i)) : (m.raise c p b d).event c q i = true := by
  have h1 : (m.setIntBit c p b).event c q i = true := by
    rw [event_setIntBit _ _ _ _ _ _ hi]
    rcases h with h | ⟨rfl, rfl⟩ <;> simp [*]
  have h2 : (match pageKind (m.setIntBit c p b).epParams c p with
      | some k => if errorSeverity k b then (m.setIntBit c p b).logError c p b d else m.setIntBit c p b
      | none => m.setIntBit c p b).event c q i = true := by
    split
    · split
      · rw [event_logError, h1]
      · exact h1
    · exact h1
  cases c
  · exact event_trace _ _ _ _ _ _ _ hi h2
  · exact h2

end Mach

end Sys2Proof.Machine
end

