-- ==== Sys2Proof/Laws/Fields.lean ====
section
/-! SUPPORT. Fields of a register word: a field that is set reads back, and the fields beside it stay. -/

set_option Elab.async false

namespace Sys2Proof.Machine
open Sys2Proof

/-- A bit of a field. -/
theorem testBit_bitsOf (n lo w i : Nat) : (bitsOf n lo w).testBit i = (decide (i < w) && n.testBit (lo + i)) := by
  rw [bitsOf, Nat.testBit_mod_two_pow, Nat.testBit_div_two_pow, Nat.add_comm]

/-- A bit of a word with one field replaced. -/
theorem testBit_withField (w : Word) (lo n v i : Nat) (h : lo + n ≤ 32) :
    (Mach.withField w lo n v).toNat.testBit i
      = if lo ≤ i ∧ i < lo + n then v.testBit (i - lo) else w.toNat.testBit i := by
  have hp (x j : Nat) : (place x lo n).testBit j = (decide (lo ≤ j) && decide (j < lo + n) && x.testBit (j - lo)) := by
    rw [place, Nat.testBit_mul_two_pow, Nat.testBit_mod_two_pow]
    by_cases h1 : lo ≤ j
    · have : decide (j - lo < n) = decide (j < lo + n) := decide_eq_decide.2 (by omega)
      simp [h1, this]
    · simp [h1]
  have hw : i ≥ 32 → w.toNat.testBit i = false := fun hi =>
    Nat.testBit_lt_two_pow (Nat.lt_of_lt_of_le w.isLt (Nat.pow_le_pow_right (by decide) hi))
  unfold Mach.withField
  rw [BitVec.toNat_or, BitVec.toNat_and, Nat.testBit_or, Nat.testBit_and]
  have e1 : (BitVec.ofNat 32 (place v lo n)).toNat.testBit i
      = (decide (lo ≤ i) && decide (i < lo + n) && v.testBit (i - lo)) := by
    rw [BitVec.toNat_ofNat, Nat.testBit_mod_two_pow, hp]
    by_cases h1 : i < lo + n
    · simp [h1, show i < 32 by omega]
    · simp [h1]
  have e2 : (~~~(BitVec.ofNat 32 (place (2 ^ n - 1) lo n))).toNat.testBit i
      = (decide (i < 32) && !(decide (lo ≤ i) && decide (i < lo + n))) := by
    rw [BitVec.testBit_toNat, BitVec.getLsbD_not, ← BitVec.testBit_toNat, BitVec.toNat_ofNat, Nat.testBit_mod_two_pow, hp,
      Nat.testBit_two_pow_sub_one]
    by_cases h1 : i < 32
    · by_cases h2 : lo ≤ i
      · by_cases h3 : i < lo + n
        · simp [h1, h2, h3, show i - lo < n by omega]
        · simp [h1, h2, h3]
      · simp [h1, h2]
    · simp [h1]
  rw [e1, e2]
  by_cases h1 : lo ≤ i ∧ i < lo + n
  · simp [h1]
  · rw [if_neg h1]
    have h2 : (decide (lo ≤ i) && decide (i < lo + n)) = false := by
      rw [← Bool.decide_and]; exact decide_eq_false h1
    by_cases h3 : i < 32
    · simp [h2, h3]
    · simp [h2, h3, hw (by omega)]

/-- The field that was set reads as its value. -/
theorem bitsOf_withField (w : Word) (lo n v : Nat) (h : lo + n ≤ 32) :
    bitsOf (Mach.withField w lo n v).toNat lo n = v % 2 ^ n := by
  apply Nat.eq_of_testBit_eq
  intro i
  rw [testBit_bitsOf, testBit_withField _ _ _ _ _ h, Nat.testBit_mod_two_pow]
  by_cases hi : i < n
  · simp [hi]
  · simp [hi]

/-- A field beside it reads as before. -/
theorem bitsOf_withField_other (w : Word) (lo n v a k : Nat) (h : lo + n ≤ 32) (ho : a + k ≤ lo ∨ lo + n ≤ a) :
    bitsOf (Mach.withField w lo n v).toNat a k = bitsOf w.toNat a k := by
  apply Nat.eq_of_testBit_eq
  intro i
  rw [testBit_bitsOf, testBit_bitsOf, testBit_withField _ _ _ _ _ h]
  by_cases hi : i < k
  · rw [if_neg (by omega)]
  · simp [hi]

namespace Mach

/-- The word of a field after it was set. -/
theorem word_setFld (m : Mach) (c : Chip) (p : Nat) (f : Fld) (v j : Nat) :
    (m.setFld c p f v).word c j
      = if j = item p 0 f.off then withField (m.word c (item p 0 f.off)) f.lo f.w v else m.word c j := by
  simp only [setFld, word_setWord]

theorem word_setReg (m : Mach) (c : Chip) (p o v j : Nat) :
    (m.setReg c p o v).word c j = if j = item p 0 o then BitVec.ofNat 32 v else m.word c j := by
  simp only [setReg, word_setWord]

/-- What a counter reads as after it has counted: one more, up to its greatest value (R643). -/
theorem word_bump (m : Mach) (c : Chip) (p o : Nat) :
    ((m.bump c p o).word c (item p 0 o)).toNat = min ((m.word c (item p 0 o)).toNat + 1) 0xFFFFFFFF := by
  simp only [bump, bumpBy, word_setWord, if_true, BitVec.toNat_ofNat]
  omega

theorem regsKept_setFld (m : Mach) (c : Chip) (p : Nat) (f : Fld) (v : Nat) (g : Nat → Bool)
    (h : g (item p 0 f.off) = true) : m.regsKept (m.setFld c p f v) c g := regsKept_setWord _ _ _ _ _ h

theorem rf_setFld_other (m : Mach) (c d : Chip) (p : Nat) (f : Fld) (v : Nat) (h : d ≠ c) :
    (m.setFld c p f v).rf d = m.rf d := rf_setWord_other _ _ _ _ _ h

theorem rf_bump_other (m : Mach) (c d : Chip) (p o : Nat) (h : d ≠ c) : (m.bump c p o).rf d = m.rf d :=
  rf_setWord_other _ _ _ _ _ h

end Mach

/-! ### Frames of commands -/

/-- A command whose machine is `n` gives what `n` gives. -/
theorem becomes_of {s : State} {n m : Mach} {c : Chip} {f : Nat → Bool} (hb : n.bare = m.bare)
    (hk : s.m.regsKept n c f) (ho : n.rf (otherChip c) = s.m.rf (otherChip c)) :
    s.becomes { s with m := n } m c f := ⟨hb, hk, ho, rfl, rfl⟩

/-- Raising an event last. -/
theorem becomes_raise {s : State} {n m : Mach} {c : Chip} {f : Nat → Bool} (p b d : Nat) (hb : n.bare = m.bare)
    (hk : s.m.regsKept n c f) (ho : n.rf (otherChip c) = s.m.rf (otherChip c)) :
    s.becomes { s with m := n.raise c p b d } m c (fun k => eventWord p k || f k) := by
  refine becomes_of ((Mach.raise_bare ..).trans hb) ?_ ?_
  · refine Mach.regsKept.trans (hk.mono fun k h => ?_) ((Mach.regsKept_raise ..).or _)
    simp only [Bool.or_eq_false_iff] at h; exact h.2
  · rw [Mach.rf_raise_other _ _ _ _ _ _ (by cases c <;> decide), ho]

namespace Mach

/-! ### What governs, where a register file is kept -/

theorem upsets_of_kept {m n : Mach} {c : Chip} {f : Nat → Bool} (h : m.regsKept n c f) :
    (n.rf c).upsets = (m.rf c).upsets := by rw [h.1]

theorem shadow_of_kept {m n : Mach} {c : Chip} {f : Nat → Bool} (h : m.regsKept n c f) (hp : n.epParams = m.epParams)
    (k : Nat) : n.shadow c k = m.shadow c k := by simp only [shadow, hp]; rw [h.1]

theorem liveCopy_of_kept {m n : Mach} {c : Chip} {f : Nat → Bool} (h : m.regsKept n c f) (hp : n.epParams = m.epParams)
    (k : Nat) : n.liveCopy c k = m.liveCopy c k := by simp only [liveCopy, hp]; rw [h.1]

/-- A word that was not touched governs as it did. -/
theorem live_of_kept {m n : Mach} {c : Chip} {f : Nat → Bool} (h : m.regsKept n c f) (hp : n.epParams = m.epParams)
    (k : Nat) (hk : f k = false) : n.live c k = m.live c k := by
  simp only [live, voted, upsets_of_kept h, liveCopy_of_kept h hp, hp, h.2 k hk]

theorem fld_of_kept {m n : Mach} {c : Chip} {f : Nat → Bool} (h : m.regsKept n c f) (hp : n.epParams = m.epParams)
    (p : Nat) (g : Fld) (hk : f (item p 0 g.off) = false) : n.fld c p g = m.fld c p g := by
  simp only [fld, live_of_kept h hp _ hk]

/-! ### Timing status (R63, R73) -/

theorem regsKept_putTime (m : Mach) (t : Timing) (f : Nat → Bool) (h : f (item Pg.stitch 0 R.sthStatus) = true) :
    m.regsKept (m.putTime t) .sx f := by
  have h0 : m.regsKept { m with time := t } .sx f := .refl ..
  exact ((h0.trans (regsKept_setFld _ _ _ _ _ _ h)).trans (regsKept_setFld _ _ _ _ _ _ h)).trans
    (regsKept_setFld _ _ _ _ _ _ h)

theorem rf_putTime_ep (m : Mach) (t : Timing) : (m.putTime t).rf .ep = m.rf .ep := by
  simp only [putTime]
  simp only [rf_setFld_other _ .sx .ep _ _ _ (by decide)]
  rfl

theorem regsKept_putEpTime (m : Mach) (t : EpTiming) (f : Nat → Bool)
    (h : f (item Pg.eTim 0 F.ep4TimStatus_state.off) = true) : m.regsKept (m.putEpTime t) .ep f := by
  have h0 : m.regsKept { m with epTime := t } .ep f := .refl ..
  exact h0.trans (regsKept_setFld _ _ _ _ _ _ h)

theorem rf_putEpTime_sx (m : Mach) (t : EpTiming) : (m.putEpTime t).rf .sx = m.rf .sx :=
  rf_setFld_other _ .ep .sx _ _ _ (by decide)

end Mach

end Sys2Proof.Machine
end

