-- ==== Sys2Proof/Laws/Steps.lean ====
section
/-! SUPPORT. How a command's meaning becomes its outcome: the wrappers that every meaning goes through, and what the EP-4's
engines do when they have nothing in progress. -/

set_option Elab.async false

namespace Sys2Proof.Machine
open Sys2Proof

theorem unit_true (o : Host.Outcome State Fault Refusal) : State.unit true o = o := rfl

@[simp] theorem ran_pending (s : State) (c : Chip) (m : Mach) : (s.ran c m).pending = s.pending := by cases c <;> rfl

/-- With nothing in progress the engines do nothing. -/
theorem epRun_idle (x : SM) (h : x.2.epIdle) : SM.epRun x = x := by
  obtain ⟨h1, h2, h3⟩ := h
  simp only [SM.epRun, h3, List.filter_nil, List.foldl_nil, h1, List.mergeSort_nil, Mach.epPump, h2, List.map_nil]

theorem epGoM_idle (s : State) (f : Mach → Mach) (h : (f s.m).epIdle) : s.epGoM f = .next { s with m := f s.m } := by
  simp only [State.epGoM, State.epGo, State.goS, epRun_idle (s.store, f s.m) h]

theorem ran_sx (s : State) (m : Mach) : s.ran .sx m = { s with m := m } := rfl

theorem ran_ep_idle (s : State) (m : Mach) (h : m.epIdle) : s.ran .ep m = { s with m := m } := by
  simp only [State.ran, epRun_idle (s.store, m) h]

/-- A command of a port that exists, on an SX-4 whose core runs or an EP-4 whose engines rest. -/
theorem onPort_eq (s : State) (c : Chip) (p : Nat) (f : Mach → Mach) (hp : s.m.hasPort c p = true)
    (hx : c = .sx → s.m.boot.off = false) (he : c = .ep → (f s.m).epIdle) :
    s.onPort c p f = .next { s with m := f s.m } := by
  cases c
  · simp [State.onPort, hp, unit_true, State.go, hx rfl]
  · simp only [State.onPort, hp, unit_true, epGoM_idle s f (he rfl)]

namespace Mach

theorem epIdle_bare (m : Mach) : m.bare.epIdle ↔ m.epIdle := Iff.rfl

theorem epIdle_congr {m n : Mach} (h : n.ep = m.ep) (hm : m.epIdle) : n.epIdle := by
  unfold epIdle at *; rwa [h]

end Mach

end Sys2Proof.Machine
end

