-- ==== Sys2Proof/Laws/Links.lean ====
section
/-! SUPPORT. What the operations on links do: each changes the link of its port, and of the registers the words of the
port's lanes at most. -/
set_option Elab.async false

namespace Sys2Proof.Machine
open Sys2Proof

namespace Tbl
variable {α : Type}

theorem erase_of_none {t : Tbl α} {k : Nat} (h : ∀ e ∈ t, e.1 ≠ k) : erase t k = t := by
  induction t with
  | nil => rfl
  | cons e t ih =>
    have h1 := h e (by simp)
    simp only [erase, if_neg h1, ih fun x hx => h x (by simp [hx])]

theorem erase_erase (t : Tbl α) (k : Nat) : erase (erase t k) k = erase t k := erase_of_none fun e he => (erase_keys t k e he).1

theorem erase_insert (t : Tbl α) (k : Nat) (v : α) (h : ∀ e ∈ t, e.1 ≠ k) : erase (insert t k v) k = t := by
  induction t with
  | nil => simp [insert, erase]
  | cons e t ih =>
    have h1 := h e (by simp)
    simp only [insert]
    split
    · have h2 := erase_of_none (t := t) fun x hx => h x (List.mem_cons_of_mem _ hx)
      simp only [erase, if_true, if_neg h1, h2]
    · simp only [erase, if_neg h1, ih fun x hx => h x (by simp [hx])]

/-- Of two writes of one key the last one stands. -/
@[simp] theorem set_set [DecidableEq α] (d : Nat → α) (t : Tbl α) (k : Nat) (v w : α) : set d (set d t k v) k w = set d t k w := by
  have h : erase (set d t k v) k = erase t k := by
    unfold set; split
    · exact erase_erase t k
    · exact erase_insert _ _ _ fun e he => (erase_keys t k e he).1
  simp only [set] at h ⊢
  rw [h]

end Tbl

namespace Mach

@[simp] theorem lk_setLk (m : Mach) (c : Chip) (p : Nat) (l : Link) (q : Nat) :
    (m.setLk c p l).lk c q = if q = p then l else m.lk c q := by
  cases c <;> simp [lk, setLk, Tbl.get_set]

theorem lk_setLk_other (m : Mach) (c d : Chip) (p q : Nat) (l : Link) (h : d ≠ c) :
    (m.setLk c p l).lk d q = m.lk d q := by
  cases c <;> cases d <;> first | rfl | exact absurd rfl h

@[simp] theorem setLk_setLk (m : Mach) (c : Chip) (p : Nat) (l k : Link) :
    (m.setLk c p l).setLk c p k = m.setLk c p k := by
  cases c <;> simp [setLk]

theorem setLk_bare (m : Mach) (c : Chip) (p : Nat) (l : Link) : (m.setLk c p l).bare = m.bare.setLk c p l := by
  cases c <;> rfl
theorem bare_lk (m : Mach) (c : Chip) (p : Nat) : m.bare.lk c p = m.lk c p := by cases c <;> rfl

/-- Links are outside the register files: what keeps the bare machine keeps them. -/
theorem lk_congr {m n : Mach} (h : n.bare = m.bare) (c : Chip) (p : Nat) : n.lk c p = m.lk c p := by
  rw [← bare_lk, h, bare_lk]

@[simp] theorem rf_setLk (m : Mach) (c d : Chip) (p : Nat) (l : Link) : (m.setLk c p l).rf d = m.rf d := by
  cases c <;> cases d <;> rfl
@[simp] theorem setLk_epParams (m : Mach) (c : Chip) (p : Nat) (l : Link) : (m.setLk c p l).epParams = m.epParams := by
  cases c <;> rfl
@[simp] theorem setLk_ep (m : Mach) (c : Chip) (p : Nat) (l : Link) : (m.setLk c p l).ep = m.ep := by cases c <;> rfl
@[simp] theorem setLk_out (m : Mach) (c : Chip) (p : Nat) (l : Link) : (m.setLk c p l).out = m.out := by cases c <;> rfl
@[simp] theorem word_setLk (m : Mach) (c d : Chip) (p : Nat) (l : Link) (k : Nat) :
    (m.setLk c p l).word d k = m.word d k := by
  simp [word]
@[simp] theorem event_setLk (m : Mach) (c d : Chip) (p : Nat) (l : Link) (q b : Nat) :
    (m.setLk c p l).event d q b = m.event d q b := by
  simp [event]
@[simp] theorem emit_out (m : Mach) (o : Out) : (m.emit o).out = o :: m.out := rfl
@[simp] theorem emit_lk (m : Mach) (o : Out) (c : Chip) (p : Nat) : (m.emit o).lk c p = m.lk c p := by cases c <;> rfl
@[simp] theorem emit_ep (m : Mach) (o : Out) : (m.emit o).ep = m.ep := rfl
theorem bare_ep (m : Mach) : m.bare.ep = m.ep := rfl
theorem ep_congr {m n : Mach} (h : n.bare = m.bare) : n.ep = m.ep := by rw [← bare_ep, h, bare_ep]

@[simp] theorem setWord_out (m : Mach) (c : Chip) (k : Nat) (v : Word) : (m.setWord c k v).out = m.out := by
  cases c <;> rfl
@[simp] theorem setFld_out (m : Mach) (c : Chip) (p : Nat) (f : Fld) (v : Nat) : (m.setFld c p f v).out = m.out :=
  setWord_out ..
@[simp] theorem setTFld_out (m : Mach) (c : Chip) (p u n e : Nat) (f : Fld) (v : Nat) :
    (m.setTFld c p u n e f v).out = m.out := setWord_out ..
@[simp] theorem bump_out (m : Mach) (c : Chip) (p o : Nat) : (m.bump c p o).out = m.out := setWord_out ..

/-! ### One thing after another -/

theorem regsKept.emit {m n : Mach} {c : Chip} {f : Nat → Bool} (h : m.regsKept n c f) (o : Out) :
    m.regsKept (n.emit o) c f := h.trans (regsKept_emit ..)
theorem regsKept.setLk {m n : Mach} {c : Chip} {f : Nat → Bool} (h : m.regsKept n c f) (d : Chip) (p : Nat) (l : Link) :
    m.regsKept (n.setLk d p l) c f :=
  h.trans ⟨by simp, fun k _ => by simp⟩
theorem regsKept.setWord {m n : Mach} {c : Chip} {f : Nat → Bool} (h : m.regsKept n c f) (k : Nat) (v : Word)
    (hf : f k = true) : m.regsKept (n.setWord c k v) c f := h.trans (regsKept_setWord _ _ _ _ _ hf)
theorem regsKept.bump {m n : Mach} {c : Chip} {f : Nat → Bool} (h : m.regsKept n c f) (p o : Nat)
    (hf : f (item p 0 o) = true) : m.regsKept (n.bump c p o) c f := h.trans (regsKept_bump _ _ _ _ _ hf)
theorem regsKept.raise {m n : Mach} {c : Chip} {f : Nat → Bool} (h : m.regsKept n c f) (p b d : Nat)
    (hf : ∀ k, eventWord p k = true → f k = true) : m.regsKept (n.raise c p b d) c f :=
  h.trans ((regsKept_raise ..).mono fun k hk => by
    cases he : eventWord p k with
    | false => rfl
    | true => rw [hf k he] at hk; exact hk)

/-! ### Lanes -/

theorem laneWord_own (p k o : Nat) (hk : k < 4) (ho : o < 8) :
    laneWord .sx p (item (Pg.serdes ((4 * p + k) / 144)) 1 (8 * ((4 * p + k) % 144) + o)) = true := by
  have h1 : (4 * p + k) / 144 = 4 * p / 144 := by omega
  have h2 : (4 * p + k) % 144 = 4 * p % 144 + k := by omega
  simp only [laneWord, h1, h2, beq_self_eq_true, Bool.true_and, List.any_eq_true, List.mem_range, beq_iff_eq]
  exact ⟨8 * k + o, by omega, by congr 1; omega⟩

theorem regsKept_laneSet (m : Mach) (p k : Nat) (f : Fld) (v : Nat) (hk : k < 4) (hf : f.off < 8) :
    m.regsKept (m.laneSet p k f v) .sx (laneWord .sx p) :=
  regsKept_setWord m .sx _ _ (laneWord .sx p) (by
    have h2 : (4 * p + k) % 144 < 144 := Nat.mod_lt _ (by decide)
    exact laneWord_own p k f.off hk hf)

@[simp] theorem laneSet_bare (m : Mach) (p k : Nat) (f : Fld) (v : Nat) : (m.laneSet p k f v).bare = m.bare :=
  setTFld_bare ..
@[simp] theorem laneSet_out (m : Mach) (p k : Nat) (f : Fld) (v : Nat) : (m.laneSet p k f v).out = m.out :=
  setTFld_out ..
theorem laneSet_rf_ep (m : Mach) (p k : Nat) (f : Fld) (v : Nat) : (m.laneSet p k f v).rf .ep = m.rf .ep :=
  rf_setWord_other m .sx .ep _ _ (by decide)

/-- Showing lanes changes nothing but the port's lane words. -/
@[simp] theorem showLanes_bare (m : Mach) (c : Chip) (p : Nat) : (m.showLanes c p).bare = m.bare := by
  cases c
  · simp only [showLanes, show List.range 4 = [0, 1, 2, 3] from rfl, List.foldl, laneSet_bare]
  · rfl
@[simp] theorem showLanes_out (m : Mach) (c : Chip) (p : Nat) : (m.showLanes c p).out = m.out := by
  cases c
  · simp only [showLanes, show List.range 4 = [0, 1, 2, 3] from rfl, List.foldl, laneSet_out]
  · rfl
theorem regsKept_showLanes (m : Mach) (c : Chip) (p : Nat) : m.regsKept (m.showLanes c p) c (laneWord c p) := by
  cases c
  · have h (n : Mach) (k a b : Nat) (hk : k < 4) : n.regsKept ((n.laneSet p k F.lane_state a).laneSet p k F.lane_lock b) .sx
        (laneWord .sx p) := (regsKept_laneSet n p k _ _ hk (by decide)).trans (regsKept_laneSet _ p k _ _ hk (by decide))
    simp only [showLanes, show List.range 4 = [0, 1, 2, 3] from rfl, List.foldl]
    exact (((h _ 0 _ _ (by decide)).trans (h _ 1 _ _ (by decide))).trans (h _ 2 _ _ (by decide))).trans
      (h _ 3 _ _ (by decide))
  · exact .refl ..
theorem showLanes_rf_other (m : Mach) (c : Chip) (p : Nat) :
    (m.showLanes c p).rf (otherChip c) = m.rf (otherChip c) := by
  cases c
  · simp only [showLanes, show List.range 4 = [0, 1, 2, 3] from rfl, List.foldl, otherChip, laneSet_rf_ep]
  · rfl
@[simp] theorem showLanes_lk (m : Mach) (c d : Chip) (p q : Nat) : (m.showLanes c p).lk d q = m.lk d q :=
  lk_congr (showLanes_bare ..) d q
theorem regsKept.showLanes {m n : Mach} {c : Chip} {f : Nat → Bool} (h : m.regsKept n c f) (p : Nat)
    (hf : ∀ k, laneWord c p k = true → f k = true) : m.regsKept (n.showLanes c p) c f :=
  h.trans ((regsKept_showLanes ..).mono fun k hk => by
    cases he : laneWord c p k with
    | false => rfl
    | true => rw [hf k he] at hk; exact hk)

theorem otherChip_ne (c : Chip) : otherChip c ≠ c := by cases c <;> decide
theorem other_setWord (m : Mach) (c : Chip) (k : Nat) (v : Word) :
    (m.setWord c k v).rf (otherChip c) = m.rf (otherChip c) := rf_setWord_other _ _ _ _ _ (otherChip_ne c)
theorem other_bump (m : Mach) (c : Chip) (p o : Nat) : (m.bump c p o).rf (otherChip c) = m.rf (otherChip c) :=
  other_setWord ..
theorem other_raise (m : Mach) (c : Chip) (p b d : Nat) :
    (m.raise c p b d).rf (otherChip c) = m.rf (otherChip c) := rf_raise_other _ _ _ _ _ _ (otherChip_ne c)

/-! ### Events and counters among other writes -/

theorem word_of_kept {m n : Mach} {c : Chip} {f : Nat → Bool} (h : m.regsKept n c f) (k : Nat) (hk : f k = false) :
    n.word c k = m.word c k := h.2 k hk

/-- Raising an event keeps a counter of its page, which is neither its status nor its error log. -/
theorem word_raise (m : Mach) (c : Chip) (p b d k : Nat) (h : eventWord p k = false) :
    (m.raise c p b d).word c k = m.word c k := (regsKept_raise m c p b d).2 k h

theorem laneWord_page {c : Chip} {p k : Nat} (h : laneWord c p k = true) : itemSel k = 1 := by
  simp only [laneWord, Bool.and_eq_true, List.any_eq_true, List.mem_range, beq_iff_eq] at h
  obtain ⟨_, i, hi, rfl⟩ := h
  exact item_sel _ _ _ (by omega) (by decide)

theorem laneWord_direct (c : Chip) (p q a : Nat) (ha : a < 2 ^ 44) : laneWord c p (item q 0 a) = false := by
  cases h : laneWord c p (item q 0 a) with
  | false => rfl
  | true => have := laneWord_page h; rw [item_sel _ _ _ ha (by decide)] at this; exact absurd this (by decide)

end Mach

end Sys2Proof.Machine
end

