-- ==== Sys2Proof/Laws/Timing.lean ====
section
/-! SUPPORT. What a stitch boundary leaves of the stitch counters, and the frames of STITCH_IN and STITCH_OUT. -/

set_option Elab.async false

namespace Sys2Proof.Machine
open Sys2Proof

/-- A property of the machine that every step of a fold keeps. -/
theorem foldl_keep {α β : Type} (g : Mach → β) (f : Mach → α → Mach) (h : ∀ m a, g (f m a) = g m) (l : List α) (m : Mach) :
    g (l.foldl f m) = g m := by
  induction l generalizing m with
  | nil => rfl
  | cons a l ih => rw [List.foldl_cons, ih, h]

namespace Mach

/-! ### Operations that leave the counters alone -/

theorem time_of_bare {m n : Mach} (h : n.bare = m.bare) : n.time = m.time := by
  rw [← bare_time, h, bare_time]

theorem epTime_of_bare {m n : Mach} (h : n.bare = m.bare) : n.epTime = m.epTime := by
  rw [← bare_epTime, h, bare_epTime]

@[simp] theorem setFld_time (m : Mach) (c : Chip) (p : Nat) (f : Fld) (v : Nat) : (m.setFld c p f v).time = m.time :=
  time_of_bare (setFld_bare ..)
@[simp] theorem setWord_time (m : Mach) (c : Chip) (k : Nat) (v : Word) : (m.setWord c k v).time = m.time :=
  time_of_bare (setWord_bare ..)
@[simp] theorem bump_time (m : Mach) (c : Chip) (p o : Nat) : (m.bump c p o).time = m.time := time_of_bare (bump_bare ..)
@[simp] theorem raise_time (m : Mach) (c : Chip) (p b d : Nat) : (m.raise c p b d).time = m.time :=
  time_of_bare (raise_bare ..)
@[simp] theorem emit_time (m : Mach) (o : Out) : (m.emit o).time = m.time := rfl
@[simp] theorem setPower_time (m : Mach) (p : PowerRun) : (m.setPower p).time = m.time := rfl
@[simp] theorem setMap_time (m : Mach) (k : Nat) (x : MapAcct) : (m.setMap k x).time = m.time := rfl
@[simp] theorem setLk_time (m : Mach) (c : Chip) (p : Nat) (l : Link) : (m.setLk c p l).time = m.time := by
  cases c <;> rfl
@[simp] theorem setEp_time (m : Mach) (e : EpSt) : (m.setEp e).time = m.time := rfl
@[simp] theorem putEpTime_time (m : Mach) (t : EpTiming) : (m.putEpTime t).time = m.time := by simp [putEpTime]

@[simp] theorem putTime_time (m : Mach) (t : Timing) : (m.putTime t).time = t := by simp [putTime]

@[simp] theorem setFld_epTime (m : Mach) (c : Chip) (p : Nat) (f : Fld) (v : Nat) :
    (m.setFld c p f v).epTime = m.epTime := epTime_of_bare (setFld_bare ..)
@[simp] theorem bump_epTime (m : Mach) (c : Chip) (p o : Nat) : (m.bump c p o).epTime = m.epTime :=
  epTime_of_bare (bump_bare ..)
@[simp] theorem raise_epTime (m : Mach) (c : Chip) (p b d : Nat) : (m.raise c p b d).epTime = m.epTime :=
  epTime_of_bare (raise_bare ..)
@[simp] theorem emit_epTime (m : Mach) (o : Out) : (m.emit o).epTime = m.epTime := rfl
@[simp] theorem setLk_epTime (m : Mach) (c : Chip) (p : Nat) (l : Link) : (m.setLk c p l).epTime = m.epTime := by
  cases c <;> rfl
@[simp] theorem setEp_epTime (m : Mach) (e : EpSt) : (m.setEp e).epTime = m.epTime := rfl
@[simp] theorem putEpTime_epTime (m : Mach) (t : EpTiming) : (m.putEpTime t).epTime = t := by simp [putEpTime]

theorem time_ite (p : Prop) [Decidable p] (a b : Mach) : (if p then a else b).time = if p then a.time else b.time := by
  split <;> rfl
theorem epTime_ite (p : Prop) [Decidable p] (a b : Mach) :
    (if p then a else b).epTime = if p then a.epTime else b.epTime := by split <;> rfl

@[simp] theorem setShedSrc_time (m : Mach) (i : Nat) (x : ShedSrc) : (m.setShedSrc i x).time = m.time := by
  unfold setShedSrc; dsimp only; split <;> simp

@[simp] theorem shedAsk_time (m : Mach) (i n : Nat) : (m.shedAsk i n).time = m.time := by simp [shedAsk]

@[simp] theorem powerTick_time (m : Mach) (a r : Nat) : (m.powerTick a r).time = m.time := by
  simp [powerTick, time_ite, calTake]

@[simp] theorem latchWeights_time (m : Mach) : m.latchWeights.time = m.time := by
  unfold latchWeights
  exact (foldl_keep (·.time) _ (fun n k => setWord_time n ..) _ _).trans (setRf_time ..)

@[simp] theorem mapTick_time (m : Mach) : m.mapTick.time = m.time := by
  unfold mapTick
  refine foldl_keep (·.time) _ (fun n a => ?_) _ m
  simp [time_ite]

@[simp] theorem sampleDrop_time (m : Mach) (c : Nat) : (m.sampleDrop c).time = m.time := by
  simp [sampleDrop, time_ite]

@[simp] theorem sampleTick_time (m : Mach) : m.sampleTick.time = m.time := by
  unfold sampleTick
  exact foldl_keep (·.time) _ (fun n _ => sampleDrop_time n _) _ _

@[simp] theorem returnCredit_time (m : Mach) (c : Chip) (p v n : Nat) : (m.returnCredit c p v n).time = m.time := by
  simp [returnCredit]

@[simp] theorem setOwed_time (m : Mach) (p v n : Nat) : (m.setOwed p v n).time = m.time := rfl

theorem releaseVc_time (p : Nat) (a : Mach × Nat) (v : Nat) : (releaseVc p a v).1.time = a.1.time := by
  unfold releaseVc; dsimp only
  split <;> simp [apply_ite Prod.fst, time_ite]

@[simp] theorem releaseOwed_time (m : Mach) : m.releaseOwed.time = m.time := by
  unfold releaseOwed
  refine foldl_keep (·.time) _ (fun n p => ?_) _ m
  have h (l : List Nat) (a : Mach × Nat) : (l.foldl (releaseVc p) a).1.time = a.1.time := by
    induction l generalizing a with
    | nil => rfl
    | cons v l ih => rw [List.foldl_cons, ih, releaseVc_time]
  dsimp only
  split
  · exact h _ _
  · exact h _ _

@[simp] theorem freezePage_time (m : Mach) (c : Chip) (p : Nat) : (m.freezePage c p).time = m.time := by
  unfold freezePage; split <;> simp

@[simp] theorem freezeRetired_time (m : Mach) : m.freezeRetired.time = m.time := by
  unfold freezeRetired
  exact foldl_keep (·.time) _ (fun n p => freezePage_time n _ _) _ m

@[simp] theorem sleepTick_time (m : Mach) (c : Chip) : (m.sleepTick c).time = m.time := by
  unfold sleepTick
  exact foldl_keep (·.time) _ (fun n p => by simp [time_ite]) _ m

@[simp] theorem setSent_time (m : Mach) (c : Chip) (p t : Nat) : (m.setSent c p t).time = m.time := by
  cases c <;> simp [setSent]

@[simp] theorem orderedSet_time (m : Mach) (c : Chip) (p : Nat) : (m.orderedSet c p).time = m.time := by
  simp [orderedSet, fresh]

@[simp] theorem linkBeats_time (m : Mach) (c : Chip) : (m.linkBeats c).time = m.time := by
  unfold linkBeats
  have h1 (l : List Nat) (n : Mach) : (l.foldl (fun (m : Mach) p => m.orderedSet c p) n).time = n.time :=
    foldl_keep (·.time) _ (fun n p => orderedSet_time n c p) l n
  have h2 (l : List Nat) (n : Mach) : (l.foldl (fun (m : Mach) p =>
      m.emit (.ctl c p (.keepalive (m.epochNow c % 256) (m.nodeOf c)))) n).time = n.time :=
    foldl_keep (·.time) _ (fun n _ => emit_time n _) l n
  simp only [time_ite, h1, h2, ite_self]

@[simp] theorem armTables_time (m : Mach) (c : Chip) : (m.armTables c).time = m.time := by simp [armTables]

@[simp] theorem stitchPulseOut_time (m : Mach) : m.stitchPulseOut.time = m.time := by
  simp [stitchPulseOut, time_ite]

/-- What a boundary leaves of the SX-4's stitch counter: what `advanceStitch` made of it. -/
theorem sxBoundary_time (m : Mach) (ph : Int) (a r : Nat) : (m.sxBoundary ph a r).time = (m.advanceStitch ph).time := by
  simp only [sxBoundary, time_ite, linkBeats_time, sleepTick_time, releaseOwed_time, sampleTick_time, mapTick_time,
    latchWeights_time, powerTick_time, freezeRetired_time, armTables_time, stitchPulseOut_time, ite_self]

/-! ### The EP-4's counter -/

@[simp] theorem setRates_epTime (m : Mach) (r : List RateEntry) : (m.setRates r).epTime = m.epTime := by simp [setRates]
@[simp] theorem rateRefill_epTime (m : Mach) : m.rateRefill.epTime = m.epTime := by simp [rateRefill]

@[simp] theorem applyClears_epTime (m : Mach) : m.applyClears.epTime = m.epTime := by
  unfold applyClears
  exact foldl_keep (·.epTime) _ (fun n c => setFld_epTime n ..) _ m

@[simp] theorem sleepTick_epTime (m : Mach) (c : Chip) : (m.sleepTick c).epTime = m.epTime := by
  unfold sleepTick
  exact foldl_keep (·.epTime) _ (fun n p => by simp [epTime_ite]) _ m

/-- Stitch number and cycle of the EP-4, and its state of timing. -/
def epCount (m : Mach) : Nat × Nat × TState := (m.epTime.number, m.epTime.cycle, m.epTime.st)

theorem epCount_ite (p : Prop) [Decidable p] (a b : Mach) :
    (if p then a else b).epCount = if p then a.epCount else b.epCount := by split <;> rfl

theorem epCount_of {m n : Mach} (h : n.epTime = m.epTime) : n.epCount = m.epCount := by simp [epCount, h]

theorem orderedSet_epCount (m : Mach) (p : Nat) : (m.orderedSet .ep p).epCount = m.epCount := by
  simp [orderedSet, fresh, setSent, epCount]

theorem linkBeats_epCount (m : Mach) : (m.linkBeats .ep).epCount = m.epCount := by
  unfold linkBeats
  have h1 (l : List Nat) (n : Mach) : (l.foldl (fun (m : Mach) p => m.orderedSet .ep p) n).epCount = n.epCount :=
    foldl_keep epCount _ (fun n p => orderedSet_epCount n p) l n
  have h2 (l : List Nat) (n : Mach) : (l.foldl (fun (m : Mach) p =>
      m.emit (.ctl .ep p (.keepalive (m.epochNow .ep % 256) (m.nodeOf .ep)))) n).epCount = n.epCount :=
    foldl_keep epCount _ (fun n _ => epCount_of (emit_epTime n _)) l n
  simp only [epCount_ite, h1, h2, ite_self]

@[simp] theorem sendData_epTime (m : Mach) (c : Chip) (p : Nat) (g : List (BitVec 128)) (a b d : Nat)
    (k : List (Nat × Nat)) : (m.sendData c p g a b d k).epTime = m.epTime := by simp [sendData]

@[simp] theorem sendGrans_epTime (n : Nat) (m : Mach) (c : Chip) (p : Nat) (k : List (Nat × Nat)) (a h : Bool)
    (gs : List (BitVec 128)) : (m.sendGrans c p k a h n gs).epTime = m.epTime := by
  induction n generalizing m a gs with
  | zero => rfl
  | succ n ih => simp only [sendGrans]; split <;> simp [ih]

@[simp] theorem sendWhole_epTime (m : Mach) (c : Chip) (p : Nat) (k : Packet) : (m.sendWhole c p k).epTime = m.epTime := by
  simp [sendWhole, takeCredit]

@[simp] theorem epSend_epTime (m : Mach) (p : Nat) (k : Packet) (o : List Nat) : (m.epSend p k o).epTime = m.epTime := by
  simp [epSend]

@[simp] theorem zlySend_epTime (m : Mach) (p x : Nat) : (m.zlySend p x).epTime = m.epTime := by
  have h (a : Mach) (k : Packet) : ((a.epSlotCharge p x k.granules).epSend p k []).epTime = a.epTime := by
    rw [epSend_epTime, epSlotCharge, setEp_epTime]
  unfold zlySend
  extract_lets e r k n
  exact (h _ k).trans (setEp_epTime ..)

@[simp] theorem zlySends_epTime (n : Nat) (m : Mach) (p u : Nat) : (m.zlySends p u n).epTime = m.epTime := by
  induction n generalizing m u with
  | zero => rfl
  | succ n ih =>
    simp only [zlySends]
    split
    · rfl
    · split
      · rw [ih, zlySend_epTime]
      · rfl

@[simp] theorem zlyTests_epTime (m : Mach) : m.zlyTests.epTime = m.epTime := by
  unfold zlyTests
  split
  · exact foldl_keep (·.epTime) _ (fun n p => by simp [epTime_ite]) _ m
  · rfl

@[simp] theorem armTables_epTime (m : Mach) (c : Chip) : (m.armTables c).epTime = m.epTime := by simp [armTables]

/-- What a boundary leaves of the EP-4's stitch counter. -/
theorem epBoundary_epCount (m : Mach) (ph : Int) :
    (m.epBoundary ph).epCount = ((m.epTime.number + 1) % 2 ^ 64, 0, m.epTime.st) := by
  have h (n : Mach) (a : Nat × Nat × TState) (hn : n.epCount = a) : (n.epAdvanceStitch ph).epCount
      = ((n.epTime.number + 1) % 2 ^ 64, 0, n.epTime.st) := by
    unfold epAdvanceStitch
    dsimp only
    have hf (l : List Nat) (n : Mach) : (l.foldl (fun (m : Mach) p =>
        match Tbl.get (fun _ => (0, 0, 0)) m.epTime.exch p with
        | (_, _, last) =>
          if last + 64 < m.epTime.number then m.setFld .ep Pg.eTim (F.ep4TimOffset_valid (m.planeOfPort p % 16)) 0
          else m) n).epCount = n.epCount :=
      foldl_keep epCount _ (fun n p => by
        dsimp only; split
        · exact epCount_of (setFld_epTime ..)
        · rfl) l n
    split
    · rw [epCount_of (setFld_epTime ..), hf]; simp [epCount]
    · rw [hf]; simp [epCount]
  simp only [epBoundary]
  rw [epCount_of (zlyTests_epTime _), linkBeats_epCount, epCount_of (sleepTick_epTime ..), epCount_of (applyClears_epTime _),
    epCount_of (rateRefill_epTime _), epCount_of (armTables_epTime ..), h _ _ rfl]

/-! ### The engines at rest through a boundary -/

/-- What the EP-4's engines have in progress. -/
def epWork (m : Mach) : List Slot × List EpTx × List Fetch := (m.ep.slots, m.ep.tx, m.ep.fetch)

theorem epIdle_iff (m : Mach) : m.epIdle ↔ m.epWork = ([], [], []) := by simp [epIdle, epWork]

theorem epWork_of {m n : Mach} (h : n.ep = m.ep) : n.epWork = m.epWork := by simp [epWork, h]

theorem epWork_ite (p : Prop) [Decidable p] (a b : Mach) :
    (if p then a else b).epWork = if p then a.epWork else b.epWork := by split <;> rfl

theorem ep_of_bare {m n : Mach} (h : n.bare = m.bare) : n.ep = m.ep := by
  have : n.bare.ep = m.bare.ep := by rw [h]
  exact this

@[simp] theorem setFld_ep (m : Mach) (c : Chip) (p : Nat) (f : Fld) (v : Nat) : (m.setFld c p f v).ep = m.ep :=
  ep_of_bare (setFld_bare ..)
@[simp] theorem bump_ep (m : Mach) (c : Chip) (p o : Nat) : (m.bump c p o).ep = m.ep := ep_of_bare (bump_bare ..)
@[simp] theorem raise_ep (m : Mach) (c : Chip) (p b d : Nat) : (m.raise c p b d).ep = m.ep := ep_of_bare (raise_bare ..)
@[simp] theorem putEpTime_ep (m : Mach) (t : EpTiming) : (m.putEpTime t).ep = m.ep := by simp [putEpTime]
@[simp] theorem setRf_ep (m : Mach) (c : Chip) (r : RegFile) : (m.setRf c r).ep = m.ep := by cases c <;> rfl
@[simp] theorem ep_ite (p : Prop) [Decidable p] (a b : Mach) : (if p then a else b).ep = if p then a.ep else b.ep := by
  split <;> rfl

theorem sendGrans_ep (n : Nat) (m : Mach) (c : Chip) (p : Nat) (k : List (Nat × Nat)) (a h : Bool)
    (gs : List (BitVec 128)) : (m.sendGrans c p k a h n gs).ep = m.ep := by
  induction n generalizing m a gs with
  | zero => rfl
  | succ n ih => simp only [sendGrans]; split <;> simp [ih, sendData]

theorem epSend_ep (m : Mach) (p : Nat) (k : Packet) (o : List Nat) : (m.epSend p k o).ep = m.ep := by
  simp [epSend, sendWhole, takeCredit, sendGrans_ep]

theorem zlySend_work (m : Mach) (p x : Nat) : (m.zlySend p x).epWork = m.epWork := by
  have h (a : Mach) (k : Packet) : ((a.epSlotCharge p x k.granules).epSend p k []).epWork = a.epWork := by
    rw [epWork_of (epSend_ep ..)]; rfl
  unfold zlySend
  extract_lets e r k n
  exact (h _ k).trans rfl

theorem zlySends_work (n : Nat) (m : Mach) (p u : Nat) : (m.zlySends p u n).epWork = m.epWork := by
  induction n generalizing m u with
  | zero => rfl
  | succ n ih =>
    simp only [zlySends]
    split
    · rfl
    · split
      · rw [ih, zlySend_work]
      · rfl

theorem zlyTests_work (m : Mach) : m.zlyTests.epWork = m.epWork := by
  unfold zlyTests
  split
  · exact foldl_keep epWork _ (fun n p => by rw [epWork_ite, zlySends_work, ite_self]) _ m
  · rfl

theorem epAdvanceStitch_ep (m : Mach) (ph : Int) : (m.epAdvanceStitch ph).ep = m.ep := by
  unfold epAdvanceStitch
  dsimp only
  have hf (l : List Nat) (n : Mach) : (l.foldl (fun (m : Mach) p =>
      match Tbl.get (fun _ => (0, 0, 0)) m.epTime.exch p with
      | (_, _, last) =>
        if last + 64 < m.epTime.number then m.setFld .ep Pg.eTim (F.ep4TimOffset_valid (m.planeOfPort p % 16)) 0
        else m) n).ep = n.ep :=
    foldl_keep (·.ep) _ (fun n p => by dsimp only; split <;> simp) l n
  split
  · rw [setFld_ep, hf, putEpTime_ep]
  · rw [hf, putEpTime_ep]

/-- A boundary starts nothing in engines at rest. -/
theorem epBoundary_work (m : Mach) (ph : Int) : (m.epBoundary ph).epWork = m.epWork := by
  have hr (n : Mach) : n.rateRefill.epWork = n.epWork := by
    simp only [rateRefill, setRates, epWork, setFld_ep]
  have hc (n : Mach) : n.applyClears.epWork = n.epWork := by
    unfold applyClears
    have h := foldl_keep (·.ep) (fun (m : Mach) c => m.setFld .ep (Pg.ctx c) F.ep4CtxFault_state 0)
      (fun n c => setFld_ep n ..) n.ep.clearing n
    simp only [epWork, setEp, h]
  have hs (n : Mach) : (n.sleepTick .ep).ep = n.ep := by
    unfold sleepTick
    exact foldl_keep (·.ep) _ (fun n p => by simp) _ n
  have hb (n : Mach) : (n.linkBeats .ep).ep = n.ep := by
    unfold linkBeats
    have h1 (l : List Nat) (n : Mach) : (l.foldl (fun (m : Mach) p => m.orderedSet .ep p) n).ep = n.ep :=
      foldl_keep (·.ep) _ (fun n p => by simp [orderedSet, fresh, setSent]) l n
    have h2 (l : List Nat) (n : Mach) : (l.foldl (fun (m : Mach) p =>
        m.emit (.ctl .ep p (.keepalive (m.epochNow .ep % 256) (m.nodeOf .ep)))) n).ep = n.ep :=
      foldl_keep (·.ep) _ (fun n _ => emit_ep n _) l n
    simp only [ep_ite, h1, h2, ite_self]
  simp only [epBoundary]
  rw [zlyTests_work, epWork_of (hb _), epWork_of (hs _), hc, hr]
  simp only [armTables, epWork, setRf_ep, epAdvanceStitch_ep]

end Mach

/-! ### Frames of STITCH_IN and STITCH_OUT (R59, R60) -/

/-- The bits of a number, lowest first, spell it. -/
theorem spell_bits (n lo : Nat) (x : Nat) :
    ((List.range n).map fun i => bitsOf x (lo + i) 1).foldr (fun b a => b + 2 * a) 0 = bitsOf x lo n := by
  induction n generalizing lo with
  | zero => simp [bitsOf, Nat.mod_one]
  | succ n ih =>
    rw [List.range_succ_eq_map, List.map_cons, List.foldr_cons, List.map_map]
    have h : ((fun i => bitsOf x (lo + i) 1) ∘ Nat.succ) = fun i => bitsOf x (lo + 1 + i) 1 := by
      funext i; simp only [Function.comp, Nat.succ_eq_add_one]; rw [show lo + (i + 1) = lo + 1 + i by omega]
    rw [h, ih (lo + 1)]
    simp only [bitsOf, Nat.add_zero, Nat.pow_succ]
    rw [← Nat.div_div_eq_div_mul]
    have := Nat.mod_mul (x := x / 2 ^ lo) (a := 2) (b := 2 ^ n)
    rw [Nat.mul_comm (2 ^ n) 2, this]

namespace Mach

/-- The 63 symbols after the marker of the frame that stitch `f` begins. -/
def frameSymbols (f : Nat) : List Nat := (List.range 63).map fun i => stitchSymbol (f + 1 + i)

/-- A receiver reads the number that a frame's symbols carry. -/
theorem frameNumber_symbols (f : Nat) (h : f % 64 = 0) (hf : f < 2 ^ 64) : frameNumber (frameSymbols f) = some f := by
  have h1 : (frameSymbols f).take 58 = (List.range 58).map fun i => bitsOf f (6 + i) 1 := by
    rw [frameSymbols, ← List.map_take, List.take_range]
    apply List.map_congr_left
    intro i hi
    have hi' : i < 58 := by simpa using hi
    have e : (f + 1 + i) % 64 = i + 1 := by omega
    simp only [stitchSymbol, e]
    rw [if_neg (by omega), if_pos (by omega), show f + 1 + i - (i + 1) = f by omega, show i + 1 + 5 = 6 + i by omega]
  have h2 : (frameSymbols f).drop 58 = (List.range 5).map fun i => bitsOf (frameOnes f) (0 + i) 1 := by
    have hr : (List.range 63).drop 58 = (List.range 5).map fun i => 58 + i := by decide
    rw [frameSymbols, ← List.map_drop, hr, List.map_map]
    apply List.map_congr_left
    intro i hi
    have hi' : i < 5 := by simpa using hi
    have e : (f + 1 + (58 + i)) % 64 = 59 + i := by omega
    simp only [Function.comp, stitchSymbol, e]
    rw [if_neg (by omega), if_neg (by omega), show f + 1 + (58 + i) - (59 + i) = f by omega,
      show 59 + i - 59 = 0 + i by omega]
  have h3 : bitsOf f 6 58 * 64 = f := by simp only [bitsOf]; omega
  have h4 : bitsOf (frameOnes f) 0 5 = frameOnes f := by
    simp only [bitsOf, frameOnes]; omega
  simp only [frameNumber, h1, h2, spell_bits, h3, h4, if_true]

theorem stitchSymbol_le (n : Nat) : stitchSymbol n ≤ 2 := by
  have hb (x i : Nat) : bitsOf x i 1 ≤ 2 := by simp only [bitsOf]; omega
  simp only [stitchSymbol]
  split
  · exact Nat.le_refl 2
  · split <;> exact hb _ _

theorem pulseSymbol_symbol (b : Nat) (h : b ≤ 2) : pulseSymbol (symbolPulse b).width = some b := by
  have : b = 0 ∨ b = 1 ∨ b = 2 := by omega
  rcases this with rfl | rfl | rfl <;> rfl

end Mach

end Sys2Proof.Machine
end

