-- ==== Sys2Proof/Laws/State.lean ====
section
/-! SUPPORT. What the updates of one part of the machine leave and what they set: one lemma for each field, so that no proof
unfolds a record update. -/

namespace Sys2Proof.Machine
namespace Mach

/-! ## `setRf` -/

@[simp] theorem setRf_link (m : Mach) (c : Chip) (r : RegFile) : (m.setRf c r).link = m.link := by cases c <;> rfl
@[simp] theorem setRf_epLink (m : Mach) (c : Chip) (r : RegFile) : (m.setRf c r).epLink = m.epLink := by cases c <;> rfl
@[simp] theorem setRf_sxExch (m : Mach) (c : Chip) (r : RegFile) : (m.setRf c r).sxExch = m.sxExch := by cases c <;> rfl
@[simp] theorem setRf_held (m : Mach) (c : Chip) (r : RegFile) : (m.setRf c r).held = m.held := by cases c <;> rfl
@[simp] theorem setRf_nextId (m : Mach) (c : Chip) (r : RegFile) : (m.setRf c r).nextId = m.nextId := by cases c <;> rfl
@[simp] theorem setRf_nextStamp (m : Mach) (c : Chip) (r : RegFile) : (m.setRf c r).nextStamp = m.nextStamp := by cases c <;> rfl
@[simp] theorem setRf_mid (m : Mach) (c : Chip) (r : RegFile) : (m.setRf c r).mid = m.mid := by cases c <;> rfl
@[simp] theorem setRf_reseq (m : Mach) (c : Chip) (r : RegFile) : (m.setRf c r).reseq = m.reseq := by cases c <;> rfl
@[simp] theorem setRf_seqIn (m : Mach) (c : Chip) (r : RegFile) : (m.setRf c r).seqIn = m.seqIn := by cases c <;> rfl
@[simp] theorem setRf_seqOut (m : Mach) (c : Chip) (r : RegFile) : (m.setRf c r).seqOut = m.seqOut := by cases c <;> rfl
@[simp] theorem setRf_slot (m : Mach) (c : Chip) (r : RegFile) : (m.setRf c r).slot = m.slot := by cases c <;> rfl
@[simp] theorem setRf_patStart (m : Mach) (c : Chip) (r : RegFile) : (m.setRf c r).patStart = m.patStart := by cases c <;> rfl
@[simp] theorem setRf_rrTile (m : Mach) (c : Chip) (r : RegFile) : (m.setRf c r).rrTile = m.rrTile := by cases c <;> rfl
@[simp] theorem setRf_rrFlow (m : Mach) (c : Chip) (r : RegFile) : (m.setRf c r).rrFlow = m.rrFlow := by cases c <;> rfl
@[simp] theorem setRf_allow (m : Mach) (c : Chip) (r : RegFile) : (m.setRf c r).allow = m.allow := by cases c <;> rfl
@[simp] theorem setRf_lastCross (m : Mach) (c : Chip) (r : RegFile) : (m.setRf c r).lastCross = m.lastCross := by cases c <;> rfl
@[simp] theorem setRf_out1 (m : Mach) (c : Chip) (r : RegFile) : (m.setRf c r).out1 = m.out1 := by cases c <;> rfl
@[simp] theorem setRf_out2 (m : Mach) (c : Chip) (r : RegFile) : (m.setRf c r).out2 = m.out2 := by cases c <;> rfl
@[simp] theorem setRf_modFailed (m : Mach) (c : Chip) (r : RegFile) : (m.setRf c r).modFailed = m.modFailed := by cases c <;> rfl
@[simp] theorem setRf_arb (m : Mach) (c : Chip) (r : RegFile) : (m.setRf c r).arb = m.arb := by cases c <;> rfl
@[simp] theorem setRf_toggle (m : Mach) (c : Chip) (r : RegFile) : (m.setRf c r).toggle = m.toggle := by cases c <;> rfl
@[simp] theorem setRf_hold (m : Mach) (c : Chip) (r : RegFile) : (m.setRf c r).hold = m.hold := by cases c <;> rfl
@[simp] theorem setRf_owed (m : Mach) (c : Chip) (r : RegFile) : (m.setRf c r).owed = m.owed := by cases c <;> rfl
@[simp] theorem setRf_owedRr (m : Mach) (c : Chip) (r : RegFile) : (m.setRf c r).owedRr = m.owedRr := by cases c <;> rfl
@[simp] theorem setRf_liningFull (m : Mach) (c : Chip) (r : RegFile) : (m.setRf c r).liningFull = m.liningFull := by cases c <;> rfl
@[simp] theorem setRf_faultSent (m : Mach) (c : Chip) (r : RegFile) : (m.setRf c r).faultSent = m.faultSent := by cases c <;> rfl
@[simp] theorem setRf_arrivedPkts (m : Mach) (c : Chip) (r : RegFile) : (m.setRf c r).arrivedPkts = m.arrivedPkts := by cases c <;> rfl
@[simp] theorem setRf_zlyUsed (m : Mach) (c : Chip) (r : RegFile) : (m.setRf c r).zlyUsed = m.zlyUsed := by cases c <;> rfl
@[simp] theorem setRf_zlyPeriod (m : Mach) (c : Chip) (r : RegFile) : (m.setRf c r).zlyPeriod = m.zlyPeriod := by cases c <;> rfl
@[simp] theorem setRf_zlySeq (m : Mach) (c : Chip) (r : RegFile) : (m.setRf c r).zlySeq = m.zlySeq := by cases c <;> rfl
@[simp] theorem setRf_mapAcct (m : Mach) (c : Chip) (r : RegFile) : (m.setRf c r).mapAcct = m.mapAcct := by cases c <;> rfl
@[simp] theorem setRf_mapTicks (m : Mach) (c : Chip) (r : RegFile) : (m.setRf c r).mapTicks = m.mapTicks := by cases c <;> rfl
@[simp] theorem setRf_mapBatch (m : Mach) (c : Chip) (r : RegFile) : (m.setRf c r).mapBatch = m.mapBatch := by cases c <;> rfl
@[simp] theorem setRf_mapDropped (m : Mach) (c : Chip) (r : RegFile) : (m.setRf c r).mapDropped = m.mapDropped := by cases c <;> rfl
@[simp] theorem setRf_smpCount (m : Mach) (c : Chip) (r : RegFile) : (m.setRf c r).smpCount = m.smpCount := by cases c <;> rfl
@[simp] theorem setRf_smpNow (m : Mach) (c : Chip) (r : RegFile) : (m.setRf c r).smpNow = m.smpNow := by cases c <;> rfl
@[simp] theorem setRf_smpWait (m : Mach) (c : Chip) (r : RegFile) : (m.setRf c r).smpWait = m.smpWait := by cases c <;> rfl
@[simp] theorem setRf_smpDropped (m : Mach) (c : Chip) (r : RegFile) : (m.setRf c r).smpDropped = m.smpDropped := by cases c <;> rfl
@[simp] theorem setRf_gusset (m : Mach) (c : Chip) (r : RegFile) : (m.setRf c r).gusset = m.gusset := by cases c <;> rfl
@[simp] theorem setRf_plt (m : Mach) (c : Chip) (r : RegFile) : (m.setRf c r).plt = m.plt := by cases c <;> rfl
@[simp] theorem setRf_cuff (m : Mach) (c : Chip) (r : RegFile) : (m.setRf c r).cuff = m.cuff := by cases c <;> rfl
@[simp] theorem setRf_mem (m : Mach) (c : Chip) (r : RegFile) : (m.setRf c r).mem = m.mem := by cases c <;> rfl
@[simp] theorem setRf_guardSx (m : Mach) (c : Chip) (r : RegFile) : (m.setRf c r).guardSx = m.guardSx := by cases c <;> rfl
@[simp] theorem setRf_guardEp (m : Mach) (c : Chip) (r : RegFile) : (m.setRf c r).guardEp = m.guardEp := by cases c <;> rfl
@[simp] theorem setRf_torn (m : Mach) (c : Chip) (r : RegFile) : (m.setRf c r).torn = m.torn := by cases c <;> rfl
@[simp] theorem setRf_relay (m : Mach) (c : Chip) (r : RegFile) : (m.setRf c r).relay = m.relay := by cases c <;> rfl
@[simp] theorem setRf_oeng (m : Mach) (c : Chip) (r : RegFile) : (m.setRf c r).oeng = m.oeng := by cases c <;> rfl
@[simp] theorem setRf_rings (m : Mach) (c : Chip) (r : RegFile) : (m.setRf c r).rings = m.rings := by cases c <;> rfl
@[simp] theorem setRf_pairs (m : Mach) (c : Chip) (r : RegFile) : (m.setRf c r).pairs = m.pairs := by cases c <;> rfl
@[simp] theorem setRf_els (m : Mach) (c : Chip) (r : RegFile) : (m.setRf c r).els = m.els := by cases c <;> rfl
@[simp] theorem setRf_ocuCap (m : Mach) (c : Chip) (r : RegFile) : (m.setRf c r).ocuCap = m.ocuCap := by cases c <;> rfl
@[simp] theorem setRf_changes (m : Mach) (c : Chip) (r : RegFile) : (m.setRf c r).changes = m.changes := by cases c <;> rfl
@[simp] theorem setRf_chatter (m : Mach) (c : Chip) (r : RegFile) : (m.setRf c r).chatter = m.chatter := by cases c <;> rfl
@[simp] theorem setRf_power (m : Mach) (c : Chip) (r : RegFile) : (m.setRf c r).power = m.power := by cases c <;> rfl
@[simp] theorem setRf_boot (m : Mach) (c : Chip) (r : RegFile) : (m.setRf c r).boot = m.boot := by cases c <;> rfl
@[simp] theorem setRf_i3cAddr (m : Mach) (c : Chip) (r : RegFile) : (m.setRf c r).i3cAddr = m.i3cAddr := by cases c <;> rfl
@[simp] theorem setRf_out (m : Mach) (c : Chip) (r : RegFile) : (m.setRf c r).out = m.out := by cases c <;> rfl
@[simp] theorem setRf_freeCtr (m : Mach) (c : Chip) (r : RegFile) : (m.setRf c r).freeCtr = m.freeCtr := by cases c <;> rfl

/-! ## `setCyc` -/

@[simp] theorem setCyc_epParams (m : Mach) (c : Chip) (x : Nat) : (m.setCyc c x).epParams = m.epParams := by cases c <;> rfl
@[simp] theorem setCyc_regs (m : Mach) (c : Chip) (x : Nat) : (m.setCyc c x).regs = m.regs := by cases c <;> rfl
@[simp] theorem setCyc_epRegs (m : Mach) (c : Chip) (x : Nat) : (m.setCyc c x).epRegs = m.epRegs := by cases c <;> rfl
@[simp] theorem setCyc_link (m : Mach) (c : Chip) (x : Nat) : (m.setCyc c x).link = m.link := by cases c <;> rfl
@[simp] theorem setCyc_epLink (m : Mach) (c : Chip) (x : Nat) : (m.setCyc c x).epLink = m.epLink := by cases c <;> rfl
@[simp] theorem setCyc_sxExch (m : Mach) (c : Chip) (x : Nat) : (m.setCyc c x).sxExch = m.sxExch := by cases c <;> rfl
@[simp] theorem setCyc_held (m : Mach) (c : Chip) (x : Nat) : (m.setCyc c x).held = m.held := by cases c <;> rfl
@[simp] theorem setCyc_nextId (m : Mach) (c : Chip) (x : Nat) : (m.setCyc c x).nextId = m.nextId := by cases c <;> rfl
@[simp] theorem setCyc_nextStamp (m : Mach) (c : Chip) (x : Nat) : (m.setCyc c x).nextStamp = m.nextStamp := by cases c <;> rfl
@[simp] theorem setCyc_mid (m : Mach) (c : Chip) (x : Nat) : (m.setCyc c x).mid = m.mid := by cases c <;> rfl
@[simp] theorem setCyc_reseq (m : Mach) (c : Chip) (x : Nat) : (m.setCyc c x).reseq = m.reseq := by cases c <;> rfl
@[simp] theorem setCyc_seqIn (m : Mach) (c : Chip) (x : Nat) : (m.setCyc c x).seqIn = m.seqIn := by cases c <;> rfl
@[simp] theorem setCyc_seqOut (m : Mach) (c : Chip) (x : Nat) : (m.setCyc c x).seqOut = m.seqOut := by cases c <;> rfl
@[simp] theorem setCyc_slot (m : Mach) (c : Chip) (x : Nat) : (m.setCyc c x).slot = m.slot := by cases c <;> rfl
@[simp] theorem setCyc_patStart (m : Mach) (c : Chip) (x : Nat) : (m.setCyc c x).patStart = m.patStart := by cases c <;> rfl
@[simp] theorem setCyc_rrTile (m : Mach) (c : Chip) (x : Nat) : (m.setCyc c x).rrTile = m.rrTile := by cases c <;> rfl
@[simp] theorem setCyc_rrFlow (m : Mach) (c : Chip) (x : Nat) : (m.setCyc c x).rrFlow = m.rrFlow := by cases c <;> rfl
@[simp] theorem setCyc_allow (m : Mach) (c : Chip) (x : Nat) : (m.setCyc c x).allow = m.allow := by cases c <;> rfl
@[simp] theorem setCyc_lastCross (m : Mach) (c : Chip) (x : Nat) : (m.setCyc c x).lastCross = m.lastCross := by cases c <;> rfl
@[simp] theorem setCyc_out1 (m : Mach) (c : Chip) (x : Nat) : (m.setCyc c x).out1 = m.out1 := by cases c <;> rfl
@[simp] theorem setCyc_out2 (m : Mach) (c : Chip) (x : Nat) : (m.setCyc c x).out2 = m.out2 := by cases c <;> rfl
@[simp] theorem setCyc_modFailed (m : Mach) (c : Chip) (x : Nat) : (m.setCyc c x).modFailed = m.modFailed := by cases c <;> rfl
@[simp] theorem setCyc_arb (m : Mach) (c : Chip) (x : Nat) : (m.setCyc c x).arb = m.arb := by cases c <;> rfl
@[simp] theorem setCyc_toggle (m : Mach) (c : Chip) (x : Nat) : (m.setCyc c x).toggle = m.toggle := by cases c <;> rfl
@[simp] theorem setCyc_hold (m : Mach) (c : Chip) (x : Nat) : (m.setCyc c x).hold = m.hold := by cases c <;> rfl
@[simp] theorem setCyc_owed (m : Mach) (c : Chip) (x : Nat) : (m.setCyc c x).owed = m.owed := by cases c <;> rfl
@[simp] theorem setCyc_owedRr (m : Mach) (c : Chip) (x : Nat) : (m.setCyc c x).owedRr = m.owedRr := by cases c <;> rfl
@[simp] theorem setCyc_liningFull (m : Mach) (c : Chip) (x : Nat) : (m.setCyc c x).liningFull = m.liningFull := by cases c <;> rfl
@[simp] theorem setCyc_faultSent (m : Mach) (c : Chip) (x : Nat) : (m.setCyc c x).faultSent = m.faultSent := by cases c <;> rfl
@[simp] theorem setCyc_arrivedPkts (m : Mach) (c : Chip) (x : Nat) : (m.setCyc c x).arrivedPkts = m.arrivedPkts := by cases c <;> rfl
@[simp] theorem setCyc_zlyUsed (m : Mach) (c : Chip) (x : Nat) : (m.setCyc c x).zlyUsed = m.zlyUsed := by cases c <;> rfl
@[simp] theorem setCyc_zlyPeriod (m : Mach) (c : Chip) (x : Nat) : (m.setCyc c x).zlyPeriod = m.zlyPeriod := by cases c <;> rfl
@[simp] theorem setCyc_zlySeq (m : Mach) (c : Chip) (x : Nat) : (m.setCyc c x).zlySeq = m.zlySeq := by cases c <;> rfl
@[simp] theorem setCyc_mapAcct (m : Mach) (c : Chip) (x : Nat) : (m.setCyc c x).mapAcct = m.mapAcct := by cases c <;> rfl
@[simp] theorem setCyc_mapTicks (m : Mach) (c : Chip) (x : Nat) : (m.setCyc c x).mapTicks = m.mapTicks := by cases c <;> rfl
@[simp] theorem setCyc_mapBatch (m : Mach) (c : Chip) (x : Nat) : (m.setCyc c x).mapBatch = m.mapBatch := by cases c <;> rfl
@[simp] theorem setCyc_mapDropped (m : Mach) (c : Chip) (x : Nat) : (m.setCyc c x).mapDropped = m.mapDropped := by cases c <;> rfl
@[simp] theorem setCyc_smpCount (m : Mach) (c : Chip) (x : Nat) : (m.setCyc c x).smpCount = m.smpCount := by cases c <;> rfl
@[simp] theorem setCyc_smpNow (m : Mach) (c : Chip) (x : Nat) : (m.setCyc c x).smpNow = m.smpNow := by cases c <;> rfl
@[simp] theorem setCyc_smpWait (m : Mach) (c : Chip) (x : Nat) : (m.setCyc c x).smpWait = m.smpWait := by cases c <;> rfl
@[simp] theorem setCyc_smpDropped (m : Mach) (c : Chip) (x : Nat) : (m.setCyc c x).smpDropped = m.smpDropped := by cases c <;> rfl
@[simp] theorem setCyc_gusset (m : Mach) (c : Chip) (x : Nat) : (m.setCyc c x).gusset = m.gusset := by cases c <;> rfl
@[simp] theorem setCyc_plt (m : Mach) (c : Chip) (x : Nat) : (m.setCyc c x).plt = m.plt := by cases c <;> rfl
@[simp] theorem setCyc_cuff (m : Mach) (c : Chip) (x : Nat) : (m.setCyc c x).cuff = m.cuff := by cases c <;> rfl
@[simp] theorem setCyc_mem (m : Mach) (c : Chip) (x : Nat) : (m.setCyc c x).mem = m.mem := by cases c <;> rfl
@[simp] theorem setCyc_ep (m : Mach) (c : Chip) (x : Nat) : (m.setCyc c x).ep = m.ep := by cases c <;> rfl
@[simp] theorem setCyc_guardSx (m : Mach) (c : Chip) (x : Nat) : (m.setCyc c x).guardSx = m.guardSx := by cases c <;> rfl
@[simp] theorem setCyc_guardEp (m : Mach) (c : Chip) (x : Nat) : (m.setCyc c x).guardEp = m.guardEp := by cases c <;> rfl
@[simp] theorem setCyc_torn (m : Mach) (c : Chip) (x : Nat) : (m.setCyc c x).torn = m.torn := by cases c <;> rfl
@[simp] theorem setCyc_relay (m : Mach) (c : Chip) (x : Nat) : (m.setCyc c x).relay = m.relay := by cases c <;> rfl
@[simp] theorem setCyc_oeng (m : Mach) (c : Chip) (x : Nat) : (m.setCyc c x).oeng = m.oeng := by cases c <;> rfl
@[simp] theorem setCyc_rings (m : Mach) (c : Chip) (x : Nat) : (m.setCyc c x).rings = m.rings := by cases c <;> rfl
@[simp] theorem setCyc_pairs (m : Mach) (c : Chip) (x : Nat) : (m.setCyc c x).pairs = m.pairs := by cases c <;> rfl
@[simp] theorem setCyc_els (m : Mach) (c : Chip) (x : Nat) : (m.setCyc c x).els = m.els := by cases c <;> rfl
@[simp] theorem setCyc_ocuCap (m : Mach) (c : Chip) (x : Nat) : (m.setCyc c x).ocuCap = m.ocuCap := by cases c <;> rfl
@[simp] theorem setCyc_changes (m : Mach) (c : Chip) (x : Nat) : (m.setCyc c x).changes = m.changes := by cases c <;> rfl
@[simp] theorem setCyc_chatter (m : Mach) (c : Chip) (x : Nat) : (m.setCyc c x).chatter = m.chatter := by cases c <;> rfl
@[simp] theorem setCyc_power (m : Mach) (c : Chip) (x : Nat) : (m.setCyc c x).power = m.power := by cases c <;> rfl
@[simp] theorem setCyc_boot (m : Mach) (c : Chip) (x : Nat) : (m.setCyc c x).boot = m.boot := by cases c <;> rfl
@[simp] theorem setCyc_i3cAddr (m : Mach) (c : Chip) (x : Nat) : (m.setCyc c x).i3cAddr = m.i3cAddr := by cases c <;> rfl
@[simp] theorem setCyc_out (m : Mach) (c : Chip) (x : Nat) : (m.setCyc c x).out = m.out := by cases c <;> rfl
@[simp] theorem setCyc_freeCtr (m : Mach) (c : Chip) (x : Nat) : (m.setCyc c x).freeCtr = m.freeCtr := by cases c <;> rfl

/-! ## `emit` -/

@[simp] theorem emit_epParams (m : Mach) (o : Out) : (m.emit o).epParams = m.epParams := rfl
@[simp] theorem emit_regs (m : Mach) (o : Out) : (m.emit o).regs = m.regs := rfl
@[simp] theorem emit_epRegs (m : Mach) (o : Out) : (m.emit o).epRegs = m.epRegs := rfl
@[simp] theorem emit_link (m : Mach) (o : Out) : (m.emit o).link = m.link := rfl
@[simp] theorem emit_epLink (m : Mach) (o : Out) : (m.emit o).epLink = m.epLink := rfl
@[simp] theorem emit_sxExch (m : Mach) (o : Out) : (m.emit o).sxExch = m.sxExch := rfl
@[simp] theorem emit_held (m : Mach) (o : Out) : (m.emit o).held = m.held := rfl
@[simp] theorem emit_nextId (m : Mach) (o : Out) : (m.emit o).nextId = m.nextId := rfl
@[simp] theorem emit_nextStamp (m : Mach) (o : Out) : (m.emit o).nextStamp = m.nextStamp := rfl
@[simp] theorem emit_mid (m : Mach) (o : Out) : (m.emit o).mid = m.mid := rfl
@[simp] theorem emit_reseq (m : Mach) (o : Out) : (m.emit o).reseq = m.reseq := rfl
@[simp] theorem emit_seqIn (m : Mach) (o : Out) : (m.emit o).seqIn = m.seqIn := rfl
@[simp] theorem emit_seqOut (m : Mach) (o : Out) : (m.emit o).seqOut = m.seqOut := rfl
@[simp] theorem emit_slot (m : Mach) (o : Out) : (m.emit o).slot = m.slot := rfl
@[simp] theorem emit_patStart (m : Mach) (o : Out) : (m.emit o).patStart = m.patStart := rfl
@[simp] theorem emit_rrTile (m : Mach) (o : Out) : (m.emit o).rrTile = m.rrTile := rfl
@[simp] theorem emit_rrFlow (m : Mach) (o : Out) : (m.emit o).rrFlow = m.rrFlow := rfl
@[simp] theorem emit_allow (m : Mach) (o : Out) : (m.emit o).allow = m.allow := rfl
@[simp] theorem emit_lastCross (m : Mach) (o : Out) : (m.emit o).lastCross = m.lastCross := rfl
@[simp] theorem emit_out1 (m : Mach) (o : Out) : (m.emit o).out1 = m.out1 := rfl
@[simp] theorem emit_out2 (m : Mach) (o : Out) : (m.emit o).out2 = m.out2 := rfl
@[simp] theorem emit_modFailed (m : Mach) (o : Out) : (m.emit o).modFailed = m.modFailed := rfl
@[simp] theorem emit_arb (m : Mach) (o : Out) : (m.emit o).arb = m.arb := rfl
@[simp] theorem emit_toggle (m : Mach) (o : Out) : (m.emit o).toggle = m.toggle := rfl
@[simp] theorem emit_hold (m : Mach) (o : Out) : (m.emit o).hold = m.hold := rfl
@[simp] theorem emit_owed (m : Mach) (o : Out) : (m.emit o).owed = m.owed := rfl
@[simp] theorem emit_owedRr (m : Mach) (o : Out) : (m.emit o).owedRr = m.owedRr := rfl
@[simp] theorem emit_liningFull (m : Mach) (o : Out) : (m.emit o).liningFull = m.liningFull := rfl
@[simp] theorem emit_faultSent (m : Mach) (o : Out) : (m.emit o).faultSent = m.faultSent := rfl
@[simp] theorem emit_arrivedPkts (m : Mach) (o : Out) : (m.emit o).arrivedPkts = m.arrivedPkts := rfl
@[simp] theorem emit_zlyUsed (m : Mach) (o : Out) : (m.emit o).zlyUsed = m.zlyUsed := rfl
@[simp] theorem emit_zlyPeriod (m : Mach) (o : Out) : (m.emit o).zlyPeriod = m.zlyPeriod := rfl
@[simp] theorem emit_zlySeq (m : Mach) (o : Out) : (m.emit o).zlySeq = m.zlySeq := rfl
@[simp] theorem emit_mapAcct (m : Mach) (o : Out) : (m.emit o).mapAcct = m.mapAcct := rfl
@[simp] theorem emit_mapTicks (m : Mach) (o : Out) : (m.emit o).mapTicks = m.mapTicks := rfl
@[simp] theorem emit_mapBatch (m : Mach) (o : Out) : (m.emit o).mapBatch = m.mapBatch := rfl
@[simp] theorem emit_mapDropped (m : Mach) (o : Out) : (m.emit o).mapDropped = m.mapDropped := rfl
@[simp] theorem emit_smpCount (m : Mach) (o : Out) : (m.emit o).smpCount = m.smpCount := rfl
@[simp] theorem emit_smpNow (m : Mach) (o : Out) : (m.emit o).smpNow = m.smpNow := rfl
@[simp] theorem emit_smpWait (m : Mach) (o : Out) : (m.emit o).smpWait = m.smpWait := rfl
@[simp] theorem emit_smpDropped (m : Mach) (o : Out) : (m.emit o).smpDropped = m.smpDropped := rfl
@[simp] theorem emit_gusset (m : Mach) (o : Out) : (m.emit o).gusset = m.gusset := rfl
@[simp] theorem emit_plt (m : Mach) (o : Out) : (m.emit o).plt = m.plt := rfl
@[simp] theorem emit_cuff (m : Mach) (o : Out) : (m.emit o).cuff = m.cuff := rfl
@[simp] theorem emit_mem (m : Mach) (o : Out) : (m.emit o).mem = m.mem := rfl
@[simp] theorem emit_guardSx (m : Mach) (o : Out) : (m.emit o).guardSx = m.guardSx := rfl
@[simp] theorem emit_guardEp (m : Mach) (o : Out) : (m.emit o).guardEp = m.guardEp := rfl
@[simp] theorem emit_torn (m : Mach) (o : Out) : (m.emit o).torn = m.torn := rfl
@[simp] theorem emit_relay (m : Mach) (o : Out) : (m.emit o).relay = m.relay := rfl
@[simp] theorem emit_oeng (m : Mach) (o : Out) : (m.emit o).oeng = m.oeng := rfl
@[simp] theorem emit_rings (m : Mach) (o : Out) : (m.emit o).rings = m.rings := rfl
@[simp] theorem emit_pairs (m : Mach) (o : Out) : (m.emit o).pairs = m.pairs := rfl
@[simp] theorem emit_els (m : Mach) (o : Out) : (m.emit o).els = m.els := rfl
@[simp] theorem emit_ocuCap (m : Mach) (o : Out) : (m.emit o).ocuCap = m.ocuCap := rfl
@[simp] theorem emit_changes (m : Mach) (o : Out) : (m.emit o).changes = m.changes := rfl
@[simp] theorem emit_chatter (m : Mach) (o : Out) : (m.emit o).chatter = m.chatter := rfl
@[simp] theorem emit_power (m : Mach) (o : Out) : (m.emit o).power = m.power := rfl
@[simp] theorem emit_boot (m : Mach) (o : Out) : (m.emit o).boot = m.boot := rfl
@[simp] theorem emit_i3cAddr (m : Mach) (o : Out) : (m.emit o).i3cAddr = m.i3cAddr := rfl
@[simp] theorem emit_freeCtr (m : Mach) (o : Out) : (m.emit o).freeCtr = m.freeCtr := rfl

/-! ## `setMem` -/

@[simp] theorem setMem_epParams (m : Mach) (x : MemSt) : (m.setMem x).epParams = m.epParams := rfl
@[simp] theorem setMem_regs (m : Mach) (x : MemSt) : (m.setMem x).regs = m.regs := rfl
@[simp] theorem setMem_epRegs (m : Mach) (x : MemSt) : (m.setMem x).epRegs = m.epRegs := rfl
@[simp] theorem setMem_time (m : Mach) (x : MemSt) : (m.setMem x).time = m.time := rfl
@[simp] theorem setMem_epTime (m : Mach) (x : MemSt) : (m.setMem x).epTime = m.epTime := rfl
@[simp] theorem setMem_link (m : Mach) (x : MemSt) : (m.setMem x).link = m.link := rfl
@[simp] theorem setMem_epLink (m : Mach) (x : MemSt) : (m.setMem x).epLink = m.epLink := rfl
@[simp] theorem setMem_sxExch (m : Mach) (x : MemSt) : (m.setMem x).sxExch = m.sxExch := rfl
@[simp] theorem setMem_held (m : Mach) (x : MemSt) : (m.setMem x).held = m.held := rfl
@[simp] theorem setMem_nextId (m : Mach) (x : MemSt) : (m.setMem x).nextId = m.nextId := rfl
@[simp] theorem setMem_nextStamp (m : Mach) (x : MemSt) : (m.setMem x).nextStamp = m.nextStamp := rfl
@[simp] theorem setMem_mid (m : Mach) (x : MemSt) : (m.setMem x).mid = m.mid := rfl
@[simp] theorem setMem_reseq (m : Mach) (x : MemSt) : (m.setMem x).reseq = m.reseq := rfl
@[simp] theorem setMem_seqIn (m : Mach) (x : MemSt) : (m.setMem x).seqIn = m.seqIn := rfl
@[simp] theorem setMem_seqOut (m : Mach) (x : MemSt) : (m.setMem x).seqOut = m.seqOut := rfl
@[simp] theorem setMem_slot (m : Mach) (x : MemSt) : (m.setMem x).slot = m.slot := rfl
@[simp] theorem setMem_patStart (m : Mach) (x : MemSt) : (m.setMem x).patStart = m.patStart := rfl
@[simp] theorem setMem_rrTile (m : Mach) (x : MemSt) : (m.setMem x).rrTile = m.rrTile := rfl
@[simp] theorem setMem_rrFlow (m : Mach) (x : MemSt) : (m.setMem x).rrFlow = m.rrFlow := rfl
@[simp] theorem setMem_allow (m : Mach) (x : MemSt) : (m.setMem x).allow = m.allow := rfl
@[simp] theorem setMem_lastCross (m : Mach) (x : MemSt) : (m.setMem x).lastCross = m.lastCross := rfl
@[simp] theorem setMem_out1 (m : Mach) (x : MemSt) : (m.setMem x).out1 = m.out1 := rfl
@[simp] theorem setMem_out2 (m : Mach) (x : MemSt) : (m.setMem x).out2 = m.out2 := rfl
@[simp] theorem setMem_modFailed (m : Mach) (x : MemSt) : (m.setMem x).modFailed = m.modFailed := rfl
@[simp] theorem setMem_arb (m : Mach) (x : MemSt) : (m.setMem x).arb = m.arb := rfl
@[simp] theorem setMem_toggle (m : Mach) (x : MemSt) : (m.setMem x).toggle = m.toggle := rfl
@[simp] theorem setMem_hold (m : Mach) (x : MemSt) : (m.setMem x).hold = m.hold := rfl
@[simp] theorem setMem_owed (m : Mach) (x : MemSt) : (m.setMem x).owed = m.owed := rfl
@[simp] theorem setMem_owedRr (m : Mach) (x : MemSt) : (m.setMem x).owedRr = m.owedRr := rfl
@[simp] theorem setMem_liningFull (m : Mach) (x : MemSt) : (m.setMem x).liningFull = m.liningFull := rfl
@[simp] theorem setMem_faultSent (m : Mach) (x : MemSt) : (m.setMem x).faultSent = m.faultSent := rfl
@[simp] theorem setMem_arrivedPkts (m : Mach) (x : MemSt) : (m.setMem x).arrivedPkts = m.arrivedPkts := rfl
@[simp] theorem setMem_zlyUsed (m : Mach) (x : MemSt) : (m.setMem x).zlyUsed = m.zlyUsed := rfl
@[simp] theorem setMem_zlyPeriod (m : Mach) (x : MemSt) : (m.setMem x).zlyPeriod = m.zlyPeriod := rfl
@[simp] theorem setMem_zlySeq (m : Mach) (x : MemSt) : (m.setMem x).zlySeq = m.zlySeq := rfl
@[simp] theorem setMem_mapAcct (m : Mach) (x : MemSt) : (m.setMem x).mapAcct = m.mapAcct := rfl
@[simp] theorem setMem_mapTicks (m : Mach) (x : MemSt) : (m.setMem x).mapTicks = m.mapTicks := rfl
@[simp] theorem setMem_mapBatch (m : Mach) (x : MemSt) : (m.setMem x).mapBatch = m.mapBatch := rfl
@[simp] theorem setMem_mapDropped (m : Mach) (x : MemSt) : (m.setMem x).mapDropped = m.mapDropped := rfl
@[simp] theorem setMem_smpCount (m : Mach) (x : MemSt) : (m.setMem x).smpCount = m.smpCount := rfl
@[simp] theorem setMem_smpNow (m : Mach) (x : MemSt) : (m.setMem x).smpNow = m.smpNow := rfl
@[simp] theorem setMem_smpWait (m : Mach) (x : MemSt) : (m.setMem x).smpWait = m.smpWait := rfl
@[simp] theorem setMem_smpDropped (m : Mach) (x : MemSt) : (m.setMem x).smpDropped = m.smpDropped := rfl
@[simp] theorem setMem_gusset (m : Mach) (x : MemSt) : (m.setMem x).gusset = m.gusset := rfl
@[simp] theorem setMem_plt (m : Mach) (x : MemSt) : (m.setMem x).plt = m.plt := rfl
@[simp] theorem setMem_cuff (m : Mach) (x : MemSt) : (m.setMem x).cuff = m.cuff := rfl
@[simp] theorem setMem_mem (m : Mach) (x : MemSt) : (m.setMem x).mem = x := rfl
@[simp] theorem setMem_ep (m : Mach) (x : MemSt) : (m.setMem x).ep = m.ep := rfl
@[simp] theorem setMem_guardSx (m : Mach) (x : MemSt) : (m.setMem x).guardSx = m.guardSx := rfl
@[simp] theorem setMem_guardEp (m : Mach) (x : MemSt) : (m.setMem x).guardEp = m.guardEp := rfl
@[simp] theorem setMem_torn (m : Mach) (x : MemSt) : (m.setMem x).torn = m.torn := rfl
@[simp] theorem setMem_relay (m : Mach) (x : MemSt) : (m.setMem x).relay = m.relay := rfl
@[simp] theorem setMem_oeng (m : Mach) (x : MemSt) : (m.setMem x).oeng = m.oeng := rfl
@[simp] theorem setMem_rings (m : Mach) (x : MemSt) : (m.setMem x).rings = m.rings := rfl
@[simp] theorem setMem_pairs (m : Mach) (x : MemSt) : (m.setMem x).pairs = m.pairs := rfl
@[simp] theorem setMem_els (m : Mach) (x : MemSt) : (m.setMem x).els = m.els := rfl
@[simp] theorem setMem_ocuCap (m : Mach) (x : MemSt) : (m.setMem x).ocuCap = m.ocuCap := rfl
@[simp] theorem setMem_changes (m : Mach) (x : MemSt) : (m.setMem x).changes = m.changes := rfl
@[simp] theorem setMem_chatter (m : Mach) (x : MemSt) : (m.setMem x).chatter = m.chatter := rfl
@[simp] theorem setMem_power (m : Mach) (x : MemSt) : (m.setMem x).power = m.power := rfl
@[simp] theorem setMem_boot (m : Mach) (x : MemSt) : (m.setMem x).boot = m.boot := rfl
@[simp] theorem setMem_i3cAddr (m : Mach) (x : MemSt) : (m.setMem x).i3cAddr = m.i3cAddr := rfl
@[simp] theorem setMem_out (m : Mach) (x : MemSt) : (m.setMem x).out = m.out := rfl
@[simp] theorem setMem_freeCtr (m : Mach) (x : MemSt) : (m.setMem x).freeCtr = m.freeCtr := rfl

/-! ## `setPower` -/

@[simp] theorem setPower_epParams (m : Mach) (x : PowerRun) : (m.setPower x).epParams = m.epParams := rfl
@[simp] theorem setPower_regs (m : Mach) (x : PowerRun) : (m.setPower x).regs = m.regs := rfl
@[simp] theorem setPower_epRegs (m : Mach) (x : PowerRun) : (m.setPower x).epRegs = m.epRegs := rfl
@[simp] theorem setPower_epTime (m : Mach) (x : PowerRun) : (m.setPower x).epTime = m.epTime := rfl
@[simp] theorem setPower_link (m : Mach) (x : PowerRun) : (m.setPower x).link = m.link := rfl
@[simp] theorem setPower_epLink (m : Mach) (x : PowerRun) : (m.setPower x).epLink = m.epLink := rfl
@[simp] theorem setPower_sxExch (m : Mach) (x : PowerRun) : (m.setPower x).sxExch = m.sxExch := rfl
@[simp] theorem setPower_held (m : Mach) (x : PowerRun) : (m.setPower x).held = m.held := rfl
@[simp] theorem setPower_nextId (m : Mach) (x : PowerRun) : (m.setPower x).nextId = m.nextId := rfl
@[simp] theorem setPower_nextStamp (m : Mach) (x : PowerRun) : (m.setPower x).nextStamp = m.nextStamp := rfl
@[simp] theorem setPower_mid (m : Mach) (x : PowerRun) : (m.setPower x).mid = m.mid := rfl
@[simp] theorem setPower_reseq (m : Mach) (x : PowerRun) : (m.setPower x).reseq = m.reseq := rfl
@[simp] theorem setPower_seqIn (m : Mach) (x : PowerRun) : (m.setPower x).seqIn = m.seqIn := rfl
@[simp] theorem setPower_seqOut (m : Mach) (x : PowerRun) : (m.setPower x).seqOut = m.seqOut := rfl
@[simp] theorem setPower_slot (m : Mach) (x : PowerRun) : (m.setPower x).slot = m.slot := rfl
@[simp] theorem setPower_patStart (m : Mach) (x : PowerRun) : (m.setPower x).patStart = m.patStart := rfl
@[simp] theorem setPower_rrTile (m : Mach) (x : PowerRun) : (m.setPower x).rrTile = m.rrTile := rfl
@[simp] theorem setPower_rrFlow (m : Mach) (x : PowerRun) : (m.setPower x).rrFlow = m.rrFlow := rfl
@[simp] theorem setPower_allow (m : Mach) (x : PowerRun) : (m.setPower x).allow = m.allow := rfl
@[simp] theorem setPower_lastCross (m : Mach) (x : PowerRun) : (m.setPower x).lastCross = m.lastCross := rfl
@[simp] theorem setPower_out1 (m : Mach) (x : PowerRun) : (m.setPower x).out1 = m.out1 := rfl
@[simp] theorem setPower_out2 (m : Mach) (x : PowerRun) : (m.setPower x).out2 = m.out2 := rfl
@[simp] theorem setPower_modFailed (m : Mach) (x : PowerRun) : (m.setPower x).modFailed = m.modFailed := rfl
@[simp] theorem setPower_arb (m : Mach) (x : PowerRun) : (m.setPower x).arb = m.arb := rfl
@[simp] theorem setPower_toggle (m : Mach) (x : PowerRun) : (m.setPower x).toggle = m.toggle := rfl
@[simp] theorem setPower_hold (m : Mach) (x : PowerRun) : (m.setPower x).hold = m.hold := rfl
@[simp] theorem setPower_owed (m : Mach) (x : PowerRun) : (m.setPower x).owed = m.owed := rfl
@[simp] theorem setPower_owedRr (m : Mach) (x : PowerRun) : (m.setPower x).owedRr = m.owedRr := rfl
@[simp] theorem setPower_liningFull (m : Mach) (x : PowerRun) : (m.setPower x).liningFull = m.liningFull := rfl
@[simp] theorem setPower_faultSent (m : Mach) (x : PowerRun) : (m.setPower x).faultSent = m.faultSent := rfl
@[simp] theorem setPower_arrivedPkts (m : Mach) (x : PowerRun) : (m.setPower x).arrivedPkts = m.arrivedPkts := rfl
@[simp] theorem setPower_zlyUsed (m : Mach) (x : PowerRun) : (m.setPower x).zlyUsed = m.zlyUsed := rfl
@[simp] theorem setPower_zlyPeriod (m : Mach) (x : PowerRun) : (m.setPower x).zlyPeriod = m.zlyPeriod := rfl
@[simp] theorem setPower_zlySeq (m : Mach) (x : PowerRun) : (m.setPower x).zlySeq = m.zlySeq := rfl
@[simp] theorem setPower_mapAcct (m : Mach) (x : PowerRun) : (m.setPower x).mapAcct = m.mapAcct := rfl
@[simp] theorem setPower_mapTicks (m : Mach) (x : PowerRun) : (m.setPower x).mapTicks = m.mapTicks := rfl
@[simp] theorem setPower_mapBatch (m : Mach) (x : PowerRun) : (m.setPower x).mapBatch = m.mapBatch := rfl
@[simp] theorem setPower_mapDropped (m : Mach) (x : PowerRun) : (m.setPower x).mapDropped = m.mapDropped := rfl
@[simp] theorem setPower_smpCount (m : Mach) (x : PowerRun) : (m.setPower x).smpCount = m.smpCount := rfl
@[simp] theorem setPower_smpNow (m : Mach) (x : PowerRun) : (m.setPower x).smpNow = m.smpNow := rfl
@[simp] theorem setPower_smpWait (m : Mach) (x : PowerRun) : (m.setPower x).smpWait = m.smpWait := rfl
@[simp] theorem setPower_smpDropped (m : Mach) (x : PowerRun) : (m.setPower x).smpDropped = m.smpDropped := rfl
@[simp] theorem setPower_gusset (m : Mach) (x : PowerRun) : (m.setPower x).gusset = m.gusset := rfl
@[simp] theorem setPower_plt (m : Mach) (x : PowerRun) : (m.setPower x).plt = m.plt := rfl
@[simp] theorem setPower_cuff (m : Mach) (x : PowerRun) : (m.setPower x).cuff = m.cuff := rfl
@[simp] theorem setPower_mem (m : Mach) (x : PowerRun) : (m.setPower x).mem = m.mem := rfl
@[simp] theorem setPower_ep (m : Mach) (x : PowerRun) : (m.setPower x).ep = m.ep := rfl
@[simp] theorem setPower_guardSx (m : Mach) (x : PowerRun) : (m.setPower x).guardSx = m.guardSx := rfl
@[simp] theorem setPower_guardEp (m : Mach) (x : PowerRun) : (m.setPower x).guardEp = m.guardEp := rfl
@[simp] theorem setPower_torn (m : Mach) (x : PowerRun) : (m.setPower x).torn = m.torn := rfl
@[simp] theorem setPower_relay (m : Mach) (x : PowerRun) : (m.setPower x).relay = m.relay := rfl
@[simp] theorem setPower_oeng (m : Mach) (x : PowerRun) : (m.setPower x).oeng = m.oeng := rfl
@[simp] theorem setPower_rings (m : Mach) (x : PowerRun) : (m.setPower x).rings = m.rings := rfl
@[simp] theorem setPower_pairs (m : Mach) (x : PowerRun) : (m.setPower x).pairs = m.pairs := rfl
@[simp] theorem setPower_els (m : Mach) (x : PowerRun) : (m.setPower x).els = m.els := rfl
@[simp] theorem setPower_ocuCap (m : Mach) (x : PowerRun) : (m.setPower x).ocuCap = m.ocuCap := rfl
@[simp] theorem setPower_changes (m : Mach) (x : PowerRun) : (m.setPower x).changes = m.changes := rfl
@[simp] theorem setPower_chatter (m : Mach) (x : PowerRun) : (m.setPower x).chatter = m.chatter := rfl
@[simp] theorem setPower_power (m : Mach) (x : PowerRun) : (m.setPower x).power = x := rfl
@[simp] theorem setPower_boot (m : Mach) (x : PowerRun) : (m.setPower x).boot = m.boot := rfl
@[simp] theorem setPower_i3cAddr (m : Mach) (x : PowerRun) : (m.setPower x).i3cAddr = m.i3cAddr := rfl
@[simp] theorem setPower_out (m : Mach) (x : PowerRun) : (m.setPower x).out = m.out := rfl
@[simp] theorem setPower_freeCtr (m : Mach) (x : PowerRun) : (m.setPower x).freeCtr = m.freeCtr := rfl

/-! ## `setPlt` -/

@[simp] theorem setPlt_epParams (m : Mach) (x : PleatSt) : (m.setPlt x).epParams = m.epParams := rfl
@[simp] theorem setPlt_regs (m : Mach) (x : PleatSt) : (m.setPlt x).regs = m.regs := rfl
@[simp] theorem setPlt_epRegs (m : Mach) (x : PleatSt) : (m.setPlt x).epRegs = m.epRegs := rfl
@[simp] theorem setPlt_time (m : Mach) (x : PleatSt) : (m.setPlt x).time = m.time := rfl
@[simp] theorem setPlt_epTime (m : Mach) (x : PleatSt) : (m.setPlt x).epTime = m.epTime := rfl
@[simp] theorem setPlt_link (m : Mach) (x : PleatSt) : (m.setPlt x).link = m.link := rfl
@[simp] theorem setPlt_epLink (m : Mach) (x : PleatSt) : (m.setPlt x).epLink = m.epLink := rfl
@[simp] theorem setPlt_sxExch (m : Mach) (x : PleatSt) : (m.setPlt x).sxExch = m.sxExch := rfl
@[simp] theorem setPlt_held (m : Mach) (x : PleatSt) : (m.setPlt x).held = m.held := rfl
@[simp] theorem setPlt_nextId (m : Mach) (x : PleatSt) : (m.setPlt x).nextId = m.nextId := rfl
@[simp] theorem setPlt_nextStamp (m : Mach) (x : PleatSt) : (m.setPlt x).nextStamp = m.nextStamp := rfl
@[simp] theorem setPlt_mid (m : Mach) (x : PleatSt) : (m.setPlt x).mid = m.mid := rfl
@[simp] theorem setPlt_reseq (m : Mach) (x : PleatSt) : (m.setPlt x).reseq = m.reseq := rfl
@[simp] theorem setPlt_seqIn (m : Mach) (x : PleatSt) : (m.setPlt x).seqIn = m.seqIn := rfl
@[simp] theorem setPlt_seqOut (m : Mach) (x : PleatSt) : (m.setPlt x).seqOut = m.seqOut := rfl
@[simp] theorem setPlt_slot (m : Mach) (x : PleatSt) : (m.setPlt x).slot = m.slot := rfl
@[simp] theorem setPlt_patStart (m : Mach) (x : PleatSt) : (m.setPlt x).patStart = m.patStart := rfl
@[simp] theorem setPlt_rrTile (m : Mach) (x : PleatSt) : (m.setPlt x).rrTile = m.rrTile := rfl
@[simp] theorem setPlt_rrFlow (m : Mach) (x : PleatSt) : (m.setPlt x).rrFlow = m.rrFlow := rfl
@[simp] theorem setPlt_allow (m : Mach) (x : PleatSt) : (m.setPlt x).allow = m.allow := rfl
@[simp] theorem setPlt_lastCross (m : Mach) (x : PleatSt) : (m.setPlt x).lastCross = m.lastCross := rfl
@[simp] theorem setPlt_out1 (m : Mach) (x : PleatSt) : (m.setPlt x).out1 = m.out1 := rfl
@[simp] theorem setPlt_out2 (m : Mach) (x : PleatSt) : (m.setPlt x).out2 = m.out2 := rfl
@[simp] theorem setPlt_modFailed (m : Mach) (x : PleatSt) : (m.setPlt x).modFailed = m.modFailed := rfl
@[simp] theorem setPlt_arb (m : Mach) (x : PleatSt) : (m.setPlt x).arb = m.arb := rfl
@[simp] theorem setPlt_toggle (m : Mach) (x : PleatSt) : (m.setPlt x).toggle = m.toggle := rfl
@[simp] theorem setPlt_hold (m : Mach) (x : PleatSt) : (m.setPlt x).hold = m.hold := rfl
@[simp] theorem setPlt_owed (m : Mach) (x : PleatSt) : (m.setPlt x).owed = m.owed := rfl
@[simp] theorem setPlt_owedRr (m : Mach) (x : PleatSt) : (m.setPlt x).owedRr = m.owedRr := rfl
@[simp] theorem setPlt_liningFull (m : Mach) (x : PleatSt) : (m.setPlt x).liningFull = m.liningFull := rfl
@[simp] theorem setPlt_faultSent (m : Mach) (x : PleatSt) : (m.setPlt x).faultSent = m.faultSent := rfl
@[simp] theorem setPlt_arrivedPkts (m : Mach) (x : PleatSt) : (m.setPlt x).arrivedPkts = m.arrivedPkts := rfl
@[simp] theorem setPlt_zlyUsed (m : Mach) (x : PleatSt) : (m.setPlt x).zlyUsed = m.zlyUsed := rfl
@[simp] theorem setPlt_zlyPeriod (m : Mach) (x : PleatSt) : (m.setPlt x).zlyPeriod = m.zlyPeriod := rfl
@[simp] theorem setPlt_zlySeq (m : Mach) (x : PleatSt) : (m.setPlt x).zlySeq = m.zlySeq := rfl
@[simp] theorem setPlt_mapAcct (m : Mach) (x : PleatSt) : (m.setPlt x).mapAcct = m.mapAcct := rfl
@[simp] theorem setPlt_mapTicks (m : Mach) (x : PleatSt) : (m.setPlt x).mapTicks = m.mapTicks := rfl
@[simp] theorem setPlt_mapBatch (m : Mach) (x : PleatSt) : (m.setPlt x).mapBatch = m.mapBatch := rfl
@[simp] theorem setPlt_mapDropped (m : Mach) (x : PleatSt) : (m.setPlt x).mapDropped = m.mapDropped := rfl
@[simp] theorem setPlt_smpCount (m : Mach) (x : PleatSt) : (m.setPlt x).smpCount = m.smpCount := rfl
@[simp] theorem setPlt_smpNow (m : Mach) (x : PleatSt) : (m.setPlt x).smpNow = m.smpNow := rfl
@[simp] theorem setPlt_smpWait (m : Mach) (x : PleatSt) : (m.setPlt x).smpWait = m.smpWait := rfl
@[simp] theorem setPlt_smpDropped (m : Mach) (x : PleatSt) : (m.setPlt x).smpDropped = m.smpDropped := rfl
@[simp] theorem setPlt_gusset (m : Mach) (x : PleatSt) : (m.setPlt x).gusset = m.gusset := rfl
@[simp] theorem setPlt_plt (m : Mach) (x : PleatSt) : (m.setPlt x).plt = x := rfl
@[simp] theorem setPlt_cuff (m : Mach) (x : PleatSt) : (m.setPlt x).cuff = m.cuff := rfl
@[simp] theorem setPlt_mem (m : Mach) (x : PleatSt) : (m.setPlt x).mem = m.mem := rfl
@[simp] theorem setPlt_ep (m : Mach) (x : PleatSt) : (m.setPlt x).ep = m.ep := rfl
@[simp] theorem setPlt_guardSx (m : Mach) (x : PleatSt) : (m.setPlt x).guardSx = m.guardSx := rfl
@[simp] theorem setPlt_guardEp (m : Mach) (x : PleatSt) : (m.setPlt x).guardEp = m.guardEp := rfl
@[simp] theorem setPlt_torn (m : Mach) (x : PleatSt) : (m.setPlt x).torn = m.torn := rfl
@[simp] theorem setPlt_relay (m : Mach) (x : PleatSt) : (m.setPlt x).relay = m.relay := rfl
@[simp] theorem setPlt_oeng (m : Mach) (x : PleatSt) : (m.setPlt x).oeng = m.oeng := rfl
@[simp] theorem setPlt_rings (m : Mach) (x : PleatSt) : (m.setPlt x).rings = m.rings := rfl
@[simp] theorem setPlt_pairs (m : Mach) (x : PleatSt) : (m.setPlt x).pairs = m.pairs := rfl
@[simp] theorem setPlt_els (m : Mach) (x : PleatSt) : (m.setPlt x).els = m.els := rfl
@[simp] theorem setPlt_ocuCap (m : Mach) (x : PleatSt) : (m.setPlt x).ocuCap = m.ocuCap := rfl
@[simp] theorem setPlt_changes (m : Mach) (x : PleatSt) : (m.setPlt x).changes = m.changes := rfl
@[simp] theorem setPlt_chatter (m : Mach) (x : PleatSt) : (m.setPlt x).chatter = m.chatter := rfl
@[simp] theorem setPlt_power (m : Mach) (x : PleatSt) : (m.setPlt x).power = m.power := rfl
@[simp] theorem setPlt_boot (m : Mach) (x : PleatSt) : (m.setPlt x).boot = m.boot := rfl
@[simp] theorem setPlt_i3cAddr (m : Mach) (x : PleatSt) : (m.setPlt x).i3cAddr = m.i3cAddr := rfl
@[simp] theorem setPlt_out (m : Mach) (x : PleatSt) : (m.setPlt x).out = m.out := rfl
@[simp] theorem setPlt_freeCtr (m : Mach) (x : PleatSt) : (m.setPlt x).freeCtr = m.freeCtr := rfl

/-! ## `setEp` -/

@[simp] theorem setEp_epParams (m : Mach) (x : EpSt) : (m.setEp x).epParams = m.epParams := rfl
@[simp] theorem setEp_regs (m : Mach) (x : EpSt) : (m.setEp x).regs = m.regs := rfl
@[simp] theorem setEp_epRegs (m : Mach) (x : EpSt) : (m.setEp x).epRegs = m.epRegs := rfl
@[simp] theorem setEp_link (m : Mach) (x : EpSt) : (m.setEp x).link = m.link := rfl
@[simp] theorem setEp_epLink (m : Mach) (x : EpSt) : (m.setEp x).epLink = m.epLink := rfl
@[simp] theorem setEp_sxExch (m : Mach) (x : EpSt) : (m.setEp x).sxExch = m.sxExch := rfl
@[simp] theorem setEp_held (m : Mach) (x : EpSt) : (m.setEp x).held = m.held := rfl
@[simp] theorem setEp_nextId (m : Mach) (x : EpSt) : (m.setEp x).nextId = m.nextId := rfl
@[simp] theorem setEp_nextStamp (m : Mach) (x : EpSt) : (m.setEp x).nextStamp = m.nextStamp := rfl
@[simp] theorem setEp_mid (m : Mach) (x : EpSt) : (m.setEp x).mid = m.mid := rfl
@[simp] theorem setEp_reseq (m : Mach) (x : EpSt) : (m.setEp x).reseq = m.reseq := rfl
@[simp] theorem setEp_seqIn (m : Mach) (x : EpSt) : (m.setEp x).seqIn = m.seqIn := rfl
@[simp] theorem setEp_seqOut (m : Mach) (x : EpSt) : (m.setEp x).seqOut = m.seqOut := rfl
@[simp] theorem setEp_slot (m : Mach) (x : EpSt) : (m.setEp x).slot = m.slot := rfl
@[simp] theorem setEp_patStart (m : Mach) (x : EpSt) : (m.setEp x).patStart = m.patStart := rfl
@[simp] theorem setEp_rrTile (m : Mach) (x : EpSt) : (m.setEp x).rrTile = m.rrTile := rfl
@[simp] theorem setEp_rrFlow (m : Mach) (x : EpSt) : (m.setEp x).rrFlow = m.rrFlow := rfl
@[simp] theorem setEp_allow (m : Mach) (x : EpSt) : (m.setEp x).allow = m.allow := rfl
@[simp] theorem setEp_lastCross (m : Mach) (x : EpSt) : (m.setEp x).lastCross = m.lastCross := rfl
@[simp] theorem setEp_out1 (m : Mach) (x : EpSt) : (m.setEp x).out1 = m.out1 := rfl
@[simp] theorem setEp_out2 (m : Mach) (x : EpSt) : (m.setEp x).out2 = m.out2 := rfl
@[simp] theorem setEp_modFailed (m : Mach) (x : EpSt) : (m.setEp x).modFailed = m.modFailed := rfl
@[simp] theorem setEp_arb (m : Mach) (x : EpSt) : (m.setEp x).arb = m.arb := rfl
@[simp] theorem setEp_toggle (m : Mach) (x : EpSt) : (m.setEp x).toggle = m.toggle := rfl
@[simp] theorem setEp_hold (m : Mach) (x : EpSt) : (m.setEp x).hold = m.hold := rfl
@[simp] theorem setEp_owed (m : Mach) (x : EpSt) : (m.setEp x).owed = m.owed := rfl
@[simp] theorem setEp_owedRr (m : Mach) (x : EpSt) : (m.setEp x).owedRr = m.owedRr := rfl
@[simp] theorem setEp_liningFull (m : Mach) (x : EpSt) : (m.setEp x).liningFull = m.liningFull := rfl
@[simp] theorem setEp_faultSent (m : Mach) (x : EpSt) : (m.setEp x).faultSent = m.faultSent := rfl
@[simp] theorem setEp_arrivedPkts (m : Mach) (x : EpSt) : (m.setEp x).arrivedPkts = m.arrivedPkts := rfl
@[simp] theorem setEp_zlyUsed (m : Mach) (x : EpSt) : (m.setEp x).zlyUsed = m.zlyUsed := rfl
@[simp] theorem setEp_zlyPeriod (m : Mach) (x : EpSt) : (m.setEp x).zlyPeriod = m.zlyPeriod := rfl
@[simp] theorem setEp_zlySeq (m : Mach) (x : EpSt) : (m.setEp x).zlySeq = m.zlySeq := rfl
@[simp] theorem setEp_mapAcct (m : Mach) (x : EpSt) : (m.setEp x).mapAcct = m.mapAcct := rfl
@[simp] theorem setEp_mapTicks (m : Mach) (x : EpSt) : (m.setEp x).mapTicks = m.mapTicks := rfl
@[simp] theorem setEp_mapBatch (m : Mach) (x : EpSt) : (m.setEp x).mapBatch = m.mapBatch := rfl
@[simp] theorem setEp_mapDropped (m : Mach) (x : EpSt) : (m.setEp x).mapDropped = m.mapDropped := rfl
@[simp] theorem setEp_smpCount (m : Mach) (x : EpSt) : (m.setEp x).smpCount = m.smpCount := rfl
@[simp] theorem setEp_smpNow (m : Mach) (x : EpSt) : (m.setEp x).smpNow = m.smpNow := rfl
@[simp] theorem setEp_smpWait (m : Mach) (x : EpSt) : (m.setEp x).smpWait = m.smpWait := rfl
@[simp] theorem setEp_smpDropped (m : Mach) (x : EpSt) : (m.setEp x).smpDropped = m.smpDropped := rfl
@[simp] theorem setEp_gusset (m : Mach) (x : EpSt) : (m.setEp x).gusset = m.gusset := rfl
@[simp] theorem setEp_plt (m : Mach) (x : EpSt) : (m.setEp x).plt = m.plt := rfl
@[simp] theorem setEp_cuff (m : Mach) (x : EpSt) : (m.setEp x).cuff = m.cuff := rfl
@[simp] theorem setEp_mem (m : Mach) (x : EpSt) : (m.setEp x).mem = m.mem := rfl
@[simp] theorem setEp_ep (m : Mach) (x : EpSt) : (m.setEp x).ep = x := rfl
@[simp] theorem setEp_guardSx (m : Mach) (x : EpSt) : (m.setEp x).guardSx = m.guardSx := rfl
@[simp] theorem setEp_guardEp (m : Mach) (x : EpSt) : (m.setEp x).guardEp = m.guardEp := rfl
@[simp] theorem setEp_torn (m : Mach) (x : EpSt) : (m.setEp x).torn = m.torn := rfl
@[simp] theorem setEp_relay (m : Mach) (x : EpSt) : (m.setEp x).relay = m.relay := rfl
@[simp] theorem setEp_oeng (m : Mach) (x : EpSt) : (m.setEp x).oeng = m.oeng := rfl
@[simp] theorem setEp_rings (m : Mach) (x : EpSt) : (m.setEp x).rings = m.rings := rfl
@[simp] theorem setEp_pairs (m : Mach) (x : EpSt) : (m.setEp x).pairs = m.pairs := rfl
@[simp] theorem setEp_els (m : Mach) (x : EpSt) : (m.setEp x).els = m.els := rfl
@[simp] theorem setEp_ocuCap (m : Mach) (x : EpSt) : (m.setEp x).ocuCap = m.ocuCap := rfl
@[simp] theorem setEp_changes (m : Mach) (x : EpSt) : (m.setEp x).changes = m.changes := rfl
@[simp] theorem setEp_chatter (m : Mach) (x : EpSt) : (m.setEp x).chatter = m.chatter := rfl
@[simp] theorem setEp_power (m : Mach) (x : EpSt) : (m.setEp x).power = m.power := rfl
@[simp] theorem setEp_boot (m : Mach) (x : EpSt) : (m.setEp x).boot = m.boot := rfl
@[simp] theorem setEp_i3cAddr (m : Mach) (x : EpSt) : (m.setEp x).i3cAddr = m.i3cAddr := rfl
@[simp] theorem setEp_out (m : Mach) (x : EpSt) : (m.setEp x).out = m.out := rfl
@[simp] theorem setEp_freeCtr (m : Mach) (x : EpSt) : (m.setEp x).freeCtr = m.freeCtr := rfl

end Mach
end Sys2Proof.Machine
end

section
/-! O7: the symbols of a frame (R59) and the pulse of a boundary on STITCH_OUT (R61).

A frame's symbols are arithmetic on the stitch number. The pulse needs one fact of the whole boundary: what is driven
outward stays driven, because no later part of the boundary takes an output back. -/

namespace Sys2Proof.Machine
open Sys2Proof

/-! ### The check bits of a frame (R59) -/

/-- Adding up consecutive bits of a number counts the ones among them. -/
theorem foldl_add_bits (x lo n : Nat) :
    ((List.range n).map fun i => bitsOf x (lo + i) 1).foldl (· + ·) 0
      = ((List.range n).filter fun i => x.testBit (lo + i)).length := by
  induction n with
  | zero => rfl
  | succ n ih =>
    have hbit : bitsOf x (lo + n) 1 = (x.testBit (lo + n)).toNat := by
      rw [bitsOf, pow_one, Nat.toNat_testBit]
    rw [List.range_succ, List.map_append, List.foldl_append, ih, List.filter_append, List.length_append]
    simp only [List.map_cons, List.map_nil, List.foldl_cons, List.foldl_nil, hbit]
    cases h : x.testBit (lo + n) <;> simp [h]

/-- The ones among bits `a` to `a + b - 1` of a number, counted over all the places below `a + b`. -/
theorem length_filter_bits_from (x a b : Nat) :
    ((List.range (a + b)).filter fun i => decide (a ≤ i) && x.testBit i).length
      = ((List.range b).filter fun i => x.testBit (a + i)).length := by
  have hlow : ((List.range a).filter fun i => decide (a ≤ i) && x.testBit i) = [] := by
    rw [List.filter_eq_nil_iff]
    intro i hi
    simp [Nat.not_le.2 (List.mem_range.1 hi)]
  rw [List.range_add, List.filter_append, hlow, List.nil_append, List.filter_map, List.length_map]
  simp [Function.comp_def]

namespace Mach

/-- The check of a frame is the number of ones in F[63:6], modulo 32. -/
theorem frameOnes_eq (f : Nat) :
    frameOnes f = ((List.range 64).filter fun i => decide (6 ≤ i) && f.testBit i).length % 32 := by
  rw [frameOnes, foldl_add_bits, length_filter_bits_from f 6 58]

/-- The symbol of stitch `k` of the frame that stitch `f` begins. -/
theorem stitchSymbol_place (f k : Nat) (hf : f % 64 = 0) (hk : k < 64) :
    stitchSymbol (f + k) =
      if k = 0 then 2 else if k ≤ 58 then bitsOf f (k + 5) 1 else bitsOf (frameOnes f) (k - 59) 1 := by
  have hplace : (f + k) % 64 = k := by omega
  simp only [stitchSymbol, hplace, Nat.add_sub_cancel]

/-! ### What is driven outward stays driven -/

/-- Everything that `m` has driven outward, `n` has driven too. -/
def outKept (m n : Mach) : Prop := m.out ⊆ n.out

theorem outKept_of_eq {m n : Mach} (h : n.out = m.out) : m.outKept n := fun _ ho => h ▸ ho

theorem outKept.refl (m : Mach) : m.outKept m := List.Subset.refl _

theorem outKept.trans {m n o : Mach} (h : m.outKept n) (g : n.outKept o) : m.outKept o := List.Subset.trans h g

theorem outKept_ite {m a b : Mach} (p : Prop) [Decidable p] (ha : m.outKept a) (hb : m.outKept b) :
    m.outKept (if p then a else b) := by
  split <;> assumption

/-- A fold whose every step takes no output back takes none back. -/
theorem outKept_foldl {α : Type} (f : Mach → α → Mach) (h : ∀ (m : Mach) a, m.outKept (f m a)) (l : List α) (m : Mach) :
    m.outKept (l.foldl f m) := by
  induction l generalizing m with
  | nil => exact .refl m
  | cons a l ih => exact (h m a).trans (ih _)

theorem outKept_emit (m : Mach) (o : Out) : m.outKept (m.emit o) := List.subset_cons_self o m.out

theorem outKept_updateIrq (m : Mach) (c : Chip) : m.outKept (m.updateIrq c) := by
  have hrf (r : RegFile) : m.outKept (m.setRf c r) := outKept_of_eq (setRf_out ..)
  unfold updateIrq
  dsimp only
  refine outKept_ite _ ?_ (hrf _)
  cases c with
  | sx =>
    have hpath (n : Mach) (b : Bool) (o : Out) : n.outKept (if b then n.emit o else n) :=
      outKept_ite _ (outKept_emit n o) (.refl n)
    exact ((hrf _).trans (hpath _ _ _)).trans (hpath _ _ _)
  | ep => exact outKept_ite _ (hrf _) ((hrf _).trans (outKept_emit _ _))

theorem outKept_setIntBit (m : Mach) (c : Chip) (p b : Nat) : m.outKept (m.setIntBit c p b) :=
  (outKept_of_eq (setWord_out ..)).trans (outKept_updateIrq ..)

theorem out_ite (p : Prop) [Decidable p] (a b : Mach) : (if p then a else b).out = if p then a.out else b.out := by
  split <;> rfl

@[simp] theorem logError_out (m : Mach) (c : Chip) (p b d : Nat) : (m.logError c p b d).out = m.out := by
  simp [logError, setReg, out_ite]

@[simp] theorem ringStore_out (m : Mach) (d p t b x : Nat) : (m.ringStore d p t b x).out = m.out := by
  simp [ringStore, setTWord, out_ite]

theorem outKept_bump (m : Mach) (c : Chip) (p o : Nat) : m.outKept (m.bump c p o) := outKept_of_eq (bump_out ..)

theorem outKept_ringStore (m : Mach) (d p t b x : Nat) : m.outKept (m.ringStore d p t b x) :=
  outKept_of_eq (ringStore_out ..)

theorem outKept_ringFreeze (m : Mach) (d : Nat) : m.outKept (m.ringFreeze d) := by
  have hfrozen : m.outKept ((m.setFld .sx Pg.trace ⟨R.trcStatus, 26 + d, 1⟩ 1).setIntBit .sx Pg.trace 0) :=
    (outKept_of_eq (setFld_out ..)).trans (outKept_setIntBit ..)
  unfold ringFreeze
  dsimp only
  exact outKept_ite _ (hfrozen.trans (outKept_ringStore ..)) (hfrozen.trans (outKept_bump ..))

theorem outKept_trace (m : Mach) (p t b d : Nat) : m.outKept (m.trace p t b d) := by
  have hlost (n : Mach) : n.outKept (n.bump .sx Pg.trace R.trcLostCnt) := outKept_bump ..
  have hstore : m.outKept (m.ringStore (dieOfPage p) p t b d) := outKept_ringStore ..
  unfold trace
  dsimp only
  exact outKept_ite _ (.refl m) (outKept_ite _ (.refl m) (outKept_ite _ (hlost m) (outKept_ite _ (hlost m)
    (outKept_ite _ ((outKept_ringFreeze ..).trans (hlost _))
      (outKept_ite _ (hstore.trans (outKept_ringFreeze ..)) hstore)))))

theorem outKept_raise (m : Mach) (c : Chip) (p b d : Nat) : m.outKept (m.raise c p b d) := by
  have hbit := outKept_setIntBit m c p b
  have hlog : m.outKept (match pageKind (m.setIntBit c p b).epParams c p with
      | some k => if errorSeverity k b then (m.setIntBit c p b).logError c p b d else m.setIntBit c p b
      | none => m.setIntBit c p b) := by
    split
    · exact outKept_ite _ (hbit.trans (outKept_of_eq (logError_out ..))) hbit
    · exact hbit
  cases c with
  | sx => exact hlog.trans (outKept_trace ..)
  | ep => exact hlog

/-! ### The parts of a boundary -/

@[simp] theorem setShedSrc_out (m : Mach) (i : Nat) (x : ShedSrc) : (m.setShedSrc i x).out = m.out := by
  unfold setShedSrc; dsimp only; split <;> simp

@[simp] theorem powerTick_out (m : Mach) (a r : Nat) : (m.powerTick a r).out = m.out := by
  simp [powerTick, shedAsk, calTake, out_ite]

@[simp] theorem latchWeights_out (m : Mach) : m.latchWeights.out = m.out := by
  unfold latchWeights
  exact (foldl_keep (·.out) _ (fun n k => setWord_out n ..) _ _).trans (setRf_out ..)

@[simp] theorem setMap_out (m : Mach) (k : Nat) (x : MapAcct) : (m.setMap k x).out = m.out := rfl

@[simp] theorem mapTick_out (m : Mach) : m.mapTick.out = m.out := by
  unfold mapTick
  refine foldl_keep (·.out) _ (fun n a => ?_) _ m
  simp [out_ite]

theorem outKept_sampleDrop (m : Mach) (k : Nat) : m.outKept (m.sampleDrop k) := by
  have hcount : m.outKept (m.bump .sx Pg.mdr k) := outKept_bump ..
  unfold sampleDrop
  dsimp only
  exact outKept_ite _ hcount (hcount.trans (outKept_raise { m.bump .sx Pg.mdr k with smpDropped := true } ..))

theorem outKept_sampleTick (m : Mach) : m.outKept m.sampleTick := by
  unfold sampleTick
  extract_lets n old full
  exact outKept_foldl (fun (m : Mach) (_ : Sample) => m.sampleDrop (if full then R.mdrSmpFullCnt else R.mdrSmpLateCnt))
    (fun n _ => outKept_sampleDrop n _) old { n with smpWait := _ }

theorem releaseVc_out (p : Nat) (a : Mach × Nat) (v : Nat) : (releaseVc p a v).1.out = a.1.out := by
  unfold releaseVc
  extract_lets m o n
  split
  · rfl
  · exact setLk_out ..

@[simp] theorem releaseOwed_out (m : Mach) : m.releaseOwed.out = m.out := by
  have hport (p : Nat) (l : List Nat) (a : Mach × Nat) : (l.foldl (releaseVc p) a).1.out = a.1.out := by
    induction l generalizing a with
    | nil => rfl
    | cons v l ih => rw [List.foldl_cons, ih, releaseVc_out]
  unfold releaseOwed
  refine foldl_keep (·.out) _ (fun n p => ?_) _ m
  dsimp only
  split <;> exact hport p _ _

@[simp] theorem freezeRetired_out (m : Mach) : m.freezeRetired.out = m.out := by
  unfold freezeRetired
  refine foldl_keep (·.out) _ (fun n p => ?_) _ m
  unfold freezePage; split <;> simp

@[simp] theorem armTables_out (m : Mach) (c : Chip) : (m.armTables c).out = m.out := by simp [armTables]

@[simp] theorem sleepTick_out (m : Mach) (c : Chip) : (m.sleepTick c).out = m.out := by
  unfold sleepTick
  exact foldl_keep (·.out) _ (fun n p => by simp [out_ite]) _ m

@[simp] theorem setSent_out (m : Mach) (c : Chip) (p t : Nat) : (m.setSent c p t).out = m.out := by
  cases c with
  | sx => rfl
  | ep => exact setFld_out ..

theorem outKept_orderedSet (m : Mach) (c : Chip) (p : Nat) : m.outKept (m.orderedSet c p) := by
  simp [outKept, orderedSet, fresh]

theorem outKept_linkBeats (m : Mach) (c : Chip) : m.outKept (m.linkBeats c) := by
  unfold linkBeats
  dsimp only
  have hsets := outKept_ite (m.now c % 16 = 0)
    (outKept_foldl (fun (m : Mach) p => m.orderedSet c p) (fun n p => outKept_orderedSet n c p) (m.awakePorts c) m)
    (.refl m)
  exact outKept_ite _ (hsets.trans (outKept_foldl _ (fun n _ => outKept_emit n _) _ _)) hsets

/-- What the SX-4 drives at its boundary it has driven when the boundary is over. -/
theorem outKept_sxBoundary (m : Mach) (ph : Int) (a r : Nat) :
    (m.advanceStitch ph).stitchPulseOut.outKept (m.sxBoundary ph a r) := by
  have hpower (n : Mach) : n.outKept ((n.armTables .sx).freezeRetired.powerTick a r).latchWeights.mapTick :=
    outKept_of_eq (by simp)
  have hcredits (n : Mach) : n.outKept n.releaseOwed := outKept_of_eq (releaseOwed_out n)
  have hlining (n : Mach) : n.outKept { n with liningFull := [] } := .refl n
  have hlinks (n : Mach) : n.outKept ((n.sleepTick .sx).linkBeats .sx) :=
    (outKept_of_eq (sleepTick_out ..)).trans (outKept_linkBeats ..)
  unfold sxBoundary
  dsimp only
  exact outKept_ite _ (.refl _)
    (((((hpower _).trans (outKept_sampleTick _)).trans (hcredits _)).trans (hlining _)).trans (hlinks _))

/-! ### The pulse of a boundary -/

theorem advanceStitch_timed (m : Mach) (ph : Int) : (m.advanceStitch ph).timed = m.timed := by
  have hst : (m.advanceStitch ph).time.st = m.time.st := by
    simp only [advanceStitch, time_ite, putTime_time]
    split <;> rfl
  simp only [timed, hst]

/-- Advancing the stitch writes STH_STATUS and no other register. -/
theorem regsKept_advanceStitch (m : Mach) (ph : Int) :
    m.regsKept (m.advanceStitch ph) .sx (fun k => k == item Pg.stitch 0 R.sthStatus) := by
  unfold advanceStitch
  dsimp only
  exact regsKept_ite _ (regsKept_putTime _ _ _ (beq_self_eq_true _)) (regsKept_putTime _ _ _ (beq_self_eq_true _))

theorem advanceStitch_epParams (m : Mach) (ph : Int) : (m.advanceStitch ph).epParams = m.epParams := by
  have h (t : Timing) : (m.putTime t).epParams = m.epParams := by
    rw [← bare_epParams, putTime_bare, ← bare_epParams m]
  unfold advanceStitch
  dsimp only
  split <;> exact h _

theorem advanceStitch_outEn (m : Mach) (ph : Int) :
    (m.advanceStitch ph).bit .sx Pg.stitch F.sthCtrl_outEn = m.bit .sx Pg.stitch F.sthCtrl_outEn := by
  simp only [bit, fld_of_kept (regsKept_advanceStitch m ph) (advanceStitch_epParams m ph) Pg.stitch F.sthCtrl_outEn
    (by decide)]

/-- In LOCKED and HOLDOVER with out_en at 1 the stitch that begins is driven on STITCH_OUT (R61). -/
theorem stitchOut_mem_sxBoundary (m : Mach) (ph : Int) (a r : Nat) (ht : m.timed = true)
    (he : m.bit .sx Pg.stitch F.sthCtrl_outEn = true) :
    Out.stitchOut (stitchSymbol (m.sxBoundary ph a r).time.number) ∈ (m.sxBoundary ph a r).out := by
  apply outKept_sxBoundary
  rw [sxBoundary_time, stitchPulseOut, advanceStitch_timed, advanceStitch_outEn, ht, he]
  exact List.mem_cons_self

end Mach

/-- Settles O7: the symbols by their places and the count of ones, the pulse because the boundary emits it and takes no
output back, the reading by the receiver's own lemma. -/
theorem framesCarryTheirNumber : Obligations.FramesCarryTheirNumber := by
  unfold Obligations.FramesCarryTheirNumber
  refine ⟨?symbols, ?pulse, ?reading⟩
  case symbols =>
    intro f k hf _ hk
    rw [Mach.stitchSymbol_place f k hf hk, Mach.frameOnes_eq]
    simp only [bitsOf, pow_one]
  case pulse =>
    intro s ph a r hst hen
    have ht : s.m.timed = true := by rcases hst with h | h <;> simp [Mach.timed, h]
    exact ⟨_, rfl, Mach.stitchOut_mem_sxBoundary s.m ph a r ht hen⟩
  case reading => exact Mach.frameNumber_symbols

end Sys2Proof.Machine
end

section
/-! O30: the check of ZLY_TEST at a port of the SX-4 (R240).

A test moves the port's expected value and, where it does not match, counts. A training starts the check anew because the
link's coming up erases that value, and nothing that the port does afterwards in coming up sets one. -/

namespace Sys2Proof.Machine
open Sys2Proof

namespace Mach

/-! ### A test that arrives (R240) -/

/-- The machine once the port of a test with `aux` expects the next value. -/
def expectAfter (m : Mach) (p aux : Nat) : Mach :=
  { m with zlySeq := Tbl.set (fun _ => none) m.zlySeq p (some ((aux + 1) % 2 ^ 64)) }

/-- A test whose aux is not the value that its port expects; after a training the port expects none. -/
def testMismatch (m : Mach) (p aux : Nat) : Bool := (Tbl.get (fun _ => none) m.zlySeq p).any (· != aux)

@[simp] theorem get_expectAfter_zlySeq (m : Mach) (p aux : Nat) :
    Tbl.get (fun _ => none) (m.expectAfter p aux).zlySeq p = some ((aux + 1) % 2 ^ 64) := by
  simp only [expectAfter, Tbl.get_set, if_true]

theorem testMismatch_collect (m : Mach) (p aux q : Nat) (x : Packet) :
    (m.collect .sx q x).testMismatch p aux = m.testMismatch p aux := rfl

/-- A test always moves the expected value, and counts exactly where it does not match. -/
theorem zlyTest_eq (m : Mach) (p aux : Nat) :
    m.zlyTest p aux =
      if m.testMismatch p aux then (m.expectAfter p aux).bump .sx (Pg.port p) R.prtZlyTestErrCnt
      else m.expectAfter p aux := by
  unfold zlyTest testMismatch
  cases Tbl.get (fun _ => none) m.zlySeq p with
  | none => rfl
  | some e =>
    by_cases h : aux = e
    · simp [h, expectAfter]
    · simp [h, Ne.symm h, expectAfter]

@[simp] theorem bump_zlySeq (m : Mach) (c : Chip) (p o : Nat) : (m.bump c p o).zlySeq = m.zlySeq := setRf_zlySeq ..

/-! ### A link that comes up (R495) -/

/-- What a port holds for its partner is apart from the check of its tests. -/
@[simp] theorem holdEnd_zlySeq (m : Mach) (p node : Nat) : (m.holdEnd p node).zlySeq = m.zlySeq := by
  unfold holdEnd
  dsimp only
  split
  · split
    · exact bump_zlySeq ..
    · rfl
  · rfl

/-- A link of the SX-4 that comes up expects no value. -/
theorem get_linkUp_zlySeq (m : Mach) (p : Nat) : Tbl.get (fun _ => none) (m.linkUp .sx p).zlySeq p = none := by
  simp only [linkUp, holdEnd_zlySeq, Tbl.get_erase, if_true]

/-- The partner's ACTIVE for the port's own step and mask brings up a link that has sent its own. -/
theorem activeIn_own (m : Mach) (c : Chip) (p : Nat) (hst : (m.lk c p).st = .climbing)
    (hsent : (m.lk c p).activeSent = true) :
    m.activeIn c p (m.lk c p).step (m.lk c p).mask =
      (m.updLk c p fun l => { l with activeRecv := some ((m.lk c p).step, (m.lk c p).mask) }).linkUp c p := by
  simp [activeIn, activeTry, updLk, hst, hsent]

end Mach

/-! ### The commands -/

theorem exec_zlyTest (s : State) (p : Nat) (x : Packet) (hp : p < 144) :
    exec (.zlyTest p x) s = .next { s with m := (s.m.collect .sx p x).zlyTest p x.aux } :=
  if_pos (decide_eq_true hp)

theorem exec_active (s : State) (p step mask : Nat) (hr : s.m.portRuns .sx p) :
    exec (.active .sx p step mask) s = .next { s with m := s.m.activeIn .sx p step mask } := by
  obtain ⟨hport, hon, -⟩ := hr
  exact onPort_eq s .sx p _ hport hon fun h => nomatch h

/-- A test that matches, or the first one after a training, moves the expected value and nothing else. -/
theorem becomes_expectAfter (s : State) (p : Nat) (x : Packet) (f : Nat → Bool) :
    let n := (s.m.collect .sx p x).expectAfter p x.aux
    s.becomes { s with m := n }
      { s.m with zlySeq := n.zlySeq, arrivedPkts := s.m.arrivedPkts.erase (.sx, p, x) } .sx f :=
  becomes_of rfl (.refl ..) rfl

/-- A test that does not match also writes its port's counter. -/
theorem becomes_expectAfter_bump (s : State) (p : Nat) (x : Packet) :
    let n := ((s.m.collect .sx p x).expectAfter p x.aux).bump .sx (Pg.port p) R.prtZlyTestErrCnt
    s.becomes { s with m := n }
      { s.m with zlySeq := n.zlySeq, arrivedPkts := s.m.arrivedPkts.erase (.sx, p, x) } .sx
      (portWord p R.prtZlyTestErrCnt) := by
  refine becomes_of ?_ (Mach.regsKept_bump _ _ _ _ _ (beq_self_eq_true _)) (Mach.other_bump ..)
  rw [Mach.bump_bare, Mach.bump_zlySeq]
  rfl

/-- Settles O30: the test by whether it mismatches, the training because a link that comes up erases the expected value. -/
theorem testPacketsAreConsumed : Obligations.TestPacketsAreConsumed := by
  unfold Obligations.TestPacketsAreConsumed
  refine ⟨?test, ?training⟩
  case test =>
    intro s p x hp wrong
    have hwrong : s.m.testMismatch p x.aux = wrong := by
      unfold Mach.testMismatch wrong
      cases Tbl.get (fun _ => none) s.m.zlySeq p <;> rfl
    clear_value wrong
    rw [exec_zlyTest s p x hp, Mach.zlyTest_eq, Mach.testMismatch_collect, hwrong]
    cases wrong with
    | false => exact ⟨_, rfl, Mach.get_expectAfter_zlySeq .., nofun, becomes_expectAfter s p x _⟩
    | true =>
      refine ⟨_, rfl, ?next, fun _ => Mach.word_bump .., becomes_expectAfter_bump s p x⟩
      simp only [if_true, Mach.bump_zlySeq, Mach.get_expectAfter_zlySeq]
  case training =>
    intro s p hruns hst hsent
    refine ⟨_, exec_active s p _ _ hruns, ?_⟩
    rw [Mach.activeIn_own _ _ _ hst hsent]
    exact Mach.get_linkUp_zlySeq ..

end Sys2Proof.Machine
end

section
/-! O53: requests and cancels of a commit (R545).

A write of COMMIT_CTRL does three things in order: it stores its value without go and cancel, it withdraws the pending commit
where a cancel still reaches it, and it makes its request where READY admits a go. The first two leave the machine
`commitWritten`, whatever the write; each case of the request is then read off that machine. -/

namespace Sys2Proof.Machine
open Sys2Proof

/-! ### The value that a write stores -/

/-- Setting bits below bit 3 concerns the last three bits only. -/
theorem or_eq_of_lt_eight (a b : Nat) (hb : b < 8) : a ||| b = a / 8 * 8 + (a % 8 ||| b) := by
  have hdiv : (a ||| b) / 2 ^ 3 = a / 2 ^ 3 := by
    rw [Nat.or_div_two_pow, Nat.div_eq_of_lt (show b < 2 ^ 3 from hb), Nat.or_zero]
  have hmod : (a ||| b) % 2 ^ 3 = a % 2 ^ 3 ||| b := by
    rw [Nat.or_mod_two_pow, Nat.mod_eq_of_lt (show b < 2 ^ 3 from hb)]
  calc a ||| b = (a ||| b) / 2 ^ 3 * 2 ^ 3 + (a ||| b) % 2 ^ 3 := (Nat.div_add_mod' ..).symm
    _ = a / 2 ^ 3 * 2 ^ 3 + (a % 2 ^ 3 ||| b) := by rw [hdiv, hmod]

/-- A value with go set. -/
theorem or_one_eq (a : Nat) : a ||| 1 = a - a % 2 + 1 := by
  have hlow : ∀ r < 8, r ||| 1 = r - r % 2 + 1 := by decide
  rw [or_eq_of_lt_eight a 1 (by decide), hlow (a % 8) (Nat.mod_lt _ (by decide))]
  omega

/-- A value with cancel set. -/
theorem or_four_eq (a : Nat) : a ||| 4 = a - a / 4 % 2 * 4 + 4 := by
  have hlow : ∀ r < 8, r ||| 4 = r - r / 4 % 2 * 4 + 4 := by decide
  rw [or_eq_of_lt_eight a 4 (by decide), hlow (a % 8) (Nat.mod_lt _ (by decide))]
  omega

namespace Mach

/-! ### The pending commit of a chip -/

/-- The machine with `q` as chip `c`'s pending commit. -/
def withCommit (m : Mach) (c : Chip) (q : Option PendingCommit) : Mach := m.setRf c { m.rf c with commit := q }

@[simp] theorem commit_withCommit (m : Mach) (c : Chip) (q : Option PendingCommit) :
    ((m.withCommit c q).rf c).commit = q := by simp [withCommit]

theorem withCommit_commit (m : Mach) (c : Chip) : m.withCommit c (m.rf c).commit = m := by cases c <;> rfl

@[simp] theorem withCommit_withCommit (m : Mach) (c : Chip) (q r : Option PendingCommit) :
    (m.withCommit c q).withCommit c r = m.withCommit c r := by cases c <;> rfl

@[simp] theorem withCommit_bare (m : Mach) (c : Chip) (q : Option PendingCommit) : (m.withCommit c q).bare = m.bare :=
  setRf_bare ..

@[simp] theorem other_withCommit (m : Mach) (c : Chip) (q : Option PendingCommit) :
    (m.withCommit c q).rf (otherChip c) = m.rf (otherChip c) := rf_setRf_other _ _ _ _ (otherChip_ne c)

@[simp] theorem word_withCommit (m : Mach) (c : Chip) (q : Option PendingCommit) (k : Nat) :
    (m.withCommit c q).word c k = m.word c k := by simp [withCommit, word]

@[simp] theorem live_withCommit (m : Mach) (c : Chip) (q : Option PendingCommit) (k : Nat) :
    (m.withCommit c q).live c k = m.live c k := by cases c <;> rfl

/-- What keeps the registers beside the words of `f` keeps them whatever commit is pending before and after. -/
theorem regsKept.withCommit {m n : Mach} {c : Chip} {f : Nat → Bool} (h : m.regsKept n c f) (q : Option PendingCommit) :
    (m.withCommit c q).regsKept (n.withCommit c q) c f := by
  refine ⟨?file, fun k hk => by simp only [word_withCommit, h.2 k hk]⟩
  simp only [Mach.withCommit, rf_setRf]
  rw [h.1]

@[simp] theorem commit_bump (m : Mach) (c : Chip) (p o : Nat) : ((m.bump c p o).rf c).commit = (m.rf c).commit := by
  simp [bump, bumpBy, setWord]

@[simp] theorem commit_setFld (m : Mach) (c : Chip) (p : Nat) (f : Fld) (v : Nat) :
    ((m.setFld c p f v).rf c).commit = (m.rf c).commit := by simp [setFld, setWord]

/-! ### A cancel -/

/-- The commit that a cancel served at cycle `x` leaves pending: the one due in this stitch, after cycle 776. -/
def commitKept (m : Mach) (c : Chip) (x : Nat) : Option PendingCommit :=
  (m.rf c).commit.filter fun q => decide (q.at_ = m.now c ∧ 776 < x)

/-- A pending commit that names no stitch is due in this stitch or the next (R51). -/
def commitSoon (m : Mach) (c : Chip) : Prop :=
  ∀ q, (m.rf c).commit = some q → q.named = false → m.now c ≤ q.at_ ∧ q.at_ ≤ m.now c + 1

theorem dueNow_iff {m : Mach} {c : Chip} (h : m.commitSoon c) {q : PendingCommit} (hq : (m.rf c).commit = some q) :
    m.dueNow c q.named q.at_ = true ↔ q.at_ = m.now c := by
  have hsoon := h q hq
  cases hn : q.named with
  | true => simp [dueNow]
  | false =>
    have := hsoon hn
    simp only [dueNow, Bool.false_eq_true, if_false, bne_iff_ne]
    omega

theorem commitCancel_eq {m : Mach} {c : Chip} (h : m.commitSoon c) :
    m.commitCancel c = m.withCommit c (m.commitKept c (m.cyc c)) := by
  unfold commitCancel commitKept
  cases hq : (m.rf c).commit with
  | none => exact (hq ▸ withCommit_commit m c).symm
  | some q =>
    simp only [dueNow_iff h hq, Option.filter_some, decide_eq_true_eq]
    split
    · exact (hq ▸ withCommit_commit m c).symm
    · rfl

/-! ### A write of COMMIT_CTRL, before its request -/

/-- The page of the commit registers. -/
abbrev commitPage (c : Chip) : Nat := byChip c Pg.chip Pg.eId

/-- COMMIT_CTRL on that page. -/
abbrev commitReg (c : Chip) : Nat := byChip c R.chpCommitCtrl R.ep4CommitCtrl

/-- What a write of `v` leaves in COMMIT_CTRL: `v` without go and cancel. -/
def commitValue (v : Nat) : Nat := v % 2 ^ 32 - v % 2 - v / 4 % 2 * 4

theorem bitsOf_commitValue (v : Nat) :
    bitsOf (commitValue v) 1 1 = bitsOf v 1 1 ∧ bitsOf (commitValue v) 3 1 = bitsOf v 3 1 ∧
      bitsOf (commitValue v) 8 8 = bitsOf v 8 8 := by
  simp only [bitsOf, commitValue]
  omega

/-- The machine when the value written at cycle `x` has been stored and `q` is then the pending commit. -/
def commitWritten (m : Mach) (c : Chip) (v x : Nat) (q : Option PendingCommit) : Mach :=
  ((m.setCyc c x).setReg c (commitPage c) (commitReg c) (commitValue v)).withCommit c q

section
variable (m : Mach) (c : Chip) (v x : Nat) (q : Option PendingCommit)

@[simp] theorem cyc_setCyc : (m.setCyc c x).cyc c = x := by cases c <;> rfl

@[simp] theorem rf_setCyc (d : Chip) : (m.setCyc c x).rf d = m.rf d := by cases c <;> cases d <;> rfl

@[simp] theorem now_setCyc : (m.setCyc c x).now c = m.now c := by cases c <;> rfl

theorem regsKept_commitWritten :
    (m.withCommit c q).regsKept (m.commitWritten c v x q) c (pageWord (commitPage c) (commitReg c)) := by
  have hcyc : m.regsKept (m.setCyc c x) c (pageWord (commitPage c) (commitReg c)) := by cases c <;> exact .refl ..
  exact (hcyc.setWord _ _ (beq_self_eq_true _)).withCommit q

@[simp] theorem commit_commitWritten : ((m.commitWritten c v x q).rf c).commit = q := commit_withCommit ..

@[simp] theorem commitWritten_bare : (m.commitWritten c v x q).bare = (m.setCyc c x).bare := by simp [commitWritten]

@[simp] theorem other_commitWritten : (m.commitWritten c v x q).rf (otherChip c) = m.rf (otherChip c) := by
  rw [commitWritten, other_withCommit, setReg, other_setWord, rf_setCyc]

@[simp] theorem now_commitWritten : (m.commitWritten c v x q).now c = m.now c := by cases c <;> rfl

@[simp] theorem cyc_commitWritten : (m.commitWritten c v x q).cyc c = x := by cases c <;> rfl

@[simp] theorem chipTimed_commitWritten : (m.commitWritten c v x q).chipTimed c = m.chipTimed c := by cases c <;> rfl

@[simp] theorem withCommit_commitWritten (r : Option PendingCommit) :
    (m.commitWritten c v x q).withCommit c r = m.commitWritten c v x r := withCommit_withCommit ..

theorem word_commitWritten_own :
    (m.commitWritten c v x q).word c (item (commitPage c) 0 (commitReg c)) = BitVec.ofNat 32 (commitValue v) := by
  simp only [commitWritten, word_withCommit, word_setReg, if_true]

/-- No other word governs otherwise for the write. -/
theorem live_commitWritten {k : Nat} (hk : k ≠ item (commitPage c) 0 (commitReg c)) :
    (m.commitWritten c v x q).live c k = m.live c k := by
  have hp : (m.commitWritten c v x q).epParams = (m.withCommit c q).epParams := by
    cases c <;> rfl
  rw [live_of_kept (regsKept_commitWritten m c v x q) hp k (beq_eq_false_iff_ne.2 hk), live_withCommit]

theorem reg_commitWritten {o : Nat} (ho : o < 2 ^ 44) (hne : o ≠ commitReg c) :
    (m.commitWritten c v x q).reg c (commitPage c) o = m.reg c (commitPage c) o := by
  have hctl : commitReg c < 2 ^ 44 := by cases c <;> decide
  rw [reg, live_commitWritten m c v x q fun e => hne ((item_inj ho hctl (by decide) (by decide)).1 e).2.2, reg]

/-- A word without RWS bits that is stored once governs as it stands. -/
theorem live_of_not_rws (m : Mach) (c : Chip) {k : Nat} (hrws : (info m.epParams c k).rws = 0) (htmr : tmrBits c k = 0) :
    m.live c k = m.word c k := by
  have hall : ~~~(0 : Word) = BitVec.allOnes 32 := by decide
  simp only [live, voted, hrws, htmr, if_true]
  rw [hall, BitVec.and_allOnes]
  simp

/-- COMMIT_CTRL has no live copy of its own, so a write of it governs at once. -/
theorem reg_commitWritten_own : (m.commitWritten c v x q).reg c (commitPage c) (commitReg c) = commitValue v := by
  have hrws (par : EpParams) : (info par c (item (commitPage c) 0 (commitReg c))).rws = 0 := by cases c <;> rfl
  have htmr : tmrBits c (item (commitPage c) 0 (commitReg c)) = 0 := by cases c <;> rfl
  have hlt : commitValue v < 2 ^ 32 := by unfold commitValue; omega
  rw [reg, live_of_not_rws _ c (hrws _) htmr, word_commitWritten_own, BitVec.toNat_ofNat, Nat.mod_eq_of_lt hlt]

@[simp] theorem ready_commitWritten : (m.commitWritten c v x q).ready = m.ready := by
  cases c with
  | sx =>
    have hphase := live_commitWritten m .sx v x q (k := item Pg.chip 0 F.chpBootStatus_phase.off) (by decide)
    simp only [ready, bootPhase, fld, hphase]
  | ep => rfl

end

/-! ### The request -/

/-- The stitch that COMMIT_AT names. -/
def commitAt (m : Mach) (c : Chip) : Nat :=
  m.reg c (commitPage c) (byChip c R.chpCommitAtLo R.ep4CommitAtLo)
    + m.reg c (commitPage c) (byChip c R.chpCommitAtHi R.ep4CommitAtHi) * 2 ^ 32

/-- A request for the stitch that COMMIT_AT names comes too late at cycle `x` (R52, R67). -/
def commitTooLate (m : Mach) (c : Chip) (x : Nat) : Prop :=
  m.chipTimed c = false ∨ m.commitAt c < m.now c ∨ (m.commitAt c = m.now c ∧ 776 < x)

/-- The commit that a write of `v` at cycle `x` asks for. -/
def commitAsked (m : Mach) (c : Chip) (v x : Nat) : PendingCommit :=
  { mask := m.reg c (commitPage c) (byChip c R.chpCommitMask R.ep4CommitMask)
    named := bitsOf v 1 1 == 1
    at_ := if (bitsOf v 1 1 == 1) = true then m.commitAt c else if x ≤ 776 then m.now c else m.now c + 1
    epoch := if bitsOf v 3 1 = 1 then some (bitsOf v 8 8) else none }

/-- The counter of late requests. -/
abbrev commitLateReg (c : Chip) : Nat := byChip c R.chpCommitLateCnt R.ep4CommitLateCnt

/-- The counter of refused requests. -/
abbrev commitRefusedReg (c : Chip) : Nat := byChip c R.chpCommitRefusedCnt R.ep4CommitRefusedCnt

/-- The field that shows a late request. -/
abbrev commitLateFld (c : Chip) : Fld := if c = .sx then F.chpCommitStatus_late else F.ep4CommitStatus_late

/-- The machine after a late request. -/
def commitLate (m : Mach) (c : Chip) : Mach :=
  (m.bump c (commitPage c) (commitLateReg c)).setFld c (commitPage c) (commitLateFld c) 1

theorem commitGo_pending {m : Mach} {c : Chip} (h : (m.rf c).commit ≠ none) :
    m.commitGo c = m.bump c (commitPage c) (commitRefusedReg c) := if_pos (Option.isSome_iff_ne_none.2 h)

section
variable (m : Mach) (c : Chip) (v x : Nat)

theorem commitAt_commitWritten (q : Option PendingCommit) : (m.commitWritten c v x q).commitAt c = m.commitAt c := by
  simp only [commitAt]
  rw [reg_commitWritten, reg_commitWritten] <;> cases c <;> decide

theorem isLate_commitWritten (q : Option PendingCommit) :
    (m.commitWritten c v x q).isLate c x (m.commitAt c) = true ↔ m.commitTooLate c x := by
  simp [isLate, commitTooLate, or_assoc]

/-- With nothing pending a request is late or becomes the pending commit. -/
theorem commitGo_commitWritten :
    (m.commitWritten c v x none).commitGo c =
      if (bitsOf v 1 1 == 1) = true ∧ (m.commitWritten c v x none).isLate c x (m.commitAt c) = true then
        (m.commitWritten c v x none).commitLate c
      else m.commitWritten c v x (some (m.commitAsked c v x)) := by
  obtain ⟨hnamed, hepochEn, hepoch⟩ := bitsOf_commitValue v
  have hat := commitAt_commitWritten m c v x none
  have hmask := reg_commitWritten m c v x none (o := byChip c R.chpCommitMask R.ep4CommitMask)
    (by cases c <;> decide) (by cases c <;> decide)
  unfold commitAt at hat
  unfold commitGo
  simp only [commit_commitWritten, Option.isSome_none, Bool.false_eq_true, if_false, reg_commitWritten_own, hnamed,
    hepochEn, hepoch, hat, hmask, cyc_commitWritten, dueStitch, now_commitWritten]
  rw [← withCommit_commitWritten m c v x none (some (m.commitAsked c v x))]
  rfl

end

/-! ### The whole write -/

/-- The commit that stands when the cancel of a write of `v`, if it carries one, has been served. -/
def commitStanding (m : Mach) (c : Chip) (v x : Nat) : Option PendingCommit :=
  if bitsOf v 2 1 = 1 then m.commitKept c x else (m.rf c).commit

/-- COMMIT_CTRL written with the value `w`, which stores what `v` stores and carries the same cancel. -/
theorem commitCtrl_eq {m : Mach} {c : Chip} (h : m.commitSoon c) (v x w : Nat)
    (hw : w - place (bitsOf w 0 1) 0 1 - place (bitsOf w 2 1) 2 1 = commitValue v) :
    (m.setCyc c x).commitCtrl c w =
      if bitsOf w 0 1 = 1 ∧ (c = .ep ∨ m.ready = true) then
        (m.commitWritten c v x (m.commitStanding c w x)).commitGo c
      else m.commitWritten c v x (m.commitStanding c w x) := by
  have hcancel : (if bitsOf w 2 1 = 1 then (m.commitWritten c v x (m.rf c).commit).commitCancel c
      else m.commitWritten c v x (m.rf c).commit) = m.commitWritten c v x (m.commitStanding c w x) := by
    have hsoon : (m.commitWritten c v x (m.rf c).commit).commitSoon c := by
      simpa only [commitSoon, commit_commitWritten, now_commitWritten] using h
    simp only [commitCancel_eq hsoon, withCommit_commitWritten, commitKept, commit_commitWritten, now_commitWritten,
      cyc_commitWritten, commitStanding]
    split <;> rfl
  have hstore : (m.setCyc c x).setReg c (commitPage c) (commitReg c) (commitValue v)
      = m.commitWritten c v x (m.rf c).commit := by cases c <;> rfl
  unfold commitCtrl
  simp only [hw, hstore, hcancel, ready_commitWritten]

end Mach

/-! ### The commands -/

/-- COMMIT_GO: the go counts on the EP-4, and on the SX-4 from READY on (R584). -/
theorem exec_commitGo (s : State) (c : Chip) (v x : Nat) (h : s.m.commitSoon c) :
    let n := s.m.commitWritten c v x (s.m.commitStanding c v x)
    exec (.commitGo c v x) s = .next { s with m := if c = .ep ∨ s.m.ready = true then n.commitGo c else n } := by
  have hor := or_one_eq (v % 2 ^ 32)
  have hgo : bitsOf (v % 2 ^ 32 ||| 1) 0 1 = 1 := by simp only [bitsOf]; omega
  have hcancel : bitsOf (v % 2 ^ 32 ||| 1) 2 1 = bitsOf v 2 1 := by simp only [bitsOf]; omega
  have hvalue : (v % 2 ^ 32 ||| 1) - place (bitsOf (v % 2 ^ 32 ||| 1) 0 1) 0 1
      - place (bitsOf (v % 2 ^ 32 ||| 1) 2 1) 2 1 = Mach.commitValue v := by
    rw [hgo, hcancel]; simp only [bitsOf, place, Mach.commitValue]; omega
  change Host.Outcome.next { s with m := (s.m.setCyc c x).commitCtrl c (v % 2 ^ 32 ||| 1) } = .next { s with m := _ }
  simp only [Mach.commitCtrl_eq h v x _ hvalue, hgo, hcancel, Mach.commitStanding, true_and]

/-- COMMIT_CANCEL of a value without go. -/
theorem exec_commitCancel (s : State) (c : Chip) (v x : Nat) (h : s.m.commitSoon c) (hv : bitsOf v 0 1 = 0) :
    exec (.commitCancel c v x) s = .next { s with m := s.m.commitWritten c v x (s.m.commitKept c x) } := by
  have hor := or_four_eq (v % 2 ^ 32)
  have hgo : bitsOf (v % 2 ^ 32 ||| 4) 0 1 = 0 := by simp only [bitsOf] at hv ⊢; omega
  have hcancel : bitsOf (v % 2 ^ 32 ||| 4) 2 1 = 1 := by simp only [bitsOf]; omega
  have hvalue : (v % 2 ^ 32 ||| 4) - place (bitsOf (v % 2 ^ 32 ||| 4) 0 1) 0 1
      - place (bitsOf (v % 2 ^ 32 ||| 4) 2 1) 2 1 = Mach.commitValue v := by
    rw [hgo, hcancel]; simp only [bitsOf, place, Mach.commitValue] at hv ⊢; omega
  change Host.Outcome.next { s with m := (s.m.setCyc c x).commitCtrl c (v % 2 ^ 32 ||| 4) } = _
  simp only [Mach.commitCtrl_eq h v x _ hvalue, hgo, hcancel, Mach.commitStanding, if_true, zero_ne_one, false_and, if_false]

/-- Both commands write the same value where it carries go and cancel. -/
theorem exec_commitCancel_of_go (s : State) (c : Chip) (v x : Nat) (hv : bitsOf v 0 1 = 1) :
    exec (.commitCancel c v x) s = exec (.commitGo c (v ||| 4) x) s := by
  have hvalue : v % 2 ^ 32 ||| 4 = (v ||| 4) % 2 ^ 32 ||| 1 := by
    have h1 := or_four_eq (v % 2 ^ 32)
    have h2 := or_four_eq v
    have h3 := or_one_eq ((v ||| 4) % 2 ^ 32)
    simp only [bitsOf] at hv
    omega
  change Host.Outcome.next { s with m := (s.m.setCyc c x).commitCtrl c (v % 2 ^ 32 ||| 4) }
    = .next { s with m := (s.m.setCyc c x).commitCtrl c ((v ||| 4) % 2 ^ 32 ||| 1) }
  rw [hvalue]

/-- `t` is `s` after a write of `v` that leaves `q` pending and writes the registers `words` of the page beside COMMIT_CTRL. -/
def State.commitEnds (s : State) (c : Chip) (v x : Nat) (q : Option PendingCommit) (words : List Nat) (t : State) : Prop :=
  (t.m.rf c).commit = q ∧ t.m.storedReg c (Mach.commitPage c) (Mach.commitReg c) = Mach.commitValue v ∧
    s.becomesBut t (s.m.setCyc c x) c (fun n o => { n with commit := o.commit }) fun k =>
      (Mach.commitReg c :: words).any fun o => pageWord (Mach.commitPage c) o k

/-- A machine that keeps what the stored value left, beside `words`, ends the write. -/
theorem commitEnds_of_kept {s : State} {c : Chip} {v x : Nat} {q : Option PendingCommit} {words : List Nat} {n : Mach}
    (hcommit : (n.rf c).commit = q) (hbare : n.bare = (s.m.setCyc c x).bare)
    (hother : n.rf (otherChip c) = s.m.rf (otherChip c))
    (hkept : (s.m.commitWritten c v x q).regsKept n c fun k => words.any fun o => pageWord (Mach.commitPage c) o k)
    (hctl : ∀ o ∈ words, o < 2 ^ 44 ∧ o ≠ Mach.commitReg c) :
    s.commitEnds c v x q words { s with m := n } := by
  have hown : (words.any fun o => pageWord (Mach.commitPage c) o (item (Mach.commitPage c) 0 (Mach.commitReg c))) = false := by
    have hlt : Mach.commitReg c < 2 ^ 44 := by cases c <;> decide
    simp only [List.any_eq_false, pageWord, beq_iff_eq]
    intro o ho e
    obtain ⟨hlo, hne⟩ := hctl o ho
    exact hne ((item_inj hlt hlo (by decide) (by decide)).1 e).2.2.symm
  have hstored : n.storedReg c (Mach.commitPage c) (Mach.commitReg c) = Mach.commitValue v := by
    have hlt : Mach.commitValue v < 2 ^ 32 := by unfold Mach.commitValue; omega
    rw [Mach.storedReg, hkept.2 _ hown, Mach.word_commitWritten_own, BitVec.toNat_ofNat, Nat.mod_eq_of_lt hlt]
  have hall : (s.m.withCommit c q).regsKept n c fun k =>
      (Mach.commitReg c :: words).any fun o => pageWord (Mach.commitPage c) o k := by
    refine ((Mach.regsKept_commitWritten s.m c v x q).mono fun k hk => ?_).trans (hkept.mono fun k hk => ?_)
    · exact (Bool.or_eq_false_iff.1 hk).1
    · exact (Bool.or_eq_false_iff.1 hk).2
  have hback := hall.withCommit (s.m.rf c).commit
  rw [Mach.withCommit_withCommit, Mach.withCommit_commit] at hback
  exact ⟨hcommit, hstored, (Mach.withCommit_bare ..).trans hbare, hback, (Mach.other_withCommit ..).trans hother, rfl, rfl⟩

/-- A write that changes nothing further. -/
theorem commitEnds_commitWritten (s : State) (c : Chip) (v x : Nat) (q : Option PendingCommit) :
    s.commitEnds c v x q [] { s with m := s.m.commitWritten c v x q } :=
  commitEnds_of_kept (by simp) (by simp) (by simp) (.refl ..) (by simp)

section
variable (s : State) (c : Chip) (v x : Nat) (q : Option PendingCommit)

/-- Counting in a register of the page beside COMMIT_CTRL, once the value is stored. -/
theorem counted_bump_commitWritten {o : Nat} (ho : o < 2 ^ 44) (hne : o ≠ Mach.commitReg c) :
    s.m.counted ((s.m.commitWritten c v x q).bump c (Mach.commitPage c) o) c (Mach.commitPage c) o := by
  have hctl : Mach.commitReg c < 2 ^ 44 := by cases c <;> decide
  have hkey : item (Mach.commitPage c) 0 o ≠ item (Mach.commitPage c) 0 (Mach.commitReg c) := fun e =>
    hne ((item_inj ho hctl (by decide) (by decide)).1 e).2.2
  have hword := (Mach.regsKept_commitWritten s.m c v x q).2 _ (beq_eq_false_iff_ne.2 hkey)
  rw [Mach.counted, Mach.word_bump, hword, Mach.word_withCommit]

/-- A write whose request is refused. -/
theorem commitEnds_refused :
    s.commitEnds c v x q [Mach.commitRefusedReg c]
      { s with m := (s.m.commitWritten c v x q).bump c (Mach.commitPage c) (Mach.commitRefusedReg c) } :=
  commitEnds_of_kept (by simp) (by simp) (by rw [Mach.other_bump, Mach.other_commitWritten])
    (Mach.regsKept_bump _ _ _ _ _ (by simp [pageWord]))
    (by simp only [List.mem_singleton, forall_eq]; cases c <;> decide)

/-- A write whose request is late. -/
theorem commitEnds_late :
    s.commitEnds c v x q [Mach.commitLateReg c, (Mach.commitLateFld c).off]
      { s with m := (s.m.commitWritten c v x q).commitLate c } := by
  refine commitEnds_of_kept ?commit ?bare ?other ?kept ?beside
  case commit => simp [Mach.commitLate]
  case bare => simp [Mach.commitLate]
  case other => rw [Mach.commitLate, Mach.rf_setFld_other _ _ _ _ _ _ (Mach.otherChip_ne c), Mach.other_bump,
    Mach.other_commitWritten]
  case kept =>
    exact ((Mach.regsKept.refl ..).bump _ _ (by simp [pageWord])).setWord _ _ (by simp [pageWord])
  case beside =>
    simp only [List.mem_cons, List.not_mem_nil, or_false, forall_eq_or_imp, forall_eq]
    cases c <;> decide

/-- A late request is counted and shown. -/
theorem counted_commitLate :
    s.m.counted ((s.m.commitWritten c v x q).commitLate c) c (Mach.commitPage c) (Mach.commitLateReg c) ∧
      ((s.m.commitWritten c v x q).commitLate c).stored c (Mach.commitPage c) (Mach.commitLateFld c) = 1 := by
  have hkey : item (Mach.commitPage c) 0 (Mach.commitLateReg c) ≠ item (Mach.commitPage c) 0 (Mach.commitLateFld c).off := by
    cases c <;> decide
  have hfits : (Mach.commitLateFld c).lo + (Mach.commitLateFld c).w ≤ 32 := by cases c <;> decide
  constructor
  · rw [Mach.counted, Mach.commitLate, Mach.word_setFld, if_neg hkey]
    exact counted_bump_commitWritten s c v x q (by cases c <;> decide) (by cases c <;> decide)
  · rw [Mach.stored, Mach.commitLate, Mach.word_setFld, if_pos rfl, bitsOf_withField _ _ _ _ hfits]
    cases c <;> rfl

end

/-- Settles O53: each command stores its value and serves its cancel, and its request is refused while a commit stands, late
where it names a stitch that has passed, and otherwise the pending commit. -/
theorem commitsAreRequestedAndCancelled : Obligations.CommitsAreRequestedAndCancelled := by
  unfold Obligations.CommitsAreRequestedAndCancelled
  intro s c v x pg ctl late refused status now named at_ tooLate kept standing ends hsoon
  have hgo := exec_commitGo s c v x hsoon
  refine ⟨?cancel, fun hready => ?requests, ?ignored, exec_commitCancel_of_go s c v x⟩
  case cancel =>
    exact fun hv => ⟨_, exec_commitCancel s c v x hsoon hv, commitEnds_commitWritten ..⟩
  case requests =>
    have hserved : c = .ep ∨ s.m.ready = true := by
      cases c with
      | sx => exact .inr (hready rfl)
      | ep => exact .inl rfl
    simp only [if_pos hserved] at hgo
    refine ⟨fun hpending => ?refused, fun hnone hnamed hlate => ?late, fun hnone htimely => ?asked⟩
    case refused =>
      rw [Mach.commitGo_pending (by rwa [Mach.commit_commitWritten])] at hgo
      exact ⟨_, hgo, counted_bump_commitWritten s c v x _ (by cases c <;> decide) (by cases c <;> decide),
        commitEnds_refused ..⟩
    case late =>
      rw [show s.m.commitStanding c v x = none from hnone, Mach.commitGo_commitWritten,
        if_pos ⟨hnamed, (Mach.isLate_commitWritten ..).2 hlate⟩] at hgo
      obtain ⟨hcount, hshown⟩ := counted_commitLate s c v x none
      exact ⟨_, hgo, hcount, hshown, commitEnds_late ..⟩
    case asked =>
      rw [show s.m.commitStanding c v x = none from hnone, Mach.commitGo_commitWritten,
        if_neg fun h => htimely ⟨h.1, (Mach.isLate_commitWritten ..).1 h.2⟩] at hgo
      exact ⟨_, hgo, commitEnds_commitWritten ..⟩
  case ignored =>
    intro hsx hready
    have hignored : ¬(c = .ep ∨ s.m.ready = true) := by simp [hsx, hready]
    simp only [if_neg hignored] at hgo
    exact ⟨_, hgo, commitEnds_commitWritten ..⟩

end Sys2Proof.Machine
end

section
/-! O1 to O4: how every command ends, and the canonical form of the byte memories that it keeps.

The canonical form is kept by a byte write (`Mem.wf_writeN`) and by dropping bytes (`Mem.wf_filter`), and no command changes a
byte memory in another way: each operation that may reach a memory has its lemma below. -/

set_option Elab.async false

namespace Sys2Proof.Machine
open Sys2Proof

theorem Tbl.rising_filter {α : Type} (f : Nat × α → Bool) {t : Tbl α} (h : rising none t = true) :
    rising none (t.filter f) = true := by
  induction t with
  | nil => rfl
  | cons e t ih =>
    obtain ⟨htail, hlow⟩ := rising_tail h
    rw [List.filter_cons]
    split
    · exact rising_cons (ih htail) fun x hx => hlow x (List.mem_of_mem_filter hx)
    · exact ih htail

theorem Mem.wf_filter (f : Nat × Byte → Bool) {m : Mem} (h : m.wf = true) : Mem.wf (m.filter f) = true := by
  simp only [Mem.wf, Tbl.wf, Bool.and_eq_true, List.all_eq_true] at h ⊢
  exact ⟨Tbl.rising_filter f h.1, fun e he => h.2 e (List.mem_of_mem_filter he)⟩

/-! ### The byte memories of a store -/

namespace Store

theorem wf_iff (x : Store) : x.wf = true ↔ x.hbm.wf = true ∧ x.loc.wf = true ∧ x.scratch.wf = true := by
  simp [Store.wf, and_assoc]

variable {x : Store} (h : x.wf = true)
include h

theorem wf_hbm {b : Mem} (hb : x.hbm.wf = true → b.wf = true) : Store.wf { x with hbm := b } = true := by
  rw [wf_iff] at h ⊢; exact ⟨hb h.1, h.2⟩

theorem wf_loc {b : Mem} (hb : x.loc.wf = true → b.wf = true) : Store.wf { x with loc := b } = true := by
  rw [wf_iff] at h ⊢; exact ⟨h.1, hb h.2.1, h.2.2⟩

theorem wf_scratch {b : Mem} (hb : x.scratch.wf = true → b.wf = true) : Store.wf { x with scratch := b } = true := by
  rw [wf_iff] at h ⊢; exact ⟨h.1, h.2.1, hb h.2.2⟩

end Store

/-- A property that every step of a fold keeps holds at its end. -/
theorem foldl_inv {α β : Type} (P : α → Prop) (f : α → β → α) (hf : ∀ a b, P a → P (f a b)) (l : List β) {a : α} (h : P a) :
    P (l.foldl f a) := by
  induction l generalizing a with
  | nil => exact h
  | cons b l ih => exact ih (hf a b h)

/-! ### The pool (R352, R353) -/

namespace Mach

theorem wf_partWrite {hbm : Mem} (h : hbm.wf = true) (m : Mach) (r : PoolReq) (pt : PoolPart) :
    (partWrite hbm m r pt).1.wf = true := by
  unfold partWrite
  refine foldl_inv (fun a : Mem × PoolReq × Mach => a.1.wf = true) _ (fun a w ha => ?_) _ h
  have hwrite (lo : Nat) (bs : List Byte) : (Mem.writeN a.1 lo bs).wf = true := Mem.wf_writeN _ ha _
  simp only [apply_ite Prod.fst, apply_ite Mem.wf, hwrite, ha, ite_self]

theorem wf_partAtomic {hbm : Mem} (h : hbm.wf = true) (m : Mach) (r : PoolReq) (pt : PoolPart) :
    (partAtomic hbm m r pt).1.wf = true := by
  unfold partAtomic
  dsimp only
  split
  · exact h
  · exact Mem.wf_writeN _ h _

theorem wf_partAccess {hbm : Mem} (h : hbm.wf = true) (m : Mach) (r : PoolReq) (pt : PoolPart) (ce ue : List Nat) :
    (partAccess hbm m r pt ce ue).1.wf = true := by
  have hread (n : Mach) : (if r.pkt.opcode = Op.read then ((hbm, partRead hbm n r pt) : Mem × PoolReq × Mach)
      else if isAtomic r.pkt.opcode then partAtomic hbm n r pt else partWrite hbm n r pt).1.wf = true := by
    split
    · exact h
    · split
      · exact wf_partAtomic h ..
      · exact wf_partWrite h ..
  unfold partAccess
  dsimp only
  split <;> exact hread _

theorem wf_poolPartDone {s : Store} (h : s.wf = true) (m : Mach) (rid part : Nat) (ce ue : List Nat) :
    (poolPartDone s m rid part ce ue).1.wf = true := by
  unfold poolPartDone
  split
  case h_1 => exact h
  case h_2 r _ =>
    split
    · exact h
    · split
      · exact h
      · exact h
      · split
        · exact h
        next pt _ =>
          split
          · exact h
          · exact Store.wf_hbm h fun hb => wf_partAccess hb m r pt ce ue

theorem wf_zeroingDone {s : Store} (h : s.wf = true) (m : Mach) (r : Nat) : (zeroingDone s m r).1.wf = true := by
  unfold zeroingDone
  split
  · exact h
  · exact Store.wf_hbm h fun hb => Mem.wf_filter _ hb

end Mach

/-! ### The engines (R391, R392, R409 to R416) -/

namespace SM

/-- The byte memories beside a machine are in canonical form. -/
def Canonical (x : SM) : Prop := x.1.wf = true

section
variable {x : SM} (h : x.Canonical)
include h

/-- What changes the machine only. -/
theorem canonical_machine (m : Mach) : Canonical (x.1, m) := h

theorem canonical_scrWrite (c off : Nat) (bs : List Byte) : Canonical (x.scrWrite c off bs) :=
  Store.wf_scratch h fun hb => Mem.wf_writeN _ hb _

theorem canonical_sinkTo (s : Slot) (space addr : Nat) (bs : List Byte) (tag : Option Nat) :
    Canonical (x.sinkTo s space addr bs tag) := by
  unfold sinkTo
  split
  · exact canonical_scrWrite h ..
  · exact h

theorem canonical_copyPiece (s : Slot) (off : Nat) (bs : List Byte) : Canonical (x.copyPiece s off bs) := by
  unfold copyPiece
  exact canonical_sinkTo (canonical_machine h _) ..

theorem canonical_hostAnswered (r : HostReq) (ok : Bool) (bs : List Byte) : Canonical (x.hostAnswered r ok bs) := by
  unfold hostAnswered
  split
  case h_1 => exact h
  case h_2 =>
    extract_lets m n
    split
    · exact h
    · split
      · exact h
      · split
        · exact h
        · split
          · split
            · exact canonical_sinkTo (canonical_machine h _) ..
            · exact h
          · exact canonical_sinkTo (canonical_machine h _) ..

theorem canonical_sendUnit (s : Slot) (op plane aux cut addr len : Nat) :
    Canonical (x.sendUnit s op plane aux cut addr len) := by
  unfold sendUnit
  refine foldl_inv Canonical _ (fun y p hy => ?_) _ h
  split <;> exact hy

theorem canonical_sendChunk (s : Slot) (i : Nat) : Canonical (x.sendChunk s i) := by
  unfold sendChunk
  refine foldl_inv Canonical _ (fun y p hy => ?_) _ h
  exact iteInduction (fun _ => hy) fun _ => canonical_sendUnit hy ..

theorem canonical_sendShares (s : Slot) : Canonical (x.sendShares s) := by
  unfold sendShares
  refine foldl_inv Canonical _ (fun y p hy => ?_) _ h
  split <;> exact hy

/-! ### The moves of a descriptor -/

theorem canonical_stepPut (s : Slot) : ∀ y ∈ x.stepPut s, Canonical y := by
  intro y hy
  unfold stepPut at hy
  extract_lets a k fin flag at hy
  split at hy
  · cases hy; exact h
  · obtain ⟨m, _, rfl⟩ := Option.map_eq_some_iff.1 hy; exact h

theorem canonical_stepGet (s : Slot) : ∀ y ∈ x.stepGet s, Canonical y := by
  have hdef := @rfl _ stepGet
  conv at hdef => rhs; delta stepGet
  intro y hy
  rw [hdef] at hy
  beta_reduce at hy
  extract_lets +onlyGivenNames a k fin at hy
  split at hy
  · split at hy
    · cases hy; exact h
    · cases hy; exact canonical_sinkTo (canonical_machine h _) ..
  · obtain ⟨m, _, rfl⟩ := Option.map_eq_some_iff.1 hy; exact h

theorem canonical_stepOne (s : Slot) (a : Mach.Ask) : ∀ y ∈ x.stepOne s a, Canonical y := by
  intro y hy
  obtain ⟨m, _, rfl⟩ := Option.map_eq_some_iff.1 hy; exact h

theorem canonical_stepMgt (s : Slot) : ∀ y ∈ x.stepMgt s, Canonical y := by
  unfold stepMgt
  split
  · exact canonical_stepOne h s _
  · exact canonical_stepOne h s _

theorem canonical_stepPrefetch (s : Slot) : ∀ y ∈ x.stepPrefetch s, Canonical y := by
  intro y hy
  unfold stepPrefetch at hy
  split at hy
  · cases hy
    unfold reserve
    extract_lets m held need quota
    split <;> exact h
  · split at hy
    · cases hy; exact h
    · obtain ⟨m, _, rfl⟩ := Option.map_eq_some_iff.1 hy; exact h

theorem canonical_stepInvalidate (s : Slot) : ∀ y ∈ x.stepInvalidate s, Canonical y := by
  intro y hy
  unfold stepInvalidate at hy
  extract_lets m filling due at hy
  split at hy
  · cases hy
  · cases hy; exact h

theorem canonical_stepCopy (s : Slot) : ∀ y ∈ x.stepCopy s, Canonical y := by
  intro y hy
  unfold stepCopy at hy
  split at hy
  · cases hy
  · extract_lets k at hy
    split at hy
    · cases hy; exact h
    · cases hy; exact canonical_copyPiece h ..
    · cases hy; exact h

theorem canonical_stepHost (s : Slot) : ∀ y ∈ x.stepHost s, Canonical y := by
  intro y hy
  unfold stepHost at hy
  split at hy
  · cases hy
  · split at hy
    · cases hy; exact h
    · extract_lets k at hy
      split at hy
      · split at hy <;> cases hy <;> exact h
      · cases hy; exact h

theorem canonical_stepPlt (s : Slot) : ∀ y ∈ x.stepPlt s, Canonical y := by
  intro y hy
  unfold stepPlt at hy
  split at hy
  · cases hy
  · split at hy
    · cases hy; exact h
    · cases hy; exact canonical_machine (canonical_sendChunk h ..) _

theorem canonical_stepBkt (s : Slot) : ∀ y ∈ x.stepBkt s, Canonical y := by
  intro y hy
  unfold stepBkt at hy
  split at hy
  · cases hy
  · split at hy
    · cases hy; exact h
    · split at hy
      · cases hy; exact h
      · cases hy
        exact canonical_machine (iteInduction (fun _ => canonical_machine h _) fun _ => canonical_sendUnit h ..) _

theorem canonical_advance (s : Slot) : ∀ y ∈ x.advance s, Canonical y := by
  unfold advance
  refine iteInduction (motive := fun o => ∀ y ∈ o, Canonical y) (fun _ => canonical_stepPut h s) fun _ => ?_
  refine iteInduction (motive := fun o => ∀ y ∈ o, Canonical y) (fun _ => canonical_stepGet h s) fun _ => ?_
  refine iteInduction (motive := fun o => ∀ y ∈ o, Canonical y) (fun _ => canonical_stepPrefetch h s) fun _ => ?_
  refine iteInduction (motive := fun o => ∀ y ∈ o, Canonical y) (fun _ => canonical_stepInvalidate h s) fun _ => ?_
  refine iteInduction (motive := fun o => ∀ y ∈ o, Canonical y) (fun _ => canonical_stepOne h s _) fun _ => ?_
  refine iteInduction (motive := fun o => ∀ y ∈ o, Canonical y) (fun _ => canonical_stepOne h s _) fun _ => ?_
  refine iteInduction (motive := fun o => ∀ y ∈ o, Canonical y) (fun _ => canonical_stepOne h s _) fun _ => ?_
  refine iteInduction (motive := fun o => ∀ y ∈ o, Canonical y) (fun _ => canonical_stepCopy h s) fun _ => ?_
  refine iteInduction (motive := fun o => ∀ y ∈ o, Canonical y) (fun _ => canonical_stepHost h s) fun _ => ?_
  refine iteInduction (motive := fun o => ∀ y ∈ o, Canonical y) (fun _ => canonical_stepMgt h s) fun _ => ?_
  refine iteInduction (motive := fun o => ∀ y ∈ o, Canonical y) (fun _ => canonical_stepPlt h s) fun _ => ?_
  refine iteInduction (motive := fun o => ∀ y ∈ o, Canonical y) (fun _ => canonical_stepBkt h s) fun _ => ?_
  intro y hy
  split at hy
  · split at hy
    · cases hy; exact h
    · cases hy
  · cases hy

end

theorem canonical_advanceAll (k : Nat) {x : SM} (h : x.Canonical) (e n : Nat) : Canonical (advanceAll k x e n) := by
  induction k generalizing x with
  | zero => exact h
  | succ k ih =>
    unfold advanceAll
    split
    · exact h
    · split
      · split
        next y hy => exact ih (canonical_advance h _ y hy)
        next => exact h
      · exact h

section
variable {x : SM} (h : x.Canonical)
include h

theorem canonical_fetched (f : Fetch) : Canonical (x.fetched f) := by
  unfold fetched
  extract_lets m bs live
  split
  · split
    · exact h
    · split
      · exact h
      · split <;> exact h
  · split
    · exact h
    · split
      · exact canonical_copyPiece (canonical_machine h _) ..
      · exact h
  · split
    · exact h
    · split <;> exact h
  · split
    · exact h
    · split <;> exact h

theorem canonical_epRun : Canonical (epRun x) := by
  unfold epRun
  have hfetched := foldl_inv Canonical fetched (fun y f hy => canonical_fetched hy f)
    (x.2.ep.fetch.filter fun f => f.out == 0) h
  exact canonical_machine (foldl_inv Canonical _ (fun y s hy => canonical_advanceAll _ hy _ _) _ hfetched) _

/-! ### The commands of the engines -/

theorem canonical_takeDesc (e status : Nat) : Canonical (x.takeDesc e status) := by
  have hdef := @rfl _ takeDesc
  conv at hdef => rhs; delta takeDesc
  rw [hdef]
  beta_reduce
  extract_lets +onlyGivenNames m
  split; · exact h
  split; · exact h
  split; · exact canonical_machine h _
  split; · exact h
  split; · exact h
  split; · exact h
  split; · exact canonical_machine h _
  split
  · split
    exact canonical_machine h _
  · exact canonical_machine h _

theorem canonical_begin (e n op : Nat) : Canonical (x.begin e n op) := by
  unfold begin
  split
  · exact h
  · split <;> exact h

theorem canonical_cufStart (e n : Nat) : Canonical (x.cufStart e n) := by
  unfold cufStart
  split
  · exact h
  · split
    · exact canonical_sendShares h _
    · exact h

theorem canonical_applyRsp (t : TagSt) (s : Slot) (p : Packet) : Canonical (x.applyRsp t s p) := by
  unfold applyRsp
  extract_lets m tag fail
  split; · exact h
  split; · split <;> exact h
  split; · exact h
  split
  · split
    · exact h
    · exact canonical_sinkTo (canonical_machine h _) ..
  split; · exact h
  split; · exact h
  split; · exact h
  split <;> exact h

theorem canonical_response (port : Nat) (p : Packet) : Canonical (x.response port p) := by
  unfold response
  extract_lets queued m n
  split
  · exact h
  · extract_lets k y
    refine canonical_machine (x := y) ?_ _
    unfold y
    split
    · exact canonical_applyRsp (canonical_machine h _) ..
    · exact h

theorem canonical_recvWrite (s : Slot) (p : Packet) (plane : Nat) : Canonical (x.recvWrite s p plane) := by
  unfold recvWrite
  extract_lets kind addr late m
  split; · exact h
  split; · exact h
  exact canonical_sinkTo (canonical_machine h _) ..

theorem canonical_unit (port : Nat) (p : Packet) : Canonical (x.unit port p) := by
  unfold unit
  extract_lets queued m plane m₁ r started m₂
  split
  · split
    · split
      · exact h
      · exact canonical_recvWrite (canonical_machine h _) ..
    · exact h
  · split <;> exact h

theorem canonical_memEffect (q : MpReq) (status : Nat) : Canonical (x.memEffect q status).2 := by
  unfold memEffect
  split; · exact h
  split
  · split
    · exact Store.wf_loc h fun hb => Mem.wf_writeN _ hb _
    · exact Store.wf_loc h fun hb => Mem.wf_writeN _ hb _
  · split
    split
    · exact h
    · exact Store.wf_loc h fun hb => Mem.wf_writeN _ hb _

theorem canonical_mpAnswer (tag status : Nat) : Canonical (x.mpAnswer tag status) := by
  unfold mpAnswer
  split
  · exact h
  next q _ =>
    extract_lets first
    split
    · exact h
    · have heffect := canonical_memEffect h q status
      split
      next bs y hy =>
        rw [hy] at heffect
        extract_lets m m₁
        split <;> exact heffect

theorem canonical_scrubDone (c : Nat) : Canonical (x.scrubDone c) := by
  unfold scrubDone
  extract_lets rs inside
  split
  · exact h
  · exact Store.wf_scratch h fun hb => Mem.wf_filter _ hb

theorem canonical_hostAnswer (id : Nat) (ok : Bool) (bs : List Byte) : Canonical (x.hostAnswer id ok bs) := by
  unfold hostAnswer
  split
  · exact h
  · exact canonical_hostAnswered (canonical_machine h _) ..

end
end SM

/-! ### How a command ends -/

namespace State

/-- The outcome of a command on `s` is a next state with the same commands waiting, and canonical memories stay so. -/
def Completes (s : State) (o : Host.Outcome State Fault Refusal) : Prop :=
  ∃ t, o = .next t ∧ t.pending = s.pending ∧ (s.store.wf = true → t.store.wf = true)

/-- The outcome of a command on `s` whose units exist or not, and which carries a register write or not. -/
def Ends (s : State) (exist writes : Bool) (o : Host.Outcome State Fault Refusal) : Prop :=
  if exist = true then s.Completes o ∨ (writes = true ∧ o = .fault .outsideSpecification) else o = .fault .noSuchUnit

variable {s : State} {w : Bool}

theorem completes_self : s.Completes (.next s) := ⟨s, rfl, rfl, id⟩

theorem completes_go (f : Mach → Mach) : s.Completes (s.go f) := ⟨_, rfl, rfl, id⟩

theorem completes_goS {f : Store × Mach → Store × Mach} (hf : ∀ x, SM.Canonical x → SM.Canonical (f x)) :
    s.Completes (s.goS f) := ⟨_, rfl, rfl, hf (s.store, s.m)⟩

theorem completes_epGo {f : SM → SM} (hf : ∀ x, SM.Canonical x → SM.Canonical (f x)) : s.Completes (s.epGo f) :=
  completes_goS fun x hx => SM.canonical_epRun (hf x hx)

theorem completes_epGoM (f : Mach → Mach) : s.Completes (s.epGoM f) :=
  completes_epGo fun _ hx => SM.canonical_machine hx _

theorem completes_ran (c : Chip) (m : Mach) : s.Completes (.next (s.ran c m)) := by
  cases c with
  | sx => exact ⟨_, rfl, rfl, id⟩
  | ep => exact ⟨_, rfl, rfl, fun h => SM.canonical_epRun (x := (s.store, m)) h⟩

/-- The HBM4 stacks lose their bytes. -/
theorem completes_without_hbm (m : Mach) : s.Completes (.next { s with m := m, store := { s.store with hbm := [] } }) :=
  ⟨_, rfl, rfl, fun h => Store.wf_hbm h fun _ => Mem.wf_nil⟩

theorem ends_of_completes {o : Host.Outcome State Fault Refusal} (h : s.Completes o) : s.Ends true w o := .inl h

theorem ends_unit {ok : Bool} {o : Host.Outcome State Fault Refusal} (h : s.Ends true w o) :
    s.Ends ok w (State.unit ok o) := by
  cases ok with
  | false => rfl
  | true => exact h

theorem ends_of_unit {ok : Bool} {o : Host.Outcome State Fault Refusal} (h : s.Completes o) :
    s.Ends ok w (State.unit ok o) := ends_unit (ends_of_completes h)

theorem ends_onPort (c : Chip) (p : Nat) (f : Mach → Mach) : s.Ends (s.m.hasPort c p) w (s.onPort c p f) := by
  refine ends_of_unit ?_
  cases c with
  | sx => exact completes_go _
  | ep => exact completes_epGoM _

theorem ends_onEngine (e : Nat) (f : Mach → Mach) : s.Ends (decide (e < 36)) w (s.onEngine e f) :=
  ends_of_unit (completes_go _)

/-- A command of a pair of an engine. -/
theorem ends_onPair (e p : Nat) (f : Mach → Mach) :
    s.Ends (decide (e < 36) && decide (p < 4)) w (State.unit (decide (p < 4)) (s.onEngine e f)) := by
  cases decide (p < 4) with
  | false => rw [Bool.and_false]; rfl
  | true => rw [Bool.and_true]; exact ends_onEngine e f

theorem ends_onGate (kind unit action : Nat) :
    s.Ends (decide (unit < Mach.gateUnits kind)) w (s.onGate kind unit action) := ends_of_unit (completes_go _)

theorem completes_readReg (c : Chip) (path : Path) (page off : Nat) : s.Completes (s.readReg c path page off) :=
  completes_ran ..

theorem ends_wrote (c : Chip) (a : Access × Mach) : s.Ends true true (s.wrote c a) := by
  unfold State.wrote
  split
  · exact .inr ⟨rfl, rfl⟩
  · exact .inl (completes_ran ..)

theorem ends_writeReg (c : Chip) (path : Path) (page off value : Nat) : s.Ends true true (s.writeReg c path page off value) :=
  ends_wrote ..

theorem ends_request (op : Nat) (c : Chip) (port : Nat) (p : Packet) :
    s.Ends (s.m.hasPort c port) w (s.request op c port p) := by
  refine ends_of_unit ?_
  split
  · exact completes_self
  · cases c with
    | sx => exact completes_go _
    | ep => exact completes_epGoM _

theorem ends_mgt (op : Nat) (c : Chip) (port : Nat) (p : Packet) :
    s.Ends (s.m.hasPort c port) true (s.mgt op c port p) := by
  refine ends_unit ?_
  split
  · exact .inl completes_self
  · cases c with
    | sx =>
      dsimp only
      split
      · exact .inl completes_self
      · split
        · exact .inr ⟨rfl, rfl⟩
        · exact .inl (completes_go _)
    | ep =>
      dsimp only
      split
      · exact .inr ⟨rfl, rfl⟩
      · exact .inl (completes_epGoM _)

theorem ends_mgtReply (op : Nat) (c : Chip) (port : Nat) (p : Packet) :
    s.Ends (s.m.hasPort c port) w (s.mgtReply op c port p) := by
  refine ends_of_unit ?_
  split
  · exact completes_self
  · cases c with
    | sx => exact completes_go _
    | ep => exact completes_epGo fun _ hx => SM.canonical_response hx ..

/-- A unit or a response of an opcode that its command names. -/
theorem ends_epGo_if {ok : Bool} {f : SM → SM} (q : Prop) [Decidable q] (hf : ∀ x, SM.Canonical x → SM.Canonical (f x)) :
    s.Ends ok w (State.unit ok (s.epGo fun x => if q then f x else x)) :=
  ends_of_unit (completes_epGo fun x hx => iteInduction (fun _ => hf x hx) fun _ => hx)

theorem ends_epGo {ok : Bool} {f : SM → SM} (hf : ∀ x, SM.Canonical x → SM.Canonical (f x)) :
    s.Ends ok w (State.unit ok (s.epGo f)) := ends_of_unit (completes_epGo hf)

theorem completes_coreReset (byPin : Bool) : s.Completes (execCoreReset byPin s) := by
  unfold execCoreReset
  extract_lets m
  split
  · exact ⟨_, rfl, rfl, id⟩
  · exact completes_without_hbm _

theorem completes_stitchBoundary (c : Chip) (phase : Int) (activity rail : Nat) :
    s.Completes (execStitchBoundary c phase activity rail s) := by
  unfold execStitchBoundary
  cases c with
  | sx => exact completes_go _
  | ep => exact completes_epGoM _

theorem completes_hemCutOff (c : Chip) : s.Completes (execHemCutOff c s) := by
  unfold execHemCutOff
  cases c with
  | sx => exact completes_go _
  | ep => exact completes_epGoM _

theorem completes_commitApply (c : Chip) : s.Completes (execCommitApply c s) := by
  unfold execCommitApply
  cases c with
  | sx => exact completes_go _
  | ep => exact completes_epGoM _

theorem completes_guardCommit (c : Chip) : s.Completes (execGuardCommit c s) := by
  unfold execGuardCommit
  cases c with
  | sx => exact completes_go _
  | ep => exact completes_epGoM _

theorem ends_bitAliasWrite (c : Chip) (path : Path) (page off value : Nat) :
    s.Ends true true (execBitAliasWrite c path page off value s) :=
  iteInduction (fun _ => ends_writeReg ..) fun _ => .inl completes_self

theorem ends_intForce (c : Chip) (page value : Nat) :
    s.Ends (pageKind s.m.epParams c page).isSome w (execIntForce c page value s) := by
  unfold execIntForce
  split
  next k hk => rw [hk]; exact .inl (completes_go _)
  next hk => rw [hk]; rfl

theorem ends_i3cPrivateWrite (bytes : List Byte) : s.Ends true true (execI3cPrivateWrite bytes s) := by
  unfold execI3cPrivateWrite
  split
  · exact .inl completes_self
  · extract_lets a r
    split
    · exact .inr ⟨rfl, rfl⟩
    · exact .inl ⟨_, rfl, rfl, id⟩

theorem ends_chatterClear (value : Nat) : s.Ends true true (execChatterClear value s) :=
  iteInduction (fun _ => .inr ⟨rfl, rfl⟩) fun _ => .inl (completes_go _)

end State

/-- Every command completes, puts the chip outside its specification, or names a unit that does not exist. -/
theorem exec_ends (i : Instr) (s : State) : s.Ends (i.unitsExist s.m) i.writesRegisters (exec i s) := by
  unfold exec
  cases i
  case powerOnReset => exact .inl (State.completes_without_hbm _)
  case coreReset => exact .inl (State.completes_coreReset _)
  case coreSupplyLoss => exact .inl (State.completes_without_hbm _)
  case bootPhaseEnd | stitchInFrame | stitchEdgeMissing | stitchLock | stitchHoldoverExpired | ep4StitchSilence
    | cellSlot | tileRetireStage2 | d2dModuleRetire | liningWriteDone | liningReadbackDone | rcUpdate |
    syncWaitExpiry | groupResidency | groupRearmApply | cuffRearmApply | guardSeal | guardAbort | guardApprove |
    guardExpiry | relayGo | relayTimeout | tornKey | commitGo | commitCancel | snapshotTake | indFetchDone |
    indTimeout | digestDone | i3cPrivateRead | voltageTrigger | pwrbrkN | pwrbrkHold | shedRise | shedFall |
    selfRefreshEntry | calWindowEnd | thermalSample | hbmTempReport | gateRequestServe | hbmStackRetireHem |
    instanceReset | resetNDeassertion => exact .inl (State.completes_go _)
  case bootPhaseLimit | stitchOrderedSet | laneRecalibrate | laneRecalComplete | marginMeasure | ordinaryPacket
    | admissionDecision | admitWaiting | ctClaim | ctGrant | packetTransmit | cutThroughStomp | reseqTimeout |
    d2dModuleFailure | liningReadbackStart | portHoldExpiry | mapBatchPush | samplePush | parkedRequestResume |
    pltContrib | pltShard | chunkComplete | resultRelease | pleatSpill | spillReadback | chunkStall | groupRearm
    | bktSend | bucketComplete | cufContrib | cuffRoundClose | cuffCopySend | cuffRearm | cuffCounterClear |
    pfaultFromEndpoint | zlyTest | guardStage | ocuCapture | elsPoll | elsFault | elsFaultClear |
    elsLedgerMinute | snapshotRequest | scrubRead | hbmCeInterval | hbmStackFailure | gussetWindowClose |
    spillWriteDone => exact State.ends_of_unit (State.completes_go _)
  case stitchBoundary => exact .inl (State.completes_stitchBoundary ..)
  case hemCutOff => exact .inl (State.completes_hemCutOff _)
  case commitApply => exact .inl (State.completes_commitApply _)
  case dataFlit | idleFlit | replayTimeout | flitLockLoss | cap | stepRequest | stepAccept | stepRefuse |
    eqPreset | eqAdjust | eqDone | eqFail | check | active | keepalive | sleep | laneNarrow | laneAccept |
    laneWiden | laneRefuse | stepLockTimeout | eqTimeout | checkWindowEnd | trainingRetry | trainingRepeat |
    laneFailure | lightSleepEntry | deepSleepEntry | wake => exact State.ends_onPort ..
  case read | write | flagWrite | atomic | atomicPosted | syncWait => exact State.ends_request ..
  case poolPartDone => exact .inl (State.completes_goS fun _ hx => Mach.wf_poolPartDone hx ..)
  case readData | writeAck | atomicData | atomicAck | syncNotify | nack =>
    exact State.ends_epGo_if _ fun _ hx => SM.canonical_response hx ..
  case pltResult | bktDeliver | bktDropmap | cufResult => exact State.ends_epGo_if _ fun _ hx => SM.canonical_unit hx ..
  case mgtRead | mgtWrite => exact State.ends_mgt ..
  case mgtData | mgtAck => exact State.ends_mgtReply ..
  case pfault | contextAbortDone | doorbell | flaggedStoreRelease | completionWrite | contextFaultClear |
    sessionKeyLoad => exact State.ends_of_unit (State.completes_epGoM _)
  case ctxDoorbell => exact State.ends_unit (State.ends_writeReg ..)
  case descriptorTake => exact State.ends_epGo fun _ hx => SM.canonical_takeDesc hx ..
  case nop | fence | put | get | prefetch | invalidate | descAtomic | descAtomicPosted | descSyncWait |
    localCopy | hostCopy | mgt | pltSend | descBktSend | cufSend | collRecv =>
    exact State.ends_epGo fun _ hx => SM.canonical_begin hx ..
  case cufSendStart => exact State.ends_epGo fun _ hx => SM.canonical_cufStart hx ..
  case mpResponse => exact .inl (State.completes_epGo fun _ hx => SM.canonical_mpAnswer hx ..)
  case notifyReady | tagQuarantineExpiry => exact .inl (State.completes_epGoM _)
  case contextScrubDone => exact State.ends_epGo fun _ hx => SM.canonical_scrubDone hx ..
  case guardCommit => exact .inl (State.completes_guardCommit _)
  case downstreamFrame | upstreamFrame => exact State.ends_onEngine ..
  case oeLos | probePulse | openGraceEnd | handshakeTimeout | baselineCapture => exact State.ends_onPair ..
  case indAddrWrite | indDataWrite => exact State.ends_writeReg ..
  case indDataRead | pairLowRead => exact .inl (State.completes_readReg ..)
  case bitAliasWrite => exact State.ends_bitAliasWrite ..
  case intForce => exact State.ends_intForce ..
  case registerWrite => exact State.ends_writeReg (s := { s with m := _ }) ..
  case i3cPrivateWrite => exact State.ends_i3cPrivateWrite _
  case clockGate | ungate | blockReset => exact State.ends_onGate ..
  case regionZeroingDone => exact State.ends_of_unit (State.completes_goS fun _ hx => Mach.wf_zeroingDone hx ..)
  case chatterClear => exact State.ends_chatterClear _
  case hostBusAnswer => exact .inl (State.completes_epGo fun _ hx => SM.canonical_hostAnswer hx ..)

/-- Settles O1: `step` reads the queue's front. -/
theorem stepsTakeTheFrontCommand : Obligations.StepsTakeTheFrontCommand := by
  unfold Obligations.StepsTakeTheFrontCommand
  constructor
  · intro c rest s hpending
    simp only [step, hpending]
  · intro s hpending
    simp only [step, hpending]

/-- Settles O2: a case of `exec_ends` for each of the three sentences. -/
theorem commandsCompleteOrStop : Obligations.CommandsCompleteOrStop := by
  unfold Obligations.CommandsCompleteOrStop
  refine ⟨fun c s hexist => ?completes, fun c s hnone => ?stops, fun c s r hrefused => ?refuses⟩
  case completes =>
    have hends := exec_ends c s
    rw [State.Ends, if_pos hexist] at hends
    obtain ⟨t, hnext, hpending, -⟩ | houtside := hends
    · exact .inl ⟨t, hnext, hpending⟩
    · exact .inr houtside
  case stops =>
    have hends := exec_ends c s
    rwa [State.Ends, if_neg (by simp [hnone])] at hends
  case refuses =>
    have hends := exec_ends c s
    rw [hrefused, State.Ends] at hends
    split at hends
    · obtain ⟨t, hnext, -⟩ | ⟨-, houtside⟩ := hends
      · cases hnext
      · cases houtside
    · cases hends

/-- A command that answers a next state keeps canonical memories. -/
theorem exec_keeps_wf {i : Instr} {s t : State} (hwf : s.store.wf = true) (hnext : exec i s = .next t) :
    t.store.wf = true := by
  have hends := exec_ends i s
  rw [hnext, State.Ends] at hends
  split at hends
  · obtain ⟨u, hu, -, hkeeps⟩ | ⟨-, houtside⟩ := hends
    · cases hu; exact hkeeps hwf
    · cases houtside
  · cases hends

/-- Settles O3: a step is a command of the queue, which ends as `exec_ends` says, or changes nothing. -/
theorem stepsKeepMemoriesCanonical : Obligations.StepsKeepMemoriesCanonical := by
  unfold Obligations.StepsKeepMemoriesCanonical
  intro s t hwf hstep
  unfold step at hstep
  split at hstep
  · cases hstep; exact hwf
  next c rest _ => exact exec_keeps_wf (s := { s with pending := rest }) hwf hstep

/-- Settles O4: the memories of the reset state list no byte. -/
theorem resetMemoriesCanonical : Obligations.ResetMemoriesCanonical :=
  (Store.wf_iff _).2 ⟨Mem.wf_nil, Mem.wf_nil, Mem.wf_nil⟩

end Sys2Proof.Machine
end

section
/-! O5 and O6: the timing states of the two chips (R63, R65, R72) and the stitch boundary (R46). -/

set_option Elab.async false

namespace Sys2Proof.Machine
open Sys2Proof

/-- An SX-4 that takes a timing state and reports it by an event of its stitch page. -/
theorem reports_putTime (s : State) (t : Timing) (b : Nat) (hb : b < 32) :
    ((s.m.putTime t).raise .sx Pg.stitch b 0).event .sx Pg.stitch b = true ∧
      s.becomes { s with m := (s.m.putTime t).raise .sx Pg.stitch b 0 } { s.m with time := t } .sx
        (fun k => eventWord Pg.stitch k || k == item Pg.stitch 0 R.sthStatus) :=
  ⟨Mach.event_raise _ _ _ _ _ _ _ hb (.inr ⟨rfl, rfl⟩),
    becomes_raise _ _ _ (Mach.putTime_bare ..) (Mach.regsKept_putTime _ _ _ (beq_self_eq_true _)) (Mach.rf_putTime_ep ..)⟩

/-- An EP-4 that takes a timing state and reports it by an event of its timing page. -/
theorem reports_putEpTime (s : State) (t : EpTiming) (b : Nat) (hb : b < 32) :
    ((s.m.putEpTime t).raise .ep Pg.eTim b 0).event .ep Pg.eTim b = true ∧
      s.becomes { s with m := (s.m.putEpTime t).raise .ep Pg.eTim b 0 } { s.m with epTime := t } .ep
        (fun k => eventWord Pg.eTim k || k == item Pg.eTim 0 F.ep4TimStatus_state.off) :=
  ⟨Mach.event_raise _ _ _ _ _ _ _ hb (.inr ⟨rfl, rfl⟩),
    becomes_raise _ _ _ (Mach.putEpTime_bare ..) (Mach.regsKept_putEpTime _ _ _ (beq_self_eq_true _))
      (Mach.rf_putEpTime_sx ..)⟩

/-- Settles O5: each state is entered by one write of the timing state and one event. -/
theorem timingStatesAreEntered : Obligations.TimingStatesAreEntered := by
  unfold Obligations.TimingStatesAreEntered
  refine ⟨⟨fun s hst hsource => ?edge, fun s hst hsilence => ?silence⟩, ⟨fun s hready => ?lock, fun s hready => ?epLock⟩,
    ⟨fun s hst hnew hlimit => ?expired, fun s hst hnew hlimit => ?epExpired⟩⟩
  case edge =>
    have hcond : s.m.time.st = .locked ∧ (!s.m.time.wasSource) = true := ⟨hst, by simp [hsource]⟩
    simp only [exec, execStitchEdgeMissing, State.go, if_pos hcond]
    exact ⟨_, rfl, reports_putTime s _ 1 (by decide)⟩
  case silence =>
    have hcond : s.m.epTime.st = .locked ∧ 2048 ≤ s.m.epTime.silence := ⟨hst, hsilence⟩
    simp only [exec, execEp4StitchSilence, State.go, if_pos hcond]
    exact ⟨_, rfl, reports_putEpTime s _ 1 (by decide)⟩
  case lock =>
    simp only [exec, execStitchLock, State.go, if_pos hready]
    exact ⟨_, rfl, reports_putTime s _ 0 (by decide)⟩
  case epLock =>
    simp only [exec, execStitchLock, State.go, if_pos hready]
    exact ⟨_, rfl, reports_putEpTime s _ 0 (by decide)⟩
  case expired =>
    have hcond : s.m.time.st = .holdover ∧ (!s.m.time.expired) = true ∧
        s.m.fld .sx Pg.stitch F.sthHoldoverLimit_limit ≤ s.m.time.holdStitches := ⟨hst, by simp [hnew], hlimit⟩
    simp only [exec, execStitchHoldoverExpired, State.go, if_pos hcond]
    exact ⟨_, rfl, reports_putTime s _ 2 (by decide)⟩
  case epExpired =>
    have hcond : s.m.epTime.st = .holdover ∧ (!s.m.epTime.expired) = true ∧
        s.m.fld .ep Pg.eTim F.ep4TimCtrl_holdoverLimit ≤ s.m.epTime.holdStitches := ⟨hst, by simp [hnew], hlimit⟩
    simp only [exec, execStitchHoldoverExpired, State.go, if_pos hcond]
    exact ⟨_, rfl, reports_putEpTime s _ 2 (by decide)⟩

/-- What a boundary makes of the SX-4's stitch counter (R46, R64). -/
theorem Mach.advanceStitch_counter (m : Mach) (ph : Int) :
    (m.advanceStitch ph).time.cycle = 0 ∧ (m.advanceStitch ph).time.st = m.time.st ∧
      (m.advanceStitch ph).time.number =
        if m.isSource ∧ m.time.st = .acquiring ∧ m.time.loaded = false then
          m.reg .sx Pg.stitch R.sthSeedLo + 2 ^ 32 * m.reg .sx Pg.stitch R.sthSeedHi
        else (m.time.number + 1) % 2 ^ 64 := by
  simp only [advanceStitch, time_ite, putTime_time, Bool.not_eq_true']
  split <;> exact ⟨rfl, rfl, rfl⟩

/-- Settles O6: the boundary leaves the counters as the advance makes them, and starts nothing in an EP-4's engines at rest. -/
theorem boundaryAdvancesTheStitch : Obligations.BoundaryAdvancesTheStitch := by
  unfold Obligations.BoundaryAdvancesTheStitch
  refine ⟨fun s ph a r => ?switch, fun s ph a r hidle => ?endpoint⟩
  case switch =>
    obtain ⟨hcycle, hst, hnumber⟩ := s.m.advanceStitch_counter ph
    rw [← s.m.sxBoundary_time ph a r] at hcycle hst hnumber
    exact ⟨_, rfl, hcycle, hst, ⟨rfl, rfl⟩, hnumber⟩
  case endpoint =>
    have hrest : (s.m.epBoundary ph).epIdle := by
      rw [Mach.epIdle_iff, Mach.epBoundary_work]; exact (Mach.epIdle_iff _).1 hidle
    have hcount := s.m.epBoundary_epCount ph
    simp only [Mach.epCount, Prod.mk.injEq] at hcount
    obtain ⟨hnumber, hcycle, hst⟩ := hcount
    have hrun : exec (.stitchBoundary .ep ph a r) s = s.epGoM fun m => m.epBoundary ph := rfl
    rw [hrun, epGoM_idle s _ hrest]
    exact ⟨_, rfl, hnumber, hcycle, hst, rfl, rfl⟩

end Sys2Proof.Machine
end

section
/-! What a command of one link does (R477 to R505): the link of its port becomes another, some words of the chip's register file
and what it drives change, and nothing else.  Also O10 and O11, equalisation and sleep. -/

set_option Elab.async false

namespace Sys2Proof.Machine
open Sys2Proof

namespace Mach

/-! ### What a read of a register depends on -/

section
variable {m n : Mach} {c : Chip} (hrf : n.rf c = m.rf c) (hp : n.epParams = m.epParams)
include hrf hp

theorem live_congr (k : Nat) : n.live c k = m.live c k := by
  simp only [live, voted, liveCopy, word, hrf, hp]

theorem fld_congr (p : Nat) (f : Fld) : n.fld c p f = m.fld c p f := by simp only [fld, live_congr hrf hp]

theorem bit_congr (p : Nat) (f : Fld) : n.bit c p f = m.bit c p f := by simp only [bit, fld_congr hrf hp]

theorem reg_congr (p o : Nat) : n.reg c p o = m.reg c p o := by simp only [reg, live_congr hrf hp]

theorem tfld_congr (p u q e : Nat) (f : Fld) : n.tfld c p u q e f = m.tfld c p u q e f := by
  simp only [tfld, live_congr hrf hp]

theorem seen_congr (k : Nat) : n.seen c k = m.seen c k := by
  have hlive : n.live c = m.live c := funext fun k => live_congr hrf hp k
  simp only [seen, hrf, hlive]

theorem seenFld_congr (p : Nat) (f : Fld) : n.seenFld c p f = m.seenFld c p f := by simp only [seenFld, seen_congr hrf hp]

end

section
variable (m : Mach) (c d : Chip) (p q : Nat) (l : Link) (f : Fld)

@[simp] theorem fld_setLk : (m.setLk c p l).fld d q f = m.fld d q f := fld_congr (rf_setLk ..) (setLk_epParams ..) q f
@[simp] theorem bit_setLk : (m.setLk c p l).bit d q f = m.bit d q f := bit_congr (rf_setLk ..) (setLk_epParams ..) q f
@[simp] theorem tfld_setLk (u w e : Nat) : (m.setLk c p l).tfld d q u w e f = m.tfld d q u w e f :=
  tfld_congr (rf_setLk ..) (setLk_epParams ..) ..
@[simp] theorem seenFld_setLk : (m.setLk c p l).seenFld d q f = m.seenFld d q f :=
  seenFld_congr (rf_setLk ..) (setLk_epParams ..) q f
@[simp] theorem prt_setLk : (m.setLk c p l).prt d q f = m.prt d q f := fld_setLk ..
@[simp] theorem fld_emit (o : Out) : (m.emit o).fld d q f = m.fld d q f := fld_congr (rf_emit ..) rfl q f

end

/-! ### What has been driven but for interrupt requests -/

section
variable (m : Mach) (c : Chip)

theorem driven_of_out {m n : Mach} (h : n.out = m.out) : n.driven = m.driven := by simp only [driven, h]

@[simp] theorem driven_setLk (p : Nat) (l : Link) : (m.setLk c p l).driven = m.driven := driven_of_out (setLk_out ..)
@[simp] theorem driven_showLanes (p : Nat) : (m.showLanes c p).driven = m.driven := driven_of_out (showLanes_out ..)
@[simp] theorem driven_setWord (k : Nat) (v : Word) : (m.setWord c k v).driven = m.driven := driven_of_out (setWord_out ..)
@[simp] theorem driven_bump (p o : Nat) : (m.bump c p o).driven = m.driven := driven_of_out (bump_out ..)
@[simp] theorem driven_setFld (p : Nat) (f : Fld) (v : Nat) : (m.setFld c p f v).driven = m.driven :=
  driven_of_out (setFld_out ..)
@[simp] theorem driven_setRf (r : RegFile) : (m.setRf c r).driven = m.driven := driven_of_out (setRf_out ..)

@[simp] theorem driven_irq (d : Chip) (l : Nat) : (m.emit (.irq d l)).driven = m.driven := rfl
@[simp] theorem driven_ctl (p : Nat) (x : Ctl) : (m.emit (.ctl c p x)).driven = .ctl c p x :: m.driven := rfl
@[simp] theorem driven_flit (p : Nat) (x : Flit) : (m.emit (.flit c p x)).driven = .flit c p x :: m.driven := rfl
@[simp] theorem driven_wakePattern (p : Nat) : (m.emit (.wakePattern c p)).driven = .wakePattern c p :: m.driven := rfl

theorem driven_ite (p : Prop) [Decidable p] (a b : Mach) : (if p then a else b).driven = if p then a.driven else b.driven :=
  apply_ite driven ..

@[simp] theorem driven_updateIrq : (m.updateIrq c).driven = m.driven := by
  cases c <;> simp [updateIrq, driven_ite]

@[simp] theorem driven_setIntBit (p b : Nat) : (m.setIntBit c p b).driven = m.driven := by simp [setIntBit]

@[simp] theorem driven_logError (p b d : Nat) : (m.logError c p b d).driven = m.driven := driven_of_out (logError_out ..)

theorem driven_trace (p t b d : Nat) : (m.trace p t b d).driven = m.driven := by
  have hstore (n : Mach) (d p t b x : Nat) : (n.ringStore d p t b x).driven = n.driven := driven_of_out (ringStore_out ..)
  have hfreeze (n : Mach) (d : Nat) : (n.ringFreeze d).driven = n.driven := by
    simp [ringFreeze, driven_ite, hstore]
  simp [trace, driven_ite, hstore, hfreeze]

/-- Raising an event drives interrupt requests only. -/
@[simp] theorem driven_raise (p b d : Nat) : (m.raise c p b d).driven = m.driven := by
  have hlog : (match pageKind (m.setIntBit c p b).epParams c p with
      | some k => if errorSeverity k b then (m.setIntBit c p b).logError c p b d else m.setIntBit c p b
      | none => m.setIntBit c p b).driven = m.driven := by
    split <;> simp [driven_ite]
  cases c with
  | sx => exact (driven_trace ..).trans hlog
  | ep => exact hlog

end

/-! ### Registers and outputs alone -/

/-- `n` is `m` but for words of the chip's register file that `f` names, and for what it drives. -/
def touches (m n : Mach) (c : Chip) (f : Nat → Bool) : Prop :=
  n.bare = m.bare ∧ m.regsKept n c f ∧ n.rf (otherChip c) = m.rf (otherChip c)

section
variable {m n : Mach} {c : Chip} {f : Nat → Bool}

theorem touches_refl (m : Mach) (c : Chip) (f : Nat → Bool) : m.touches m c f := ⟨rfl, .refl .., rfl⟩

theorem touches.trans {k : Mach} (h : m.touches n c f) (g : n.touches k c f) : m.touches k c f :=
  ⟨g.1.trans h.1, h.2.1.trans g.2.1, g.2.2.trans h.2.2⟩

theorem touches.mono (h : m.touches n c f) {g : Nat → Bool} (hfg : ∀ k, f k = true → g k = true) : m.touches n c g :=
  ⟨h.1, h.2.1.mono fun k hk => by
    cases hf : f k with
    | false => rfl
    | true => rw [hfg k hf] at hk; exact hk, h.2.2⟩

theorem touches_emit (m : Mach) (o : Out) (c : Chip) (f : Nat → Bool) : m.touches (m.emit o) c f :=
  ⟨rfl, regsKept_emit .., rf_emit ..⟩

theorem touches_setWord (m : Mach) (c : Chip) (k : Nat) (v : Word) {f : Nat → Bool} (hf : f k = true) :
    m.touches (m.setWord c k v) c f := ⟨setWord_bare .., regsKept_setWord _ _ _ _ _ hf, other_setWord ..⟩

theorem touches_showLanes (m : Mach) (c : Chip) (p : Nat) : m.touches (m.showLanes c p) c (laneWord c p) :=
  ⟨showLanes_bare .., regsKept_showLanes .., showLanes_rf_other ..⟩

theorem touches_raise (m : Mach) (c : Chip) (g b d : Nat) : m.touches (m.raise c g b d) c (eventWord g) :=
  ⟨raise_bare .., regsKept_raise .., other_raise ..⟩

theorem touches.lk (h : m.touches n c f) (d : Chip) (p : Nat) : n.lk d p = m.lk d p := lk_congr h.1 d p

theorem touches.ep (h : m.touches n c f) : n.ep = m.ep := ep_congr h.1

end

/-! ### A link that moves -/

/-- `n` is `m` with the link of port `p` become `l`, but for words of the chip's register file that `f` names. -/
def moves (m n : Mach) (c : Chip) (p : Nat) (l : Link) (f : Nat → Bool) : Prop :=
  n.bare = (m.setLk c p l).bare ∧ m.regsKept n c f ∧ n.rf (otherChip c) = m.rf (otherChip c)

section
variable {m n : Mach} {c : Chip} {p : Nat} {l : Link} {f : Nat → Bool}

theorem moves.bare (h : m.moves n c p l f) : n.bare = (m.setLk c p l).bare := h.1
theorem moves.kept (h : m.moves n c p l f) : m.regsKept n c f := h.2.1
theorem moves.other (h : m.moves n c p l f) : n.rf (otherChip c) = m.rf (otherChip c) := h.2.2

theorem touches.setLk (h : m.touches n c f) (p : Nat) (l : Link) : m.moves (n.setLk c p l) c p l f :=
  ⟨by rw [setLk_bare, h.1, setLk_bare], h.2.1.setLk c p l, (rf_setLk ..).trans h.2.2⟩

theorem touches.updLk (h : m.touches n c f) (p : Nat) (g : Link → Link) :
    m.moves (n.updLk c p g) c p (g (m.lk c p)) f := by
  rw [Mach.updLk, h.lk]; exact h.setLk ..

theorem moves_setLk (m : Mach) (c : Chip) (p : Nat) (l : Link) (f : Nat → Bool) : m.moves (m.setLk c p l) c p l f :=
  (touches_refl m c f).setLk p l

theorem moves_updLk (m : Mach) (c : Chip) (p : Nat) (g : Link → Link) (f : Nat → Bool) :
    m.moves (m.updLk c p g) c p (g (m.lk c p)) f := moves_setLk ..

theorem moves.lk (h : m.moves n c p l f) : n.lk c p = l := by
  rw [lk_congr h.bare, lk_setLk, if_pos rfl]

theorem moves.ep (h : m.moves n c p l f) : n.ep = m.ep := by
  rw [ep_congr h.bare, setLk_ep]

theorem moves.epParams (h : m.moves n c p l f) : n.epParams = m.epParams := by
  rw [← bare_epParams, h.bare, bare_epParams, setLk_epParams]

theorem moves.setLk (h : m.moves n c p l f) (k : Link) : m.moves (n.setLk c p k) c p k f :=
  ⟨by rw [setLk_bare, h.bare, setLk_bare, setLk_setLk, setLk_bare], h.kept.setLk c p k, (rf_setLk ..).trans h.other⟩

theorem moves.updLk (h : m.moves n c p l f) (g : Link → Link) : m.moves (n.updLk c p g) c p (g l) f := by
  rw [Mach.updLk, h.lk]; exact h.setLk _

/-- What touches registers and outputs alone leaves the link where it is. -/
theorem moves.touches {k : Mach} (h : m.moves n c p l f) (g : n.touches k c f) : m.moves k c p l f :=
  ⟨g.1.trans h.bare, h.kept.trans g.2.1, g.2.2.trans h.other⟩

theorem moves.emit (h : m.moves n c p l f) (o : Out) : m.moves (n.emit o) c p l f := h.touches (touches_emit ..)

theorem moves.sendTraining (h : m.moves n c p l f) (x : Ctl) :
    m.moves (n.sendTraining c p x) c p { l with unanswered := some x } f := by
  rw [Mach.sendTraining, h.lk]; exact (h.setLk _).emit _

theorem moves.sendCtl (h : m.moves n c p l f) (x : Ctl) : m.moves (n.sendCtl c p x) c p { l with idleStitches := 0 } f := by
  rw [Mach.sendCtl, h.lk]; exact (h.setLk _).emit _

theorem moves.showLanes (h : m.moves n c p l f) (hf : ∀ k, laneWord c p k = true → f k = true) :
    m.moves (n.showLanes c p) c p l f := h.touches ((touches_showLanes ..).mono hf)

theorem moves.setWord (h : m.moves n c p l f) (k : Nat) (v : Word) (hf : f k = true) :
    m.moves (n.setWord c k v) c p l f := h.touches (touches_setWord _ _ _ _ hf)

theorem moves.bump (h : m.moves n c p l f) (g o : Nat) (hf : f (item g 0 o) = true) : m.moves (n.bump c g o) c p l f :=
  h.setWord _ _ hf

theorem moves.raise (h : m.moves n c p l f) (g b d : Nat) (hf : ∀ k, eventWord g k = true → f k = true) :
    m.moves (n.raise c g b d) c p l f := h.touches ((touches_raise ..).mono hf)

theorem moves.mono (h : m.moves n c p l f) {g : Nat → Bool} (hfg : ∀ k, f k = true → g k = true) : m.moves n c p l g :=
  ⟨h.bare, h.kept.mono fun k hk => by
    cases hf : f k with
    | false => rfl
    | true => rw [hfg k hf] at hk; exact hk, h.other⟩

end
end Mach

/-! ### A command that moves a link -/

/-- A command of a port that runs and leaves the engines. -/
theorem onPort_run {s : State} {c : Chip} {p : Nat} (hr : s.m.portRuns c p) (f : Mach → Mach) (hep : (f s.m).ep = s.m.ep) :
    s.onPort c p f = .next { s with m := f s.m } := by
  obtain ⟨hport, hon, hidle⟩ := hr
  exact onPort_eq s c p f hport hon fun he => Mach.epIdle_congr hep (hidle he)

/-- A command of a port that runs and moves its link to `l`. -/
theorem onPort_moves {s : State} {c : Chip} {p : Nat} {f : Mach → Mach} {l : Link} {g : Nat → Bool} (hr : s.m.portRuns c p)
    (h : s.m.moves (f s.m) c p l g) :
    s.onPort c p f = .next { s with m := f s.m } ∧ s.becomes { s with m := f s.m } (s.m.setLk c p l) c g :=
  ⟨onPort_run hr f h.ep, becomes_of h.bare h.kept h.other⟩

/-- A command of a port that runs and touches registers and outputs alone. -/
theorem onPort_touches {s : State} {c : Chip} {p : Nat} {f : Mach → Mach} {g : Nat → Bool} (hr : s.m.portRuns c p)
    (h : s.m.touches (f s.m) c g) :
    s.onPort c p f = .next { s with m := f s.m } ∧ s.becomes { s with m := f s.m } s.m c g :=
  ⟨onPort_run hr f h.ep, becomes_of h.1 h.2.1 h.2.2⟩

end Sys2Proof.Machine
end

section
/-! O10 and O11: equalisation (R493) and sleep (R499 to R502). -/

set_option Elab.async false

namespace Sys2Proof.Machine
open Sys2Proof

/-! ### Taps of a lane (R493) -/

/-- The taps of a lane after its entry was written anew. -/
theorem tapsOf_preset (l : Link) (lane k : Nat) (v : List Int) :
    Link.tapsOf { l with taps := (l.taps.filter fun t => t.1 != lane) ++ [(lane, v)] } k
      = if k = lane then some v else l.tapsOf k := by
  have hold : (l.taps.filter fun t => t.1 != lane).find? (fun t => t.1 == k)
      = if k = lane then none else l.taps.find? fun t => t.1 == k := by
    rw [List.find?_filter]
    split
    case isTrue h => subst h; exact List.find?_eq_none.2 fun t _ => by simp
    case isFalse h => congr 1; funext t; by_cases ht : t.1 = k <;> simp [ht, h]
  simp only [Link.tapsOf, List.find?_append, hold]
  split
  case isTrue h => simp [h]
  case isFalse h => simp [Ne.symm h]

/-- The taps of a lane after the taps of one lane were mapped. -/
theorem tapsOf_map (l : Link) (lane k : Nat) (g : List Int → List Int) :
    Link.tapsOf { l with taps := l.taps.map fun t => if t.1 = lane then (t.1, g t.2) else t } k
      = if k = lane then (l.tapsOf lane).map g else l.tapsOf k := by
  have hfst (t : Nat × List Int) : (if t.1 = lane then (t.1, g t.2) else t).1 = t.1 := by split <;> rfl
  have hkey : ((fun t : Nat × List Int => t.1 == k) ∘ fun t => if t.1 = lane then (t.1, g t.2) else t)
      = fun t => t.1 == k := by
    funext t; simp only [Function.comp, hfst]
  simp only [Link.tapsOf, List.find?_map, hkey, Option.map_map]
  split
  case isTrue h =>
    subst h
    cases hfind : l.taps.find? fun t => t.1 == k with
    | none => rfl
    | some t => simp [by simpa using List.find?_some hfind]
  case isFalse h =>
    cases hfind : l.taps.find? fun t => t.1 == k with
    | none => rfl
    | some t =>
      have ht : t.1 = k := by simpa using List.find?_some hfind
      simp [ht, h]

/-- Settles O10: each message moves the link of its port, and the taps of its lane by their own lemma. -/
theorem equalisationFollowsItsMessages : Obligations.EqualisationFollowsItsMessages := by
  unfold Obligations.EqualisationFollowsItsMessages
  intro c s p lane hr
  refine ⟨fun q => ?preset, fun q x₁ x₂ x₃ x₄ x₅ r₁ r₂ r₃ r₄ r₅ htaps => ?adjust, ?done, ?fail, fun hst => ?timeout⟩
  case preset =>
    obtain ⟨hrun, hbecomes⟩ := onPort_moves hr (f := fun m => m.eqPreset c p lane q) (Mach.moves_updLk ..)
    refine ⟨_, hrun, ?_⟩
    simp only [Mach.eqPreset, Mach.updLk, Mach.lk_setLk, if_true]
    exact ⟨hbecomes, fun k => tapsOf_preset _ lane k _⟩
  case adjust =>
    obtain ⟨hrun, hbecomes⟩ := onPort_moves hr (f := fun m => m.eqAdjust c p lane [r₁, r₂, r₃, r₄, r₅])
      (Mach.moves_updLk ..)
    refine ⟨_, hrun, ?_⟩
    simp only [Mach.eqAdjust, Mach.updLk, Mach.lk_setLk, if_true]
    refine ⟨hbecomes, fun k => ?_⟩
    refine (tapsOf_map (s.m.lk c p) lane k
      fun v => v.headD 0 :: List.zipWith (· + ·) v.tail ([r₁, r₂, r₃, r₄, r₅].map Mach.tapMove)).trans ?_
    rw [htaps]
    rfl
  case done => exact ⟨_, onPort_moves hr (f := fun m => m.eqEnd c p lane false) (Mach.moves_updLk ..)⟩
  case fail => exact ⟨_, onPort_moves hr (f := fun m => m.eqEnd c p lane true) (Mach.moves_updLk ..)⟩
  case timeout =>
    refine ⟨_, onPort_moves hr (f := fun m => if (m.lk c p).st = .climbing then m.updLk c p fun l => { l with eqDone := 15 } else m) ?_⟩
    rw [if_pos hst]
    exact Mach.moves_updLk ..

/-! ### Sleep (R499 to R502) -/

/-- Settles O11: each transition moves the link of its port under its condition. -/
theorem sleepIsEnteredAndLeft : Obligations.SleepIsEnteredAndLeft := by
  unfold Obligations.SleepIsEnteredAndLeft
  intro c s p hr hup
  refine ⟨fun hsleep hdue hshed hneed hidle => ?light, fun hsleep hneed hidle => ?deep, fun hsleep hdue => ?wakes,
    fun hsleep hdue => ?awake, fun depth => ?told, fun htold => ?quiet⟩
  case light =>
    have hshed' : ¬(c = .sx ∧ 3 ≤ s.m.shedLevel) := fun h => absurd (hshed h.1) (Nat.not_lt.2 h.2)
    have hlight : s.m.lightSleep c p = (((List.range 4).foldl (fun m _ => m.emit (.ctl c p (.sleep 1))) s.m).updLk c p
        fun l => { l with txSleep := 1, lightStitches := 0 }).bump c (Mach.portPage p) R.prtSleepEntryCnt := by
      unfold Mach.lightSleep
      rw [if_neg hshed']
      exact if_pos ⟨hup, hsleep, hneed, hidle, by rw [hdue]; rfl⟩
    have hsends : s.m.touches ((List.range 4).foldl (fun m _ => m.emit (.ctl c p (.sleep 1))) s.m) c
        (portWord p R.prtSleepEntryCnt) :=
      ((((Mach.touches_emit ..).trans (Mach.touches_emit ..)).trans (Mach.touches_emit ..)).trans (Mach.touches_emit ..))
    obtain ⟨hrun, hbecomes⟩ := onPort_moves hr (f := fun m => m.lightSleep c p) (g := portWord p R.prtSleepEntryCnt)
      (l := { s.m.lk c p with txSleep := 1, lightStitches := 0 })
      (by rw [hlight]; exact (hsends.updLk p _).bump _ _ (beq_self_eq_true _))
    refine ⟨_, hrun, ?_, ?_, hbecomes⟩
    · simp only [hlight, Mach.counted]
      refine (Mach.word_bump ..).trans ?_
      simp [Mach.updLk, List.range_succ, Mach.portPage]
    · simp [hlight, Mach.updLk, List.range_succ, List.replicate_succ]
  case deep =>
    refine ⟨_, onPort_moves hr (f := fun m => m.deepSleep c p) ?_⟩
    rw [Mach.deepSleep, if_pos ⟨hup, hsleep, hneed, hidle⟩]
    exact Mach.moves_updLk ..
  case wakes =>
    have hwake : s.m.wake c p = (s.m.updLk c p fun l => { l with txSleep := 3 }).emit (.wakePattern c p) := by
      simp [Mach.wake, hup, hdue, hsleep]
    obtain ⟨hrun, hbecomes⟩ := onPort_moves hr (f := fun m => m.wake c p) (g := noWord)
      (by rw [hwake]; exact (Mach.moves_updLk ..).emit _)
    refine ⟨_, hrun, ?_, hbecomes⟩
    rw [hwake]
    simp [Mach.updLk]
  case awake =>
    refine ⟨_, onPort_moves hr (f := fun m => m.wake c p) ?_⟩
    have hwake : s.m.wake c p = s.m.updLk c p fun l => { l with txSleep := 0, idleStitches := 0 } := by
      simp [Mach.wake, hup, hdue, hsleep]
    rw [hwake]
    exact Mach.moves_updLk ..
  case told =>
    refine ⟨_, onPort_moves hr (f := fun m => if m.isUp c p then m.updLk c p fun l => { l with rxSleep := true } else m) ?_⟩
    rw [if_pos (by simp [Mach.isUp, hup])]
    exact Mach.moves_updLk ..
  case quiet =>
    have hkeep : (if ((s.m.lk c p).st = .up ∨ (s.m.lk c p).st = .climbing) ∧ (!(s.m.lk c p).rxSleep) = true
        then s.m.linkDown c p else s.m) = s.m := if_neg fun h => by simp [htold] at h
    exact (onPort_run hr (fun m => if ((m.lk c p).st = .up ∨ (m.lk c p).st = .climbing) ∧ (!(m.lk c p).rxSleep) = true
        then m.linkDown c p else m) (congrArg Mach.ep hkeep)).trans (by rw [hkeep])

end Sys2Proof.Machine
end

section
/-! O12: training starts over (R488, R490, R494). -/

set_option Elab.async false

namespace Sys2Proof.Machine
open Sys2Proof

/-! ### Which words are which -/

/-- One register of a page is another only as itself. -/
theorem item_direct_inj {p q a b : Nat} (ha : a < 2 ^ 44) (hb : b < 2 ^ 44) : item p 0 a = item q 0 b ↔ p = q ∧ a = b := by
  rw [item_inj ha hb (by decide) (by decide)]
  simp

theorem pageWord_item (p o q a : Nat) (ho : o < 2 ^ 44) (ha : a < 2 ^ 44) :
    pageWord p o (item q 0 a) = (q == p && a == o) := by
  rw [pageWord, Bool.eq_iff_iff]
  simp [item_direct_inj ha ho]

theorem portWord_item (p o q a : Nat) (ho : o < 2 ^ 44) (ha : a < 2 ^ 44) :
    portWord p o (item q 0 a) = (q == Pg.port p && a == o) := pageWord_item _ _ _ _ ho ha

theorem eventWord_item (p q a : Nat) (ha : a < 2 ^ 44) :
    eventWord p (item q 0 a) = (q == Pg.trace
      || (q == p && [R.intStatus, R.errLog0, R.errLog1, R.errLog2, R.errLog3].contains a)) := by
  simp only [eventWord, item_page q 0 a ha (by decide), item_sel q 0 a ha (by decide), item_off q a ha,
    beq_self_eq_true, Bool.and_true]

/-- A register outside the trace page that is none of an event's. -/
theorem eventWord_none (p q a : Nat) (ha : a < 2 ^ 44) (hq : q ≠ Pg.trace)
    (hreg : [R.intStatus, R.errLog0, R.errLog1, R.errLog2, R.errLog3].contains a = false) :
    eventWord p (item q 0 a) = false := by
  rw [eventWord_item p q a ha, hreg, beq_false_of_ne hq, Bool.and_false, Bool.or_false]

theorem port_ne_trace (p : Nat) : Pg.port p ≠ Pg.trace := by unfold Pg.port Pg.trace; omega
theorem port_ne_eRc (p : Nat) : Pg.port p ≠ Pg.eRc := by unfold Pg.port Pg.eRc; omega

/-- A register of a port's page that is neither a lane's word nor its event's. -/
theorem laneWord_direct_item (c : Chip) (p q a : Nat) (ha : a < 2 ^ 44) : laneWord c p (item q 0 a) = false := by
  by_contra h
  have := Mach.laneWord_page (eq_true_of_ne_false h)
  rw [item_sel q 0 a ha (by decide)] at this
  omega

namespace Mach

theorem epParams_of_bare {m n : Mach} (h : n.bare = m.bare) : n.epParams = m.epParams := by
  rw [← bare_epParams, h, bare_epParams]

/-! ### What a port presents (R490) -/

section
variable (m : Mach) (c : Chip) (p : Nat)

theorem workingLanes_congr {m n : Mach} (hrf : n.rf .sx = m.rf .sx) (hp : n.epParams = m.epParams) (p : Nat) :
    n.workingLanes p = m.workingLanes p := by
  have heye : n.eyeState = m.eyeState := funext₂ fun e f => fld_congr hrf hp ..
  have hring : n.ringState = m.ringState := funext₂ fun e r => tfld_congr hrf hp ..
  unfold workingLanes
  rw [heye, hring]

theorem ownLanes_congr {m n : Mach} (hrf : n.rf c = m.rf c) (hp : n.epParams = m.epParams)
    (hlanes : (n.lk c p).failedLanes = (m.lk c p).failedLanes) : n.ownLanes c p = m.ownLanes c p := by
  cases c
  · simp only [ownLanes, workingLanes_congr hrf hp, hlanes]
  · simp only [ownLanes, hlanes]

theorem epochNow_congr {m n : Mach} {c : Chip} (hrf : n.rf c = m.rf c) (hp : n.epParams = m.epParams) :
    n.epochNow c = m.epochNow c := by
  cases c <;> simp only [epochNow, seenFld_congr hrf hp]

theorem nodeOf_congr {m n : Mach} {c : Chip} (hrf : n.rf c = m.rf c) (hp : n.epParams = m.epParams) :
    n.nodeOf c = m.nodeOf c := by
  cases c <;> simp only [nodeOf, sxNode, epNode, bit_congr hrf hp, fld_congr hrf hp]

theorem ownMaxStep_congr {m n : Mach} {c : Chip} (hrf : n.rf c = m.rf c) (hp : n.epParams = m.epParams) (p : Nat) :
    n.ownMaxStep c p = m.ownMaxStep c p := by
  simp only [ownMaxStep, prt, fld_congr hrf hp]

theorem allocOf_congr {m n : Mach} {c : Chip} (hrf : n.rf c = m.rf c) (hp : n.epParams = m.epParams) (p : Nat) :
    n.allocOf c p = m.allocOf c p := by
  cases c
  · simp only [allocOf, prt, fld_congr hrf hp]
  · simp only [allocOf, hp]

/-- A port's CAP depends on its chip's registers, its failed lanes and whether it has negotiated. -/
theorem ownCap_congr {m n : Mach} (hrf : n.rf c = m.rf c) (hp : n.epParams = m.epParams)
    (hlanes : (n.lk c p).failedLanes = (m.lk c p).failedLanes)
    (hneg : (n.lk c p).negotiated = (m.lk c p).negotiated) (seen : Bool) :
    n.ownCap c p seen = m.ownCap c p seen := by
  simp only [ownCap, prt, nodeOf_congr hrf hp, fld_congr hrf hp, ownMaxStep_congr hrf hp, allocOf_congr hrf hp,
    epochNow_congr hrf hp, ownLanes_congr c p hrf hp hlanes, hneg]

@[simp] theorem updLk_setLk (l : Link) (f : Link → Link) : (m.setLk c p l).updLk c p f = m.setLk c p (f l) := by
  simp only [updLk, lk_setLk, if_true, setLk_setLk]

theorem lk_setLk_self (l : Link) : (m.setLk c p l).lk c p = l := by simp

theorem ownLanes_setLk (l : Link) (hlanes : l.failedLanes = (m.lk c p).failedLanes) :
    (m.setLk c p l).ownLanes c p = m.ownLanes c p :=
  ownLanes_congr c p (rf_setLk ..) (setLk_epParams ..) (by simp [hlanes])

theorem ownCap_setLk (l : Link) (hlanes : l.failedLanes = (m.lk c p).failedLanes)
    (hneg : l.negotiated = (m.lk c p).negotiated) (seen : Bool) :
    (m.setLk c p l).ownCap c p seen = m.ownCap c p seen :=
  ownCap_congr c p (rf_setLk ..) (setLk_epParams ..) (by simp [hlanes]) (by simp [hneg]) seen

/-- What a port presents is not changed by the message that presents it. -/
theorem ownLanes_sendTraining (x : Ctl) : (m.sendTraining c p x).ownLanes c p = m.ownLanes c p :=
  ownLanes_congr c p (by simp [sendTraining]) (by simp [sendTraining]) (by simp [sendTraining])

theorem ownCap_sendTraining (x : Ctl) (seen : Bool) : (m.sendTraining c p x).ownCap c p seen = m.ownCap c p seen :=
  ownCap_congr c p (by simp [sendTraining]) (by simp [sendTraining]) (by simp [sendTraining]) (by simp [sendTraining]) seen

theorem driven_sendTraining (x : Ctl) : (m.sendTraining c p x).driven = .ctl c p x :: m.driven := by simp [sendTraining]

/-! ### Training begins at S0 (R490) -/

end

/-- The link with which training begins: what negotiation recorded and the hold need. -/
def startLink (l : Link) : Link :=
  { st := .s0, partner := l.partner, partEpoch := l.partEpoch, skewFor := l.skewFor, alloc := l.alloc,
    negotiated := l.negotiated, fresh := l.fresh, taps := [] }

section
variable (m : Mach) (c : Chip) (p : Nat)

theorem restart_eq (hen : m.fld c (Pg.port p) F.prtLinkCtrl_en = 1) :
    m.restart c p = ((m.setLk c p (startLink (m.lk c p))).showLanes c p).sendCap c p false := by
  have hprt : (m.prt c p F.prtLinkCtrl_en == 1) = true := beq_iff_eq.2 hen
  simp only [restart, hprt, if_true, startLink]

/-- A CAP that goes out where a lane works. -/
theorem sendCap_eq (seen : Bool) (h : m.ownLanes c p ≠ 0) :
    m.sendCap c p seen = m.sendTraining c p (.cap (m.ownCap c p seen)) := if_neg h

/-- The link after a restart. -/
def restartLink : Link :=
  { startLink (m.lk c p) with
    unanswered := if (m.restart c p).ownLanes c p = 0 then none else some (.cap ((m.restart c p).ownCap c p false)) }

theorem restart_moves (hen : m.fld c (Pg.port p) F.prtLinkCtrl_en = 1) :
    m.moves (m.restart c p) c p (restartLink m c p) (laneWord c p) := by
  have hshown := (moves_setLk m c p (startLink (m.lk c p)) (laneWord c p)).showLanes fun _ h => h
  by_cases hlanes : ((m.setLk c p (startLink (m.lk c p))).showLanes c p).ownLanes c p = 0
  · have hsend : m.restart c p = (m.setLk c p (startLink (m.lk c p))).showLanes c p := by
      rw [restart_eq m c p hen, sendCap, if_pos hlanes]
    simp only [restartLink, hsend, hlanes, if_true]
    exact hshown
  · have hsend := (restart_eq m c p hen).trans (sendCap_eq _ c p false hlanes)
    simp only [restartLink, hsend, ownLanes_sendTraining, ownCap_sendTraining, if_neg hlanes]
    exact hshown.sendTraining _

theorem restart_driven (hen : m.fld c (Pg.port p) F.prtLinkCtrl_en = 1) (hlanes : (m.restart c p).ownLanes c p ≠ 0) :
    (m.restart c p).driven = .ctl c p (.cap ((m.restart c p).ownCap c p false)) :: m.driven := by
  rw [restart_eq m c p hen] at hlanes ⊢
  have hsent : ((m.setLk c p (startLink (m.lk c p))).showLanes c p).ownLanes c p ≠ 0 := fun h => by
    rw [sendCap, if_pos h] at hlanes; exact hlanes h
  rw [sendCap_eq _ c p false hsent, ownCap_sendTraining, driven_sendTraining]
  simp

end
end Mach

/-- Training begins at S0 by a command of a port that runs. -/
theorem onPort_restart {s : State} {c : Chip} {p : Nat} {f : Mach → Mach} (hr : s.m.portRuns c p)
    (hen : s.m.fld c (Pg.port p) F.prtLinkCtrl_en = 1) (hf : f s.m = s.m.restart c p) :
    s.onPort c p f = .next { s with m := s.m.restart c p } ∧
      s.becomes { s with m := s.m.restart c p } (s.m.setLk c p (Mach.restartLink s.m c p)) c (laneWord c p) := by
  have hmoves := onPort_moves (f := f) hr (hf ▸ Mach.restart_moves s.m c p hen)
  rwa [hf] at hmoves

namespace Mach

/-! ### A link of the EP-4 that goes down (R488) -/

section
variable (m : Mach) (c d : Chip) (p q : Nat)

@[simp] theorem rf_sendTraining (x : Ctl) : (m.sendTraining c p x).rf d = m.rf d := by simp [sendTraining]
@[simp] theorem ep_sendTraining (x : Ctl) : (m.sendTraining c p x).ep = m.ep := by simp [sendTraining]
theorem lk_sendTraining_other (x : Ctl) (h : q ≠ p) : (m.sendTraining c p x).lk c q = m.lk c q := by
  simp [sendTraining, lk_setLk, h]

/-- Restarting a port of the EP-4 changes its link and what it drives. -/
theorem rf_restart_ep : (m.restart .ep q).rf c = m.rf c := by
  simp only [restart, sendCap, showLanes]
  split_ifs <;> simp

theorem ep_restart_ep : (m.restart .ep q).ep = m.ep := by
  simp only [restart, sendCap, showLanes]
  split_ifs <;> simp

theorem epParams_restart_ep : (m.restart .ep q).epParams = m.epParams := by
  simp only [restart, sendCap, showLanes]
  split_ifs <;> simp [sendTraining]

theorem lk_restart_ep_other (h : p ≠ q) : (m.restart .ep q).lk .ep p = m.lk .ep p := by
  simp only [restart, sendCap, showLanes]
  split_ifs <;> simp [lk_sendTraining_other _ _ _ _ _ h, lk_setLk, h]

end

/-- `n` is `m` but for links of other ports of the EP-4 than `p`, and for what it drives. -/
def freed (m : Mach) (p : Nat) (n : Mach) : Prop :=
  (∀ c, n.rf c = m.rf c) ∧ n.epParams = m.epParams ∧ n.ep = m.ep ∧ n.lk .ep p = m.lk .ep p

theorem dupFree_freed (m : Mach) (p : Nat) : m.freed p (m.dupFree p) := by
  unfold dupFree
  refine foldl_inv (m.freed p) _ (fun n q hn => ?_) _ ⟨fun _ => rfl, rfl, rfl, rfl⟩
  obtain ⟨hrf, hparams, hep, hlk⟩ := hn
  dsimp only
  split
  case isTrue h =>
    have hq : p ≠ q := fun he => by subst he; simp at h
    exact ⟨fun c => (rf_restart_ep n c q).trans (hrf c), (epParams_restart_ep n q).trans hparams,
      (ep_restart_ep n q).trans hep, (lk_restart_ep_other n p q hq).trans hlk⟩
  case isFalse => exact ⟨hrf, hparams, hep, hlk⟩

/-! ### The rate table (R226) -/

section
variable (m : Mach) (rs : List RateEntry) (plane : Nat)

@[simp] theorem ep_setRates : (m.setRates rs).ep = { m.ep with rates := rs } := ep_of_bare (setFld_bare ..)
@[simp] theorem epParams_setRates : (m.setRates rs).epParams = m.epParams := by
  rw [← bare_epParams, setRates, setFld_bare, bare_epParams]
@[simp] theorem rf_sx_setRates : (m.setRates rs).rf .sx = m.rf .sx :=
  other_setWord { m with ep := { m.ep with rates := rs } } .ep _ _
theorem regsKept_setRates (f : Nat → Bool) (hf : f (item Pg.eRc 0 F.ep4RcStatus_entries.off) = true) :
    m.regsKept (m.setRates rs) .ep f :=
  regsKept.trans ⟨rfl, fun _ _ => rfl⟩ (regsKept_setFld { m with ep := { m.ep with rates := rs } } .ep _ _ _ _ hf)
theorem word_setRates (k : Nat) (hk : pageWord Pg.eRc F.ep4RcStatus_entries.off k = false) :
    (m.setRates rs).word .ep k = m.word .ep k :=
  (regsKept_setRates m rs (pageWord Pg.eRc F.ep4RcStatus_entries.off) (beq_self_eq_true _)).2 k hk
@[simp] theorem lk_setRates (c : Chip) (p : Nat) : (m.setRates rs).lk c p = m.lk c p := by
  rw [setRates, lk_congr (setFld_bare ..)]
  cases c <;> rfl

end

/-- The count and the event of an EP-4's link that goes down; the rates of its plane are forgotten (R226, R488). -/
def epDown (m : Mach) (p : Nat) : Mach :=
  let n := ((m.bump .ep (portPage p) R.prtLinkDownCnt).raise .ep (portPage p) 1 0).updLk .ep p fun l => { l with st := .down }
  n.rateForget (n.planeOfPort p)

/-- What going down writes in the EP-4's registers. -/
def epDownWord (p k : Nat) : Bool :=
  eventWord (Pg.port p) k || portWord p R.prtLinkDownCnt k || portWord p R.prtTxLostCnt k
    || pageWord Pg.eRc F.ep4RcStatus_entries.off k

theorem epDown_kept (m : Mach) (p : Nat) :
    m.regsKept ((m.epDown p).bumpBy .ep (portPage p) R.prtTxLostCnt 0) .ep (epDownWord p) := by
  have hcount : epDownWord p (item (portPage p) 0 R.prtLinkDownCnt) = true := by
    simp [epDownWord, portWord, portPage]
  have hlost : epDownWord p (item (portPage p) 0 R.prtTxLostCnt) = true := by simp [epDownWord, portWord, portPage]
  have hrate : epDownWord p (item Pg.eRc 0 F.ep4RcStatus_entries.off) = true := by simp [epDownWord, pageWord]
  have hevent : ∀ k, eventWord (portPage p) k = true → epDownWord p k = true := fun k hk => by
    simp [epDownWord, show eventWord (Pg.port p) k = true from hk]
  exact ((((regsKept_bump _ _ _ _ _ hcount).raise _ _ _ hevent).setLk _ _ _).trans
    (regsKept_setRates _ _ _ hrate)).setWord _ _ hlost

/-- Going down, an EP-4's port keeps what its engines have in progress. -/
theorem epDown_epIdle {m : Mach} (p : Nat) (h : m.epIdle) :
    ((m.epDown p).bumpBy .ep (portPage p) R.prtTxLostCnt 0).epIdle := by
  simpa [epIdle, epDown, bumpBy, rateForget, updLk, ep_of_bare (setWord_bare ..)] using h

theorem epDown_rf_sx (m : Mach) (p : Nat) : ((m.epDown p).bumpBy .ep (portPage p) R.prtTxLostCnt 0).rf .sx = m.rf .sx := by
  have hcount := other_bump m .ep (portPage p) R.prtLinkDownCnt
  have hraise := other_raise (m.bump .ep (portPage p) R.prtLinkDownCnt) .ep (portPage p) 1 0
  exact (other_setWord _ .ep _ _).trans ((rf_sx_setRates ..).trans ((rf_setLk ..).trans (hraise.trans hcount)))

theorem epDown_epParams (m : Mach) (p : Nat) :
    ((m.epDown p).bumpBy .ep (portPage p) R.prtTxLostCnt 0).epParams = m.epParams := by
  rw [bumpBy, epParams_of_bare (setWord_bare ..), epDown, rateForget, epParams_setRates, updLk, setLk_epParams,
    epParams_of_bare (raise_bare ..), epParams_of_bare (bump_bare ..)]

theorem epDown_event (m : Mach) (p : Nat) :
    ((m.epDown p).bumpBy .ep (portPage p) R.prtTxLostCnt 0).event .ep (Pg.port p) 1 = true := by
  have hraised : ((m.bump .ep (portPage p) R.prtLinkDownCnt).raise .ep (portPage p) 1 0).event .ep (Pg.port p) 1 = true :=
    event_raise _ _ _ _ _ _ _ (by decide) (.inr ⟨rfl, rfl⟩)
  rw [← hraised]
  refine event_congr ?_
  have hrate : pageWord Pg.eRc F.ep4RcStatus_entries.off (item (Pg.port p) 0 R.intStatus) = false := by
    rw [pageWord_item _ _ _ _ (by decide) (by decide)]; simp [port_ne_eRc]
  have hlost : item (Pg.port p) 0 R.intStatus ≠ item (portPage p) 0 R.prtTxLostCnt := fun h =>
    absurd ((item_direct_inj (by decide) (by decide)).1 h).2 (by decide)
  simp only [epDown, bumpBy, rateForget, updLk, word_setWord, if_neg hlost, word_setRates _ _ _ hrate, word_setLk]

theorem epDown_counted (m : Mach) (p : Nat) :
    m.counted ((m.epDown p).bumpBy .ep (portPage p) R.prtTxLostCnt 0) .ep (Pg.port p) R.prtLinkDownCnt := by
  have hrate : pageWord Pg.eRc F.ep4RcStatus_entries.off (item (Pg.port p) 0 R.prtLinkDownCnt) = false := by
    rw [pageWord_item _ _ _ _ (by decide) (by decide)]; simp [port_ne_eRc]
  have hlost : item (Pg.port p) 0 R.prtLinkDownCnt ≠ item (portPage p) 0 R.prtTxLostCnt := fun h =>
    absurd ((item_direct_inj (by decide) (by decide)).1 h).2 (by decide)
  have hevent : eventWord (portPage p) (item (Pg.port p) 0 R.prtLinkDownCnt) = false :=
    eventWord_none _ _ _ (by decide) (port_ne_trace p) (by decide)
  simp only [counted, epDown, bumpBy, rateForget, updLk, word_setWord, if_neg hlost, word_setRates _ _ _ hrate, word_setLk,
    word_raise _ _ _ _ _ _ hevent]
  exact word_bump ..

theorem linkDown_ep (m : Mach) (p : Nat) (hup : (m.lk .ep p).st = .up) (hreplay : (m.lk .ep p).replay = [])
    (hasm : (m.lk .ep p).asm = []) (htx : m.ep.tx = []) :
    m.linkDown .ep p
      = (((m.epDown p).bumpBy .ep (portPage p) R.prtTxLostCnt 0).restart .ep p).dupFree p := by
  have hqueue : (m.epDown p).queuedLost p = m.epDown p := by
    have htx' : (m.epDown p).ep.tx = [] := by simp [epDown, rateForget, updLk, htx]
    simp [queuedLost, htx']
  have hlost (n : Mach) : n.lostOnLink .ep p (m.lk .ep p) = n.bumpBy .ep (portPage p) R.prtTxLostCnt 0 := by
    simp [lostOnLink, unacked, hreplay]
  simp only [linkDown, hup, ne_eq, not_true_eq_false, if_false, truncated, if_pos hasm, hlost, if_true]
  exact congrArg (fun n => ((n.bumpBy .ep (portPage p) R.prtTxLostCnt 0).restart .ep p).dupFree p) hqueue

end Mach

/-- Settles O12: each case is a restart of the port (`onPort_restart`) or a message sent once more. -/
theorem trainingStartsOverWhenLockIsLost : Obligations.TrainingStartsOverWhenLockIsLost := by
  unfold Obligations.TrainingStartsOverWhenLockIsLost
  refine ⟨fun c s p hr hst hawake hen => ?climbing, fun s p hr hup hawake hen hreplay hasm => ?up,
    fun c s p hr => ⟨fun hst hdup hen => ?retry, fun x hx hcap => ?again, fun y hy => ?cap⟩⟩
  case climbing =>
    obtain ⟨hrun, hbecomes⟩ := onPort_restart (f := fun m => if ((m.lk c p).st = .up ∨ (m.lk c p).st = .climbing) ∧
        (!(m.lk c p).rxSleep) = true then m.linkDown c p else m) hr hen (by simp [hst, hawake, Mach.linkDown])
    refine ⟨_, hrun, ?_⟩
    simp only [(Mach.restart_moves s.m c p hen).lk]
    exact ⟨rfl, rfl, rfl, rfl, Mach.restart_driven s.m c p hen, hbecomes⟩
  case up =>
    obtain ⟨hslots, htx, hfetch⟩ := hr.2.2 rfl
    have hdown := Mach.linkDown_ep s.m p hup hreplay hasm htx
    generalize hn : (s.m.epDown p).bumpBy .ep (Mach.portPage p) R.prtTxLostCnt 0 = n at hdown
    have hkept : s.m.regsKept n .ep (Mach.epDownWord p) := hn ▸ Mach.epDown_kept ..
    have hidle : n.epIdle := hn ▸ Mach.epDown_epIdle p (hr.2.2 rfl)
    have hen' : n.fld .ep (Pg.port p) F.prtLinkCtrl_en = 1 := by
      rw [← hen]
      refine Mach.fld_of_kept hkept (hn ▸ Mach.epDown_epParams ..) _ _ ?_
      simp only [Mach.epDownWord, Bool.or_eq_false_iff]
      rw [eventWord_none _ _ _ (by decide) (port_ne_trace p) (by decide), portWord_item _ _ _ _ (by decide) (by decide),
        portWord_item _ _ _ _ (by decide) (by decide), pageWord_item _ _ _ _ (by decide) (by decide)]
      simp [port_ne_eRc]
      decide
    obtain ⟨hrf, hparams, hep, hlk⟩ := Mach.dupFree_freed (n.restart .ep p) p
    have hword (k : Nat) : ((n.restart .ep p).dupFree p).word .ep k = n.word .ep k := by
      rw [Mach.word, Mach.word, hrf, hparams, Mach.rf_restart_ep, Mach.epParams_restart_ep]
    have hrun : s.onPort .ep p (fun m => if ((m.lk .ep p).st = .up ∨ (m.lk .ep p).st = .climbing) ∧
        (!(m.lk .ep p).rxSleep) = true then m.linkDown .ep p else m)
          = .next { s with m := (n.restart .ep p).dupFree p } := by
      have hgo := epGoM_idle s (fun m => if ((m.lk .ep p).st = .up ∨ (m.lk .ep p).st = .climbing) ∧
        (!(m.lk .ep p).rxSleep) = true then m.linkDown .ep p else m)
      rw [if_pos (by simp [hup, hawake]), hdown] at hgo
      exact (if_pos hr.1).trans (hgo (Mach.epIdle_congr (hep.trans (Mach.ep_restart_ep n p)) hidle))
    refine ⟨_, hrun, ?_, ?_, ?_, ⟨rfl, rfl⟩, ?_⟩
    · exact (Mach.event_congr (hword _)).trans (hn ▸ Mach.epDown_event ..)
    · rw [Mach.counted, hword]
      exact hn ▸ Mach.epDown_counted ..
    · rw [hlk, (Mach.restart_moves n .ep p hen').lk]
      rfl
    · rw [hrf, Mach.rf_restart_ep]
      exact hn ▸ Mach.epDown_rf_sx ..
  case retry =>
    obtain ⟨hrun, hbecomes⟩ := onPort_restart (f := fun m => m.trainAgain c p) hr hen
      (by simp [Mach.trainAgain, hst, hdup])
    refine ⟨_, hrun, ?_⟩
    simp only [(Mach.restart_moves s.m c p hen).lk]
    exact ⟨rfl, rfl, rfl, fun h => if_neg h, hbecomes⟩
  case again =>
    have hsend : s.m.trainRepeat c p = s.m.emit (.ctl c p x) := by
      cases x with
      | cap y => exact absurd rfl (hcap y)
      | _ => simp [Mach.trainRepeat, hx]
    obtain ⟨hrun, hbecomes⟩ := onPort_touches (f := fun m => m.trainRepeat c p) (g := noWord) hr
      (by rw [hsend]; exact Mach.touches_emit ..)
    exact ⟨_, hrun, by simp [hsend], hbecomes⟩
  case cap =>
    have hsend : s.m.trainRepeat c p = s.m.emit (.ctl c p (.cap (s.m.ownCap c p y.seen))) := by
      simp [Mach.trainRepeat, hy]
    obtain ⟨hrun, hbecomes⟩ := onPort_touches (f := fun m => m.trainRepeat c p) (g := noWord) hr
      (by rw [hsend]; exact Mach.touches_emit ..)
    exact ⟨_, hrun, by simp [hsend], hbecomes⟩

end Sys2Proof.Machine
end

section
/-! O14: partners negotiate (R490, R491, R554). -/

set_option Elab.async false

namespace Sys2Proof.Machine
open Sys2Proof

namespace Mach

/-! ### The partner's epoch (R554) -/

section
variable (m : Mach) (c : Chip) (p : Nat)

/-- The own epoch is known to the partner. -/
theorem compareEpoch_same (epoch : Nat) (h : epoch = m.epochNow c % 256) :
    m.compareEpoch c p epoch = m.setLk c p { m.lk c p with partEpoch := epoch, skewFor := none } := by
  have hnow : epoch = (m.setLk c p { m.lk c p with partEpoch := epoch }).epochNow c % 256 := by
    rwa [epochNow_congr (rf_setLk ..) (setLk_epParams ..)]
  unfold compareEpoch updLk
  simp only [← hnow, or_true, if_true, lk_setLk, setLk_setLk]

/-- Another epoch, while the own one has not just changed. -/
theorem compareEpoch_other (epoch : Nat) (h : epoch ≠ m.epochNow c % 256) (hold : (m.rf c).epochChanged = none) :
    m.compareEpoch c p epoch
      = if (m.lk c p).skewFor = some epoch then m.setLk c p { m.lk c p with partEpoch := epoch }
        else ((m.setLk c p { m.lk c p with partEpoch := epoch, skewFor := some epoch }).bump c (byChip c Pg.chip Pg.eId)
          (byChip c R.chpEpochSkewCnt R.ep4EpochSkewCnt)).raise c (portPage p) 9 0 := by
  have hnow : epoch ≠ (m.setLk c p { m.lk c p with partEpoch := epoch }).epochNow c % 256 := by
    rwa [epochNow_congr (rf_setLk ..) (setLk_epParams ..)]
  unfold compareEpoch updLk
  simp only [rf_setLk, hold, hnow, or_false, if_false, lk_setLk, setLk_setLk, if_true, Bool.false_eq_true]
  cases c <;> rfl

/-- The refuse reason depends on the own node. -/
theorem refuseReason_setLk (l : Link) (x : CapMsg) : (m.setLk c p l).refuseReason c x = m.refuseReason c x := by
  unfold refuseReason epNode
  rw [fld_setLk]

theorem refuseReason_eq (x : CapMsg) : m.refuseReason c x
    = if x.switch = (c == .sx) then 1
      else if (c = .sx ∧ 959 < x.node) ∨ (c = .ep ∧ (x.node < 960 ∨ 975 < x.node)) then 2
      else if x.version ≠ 1 then 3 else if c = .ep ∧ 959 < m.epNode then 4 else 0 := by
  cases c <;> cases hs : x.switch <;> simp [refuseReason, hs]

/-- The link of a port in S0 when it has taken a CAP of its own epoch. -/
def capLink (l : Link) (x : CapMsg) : Link := { l with partEpoch := x.epoch, skewFor := none }

/-- Whether a port is of a duplicate plane is decided by the ports below it. -/
theorem dupOf_setLk (l : Link) (node : Nat) : (m.setLk c p l).dupOf p node = m.dupOf p node := by
  unfold dupOf
  rw [Bool.eq_iff_iff, List.any_eq_true, List.any_eq_true]
  refine exists_congr fun q => and_congr_right fun hq => ?_
  have hne : q ≠ p := Nat.ne_of_lt (List.mem_range.1 hq)
  have hlk : (m.setLk c p l).lk .ep q = m.lk .ep q := by
    cases c
    · exact lk_setLk_other _ _ _ _ _ _ (by decide)
    · simp [hne]
  rw [hlk]

/-- A port whose plane no other port has. -/
theorem dupOf_of_alone (node : Nat) (h : ∀ q, q ≠ p → (m.lk .ep q).partner.map (·.node) ≠ some node) :
    m.dupOf p node = false := by
  unfold dupOf
  rw [List.any_eq_false]
  intro q hq
  have hnode := h q (Nat.ne_of_lt (List.mem_range.1 hq))
  cases hp : (m.lk .ep q).partner with
  | none => simp [hp]
  | some y =>
    rw [hp] at hnode
    have : (y.node == node) = false := beq_false_of_ne fun he => hnode (congrArg some he)
    simp [hp, this]

/-- A CAP that goes out where a lane works is kept until its answer. -/
theorem sendCap_setLk {l : Link} (hl : l.failedLanes = (m.lk c p).failedLanes) (hn : l.negotiated = (m.lk c p).negotiated)
    (hlanes : m.ownLanes c p ≠ 0) (seen : Bool) : (m.setLk c p l).sendCap c p seen
      = (m.setLk c p { l with unanswered := some (.cap (m.ownCap c p seen)) }).emit (.ctl c p (.cap (m.ownCap c p seen))) := by
  rw [sendCap_eq _ _ _ _ (by rwa [ownLanes_setLk m c p l hl]), ownCap_setLk m c p l hl hn, sendTraining, setLk_setLk,
    lk_setLk_self]

/-- A port in S0 refuses a partner. -/
theorem capIn_refused (x : CapMsg) (hst : (m.lk c p).st = .s0) (hlanes : m.ownLanes c p ≠ 0)
    (hepoch : x.epoch = m.epochNow c % 256) (hr : m.refuseReason c x ≠ 0) :
    m.capIn c p x = ((m.setLk c p { capLink (m.lk c p) x with
      st := .refused, refuse := m.refuseReason c x, lastCap := some x,
      unanswered := some (.cap (m.ownCap c p false)) }).emit (.ctl c p (.cap (m.ownCap c p false)))).raise c (portPage p) 2 0 := by
  unfold capIn
  rw [if_neg (by simp [hst, hlanes]), compareEpoch_same m c p _ hepoch]
  simp only [lk_setLk_self, hst, reduceCtorEq, false_and, or_self, if_false, refuseReason_setLk, hr, ne_eq,
    not_false_eq_true, if_true, updLk_setLk]
  rw [sendCap_setLk m c p ?_ ?_ hlanes] <;> rfl

/-- A port in S0 answers a partner that is fit. -/
theorem capIn_answered (x : CapMsg) (hst : (m.lk c p).st = .s0) (hlanes : m.ownLanes c p ≠ 0)
    (hepoch : x.epoch = m.epochNow c % 256) (hr : m.refuseReason c x = 0)
    (hdup : (m.lk c p).dup = true → c = .ep → m.dupOf p x.node = false) :
    m.capIn c p x = if x.seen then ((m.setLk c p { capLink (m.lk c p) x with
        st := .s0, refuse := 0, lastCap := some x, dup := false, unanswered := some (.cap (m.ownCap c p true)) }).emit
          (.ctl c p (.cap (m.ownCap c p true)))).negotiationEnds c p x
      else (m.setLk c p { capLink (m.lk c p) x with
        st := .s0, refuse := 0, lastCap := some x, dup := false, unanswered := some (.cap (m.ownCap c p true)) }).emit
          (.ctl c p (.cap (m.ownCap c p true))) := by
  unfold capIn
  rw [if_neg (by simp [hst, hlanes]), compareEpoch_same m c p _ hepoch]
  simp only [lk_setLk_self, hst, reduceCtorEq, false_and, or_self, if_false, refuseReason_setLk, hr, ne_eq,
    not_true_eq_false, updLk_setLk, dupOf_setLk]
  rw [if_neg fun h => by rw [hdup h.1 h.2.1] at h; exact absurd h.2.2 (by decide)]
  rw [sendCap_setLk m c p ?_ ?_ hlanes] <;> rfl

/-- Two moves of one link are one. -/
theorem moves.then {m n k : Mach} {c : Chip} {p : Nat} {l l' : Link} {f : Nat → Bool} (h : m.moves n c p l f)
    (g : n.moves k c p l' f) : m.moves k c p l' f :=
  ⟨by rw [g.bare, setLk_bare, h.bare, setLk_bare, setLk_setLk, setLk_bare], h.kept.trans g.kept, g.other.trans h.other⟩

/-- What negotiation records of the partner (R490). -/
def partnerLink (l : Link) (x : CapMsg) (alloc : List Nat) (lanes : Nat) (dup : Bool) : Link :=
  { l with
    partner := some x, alloc := x.alloc, fresh := x.fresh, negotiated := true, refuse := 0, unanswered := none,
    ownAlloc := alloc, mask := bitsOf x.lanes 0 4 &&& lanes, lanesAt := [(0, bitsOf x.lanes 0 4 &&& lanes)], dup := dup }

/-- Negotiation ends at an SX-4's port, which leads the climb. -/
theorem negotiationEnds_sx (x : CapMsg) (hfresh : x.fresh = false) (hown : 0 < m.ownMaxStep .sx p) (hpart : 0 < x.maxStep) :
    m.moves (m.negotiationEnds .sx p x) .sx p
      { partnerLink (m.lk .sx p) x (m.allocOf .sx p) (m.ownLanes .sx p) false with
        st := .climbing, target := min (m.ownMaxStep .sx p) (min x.maxStep 4), unanswered := some (.step 1 0 0) }
      (laneWord .sx p) := by
  have hmax (l : Link) : (m.setLk .sx p l).ownMaxStep .sx p = m.ownMaxStep .sx p :=
    ownMaxStep_congr (rf_setLk ..) (setLk_epParams ..) p
  have htarget : min (m.ownMaxStep .sx p) (min x.maxStep 4) ≠ 0 := by omega
  have hold : ¬x.fresh = true := by simp [hfresh]
  unfold negotiationEnds
  simp only [if_neg hold, updLk, hmax, if_neg htarget, lk_setLk_self, setLk_setLk]
  exact ((moves_setLk ..).sendTraining _).showLanes fun _ h => h

/-- Negotiation ends at an EP-4's port whose plane no other port has. -/
theorem negotiationEnds_ep (x : CapMsg) (hplane : ∀ q, q ≠ p → (m.lk .ep q).partner.map (·.node) ≠ some x.node) :
    m.negotiationEnds .ep p x
      = m.setLk .ep p (partnerLink (m.lk .ep p) x (m.allocOf .ep p) (m.ownLanes .ep p) (m.dupOf p x.node)) := by
  have hnone (n : Mach) (hlk : ∀ q, q ≠ p → n.lk .ep q = m.lk .ep q) (ps : List Nat) :
      ps.foldl (fun n q => if (decide (p < q) && !(n.lk .ep p).dup && (n.lk .ep q).partner.map (·.node) == some x.node
          && ((n.lk .ep q).st == .up || (n.lk .ep q).st == .climbing)) = true
        then (n.linkDown .ep q).updLk .ep q fun l => { l with dup := true } else n) n = n := by
    induction ps with
    | nil => rfl
    | cons q ps ih =>
      rw [List.foldl_cons, if_neg, ih]
      intro h
      simp only [Bool.and_eq_true, decide_eq_true_eq, beq_iff_eq] at h
      have hq : q ≠ p := Nat.ne_of_gt h.1.1.1
      exact hplane q hq (hlk q hq ▸ h.1.2)
  exact hnone _ (fun q hq => by simp [updLk, hq]) _

end
end Mach

/-- Settles O14: what each message makes of the link, by the lemmas on `capIn`, `negotiationEnds` and `compareEpoch`. -/
theorem partnersNegotiate : Obligations.PartnersNegotiate := by
  unfold Obligations.PartnersNegotiate
  refine ⟨fun c s p x r hr hst hlanes hdup hepoch hseen hreason => ?cap, fun c s p x hr hst hlanes hepoch hseen hreason hfresh hstep
    hplane => ?ends, fun c s p epoch node hr hup => ?epoch⟩
  case cap =>
    rw [← Mach.refuseReason_eq] at hreason
    refine ⟨fun hne => ?refuse, fun hz => ?answer⟩
    case refuse =>
      have hin := Mach.capIn_refused s.m c p x hst hlanes hepoch (hreason ▸ hne)
      obtain ⟨hrun, hbecomes⟩ := onPort_moves (f := fun m => m.capIn c p x) (g := eventWord (Pg.port p)) hr (by
        rw [hin]; exact ((Mach.moves_setLk ..).emit _).raise _ _ _ fun _ h => h)
      refine ⟨_, hrun, ?_, by rw [hreason]; exact hbecomes⟩
      simp only [hin]
      exact Mach.event_raise _ _ _ _ _ _ _ (by decide) (.inr ⟨rfl, rfl⟩)
    case answer =>
      have hin := Mach.capIn_answered s.m c p x hst hlanes hepoch (hreason ▸ hz) (by simp [hdup])
      rw [if_neg (by simp [hseen])] at hin
      have hlink : { Mach.capLink (s.m.lk c p) x with
            st := .s0, refuse := 0, lastCap := some x, dup := false, unanswered := some (.cap (s.m.ownCap c p true)) }
          = { s.m.lk c p with
              refuse := 0, lastCap := some x, partEpoch := x.epoch, skewFor := none,
              unanswered := some (.cap (s.m.ownCap c p true)) } := by
        simp only [Mach.capLink, hst, hdup]
      rw [hlink] at hin
      obtain ⟨hrun, hbecomes⟩ := onPort_moves (f := fun m => m.capIn c p x) (g := noWord) hr (by
        rw [hin]; exact (Mach.moves_setLk ..).emit _)
      exact ⟨_, hrun, by simp [hin], hbecomes⟩
  case ends =>
    let l : Link := { Mach.capLink (s.m.lk c p) x with
      st := .s0, refuse := 0, lastCap := some x, dup := false, unanswered := some (.cap (s.m.ownCap c p true)) }
    let n : Mach := (s.m.setLk c p l).emit (.ctl c p (.cap (s.m.ownCap c p true)))
    have hin : s.m.capIn c p x = n.negotiationEnds c p x := by
      refine (Mach.capIn_answered s.m c p x hst hlanes hepoch hreason fun hdup hc => ?_).trans (if_pos hseen)
      have hplane' := hplane hc
      subst hc
      exact Mach.dupOf_of_alone s.m p x.node hplane'
    have hmoves : s.m.moves n c p l (laneWord c p) := (Mach.moves_setLk ..).emit _
    have hlanes' : n.ownLanes c p = s.m.ownLanes c p := Mach.ownLanes_setLk s.m c p l rfl
    cases c with
    | sx =>
      have hmax : n.ownMaxStep .sx p = s.m.ownMaxStep .sx p :=
        Mach.ownMaxStep_congr (Mach.rf_setLk s.m .sx .sx p l) (Mach.setLk_epParams s.m .sx p l) p
      have hends := hmoves.then (Mach.negotiationEnds_sx n p x hfresh (hmax ▸ (hstep rfl).1) (hstep rfl).2)
      rw [← hin, hlanes', hmax] at hends
      obtain ⟨hrun, hbecomes⟩ := onPort_moves (f := fun m => m.capIn .sx p x) hr hends
      refine ⟨_, hrun, ?_⟩
      simp only [hends.lk]
      exact ⟨rfl, rfl, rfl, rfl, fun _ => ⟨trivial, trivial, trivial⟩, hbecomes⟩
    | ep =>
      have hplane' : ∀ q, q ≠ p → (n.lk .ep q).partner.map (·.node) ≠ some x.node := fun q hq => by
        rw [show n.lk .ep q = s.m.lk .ep q by simp [n, hq]]
        exact hplane rfl q hq
      have hends := hmoves.setLk
        (Mach.partnerLink (n.lk .ep p) x (n.allocOf .ep p) (n.ownLanes .ep p) (n.dupOf p x.node))
      rw [← Mach.negotiationEnds_ep n p x hplane', ← hin, hlanes'] at hends
      obtain ⟨hrun, hbecomes⟩ := onPort_moves (f := fun m => m.capIn .ep p x) hr hends
      refine ⟨_, hrun, ?_⟩
      simp only [hends.lk]
      exact ⟨rfl, rfl, rfl, rfl, nofun, hbecomes⟩
  case epoch =>
    have hkeep : (if s.m.isUp c p then s.m.compareEpoch c p epoch else s.m) = s.m.compareEpoch c p epoch :=
      if_pos (by simp [Mach.isUp, hup])
    refine ⟨fun hsame => ?same, fun hne hold hskew => ?new, fun hne hold hskew => ?known⟩
    case same =>
      refine ⟨_, onPort_moves (f := fun m => if m.isUp c p then m.compareEpoch c p epoch else m) hr ?_⟩
      rw [hkeep, Mach.compareEpoch_same s.m c p epoch hsame]
      exact Mach.moves_setLk ..
    case new =>
      have hcompare := hkeep.trans ((Mach.compareEpoch_other s.m c p epoch hne hold).trans (if_neg hskew))
      obtain ⟨hrun, hbecomes⟩ := onPort_moves (f := fun m => if m.isUp c p then m.compareEpoch c p epoch else m)
        (g := fun k => eventWord (Pg.port p) k
              || k == item (byChip c Pg.chip Pg.eId) 0 (byChip c R.chpEpochSkewCnt R.ep4EpochSkewCnt)) hr (by
        rw [hcompare]
        exact ((Mach.moves_setLk ..).bump _ _ (by simp)).raise _ _ _ fun k hk => by simp [show eventWord (Pg.port p) k = true from hk])
      refine ⟨_, hrun, ?_, ?_, hbecomes⟩
      · simp only [hcompare]
        exact Mach.event_raise _ _ _ _ _ _ _ (by decide) (.inr ⟨rfl, rfl⟩)
      · have hevent : eventWord (Mach.portPage p) (item (byChip c Pg.chip Pg.eId) 0
            (byChip c R.chpEpochSkewCnt R.ep4EpochSkewCnt)) = false := by
          cases c <;> exact eventWord_none _ _ _ (by decide) (by decide) (by decide)
        simp only [hcompare, Mach.counted, Mach.word_raise _ _ _ _ _ _ hevent]
        exact (Mach.word_bump ..).trans (by rw [Mach.word_setLk])
    case known =>
      refine ⟨_, onPort_moves (f := fun m => if m.isUp c p then m.compareEpoch c p epoch else m) hr ?_⟩
      rw [hkeep, Mach.compareEpoch_other s.m c p epoch hne hold, if_pos hskew]
      exact Mach.moves_setLk ..

end Sys2Proof.Machine
end

section
/-! O15: the climb (R492 to R495). -/

set_option Elab.async false

namespace Sys2Proof.Machine
open Sys2Proof

namespace Mach

section
variable (m : Mach) (c : Chip) (p : Nat)

@[simp] theorem driven_updLk (f : Link → Link) : (m.updLk c p f).driven = m.driven := driven_setLk ..

theorem touches_laneSet (k : Nat) (f : Fld) (v : Nat) (hk : k < 4) (hf : f.off < 8) :
    m.touches (m.laneSet p k f v) .sx (laneWord .sx p) :=
  ⟨laneSet_bare .., regsKept_laneSet _ _ _ _ _ hk hf, laneSet_rf_ep ..⟩

/-- The registers of a port's page do not follow its lanes. -/
theorem prt_of_laneWord {m n : Mach} {c : Chip} {p : Nat} {l : Link} (h : m.moves n c p l (laneWord c p)) (f : Fld)
    (hf : f.off < 2 ^ 44) : n.prt c p f = m.prt c p f :=
  fld_of_kept h.kept h.epParams _ _ (laneWord_direct_item c p _ _ hf)

theorem touches.moves {m n k : Mach} {c : Chip} {p : Nat} {l : Link} {f : Nat → Bool} (h : m.touches n c f)
    (g : n.moves k c p l f) : m.moves k c p l f :=
  ⟨by rw [g.bare, setLk_bare, h.1, setLk_bare], h.2.1.trans g.kept, g.other.trans h.2.2⟩

/-! ### Steps (R492) -/

/-- The link of a port that has entered a step. -/
def stepLink (l : Link) (n fec : Nat) : Link :=
  { l with
    st := .climbing, step := n, fec := fec, accSent := false, accRecv := false, eqDone := 0, eqFailed := 0,
    ownCheck := none, partnerCheck := none, unanswered := none,
    taps := (List.range 4).map fun k => (k, [0, 0, 0, 0, 0, 0]) }

theorem enterStep_moves (n fec : Nat) :
    m.moves (m.enterStep c p n fec) c p (stepLink (m.lk c p) n fec) (laneWord c p) := by
  have hlink := moves_updLk m c p (fun l => stepLink l n fec) (laneWord c p)
  cases c with
  | ep => exact hlink.showLanes fun _ h => h
  | sx =>
    have hset (n : Mach) (k : Nat) (hk : k < 4) := touches_laneSet n p k F.lane_preset 0 hk (by decide)
    exact ((((hlink.touches (hset _ 0 (by decide))).touches (hset _ 1 (by decide))).touches (hset _ 2 (by decide))).touches
      (hset _ 3 (by decide))).showLanes fun _ h => h

theorem stepLink_taps (l : Link) (n fec k : Nat) (hk : k < 4) : (stepLink l n fec).tapsOf k = some [0, 0, 0, 0, 0, 0] := by
  match k, hk with
  | 0, _ | 1, _ | 2, _ | 3, _ => rfl

/-! ### The end of a climb (R494, R495) -/

/-- A port that climbs and has no ACTIVE of its partner sends its own at the step it has. -/
theorem climbEnds_active (hstep : (m.lk c p).step ≠ 0) (hrecv : (m.lk c p).activeRecv = none) :
    m.climbEnds c p = (m.setLk c p { m.lk c p with
      activeSent := true, unanswered := some (.active (m.lk c p).step (m.lk c p).mask) }).emit
        (.ctl c p (.active (m.lk c p).step (m.lk c p).mask)) := by
  simp only [climbEnds, if_neg hstep, updLk, sendTraining, lk_setLk_self, setLk_setLk]
  exact if_neg fun h => by simp [hrecv] at h

/-- A port that could not reach S1 goes back to S0. -/
theorem climbEnds_s0 (hstep : (m.lk c p).step = 0) :
    m.climbEnds c p = (m.setLk c p { m.lk c p with st := .s0, unanswered := none, lastCap := none }).showLanes c p :=
  if_pos hstep

/-- The link of a port whose climb has ended. -/
def endLink (l : Link) : Link :=
  if l.step = 0 then { l with st := .s0, unanswered := none, lastCap := none }
  else { l with activeSent := true, unanswered := some (.active l.step l.mask) }

theorem climbEnds_moves (hrecv : (m.lk c p).activeRecv = none) :
    m.moves (m.climbEnds c p) c p (endLink (m.lk c p)) (laneWord c p) := by
  unfold endLink
  split
  case isTrue hstep =>
    rw [climbEnds_s0 m c p hstep]
    exact (moves_setLk ..).showLanes fun _ h => h
  case isFalse hstep =>
    rw [climbEnds_active m c p hstep hrecv]
    exact (moves_setLk ..).emit _

/-! ### Checks (R493, R494) -/

theorem fecFor_of_moves {m n : Mach} {p : Nat} {l : Link} (h : m.moves n .sx p l (laneWord .sx p))
    (hpartner : l.partner = (m.lk .sx p).partner) (k : Nat) : n.fecFor p k = m.fecFor p k := by
  unfold fecFor
  rw [h.lk, hpartner, prt_of_laneWord h _ (by decide)]

/-- Every lane passed at both ends, below the SX-4's target: it asks for the next step. -/
theorem judgeStep_asks {a b : Nat} (hown : (m.lk .sx p).ownCheck = some a) (hpartner : (m.lk .sx p).partnerCheck = some b)
    (hpass : a &&& b = 15) (hlanes : maskAt (m.lk .sx p) 0 = 15) (htarget : (m.lk .sx p).step ≠ (m.lk .sx p).target) :
    m.moves (m.judgeStep .sx p) .sx p
      { m.lk .sx p with
        mask := 15, lanesAt := ((m.lk .sx p).step, 15) :: (m.lk .sx p).lanesAt,
        unanswered := some (.step ((m.lk .sx p).step + 1) 0 (m.fecFor p ((m.lk .sx p).step + 1))) } (laneWord .sx p) := by
  have hshown := (moves_updLk m .sx p (fun l => { l with mask := 15, lanesAt := ((m.lk .sx p).step, 15) :: l.lanesAt, unanswered := none })
    (laneWord .sx p)).showLanes fun _ h => h
  have hjudge : m.judgeStep .sx p = ((m.updLk .sx p fun l =>
      { l with mask := 15, lanesAt := ((m.lk .sx p).step, 15) :: l.lanesAt, unanswered := none }).showLanes .sx p).askStep p
        ((m.lk .sx p).step + 1) := by
    have hwidth : widthOf 15 = 4 := by decide
    simp only [judgeStep, hown, hpartner, hpass, hlanes, Nat.and_self, hwidth, if_true, if_neg htarget]
  rw [hjudge, askStep, fecFor_of_moves hshown rfl]
  exact hshown.sendTraining _

/-- A step that failed: the port falls back by one and its climb ends. -/
def fallLink (l : Link) : Link :=
  { l with step := l.step - 1, mask := maskAt l (l.step - 1), fec := if l.step ≤ 3 then 0 else l.fec }

/-- From step 1 a port falls back to S0; from a higher one it sends ACTIVE. -/
theorem endLink_fallLink {l : Link} (hst : l.st = .climbing) (hactive : l.activeSent = false) (hstep : 0 < l.step) :
    (endLink (fallLink l)).step = l.step - 1 ∧ (endLink (fallLink l)).st = (if l.step = 1 then .s0 else .climbing)
      ∧ (endLink (fallLink l)).activeSent = decide (1 < l.step) := by
  have hlast : (fallLink l).step = 0 ↔ l.step = 1 := by simp only [fallLink]; omega
  by_cases h1 : l.step = 1
  · rw [endLink, if_pos (hlast.2 h1), if_pos h1]
    exact ⟨rfl, rfl, by rw [h1]; exact hactive⟩
  · rw [endLink, if_neg (h1 ∘ hlast.1), if_neg h1]
    exact ⟨rfl, hst, (decide_eq_true (by omega : 1 < l.step)).symm⟩

/-- What a failed step writes. -/
def failWord (c : Chip) (p k : Nat) : Bool := laneWord c p k || (eventWord (Pg.port p) k || portWord p R.prtStepFailCnt k)

theorem fallBack_spec (hrecv : (m.lk c p).activeRecv = none) :
    m.moves (m.fallBack c p) c p (endLink (fallLink (m.lk c p))) (failWord c p)
      ∧ (m.fallBack c p).event c (Pg.port p) 3 = true ∧ m.counted (m.fallBack c p) c (Pg.port p) R.prtStepFailCnt := by
  let n := ((m.updLk c p fallLink).bump c (portPage p) R.prtStepFailCnt).raise c (portPage p) 3 0
  have hfall : m.fallBack c p = n.climbEnds c p := rfl
  have hn : m.moves n c p (fallLink (m.lk c p)) (failWord c p) :=
    ((moves_updLk ..).bump _ _ (by simp [failWord, portWord, portPage])).raise _ _ _ fun k hk => by
      simp [failWord, show eventWord (Pg.port p) k = true from hk]
  have hend := climbEnds_moves n c p (by rw [hn.lk]; exact hrecv)
  have hword (o : Nat) (ho : o < 2 ^ 44) : (m.fallBack c p).word c (item (Pg.port p) 0 o) = n.word c (item (Pg.port p) 0 o) :=
    hend.kept.2 _ (laneWord_direct_item c p _ _ ho)
  refine ⟨?_, ?_, ?_⟩
  · rw [hfall, ← hn.lk]
    exact hn.then (hend.mono fun k hk => by simp [failWord, hk])
  · exact (event_congr (hword _ (by decide))).trans (event_raise _ _ _ _ _ _ _ (by decide) (.inr ⟨rfl, rfl⟩))
  · rw [counted, hword _ (by decide), word_raise _ _ _ _ _ _ (eventWord_none _ _ _ (by decide) (port_ne_trace p) (by decide))]
    exact (word_bump ..).trans (by rw [updLk, word_setLk]; rfl)

/-! ### The port comes up (R495) -/

/-- The link of a port that comes up. -/
def upLink (l : Link) : Link :=
  { l with
    st := .up, credit := l.alloc, unanswered := none, activeSent := false, activeRecv := none, txSleep := 0,
    rxSleep := false, rxSeq := 1023, nak := false, txSeq := 0, replay := [], lastAck := 1023, nakFor := none,
    episodes := 0, asm := [], asmPid := none, returned := [0, 0, 0, 0, 0, 0], reported := [0, 0, 0, 0, 0, 0],
    seenCredit := [0, 0, 0, 0, 0, 0], nextReport := 0, idleStitches := 0, lightStitches := 0 }

/-- A hold that ends writes its port's count at most. -/
theorem holdEnd_spec (node : Nat) : (m.holdEnd p node).lk .sx p = m.lk .sx p ∧ (m.holdEnd p node).rf .ep = m.rf .ep
    ∧ (m.holdEnd p node).event .sx (Pg.port p) 0 = m.event .sx (Pg.port p) 0 := by
  have hbump (n : Mach) : (n.bump .sx (Pg.port p) R.prtHoldResumeCnt).event .sx (Pg.port p) 0 = n.event .sx (Pg.port p) 0 :=
    event_congr (by
      rw [bump, bumpBy, word_setWord, if_neg fun h => absurd ((item_direct_inj (by decide) (by decide)).1 h).2 (by decide)])
  unfold holdEnd
  dsimp only
  split_ifs
  · exact ⟨lk_congr (bump_bare ..) .sx p, other_bump _ .sx _ _, hbump _⟩
  · exact ⟨rfl, rfl, rfl⟩
  · exact ⟨rfl, rfl, rfl⟩

/-- LINK_UP is shown and raised, and a partner's short allocation counted. -/
def shownUp (m : Mach) (c : Chip) (p : Nat) (short : Bool) : Mach :=
  ((if short = true then m.bump c (portPage p) R.prtCreditShortCnt else m).raise c (portPage p) 0 0).showLanes c p

theorem shownUp_spec (short : Bool) : (m.shownUp c p short).bare = m.bare
    ∧ (m.shownUp c p short).rf (otherChip c) = m.rf (otherChip c) ∧ (m.shownUp c p short).event c (Pg.port p) 0 = true := by
  have hbare : (if short = true then m.bump c (portPage p) R.prtCreditShortCnt else m).bare = m.bare := by split <;> simp
  have hother : (if short = true then m.bump c (portPage p) R.prtCreditShortCnt else m).rf (otherChip c) = m.rf (otherChip c) := by
    split <;> simp [other_bump]
  exact ⟨(showLanes_bare ..).trans ((raise_bare ..).trans hbare),
    (showLanes_rf_other ..).trans ((other_raise ..).trans hother),
    (event_congr ((regsKept_showLanes ..).2 _ (laneWord_direct_item c p _ _ (by decide)))).trans
      (event_raise _ _ _ _ _ _ _ (by decide) (.inr ⟨rfl, rfl⟩))⟩

/-- A port that comes up. -/
theorem linkUp_spec : (m.linkUp c p).lk c p = upLink (m.lk c p) ∧ (m.linkUp c p).event c (Pg.port p) 0 = true
    ∧ (m.linkUp c p).rf (otherChip c) = m.rf (otherChip c) ∧ (m.epIdle → c = .ep → (m.linkUp c p).epIdle) := by
  obtain ⟨short, hshort⟩ : ∃ short : Bool, short = (List.range 6).any fun v =>
      decide (((m.updLk c p upLink).lk c p).alloc.getD v 0 < minAlloc v) := ⟨_, rfl⟩
  obtain ⟨n, hn⟩ : ∃ n, n = (m.updLk c p upLink).shownUp c p short := ⟨_, rfl⟩
  obtain ⟨hbare, hother, hevent⟩ := shownUp_spec (m.updLk c p upLink) c p short
  rw [← hn] at hbare hother hevent
  have hlk := (lk_congr hbare c p).trans (lk_setLk_self ..)
  replace hother := hother.trans (rf_setLk ..)
  cases c with
  | sx =>
    have hup : m.linkUp .sx p = ({ n with zlySeq := Tbl.erase n.zlySeq p } : Mach).holdEnd p (n.partnerNode p) := by
      rw [hn, hshort]; rfl
    obtain ⟨hlk', hrf', hevent'⟩ := holdEnd_spec { n with zlySeq := Tbl.erase n.zlySeq p } p (n.partnerNode p)
    rw [hup]
    exact ⟨hlk'.trans hlk, hevent'.trans hevent, hrf'.trans hother, nofun⟩
  | ep =>
    have hup : m.linkUp .ep p = (n.setEp { n.ep with zlyTest := Tbl.modify (fun _ => (0, 0)) n.ep.zlyTest p fun e => (0, e.2) }).rateForget
        (n.planeOfPort p) := by
      rw [hn, hshort]; rfl
    rw [hup]
    have hrate : pageWord Pg.eRc F.ep4RcStatus_entries.off (item (Pg.port p) 0 R.intStatus) = false := by
      rw [pageWord_item _ _ _ _ (by decide) (by decide), beq_false_of_ne (port_ne_eRc p), Bool.false_and]
    refine ⟨(lk_setRates ..).trans hlk, (event_congr (word_setRates _ _ _ hrate)).trans hevent,
      (rf_sx_setRates ..).trans hother, fun hidle _ => ?_⟩
    have hep : n.epIdle := epIdle_congr ((ep_of_bare hbare).trans (setLk_ep ..)) hidle
    rw [rateForget, epIdle, ep_setRates]
    exact hep

end
end Mach

/-- Settles O15: each message of the climb by its own lemma. -/
theorem linksClimbStepByStep : Obligations.LinksClimbStepByStep := by
  unfold Obligations.LinksClimbStepByStep
  refine ⟨⟨fun s p n fec hr hdup hpartner hst => ?request, fun c s p n fec hr hn hep hsx => ?accept,
      fun s p n fec hr hst hn hasked hrecv => ?refuse⟩, fun c s p mask hr hst hactive hstep => ?check,
    fun c s p step mask hr hst => ?active⟩
  case request =>
    have hpass : ¬(Chip.ep = .sx ∨ (s.m.lk .ep p).dup = true ∨ (s.m.lk .ep p).partner.isNone = true
        ∨ (!decide ((s.m.lk .ep p).st = .s0 ∨ (s.m.lk .ep p).st = .climbing)) = true) := by
      simp [hdup, hpartner, hst]
    refine ⟨fun hnext hmax => ?next, fun hother hrepeat => ?other⟩
    case next =>
      have haccept : s.m.stepRequest .ep p n fec
          = (s.m.updLk .ep p fun l => { l with accSent := true, fec := fec }).sendTraining .ep p (.step n 1 fec) :=
        (if_neg hpass).trans (if_pos ⟨hnext, hmax⟩)
      obtain ⟨hrun, hbecomes⟩ := onPort_moves (f := fun m => m.stepRequest .ep p n fec) (g := noWord) hr (by
        rw [haccept]; exact (Mach.moves_updLk ..).sendTraining _)
      exact ⟨_, hrun, by simp [haccept, Mach.driven_sendTraining], hbecomes⟩
    case other =>
      have hrefuse : s.m.stepRequest .ep p n fec = s.m.emit (.ctl .ep p (.step n 2 fec)) :=
        (if_neg hpass).trans ((if_neg (by omega)).trans (if_neg fun h => hrepeat h.1))
      obtain ⟨hrun, hbecomes⟩ := onPort_touches (f := fun m => m.stepRequest .ep p n fec) (g := noWord) hr (by
        rw [hrefuse]; exact Mach.touches_emit ..)
      exact ⟨_, hrun, by simp [hrefuse], hbecomes⟩
  case accept =>
    have hmoves : s.m.moves (s.m.stepAccept c p n fec) c p (Mach.stepLink (s.m.lk c p) n fec) (laneWord c p) := by
      cases c with
      | sx =>
        have hask : Mach.asksStep (s.m.lk .sx p) n = true := by simp [Mach.asksStep, (hsx rfl).2]
        have henter : s.m.stepAccept .sx p n fec = (s.m.emit (.ctl .sx p (.step n 1 fec))).enterStep .sx p n fec :=
          if_pos ⟨(hsx rfl).1, hn, hask⟩
        rw [henter]
        have hemit := Mach.touches_emit s.m (.ctl .sx p (.step n 1 fec)) .sx (laneWord .sx p)
        exact hemit.lk .sx p ▸ hemit.moves (Mach.enterStep_moves ..)
      | ep =>
        have henter : s.m.stepAccept .ep p n fec = s.m.enterStep .ep p n fec := if_pos ⟨hep rfl, hn⟩
        rw [henter]
        exact Mach.enterStep_moves ..
    obtain ⟨hrun, hbecomes⟩ := onPort_moves (f := fun m => m.stepAccept c p n fec) hr hmoves
    refine ⟨_, hrun, ?_⟩
    simp only [hmoves.lk]
    exact ⟨rfl, rfl, rfl, rfl, rfl, rfl, Mach.stepLink_taps _ _ _, hbecomes⟩
  case refuse =>
    have hask : Mach.asksStep (s.m.lk .sx p) n = true := by simp [Mach.asksStep, hasked]
    have hend : s.m.stepRefuse .sx p n = s.m.climbEnds .sx p := if_pos ⟨rfl, hst, hn, hask⟩
    refine ⟨fun hstep => ?up, fun hstep => ?s0⟩
    case up =>
      have hactive := hend.trans (Mach.climbEnds_active s.m .sx p hstep hrecv)
      obtain ⟨hrun, hbecomes⟩ := onPort_moves (f := fun m => m.stepRefuse .sx p n) (g := noWord) hr (by
        rw [hactive]; exact (Mach.moves_setLk ..).emit _)
      exact ⟨_, hrun, by simp [hactive], hbecomes⟩
    case s0 =>
      refine ⟨_, onPort_moves (f := fun m => m.stepRefuse .sx p n) hr ?_⟩
      rw [hend, Mach.climbEnds_s0 s.m .sx p hstep]
      exact (Mach.moves_setLk ..).showLanes fun _ h => h
  case check =>
    refine ⟨fun hown hpartner => ?reports, fun hown hpartner => ?kept, fun hc hown hpartner hmask hlanes htarget => ?asks,
      fun hown hrecv => ?fails⟩
    case reports =>
      have hcheck : s.m.checkEnd c p mask = (s.m.setLk c p { s.m.lk c p with
          ownCheck := some (mask % 16), unanswered := some (.check (mask % 16) (s.m.lk c p).step) }).emit
            (.ctl c p (.check (mask % 16) (s.m.lk c p).step)) := by
        refine (if_pos ⟨hst, hstep, by simp [hown], by simp [hactive]⟩).trans ?_
        simp [Mach.judgeStep, Mach.sendTraining, Mach.updLk, hpartner]
      obtain ⟨hrun, hbecomes⟩ := onPort_moves (f := fun m => m.checkEnd c p mask) (g := noWord) hr (by
        rw [hcheck]; exact (Mach.moves_setLk ..).emit _)
      exact ⟨_, hrun, by simp [hcheck], hbecomes⟩
    case kept =>
      refine ⟨_, onPort_moves (f := fun m => m.checkIn c p mask (s.m.lk c p).step) hr ?_⟩
      have hkeep : s.m.checkIn c p mask (s.m.lk c p).step
          = s.m.setLk c p { s.m.lk c p with partnerCheck := some (mask % 16) } := by
        refine (if_pos ⟨hst, rfl, by simp [hpartner], by simp [hactive]⟩).trans ?_
        simp [Mach.judgeStep, Mach.updLk, hown]
      rw [hkeep]
      exact Mach.moves_setLk ..
    case asks =>
      subst hc
      have hasks := (Mach.moves_setLk s.m .sx p { s.m.lk .sx p with partnerCheck := some (mask % 16) } (laneWord .sx p)).then
        (Mach.judgeStep_asks _ p (a := 15) (b := mask % 16) (by simp [hown]) (by simp) (by rw [hmask]; rfl)
          (by rw [Mach.lk_setLk_self]; exact hlanes) (by simpa using htarget))
      have hcheck : s.m.checkIn .sx p mask (s.m.lk .sx p).step
          = (s.m.setLk .sx p { s.m.lk .sx p with partnerCheck := some (mask % 16) }).judgeStep .sx p :=
        if_pos ⟨hst, rfl, by simp [hpartner], by simp [hactive]⟩
      rw [← hcheck] at hasks
      obtain ⟨hrun, hbecomes⟩ := onPort_moves (f := fun m => m.checkIn .sx p mask (s.m.lk .sx p).step) hr hasks
      refine ⟨_, hrun, ?_⟩
      simp only [hasks.lk, Mach.lk_setLk_self]
      refine ⟨trivial, trivial, ?_, by simpa using hbecomes⟩
      refine congrArg (fun k => some (Ctl.step ((s.m.lk .sx p).step + 1) 0 k)) ?_
      exact Mach.fecFor_of_moves (Mach.moves_setLk ..) (by rfl) _
    case fails =>
      have hfall : s.m.lockTimeout c p = s.m.fallBack c p := if_pos ⟨hst, hstep, by simp [hown], by simp [hactive]⟩
      obtain ⟨hmoves, hevent, hcount⟩ := Mach.fallBack_spec s.m c p hrecv
      rw [← hfall] at hmoves hevent hcount
      obtain ⟨hrun, hbecomes⟩ := onPort_moves (f := fun m => m.lockTimeout c p) hr hmoves
      refine ⟨_, hrun, hevent, hcount, ?_⟩
      obtain ⟨hfallen, hstate, hsent⟩ := Mach.endLink_fallLink hst hactive hstep
      simp only [hmoves.lk]
      exact ⟨hfallen, hstate, hsent, hbecomes⟩
  case active =>
    refine ⟨fun hactive => ?kept, fun hactive hs hm => ?up⟩
    case kept =>
      refine ⟨_, onPort_moves (f := fun m => m.activeIn c p step mask) hr ?_⟩
      have hkeep : s.m.activeIn c p step mask = s.m.setLk c p { s.m.lk c p with activeRecv := some (step, mask) } := by
        refine (if_pos hst).trans ?_
        simp [Mach.activeTry, Mach.updLk, hactive]
      rw [hkeep]
      exact Mach.moves_setLk ..
    case up =>
      have hin : s.m.activeIn c p step mask = (s.m.updLk c p fun l => { l with activeRecv := some (step, mask) }).linkUp c p := by
        refine (if_pos hst).trans (if_pos ?_)
        simp [Mach.updLk, hst, hactive, hs, hm]
      obtain ⟨hlk, hevent, hother, hidle⟩ :=
        Mach.linkUp_spec (s.m.updLk c p fun l => { l with activeRecv := some (step, mask) }) c p
      rw [← hin] at hlk hevent hother hidle
      have hrun : s.onPort c p (fun m => m.activeIn c p step mask) = .next { s with m := s.m.activeIn c p step mask } :=
        onPort_eq s c p _ hr.1 hr.2.1 fun hc => hidle (Mach.epIdle_congr (Mach.setLk_ep ..) (hr.2.2 hc)) hc
      refine ⟨_, hrun, hevent, ?_⟩
      simp only [hlk, Mach.updLk, Mach.lk_setLk_self]
      exact ⟨rfl, rfl, rfl, rfl, rfl, rfl, rfl, ⟨rfl, rfl⟩, hother.trans (Mach.rf_setLk ..)⟩

end Sys2Proof.Machine
end

section
/-! O16: the mask of an EP-4's link changes, and the rates of its plane are forgotten (R226, R496). -/

set_option Elab.async false

namespace Sys2Proof.Machine
open Sys2Proof

/-- Port 0 of an EP-4 is up with two lanes proposed, and the rate table holds one entry of its plane. -/
def ratedLink : State :=
  { m := (Mach.reset.setRates [{ vc := 0, node := 1, plane := 0, r := 0, t := 0, tokens := 0 }]).setLk .ep 0
      { st := .up, mask := 15, step := 1, proposed := some 3, unanswered := some (.lane 0 3) }
    store := {}, pending := [] }

namespace Mach

/-- The entries that the rate table's status counts. -/
theorem stored_setRates (m : Mach) (rs : List RateEntry) (h : rs.length < 2048) :
    (m.setRates rs).stored .ep Pg.eRc F.ep4RcStatus_entries = rs.length := by
  rw [stored, setRates, word_setFld, if_pos rfl]
  exact (bitsOf_withField _ _ _ _ (by decide)).trans (Nat.mod_eq_of_lt h)

/-- An EP-4 that moves to the mask it proposed forgets the rates of the link's plane. -/
theorem laneAccept_ep (m : Mach) (p mask : Nat) (hup : (m.lk .ep p).st = .up) (hproposed : (m.lk .ep p).proposed = some mask)
    (hreplay : (m.lk .ep p).replay = []) :
    ∃ n : Mach, n.ep = m.ep ∧ n.planeOfPort p = m.planeOfPort p ∧ m.laneAccept .ep p mask = n.rateForget (n.planeOfPort p) := by
  obtain ⟨n, hn⟩ : ∃ n, n = (((m.updLk .ep p fun l => { l with unanswered := none }).updLk .ep p fun l =>
      { l with mask := mask, proposed := none }).bump .ep (portPage p) R.prtWidthChangeCnt).raise .ep (portPage p) 4 0 := ⟨_, rfl⟩
  have hmoves : m.moves n .ep p { m.lk .ep p with unanswered := none, mask := mask, proposed := none } fun _ => true := by
    rw [hn]
    exact (((moves_updLk ..).updLk _).bump _ _ rfl).raise _ _ _ fun _ _ => rfl
  refine ⟨n, hmoves.ep, by rw [planeOfPort, hmoves.lk]; rfl, ?_⟩
  have hreplay' : ((n.rateForget (n.planeOfPort p)).lk .ep p).replay = [] := by
    rw [rateForget, lk_setRates, hmoves.lk]; exact hreplay
  have hmask : (m.updLk .ep p fun l => { l with unanswered := none }).applyMask .ep p mask
      = ((n.rateForget (n.planeOfPort p)).lk .ep p).replay.foldl (fun m f => m.emit (.flit .ep p f.flit))
          (n.rateForget (n.planeOfPort p)) := by rw [hn]; rfl
  refine (if_pos ⟨hup, hproposed⟩).trans ((if_neg nofun).trans ?_)
  rw [hmask, hreplay']
  rfl

end Mach

/-- Refutes O16: an EP-4 that moves to another mask forgets the rates of the link's plane, and EP4_RC_STATUS shows it. -/
theorem not_laneMasksFollowFailureAndAgreement : ¬ Obligations.LaneMasksFollowFailureAndAgreement := by
  unfold Obligations.LaneMasksFollowFailureAndAgreement
  intro ⟨_, h⟩
  have hr : ratedLink.m.portRuns .ep 0 := ⟨rfl, nofun, fun _ => ⟨rfl, rfl, rfl⟩⟩
  obtain ⟨n, hep, hplane, haccept⟩ := Mach.laneAccept_ep ratedLink.m 0 3 rfl rfl rfl
  have hnone : ratedLink.m.laneAccept .ep 0 3 = n.setRates [] := by
    rw [haccept, Mach.rateForget, hep, hplane]
    rfl
  have hrun : exec (.laneAccept .ep 0 3) ratedLink = .next { ratedLink with m := n.setRates [] } := by
    rw [← hnone]
    exact onPort_eq ratedLink .ep 0 (fun m => m.laneAccept .ep 0 3) rfl nofun fun _ => by
      rw [hnone, Mach.epIdle, Mach.ep_setRates, hep]
      exact ⟨rfl, rfl, rfl⟩
  obtain ⟨-, hclause, -⟩ := h .ep ratedLink 0 3 hr rfl rfl
  obtain ⟨t, ht, -, -, -, hkept, -⟩ := hclause rfl
  obtain rfl : { ratedLink with m := n.setRates [] } = t := by rw [hrun] at ht; exact Host.Outcome.next.inj ht
  have hword := hkept.2 (item Pg.eRc 0 F.ep4RcStatus_entries.off) (by decide)
  have hzero : (n.setRates []).stored .ep Pg.eRc F.ep4RcStatus_entries = 0 := Mach.stored_setRates n [] (by decide)
  have hone : ratedLink.m.stored .ep Pg.eRc F.ep4RcStatus_entries = 1 := by
    rw [Mach.stored, ratedLink, Mach.word_setLk]
    exact Mach.stored_setRates Mach.reset [_] (by simp)
  rw [Mach.stored, hword] at hzero
  rw [Mach.stored, hzero] at hone
  exact absurd hone (by decide)

end Sys2Proof.Machine
end

section
/-! O17: recalibration and margin of lanes (R498, R503). -/

set_option Elab.async false

namespace Sys2Proof.Machine
open Sys2Proof

namespace Mach

section
variable (m : Mach) (c : Chip) (page : Nat)

/-! ### Fields that are set -/

theorem stored_setFld (f : Fld) (v : Nat) (hf : f.lo + f.w ≤ 32) : (m.setFld c page f v).stored c page f = v % 2 ^ f.w := by
  rw [stored, word_setFld, if_pos rfl, bitsOf_withField _ _ _ _ hf]

/-- Setting a field keeps the other fields of its word. -/
theorem stored_setFld_other (f g : Fld) (v : Nat) (hf : f.lo + f.w ≤ 32) (hoff : g.off = f.off)
    (hg : g.lo + g.w ≤ f.lo ∨ f.lo + f.w ≤ g.lo) : (m.setFld c page f v).stored c page g = m.stored c page g := by
  rw [stored, hoff, word_setFld, if_pos rfl, bitsOf_withField_other _ _ _ _ _ _ hf hg, stored, hoff]

theorem stored_of_kept {m n : Mach} {c : Chip} {f : Nat → Bool} (h : m.regsKept n c f) (page : Nat) (g : Fld)
    (hg : f (item page 0 g.off) = false) : n.stored c page g = m.stored c page g := by
  rw [stored, stored, h.2 _ hg]

theorem touches_setFld (f : Fld) (v : Nat) {g : Nat → Bool} (hg : g (item page 0 f.off) = true) :
    m.touches (m.setFld c page f v) c g := touches_setWord _ _ _ _ hg

/-- Setting several lane words. -/
theorem touches_setTFld (sel per e : Nat) (f : Fld) (v : Nat) {g : Nat → Bool}
    (hg : g (item page sel (per * e + f.off)) = true) : m.touches (m.setTFld c page sel per e f v) c g :=
  touches_setWord _ _ _ _ hg

/-- A command of an SX-4 unit that exists. -/
theorem unit_go {s : State} {b : Bool} (hb : b = true) (f : Mach → Mach) : State.unit b (s.go f) = .next { s with m := f s.m } := by
  rw [hb]; rfl

/-! ### Narrower masks (R496) -/

/-- A port proposes a mask that is wide enough. -/
theorem narrowTo_eq (p mask : Nat) (hmin : m.minWidth c p ≤ widthOf mask) (h0 : widthOf mask ≠ 0) :
    m.narrowTo c p mask = (m.updLk c p fun l => { l with proposed := some mask }).sendTraining c p (.lane 0 mask) :=
  if_neg (by omega)

/-- The two lowest lanes other than one. -/
theorem lowestLanes_two (n : Nat) (hn : n < 4) :
    lowestLanes (15 - 2 ^ n) 2 = if n < 2 then (if n = 0 then 6 else 5) else 3 := by
  match n, hn with
  | 0, _ | 1, _ | 2, _ | 3, _ => rfl

theorem widthOf_lowest (n : Nat) : widthOf (if n < 2 then (if n = 0 then 6 else 5) else 3) = 2 := by
  split_ifs <;> rfl

end

/-! ### Recalibration (R498) -/

/-- The words that recalibrating a lane of port `p` on SerDes block `k` writes. -/
def recalWord (k p j : Nat) : Bool := laneWord .sx p j || j == item (Pg.serdes k) 0 F.sdsRecalStatus_busy.off

section
variable (m : Mach) (k lane : Nat)

/-- A lane of SerDes block `k` is shown busy. -/
def recalShown (m : Mach) (k lane : Nat) : Mach :=
  (((m.setFld .sx (Pg.serdes k) F.sdsRecalStatus_busy 1).setFld .sx (Pg.serdes k) F.sdsRecalStatus_lane lane).updLk .sx
    ((144 * k + lane) / 4) fun l => { l with recal := some ((144 * k + lane) % 4) }).showLanes .sx ((144 * k + lane) / 4)

theorem recalShown_moves : m.moves (m.recalShown k lane) .sx ((144 * k + lane) / 4)
    { m.lk .sx ((144 * k + lane) / 4) with recal := some ((144 * k + lane) % 4) } (recalWord k ((144 * k + lane) / 4)) := by
  have hset : recalWord k ((144 * k + lane) / 4) (item (Pg.serdes k) 0 F.sdsRecalStatus_busy.off) = true := by
    simp [recalWord]
  have hset' : recalWord k ((144 * k + lane) / 4) (item (Pg.serdes k) 0 F.sdsRecalStatus_lane.off) = true := hset
  have hfields := (touches_setFld m .sx (Pg.serdes k) F.sdsRecalStatus_busy 1 hset).trans
    (touches_setFld _ .sx (Pg.serdes k) F.sdsRecalStatus_lane lane hset')
  exact (hfields.updLk ((144 * k + lane) / 4) fun l => { l with recal := some ((144 * k + lane) % 4) }).showLanes
    fun j hj => by rw [recalWord, hj, Bool.true_or]

theorem recalShown_stored (hlane : lane < 144) : (m.recalShown k lane).stored .sx (Pg.serdes k) F.sdsRecalStatus_busy = 1
    ∧ (m.recalShown k lane).stored .sx (Pg.serdes k) F.sdsRecalStatus_lane = lane := by
  have hshow (f : Fld) (hf : f.off < 2 ^ 44) : (m.recalShown k lane).stored .sx (Pg.serdes k) f
      = ((m.setFld .sx (Pg.serdes k) F.sdsRecalStatus_busy 1).setFld .sx (Pg.serdes k) F.sdsRecalStatus_lane lane).stored .sx
          (Pg.serdes k) f :=
    (stored_of_kept (regsKept_showLanes ..) _ _ (laneWord_direct_item _ _ _ _ hf)).trans (by rw [stored, stored, updLk, word_setLk])
  refine ⟨?_, ?_⟩
  · rw [hshow _ (by decide), stored_setFld_other _ _ _ F.sdsRecalStatus_lane F.sdsRecalStatus_busy _ (by decide) rfl (by decide),
      stored_setFld _ _ _ _ _ (by decide)]
    rfl
  · rw [hshow _ (by decide), stored_setFld _ _ _ _ _ (by decide)]
    exact Nat.mod_eq_of_lt (show lane < 2 ^ 8 by omega)

@[simp] theorem recalShown_driven : (m.recalShown k lane).driven = m.driven := by simp [recalShown]

/-- Showing a lane busy leaves the settings of its port. -/
theorem recalShown_minWidth (hk : k < 4) (hlane : lane < 144) :
    (m.recalShown k lane).minWidth .sx ((144 * k + lane) / 4) = m.minWidth .sx ((144 * k + lane) / 4) := by
  have hmoves := recalShown_moves m k lane
  have hword : recalWord k ((144 * k + lane) / 4)
      (item (Pg.port ((144 * k + lane) / 4)) 0 F.prtLinkCtrl_minWidth.off) = false := by
    rw [recalWord, laneWord_direct_item _ _ _ _ (by decide), Bool.false_or]
    refine beq_false_of_ne fun h => ?_
    have hpage := ((item_direct_inj (by decide) (by decide)).1 h).1
    simp only [Pg.port, Pg.serdes] at hpage
    omega
  rw [minWidth, minWidth, prt, prt, portPage, fld_of_kept hmoves.kept hmoves.epParams _ _ hword]

/-- The words that the end of a recalibration writes. -/
def recalEndWord (k p j : Nat) : Bool :=
  eventWord (Pg.serdes k) j || (laneWord .sx p j || j == item (Pg.serdes k) 0 F.sdsRecalStatus_busy.off)

/-- A recalibration ends with its result and RECAL_DONE. -/
theorem recalEnds_spec (p k result : Nat) (hp : 4 * p / 144 = k) (hresult : result < 4) :
    m.moves (m.recalEnds p result) .sx p { m.lk .sx p with recal := none, unanswered := none } (recalEndWord k p)
      ∧ (m.recalEnds p result).event .sx (Pg.serdes k) 1 = true
      ∧ (m.recalEnds p result).stored .sx (Pg.serdes k) F.sdsRecalStatus_busy = 0
      ∧ (m.recalEnds p result).stored .sx (Pg.serdes k) F.sdsRecalStatus_result = result := by
  subst hp
  let n := (m.updLk .sx p fun l => { l with recal := none, unanswered := none }).showLanes .sx p
  let n' := (n.setFld .sx (Pg.serdes (4 * p / 144)) F.sdsRecalStatus_busy 0).setFld .sx (Pg.serdes (4 * p / 144))
    F.sdsRecalStatus_result result
  have hset : recalEndWord (4 * p / 144) p (item (Pg.serdes (4 * p / 144)) 0 F.sdsRecalStatus_busy.off) = true := by
    simp [recalEndWord]
  have hset' : recalEndWord (4 * p / 144) p (item (Pg.serdes (4 * p / 144)) 0 F.sdsRecalStatus_result.off) = true := hset
  have hn := (moves_updLk m .sx p (fun l => { l with recal := none, unanswered := none }) (recalEndWord (4 * p / 144) p)).showLanes
    fun j hj => by rw [recalEndWord, hj, Bool.true_or, Bool.or_true]
  have hfields := (touches_setFld n .sx (Pg.serdes (4 * p / 144)) F.sdsRecalStatus_busy 0 hset).trans
    (touches_setFld _ .sx (Pg.serdes (4 * p / 144)) F.sdsRecalStatus_result result hset')
  have hword (f : Fld) (hoff : f.off = F.sdsRecalStatus_busy.off) :
      (m.recalEnds p result).stored .sx (Pg.serdes (4 * p / 144)) f = n'.stored .sx (Pg.serdes (4 * p / 144)) f :=
    stored_of_kept (regsKept_raise n' .sx _ _ _) _ _ (by
      rw [hoff]; exact eventWord_none _ _ _ (by decide) (by simp only [Pg.serdes, Pg.trace]; omega) (by decide))
  refine ⟨(hn.touches hfields).raise _ _ _ fun j hj => by rw [recalEndWord, hj, Bool.true_or],
    event_raise _ _ _ _ _ _ _ (by decide) (.inr ⟨rfl, rfl⟩), ?_, ?_⟩
  · rw [hword _ rfl, stored_setFld_other _ _ _ F.sdsRecalStatus_result F.sdsRecalStatus_busy _ (by decide) rfl (by decide),
      stored_setFld _ _ _ _ _ (by decide)]
    rfl
  · rw [hword F.sdsRecalStatus_result rfl, stored_setFld _ _ _ _ _ (by decide)]
    exact Nat.mod_eq_of_lt (show result < 2 ^ 2 from hresult)

/-! ### Margin (R503) -/

/-- A word as its four bytes. -/
theorem word_bytes (w : Word) : w.toNat = bitsOf w.toNat 0 8 + bitsOf w.toNat 8 8 * 2 ^ 8 + bitsOf w.toNat 16 8 * 2 ^ 16
    + bitsOf w.toNat 24 8 * 2 ^ 24 := by
  have := w.isLt
  simp only [bitsOf]
  omega

/-- The word of a lane's eye after its four readings were put there. -/
theorem eyeWord (w : Word) {upper mid lower width : Nat} (hu : upper < 256) (hm : mid < 256) (hl : lower < 256)
    (hw : width < 256) :
    (withField (withField (withField (withField w 8 8 mid) 24 8 width) 0 8 upper) 16 8 lower).toNat
      = upper + mid * 2 ^ 8 + lower * 2 ^ 16 + width * 2 ^ 24 := by
  rw [word_bytes, bitsOf_withField _ 16 8 _ (by decide), bitsOf_withField_other _ 16 8 _ 0 8 (by decide) (by decide),
    bitsOf_withField_other _ 16 8 _ 8 8 (by decide) (by decide), bitsOf_withField_other _ 16 8 _ 24 8 (by decide) (by decide),
    bitsOf_withField _ 0 8 _ (by decide), bitsOf_withField_other _ 0 8 _ 8 8 (by decide) (by decide),
    bitsOf_withField_other _ 0 8 _ 24 8 (by decide) (by decide), bitsOf_withField _ 24 8 _ (by decide),
    bitsOf_withField_other _ 24 8 _ 8 8 (by decide) (by decide), bitsOf_withField _ 8 8 _ (by decide)]
  omega

/-- The word of a lane's eye (R505). -/
def eyeItem (lane : Nat) : Nat := item (Pg.serdes (lane / 144)) 1 (8 * (lane % 144) + 1)

/-- The four readings of a lane's eye are put into its word. -/
def eyePut (m : Mach) (lane upper mid lower width : Nat) : Mach :=
  (((m.laneSet (lane / 4) (lane % 4) F.lane_eyeMid mid).laneSet (lane / 4) (lane % 4) F.lane_eyeWidth width).laneSet
    (lane / 4) (lane % 4) F.lane_eyeUpper upper).laneSet (lane / 4) (lane % 4) F.lane_eyeLower lower

theorem laneSet_eye (lane : Nat) (f : Fld) (v : Nat) (hf : f.off = 1) :
    m.laneSet (lane / 4) (lane % 4) f v = m.setWord .sx (eyeItem lane) (withField (m.word .sx (eyeItem lane)) f.lo f.w v) := by
  have hlane : 4 * (lane / 4) + lane % 4 = lane := by omega
  rw [laneSet, hlane, setTFld, hf]
  rfl

theorem eyePut_touches (lane upper mid lower width : Nat) :
    m.touches (m.eyePut lane upper mid lower width) .sx (· == eyeItem lane) := by
  simp only [eyePut, laneSet_eye _ _ F.lane_eyeMid _ rfl, laneSet_eye _ _ F.lane_eyeWidth _ rfl,
    laneSet_eye _ _ F.lane_eyeUpper _ rfl, laneSet_eye _ _ F.lane_eyeLower _ rfl]
  have hset (n : Mach) (v : Word) := touches_setWord n .sx (eyeItem lane) v (f := (· == eyeItem lane)) (beq_self_eq_true _)
  exact (((hset _ _).trans (hset _ _)).trans (hset _ _)).trans (hset _ _)

theorem eyePut_word (lane : Nat) {upper mid lower width : Nat} (hu : upper < 256) (hm : mid < 256) (hl : lower < 256)
    (hw : width < 256) : ((m.eyePut lane upper mid lower width).word .sx (eyeItem lane)).toNat
      = upper + mid * 2 ^ 8 + lower * 2 ^ 16 + width * 2 ^ 24 := by
  simp only [eyePut, laneSet_eye _ _ F.lane_eyeMid _ rfl, laneSet_eye _ _ F.lane_eyeWidth _ rfl,
    laneSet_eye _ _ F.lane_eyeUpper _ rfl, laneSet_eye _ _ F.lane_eyeLower _ rfl, word_setWord, if_true]
  exact eyeWord _ hu hm hl hw

theorem stored_sendTraining (c : Chip) (p : Nat) (x : Ctl) (d : Chip) (page : Nat) (f : Fld) :
    (m.sendTraining c p x).stored d page f = m.stored d page f := by
  rw [stored, stored, sendTraining, word_emit, word_setLk]

end
end Mach

/-- Settles O17: what each command makes of its port's link and its SerDes page's words. -/
theorem lanesAreRecalibratedAndMeasured : Obligations.LanesAreRecalibratedAndMeasured := by
  unfold Obligations.LanesAreRecalibratedAndMeasured
  refine ⟨fun s k lane hk hlane hbusy hup => ⟨fun hmask => ?other, fun hmask hmin => ?four⟩,
    fun s k lane hk hlane hbusy hfld hup hrecal hproposed => ⟨?passed, ?failed⟩,
    fun s lane upper mid lower width hlane hu hm hl hw hused hup hstep => ?margin⟩
  case other =>
    have hmod : (144 * k + lane) % 4 = lane % 4 := by omega
    have hmoves := Mach.recalShown_moves s.m k lane
    have hshown : s.m.recalibrate k lane = s.m.recalShown k lane := by
      refine (if_neg (by simp [hbusy, hup, hlane])).trans (if_neg hmask)
    refine ⟨_, Mach.unit_go (decide_eq_true ⟨hk, hlane⟩) _, ?_⟩
    simp only [hshown]
    rw [hmod] at hmoves
    obtain ⟨hb, hl⟩ := Mach.recalShown_stored s.m k lane hlane
    exact ⟨hb, hl, becomes_of hmoves.bare hmoves.kept hmoves.other⟩
  case four =>
    have hmod : (144 * k + lane) % 4 = lane % 4 := by omega
    have hmoves := Mach.recalShown_moves s.m k lane
    have hmin' : (s.m.recalShown k lane).minWidth .sx ((144 * k + lane) / 4) ≤ 2 := by
      rw [Mach.recalShown_minWidth s.m k lane hk hlane]; exact hmin
    have hshown : s.m.recalibrate k lane = (s.m.recalShown k lane).narrowTo .sx ((144 * k + lane) / 4)
        (Mach.lowestLanes (15 - 2 ^ ((144 * k + lane) % 4)) 2) :=
      (if_neg (by simp [hbusy, hup, hlane])).trans (if_pos hmask)
    rw [hmod, Mach.lowestLanes_two _ (by omega), Mach.narrowTo_eq _ _ _ _ (by rw [Mach.widthOf_lowest]; exact hmin')
      (by rw [Mach.widthOf_lowest]; decide)] at hshown
    refine ⟨_, Mach.unit_go (decide_eq_true ⟨hk, hlane⟩) _, ?_⟩
    rw [hmod] at hmoves
    have hsent := (hmoves.updLk fun l => { l with proposed := some (if lane % 4 < 2 then (if lane % 4 = 0 then 6 else 5) else 3) }).sendTraining
      (.lane 0 (if lane % 4 < 2 then (if lane % 4 = 0 then 6 else 5) else 3))
    obtain ⟨hb, hl⟩ := Mach.recalShown_stored s.m k lane hlane
    rw [← hshown] at hsent
    refine ⟨?_, ?_, ?_, becomes_of hsent.bare hsent.kept hsent.other⟩
    · rw [hshown, Mach.stored_sendTraining, Mach.stored, Mach.updLk, Mach.word_setLk]; exact hb
    · rw [hshown, Mach.stored_sendTraining, Mach.stored, Mach.updLk, Mach.word_setLk]; exact hl
    · rw [hshown, Mach.driven_sendTraining, Mach.driven_updLk, Mach.recalShown_driven]
  case passed =>
    have hmod : (144 * k + lane) % 4 = lane % 4 := by omega
    have hsent := (Mach.moves_updLk s.m .sx ((144 * k + lane) / 4) (fun l => { l with proposed := some 15, failedLanes := 0 })
      noWord).sendTraining (.lane 2 15)
    have hdone : s.m.recalDone k true = (s.m.updLk .sx ((144 * k + lane) / 4) fun l =>
        { l with proposed := some 15, failedLanes := 0 }).sendTraining .sx ((144 * k + lane) / 4) (.lane 2 15) := by
      simp only [Mach.recalDone, hfld, hbusy, hrecal, hmod, hup, hproposed, Bool.not_true, Bool.false_eq_true, ne_eq,
        not_true_eq_false, Option.isSome_none, or_self, if_false, if_true]
    rw [← hdone] at hsent
    refine ⟨_, Mach.unit_go (decide_eq_true hk) _, ?_, becomes_of hsent.bare hsent.kept hsent.other⟩
    rw [hdone, Mach.driven_sendTraining, Mach.driven_updLk]
  case failed =>
    have hmod : (144 * k + lane) % 4 = lane % 4 := by omega
    have hdone : s.m.recalDone k false = (s.m.updLk .sx ((144 * k + lane) / 4) fun l =>
        { l with failedLanes := l.failedLanes ||| 2 ^ (lane % 4) }).recalEnds ((144 * k + lane) / 4) 2 := by
      simp only [Mach.recalDone, hfld, hbusy, hrecal, hmod, hup, hproposed, Bool.not_true, Bool.false_eq_true, ne_eq,
        not_true_eq_false, Option.isSome_none, or_self, if_false]
    obtain ⟨hmoves, hevent, hb, hresult⟩ := Mach.recalEnds_spec (s.m.updLk .sx ((144 * k + lane) / 4) fun l =>
        { l with failedLanes := l.failedLanes ||| 2 ^ (lane % 4) }) ((144 * k + lane) / 4) k 2 (by omega) (by decide)
    rw [← hdone] at hmoves hevent hb hresult
    replace hmoves := (Mach.moves_updLk ..).then hmoves
    rw [Mach.updLk, Mach.lk_setLk_self] at hmoves
    exact ⟨_, Mach.unit_go (decide_eq_true hk) _, hevent, hb, hresult, becomes_of hmoves.bare hmoves.kept hmoves.other⟩
  case margin =>
    have hput := Mach.eyePut_touches s.m lane upper mid lower width
    have hmargin : s.m.margin lane upper mid lower width
        = if min upper (min mid lower) < s.m.fld .sx (Pg.serdes (lane / 144)) F.sdsMarginCtrl_marginLow
          then (s.m.eyePut lane upper mid lower width).raise .sx (Pg.serdes (lane / 144)) 0 0
          else s.m.eyePut lane upper mid lower width := by
      unfold Mach.margin
      rw [if_neg (by simp [hused, hup])]
      simp only [if_neg hstep]
      refine if_congr ?_ rfl rfl
      rw [Nat.mod_eq_of_lt hu, Nat.mod_eq_of_lt hm, Nat.mod_eq_of_lt hl]
      omega
    refine ⟨_, Mach.unit_go (decide_eq_true hlane) _, ?_⟩
    simp only [hmargin]
    have hword : eventWord (Pg.serdes (lane / 144)) (Mach.eyeItem lane) = false := by
      have hpage : Pg.serdes (lane / 144) ≠ Pg.trace := by simp only [Pg.serdes, Pg.trace]; omega
      simp [eventWord, Mach.eyeItem, item_page _ _ _ (show 8 * (lane % 144) + 1 < 2 ^ 44 by omega),
        item_sel _ _ _ (show 8 * (lane % 144) + 1 < 2 ^ 44 by omega), hpage]
    have hput' := hput.mono (g := fun j => eventWord (Pg.serdes (lane / 144)) j || j == Mach.eyeItem lane)
      fun j hj => by rw [hj, Bool.or_true]
    split
    case isTrue hlow =>
      refine ⟨?_, ⟨fun _ => Mach.event_raise _ _ _ _ _ _ _ (by decide) (.inr ⟨rfl, rfl⟩), fun h => absurd hlow (Nat.not_lt.2 h)⟩, ?_⟩
      · rw [← Mach.eyeItem, Mach.word_raise _ _ _ _ _ _ hword]
        exact Mach.eyePut_word s.m lane hu hm hl hw
      · obtain ⟨hbare, hkept, hother⟩ := hput'.trans ((Mach.touches_raise ..).mono fun j hj => by rw [hj, Bool.true_or])
        exact becomes_of hbare hkept hother
    case isFalse hlow =>
      refine ⟨Mach.eyePut_word s.m lane hu hm hl hw, ⟨fun h => absurd h hlow, fun _ => hput.2.1⟩, ?_⟩
      obtain ⟨hbare, hkept, hother⟩ := hput'
      exact becomes_of hbare hkept hother

end Sys2Proof.Machine
end

section
/-! O24: the interleave of the pool (R349, R351). -/

set_option Elab.async false

namespace Sys2Proof.Machine
open Sys2Proof

namespace PoolMap

variable (r : PoolMap)

/-- Of different stacks of a mask, each has its own place in the list. -/
theorem stack_inj {mask i j : Nat} (hi : i < (stacksOf mask).length) (hj : j < (stacksOf mask).length)
    (h : (stacksOf mask).getD i 0 = (stacksOf mask).getD j 0) : i = j := by
  rw [List.getD_eq_getElem _ _ hi, List.getD_eq_getElem _ _ hj] at h
  exact ((List.nodup_range.filter _).getElem_inj_iff).1 h

/-- The interleave of a region is injective. -/
theorem locate_inj (hne : stacksOf r.mask ≠ []) {a b : Nat} (ha : r.fabBase * 2 ^ 26 ≤ a) (hb : r.fabBase * 2 ^ 26 ≤ b)
    (h : r.locate a = r.locate b) : a = b := by
  have hpos : 0 < (stacksOf r.mask).length := List.length_pos_iff.2 hne
  have hmax : max (stacksOf r.mask).length 1 = (stacksOf r.mask).length := by omega
  simp only [locate, hmax, Prod.mk.injEq] at h
  obtain ⟨hstack, haddr⟩ := h
  have hmod := stack_inj (Nat.mod_lt _ hpos) (Nat.mod_lt _ hpos) hstack
  have hrow : (a - r.fabBase * 2 ^ 26) / 256 / (stacksOf r.mask).length = (b - r.fabBase * 2 ^ 26) / 256 / (stacksOf r.mask).length := by
    omega
  have hgranule : (a - r.fabBase * 2 ^ 26) / 256 = (b - r.fabBase * 2 ^ 26) / 256 := by
    rw [← Nat.div_add_mod ((a - r.fabBase * 2 ^ 26) / 256) (stacksOf r.mask).length, hrow, hmod, Nat.div_add_mod]
  omega

/-- Within a granule of interleave the bytes are consecutive in one stack. -/
theorem locate_add {off k : Nat} (hoff : r.fabBase * 2 ^ 26 ≤ off) (hk : off % 256 + k < 256) :
    r.locate (off + k) = ((r.locate off).1, (r.locate off).2 + k) := by
  have hgranule : (off + k - r.fabBase * 2 ^ 26) / 256 = (off - r.fabBase * 2 ^ 26) / 256 := by omega
  have hbyte : (off + k - r.fabBase * 2 ^ 26) % 256 = (off - r.fabBase * 2 ^ 26) % 256 + k := by omega
  simp only [locate, hgranule, hbyte, ← Nat.add_assoc]

end PoolMap

/-- Every part lies within the request's bytes and stands where the interleave places it. -/
theorem poolParts_sound (r : PoolMap) (base len : Nat) (hbase : r.fabBase * 2 ^ 26 ≤ base) (n off : Nat) :
    ∀ pt ∈ poolParts r base len n off, 0 < pt.len ∧ pt.off + pt.len ≤ len ∧
      ∀ k, k < pt.len → r.locate (base + pt.off + k) = (pt.stack, pt.addr + k) := by
  induction n generalizing off with
  | zero => simp [poolParts]
  | succ n ih =>
    intro pt hpt
    rw [poolParts] at hpt
    split at hpt
    case isTrue => simp at hpt
    case isFalse hoff =>
      rcases List.mem_cons.1 hpt with rfl | hrest
      · have hlen : 0 < min (256 - (base + off) % 256) (len - off) := by omega
        refine ⟨hlen, by dsimp only; omega, fun k hk => r.locate_add (by omega) ?_⟩
        dsimp only at hk ⊢
        omega
      · exact ih _ pt hrest

/-- The parts cover the request's bytes from `off` on, given as many as there are granules left. -/
theorem poolParts_cover (r : PoolMap) (base len n off : Nat) (hn : (base + off) % 256 + (len - off) ≤ 256 * n)
    {k : Nat} (hk : off ≤ k) (hlen : k < len) : ∃ pt ∈ poolParts r base len n off, pt.off ≤ k ∧ k < pt.off + pt.len := by
  induction n generalizing off with
  | zero => omega
  | succ n ih =>
    rw [poolParts, if_neg (by omega)]
    by_cases hfirst : k < off + min (256 - (base + off) % 256) (len - off)
    · exact ⟨_, List.mem_cons_self, hk, hfirst⟩
    · obtain ⟨pt, hpt, hcover⟩ := ih (off + min (256 - (base + off) % 256) (len - off)) (by omega) (by omega)
      exact ⟨pt, List.mem_cons_of_mem _ hpt, hcover⟩

/-- Settles O24, by the injectivity of the interleave and induction on the parts. -/
theorem thePoolIsInterleaved : Obligations.ThePoolIsInterleaved := by
  unfold Obligations.ThePoolIsInterleaved
  intro r hne
  refine ⟨fun a b ha hb h => r.locate_inj hne ha hb h, fun x hx => ⟨poolParts_sound r _ _ hx _ _, fun k hk => ?_⟩⟩
  exact poolParts_cover r _ _ _ 0 (by omega) (Nat.zero_le k) hk

end Sys2Proof.Machine
end

section
/-! O31: windows of the Gusset (R606, R607). -/

set_option Elab.async false

namespace Sys2Proof.Machine
open Sys2Proof

namespace Mach

/-! ### The status words of a pair (R603) -/

/-- Words of a pair's status (R603). -/
def pairItem (i j : Nat) : Nat := item Pg.gusset 2 (8 * i + j)

/-- The status words of the pairs have no shadow of their own. -/
theorem pairItem_rws (par : EpParams) {i j : Nat} (hi : i < 8) (hj : j < 8) : (info par .sx (pairItem i j)).rws = 0 := by
  have h (a : Nat) (ha : a < 64) : (info par .sx (item Pg.gusset 2 a)).rws = 0 := by
    interval_cases a <;> rfl
  exact h _ (by omega)

theorem pairItem_inj {i j u v : Nat} (hi : i < 8) (hj : j < 8) (hu : u < 8) (hv : v < 8) :
    pairItem i j = pairItem u v ↔ i = u ∧ j = v := by
  rw [pairItem, pairItem, item_inj (by omega) (by omega) (by decide) (by decide)]
  omega

theorem pairItem_event {i j : Nat} (hi : i < 8) (hj : j < 8) : eventWord Pg.gusset (pairItem i j) = false := by
  have ha : 8 * i + j < 2 ^ 44 := by omega
  have hpage : (Pg.gusset == Pg.trace) = false := by decide
  simp [eventWord, pairItem, item_page _ _ _ ha, item_sel _ _ _ ha, hpage]

section
variable (m : Mach) {i : Nat} (hi : i < 8)
include hi

theorem live_pairItem {j : Nat} (hj : j < 8) : m.live .sx (pairItem i j) = m.word .sx (pairItem i j) := by
  refine live_of_not_rws m .sx (pairItem_rws _ hi hj) ?_
  rw [tmrBits, if_pos (by rw [pairItem, item_sel _ _ _ (by omega) (by decide)]; decide)]

theorem tword_pair {j : Nat} (hj : j < 8) : m.tword .sx Pg.gusset 2 (8 * i + j) = (m.word .sx (pairItem i j)).toNat := by
  rw [← live_pairItem m hi hj]; rfl

/-- A field of a pair's status as it stands. -/
theorem tfld_pair (f : Fld) (hf : f.off < 8) : m.tfld .sx Pg.gusset 2 8 i f = m.storedT .sx Pg.gusset 2 8 i f := by
  rw [storedT, ← pairItem, ← live_pairItem m hi hf]; rfl

end

section
variable (m : Mach) (c : Chip) (page sel per e : Nat)

theorem storedT_setTFld (f : Fld) (v : Nat) (hf : f.lo + f.w ≤ 32) :
    (m.setTFld c page sel per e f v).storedT c page sel per e f = v % 2 ^ f.w := by
  rw [storedT, setTFld, word_setWord, if_pos rfl, bitsOf_withField _ _ _ _ hf]

/-- Setting a field of a table word keeps its other fields. -/
theorem storedT_setTFld_other (f g : Fld) (v : Nat) (hf : f.lo + f.w ≤ 32) (hoff : g.off = f.off)
    (hg : g.lo + g.w ≤ f.lo ∨ f.lo + f.w ≤ g.lo) :
    (m.setTFld c page sel per e f v).storedT c page sel per e g = m.storedT c page sel per e g := by
  rw [storedT, hoff, setTFld, word_setWord, if_pos rfl, bitsOf_withField_other _ _ _ _ _ _ hf hg, storedT, hoff]

theorem storedT_congr {m n : Mach} {c : Chip} {page sel per e : Nat} {f : Fld}
    (h : n.word c (item page sel (per * e + f.off)) = m.word c (item page sel (per * e + f.off))) :
    n.storedT c page sel per e f = m.storedT c page sel per e f := by
  rw [storedT, h, storedT]

end

/-! ### Verdicts (R607) -/

/-- What closing a pair's window writes. -/
def windowWord (i k : Nat) : Bool :=
  (List.range 8).any (fun j => k == item Pg.gusset 2 (8 * i + j)) || eventWord Pg.gusset k

theorem windowWord_own {i j : Nat} (hj : j < 8) : windowWord i (pairItem i j) = true := by
  rw [windowWord, Bool.or_eq_true, List.any_eq_true]
  exact .inl ⟨j, List.mem_range.2 hj, beq_self_eq_true _⟩

section
variable (m : Mach) {i : Nat} (hi : i < 8)

theorem touches_pairFld (f : Fld) (v : Nat) (hf : f.off < 8) : m.touches (m.setTFld .sx Pg.gusset 2 8 i f v) .sx (windowWord i) :=
  touches_setTFld _ _ _ _ _ _ _ _ (windowWord_own hf)

theorem pairVerdict_touches (st code : Nat) : m.touches (m.pairVerdict i st code) .sx (windowWord i) :=
  ((touches_pairFld m F.pairStat_state st (by decide)).trans (touches_pairFld _ F.pairStat_code code (by decide))).trans
    ((touches_raise ..).mono fun k hk => by rw [windowWord, hk, Bool.or_true])

include hi in
/-- A verdict shows its state and code, keeps the counts of the pair and raises its event. -/
theorem pairVerdict_spec {st code : Nat} (hst : st < 8) (hcode : code < 8) :
    (m.pairVerdict i st code).storedT .sx Pg.gusset 2 8 i F.pairStat_state = st
      ∧ (m.pairVerdict i st code).storedT .sx Pg.gusset 2 8 i F.pairStat_code = code
      ∧ (m.pairVerdict i st code).storedT .sx Pg.gusset 2 8 i F.pairStat_run = m.storedT .sx Pg.gusset 2 8 i F.pairStat_run
      ∧ (m.pairVerdict i st code).storedT .sx Pg.gusset 2 8 i F.pairStat_bad = m.storedT .sx Pg.gusset 2 8 i F.pairStat_bad
      ∧ (m.pairVerdict i st code).event .sx Pg.gusset (if st = 2 then 0 else 1) = true := by
  have hraise (n : Mach) (b : Nat) (f : Fld) (hf : f.off = 0) :
      (n.raise .sx Pg.gusset b 0).storedT .sx Pg.gusset 2 8 i f = n.storedT .sx Pg.gusset 2 8 i f :=
    storedT_congr (word_raise _ _ _ _ _ _ (by rw [hf]; exact pairItem_event hi (by decide)))
  refine ⟨?_, ?_, ?_, ?_, event_raise _ _ _ _ _ _ _ (by split <;> decide) (.inr ⟨rfl, rfl⟩)⟩ <;>
    rw [pairVerdict, hraise _ _ _ rfl]
  · rw [storedT_setTFld_other _ _ _ _ _ _ F.pairStat_code F.pairStat_state _ (by decide) rfl (by decide),
      storedT_setTFld _ _ _ _ _ _ _ _ (by decide)]
    exact Nat.mod_eq_of_lt hst
  · rw [storedT_setTFld _ _ _ _ _ _ _ _ (by decide)]
    exact Nat.mod_eq_of_lt hcode
  · rw [storedT_setTFld_other _ _ _ _ _ _ F.pairStat_code F.pairStat_run _ (by decide) rfl (by decide),
      storedT_setTFld_other _ _ _ _ _ _ F.pairStat_state F.pairStat_run _ (by decide) rfl (by decide)]
  · rw [storedT_setTFld_other _ _ _ _ _ _ F.pairStat_code F.pairStat_bad _ (by decide) rfl (by decide),
      storedT_setTFld_other _ _ _ _ _ _ F.pairStat_state F.pairStat_bad _ (by decide) rfl (by decide)]

end

/-- Setting a field of a pair's first word keeps its other words. -/
theorem word_pairFld (m : Mach) {i j : Nat} (hi : i < 8) (hj : j < 8) (h0 : j ≠ 0) (f : Fld) (v : Nat) (hf : f.off = 0) :
    (m.setTFld .sx Pg.gusset 2 8 i f v).word .sx (pairItem i j) = m.word .sx (pairItem i j) := by
  rw [setTFld, word_setWord, if_neg]
  rw [hf, ← pairItem, pairItem_inj hi hj hi (by decide)]
  exact fun h => h0 h.2

theorem word_pairVerdict (m : Mach) {i j : Nat} (hi : i < 8) (hj : j < 8) (h0 : j ≠ 0) (st code : Nat) :
    (m.pairVerdict i st code).word .sx (pairItem i j) = m.word .sx (pairItem i j) := by
  rw [pairVerdict, word_raise _ _ _ _ _ _ (pairItem_event hi hj), word_pairFld _ hi hj h0 _ _ rfl, word_pairFld _ hi hj h0 _ _ rfl]

/-! ### A window that closes (R606) -/

/-- The window of pair `i` is counted and its sums are shown. -/
def windowSums (m : Mach) (i : Nat) : Mach :=
  let r := m.pairOf i
  let put := fun (m : Mach) (w v : Nat) => m.setTWord .sx Pg.gusset 2 (8 * i + w) v
  let m := put m 1 (min (m.tword .sx Pg.gusset 2 (8 * i + 1) + 1) 0xFFFFFFFF)
  let m := put (put m 2 (r.wSum % 2 ^ 32)) 3 (r.wSum / 2 ^ 32)
  let m := put (put m 4 (r.nSum % 2 ^ 32)) 5 (r.nSum / 2 ^ 32)
  put (put m 6 (r.wCount % 2 ^ 32)) 7 (r.nCount % 2 ^ 32)

/-- Its sums begin again. -/
def windowNext (m : Mach) (i : Nat) : Mach :=
  { m with gusset := Tbl.set (fun _ => {}) m.gusset i { opened := m.time.number + 1, copying := (m.pairOf i).copying } }

/-- What the window's end shows, before it is judged. -/
def windowShown (m : Mach) (i : Nat) : Mach :=
  (m.windowSums i).setPair i { opened := (m.windowSums i).time.number + 1, copying := (m.pairOf i).copying }

section
variable (m : Mach) {i : Nat} (hi : i < 8)

theorem touches_pairPut (j v : Nat) (hj : j < 8) : m.touches (m.setTWord .sx Pg.gusset 2 (8 * i + j) v) .sx (windowWord i) :=
  touches_setWord _ _ _ _ (windowWord_own hj)

theorem windowSums_touches : m.touches (m.windowSums i) .sx (windowWord i) := by
  have hput (n : Mach) (j v : Nat) (hj : j < 8) := touches_pairPut (i := i) n j v hj
  exact ((((((hput _ 1 _ (by decide)).trans (hput _ 2 _ (by decide))).trans (hput _ 3 _ (by decide))).trans
    (hput _ 4 _ (by decide))).trans (hput _ 5 _ (by decide))).trans (hput _ 6 _ (by decide))).trans (hput _ 7 _ (by decide))

theorem windowShown_bare : (m.windowShown i).bare = (m.windowNext i).bare := by
  have hbare := (windowSums_touches m (i := i)).1
  have htime : (m.windowSums i).time = m.time := time_of_bare hbare
  have hset (n : Mach) (r : PairRun) : (n.setPair i r).bare = n.bare.setPair i r := rfl
  rw [windowShown, hset, hbare, htime]
  rfl

theorem rf_setPair (r : PairRun) (c : Chip) : (m.setPair i r).rf c = m.rf c := by cases c <;> rfl

theorem word_setPair (r : PairRun) (c : Chip) (k : Nat) : (m.setPair i r).word c k = m.word c k := by
  rw [word, word, rf_setPair]; rfl

theorem windowShown_kept : m.regsKept (m.windowShown i) .sx (windowWord i) :=
  (windowSums_touches m).2.1.trans ⟨by rw [windowShown, rf_setPair], fun k _ => word_setPair _ _ .sx k⟩

theorem windowShown_rf_ep : (m.windowShown i).rf .ep = m.rf .ep := (rf_setPair ..).trans (windowSums_touches m).2.2

include hi in
theorem windowShown_words : (m.windowShown i).word .sx (pairItem i 0) = m.word .sx (pairItem i 0)
    ∧ ((m.windowShown i).word .sx (pairItem i 1)).toNat = min (m.tword .sx Pg.gusset 2 (8 * i + 1) + 1) 0xFFFFFFFF
    ∧ ((m.windowShown i).word .sx (pairItem i 2)).toNat = (m.pairOf i).wSum % 2 ^ 32
    ∧ ((m.windowShown i).word .sx (pairItem i 4)).toNat = (m.pairOf i).nSum % 2 ^ 32
    ∧ ((m.windowShown i).word .sx (pairItem i 6)).toNat = (m.pairOf i).wCount % 2 ^ 32
    ∧ ((m.windowShown i).word .sx (pairItem i 7)).toNat = (m.pairOf i).nCount % 2 ^ 32 := by
  have hput (n : Mach) (j k v : Nat) (hj : j < 8) (hk : k < 8) : (n.setTWord .sx Pg.gusset 2 (8 * i + j) v).word .sx (pairItem i k)
      = if k = j then BitVec.ofNat 32 v else n.word .sx (pairItem i k) := by
    rw [setTWord, word_setWord, ← pairItem]
    exact if_congr ((pairItem_inj hi hk hi hj).trans (and_iff_right rfl)) rfl rfl
  have hshown (k : Nat) : (m.windowShown i).word .sx (pairItem i k) = (m.windowSums i).word .sx (pairItem i k) := word_setPair ..
  simp [hshown, windowSums, hput]

include hi in
/-- Showing a window keeps the pair's state and counts. -/
theorem tfld_windowShown (f : Fld) (hf : f.off = 0) :
    (m.windowShown i).tfld .sx Pg.gusset 2 8 i f = m.tfld .sx Pg.gusset 2 8 i f := by
  rw [tfld_pair _ hi _ (by omega), tfld_pair _ hi _ (by omega)]
  exact storedT_congr (by rw [hf]; exact (windowShown_words m hi).1)

include hi in
/-- Showing a window keeps the settings of the Gusset. -/
theorem fld_windowShown (f : Fld) (hf : f.off < 2 ^ 44)
    (hreg : [R.intStatus, R.errLog0, R.errLog1, R.errLog2, R.errLog3].contains f.off = false) :
    (m.windowShown i).fld .sx Pg.gusset f = m.fld .sx Pg.gusset f := by
  refine fld_of_kept (windowShown_kept m) ((epParams_of_bare (windowShown_bare m)).trans rfl) _ _ ?_
  rw [windowWord, eventWord_none _ _ _ hf (by decide) hreg, Bool.or_false]
  refine List.any_eq_false.2 fun j hj h => ?_
  have hj := List.mem_range.1 hj
  exact absurd ((item_inj hf (by omega) (by decide) (by decide)).1 (beq_iff_eq.1 h)).2.1 (by decide)

end

/-- A clean window lengthens the run, up to admission. -/
def cleanWindow (m : Mach) (i : Nat) : Mach :=
  let run := min (m.tfld .sx Pg.gusset 2 8 i F.pairStat_run + 1) 255
  let m := m.setTFld .sx Pg.gusset 2 8 i F.pairStat_run run
  if max (m.fld .sx Pg.gusset F.gstCtrl_clean) 1 ≤ run then m.pairVerdict i 2 0 else m

/-- A bad window ends the run, up to failure. -/
def badWindow (m : Mach) (i : Nat) : Mach :=
  let m := m.setTFld .sx Pg.gusset 2 8 i F.pairStat_run 0
  let bad := min (m.tfld .sx Pg.gusset 2 8 i F.pairStat_bad + 1) 255
  let m := m.setTFld .sx Pg.gusset 2 8 i F.pairStat_bad bad
  if max (m.fld .sx Pg.gusset F.gstCtrl_maxBad) 1 ≤ bad then m.pairVerdict i 3 6 else m

/-- Closing a window shows it and judges it. -/
theorem closeWindow_eq (m : Mach) (i : Nat) : m.closeWindow i =
    if (m.pairOf i).wSum = (m.pairOf i).nSum ∧ (m.pairOf i).wCount = (m.pairOf i).nCount ∧ (m.pairOf i).dirty = false
    then (m.windowShown i).cleanWindow i else (m.windowShown i).badWindow i :=
  if_congr (by simp) rfl rfl

section
variable (m : Mach) {i : Nat} (hi : i < 8)

theorem cleanWindow_touches : m.touches (m.cleanWindow i) .sx (windowWord i) := by
  unfold cleanWindow
  dsimp only
  have hset := touches_pairFld m (i := i) F.pairStat_run (min (m.tfld .sx Pg.gusset 2 8 i F.pairStat_run + 1) 255) (by decide)
  split
  · exact hset.trans (pairVerdict_touches _ 2 0)
  · exact hset

theorem badWindow_touches : m.touches (m.badWindow i) .sx (windowWord i) := by
  unfold badWindow
  dsimp only
  have hset := (touches_pairFld m (i := i) F.pairStat_run 0 (by decide)).trans (touches_pairFld _ F.pairStat_bad
    (min ((m.setTFld .sx Pg.gusset 2 8 i F.pairStat_run 0).tfld .sx Pg.gusset 2 8 i F.pairStat_bad + 1) 255) (by decide))
  split
  · exact hset.trans (pairVerdict_touches _ 3 6)
  · exact hset

/-- A setting of the Gusset's page does not follow its pairs' status. -/
theorem fld_pairFld (f g : Fld) (v : Nat) (hf : f.off < 8) (hg : g.off < 2 ^ 44)
    (hi : i < 8) : (m.setTFld .sx Pg.gusset 2 8 i f v).fld .sx Pg.gusset g = m.fld .sx Pg.gusset g := by
  obtain ⟨hbare, hkept, -⟩ := touches_setTFld m .sx Pg.gusset 2 8 i f v (g := (· == pairItem i f.off)) (beq_self_eq_true _)
  refine fld_of_kept hkept (epParams_of_bare hbare) _ _ (beq_false_of_ne fun h => ?_)
  exact absurd ((item_inj hg (by omega) (by decide) (by decide)).1 h).2.1 (by decide)

include hi in
theorem cleanWindow_spec (hshadow : m.tfld .sx Pg.gusset 2 8 i F.pairStat_state = 1) :
    let run := min (m.tfld .sx Pg.gusset 2 8 i F.pairStat_run + 1) 255
    (m.cleanWindow i).storedT .sx Pg.gusset 2 8 i F.pairStat_run = run
      ∧ (max (m.fld .sx Pg.gusset F.gstCtrl_clean) 1 ≤ run →
        (m.cleanWindow i).storedT .sx Pg.gusset 2 8 i F.pairStat_state = 2 ∧ (m.cleanWindow i).event .sx Pg.gusset 0 = true)
      ∧ (run < max (m.fld .sx Pg.gusset F.gstCtrl_clean) 1 →
        (m.cleanWindow i).storedT .sx Pg.gusset 2 8 i F.pairStat_state = 1) := by
  intro run
  let n := m.setTFld .sx Pg.gusset 2 8 i F.pairStat_run run
  have hwindow : m.cleanWindow i = if max (m.fld .sx Pg.gusset F.gstCtrl_clean) 1 ≤ run then n.pairVerdict i 2 0 else n := by
    rw [← fld_pairFld m (i := i) F.pairStat_run F.gstCtrl_clean run (by decide) (by decide) hi]
    rfl
  have hrun : n.storedT .sx Pg.gusset 2 8 i F.pairStat_run = run :=
    (storedT_setTFld _ _ _ _ _ _ _ _ (by decide)).trans (Nat.mod_eq_of_lt (show run < 2 ^ 8 by omega))
  have hstate : n.storedT .sx Pg.gusset 2 8 i F.pairStat_state = 1 := by
    rw [storedT_setTFld_other _ _ _ _ _ _ F.pairStat_run F.pairStat_state _ (by decide) rfl (by decide),
      ← tfld_pair m hi F.pairStat_state (by decide), hshadow]
  obtain ⟨hst, -, hkept, -, hevent⟩ := pairVerdict_spec n hi (st := 2) (code := 0) (by decide) (by decide)
  rw [hwindow]
  split
  case isTrue h => exact ⟨hkept.trans hrun, fun _ => ⟨hst, hevent⟩, fun h' => absurd h (Nat.not_le.2 h')⟩
  case isFalse h => exact ⟨hrun, fun h' => absurd h' h, fun _ => hstate⟩

include hi in
theorem badWindow_spec :
    let bad := min (m.tfld .sx Pg.gusset 2 8 i F.pairStat_bad + 1) 255
    (m.badWindow i).storedT .sx Pg.gusset 2 8 i F.pairStat_run = 0
      ∧ (m.badWindow i).storedT .sx Pg.gusset 2 8 i F.pairStat_bad = bad
      ∧ (max (m.fld .sx Pg.gusset F.gstCtrl_maxBad) 1 ≤ bad →
        (m.badWindow i).storedT .sx Pg.gusset 2 8 i F.pairStat_state = 3
          ∧ (m.badWindow i).storedT .sx Pg.gusset 2 8 i F.pairStat_code = 6
          ∧ (m.badWindow i).event .sx Pg.gusset 1 = true) := by
  intro bad
  let n := (m.setTFld .sx Pg.gusset 2 8 i F.pairStat_run 0).setTFld .sx Pg.gusset 2 8 i F.pairStat_bad bad
  have hbad : (m.setTFld .sx Pg.gusset 2 8 i F.pairStat_run 0).tfld .sx Pg.gusset 2 8 i F.pairStat_bad
      = m.tfld .sx Pg.gusset 2 8 i F.pairStat_bad := by
    rw [tfld_pair _ hi _ (by decide), tfld_pair _ hi _ (by decide),
      storedT_setTFld_other _ _ _ _ _ _ F.pairStat_run F.pairStat_bad _ (by decide) rfl (by decide)]
  have hwindow : m.badWindow i = if max (m.fld .sx Pg.gusset F.gstCtrl_maxBad) 1 ≤ bad then n.pairVerdict i 3 6 else n := by
    rw [← fld_pairFld m (i := i) F.pairStat_run F.gstCtrl_maxBad 0 (by decide) (by decide) hi,
      ← fld_pairFld _ (i := i) F.pairStat_bad F.gstCtrl_maxBad bad (by decide) (by decide) hi, badWindow, hbad]
  have hrun : n.storedT .sx Pg.gusset 2 8 i F.pairStat_run = 0 := by
    rw [storedT_setTFld_other _ _ _ _ _ _ F.pairStat_bad F.pairStat_run _ (by decide) rfl (by decide),
      storedT_setTFld _ _ _ _ _ _ _ _ (by decide)]
    rfl
  have hcount : n.storedT .sx Pg.gusset 2 8 i F.pairStat_bad = bad :=
    (storedT_setTFld _ _ _ _ _ _ _ _ (by decide)).trans (Nat.mod_eq_of_lt (show bad < 2 ^ 8 by omega))
  obtain ⟨hst, hcode, hkept, hkept', hevent⟩ := pairVerdict_spec n hi (st := 3) (code := 6) (by decide) (by decide)
  rw [hwindow]
  split
  case isTrue h => exact ⟨hkept.trans hrun, hkept'.trans hcount, fun _ => ⟨hst, hcode, hevent⟩⟩
  case isFalse h => exact ⟨hrun, hcount, fun h' => absurd h' h⟩

include hi in
/-- Judging a window keeps the sums that it shows. -/
theorem word_judged {j : Nat} (hj : j < 8) (h0 : j ≠ 0) : (m.cleanWindow i).word .sx (pairItem i j) = m.word .sx (pairItem i j)
    ∧ (m.badWindow i).word .sx (pairItem i j) = m.word .sx (pairItem i j) := by
  refine ⟨?_, ?_⟩
  · unfold cleanWindow
    dsimp only
    split <;> simp only [word_pairVerdict _ hi hj h0, word_pairFld _ hi hj h0 F.pairStat_run _ rfl]
  · unfold badWindow
    dsimp only
    split <;> simp only [word_pairVerdict _ hi hj h0, word_pairFld _ hi hj h0 F.pairStat_run _ rfl,
      word_pairFld _ hi hj h0 F.pairStat_bad _ rfl]

end

end Mach

/-- Settles O31: what a window shows, and its verdict, by their own lemmas. -/
theorem gussetWindowsAreJudged : Obligations.GussetWindowsAreJudged := by
  unfold Obligations.GussetWindowsAreJudged
  intro s i hi hcloses
  dsimp only
  obtain ⟨hw0, hw1, hw2, hw4, hw6, hw7⟩ := Mach.windowShown_words s.m hi
  have hrun : exec (.gussetWindowClose i) s = .next { s with m := s.m.closeWindow i } := by
    have hgo := Mach.unit_go (s := s) (decide_eq_true hi) fun m => if m.windowCloses i then m.closeWindow i else m
    rwa [if_pos hcloses] at hgo
  have hshadow : (s.m.windowShown i).tfld .sx Pg.gusset 2 8 i F.pairStat_state = 1 := by
    rw [Mach.tfld_windowShown _ hi _ rfl]
    simp only [Mach.windowCloses, Bool.and_eq_true, beq_iff_eq] at hcloses
    exact hcloses.1.1
  have hbecomes (n : Mach) (h : (s.m.windowShown i).touches n .sx (Mach.windowWord i)) :
      s.becomes { s with m := n } (s.m.windowNext i) .sx (Mach.windowWord i) :=
    becomes_of (h.1.trans (Mach.windowShown_bare s.m)) ((Mach.windowShown_kept s.m).trans h.2.1)
      (h.2.2.trans (Mach.windowShown_rf_ep s.m))
  refine ⟨_, hrun, ?_⟩
  rw [Mach.closeWindow_eq]
  split
  case isTrue hclean =>
    have hword {j v : Nat} (hj : j < 8) (h0 : j ≠ 0) (hw : ((s.m.windowShown i).word .sx (Mach.pairItem i j)).toNat = v) :
        (((s.m.windowShown i).cleanWindow i).word .sx (item Pg.gusset 2 (8 * i + j))).toNat = v :=
      (congrArg BitVec.toNat (Mach.word_judged (s.m.windowShown i) hi hj h0).1).trans hw
    have hjudged := Mach.cleanWindow_spec (s.m.windowShown i) hi hshadow
    rw [Mach.tfld_windowShown _ hi _ rfl, Mach.fld_windowShown _ hi F.gstCtrl_clean (by decide) (by decide)] at hjudged
    exact ⟨hword (by decide) (by decide) hw1, hword (by decide) (by decide) hw2, hword (by decide) (by decide) hw4,
      hword (by decide) (by decide) hw6, hword (by decide) (by decide) hw7, fun _ => hjudged, fun h => absurd hclean h,
      hbecomes _ (Mach.cleanWindow_touches _)⟩
  case isFalse hbad =>
    have hword {j v : Nat} (hj : j < 8) (h0 : j ≠ 0) (hw : ((s.m.windowShown i).word .sx (Mach.pairItem i j)).toNat = v) :
        (((s.m.windowShown i).badWindow i).word .sx (item Pg.gusset 2 (8 * i + j))).toNat = v :=
      (congrArg BitVec.toNat (Mach.word_judged (s.m.windowShown i) hi hj h0).2).trans hw
    have hjudged := Mach.badWindow_spec (s.m.windowShown i) hi
    rw [Mach.tfld_windowShown _ hi _ rfl, Mach.fld_windowShown _ hi F.gstCtrl_maxBad (by decide) (by decide)] at hjudged
    exact ⟨hword (by decide) (by decide) hw1, hword (by decide) (by decide) hw2, hword (by decide) (by decide) hw4,
      hword (by decide) (by decide) hw6, hword (by decide) (by decide) hw7, fun h => absurd h hbad, fun _ => hjudged,
      hbecomes _ (Mach.badWindow_touches _)⟩

end Sys2Proof.Machine
end

section
/-! O9: the vote of the triple-stored fields (R548) and the commit of one group (R544). -/

set_option Elab.async false

namespace Sys2Proof.Machine
open Sys2Proof

namespace Mach

/-! ### The vote (R548) -/

/-- Counting and reporting an upset leaves none behind. -/
theorem upsets_scrubTmr (m : Mach) (c : Chip) : ((m.scrubTmr c).rf c).upsets = [] := by
  unfold scrubTmr
  refine foldl_inv (fun n : Mach => (n.rf c).upsets = []) _ (fun n u hn => ?_) _ ?_
  · split
    · exact hn
    · have hbump (g o : Nat) : ((n.bump c g o).rf c).upsets = [] :=
        (upsets_of_kept (regsKept_bump n c g o (fun _ => true) rfl)).trans hn
      split
      · rename_i h
        subst h
        exact (upsets_of_kept (regsKept_raise ..)).trans (hbump ..)
      · exact hbump ..
  · dsimp only
    rw [rf_setRf]

/-- The vote is the last thing that a cut-off does. -/
theorem sxCutOff_votes {m : Mach} (hoff : m.boot.off = false) : ∃ n : Mach, m.sxCutOff = n.scrubTmr .sx := by
  have hon : ¬(m.boot.off = true) := by rw [hoff]; decide
  exact ⟨_, if_neg hon⟩

theorem ep_scrubTmr (m : Mach) (c : Chip) : (m.scrubTmr c).ep = m.ep := by
  unfold scrubTmr
  refine foldl_inv (fun n : Mach => n.ep = m.ep) _ (fun n u hn => ?_) _ ?_
  · split
    · exact hn
    · split
      · rw [raise_ep, bump_ep, hn]
      · rw [bump_ep, hn]
  · rw [setRf_ep]
    refine foldl_inv (fun n : Mach => n.ep = m.ep) _ (fun n k hn => ?_) _ rfl
    split
    · rw [ep_ite, setWord, setLive, setRf_ep, setRf_ep, ite_self, hn]
    · rw [setShadow, setRf_ep, hn]

/-! ### Copying a group (R541, R544) -/

theorem mem_insert {α : Type} (t : Tbl α) (k : Nat) (v : α) (j : Nat) :
    j ∈ (Tbl.insert t k v).map (·.1) ↔ j = k ∨ j ∈ t.map (·.1) := by
  induction t with
  | nil => simp [Tbl.insert]
  | cons e t ih =>
    rw [Tbl.insert]
    split
    · simp
    · rw [List.map_cons, List.mem_cons, ih, List.map_cons, List.mem_cons]
      tauto

theorem mem_erase {α : Type} (t : Tbl α) (k j : Nat) (hj : j ≠ k) :
    j ∈ (Tbl.erase t k).map (·.1) ↔ j ∈ t.map (·.1) := by
  induction t with
  | nil => rfl
  | cons e t ih =>
    rw [Tbl.erase]
    split
    · rename_i h
      rw [ih, List.map_cons, List.mem_cons, h]
      simp [hj]
    · rw [List.map_cons, List.mem_cons, ih, List.map_cons, List.mem_cons]

theorem mem_sortKeys_from (ks : List Nat) (t : Tbl Unit) (k : Nat) :
    k ∈ (ks.foldl (fun (t : Tbl Unit) k => Tbl.insert (Tbl.erase t k) k ()) t).map (·.1) ↔ k ∈ ks ∨ k ∈ t.map (·.1) := by
  induction ks generalizing t with
  | nil => simp
  | cons j ks ih =>
    rw [List.foldl_cons, ih, mem_insert, List.mem_cons]
    by_cases h : k = j
    · simp [h]
    · rw [mem_erase _ _ _ h]; tauto

theorem mem_sortKeys (ks : List Nat) (k : Nat) : k ∈ sortKeys ks ↔ k ∈ ks := by
  rw [sortKeys, mem_sortKeys_from]; simp

theorem get_unlisted {α : Type} (d : Nat → α) (t : Tbl α) (k : Nat) (h : k ∉ t.map (·.1)) : Tbl.get d t k = d k := by
  induction t with
  | nil => rfl
  | cons e t ih =>
    rw [List.map_cons, List.mem_cons, not_or] at h
    rw [Tbl.get, if_neg (Ne.symm h.1), ih h.2]

/-- The words that a group copies: those of the group whose shadow differs from live. -/
theorem mem_groupWords (m : Mach) (c : Chip) (g k : Nat) :
    k ∈ m.groupWords c g ↔ (info m.epParams c k).group = g ∧ m.shadow c k ≠ m.liveCopy c k := by
  simp only [groupWords, mem_sortKeys, List.mem_filter, List.mem_append, Bool.and_eq_true, beq_iff_eq, bne_iff_ne, ne_eq,
    and_iff_right_iff_imp]
  intro h
  by_contra hk
  rw [not_or] at hk
  exact h.2 (by rw [shadow, liveCopy, get_unlisted _ _ _ hk.1, get_unlisted _ _ _ hk.2])

/-- What `n` keeps of a chip's registers from `m` when only live copies change. -/
def liveOnly (m n : Mach) (c : Chip) : Prop := n.rf c = { m.rf c with live := (n.rf c).live } ∧ n.epParams = m.epParams ∧ n.ep = m.ep

theorem liveOnly_setLive (m : Mach) (c : Chip) (k : Nat) (v : Word) : m.liveOnly (m.setLive c k v) c :=
  ⟨by rw [setLive, rf_setRf], setRf_epParams .., setRf_ep ..⟩

theorem liveOnly.trans {m n o : Mach} {c : Chip} (h : m.liveOnly n c) (g : n.liveOnly o c) : m.liveOnly o c :=
  ⟨by rw [g.1, h.1], g.2.1.trans h.2.1, g.2.2.trans h.2.2⟩

theorem liveOnly.shadow {m n : Mach} {c : Chip} (h : m.liveOnly n c) (k : Nat) : n.shadow c k = m.shadow c k := by
  rw [Mach.shadow, Mach.shadow, h.1, h.2.1]

theorem liveOnly.word {m n : Mach} {c : Chip} (h : m.liveOnly n c) (k : Nat) : n.word c k = m.word c k := by
  rw [Mach.word, Mach.word, h.1, h.2.1]

theorem liveCopy_setLive (m : Mach) (c : Chip) (k : Nat) (v : Word) (j : Nat) :
    (m.setLive c k v).liveCopy c j = if j = k then v else m.liveCopy c j := by
  rw [liveCopy, setLive, setRf_epParams, rf_setRf, Tbl.get_set]; rfl

theorem liveOnly_copyWords (m : Mach) (c : Chip) (ks : List Nat) : m.liveOnly (m.copyWords c ks) c := by
  induction ks generalizing m with
  | nil => exact ⟨rfl, rfl, rfl⟩
  | cons k ks ih => exact (liveOnly_setLive ..).trans (ih _)

theorem liveCopy_copyWords (m : Mach) (c : Chip) (ks : List Nat) (j : Nat) :
    (m.copyWords c ks).liveCopy c j = if j ∈ ks then m.shadow c j else m.liveCopy c j := by
  induction ks generalizing m with
  | nil => rfl
  | cons k ks ih =>
    refine (ih _).trans ?_
    rw [(liveOnly_setLive ..).shadow, liveCopy_setLive]
    by_cases hj : j = k
    · simp [hj]
    · simp [hj]

/-- A copied group: its words are live as the shadow holds them, the others as before. -/
theorem liveCopy_copyGroup (m : Mach) (c : Chip) (g k : Nat) :
    (m.copyWords c (m.groupWords c g)).liveCopy c k
      = if (info m.epParams c k).group = g then m.shadow c k else m.liveCopy c k := by
  simp only [liveCopy_copyWords, mem_groupWords]
  by_cases hg : (info m.epParams c k).group = g
  · by_cases hd : m.shadow c k = m.liveCopy c k
    · simp [hd]
    · simp [hg, hd]
  · simp [hg]

/-! ### The commit (R544) -/

/-- Where a chip keeps COMMIT_GEN. -/
def genItem (c : Chip) : Nat := item (byChip c Pg.chip Pg.eId) 0 (byChip c R.chpCommitGen R.ep4CommitGen)

theorem genItem_rws (par : EpParams) (c : Chip) : (info par c (genItem c)).rws = 0 := by cases c <;> rfl

/-- COMMIT_GEN has no live copy of its own. -/
theorem liveOnly.commitGen {m n : Mach} {c : Chip} (h : m.liveOnly n c) : n.commitGen c = m.commitGen c := by
  have hups : (n.rf c).upsets = (m.rf c).upsets := by rw [h.1]
  have hzero (x : Word) : x &&& 0 = 0 := BitVec.and_zero
  have hlive : n.live c (genItem c) = m.live c (genItem c) := by
    simp only [live, voted, h.word, h.2.1, genItem_rws, hzero, hups]
  exact congrArg BitVec.toNat hlive

/-- What a commit reads of a register file beside the one copy of non-RWS words. -/
def copies (r : RegFile) : Tbl Word × Tbl Word × Option PendingCommit × List (Nat × Word) := (r.shadow, r.live, r.commit, r.held)

/-- From `m` to `n`, nothing of a chip that a commit reads changes, but the one copy of non-RWS words. -/
def copiesKept (m n : Mach) (c : Chip) : Prop :=
  copies (n.rf c) = copies (m.rf c) ∧ n.epParams = m.epParams ∧ n.ep = m.ep

theorem copiesKept.trans {m n o : Mach} {c : Chip} (h : m.copiesKept n c) (g : n.copiesKept o c) : m.copiesKept o c :=
  ⟨g.1.trans h.1, g.2.1.trans h.2.1, g.2.2.trans h.2.2⟩

theorem copiesKept_setRf (m : Mach) (c : Chip) (r : RegFile) (h : copies r = copies (m.rf c)) :
    m.copiesKept (m.setRf c r) c := ⟨by rw [rf_setRf, h], setRf_epParams .., setRf_ep ..⟩

theorem copiesKept.shadow {m n : Mach} {c : Chip} (h : m.copiesKept n c) (k : Nat) : n.shadow c k = m.shadow c k := by
  obtain ⟨hs, -⟩ := Prod.mk.inj h.1
  rw [Mach.shadow, Mach.shadow, hs, h.2.1]

theorem copiesKept.liveCopy {m n : Mach} {c : Chip} (h : m.copiesKept n c) (k : Nat) : n.liveCopy c k = m.liveCopy c k := by
  obtain ⟨-, hl⟩ := Prod.mk.inj h.1
  obtain ⟨hl, -⟩ := Prod.mk.inj hl
  rw [Mach.liveCopy, Mach.liveCopy, hl, h.2.1]

theorem copiesKept.commit {m n : Mach} {c : Chip} (h : m.copiesKept n c) : (n.rf c).commit = (m.rf c).commit :=
  congrArg (fun x : Tbl Word × Tbl Word × Option PendingCommit × List (Nat × Word) => x.2.2.1) h.1

theorem copiesKept.held {m n : Mach} {c : Chip} (h : m.copiesKept n c) : (n.rf c).held = (m.rf c).held :=
  congrArg (fun x : Tbl Word × Tbl Word × Option PendingCommit × List (Nat × Word) => x.2.2.2) h.1

/-- Nothing that a commit reads changes, and COMMIT_GEN keeps its word. -/
def genKept (m n : Mach) (c : Chip) : Prop := m.copiesKept n c ∧ n.word c (genItem c) = m.word c (genItem c)

theorem genKept.trans {m n o : Mach} {c : Chip} (h : m.genKept n c) (g : n.genKept o c) : m.genKept o c :=
  ⟨h.1.trans g.1, g.2.trans h.2⟩

theorem genKept_refl (m : Mach) (c : Chip) : m.genKept m c := ⟨⟨rfl, rfl, rfl⟩, rfl⟩

theorem genKept_setRf (m : Mach) (c : Chip) (r : RegFile) (h : copies r = copies (m.rf c)) (hw : r.word = (m.rf c).word) :
    m.genKept (m.setRf c r) c :=
  ⟨copiesKept_setRf m c r h, by rw [word, word, setRf_epParams, rf_setRf, hw]⟩

theorem genKept_traceCommit (m : Mach) (c : Chip) (p : Nat) : m.genKept (m.traceCommit c p) c := by
  unfold traceCommit
  split
  · rename_i h
    subst h
    have hk := regsKept_trace m p 7 0 (m.commitGen .sx % 65536) Pg.trace
    refine ⟨⟨(congrArg copies hk.1).trans rfl, ?_, ep_of_bare (trace_bare ..)⟩, word_of_kept hk _ (by decide)⟩
    rw [← bare_epParams, trace_bare, bare_epParams]
  · exact genKept_refl ..

theorem genKept_freezeRetired (m : Mach) : m.genKept m.freezeRetired .sx := by
  unfold freezeRetired
  refine foldl_inv (fun n : Mach => m.genKept n .sx) _ (fun n p hn => hn.trans ?_) _ (genKept_refl ..)
  unfold freezePage
  split
  · exact genKept_refl ..
  · exact genKept_setRf _ _ _ rfl rfl

/-- The record of a commit: the count, and what lookups still see, leave the copies alone. -/
theorem commitCount_kept (m : Mach) (c : Chip) (e : Option Nat) : m.copiesKept (m.commitCount c e) c
    ∧ (m.commitCount c e).word c (genItem c) = BitVec.ofNat 32 ((m.commitGen c + 1) % 2 ^ 32) := by
  have hreg (n : Mach) (p o v : Nat) : n.copiesKept (n.setReg c p o v) c := copiesKept_setRf _ _ _ rfl
  have hgen (n : Mach) (v : Nat) :
      (n.setReg c (byChip c Pg.chip Pg.eId) (byChip c R.chpCommitGen R.ep4CommitGen) v).word c (genItem c) = BitVec.ofNat 32 v := by
    rw [setReg, word_setWord, genItem, if_pos rfl]
  have hepoch : genItem c ≠ item (byChip c Pg.chip Pg.eId) 0 (byChip c R.chpEpoch R.ep4Epoch) := by cases c <;> decide
  cases e with
  | none => exact ⟨hreg .., hgen ..⟩
  | some e =>
    unfold commitCount
    refine ⟨((hreg ..).trans (hreg ..)).trans (copiesKept_setRf _ _ _ rfl), ?_⟩
    rw [← hgen m, word, setRf_epParams, rf_setRf]
    exact (word_setWord ..).trans (if_neg hepoch)

/-- Everything of a commit but the copy of its groups. -/
def commitClosed (m old : Mach) (c : Chip) (e : Option Nat) : Mach :=
  let m := (m.commitCount c e).keepSwapped old c
  let m := m.landHeld c
  let m := if c = .sx then m.freezeRetired else m
  (m.traceCommit c (byChip c Pg.chip Pg.eId)).digestStart c

theorem commitHem_due {m : Mach} {c : Chip} {q : PendingCommit} (hg : m.guardState c ≠ 2) (hq : (m.rf c).commit = some q)
    (hdue : m.dueNow c q.named q.at_ = true) :
    m.commitHem c = ((m.setRf c { m.rf c with commit := none }).commitGroups c q.mask).commitClosed m c q.epoch := by
  have hguard : m.guardCommit c = m := if_pos (Or.inl hg)
  simp only [commitHem, hguard, hq, hdue, if_true]
  rfl

theorem landHeld_none {m : Mach} {c : Chip} (h : (m.rf c).held = []) : m.genKept (m.landHeld c) c := by
  rw [landHeld, h]
  exact genKept_setRf _ _ _ (by rw [copies, copies, h]) rfl

theorem commitClosed_spec (m old : Mach) (c : Chip) (e : Option Nat) (hheld : (m.rf c).held = []) :
    m.copiesKept (m.commitClosed old c e) c
      ∧ (m.commitClosed old c e).word c (genItem c) = BitVec.ofNat 32 ((m.commitGen c + 1) % 2 ^ 32) := by
  obtain ⟨hcount, hword⟩ := m.commitCount_kept c e
  have hswap : (m.commitCount c e).genKept ((m.commitCount c e).keepSwapped old c) c :=
    genKept_setRf _ _ _ rfl rfl
  have hland := landHeld_none ((hswap.1.held.trans hcount.held).trans hheld)
  have hfreeze (n : Mach) : n.genKept (if c = .sx then n.freezeRetired else n) c := by
    split
    · rename_i h
      subst h
      exact genKept_freezeRetired n
    · exact genKept_refl ..
  have hrest : (m.commitCount c e).genKept (m.commitClosed old c e) c :=
    (((hswap.trans hland).trans (hfreeze _)).trans (genKept_traceCommit ..)).trans (genKept_setRf _ _ _ rfl rfl)
  exact ⟨hcount.trans hrest.1, hrest.2.trans hword⟩

theorem maskGroups (g : Nat) (hg : g < 32) : ((List.range 32).filter fun i => bitsOf (2 ^ g) i 1 == 1) = [g] := by
  interval_cases g <;> decide

/-- A group that no rule validates is copied as it is. -/
theorem commitGroups_copy (m : Mach) (c : Chip) (g : Nat)
    (hg : g ∈ (if c = .sx then [2, 3, 7, 10, 13] else [1, 2, 4])) :
    m.commitGroups c (2 ^ g) = m.copyWords c (m.groupWords c g) := by
  have hlt : g < 32 := by
    cases c <;> simp at hg <;> omega
  rw [commitGroups, maskGroups g hlt]
  cases c
  · simp only [if_true, List.mem_cons, List.not_mem_nil, or_false] at hg
    obtain rfl | rfl | rfl | rfl | rfl := hg <;> rfl
  · simp only [reduceCtorEq, if_false, List.mem_cons, List.not_mem_nil, or_false] at hg
    obtain rfl | rfl | rfl := hg <;> rfl

/-- The commit of one group that no rule validates. -/
theorem commitHem_copy {m : Mach} {c : Chip} {g : Nat} {q : PendingCommit}
    (hg : g ∈ (if c = .sx then [2, 3, 7, 10, 13] else [1, 2, 4])) (hguard : m.guardState c ≠ 2) (hheld : (m.rf c).held = [])
    (hq : (m.rf c).commit = some q) (hmask : q.mask = 2 ^ g) (hdue : m.dueNow c q.named q.at_ = true) :
    ((m.commitHem c).rf c).commit = none ∧ (m.commitHem c).ep = m.ep ∧ (∀ k, (m.commitHem c).shadow c k = m.shadow c k) ∧
      (∀ k, (m.commitHem c).liveCopy c k = if (info m.epParams c k).group = g then m.shadow c k else m.liveCopy c k) ∧
      ((m.commitHem c).word c (genItem c)).toNat = (m.commitGen c + 1) % 2 ^ 32 := by
  obtain ⟨n, hn⟩ : ∃ n, n = m.setRf c { m.rf c with commit := none } := ⟨_, rfl⟩
  have hrf : n.rf c = { m.rf c with commit := none } := by rw [hn, rf_setRf]
  have hp : n.epParams = m.epParams := by rw [hn, setRf_epParams]
  have hshadow (k : Nat) : n.shadow c k = m.shadow c k := by rw [shadow, shadow, hrf, hp]
  have hlive (k : Nat) : n.liveCopy c k = m.liveCopy c k := by rw [liveCopy, liveCopy, hrf, hp]
  have hgen : n.commitGen c = m.commitGen c := by
    refine congrArg BitVec.toNat (?_ : n.live c (genItem c) = m.live c (genItem c))
    simp only [live, hlive, word, hrf, hp, voted]
  have hcopy := liveOnly_copyWords n c (n.groupWords c g)
  have hcom : ((n.copyWords c (n.groupWords c g)).rf c).commit = none := by rw [hcopy.1, hrf]
  obtain ⟨hclosed, hword⟩ := commitClosed_spec (n.copyWords c (n.groupWords c g)) m c q.epoch (by rw [hcopy.1, hrf, ← hheld])
  rw [commitHem_due hguard hq hdue, ← hn, hmask, commitGroups_copy n c g hg]
  refine ⟨hclosed.commit.trans hcom, ?_, fun k => ?_, fun k => ?_, ?_⟩
  · rw [hclosed.2.2, hcopy.2.2, hn, setRf_ep]
  · rw [hclosed.shadow, hcopy.shadow, hshadow]
  · rw [hclosed.liveCopy, liveCopy_copyGroup, hp, hshadow, hlive]
  · rw [hword, hcopy.commitGen, hgen, BitVec.toNat_ofNat, Nat.mod_mod]

end Mach

/-- Settles O9: the vote is the last step of a cut-off, and around the copy of the group a commit touches no shadow or live
copy. -/
theorem hemsVoteAndCommit : Obligations.HemsVoteAndCommit := by
  refine ⟨⟨fun s hoff => ?_, fun s hoff => ?_, fun s hidle => ?_⟩, fun c s g hg hidle hguard hheld q hq hmask hdue => ?_⟩
  · obtain ⟨n, hn⟩ := Mach.sxCutOff_votes hoff
    have hups : s.m.sxCutOff.regs.upsets = [] := by
      rw [hn]
      exact Mach.upsets_scrubTmr n .sx
    exact ⟨{ s with m := s.m.sxCutOff }, rfl, hups, rfl, rfl⟩
  · have hrest : s.m.sxCutOff = s.m := if_pos hoff
    change State.go s Mach.sxCutOff = _
    rw [State.go, hrest]
  · exact ⟨_, epGoM_idle s (fun m => m.scrubTmr .ep) (Mach.epIdle_congr (Mach.ep_scrubTmr ..) hidle), Mach.upsets_scrubTmr _ .ep, rfl, rfl⟩
  · obtain ⟨hcom, hep, hshadow, hlive, hgen⟩ := Mach.commitHem_copy hg hguard hheld hq hmask hdue
    have hrun : exec (.commitApply c) s = .next { s with m := s.m.commitHem c } := by
      cases c
      · rfl
      · exact epGoM_idle s (fun m => m.commitHem .ep) (Mach.epIdle_congr hep (hidle rfl))
    exact ⟨_, hrun, hcom, ⟨rfl, rfl⟩, hshadow, hlive, hgen⟩

end Sys2Proof.Machine
end

section
/-! O18 fails: at shed level 3 the fraction of R216 is at most 1/2, and a port owes the credits of VC0 that it does not
return at once. -/

set_option Elab.async false

namespace Sys2Proof.Machine
open Sys2Proof

/-- A well-formed read of no partner's. -/
def strangeRead : Packet :=
  HdrSpec.packet { opcode := Op.read, vc := 0, dst := 0, src := 1, aux := 32 } []

/-- Shed level 3, and port 0 up. -/
def sheddingLink : State :=
  { m := (Mach.reset.setFld .sx Pg.power F.pwrShedStatus_level 3).setLk .sx 0 { st := .up }
    store := {}, pending := [] }

/-- Refutes O18: the credits of a discarded VC0 packet are owed, not returned, at shed level 3. -/
theorem not_packetsAreCheckedAndPlaced : ¬ Obligations.PacketsAreCheckedAndPlaced := by
  unfold Obligations.PacketsAreCheckedAndPlaced
  intro h
  have hlevel : sheddingLink.m.shedLevel = 3 := by rfl
  obtain ⟨hwrong, -⟩ := h sheddingLink 0 strangeRead (by decide) rfl (by decide) (by decide)
  obtain ⟨t, ht, -, -, hbare, -⟩ := hwrong (by decide) rfl (by rw [hlevel]; decide)
  have howed : ∀ t, exec (.ordinaryPacket 0 strangeRead) sheddingLink = .next t → t.m.owed = [(0, 2)] := by
    intro t ht
    injection ht with ht
    rw [← ht]
    rfl
  have hnone : t.m.owed = [] := congrArg Mach.owed hbare
  rw [howed t ht] at hnone
  exact absurd hnone (by decide)

end Sys2Proof.Machine
end

section
/-! O19: the account's decision on a packet (R201, R203). -/

set_option Elab.async false

namespace Sys2Proof.Machine
open Sys2Proof

namespace Mach

/-! ### A held packet that changes -/

section
variable {m : Mach} {h : Held} {pre post : List Held}

/-- Changing the packet of a number that no other has changes just that packet. -/
theorem updHeld_at (hheld : m.held = pre ++ h :: post) (hid : ∀ e ∈ pre ++ post, e.id ≠ h.id) (f : Held → Held) :
    m.updHeld h.id f = { m with held := pre ++ f h :: post } := by
  have hsame (l : List Held) (hl : ∀ e ∈ l, e.id ≠ h.id) : (l.map fun e => if e.id = h.id then f e else e) = l := by
    conv_rhs => rw [← List.map_id l]
    exact List.map_congr_left fun e he => if_neg (hl e he)
  rw [updHeld, hheld, List.map_append, List.map_cons, if_pos rfl,
    hsame pre fun e he => hid e (List.mem_append_left _ he), hsame post fun e he => hid e (List.mem_append_right _ he)]

/-- The first packet of a list that a test picks. -/
theorem find_split {p : Held → Bool} (hpre : ∀ e ∈ pre, p e = false) (hp : p h = true) :
    (pre ++ h :: post).find? p = some h := by
  rw [List.find?_append, List.find?_eq_none.2 fun e he => by simp [hpre e he], Option.none_or, List.find?_cons, hp]

end

theorem samplePatch_none {m : Mach} (h : m.smpWait = []) (pid : Nat) (f : List Byte → List Byte) : m.samplePatch pid f = m := by
  rw [samplePatch, h, List.map_nil, ← h]

theorem shadowCopy_none {m : Mach} (h : m.gusset = []) (w : Nat) (x : Packet) : m.shadowCopy w x = m := by
  unfold shadowCopy
  split
  · rfl
  · refine foldl_inv (fun n => n = m) _ (fun n i hn => ?_) _ rfl
    rw [hn, pairOf, h]
    exact if_neg fun hc => absurd hc.1 nofun

/-! ### The admission of a packet to a port's account (R201) -/

/-- A packet for a port enters its part; nothing else changes. -/
theorem admitAt_port {m : Mach} {h : Held} {pre post : List Held} (hheld : m.held = pre ++ h :: post)
    (hid : ∀ e ∈ pre ++ post, e.id ≠ h.id) (hout : h.output < 144) (hsmp : m.smpWait = []) (hgusset : m.gusset = [])
    (p : Part) (hp : p ≠ .lining) : m.admitAt h p = { m with held := pre ++ { h with part := p } :: post } := by
  have hpleat : isPleatOut h.output = false := by simp [isPleatOut]; omega
  have hcopy (n : Mach) (hn : n.gusset = []) :
      (if h.output < 144 ∧ h.input ≠ 173 then n.shadowCopy h.output h.pkt else n) = n := by
    rw [shadowCopy_none hn, ite_self]
  have hupd := updHeld_at hheld hid fun h => { h with part := p }
  unfold admitAt
  simp only [sampleAdmitted, samplePatch_none hsmp, hupd, if_neg hp, hpleat, Bool.false_eq_true, if_false]
  exact hcopy _ hgusset

section
variable {m : Mach} {h : Held} (hout : h.output < 144)
include hout

theorem decideHeld_port : m.decideHeld h = m.decideAdmit h.output h.vc h.gran := by
  have hpleat : isPleatOut h.output = false := by simp [isPleatOut]; omega
  simp [decideHeld, hpleat]

variable (hlining : m.liningAllowed h.output h.vc = false)
include hlining

theorem decideHeld_unlined :
    m.decideHeld h = match m.sramRoom h.acct h.gran with | some p => .part p | none => .wait := by
  rw [decideHeld_port hout, decideAdmit, hlining]
  rfl

theorem decideHeld_guaranteed (hroom : m.heldIn h.acct .guaranteed + h.gran ≤ m.minOf h.acct.1 (acctVc h.acct.2)) :
    m.decideHeld h = .part .guaranteed := by
  rw [decideHeld_unlined hout hlining, sramRoom, if_pos hroom]

theorem decideHeld_shared (hmin : m.minOf h.acct.1 (acctVc h.acct.2) < m.heldIn h.acct .guaranteed + h.gran)
    (hroom : (m.sharedOf h.acct + h.gran) * 8 ≤ 2 ^ m.alphaOf h.acct.1 (acctVc h.acct.2) * m.freeShared h.acct.1) :
    m.decideHeld h = .part .shared := by
  rw [decideHeld_unlined hout hlining, sramRoom, if_neg (Nat.not_le.2 hmin), if_pos hroom]

theorem decideHeld_wait (hmin : m.minOf h.acct.1 (acctVc h.acct.2) < m.heldIn h.acct .guaranteed + h.gran)
    (hroom : 2 ^ m.alphaOf h.acct.1 (acctVc h.acct.2) * m.freeShared h.acct.1 < (m.sharedOf h.acct + h.gran) * 8) :
    m.decideHeld h = .wait := by
  rw [decideHeld_unlined hout hlining, sramRoom, if_neg (Nat.not_le.2 hmin), if_neg (Nat.not_le.2 hroom)]

end

/-! ### The first undecided packet of a queue -/

section
variable {m : Mach} {h : Held} {pre post : List Held} (hheld : m.held = pre ++ h :: post) (hpart : h.part = .none)
  (hfirst : ∀ e ∈ pre, ¬(e.input = h.input ∧ e.output = h.output ∧ e.vc = h.vc ∧ (e.part = .none ∨ e.part = .waiting)))
  (hdead : m.deadPort h.output = false)
  (hcut : m.cutOff h = false) (hretired : m.out1 = []) (hhold : (m.holdOf h.output).st = 0)
include hheld hpart

/-- Whether a packet of an account waits. -/
theorem waits_iff (a : Nat × Nat) :
    (m.held.any fun e => e.part == .waiting && e.acct == a) = true ↔ ∃ e ∈ pre ++ post, e.part = .waiting ∧ e.acct = a := by
  rw [hheld]
  simp only [List.any_append, List.any_cons, hpart, Bool.or_eq_true, List.any_eq_true, Bool.and_eq_true, beq_iff_eq,
    List.mem_append]
  constructor
  · rintro (⟨e, he, hw⟩ | ⟨hw, -⟩ | ⟨e, he, hw⟩)
    · exact ⟨e, .inl he, hw⟩
    · cases hw
    · exact ⟨e, .inr he, hw⟩
  · rintro ⟨e, he | he, hw⟩
    · exact .inl ⟨e, he, hw⟩
    · exact .inr (.inr ⟨e, he, hw⟩)

include hfirst hdead hcut hretired hhold

/-- The account decides for a live port's packet: behind a waiting packet it waits, else it enters the part that takes it. -/
theorem admission_live :
    ((m.held.any fun e => e.part == .waiting && e.acct == h.acct) = true ∨ m.decideHeld h = .wait →
      m.admission h.input h.output h.vc = m.waitIn h) ∧
    (∀ p, ¬(m.held.any fun e => e.part == .waiting && e.acct == h.acct) = true → m.decideHeld h = .part p →
      m.admission h.input h.output h.vc = m.admitAt h p) := by
  have hfind : (m.held.find? fun e =>
      e.input == h.input && e.output == h.output && e.vc == h.vc && (e.part == .none || e.part == .waiting)) = some h := by
    rw [hheld]
    refine find_split (fun e he => ?_) (by simp [hpart])
    have hno := hfirst e he
    simp only [Bool.eq_false_iff, ne_eq, Bool.and_eq_true, Bool.or_eq_true, beq_iff_eq]
    tauto
  have hholds : m.holdRefuses h = false := by simp [holdRefuses, hhold]
  have hw : ¬h.part = .waiting := by rw [hpart]; nofun
  have hd : ¬(h.output < 144 ∧ (m.deadPort h.output = true ∨ m.cutOff h = true)) := by simp [hdead, hcut]
  have hr : ¬(m.out1.contains h.outT = true ∨ m.cutOff h = true) := by simp [hretired, hcut]
  unfold admission
  rw [hfind]
  simp only [if_neg hw, if_neg hd, if_neg hr]
  refine ⟨fun hwait => ?_, fun p hno hp => ?_⟩
  · split
    · rfl
    · rename_i hno
      simp [hwait.resolve_left hno, hholds]
  · rw [if_neg hno, hp]

end

/-- A packet that joins its account's wait list is last there. -/
theorem waitIn_port {m : Mach} {h : Held} {pre post : List Held} (hheld : m.held = pre ++ h :: post)
    (hid : ∀ e ∈ pre ++ post, e.id ≠ h.id) (hout : h.output < 144) :
    m.waitIn h = ({ m with
        held := pre ++ { h with part := .waiting, stamp := m.nextStamp } :: post, nextStamp := m.nextStamp + 1 } : Mach).bump
      .sx (Pg.cluster h.acct.1) R.cluAdmitWaitCnt := by
  have hpleat : isPleatOut h.output = false := by simp [isPleatOut]; omega
  have hupd := updHeld_at hheld hid fun e => { e with part := .waiting, stamp := m.nextStamp }
  unfold waitIn
  simp only [hupd, hpleat, Bool.false_eq_true, if_false]

/-! ### The waiting requests of a cluster (R203) -/

/-- A request that waits alone is the head of its cluster. -/
theorem waitHeads_alone {m : Mach} {h : Held} {pre post : List Held} (hheld : m.held = pre ++ h :: post)
    (hpart : h.part = .waiting) (halone : ∀ e ∈ pre ++ post, e.part ≠ .waiting) : m.waitHeads h.acct.1 = [h] := by
  have hnone (l : List Held) (hl : ∀ e ∈ l, e.part ≠ .waiting) :
      (l.filter fun e => e.part == .waiting && e.acct.1 == h.acct.1) = [] :=
    List.filter_eq_nil_iff.2 fun e he => by simp [hl e he]
  have hws : (m.held.filter fun e => e.part == .waiting && e.acct.1 == h.acct.1) = [h] := by
    rw [hheld, List.filter_append, List.filter_cons, hnone pre fun e he => halone e (List.mem_append_left _ he),
      hnone post fun e he => halone e (List.mem_append_right _ he)]
    simp [hpart]
  rw [waitHeads, hws]
  simp

theorem waitHeads_none {m : Mach} (h : ∀ e ∈ m.held, e.part ≠ .waiting) (cl : Nat) : m.waitHeads cl = [] := by
  have hws : (m.held.filter fun e => e.part == .waiting && e.acct.1 == cl) = [] :=
    List.filter_eq_nil_iff.2 fun e he => by simp [h e he]
  simp [waitHeads, hws]

theorem admitWaiting_none {m : Mach} (h : ∀ e ∈ m.held, e.part ≠ .waiting) (cl n : Nat) : m.admitWaiting cl n = m := by
  cases n with
  | zero => rfl
  | succ n => rw [admitWaiting, waitHeads_none h]; rfl

end Mach

/-- Settles O19: the decision is that of `sramRoom`, and neither samples nor shadow copies follow the admission. -/
theorem packetsAreAdmittedByTheirAccounts : Obligations.PacketsAreAdmittedByTheirAccounts := by
  refine ⟨fun s h pre post hheld hpart hfirst hid hout hin hvc hdead hcut hretired hhold hlining hsmp hgusset => ?_, ?_⟩
  · have hrun : exec (.admissionDecision h.input h.output h.vc) s
        = .next { s with m := s.m.admission h.input h.output h.vc } :=
      Mach.unit_go (decide_eq_true ⟨by omega, by omega, by omega⟩) _
    obtain ⟨hwaitIn, hpart'⟩ := Mach.admission_live hheld hpart hfirst hdead hcut hretired hhold
    have hwaits := Mach.waits_iff hheld hpart h.acct
    have hbehind (hno : ∀ e ∈ pre ++ post, e.part = .waiting → e.acct ≠ h.acct) :
        ¬(s.m.held.any fun e => e.part == .waiting && e.acct == h.acct) = true :=
      fun hw => by
        obtain ⟨e, he, hew, hacct⟩ := hwaits.1 hw
        exact hno e he hew hacct
    have hadmit (p : Part) (hp : p ≠ .lining) (hno : ∀ e ∈ pre ++ post, e.part = .waiting → e.acct ≠ h.acct)
        (hd : s.m.decideHeld h = .part p) : ∃ t, exec (.admissionDecision h.input h.output h.vc) s = .next t ∧
          s.becomes t { s.m with held := pre ++ { h with part := p } :: post } .sx noWord := by
      rw [hrun, hpart' p (hbehind hno) hd, Mach.admitAt_port hheld hid hout hsmp hgusset p hp]
      exact ⟨_, rfl, rfl, ⟨rfl, fun _ _ => rfl⟩, rfl, rfl, rfl⟩
    refine ⟨fun hno hroom => hadmit _ nofun hno (Mach.decideHeld_guaranteed hout hlining hroom),
      fun hno hmin hroom => hadmit _ nofun hno (Mach.decideHeld_shared hout hlining hmin hroom), fun hwait => ?_⟩
    have hor : (s.m.held.any fun e => e.part == .waiting && e.acct == h.acct) = true ∨ s.m.decideHeld h = .wait :=
      hwait.imp hwaits.2 fun hroom => Mach.decideHeld_wait hout hlining hroom.1 hroom.2
    rw [hrun, hwaitIn hor, Mach.waitIn_port hheld hid hout]
    refine ⟨_, rfl, ?_, ?_⟩
    · exact Mach.word_bump ..
    · exact becomes_of (Mach.bump_bare ..) (Mach.regsKept_bump _ _ _ _ _ (by simp)) (Mach.other_bump ..)
  · intro s h pre post hheld hpart halone hid hout hvc hcl hlining hsmp hgusset hroom
    have hrun : exec (.admitWaiting h.acct.1) s
        = .next { s with m := s.m.admitWaiting h.acct.1 s.m.held.length } := Mach.unit_go (decide_eq_true hcl) _
    have hadmit := Mach.admitAt_port hheld hid hout hsmp hgusset .guaranteed nofun
    have hrest : ∀ e ∈ pre ++ { h with part := .guaranteed } :: post, e.part ≠ .waiting := by
      intro e he
      rw [List.mem_append, List.mem_cons] at he
      obtain he | rfl | he := he
      · exact halone e (List.mem_append_left _ he)
      · nofun
      · exact halone e (List.mem_append_right _ he)
    obtain ⟨n, hn⟩ : ∃ n, s.m.held.length = n + 1 := ⟨(pre ++ post).length, by rw [hheld]; simp; omega⟩
    have hdo : s.m.admitWaiting h.acct.1 (n + 1)
        = { s.m with held := pre ++ { h with part := .guaranteed } :: post } := by
      have hfirst : s.m.admitFirst [h] = some (s.m.admitAt h .guaranteed) := by
        rw [Mach.admitFirst, Mach.decideHeld_guaranteed hout hlining hroom]
      rw [Mach.admitWaiting, Mach.waitHeads_alone hheld hpart halone, hfirst, hadmit]
      exact Mach.admitWaiting_none hrest _ n
    rw [hrun, hn, hdo]
    exact ⟨_, rfl, rfl, ⟨rfl, fun _ _ => rfl⟩, rfl, rfl, rfl⟩

end Sys2Proof.Machine
end

section
/-! Partition faults (R598 to R600): what they leave alone. -/

set_option Elab.async false

namespace Sys2Proof.Machine
open Sys2Proof

namespace Mach

/-! ### Events that stay -/

/-- No event of the SX-4 that stands in `m` is gone in `n`. -/
def eventsKept (m n : Mach) : Prop := ∀ q i, i < 32 → m.event .sx q i = true → n.event .sx q i = true

theorem eventsKept.trans {m n o : Mach} (h : m.eventsKept n) (g : n.eventsKept o) : m.eventsKept o :=
  fun q i hi hm => g q i hi (h q i hi hm)

theorem eventsKept_of_word {m n : Mach} (h : ∀ q, n.word .sx (item q 0 R.intStatus) = m.word .sx (item q 0 R.intStatus)) :
    m.eventsKept n := fun q i _ hm => by rw [event, h q]; exact hm

theorem eventsKept_raise (m : Mach) (p b d : Nat) : m.eventsKept (m.raise .sx p b d) :=
  fun _ _ hi hm => event_raise _ _ _ _ _ _ _ hi (.inl hm)

theorem eventsKept_setReg (m : Mach) (p o v : Nat) (ho : o < 2 ^ 44) (h : o ≠ R.intStatus) : m.eventsKept (m.setReg .sx p o v) :=
  eventsKept_of_word fun q => by
    rw [word_setReg, if_neg fun he => h ((item_inj (by decide) ho (by decide) (by decide)).1 he).2.2.symm]

theorem eventsKept_setWord (m : Mach) (p u o : Nat) (v : Word) (ho : o < 2 ^ 44) (hu : u < 16) (h : u ≠ 0 ∨ o ≠ R.intStatus) :
    m.eventsKept (m.setWord .sx (item p u o) v) :=
  eventsKept_of_word fun q => by
    rw [word_setWord, if_neg fun he => ?_]
    obtain ⟨-, hsel, hoff⟩ := (item_inj (by decide) ho (by decide) hu).1 he
    exact h.elim (fun hu => hu hsel.symm) (fun ho => ho hoff.symm)

theorem eventsKept_bump (m : Mach) (p o : Nat) (ho : o < 2 ^ 44) (h : o ≠ R.intStatus) : m.eventsKept (m.bump .sx p o) :=
  eventsKept_setWord m p 0 o _ ho (by decide) (.inr h)

theorem eventsKept_setFld (m : Mach) (p : Nat) (f : Fld) (v : Nat) (ho : f.off < 2 ^ 44) (h : f.off ≠ R.intStatus) :
    m.eventsKept (m.setFld .sx p f v) := eventsKept_setWord m p 0 f.off _ ho (by decide) (.inr h)

/-! ### Partition faults -/

/-- Words that a partition fault writes: its record and its counts on the chip page, and the trace. -/
def faultWord (k : Nat) : Bool := [item Pg.chip 0 R.chpPfaultCnt, item Pg.chip 0 R.chpPfaultLast,
  item Pg.chip 0 R.chpPfaultSuppCnt, item Pg.chip 0 R.chpPfaultTxCnt].contains k || eventWord Pg.chip k

/-- From `m` to `n`, partition faults and nothing else: their PFAULTs wait, their keys' waiters are gone. -/
structure faults (m n : Mach) : Prop where
  bare : n.bare = { m.bare with
    held := n.held, nextId := n.nextId, faultSent := n.faultSent, mem := { m.mem with waiters := n.mem.waiters } }
  regs : m.regsKept n .sx faultWord
  rf_ep : n.rf .ep = m.rf .ep
  held : ∀ h ∈ n.held, h ∈ m.held ∨ h.input = 171
  events : m.eventsKept n

theorem faults_refl (m : Mach) : m.faults m := ⟨rfl, .refl .., rfl, fun _ h => .inl h, fun _ _ _ h => h⟩

theorem faults.mem {m n : Mach} (h : m.faults n) : n.mem = { m.mem with waiters := n.mem.waiters } := by
  have hmem : n.bare.mem = _ := congrArg Mach.mem h.bare
  exact hmem

theorem faults.trans {m n o : Mach} (h : m.faults n) (g : n.faults o) : m.faults o where
  bare := by rw [g.bare, h.bare, h.mem]
  regs := h.regs.trans g.regs
  rf_ep := g.rf_ep.trans h.rf_ep
  held x hx := (g.held x hx).elim (h.held x) .inr
  events := h.events.trans g.events

/-- Registers alone. -/
theorem faults_of_touches {m n : Mach} (h : m.touches n .sx faultWord) (he : m.eventsKept n) : m.faults n where
  bare := by
    have hsame : m.bare = { m.bare with
        held := n.bare.held, nextId := n.bare.nextId, faultSent := n.bare.faultSent,
        mem := { m.bare.mem with waiters := n.bare.mem.waiters } } := by rw [h.1]
    exact h.1.trans hsame
  regs := h.2.1
  rf_ep := h.2.2
  held x hx := .inl (by
    have hheld : n.bare.held = m.bare.held := by rw [h.1]
    exact hheld ▸ hx)
  events := he

theorem faults_bump (m : Mach) {o : Nat} (ho : o < 2 ^ 44) (h : o ≠ R.intStatus) (hf : faultWord (item Pg.chip 0 o) = true) :
    m.faults (m.bump .sx Pg.chip o) := faults_of_touches (touches_setWord _ _ _ _ hf) (eventsKept_bump _ _ _ ho h)

theorem faults_raise (m : Mach) (b d : Nat) : m.faults (m.raise .sx Pg.chip b d) :=
  faults_of_touches ((touches_raise ..).mono fun k hk => by simp [faultWord, hk]) (eventsKept_raise m Pg.chip b d)

/-- A PFAULT that waits. -/
theorem faults_push (m : Mach) (x : Packet) (p : Nat) : m.faults (m.pushExempt x 171 p) where
  bare := rfl
  regs := ⟨rfl, fun _ _ => rfl⟩
  rf_ep := rfl
  held h hh := by
    simp only [pushExempt, push, List.mem_append, List.mem_singleton] at hh
    exact hh.imp id fun he => by rw [he]
  events _ _ _ h := h

theorem faults_broadcast (m : Mach) (key reason : Nat) : m.faults (m.broadcast key reason) := by
  unfold broadcast
  refine foldl_inv (fun n => m.faults n) _ (fun n p hn => ?_) _ (faults_refl m)
  split
  · exact (hn.trans (faults_push ..)).trans (faults_bump _ (by decide) (by decide) (by decide))
  · exact hn

theorem faults_record (m : Mach) (key reason : Nat) (received : Bool) : m.faults (m.faultRecord key reason received) := by
  have hreg (n : Mach) (v : Nat) : n.faults (n.setReg .sx Pg.chip R.chpPfaultLast v) :=
    faults_of_touches (touches_setWord _ _ _ _ (by decide)) (eventsKept_setReg _ _ _ _ (by decide) (by decide))
  exact ((faults_bump _ (by decide) (by decide) (by decide)).trans (hreg ..)).trans (faults_raise ..)

theorem faults_dropWaiters (m : Mach) (key : Nat) : m.faults (m.dropWaiters key) :=
  ⟨rfl, ⟨rfl, fun _ _ => rfl⟩, rfl, fun _ h => .inl h, fun _ _ _ h => h⟩

theorem faults_markFault (m : Mach) (key reason : Nat) : m.faults (m.markFault key reason) :=
  ⟨rfl, ⟨rfl, fun _ _ => rfl⟩, rfl, fun _ h => .inl h, fun _ _ _ h => h⟩

theorem faults_lowerReason (m : Mach) (key reason : Nat) : m.faults (m.lowerReason key reason) where
  bare := rfl
  regs := ⟨rfl, fun _ _ => rfl⟩
  rf_ep := rfl
  held h hh := by
    simp only [lowerReason, List.mem_map] at hh
    obtain ⟨e, he, rfl⟩ := hh
    split
    · rename_i hin
      exact .inr hin.1
    · exact .inl he
  events _ _ _ h := h

theorem faults_pfault (m : Mach) (key reason : Nat) (received : Bool) : m.faults (m.pfault key reason received) := by
  have hrec := (faults_record m key reason received).trans (faults_dropWaiters _ key)
  unfold pfault
  extract_lets n
  split
  · refine hrec.trans ((faults_bump n (o := R.chpPfaultSuppCnt) (by decide) (by decide) (by decide)).trans ?_)
    split
    · exact faults_lowerReason ..
    · exact faults_refl _
  · exact hrec.trans ((faults_markFault ..).trans (faults_broadcast ..))

theorem faults_pfaultKeys (m : Mach) (keys : List Nat) (reason : Nat) : m.faults (m.pfaultKeys keys reason) :=
  foldl_inv (fun n => m.faults n) _ (fun _ _ hn => hn.trans (faults_pfault ..)) _ (faults_refl m)

/-- No word of another page but the trace's changes. -/
theorem faults.word {m n : Mach} (h : m.faults n) (k : Nat) (hc : (itemPage k == Pg.chip) = false)
    (ht : (itemPage k == Pg.trace) = false) : n.word .sx k = m.word .sx k := by
  refine word_of_kept h.regs k ?_
  have hmem (o : Nat) (ho : o < 2 ^ 44) : k ≠ item Pg.chip 0 o := fun he => by
    rw [he, item_page _ _ _ ho (by decide)] at hc
    exact absurd hc (by decide)
  simp only [faultWord, eventWord, hc, ht, Bool.false_and, Bool.or_false, List.contains_eq_mem, List.mem_cons,
    List.not_mem_nil, or_false, decide_eq_false_iff_not, not_or]
  exact ⟨hmem _ (by decide), hmem _ (by decide), hmem _ (by decide), hmem _ (by decide)⟩

end Mach

end Sys2Proof.Machine
end

section
/-! O22: the Lining (R207 to R209) and the flush of a port (R213). -/

set_option Elab.async false

namespace Sys2Proof.Machine
open Sys2Proof

namespace Mach

theorem held_of_bare {m n : Mach} (h : n.bare = m.bare) : n.held = m.held := by
  have hheld : n.bare.held = m.bare.held := by rw [h]
  exact hheld

section
variable {m : Mach} {h : Held} {pre post : List Held} (hheld : m.held = pre ++ h :: post)
  (hid : ∀ e ∈ pre ++ post, e.id ≠ h.id)
include hheld hid

theorem findHeld_at : m.findHeld h.id = some h := by
  rw [findHeld, hheld]
  exact find_split (fun e he => by simpa using hid e (List.mem_append_left _ he)) (by simp)

theorem removeHeld_at : m.removeHeld h.id = { m with held := pre ++ post } := by
  have hkeep (l : List Held) (hl : ∀ e ∈ l, e.id ≠ h.id) : (l.filter fun e => e.id != h.id) = l :=
    List.filter_eq_self.2 fun e he => by simp [hl e he]
  rw [removeHeld, hheld, List.filter_append, List.filter_cons, hkeep pre fun e he => hid e (List.mem_append_left _ he),
    hkeep post fun e he => hid e (List.mem_append_right _ he)]
  simp

/-! ### The Lining (R207, R208) -/

theorem liningWritten_at (hpart : h.part = .lining) (hrel : h.released = h.gran) :
    m.liningWritten h.id = { m with held := pre ++ { h with written := true } :: post } := by
  rw [liningWritten, findHeld_at hheld hid]
  exact (if_pos ⟨hpart, hrel⟩).trans (updHeld_at hheld hid _)

theorem readbackStart_at (hpart : h.part = .lining) (hstaging : h.staging = 0) (hwritten : h.written = true)
    (hfirst : ∀ e ∈ pre, ¬(e.output = h.output ∧ e.vc = h.vc ∧ e.part = .lining ∧ e.staging = 0))
    (hroom : m.stagingUsed h.output + h.gran ≤ 2048) :
    m.readbackStart h.output h.vc = { m with held := pre ++ { h with staging := 1 } :: post } := by
  have hfind : (m.held.find? fun e => e.output == h.output && e.vc == h.vc && e.part == .lining && e.staging == 0) = some h := by
    rw [hheld]
    refine find_split (fun e he => ?_) (by simp [hpart, hstaging])
    have hno := hfirst e he
    simp only [Bool.eq_false_iff, ne_eq, Bool.and_eq_true, beq_iff_eq]
    tauto
  rw [readbackStart, hfind]
  exact (if_pos ⟨hwritten, hroom⟩).trans (updHeld_at hheld hid _)

/-- A packet wholly in the staging is counted. -/
def stagedBack (m : Mach) (h : Held) : Mach :=
  (m.updHeld h.id fun h => { h with staging := 2 }).bump .sx (Pg.cluster h.acct.1) R.cluReadbackPktCnt

theorem readbackDone_good (hstaging : h.staging = 1) : m.readbackDone h.id false = m.stagedBack h := by
  rw [readbackDone, findHeld_at hheld hid]
  exact (if_neg fun hne => hne hstaging).trans rfl

/-- An uncorrectable readback is counted and raised. -/
def readbackFailed (m : Mach) (h : Held) : Mach :=
  (((m.stagedBack h).fresh 1).2.bump .sx (Pg.cluster h.acct.1) R.liningPoisonCnt).raise .sx (Pg.cluster h.acct.1) 2 0

/-- The packet is poisoned, or gone where its header is lost. -/
theorem readbackDone_bad (hstaging : h.staging = 1) (hlen : h.pkt.length ≠ 0) (hkey : h.key = 0) :
    m.readbackDone h.id true = if ((m.stagedBack h).fresh 1).1 == 1 then (m.readbackFailed h).removeHeld h.id
      else (m.readbackFailed h).updHeld h.id fun h => { h with pkt := h.pkt.setPoison } := by
  rw [readbackDone, findHeld_at hheld hid]
  refine (if_neg fun hne => hne hstaging).trans ((if_neg nofun).trans ?_)
  rw [if_neg hlen, hkey]
  rfl

theorem held_readbackFailed : (m.readbackFailed h).held = pre ++ { h with staging := 2 } :: post := by
  have hupd := updHeld_at hheld hid fun h => { h with staging := 2 }
  rw [readbackFailed, held_of_bare (raise_bare ..), held_of_bare (bump_bare ..)]
  change (m.stagedBack h).held = _
  rw [stagedBack, held_of_bare (bump_bare ..), hupd]

end

/-! ### Dropped packets -/

/-- From `m` to `n`, packets are dropped: links keep their state, port holds and registers stay but for the words `f`. -/
structure drops (m n : Mach) (f : Nat → Bool) : Prop where
  hold : n.hold = m.hold
  up : ∀ p, n.isUp .sx p = m.isUp .sx p
  held : ∀ h ∈ n.held, h ∈ m.held
  regs : m.regsKept n .sx f
  epParams : n.epParams = m.epParams

theorem drops_refl (m : Mach) (f : Nat → Bool) : m.drops m f := ⟨rfl, fun _ => rfl, fun _ h => h, .refl .., rfl⟩

theorem drops.trans {m n o : Mach} {f : Nat → Bool} (h : m.drops n f) (g : n.drops o f) : m.drops o f :=
  ⟨g.hold.trans h.hold, fun p => (g.up p).trans (h.up p), fun x hx => h.held x (g.held x hx), h.regs.trans g.regs,
    g.epParams.trans h.epParams⟩

theorem rf_giveCredit (m : Mach) (p v n : Nat) (c : Chip) : (m.giveCredit p v n).rf c = m.rf c := by
  unfold giveCredit
  split
  · rfl
  · split
    · cases c <;> rfl
    · exact rf_setLk ..

theorem kept_of_rf {m n : Mach} {c : Chip} (h : n.rf c = m.rf c) (hp : n.epParams = m.epParams) (f : Nat → Bool) :
    m.regsKept n c f := ⟨by rw [h], fun k _ => by rw [word, word, h, hp]⟩

theorem giveCredit_drops (m : Mach) (p v n : Nat) (f : Nat → Bool) : m.drops (m.giveCredit p v n) f := by
  unfold giveCredit
  split
  · exact drops_refl ..
  · split
    · exact ⟨rfl, fun _ => rfl, fun _ h => h, ⟨rfl, fun _ _ => rfl⟩, rfl⟩
    · refine ⟨rfl, fun q => ?_, fun _ h => h, ?_, setLk_epParams ..⟩
      swap
      · exact kept_of_rf (n := m.setLk .sx p _) (rf_setLk ..) (setLk_epParams ..) f
      simp only [isUp, returnCredit, lk_setLk]
      split
      · rename_i hq
        rw [hq]
      · rfl

theorem removeHeld_drops (m : Mach) (id : Nat) (f : Nat → Bool) : m.drops (m.removeHeld id) f :=
  ⟨rfl, fun _ => rfl, fun _ h => List.mem_of_mem_filter h, ⟨rfl, fun _ _ => rfl⟩, rfl⟩

theorem dropHeld_drops (m : Mach) (h : Held) (f : Nat → Bool) : m.drops (m.dropHeld h) f :=
  (removeHeld_drops ..).trans (giveCredit_drops ..)

theorem hold_of_bare {m n : Mach} (h : n.bare = m.bare) : n.hold = m.hold := by
  have hhold : n.bare.hold = m.bare.hold := by rw [h]
  exact hhold

theorem drops_of_touches {m n : Mach} {f : Nat → Bool} (h : m.touches n .sx f) : m.drops n f where
  hold := hold_of_bare h.1
  up p := by rw [isUp, isUp, h.lk]
  held x hx := by rwa [held_of_bare h.1] at hx
  regs := h.2.1
  epParams := by rw [← bare_epParams, h.1, bare_epParams]

theorem bump_drops (m : Mach) (p o : Nat) (f : Nat → Bool) (hf : f (item p 0 o) = true) : m.drops (m.bump .sx p o) f :=
  drops_of_touches (touches_setWord _ _ _ _ hf)

theorem held_giveCredit (m : Mach) (p v n : Nat) : (m.giveCredit p v n).held = m.held := by
  unfold giveCredit
  split
  · rfl
  · split <;> rfl

/-- A dropped packet is gone. -/
theorem gone_dropHeld (m : Mach) (h : Held) : ∀ e ∈ (m.dropHeld h).held, e.id ≠ h.id := by
  intro e he
  rw [dropHeld, held_giveCredit, removeHeld] at he
  simpa using (List.mem_filter.1 he).2

/-! ### A port's flush (R213) -/

/-- Packets are discarded at a port, each counted. -/
def dropAll (m : Mach) (p : Nat) (gone : List Held) : Mach :=
  gone.foldl (fun m h => (m.dropHeld h).bump .sx (Pg.port p) R.prtFlushPktCnt) m

section
variable (m : Mach) (p : Nat)

theorem dropAll_drops (gone : List Held) : m.drops (m.dropAll p gone) (portWord p R.prtFlushPktCnt) :=
  foldl_inv (fun n => m.drops n (portWord p R.prtFlushPktCnt)) _
    (fun _ _ hn => hn.trans ((dropHeld_drops ..).trans (bump_drops _ _ _ _ (by simp [portWord])))) _ (drops_refl ..)

theorem dropAll_gone (gone : List Held) : ∀ h ∈ gone, ∀ e ∈ (m.dropAll p gone).held, e.id ≠ h.id := by
  induction gone generalizing m with
  | nil => exact fun h hh => absurd hh List.not_mem_nil
  | cons g gone ih =>
    intro h hh e he
    obtain rfl | hh := List.mem_cons.1 hh
    · have hin := (dropAll_drops ((m.dropHeld h).bump .sx (Pg.port p) R.prtFlushPktCnt) p gone).held e he
      rw [held_of_bare (bump_bare ..)] at hin
      exact gone_dropHeld m h e hin
    · exact ih _ h hh e he

theorem dropAll_count (gone : List Held) :
    ((m.dropAll p gone).word .sx (item (Pg.port p) 0 R.prtFlushPktCnt)).toNat
      = min ((m.word .sx (item (Pg.port p) 0 R.prtFlushPktCnt)).toNat + gone.length) 0xFFFFFFFF := by
  induction gone generalizing m with
  | nil => have := (m.word .sx (item (Pg.port p) 0 R.prtFlushPktCnt)).isLt; simp [dropAll]; omega
  | cons g gone ih =>
    refine (ih _).trans ?_
    rw [word_bump, (dropHeld_drops m g noWord).regs.2 _ rfl, List.length_cons]
    omega

/-- What a port's flush discards. -/
def flushes : List Held := m.held.filter fun h => h.output == p && h.part != .none

/-- The keys whose packets a flush discards. -/
def flushKeys : List Nat := (((m.flushes p).map Held.key).filter (· != 0)).eraseDups

/-- The port's hold after a flush. -/
def flushHold (n : Mach) : Mach :=
  n.setHold p { (n.holdOf p) with
    st := if n.isUp .sx p then 0 else 2, flushDue := false, keys := if n.isUp .sx p then [] else m.flushKeys p }

theorem flushPort_eq : ∃ d, m.flushPort p
    = ((m.flushHold p (m.dropAll p (m.flushes p))).pfaultKeys (m.flushKeys p) Reason.packetLost).raise .sx (Pg.port p) 8 d :=
  ⟨_, rfl⟩

theorem flushPort_spec (hdown : m.isUp .sx p = false) : ((m.flushPort p).holdOf p).st = 2 ∧
    (m.flushPort p).event .sx (Pg.port p) 8 = true ∧
    (∀ h ∈ (m.flushPort p).held, h.output = p → h.part = .none ∨ h.input = 171) ∧
    ((m.flushPort p).word .sx (item (Pg.port p) 0 R.prtFlushPktCnt)).toNat
      = min ((m.word .sx (item (Pg.port p) 0 R.prtFlushPktCnt)).toNat + (m.flushes p).length) 0xFFFFFFFF := by
  obtain ⟨d, hflush⟩ := m.flushPort_eq p
  have hdrop := m.dropAll_drops p (m.flushes p)
  have hgone := m.dropAll_gone p (m.flushes p)
  have hcount := m.dropAll_count p (m.flushes p)
  obtain ⟨n, hn⟩ : ∃ n, n = m.dropAll p (m.flushes p) := ⟨_, rfl⟩
  rw [← hn] at hflush hdrop hgone hcount
  have hst : ((m.flushHold p n).holdOf p).st = 2 := by
    rw [flushHold, hdrop.up, hdown]
    simp [holdOf, setHold]
  have hfault := faults_pfaultKeys (m.flushHold p n) (m.flushKeys p) Reason.packetLost
  obtain ⟨o, ho⟩ : ∃ o, o = (m.flushHold p n).pfaultKeys (m.flushKeys p) Reason.packetLost := ⟨_, rfl⟩
  rw [← ho] at hflush hfault
  have hbare : (m.flushPort p).bare = o.bare := by rw [hflush, raise_bare]
  refine ⟨?_, ?_, fun h hh hout => ?_, ?_⟩
  · have hhold : (m.flushPort p).bare.hold = (m.flushHold p n).hold := by rw [hbare, hfault.bare]; rfl
    exact (congrArg (fun t => (Tbl.get (fun _ => {}) t p : PortHold).st) hhold).trans hst
  · rw [hflush]
    exact event_raise _ _ _ _ _ _ _ (by decide) (.inr ⟨rfl, rfl⟩)
  · have hheld : (m.flushPort p).bare.held = o.bare.held := by rw [hbare]
    refine (hfault.held h (hheld ▸ hh)).imp (fun hin => ?_) id
    by_contra hpart
    have hmine : h ∈ m.flushes p := by
      rw [flushes, List.mem_filter]
      exact ⟨hdrop.held h hin, by simp [hout, hpart]⟩
    exact hgone h hmine h hin rfl
  · have hpage : itemPage (item (Pg.port p) 0 R.prtFlushPktCnt) = Pg.port p := item_page _ _ _ (by decide) (by decide)
    have hchip : (Pg.port p == Pg.chip) = false := beq_false_of_ne (by unfold Pg.port Pg.chip; omega)
    have hword : (m.flushPort p).word .sx (item (Pg.port p) 0 R.prtFlushPktCnt) = n.word .sx (item (Pg.port p) 0 R.prtFlushPktCnt) := by
      rw [hflush, word_raise _ _ _ _ _ _ (eventWord_none _ _ _ (by decide) (port_ne_trace p) (by decide)),
        hfault.word _ (by rw [hpage, hchip]) (by rw [hpage, beq_false_of_ne (port_ne_trace p)])]
      rfl
    rw [hword, hcount]

end

/-- A port whose hold has expired while it is down is flushed. -/
theorem holdExpiry_flushes {m : Mach} {p : Nat} (hst : (m.holdOf p).st = 1) (hdue : (m.holdOf p).flushDue = false)
    (hexp : (m.holdOf p).expiry ≤ m.time.number) (hdown : m.isUp .sx p = false) : m.holdExpiry p = m.flushPort p := by
  have hlate : (m.holdOf p).st = 1 ∧ (m.holdOf p).expiry ≤ m.time.number ∧ (!m.isUp .sx p) = true := ⟨hst, hexp, by rw [hdown]; rfl⟩
  rw [holdExpiry, hdue]
  exact (if_neg nofun).trans (if_pos hlate)

end Mach

/-- A command that runs `f` on the machine. -/
theorem go_eq {s : State} (f : Mach → Mach) {n : Mach} (h : f s.m = n) : s.go f = .next { s with m := n } := by
  rw [State.go, h]

/-- Settles O22: each step of the Lining changes its packet alone, and a flush drops what its port holds. -/
theorem heldPacketsWaitInTheLiningAndAtPorts : Obligations.HeldPacketsWaitInTheLiningAndAtPorts := by
  refine ⟨fun s h pre post hheld hid hpart hout hvc => ⟨fun hrel => ?_, fun hstaging hwritten hfirst hroom => ?_,
    fun hstaging => ?_, fun hstaging hlen hkey => ?_⟩, fun s p hp hst hdue hexp hdown => ?_⟩
  · refine ⟨_, go_eq (fun m => m.liningWritten h.id) (Mach.liningWritten_at hheld hid hpart hrel), ?_⟩
    exact ⟨rfl, ⟨rfl, fun _ _ => rfl⟩, rfl, rfl, rfl⟩
  · have hrun : exec (.liningReadbackStart h.output h.vc) s = .next { s with m := s.m.readbackStart h.output h.vc } :=
      Mach.unit_go (decide_eq_true ⟨by decide, hout, hvc⟩) _
    rw [hrun, Mach.readbackStart_at hheld hid hpart hstaging hwritten hfirst hroom]
    exact ⟨_, rfl, rfl, ⟨rfl, fun _ _ => rfl⟩, rfl, rfl, rfl⟩
  · have hupd := Mach.updHeld_at hheld hid fun h => { h with staging := 2 }
    refine ⟨_, go_eq (fun m => m.readbackDone h.id false) (Mach.readbackDone_good hheld hid hstaging), ?_, ?_⟩
    · exact Mach.word_bump ..
    · rw [Mach.stagedBack, hupd]
      exact becomes_of (Mach.bump_bare ..) (Mach.regsKept_bump _ _ _ _ _ (by simp)) (Mach.other_bump ..)
  · have hheld' := Mach.held_readbackFailed hheld hid
    have hraised : (s.m.readbackFailed h).event .sx (Pg.cluster h.acct.1) 2 = true :=
      Mach.event_raise _ _ _ _ _ _ _ (by decide) (.inr ⟨rfl, rfl⟩)
    refine ⟨_, go_eq (fun m => m.readbackDone h.id true) (Mach.readbackDone_bad hheld hid hstaging (by omega) hkey), ?_⟩
    dsimp only
    split
    · rw [Mach.removeHeld_at (h := { h with staging := 2 }) hheld' hid]
      exact ⟨hraised, .inl rfl⟩
    · rw [Mach.updHeld_at (h := { h with staging := 2 }) hheld' hid]
      exact ⟨hraised, .inr rfl⟩
  · have hrun : exec (.portHoldExpiry p) s = .next { s with m := s.m.holdExpiry p } :=
      Mach.unit_go (decide_eq_true hp) _
    rw [hrun, Mach.holdExpiry_flushes hst hdue hexp hdown]
    obtain ⟨hst, hevent, hheld, hcount⟩ := Mach.flushPort_spec s.m p hdown
    exact ⟨_, rfl, hevent, hst, hheld, ⟨rfl, rfl⟩, hcount⟩

end Sys2Proof.Machine
end

section
/-! O29: telemetry (R242 to R246) and the update of the rate entries (R228). -/

set_option Elab.async false

namespace Sys2Proof.Machine
open Sys2Proof

namespace Mach

/-! ### Rings in the management host's memory (R247) -/

/-- The register of a ring's producer index. -/
def isProd (prod : Nat) : Prop := prod = R.mdrMapProd ∨ prod = R.mdrSmpProd

/-- A producer index has one copy. -/
theorem reg_prod (m : Mach) {prod : Nat} (h : isProd prod) :
    m.reg .sx Pg.mdr prod = (m.word .sx (item Pg.mdr 0 prod)).toNat := by
  have hrws : (info m.epParams .sx (item Pg.mdr 0 prod)).rws = 0 := by obtain rfl | rfl := h <;> rfl
  have htmr : tmrBits .sx (item Pg.mdr 0 prod) = 0 := by obtain rfl | rfl := h <;> decide
  rw [reg, live_of_not_rws m .sx hrws htmr]

/-- The record that a write to a ring carries. -/
def ringRecord : Out → List Byte
  | .managementWrite _ r => r
  | _ => []

section
variable (m : Mach) (size : Fld) (lo hi : Nat) {prod : Nat}

theorem ringPut_touches (record : List Byte) :
    m.touches (m.ringPut size lo hi prod record) .sx (pageWord Pg.mdr prod) :=
  (touches_emit ..).trans (touches_setWord _ _ _ _ (by simp [pageWord]))

theorem ringPut_driven (record : List Byte) :
    ∃ a, (m.ringPut size lo hi prod record).driven = .managementWrite a record :: m.driven :=
  ⟨_, driven_setWord ..⟩

theorem ringPut_prod (record : List Byte) :
    (m.ringPut size lo hi prod record).storedReg .sx Pg.mdr prod = (m.reg .sx Pg.mdr prod + 1) % 2 ^ 32 := by
  rw [ringPut, storedReg, word_setReg, if_pos rfl, BitVec.toNat_ofNat]
  omega

/-- Records written one after another. -/
theorem ringPuts (hp : isProd prod) (rs : List (List Byte)) (m : Mach) :
    let n := rs.foldl (fun m r => m.ringPut size lo hi prod r) m
    m.touches n .sx (pageWord Pg.mdr prod) ∧ n.storedReg .sx Pg.mdr prod = (m.reg .sx Pg.mdr prod + rs.length) % 2 ^ 32 ∧
      ∃ ws, n.driven = ws ++ m.driven ∧ ws.reverse.map ringRecord = rs := by
  induction rs generalizing m with
  | nil =>
    refine ⟨touches_refl .., ?_, [], rfl, rfl⟩
    rw [reg_prod m hp]
    exact (Nat.mod_eq_of_lt (m.word .sx (item Pg.mdr 0 prod)).isLt).symm
  | cons r rs ih =>
    obtain ⟨htouch, hreg, ws, hws, hrec⟩ := ih (m.ringPut size lo hi prod r)
    obtain ⟨a, ha⟩ := ringPut_driven m size lo hi (prod := prod) r
    refine ⟨(ringPut_touches ..).trans htouch, hreg.trans ?_, ws ++ [.managementWrite a r], ?_, ?_⟩
    · rw [reg_prod _ hp]
      rw [show ((m.ringPut size lo hi prod r).word .sx (item Pg.mdr 0 prod)).toNat = _ from ringPut_prod m size lo hi r,
        List.length_cons]
      omega
    · exact hws.trans (by rw [ha, List.append_assoc]; rfl)
    · rw [List.reverse_append, List.map_append, hrec]; rfl

end

/-! ### Map batches (R243) and samples (R246) -/

theorem touches_counted_raise (m : Mach) (cnt b : Nat) : m.touches ((m.bump .sx Pg.mdr cnt).raise .sx Pg.mdr b 0) .sx
    (fun k => pageWord Pg.mdr cnt k || eventWord Pg.mdr k) :=
  (touches_setWord m .sx _ _ (by simp [pageWord])).trans ((touches_raise ..).mono fun k hk => by simp [hk])

/-- A batch that is pushed: its records in the ring, and the event when it is the epoch's last. -/
def batchPut (m : Mach) (b : MapBatch) (rest : List MapBatch) : Mach :=
  let m := { ({ m with mapBatch := rest } : Mach).mapWrite b with mapDropped := Tbl.set (fun _ => 0) m.mapDropped b.tile 0 }
  if rest.any (fun c => c.epoch == b.epoch) then m else m.raise .sx Pg.mdr 0 0

section
variable {m : Mach} {b : MapBatch} {rest : List MapBatch} (hb : m.mapBatch = b :: rest)
include hb

theorem mapPush_room (hshed : m.shedLevel = 0) (hroom : b.records.length + 1
    ≤ m.ringRoom F.mdrMapCtrl_en F.mdrMapCtrl_sizeLog2 R.mdrMapProd R.mdrMapCons) : m.mapPush b.tile = m.batchPut b rest := by
  have hlevel : ¬1 ≤ ({ m with mapBatch := rest } : Mach).shedLevel := fun h => by
    rw [show ({ m with mapBatch := rest } : Mach).shedLevel = m.shedLevel from rfl, hshed] at h
    exact absurd h (by decide)
  rw [mapPush, hb]
  exact (if_neg fun h => h rfl).trans ((if_neg hlevel).trans (if_neg (Nat.not_lt.2 hroom)))

theorem mapPush_drop {cnt : Nat} (h : (m.shedLevel ≠ 0 ∧ cnt = R.mdrMapShedCnt) ∨ (m.shedLevel = 0 ∧
    m.ringRoom F.mdrMapCtrl_en F.mdrMapCtrl_sizeLog2 R.mdrMapProd R.mdrMapCons < b.records.length + 1 ∧ cnt = R.mdrMapFullCnt)) :
    m.mapPush b.tile = ({ m with mapBatch := rest } : Mach).mapDrop b cnt := by
  rw [mapPush, hb]
  refine (if_neg fun h => h rfl).trans ?_
  obtain ⟨hshed, rfl⟩ | ⟨hshed, hroom, rfl⟩ := h
  · exact if_pos (Nat.pos_of_ne_zero hshed)
  · exact (if_neg fun h => absurd (hshed ▸ h : 1 ≤ 0) (by decide)).trans (if_pos hroom)

end

/-- The machine with the batches `rest` left and no batch of `tile` dropped since. -/
def batchGone (m : Mach) (tile : Nat) (rest : List MapBatch) : Mach :=
  { m with mapBatch := rest, mapDropped := Tbl.set (fun _ => 0) m.mapDropped tile 0 }

theorem touches.setDropped {m n : Mach} {c : Chip} {f : Nat → Bool} (h : m.touches n c f) (d : Tbl Nat) :
    ({ m with mapDropped := d } : Mach).touches { n with mapDropped := d } c f :=
  ⟨congrArg (fun x : Mach => { x with mapDropped := d }) h.1, by cases c <;> exact h.2.1, by cases c <;> exact h.2.2⟩

theorem touches.setSmpDropped {m n : Mach} {c : Chip} {f : Nat → Bool} (h : m.touches n c f) (d : Bool) :
    ({ m with smpDropped := d } : Mach).touches { n with smpDropped := d } c f :=
  ⟨congrArg (fun x : Mach => { x with smpDropped := d }) h.1, by cases c <;> exact h.2.1, by cases c <;> exact h.2.2⟩

theorem batchPut_spec (m : Mach) (b : MapBatch) (rest : List MapBatch) :
    (m.batchGone b.tile rest).touches (m.batchPut b rest) .sx (fun k => pageWord Pg.mdr R.mdrMapProd k || eventWord Pg.mdr k) ∧
      (m.batchPut b rest).storedReg .sx Pg.mdr R.mdrMapProd
        = (m.reg .sx Pg.mdr R.mdrMapProd + (b.records.length + 1)) % 2 ^ 32 ∧
      (∃ ws, (m.batchPut b rest).driven = ws ++ m.driven ∧ ws.reverse.map ringRecord = m.mapHeader b :: b.records) ∧
      ((∀ c ∈ rest, c.epoch ≠ b.epoch) → (m.batchPut b rest).event .sx Pg.mdr 0 = true) := by
  obtain ⟨htouch, hprod, ws, hws, hrec⟩ := ringPuts F.mdrMapCtrl_sizeLog2 R.mdrMapBaseLo R.mdrMapBaseHi
    (prod := R.mdrMapProd) (.inl rfl) (m.mapHeader b :: b.records) { m with mapBatch := rest }
  obtain ⟨n, hn⟩ : ∃ n, n = ({ m with mapBatch := rest } : Mach).mapWrite b := ⟨_, rfl⟩
  change Mach.touches _ (({ m with mapBatch := rest } : Mach).mapWrite b) _ _ at htouch
  change (({ m with mapBatch := rest } : Mach).mapWrite b).storedReg _ _ _ = _ at hprod
  change (({ m with mapBatch := rest } : Mach).mapWrite b).driven = _ at hws
  rw [← hn] at htouch hprod hws
  have hgone : (m.batchGone b.tile rest).touches { n with mapDropped := Tbl.set (fun _ => 0) m.mapDropped b.tile 0 } .sx
      (fun k => pageWord Pg.mdr R.mdrMapProd k || eventWord Pg.mdr k) :=
    (htouch.setDropped _).mono fun k hk => by simp [hk]
  obtain ⟨o, ho⟩ : ∃ o, o = ({ n with mapDropped := Tbl.set (fun _ => 0) m.mapDropped b.tile 0 } : Mach) := ⟨_, rfl⟩
  have hput : m.batchPut b rest = if rest.any (fun c => c.epoch == b.epoch) then o else o.raise .sx Pg.mdr 0 0 := by
    rw [ho, hn]; rfl
  have hoprod : o.storedReg .sx Pg.mdr R.mdrMapProd = (m.reg .sx Pg.mdr R.mdrMapProd + (b.records.length + 1)) % 2 ^ 32 := by
    rw [ho]; exact hprod
  have hows : o.driven = ws ++ m.driven := by rw [ho]; exact hws
  rw [← ho] at hgone
  rw [hput]
  split
  · rename_i hany
    refine ⟨hgone, hoprod, ⟨ws, hows, hrec⟩, fun hno => ?_⟩
    obtain ⟨c, hc, he⟩ := List.any_eq_true.1 hany
    exact absurd (beq_iff_eq.1 he) (hno c hc)
  · refine ⟨hgone.trans ((touches_raise ..).mono fun k hk => by simp [hk]), ?_, ⟨ws, ?_, hrec⟩,
      fun _ => event_raise _ _ _ _ _ _ _ (by decide) (.inr ⟨rfl, rfl⟩)⟩
    · rw [storedReg, word_raise _ _ _ _ _ _ (by decide)]
      exact hoprod
    · rw [driven_raise, hows]

theorem mapDrop_spec (m : Mach) (b : MapBatch) (cnt : Nat) (hcnt : cnt = R.mdrMapShedCnt ∨ cnt = R.mdrMapFullCnt) :
    ({ m with mapDropped := Tbl.modify (fun _ => 0) m.mapDropped b.tile (· + 1) } : Mach).touches (m.mapDrop b cnt) .sx
      (fun k => pageWord Pg.mdr cnt k || eventWord Pg.mdr k) ∧
    m.counted (m.mapDrop b cnt) .sx Pg.mdr cnt ∧ (m.mapDrop b cnt).event .sx Pg.mdr 1 = true ∧
    (m.mapDrop b cnt).driven = m.driven := by
  refine ⟨touches_counted_raise .., ?_, event_raise _ _ _ _ _ _ _ (by decide) (.inr ⟨rfl, rfl⟩), ?_⟩
  · have hno : eventWord Pg.mdr (item Pg.mdr 0 cnt) = false := by obtain rfl | rfl := hcnt <;> decide
    rw [counted, mapDrop, word_raise _ _ _ _ _ _ hno]
    exact word_bump ..
  · exact (driven_raise ..).trans (driven_bump ..)

/-- The oldest sample in the ring, counted. -/
def samplePut (m : Mach) (x : Sample) : Mach :=
  (m.ringPut F.mdrSmpCtrl_sizeLog2 R.mdrSmpBaseLo R.mdrSmpBaseHi R.mdrSmpProd x.record).bump .sx Pg.mdr R.mdrSmpTakenCnt

/-- The oldest sample goes to the ring. -/
theorem samplePush_room {m : Mach} {x : Sample} {rest : List Sample} (hx : m.smpWait = x :: rest)
    (htime : m.time.number ≤ x.at_ + 1)
    (hroom : 0 < m.ringRoom F.mdrSmpCtrl_en F.mdrSmpCtrl_sizeLog2 R.mdrSmpProd R.mdrSmpCons) :
    m.samplePush x.tile = ({ m with smpWait := rest } : Mach).samplePut x := by
  have hfind : (m.smpWait.find? fun y => y.tile == x.tile) = some x := by rw [hx, List.find?_cons, beq_self_eq_true]
  have herase : m.smpWait.erase x = rest := by rw [hx, List.erase_cons_head]
  rw [samplePush, hfind]
  dsimp only
  rw [herase]
  exact (if_neg (Nat.not_lt.2 htime)).trans (if_neg (Nat.pos_iff_ne_zero.1 hroom))

theorem samplePush_full {m : Mach} {x : Sample} {rest : List Sample} (hx : m.smpWait = x :: rest)
    (htime : m.time.number ≤ x.at_ + 1)
    (hroom : m.ringRoom F.mdrSmpCtrl_en F.mdrSmpCtrl_sizeLog2 R.mdrSmpProd R.mdrSmpCons = 0) :
    m.samplePush x.tile = ({ m with smpWait := rest } : Mach).sampleDrop R.mdrSmpFullCnt := by
  have hfind : (m.smpWait.find? fun y => y.tile == x.tile) = some x := by rw [hx, List.find?_cons, beq_self_eq_true]
  have herase : m.smpWait.erase x = rest := by rw [hx, List.erase_cons_head]
  rw [samplePush, hfind]
  dsimp only
  rw [herase]
  exact (if_neg (Nat.not_lt.2 htime)).trans (if_pos hroom)

theorem samplePut_spec (m : Mach) (x : Sample) :
    m.touches (m.samplePut x) .sx (fun k => pageWord Pg.mdr R.mdrSmpProd k || pageWord Pg.mdr R.mdrSmpTakenCnt k) ∧
      (m.samplePut x).storedReg .sx Pg.mdr R.mdrSmpProd = (m.reg .sx Pg.mdr R.mdrSmpProd + 1) % 2 ^ 32 ∧
      (∃ a, (m.samplePut x).driven = .managementWrite a x.record :: m.driven) ∧
      m.counted (m.samplePut x) .sx Pg.mdr R.mdrSmpTakenCnt := by
  have htouch := m.ringPut_touches F.mdrSmpCtrl_sizeLog2 R.mdrSmpBaseLo R.mdrSmpBaseHi (prod := R.mdrSmpProd) x.record
  have hprod := m.ringPut_prod F.mdrSmpCtrl_sizeLog2 R.mdrSmpBaseLo R.mdrSmpBaseHi (prod := R.mdrSmpProd) x.record
  obtain ⟨a, ha⟩ := m.ringPut_driven F.mdrSmpCtrl_sizeLog2 R.mdrSmpBaseLo R.mdrSmpBaseHi (prod := R.mdrSmpProd) x.record
  unfold samplePut
  obtain ⟨n, hn⟩ : ∃ n, n = m.ringPut F.mdrSmpCtrl_sizeLog2 R.mdrSmpBaseLo R.mdrSmpBaseHi R.mdrSmpProd x.record := ⟨_, rfl⟩
  rw [← hn] at htouch hprod ha ⊢
  refine ⟨(htouch.mono fun k hk => by simp [hk]).trans (touches_setWord _ _ _ _ (by simp [pageWord])), ?_,
    ⟨a, (driven_bump ..).trans ha⟩, ?_⟩
  · exact (congrArg BitVec.toNat ((word_setWord ..).trans (if_neg (by decide)))).trans hprod
  · rw [counted, ← htouch.2.1.2 (item Pg.mdr 0 R.mdrSmpTakenCnt) (by decide)]
    exact word_bump ..

/-- A dropped sample is counted, and reported once in a stitch. -/
theorem sampleDrop_spec (m : Mach) : ({ m with smpDropped := true } : Mach).touches (m.sampleDrop R.mdrSmpFullCnt) .sx
      (fun k => pageWord Pg.mdr R.mdrSmpFullCnt k || eventWord Pg.mdr k) ∧
    m.counted (m.sampleDrop R.mdrSmpFullCnt) .sx Pg.mdr R.mdrSmpFullCnt ∧
    (m.smpDropped = false → (m.sampleDrop R.mdrSmpFullCnt).event .sx Pg.mdr 2 = true) ∧
    (m.sampleDrop R.mdrSmpFullCnt).driven = m.driven := by
  obtain ⟨n, hn⟩ : ∃ n, n = m.bump .sx Pg.mdr R.mdrSmpFullCnt := ⟨_, rfl⟩
  have hcount : m.counted n .sx Pg.mdr R.mdrSmpFullCnt := by rw [hn]; exact word_bump ..
  have htouch : m.touches n .sx (pageWord Pg.mdr R.mdrSmpFullCnt) := by
    rw [hn]; exact touches_setWord _ _ _ _ (by simp [pageWord])
  have hdriven : n.driven = m.driven := by rw [hn]; exact driven_bump ..
  have hmark : ({ m with smpDropped := true } : Mach).touches { n with smpDropped := true } .sx
      (fun k => pageWord Pg.mdr R.mdrSmpFullCnt k || eventWord Pg.mdr k) :=
    (htouch.setSmpDropped true).mono fun k hk => by simp [hk]
  have hdrop : m.sampleDrop R.mdrSmpFullCnt
      = if n.smpDropped then n else ({ n with smpDropped := true } : Mach).raise .sx Pg.mdr 2 0 := by rw [hn]; rfl
  have hsame : n.smpDropped = m.smpDropped := by
    have h : n.bare.smpDropped = m.bare.smpDropped := by rw [htouch.1]
    exact h
  rw [hdrop]
  split
  · rename_i hwas
    have hn' : ({ n with smpDropped := true } : Mach) = n := by rw [← hwas]
    rw [hn'] at hmark
    exact ⟨hmark, hcount, fun hno => absurd (hsame ▸ hwas) (by rw [hno]; decide), hdriven⟩
  · refine ⟨hmark.trans ((touches_raise ..).mono fun k hk => by simp [hk]), ?_,
      fun _ => event_raise _ _ _ _ _ _ _ (by decide) (.inr ⟨rfl, rfl⟩), (driven_raise ..).trans hdriven⟩
    rw [counted, word_raise _ _ _ _ _ _ (by decide)]
    exact hcount

/-! ### Rate entries (R228) -/

section
variable (rmax g fr ai rmin : Nat) {e : RateEntry} (hn : 0 < e.n)
include hn

theorem rateStep_marked (hm : 0 < e.m) (a : Nat)
    (ha : a = if e.a ≤ e.m * 65536 / e.n then e.a + (e.m * 65536 / e.n - e.a) / 2 ^ g
      else e.a - (e.a - e.m * 65536 / e.n) / 2 ^ g) :
    rateStep rmax g fr ai rmin e = { e with
      a := a, t := e.r, r := max (min rmin rmax) (e.r * (131072 - a) / 131072), inc := 0, quiet := 0, m := 0, n := 0 } := by
  simp only [rateStep, if_neg (Nat.pos_iff_ne_zero.1 hn), if_pos hm, ← ha]

theorem rateStep_unmarked (hm : ¬0 < e.m) (a : Nat)
    (ha : a = if e.a ≤ e.m * 65536 / e.n then e.a + (e.m * 65536 / e.n - e.a) / 2 ^ g
      else e.a - (e.a - e.m * 65536 / e.n) / 2 ^ g) :
    rateStep rmax g fr ai rmin e = { e with
      a := a, t := if fr < e.inc + 1 then min rmax (e.t + ai) else e.t
      r := (e.r + if fr < e.inc + 1 then min rmax (e.t + ai) else e.t) / 2
      inc := e.inc + 1, quiet := e.quiet + 1, n := 0 } := by
  have hzero : e.m = 0 := by omega
  simp only [rateStep, if_neg (Nat.pos_iff_ne_zero.1 hn), if_neg hm, ← ha]
  rw [← hzero]

end

/-- The most that an entry's plane allows (R226). -/
def rateTop (m : Mach) (e : RateEntry) : Nat := match m.planePort e.plane with | some p => m.rMax p | none => 0

/-- An entry after its update, with the parameters of EP4_RC. -/
def ratePut (m : Mach) (e : RateEntry) : RateEntry :=
  let c := fun x => m.fld .ep Pg.eRc x
  rateStep (m.rateTop e) (min (max (c F.ep4RcCtrl_gShift) 1) 8) (c F.ep4RcCtrl_frSteps)
    (256 * min (max (c F.ep4RcRate_rAi) 1) 1024) (256 * min (max (c F.ep4RcRate_rMin) 1) 1024) e

theorem ratePut_quiet (m : Mach) {e : RateEntry} (hn : 0 < e.n) : (m.ratePut e).quiet ≤ e.quiet + 1 := by
  by_cases hm : 0 < e.m
  · rw [ratePut, rateStep_marked _ _ _ _ _ hn hm _ rfl]
    exact Nat.zero_le _
  · rw [ratePut, rateStep_unmarked _ _ _ _ _ hn hm _ rfl]

theorem rateUpdate_one {m : Mach} {e : RateEntry} (he : m.ep.rates = [e]) (hn : 0 < e.n) (hq : e.quiet < 63) :
    m.rateUpdate = m.setRates [m.ratePut e] := by
  have hquiet : ¬64 ≤ (m.ratePut e).quiet := fun h => absurd (le_trans h (m.ratePut_quiet hn)) (by omega)
  have hmap : m.rateUpdate = m.setRates ([m.ratePut e].filter fun e =>
      !(decide (64 ≤ e.quiet) && decide (m.rateTop e ≤ e.r + 256))) := by
    unfold rateUpdate
    rw [he]
    rfl
  rw [hmap, List.filter_cons, decide_eq_false hquiet]
  rfl

end Mach

/-- Settles O29: a ring is written record by record, and one rate entry is updated by the rule of its period. -/
theorem telemetryIsPushedAndRatesFollow : Obligations.TelemetryIsPushedAndRatesFollow := by
  refine ⟨⟨fun s b rest hb tile ht htile => ?_, fun s x rest hx tile ht htile htime => ?_⟩, fun s e he hdue hn hq => ?_⟩
  · subst htile
    have hrun : exec (.mapBatchPush b.tile) s = .next { s with m := s.m.mapPush b.tile } :=
      Mach.unit_go (decide_eq_true ht) _
    refine ⟨fun hshed hroom => ?_, fun cnt hcnt => ?_⟩
    · obtain ⟨htouch, hprod, ⟨ws, hws, hrec⟩, hevent⟩ := Mach.batchPut_spec s.m b rest
      have hlen : b.records.length + 1 = ws.length := by
        rw [← List.length_reverse (as := ws), ← List.length_map Mach.ringRecord, hrec, List.length_cons]
      rw [Mach.mapPush_room hb hshed hroom] at hrun
      refine ⟨_, hrun, ?_, ?_, hprod, hevent, ?_⟩
      · rw [hws, hlen, List.take_left]
        exact hrec
      · rw [hws, hlen, List.drop_left]
      · exact ⟨htouch.1, htouch.2.1, htouch.2.2, rfl, rfl⟩
    · have hcnt' : cnt = R.mdrMapShedCnt ∨ cnt = R.mdrMapFullCnt := hcnt.imp (·.2) (·.2.2)
      obtain ⟨htouch, hcount, hevent, hdriven⟩ := Mach.mapDrop_spec { s.m with mapBatch := rest } b cnt hcnt'
      rw [Mach.mapPush_drop hb hcnt] at hrun
      exact ⟨_, hrun, hdriven, hevent, hcount, htouch.1, htouch.2.1, htouch.2.2, rfl, rfl⟩
  · subst htile
    have hrun : exec (.samplePush x.tile) s = .next { s with m := s.m.samplePush x.tile } :=
      Mach.unit_go (decide_eq_true ht) _
    refine ⟨fun hroom => ?_, fun hroom => ?_⟩
    · obtain ⟨htouch, hprod, ⟨a, ha⟩, hcount⟩ := Mach.samplePut_spec { s.m with smpWait := rest } x
      rw [Mach.samplePush_room hx htime hroom] at hrun
      exact ⟨_, hrun, ⟨a, ha⟩, hcount, hprod, htouch.1, htouch.2.1, htouch.2.2, rfl, rfl⟩
    · obtain ⟨htouch, hcount, hevent, hdriven⟩ := Mach.sampleDrop_spec { s.m with smpWait := rest }
      rw [Mach.samplePush_full hx htime hroom] at hrun
      exact ⟨_, hrun, hdriven, hcount, hevent, htouch.1, htouch.2.1, htouch.2.2, rfl, rfl⟩
  · have hdo : (if s.m.epTime.number % s.m.uPeriod = s.m.uPeriod - 1 then s.m.rateUpdate else s.m)
        = s.m.setRates [s.m.ratePut e] := (if_pos hdue).trans (Mach.rateUpdate_one he hn hq)
    have hrun := go_eq (s := s) (fun m => if m.epTime.number % m.uPeriod = m.uPeriod - 1 then m.rateUpdate else m) hdo
    have hrates : (s.m.setRates [s.m.ratePut e]).ep.rates = [s.m.ratePut e] := by rw [Mach.ep_setRates]
    refine ⟨_, hrun, hrates.trans ?_, ?_, Mach.regsKept_setRates _ _ _ (by simp [pageWord]), Mach.rf_sx_setRates .., rfl, rfl⟩
    · split
      · rename_i hm
        exact congrArg (fun e => [e]) (Mach.rateStep_marked _ _ _ _ _ hn hm _ rfl)
      · rename_i hm
        exact congrArg (fun e => [e]) (Mach.rateStep_unmarked _ _ _ _ _ hn hm _ rfl)
    · rw [hrates, Mach.setRates, Mach.setFld_bare]

end Sys2Proof.Machine
end

section
/-! O27: the sources of the shed level and the effective level (R566 to R570, R577). -/

set_option Elab.async false

namespace Sys2Proof.Machine
open Sys2Proof

namespace Mach

/-! ### Fields with one copy -/

/-- A field of a word that is neither RWS nor stored three times governs as it stands. -/
theorem fld_eq_stored (m : Mach) (c : Chip) (page : Nat) (f : Fld) (hrws : (info m.epParams c (item page 0 f.off)).rws = 0)
    (htmr : tmrBits c (item page 0 f.off) = 0) : m.fld c page f = m.stored c page f := by
  rw [fld, live_of_not_rws m c hrws htmr, stored]

theorem shedLevel_eq (m : Mach) : m.shedLevel = m.stored .sx Pg.power F.pwrShedStatus_level :=
  fld_eq_stored m .sx Pg.power _ rfl (by decide)

/-! ### The sources (R566) -/

/-- From `m` to `n` the sources, their levels' fields and what follows the shed level change. -/
structure sheds (m n : Mach) (f : Nat → Bool) : Prop where
  bare : n.bare = { m.bare with power := n.power, mem := { m.mem with selfRefresh := n.mem.selfRefresh } }
  regs : m.regsKept n .sx f
  rf_ep : n.rf .ep = m.rf .ep

section
variable {m n : Mach} {f : Nat → Bool}

theorem sheds_refl (m : Mach) (f : Nat → Bool) : m.sheds m f := ⟨rfl, .refl .., rfl⟩

theorem sheds.mem (h : m.sheds n f) : n.mem = { m.mem with selfRefresh := n.mem.selfRefresh } := by
  have hmem : n.bare.mem = _ := congrArg Mach.mem h.bare
  exact hmem

theorem sheds.time (h : m.sheds n f) : n.time = m.time := by
  have htime : n.bare.time = _ := congrArg Mach.time h.bare
  exact htime

theorem sheds.trans {o : Mach} (h : m.sheds n f) (g : n.sheds o f) : m.sheds o f where
  bare := by rw [g.bare, h.bare, h.mem]
  regs := h.regs.trans g.regs
  rf_ep := g.rf_ep.trans h.rf_ep

theorem sheds.mono (h : m.sheds n f) {g : Nat → Bool} (hfg : ∀ k, f k = true → g k = true) : m.sheds n g :=
  ⟨h.bare, h.regs.mono fun k hk => by
    cases hf : f k with
    | false => rfl
    | true => rw [hfg k hf] at hk; exact hk, h.rf_ep⟩

theorem power_of_bare (h : n.bare = m.bare) : n.power = m.power := by
  have hp : n.bare.power = m.bare.power := by rw [h]
  exact hp

theorem mem_of_bare (h : n.bare = m.bare) : n.mem = m.mem := by
  have hp : n.bare.mem = m.bare.mem := by rw [h]
  exact hp

theorem sheds_of_touches (h : m.touches n .sx f) : m.sheds n f where
  bare := by rw [h.1, power_of_bare h.1, mem_of_bare h.1]; rfl
  regs := h.2.1
  rf_ep := h.2.2

theorem sheds_setPower (m : Mach) (p : PowerRun) (f : Nat → Bool) : m.sheds (m.setPower p) f := ⟨rfl, ⟨rfl, fun _ _ => rfl⟩, rfl⟩

end

/-- The field of a source's level; the floor has none of its own. -/
def srcFld : Nat → Option Fld
  | 0 => some F.pwrShedStatus_vLevel
  | 1 => some F.pwrShedStatus_brkLevel
  | 2 => none
  | 3 => some F.pwrShedStatus_capLevel
  | _ => some F.pwrShedStatus_tLevel

/-- A source in the power page's state. -/
def putSrc (p : PowerRun) (i : Nat) (x : ShedSrc) : PowerRun :=
  match i with
  | 0 => { p with volt := x }
  | 1 => { p with brk := x }
  | 2 => { p with floor := x }
  | 3 => { p with cap := x }
  | _ => { p with therm := x }

section
variable (m : Mach) (i : Nat) (x : ShedSrc)

theorem setShedSrc_eq : m.setShedSrc i x = match srcFld i with
    | some f => (m.setPower (putSrc m.power i x)).setFld .sx Pg.power f x.level
    | none => m.setPower (putSrc m.power i x) := by
  match i with
  | 0 | 1 | 2 | 3 => rfl
  | _ + 4 => rfl

theorem setShedSrc_bare : (m.setShedSrc i x).bare = (m.setPower (putSrc m.power i x)).bare := by
  rw [setShedSrc_eq]
  split
  · exact setFld_bare ..
  · rfl

theorem setShedSrc_power : (m.setShedSrc i x).power = putSrc m.power i x := power_of_bare (setShedSrc_bare ..)

/-- The word of the sources' levels. -/
def shedWord (k : Nat) : Bool := pageWord Pg.power R.pwrShedStatus k

theorem setShedSrc_touches : (m.setPower (putSrc m.power i x)).touches (m.setShedSrc i x) .sx shedWord := by
  rw [setShedSrc_eq]
  match i with
  | 0 | 1 | 3 => exact touches_setFld _ _ _ _ _ (by decide)
  | 2 => exact touches_refl ..
  | _ + 4 => exact touches_setFld _ _ _ _ _ (by decide)

theorem setShedSrc_sheds : m.sheds (m.setShedSrc i x) shedWord :=
  (sheds_setPower ..).trans (sheds_of_touches (setShedSrc_touches ..))

/-- A source's field lies beside the effective level's. -/
theorem setShedSrc_shedLevel : (m.setShedSrc i x).shedLevel = m.shedLevel := by
  have hother (f : Fld) (n : Mach) (hoff : F.pwrShedStatus_level.off = f.off) (hlo : 3 ≤ f.lo) (hf : f.lo + f.w ≤ 32) :
      (n.setFld .sx Pg.power f x.level).stored .sx Pg.power F.pwrShedStatus_level
        = n.stored .sx Pg.power F.pwrShedStatus_level := stored_setFld_other _ _ _ _ _ _ hf hoff (.inl hlo)
  rw [shedLevel_eq, shedLevel_eq, setShedSrc_eq]
  match i with
  | 0 | 1 | 3 => exact hother _ _ rfl (by decide) (by decide)
  | 2 => rfl
  | _ + 4 => exact hother _ _ rfl (by decide) (by decide)

/-- Setting one of the five sources sets it alone. -/
theorem shedSrc_setShedSrc (hi : i < 5) (j : Nat) (hj : j < 5) : (m.setShedSrc i x).shedSrc j = if i = j then x else m.shedSrc j := by
  have hget (n : Mach) (h : n.power = putSrc m.power i x) : n.shedSrc j = if i = j then x else m.shedSrc j := by
    interval_cases i <;> interval_cases j <;> simp only [shedSrc, h, putSrc] <;> rfl
  exact hget _ (setShedSrc_power ..)

/-- A source that is asked for a level. -/
def askedSrc (cond : Nat) : ShedSrc :=
  let seen := (m.shedSrc i).seen.mapIdx fun n t => if n ≤ (m.shedSrc i).cond ∧ cond < n then m.time.number else t
  if (m.shedSrc i).level < cond then { m.shedSrc i with cond := cond, seen := seen, level := cond, risen := true }
  else { m.shedSrc i with cond := cond, seen := seen }

theorem shedAsk_eq (cond : Nat) : m.shedAsk i cond = m.setShedSrc i (m.askedSrc i cond) := rfl

theorem askedSrc_spec (cond : Nat) : (m.askedSrc i cond).cond = cond ∧ (m.askedSrc i cond).level = max (m.shedSrc i).level cond ∧
    (m.askedSrc i cond).risen = ((m.shedSrc i).risen || decide ((m.shedSrc i).level < cond)) ∧
    (m.askedSrc i cond).changed = (m.shedSrc i).changed := by
  unfold askedSrc
  dsimp only
  split
  · rename_i h
    exact ⟨rfl, (Nat.max_eq_right (Nat.le_of_lt h)).symm, by simp [h], rfl⟩
  · rename_i h
    exact ⟨rfl, (Nat.max_eq_left (Nat.not_lt.1 h)).symm, by simp [h], rfl⟩

end

/-! ### PWRBRK_N (R570, R625) -/

/-- Words of the chip, power and trace pages. -/
def brkWord (k : Nat) : Bool := itemPage k == Pg.power || itemPage k == Pg.chip || itemPage k == Pg.trace

theorem brkWord_of_event {p k : Nat} (hp : p = Pg.power ∨ p = Pg.chip) (h : eventWord p k = true) : brkWord k = true := by
  simp only [eventWord, Bool.or_eq_true, Bool.and_eq_true, beq_iff_eq] at h
  simp only [brkWord, Bool.or_eq_true, beq_iff_eq]
  obtain h | ⟨⟨h, -⟩, -⟩ := h
  · exact .inr h
  · exact .inl (h ▸ hp)

theorem brkWord_of_shed {k : Nat} (h : shedWord k = true) : brkWord k = true := by
  rw [beq_iff_eq.1 h]; decide

/-- Showing CHATTER of PWRBRK_N or RESET_N. -/
theorem showChatter_touches (m : Mach) (i : Nat) (hi : i / 64 ≤ 1) : m.touches (m.showChatter i) .sx brkWord := by
  unfold showChatter
  obtain h | h : i / 64 = 0 ∨ i / 64 = 1 := by omega
  · rw [h]
    exact (touches_setFld _ _ _ _ _ (by decide)).trans (touches_setFld _ _ _ _ _ (by decide))
  · rw [h]
    exact touches_setFld _ _ _ _ _ (by decide)

/-- Counted changes of an input: its window and CHATTER. -/
theorem pinChanges_frame (m : Mach) (i n : Nat) (hi : i / 64 ≤ 1) :
    ∃ w l, Mach.touches { m with changes := w, chatter := l } (m.pinChanges i n).1 .sx brkWord := by
  unfold pinChanges
  split
  · exact ⟨_, _, touches_refl ..⟩
  · dsimp only
    split
    · refine ⟨_, _, (showChatter_touches _ i hi).trans ((touches_setWord _ _ _ _ (by decide)).trans
        ((touches_raise ..).mono fun k hk => brkWord_of_event (.inr rfl) hk))⟩
    · exact ⟨_, _, touches_refl ..⟩

/-- PWRBRK_N taken as asserted. -/
def brkAsserted (m : Mach) : Mach := m.setPower { m.power with brkSince := some (m.power.brkSince.getD m.time.number) }

theorem brkUpdate_asserted {m : Mach} (h : m.power.brkPin = true) :
    m.brkUpdate = m.brkAsserted.setShedSrc 1 (m.brkAsserted.askedSrc 1 (max m.power.brk.cond 1)) := if_pos (.inl h)

theorem touches.setPower {m n : Mach} {f : Nat → Bool} (h : m.touches n .sx f) (p : PowerRun) :
    (m.setPower p).touches (n.setPower p) .sx f :=
  ⟨congrArg (fun x : Mach => { x with power := p }) h.1, h.2.1, h.2.2⟩

theorem touches.power {m n : Mach} {f : Nat → Bool} (h : m.touches n .sx f) : n.power = m.power := power_of_bare h.1

theorem touches.time {m n : Mach} {f : Nat → Bool} (h : m.touches n .sx f) : n.time = m.time := time_of_bare h.1

/-- PWRBRK_N begins to be asserted: it asks for level 1 at once. -/
theorem pwrbrk_spec {m : Mach} (hpin : m.power.brkPin = false) (hsince : m.power.brkSince = none) :
    ∃ w l x, Mach.touches { m with
        changes := w, chatter := l, power := { m.power with brkPin := true, brkSince := some m.time.number, brk := x } }
        (m.pwrbrk true) .sx brkWord ∧
      x.level = max m.power.brk.level (max m.power.brk.cond 1) ∧
      (m.pwrbrk true).stored .sx Pg.chip F.chpPinStatus_pwrbrk = 1 := by
  have hne : ¬true = m.power.brkPin := by rw [hpin]; decide
  obtain ⟨w, l, htouch⟩ := pinChanges_frame m inPwrbrk 1 (by decide)
  obtain ⟨a, ha⟩ : ∃ a, a = (m.pinChanges inPwrbrk 1).1 := ⟨_, rfl⟩
  rw [← ha] at htouch
  obtain ⟨b, hb⟩ : ∃ b, b = (a.setPower { a.power with brkPin := true }).setFld .sx Pg.chip F.chpPinStatus_pwrbrk 1 := ⟨_, rfl⟩
  have hdo : m.pwrbrk true = b.brkUpdate := by
    rw [hb, ha]
    unfold pwrbrk
    rw [if_neg hne]
    rfl
  have htouchb := (htouch.setPower { a.power with brkPin := true }).trans
    (touches_setFld (a.setPower { a.power with brkPin := true }) .sx Pg.chip F.chpPinStatus_pwrbrk 1 (g := brkWord) (by decide))
  rw [← hb] at htouchb
  have hpow : b.power = { m.power with brkPin := true } := by rw [htouchb.power, htouch.power]; rfl
  have htime : b.time = m.time := htouchb.time
  have hasrt : b.brkAsserted.power = { m.power with brkPin := true, brkSince := some m.time.number } := by
    rw [brkAsserted, hpow, htime, hsince]; rfl
  obtain ⟨x, hx⟩ : ∃ x, x = b.brkAsserted.askedSrc 1 (max b.power.brk.cond 1) := ⟨_, rfl⟩
  have hlevel : x.level = max m.power.brk.level (max m.power.brk.cond 1) := by
    rw [hx, (askedSrc_spec ..).2.1, shedSrc, hasrt, hpow]
  have hset : m.pwrbrk true = b.brkAsserted.setShedSrc 1 x := by
    rw [hdo, brkUpdate_asserted (by rw [hpow]), hx]
  have hsrc := setShedSrc_touches b.brkAsserted 1 x
  rw [hasrt] at hsrc
  refine ⟨w, l, x, ?_, hlevel, ?_⟩
  · rw [hset]
    exact (htouchb.setPower _).trans (hsrc.mono fun _ hk => brkWord_of_shed hk)
  · rw [hset, stored_of_kept hsrc.2.1 _ _ (by decide)]
    change b.stored .sx Pg.chip F.chpPinStatus_pwrbrk = 1
    rw [hb, stored_setFld _ _ _ _ _ (by decide)]
    rfl

theorem pwrbrkHold_none {m : Mach} {t : Nat} (h : m.power.brkSince = some t) (hlate : m.time.number < t + 2000) :
    m.pwrbrkHold = m := by
  have h1 : ¬t + 2000 ≤ m.time.number := by omega
  have h2 : ¬(t + 2000000 ≤ m.time.number ∧ (!m.power.stuck) = true) := fun h => by omega
  unfold pwrbrkHold
  rw [h]
  dsimp only
  rw [if_neg h1, if_neg h2]

/-- PWRBRK_N held: level 2 after 1 ms, stuck after 1 s. -/
theorem pwrbrkHold_spec {m : Mach} {t : Nat} (h : m.power.brkSince = some t) (hlate : t + 2000 ≤ m.time.number) :
    ∃ x b, Mach.touches { m with power := { m.power with brk := x, stuck := b } } m.pwrbrkHold .sx
        (fun k => shedWord k || eventWord Pg.power k) ∧ x.level = max m.power.brk.level 2 ∧
      (t + 2000000 ≤ m.time.number → b = true ∧ (m.power.stuck = false → m.pwrbrkHold.event .sx Pg.power 1 = true)) := by
  have hsrc := setShedSrc_touches m 1 (m.askedSrc 1 2)
  have hlevel : (m.askedSrc 1 2).level = max m.power.brk.level 2 := (askedSrc_spec ..).2.1
  obtain ⟨a, ha⟩ : ∃ a, a = m.setShedSrc 1 (m.askedSrc 1 2) := ⟨_, rfl⟩
  rw [← ha] at hsrc
  have hstuck : a.power.stuck = m.power.stuck := by rw [hsrc.power]; rfl
  have htime : a.time = m.time := hsrc.time
  have hdo : m.pwrbrkHold = if t + 2000000 ≤ m.time.number ∧ !m.power.stuck then
      (a.setPower { a.power with stuck := true }).raise .sx Pg.power 1 0 else a := by
    rw [← htime, ← hstuck, ha, ← shedAsk_eq]
    unfold pwrbrkHold
    rw [h]
    dsimp only
    rw [if_pos hlate]
  have hmono := hsrc.mono (g := fun k => shedWord k || eventWord Pg.power k) fun k hk => by simp [hk]
  rw [hdo]
  split
  · rename_i hs
    refine ⟨m.askedSrc 1 2, true, ?_, hlevel, fun _ => ⟨rfl, fun _ => event_raise _ _ _ _ _ _ _ (by decide) (.inr ⟨rfl, rfl⟩)⟩⟩
    have hp : a.power = { m.power with brk := m.askedSrc 1 2 } := hsrc.power
    rw [hp]
    exact (hmono.setPower _).trans ((touches_raise ..).mono fun k hk => by simp [hk])
  · rename_i hs
    refine ⟨m.askedSrc 1 2, m.power.stuck, hmono, hlevel, fun hsec => ?_⟩
    have hwas : m.power.stuck = true := by
      cases hm : m.power.stuck with
      | true => rfl
      | false => exact absurd ⟨hsec, by rw [hm]; rfl⟩ hs
    exact ⟨hwas, fun hno => absurd (hwas.symm.trans hno) (by decide)⟩

/-! ### Rise and fall in the hem (R566) -/

section
variable (m : Mach) (p : ShedSrc → Bool) (g : ShedSrc → ShedSrc)

/-- A source moves in its hem when `p` has it move. -/
def srcStep (n : Mach) (i : Nat) : Mach := if p (n.shedSrc i) then n.setShedSrc i (g (n.shedSrc i)) else n

/-- The sources move one after another, each by its own state. -/
theorem srcSteps (k : Nat) (hk : k ≤ 5) :
    m.sheds ((List.range k).foldl (srcStep p g) m) shedWord ∧
      ((List.range k).foldl (srcStep p g) m).shedLevel = m.shedLevel ∧
      ((List.range k).foldl (srcStep p g) m).mem = m.mem ∧
      ∀ j, j < 5 → ((List.range k).foldl (srcStep p g) m).shedSrc j
        = if j < k ∧ p (m.shedSrc j) = true then g (m.shedSrc j) else m.shedSrc j := by
  induction k with
  | zero => exact ⟨sheds_refl .., rfl, rfl, fun j _ => (if_neg fun h => absurd h.1 (Nat.not_lt_zero j)).symm⟩
  | succ k ih =>
    obtain ⟨hframe, hlevel, hmem, hsrc⟩ := ih (by omega)
    rw [List.range_succ, List.foldl_append, List.foldl_cons, List.foldl_nil]
    obtain ⟨n, hn⟩ : ∃ n, n = (List.range k).foldl (srcStep p g) m := ⟨_, rfl⟩
    rw [← hn] at hframe hlevel hmem hsrc ⊢
    have hk' : n.shedSrc k = m.shedSrc k := by rw [hsrc k (by omega), if_neg fun h => absurd h.1 (Nat.lt_irrefl k)]
    unfold srcStep
    rw [hk']
    split
    · rename_i hp
      refine ⟨hframe.trans (setShedSrc_sheds ..), (setShedSrc_shedLevel ..).trans hlevel, ?_, fun j hj => ?_⟩
      · rw [mem_of_bare (setShedSrc_bare ..)]; exact hmem
      · rw [shedSrc_setShedSrc _ _ _ (by omega) j hj, hsrc j hj]
        by_cases hjk : k = j
        · subst hjk
          rw [if_pos rfl, if_pos ⟨Nat.lt_succ_self k, hp⟩]
        · rw [if_neg hjk]
          have : (j < k ∧ p (m.shedSrc j) = true) ↔ (j < k + 1 ∧ p (m.shedSrc j) = true) :=
            and_congr_left' (by omega)
          simp only [this]
    · rename_i hp
      refine ⟨hframe, hlevel, hmem, fun j hj => ?_⟩
      rw [hsrc j hj]
      by_cases hjk : k = j
      · subst hjk
        rw [if_neg fun h => hp h.2, if_neg fun h => hp h.2]
      · have : (j < k ∧ p (m.shedSrc j) = true) ↔ (j < k + 1 ∧ p (m.shedSrc j) = true) :=
            and_congr_left' (by omega)
        simp only [this]

end

/-- Words that trace records write. -/
def traceWord (k : Nat) : Bool := itemPage k == Pg.trace

theorem touches_trace (m : Mach) (p t b d : Nat) : m.touches (m.trace p t b d) .sx traceWord := by
  have hmono {f : Nat → Bool} (h : m.regsKept (m.trace p t b d) .sx f) (hf : ∀ k, f k = true → traceWord k = true) :
      m.regsKept (m.trace p t b d) .sx traceWord := h.mono fun k hk => by
    cases hfk : f k with
    | false => rfl
    | true => rw [hf k hfk] at hk; exact hk
  refine ⟨trace_bare .., hmono (regsKept_trace m p t b d Pg.trace) fun k hk => ?_, rf_trace_ep ..⟩
  simp only [eventWord, Bool.or_eq_true, Bool.and_eq_true] at hk
  exact hk.elim id fun h => h.1.1

theorem touches_traces {α : Type} (m : Mach) (f : Mach → α → Mach) (hf : ∀ n a, Mach.touches n (f n a) .sx traceWord) (l : List α) :
    m.touches (l.foldl f m) .sx traceWord :=
  foldl_inv (fun n => m.touches n .sx traceWord) f (fun n a hn => hn.trans (hf n a)) l (touches_refl ..)

theorem touches_refreshTrace (m : Mach) (type : Nat) : m.touches (m.refreshTrace type) .sx traceWord :=
  touches_traces m _ (fun n s => touches_trace n (Pg.cluster s) type 0 0) _

/-- The new level as PWR_SHED_STATUS and its counter show it. -/
def levelShown (m : Mach) (level : Nat) : Mach :=
  let m := if m.shedLevel = 0 then m.setPower { m.power with lostAt := m.reg .sx Pg.trace R.trcLostCnt } else m
  let m := m.setFld .sx Pg.power F.pwrShedStatus_level level
  if level = 0 then m else m.bump .sx Pg.power (R.pwrShed1Cnt + 4 * (level - 1))

/-- A record traced where `b` asks for it. -/
def traceWhen (m : Mach) (b : Bool) (p t d : Nat) : Mach := if b then m.trace p t 0 d else m

/-- Self-refresh ends below level 4. -/
def refreshEnded (m : Mach) (level : Nat) : Mach :=
  if m.mem.selfRefresh ∧ level < 4 then (m.setMem { m.mem with selfRefresh := false }).refreshTrace 3 else m

/-- Records lost while shedding. -/
def lostTraced (m : Mach) (level : Nat) : Mach :=
  let lost := m.reg .sx Pg.trace R.trcLostCnt - m.power.lostAt
  if level = 0 ∧ lost ≠ 0 then m.trace Pg.trace 8 0 (min lost 65535) else m

/-- The trace records of a change of level, and the end of self-refresh. -/
def levelTraced (m : Mach) (old level : Nat) : Mach :=
  ((((m.trace Pg.power 6 0 level).traceWhen (decide (old < 2 ∧ 2 ≤ level)) Pg.pleat 2 0).traceWhen
    (decide (2 ≤ old ∧ level < 2)) Pg.pleat 3 0).refreshEnded level).lostTraced level

theorem setEffective_eq (m : Mach) (level : Nat) : m.setEffective level =
    if level = m.shedLevel then m else ((m.levelShown level).levelTraced m.shedLevel level).raise .sx Pg.power 0 0 := by
  unfold setEffective levelTraced traceWhen refreshEnded lostTraced levelShown
  simp only [decide_eq_true_eq]

theorem shedSrc_congr {m n : Mach} (h : n.power = m.power) (i : Nat) : n.shedSrc i = m.shedSrc i := by
  match i with
  | 0 | 1 | 2 | 3 => simp only [shedSrc, h]
  | _ + 4 => simp only [shedSrc, h]

theorem touches.setMem {m n : Mach} {f : Nat → Bool} (h : m.touches n .sx f) (x : MemSt) :
    (m.setMem x).touches (n.setMem x) .sx f :=
  ⟨congrArg (fun y : Mach => { y with mem := x }) h.1, h.2.1, h.2.2⟩

theorem touches_traceWhen (m : Mach) (b : Bool) (p t d : Nat) : m.touches (m.traceWhen b p t d) .sx traceWord := by
  cases b with
  | true => exact touches_trace ..
  | false => exact touches_refl ..

theorem touches_lostTraced (m : Mach) (level : Nat) : m.touches (m.lostTraced level) .sx traceWord := by
  unfold lostTraced
  dsimp only
  split
  · exact touches_trace ..
  · exact touches_refl ..

theorem refreshEnded_spec (m : Mach) (level : Nat) :
    ∃ b, Mach.touches (m.setMem { m.mem with selfRefresh := b }) (m.refreshEnded level) .sx traceWord ∧ (level < 4 → b = false) := by
  unfold refreshEnded
  split
  · exact ⟨false, touches_refreshTrace .., fun _ => rfl⟩
  · rename_i hno
    refine ⟨m.mem.selfRefresh, touches_refl .., fun hlt => ?_⟩
    cases hb : m.mem.selfRefresh with
    | false => rfl
    | true => exact absurd ⟨hb, hlt⟩ hno

theorem levelTraced_spec (m : Mach) (old level : Nat) :
    ∃ b, Mach.touches (m.setMem { m.mem with selfRefresh := b }) (m.levelTraced old level) .sx traceWord ∧
      (level < 4 → b = false) := by
  have h₃ := ((touches_trace m Pg.power 6 0 level).trans (touches_traceWhen _ (decide (old < 2 ∧ 2 ≤ level)) Pg.pleat 2 0)).trans
    (touches_traceWhen _ (decide (2 ≤ old ∧ level < 2)) Pg.pleat 3 0)
  unfold levelTraced
  obtain ⟨a, ha⟩ : ∃ a, a = ((m.trace Pg.power 6 0 level).traceWhen (decide (old < 2 ∧ 2 ≤ level)) Pg.pleat 2 0).traceWhen
    (decide (2 ≤ old ∧ level < 2)) Pg.pleat 3 0 := ⟨_, rfl⟩
  rw [← ha] at h₃ ⊢
  obtain ⟨b, hended, hb⟩ := a.refreshEnded_spec level
  rw [mem_of_bare h₃.1] at hended
  exact ⟨b, ((h₃.setMem _).trans hended).trans (touches_lostTraced ..), hb⟩

theorem levelShown_spec (m : Mach) {level : Nat} (hlevel : level ≤ 4) :
    ∃ lost, Mach.touches (m.setPower { m.power with lostAt := lost }) (m.levelShown level) .sx
        (fun k => itemPage k == Pg.power) ∧
      (m.levelShown level).shedLevel = level ∧
      (level ≠ 0 → m.counted (m.levelShown level) .sx Pg.power (R.pwrShed1Cnt + 4 * (level - 1))) := by
  obtain ⟨a, ha⟩ : ∃ a, a = if m.shedLevel = 0 then m.setPower { m.power with lostAt := m.reg .sx Pg.trace R.trcLostCnt } else m :=
    ⟨_, rfl⟩
  have hlost : ∃ lost, Mach.touches (m.setPower { m.power with lostAt := lost }) a .sx (fun k => itemPage k == Pg.power) := by
    rw [ha]
    split
    · exact ⟨_, touches_refl ..⟩
    · exact ⟨m.power.lostAt, touches_refl ..⟩
  obtain ⟨lost, hlost⟩ := hlost
  have hword (k : Nat) : a.word .sx k = m.word .sx k := by rw [ha]; split <;> rfl
  obtain ⟨b, hb⟩ : ∃ b, b = a.setFld .sx Pg.power F.pwrShedStatus_level level := ⟨_, rfl⟩
  have hset : a.touches b .sx (fun k => itemPage k == Pg.power) := by rw [hb]; exact touches_setFld _ _ _ _ _ (by decide)
  have hstored : b.stored .sx Pg.power F.pwrShedStatus_level = level := by
    rw [hb, stored_setFld _ _ _ _ _ (by decide)]
    exact Nat.mod_eq_of_lt (by simp [F.pwrShedStatus_level]; omega)
  have hdo : m.levelShown level = if level = 0 then b else b.bump .sx Pg.power (R.pwrShed1Cnt + 4 * (level - 1)) := by
    rw [hb, ha]; rfl
  have hcnt : R.pwrShed1Cnt + 4 * (level - 1) < 2 ^ 44 := by simp [R.pwrShed1Cnt]; omega
  have hne : R.pwrShed1Cnt + 4 * (level - 1) ≠ F.pwrShedStatus_level.off := by
    simp [R.pwrShed1Cnt, F.pwrShedStatus_level]; omega
  refine ⟨lost, ?_, ?_, fun h0 => ?_⟩
  · rw [hdo]
    refine (hlost.trans hset).trans ?_
    split
    · exact touches_refl ..
    · exact touches_setWord _ _ _ _ (by simp [item_page _ _ _ hcnt])
  · rw [shedLevel_eq, hdo]
    split
    · exact hstored
    · rw [stored, bump, bumpBy, word_setWord, if_neg fun h => hne ((item_inj (by decide) hcnt (by decide) (by decide)).1 h).2.2.symm]
      exact hstored
  · rw [hdo, if_neg h0, counted, word_bump, hb, word_setFld,
      if_neg fun h => hne ((item_inj hcnt (by decide) (by decide) (by decide)).1 h).2.2, hword]

/-- The effective level after a change. -/
theorem setEffective_spec (m : Mach) {level : Nat} (hlevel : level ≤ 4) :
    ∃ lost b, Mach.touches (m.setPower { m.power with lostAt := lost } |>.setMem { m.mem with selfRefresh := b })
        (m.setEffective level) .sx (fun k => itemPage k == Pg.power || itemPage k == Pg.trace) ∧
      (m.setEffective level).shedLevel = level ∧ (level < m.shedLevel → level < 4 → b = false) ∧
      (level ≠ m.shedLevel → (m.setEffective level).event .sx Pg.power 0 = true ∧
        (level ≠ 0 → m.counted (m.setEffective level) .sx Pg.power (R.pwrShed1Cnt + 4 * (level - 1)))) := by
  rw [setEffective_eq]
  split
  · rename_i h
    exact ⟨m.power.lostAt, m.mem.selfRefresh, touches_refl .., h.symm, fun hlt => absurd hlt (by omega), fun hne => absurd h hne⟩
  · obtain ⟨lost, hshown, hlvl, hcount⟩ := m.levelShown_spec hlevel
    obtain ⟨a, ha⟩ : ∃ a, a = m.levelShown level := ⟨_, rfl⟩
    rw [← ha] at hshown hlvl hcount ⊢
    obtain ⟨b, htraced, hb⟩ := a.levelTraced_spec m.shedLevel level
    obtain ⟨n, hn⟩ : ∃ n, n = a.levelTraced m.shedLevel level := ⟨_, rfl⟩
    rw [← hn] at htraced ⊢
    have hmem : a.mem = m.mem := (mem_of_bare hshown.1).trans rfl
    rw [hmem] at htraced
    have hpage {k : Nat} (hk : itemPage k = Pg.power) (he : eventWord Pg.power k = false) :
        (n.raise .sx Pg.power 0 0).word .sx k = a.word .sx k := by
      rw [word_raise _ _ _ _ _ _ he]
      exact htraced.2.1.2 k (by rw [traceWord, hk]; decide)
    refine ⟨lost, b, ?_, ?_, fun _ => hb, fun _ => ⟨event_raise _ _ _ _ _ _ _ (by decide) (.inr ⟨rfl, rfl⟩), fun h0 => ?_⟩⟩
    · refine (((hshown.setMem _).mono fun k hk => ?_).trans (htraced.mono fun k hk => ?_)).trans ((touches_raise ..).mono fun k hk => ?_)
      · simp only [hk, Bool.true_or]
      · rw [traceWord] at hk
        simp only [hk, Bool.or_true]
      · simp only [eventWord, Bool.or_eq_true, Bool.and_eq_true] at hk
        rw [Bool.or_eq_true]
        exact hk.elim .inr fun h => .inl h.1.1
    · rw [shedLevel_eq, stored, hpage (by decide) (by decide), ← stored, ← shedLevel_eq, hlvl]
    · have hcnt : R.pwrShed1Cnt + 4 * (level - 1) < 2 ^ 44 := by simp [R.pwrShed1Cnt]; omega
      rw [counted, hpage (item_page _ _ _ hcnt (by decide)), hcount h0]
      refine eventWord_none _ _ _ hcnt (by decide) ?_
      interval_cases level <;> decide

theorem setEffective_sheds (m : Mach) {level : Nat} (hlevel : level ≤ 4) :
    m.sheds (m.setEffective level) (fun k => itemPage k == Pg.power || itemPage k == Pg.trace) := by
  obtain ⟨lost, b, htouch, -⟩ := m.setEffective_spec hlevel
  refine Mach.sheds.trans (n := m.setPower { m.power with lostAt := lost } |>.setMem { m.mem with selfRefresh := b })
    ⟨rfl, ⟨rfl, fun _ _ => rfl⟩, rfl⟩ (sheds_of_touches htouch)

theorem setEffective_refresh (m : Mach) {level : Nat} (hlevel : level ≤ 4) (hlt : level < m.shedLevel) (h4 : level < 4) :
    (m.setEffective level).mem.selfRefresh = false := by
  obtain ⟨lost, b, htouch, -, hb, -⟩ := m.setEffective_spec hlevel
  have hmem : (m.setEffective level).mem = { m.mem with selfRefresh := b } := mem_of_bare htouch.1
  rw [hmem]
  exact hb hlt h4

theorem setEffective_src (m : Mach) {level : Nat} (hlevel : level ≤ 4) (i : Nat) : (m.setEffective level).shedSrc i = m.shedSrc i := by
  obtain ⟨lost, b, htouch, -⟩ := m.setEffective_spec hlevel
  have hp : (m.setEffective level).power = { m.power with lostAt := lost } := power_of_bare htouch.1
  match i with
  | 0 | 1 | 2 | 3 => simp only [shedSrc, hp]
  | _ + 4 => simp only [shedSrc, hp]

/-- The model's turn of the sources, where what moves them depends on the time alone. -/
theorem srcFold_eq (m : Mach) (f : Mach → Nat → Mach) (p : ShedSrc → Bool) (g : ShedSrc → ShedSrc)
    (hf : ∀ n i, n.time = m.time → f n i = srcStep p g n i) :
    (List.range 5).foldl f m = (List.range 5).foldl (srcStep p g) m := by
  have hall (k : Nat) (hk : k ≤ 5) : (List.range k).foldl f m = (List.range k).foldl (srcStep p g) m := by
    induction k with
    | zero => rfl
    | succ k ih =>
      simp only [List.range_succ, List.foldl_append, List.foldl_cons, List.foldl_nil]
      rw [ih (by omega)]
      exact hf _ _ (m.srcSteps p g k (by omega)).1.time
  exact hall 5 (Nat.le_refl 5)

theorem shedTop_congr {m n : Mach} (h : ∀ i, i < 5 → (n.shedSrc i).level = (m.shedSrc i).level) : n.shedTop = m.shedTop :=
  List.foldl_ext _ _ _ fun a i hi => by rw [h i (List.mem_range.1 hi)]

theorem shedTop_le {m : Mach} (h : ∀ i, i < 5 → (m.shedSrc i).level ≤ 4) : m.shedTop ≤ 4 := by
  have hall : ∀ (l : List Nat) (a : Nat), (∀ i ∈ l, i < 5) → a ≤ 4 → l.foldl (fun a i => max a (m.shedSrc i).level) a ≤ 4 := by
    intro l
    induction l with
    | nil => exact fun a _ ha => ha
    | cons i l ih =>
      exact fun a hl ha => ih _ (fun j hj => hl j (List.mem_cons_of_mem _ hj)) (Nat.max_le.2 ⟨ha, h i (hl i (List.mem_cons_self ..))⟩)
  exact hall _ 0 (fun i hi => List.mem_range.1 hi) (by decide)

/-- A source that has risen takes its level in this hem. -/
def risenTo (now : Nat) (x : ShedSrc) : ShedSrc := { x with risen := false, changed := now + 1 }

/-- A source falls one level. -/
def fallenTo (now : Nat) (x : ShedSrc) : ShedSrc := { x with level := x.level - 1, changed := now }

/-- The sources after SHED_RISE. -/
def risen (m : Mach) : Mach := (List.range 5).foldl (srcStep (·.risen) (risenTo m.time.number)) m

/-- The sources after SHED_FALL. -/
def fallen (m : Mach) : Mach := (List.range 5).foldl (srcStep m.shedFalls (fallenTo m.time.number)) m

theorem shedRise_eq (m : Mach) : m.shedRise = m.risen.setEffective (max m.risen.shedLevel m.risen.shedTop) := by
  unfold shedRise
  rw [srcFold_eq m _ (·.risen) (risenTo m.time.number) fun n i h => by rw [h]; rfl]
  rfl

theorem shedFall_eq (m : Mach) : m.shedFall =
    if (List.range 5).any fun i => (m.fallen.shedSrc i).risen then m.fallen else m.fallen.setEffective m.fallen.shedTop := by
  unfold shedFall
  rw [srcFold_eq m _ m.shedFalls (fallenTo m.time.number) fun n i h => by
    rw [srcStep, show n.shedFalls = m.shedFalls from by unfold shedFalls; rw [h]]
    simp only [h]; rfl]
  rfl

theorem shedRise_spec {m : Mach} (hsrc : ∀ i, i < 5 → (m.shedSrc i).level ≤ 4) (hlevel : m.shedLevel ≤ 4) :
    m.shedRise.shedLevel = max m.shedLevel m.shedTop ∧
      (∀ i, i < 5 → m.shedRise.shedSrc i = if (m.shedSrc i).risen then risenTo m.time.number (m.shedSrc i) else m.shedSrc i) ∧
      (m.shedRise.shedLevel ≠ m.shedLevel → m.shedRise.event .sx Pg.power 0 = true ∧
        m.counted m.shedRise .sx Pg.power (R.pwrShed1Cnt + 4 * (m.shedRise.shedLevel - 1))) ∧
      m.sheds m.shedRise (fun k => itemPage k == Pg.power || itemPage k == Pg.trace) := by
  obtain ⟨hframe, hlvl, hmem, hsrcs⟩ := m.srcSteps (·.risen) (risenTo m.time.number) 5 (Nat.le_refl 5)
  rw [← risen] at hframe hlvl hsrcs
  have hsame (i : Nat) (hi : i < 5) : (m.risen.shedSrc i).level = (m.shedSrc i).level := by
    rw [hsrcs i hi]
    split <;> rfl
  have htop : m.risen.shedTop = m.shedTop := shedTop_congr hsame
  have hle : max m.shedLevel m.shedTop ≤ 4 := Nat.max_le.2 ⟨hlevel, shedTop_le hsrc⟩
  have hdo := m.shedRise_eq
  rw [hlvl, htop] at hdo
  obtain ⟨lost, b, htouch, hnew, -, hraised⟩ := m.risen.setEffective_spec hle
  have hsheds := m.risen.setEffective_sheds hle
  have hkeep := m.risen.setEffective_src hle
  rw [hdo]
  refine ⟨hnew, fun i hi => ?_, fun hne => ?_, ?_⟩
  · rw [hkeep, hsrcs i hi]
    exact if_congr ⟨fun h => h.2, fun h => ⟨hi, h⟩⟩ rfl rfl
  · rw [hnew] at hne ⊢
    obtain ⟨hevent, hcount⟩ := hraised (by rw [hlvl]; exact hne)
    refine ⟨hevent, ?_⟩
    have hc := hcount (by omega)
    rw [counted] at hc ⊢
    rw [hc, hframe.regs.2]
    have hcnt : R.pwrShed1Cnt + 4 * (max m.shedLevel m.shedTop - 1) < 2 ^ 44 := by simp [R.pwrShed1Cnt]; omega
    generalize max m.shedLevel m.shedTop = l at hle hcnt
    rw [shedWord, pageWord_item _ _ _ _ (by decide) hcnt]
    interval_cases l <;> decide
  · refine (hframe.mono fun k hk => ?_).trans hsheds
    rw [beq_iff_eq.1 hk]; decide


theorem shedFall_spec {m : Mach} (hsrc : ∀ i, i < 5 → (m.shedSrc i).level ≤ 4) (hlevel : m.shedLevel ≤ 4) :
    (∀ i, i < 5 → m.shedFall.shedSrc i
      = if m.shedFalls (m.shedSrc i) then fallenTo m.time.number (m.shedSrc i) else m.shedSrc i) ∧
      ((∀ i, i < 5 → (m.shedSrc i).risen = false) → m.shedFall.shedLevel = m.shedFall.shedTop) ∧
      ((∃ i, i < 5 ∧ (m.shedSrc i).risen = true) → m.shedFall.shedLevel = m.shedLevel) ∧
      m.sheds m.shedFall (fun k => itemPage k == Pg.power || itemPage k == Pg.trace) ∧
      (m.shedFall.shedLevel < m.shedLevel → m.shedFall.mem.selfRefresh = false) := by
  obtain ⟨hframe, hlvl, hmem, hsrcs⟩ := m.srcSteps m.shedFalls (fallenTo m.time.number) 5 (Nat.le_refl 5)
  rw [← fallen] at hframe hlvl hmem hsrcs
  have hmoved (i : Nat) (hi : i < 5) : m.fallen.shedSrc i
      = if m.shedFalls (m.shedSrc i) then fallenTo m.time.number (m.shedSrc i) else m.shedSrc i :=
    (hsrcs i hi).trans (if_congr ⟨fun h => h.2, fun h => ⟨hi, h⟩⟩ rfl rfl)
  have hrisen (i : Nat) (hi : i < 5) : (m.fallen.shedSrc i).risen = (m.shedSrc i).risen := by
    rw [hmoved i hi]
    split <;> rfl
  have hle (i : Nat) (hi : i < 5) : (m.fallen.shedSrc i).level ≤ 4 := by
    rw [hmoved i hi]
    split
    · exact (Nat.sub_le ..).trans (hsrc i hi)
    · exact hsrc i hi
  have hframe' := hframe.mono (g := fun k => itemPage k == Pg.power || itemPage k == Pg.trace) fun k hk => by
    rw [beq_iff_eq.1 hk]; decide
  rw [shedFall_eq]
  split
  · rename_i hany
    obtain ⟨i, hi, hr⟩ := List.any_eq_true.1 hany
    have hi := List.mem_range.1 hi
    rw [hrisen i hi] at hr
    refine ⟨hmoved, fun hno => absurd ((hno i hi).symm.trans hr) (by decide), fun _ => hlvl, hframe', fun hlt => ?_⟩
    rw [hlvl] at hlt
    exact absurd hlt (Nat.lt_irrefl _)
  · rename_i hany
    have htop : m.fallen.shedTop ≤ 4 := shedTop_le hle
    obtain ⟨-, -, -, hnew, -⟩ := m.fallen.setEffective_spec htop
    have hkeep := m.fallen.setEffective_src htop
    refine ⟨fun i hi => (hkeep i).trans (hmoved i hi), fun _ => ?_, fun hsome => ?_,
      hframe'.trans (m.fallen.setEffective_sheds htop), fun hlt => ?_⟩
    · rw [hnew]
      exact (shedTop_congr fun i _ => by rw [hkeep]).symm
    · obtain ⟨i, hi, hr⟩ := hsome
      exact absurd (List.any_eq_true.2 ⟨i, List.mem_range.2 hi, (hrisen i hi).trans hr⟩) hany
    · rw [hnew] at hlt
      exact m.fallen.setEffective_refresh htop (by rw [hlvl]; exact hlt) (by omega)

/-! ### Temperatures (R576, R577) -/

/-- The reading that PWR_THERM_STATUS shows. -/
def thermBest (m : Mach) : Option (Int × Nat) :=
  match m.power.die, m.power.hbm with
  | some a, some b => if a.1 < b.1 then some b else some a
  | some a, none => some a
  | none, b => b

/-- The hottest reading is shown. -/
def thermShown (m : Mach) : Mach :=
  match m.thermBest with
  | some b => (m.setFld .sx Pg.power F.pwrThermStatus_maxTemp (min b.1.toNat 255)).setFld .sx Pg.power F.pwrThermStatus_sensor b.2
  | none => m

/-- The level that triggers ask for. -/
def tripLevel (trips : List Bool) : Nat :=
  let t := fun i => trips.getD i false
  if t 2 then 4 else if t 1 || t 4 then 3 else if t 0 || t 3 then 2 else 0

theorem thermShow_eq (m : Mach) : m.thermShow = m.thermShown.shedAsk 4 (tripLevel m.thermShown.power.trips) := rfl

/-- Words of the thermal status. -/
def thermWord (k : Nat) : Bool := pageWord Pg.power R.pwrThermStatus k || shedWord k

theorem power_of_therm {k : Nat} (h : thermWord k = true) : (itemPage k == Pg.power) = true := by
  simp only [thermWord, shedWord, pageWord, Bool.or_eq_true, beq_iff_eq] at h
  obtain rfl | rfl := h <;> decide

theorem thermShown_touches (m : Mach) : m.touches m.thermShown .sx thermWord := by
  unfold thermShown
  split
  · exact (touches_setFld _ _ _ _ _ (by decide)).trans (touches_setFld _ _ _ _ _ (by decide))
  · exact touches_refl ..

theorem thermShow_spec (m : Mach) : ∃ x, Mach.touches (m.setPower { m.power with therm := x }) m.thermShow .sx thermWord ∧
    x.level = max m.power.therm.level (tripLevel m.power.trips) := by
  have hshown := m.thermShown_touches
  obtain ⟨a, ha⟩ : ∃ a, a = m.thermShown := ⟨_, rfl⟩
  rw [thermShow_eq, ← ha, shedAsk_eq]
  rw [← ha] at hshown
  have hp : a.power = m.power := hshown.power
  have hset := (setShedSrc_touches a 4 (a.askedSrc 4 (tripLevel a.power.trips))).mono (g := thermWord) fun k hk => by simp [thermWord, hk]
  refine ⟨a.askedSrc 4 (tripLevel a.power.trips), (hshown.setPower _).trans ?_, ?_⟩
  · rw [← hp]; exact hset
  · rw [(askedSrc_spec ..).2.1, hp, shedSrc_congr hp]; rfl

theorem driven_setShedSrc (m : Mach) (i : Nat) (x : ShedSrc) : (m.setShedSrc i x).driven = m.driven := by
  rw [setShedSrc_eq]
  split
  · exact driven_setFld ..
  · rfl

theorem driven_thermShow (m : Mach) : m.thermShow.driven = m.driven := by
  rw [thermShow_eq, shedAsk_eq, driven_setShedSrc]
  unfold thermShown
  split
  · rw [driven_setFld, driven_setFld]
  · rfl

/-- An event raised when its condition has begun. -/
def raiseWhen (m : Mach) (b : Bool) (i : Nat) : Mach := if b then m.raise .sx Pg.power i 0 else m

/-- THERMTRIP is driven. -/
def thermTripped (m : Mach) (T : Int) : Mach :=
  if 125 ≤ T ∧ !m.bit .sx Pg.power F.pwrThermStatus_trip then
    (((m.setFld .sx Pg.power F.pwrThermStatus_trip 1).setFld .sx Pg.chip F.chpPinStatus_thermtrip 1).emit .thermTrip).raise .sx
      Pg.power 5 0
  else m

/-- The triggers after a reading of the dies. -/
def dieTrips (m : Mach) (T : Int) : List Bool :=
  let was := m.power.trips
  [tripStep T m.tThrottle (was.getD 0 false), tripStep T (m.tThrottle + 5) (was.getD 1 false),
    tripStep T m.tCrit (was.getD 2 false), was.getD 3 false, was.getD 4 false]

theorem thermSample_eq (m : Mach) {ts : List Int} {T : Int} {i : Nat} (h : hottest 0 ts = some (T, i)) :
    m.thermSample ts = ((((m.setPower { m.power with trips := m.dieTrips T, die := some (T, i) }).raiseWhen
      (decide ((m.dieTrips T).getD 0 false ∧ !m.power.trips.getD 0 false)) 3).raiseWhen
      (decide ((m.dieTrips T).getD 2 false ∧ !m.power.trips.getD 2 false)) 4).thermTripped T).thermShow := by
  unfold thermSample
  rw [h]
  unfold raiseWhen thermTripped dieTrips
  simp only [decide_eq_true_eq]

/-- Words that a reading of the dies writes. -/
def dieWord (k : Nat) : Bool :=
  itemPage k == Pg.power || itemPage k == Pg.trace || pageWord Pg.chip F.chpPinStatus_thermtrip.off k

theorem dieWord_of_event {k : Nat} (h : eventWord Pg.power k = true) : dieWord k = true := by
  simp only [eventWord, Bool.or_eq_true, Bool.and_eq_true] at h
  simp only [dieWord, Bool.or_eq_true]
  exact h.elim (fun h => .inl (.inr h)) fun h => .inl (.inl h.1.1)

theorem raiseWhen_spec (m : Mach) (b : Bool) (i : Nat) (hi : i < 32) : m.touches (m.raiseWhen b i) .sx (eventWord Pg.power) ∧
    m.eventsKept (m.raiseWhen b i) ∧ (m.raiseWhen b i).driven = m.driven ∧
    (b = true → (m.raiseWhen b i).event .sx Pg.power i = true) := by
  unfold raiseWhen
  split
  · exact ⟨touches_raise .., eventsKept_raise _ _ _ _, driven_raise .., fun _ => event_raise _ _ _ _ _ _ _ hi (.inr ⟨rfl, rfl⟩)⟩
  · rename_i hb
    exact ⟨touches_refl .., fun _ _ _ h => h, rfl, fun h => absurd h hb⟩

theorem thermTripped_spec (m : Mach) (T : Int) : m.touches (m.thermTripped T) .sx dieWord ∧ m.eventsKept (m.thermTripped T) ∧
    (125 ≤ T → m.bit .sx Pg.power F.pwrThermStatus_trip = false → (m.thermTripped T).event .sx Pg.power 5 = true ∧
      (m.thermTripped T).driven = .thermTrip :: m.driven ∧ (m.thermTripped T).stored .sx Pg.chip F.chpPinStatus_thermtrip = 1) ∧
    (T < 125 → m.thermTripped T = m) := by
  unfold thermTripped
  split
  · rename_i h
    have hfirst := touches_setFld m .sx Pg.power F.pwrThermStatus_trip 1 (g := dieWord) (by decide)
    obtain ⟨a, ha⟩ : ∃ a, a = m.setFld .sx Pg.power F.pwrThermStatus_trip 1 := ⟨_, rfl⟩
    have hkeep : m.eventsKept a := ha ▸ eventsKept_setFld _ _ _ _ (by decide) (by decide)
    have hdriven : a.driven = m.driven := ha ▸ driven_setFld ..
    rw [← ha] at hfirst ⊢
    have hsecond := touches_setFld a .sx Pg.chip F.chpPinStatus_thermtrip 1 (g := dieWord) (by decide)
    obtain ⟨b, hb⟩ : ∃ b, b = a.setFld .sx Pg.chip F.chpPinStatus_thermtrip 1 := ⟨_, rfl⟩
    have hkeep' : a.eventsKept b := hb ▸ eventsKept_setFld _ _ _ _ (by decide) (by decide)
    have hdriven' : b.driven = a.driven := hb ▸ driven_setFld ..
    have hpin : b.stored .sx Pg.chip F.chpPinStatus_thermtrip = 1 := by
      rw [hb, stored_setFld _ _ _ _ _ (by decide)]; rfl
    rw [← hb] at hsecond ⊢
    have hemit : b.eventsKept (b.emit .thermTrip) := fun _ _ _ h => h
    refine ⟨((hfirst.trans hsecond).trans (touches_emit b .thermTrip .sx dieWord)).trans
        ((touches_raise ..).mono fun _ => dieWord_of_event),
      ((hkeep.trans hkeep').trans hemit).trans (eventsKept_raise _ _ _ _), fun _ _ => ⟨?_, ?_, ?_⟩, fun hlt => absurd h.1 (by omega)⟩
    · exact event_raise _ _ _ _ _ _ _ (by decide) (.inr ⟨rfl, rfl⟩)
    · rw [driven_raise, ← hdriven, ← hdriven']; rfl
    · rw [stored, word_raise _ _ _ _ _ _ (by decide)]; exact hpin
  · rename_i h
    exact ⟨touches_refl .., fun _ _ _ h => h, fun h125 hbit => absurd ⟨h125, by rw [hbit]; rfl⟩ h, fun _ => rfl⟩

theorem bit_trip_congr {m n : Mach} (h : m.touches n .sx (eventWord Pg.power)) :
    n.bit .sx Pg.power F.pwrThermStatus_trip = m.bit .sx Pg.power F.pwrThermStatus_trip := by
  rw [bit, bit, fld_eq_stored n _ _ _ rfl (by decide), fld_eq_stored m _ _ _ rfl (by decide),
    stored_of_kept h.2.1 _ _ (by decide)]

/-- No trigger is present. -/
def coolTrips : List Bool := [false, false, false, false, false]

theorem tripStep_cool (T limit : Int) : tripStep T limit false = decide (limit ≤ T) := by simp [tripStep]

theorem dieTrips_cool {m : Mach} (h : m.power.trips = coolTrips) (T : Int) :
    m.dieTrips T = [decide ((m.tThrottle : Int) ≤ T), decide ((m.tThrottle + 5 : Int) ≤ T), decide ((m.tCrit : Int) ≤ T), false, false] := by
  rw [dieTrips, h]
  simp only [coolTrips, List.getD_cons_zero, List.getD_cons_succ, tripStep_cool]

theorem thermSample_spec {m : Mach} (hcool : m.power.trips = coolTrips) (hlevel : m.power.therm.level = 0) {ts : List Int} {T : Int}
    {i : Nat} (h : hottest 0 ts = some (T, i)) : ∃ x,
    Mach.touches (m.setPower { m.power with trips := m.dieTrips T, die := some (T, i), therm := x }) (m.thermSample ts) .sx dieWord ∧
    (x.level = if (m.tCrit : Int) ≤ T then 4 else if (m.tThrottle + 5 : Int) ≤ T then 3 else if (m.tThrottle : Int) ≤ T then 2 else 0) ∧
    ((m.tThrottle : Int) ≤ T → (m.thermSample ts).event .sx Pg.power 3 = true) ∧
    ((m.tCrit : Int) ≤ T → (m.thermSample ts).event .sx Pg.power 4 = true) ∧
    (125 ≤ T → m.bit .sx Pg.power F.pwrThermStatus_trip = false → (m.thermSample ts).event .sx Pg.power 5 = true ∧
      (m.thermSample ts).driven = .thermTrip :: m.driven ∧ (m.thermSample ts).stored .sx Pg.chip F.chpPinStatus_thermtrip = 1) ∧
    (T < 125 → (m.thermSample ts).driven = m.driven) := by
  have htrips := dieTrips_cool hcool T
  rw [thermSample_eq m h]
  obtain ⟨a, ha⟩ : ∃ a, a = m.setPower { m.power with trips := m.dieTrips T, die := some (T, i) } := ⟨_, rfl⟩
  have hbit : a.bit .sx Pg.power F.pwrThermStatus_trip = m.bit .sx Pg.power F.pwrThermStatus_trip := by rw [ha]; rfl
  have hdriven : a.driven = m.driven := by rw [ha]; rfl
  rw [← ha]
  obtain ⟨htouch₁, hkeep₁, hdriven₁, hevent₁⟩ := a.raiseWhen_spec (decide ((m.tThrottle : Int) ≤ T)) 3 (by decide)
  have hsame₁ := bit_trip_congr htouch₁
  obtain ⟨b, hb⟩ : ∃ b, b = a.raiseWhen (decide ((m.tThrottle : Int) ≤ T)) 3 := ⟨_, rfl⟩
  rw [← hb] at htouch₁ hkeep₁ hdriven₁ hevent₁ hsame₁
  obtain ⟨htouch₂, hkeep₂, hdriven₂, hevent₂⟩ := b.raiseWhen_spec (decide ((m.tCrit : Int) ≤ T)) 4 (by decide)
  have hsame₂ := bit_trip_congr htouch₂
  obtain ⟨d, hd⟩ : ∃ d, d = b.raiseWhen (decide ((m.tCrit : Int) ≤ T)) 4 := ⟨_, rfl⟩
  rw [← hd] at htouch₂ hkeep₂ hdriven₂ hevent₂ hsame₂
  obtain ⟨htouch₃, hkeep₃, htrip, hnone⟩ := d.thermTripped_spec T
  obtain ⟨e, he⟩ : ∃ e, e = d.thermTripped T := ⟨_, rfl⟩
  rw [← he] at htouch₃ hkeep₃ htrip hnone
  obtain ⟨x, hshow, hx⟩ := e.thermShow_spec
  have hkeep₄ : e.eventsKept e.thermShow := eventsKept_of_word fun q => word_of_kept hshow.2.1 _ (by
    rw [thermWord, shedWord, pageWord_item _ _ _ _ (by decide) (by decide), pageWord_item _ _ _ _ (by decide) (by decide)]
    simp [R.intStatus, R.pwrThermStatus, R.pwrShedStatus])
  have hstages : ((a.raiseWhen (decide ((m.dieTrips T).getD 0 false = true ∧ (!m.power.trips.getD 0 false) = true)) 3).raiseWhen
      (decide ((m.dieTrips T).getD 2 false = true ∧ (!m.power.trips.getD 2 false) = true)) 4).thermTripped T = e := by
    rw [he, hd, hb, htrips, hcool]
    simp [coolTrips]
  rw [hstages]
  have hall : a.touches e .sx dieWord :=
    ((htouch₁.mono fun _ => dieWord_of_event).trans (htouch₂.mono fun _ => dieWord_of_event)).trans htouch₃
  have hpow : e.power = { m.power with trips := m.dieTrips T, die := some (T, i) } := hall.power.trans (by rw [ha]; rfl)
  rw [hpow] at hshow hx
  refine ⟨x, ?_, ?_, fun hT => ?_, fun hT => ?_, fun hT hoff => ?_, fun hT => ?_⟩
  · have hset := hall.setPower { m.power with trips := m.dieTrips T, die := some (T, i), therm := x }
    rw [ha] at hset
    exact hset.trans (hshow.mono fun k hk => by rw [dieWord, power_of_therm hk]; rfl)
  · rw [hx, hlevel, htrips]
    simp [tripLevel]
  · exact hkeep₄ _ _ (by decide) (hkeep₃ _ _ (by decide) (hkeep₂ _ _ (by decide) (hevent₁ (decide_eq_true hT))))
  · exact hkeep₄ _ _ (by decide) (hkeep₃ _ _ (by decide) (hevent₂ (decide_eq_true hT)))
  · obtain ⟨h5, hout, hpin⟩ := htrip hT (by rw [hsame₂, hsame₁, hbit, hoff])
    refine ⟨hkeep₄ _ _ (by decide) h5, ?_, ?_⟩
    · rw [driven_thermShow, hout, hdriven₂, hdriven₁, hdriven]
    · rw [stored_of_kept hshow.2.1 _ _ (by decide)]; exact hpin
  · rw [driven_thermShow, hnone hT, hdriven₂, hdriven₁, hdriven]

/-- The triggers after a report of the stacks. -/
def hbmTrips (m : Mach) (T : Int) : List Bool :=
  let was := m.power.trips
  [was.getD 0 false, was.getD 1 false, was.getD 2 false, tripStep T m.tHbm (was.getD 3 false),
    tripStep T (m.tHbm + 5) (was.getD 4 false)]

theorem hbmSample_spec {m : Mach} (hcool : m.power.trips = coolTrips) (hlevel : m.power.therm.level = 0) {ts : List Nat} {T : Int}
    {i : Nat} (h : hottest 54 (ts.map fun t => (t : Int)) = some (T, i)) : ∃ x,
    Mach.touches (m.setPower { m.power with trips := m.hbmTrips T, hbm := some (T, i), therm := x }) (m.hbmSample ts) .sx thermWord ∧
    x.level = if (m.tHbm + 5 : Int) ≤ T then 3 else if (m.tHbm : Int) ≤ T then 2 else 0 := by
  obtain ⟨a, ha⟩ : ∃ a, a = m.setPower { m.power with trips := m.hbmTrips T, hbm := some (T, i) } := ⟨_, rfl⟩
  have hdo : m.hbmSample ts = a.thermShow := by
    unfold hbmSample
    rw [h, ha]
    rfl
  have htrips : m.hbmTrips T = [false, false, false, decide ((m.tHbm : Int) ≤ T), decide ((m.tHbm + 5 : Int) ≤ T)] := by
    rw [hbmTrips, hcool]
    simp only [coolTrips, List.getD_cons_zero, List.getD_cons_succ, tripStep_cool]
  obtain ⟨x, hshow, hx⟩ := a.thermShow_spec
  rw [hdo]
  have hpow : a.power = { m.power with trips := m.hbmTrips T, hbm := some (T, i) } := by rw [ha]; rfl
  rw [hpow] at hshow hx
  refine ⟨x, ?_, ?_⟩
  · rw [ha] at hshow ⊢; exact hshow
  · rw [hx, hlevel, htrips]
    simp [tripLevel]

end Mach

/-- Settles O27: every source's step writes its own state and words, and the effective level follows the sources in the hem. -/
theorem shedLevelsFollowTheirSources : Obligations.ShedLevelsFollowTheirSources := by
  refine ⟨⟨fun s mv => ?_, fun s hpin hsince => ?_, fun s t0 hsince => ?_⟩,
    ⟨fun s hsrc hlevel => ?_, fun s hsrc hlevel => ?_, fun s hlevel hrefresh hreqs => ?_⟩,
    fun s hcool hlevel => ⟨fun ts T i hbest => ?_, fun ts T i hbest => ?_⟩⟩
  · obtain ⟨hcond, hlvl, hrisen, hchanged⟩ := s.m.askedSrc_spec 0 (Mach.voltLevel mv)
    have htouch := s.m.setShedSrc_touches 0 (s.m.askedSrc 0 (Mach.voltLevel mv))
    obtain ⟨x, hx⟩ : ∃ x, x = s.m.askedSrc 0 (Mach.voltLevel mv) := ⟨_, rfl⟩
    rw [← hx] at hcond hlvl hrisen hchanged htouch
    obtain ⟨n, hn⟩ : ∃ n, n = s.m.setShedSrc 0 x := ⟨_, rfl⟩
    have hrun : exec (.voltageTrigger mv) s = .next { s with m := n } :=
      go_eq (fun m => m.shedAsk 0 (Mach.voltLevel mv)) (by rw [Mach.shedAsk_eq, hn, hx])
    rw [← hn] at htouch
    have hvolt : n.power.volt = x := by rw [htouch.power]; rfl
    refine ⟨_, hrun, ?_, ?_, ?_, ?_, ?_, ?_⟩
    · exact (congrArg ShedSrc.cond hvolt).trans hcond
    · exact (congrArg ShedSrc.level hvolt).trans hlvl
    · exact (congrArg ShedSrc.risen hvolt).trans hrisen
    · exact (congrArg ShedSrc.changed hvolt).trans hchanged
    · change n.shedLevel = _
      rw [hn, Mach.setShedSrc_shedLevel]
    · rw [hvolt]
      exact becomes_of htouch.1 htouch.2.1 htouch.2.2
  · obtain ⟨w, l, x, htouch, hx, hshown⟩ := Mach.pwrbrk_spec hpin hsince
    obtain ⟨n, hn⟩ : ∃ n, n = s.m.pwrbrk true := ⟨_, rfl⟩
    have hrun : exec (.pwrbrkN true) s = .next { s with m := n } := go_eq (fun m => m.pwrbrk true) hn.symm
    rw [← hn] at htouch hshown
    have hp : n.power = { s.m.power with brkPin := true, brkSince := some s.m.time.number, brk := x } := htouch.power
    have hw : n.bare.changes = w := by rw [htouch.1]; rfl
    have hl : n.bare.chatter = l := by rw [htouch.1]; rfl
    refine ⟨_, hrun, ?_⟩
    rw [hp]
    refine ⟨rfl, rfl, hx, hshown, becomes_of (htouch.1.trans ?_) htouch.2.1 htouch.2.2⟩
    rw [← hw, ← hl]
    rfl
  · obtain ⟨n, hn⟩ : ∃ n, n = s.m.pwrbrkHold := ⟨_, rfl⟩
    have hrun : exec .pwrbrkHold s = .next { s with m := n } := go_eq Mach.pwrbrkHold hn.symm
    obtain hlate | hlate := Nat.lt_or_ge s.m.time.number (t0 + 2000)
    · have hsame : n = s.m := hn.trans (Mach.pwrbrkHold_none hsince hlate)
      rw [hsame] at hrun
      exact ⟨s, hrun, fun h => by omega, fun h => by omega, fun h => by omega, fun _ => rfl, becomes_of rfl (.refl ..) rfl⟩
    · obtain ⟨x, b, htouch, hx, hb⟩ := Mach.pwrbrkHold_spec hsince hlate
      rw [← hn] at htouch hb
      have hp : n.power = { s.m.power with brk := x, stuck := b } := htouch.power
      refine ⟨_, hrun, fun _ => ?_, fun h => ?_, fun h => (hb h).2, fun h => absurd hlate (by omega), ?_⟩
      · rw [hp]; exact hx
      · rw [hp]; exact (hb h).1
      · rw [hp]; exact becomes_of htouch.1 htouch.2.1 htouch.2.2
  · obtain ⟨hnew, hsrcs, hraised, hframe⟩ := Mach.shedRise_spec hsrc hlevel
    obtain ⟨n, hn⟩ : ∃ n, n = s.m.shedRise := ⟨_, rfl⟩
    have hrun : exec .shedRise s = .next { s with m := n } := go_eq Mach.shedRise hn.symm
    rw [← hn] at hnew hsrcs hraised hframe
    exact ⟨_, hrun, hnew, hsrcs, hraised, becomes_of hframe.bare hframe.regs hframe.rf_ep⟩
  · obtain ⟨hsrcs, hfollow, hwait, hframe, hrefresh⟩ := Mach.shedFall_spec hsrc hlevel
    obtain ⟨n, hn⟩ : ∃ n, n = s.m.shedFall := ⟨_, rfl⟩
    have hrun : exec .shedFall s = .next { s with m := n } := go_eq Mach.shedFall hn.symm
    rw [← hn] at hsrcs hfollow hwait hframe hrefresh
    exact ⟨_, hrun, hsrcs, hfollow, hwait, becomes_of hframe.bare hframe.regs hframe.rf_ep, hrefresh⟩
  · have hcond : s.m.shedLevel = 4 ∧ (!s.m.mem.selfRefresh) = true ∧ (!s.m.mem.reqs.any fun r => r.map.isSome) = true := by
      refine ⟨hlevel, by rw [hrefresh]; rfl, ?_⟩
      rw [Bool.not_eq_true', List.any_eq_false]
      exact fun r hr => by rw [hreqs r hr]; decide
    have htouch := Mach.touches_refreshTrace (s.m.setMem { s.m.mem with selfRefresh := true }) 2
    have hrun : exec .selfRefreshEntry s
        = .next { s with m := (s.m.setMem { s.m.mem with selfRefresh := true }).refreshTrace 2 } :=
      go_eq (fun m => if m.shedLevel = 4 ∧ !m.mem.selfRefresh ∧ !(m.mem.reqs.any fun r => r.map.isSome) then
        (m.setMem { m.mem with selfRefresh := true }).refreshTrace 2 else m) (if_pos hcond)
    exact ⟨_, hrun, becomes_of htouch.1 htouch.2.1 htouch.2.2⟩
  · obtain ⟨x, htouch, hx, hthrottle, hcrit, htrip, hnone⟩ := Mach.thermSample_spec hcool hlevel hbest
    obtain ⟨n, hn⟩ : ∃ n, n = s.m.thermSample ts := ⟨_, rfl⟩
    have hrun : exec (.thermalSample ts) s = .next { s with m := n } := go_eq (fun m => m.thermSample ts) hn.symm
    rw [← hn] at htouch hthrottle hcrit htrip hnone
    have hp : n.power = { s.m.power with trips := s.m.dieTrips T, die := some (T, i), therm := x } := htouch.power
    refine ⟨_, hrun, ?_⟩
    rw [hp]
    exact ⟨rfl, hx, hthrottle, hcrit, htrip, hnone, becomes_of htouch.1 htouch.2.1 htouch.2.2⟩
  · obtain ⟨x, htouch, hx⟩ := Mach.hbmSample_spec hcool hlevel hbest
    obtain ⟨n, hn⟩ : ∃ n, n = s.m.hbmSample ts := ⟨_, rfl⟩
    have hrun : exec (.hbmTempReport ts) s = .next { s with m := n } := go_eq (fun m => m.hbmSample ts) hn.symm
    rw [← hn] at htouch
    have hp : n.power = { s.m.power with trips := s.m.hbmTrips T, hbm := some (T, i), therm := x } := htouch.power
    have hpage := htouch.mono fun _ => Mach.power_of_therm
    refine ⟨_, hrun, ?_⟩
    rw [hp]
    exact ⟨rfl, hx, becomes_of hpage.1 hpage.2.1 hpage.2.2⟩

end Sys2Proof.Machine
end

section
/-! O28: calibration windows (R573), gate requests (R579) and block resets (R580). -/

set_option Elab.async false

namespace Sys2Proof.Machine
open Sys2Proof

namespace Mach

/-! ### What a block reset leaves to its unit: no link comes up, the power page keeps its state -/

/-- The word of PWR_GATE_CTRL. -/
def gateItem : Nat := item Pg.power 0 R.pwrGateCtrl

/-- From `m` to `n` no link comes up; the power page's state and PWR_GATE_CTRL stay. -/
structure calm (m n : Mach) : Prop where
  up : ∀ p, n.isUp .sx p = true → m.isUp .sx p = true
  power : n.power = m.power
  word : n.word .sx gateItem = m.word .sx gateItem

theorem calm_refl (m : Mach) : m.calm m := ⟨fun _ h => h, rfl, rfl⟩

theorem calm.trans {m n o : Mach} (h : m.calm n) (g : n.calm o) : m.calm o :=
  ⟨fun p hp => h.up p (g.up p hp), g.power.trans h.power, g.word.trans h.word⟩

theorem calm_of_touches {m n : Mach} {f : Nat → Bool} (h : m.touches n .sx f) (hf : f gateItem = false) : m.calm n :=
  ⟨fun p hp => by rwa [isUp, h.lk] at hp, power_of_bare h.1, word_of_kept h.2.1 _ hf⟩

theorem calm_of_faults {m n : Mach} (h : m.faults n) : m.calm n where
  up p hp := by
    have hlink : n.bare.link = m.bare.link := by rw [h.bare]
    have hst : n.isUp .sx p = m.isUp .sx p := congrArg (fun t => (Tbl.get (fun _ => {}) t p : Link).st == .up) hlink
    rwa [hst] at hp
  power := by
    have hp : n.bare.power = m.bare.power := by rw [h.bare]
    exact hp
  word := h.word _ (by decide) (by decide)

theorem calm_of_drops {m n : Mach} (h : m.drops n noWord) (hp : n.power = m.power) : m.calm n :=
  ⟨fun p hup => by rwa [h.up] at hup, hp, h.regs.2 _ rfl⟩

theorem calm_foldl {α : Type} (f : Mach → α → Mach) (hf : ∀ n a, Mach.calm n (f n a)) (l : List α) (m : Mach) : m.calm (l.foldl f m) :=
  foldl_inv (fun n => m.calm n) f (fun n a hn => hn.trans (hf n a)) l (calm_refl m)

theorem power_giveCredit (m : Mach) (p v n : Nat) : (m.giveCredit p v n).power = m.power := by
  unfold giveCredit
  split
  · rfl
  · split <;> rfl

theorem calm_dropHeld (m : Mach) (h : Held) : m.calm (m.dropHeld h) := calm_of_drops (dropHeld_drops ..) (power_giveCredit ..)

theorem calm_raise (m : Mach) (p b d : Nat) : m.calm (m.raise .sx p b d) :=
  calm_of_touches (touches_raise ..) (eventWord_none _ _ _ (by decide) (by decide) (by decide))

theorem calm_bumpBy (m : Mach) (p o n : Nat) (hp : p ≠ Pg.power) (ho : o < 2 ^ 44) : m.calm (m.bumpBy .sx p o n) := by
  have hne : gateItem ≠ item p 0 o := fun h => hp ((item_inj (by decide) ho (by decide) (by decide)).1 h).1.symm
  exact calm_of_touches (touches_setWord _ _ _ _ (f := fun k => k == item p 0 o) (by simp)) (beq_false_of_ne hne)

theorem calm_pfaultKeys (m : Mach) (keys : List Nat) (reason : Nat) : m.calm (m.pfaultKeys keys reason) :=
  calm_of_faults (faults_pfaultKeys ..)

theorem calm_pfault (m : Mach) (key reason : Nat) : m.calm (m.pfault key reason) := calm_of_faults (faults_pfault ..)

theorem calm_setPlt (m : Mach) (x : PleatSt) : m.calm (m.setPlt x) := ⟨fun _ h => h, rfl, rfl⟩

theorem calm_setCgrp (m : Mach) (g : Nat) (x : CGroup) : m.calm (m.setCgrp g x) := ⟨fun _ h => h, rfl, rfl⟩

/-- The state of a Pleat group that faults: nothing of it is kept but its reason. -/
def pleatEmptied (m : Mach) (gk reason : Nat) : Mach :=
  let m := m.setPlt { m.plt with
    chunks := m.plt.chunks.filter fun c => Chunk.gk c != gk
    releases := m.plt.releases.filter fun r => r.group != gk
    active := m.plt.active.filter (· != gk)
    units := m.plt.units.filter fun e =>
      match e.2 with
      | some u => (if u.bucket then 8192 + u.group else u.group) != gk
      | none => false }
  m.setGrp gk { m.grp gk with reason := reason, resident := false, leaving := false, done := [], drops := [], next := [] }

theorem calm_pleatEmptied (m : Mach) (gk reason : Nat) : m.calm (m.pleatEmptied gk reason) := ⟨fun _ h => h, rfl, rfl⟩

theorem pleatFault_eq (m : Mach) (gk reason : Nat) : ∃ d k, m.pleatFault gk reason = if (m.grp gk).reason ≠ 0 then m else
    ((((((m.waitingOf gk).foldl dropHeld m).pleatEmptied gk reason).bump .sx Pg.pleat R.pltGroupFaultCnt).raise .sx Pg.pleat 0
      d).pfault k reason) := ⟨_, _, rfl⟩

theorem calm_pleatFault (m : Mach) (gk reason : Nat) : m.calm (m.pleatFault gk reason) := by
  obtain ⟨d, k, hdo⟩ := m.pleatFault_eq gk reason
  rw [hdo]
  split
  · exact calm_refl m
  · exact ((((calm_foldl _ calm_dropHeld _ m).trans (calm_pleatEmptied ..)).trans
      (calm_bumpBy _ _ _ _ (by decide) (by decide))).trans (calm_raise ..)).trans (calm_pfault ..)

theorem calm_removeHeld (m : Mach) (id : Nat) : m.calm (m.removeHeld id) := ⟨fun _ h => h, rfl, rfl⟩

theorem calm_cuffFault (m : Mach) (g reason : Nat) : m.calm (m.cuffFault g reason) := by
  unfold cuffFault
  split
  · exact calm_refl m
  · exact ((((calm_foldl _ (fun n (h : Held) => calm_removeHeld n h.id) _ m).trans (calm_setCgrp ..)).trans
      (calm_bumpBy _ _ _ _ (by decide) (by decide))).trans (calm_raise ..)).trans (calm_pfault ..)

theorem calm_poisonGroups (m : Mach) (ts cs : List Nat) : m.calm (m.poisonGroups ts cs) := by
  unfold poisonGroups
  exact (calm_foldl _ (fun n g => calm_pleatFault n g _) _ m).trans (calm_foldl _ (fun n g => calm_cuffFault n g _) _ _)

/-! ### A link that goes down (R488) -/

theorem calm_setLk (m : Mach) (p : Nat) (l : Link) (h : l.st = .up → (m.lk .sx p).st = .up) : m.calm (m.setLk .sx p l) := by
  refine ⟨fun q hq => ?_, rfl, ?_⟩
  · rw [isUp, lk_setLk] at hq
    split at hq
    · rename_i heq
      rw [isUp, heq]
      exact beq_iff_eq.2 (h (beq_iff_eq.1 hq))
    · exact hq
  · exact (kept_of_rf (n := m.setLk .sx p l) (rf_setLk ..) (setLk_epParams ..) noWord).2 _ rfl

theorem calm_emit (m : Mach) (o : Out) : m.calm (m.emit o) := ⟨fun _ h => h, rfl, rfl⟩

theorem calm_sendTraining (m : Mach) (p : Nat) (x : Ctl) : m.calm (m.sendTraining .sx p x) :=
  (calm_setLk m p { m.lk .sx p with unanswered := some x } fun h => h).trans (calm_emit ..)

theorem calm_showLanes (m : Mach) (p : Nat) : m.calm (m.showLanes .sx p) :=
  calm_of_touches (touches_showLanes ..) (laneWord_direct _ _ _ _ (by decide))

theorem restart_sx (m : Mach) (p : Nat) : ∃ l, l.st ≠ .up ∧ m.restart .sx p =
    if m.prt .sx p F.prtLinkCtrl_en == 1 then ((m.setLk .sx p l).showLanes .sx p).sendCap .sx p false
    else (m.setLk .sx p l).showLanes .sx p :=
  ⟨_, by dsimp only; split <;> decide, rfl⟩

theorem calm_sendCap (m : Mach) (p : Nat) (b : Bool) : m.calm (m.sendCap .sx p b) := by
  unfold sendCap
  split
  · exact calm_refl m
  · exact calm_sendTraining ..

/-- A restart keeps every other link; its own is not up. -/
theorem restart_calm (m : Mach) (p : Nat) : m.calm (m.restart .sx p) ∧ (m.restart .sx p).isUp .sx p = false := by
  obtain ⟨l, hl, hdo⟩ := m.restart_sx p
  have hset : m.calm (m.setLk .sx p l) := calm_setLk _ _ _ fun h => absurd h hl
  have hdown : (m.setLk .sx p l).isUp .sx p = false := by
    rw [isUp, lk_setLk, if_pos rfl]
    exact beq_false_of_ne hl
  have hafter {n : Mach} (h : (m.setLk .sx p l).calm n) : m.calm n ∧ n.isUp .sx p = false :=
    ⟨hset.trans h, Bool.eq_false_iff.2 fun hn => absurd ((h.up p hn).symm.trans hdown) (by decide)⟩
  rw [hdo]
  split
  · exact hafter ((calm_showLanes ..).trans (calm_sendCap ..))
  · exact hafter (calm_showLanes ..)

theorem port_ne_power (p : Nat) : Pg.port p ≠ Pg.power := by unfold Pg.port Pg.power; omega

theorem calm_setTFld (m : Mach) (p u q e : Nat) (f : Fld) (v : Nat) (hp : p ≠ Pg.power) (hu : u < 16) (hq : q * e + f.off < 2 ^ 44) :
    m.calm (m.setTFld .sx p u q e f v) := by
  have hne : gateItem ≠ item p u (q * e + f.off) := fun h => hp ((item_inj (by decide) hq (by decide) hu).1 h).1.symm
  exact calm_of_touches (touches_setTFld _ _ _ _ _ _ _ _ (g := fun k => k == item p u (q * e + f.off)) (by simp))
    (beq_false_of_ne hne)

theorem calm_pairVerdict (m : Mach) (i st code : Nat) (hi : i < 8) : m.calm (m.pairVerdict i st code) := by
  have hstate : 8 * i + F.pairStat_state.off < 2 ^ 44 := by simp [F.pairStat_state]; omega
  have hcode : 8 * i + F.pairStat_code.off < 2 ^ 44 := by simp [F.pairStat_code]; omega
  exact ((calm_setTFld m _ _ _ _ F.pairStat_state st (by decide) (by decide) hstate).trans
    (calm_setTFld _ Pg.gusset 2 8 i F.pairStat_code code (by decide) (by decide) hcode)).trans
    (calm_raise _ Pg.gusset (if st = 2 then 0 else 1) 0)

theorem calm_sendData (m : Mach) (p : Nat) (gran : List (BitVec 128)) (a b d : Nat) (keys : List (Nat × Nat)) :
    m.calm (m.sendData .sx p gran a b d keys) := by
  obtain ⟨l, o, hl, hdo⟩ : ∃ l o, l.st = (m.lk .sx p).st ∧ m.sendData .sx p gran a b d keys = (m.setLk .sx p l).emit o :=
    ⟨_, _, rfl, rfl⟩
  rw [hdo]
  exact (calm_setLk m p l fun h => hl.symm.trans h).trans (calm_emit ..)

/-- A count on a port's page. -/
theorem calm_count (m : Mach) (p o n : Nat) (ho : o < 2 ^ 44) : m.calm (m.bumpBy .sx (Pg.port p) o n) :=
  calm_bumpBy _ _ _ _ (port_ne_power p) ho

theorem calm_breakPacket (m : Mach) (id : Nat) : m.calm (m.breakPacket id) := by
  unfold breakPacket
  split
  · exact calm_refl m
  · rename_i h _
    dsimp only
    split
    · exact ((calm_dropHeld m h).trans (calm_sendData ..)).trans (calm_count _ _ _ _ (by decide))
    · exact calm_dropHeld ..

theorem calm_truncated (m : Mach) (p : Nat) (l : Link) : m.calm (m.truncated .sx p l) := by
  have hcount (n : Mach) : n.calm (n.bump .sx (portPage p) R.prtRxTruncCnt) := calm_count _ _ _ _ (by decide)
  unfold truncated
  split
  · exact calm_refl m
  · dsimp only
    split
    · split
      · exact calm_refl m
      · exact ((calm_breakPacket ..).trans (hcount _)).trans (calm_pfaultKeys ..)
    · split
      · exact (hcount _).trans (calm_pfaultKeys ..)
      · exact hcount _

theorem calm_lostOnLink (m : Mach) (p : Nat) (l : Link) : m.calm (m.lostOnLink .sx p l) :=
  (calm_count _ _ _ _ (by decide)).trans (calm_pfaultKeys ..)

theorem calm_holdStart (m : Mach) (p : Nat) : m.calm (m.holdStart p) := by
  unfold holdStart
  have hdrop (n : Mach) (h : Held) : n.calm ((n.dropHeld h).bump .sx (Pg.port p) R.prtFlushPktCnt) :=
    (calm_dropHeld n h).trans (calm_count _ _ _ _ (by decide))
  extract_lets part a b r
  have hb : m.calm b := (calm_foldl _ hdrop part m).trans (calm_pfaultKeys ..)
  split
  · exact hb.trans ⟨fun _ h => h, rfl, rfl⟩
  · exact hb

theorem calm_pleatPortDown (m : Mach) (p : Nat) : m.calm (m.pleatPortDown p) := calm_foldl _ (fun n g => calm_pleatFault n g _) _ m

theorem calm_cuffPortDown (m : Mach) (p : Nat) : m.calm (m.cuffPortDown p) := calm_foldl _ (fun n g => calm_cuffFault n g _) _ m

theorem calm_gussetPortDown (m : Mach) (p : Nat) : m.calm (m.gussetPortDown p) := by
  have hall : ∀ (l : List Nat) (n : Mach), (∀ i ∈ l, i < 8) → n.calm (l.foldl
      (fun m i => if m.pairState i = 1 ∧ (m.workPort i = p ∨ m.newPort i = p) then m.pairVerdict i 3 7 else m) n) := by
    intro l
    induction l with
    | nil => exact fun n _ => calm_refl n
    | cons i l ih =>
      intro n hl
      have htail := fun k => ih k fun j hj => hl j (List.mem_cons_of_mem _ hj)
      rw [List.foldl_cons]
      split
      · exact (calm_pairVerdict _ _ _ _ (hl i List.mem_cons_self)).trans (htail _)
      · exact htail n
  exact hall _ m fun i hi => List.mem_range.1 hi

theorem linkDown_sx (m : Mach) (p : Nat) (hup : (m.lk .sx p).st = .up) : m.linkDown .sx p =
    ((((((((((m.bump .sx (portPage p) R.prtLinkDownCnt).raise .sx (portPage p) 1 0).updLk .sx p fun l =>
      { l with st := .down }).truncated .sx p (m.lk .sx p)).holdStart p).pleatPortDown p).cuffPortDown p).gussetPortDown
      p).lostOnLink .sx p (m.lk .sx p)).restart .sx p) := by
  simp only [linkDown, hup, ne_eq, not_true_eq_false, if_false, reduceCtorEq]

/-- A link that goes down is not up, and no other comes up. -/
theorem calm_linkDown (m : Mach) (p : Nat) : m.calm (m.linkDown .sx p) ∧ (m.linkDown .sx p).isUp .sx p = false := by
  by_cases hup : (m.lk .sx p).st = .up
  · rw [linkDown_sx m p hup]
    have hset (n : Mach) : n.calm (n.updLk .sx p fun l => { l with st := .down }) := calm_setLk _ _ _ nofun
    have hgoes := ((((((((calm_count m p R.prtLinkDownCnt 1 (by decide)).trans (calm_raise _ (portPage p) 1 0)).trans (hset _)).trans
      (calm_truncated _ p (m.lk .sx p))).trans (calm_holdStart _ p)).trans (calm_pleatPortDown _ p)).trans
      (calm_cuffPortDown _ p)).trans (calm_gussetPortDown _ p)).trans (calm_lostOnLink _ p (m.lk .sx p))
    obtain ⟨hrest, hdown⟩ := restart_calm _ p
    exact ⟨hgoes.trans hrest, hdown⟩
  · rw [linkDown, if_pos hup]
    exact restart_calm m p

/-! ### Block reset (R580) -/

/-- The links of ports go down where they are up or climbing. -/
def portsDown (m : Mach) (ports : List Nat) : Mach :=
  ports.foldl (fun m p => if (m.lk .sx p).st = .up ∨ (m.lk .sx p).st = .climbing then m.linkDown .sx p else m) m

theorem portsDown_spec (m : Mach) (ports : List Nat) :
    m.calm (m.portsDown ports) ∧ ∀ p ∈ ports, (m.portsDown ports).isUp .sx p = false := by
  induction ports generalizing m with
  | nil => exact ⟨calm_refl m, fun p hp => absurd hp List.not_mem_nil⟩
  | cons q ports ih =>
    have hstep (n : Mach) (hn : m.calm n) (hq : n.isUp .sx q = false) :
        m.calm (n.portsDown ports) ∧ ∀ p ∈ q :: ports, (n.portsDown ports).isUp .sx p = false := by
      obtain ⟨hcalm, hdown⟩ := ih n
      refine ⟨hn.trans hcalm, fun p hp => ?_⟩
      obtain rfl | hp := List.mem_cons.1 hp
      · exact Bool.eq_false_iff.2 fun hup => absurd ((hcalm.up p hup).symm.trans hq) (by decide)
      · exact hdown p hp
    rw [portsDown, List.foldl_cons]
    split
    · obtain ⟨hcalm, hdown⟩ := calm_linkDown m q
      exact hstep _ hcalm hdown
    · rename_i hno
      exact hstep m (calm_refl m) (beq_false_of_ne fun hup => hno (.inl hup))

/-- Packets that are dropped are gone, and no other comes. -/
theorem dropEach_spec (m : Mach) (gone : List Held) : m.drops (gone.foldl dropHeld m) noWord ∧
    ∀ h ∈ gone, ∀ e ∈ (gone.foldl dropHeld m).held, e.id ≠ h.id := by
  induction gone generalizing m with
  | nil => exact ⟨drops_refl .., fun h hh => absurd hh List.not_mem_nil⟩
  | cons g gone ih =>
    obtain ⟨hdrops, hgone⟩ := ih (m.dropHeld g)
    refine ⟨(dropHeld_drops ..).trans hdrops, fun h hh e he => ?_⟩
    obtain rfl | hh := List.mem_cons.1 hh
    · exact gone_dropHeld m h e (hdrops.held e he)
    · exact hgone h hh e he

/-- The clusters of a block reset lose their sync objects, waiters and requests. -/
def objectsCleared (m : Mach) (clusters : List Nat) : List Nat × Mach :=
  clusters.foldl (fun (a : List Nat × Mach) c => let (k, m) := a.2.clearObjects c; (a.1 ++ k, m)) ([], m)

theorem objectsCleared_mem (m : Mach) (clusters : List Nat) : ∃ x, (m.objectsCleared clusters).2 = m.setMem x := by
  have hall : ∀ (cs : List Nat) (a : List Nat × Mach), (∃ x, a.2 = m.setMem x) →
      ∃ x, (cs.foldl (fun (a : List Nat × Mach) c => let (k, m) := a.2.clearObjects c; (a.1 ++ k, m)) a).2 = m.setMem x := by
    intro cs
    induction cs with
    | nil => exact fun a ha => ha
    | cons c cs ih =>
      exact fun a ⟨x, hx⟩ => ih _ ⟨((m.setMem x).clearObjects c).2.mem, congrArg (fun n => (clearObjects n c).2) hx⟩
  exact hall clusters ([], m) ⟨m.mem, rfl⟩

/-- The ports of tiles. -/
def tilePorts (ts : List Nat) : List Nat := (ts.map fun t => (List.range 8).map (8 * t + ·)).flatten

/-- The tiles' packets and cells are gone. -/
def tilesEmptied (m : Mach) (ts : List Nat) : Mach := ((m.held.filter (tilesHold ts)).foldl dropHeld m).dropCells ts

theorem blockReset_eq (m : Mach) (kind unit : Nat) : ∃ cs keys keys', m.blockReset kind unit =
    (((((m.portsDown (tilePorts (gateTiles kind unit))).poisonGroups (gateTiles kind unit) cs).tilesEmptied
      (gateTiles kind unit)).objectsCleared cs).2.pfaultKeys (keys ++ keys') Reason.packetLost) :=
  ⟨if kind = 1 then [unit] else [], _, _, rfl⟩

theorem blockReset_spec (m : Mach) (kind unit : Nat) : m.calm (m.blockReset kind unit) ∧
    (∀ p, p / 8 ∈ gateTiles kind unit → (m.blockReset kind unit).isUp .sx p = false) ∧
    (∀ h ∈ (m.blockReset kind unit).held, tilesHold (gateTiles kind unit) h = true → h.input = 171) ∧
    (∀ e ∈ (m.blockReset kind unit).mid, e.1 ∉ gateTiles kind unit) := by
  obtain ⟨cs, keys, keys', hdo⟩ := m.blockReset_eq kind unit
  obtain ⟨ts, hts⟩ : ∃ ts, ts = gateTiles kind unit := ⟨_, rfl⟩
  rw [hdo, ← hts]
  obtain ⟨hcalm, hdown⟩ := m.portsDown_spec (tilePorts ts)
  have hpoison := calm_poisonGroups (m.portsDown (tilePorts ts)) ts cs
  obtain ⟨n, hn⟩ : ∃ n, n = (m.portsDown (tilePorts ts)).poisonGroups ts cs := ⟨_, rfl⟩
  rw [← hn] at hpoison ⊢
  obtain ⟨hdrops, hgone⟩ := n.dropEach_spec (n.held.filter (tilesHold ts))
  have hempty : n.calm (n.tilesEmptied ts) := (calm_foldl _ calm_dropHeld _ n).trans ⟨fun _ h => h, rfl, rfl⟩
  have hheld : ∀ h ∈ (n.tilesEmptied ts).held, tilesHold ts h = false := fun h hh =>
    Bool.eq_false_iff.2 fun ht => hgone h (List.mem_filter.2 ⟨hdrops.held h hh, ht⟩) h hh rfl
  have hmid : ∀ e ∈ (n.tilesEmptied ts).mid, e.1 ∉ ts := fun e he hmem => by
    have hkeep := (List.mem_filter.1 he).2
    simp [hmem] at hkeep
  obtain ⟨o, ho⟩ : ∃ o, o = n.tilesEmptied ts := ⟨_, rfl⟩
  rw [← ho] at hempty hheld hmid ⊢
  obtain ⟨x, hx⟩ := o.objectsCleared_mem cs
  rw [hx]
  have hclear : o.calm (o.setMem x) := ⟨fun _ h => h, rfl, rfl⟩
  have hfault := faults_pfaultKeys (o.setMem x) (keys ++ keys') Reason.packetLost
  have hafter := (hpoison.trans hempty).trans (hclear.trans (calm_of_faults hfault))
  refine ⟨hcalm.trans hafter, fun p hp => ?_, fun h hh ht => ?_, fun e he => ?_⟩
  · have hin : p ∈ tilePorts ts := by
      rw [tilePorts, List.mem_flatten]
      exact ⟨_, List.mem_map_of_mem hp, List.mem_map.2 ⟨p % 8, List.mem_range.2 (Nat.mod_lt _ (by decide)), Nat.div_add_mod ..⟩⟩
    exact Bool.eq_false_iff.2 fun hup => absurd ((hafter.up p hup).symm.trans (hdown p hin)) (by decide)
  · refine (hfault.held h hh).resolve_left fun hin => ?_
    exact absurd ((hheld h hin).symm.trans ht) (by decide)
  · have hkept : ((o.setMem x).pfaultKeys (keys ++ keys') Reason.packetLost).bare.mid = o.mid := by rw [hfault.bare]; rfl
    exact hmid e (hkept ▸ he)

/-! ### Calibration windows (R573) -/

/-- A new window begins. -/
def windowBegun (m : Mach) : Mach :=
  m.setPower { m.power with calN := 0, calX := 0, calY := 0, calXX := 0, calXY := 0, cal16 := 0, calLo := none, calHi := 0 }

/-- An accepted fit governs. -/
def fitTaken (m : Mach) (r : Nat × Int) : Mach :=
  let m := (m.setFld .sx Pg.power F.pwrEstCal_gain r.1).setFld .sx Pg.power F.pwrEstCal_offset (codeOf r.2 16)
  (m.setFld .sx Pg.power F.pwrEstStatus_rejected 0).setFld .sx Pg.power F.pwrEstStatus_estStale 0

/-- A rejected fit is counted; the `n`-th in a row is 64 when the estimator becomes stale. -/
def fitCounted (m : Mach) (n : Nat) : Mach :=
  let m := m.setFld .sx Pg.power F.pwrEstStatus_rejected n
  if n = 64 then (m.setFld .sx Pg.power F.pwrEstStatus_estStale 1).raise .sx Pg.power 2 0 else m

/-- A fit is rejected. -/
def fitRejected (m : Mach) : Mach :=
  let m := m.bump .sx Pg.power R.pwrCalRejectCnt
  m.fitCounted (min (m.fld .sx Pg.power F.pwrEstStatus_rejected + 1) 127)

theorem calEnd_early {m : Mach} (h : m.power.calN < 4096) : m.calEnd = m := if_pos h

theorem calEnd_fit {m : Mach} (h : 4096 ≤ m.power.calN) {r : Nat × Int} (hfit : m.calFit = some r) :
    m.calEnd = m.windowBegun.fitTaken r := by
  rw [calEnd, if_neg (Nat.not_lt.2 h), hfit]
  rfl

theorem calEnd_none {m : Mach} (h : 4096 ≤ m.power.calN) (hfit : m.calFit = none) : m.calEnd = m.windowBegun.fitRejected := by
  rw [calEnd, if_neg (Nat.not_lt.2 h), hfit]
  rfl

/-- Words that the end of a window writes. -/
def calWord (k : Nat) : Bool :=
  [R.pwrEstCal, R.pwrEstStatus, R.pwrCalRejectCnt].any (fun o => pageWord Pg.power o k) || eventWord Pg.power k

theorem fitTaken_spec (m : Mach) (g : Nat) (o : Int) : m.touches (m.fitTaken (g, o)) .sx calWord ∧
    (m.fitTaken (g, o)).stored .sx Pg.power F.pwrEstCal_gain = g % 65536 ∧
    (m.fitTaken (g, o)).stored .sx Pg.power F.pwrEstCal_offset = codeOf o 16 % 65536 ∧
    (m.fitTaken (g, o)).stored .sx Pg.power F.pwrEstStatus_rejected = 0 ∧
    (m.fitTaken (g, o)).stored .sx Pg.power F.pwrEstStatus_estStale = 0 := by
  have htouch (n : Mach) (f : Fld) (v : Nat) (hf : calWord (item Pg.power 0 f.off) = true) :
      n.touches (n.setFld .sx Pg.power f v) .sx calWord := touches_setFld _ _ _ _ _ hf
  have hother (n : Mach) (v : Nat) (f : Fld) (hf : f.off = R.pwrEstCal) (h : Fld) (hh : h.off = R.pwrEstStatus) :
      (n.setFld .sx Pg.power h v).stored .sx Pg.power f = n.stored .sx Pg.power f :=
    stored_of_kept (touches_setFld n .sx Pg.power h v (g := pageWord Pg.power R.pwrEstStatus) (by rw [hh]; decide)).2.1 _ _
      (by rw [hf]; decide)
  refine ⟨(((htouch _ _ _ (by decide)).trans (htouch _ _ _ (by decide))).trans (htouch _ _ _ (by decide))).trans
    (htouch _ _ _ (by decide)), ?_, ?_, ?_, ?_⟩
  · rw [fitTaken, hother _ _ _ rfl _ rfl, hother _ _ _ rfl _ rfl,
      stored_setFld_other _ _ _ F.pwrEstCal_offset F.pwrEstCal_gain _ (by decide) rfl (.inr (by decide)),
      stored_setFld _ _ _ _ _ (by decide)]
    rfl
  · rw [fitTaken, hother _ _ _ rfl _ rfl, hother _ _ _ rfl _ rfl, stored_setFld _ _ _ _ _ (by decide)]
    rfl
  · rw [fitTaken, stored_setFld_other _ _ _ F.pwrEstStatus_estStale F.pwrEstStatus_rejected _ (by decide) rfl (.inr (by decide)), stored_setFld _ _ _ _ _ (by decide)]
    rfl
  · rw [fitTaken, stored_setFld _ _ _ _ _ (by decide)]
    rfl

theorem fitCounted_spec (m : Mach) {n : Nat} (hn : n ≤ 127) :
    m.touches (m.fitCounted n) .sx (fun k => pageWord Pg.power R.pwrEstStatus k || eventWord Pg.power k) ∧
    (m.fitCounted n).stored .sx Pg.power F.pwrEstStatus_rejected = n ∧
    (n = 64 → (m.fitCounted n).stored .sx Pg.power F.pwrEstStatus_estStale = 1 ∧ (m.fitCounted n).event .sx Pg.power 2 = true) := by
  have hcount : m.touches (m.setFld .sx Pg.power F.pwrEstStatus_rejected n) .sx
      (fun k => pageWord Pg.power R.pwrEstStatus k || eventWord Pg.power k) := touches_setFld _ _ _ _ _ (by decide)
  have hstored : (m.setFld .sx Pg.power F.pwrEstStatus_rejected n).stored .sx Pg.power F.pwrEstStatus_rejected = n := by
    rw [stored_setFld _ _ _ _ _ (by decide)]
    exact Nat.mod_eq_of_lt (Nat.lt_succ_of_le hn)
  unfold fitCounted
  obtain ⟨a, ha⟩ : ∃ a, a = m.setFld .sx Pg.power F.pwrEstStatus_rejected n := ⟨_, rfl⟩
  rw [← ha] at hcount hstored ⊢
  dsimp only
  split
  · have hraise (b : Mach) (f : Fld) (hf : f.off = R.pwrEstStatus) :
        (b.raise .sx Pg.power 2 0).stored .sx Pg.power f = b.stored .sx Pg.power f := by
      rw [stored, stored, word_raise _ _ _ _ _ _ (by rw [hf]; decide)]
    refine ⟨(hcount.trans (touches_setFld _ _ _ _ _ (by decide))).trans ((touches_raise ..).mono fun k hk => by simp [hk]), ?_,
      fun _ => ⟨?_, event_raise _ _ _ _ _ _ _ (by decide) (.inr ⟨rfl, rfl⟩)⟩⟩
    · rw [hraise _ _ rfl, stored_setFld_other _ _ _ F.pwrEstStatus_estStale F.pwrEstStatus_rejected _ (by decide) rfl (.inr (by decide)), hstored]
    · rw [hraise _ _ rfl, stored_setFld _ _ _ _ _ (by decide)]
      rfl
  · rename_i hne
    exact ⟨hcount, hstored, fun h => absurd h hne⟩

theorem fitRejected_spec (m : Mach) : m.touches m.fitRejected .sx calWord ∧
    m.counted m.fitRejected .sx Pg.power R.pwrCalRejectCnt ∧
    m.fitRejected.stored .sx Pg.power F.pwrEstStatus_rejected = min (m.fld .sx Pg.power F.pwrEstStatus_rejected + 1) 127 ∧
    (m.fld .sx Pg.power F.pwrEstStatus_rejected = 63 →
      m.fitRejected.stored .sx Pg.power F.pwrEstStatus_estStale = 1 ∧ m.fitRejected.event .sx Pg.power 2 = true) := by
  have hbump : m.touches (m.bump .sx Pg.power R.pwrCalRejectCnt) .sx calWord := touches_setWord _ _ _ _ (by decide)
  have hcount := word_bump m .sx Pg.power R.pwrCalRejectCnt
  have hfld : (m.bump .sx Pg.power R.pwrCalRejectCnt).fld .sx Pg.power F.pwrEstStatus_rejected
      = m.fld .sx Pg.power F.pwrEstStatus_rejected :=
    fld_of_kept (touches_setWord m .sx (item Pg.power 0 R.pwrCalRejectCnt) _ (f := pageWord Pg.power R.pwrCalRejectCnt)
      (by decide)).2.1 (epParams_of_bare (bump_bare ..)) _ _ (by decide)
  unfold fitRejected
  obtain ⟨a, ha⟩ : ∃ a, a = m.bump .sx Pg.power R.pwrCalRejectCnt := ⟨_, rfl⟩
  rw [← ha] at hbump hcount hfld ⊢
  dsimp only
  rw [hfld]
  obtain ⟨htouch, hstored, hstale⟩ := a.fitCounted_spec (n := min (m.fld .sx Pg.power F.pwrEstStatus_rejected + 1) 127)
    (Nat.min_le_right ..)
  refine ⟨hbump.trans (htouch.mono fun k hk => ?_), ?_, hstored, fun h63 => hstale (by rw [h63]; rfl)⟩
  · simp only [calWord, List.any_cons, Bool.or_eq_true] at hk ⊢
    tauto
  · rw [counted, word_of_kept htouch.2.1 _ (by decide), hcount]

/-! ### Gate requests (R579) -/

theorem gateKind {kind unit : Nat} (h : unit < gateUnits kind) : kind < 4 ∧ unit < 18 := by
  match kind with
  | 0 | 1 | 2 | 3 => exact ⟨by decide, Nat.lt_of_lt_of_le h (by decide)⟩
  | _ + 4 => exact absurd h (Nat.not_lt_zero _)

/-- A request waits. -/
def gateAsked (m : Mach) (kind unit a : Nat) : Mach :=
  (m.setReg .sx Pg.power R.pwrGateCtrl (gateValue kind unit a)).setPower { m.power with gate := some (kind, unit, a) }

theorem gateWrite_eq (m : Mach) {kind unit a : Nat} (h : unit < gateUnits kind) (ha : a = 1 ∨ a = 2 ∨ a = 3) :
    m.gateWrite (gateValue kind unit a) = m.gateAsked kind unit a := by
  obtain ⟨hkind, hunit⟩ := gateKind h
  have hrest : place (bitsOf (gateValue kind unit a) 9 2) 9 2 = 0 := by simp only [place, bitsOf, gateValue]; omega
  have h0 : bitsOf (gateValue kind unit a) 0 2 = kind := by simp only [bitsOf, gateValue]; omega
  have h2 : bitsOf (gateValue kind unit a) 2 5 = unit := by simp only [bitsOf, gateValue]; omega
  have h7 : bitsOf (gateValue kind unit a) 7 2 = a := by simp only [bitsOf, gateValue]; omega
  have hne : a ≠ 0 := by omega
  unfold gateWrite gateAsked
  dsimp only
  rw [hrest, h0, h2, h7, if_neg hne, power_of_bare (setReg_bare ..), Nat.sub_zero]

theorem gateAsked_spec (m : Mach) {kind unit a : Nat} (h : unit < gateUnits kind) (ha : a = 1 ∨ a = 2 ∨ a = 3) :
    (m.setPower { m.power with gate := some (kind, unit, a) }).touches (m.gateAsked kind unit a) .sx (pageWord Pg.power R.pwrGateCtrl) ∧
    ((m.gateAsked kind unit a).word .sx (item Pg.power 0 R.pwrGateCtrl)).toNat = kind + unit * 4 + a * 128 := by
  obtain ⟨hkind, hunit⟩ := gateKind h
  have htouch : m.touches (m.setReg .sx Pg.power R.pwrGateCtrl (gateValue kind unit a)) .sx (pageWord Pg.power R.pwrGateCtrl) :=
    touches_setWord _ _ _ _ (by decide)
  refine ⟨htouch.setPower _, ?_⟩
  change ((m.setReg .sx Pg.power R.pwrGateCtrl (gateValue kind unit a)).word .sx (item Pg.power 0 R.pwrGateCtrl)).toNat = _
  rw [word_setReg, if_pos rfl, BitVec.toNat_ofNat, gateValue]
  omega

theorem gateAnswer_spec (m : Mach) (v : Nat) (hv : v < 4) :
    (m.setPower { m.power with gate := none }).touches (m.gateAnswer v) .sx (pageWord Pg.power R.pwrGateCtrl) ∧
    (m.gateAnswer v).stored .sx Pg.power F.pwrGateCtrl_req = v := by
  refine ⟨touches_setFld _ _ _ _ _ (by decide), ?_⟩
  rw [gateAnswer, stored_setFld _ _ _ _ _ (by decide)]
  exact Nat.mod_eq_of_lt hv

/-- A granted request changes the list of gated units, and is recorded where it does. -/
def gatedNow (m : Mach) (gated : List (Nat × Nat)) (page type : Nat) : Mach :=
  (m.setPower { m.power with gated := gated }).trace page type 0 0

/-- A request that is granted for gating (1) or its end (2). -/
def gateGranted (m : Mach) (kind unit action : Nat) : Mach :=
  let m := m.gateAnswer 1
  let was := m.power.gated.contains (kind, unit)
  match action with
  | 1 => if was then m else m.gatedNow (m.power.gated ++ [(kind, unit)]) (gatePage kind unit) 2
  | 2 => if !was then m else m.gatedNow (m.power.gated.filter (· != (kind, unit))) (gatePage kind unit) 3
  | _ => m.blockReset kind unit

theorem gateGranted_on (m : Mach) (kind unit : Nat) : m.gateGranted kind unit 1 =
    if (m.gateAnswer 1).power.gated.contains (kind, unit) then m.gateAnswer 1
    else (m.gateAnswer 1).gatedNow ((m.gateAnswer 1).power.gated ++ [(kind, unit)]) (gatePage kind unit) 2 := rfl

theorem gateGranted_off (m : Mach) (kind unit : Nat) : m.gateGranted kind unit 2 =
    if !(m.gateAnswer 1).power.gated.contains (kind, unit) then m.gateAnswer 1
    else (m.gateAnswer 1).gatedNow ((m.gateAnswer 1).power.gated.filter (· != (kind, unit))) (gatePage kind unit) 3 := rfl

section
variable {m : Mach} {kind unit a : Nat} (hgate : m.power.gate = some (kind, unit, a)) (hunit : unit < gateUnits kind)
include hgate hunit

theorem gateServe_granted (hholds : m.gateHolds kind unit = [] ∨ a = 2)
    (hok : ¬((a ≠ 3 ∧ (!m.gateRetired kind unit) = true) ∨ (a = 3 ∧ 2 ≤ kind))) : m.gateServe = m.gateGranted kind unit a := by
  unfold gateServe
  rw [hgate]
  dsimp only
  rw [if_neg (Nat.not_le.2 hunit), if_neg fun h => hholds.elim h.1 h.2, if_neg hok]
  rfl

theorem gateServe_unretired (hholds : m.gateHolds kind unit = [] ∨ a = 2) (ha : a ≠ 3) (hret : m.gateRetired kind unit = false) :
    m.gateServe = m.gateAnswer 3 := by
  unfold gateServe
  rw [hgate]
  dsimp only
  rw [if_neg (Nat.not_le.2 hunit), if_neg fun h => hholds.elim h.1 h.2, if_pos (.inl ⟨ha, by rw [hret]; rfl⟩)]

theorem gateServe_held (hholds : m.gateHolds kind unit ≠ []) (ha : a ≠ 2) : m.gateServe = m.heldRefused.gateAnswer 2 := by
  unfold gateServe
  rw [hgate]
  dsimp only
  rw [if_neg (Nat.not_le.2 hunit), if_pos ⟨hholds, ha⟩]

end

/-- What a granted request leaves: the unit is gated or not, and every other unit as it was. -/
theorem gateGranted_spec (m : Mach) (kind unit : Nat) {a : Nat} (ha : a = 1 ∨ a = 2) :
    ∃ l, Mach.touches (m.setPower { m.power with gate := none, gated := l }) (m.gateGranted kind unit a) .sx
        (fun k => pageWord Pg.power R.pwrGateCtrl k || traceWord k) ∧
      (m.gateGranted kind unit a).stored .sx Pg.power F.pwrGateCtrl_req = 1 ∧
      ((kind, unit) ∈ l ↔ a = 1) ∧ ∀ u, u ≠ (kind, unit) → (u ∈ l ↔ u ∈ m.power.gated) := by
  obtain ⟨htouch, hreq⟩ := m.gateAnswer_spec 1 (by decide)
  have hpow : (m.gateAnswer 1).power = { m.power with gate := none } := htouch.power
  have hon := m.gateGranted_on kind unit
  have hoff := m.gateGranted_off kind unit
  obtain ⟨n, hn⟩ : ∃ n, n = m.gateAnswer 1 := ⟨_, rfl⟩
  rw [← hn] at htouch hreq hpow hon hoff
  have hgated : n.power.gated = m.power.gated := by rw [hpow]
  have htouch' := htouch.mono (g := fun k => pageWord Pg.power R.pwrGateCtrl k || traceWord k) fun k hk => by simp [hk]
  have hsame : (m.setPower { m.power with gate := none, gated := m.power.gated }).touches n .sx
      (fun k => pageWord Pg.power R.pwrGateCtrl k || traceWord k) := htouch'
  have hmove (l : List (Nat × Nat)) (page type : Nat) :
      (m.setPower { m.power with gate := none, gated := l }).touches (n.gatedNow l page type) .sx
        (fun k => pageWord Pg.power R.pwrGateCtrl k || traceWord k) ∧
      (n.gatedNow l page type).stored .sx Pg.power F.pwrGateCtrl_req = 1 := by
    have htrace := touches_trace (n.setPower { n.power with gated := l }) page type 0 0
    have hset := htouch'.setPower { n.power with gated := l }
    rw [hpow] at hset htrace
    refine ⟨?_, ?_⟩
    · rw [gatedNow, hpow]
      exact hset.trans (htrace.mono fun k hk => by simp [hk])
    · rw [gatedNow, hpow, stored_of_kept htrace.2.1 _ _ (by decide)]
      exact hreq
  by_cases hwas : (kind, unit) ∈ m.power.gated
  · have hc : m.power.gated.contains (kind, unit) = true := by simpa using hwas
    obtain rfl | rfl := ha
    · rw [hon, hgated, if_pos hc]
      exact ⟨_, hsame, hreq, iff_of_true hwas rfl, fun u _ => Iff.rfl⟩
    · obtain ⟨hl, hr⟩ := hmove (m.power.gated.filter (· != (kind, unit))) (gatePage kind unit) 3
      rw [hoff, hgated, if_neg (by rw [hc]; decide)]
      exact ⟨_, hl, hr, iff_of_false (by simp) (by decide), fun u hu => by simp [hu]⟩
  · have hc : m.power.gated.contains (kind, unit) = false := by simpa using hwas
    obtain rfl | rfl := ha
    · obtain ⟨hl, hr⟩ := hmove (m.power.gated ++ [(kind, unit)]) (gatePage kind unit) 2
      rw [hon, hgated, if_neg (by rw [hc]; decide)]
      exact ⟨_, hl, hr, iff_of_true (by simp) rfl, fun u hu => by simp [hu]⟩
    · rw [hoff, hgated, if_pos (by rw [hc]; decide)]
      exact ⟨_, hsame, hreq, iff_of_false hwas (by decide), fun u _ => Iff.rfl⟩

end Mach

/-- Settles O28: a window's fit is taken or counted, requests are answered in their hem, and a block reset empties its tiles. -/
theorem powerIsCalibratedAndGated : Obligations.PowerIsCalibratedAndGated := by
  refine ⟨fun s => ⟨fun hearly => ?_, fun hend => ?_⟩, fun s kind unit hunit c a hc => ?_,
    fun s kind unit a hgate hunit ha => ⟨fun hret hholds => ?_, fun hret hholds => ?_, fun hholds ha1 => ?_⟩,
    fun s kind unit hgate hunit hkind hholds => ?_⟩
  · exact go_eq Mach.calEnd (Mach.calEnd_early hearly)
  · obtain ⟨n, hn⟩ : ∃ n, n = s.m.calEnd := ⟨_, rfl⟩
    have hrun : exec .calWindowEnd s = .next { s with m := n } := go_eq Mach.calEnd hn.symm
    cases hfit : s.m.calFit with
    | some r =>
      obtain ⟨g, o⟩ := r
      have hdo := hn.trans (Mach.calEnd_fit hend hfit)
      obtain ⟨htouch, hgain, hoffset, hrejected, hstale⟩ := s.m.windowBegun.fitTaken_spec g o
      rw [← hdo] at htouch hgain hoffset hrejected hstale
      refine ⟨_, hrun, fun g' o' h => ?_, nofun, becomes_of htouch.1 htouch.2.1 htouch.2.2⟩
      obtain ⟨rfl, rfl⟩ := Prod.mk.inj (Option.some.inj h)
      exact ⟨hgain, hoffset, hrejected, hstale⟩
    | none =>
      have hdo := hn.trans (Mach.calEnd_none hend hfit)
      obtain ⟨htouch, hcount, hrejected, hstale⟩ := s.m.windowBegun.fitRejected_spec
      rw [← hdo] at htouch hcount hrejected hstale
      exact ⟨_, hrun, nofun, fun _ => ⟨hcount, hrejected, hstale⟩, becomes_of htouch.1 htouch.2.1 htouch.2.2⟩
  · have hact : a = 1 ∨ a = 2 ∨ a = 3 := by
      obtain ⟨-, h⟩ | ⟨-, h⟩ | ⟨-, h⟩ := hc <;> simp [h]
    obtain ⟨htouch, hword⟩ := s.m.gateAsked_spec hunit hact
    obtain ⟨n, hn⟩ : ∃ n, n = s.m.gateAsked kind unit a := ⟨_, rfl⟩
    have hgo : s.onGate kind unit a = .next { s with m := n } := by
      rw [State.onGate, Mach.unit_go (decide_eq_true hunit), Mach.gateWrite_eq _ hunit hact, hn]
    rw [← hn] at htouch hword
    have hrun : exec c s = .next { s with m := n } := by
      obtain ⟨rfl, rfl⟩ | ⟨rfl, rfl⟩ | ⟨rfl, rfl⟩ := hc <;> exact hgo
    exact ⟨_, hrun, hword, becomes_of htouch.1 htouch.2.1 htouch.2.2⟩
  · have hdo := Mach.gateServe_granted hgate hunit hholds (fun h => h.elim (fun h => by rw [hret] at h; exact absurd h.2 (by decide)) fun h => by omega)
    obtain ⟨l, htouch, hreq, hin, hout⟩ := s.m.gateGranted_spec kind unit ha
    obtain ⟨n, hn⟩ : ∃ n, n = s.m.gateGranted kind unit a := ⟨_, rfl⟩
    have hrun : exec .gateRequestServe s = .next { s with m := n } := go_eq Mach.gateServe (hdo.trans hn.symm)
    rw [← hn] at htouch hreq
    have hp : n.power = { s.m.power with gate := none, gated := l } := htouch.power
    refine ⟨_, hrun, hreq, ?_⟩
    rw [hp]
    exact ⟨hin, hout, becomes_of htouch.1 htouch.2.1 htouch.2.2⟩
  · have hdo := Mach.gateServe_unretired hgate hunit hholds (by omega) hret
    obtain ⟨htouch, hreq⟩ := s.m.gateAnswer_spec 3 (by decide)
    obtain ⟨n, hn⟩ : ∃ n, n = s.m.gateAnswer 3 := ⟨_, rfl⟩
    have hrun : exec .gateRequestServe s = .next { s with m := n } := go_eq Mach.gateServe (hdo.trans hn.symm)
    rw [← hn] at htouch hreq
    exact ⟨_, hrun, hreq, becomes_of htouch.1 htouch.2.1 htouch.2.2⟩
  · have hdo := Mach.gateServe_held hgate hunit hholds (by omega)
    have hbump : s.m.touches s.m.heldRefused .sx (pageWord Pg.guard R.grdHeldCnt) := Mach.touches_setWord _ _ _ _ (by decide)
    have hcount : s.m.counted s.m.heldRefused .sx Pg.guard R.grdHeldCnt := Mach.word_bump ..
    obtain ⟨o, ho⟩ : ∃ o, o = s.m.heldRefused := ⟨_, rfl⟩
    rw [← ho] at hdo hbump hcount
    obtain ⟨htouch, hreq⟩ := o.gateAnswer_spec 2 (by decide)
    rw [hbump.power] at htouch
    obtain ⟨n, hn⟩ : ∃ n, n = o.gateAnswer 2 := ⟨_, rfl⟩
    have hrun : exec .gateRequestServe s = .next { s with m := n } := go_eq Mach.gateServe (hdo.trans hn.symm)
    rw [← hn] at htouch hreq
    have hboth := ((hbump.setPower { s.m.power with gate := none }).mono
      (g := fun k => pageWord Pg.power R.pwrGateCtrl k || pageWord Pg.guard R.grdHeldCnt k) fun k hk => by simp [hk]).trans
      (htouch.mono fun k hk => by simp [hk])
    refine ⟨_, hrun, hreq, ?_, becomes_of hboth.1 hboth.2.1 hboth.2.2⟩
    rw [Mach.counted] at hcount ⊢
    rw [Mach.word_of_kept htouch.2.1 _ (by decide)]
    exact hcount
  · have hdo := Mach.gateServe_granted hgate hunit (.inl hholds) (by omega)
    obtain ⟨htouch, hreq⟩ := s.m.gateAnswer_spec 1 (by decide)
    obtain ⟨o, ho⟩ : ∃ o, o = s.m.gateAnswer 1 := ⟨_, rfl⟩
    have hgranted : s.m.gateGranted kind unit 3 = o.blockReset kind unit := by rw [ho]; rfl
    obtain ⟨n, hn⟩ : ∃ n, n = o.blockReset kind unit := ⟨_, rfl⟩
    have hrun : exec .gateRequestServe s = .next { s with m := n } :=
      go_eq Mach.gateServe (hdo.trans (hgranted.trans hn.symm))
    rw [← ho] at htouch hreq
    obtain ⟨hcalm, hdown, hheld, hmid⟩ := o.blockReset_spec kind unit
    rw [← hn] at hcalm hdown hheld hmid
    have hpow : n.power.gate = none := by rw [hcalm.power, htouch.power]; rfl
    refine ⟨_, hrun, ?_, hpow, fun p _ hp => hdown p hp, hheld, hmid, rfl, rfl⟩
    change n.stored .sx Pg.power F.pwrGateCtrl_req = 1
    rw [← hreq, Mach.stored, Mach.stored]
    exact congrArg (fun w => bitsOf (BitVec.toNat w) _ _) hcalm.word

end Sys2Proof.Machine
end

section
/-! Retirements in a hem (R363, R189, R585): what the losses of a unit leave alone. -/

set_option Elab.async false

namespace Sys2Proof.Machine
open Sys2Proof

namespace Mach

/-! ### Packets of the Lining -/

/-- Every Lining packet of `n` stands in `m` with its place and staging. -/
structure liningFrom (m n : Mach) : Prop where
  origin : ∀ h ∈ n.held, h.part = .lining → ∃ e ∈ m.held, e.part = .lining ∧ e.staging = h.staging ∧ e.output = h.output

section
variable {m n : Mach}

theorem liningFrom_of_sub (h : ∀ x ∈ n.held, x ∈ m.held) : m.liningFrom n :=
  ⟨fun x hx hp => ⟨x, h x hx, hp, rfl, rfl⟩⟩

theorem liningFrom_refl (m : Mach) : m.liningFrom m := liningFrom_of_sub fun _ h => h

theorem liningFrom.trans {o : Mach} (h : m.liningFrom n) (g : n.liningFrom o) : m.liningFrom o := by
  refine ⟨fun x hx hp => ?_⟩
  obtain ⟨y, hy, hpy, hsy, hoy⟩ := g.origin x hx hp
  obtain ⟨z, hz, hpz, hsz, hoz⟩ := h.origin y hy hpy
  exact ⟨z, hz, hpz, hsz.trans hsy, hoz.trans hoy⟩

theorem liningFrom_of_bare (h : n.bare = m.bare) : m.liningFrom n := liningFrom_of_sub fun x hx => by rwa [held_of_bare h] at hx

end

theorem lining_push (m : Mach) (x : Packet) (i p : Nat) : m.liningFrom (m.pushExempt x i p) := by
  refine ⟨fun h hh hp => ?_⟩
  simp only [pushExempt, push, List.mem_append, List.mem_singleton] at hh
  obtain hh | rfl := hh
  · exact ⟨h, hh, hp, rfl, rfl⟩
  · exact absurd hp nofun

theorem lining_broadcast (m : Mach) (key reason : Nat) : m.liningFrom (m.broadcast key reason) := by
  unfold broadcast
  refine foldl_inv (fun n => m.liningFrom n) _ (fun n p hn => ?_) _ (liningFrom_refl m)
  split
  · exact (hn.trans (lining_push ..)).trans (liningFrom_of_bare (bump_bare ..))
  · exact hn

theorem lining_lowerReason (m : Mach) (key reason : Nat) : m.liningFrom (m.lowerReason key reason) := by
  refine ⟨fun h hh hp => ?_⟩
  simp only [lowerReason, List.mem_map] at hh
  obtain ⟨e, he, rfl⟩ := hh
  refine ⟨e, he, ?_⟩
  split at hp
  · rename_i hin
    rw [if_pos hin]
    exact ⟨hp, rfl, rfl⟩
  · rename_i hin
    rw [if_neg hin]
    exact ⟨hp, rfl, rfl⟩

theorem lining_faultRecord (m : Mach) (key reason : Nat) (received : Bool) : m.liningFrom (m.faultRecord key reason received) :=
  liningFrom_of_bare (by rw [faultRecord, raise_bare, setReg_bare, bump_bare])

theorem lining_pfault (m : Mach) (key reason : Nat) (received : Bool) : m.liningFrom (m.pfault key reason received) := by
  have hrec : m.liningFrom ((m.faultRecord key reason received).dropWaiters key) :=
    (lining_faultRecord ..).trans (liningFrom_of_sub fun _ h => h)
  unfold pfault
  extract_lets n
  split
  · refine hrec.trans ((liningFrom_of_bare (bump_bare n .sx Pg.chip R.chpPfaultSuppCnt)).trans ?_)
    split
    · exact lining_lowerReason ..
    · exact liningFrom_refl _
  · exact hrec.trans (Mach.liningFrom.trans (n := n.markFault key reason) (liningFrom_of_sub fun _ h => h) (lining_broadcast ..))

/-! ### Losses -/

/-- Every word but the regions' states and CHP_BOOT_STATUS. -/
def apartWord (k : Nat) : Bool :=
  !(itemPage k == Pg.chip && (itemSel k == 4 || (itemSel k == 0 && itemOff k == R.chpBootStatus)))

/-- From `m` to `n`, packets, requests and groups are lost: retired units and the boot stay, and no word but those of `f` changes. -/
structure loses (m n : Mach) (f : Nat → Bool) : Prop where
  regs : m.regsKept n .sx f
  retired : n.mem.retired = m.mem.retired
  failing : n.mem.failing = m.mem.failing
  out1 : n.out1 = m.out1
  boot : n.boot = m.boot
  lost : n.guardSx = m.guardSx
  epParams : n.epParams = m.epParams
  lining : m.liningFrom n

section
variable {m n : Mach} {f : Nat → Bool}

theorem loses_refl (m : Mach) (f : Nat → Bool) : m.loses m f := ⟨.refl .., rfl, rfl, rfl, rfl, rfl, rfl, liningFrom_refl m⟩

theorem loses.trans {o : Mach} (h : m.loses n f) (g : n.loses o f) : m.loses o f where
  regs := h.regs.trans g.regs
  retired := g.retired.trans h.retired
  failing := g.failing.trans h.failing
  out1 := g.out1.trans h.out1
  boot := g.boot.trans h.boot
  lost := g.lost.trans h.lost
  epParams := g.epParams.trans h.epParams
  lining := h.lining.trans g.lining

theorem loses.mono (h : m.loses n f) {g : Nat → Bool} (hfg : ∀ k, f k = true → g k = true) : m.loses n g :=
  ⟨h.regs.mono fun k hk => by
    cases hf : f k with
    | false => rfl
    | true => rw [hfg k hf] at hk; exact hk, h.retired, h.failing, h.out1, h.boot, h.lost, h.epParams, h.lining⟩

theorem loses_of_touches (h : m.touches n .sx f) : m.loses n f where
  regs := h.2.1
  retired := by rw [mem_of_bare h.1]
  failing := by rw [mem_of_bare h.1]
  out1 := by
    have hb : n.bare.out1 = m.bare.out1 := by rw [h.1]
    exact hb
  boot := by
    have hb : n.bare.boot = m.bare.boot := by rw [h.1]
    exact hb
  lost := by
    have hb : n.bare.guardSx = m.bare.guardSx := by rw [h.1]
    exact hb
  epParams := epParams_of_bare h.1
  lining := liningFrom_of_bare h.1

end

theorem apart_of_event {p k : Nat} (h : eventWord p k = true) : apartWord k = true := by
  simp only [eventWord, Bool.or_eq_true, Bool.and_eq_true, beq_iff_eq] at h
  obtain h | ⟨⟨-, hsel⟩, hoff⟩ := h
  · simp only [apartWord, h]
    rfl
  · have hne : itemOff k ≠ R.chpBootStatus := fun he => by rw [he] at hoff; exact absurd hoff (by decide)
    simp [apartWord, hsel, hne]

theorem apart_of_fault {k : Nat} (h : faultWord k = true) : apartWord k = true := by
  rw [faultWord, Bool.or_eq_true] at h
  obtain h | h := h
  · simp only [List.contains_eq_mem, List.mem_cons, List.not_mem_nil, or_false, decide_eq_true_eq] at h
    obtain rfl | rfl | rfl | rfl := h <;> decide
  · exact apart_of_event h

theorem loses_raise (m : Mach) (p b d : Nat) : m.loses (m.raise .sx p b d) apartWord :=
  loses_of_touches ((touches_raise ..).mono fun _ => apart_of_event)

/-- A count on another page. -/
theorem loses_bump (m : Mach) (p o : Nat) (hp : p ≠ Pg.chip) (ho : o < 2 ^ 44) : m.loses (m.bump .sx p o) apartWord :=
  loses_of_touches (touches_setWord _ _ _ _ (by
    rw [apartWord, item_page _ _ _ ho (by decide), beq_false_of_ne hp]
    rfl))

theorem loses_pfault (m : Mach) (key reason : Nat) : m.loses (m.pfault key reason) apartWord := by
  have h := faults_pfault m key reason false
  refine ⟨(h.regs.mono fun k hk => ?_), by rw [h.mem], by rw [h.mem], ?_, ?_, ?_, ?_, lining_pfault ..⟩
  · cases hf : faultWord k with
    | false => rfl
    | true => rw [apart_of_fault hf] at hk; exact absurd hk (by decide)
  · have hb : (m.pfault key reason).bare.out1 = _ := congrArg Mach.out1 h.bare
    exact hb
  · have hb : (m.pfault key reason).bare.boot = _ := congrArg Mach.boot h.bare
    exact hb
  · have hb : (m.pfault key reason).bare.guardSx = _ := congrArg Mach.guardSx h.bare
    exact hb
  · have hb : (m.pfault key reason).bare.epParams = _ := congrArg Mach.epParams h.bare
    exact hb

theorem loses_foldl {α : Type} (f : Mach → α → Mach) {g : Nat → Bool} (hf : ∀ n a, Mach.loses n (f n a) g) (l : List α) (m : Mach) :
    m.loses (l.foldl f m) g :=
  foldl_inv (fun n => m.loses n g) f (fun n a hn => hn.trans (hf n a)) l (loses_refl ..)

theorem loses_pfaultKeys (m : Mach) (keys : List Nat) (reason : Nat) : m.loses (m.pfaultKeys keys reason) apartWord :=
  loses_foldl _ (fun _ _ => loses_pfault ..) _ m

theorem loses_removeHeld (m : Mach) (id : Nat) (f : Nat → Bool) : m.loses (m.removeHeld id) f :=
  ⟨⟨rfl, fun _ _ => rfl⟩, rfl, rfl, rfl, rfl, rfl, rfl, liningFrom_of_sub fun _ h => List.mem_of_mem_filter h⟩

theorem loses_giveCredit (m : Mach) (p v n : Nat) (f : Nat → Bool) : m.loses (m.giveCredit p v n) f := by
  refine ⟨(giveCredit_drops ..).regs, ?_, ?_, ?_, ?_, ?_, (giveCredit_drops m p v n f).epParams, liningFrom_of_sub (giveCredit_drops m p v n f).held⟩ <;>
  · unfold giveCredit
    split
    · rfl
    · split <;> rfl

theorem loses_dropHeld (m : Mach) (h : Held) (f : Nat → Bool) : m.loses (m.dropHeld h) f :=
  (loses_removeHeld ..).trans (loses_giveCredit ..)

theorem loses_pleatEmptied (m : Mach) (gk reason : Nat) (f : Nat → Bool) : m.loses (m.pleatEmptied gk reason) f :=
  ⟨⟨rfl, fun _ _ => rfl⟩, rfl, rfl, rfl, rfl, rfl, rfl, liningFrom_of_sub fun _ h => h⟩

theorem loses_pleatFault (m : Mach) (gk reason : Nat) : m.loses (m.pleatFault gk reason) apartWord := by
  obtain ⟨d, k, hdo⟩ := m.pleatFault_eq gk reason
  rw [hdo]
  split
  · exact loses_refl ..
  · exact ((((loses_foldl _ (fun n h => loses_dropHeld n h _) _ m).trans (loses_pleatEmptied ..)).trans
      (loses_bump _ _ _ (by decide) (by decide))).trans (loses_raise ..)).trans (loses_pfault ..)

/-! ### A stack (R363) -/

/-- Every word but CHP_BOOT_STATUS. -/
def unbootWord (k : Nat) : Bool := !(k == item Pg.chip 0 R.chpBootStatus)

theorem unboot_of_apart {k : Nat} (h : apartWord k = true) : unbootWord k = true := by
  rw [unbootWord, Bool.not_eq_true', beq_eq_false_iff_ne]
  rintro rfl
  exact absurd h (by decide)

/-- The state of a region as it stands, where it can change by itself alone. -/
theorem regionState_eq (m : Mach) {r : Nat} (hr : r < 64) : m.regionState r = m.storedT .sx Pg.chip 4 1 r F.regionStat_state := by
  have hrow : ∀ r, r < 64 → ((tableRows .chip).find? (fun x => x.has 4 r)).map WordInfo.ofTab = some WordInfo.ro := by decide
  have hoff : 1 * r + F.regionStat_state.off = r := by simp [F.regionStat_state]
  have hinfo : info m.epParams .sx (item Pg.chip 4 r) = WordInfo.ro := by
    rw [info, wordInfo, item_page _ _ _ (by omega) (by decide), item_sel _ _ _ (by omega) (by decide), show itemOff (item Pg.chip 4 r) = r from by
      simp only [itemOff, item]; omega]
    change ((tableInfo m.epParams .chip 4 r).getD .ro) = .ro
    rw [tableInfo, if_neg (by decide), if_neg (by decide), hrow r hr]
    rfl
  have htmr : tmrBits .sx (item Pg.chip 4 r) = 0 := by
    rw [tmrBits, item_sel _ _ _ (by omega) (by decide), if_pos (by decide)]
  rw [regionState, tfld, storedT, hoff, live_of_not_rws m .sx (by rw [hinfo]; rfl) htmr]

theorem loses_setRegionState (m : Mach) (r v : Nat) (hr : r < 64) : m.loses (m.setRegionState r v) unbootWord :=
  loses_of_touches (touches_setWord _ _ _ _ (by
    rw [unbootWord, Bool.not_eq_true', beq_eq_false_iff_ne]
    exact fun h => absurd ((item_inj (by omega) (by decide) (by decide) (by decide)).1 h).2.1 (by decide)))

/-- Regions of a list lose their stack: each is shown as lost, one after another. -/
def regionsLost (m : Mach) (rs : List Nat) : Mach :=
  rs.foldl (fun m r => (m.setRegionState r 3).pfaultKeys [m.rg r F.region_pkey] Reason.regionChanged) m

theorem storedT_region (m : Mach) (r : Nat) :
    m.storedT .sx Pg.chip 4 1 r F.regionStat_state = bitsOf (m.word .sx (item Pg.chip 4 r)).toNat 0 2 := by
  rw [storedT, show 1 * r + F.regionStat_state.off = r from by simp [F.regionStat_state]]
  rfl

/-- A loss of packets and groups leaves the regions' states. -/
theorem loses.region {m n : Mach} (h : m.loses n apartWord) {r : Nat} (hr : r < 64) :
    n.storedT .sx Pg.chip 4 1 r F.regionStat_state = m.storedT .sx Pg.chip 4 1 r F.regionStat_state := by
  have hitem : apartWord (item Pg.chip 4 r) = false := by
    rw [apartWord, item_page _ _ _ (by omega) (by decide), item_sel _ _ _ (by omega) (by decide)]
    rfl
  rw [storedT_region, storedT_region, h.regs.2 _ hitem]

theorem storedT_setRegionState (m : Mach) {r v q : Nat} (hr : r < 64) (hq : q < 64) :
    (m.setRegionState r v).storedT .sx Pg.chip 4 1 q F.regionStat_state
      = if q = r then v % 4 else m.storedT .sx Pg.chip 4 1 q F.regionStat_state := by
  have hinj : item Pg.chip 4 q = item Pg.chip 4 r ↔ q = r :=
    (item_inj (by omega) (by omega) (by decide) (by decide)).trans (by simp)
  rw [storedT_region, storedT_region, setRegionState, setTWord, word_setWord]
  by_cases h : q = r
  · rw [if_pos h, if_pos (hinj.2 h)]
    simp only [bitsOf, BitVec.toNat_ofNat]
    omega
  · rw [if_neg h, if_neg fun he => h (hinj.1 he)]

theorem regionsLost_spec (rs : List Nat) (hrs : ∀ r ∈ rs, r < 64) (m : Mach) : m.loses (m.regionsLost rs) unbootWord ∧
    ∀ q, q < 64 → (m.regionsLost rs).storedT .sx Pg.chip 4 1 q F.regionStat_state
      = if q ∈ rs then 3 else m.storedT .sx Pg.chip 4 1 q F.regionStat_state := by
  induction rs generalizing m with
  | nil => exact ⟨loses_refl .., fun q _ => by simp [regionsLost]⟩
  | cons r rs ih =>
    have hr := hrs r List.mem_cons_self
    obtain ⟨n, hn⟩ : ∃ n, n = (m.setRegionState r 3).pfaultKeys [m.rg r F.region_pkey] Reason.regionChanged := ⟨_, rfl⟩
    have hfault : (m.setRegionState r 3).loses n apartWord := hn ▸ loses_pfaultKeys ..
    obtain ⟨hloses, hstate⟩ := ih (fun q hq => hrs q (List.mem_cons_of_mem _ hq)) n
    have hdo : m.regionsLost (r :: rs) = n.regionsLost rs := by rw [hn]; rfl
    rw [hdo]
    refine ⟨((loses_setRegionState m r 3 hr).trans (hfault.mono fun _ => unboot_of_apart)).trans hloses, fun q hq => ?_⟩
    rw [hstate q hq, hfault.region hq, storedT_setRegionState m hr hq]
    by_cases h : q ∈ rs
    · simp [h]
    · by_cases hqr : q = r <;> simp [h, hqr]

/-- The regions that a stack takes with it. -/
def regionsOn (m : Mach) (s : Nat) : List Nat := (List.range 64).filter fun r =>
  m.rg r F.region_valid == 1 && (stacksOf (m.rg r F.region_stackMask)).contains s && m.regionState r != 3

theorem loseRegions_eq (m : Mach) (s : Nat) : m.loseRegions s = m.regionsLost (m.regionsOn s) := rfl

theorem loseRegions_spec (m : Mach) (s : Nat) : m.loses (m.loseRegions s) unbootWord ∧ ∀ r, r < 64 → m.rg r F.region_valid = 1 →
    s ∈ stacksOf (m.rg r F.region_stackMask) → (m.loseRegions s).storedT .sx Pg.chip 4 1 r F.regionStat_state = 3 := by
  obtain ⟨hloses, hstate⟩ := regionsLost_spec (m.regionsOn s) (fun r hr => List.mem_range.1 (List.mem_filter.1 hr).1) m
  rw [loseRegions_eq]
  refine ⟨hloses, fun r hr hvalid hmask => ?_⟩
  rw [hstate r hr]
  split
  · rfl
  · rename_i hno
    by_contra h3
    refine hno (List.mem_filter.2 ⟨List.mem_range.2 hr, ?_⟩)
    rw [← regionState_eq m hr] at h3
    simp [hvalid, hmask, h3]

/-- Packets are discarded in a cluster, each counted. -/
def discards (m : Mach) (s : Nat) (gone : List Held) : Mach :=
  gone.foldl (fun m h => (m.dropHeld h).bump .sx (Pg.cluster s) R.cluRetireDiscardCnt) m

theorem cluster_ne_chip (s : Nat) : Pg.cluster s ≠ Pg.chip := by unfold Pg.cluster Pg.chip; omega

theorem discards_spec (m : Mach) (s : Nat) (gone : List Held) : m.loses (m.discards s gone) apartWord ∧
    (∀ e ∈ (m.discards s gone).held, e ∈ m.held) ∧ ∀ h ∈ gone, ∀ e ∈ (m.discards s gone).held, e.id ≠ h.id := by
  induction gone generalizing m with
  | nil => exact ⟨loses_refl .., fun _ h => h, fun h hh => absurd hh List.not_mem_nil⟩
  | cons g gone ih =>
    obtain ⟨n, hn⟩ : ∃ n, n = (m.dropHeld g).bump .sx (Pg.cluster s) R.cluRetireDiscardCnt := ⟨_, rfl⟩
    have hheld : n.held = (m.dropHeld g).held := by rw [hn, held_of_bare (bump_bare ..)]
    have hstep : m.loses n apartWord := by
      rw [hn]
      exact (loses_dropHeld ..).trans (loses_bump _ _ _ (cluster_ne_chip s) (by decide))
    obtain ⟨hloses, hsub, hgone⟩ := ih n
    have hdo : m.discards s (g :: gone) = n.discards s gone := by rw [hn]; rfl
    rw [hdo]
    refine ⟨hstep.trans hloses, fun e he => ?_, fun h hh e he => ?_⟩
    · have hin := hsub e he
      rw [hheld] at hin
      exact (dropHeld_drops m g noWord).held e hin
    · obtain rfl | hh := List.mem_cons.1 hh
      · have hin := hsub e he
        rw [hheld] at hin
        exact gone_dropHeld m h e hin
      · exact hgone h hh e he

theorem dropLining_eq (m : Mach) (s : Nat) : ∃ keys, m.dropLining s = (m.discards s (m.held.filter fun h =>
    h.part == .lining && h.staging != 2 && h.acct.1 == s)).pfaultKeys keys Reason.packetLost := ⟨_, rfl⟩

/-- The cluster of a packet's account is that of its output. -/
theorem acct_of_output (h e : Held) (ho : e.output = h.output) : e.acct.1 = h.acct.1 := by
  simp only [Held.acct, acctOf, ho]
  split
  · rfl
  · split
    · rfl
    · split <;> rfl

/-- No packet of the Lining stands on the stack. -/
def unlined (m : Mach) (s : Nat) : Prop := ∀ h ∈ m.held, h.part = .lining → h.staging ≠ 2 → h.acct.1 ≠ s

theorem unlined_of_from {m n : Mach} {s : Nat} (h : m.unlined s) (hfrom : m.liningFrom n) : n.unlined s := by
  intro x hx hp hst
  obtain ⟨e, he, hpe, hse, hoe⟩ := hfrom.origin x hx hp
  rw [← acct_of_output x e hoe]
  exact h e he hpe (by rw [hse]; exact hst)

theorem dropLining_spec (m : Mach) (s : Nat) : m.loses (m.dropLining s) apartWord ∧ (m.dropLining s).unlined s := by
  obtain ⟨keys, hdo⟩ := m.dropLining_eq s
  rw [hdo]
  obtain ⟨hloses, hsub, hgone⟩ := m.discards_spec s (m.held.filter fun h => h.part == .lining && h.staging != 2 && h.acct.1 == s)
  obtain ⟨n, hn⟩ : ∃ n, n = m.discards s (m.held.filter fun h => h.part == .lining && h.staging != 2 && h.acct.1 == s) := ⟨_, rfl⟩
  rw [← hn] at hloses hsub hgone ⊢
  have hun : n.unlined s := fun h hh hp hst ha =>
    hgone h (List.mem_filter.2 ⟨hsub h hh, by simp [hp, hst, ha]⟩) h hh rfl
  have hfault := loses_pfaultKeys n keys Reason.packetLost
  exact ⟨hloses.trans hfault, unlined_of_from hun hfault.lining⟩

theorem loses_loseChunks (m : Mach) (s : Nat) : m.loses (m.loseChunks s) apartWord :=
  loses_foldl _ (fun n g => loses_pleatFault n g _) _ m

/-! ### A bit of a retirement register -/

/-- A bit of a live and shadow copy is set. -/
def bitSet (m : Mach) (k b : Nat) : Mach :=
  (m.setLive .sx k (m.liveCopy .sx k ||| BitVec.ofNat 32 (2 ^ b))).setShadow .sx k (m.shadow .sx k ||| BitVec.ofNat 32 (2 ^ b))

/-- Bit `b` of a word's live and shadow copies is 1. -/
def bitIn (m : Mach) (k b : Nat) : Prop :=
  bitsOf (m.liveCopy .sx k).toNat b 1 = 1 ∧ bitsOf (m.shadow .sx k).toNat b 1 = 1

theorem bitsOf_bit (w : Word) (b : Nat) : bitsOf w.toNat b 1 = 1 ↔ w.getLsbD b = true := by
  rw [bitsOf, BitVec.getLsbD, Nat.testBit_eq_decide_div_mod_eq]
  simp

theorem bitsOf_or_bit (w : Word) {b : Nat} (hb : b < 32) : bitsOf (w ||| BitVec.ofNat 32 (2 ^ b)).toNat b 1 = 1 := by
  rw [bitsOf_bit, BitVec.getLsbD, BitVec.toNat_or, BitVec.toNat_ofNat, Nat.testBit_or, Nat.testBit_mod_two_pow,
    Nat.testBit_two_pow_self]
  simp [hb]

theorem bitsOf_or_other (w x : Word) {b : Nat} (h : bitsOf w.toNat b 1 = 1) : bitsOf (w ||| x).toNat b 1 = 1 := by
  rw [bitsOf_bit] at h ⊢
  simp [BitVec.getLsbD_or, h]

section
variable (m : Mach) (k b j : Nat)

theorem shadow_setShadow (v : Word) : (m.setShadow .sx k v).shadow .sx j = if j = k then v else m.shadow .sx j := by
  rw [shadow, setShadow, setRf_epParams, rf_setRf, Tbl.get_set]; rfl

theorem liveCopy_bitSet : (m.bitSet k b).liveCopy .sx j
    = if j = k then m.liveCopy .sx k ||| BitVec.ofNat 32 (2 ^ b) else m.liveCopy .sx j := liveCopy_setLive ..

theorem shadow_bitSet : (m.bitSet k b).shadow .sx j
    = if j = k then m.shadow .sx k ||| BitVec.ofNat 32 (2 ^ b) else m.shadow .sx j := shadow_setShadow ..

theorem bitIn_bitSet (hb : b < 32) : (m.bitSet k b).bitIn k b := by
  rw [bitIn, liveCopy_bitSet, shadow_bitSet, if_pos rfl, if_pos rfl]
  exact ⟨bitsOf_or_bit _ hb, bitsOf_or_bit _ hb⟩

/-- A bit that is set stays set. -/
theorem bitIn_bitSet_of {c : Nat} (h : m.bitIn j c) : (m.bitSet k b).bitIn j c := by
  rw [bitIn, liveCopy_bitSet, shadow_bitSet]
  obtain ⟨hlive, hshadow⟩ := h
  split
  · rename_i hjk
    subst hjk
    exact ⟨bitsOf_or_other _ _ hlive, bitsOf_or_other _ _ hshadow⟩
  · exact ⟨hlive, hshadow⟩

theorem word_bitSet : (m.bitSet k b).word .sx j = m.word .sx j := rfl

theorem live_bitSet_other (h : j ≠ k) : (m.bitSet k b).live .sx j = m.live .sx j := by
  have hlive := m.liveCopy_bitSet k b j
  rw [if_neg h] at hlive
  rw [live, live, hlive]
  rfl

end

theorem loses.bitIn {m n : Mach} {f : Nat → Bool} (h : m.loses n f) {k b : Nat} (hm : m.bitIn k b) : n.bitIn k b := by
  rw [Mach.bitIn, liveCopy_of_kept h.regs h.epParams, shadow_of_kept h.regs h.epParams]
  exact hm

/-! ### Accesses in flight (R362) -/

/-- An answer of a memory service is no packet of the Lining. -/
theorem loses_svcAnswer (m : Mach) (cl port : Nat) (p : Packet) (f : Nat → Bool) : m.loses (m.svcAnswer cl port p) f := by
  refine ⟨⟨rfl, fun _ _ => rfl⟩, rfl, rfl, rfl, rfl, rfl, rfl, ⟨fun h hh hp => ?_⟩⟩
  simp only [svcAnswer, push, List.mem_append, List.mem_singleton] at hh
  obtain hh | rfl := hh
  · exact ⟨h, hh, hp, rfl, rfl⟩
  · exact absurd hp nofun

theorem loses_finishReq (m : Mach) (r : PoolReq) (f : Nat → Bool) : m.loses (m.finishReq r) f := by
  have hgone : m.loses (m.removeReq r.id) f := ⟨⟨rfl, fun _ _ => rfl⟩, rfl, rfl, rfl, rfl, rfl, rfl, liningFrom_of_sub fun _ h => h⟩
  unfold finishReq
  refine hgone.trans ?_
  generalize m.removeReq r.id = n
  dsimp only
  split
  · exact loses_foldl _ (fun n x => loses_svcAnswer n r.home r.port x f) _ n
  · split
    · exact loses_svcAnswer ..
    · split
      · exact loses_svcAnswer ..
      · split <;> exact loses_svcAnswer ..

theorem loses_partEnded (m : Mach) (r : PoolReq) (f : Nat → Bool) : m.loses (m.partEnded r) f := by
  unfold partEnded
  split
  · exact loses_finishReq ..
  · exact ⟨⟨rfl, fun _ _ => rfl⟩, rfl, rfl, rfl, rfl, rfl, rfl, liningFrom_of_sub fun _ h => h⟩

/-- A part whose access ends without its bytes. -/
def partLost (a : PoolReq × Mach) (p : PoolPart) : PoolReq × Mach :=
  let (v, m) := a.2.fresh (8 * p.len)
  ({ a.1 with
      data := a.1.data ++ [(p.off, leBytes p.len v.toNat)]
      badSeg := p.off / 4096 * 4096 :: (p.off + p.len - 1) / 4096 * 4096 :: a.1.badSeg }, m)

/-- What a request's parts on a stack become when they end. -/
def reqEnded (m : Mach) (s : Nat) (r : PoolReq) : Mach :=
  let a := (r.parts.filter fun p => p.stack == s && !p.done).foldl partLost (r, m)
  a.2.partEnded { a.1 with
    poisoned := true, parts := a.1.parts.map fun p => if p.stack = s then { p with done := true } else p }

theorem endAccesses_eq (m : Mach) (s : Nat) : m.endAccesses s
    = (m.mem.reqs.filter fun r => r.parts.any fun p => p.stack == s && !p.done).foldl (fun m r => m.reqEnded s r) m := rfl

theorem partsLost_fresh (ps : List PoolPart) (r : PoolReq) (m : Mach) :
    ∃ n, (ps.foldl partLost (r, m)).2 = { m with freeCtr := n } := by
  have hall : ∀ (ps : List PoolPart) (a : PoolReq × Mach), (∃ n, a.2 = { m with freeCtr := n }) →
      ∃ n, (ps.foldl partLost a).2 = { m with freeCtr := n } := by
    intro ps
    induction ps with
    | nil => exact fun a ha => ha
    | cons p ps ih => exact fun a ⟨n, hn⟩ => ih _ ⟨n + 1, by simp only [partLost, fresh, hn]⟩
  exact hall ps (r, m) ⟨m.freeCtr, rfl⟩

theorem loses_endAccesses (m : Mach) (s : Nat) (f : Nat → Bool) : m.loses (m.endAccesses s) f := by
  rw [endAccesses_eq]
  refine loses_foldl _ (fun n r => ?_) _ m
  obtain ⟨x, hx⟩ := partsLost_fresh (r.parts.filter fun p => p.stack == s && !p.done) r n
  have hfresh : n.loses { n with freeCtr := x } f :=
    ⟨⟨rfl, fun _ _ => rfl⟩, rfl, rfl, rfl, rfl, rfl, rfl, liningFrom_of_sub fun _ h => h⟩
  unfold reqEnded
  dsimp only
  rw [hx]
  exact hfresh.trans (loses_partEnded _ _ f)

theorem endAccesses_none {m : Mach} {s : Nat} (h : ∀ r ∈ m.mem.reqs, ∀ p ∈ r.parts, p.stack = s → p.done = true) : m.endAccesses s = m := by
  have hnone : (m.mem.reqs.filter fun r => r.parts.any fun p => p.stack == s && !p.done) = [] := by
    rw [List.filter_eq_nil_iff]
    intro r hr hany
    obtain ⟨p, hp, hboth⟩ := List.any_eq_true.1 hany
    rw [Bool.and_eq_true, beq_iff_eq] at hboth
    rw [h r hr p hp hboth.1] at hboth
    exact absurd hboth.2 (by decide)
  rw [endAccesses_eq, hnone]
  rfl

/-! ### A stack retires -/

/-- A stack leaves the pool. -/
def stackOut (m : Mach) (s : Nat) : Mach :=
  m.setMem { m.mem with retired := s :: m.mem.retired, failing := m.mem.failing.filter (· != s) }

theorem retireStack_eq (m : Mach) {s : Nat} (h : s ∉ m.mem.retired) : m.retireStack s =
    (((((((m.bitSet (item Pg.chip 0 R.chpStackRetire) s).endAccesses s).loseRegions s).dropLining s).loseChunks s).stackOut s).raise
      .sx Pg.chip 3 s) := by
  have hc : m.mem.retired.contains s = false := by simpa using h
  unfold retireStack stackOut bitSet
  rw [hc, if_neg Bool.false_ne_true]

/-- From `m` to `n` stack `s` has been retired. -/
structure stackGone (m n : Mach) (s : Nat) : Prop where
  retired : n.mem.retired = s :: m.mem.retired
  failing : n.mem.failing = m.mem.failing.filter (· != s)
  out1 : n.out1 = m.out1
  boot : n.boot = m.boot
  lost : n.guardSx = m.guardSx
  epParams : n.epParams = m.epParams
  status : n.word .sx (item Pg.chip 0 R.chpBootStatus) = m.word .sx (item Pg.chip 0 R.chpBootStatus)
  bit : n.bitIn (item Pg.chip 0 R.chpStackRetire) s
  bits : ∀ k b, m.bitIn k b → n.bitIn k b
  event : n.event .sx Pg.chip 3 = true
  unlined : n.unlined s

theorem rg_bitSet (m : Mach) (b r : Nat) (hr : r < 64) (f : Fld) (hf : f.off < 4) :
    (m.bitSet (item Pg.chip 0 R.chpStackRetire) b).rg r f = m.rg r f := by
  have hsmall : 4 * r + f.off < 2 ^ 44 := by omega
  have hne : item Pg.guard 4 (4 * r + f.off) ≠ item Pg.chip 0 R.chpStackRetire := fun h => by
    obtain ⟨hpage, -⟩ := (item_inj hsmall (by decide) (by decide) (by decide)).1 h
    exact absurd hpage (by decide)
  rw [rg, rg, tfld, tfld, live_bitSet_other _ _ _ _ hne]

theorem retireStack_gone (m : Mach) {s : Nat} (hs : s < 32) (h : s ∉ m.mem.retired) : m.stackGone (m.retireStack s) s ∧
    (m.mem.reqs = [] → ∀ r, r < 64 → m.rg r F.region_valid = 1 → s ∈ stacksOf (m.rg r F.region_stackMask) →
      (m.retireStack s).storedT .sx Pg.chip 4 1 r F.regionStat_state = 3) := by
  have hdo := m.retireStack_eq h
  obtain ⟨a, ha⟩ : ∃ a, a = m.bitSet (item Pg.chip 0 R.chpStackRetire) s := ⟨_, rfl⟩
  have habit : a.bitIn (item Pg.chip 0 R.chpStackRetire) s := ha ▸ bitIn_bitSet _ _ _ hs
  have habits : ∀ k b, m.bitIn k b → a.bitIn k b := fun k b hk => ha ▸ bitIn_bitSet_of _ _ _ _ hk
  have haretired : a.mem = m.mem := by rw [ha]; rfl
  have haout : a.out1 = m.out1 := by rw [ha]; rfl
  have haboot : a.boot = m.boot := by rw [ha]; rfl
  have halost : a.guardSx = m.guardSx := by rw [ha]; rfl
  have haep : a.epParams = m.epParams := by rw [ha]; rfl
  have haword (k : Nat) : a.word .sx k = m.word .sx k := by rw [ha]; rfl
  have harg (r : Nat) (hr : r < 64) (f : Fld) (hf : f.off < 4) : a.rg r f = m.rg r f := by rw [ha]; exact rg_bitSet _ _ _ hr _ hf
  rw [← ha] at hdo
  obtain ⟨b, hb⟩ : ∃ b, b = a.endAccesses s := ⟨_, rfl⟩
  have hended : a.loses b unbootWord := hb ▸ loses_endAccesses ..
  have hnone : m.mem.reqs = [] → b = a := fun hreqs => by
    rw [hb]
    exact endAccesses_none fun r hr => by rw [haretired, hreqs] at hr; exact absurd hr List.not_mem_nil
  rw [← hb] at hdo
  obtain ⟨hregions, hstate⟩ := b.loseRegions_spec s
  obtain ⟨d, hd⟩ : ∃ d, d = b.loseRegions s := ⟨_, rfl⟩
  rw [← hd] at hdo hregions hstate
  obtain ⟨hlining, hun⟩ := d.dropLining_spec s
  obtain ⟨e, he⟩ : ∃ e, e = d.dropLining s := ⟨_, rfl⟩
  rw [← he] at hdo hlining hun
  have hchunks := e.loses_loseChunks s
  obtain ⟨o, ho⟩ : ∃ o, o = e.loseChunks s := ⟨_, rfl⟩
  rw [← ho] at hdo hchunks
  have hlate := hlining.trans hchunks
  have hall := (hended.trans hregions).trans (hlate.mono fun _ => unboot_of_apart)
  have hraise := touches_raise (o.stackOut s) .sx Pg.chip 3 s
  have hevent : ((o.stackOut s).raise .sx Pg.chip 3 s).event .sx Pg.chip 3 = true :=
    event_raise _ _ _ _ _ _ _ (by decide) (.inr ⟨rfl, rfl⟩)
  rw [← hdo] at hraise hevent
  obtain ⟨n, hn⟩ : ∃ n, n = m.retireStack s := ⟨_, rfl⟩
  rw [← hn] at hraise hevent ⊢
  have hlast := loses_of_touches (hraise.mono fun _ => apart_of_event)
  have hbits (k b : Nat) (h : a.bitIn k b) : n.bitIn k b := hlast.bitIn (hall.bitIn h)
  refine ⟨⟨?_, ?_, ?_, ?_, ?_, ?_, ?_, hbits _ _ habit, fun k b hk => hbits k b (habits k b hk), hevent, ?_⟩, fun hreqs r hr hv hmask => ?_⟩
  · rw [hlast.retired]
    exact congrArg (s :: ·) (hall.retired.trans (by rw [haretired]))
  · rw [hlast.failing]
    exact congrArg (List.filter (· != s)) (hall.failing.trans (by rw [haretired]))
  · exact hlast.out1.trans (hall.out1.trans haout)
  · exact hlast.boot.trans (hall.boot.trans haboot)
  · exact hlast.lost.trans (hall.lost.trans halost)
  · exact hlast.epParams.trans (hall.epParams.trans haep)
  · rw [word_of_kept hlast.regs _ (by decide)]
    exact (word_of_kept hall.regs _ (by decide)).trans (haword _)
  · have hout : (o.stackOut s).unlined s := unlined_of_from (n := o) hun hchunks.lining
    exact unlined_of_from hout hlast.lining
  · have hb : b = a := hnone hreqs
    rw [hlast.region hr]
    change o.storedT .sx Pg.chip 4 1 r F.regionStat_state = 3
    rw [hlate.region hr]
    exact hstate r hr (by rw [hb, harg r hr _ (by decide)]; exact hv) (by rw [hb, harg r hr _ (by decide)]; exact hmask)

end Mach

end Sys2Proof.Machine
end

section
/-! O26: zeroing (R353, R354), the scrubber (R360, R361) and stacks that fail (R362, R363). -/

set_option Elab.async false

namespace Sys2Proof.Machine
open Sys2Proof

namespace Mach

/-! ### Zeroing -/

/-- What a table reads as when the entries of some keys are gone. -/
theorem get_filter {β : Type} (d : Nat → β) (p : Nat → Bool) (t : Tbl β) (a : Nat) :
    Tbl.get d (t.filter fun e => p e.1) a = if p a then Tbl.get d t a else d a := by
  induction t with
  | nil => exact (ite_self _).symm
  | cons e t ih =>
    obtain ⟨j, v⟩ := e
    rw [List.filter_cons]
    by_cases hj : p j = true
    · rw [if_pos hj]
      by_cases hja : j = a
      · subst hja
        simp [Tbl.get, hj]
      · simp [Tbl.get, hja, ih]
    · rw [if_neg hj, ih]
      by_cases hja : j = a
      · subst hja
        simp [hj]
      · simp [Tbl.get, hja]

/-- A region begins to serve. -/
def regionServes (m : Mach) (r : Nat) : Mach :=
  (m.setMem { m.mem with bad := m.mem.bad.filter fun w => !m.inExtent r (32 * w) }).setRegionState r 2

theorem zeroingDone_serves {x : Store} {m : Mach} {r : Nat} (hst : m.regionState r = 1) (hmap : m.mappedTo r = false)
    (hlevel : m.shedLevel ≠ 4) :
    zeroingDone x m r = ({ x with hbm := x.hbm.filter fun e => !m.inExtent r e.1 }, m.regionServes r) := by
  unfold zeroingDone
  rw [if_neg]
  · rfl
  · rintro (h | h | h)
    · exact h hst
    · rw [hmap] at h; exact absurd h (by decide)
    · exact hlevel h

theorem zeroingDone_waits {x : Store} {m : Mach} {r : Nat} (h : m.regionState r ≠ 1 ∨ m.mappedTo r = true ∨ m.shedLevel = 4) :
    zeroingDone x m r = (x, m) := if_pos h

theorem regionServes_spec (m : Mach) {r : Nat} (hr : r < 64) : (m.regionServes r).regionState r = 2 ∧
    Mach.touches (m.setMem { m.mem with bad := m.mem.bad.filter fun w => !m.inExtent r (32 * w) }) (m.regionServes r) .sx
      (fun k => k == item Pg.chip 4 r) := by
  refine ⟨?_, touches_setWord _ _ _ _ (by simp)⟩
  rw [regionState_eq _ hr, regionServes, storedT_setRegionState _ hr hr, if_pos rfl]

/-! ### The scrubber (R360) -/

section
variable {m : Mach} {k : Nat}

/-- What a scrub's word was found to be. -/
def scrubbed (m : Mach) (s outcome w a : Nat) : Mach :=
  if outcome = 2 ∨ m.isBad w then
    let m := (m.markBad w).countUe w
    match m.regionAt s (32 * a) with
    | some r => m.pfaultKeys [m.rg r F.region_pkey] Reason.dataPoisoned
    | none => m
  else if outcome = 1 then m.countCe s 1
  else m

/-- The scrubber goes on to its next word; a pass that ends is counted. -/
def scrubNext (m : Mach) (s total a : Nat) : Mach :=
  let m := m.setMem { m.mem with scrubAt := Tbl.set (fun _ => 0) m.mem.scrubAt s ((a + 1) % total) }
  if a + 1 = total then m.bump .sx (Pg.cluster s) R.cluScrubPassCnt else m

theorem scrubRead_runs (hen : m.bit .sx (Pg.cluster k) F.cluScrubCtrl_scrubEn = true) (hlevel : m.shedLevel = 0)
    (hret : k ∉ m.mem.retired) (hrefresh : m.mem.selfRefresh = false) {total p w : Nat} (htotal : m.poolUnits k * 2 ^ 21 = total)
    (hat : Tbl.get (fun _ => 0) m.mem.scrubAt k = p) (hw : k * 2 ^ 35 + p = w) (hp : p < total) (outcome : Nat) :
    m.scrubRead k outcome = (m.scrubbed k outcome w p).scrubNext k total p := by
  have hrun : ¬((!m.bit .sx (Pg.cluster k) F.cluScrubCtrl_scrubEn) = true ∨ m.shedLevel ≠ 0 ∨ m.mem.retired.contains k = true ∨
      m.mem.selfRefresh = true ∨ total = 0) := by
    rintro (h | h | h | h | h)
    · rw [hen] at h; exact absurd h (by decide)
    · exact h hlevel
    · exact hret (by simpa using h)
    · rw [hrefresh] at h; exact absurd h (by decide)
    · omega
  unfold scrubRead
  dsimp only
  rw [htotal, hat, if_neg hrun, if_pos hp, hw]
  rfl

theorem scrubRead_rests (h : m.bit .sx (Pg.cluster k) F.cluScrubCtrl_scrubEn = false ∨ m.shedLevel ≠ 0 ∨ k ∈ m.mem.retired ∨
    m.mem.selfRefresh = true) (o : Nat) : m.scrubRead k o = m := by
  unfold scrubRead
  dsimp only
  rw [if_pos]
  rcases h with h | h | h | h
  · exact .inl (by rw [h]; rfl)
  · exact .inr (.inl h)
  · exact .inr (.inr (.inl (by simpa using h)))
  · exact .inr (.inr (.inr (.inl h)))

end

/-- Going on keeps every word but the pass count, which counts a pass that ends. -/
theorem scrubNext_spec (m : Mach) (s total a : Nat) :
    Mach.touches (m.setMem { m.mem with scrubAt := Tbl.set (fun _ => 0) m.mem.scrubAt s ((a + 1) % total) }) (m.scrubNext s total a) .sx
      (fun j => a + 1 == total && pageWord (Pg.cluster s) R.cluScrubPassCnt j) ∧
    (a + 1 = total → m.counted (m.scrubNext s total a) .sx (Pg.cluster s) R.cluScrubPassCnt) := by
  unfold scrubNext
  dsimp only
  split
  · rename_i h
    exact ⟨touches_setWord _ _ _ _ (by simp [h, pageWord]), fun _ => word_bump ..⟩
  · rename_i h
    exact ⟨touches_refl .., fun he => absurd he h⟩

theorem fld_setMem (m : Mach) (x : MemSt) (c : Chip) (p : Nat) (f : Fld) : (m.setMem x).fld c p f = m.fld c p f :=
  fld_congr rfl rfl ..

theorem countCe_one (m : Mach) (s : Nat) : m.countCe s 1 =
    let old := Tbl.get (fun _ => 0) m.mem.ceCount s
    let m := m.bump .sx (Pg.cluster s) R.cluHbmCeCnt
    let m := m.setMem { m.mem with ceCount := Tbl.set (fun _ => 0) m.mem.ceCount s (old + 1) }
    let lim := m.fld .sx (Pg.cluster s) F.cluScrubCtrl_ceLimit
    if old ≤ lim ∧ lim < old + 1 then m.raise .sx (Pg.cluster s) 5 0 else m := rfl

/-- A corrected word is counted. -/
theorem countCe_spec (m : Mach) (s : Nat)
    (hlim : Tbl.get (fun _ => 0) m.mem.ceCount s + 1 ≤ m.fld .sx (Pg.cluster s) F.cluScrubCtrl_ceLimit) :
    Mach.touches (m.setMem { m.mem with
      ceCount := Tbl.set (fun _ => 0) m.mem.ceCount s (Tbl.get (fun _ => 0) m.mem.ceCount s + 1) }) (m.countCe s 1) .sx
      (pageWord (Pg.cluster s) R.cluHbmCeCnt) ∧ m.counted (m.countCe s 1) .sx (Pg.cluster s) R.cluHbmCeCnt := by
  have hbump : m.touches (m.bump .sx (Pg.cluster s) R.cluHbmCeCnt) .sx (pageWord (Pg.cluster s) R.cluHbmCeCnt) :=
    touches_setWord _ _ _ _ (by simp [pageWord])
  have hcount := word_bump m .sx (Pg.cluster s) R.cluHbmCeCnt
  obtain ⟨n, hn⟩ : ∃ n, n = m.bump .sx (Pg.cluster s) R.cluHbmCeCnt := ⟨_, rfl⟩
  rw [← hn] at hbump hcount
  have hmem : n.mem = m.mem := mem_of_bare hbump.1
  have hfld : n.fld .sx (Pg.cluster s) F.cluScrubCtrl_ceLimit = m.fld .sx (Pg.cluster s) F.cluScrubCtrl_ceLimit :=
    fld_of_kept hbump.2.1 (epParams_of_bare hbump.1) _ _ (by rw [pageWord_item _ _ _ _ (by decide) (by decide)]; simp; decide)
  have hquiet : ¬(Tbl.get (fun _ => 0) m.mem.ceCount s ≤ n.fld .sx (Pg.cluster s) F.cluScrubCtrl_ceLimit ∧
      n.fld .sx (Pg.cluster s) F.cluScrubCtrl_ceLimit < Tbl.get (fun _ => 0) m.mem.ceCount s + 1) := by
    rw [hfld]; omega
  have hdo : m.countCe s 1 = n.setMem { n.mem with
      ceCount := Tbl.set (fun _ => 0) n.mem.ceCount s (Tbl.get (fun _ => 0) m.mem.ceCount s + 1) } := by
    rw [countCe_one, ← hn]
    dsimp only
    rw [fld_setMem, if_neg hquiet]
  rw [hmem] at hdo
  rw [hdo]
  exact ⟨hbump.setMem _, hcount⟩

/-- An uncorrectable word is counted and raised. -/
theorem countUe_spec (m : Mach) {s w : Nat} (hs : w / 2 ^ 35 = s) :
    m.touches (m.countUe w) .sx (fun j => pageWord (Pg.cluster s) R.cluHbmUeCnt j || eventWord (Pg.cluster s) j) ∧
    m.counted (m.countUe w) .sx (Pg.cluster s) R.cluHbmUeCnt ∧ (m.countUe w).event .sx (Pg.cluster s) 4 = true := by
  have hcount := word_bump m .sx (Pg.cluster s) R.cluHbmUeCnt
  unfold countUe
  dsimp only
  rw [hs]
  generalize w % 2 ^ 35 = d
  refine ⟨Mach.touches.trans (n := m.bump .sx (Pg.cluster s) R.cluHbmUeCnt) (touches_setWord _ _ _ _ (by simp [pageWord]))
    ((touches_raise ..).mono fun j hj => by simp [hj]), ?_, event_raise _ _ _ _ _ _ _ (by decide) (.inr ⟨rfl, rfl⟩)⟩
  rw [counted, word_raise _ _ _ _ _ _ (eventWord_none _ _ _ (by decide) (by unfold Pg.cluster Pg.trace; omega) (by decide)), hcount]

theorem cluster_page {s k : Nat} (hs : s < 6) (h : itemPage k = Pg.guard ∨ itemPage k = Pg.chip) :
    (pageWord (Pg.cluster s) R.cluHbmUeCnt k || eventWord (Pg.cluster s) k) = false := by
  have hcl : itemPage k ≠ Pg.cluster s := by
    rcases h with h | h <;> rw [h] <;> unfold Pg.cluster <;> simp [Pg.guard, Pg.chip] <;> omega
  have htr : itemPage k ≠ Pg.trace := by
    rcases h with h | h <;> rw [h] <;> decide
  have hword : (k == item (Pg.cluster s) 0 R.cluHbmUeCnt) = false := beq_false_of_ne fun he => hcl (by
    rw [he, item_page _ _ _ (by decide) (by decide)])
  simp [pageWord, eventWord, hword, hcl, htr]

/-- Where the Guard's and the chip's words govern as they did, the regions stand. -/
theorem regionAt_congr {m n : Mach} (hlive : ∀ k, itemPage k = Pg.guard ∨ itemPage k = Pg.chip → n.live .sx k = m.live .sx k)
    (c a : Nat) : n.regionAt c a = m.regionAt c a := by
  have hrg (r : Nat) (hr : r < 64) (f : Fld) (hf : f.off < 4) : n.rg r f = m.rg r f := by
    have hsmall : 4 * r + f.off < 2 ^ 44 := by omega
    rw [rg, rg, tfld, tfld, hlive _ (.inl (item_page _ _ _ hsmall (by decide)))]
  have hstate (r : Nat) (hr : r < 64) : n.regionState r = m.regionState r := by
    have hsmall : 1 * r + F.regionStat_state.off < 2 ^ 44 := by simp [F.regionStat_state]; omega
    rw [regionState, regionState, tfld, tfld, hlive _ (.inr (item_page _ _ _ hsmall (by decide)))]
  unfold regionAt
  refine List.find?_congr fun r hr => ?_
  have hr := List.mem_range.1 hr
  rw [hrg r hr F.region_stkBase (by decide), hrg r hr F.region_valid (by decide), hstate r hr, hrg r hr F.region_stackMask (by decide),
    hrg r hr F.region_perStack (by decide)]

theorem markBad_new {m : Mach} {w : Nat} (h : w ∉ m.mem.bad) : m.markBad w = m.setMem { m.mem with bad := w :: m.mem.bad } :=
  if_neg (by simpa [isBad] using h)

/-- A word that cannot be corrected. -/
def badMarked (m : Mach) (w : Nat) : Mach := m.setMem { m.mem with bad := w :: m.mem.bad }

theorem scrubbed_bad {m : Mach} {s p w : Nat} (hs : s < 6) (hw : w / 2 ^ 35 = s) (hbad : w ∉ m.mem.bad)
    (hregion : m.regionAt s (32 * p) = none) : m.scrubbed s 2 w p = (m.badMarked w).countUe w := by
  have hmark : m.markBad w = m.badMarked w := markBad_new hbad
  have hrf : (m.badMarked w).rf .sx = m.rf .sx := rfl
  have hep : (m.badMarked w).epParams = m.epParams := rfl
  obtain ⟨a, ha⟩ : ∃ a, a = m.badMarked w := ⟨_, rfl⟩
  rw [← ha] at hmark hrf hep ⊢
  have hcount := (a.countUe_spec hw).1
  have hnone : (a.countUe w).regionAt s (32 * p) = none := by
    rw [regionAt_congr (m := m) fun k hk => (live_of_kept hcount.2.1 (epParams_of_bare hcount.1) _ (cluster_page hs hk)).trans
      (live_congr hrf hep k), hregion]
  unfold scrubbed
  rw [if_pos (.inl rfl), hmark]
  dsimp only
  rw [hnone]

theorem scrubbed_good {m : Mach} {s o p w : Nat} (hbad : w ∉ m.mem.bad) (ho : o ≠ 2) :
    m.scrubbed s o w p = if o = 1 then m.countCe s 1 else m :=
  if_neg fun h => h.elim ho fun h => hbad (by simpa [isBad] using h)

/-! ### A stack fails (R362) -/

/-- The failure of a stack: its accesses end, and it waits for its hem. -/
def stackFails (m : Mach) (s : Nat) : Mach :=
  if m.mem.retired.contains s ∨ m.mem.failing.contains s then m
  else
    let m := (m.endAccesses s).tear (m.clusterHolds s)
    m.setMem { m.mem with failing := m.mem.failing ++ [s] }

theorem stackFails_eq {m : Mach} {s : Nat} (hret : s ∉ m.mem.retired) (hfail : s ∉ m.mem.failing) : m.stackFails s =
    let m := (m.endAccesses s).tear (m.clusterHolds s)
    m.setMem { m.mem with failing := m.mem.failing ++ [s] } := if_neg fun h => h.elim (fun h => hret (by simpa using h))
      fun h => hfail (by simpa using h)

theorem finishReq_poisoned (m : Mach) {r : PoolReq} (hop : r.pkt.opcode = Op.write) (hp : r.poisoned = true) :
    m.finishReq r = (m.removeReq r.id).svcNack r.home r.port r.pkt Status.poisoned := by
  unfold finishReq
  dsimp only
  rw [if_neg (by rw [hop]; decide), if_pos hp]

/-- The one request of the switch, whose one part ends with its stack. -/
theorem endAccesses_one {m : Mach} {s : Nat} {r : PoolReq} (hreqs : m.mem.reqs = [r]) {pt : PoolPart} (hparts : r.parts = [pt])
    (hstack : pt.stack = s) (hdone : pt.done = false) (hop : r.pkt.opcode = Op.write) :
    (m.endAccesses s).mem.reqs = [] ∧
    (m.endAccesses s).held = m.heldWith (r.port, m.held) r.home [m.response .sx r.pkt Op.nack Status.poisoned (m.svcEcho r.home) 0 0 []] := by
  have hfilter : (m.mem.reqs.filter fun r => r.parts.any fun p => p.stack == s && !p.done) = [r] := by
    rw [hreqs]
    simp [hparts, hstack, hdone]
  have hgone : (r.parts.filter fun p => p.stack == s && !p.done) = [pt] := by
    rw [hparts]
    simp [hstack, hdone]
  obtain ⟨a, ha⟩ : ∃ a, a = partLost (r, m) pt := ⟨_, rfl⟩
  obtain ⟨q, hq⟩ : ∃ q : PoolReq, q = { a.1 with
    poisoned := true, parts := a.1.parts.map fun p => if p.stack = s then { p with done := true } else p } := ⟨_, rfl⟩
  have hdo : m.endAccesses s = ({ m with freeCtr := m.freeCtr + 1 } : Mach).partEnded q := by
    rw [endAccesses_eq, hfilter, List.foldl_cons, List.foldl_nil, reqEnded, hgone, List.foldl_cons, List.foldl_nil, ← ha, hq]
    rw [show a.2 = { m with freeCtr := m.freeCtr + 1 } from by rw [ha]; rfl]
  have hpkt : q.pkt = r.pkt := by rw [hq, ha]; rfl
  have hid : q.id = r.id := by rw [hq, ha]; rfl
  have hhome : q.home = r.home := by rw [hq, ha]; rfl
  have hport : q.port = r.port := by rw [hq, ha]; rfl
  have hpoison : q.poisoned = true := by rw [hq]
  have hqparts : q.parts = [{ pt with done := true }] := by
    rw [hq, show a.1.parts = [pt] from by rw [ha]; exact hparts, List.map_cons, List.map_nil, if_pos hstack]
  have hend : m.endAccesses s = (({ m with freeCtr := m.freeCtr + 1 } : Mach).removeReq r.id).svcNack r.home r.port r.pkt Status.poisoned := by
    rw [hdo, partEnded, if_pos (by rw [hqparts]; rfl), finishReq_poisoned _ (by rw [hpkt, hop]) hpoison, hpkt, hid, hhome, hport]
  rw [hend]
  refine ⟨?_, ?_⟩
  · change m.mem.reqs.filter (fun q => q.id != r.id) = []
    rw [hreqs]
    simp
  · rfl

end Mach

theorem goS_eq {s : State} (f : Store × Mach → Store × Mach) {x : Store} {n : Mach} (h : f (s.store, s.m) = (x, n)) :
    s.goS f = .next { s with store := x, m := n } := by
  rw [State.goS, h]

/-- The stack of a pool word. -/
theorem wordStack (m : Mach) {k q : Nat} (h : q < m.poolUnits k * 2 ^ 21) : (k * 2 ^ 35 + q) / 2 ^ 35 = k := by
  have hle : m.poolUnits k ≤ 768 := by unfold Mach.poolUnits; omega
  omega

/-- What two stages of a scrub leave: the first counts an error, the second goes on. -/
theorem Mach.scrub_after {m a n : Mach} {x : MemSt} {k v : Nat} {f g : Nat → Bool} (h : (m.setMem x).touches a .sx f)
    (hn : (a.setMem { a.mem with scrubAt := Tbl.set (fun _ => 0) a.mem.scrubAt k v }).touches n .sx g) {p o o' : Nat} (ho : g (item p 0 o) = false)
    (ho' : f (item p 0 o') = false) : Mach.touches (m.setMem { x with scrubAt := Tbl.set (fun _ => 0) x.scrubAt k v }) n .sx (fun j => f j || g j) ∧
      (m.counted a .sx p o → m.counted n .sx p o) ∧ (a.counted n .sx p o' → m.counted n .sx p o') := by
  have hmem : a.mem = x := Mach.mem_of_bare h.1
  rw [hmem] at hn
  refine ⟨((h.setMem { x with scrubAt := Tbl.set (fun _ => 0) x.scrubAt k v }).mono fun j hj => by simp [hj]).trans (hn.mono fun j hj => by simp [hj]),
    fun hc => ?_, fun hc => ?_⟩
  · rw [Mach.counted, Mach.word_of_kept hn.2.1 _ ho]
    exact hc
  · have hword : a.word .sx (item p 0 o') = m.word .sx (item p 0 o') := Mach.word_of_kept h.2.1 _ ho'
    rw [Mach.counted, ← hword]
    exact hc

section
variable {s : State} {k total p w : Nat} (hk : k < 6)

theorem scrub_run (o : Nat) {n : Mach} (hn : n = s.m.scrubRead k o) (hk : k < 6) : exec (.scrubRead k o) s = .next { s with m := n } :=
  (if_pos (decide_eq_true hk)).trans (go_eq (fun m => m.scrubRead k o) hn.symm)

include hk

/-- A good word. -/
theorem scrub_good (hdo : s.m.scrubRead k 0 = (s.m.scrubbed k 0 w p).scrubNext k total p) (hbad : w ∉ s.m.mem.bad) :
    ∃ t, exec (.scrubRead k 0) s = .next t ∧ (p + 1 = total → s.m.counted t.m .sx (Pg.cluster k) R.cluScrubPassCnt) ∧
      s.becomes t { s.m with mem := { s.m.mem with scrubAt := Tbl.set (fun _ => 0) s.m.mem.scrubAt k ((p + 1) % total) } } .sx
        (fun j => p + 1 == total && pageWord (Pg.cluster k) R.cluScrubPassCnt j) := by
  rw [Mach.scrubbed_good hbad (by decide), if_neg (by decide)] at hdo
  obtain ⟨htouch, hpass⟩ := s.m.scrubNext_spec k total p
  obtain ⟨n, hn⟩ : ∃ n, n = s.m.scrubRead k 0 := ⟨_, rfl⟩
  rw [← hdo, ← hn] at htouch hpass
  exact ⟨_, scrub_run 0 hn hk, hpass, becomes_of htouch.1 htouch.2.1 htouch.2.2⟩

/-- A corrected word. -/
theorem scrub_corrected (hdo : s.m.scrubRead k 1 = (s.m.scrubbed k 1 w p).scrubNext k total p) (hbad : w ∉ s.m.mem.bad)
    (hlim : Tbl.get (fun _ => 0) s.m.mem.ceCount k + 1 ≤ s.m.fld .sx (Pg.cluster k) F.cluScrubCtrl_ceLimit) :
    ∃ t, exec (.scrubRead k 1) s = .next t ∧ (p + 1 = total → s.m.counted t.m .sx (Pg.cluster k) R.cluScrubPassCnt) ∧
      s.m.counted t.m .sx (Pg.cluster k) R.cluHbmCeCnt ∧
      s.becomes t { s.m with mem := { s.m.mem with
          scrubAt := Tbl.set (fun _ => 0) s.m.mem.scrubAt k ((p + 1) % total),
          ceCount := Tbl.set (fun _ => 0) s.m.mem.ceCount k (Tbl.get (fun _ => 0) s.m.mem.ceCount k + 1) } } .sx
        (fun j => pageWord (Pg.cluster k) R.cluScrubPassCnt j || pageWord (Pg.cluster k) R.cluHbmCeCnt j) := by
  rw [Mach.scrubbed_good hbad (by decide), if_pos rfl] at hdo
  obtain ⟨hce, hcount⟩ := s.m.countCe_spec k hlim
  obtain ⟨a, ha⟩ : ∃ a, a = s.m.countCe k 1 := ⟨_, rfl⟩
  rw [← ha] at hdo hce hcount
  obtain ⟨htouch, hpass⟩ := a.scrubNext_spec k total p
  obtain ⟨n, hn⟩ : ∃ n, n = s.m.scrubRead k 1 := ⟨_, rfl⟩
  rw [← hdo, ← hn] at htouch hpass
  obtain ⟨hframe, hcounts, hpasses⟩ := Mach.scrub_after hce htouch (p := Pg.cluster k) (o := R.cluHbmCeCnt)
    (o' := R.cluScrubPassCnt) (by rw [pageWord_item _ _ _ _ (by decide) (by decide)]; simp; exact fun _ => by decide)
    (by rw [pageWord_item _ _ _ _ (by decide) (by decide)]; simp; decide)
  have hboth := hframe.mono (g := fun j => pageWord (Pg.cluster k) R.cluScrubPassCnt j || pageWord (Pg.cluster k) R.cluHbmCeCnt j)
    fun j hj => (by decide : ∀ a b x : Bool, (b || (x && a)) = true → (a || b) = true) _ _ _ hj
  exact ⟨_, scrub_run 1 hn hk, fun h => hpasses (hpass h), hcounts hcount, becomes_of hboth.1 hboth.2.1 hboth.2.2⟩

/-- A word that cannot be corrected, outside of every region. -/
theorem scrub_lost (hw : w / 2 ^ 35 = k) (hdo : s.m.scrubRead k 2 = (s.m.scrubbed k 2 w p).scrubNext k total p)
    (hbad : w ∉ s.m.mem.bad) (hregion : s.m.regionAt k (32 * p) = none) :
    ∃ t, exec (.scrubRead k 2) s = .next t ∧ (p + 1 = total → s.m.counted t.m .sx (Pg.cluster k) R.cluScrubPassCnt) ∧
      s.m.counted t.m .sx (Pg.cluster k) R.cluHbmUeCnt ∧ t.m.event .sx (Pg.cluster k) 4 = true ∧
      s.becomes t { s.m with mem := { s.m.mem with
          scrubAt := Tbl.set (fun _ => 0) s.m.mem.scrubAt k ((p + 1) % total), bad := w :: s.m.mem.bad } } .sx
        (fun j => pageWord (Pg.cluster k) R.cluScrubPassCnt j || pageWord (Pg.cluster k) R.cluHbmUeCnt j
          || eventWord (Pg.cluster k) j) := by
  rw [Mach.scrubbed_bad hk hw hbad hregion] at hdo
  obtain ⟨hue, hcount, hevent⟩ := (s.m.badMarked w).countUe_spec hw
  obtain ⟨a, ha⟩ : ∃ a, a = (s.m.badMarked w).countUe w := ⟨_, rfl⟩
  rw [← ha] at hdo hue hcount hevent
  obtain ⟨htouch, hpass⟩ := a.scrubNext_spec k total p
  obtain ⟨n, hn⟩ : ∃ n, n = s.m.scrubRead k 2 := ⟨_, rfl⟩
  rw [← hdo, ← hn] at htouch hpass
  have htrace : Pg.cluster k ≠ Pg.trace := by unfold Pg.cluster Pg.trace; omega
  obtain ⟨hframe, hcounts, hpasses⟩ := Mach.scrub_after hue htouch (p := Pg.cluster k) (o := R.cluHbmUeCnt)
    (o' := R.cluScrubPassCnt) (by rw [pageWord_item _ _ _ _ (by decide) (by decide)]; simp; exact fun _ => by decide)
    (by
      rw [pageWord_item _ _ _ _ (by decide) (by decide), eventWord_none _ _ _ (by decide) htrace (by decide)]
      simp
      decide)
  have hboth := hframe.mono (g := fun j => pageWord (Pg.cluster k) R.cluScrubPassCnt j || pageWord (Pg.cluster k) R.cluHbmUeCnt j ||
      eventWord (Pg.cluster k) j) fun j hj =>
    (by decide : ∀ a b c x : Bool, ((b || c) || (x && a)) = true → (a || b || c) = true) _ _ _ _ hj
  have hkept : n.event .sx (Pg.cluster k) 4 = a.event .sx (Pg.cluster k) 4 := by
    rw [Mach.event, Mach.event, Mach.word_of_kept htouch.2.1 _ (by
      rw [pageWord_item _ _ _ _ (by decide) (by decide)]; simp; intro _; decide)]
    rfl
  exact ⟨_, scrub_run 2 hn hk, fun h => hpasses (hpass h), hcounts hcount, hkept.trans hevent,
    becomes_of hboth.1 hboth.2.1 hboth.2.2⟩

end

/-- Settles O26: a region is zeroed, the scrubber steps and counts, and a stack that fails ends its accesses and is retired. -/
theorem stacksAreZeroedScrubbedAndRetired : Obligations.StacksAreZeroedScrubbedAndRetired := by
  have hunit {b : Bool} (hb : b = true) (o : Host.Outcome State Fault Refusal) : State.unit b o = o := if_pos hb
  refine ⟨fun s r hr => ⟨fun hst hmap hlevel => ?_, fun hwait => ?_⟩, fun s k hk => ⟨fun hen hlevel hret hrefresh hp hbad => ⟨?_,
    fun hlim => ?_, fun hregion => ?_⟩, fun hrest o => ?_⟩, fun s k hk => ?_, fun s k hk hret hfail hdone => ?_,
    fun s k hk hret hfail r hreqs pt hparts hstack hdone hop => ?_, fun s k hk hfail hret hreqs => ?_⟩
  · obtain ⟨hstate, htouch⟩ := s.m.regionServes_spec hr
    obtain ⟨n, hn⟩ : ∃ n, n = s.m.regionServes r := ⟨_, rfl⟩
    have hrun : exec (.regionZeroingDone r) s
        = .next { s with m := n, store := { s.store with hbm := s.store.hbm.filter fun e => !s.m.inExtent r e.1 } } :=
      (hunit (decide_eq_true hr) _).trans (goS_eq (fun x => Mach.zeroingDone x.1 x.2 r)
        ((Mach.zeroingDone_serves hst hmap hlevel).trans (by rw [hn])))
    rw [← hn] at hstate htouch
    refine ⟨_, hrun, hstate, fun a => ?_, htouch.1, htouch.2.1, htouch.2.2, rfl, rfl⟩
    refine (Mach.get_filter Mem.unwritten (fun a => !s.m.inExtent r a) s.store.hbm a).trans ?_
    cases s.m.inExtent r a <;> rfl
  · exact (hunit (decide_eq_true hr) _).trans (goS_eq (fun x => Mach.zeroingDone x.1 x.2 r) (Mach.zeroingDone_waits hwait))
  · exact scrub_good hk (Mach.scrubRead_runs hen hlevel hret hrefresh rfl rfl rfl hp 0) hbad
  · exact scrub_corrected hk (Mach.scrubRead_runs hen hlevel hret hrefresh rfl rfl rfl hp 1) hbad hlim
  · exact scrub_lost hk (wordStack s.m hp) (Mach.scrubRead_runs hen hlevel hret hrefresh rfl rfl rfl hp 2) hbad hregion
  · exact (hunit (decide_eq_true hk) _).trans (go_eq (fun m => m.scrubRead k o) (Mach.scrubRead_rests hrest o))
  · have hrun : exec (.hbmCeInterval k) s
        = .next { s with m := s.m.setMem { s.m.mem with ceCount := Tbl.set (fun _ => 0) s.m.mem.ceCount k 0 } } :=
      hunit (decide_eq_true hk) _
    exact ⟨_, hrun, becomes_of rfl (.refl ..) rfl⟩
  · have hdo := Mach.stackFails_eq hret hfail
    rw [Mach.endAccesses_none hdone] at hdo
    obtain ⟨n, hn⟩ : ∃ n, n = s.m.stackFails k := ⟨_, rfl⟩
    have hrun : exec (.hbmStackFailure k) s = .next { s with m := n } :=
      (hunit (decide_eq_true hk) _).trans (go_eq (fun m => m.stackFails k) hn.symm)
    refine ⟨_, hrun, becomes_of ?_ ?_ ?_⟩ <;> rw [hn, hdo]
    · rfl
    · exact .refl ..
    · rfl
  · have hdo := Mach.stackFails_eq hret hfail
    obtain ⟨hgone, hheld⟩ := Mach.endAccesses_one hreqs hparts hstack hdone hop
    obtain ⟨n, hn⟩ : ∃ n, n = s.m.stackFails k := ⟨_, rfl⟩
    have hrun : exec (.hbmStackFailure k) s = .next { s with m := n } :=
      (hunit (decide_eq_true hk) _).trans (go_eq (fun m => m.stackFails k) hn.symm)
    refine ⟨_, hrun, ?_, ?_, rfl, rfl⟩
    · rw [hn, hdo]; exact hgone
    · rw [hn, hdo]; exact hheld
  · obtain ⟨hgone, hregion⟩ := s.m.retireStack_gone (s := k) (by omega) hret
    obtain ⟨n, hn⟩ : ∃ n, n = s.m.retireStack k := ⟨_, rfl⟩
    have hrun : exec .hbmStackRetireHem s = .next { s with m := n } :=
      go_eq (fun m => m.mem.failing.foldl (fun (m : Mach) k => m.retireStack k) m) (by rw [hfail, hn]; rfl)
    rw [← hn] at hgone hregion
    refine ⟨_, hrun, hgone.retired, ?_, hgone.event, hgone.bit.1, hregion hreqs, hgone.unlined, rfl, rfl⟩
    change n.mem.failing = []
    rw [hgone.failing, hfail]
    simp

end Sys2Proof.Machine
end

section
/-! O60: boot phases (R584, R585) and the end of CHATTER (R625, R635). -/

set_option Elab.async false

namespace Sys2Proof.Machine
open Sys2Proof

namespace Mach

/-! ### A phase ends (R584) -/

/-- The word of CHP_BOOT_STATUS. -/
def bootWord (k : Nat) : Bool := pageWord Pg.chip R.chpBootStatus k

theorem bootPhase_eq (m : Mach) : m.bootPhase = m.stored .sx Pg.chip F.chpBootStatus_phase :=
  fld_eq_stored m .sx Pg.chip _ rfl (by decide)

/-- The next phase is shown. -/
def phaseShown (m : Mach) (ms : Nat) : Mach :=
  ({ m with boot := { m.boot with ms := m.boot.ms + ms } } : Mach).setFld .sx Pg.chip F.chpBootStatus_phase (m.bootPhase + 1)

theorem phaseShown_touches (m : Mach) (ms : Nat) :
    Mach.touches { m with boot := { m.boot with ms := m.boot.ms + ms } } (m.phaseShown ms) .sx bootWord :=
  touches_setFld _ _ _ _ _ (by decide)

theorem phaseShown_phase {m : Mach} (hp : m.bootPhase < 5) (ms : Nat) :
    (m.phaseShown ms).stored .sx Pg.chip F.chpBootStatus_phase = m.bootPhase + 1 := by
  rw [phaseShown, stored_setFld _ _ _ _ _ (by decide)]
  exact Nat.mod_eq_of_lt (by simp [F.chpBootStatus_phase]; omega)

/-- READY: the boot's time is shown, the trace records it, and the loss of a Guard change is reported. -/
def bootDone (m : Mach) (total : Nat) : Mach :=
  let m := (m.setFld .sx Pg.chip F.chpBootStatus_bootMs (min total 65535)).trace Pg.chip 5 0 0
  if m.guardSx.lost then ({ m with guardSx := { m.guardSx with lost := false } } : Mach).guardEvent .sx 1 else m

theorem phaseEnd_rests {m : Mach} (h : m.boot.off = true ∨ 5 ≤ m.bootPhase) (ms : Nat) : m.phaseEnd ms = m := if_pos h

section
variable {m : Mach} (hoff : m.boot.off = false)
include hoff

theorem phaseEnd_early (hp : m.bootPhase < 4) (ms : Nat) : m.phaseEnd ms = m.phaseShown ms := by
  have hrun : ¬(m.boot.off = true ∨ m.bootPhase ≥ 5) := by rw [hoff]; simp; omega
  have hnot : (!(m.phaseShown ms).ready) = true := by
    rw [ready, bootPhase_eq, phaseShown_phase (by omega)]
    simp
    omega
  unfold phaseEnd
  rw [if_neg hrun]
  exact if_pos hnot

theorem phaseEnd_last (hp : m.bootPhase = 4) (ms : Nat) : m.phaseEnd ms = (m.phaseShown ms).bootDone (m.boot.ms + ms) := by
  have hrun : ¬(m.boot.off = true ∨ m.bootPhase ≥ 5) := by rw [hoff]; simp; omega
  have hready : ¬(!(m.phaseShown ms).ready) = true := by
    rw [ready, bootPhase_eq, phaseShown_phase (by omega), hp]
    decide
  unfold phaseEnd
  rw [if_neg hrun]
  exact if_neg hready

end

/-- Words that the end of boot writes, with the Guard's event where a change was lost. -/
def doneWord (lost : Bool) (k : Nat) : Bool := bootWord k || itemPage k == Pg.trace || (lost && eventWord Pg.guard k)

theorem bootDone_spec (m : Mach) (total : Nat) :
    Mach.touches { m with guardSx := { m.guardSx with lost := false } } (m.bootDone total) .sx (doneWord m.guardSx.lost) ∧
    (m.bootDone total).stored .sx Pg.chip F.chpBootStatus_phase = m.stored .sx Pg.chip F.chpBootStatus_phase ∧
    (m.bootDone total).stored .sx Pg.chip F.chpBootStatus_degraded = m.stored .sx Pg.chip F.chpBootStatus_degraded ∧
    (m.bootDone total).stored .sx Pg.chip F.chpBootStatus_bootMs = min total 65535 ∧
    (m.guardSx.lost = true → (m.bootDone total).event .sx Pg.guard 1 = true) := by
  have hset : m.touches (m.setFld .sx Pg.chip F.chpBootStatus_bootMs (min total 65535)) .sx (doneWord m.guardSx.lost) :=
    touches_setFld _ _ _ _ _ (by simp [doneWord, bootWord, pageWord, F.chpBootStatus_bootMs, R.chpBootStatus])
  have hms : (m.setFld .sx Pg.chip F.chpBootStatus_bootMs (min total 65535)).stored .sx Pg.chip F.chpBootStatus_bootMs = min total 65535 := by
    rw [stored_setFld _ _ _ _ _ (by decide)]
    exact Nat.mod_eq_of_lt (by simp [F.chpBootStatus_bootMs])
  have hphase := stored_setFld_other m .sx Pg.chip F.chpBootStatus_bootMs F.chpBootStatus_phase (min total 65535) (by decide) rfl
    (.inl (by decide))
  have hdeg := stored_setFld_other m .sx Pg.chip F.chpBootStatus_bootMs F.chpBootStatus_degraded (min total 65535) (by decide) rfl
    (.inl (by decide))
  unfold bootDone
  obtain ⟨a, ha⟩ : ∃ a, a = m.setFld .sx Pg.chip F.chpBootStatus_bootMs (min total 65535) := ⟨_, rfl⟩
  rw [← ha] at hset hms hphase hdeg ⊢
  have htrace := touches_trace a Pg.chip 5 0 0
  obtain ⟨b, hb⟩ : ∃ b, b = a.trace Pg.chip 5 0 0 := ⟨_, rfl⟩
  rw [← hb] at htrace ⊢
  have hboth := hset.trans (htrace.mono (g := doneWord m.guardSx.lost) fun k hk => by
    rw [traceWord] at hk
    simp [doneWord, hk])
  have hguard : b.guardSx = m.guardSx := by
    have hbare : b.bare.guardSx = m.bare.guardSx := by rw [hboth.1]
    exact hbare
  have hkeep (f : Fld) (hf : f.off = R.chpBootStatus) : b.stored .sx Pg.chip f = a.stored .sx Pg.chip f :=
    stored_of_kept htrace.2.1 _ _ (by rw [hf]; decide)
  dsimp only
  rw [hguard]
  split
  · rename_i hlost
    have hstore (f : Fld) (hf : f.off = R.chpBootStatus) (x : GuardRun) :
        (({ b with guardSx := x } : Mach).guardEvent .sx 1).stored .sx Pg.chip f = b.stored .sx Pg.chip f := by
      rw [stored, guardEvent, word_raise _ _ _ _ _ _ (by rw [hf]; decide)]
      rfl
    refine ⟨?_, ?_, ?_, ?_, fun _ => event_raise _ _ _ _ _ _ _ (by decide) (.inr ⟨rfl, rfl⟩)⟩
    · have hset' : Mach.touches { m with guardSx := { m.guardSx with lost := false } } { b with guardSx := { m.guardSx with lost := false } }
          .sx (doneWord m.guardSx.lost) :=
        ⟨congrArg (fun y : Mach => { y with guardSx := { m.guardSx with lost := false } }) hboth.1, hboth.2.1, hboth.2.2⟩
      exact hset'.trans ((touches_raise ..).mono fun k hk => by simp [doneWord, hlost]; exact .inr hk)
    · rw [hstore _ rfl, hkeep _ rfl, hphase]
    · rw [hstore _ rfl, hkeep _ rfl, hdeg]
    · rw [hstore _ rfl, hkeep _ rfl, hms]
  · rename_i hlost
    have hsame : m.guardSx = { m.guardSx with lost := false } := by
      cases hg : m.guardSx
      simp [hg] at hlost
      simp [hlost]
    refine ⟨?_, by rw [hkeep _ rfl, hphase], by rw [hkeep _ rfl, hdeg], by rw [hkeep _ rfl, hms], fun h => absurd h hlost⟩
    rw [← hsame]
    exact hboth

/-- The end of any phase: the next is shown, the boot's time goes on, and the report of a lost change may be due. -/
theorem phaseEnd_spec {m : Mach} (hoff : m.boot.off = false) (hp : m.bootPhase < 5) (ms : Nat) : ∃ g,
    Mach.touches { m with boot := { m.boot with ms := m.boot.ms + ms }, guardSx := g } (m.phaseEnd ms) .sx (doneWord true) ∧
    (m.phaseEnd ms).stored .sx Pg.chip F.chpBootStatus_phase = m.bootPhase + 1 ∧
    (m.phaseEnd ms).stored .sx Pg.chip F.chpBootStatus_degraded = m.stored .sx Pg.chip F.chpBootStatus_degraded := by
  have hshown := m.phaseShown_touches ms
  have hphase := phaseShown_phase hp ms
  have hdeg : (m.phaseShown ms).stored .sx Pg.chip F.chpBootStatus_degraded = m.stored .sx Pg.chip F.chpBootStatus_degraded :=
    stored_setFld_other _ .sx Pg.chip F.chpBootStatus_phase F.chpBootStatus_degraded _ (by decide) rfl (.inr (by decide))
  by_cases hlast : m.bootPhase = 4
  · rw [phaseEnd_last hoff hlast]
    obtain ⟨a, ha⟩ : ∃ a, a = m.phaseShown ms := ⟨_, rfl⟩
    rw [← ha] at hshown hphase hdeg ⊢
    obtain ⟨hdone, hphase', hdeg', -, -⟩ := a.bootDone_spec (m.boot.ms + ms)
    have hset : Mach.touches { m with boot := { m.boot with ms := m.boot.ms + ms }, guardSx := { a.guardSx with lost := false } }
        { a with guardSx := { a.guardSx with lost := false } } .sx bootWord :=
      ⟨congrArg (fun y : Mach => { y with guardSx := { a.guardSx with lost := false } }) hshown.1, hshown.2.1, hshown.2.2⟩
    refine ⟨_, (hset.mono fun k hk => by simp [doneWord, hk]).trans (hdone.mono fun k hk => ?_), hphase'.trans hphase, hdeg'.trans hdeg⟩
    simp only [doneWord, Bool.or_eq_true, Bool.and_eq_true] at hk ⊢
    exact hk.imp id fun h => ⟨trivial, h.2⟩
  · rw [phaseEnd_early hoff (by omega)]
    exact ⟨m.guardSx, hshown.mono fun k hk => by simp [doneWord, hk], hphase, hdeg⟩

/-! ### A unit that has not completed a phase (R585) -/

/-- From `m` to `n` a unit is retired: the boot and its status stay, and every retirement bit that is set. -/
structure retiring (m n : Mach) : Prop where
  boot : n.boot = m.boot
  status : n.word .sx (item Pg.chip 0 R.chpBootStatus) = m.word .sx (item Pg.chip 0 R.chpBootStatus)
  bits : ∀ k b, m.bitIn k b → n.bitIn k b

theorem retiring.trans {m n o : Mach} (h : m.retiring n) (g : n.retiring o) : m.retiring o :=
  ⟨g.boot.trans h.boot, g.status.trans h.status, fun k b hb => g.bits k b (h.bits k b hb)⟩

theorem retiring_of_loses {m n : Mach} (h : m.loses n apartWord) : m.retiring n :=
  ⟨h.boot, word_of_kept h.regs _ (by decide), fun _ _ => h.bitIn⟩

theorem retiring_bitSet (m : Mach) (k b : Nat) : m.retiring (m.bitSet k b) :=
  ⟨rfl, rfl, fun _ _ => bitIn_bitSet_of _ _ _ _⟩

theorem retiring_stack {m n : Mach} {s : Nat} (h : m.stackGone n s) : m.retiring n := ⟨h.boot, h.status, h.bits⟩

/-- The packets of a retired tile are discarded. -/
def tileDiscards (m : Mach) (queued : Held → Bool) (gone : List Held) : Mach :=
  gone.foldl
    (fun m h =>
      let m := m.removeHeld h.id
      if queued h ∧ h.input < 144 then m.bump .sx (Pg.port h.input) R.prtFlushPktCnt
      else if h.output < 144 then m.bump .sx (Pg.port h.output) R.prtFlushPktCnt
      else m)
    m

theorem port_ne_chip (p : Nat) : Pg.port p ≠ Pg.chip := by unfold Pg.port Pg.chip; omega

theorem loses_tileDiscards (m : Mach) (queued : Held → Bool) (gone : List Held) : m.loses (m.tileDiscards queued gone) apartWord := by
  refine loses_foldl _ (fun n h => ?_) gone m
  dsimp only
  have hgone := loses_removeHeld n h.id apartWord
  split
  · exact hgone.trans (loses_bump _ _ _ (port_ne_chip _) (by decide))
  · split
    · exact hgone.trans (loses_bump _ _ _ (port_ne_chip _) (by decide))
    · exact hgone

/-- The ports of a retired tile will flush. -/
def portsDue (m : Mach) (x : Nat) : Mach :=
  (List.range 8).foldl (fun m i => m.setHold (8 * x + i) { m.holdOf (8 * x + i) with flushDue := true }) m

theorem loses_portsDue (m : Mach) (x : Nat) : m.loses (m.portsDue x) apartWord :=
  loses_foldl (fun (m : Mach) i => m.setHold (8 * x + i) { m.holdOf (8 * x + i) with flushDue := true }) (fun _ _ => ⟨⟨rfl, fun _ _ => rfl⟩, rfl, rfl, rfl, rfl, rfl, rfl, liningFrom_of_sub fun _ h => h⟩) _ m

theorem loses_pleatTileRetired (m : Mach) (x : Nat) : m.loses (m.pleatTileRetired x) apartWord :=
  loses_foldl _ (fun n g => loses_pleatFault n g _) _ m

/-- A tile leaves stage 1. -/
def tileOut (m : Mach) (x : Nat) : Mach := { m with out1 := m.out1 ++ [x] }

theorem retireTile_eq (m : Mach) {x : Nat} (h : x ∉ m.out1) : ∃ queued gone, m.retireTile x =
    ((((((m.tileOut x).tileDiscards queued gone).pfaultKeys (gone.map Held.key) Reason.packetLost).bitSet
      (item Pg.chip 0 R.chpTileRetire) x).portsDue x).pleatTileRetired x).raise .sx Pg.chip 6 x := by
  have hc : m.out1.contains x = false := by simpa using h
  unfold retireTile
  rw [hc, if_neg Bool.false_ne_true]
  exact ⟨_, _, rfl⟩

theorem bootTile_spec (m : Mach) {x : Nat} (hx : x < 32) (h : x ∉ m.out1) : m.retiring (m.bootTile x) ∧
    (m.bootTile x).out1 = m.out1 ++ [x] ∧ (m.bootTile x).mem.retired = m.mem.retired ∧
    (m.bootTile x).bitIn (item Pg.chip 0 R.chpTileRetire) x ∧ (m.bootTile x).event .sx Pg.chip 6 = true := by
  obtain ⟨a, ha⟩ : ∃ a, a = m.setShadow .sx (item Pg.chip 0 R.chpTileRetire)
      (m.shadow .sx (item Pg.chip 0 R.chpTileRetire) ||| BitVec.ofNat 32 (2 ^ x)) := ⟨_, rfl⟩
  have hstart : m.retiring a := by
    refine ⟨by rw [ha]; rfl, by rw [ha]; rfl, fun k b hk => ?_⟩
    obtain ⟨hlive, hshadow⟩ := hk
    refine ⟨by rw [ha]; exact hlive, ?_⟩
    rw [ha, shadow_setShadow]
    split
    · rename_i hkx
      exact bitsOf_or_other _ _ (hkx ▸ hshadow)
    · exact hshadow
  have haout : a.out1 = m.out1 := by rw [ha]; rfl
  have hamem : a.mem = m.mem := by rw [ha]; rfl
  obtain ⟨queued, gone, hdo⟩ := a.retireTile_eq (x := x) (by rw [haout]; exact h)
  obtain ⟨b, hb⟩ : ∃ b, b = a.tileOut x := ⟨_, rfl⟩
  have hout : a.retiring b := by rw [hb]; exact ⟨rfl, rfl, fun _ _ hk => hk⟩
  have hbout : b.out1 = m.out1 ++ [x] := by rw [hb, ← haout]; rfl
  have hbmem : b.mem = m.mem := by rw [hb, ← hamem]; rfl
  rw [← hb] at hdo
  have hdrop := (b.loses_tileDiscards queued gone).trans (loses_pfaultKeys _ (gone.map Held.key) Reason.packetLost)
  obtain ⟨d, hd⟩ : ∃ d, d = (b.tileDiscards queued gone).pfaultKeys (gone.map Held.key) Reason.packetLost := ⟨_, rfl⟩
  rw [← hd] at hdrop hdo
  have hset := d.retiring_bitSet (item Pg.chip 0 R.chpTileRetire) x
  have hbit := d.bitIn_bitSet (item Pg.chip 0 R.chpTileRetire) x hx
  obtain ⟨e, he⟩ : ∃ e, e = d.bitSet (item Pg.chip 0 R.chpTileRetire) x := ⟨_, rfl⟩
  have heout : e.out1 = d.out1 := by rw [he]; rfl
  have hemem : e.mem = d.mem := by rw [he]; rfl
  rw [← he] at hset hbit hdo
  have hrest := ((e.loses_portsDue x).trans (loses_pleatTileRetired _ x)).trans (loses_raise _ Pg.chip 6 x)
  have hevent : (((e.portsDue x).pleatTileRetired x).raise .sx Pg.chip 6 x).event .sx Pg.chip 6 = true :=
    event_raise _ _ _ _ _ _ _ (by decide) (.inr ⟨rfl, rfl⟩)
  rw [← hdo] at hrest hevent
  have hboot : m.bootTile x = a.retireTile x := by rw [ha]; rfl
  rw [hboot]
  refine ⟨(((hstart.trans hout).trans (retiring_of_loses hdrop)).trans hset).trans (retiring_of_loses hrest), ?_, ?_,
    hrest.bitIn hbit, hevent⟩
  · rw [hrest.out1, heout, hdrop.out1, hbout]
  · rw [hrest.retired, hemem, hdrop.retired, hbmem]

/-- The chip is shown degraded. -/
def degraded (m : Mach) : Mach := m.setFld .sx Pg.chip F.chpBootStatus_degraded 1

theorem degraded_spec (m : Mach) : m.degraded.bare = m.bare ∧ m.degraded.bootPhase = m.bootPhase ∧
    m.degraded.stored .sx Pg.chip F.chpBootStatus_degraded = 1 := by
  refine ⟨setFld_bare .., ?_, ?_⟩
  · rw [bootPhase_eq, bootPhase_eq, degraded,
      stored_setFld_other _ _ _ F.chpBootStatus_degraded F.chpBootStatus_phase _ (by decide) rfl (.inl (by decide))]
  · rw [degraded, stored_setFld _ _ _ _ _ (by decide)]
    rfl

theorem degraded_out1 (m : Mach) : m.degraded.out1 = m.out1 := by
  have h := congrArg Mach.out1 m.degraded_spec.1
  exact h

theorem degraded_mem (m : Mach) : m.degraded.mem = m.mem := by
  have h := congrArg Mach.mem m.degraded_spec.1
  exact h

theorem degraded_modFailed (m : Mach) : m.degraded.modFailed = m.modFailed := by
  have h := congrArg Mach.modFailed m.degraded_spec.1
  exact h

/-- What a phase's limit leaves when unit `u` has not completed it: `n` is the machine with the unit retired. -/
theorem phaseLimit_spec {m n : Mach} {u : BootUnit} (hoff : m.boot.off = false) (hp : m.bootPhase < 5) (hn : m.bootRetire u = n)
    (hret : m.degraded.retiring n) (ms : Nat) : ∃ x g,
    Mach.touches { n with boot := x, guardSx := g } (m.phaseLimit ms [u]) .sx (doneWord true) ∧
    (m.phaseLimit ms [u]).stored .sx Pg.chip F.chpBootStatus_phase = m.bootPhase + 1 ∧
    (m.phaseLimit ms [u]).stored .sx Pg.chip F.chpBootStatus_degraded = 1 := by
  obtain ⟨hbare, hphase, hdeg⟩ := m.degraded_spec
  have hboot : n.boot = m.boot := by
    have hsame : m.degraded.bare.boot = m.bare.boot := by rw [hbare]
    exact hret.boot.trans hsame
  have hstored (f : Fld) (hf : f.off = R.chpBootStatus) : n.stored .sx Pg.chip f = m.degraded.stored .sx Pg.chip f := by
    rw [stored, stored, hf, hret.status]
  have hnphase : n.bootPhase = m.bootPhase := by rw [bootPhase_eq, hstored _ rfl, ← bootPhase_eq, hphase]
  have hrun : ¬(m.boot.off = true ∨ m.bootPhase ≥ 5) := by rw [hoff]; simp; omega
  have hdo : m.phaseLimit ms [u] = n.phaseEnd ms := by
    rw [phaseLimit, if_neg hrun, List.foldl_cons, List.foldl_nil, hn]
  obtain ⟨g, htouch, hend, hkept⟩ := phaseEnd_spec (m := n) (by rw [hboot, hoff]) (by rw [hnphase]; exact hp) ms
  rw [hdo]
  exact ⟨_, g, htouch, by rw [hend, hnphase], by rw [hkept, hstored _ rfl, hdeg]⟩

theorem phaseLimit_nil (m : Mach) (ms : Nat) : m.phaseLimit ms [] = m.phaseEnd ms := by
  by_cases h : m.boot.off = true ∨ m.bootPhase ≥ 5
  · rw [phaseEnd_rests h]
    exact if_pos h
  · exact if_neg h

/-- The end of a phase keeps retirement bits. -/
theorem bitIn_of_touches {m n : Mach} {f : Nat → Bool} (h : m.touches n .sx f) {k b : Nat} (hm : m.bitIn k b) : n.bitIn k b := by
  rw [bitIn, liveCopy_of_kept h.2.1 (epParams_of_bare h.1), shadow_of_kept h.2.1 (epParams_of_bare h.1)]
  exact hm

/-- The end of a phase keeps the events of the chip and Pleat pages. -/
theorem event_of_done {m n : Mach} (h : m.touches n .sx (doneWord true)) {p i : Nat} (hp : p = Pg.chip ∨ p = Pg.pleat)
    (hm : m.event .sx p i = true) : n.event .sx p i = true := by
  have hkeep : n.word .sx (item p 0 R.intStatus) = m.word .sx (item p 0 R.intStatus) :=
    word_of_kept h.2.1 _ (by obtain rfl | rfl := hp <;> decide)
  rw [event, hkeep]
  exact hm

/-- A cluster's tiles and stack retire. -/
theorem bootCluster_spec (m : Mach) {c : Nat} (hc : c < 6) (htiles : ∀ i, i < 3 → 3 * c + i ∉ m.out1) (hstack : c ∉ m.mem.retired) :
    let n := (((m.bootTile (3 * c)).bootTile (3 * c + 1)).bootTile (3 * c + 2)).retireStack c
    m.retiring n ∧ n.out1 = m.out1 ++ [3 * c, 3 * c + 1, 3 * c + 2] ∧ n.mem.retired = c :: m.mem.retired ∧
    n.bitIn (item Pg.chip 0 R.chpStackRetire) c ∧ ∀ i, i < 3 → n.bitIn (item Pg.chip 0 R.chpTileRetire) (3 * c + i) := by
  have h0 := htiles 0 (by decide)
  have h1 := htiles 1 (by decide)
  have h2 := htiles 2 (by decide)
  obtain ⟨hret₀, hout₀, hmem₀, hbit₀, -⟩ := m.bootTile_spec (x := 3 * c) (by omega) h0
  obtain ⟨a, ha⟩ : ∃ a, a = m.bootTile (3 * c) := ⟨_, rfl⟩
  rw [← ha] at hret₀ hout₀ hmem₀ hbit₀ ⊢
  obtain ⟨hret₁, hout₁, hmem₁, hbit₁, -⟩ := a.bootTile_spec (x := 3 * c + 1) (by omega) (by rw [hout₀]; simp [h1])
  obtain ⟨b, hb⟩ : ∃ b, b = a.bootTile (3 * c + 1) := ⟨_, rfl⟩
  rw [← hb] at hret₁ hout₁ hmem₁ hbit₁ ⊢
  obtain ⟨hret₂, hout₂, hmem₂, hbit₂, -⟩ := b.bootTile_spec (x := 3 * c + 2) (by omega) (by rw [hout₁, hout₀]; simp [h2])
  obtain ⟨d, hd⟩ : ∃ d, d = b.bootTile (3 * c + 2) := ⟨_, rfl⟩
  rw [← hd] at hret₂ hout₂ hmem₂ hbit₂ ⊢
  have hmem : d.mem.retired = m.mem.retired := by rw [hmem₂, hmem₁, hmem₀]
  obtain ⟨hgone, -⟩ := d.retireStack_gone (s := c) (by omega) (by rw [hmem]; exact hstack)
  refine ⟨((hret₀.trans hret₁).trans hret₂).trans (retiring_stack hgone), ?_, ?_, hgone.bit, fun i hi => hgone.bits _ _ ?_⟩
  · rw [hgone.out1, hout₂, hout₁, hout₀]
    simp
  · rw [hgone.retired, hmem]
  · match i, hi with
    | 0, _ => exact hret₂.bits _ _ (hret₁.bits _ _ hbit₀)
    | 1, _ => exact hret₂.bits _ _ hbit₁
    | 2, _ => exact hbit₂

theorem retireEngine_spec (m : Mach) (e : Nat) : m.retiring (m.retireEngine e) ∧
    (m.retireEngine e).bitIn (item Pg.pleat 0 (R.pltEngRetire0 + 4 * (e / 32))) (e % 32) ∧ (m.retireEngine e).event .sx Pg.pleat 2 = true := by
  have hset := m.retiring_bitSet (item Pg.pleat 0 (R.pltEngRetire0 + 4 * (e / 32))) (e % 32)
  have hbit := m.bitIn_bitSet (item Pg.pleat 0 (R.pltEngRetire0 + 4 * (e / 32))) (e % 32) (Nat.mod_lt _ (by decide))
  obtain ⟨a, ha⟩ : ∃ a, a = m.bitSet (item Pg.pleat 0 (R.pltEngRetire0 + 4 * (e / 32))) (e % 32) := ⟨_, rfl⟩
  have hdo : m.retireEngine e = a.raise .sx Pg.pleat 2 e := by rw [ha]; rfl
  rw [← ha] at hset hbit
  rw [hdo]
  have hraise := a.loses_raise Pg.pleat 2 e
  exact ⟨hset.trans (retiring_of_loses hraise), hraise.bitIn hbit, event_raise _ _ _ _ _ _ _ (by decide) (.inr ⟨rfl, rfl⟩)⟩

theorem moduleFails_spec {m : Mach} {k : Nat} (hk : k ∉ m.modFailed) (hin : bitsOf (m.reg .sx (Pg.die 0) R.dieD2dModules) k 1 = 1) :
    m.retiring (m.moduleFails k) ∧ (m.moduleFails k).modFailed = m.modFailed ++ [k] := by
  have hc : ¬(m.modFailed.contains k = true ∨ bitsOf (m.reg .sx (Pg.die 0) R.dieD2dModules) k 1 = 0) := by
    rw [hin]
    simpa using hk
  unfold moduleFails
  rw [if_neg hc]
  refine foldl_inv (fun n => m.retiring n ∧ n.modFailed = m.modFailed ++ [k]) _ (fun n c hn => ?_) _ ⟨⟨rfl, rfl, fun _ _ h => h⟩, rfl⟩
  obtain ⟨hret, hmod⟩ := hn
  dsimp only [fresh]
  split
  · exact ⟨⟨hret.boot, hret.status, hret.bits⟩, hmod⟩
  · exact ⟨⟨hret.boot, hret.status, hret.bits⟩, hmod⟩

/-! ### CHATTER ends (R625, R635) -/

/-- CHATTER of an input is no longer latched, and its window is empty. -/
def unlatched (m : Mach) (i : Nat) : Mach :=
  { m with chatter := m.chatter.filter (· != i), changes := Tbl.set (fun _ => []) m.changes i [] }

theorem unlatched_quiet (m : Mach) (i : Nat) : (m.unlatched i).chattering i = false := by
  simp [chattering, unlatched]

theorem chatterCleared_eq (m : Mach) (i : Nat) : m.chatterCleared i = (m.unlatched i).showChatter i := rfl

/-- The word that shows CHATTER of RESET_N, LOS or an external laser supply. -/
def chatterShown (sel n : Nat) : Nat × Fld :=
  match sel with
  | 1 => (Pg.chip, F.chpPinStatus_resetChatter)
  | 2 => (ocuPage n, F.ocuEngStatus_losChatter (n % 4))
  | _ => (elsPage n, F.ocuElsStatus_chatter (n % 2))

/-- Inputs by the sel and index of CHP_CHATTER_CLR. -/
def chatterInput (sel n : Nat) : Nat := if sel < 2 then 64 * sel else 64 * sel + n

theorem showChatter_other (m : Mach) {sel n : Nat} (hsel : sel < 4) (h1 : 1 ≤ sel) (hn : n < 64)
    (hq : m.chattering (chatterInput sel n) = false) :
    m.showChatter (chatterInput sel n) = m.setFld .sx (chatterShown sel n).1 (chatterShown sel n).2 0 := by
  unfold showChatter
  dsimp only
  rw [hq, if_neg Bool.false_ne_true]
  obtain rfl | rfl | rfl : sel = 1 ∨ sel = 2 ∨ sel = 3 := by omega
  · rw [show chatterInput 1 n = 64 from rfl]
    rfl
  · rw [show chatterInput 2 n = 128 + n from rfl, show (128 + n) / 64 = 2 from by omega, show (128 + n) % 64 = n from by omega]
    rfl
  · rw [show chatterInput 3 n = 192 + n from rfl, show (192 + n) / 64 = 3 from by omega, show (192 + n) % 64 = n from by omega]
    rfl

theorem chatterShown_width (sel n : Nat) : (chatterShown sel n).2.lo + (chatterShown sel n).2.w ≤ 32 := by
  match sel with
  | 0 | 1 | 2 => exact Nat.le_of_ble_eq_true rfl
  | _ + 3 => exact Nat.le_of_ble_eq_true rfl

/-- CHATTER that ends is shown as ended. -/
theorem showChatter_ends (m : Mach) {sel n : Nat} (hsel : sel < 4) (h1 : 1 ≤ sel) (hn : n < 64)
    (hq : m.chattering (chatterInput sel n) = false) :
    (m.showChatter (chatterInput sel n)).stored .sx (chatterShown sel n).1 (chatterShown sel n).2 = 0 ∧
    m.touches (m.showChatter (chatterInput sel n)) .sx (pageWord (chatterShown sel n).1 (chatterShown sel n).2.off) := by
  rw [m.showChatter_other hsel h1 hn hq]
  refine ⟨?_, touches_setFld _ _ _ _ _ (beq_self_eq_true _)⟩
  rw [stored_setFld _ _ _ _ _ (chatterShown_width sel n)]
  exact Nat.zero_mod _

/-- The words of PWRBRK_N's CHATTER. -/
def brkChatterWord (k : Nat) : Bool := pageWord Pg.chip R.chpPinStatus k || pageWord Pg.power F.pwrShedStatus_brkChatter.off k

theorem showChatter_brk (m : Mach) (hq : m.chattering 0 = false) : m.touches (m.showChatter 0) .sx brkChatterWord ∧
    (m.showChatter 0).stored .sx Pg.chip F.chpPinStatus_pwrbrkChatter = 0 ∧
    (m.showChatter 0).stored .sx Pg.power F.pwrShedStatus_brkChatter = 0 := by
  have hdo : m.showChatter 0 = (m.setFld .sx Pg.chip F.chpPinStatus_pwrbrkChatter 0).setFld .sx Pg.power F.pwrShedStatus_brkChatter 0 := by
    unfold showChatter
    dsimp only
    rw [hq, if_neg Bool.false_ne_true]
    rfl
  rw [hdo]
  have hsecond := touches_setFld (m.setFld .sx Pg.chip F.chpPinStatus_pwrbrkChatter 0) .sx Pg.power F.pwrShedStatus_brkChatter 0
    (g := pageWord Pg.power F.pwrShedStatus_brkChatter.off) (beq_self_eq_true _)
  refine ⟨(touches_setFld m .sx Pg.chip F.chpPinStatus_pwrbrkChatter 0 (g := brkChatterWord) (by decide)).trans
    (hsecond.mono fun k hk => by simp [brkChatterWord, hk]), ?_, ?_⟩
  · rw [stored_of_kept hsecond.2.1 _ _ (by decide), stored_setFld _ _ _ _ _ (by decide)]
    rfl
  · rw [stored_setFld _ _ _ _ _ (by decide)]
    rfl

/-- PWRBRK_N is taken as its pin stands. -/
theorem brkUpdate_spec (m : Mach) (hq : m.chattering 0 = false) : ∃ p, (m.setPower p).touches m.brkUpdate .sx shedWord ∧
    m.brkUpdate.stored .sx Pg.power F.pwrShedStatus_brkChatter = m.stored .sx Pg.power F.pwrShedStatus_brkChatter ∧
    (m.power.brkPin = false → p.brkSince = none ∧ p.brk.cond = 0) ∧
    (m.power.brkPin = true → p.brkSince = some (m.power.brkSince.getD m.time.number)) := by
  have hset (n : Mach) (x : ShedSrc) :
      (n.setShedSrc 1 x).stored .sx Pg.power F.pwrShedStatus_brkChatter = n.stored .sx Pg.power F.pwrShedStatus_brkChatter := by
    rw [setShedSrc_eq]
    exact stored_setFld_other _ .sx Pg.power F.pwrShedStatus_brkLevel F.pwrShedStatus_brkChatter _ (by decide) rfl (.inr (by decide))
  cases hpin : m.power.brkPin with
  | true =>
    rw [brkUpdate_asserted hpin]
    refine ⟨_, setShedSrc_touches .., hset .., nofun, fun _ => rfl⟩
  | false =>
    have hdo : m.brkUpdate = (m.setPower { m.power with brkSince := none, stuck := false }).shedAsk 1 0 :=
      if_neg fun h => h.elim (fun h => by rw [hpin] at h; exact absurd h (by decide))
        fun h => by rw [show inPwrbrk = 0 from rfl, hq] at h; exact absurd h (by decide)
    rw [hdo, shedAsk_eq]
    exact ⟨_, setShedSrc_touches .., hset .., fun _ => ⟨rfl, (askedSrc_spec ..).1⟩, nofun⟩

/-- A write of CHP_CHATTER_CLR with its fields taken apart. -/
theorem chatterWrite_eq (m : Mach) (v : Nat) : m.chatterWrite v =
    if v / 2 ^ 8 % 2 = 0 ∨ (v % 4 = 2 ∧ 36 ≤ v / 4 % 64) ∨ (v % 4 = 3 ∧ 18 ≤ v / 4 % 64) then m
    else if v % 4 = 0 then (m.chatterCleared (chatterInput (v % 4) (v / 4 % 64))).brkUpdate
    else m.chatterCleared (chatterInput (v % 4) (v / 4 % 64)) := by
  have hsel : bitsOf v 0 2 = v % 4 := by simp [bitsOf]
  have hn : bitsOf v 2 6 = v / 4 % 64 := rfl
  have hgo : bitsOf v 8 1 = v / 2 ^ 8 % 2 := rfl
  have hi : (match v % 4 with | 0 => inPwrbrk | 1 => inReset | 2 => inLos (v / 4 % 64) | _ => inEls (v / 4 % 64))
      = chatterInput (v % 4) (v / 4 % 64) := by
    generalize v / 4 % 64 = n
    obtain h | h | h | h : v % 4 = 0 ∨ v % 4 = 1 ∨ v % 4 = 2 ∨ v % 4 = 3 := by omega
    all_goals rw [h]; rfl
  unfold chatterWrite
  rw [hsel, hn, hgo]
  exact congrArg (fun i => if v / 2 ^ 8 % 2 = 0 ∨ (v % 4 = 2 ∧ 36 ≤ v / 4 % 64) ∨ (v % 4 = 3 ∧ 18 ≤ v / 4 % 64) then m
    else if v % 4 = 0 then (m.chatterCleared i).brkUpdate else m.chatterCleared i) hi

end Mach

/-- A phase's limit with one unit that has not completed it: what `n`, the machine with the unit retired, says of it stands. -/
theorem phaseLimit_run {s : State} {n : Mach} {u : BootUnit} (hu : bootUnitOk u = true) (hoff : s.m.boot.off = false)
    (hp : s.m.bootPhase < 5) (hn : s.m.bootRetire u = n) (hret : s.m.degraded.retiring n) (ms : Nat) {holds : State → Prop}
    (hholds : ∀ t : State, t.m.out1 = n.out1 → t.m.mem = n.mem → t.m.modFailed = n.modFailed →
      (∀ k b, n.bitIn k b → t.m.bitIn k b) →
      (∀ p i, p = Pg.chip ∨ p = Pg.pleat → n.event .sx p i = true → t.m.event .sx p i = true) → holds t) :
    ∃ t, exec (.bootPhaseLimit ms [u]) s = .next t ∧ t.m.stored .sx Pg.chip F.chpBootStatus_phase = s.m.bootPhase + 1 ∧
      t.m.stored .sx Pg.chip F.chpBootStatus_degraded = 1 ∧ holds t := by
  obtain ⟨b, g, htouch, hphase, hdeg⟩ := Mach.phaseLimit_spec hoff hp hn hret ms
  obtain ⟨x, hx⟩ : ∃ x, x = s.m.phaseLimit ms [u] := ⟨_, rfl⟩
  have hrun : exec (.bootPhaseLimit ms [u]) s = .next { s with m := x } :=
    (if_pos (by simp [hu])).trans (go_eq (fun m => m.phaseLimit ms [u]) hx.symm)
  rw [← hx] at htouch hphase hdeg
  refine ⟨_, hrun, hphase, hdeg, hholds _ ?_ ?_ ?_ (fun k c hk => Mach.bitIn_of_touches htouch hk)
    fun p i hpage hevent => Mach.event_of_done htouch hpage hevent⟩
  · have h : x.bare.out1 = _ := congrArg Mach.out1 htouch.1
    exact h
  · have h : x.bare.mem = _ := congrArg Mach.mem htouch.1
    exact h
  · have h : x.bare.modFailed = _ := congrArg Mach.modFailed htouch.1
    exact h

/-- Settles O60: a phase that ends gives way to the next, its limit retires what failed, and CHATTER ends by its clear register. -/
theorem bootRunsAndChatterEnds : Obligations.BootRunsAndChatterEnds := by
  refine ⟨fun s ms => ⟨fun hrest => ⟨?_, fun failed hfailed => ?_⟩, fun hoff hp => ?_, fun hoff hp => ?_, ?_,
    fun hoff hp => ⟨fun n hn hout => ?_, fun n hn hret => ?_, fun n hn hout hret => ?_, fun n hn => ?_, fun n hn hmod hin => ?_⟩⟩,
    fun s v => ⟨fun hres => ?_, fun hres hno => ?_, fun hres hgo h2 h3 => ⟨fun hsel => ?_, fun hsel => ?_⟩⟩⟩
  · exact go_eq (fun m => m.phaseEnd ms) (Mach.phaseEnd_rests hrest ms)
  · exact (if_pos hfailed).trans (go_eq (fun m => m.phaseLimit ms failed) (if_pos hrest))
  · have htouch := s.m.phaseShown_touches ms
    have hphase := Mach.phaseShown_phase (m := s.m) (by omega) ms
    obtain ⟨n, hn⟩ : ∃ n, n = s.m.phaseShown ms := ⟨_, rfl⟩
    have hrun : exec (.bootPhaseEnd ms) s = .next { s with m := n } :=
      go_eq (fun m => m.phaseEnd ms) ((Mach.phaseEnd_early hoff hp ms).trans hn.symm)
    rw [← hn] at htouch hphase
    exact ⟨_, hrun, hphase, becomes_of htouch.1 htouch.2.1 htouch.2.2⟩
  · have hshown := s.m.phaseShown_touches ms
    have hphase := Mach.phaseShown_phase (m := s.m) (by omega) ms
    have hdo := Mach.phaseEnd_last hoff hp ms
    obtain ⟨a, ha⟩ : ∃ a, a = s.m.phaseShown ms := ⟨_, rfl⟩
    rw [← ha] at hshown hphase hdo
    have hguard : a.guardSx = s.m.guardSx := by
      have hbare : a.bare.guardSx = _ := congrArg Mach.guardSx hshown.1
      exact hbare
    obtain ⟨hdone, hphase', -, hms, hlost⟩ := a.bootDone_spec (s.m.boot.ms + ms)
    rw [hguard] at hdone hlost
    obtain ⟨n, hn⟩ : ∃ n, n = a.bootDone (s.m.boot.ms + ms) := ⟨_, rfl⟩
    have hrun : exec (.bootPhaseEnd ms) s = .next { s with m := n } := go_eq (fun m => m.phaseEnd ms) (hdo.trans hn.symm)
    rw [← hn] at hdone hphase' hms hlost
    have hset : Mach.touches { s.m with boot := { s.m.boot with ms := s.m.boot.ms + ms }, guardSx := { s.m.guardSx with lost := false } }
        { a with guardSx := { s.m.guardSx with lost := false } } .sx Mach.bootWord :=
      ⟨congrArg (fun y : Mach => { y with guardSx := { s.m.guardSx with lost := false } }) hshown.1, hshown.2.1, hshown.2.2⟩
    have hall := (hset.mono (g := Mach.doneWord s.m.guardSx.lost) fun k hk => by simp [Mach.doneWord, hk]).trans hdone
    exact ⟨_, hrun, hphase'.trans (hphase.trans (by rw [hp])), hms, hlost, becomes_of hall.1 hall.2.1 hall.2.2⟩
  · have hrun : exec (.bootPhaseLimit ms []) s = .next { s with m := s.m.phaseEnd ms } :=
      go_eq (fun m => m.phaseLimit ms []) (s.m.phaseLimit_nil ms)
    exact hrun
  · have hsame : s.m.degraded.out1 = s.m.out1 := s.m.degraded_out1
    obtain ⟨hret, hout', -, hbit, hevent⟩ := s.m.degraded.bootTile_spec (x := n) (by omega) (by rw [hsame]; exact hout)
    obtain ⟨x, hx⟩ : ∃ x, x = s.m.degraded.bootTile n := ⟨_, rfl⟩
    rw [← hx] at hret hout' hbit hevent
    exact phaseLimit_run (u := .tile n) (decide_eq_true hn) hoff hp hx.symm hret ms fun t ht _ _ hbits hevents =>
      ⟨by rw [ht, hout', hsame], hbits _ _ hbit, hevents _ _ (.inl rfl) hevent⟩
  · have hsame : s.m.degraded.mem = s.m.mem := s.m.degraded_mem
    obtain ⟨hgone, -⟩ := s.m.degraded.retireStack_gone (s := n) (by omega) (by rw [hsame]; exact hret)
    obtain ⟨x, hx⟩ : ∃ x, x = s.m.degraded.retireStack n := ⟨_, rfl⟩
    rw [← hx] at hgone
    exact phaseLimit_run (u := .stack n) (decide_eq_true hn) hoff hp hx.symm (Mach.retiring_stack hgone) ms
      fun t _ ht _ hbits hevents => ⟨by rw [ht, hgone.retired, hsame], hbits _ _ hgone.bit, hevents _ _ (.inl rfl) hgone.event⟩
  · have hsame : s.m.degraded.out1 = s.m.out1 := s.m.degraded_out1
    have hmem : s.m.degraded.mem = s.m.mem := s.m.degraded_mem
    obtain ⟨hgone, hout', hret', hbit, htiles⟩ := s.m.degraded.bootCluster_spec hn (by rw [hsame]; exact hout) (by rw [hmem]; exact hret)
    obtain ⟨x, hx⟩ : ∃ x, x = (((s.m.degraded.bootTile (3 * n)).bootTile (3 * n + 1)).bootTile (3 * n + 2)).retireStack n := ⟨_, rfl⟩
    rw [← hx] at hgone hout' hret' hbit htiles
    exact phaseLimit_run (u := .cluster n) (decide_eq_true hn) hoff hp hx.symm hgone ms fun t ht htm _ hbits _ =>
      ⟨by rw [ht, hout', hsame], by rw [htm, hret', hmem], hbits _ _ hbit, fun i hi => hbits _ _ (htiles i hi)⟩
  · obtain ⟨hret, hbit, hevent⟩ := s.m.degraded.retireEngine_spec n
    obtain ⟨x, hx⟩ : ∃ x, x = s.m.degraded.retireEngine n := ⟨_, rfl⟩
    rw [← hx] at hret hbit hevent
    exact phaseLimit_run (u := .pleatEngine n) (decide_eq_true hn) hoff hp hx.symm hret ms fun t _ _ _ hbits hevents =>
      ⟨hbits _ _ hbit, hevents _ _ (.inr rfl) hevent⟩
  · have hsame : s.m.degraded.modFailed = s.m.modFailed := s.m.degraded_modFailed
    have hkept : s.m.touches s.m.degraded .sx Mach.bootWord := Mach.touches_setFld _ _ _ _ _ (by decide)
    have hreg : s.m.degraded.reg .sx (Pg.die 0) R.dieD2dModules = s.m.reg .sx (Pg.die 0) R.dieD2dModules := by
      rw [Mach.reg, Mach.reg, Mach.live_of_kept hkept.2.1 (Mach.epParams_of_bare hkept.1) _ (by decide)]
    obtain ⟨hret, hfailed⟩ := Mach.moduleFails_spec (m := s.m.degraded) (k := n) (by rw [hsame]; exact hmod) (by rw [hreg]; exact hin)
    obtain ⟨x, hx⟩ : ∃ x, x = s.m.degraded.moduleFails n := ⟨_, rfl⟩
    rw [← hx] at hret hfailed
    exact phaseLimit_run (u := .module n) (decide_eq_true hn) hoff hp hx.symm hret ms fun t _ _ htf _ _ => by rw [htf, hfailed, hsame]
  · exact if_pos hres
  · exact (if_neg (not_not.2 hres)).trans (go_eq (fun m => m.chatterWrite v) ((s.m.chatterWrite_eq v).trans (if_pos hno)))
  · have hno : ¬(v / 2 ^ 8 % 2 = 0 ∨ (v % 4 = 2 ∧ 36 ≤ v / 4 % 64) ∨ (v % 4 = 3 ∧ 18 ≤ v / 4 % 64)) := by omega
    have hdo := (s.m.chatterWrite_eq v).trans ((if_neg hno).trans (if_neg (by omega)))
    rw [Mach.chatterCleared_eq] at hdo
    obtain ⟨hzero, htouch⟩ := (s.m.unlatched (Mach.chatterInput (v % 4) (v / 4 % 64))).showChatter_ends (Nat.mod_lt _ (by decide)) hsel
      (Nat.mod_lt _ (by decide)) (Mach.unlatched_quiet ..)
    obtain ⟨n, hn⟩ : ∃ n, n = s.m.chatterWrite v := ⟨_, rfl⟩
    have hrun : exec (.chatterClear v) s = .next { s with m := n } :=
      (if_neg (not_not.2 hres)).trans (go_eq (fun m => m.chatterWrite v) hn.symm)
    rw [← hdo, ← hn] at hzero htouch
    exact ⟨_, hrun, hzero, becomes_of htouch.1 htouch.2.1 htouch.2.2⟩
  · have hno : ¬(v / 2 ^ 8 % 2 = 0 ∨ (v % 4 = 2 ∧ 36 ≤ v / 4 % 64) ∨ (v % 4 = 3 ∧ 18 ≤ v / 4 % 64)) := by omega
    have hinput : Mach.chatterInput (v % 4) (v / 4 % 64) = 0 := by rw [hsel]; rfl
    have hdo := (s.m.chatterWrite_eq v).trans ((if_neg hno).trans (if_pos hsel))
    rw [Mach.chatterCleared_eq, hinput] at hdo
    obtain ⟨hshown, hchip, hpower⟩ := (s.m.unlatched 0).showChatter_brk (Mach.unlatched_quiet ..)
    obtain ⟨a, ha⟩ : ∃ a, a = (s.m.unlatched 0).showChatter 0 := ⟨_, rfl⟩
    rw [← ha] at hdo hshown hchip hpower
    have hpow : a.power = s.m.power := hshown.power
    have htime : a.time = s.m.time := hshown.time
    have hquiet : a.chattering 0 = false := by
      have h : a.bare.chatter = _ := congrArg Mach.chatter hshown.1
      have h' : a.chattering 0 = (s.m.unlatched 0).chattering 0 := congrArg (·.contains 0) h
      exact h'.trans (Mach.unlatched_quiet ..)
    obtain ⟨p, hupd, hkept, hoffpin, honpin⟩ := a.brkUpdate_spec hquiet
    rw [hpow, htime] at honpin
    rw [hpow] at hoffpin
    obtain ⟨n, hn⟩ : ∃ n, n = s.m.chatterWrite v := ⟨_, rfl⟩
    have hrun : exec (.chatterClear v) s = .next { s with m := n } :=
      (if_neg (not_not.2 hres)).trans (go_eq (fun m => m.chatterWrite v) hn.symm)
    rw [← hdo, ← hn] at hupd hkept
    have hnp : n.power = p := hupd.power
    have hall := (hshown.setPower p).trans (hupd.mono fun k hk => by
      rw [beq_iff_eq.1 hk]; decide)
    refine ⟨_, hrun, ?_, hkept.trans hpower, ?_⟩
    · change n.stored .sx Pg.chip F.chpPinStatus_pwrbrkChatter = 0
      rw [Mach.stored_of_kept hupd.2.1 _ _ (by decide)]
      exact hchip
    · have hdone : s.m.unlatched (Mach.chatterInput (v % 4) (v / 4 % 64)) = s.m.unlatched 0 := by rw [hinput]
      rw [hnp]
      refine ⟨hoffpin, honpin, becomes_of (hall.1.trans ?_) hall.2.1 hall.2.2⟩
      rw [← hdone]
      rfl

end Sys2Proof.Machine
end

section
/-! The Cuff groups (R312 to R331): what their words hold, and what a fault of a group leaves. -/

set_option Elab.async false

namespace Sys2Proof.Machine
open Sys2Proof

namespace Mach

/-! ### Status words and member counters -/

/-- The status words and the member counters change by hardware alone, so that they govern as they stand. -/
theorem live_cuffWord (m : Mach) {u a : Nat} (hu : u = 2 ∨ u = 4) (ha : a < 2 ^ 44) :
    m.live .sx (item Pg.cuff u a) = m.word .sx (item Pg.cuff u a) := by
  have hu16 : u < 16 ∧ u ≠ 0 := by omega
  have hrows : ∀ r ∈ tableRows .cuff, r.sel = u → r.rws = 0 := by
    rcases hu with rfl | rfl <;> decide
  refine live_of_not_rws m .sx ?_ ?_
  · rw [info, wordInfo, item_page _ _ _ ha hu16.1, item_sel _ _ _ ha hu16.1]
    have hk : pageKind m.epParams .sx Pg.cuff = some .cuff := rfl
    simp only [hk, if_neg hu16.2]
    rw [tableInfo, if_neg (by simp), if_neg (by simp)]
    cases hrow : (tableRows .cuff).find? fun r => r.has u (itemOff (item Pg.cuff u a)) with
    | none => rfl
    | some r =>
      have hhas := List.find?_some hrow
      simp only [TabRow.has, Bool.and_eq_true, beq_iff_eq] at hhas
      have h0 := hrows r (List.mem_of_find?_eq_some hrow) hhas.1.1
      simp [WordInfo.ofTab, h0]
  · rw [tmrBits, item_sel _ _ _ ha hu16.1, if_pos hu16.2]

/-- A field of such a word counts. -/
theorem storedT_bumpT (m : Mach) {u e : Nat} (per : Nat) (f : Fld) (hu : u = 2 ∨ u = 4) (ha : per * e + f.off < 2 ^ 44)
    (hf : f.lo + f.w ≤ 32) : (m.bumpT .sx Pg.cuff u per e f).storedT .sx Pg.cuff u per e f
      = min (m.storedT .sx Pg.cuff u per e f + 1) (2 ^ f.w - 1) := by
  have hpos := Nat.two_pow_pos f.w
  rw [bumpT, tfld, live_cuffWord m hu ha, storedT, setTFld, word_setWord, if_pos rfl, bitsOf_withField _ _ _ _ hf,
    Nat.mod_eq_of_lt (by omega), storedT]

/-! ### Faults (R330) -/

theorem cuff_of_bare {m n : Mach} (h : n.bare = m.bare) : n.cuff = m.cuff := by
  have hcuff : n.bare.cuff = m.bare.cuff := by rw [h]
  exact hcuff

theorem cgrp_setCgrp (m : Mach) (g : Nat) (x : CGroup) : (m.setCgrp g x).cgrp g = x := by
  simp [cgrp, setCgrp, Tbl.get_set]

/-- Dropped copies are gone; nothing else happens. -/
theorem dropCopies_spec (m : Mach) (hs : List Held) : ∃ l, m.dropCopies hs = { m with held := l } ∧
    ∀ h ∈ l, h ∈ m.held ∧ h ∉ hs := by
  induction hs generalizing m with
  | nil => exact ⟨m.held, rfl, fun h hh => ⟨hh, List.not_mem_nil⟩⟩
  | cons e hs ih =>
    obtain ⟨l, hl, hgone⟩ := ih (m.removeHeld e.id)
    refine ⟨l, hl, fun h hh => ?_⟩
    obtain ⟨hin, hno⟩ := hgone h hh
    obtain ⟨hm, hid⟩ := List.mem_filter.1 hin
    exact ⟨hm, fun he => (List.mem_cons.1 he).elim (fun he => by simp [he] at hid) hno⟩

/-- A faulted group without its copies. -/
def cuffEmptied (m : Mach) (g reason : Nat) : Mach :=
  (m.dropCopies (m.cuffCopies g)).setCgrp g { (m.dropCopies (m.cuffCopies g)).cgrp g with reason := reason, round := none }

/-- A faulted group before its partition fault. -/
def cuffFaulted (m : Mach) (g reason : Nat) : Mach :=
  ((m.cuffEmptied g reason).bump .sx Pg.cuff R.cufGroupFaultCnt).raise .sx Pg.cuff 0 (g + reason * 2 ^ 24)

theorem cuffFault_eq (m : Mach) (g reason : Nat) (h : (m.cgrp g).reason = 0) :
    m.cuffFault g reason = (m.cuffFaulted g reason).pfault ((m.cuffFaulted g reason).cd g F.cdesc_pkey) reason :=
  if_neg (not_not.2 h)

/-- Words that the fault of a Cuff group writes. -/
def cuffFaultWord (k : Nat) : Bool := pageWord Pg.cuff R.cufGroupFaultCnt k || eventWord Pg.cuff k || faultWord k

/-- A group that faults. -/
theorem cuffFault_spec (m : Mach) (g reason : Nat) (h : (m.cgrp g).reason = 0) :
    (m.cuffFault g reason).cgrp g = { m.cgrp g with reason := reason, round := none } ∧
      (m.cuffFault g reason).cuffCopies g = [] ∧ m.counted (m.cuffFault g reason) .sx Pg.cuff R.cufGroupFaultCnt ∧
      (m.cuffFault g reason).event .sx Pg.cuff 0 = true ∧
      ∀ k, cuffFaultWord k = false → (m.cuffFault g reason).word .sx k = m.word .sx k := by
  obtain ⟨l, hl, hgone⟩ := m.dropCopies_spec (m.cuffCopies g)
  obtain ⟨a, ha⟩ : ∃ a, a = m.cuffEmptied g reason := ⟨_, rfl⟩
  have hcount := touches_setWord a .sx (item Pg.cuff 0 R.cufGroupFaultCnt)
    (BitVec.ofNat 32 (min ((a.word .sx (item Pg.cuff 0 R.cufGroupFaultCnt)).toNat + 1) 0xFFFFFFFF))
    (f := cuffFaultWord) (by decide)
  have htouch : a.touches (m.cuffFaulted g reason) .sx cuffFaultWord := by
    rw [cuffFaulted, ← ha]
    exact hcount.trans ((touches_raise ..).mono fun k hk => by rw [cuffFaultWord, hk, Bool.or_true, Bool.true_or])
  have hfault (key : Nat) := faults_pfault (m.cuffFaulted g reason) key reason false
  have hword (k : Nat) : a.word .sx k = m.word .sx k := by rw [ha, cuffEmptied, hl]; rfl
  have hcgrp : a.cgrp g = { m.cgrp g with reason := reason, round := none } := by
    rw [ha, cuffEmptied, cgrp_setCgrp, hl]
    rfl
  have hheld : a.held = l := by rw [ha, cuffEmptied, hl]; rfl
  rw [m.cuffFault_eq g reason h]
  generalize (m.cuffFaulted g reason).cd g F.cdesc_pkey = key
  replace hfault := hfault key
  generalize hb : m.cuffFaulted g reason = b at htouch hfault
  generalize hn : b.pfault key reason = n at hfault
  have hcuff : n.cuff = b.cuff := by
    have he : n.bare.cuff = b.bare.cuff := by rw [hfault.bare]
    exact he
  refine ⟨?_, ?_, ?_, ?_, fun k hk => ?_⟩
  · rw [cgrp, hcuff, cuff_of_bare htouch.1, ← cgrp, hcgrp]
  · rw [cuffCopies, List.filter_eq_nil_iff]
    intro x hx
    rcases hfault.held x hx with hin | h171
    · rw [held_of_bare htouch.1, hheld] at hin
      obtain ⟨hm, hno⟩ := hgone x hin
      exact fun hc => hno (List.mem_filter.2 ⟨hm, hc⟩)
    · simp [h171]
  · rw [counted, hfault.word _ (by decide) (by decide), ← hb, cuffFaulted, ← ha, word_raise _ _ _ _ _ _ (by decide), word_bump, hword]
  · refine hfault.events _ _ (by decide) ?_
    rw [← hb, cuffFaulted]
    exact event_raise _ _ _ _ _ _ _ (by decide) (.inr ⟨rfl, rfl⟩)
  · have hfalse : faultWord k = false := by
      simp only [cuffFaultWord, Bool.or_eq_false_iff] at hk
      exact hk.2
    rw [hfault.regs.2 k hfalse, htouch.2.1.2 k hk, hword]

end Mach

end Sys2Proof.Machine
end

section
/-! O49: a contribution to a Cuff group is judged when it arrives (R318 to R321). -/

set_option Elab.async false

namespace Sys2Proof.Machine
open Sys2Proof

namespace Mach

/-! ### The rows of R321 -/

/-- A group of this switch that knows the packet's key. -/
def cuffKnown (m : Mach) (x : Packet) : Prop :=
  x.dst = m.sxNode ∧ m.timed = true ∧ m.cd (CufAux.group x) F.cdesc_valid ≠ 0 ∧ x.pkey = m.cd (CufAux.group x) F.cdesc_pkey

/-- The packet comes from a contributing member at its port. -/
def cuffMember (m : Mach) (p : Nat) (x : Packet) : Prop :=
  CufAux.member x < m.cd (CufAux.group x) F.cdesc_members ∧
    (m.cmember (CufAux.group x) (CufAux.member x)).contrib = true ∧
    (m.cmember (CufAux.group x) (CufAux.member x)).port = p ∧
    (m.cmember (CufAux.group x) (CufAux.member x)).context = x.context

/-- The full opening stitch that the packet names. -/
def cuffOpening (m : Mach) (x : Packet) : Nat := fullStitch m.time.number (CufAux.opening x)

/-- The round of opening stitch `st` and deadline `d` can still take a contribution in cycle `cyc`. -/
def cuffInTime (m : Mach) (cyc st d : Nat) : Prop := m.time.number ≤ st + d ∧ ¬(m.time.number = st + d ∧ 840 ≤ cyc)

section
variable {m : Mach} {p cyc : Nat} {x : Packet}

theorem cuffJudge_unknown (h : ¬m.cuffKnown x) : m.cuffJudge p cyc x = m.bump .sx Pg.cuff R.cufProtoDropCnt := by
  simp only [cuffJudge]
  by_cases hdst : x.dst = m.sxNode
  · rw [if_neg (not_not.2 hdst), if_pos]
    by_contra hno
    simp only [not_or, Bool.not_eq_true, Bool.not_eq_false', ne_eq, not_not] at hno
    obtain ⟨htimed, hvalid, hkey⟩ := hno
    exact h ⟨hdst, by simpa using htimed, hvalid, hkey⟩
  · exact if_pos hdst

theorem cuffJudge_faulted (h : m.cuffKnown x) (hr : (m.cgrp (CufAux.group x)).reason ≠ 0) :
    m.cuffJudge p cyc x = m.bump .sx Pg.cuff R.cufFaultedDropCnt := by
  obtain ⟨hdst, htimed, hvalid, hkey⟩ := h
  simp only [cuffJudge]
  rw [if_neg (not_not.2 hdst), if_neg (by simp [htimed, hvalid, hkey]), if_pos hr]

theorem cuffJudge_stranger (h : m.cuffKnown x) (hr : (m.cgrp (CufAux.group x)).reason = 0) (hm : ¬m.cuffMember p x) :
    m.cuffJudge p cyc x = (m.bump .sx Pg.cuff R.cufProtoDropCnt).cuffFault (CufAux.group x) Reason.member := by
  obtain ⟨hdst, htimed, hvalid, hkey⟩ := h
  simp only [cuffJudge]
  rw [if_neg (not_not.2 hdst), if_neg (by simp [htimed, hvalid, hkey]), if_neg (not_not.2 hr), if_pos]
  by_contra hno
  simp only [not_or, not_le, Bool.not_eq_true, Bool.not_eq_false', ne_eq, not_not] at hno
  obtain ⟨hlt, hcontrib, hport, hctx⟩ := hno
  exact hm ⟨hlt, by simpa using hcontrib, hport, hctx⟩

/-- What is left of the rows for a member's contribution to a group without a fault. -/
def cuffRound (m : Mach) (cyc : Nat) (x : Packet) (c : CGroup) : Mach :=
  let g := CufAux.group x
  let st := m.cuffOpening x
  let d := match c.round with | some r => if r.s = st then r.d else m.cd g F.cdesc_deadline | none => m.cd g F.cdesc_deadline
  let closed : Bool := match c.lastClosed with | some l => decide (st ≤ l) | none => false
  let older : Bool := match c.round with | some r => decide (st < r.s) | none => false
  let earlierOpen : Bool := match c.round with | some r => decide (r.s < st) | none => false
  let twice : Bool := match c.round with | some r => r.accepted.any (fun a => a.1 == CufAux.member x) | none => false
  if closed ∨ st + d < m.time.number ∨ (m.time.number = st + d ∧ 840 ≤ cyc) ∨ older then
    (m.bump .sx Pg.cuff R.cufLateDropCnt).countMember g (CufAux.member x) F.cmc_late
  else if m.time.number < st ∨ earlierOpen then m.bump .sx Pg.cuff R.cufEarlyDropCnt
  else if twice then (m.bump .sx Pg.cuff R.cufProtoDropCnt).cuffFault g Reason.duplicate
  else m.cuffAccept g (CufAux.member x) st cyc x.payload

theorem cuffJudge_round (h : m.cuffKnown x) (hr : (m.cgrp (CufAux.group x)).reason = 0) (hm : m.cuffMember p x) :
    m.cuffJudge p cyc x = m.cuffRound cyc x (m.cgrp (CufAux.group x)) := by
  obtain ⟨hdst, htimed, hvalid, hkey⟩ := h
  obtain ⟨hlt, hcontrib, hport, hctx⟩ := hm
  simp only [cuffJudge]
  rw [if_neg (not_not.2 hdst), if_neg (by simp [htimed, hvalid, hkey]), if_neg (not_not.2 hr),
    if_neg (by simp [hlt, hcontrib, hport, hctx])]
  rfl

/-! ### The rows that concern the round -/

variable {c : CGroup}

/-- The contribution is to a round that is closed or older than the open one, or its time is over. -/
def cuffTooLate (m : Mach) (cyc : Nat) (x : Packet) (c : CGroup) : Prop :=
  (∃ l, c.lastClosed = some l ∧ m.cuffOpening x ≤ l) ∨
    (c.round = none ∧ ¬m.cuffInTime cyc (m.cuffOpening x) (m.cd (CufAux.group x) F.cdesc_deadline)) ∨
    ∃ y, c.round = some y ∧ (m.cuffOpening x < y.s ∨ (m.cuffOpening x = y.s ∧ ¬m.cuffInTime cyc (m.cuffOpening x) y.d))

/-- The contribution is not to a round that is closed. -/
def cuffOpenYet (m : Mach) (x : Packet) (c : CGroup) : Prop := ∀ l ∈ c.lastClosed.toList, l < m.cuffOpening x

theorem cuffRound_late (h : m.cuffTooLate cyc x c) : m.cuffRound cyc x c =
    (m.bump .sx Pg.cuff R.cufLateDropCnt).countMember (CufAux.group x) (CufAux.member x) F.cmc_late := by
  refine if_pos ?_
  rcases h with ⟨l, hl, hle⟩ | ⟨hround, htime⟩ | ⟨y, hy, hlt | ⟨heq, htime⟩⟩
  · exact .inl (by rw [hl]; exact decide_eq_true hle)
  · rw [cuffInTime] at htime
    rw [hround]
    dsimp only
    omega
  · exact .inr (.inr (.inr (by rw [hy]; exact decide_eq_true hlt)))
  · rw [cuffInTime] at htime
    rw [hy]
    dsimp only
    rw [if_pos heq.symm]
    omega

/-- The time of a contribution is not over. -/
theorem cuffRound_inTime (hopen : m.cuffOpenYet x c) {d : Nat} (hd : d = match c.round with
      | some r => if r.s = m.cuffOpening x then r.d else m.cd (CufAux.group x) F.cdesc_deadline
      | none => m.cd (CufAux.group x) F.cdesc_deadline) (htime : m.cuffInTime cyc (m.cuffOpening x) d)
    (hnew : ∀ y, c.round = some y → y.s ≤ m.cuffOpening x) : m.cuffRound cyc x c =
      if m.time.number < m.cuffOpening x ∨ ∃ y, c.round = some y ∧ y.s < m.cuffOpening x then
        m.bump .sx Pg.cuff R.cufEarlyDropCnt
      else if ∃ y, c.round = some y ∧ (y.accepted.any fun a => a.1 == CufAux.member x) = true then
        (m.bump .sx Pg.cuff R.cufProtoDropCnt).cuffFault (CufAux.group x) Reason.duplicate
      else m.cuffAccept (CufAux.group x) (CufAux.member x) (m.cuffOpening x) cyc x.payload := by
  obtain ⟨htime, hcut⟩ := htime
  have hclosed : (match c.lastClosed with | some l => decide (m.cuffOpening x ≤ l) | none => false) = false := by
    cases hl : c.lastClosed with
    | none => rfl
    | some l => exact decide_eq_false (Nat.not_le.2 (hopen l (by simp [hl])))
  refine (if_neg ?_).trans ?_
  · rw [hclosed, ← hd]
    cases hr : c.round with
    | none => simp only [Bool.false_eq_true, or_false, false_or]; omega
    | some y =>
      have := hnew y hr
      simp only [Bool.false_eq_true, false_or, decide_eq_true_eq]; omega
  · cases hr : c.round with
    | none => simp
    | some y =>
      have hsome (P : Round → Prop) : (∃ z, some y = some z ∧ P z) ↔ P y := by simp
      simp only [hsome, decide_eq_true_eq]

theorem cuffRound_early (hopen : m.cuffOpenYet x c)
    (htime : m.cuffInTime cyc (m.cuffOpening x) (m.cd (CufAux.group x) F.cdesc_deadline))
    (h : (c.round = none ∧ m.time.number < m.cuffOpening x) ∨ ∃ y, c.round = some y ∧ y.s < m.cuffOpening x) :
    m.cuffRound cyc x c = m.bump .sx Pg.cuff R.cufEarlyDropCnt := by
  rcases h with ⟨hr, hearly⟩ | ⟨y, hr, hlt⟩
  · exact (cuffRound_inTime hopen (by rw [hr]) htime fun y hy => by simp [hr] at hy).trans (if_pos (.inl hearly))
  · refine (cuffRound_inTime hopen (by rw [hr]; exact (if_neg (Nat.ne_of_lt hlt)).symm) htime fun z hz => ?_).trans
      (if_pos (.inr ⟨y, hr, hlt⟩))
    obtain rfl : y = z := by simpa [hr] using hz
    exact hlt.le

theorem cuffRound_opens (hopen : m.cuffOpenYet x c) (hr : c.round = none)
    (htime : m.cuffInTime cyc (m.cuffOpening x) (m.cd (CufAux.group x) F.cdesc_deadline))
    (hn : m.cuffOpening x ≤ m.time.number) : m.cuffRound cyc x c =
      m.cuffAccept (CufAux.group x) (CufAux.member x) (m.cuffOpening x) cyc x.payload :=
  ((cuffRound_inTime hopen (by rw [hr]) htime fun y hy => by simp [hr] at hy).trans (if_neg (by simp [hr, hn]))).trans
    (if_neg (by simp [hr]))

theorem cuffRound_joins {y : Round} (hopen : m.cuffOpenYet x c) (hr : c.round = some y) (hs : m.cuffOpening x = y.s)
    (htime : m.cuffInTime cyc (m.cuffOpening x) y.d) (hn : m.cuffOpening x ≤ m.time.number) : m.cuffRound cyc x c =
      if (y.accepted.any fun a => a.1 == CufAux.member x) = true then
        (m.bump .sx Pg.cuff R.cufProtoDropCnt).cuffFault (CufAux.group x) Reason.duplicate
      else m.cuffAccept (CufAux.group x) (CufAux.member x) (m.cuffOpening x) cyc x.payload := by
  refine (cuffRound_inTime hopen (by rw [hr]; exact (if_pos hs.symm).symm) htime fun z hz => ?_).trans
    ((if_neg ?_).trans ?_)
  · obtain rfl : y = z := by simpa [hr] using hz
    exact hs.ge
  · rw [hr]
    rintro (hlt | ⟨z, hz, hlt⟩)
    · exact absurd hlt (Nat.not_lt.2 hn)
    · obtain rfl : y = z := by simpa using hz
      exact absurd hs (Nat.ne_of_gt hlt)
  · simp only [hr, Option.some.injEq, exists_eq_left']

end

/-! ### What the rows do -/

/-- The words that a late contribution writes. -/
def cuffLateWord (m : Mach) (g i k : Nat) : Bool :=
  pageWord Pg.cuff R.cufLateDropCnt k || k == item Pg.cuff 4 (m.cd g F.cdesc_memberBase + i + F.cmc_late.off)

theorem cuffBase_lt (m : Mach) (g : Nat) : m.cd g F.cdesc_memberBase < 2 ^ 17 := Nat.mod_lt _ (by decide)

/-- Words of the Cuff tables govern as before when their words and their copies stay. -/
theorem cd_of_touches {m n : Mach} {f : Nat → Bool} (h : m.touches n .sx f) (g : Nat) (x : Fld)
    (hf : f (item Pg.cuff 1 (4 * g + x.off)) = false) : n.cd g x = m.cd g x := by
  rw [cd, tfld, live_of_kept h.2.1 (epParams_of_bare h.1) _ hf]
  rfl

/-- A late contribution is counted, in its member's counter too. -/
theorem cuffLate_spec (m : Mach) (g i : Nat) (hg : g < 512) (hi : i < 256) {n : Mach}
    (hn : n = (m.bump .sx Pg.cuff R.cufLateDropCnt).countMember g i F.cmc_late) : m.touches n .sx (m.cuffLateWord g i) ∧
      m.counted n .sx Pg.cuff R.cufLateDropCnt ∧ n.storedT .sx Pg.cuff 4 1 (m.cd g F.cdesc_memberBase + i) F.cmc_late
        = min (m.storedT .sx Pg.cuff 4 1 (m.cd g F.cdesc_memberBase + i) F.cmc_late + 1) (2 ^ F.cmc_late.w - 1) := by
  have hbase := m.cuffBase_lt g
  have hcount : m.touches (m.bump .sx Pg.cuff R.cufLateDropCnt) .sx (pageWord Pg.cuff R.cufLateDropCnt) :=
    touches_setWord _ _ _ _ (by decide)
  have hcd : (m.bump .sx Pg.cuff R.cufLateDropCnt).cd g F.cdesc_memberBase = m.cd g F.cdesc_memberBase :=
    cd_of_touches hcount _ _ (beq_eq_false_iff_ne.2 fun h =>
      absurd ((item_inj (by change 4 * g + 3 < _; omega) (by decide) (by decide) (by decide)).1 h).2.1 (by decide))
  have hother : item Pg.cuff 0 R.cufLateDropCnt ≠ item Pg.cuff 4 (1 * (m.cd g F.cdesc_memberBase + i) + F.cmc_late.off) :=
    fun h => absurd ((item_inj (by decide) (by change 1 * _ + 0 < _; omega) (by decide) (by decide)).1 h).2.1 (by decide)
  rw [countMember, hcd] at hn
  subst hn
  refine ⟨(hcount.mono fun k hk => by rw [cuffLateWord, hk, Bool.true_or]).trans (touches_setTFld _ _ _ _ _ _ _ _ ?_), ?_, ?_⟩
  · rw [cuffLateWord, Nat.one_mul, beq_self_eq_true, Bool.or_true]
  · rw [counted, bumpT, setTFld, word_setWord, if_neg hother, word_bump]
  · rw [storedT_bumpT _ _ _ (.inr rfl) (by change 1 * _ + 0 < _; omega) (by decide), storedT, word_of_kept hcount.2.1, storedT]
    exact beq_eq_false_iff_ne.2 hother.symm

/-- An accepted contribution stands in the group's open round, and is counted. -/
theorem cuffAccept_spec (m : Mach) (g i st cyc : Nat) (payload : List Byte) {y : Round} (hg : g < 512)
    (hy : y = match (m.cgrp g).round with
      | some r => r
      | none => { s := st, d := m.cd g F.cdesc_deadline, accepted := [] }) :
    (m.setCgrp g { m.cgrp g with round := some { y with
        accepted := y.accepted ++ [(i, m.time.number * 875 + cyc, payload)] } }).touches (m.cuffAccept g i st cyc payload) .sx
      (fun k => pageWord Pg.cuff R.cufContribCnt k || k == item Pg.cuff 2 (4 * g + F.cstat_lastOpen.off)) ∧
    m.counted (m.cuffAccept g i st cyc payload) .sx Pg.cuff R.cufContribCnt := by
  have hne : item Pg.cuff 0 R.cufContribCnt ≠ item Pg.cuff 2 (4 * g + F.cstat_lastOpen.off) := fun h => by
    refine absurd ((item_inj (by decide) ?_ (by decide) (by decide)).1 h).2.1 (by decide)
    change 4 * g + 1 < _
    omega
  have hbump (a : Mach) := touches_setWord a .sx (item Pg.cuff 0 R.cufContribCnt)
    (BitVec.ofNat 32 (min ((a.word .sx (item Pg.cuff 0 R.cufContribCnt)).toNat + 1) 0xFFFFFFFF))
    (f := fun k => pageWord Pg.cuff R.cufContribCnt k || k == item Pg.cuff 2 (4 * g + F.cstat_lastOpen.off)) (by simp [pageWord])
  cases hr : (m.cgrp g).round with
  | some r =>
    rw [hr] at hy
    subst hy
    have hdo : m.cuffAccept g i st cyc payload = (m.setCgrp g { m.cgrp g with round := some { y with
        accepted := y.accepted ++ [(i, m.time.number * 875 + cyc, payload)] } }).bump .sx Pg.cuff R.cufContribCnt := by
      simp only [cuffAccept, hr]
    rw [hdo]
    exact ⟨hbump _, by rw [counted, word_bump]; rfl⟩
  | none =>
    rw [hr] at hy
    have hdo : m.cuffAccept g i st cyc payload = ((m.setCgrp g { m.cgrp g with round := some { y with
        accepted := y.accepted ++ [(i, m.time.number * 875 + cyc, payload)] } }).setTFld .sx Pg.cuff 2 4 g F.cstat_lastOpen
        (st % 2 ^ 32)).bump .sx Pg.cuff R.cufContribCnt := by
      simp only [cuffAccept, hr, hy]
      rfl
    rw [hdo]
    refine ⟨(touches_setTFld _ _ _ _ _ _ _ _ (by simp)).trans (hbump _), ?_⟩
    rw [counted, word_bump, setTFld, word_setWord, if_neg hne]
    rfl

end Mach

/-- What stands of a machine whose registers are those of the state's. -/
theorem becomes_of_same {s : State} {m n : Mach} {f : Nat → Bool} (hrf : ∀ c, m.rf c = s.m.rf c)
    (hpar : m.epParams = s.m.epParams) (h : m.touches n .sx f) : s.becomes { s with m := n } m .sx f :=
  becomes_of h.1 ((Mach.kept_of_rf (hrf .sx) hpar f).trans h.2.1) (h.2.2.trans (hrf .ep))

/-- Settles O49: row by row in the order of R321. -/
theorem cuffContributionsAreJudged : Obligations.CuffContributionsAreJudged := by
  unfold Obligations.CuffContributionsAreJudged
  intro s p cyc x hp given g i n st c r known member counted taken late this ex
  have hrf (d : Chip) : given.rf d = s.m.rf d := by
    simp only [given]
    split
    · exact Mach.rf_giveCredit ..
    · rfl
  have hpar : given.epParams = s.m.epParams := by
    simp only [given]
    split
    · exact (Mach.giveCredit_drops _ _ _ _ noWord).epParams
    · rfl
  have htime : given.time = s.m.time := by
    simp only [given]
    split
    · rw [Mach.giveCredit]
      split
      · rfl
      · split <;> rfl
    · rfl
  have hword (k : Nat) : given.word .sx k = s.m.word .sx k := by rw [Mach.word, Mach.word, hrf, hpar]
  have hrun {a : Mach} (h : given.cuffJudge p cyc x = a) : exec (.cufContrib p x cyc) s = .next { s with m := a } :=
    (if_pos (decide_eq_true hp)).trans (go_eq (fun m =>
      (if m.waits .sx p x then (m.collect .sx p x).giveCredit p 3 x.granules else m).cuffJudge p cyc x) h)
  have hg : g < 512 := Nat.mod_lt _ (by decide)
  have hi : i < 256 := Nat.mod_lt _ (by decide)
  have hnode : given.sxNode = s.m.sxNode := by
    rw [Mach.sxNode, Mach.sxNode, Mach.bit_congr (hrf .sx) hpar, Mach.fld_congr (hrf .sx) hpar]
  clear_value given
  have hst : given.cuffOpening x = st := by rw [Mach.cuffOpening, htime]
  have hthis (d : Nat) : given.cuffInTime cyc (given.cuffOpening x) d ↔ this d := by rw [Mach.cuffInTime, hst, htime]
  have hknown : known = true ↔ given.cuffKnown x := by
    simp only [known, Mach.cuffKnown, hnode, Bool.and_eq_true, beq_iff_eq, bne_iff_ne, ne_eq, and_assoc, g]
  have hmember : member = true ↔ given.cuffMember p x := by
    simp only [member, Mach.cuffMember, Bool.and_eq_true, beq_iff_eq, decide_eq_true_eq, and_assoc, g, i, r]
  have hcounted {o : Nat} {a : Mach} (h : given.cuffJudge p cyc x = a) (ha : a = given.bump .sx Pg.cuff o) :
      ex fun t => counted t o := by
    refine ⟨_, hrun h, ?_, ?_⟩
    · rw [ha, Mach.counted, Mach.word_bump, hword]
    · rw [ha]
      exact becomes_of_same hrf hpar (Mach.touches_setWord _ _ _ _ (by simp [pageWord]))
  have hfault {reason : Nat} {a : Mach} (h : given.cuffJudge p cyc x = a) (hr : c.reason = 0)
      (ha : a = (given.bump .sx Pg.cuff R.cufProtoDropCnt).cuffFault g reason) :
      ex fun t => s.m.counted t.m .sx Pg.cuff R.cufProtoDropCnt ∧ s.cuffFaults t g reason := by
    have hcg : (given.bump .sx Pg.cuff R.cufProtoDropCnt).cgrp g = c := by
      rw [Mach.cgrp, Mach.cuff_of_bare (Mach.bump_bare ..)]
      rfl
    obtain ⟨hgrp, hcopies, hcount, hevent, hkept⟩ := (given.bump .sx Pg.cuff R.cufProtoDropCnt).cuffFault_spec g reason
      (by rw [hcg, hr])
    rw [← ha] at hgrp hcopies hcount hevent hkept
    refine ⟨_, hrun h, ?_, by rw [hgrp], by rw [hgrp], hcopies, ?_, hevent, rfl, rfl⟩
    · rw [Mach.counted, hkept _ (by decide), Mach.word_bump, hword]
    · rw [Mach.counted, hcount, Mach.bump, Mach.bumpBy, Mach.word_setWord, if_neg (by decide), hword]
  have hlate {a : Mach} (h : given.cuffJudge p cyc x = a)
      (ha : a = (given.bump .sx Pg.cuff R.cufLateDropCnt).countMember g i F.cmc_late) : ex late := by
    obtain ⟨htouch, hcount, hstored⟩ := given.cuffLate_spec g i hg hi ha
    refine ⟨_, hrun h, ?_, becomes_of_same hrf hpar htouch, hstored.trans ?_⟩
    · rw [Mach.counted, hcount, hword]
    · rw [Mach.storedT, hword, Mach.storedT]
  have htaken {y : Round} {a : Mach} (h : given.cuffJudge p cyc x = a) (ha : a = given.cuffAccept g i st cyc x.payload)
      (hy : y = match c.round with | some r => r | none => { s := st, d := given.cd g F.cdesc_deadline, accepted := [] }) :
      ex fun t => taken t { y with accepted := y.accepted ++ [(i, n * 875 + cyc, x.payload)] } := by
    obtain ⟨htouch, hcount⟩ := given.cuffAccept_spec g i st cyc x.payload hg hy
    rw [htime] at htouch
    rw [ha] at h
    refine ⟨_, hrun h, ?_, becomes_of_same (m := given.setCgrp g _) hrf hpar htouch⟩
    rw [Mach.counted, hcount, hword]
  refine ⟨fun hk => ?_, fun hk => ⟨fun hr => ?_, fun hr hm => ?_, fun hr hm => ⟨fun l hl hle => ?_, fun hopen => ⟨?_, ?_, ?_, ?_⟩⟩⟩⟩
  · exact hcounted (Mach.cuffJudge_unknown fun h => by simp [hknown.2 h] at hk) rfl
  · exact hcounted (Mach.cuffJudge_faulted (hknown.1 hk) hr) rfl
  · exact hfault (Mach.cuffJudge_stranger (hknown.1 hk) hr fun h => by simp [hmember.2 h] at hm) hr rfl
  all_goals have hround := Mach.cuffJudge_round (cyc := cyc) (hknown.1 hk) hr (hmember.1 hm)
  · exact hlate (hround.trans (Mach.cuffRound_late (.inl ⟨l, hl, by rwa [hst]⟩))) rfl
  · exact fun hnone htime => hlate (hround.trans (Mach.cuffRound_late (.inr (.inl ⟨hnone, mt (hthis _).1 htime⟩)))) rfl
  · exact fun hnone hin hearly => hcounted (hround.trans
      (Mach.cuffRound_early (by rwa [Mach.cuffOpenYet, hst]) ((hthis _).2 hin) (.inl ⟨hnone, by rwa [hst, htime]⟩))) rfl
  · intro hnone hin hle
    exact htaken (hround.trans ((Mach.cuffRound_opens (by rwa [Mach.cuffOpenYet, hst]) hnone ((hthis _).2 hin)
      (by rwa [hst, htime])).trans (by rw [hst]))) rfl (by rw [hnone])
  · intro y hy
    have hjoins (heq : st = y.s) (hin : this y.d) (hle : st ≤ n) := hround.trans (Mach.cuffRound_joins
      (by rwa [Mach.cuffOpenYet, hst]) hy (hst.trans heq) ((hthis _).2 hin) (by rwa [hst, htime]))
    refine ⟨fun hlt => ?_, fun hlt hin => ?_, fun heq hin => ?_, fun heq hin hle htwice => ?_, fun heq hin hle hone => ?_⟩
    · exact hlate (hround.trans (Mach.cuffRound_late (.inr (.inr ⟨y, hy, .inl (by rwa [hst])⟩)))) rfl
    · exact hcounted (hround.trans
        (Mach.cuffRound_early (by rwa [Mach.cuffOpenYet, hst]) ((hthis _).2 hin) (.inr ⟨y, hy, by rwa [hst]⟩))) rfl
    · exact hlate (hround.trans
        (Mach.cuffRound_late (.inr (.inr ⟨y, hy, .inr ⟨hst.trans heq, mt (hthis _).1 hin⟩⟩)))) rfl
    · exact hfault ((hjoins heq hin hle).trans (if_pos htwice)) hr rfl
    · exact htaken (((hjoins heq hin hle).trans (if_neg (by rw [hone]; decide))).trans (by rw [hst])) rfl (by rw [hy])

end Sys2Proof.Machine
end

section
/-! The header fields of a packet that is laid out (R79): each reads as it was given. -/

set_option Elab.async false

namespace Sys2Proof.Machine
open Sys2Proof

/-! ### Fields side by side -/

/-- Values laid side by side from bit 0 up, each in its width. -/
def packed : List (Nat × Nat) → Nat
  | [] => 0
  | e :: l => e.1 % 2 ^ e.2 + 2 ^ e.2 * packed l

theorem packed_lt : ∀ l : List (Nat × Nat), packed l < 2 ^ (l.map (·.2)).sum
  | [] => Nat.one_pos
  | e :: l => by
    have hrest := Nat.mul_le_mul_left (2 ^ e.2) (Nat.succ_le_of_lt (packed_lt l))
    have hfirst := Nat.mod_lt e.1 (Nat.two_pow_pos e.2)
    rw [packed, List.map_cons, List.sum_cons, pow_add]
    rw [Nat.mul_succ] at hrest
    omega

/-- Each value reads back. -/
theorem bitsOf_packed (e : Nat × Nat) (above : List (Nat × Nat)) :
    ∀ below, bitsOf (packed (below ++ e :: above)) (below.map (·.2)).sum e.2 = e.1 % 2 ^ e.2
  | [] => by
    rw [List.nil_append, packed, List.map_nil, List.sum_nil, bitsOf, pow_zero, Nat.div_one, Nat.add_mul_mod_self_left, Nat.mod_mod]
  | x :: below => by
    have hx := Nat.mod_lt x.1 (Nat.two_pow_pos x.2)
    have hrest := bitsOf_packed e above below
    rw [bitsOf] at hrest
    rw [List.cons_append, packed, List.map_cons, List.sum_cons, bitsOf, pow_add, ← Nat.div_div_eq_div_mul,
      Nat.add_mul_div_left _ _ (Nat.two_pow_pos _), Nat.div_eq_of_lt hx, Nat.zero_add, hrest]

/-! ### The header -/

section
variable (h : HdrSpec) (b : List Byte)

/-- The fields of the header, the reserved bits among them. -/
def hdrFields : List (Nat × Nat) :=
  [(h.opcode, 8), (h.vc, 3), (0, 1), (b.length, 13), (if h.stream = 63 then 1 else 0, 1), (h.flagged, 1), (0, 1),
   (h.echo, 1), (h.poison, 1), (h.last, 1), (0, 1), (h.dst, 10), (h.src, 10), (h.epoch, 4), (h.stream, 6), (0, 2),
   (h.pkey, 16), (h.context, 10), (0, 6), (h.tag, 16), (h.status, 8), (h.modifier, 8), (h.address, 64),
   (h.aux, 64)]

theorem packet_hdr : (h.packet b).hdr.toNat = packed (hdrFields h b) := by
  simp only [HdrSpec.packet, BitVec.toNat_ofNat]
  rw [← Nat.mod_eq_of_lt (packed_lt (hdrFields h b))]
  simp only [hdrFields, packed, place, List.map_cons, List.map_nil, List.sum_cons, List.sum_nil]
  omega

/-- The widths of the fields. -/
def hdrWidths : List Nat := [8, 3, 1, 13, 1, 1, 1, 1, 1, 1, 1, 10, 10, 4, 6, 2, 16, 10, 6, 16, 8, 8, 64, 64]

/-- The field behind the first `k`. -/
theorem packet_field (k lo v w : Nat) (hv : (hdrFields h b)[k]? = some (v, w)) (hlo : (hdrWidths.take k).sum = lo) :
    bitsOf (h.packet b).hdr.toNat lo w = v % 2 ^ w := by
  obtain ⟨hk, hget⟩ := List.getElem?_eq_some_iff.1 hv
  have hsplit : (hdrFields h b).take k ++ (v, w) :: (hdrFields h b).drop (k + 1) = hdrFields h b := by
    rw [← hget, List.getElem_cons_drop, List.take_append_drop]
  have hwidth : ((hdrFields h b).take k).map (·.2) = hdrWidths.take k := List.map_take
  have hread := bitsOf_packed (v, w) ((hdrFields h b).drop (k + 1)) ((hdrFields h b).take k)
  rwa [hsplit, ← packet_hdr, hwidth, hlo] at hread

@[simp] theorem packet_payload : (h.packet b).payload = b := rfl
@[simp] theorem packet_opcode : (h.packet b).opcode = h.opcode % 2 ^ 8 := packet_field h b 0 0 _ _ rfl rfl
@[simp] theorem packet_vc : (h.packet b).vc = h.vc % 2 ^ 3 := packet_field h b 1 8 _ _ rfl rfl
@[simp] theorem packet_flagged : (h.packet b).flagged = h.flagged % 2 ^ 1 := packet_field h b 5 26 _ _ rfl rfl
@[simp] theorem packet_poison : (h.packet b).poison = h.poison % 2 ^ 1 := packet_field h b 8 29 _ _ rfl rfl
@[simp] theorem packet_last : (h.packet b).last = h.last % 2 ^ 1 := packet_field h b 9 30 _ _ rfl rfl
@[simp] theorem packet_dst : (h.packet b).dst = h.dst % 2 ^ 10 := packet_field h b 11 32 _ _ rfl rfl
@[simp] theorem packet_src : (h.packet b).src = h.src % 2 ^ 10 := packet_field h b 12 42 _ _ rfl rfl
@[simp] theorem packet_epoch : (h.packet b).epoch = h.epoch % 2 ^ 4 := packet_field h b 13 52 _ _ rfl rfl
@[simp] theorem packet_stream : (h.packet b).stream = h.stream % 2 ^ 6 := packet_field h b 14 56 _ _ rfl rfl
@[simp] theorem packet_pkey : (h.packet b).pkey = h.pkey % 2 ^ 16 := packet_field h b 16 64 _ _ rfl rfl
@[simp] theorem packet_context : (h.packet b).context = h.context % 2 ^ 10 := packet_field h b 17 80 _ _ rfl rfl
@[simp] theorem packet_tag : (h.packet b).tag = h.tag % 2 ^ 16 := packet_field h b 19 96 _ _ rfl rfl
@[simp] theorem packet_status : (h.packet b).status = h.status % 2 ^ 8 := packet_field h b 20 112 _ _ rfl rfl
@[simp] theorem packet_modifier : (h.packet b).modifier = h.modifier % 2 ^ 8 := packet_field h b 21 120 _ _ rfl rfl
@[simp] theorem packet_address : (h.packet b).address = h.address % 2 ^ 64 := packet_field h b 22 128 _ _ rfl rfl
@[simp] theorem packet_aux : (h.packet b).aux = h.aux % 2 ^ 64 := packet_field h b 23 192 _ _ rfl rfl
@[simp] theorem packet_length : (h.packet b).length = b.length % 2 ^ 13 := packet_field h b 3 12 _ _ rfl rfl

end

end Sys2Proof.Machine
end

section
/-! O50: Cuff rounds close, groups are re-armed and their counters cleared (R322 to R330, R343). -/

set_option Elab.async false

namespace Sys2Proof.Machine
open Sys2Proof

namespace Mach

/-! ### What the descriptors say -/

/-- Status words, member counters and direct registers of the Cuff page: what is neither a descriptor nor a member entry. -/
def cuffStatusWord (k : Nat) : Bool := itemPage k == Pg.cuff && (itemSel k == 0 || itemSel k == 2 || itemSel k == 4)

/-- The descriptors, member entries and the stitch are the same. -/
structure cuffSame (m n : Mach) : Prop where
  live : ∀ k, cuffStatusWord k = false → n.live .sx k = m.live .sx k
  time : n.time = m.time

theorem cuffSame_of_rf {m n : Mach} (hrf : n.rf .sx = m.rf .sx) (hp : n.epParams = m.epParams) (ht : n.time = m.time) :
    m.cuffSame n := ⟨fun k _ => live_congr hrf hp k, ht⟩

theorem cuffSame_of_touches {m n : Mach} (h : m.touches n .sx cuffStatusWord) : m.cuffSame n :=
  ⟨fun k hk => live_of_kept h.2.1 (epParams_of_bare h.1) k hk, h.time⟩

theorem cuffSame.trans {m n o : Mach} (h : m.cuffSame n) (g : n.cuffSame o) : m.cuffSame o :=
  ⟨fun k hk => (g.live k hk).trans (h.live k hk), g.time.trans h.time⟩

section
variable {m n : Mach} (h : m.cuffSame n) (g : Nat) (hg : g < 512)
include h

theorem cuffSame.tfld {u : Nat} (hu : u = 1 ∨ u = 3) (per e : Nat) (f : Fld) (ha : per * e + f.off < 2 ^ 44) :
    n.tfld .sx Pg.cuff u per e f = m.tfld .sx Pg.cuff u per e f := by
  have hu16 : u < 16 := by omega
  rw [Mach.tfld, Mach.tfld, h.live]
  rw [cuffStatusWord, item_page _ _ _ ha hu16, item_sel _ _ _ ha hu16]
  rcases hu with rfl | rfl <;> rfl

include hg

theorem cuffSame.cd {f : Fld} (hf : f.off < 4) : n.cd g f = m.cd g f := h.tfld (.inl rfl) _ _ _ (by omega)

theorem cuffSame.member {i : Nat} (hi : i < 256) : n.cmember g i = m.cmember g i := by
  have hbase := m.cuffBase_lt g
  have hb := h.cd g hg (f := F.cdesc_memberBase) (by decide)
  have hf (f : Fld) (hf : f.off < 4) : n.tfld .sx Pg.cuff 3 1 (m.cd g F.cdesc_memberBase + i) f
      = m.tfld .sx Pg.cuff 3 1 (m.cd g F.cdesc_memberBase + i) f := h.tfld (.inr rfl) _ _ _ (by omega)
  simp only [cmember, memberOf, hb, hf F.member_port (by decide), hf F.member_context (by decide),
    hf F.member_contrib (by decide), hf F.member_recv (by decide)]

theorem cuffSame.contribs : n.ccontribs g = m.ccontribs g := by
  rw [ccontribs, h.cd g hg (by decide), ccontribs]
  refine List.filter_congr fun i hi => ?_
  rw [h.member g hg ((List.mem_range.1 hi).trans (Nat.mod_lt _ (by decide)))]

theorem cuffSame.gather (r : Round) : n.cuffGather g r = m.cuffGather g r := by
  simp only [cuffGather, h.cd g hg (f := F.cdesc_len) (by decide), h.cd g hg (f := F.cdesc_members) (by decide)]

theorem cuffSame.reduce (r : Round) : n.cuffReduce g r = m.cuffReduce g r := by
  simp only [cuffReduce, h.cd g hg (f := F.cdesc_len) (by decide), h.cd g hg (f := F.cdesc_members) (by decide),
    h.cd g hg (f := F.cdesc_inFmt) (by decide), h.cd g hg (f := F.cdesc_op) (by decide)]

theorem cuffSame.status (r : Round) (late : Bool) (x : Nat) : n.statusBlock g r late x = m.statusBlock g r late x := by
  simp only [statusBlock, h.cd g hg (f := F.cdesc_len) (by decide), h.cd g hg (f := F.cdesc_kind) (by decide),
    h.cd g hg (f := F.cdesc_inFmt) (by decide)]

end

/-! ### Absent members (R329) -/

/-- Member counters of the group at `g`. -/
def cuffCounterWord (k : Nat) : Bool := itemPage k == Pg.cuff && itemSel k == 4

theorem status_of_counter {k : Nat} (h : cuffCounterWord k = true) : cuffStatusWord k = true := by
  simp only [cuffCounterWord, Bool.and_eq_true] at h
  simp [cuffStatusWord, h.1, h.2]

theorem cuffCounter_item {a : Nat} (ha : a < 2 ^ 44) : cuffCounterWord (item Pg.cuff 4 a) = true := by
  rw [cuffCounterWord, item_page _ _ _ ha (by decide), item_sel _ _ _ ha (by decide)]
  decide

/-- Members of a list are counted as missed, one after another. -/
def cuffMissed (m : Mach) (g : Nat) (is : List Nat) : Mach := is.foldl (fun m i => m.countMember g i F.cmc_missed) m

theorem cuffMissed_spec (g : Nat) (hg : g < 512) (is : List Nat) (hi : ∀ i ∈ is, i < 256) (hone : is.Nodup) (m : Mach) :
    m.touches (m.cuffMissed g is) .sx cuffCounterWord ∧
      ∀ i < 256, (m.cuffMissed g is).storedT .sx Pg.cuff 4 1 (m.cd g F.cdesc_memberBase + i) F.cmc_missed =
        if i ∈ is then min (m.storedT .sx Pg.cuff 4 1 (m.cd g F.cdesc_memberBase + i) F.cmc_missed + 1) (2 ^ F.cmc_missed.w - 1)
        else m.storedT .sx Pg.cuff 4 1 (m.cd g F.cdesc_memberBase + i) F.cmc_missed := by
  induction is generalizing m with
  | nil => exact ⟨touches_refl .., fun _ _ => rfl⟩
  | cons j is ih =>
    obtain ⟨n, hn⟩ : ∃ n, n = m.countMember g j F.cmc_missed := ⟨_, rfl⟩
    have hbase := m.cuffBase_lt g
    have hj := hi j List.mem_cons_self
    have hfirst : m.touches n .sx cuffCounterWord := by
      rw [hn]
      exact touches_setTFld _ _ _ _ _ _ _ _ (cuffCounter_item (by change 1 * _ + 0 < _; omega))
    have hcd : n.cd g F.cdesc_memberBase = m.cd g F.cdesc_memberBase :=
      (cuffSame_of_touches (hfirst.mono fun _ => status_of_counter)).cd g hg (by decide)
    obtain ⟨hrest, hcounts⟩ := ih (fun i h => hi i (List.mem_cons_of_mem _ h)) (List.nodup_cons.1 hone).2 n
    have hdo : m.cuffMissed g (j :: is) = n.cuffMissed g is := by rw [hn]; rfl
    rw [hdo]
    refine ⟨hfirst.trans hrest, fun i hlt => ?_⟩
    have hcount := hcounts i hlt
    rw [hcd] at hcount
    rw [hcount]
    by_cases hij : i = j
    · subst hij
      rw [if_neg (List.nodup_cons.1 hone).1, if_pos List.mem_cons_self, hn, countMember,
        storedT_bumpT _ _ _ (.inr rfl) (by change 1 * _ + 0 < _; omega) (by decide)]
    · have hother : n.storedT .sx Pg.cuff 4 1 (m.cd g F.cdesc_memberBase + i) F.cmc_missed
          = m.storedT .sx Pg.cuff 4 1 (m.cd g F.cdesc_memberBase + i) F.cmc_missed := by
        rw [storedT, hn, countMember, bumpT, setTFld, word_setWord, if_neg fun h => hij ?_, storedT]
        have := ((item_inj (by change 1 * _ + 0 < _; omega) (by change 1 * _ + 0 < _; omega) (by decide) (by decide)).1 h).2.2
        omega
      simp only [hother, List.mem_cons, hij, false_or]

/-! ### A round that closes (R322, R329) -/

/-- The group's record of the round is closed. -/
def cuffClosed (m : Mach) (g : Nat) (r : Round) : Mach := m.setCgrp g { m.cgrp g with round := none, lastClosed := some r.s }

/-- A late round and its absent members are counted. -/
def cuffLateCounted (m : Mach) (g : Nat) (r : Round) : Mach :=
  ((m.bump .sx Pg.cuff R.cufLateRoundCnt).bumpT .sx Pg.cuff 2 4 g F.cstat_lateRounds).cuffMissed g
    ((m.ccontribs g).filter fun i => (Mach.Round.bytes r i).isNone)

/-- The round is counted. -/
def cuffCounted (m : Mach) (g : Nat) (r : Round) (late : Bool) : Mach :=
  if late then ((m.cuffClosed g r).bump .sx Pg.cuff R.cufRoundCnt).cuffLateCounted g r
  else (m.cuffClosed g r).bump .sx Pg.cuff R.cufRoundCnt

/-- The last arriver and the slowest member are shown. -/
def cuffShown (m : Mach) (g : Nat) (r : Round) : Mach :=
  let a := m.setTFld .sx Pg.cuff 2 4 g F.cstat_lastArriver (match r.accepted.getLast? with | some a => a.1 | none => 0xFF)
  a.setTFld .sx Pg.cuff 2 4 g F.cstat_slowest (a.cuffSlowest g)

/-- The bytes of the result, and the saturated elements. -/
def cuffResult (m : Mach) (g : Nat) (r : Round) : List Byte × Nat :=
  if m.cd g F.cdesc_kind = 1 then (m.cuffGather g r, 0) else m.cuffReduce g r

/-- All that a closed round leaves in the registers before its result is queued. -/
def cuffRecorded (m : Mach) (g : Nat) (r : Round) (late : Bool) : Mach :=
  ((m.cuffCounted g r late).cuffShown g r).bumpBy .sx Pg.cuff R.cufSatCnt (((m.cuffCounted g r late).cuffShown g r).cuffResult g r).2

/-- The result is queued. -/
def cuffQueued (m : Mach) (g : Nat) (r : Round) (late : Bool) (bytes : List Byte) : Mach :=
  m.cuffIssue g r late (bytes ++ m.statusBlock g r late m.time.number)

theorem cuffClose_eq (m : Mach) (g : Nat) (r : Round) (late : Bool) : m.cuffClose g r late =
    if ((m.cuffRecorded g r late).cuffSupersede g).2 then
      (((m.cuffRecorded g r late).cuffSupersede g).1.cuffQueued g r late
        (((m.cuffCounted g r late).cuffShown g r).cuffResult g r).1).cuffFault g Reason.resultLost
    else ((m.cuffRecorded g r late).cuffSupersede g).1.cuffQueued g r late
      (((m.cuffCounted g r late).cuffShown g r).cuffResult g r).1 := by
  rfl

/-- Words that showing a closed round writes. -/
def cuffShownWord (k : Nat) : Bool := itemPage k == Pg.cuff && itemSel k == 2 || k == item Pg.cuff 0 R.cufSatCnt

/-- Words that counting a late round writes, its own count apart. -/
def cuffAbsentWord (k : Nat) : Bool := itemPage k == Pg.cuff && itemSel k == 2 || cuffCounterWord k

theorem status_of_shown {k : Nat} (h : cuffShownWord k = true) : cuffStatusWord k = true := by
  simp only [cuffShownWord, Bool.or_eq_true, Bool.and_eq_true, beq_iff_eq] at h
  rcases h with ⟨hpage, hsel⟩ | rfl
  · simp [cuffStatusWord, hpage, hsel]
  · decide

theorem status_of_absent {k : Nat} (h : cuffAbsentWord k = true) : cuffStatusWord k = true := by
  simp only [cuffAbsentWord, Bool.or_eq_true, Bool.and_eq_true, beq_iff_eq] at h
  rcases h with ⟨hpage, hsel⟩ | hcounter
  · simp [cuffStatusWord, hpage, hsel]
  · exact status_of_counter hcounter

theorem cuffStat_item {g o : Nat} (hg : g < 512) (ho : o < 4) :
    (itemPage (item Pg.cuff 2 (4 * g + o)) == Pg.cuff && itemSel (item Pg.cuff 2 (4 * g + o)) == 2) = true := by
  rw [item_page _ _ _ (by omega) (by decide), item_sel _ _ _ (by omega) (by decide)]
  decide

theorem touches_cuffShown (m : Mach) (g : Nat) (r : Round) (hg : g < 512) : m.touches (m.cuffShown g r) .sx cuffShownWord := by
  have hword (f : Fld) (hf : f.off < 4) : cuffShownWord (item Pg.cuff 2 (4 * g + f.off)) = true := by
    rw [cuffShownWord, cuffStat_item hg hf, Bool.true_or]
  exact (touches_setTFld _ _ _ _ _ _ _ _ (hword F.cstat_lastArriver (by decide))).trans
    (touches_setTFld _ _ _ _ _ _ _ _ (hword F.cstat_slowest (by decide)))

theorem nodup_absent (m : Mach) (g : Nat) (q : Nat → Bool) : ((m.ccontribs g).filter q).Nodup :=
  (List.nodup_range.filter _).filter _

theorem contrib_lt {m : Mach} {g i : Nat} (h : i ∈ m.ccontribs g) : i < 256 :=
  (List.mem_range.1 (List.mem_filter.1 h).1).trans (Nat.mod_lt _ (by decide))

/-- A late round: counted, with each member that is absent. -/
theorem cuffLateCounted_spec (m : Mach) (g : Nat) (r : Round) (hg : g < 512) :
    ∃ a, m.counted a .sx Pg.cuff R.cufLateRoundCnt ∧ m.touches a .sx (pageWord Pg.cuff R.cufLateRoundCnt) ∧
      a.touches (m.cuffLateCounted g r) .sx cuffAbsentWord ∧ ∀ i ∈ m.ccontribs g, Mach.Round.bytes r i = none →
        (m.cuffLateCounted g r).storedT .sx Pg.cuff 4 1 (m.cd g F.cdesc_memberBase + i) F.cmc_missed
          = min (m.storedT .sx Pg.cuff 4 1 (m.cd g F.cdesc_memberBase + i) F.cmc_missed + 1) (2 ^ F.cmc_missed.w - 1) := by
  have hbase := m.cuffBase_lt g
  obtain ⟨a, ha⟩ : ∃ a, a = m.bump .sx Pg.cuff R.cufLateRoundCnt := ⟨_, rfl⟩
  obtain ⟨b, hb⟩ : ∃ b, b = a.bumpT .sx Pg.cuff 2 4 g F.cstat_lateRounds := ⟨_, rfl⟩
  have htouch : m.touches a .sx (pageWord Pg.cuff R.cufLateRoundCnt) := by
    rw [ha]
    exact touches_setWord _ _ _ _ (by decide)
  have hstat : a.touches b .sx cuffAbsentWord := by
    rw [hb]
    exact touches_setTFld _ _ _ _ _ _ _ _ (by rw [cuffAbsentWord, cuffStat_item hg (by decide), Bool.true_or])
  have hsame : m.cuffSame b := (cuffSame_of_touches (htouch.mono fun k hk => by rw [beq_iff_eq.1 hk]; decide)).trans
    (cuffSame_of_touches (hstat.mono fun _ => status_of_absent))
  obtain ⟨hcounters, hmissed⟩ := cuffMissed_spec g hg ((m.ccontribs g).filter fun i => (Mach.Round.bytes r i).isNone)
    (fun i hi => contrib_lt (List.mem_filter.1 hi).1) (m.nodup_absent g _) b
  have hdo : m.cuffLateCounted g r = b.cuffMissed g ((m.ccontribs g).filter fun i => (Mach.Round.bytes r i).isNone) := by
    rw [hb, ha]; rfl
  rw [hdo]
  refine ⟨a, by rw [ha, counted, word_bump], htouch,
    hstat.trans (hcounters.mono fun k hk => by rw [cuffAbsentWord, hk, Bool.or_true]), fun i hi hnone => ?_⟩
  have hlt := contrib_lt hi
  have hword : b.word .sx (item Pg.cuff 4 (1 * (m.cd g F.cdesc_memberBase + i) + F.cmc_missed.off))
      = m.word .sx (item Pg.cuff 4 (1 * (m.cd g F.cdesc_memberBase + i) + F.cmc_missed.off)) := by
    have ho : 1 * (m.cd g F.cdesc_memberBase + i) + F.cmc_missed.off < 2 ^ 44 := by change 1 * _ + 0 < _; omega
    rw [hb, bumpT, setTFld, word_setWord, if_neg fun h => absurd ((item_inj ho (by change 4 * g + 2 < _; omega)
      (by decide) (by decide)).1 h).2.1 (by decide), ha, bump, bumpBy, word_setWord, if_neg fun h =>
      absurd ((item_inj ho (by decide) (by decide) (by decide)).1 h).2.1 (by decide)]
  have hcount := hmissed i hlt
  rw [hsame.cd g hg (by decide), if_pos (List.mem_filter.2 ⟨hi, by simp [hnone]⟩)] at hcount
  rw [hcount, storedT, hword, storedT]

/-- A member's counter of missed rounds one higher. -/
def cuffMisses (m n : Mach) (g : Nat) (r : Round) : Prop := ∀ i ∈ m.ccontribs g, Mach.Round.bytes r i = none →
  n.storedT .sx Pg.cuff 4 1 (m.cd g F.cdesc_memberBase + i) F.cmc_missed
    = min (m.storedT .sx Pg.cuff 4 1 (m.cd g F.cdesc_memberBase + i) F.cmc_missed + 1) (2 ^ F.cmc_missed.w - 1)

theorem touches_cuffRecord (m : Mach) (g : Nat) (r : Round) (x : Nat) (hg : g < 512) :
    m.touches ((m.cuffShown g r).bumpBy .sx Pg.cuff R.cufSatCnt x) .sx cuffShownWord :=
  (touches_cuffShown m g r hg).trans (touches_setWord _ _ _ _ (by decide))

/-- Words that a closed round writes before its result is queued. -/
def cuffRecordWord (k : Nat) : Bool :=
  pageWord Pg.cuff R.cufRoundCnt k || pageWord Pg.cuff R.cufLateRoundCnt k || cuffAbsentWord k || cuffShownWord k

theorem status_of_record {k : Nat} (h : cuffRecordWord k = true) : cuffStatusWord k = true := by
  simp only [cuffRecordWord, Bool.or_eq_true] at h
  rcases h with ((hround | hlate) | habsent) | hshown
  · rw [beq_iff_eq.1 hround]; decide
  · rw [beq_iff_eq.1 hlate]; decide
  · exact status_of_absent habsent
  · exact status_of_shown hshown

/-- A closed round in the registers. -/
theorem cuffRecorded_spec (m : Mach) (g : Nat) (r : Round) (late : Bool) (hg : g < 512) :
    (m.cuffClosed g r).touches (m.cuffRecorded g r late) .sx cuffRecordWord ∧
      m.counted (m.cuffRecorded g r late) .sx Pg.cuff R.cufRoundCnt ∧
      (late = true → m.counted (m.cuffRecorded g r late) .sx Pg.cuff R.cufLateRoundCnt ∧
        m.cuffMisses (m.cuffRecorded g r late) g r) := by
  obtain ⟨b, hb⟩ : ∃ b, b = (m.cuffClosed g r).bump .sx Pg.cuff R.cufRoundCnt := ⟨_, rfl⟩
  have hround : m.counted b .sx Pg.cuff R.cufRoundCnt := by rw [hb, counted, word_bump]; rfl
  have htouch : (m.cuffClosed g r).touches b .sx (pageWord Pg.cuff R.cufRoundCnt) := by
    rw [hb]
    exact touches_setWord _ _ _ _ (by decide)
  have hstat := htouch.mono (g := cuffRecordWord) fun k hk => by rw [cuffRecordWord, hk]; rfl
  rw [cuffRecorded]
  generalize (((m.cuffCounted g r late).cuffShown g r).cuffResult g r).2 = x
  rw [cuffCounted, ← hb]
  cases late with
  | false =>
    have hrec := touches_cuffRecord b g r x hg
    refine ⟨hstat.trans (hrec.mono fun k hk => by rw [cuffRecordWord, hk, Bool.or_true]), ?_, fun h => absurd h (by decide)⟩
    rw [counted, if_neg (by decide), word_of_kept hrec.2.1 _ (by decide)]
    exact hround
  | true =>
    obtain ⟨a, hlate, hcount, habsent, hmiss⟩ := b.cuffLateCounted_spec g r hg
    have hrec := touches_cuffRecord (b.cuffLateCounted g r) g r x hg
    have hsame : m.cuffSame b := (cuffSame_of_rf (m := m) (n := m.cuffClosed g r) rfl rfl rfl).trans
      (cuffSame_of_touches (hstat.mono fun _ => status_of_record))
    have hword {k : Nat} (hk : pageWord Pg.cuff R.cufRoundCnt k = false) : b.word .sx k = m.word .sx k :=
      (word_of_kept htouch.2.1 k hk).trans rfl
    rw [if_pos rfl]
    refine ⟨hstat.trans ((hcount.mono fun k hk => by simp [cuffRecordWord, hk]).trans
      ((habsent.mono fun k hk => by simp [cuffRecordWord, hk]).trans (hrec.mono fun k hk => by simp [cuffRecordWord, hk]))), ?_, fun _ => ⟨?_, fun i hi hnone => ?_⟩⟩
    · rw [counted, word_of_kept hrec.2.1 _ (by decide), word_of_kept habsent.2.1 _ (by decide),
        word_of_kept hcount.2.1 _ (by decide)]
      exact hround
    · rw [counted, word_of_kept hrec.2.1 _ (by decide), word_of_kept habsent.2.1 _ (by decide), hlate, hword (by decide)]
    · have hbase := m.cuffBase_lt g
      have hlt := contrib_lt hi
      have ho : 1 * (m.cd g F.cdesc_memberBase + i) + F.cmc_missed.off < 2 ^ 44 := by change 1 * _ + 0 < _; omega
      have hmissed := hmiss i (by rwa [hsame.contribs g hg]) hnone
      rw [hsame.cd g hg (by decide)] at hmissed
      rw [storedT, word_of_kept hrec.2.1 _ ?_]
      · refine hmissed.trans ?_
        rw [storedT, hword (beq_eq_false_iff_ne.2 fun h => absurd ((item_inj ho (by decide) (by decide) (by decide)).1 h).2.1
          (by decide)), storedT]
      · rw [cuffShownWord, item_sel _ _ _ ho (by decide)]
        simp only [Nat.reduceBEq, Bool.and_false, Bool.false_or]
        exact beq_eq_false_iff_ne.2 fun h => absurd ((item_inj ho (by decide) (by decide) (by decide)).1 h).2.1 (by decide)

/-! ### Its result (R325 to R327) -/

/-- The copies of a group that wait for their release. -/
def cuffReleased (g : Nat) (hs : List Held) : List Held :=
  hs.map fun h => if h.input = 172 ∧ CufAux.group h.pkt = g then { h with notBefore := 0 } else h

/-- With at most one held result none is lost. -/
theorem cuffSupersede_room {m : Mach} {g : Nat} (h : (m.cuffHeld g).length < 2) :
    m.cuffSupersede g = ({ m.bumpBy .sx Pg.cuff R.cufResultDropCnt 0 with held := cuffReleased g m.held }, false) := by
  have hlost : decide (2 ≤ (m.cuffHeld g).length) = false := decide_eq_false (by omega)
  simp only [cuffSupersede, hlost]
  rfl

theorem cuffSupersede_lost {m : Mach} {g : Nat} (h : 2 ≤ (m.cuffHeld g).length) : ∃ l x,
    m.cuffSupersede g = ({ m.bumpBy .sx Pg.cuff R.cufResultDropCnt x with held := l }, true) := by
  have hlost : decide (2 ≤ (m.cuffHeld g).length) = true := decide_eq_true h
  simp only [cuffSupersede, hlost, if_true]
  obtain ⟨l, hl, -⟩ := m.dropCopies_spec ((m.cuffCopies g).filter fun h => CufAux.opening h.pkt == (m.cuffHeld g).headD 0)
  rw [hl]
  exact ⟨_, _, rfl⟩

/-- The copy for a receiving member. -/
def cuffCopy (m : Mach) (g : Nat) (r : Round) (late : Bool) (payload : List Byte) (i : Nat) : Packet :=
  HdrSpec.packet
    { opcode := Op.cufResult, vc := 3, dst := m.partnerNode (m.cmember g i).port, src := m.sxNode, epoch := m.epochNow .sx % 16,
      stream := 63, pkey := m.cd g F.cdesc_pkey, context := (m.cmember g i).context, status := if late then Status.late else 0,
      aux := cufAux g i r.s } payload

/-- The copies for a list of members, the place of each in the list with it, released over `w` stitches from `x` on. -/
def cuffSent (m : Mach) (g : Nat) (r : Round) (late : Bool) (payload : List Byte) (x w : Nat) (l : List (Nat × Nat)) : Mach :=
  l.foldl (fun m e => m.pushExempt (m.cuffCopy g r late payload e.1) 172 (m.cmember g e.1).port
    (if w = 0 then x * 875 + 848 else (x + 1 + e.2 % w) * 875)) m

theorem cuffIssue_eq (m : Mach) (g : Nat) (r : Round) (late : Bool) (payload : List Byte) : m.cuffIssue g r late payload =
    m.cuffSent g r late payload m.time.number (m.cd g F.cdesc_release)
      ((List.range (m.cd g F.cdesc_members)).filter fun i => (m.cmember g i).recv).zipIdx := rfl

/-- What such copies look like, and nothing else happens. -/
theorem cuffSent_spec (g : Nat) (r : Round) (late : Bool) (payload : List Byte) (x w : Nat) (hg : g < 512) (l : List (Nat × Nat))
    (hl : ∀ e ∈ l, e.1 < 256) (m : Mach) : ∃ cs k, m.cuffSent g r late payload x w l = { m with held := m.held ++ cs, nextId := k } ∧
      cs.map (fun h => (h.input, h.output, h.notBefore, h.pkt.payload)) = l.map (fun e =>
        (172, (m.cmember g e.1).port, (if w = 0 then x * 875 + 848 else (x + 1 + e.2 % w) * 875), payload)) ∧
      ∀ h ∈ cs, h.pkt.opcode = Op.cufResult ∧ h.pkt.status = if late then Status.late else 0 := by
  induction l generalizing m with
  | nil => exact ⟨[], m.nextId, by rw [List.append_nil]; rfl, rfl, fun h hh => absurd hh List.not_mem_nil⟩
  | cons e l ih =>
    obtain ⟨n, hn⟩ : ∃ n, n = m.pushExempt (m.cuffCopy g r late payload e.1) 172 (m.cmember g e.1).port
      (if w = 0 then x * 875 + 848 else (x + 1 + e.2 % w) * 875) := ⟨_, rfl⟩
    obtain ⟨cs, k, hdo, hmap, hpkt⟩ := ih (fun e he => hl e (List.mem_cons_of_mem _ he)) n
    obtain ⟨c, j, hpush, hc, hcpkt⟩ : ∃ c j, n = { m with held := m.held ++ [c], nextId := j } ∧
        (c.input, c.output, c.notBefore, c.pkt.payload) = (172, (m.cmember g e.1).port,
          (if w = 0 then x * 875 + 848 else (x + 1 + e.2 % w) * 875), payload) ∧ c.pkt = m.cuffCopy g r late payload e.1 :=
      ⟨_, _, hn, rfl, rfl⟩
    have hsame : m.cuffSame n := by rw [hpush]; exact cuffSame_of_rf rfl rfl rfl
    refine ⟨c :: cs, k, ?_, ?_, fun h hh => ?_⟩
    · have hstep : m.cuffSent g r late payload x w (e :: l) = n.cuffSent g r late payload x w l := by rw [hn]; rfl
      rw [hstep, hdo, hpush]
      simp only [List.append_assoc, List.singleton_append]
    · rw [List.map_cons, hc, hmap, List.map_cons]
      congr 1
      refine List.map_congr_left fun a ha => ?_
      rw [hsame.member g hg (hl a (List.mem_cons_of_mem _ ha))]
    · rcases List.mem_cons.1 hh with rfl | hin
      · rw [hcpkt, cuffCopy, packet_opcode, packet_status]
        exact ⟨rfl, by cases late <;> rfl⟩
      · exact hpkt h hin

/-- The payload of a result. -/
def cuffPayload (m : Mach) (g : Nat) (r : Round) (late : Bool) : List Byte :=
  (if m.cd g F.cdesc_kind = 1 then m.cuffGather g r else (m.cuffReduce g r).1) ++ m.statusBlock g r late m.time.number

/-- The members that receive. -/
def cuffReceivers (m : Mach) (g : Nat) : List Nat := (List.range (m.cd g F.cdesc_members)).filter fun i => (m.cmember g i).recv

theorem cuffReceivers_lt {m : Mach} {g i : Nat} (h : i ∈ m.cuffReceivers g) : i < 256 :=
  (List.mem_range.1 (List.mem_filter.1 h).1).trans (Nat.mod_lt _ (by decide))

theorem cuffSame.receivers {m n : Mach} (h : m.cuffSame n) (g : Nat) (hg : g < 512) : n.cuffReceivers g = m.cuffReceivers g := by
  rw [cuffReceivers, h.cd g hg (by decide), cuffReceivers]
  refine List.filter_congr fun i hi => ?_
  rw [h.member g hg ((List.mem_range.1 hi).trans (Nat.mod_lt _ (by decide)))]

/-- The copies of a result, in the order of the members. -/
def cuffOut (m : Mach) (g : Nat) (payload : List Byte) : List (Nat × Nat × Nat × List Byte) :=
  (m.cuffReceivers g).mapIdx fun j i => (172, (m.cmember g i).port, (if m.cd g F.cdesc_release = 0 then m.time.number * 875 + 848
    else (m.time.number + 1 + j % m.cd g F.cdesc_release) * 875), payload)

/-- The result that a machine queues after the round was shown on `m`. -/
theorem cuffQueued_spec {m n : Mach} (h : m.cuffSame n) (g : Nat) (r : Round) (late : Bool) (hg : g < 512) (bytes : List Byte)
    (hb : bytes = if m.cd g F.cdesc_kind = 1 then m.cuffGather g r else (m.cuffReduce g r).1) :
    ∃ cs k, n.cuffQueued g r late bytes = { n with held := n.held ++ cs, nextId := k } ∧
      cs.map (fun h => (h.input, h.output, h.notBefore, h.pkt.payload)) = m.cuffOut g (m.cuffPayload g r late) ∧
      ∀ h ∈ cs, h.pkt.opcode = Op.cufResult ∧ h.pkt.status = if late then Status.late else 0 := by
  have hpay : bytes ++ n.statusBlock g r late n.time.number = m.cuffPayload g r late := by
    rw [cuffPayload, h.time, h.status g hg, hb]
  have hmem (e : Nat × Nat) (he : e ∈ (m.cuffReceivers g).zipIdx) : e.1 < 256 :=
    cuffReceivers_lt (List.fst_mem_of_mem_zipIdx he)
  obtain ⟨cs, k, hdo, hmap, hpkt⟩ := cuffSent_spec g r late (m.cuffPayload g r late) m.time.number (m.cd g F.cdesc_release) hg
    (m.cuffReceivers g).zipIdx hmem n
  refine ⟨cs, k, ?_, hmap.trans ?_, hpkt⟩
  · have hstep : n.cuffQueued g r late bytes = n.cuffSent g r late (m.cuffPayload g r late) m.time.number
        (m.cd g F.cdesc_release) (m.cuffReceivers g).zipIdx := by
      rw [cuffQueued, hpay, cuffIssue_eq, ← cuffReceivers, h.receivers g hg, h.time, h.cd g hg (by decide)]
    exact hstep.trans hdo
  · rw [cuffOut, List.mapIdx_eq_zipIdx_map]
    refine List.map_congr_left fun e he => ?_
    rw [h.member g hg (hmem e he)]

theorem cuffSame_recorded (m : Mach) (g : Nat) (r : Round) (late : Bool) (hg : g < 512) : m.cuffSame (m.cuffRecorded g r late) :=
  (cuffSame_of_rf (m := m) (n := m.cuffClosed g r) rfl rfl rfl).trans
    (cuffSame_of_touches ((cuffRecorded_spec m g r late hg).1.mono fun _ => status_of_record))

/-- The bytes that a closing round forms. -/
theorem cuffResult_bytes (m : Mach) (g : Nat) (r : Round) (late : Bool) (hg : g < 512) :
    (((m.cuffCounted g r late).cuffShown g r).cuffResult g r).1
      = if m.cd g F.cdesc_kind = 1 then m.cuffGather g r else (m.cuffReduce g r).1 := by
  have hback : ((m.cuffCounted g r late).cuffShown g r).cuffSame (m.cuffRecorded g r late) :=
    cuffSame_of_touches (touches_setWord _ _ _ _ (by decide))
  have hsame := cuffSame_recorded m g r late hg
  rw [cuffResult, ← hback.gather g hg, ← hback.reduce g hg, ← hback.cd g hg (f := F.cdesc_kind) (by decide), hsame.gather g hg,
    hsame.reduce g hg, hsame.cd g hg (by decide)]
  split <;> rfl

/-- The machine with other packets held. -/
def requeued (m : Mach) (l : List Held) (k : Nat) : Mach := { m with held := l, nextId := k }

/-- What stands after the counters of a result's copies, with other packets held. -/
def cuffRequeued (m : Mach) (x : Nat) (l : List Held) (k : Nat) : Mach :=
  (m.bumpBy .sx Pg.cuff R.cufResultDropCnt x).requeued l k

theorem word_cuffRequeued (m : Mach) (x : Nat) (l : List Held) (k : Nat) {j : Nat}
    (hj : (j == item Pg.cuff 0 R.cufResultDropCnt) = false) : (m.cuffRequeued x l k).word .sx j = m.word .sx j := by
  have hset : (m.cuffRequeued x l k).word .sx j = (m.bumpBy .sx Pg.cuff R.cufResultDropCnt x).word .sx j := rfl
  rw [hset, bumpBy, word_setWord, if_neg (beq_eq_false_iff_ne.1 hj)]

theorem cuffRequeued_touches (m : Mach) (x : Nat) (l : List Held) (k : Nat) :
    (m.requeued l k).touches (m.cuffRequeued x l k) .sx (pageWord Pg.cuff R.cufResultDropCnt) :=
  touches_setWord (m.requeued l k) .sx _ _ (by decide)

theorem cgrp_cuffRequeued (m : Mach) (x : Nat) (l : List Held) (k g : Nat) : (m.cuffRequeued x l k).cgrp g = m.cgrp g := by
  rw [cgrp, cuff_of_bare (cuffRequeued_touches m x l k).1]
  rfl

section
variable {m : Mach} {g : Nat} (hg : g < 512)
include hg

/-- The close of a round without a lost result. -/
theorem cuffClose_room (r : Round) (late : Bool) (h : (m.cuffHeld g).length < 2) :
    ∃ cs k, m.cuffClose g r late = (m.cuffRecorded g r late).cuffRequeued 0 (cuffReleased g m.held ++ cs) k ∧
      cs.map (fun h => (h.input, h.output, h.notBefore, h.pkt.payload)) = m.cuffOut g (m.cuffPayload g r late) ∧
      ∀ h ∈ cs, h.pkt.opcode = Op.cufResult ∧ h.pkt.status = if late then Status.late else 0 := by
  obtain ⟨htouch, -, -⟩ := cuffRecorded_spec m g r late hg
  have hheld : (m.cuffRecorded g r late).held = m.held := (held_of_bare htouch.1).trans rfl
  have hroom : ((m.cuffRecorded g r late).cuffHeld g).length < 2 := by rwa [cuffHeld, cuffCopies, hheld]
  have hsame := cuffSame_recorded m g r late hg
  have hbytes := cuffResult_bytes m g r late hg
  rw [cuffClose_eq, cuffSupersede_room hroom, if_neg Bool.false_ne_true, hheld]
  generalize m.cuffRecorded g r late = a at hsame
  have hnext : m.cuffSame { a.bumpBy .sx Pg.cuff R.cufResultDropCnt 0 with held := cuffReleased g m.held } :=
    (hsame.trans (cuffSame_of_touches (touches_setWord _ _ _ _ (by decide)))).trans (cuffSame_of_rf rfl rfl rfl)
  exact cuffQueued_spec hnext g r late hg _ hbytes

/-- The close of a round that supersedes two held results. -/
theorem cuffClose_lost (r : Round) (late : Bool) (h : 2 ≤ (m.cuffHeld g).length) :
    ∃ l k x, m.cuffClose g r late = ((m.cuffRecorded g r late).cuffRequeued x l k).cuffFault g Reason.resultLost := by
  obtain ⟨htouch, -, -⟩ := cuffRecorded_spec m g r late hg
  have hheld : (m.cuffRecorded g r late).held = m.held := (held_of_bare htouch.1).trans rfl
  have hlost : 2 ≤ ((m.cuffRecorded g r late).cuffHeld g).length := by rwa [cuffHeld, cuffCopies, hheld]
  have hsame := cuffSame_recorded m g r late hg
  have hbytes := cuffResult_bytes m g r late hg
  obtain ⟨l, x, hdo⟩ := cuffSupersede_lost hlost
  rw [cuffClose_eq, hdo, if_pos rfl]
  generalize m.cuffRecorded g r late = a at hsame
  have hnext : m.cuffSame { a.bumpBy .sx Pg.cuff R.cufResultDropCnt x with held := l } :=
    (hsame.trans (cuffSame_of_touches (touches_setWord _ _ _ _ (by decide)))).trans (cuffSame_of_rf rfl rfl rfl)
  obtain ⟨cs, k, hqueue, -, -⟩ := cuffQueued_spec hnext g r late hg _ hbytes
  exact ⟨l ++ cs, k, x, by rw [hqueue]; rfl⟩

end

end Mach

theorem lateWord_apart {k : Nat} (hk : k = item Pg.cuff 0 R.cufRoundCnt ∨ k = item Pg.cuff 0 R.cufLateRoundCnt) :
    (k == item Pg.cuff 0 R.cufResultDropCnt || Mach.cuffFaultWord k) = false := by
  rcases hk with rfl | rfl <;> decide

/-- A fault of the group writes direct registers and the trace page. -/
theorem sel_of_cuffFault {k : Nat} (h : (k == item Pg.cuff 0 R.cufResultDropCnt || Mach.cuffFaultWord k) = true) :
    itemSel k = 0 ∨ itemPage k = Pg.trace := by
  simp only [Mach.cuffFaultWord, Mach.faultWord, pageWord, eventWord, Bool.or_eq_true, Bool.and_eq_true, beq_iff_eq,
    List.contains_eq_mem, List.mem_cons, List.not_mem_nil, or_false, decide_eq_true_eq] at h
  rcases h with rfl | (rfl | ht | hs) | (rfl | rfl | rfl | rfl) | ht | hs
  · exact .inl (by decide)
  · exact .inl (by decide)
  · exact .inr ht
  · exact .inl hs.1.2
  · exact .inl (by decide)
  · exact .inl (by decide)
  · exact .inl (by decide)
  · exact .inl (by decide)
  · exact .inr ht
  · exact .inl hs.1.2

/-- A member's counter is no such word. -/
theorem counter_apart {a : Nat} (ha : a < 2 ^ 44) :
    (item Pg.cuff 4 a == item Pg.cuff 0 R.cufResultDropCnt || Mach.cuffFaultWord (item Pg.cuff 4 a)) = false := by
  rw [← Bool.not_eq_true]
  intro h
  rcases sel_of_cuffFault h with hsel | hpage
  · rw [item_sel _ _ _ ha (by decide)] at hsel
    exact absurd hsel (by decide)
  · rw [item_page _ _ _ ha (by decide)] at hpage
    exact absurd hpage (by decide)

section
variable {m : Mach} {g : Nat} (hg : g < 512)
include hg

theorem Mach.cgrp_recorded (r : Round) (late : Bool) :
    (m.cuffRecorded g r late).cgrp g = { m.cgrp g with round := none, lastClosed := some r.s } := by
  rw [Mach.cgrp, Mach.cuff_of_bare (Mach.cuffRecorded_spec m g r late hg).1.1]
  exact Mach.cgrp_setCgrp ..

/-- A machine in which a closed round left its marks, whatever else its result did. -/
theorem Mach.cuffClosed_concludes (r : Round) (late : Bool) {z : Mach}
    (hword : ∀ k, (k == item Pg.cuff 0 R.cufResultDropCnt || Mach.cuffFaultWord k) = false →
      z.word .sx k = (m.cuffRecorded g r late).word .sx k) :
    m.counted z .sx Pg.cuff R.cufRoundCnt ∧ (late = true → m.counted z .sx Pg.cuff R.cufLateRoundCnt ∧ m.cuffMisses z g r) := by
  obtain ⟨-, hround, hlate⟩ := Mach.cuffRecorded_spec m g r late hg
  refine ⟨?_, fun h => ⟨?_, fun i hi hnone => ?_⟩⟩
  · rw [Mach.counted, hword _ (lateWord_apart (.inl rfl)), hround]
  · rw [Mach.counted, hword _ (lateWord_apart (.inr rfl)), (hlate h).1]
  · have hbase := m.cuffBase_lt g
    have hlt := Mach.contrib_lt hi
    rw [Mach.storedT, hword _ (counter_apart (by change 1 * _ + 0 < _; omega))]
    exact (hlate h).2 i hi hnone

/-- The close of a round that supersedes two held results. -/
theorem Mach.cuffClose_lost_concludes (r : Round) (late : Bool) (h : 2 ≤ (m.cuffHeld g).length) {z : Mach}
    (hz : z = m.cuffClose g r late) : (z.cgrp g).round = none ∧ (z.cgrp g).lastClosed = some r.s ∧
      (∀ k, (k == item Pg.cuff 0 R.cufResultDropCnt || Mach.cuffFaultWord k) = false →
        z.word .sx k = (m.cuffRecorded g r late).word .sx k) ∧
      ((m.cgrp g).reason = 0 → (z.cgrp g).reason = Reason.resultLost ∧
        z.cuffCopies g = [] ∧ m.counted z .sx Pg.cuff R.cufGroupFaultCnt ∧ z.event .sx Pg.cuff 0 = true) := by
  obtain ⟨l, k, x, hdo⟩ := Mach.cuffClose_lost hg r late h
  obtain ⟨htouch, -, -⟩ := Mach.cuffRecorded_spec m g r late hg
  obtain ⟨b, hb⟩ : ∃ b, b = (m.cuffRecorded g r late).cuffRequeued x l k := ⟨_, rfl⟩
  have hbgrp : b.cgrp g = { m.cgrp g with round := none, lastClosed := some r.s } := by
    rw [← Mach.cgrp_recorded hg r late, hb, Mach.cgrp_cuffRequeued]
  have hbword (j : Nat) (hj : (j == item Pg.cuff 0 R.cufResultDropCnt) = false) :
      b.word .sx j = (m.cuffRecorded g r late).word .sx j := by rw [hb, Mach.word_cuffRequeued _ _ _ _ hj]
  rw [hdo, ← hb] at hz
  by_cases hreason : (m.cgrp g).reason = 0
  · obtain ⟨hgrp, hcopies, hcount, hevent, hkept⟩ := b.cuffFault_spec g Reason.resultLost (by rw [hbgrp]; exact hreason)
    rw [← hz] at hgrp hcopies hcount hevent hkept
    refine ⟨by rw [hgrp], by rw [hgrp, hbgrp], fun j hj => ?_, fun _ => ⟨by rw [hgrp], hcopies, ?_, hevent⟩⟩
    · rw [Bool.or_eq_false_iff] at hj
      rw [hkept j hj.2, hbword j hj.1]
    · rw [Mach.counted, hcount, hbword _ (by decide), Mach.word_of_kept htouch.2.1 _ (by decide)]
      rfl
  · have hsame : z = b := hz.trans (if_pos (by rw [hbgrp]; exact hreason))
    rw [hsame]
    refine ⟨by rw [hbgrp], by rw [hbgrp], fun j hj => ?_, fun h0 => absurd h0 hreason⟩
    rw [Bool.or_eq_false_iff] at hj
    exact hbword j hj.1

/-- The close of a round without a lost result. -/
theorem Mach.cuffClose_room_concludes (r : Round) (late : Bool) (h : (m.cuffHeld g).length < 2) {z : Mach}
    (hz : z = m.cuffClose g r late) : z.cgrp g = { m.cgrp g with round := none, lastClosed := some r.s } ∧
      (∀ k, (k == item Pg.cuff 0 R.cufResultDropCnt || Mach.cuffFaultWord k) = false →
        z.word .sx k = (m.cuffRecorded g r late).word .sx k) ∧
      z.held.take m.held.length = Mach.cuffReleased g m.held ∧
      (z.held.drop m.held.length).map (fun h => (h.input, h.output, h.notBefore, h.pkt.payload)) =
        m.cuffOut g (m.cuffPayload g r late) ∧
      (∀ h ∈ z.held.drop m.held.length, h.pkt.opcode = Op.cufResult ∧ h.pkt.status = if late then Status.late else 0) ∧
      ({ m with cuff := z.cuff, held := z.held, nextId := z.nextId } : Mach).touches z .sx fun k => itemPage k == Pg.cuff := by
  obtain ⟨cs, k, hdo, hmap, hpkt⟩ := Mach.cuffClose_room hg r late h
  obtain ⟨htouch, -, -⟩ := Mach.cuffRecorded_spec m g r late hg
  have hgrp := Mach.cgrp_recorded (m := m) hg r late
  have hpage {j : Nat} (hj : Mach.cuffStatusWord j = true) : (itemPage j == Pg.cuff) = true := by
    simp only [Mach.cuffStatusWord, Bool.and_eq_true] at hj
    exact hj.1
  generalize m.cuffRecorded g r late = a at hdo htouch hgrp
  have hqueue := a.cuffRequeued_touches 0 (Mach.cuffReleased g m.held ++ cs) k
  rw [← hdo, ← hz] at hqueue
  have hheld : z.held = Mach.cuffReleased g m.held ++ cs := (Mach.held_of_bare hqueue.1).trans rfl
  have hlen : m.held.length = (Mach.cuffReleased g m.held).length := by rw [Mach.cuffReleased, List.length_map]
  refine ⟨?_, fun j hj => ?_, ?_, ?_, ?_, ?_, ?_, ?_⟩
  · rw [hz, hdo, Mach.cgrp_cuffRequeued, hgrp]
  · rw [Bool.or_eq_false_iff] at hj
    rw [hz, hdo, Mach.word_cuffRequeued _ _ _ _ hj.1]
  · rw [hheld, hlen, List.take_left]
  · rw [hheld, hlen, List.drop_left, hmap]
  · rw [hheld, hlen, List.drop_left]
    exact hpkt
  · have hcuff : z.cuff = (m.cuffClosed g r).cuff :=
      (Mach.cuff_of_bare hqueue.1).trans ((show (a.requeued (Mach.cuffReleased g m.held ++ cs) k).cuff = a.cuff from rfl).trans
        (Mach.cuff_of_bare htouch.1))
    have hnext : z.nextId = k := by
      have hid : z.bare.nextId = _ := congrArg Mach.nextId hqueue.1
      exact hid
    rw [hqueue.1, hheld, hcuff, hnext]
    have hbare : (a.requeued (Mach.cuffReleased g m.held ++ cs) k).bare
        = a.bare.requeued (Mach.cuffReleased g m.held ++ cs) k := rfl
    rw [hbare, htouch.1]
    rfl
  · have hregs : m.regsKept a .sx fun k => itemPage k == Pg.cuff :=
      (htouch.mono fun _ hj => hpage (Mach.status_of_record hj)).2.1
    exact hregs.trans (hqueue.mono fun j hj => by rw [beq_iff_eq.1 hj]; decide).2.1
  · exact hqueue.2.2.trans htouch.2.2

end

/-- Member counters of a list are cleared, one after another. -/
def Mach.cuffZeroed (m : Mach) (g : Nat) (is : List Nat) : Mach :=
  is.foldl (fun m i => m.setTWord .sx Pg.cuff 4 (m.cd g F.cdesc_memberBase + i) 0) m

theorem Mach.cuffZeroed_spec (g : Nat) (hg : g < 512) (is : List Nat) (hi : ∀ i ∈ is, i < 256) (m : Mach) :
    m.touches (m.cuffZeroed g is) .sx (fun k => is.any fun i => k == item Pg.cuff 4 (m.cd g F.cdesc_memberBase + i)) ∧
      ∀ i ∈ is, (m.cuffZeroed g is).word .sx (item Pg.cuff 4 (m.cd g F.cdesc_memberBase + i)) = 0 := by
  induction is generalizing m with
  | nil => exact ⟨Mach.touches_refl .., fun _ h => absurd h List.not_mem_nil⟩
  | cons j is ih =>
    obtain ⟨n, hn⟩ : ∃ n, n = m.setTWord .sx Pg.cuff 4 (m.cd g F.cdesc_memberBase + j) 0 := ⟨_, rfl⟩
    have hbase := m.cuffBase_lt g
    have hj := hi j List.mem_cons_self
    have hfirst : m.touches n .sx fun k => k == item Pg.cuff 4 (m.cd g F.cdesc_memberBase + j) := by
      rw [hn]
      exact Mach.touches_setWord _ _ _ _ (beq_self_eq_true _)
    have hsame : m.cuffSame n := Mach.cuffSame_of_touches (hfirst.mono fun k hk => by
      rw [beq_iff_eq.1 hk]
      exact Mach.status_of_counter (Mach.cuffCounter_item (by omega)))
    obtain ⟨hrest, hzero⟩ := ih (fun i h => hi i (List.mem_cons_of_mem _ h)) n
    have hdo : m.cuffZeroed g (j :: is) = n.cuffZeroed g is := by rw [hn]; rfl
    rw [hsame.cd g hg (by decide)] at hrest hzero
    rw [hdo]
    refine ⟨(hfirst.mono fun k hk => by simp [beq_iff_eq.1 hk]).trans (hrest.mono fun k hk => ?_), fun i hmem => ?_⟩
    · rw [List.any_cons, hk, Bool.or_true]
    · by_cases hin : i ∈ is
      · exact hzero i hin
      · obtain rfl : i = j := (List.mem_cons.1 hmem).resolve_right hin
        rw [Mach.word_of_kept hrest.2.1 _ ?_, hn, Mach.setTWord, Mach.word_setWord, if_pos rfl]
        · rfl
        rw [List.any_eq_false]
        intro a ha h
        have hlt := hi a (List.mem_cons_of_mem _ ha)
        have := ((item_inj (by omega) (by omega) (by decide) (by decide)).1 (beq_iff_eq.1 h)).2.2
        exact hin (by rwa [show i = a by omega])

/-- Settles O50: a close by its two forms, re-arming and clearing by the words they set. -/
theorem cuffRoundsCloseAndGroupsRearm : Obligations.CuffRoundsCloseAndGroupsRearm := by
  unfold Obligations.CuffRoundsCloseAndGroupsRearm
  refine ⟨fun s g hg => ⟨fun hnone => ?_, ?_⟩,
    fun s g hg => ⟨fun hreason => ?_, fun hreason => ?_, fun hnone => ?_, fun e he => ?_, ?_⟩⟩
  · exact (if_pos (decide_eq_true hg)).trans (go_eq (fun m => m.cuffCutOff g) (by simp only [Mach.cuffCutOff, hnone]))
  · intro r hr n late w recv bytes
    refine ⟨fun hno hearly => ?_, fun hdue => ?_⟩
    · exact (if_pos (decide_eq_true hg)).trans (go_eq (fun m => m.cuffCutOff g) (by
        simp only [Mach.cuffCutOff, hr]
        rw [if_neg (by rw [hno]; decide), if_neg (by omega)]))
    have hrun : exec (.cuffRoundClose g) s = .next { s with m := s.m.cuffClose g r late } :=
      (if_pos (decide_eq_true hg)).trans (go_eq (fun m => m.cuffCutOff g) (by
        simp only [Mach.cuffCutOff, hr, late]
        cases hc : s.m.cuffComplete g r with
        | true => exact if_pos rfl
        | false => exact (if_neg Bool.false_ne_true).trans (if_pos (hdue.resolve_left (by rw [hc]; decide)))))
    obtain ⟨z, hz⟩ : ∃ z, z = s.m.cuffClose g r late := ⟨_, rfl⟩
    rw [← hz] at hrun
    by_cases hroom : (s.m.cuffHeld g).length < 2
    · obtain ⟨hgrp, hword, htake, hdrop, hpkt, htouch⟩ := Mach.cuffClose_room_concludes hg r late hroom hz
      obtain ⟨hround, hlate⟩ := Mach.cuffClosed_concludes hg r late hword
      exact ⟨_, hrun, hround, by rw [hgrp], by rw [hgrp],
        fun _ => ⟨hgrp, htake, hdrop, hpkt, becomes_of htouch.1 htouch.2.1 htouch.2.2⟩, hlate, fun h => by omega, rfl, rfl⟩
    · obtain ⟨hnone, hlast, hword, hlost⟩ := Mach.cuffClose_lost_concludes hg r late (by omega) hz
      obtain ⟨hround, hlate⟩ := Mach.cuffClosed_concludes hg r late hword
      exact ⟨_, hrun, hround, hnone, hlast, fun h => absurd h hroom, hlate, fun _ => hlost, rfl, rfl⟩
  · exact (if_pos (decide_eq_true hg)).trans (go_eq (fun m => if (m.cgrp g).reason ≠ 0 then
      m.setCgrp g { m.cgrp g with rearm := true } else m) (if_pos hreason))
  · exact (if_pos (decide_eq_true hg)).trans (go_eq (fun m => if (m.cgrp g).reason ≠ 0 then
      m.setCgrp g { m.cgrp g with rearm := true } else m) (if_neg (not_not.2 hreason)))
  · exact go_eq Mach.cuffRearmAll (by rw [Mach.cuffRearmAll, hnone]; rfl)
  · obtain ⟨n, hn⟩ : ∃ n, n = (s.m.setCgrp g { e with reason := 0, rearm := false }).setTFld .sx Pg.cuff 2 4 g
      F.cstat_lateRounds 0 := ⟨_, rfl⟩
    have hrun : exec .cuffRearmApply s = .next { s with m := n } :=
      go_eq Mach.cuffRearmAll (by rw [Mach.cuffRearmAll, he, hn]; rfl)
    have htouch := Mach.touches_setTFld (s.m.setCgrp g { e with reason := 0, rearm := false }) .sx Pg.cuff 2 4 g F.cstat_lateRounds 0
      (g := fun k => k == item Pg.cuff 2 (4 * g + F.cstat_lateRounds.off)) (beq_self_eq_true _)
    rw [← hn] at htouch
    refine ⟨_, hrun, ?_, ?_, becomes_of htouch.1 htouch.2.1 htouch.2.2⟩
    · rw [Mach.cgrp, Mach.cuff_of_bare htouch.1, ← Mach.cgrp, Mach.cgrp_setCgrp]
    · rw [Mach.storedT, hn, Mach.setTFld, Mach.word_setWord, if_pos rfl, bitsOf_withField _ _ _ _ (by decide)]
      rfl
  · intro at_
    have hrun : exec (.cuffCounterClear g) s = .next { s with m := s.m.cuffClear g } :=
      (if_pos (decide_eq_true hg)).trans (go_eq (fun m => m.cuffClear g) rfl)
    obtain ⟨htouch, hzero⟩ := Mach.cuffZeroed_spec g hg (List.range (s.m.cd g F.cdesc_members))
      (fun i hi => (List.mem_range.1 hi).trans (Nat.mod_lt _ (by decide))) s.m
    refine ⟨_, hrun, List.all_eq_true.2 fun i hi => beq_iff_eq.2 (hzero i hi), becomes_of htouch.1 htouch.2.1 htouch.2.2⟩

end Sys2Proof.Machine
end

section
/-! O59 fails: a core reset shows the CHATTER that it keeps, and a state may hold CHATTER of a light input that no engine
has, which is shown on a page past the ninth OCU page. -/

set_option Elab.async false

namespace Sys2Proof.Machine
open Sys2Proof

/-- The SX-4 at its reset values, with CHATTER latched for the loss-of-light input 63. -/
def strayChatter : State := { m := { Mach.reset with chatter := [Mach.inLos 63] }, store := {}, pending := [] }

/-- Refutes O59: the status word of that input's engine does not return to its reset value in a core reset. -/
theorem not_resetsAndTornContexts : ¬ Obligations.ResetsAndTornContexts := by
  unfold Obligations.ResetsAndTornContexts
  intro h
  obtain ⟨-, -, ⟨t, ht, -, -, -, -, -, -, -, hreset⟩, -⟩ := h.1 strayChatter
  have hshown : ∀ t, exec (.coreReset false) strayChatter = .next t →
      t.m.word .sx (item (ocuPage 63) 0 (R.ocuEngStatus 3)) = 33554432#32 := by
    intro t ht
    injection ht with ht
    rw [← ht]
    rfl
  have hzero : t.m.word .sx (item (ocuPage 63) 0 (R.ocuEngStatus 3)) = 0 := hreset _ (by decide) (by decide)
  rw [hshown t ht] at hzero
  exact absurd hzero (by decide)

end Sys2Proof.Machine
end

section
/-! O57 fails: a window of a cluster's sync objects may stand at a low word with a low word already written, and a read of it
then abandons the pair. -/

set_option Elab.async false

namespace Sys2Proof.Machine
open Sys2Proof

/-- A window at the low word of object 0 that holds a fetched word and a low word that was written. -/
def pairWindow : Window := { ctrl := 1, data := 1, low := some 0 }

/-- The SX-4 in READY, with that window of cluster 0 on the PCIe path. -/
def pairOpen : State :=
  { m := (({ Mach.reset with boot := {} } : Mach).setFld .sx Pg.chip F.chpBootStatus_phase 5).setWin .sx .pcie (Pg.cluster 0)
      pairWindow
    store := {}, pending := [] }

/-- Refutes O57: the read answers 0 and not the fetched word. -/
theorem not_windowsFetchAndStore : ¬ Obligations.WindowsFetchAndStore := by
  unfold Obligations.WindowsFetchAndStore
  intro h
  obtain ⟨-, -, -, -, hsync, -⟩ := h pairOpen .sx .pcie (Pg.cluster 0) 0 .cluster rfl (by decide) fun h => absurd h (by decide)
  obtain ⟨hread, -⟩ := hsync rfl rfl rfl rfl
  obtain ⟨t, ht, hout, -⟩ := hread rfl
  have hzero : ∀ t, exec (.indDataRead .sx .pcie (Pg.cluster 0)) pairOpen = .next t → t.m.out = [.answer .sx .pcie true [0]] := by
    intro t ht
    injection ht with ht
    rw [← ht]
    rfl
  rw [hzero t ht] at hout
  have hword : ([.answer .sx .pcie true [0]] : List Out) = [.answer .sx .pcie true [1]] := hout
  exact absurd hword (by decide)

end Sys2Proof.Machine
end

section
/-! O47 fails: a chunk of a Pleat group whose number is the key of a bucket group stands under that key, and BUCKET_COMPLETE
does not take it for a bucket. -/

set_option Elab.async false

namespace Sys2Proof.Machine
open Sys2Proof

/-- A chunk of a Pleat group, under the key of bucket group 0. -/
def misfiledChunk : Chunk := { bucket := false, group := 8192, pass := 0, idx := 0, tile := 0, opened := 0 }

/-- The chips after reset, with that chunk alone. -/
def misfiled : State :=
  { m := { Mach.reset with plt := { Mach.reset.plt with chunks := [misfiledChunk] } }, store := {}, pending := [] }

/-- Refutes O47: every contribution of the chunk has ended, and the command leaves it open. -/
theorem not_chunksAndBucketsComplete : ¬ Obligations.ChunksAndBucketsComplete := by
  unfold Obligations.ChunksAndBucketsComplete
  intro h
  obtain ⟨-, -, hbucket⟩ := h
  obtain ⟨-, hdone⟩ := hbucket misfiled 0 0 0 (by decide) misfiledChunk rfl
  obtain ⟨t, ht, hgone, -⟩ := hdone rfl
  have hstays : ∀ t, exec (.bucketComplete 0 0 0) misfiled = .next t → t.m.chunk? 8192 0 0 = some misfiledChunk := by
    intro t ht
    injection ht with ht
    rw [← ht]
    rfl
  exact absurd (hgone.symm.trans (hstays t ht)) (by simp)

end Sys2Proof.Machine
end

section
/-! The engines of an EP-4 that has one descriptor: what its begin, its moves and its end do (R402, R420, R421). -/

set_option Elab.async false

namespace Sys2Proof.Machine
open Sys2Proof

namespace Mach

theorem findSlot_sole {m : Mach} {d : Slot} (h : m.ep.slots = [d]) : m.findSlot d.engine d.num = some d := by
  simp [findSlot, h]

theorem updSlot_sole {m : Mach} {d : Slot} (h : m.ep.slots = [d]) (f : Slot → Slot) :
    m.updSlot d.engine d.num f = m.withSlot (f d) := by
  simp [updSlot, h, withSlot, setEp]

/-- A descriptor that has something left to issue or to wait for does not complete. -/
theorem settle_waiting {m : Mach} {d : Slot} (h : m.ep.slots = [d])
    (hw : (d.begun && d.allIssued && d.packets == 0 && d.access == 0 && !d.done && !d.aborted) = false) :
    m.settle d.engine d.num = m := by
  simp only [settle, findSlot_sole h, hw]
  rfl

theorem settle_finished {m : Mach} {d : Slot} (h : m.ep.slots = [d])
    (hw : (d.begun && d.allIssued && d.packets == 0 && d.access == 0 && !d.done && !d.aborted) = true) :
    m.settle d.engine d.num = m.finishSlot d := by
  simp only [settle, findSlot_sole h, hw]
  rfl

theorem slotBehind_sole {m : Mach} {d : Slot} (h : m.ep.slots = [d]) : m.slotBehind d = false := by
  simp [slotBehind, h]

end Mach

namespace SM

/-- A descriptor that may move makes its next move. -/
theorem advanceAll_move {x y : SM} {d : Slot} {n : Nat} (h : x.2.ep.slots = [d]) (hb : d.begun = true)
    (hi : d.allIssued = false) (ha : d.aborted = false) (hd : d.done = false) (hy : x.advance d = some y) :
    advanceAll (n + 1) x d.engine d.num = advanceAll n y d.engine d.num := by
  simp only [advanceAll, Mach.findSlot_sole h, hb, hi, ha, hd, Mach.slotBehind_sole h, hy]
  rfl

/-- A descriptor that cannot move now waits. -/
theorem advanceAll_stuck {x : SM} {d : Slot} {n : Nat} (h : x.2.ep.slots = [d]) (hi : d.allIssued = false)
    (hy : x.advance d = none) : advanceAll n x d.engine d.num = x := by
  have hs : x.2.settle d.engine d.num = x.2 := Mach.settle_waiting h (by simp [hi])
  cases n with
  | zero => simp only [advanceAll, hs]
  | succ n =>
    simp only [advanceAll, Mach.findSlot_sole h, hy, hs]
    split <;> rfl

/-- A descriptor that has issued everything, or may not move, only settles. -/
theorem advanceAll_still {x : SM} {d : Slot} {n : Nat} (h : x.2.ep.slots = [d])
    (hi : (d.begun && !d.allIssued && !d.aborted && !d.done) = false) :
    advanceAll n x d.engine d.num = (x.1, x.2.settle d.engine d.num) := by
  cases n with
  | zero => rfl
  | succ n =>
    simp only [advanceAll, Mach.findSlot_sole h, hi, Bool.false_and]
    rfl

/-- With one descriptor and nothing gathered, the engines move that descriptor and then start what waits. -/
theorem epRun_sole {x : SM} {d : Slot} (h : x.2.ep.slots = [d]) (hf : x.2.ep.fetch = []) :
    epRun x = ((advanceAll (moves d) x d.engine d.num).1, (advanceAll (moves d) x d.engine d.num).2.epPump) := by
  simp only [epRun, hf, List.filter_nil, List.foldl_nil, h, List.mergeSort_singleton, List.foldl_cons]

/-- Without descriptors and gatherings, the engines start what waits. -/
theorem epRun_empty {x : SM} (h : x.2.ep.slots = []) (hf : x.2.ep.fetch = []) : epRun x = (x.1, x.2.epPump) := by
  simp only [epRun, hf, List.filter_nil, List.foldl_nil, h, List.mergeSort_nil]

theorem moves_pos (d : Slot) : ∃ n, moves d = n + 8 := ⟨_, rfl⟩

end SM

theorem Mach.epPump_empty {m : Mach} (h : m.ep.tx = []) : m.epPump = m := by
  simp only [Mach.epPump, h, List.map_nil, List.foldl_nil]

/-- A command of the engines leaves the store and the machine that they run to. -/
theorem epGo_eq {s : State} (f : SM → SM) {y : SM} (h : SM.epRun (f (s.store, s.m)) = y) :
    s.epGo f = .next { s with store := y.1, m := y.2 } := by
  rw [State.epGo, goS_eq _ h]

/-- A descriptor that has nothing queued, and moves to `y` without queueing anything, leaves `y`. -/
theorem epRun_still {x : SM} {d : Slot} (h : x.2.ep.slots = [d]) (hf : x.2.ep.fetch = []) (ht : x.2.ep.tx = [])
    (hi : (d.begun && !d.allIssued && !d.aborted && !d.done) = false)
    (hw : (d.begun && d.allIssued && d.packets == 0 && d.access == 0 && !d.done && !d.aborted) = false) :
    SM.epRun x = x := by
  rw [SM.epRun_sole h hf, SM.advanceAll_still h hi, Mach.settle_waiting h hw, Mach.epPump_empty ht]

end Sys2Proof.Machine
end

section
/-! O37 fails: a PREFETCH whose tag stands for a management read gives up its lines with the refusal of that read. -/

set_option Elab.async false

namespace Sys2Proof.Machine
open Sys2Proof

/-- A PREFETCH of engine 0 that has issued its packet and reserved line 0. -/
def strayPrefetch : Slot :=
  { engine := 0, num := 0, order := 0, index := 0, ctx := 0, key := 0, words := [DOp.prefetch], begun := true,
    allIssued := true, packets := 1, lines := [0] }

/-- The management read that its tag stands for. -/
def strayTag : TagSt :=
  { engine := 0, slot := 0, ctx := 0, key := 0, op := Op.mgtRead, dst := 960, stream := 0, plane := 0, off := 1, len := 4,
    sent := true }

/-- The refusal of that read. -/
def strayRefusal : Packet := HdrSpec.packet { opcode := Op.mgtAck, vc := 4, dst := 0, src := 960, status := 1 } []

/-- The end-point with that descriptor, its tag and its reserved line. -/
def prefetching : State :=
  { m := { Mach.reset with ep := { Mach.reset.ep with
      slots := [strayPrefetch], tags := [(0, some strayTag)], rb := [{ ctx := 0, addr := 0 }] } }
    store := {}, pending := [] }

/-- The descriptor once the refusal has ended it. -/
def strayEnded : Slot :=
  { strayPrefetch with packets := 0, nacked := some 1, complete := true, done := true }

/-- Refutes O37: the refusal drops the line, which the statement keeps. -/
theorem not_responsesCompleteOrAreStray : ¬ Obligations.ResponsesCompleteOrAreStray := by
  unfold Obligations.ResponsesCompleteOrAreStray
  intro h
  obtain ⟨hlast, -⟩ := h
  obtain ⟨-, hends⟩ := hlast prefetching strayPrefetch strayRefusal 0 strayTag rfl
    ⟨rfl, rfl, rfl, rfl, rfl, rfl, rfl, rfl, rfl, rfl, rfl, rfl, rfl⟩ rfl
  obtain ⟨-, -, -, hrefused, -⟩ := hends rfl
  have hkept : ∀ t, exec (.mgtAck .ep 0 strayRefusal) prefetching = .next t → t.m.ep.rb = [] := by
    intro t ht
    have hrun : SM.epRun (SM.response (prefetching.store, prefetching.m) 0 strayRefusal)
        = SM.response (prefetching.store, prefetching.m) 0 strayRefusal :=
      epRun_still (d := strayEnded) rfl rfl rfl rfl rfl
    have hexec : exec (.mgtAck .ep 0 strayRefusal) prefetching = _ := epGo_eq (fun x => SM.response x 0 strayRefusal) hrun
    rw [hexec] at ht
    injection ht with ht
    rw [← ht]
    rfl
  have hline := hkept _ (hrefused rfl)
  exact absurd hline (by decide)

end Sys2Proof.Machine
end

section
/-! O39 fails: the registers of an engine and of a context share their offsets, and a descriptor of an engine whose page is that
of a context counts its refusal in the word that holds the context's fault state. -/

set_option Elab.async false

namespace Sys2Proof.Machine
open Sys2Proof

/-- A descriptor that a NACK has ended, of the engine whose page is that of context 0. -/
def displaced : Slot :=
  { engine := 0x3E0, num := 0, order := 0, index := 0, ctx := 0, key := 0, words := [], begun := true, allIssued := true,
    nacked := some 1 }

/-- An end-point with 16 contexts, of which context 0 is bound to key 0 and aborting, and that descriptor. -/
def displacing : State :=
  { m := (({ Mach.reset with epParams := { ctx16 := 1 }, ep := { Mach.reset.ep with slots := [displaced] } } : Mach).setLive .ep
      (item Pg.eMp 3 0) (BitVec.ofNat 32 (2 ^ 16))).setFld .ep (Pg.ctx 0) F.ep4CtxFault_state 1
    store := {}, pending := [] }

/-- A PFAULT of key 0. -/
def faultOfKey : Packet := HdrSpec.packet { opcode := Op.pfault, vc := 4, dst := 0, src := 960 } []

/-- What it does before the engines run. -/
def faultedTwice : Mach := displacing.m.pfaultIn 0 faultOfKey

theorem faultedTwice_slots : faultedTwice.ep.slots = [displaced] := rfl

/-- The engines complete the descriptor. -/
theorem epRun_faultedTwice : SM.epRun (displacing.store, faultedTwice) = (displacing.store, faultedTwice.finishSlot displaced) := by
  rw [SM.epRun_sole faultedTwice_slots rfl, SM.advanceAll_still faultedTwice_slots rfl,
    Mach.settle_finished faultedTwice_slots rfl, Mach.epPump_empty rfl]

/-- Refutes O39: the fault state of context 0 goes from aborting to faulted. -/
theorem not_faultsAbortAndFlagsRelease : ¬ Obligations.FaultsAbortAndFlagsRelease := by
  unfold Obligations.FaultsAbortAndFlagsRelease
  intro h
  obtain ⟨⟨hfault, -⟩, -⟩ := h
  obtain ⟨-, hagain⟩ := hfault displacing 0 faultOfKey 0 rfl rfl rfl rfl (by decide) rfl rfl (by
    intro d hd
    obtain rfl : d = displaced := List.mem_singleton.mp hd
    exact ⟨rfl, rfl, rfl⟩)
  obtain ⟨t, ht, -, hstate, -⟩ := hagain (by decide)
  have hexec : exec (.pfault 0 faultOfKey) displacing = _ :=
    epGo_eq (fun x => (x.1, x.2.pfaultIn 0 faultOfKey)) epRun_faultedTwice
  rw [hexec] at ht
  injection ht with ht
  rw [← ht] at hstate
  have hmoved : (faultedTwice.finishSlot displaced).ctxFault 0 = 2 := rfl
  exact absurd (hmoved.symm.trans hstate) (by decide)

end Sys2Proof.Machine
end

section
/-! How the one descriptor of an EP-4 completes, and how it issues one request packet (R102, R375, R417, R421). -/

set_option Elab.async false

namespace Sys2Proof.Machine
open Sys2Proof

namespace Mach

/-- A descriptor that has ended. -/
def ended (e : Slot) : Slot := { e with complete := true, done := true }

/-- A descriptor with a record due, that ends with a status which no counter of its own counts, is counted and keeps its slot. -/
theorem finishSlot_kept {m : Mach} {e : Slot} (h : m.ep.slots = [e]) (hst : e.status ≠ 0 ∨ e.cq = true)
    (hn : e.status ≠ Done.nack) (ha : e.status ≠ Done.aborted) (hb : e.status ≠ Done.badDesc) :
    m.finishSlot e = (m.withSlot (ended e)).bump .ep (Pg.eng e.engine) R.ep4EngDescCnt := by
  simp only [finishSlot, updSlot_sole h, hn, ha, hb, if_false]
  rw [if_neg fun h => hst.elim (fun h' => h' h.1) (fun h' => by simp [h'] at h)]
  rfl

/-- What a descriptor issues under tag `t`: the request `x` waits to be sent on plane `j` at `port`. -/
def asked (m : Mach) (e : Slot) (t j : Nat) (port : Option Nat) (x : Packet) (off len : Nat) (wait : List Nat) (ready : Bool) :
    Mach :=
  { m with ep := { m.ep with
      slots := [{ e with packets := e.packets + 1 }],
      tags := Tbl.set (fun _ => none) m.ep.tags t
        (some { engine := e.engine, slot := e.num, ctx := e.ctx, key := if 0x80 ≤ x.opcode then 0 else e.key,
                op := x.opcode, dst := x.dst, stream := e.stream, plane := j, off := off, len := len }),
      tx := [{ id := m.ep.nextTx, pkt := x, owner := some (e.engine, e.num), port := port, tag := some t, ready := ready,
               held := !wait.isEmpty, waitFor := wait }],
      nextTx := m.ep.nextTx + 1 } }

section
variable {m : Mach} {e : Slot} {a : Ask} {t j : Nat} {port : Option Nat}

/-- A request whose bytes are at hand is issued under the free tag. -/
theorem ask_now (hs : m.ep.slots = [e]) (ht : m.ep.tx = []) (ho : a.op < 256)
    (hp : m.planeFor e (bitsOf a.addr 54 10) = .ok (j, port)) (hf : m.freshTag e.engine = some t) {bs : List Byte}
    (hb : a.body = .now bs) :
    m.ask e a = some (m.asked e t j port (m.requestOf e t a.op a.addr a.aux a.modifier a.flagged bs) a.off a.len
      (if a.flagged = 0 then [] else m.storesBefore e) true) := by
  have hop : (m.requestOf e t a.op a.addr a.aux a.modifier a.flagged bs).opcode = a.op := by
    simp [requestOf, Nat.mod_eq_of_lt ho]
  have hdst : (m.requestOf e t a.op a.addr a.aux a.modifier a.flagged bs).dst = bitsOf a.addr 54 10 := by
    simp [requestOf, bitsOf]
  have hkey : (if (if 0x80 ≤ a.op then 4 else 0) = 4 then 0 else e.key) = if 0x80 ≤ a.op then 0 else e.key := by
    split <;> rfl
  simp only [ask, hp, hf, hb, queueTx, asked, hop, hdst, hkey]
  rw [updSlot_sole (d := e) (m := m.setTag t _) hs]
  simp only [pushTx, withSlot, setTag, setEp, ht, requestOf, storesBefore, List.nil_append]

/-- A request whose bytes are to be gathered is issued and gathers them. -/
theorem ask_later (hs : m.ep.slots = [e]) (ht : m.ep.tx = []) (ho : a.op < 256)
    (hp : m.planeFor e (bitsOf a.addr 54 10) = .ok (j, port)) (hf : m.freshTag e.engine = some t) {addr : Nat}
    (hb : a.body = .later addr) :
    m.ask e a = some ((m.asked e t j port (m.requestOf e t a.op a.addr a.aux a.modifier a.flagged (List.replicate a.bytes 0))
      a.off a.len (if a.flagged = 0 then [] else m.storesBefore e) false).fetchLocal addr a.bytes (.tx m.ep.nextTx)) := by
  have hop : (m.requestOf e t a.op a.addr a.aux a.modifier a.flagged (List.replicate a.bytes 0)).opcode = a.op := by
    simp [requestOf, Nat.mod_eq_of_lt ho]
  have hdst : (m.requestOf e t a.op a.addr a.aux a.modifier a.flagged (List.replicate a.bytes 0)).dst = bitsOf a.addr 54 10 := by
    simp [requestOf, bitsOf]
  have hkey : (if (if 0x80 ≤ a.op then 4 else 0) = 4 then 0 else e.key) = if 0x80 ≤ a.op then 0 else e.key := by
    split <;> rfl
  simp only [ask, hp, hf, hb, queueTx, asked, hop, hdst, hkey]
  rw [updSlot_sole (d := e) (m := m.setTag t _) hs]
  simp only [pushTx, withSlot, setTag, setEp, ht, requestOf, storesBefore, List.nil_append]

/-- A request that finds its pinned plane down, or no free tag, waits. -/
theorem ask_waits (h : m.planeFor e (bitsOf a.addr 54 10) = .error false ∨
    (m.freshTag e.engine = none ∧ ∃ r, m.planeFor e (bitsOf a.addr 54 10) = .ok r)) : m.ask e a = none := by
  rcases h with hp | ⟨hf, ⟨j, port⟩, hp⟩
  · simp only [ask, hp]
  · simp only [ask, hp, hf]

/-- A stop of the one descriptor, which has nothing waiting to be sent. -/
theorem slotStop_sole (hs : m.ep.slots = [e]) (ht : m.ep.tx = []) (f : Slot → Slot) (hop : (f e).op ≠ DOp.prefetch)
    (he : (f e).engine = e.engine) (hn : (f e).num = e.num) :
    m.slotStop e.engine e.num f = (m.withSlot { f e with allIssued := true }).settle e.engine e.num := by
  have hfind : (m.withSlot { f e with allIssued := true }).findSlot e.engine e.num = some { f e with allIssued := true } := by
    have := findSlot_sole (m := m.withSlot { f e with allIssued := true }) rfl
    rwa [he, hn] at this
  simp only [slotStop, ht, List.filter_nil, List.foldl_nil, updSlot_sole hs, hfind]
  exact congrArg (fun n => settle n e.engine e.num) (if_neg hop)

/-- Without a candidate plane the descriptor ends with status 5 and sends nothing. -/
theorem ask_noPlane (hs : m.ep.slots = [e]) (ht : m.ep.tx = []) (hop : e.op ≠ DOp.prefetch)
    (hp : m.planeFor e (bitsOf a.addr 54 10) = .error true) (hw : (e.begun && e.packets == 0 && e.access == 0 && !e.done
      && !e.aborted) = true) (hst : ({ e with other := Done.noPlane } : Slot).status = Done.noPlane) :
    m.ask e a = some ((m.withSlot (ended { e with other := Done.noPlane, allIssued := true })).bump .ep (Pg.eng e.engine)
      R.ep4EngDescCnt) := by
  simp only [Bool.and_eq_true] at hw
  obtain ⟨⟨⟨⟨hb, hpk⟩, hac⟩, hd⟩, hab⟩ := hw
  have hstop := slotStop_sole hs ht (fun s => { s with other := Done.noPlane }) hop rfl rfl
  have hend : (m.withSlot { e with other := Done.noPlane, allIssued := true }).settle e.engine e.num = _ :=
    settle_finished (d := { e with other := Done.noPlane, allIssued := true }) rfl (by simp [hb, hpk, hac, hd, hab])
  have hstatus : ({ e with other := Done.noPlane, allIssued := true } : Slot).status = Done.noPlane := hst
  have hne (k : Nat) (h : Done.noPlane ≠ k) : ({ e with other := Done.noPlane, allIssued := true } : Slot).status ≠ k := by
    rwa [hstatus]
  have hkept := finishSlot_kept (m := m.withSlot { e with other := Done.noPlane, allIssued := true }) rfl
    (.inl (hne 0 (by decide))) (hne _ (by decide)) (hne _ (by decide)) (hne _ (by decide))
  simp only [ask, hp]
  rw [hstop, hend, hkept]
  rfl

end

end Mach

end Sys2Proof.Machine
end

section
/-! How a taken descriptor begins, and the first move of each op (R402, R406, R409 to R412, R420). -/

set_option Elab.async false

namespace Sys2Proof.Machine
open Sys2Proof

namespace Slot
variable {d : Slot}

theorem untouched.begun (h : d.untouched) : d.begun = false := congrArg Slot.begun h
theorem untouched.next (h : d.untouched) : d.next = 0 := congrArg Slot.next h
theorem untouched.allIssued (h : d.untouched) : d.allIssued = false := congrArg Slot.allIssued h
theorem untouched.packets (h : d.untouched) : d.packets = 0 := congrArg Slot.packets h
theorem untouched.access (h : d.untouched) : d.access = 0 := congrArg Slot.access h
theorem untouched.done (h : d.untouched) : d.done = false := congrArg Slot.done h
theorem untouched.aborted (h : d.untouched) : d.aborted = false := congrArg Slot.aborted h
theorem untouched.poisoned (h : d.untouched) : d.poisoned = false := congrArg Slot.poisoned h
theorem untouched.nacked (h : d.untouched) : d.nacked = none := congrArg Slot.nacked h
theorem untouched.priorFailed (h : d.untouched) : d.priorFailed = false := congrArg Slot.priorFailed h
theorem untouched.other (h : d.untouched) : d.other = 0 := congrArg Slot.other h
theorem untouched.moved (h : d.untouched) : d.moved = 0 := congrArg Slot.moved h
theorem untouched.units (h : d.untouched) : d.units = 0 := congrArg Slot.units h
theorem untouched.lines (h : d.untouched) : d.lines = [] := congrArg Slot.lines h

/-- What an untouched descriptor's record will tell is the status it is given. -/
theorem untouched.status (h : d.untouched) : d.status = d.other := by
  simp [Slot.status, h.aborted, h.poisoned, h.nacked, h.priorFailed]

theorem untouched.ready (h : d.untouched) {op : Nat} (hop : d.op = op) :
    d.op = op ∧ (!d.begun) = true ∧ (!d.done) = true ∧ (!d.aborted) = true :=
  ⟨hop, by simp [h.begun], by simp [h.done], by simp [h.aborted]⟩

/-- A descriptor that has begun. -/
def started (d : Slot) : Slot := { d with begun := true }

end Slot

namespace SM

theorem begin_ready {x : SM} {d : Slot} {e n op : Nat} (hf : x.2.findSlot e n = some d)
    (hr : d.op = op ∧ (!d.begun) = true ∧ (!d.done) = true ∧ (!d.aborted) = true) :
    begin x e n op
      = (x.1, x.2.updSlot e n fun s => { s with begun := true, allIssued := op == DOp.nop || op == DOp.fence }) := by
  unfold begin
  rw [hf]
  exact if_pos hr

theorem begin_sole {st : Store} {m : Mach} {d : Slot} {op : Nat} (hs : m.ep.slots = [d]) (hu : d.untouched) (hop : d.op = op) :
    begin (st, m) d.engine d.num op
      = (st, m.withSlot { d with begun := true, allIssued := op == DOp.nop || op == DOp.fence }) := by
  have hready := begin_ready (x := (st, m)) (e := d.engine) (n := d.num) (Mach.findSlot_sole hs) (hu.ready hop)
  have hupd := Mach.updSlot_sole hs fun s => { s with begun := true, allIssued := op == DOp.nop || op == DOp.fence }
  exact hready.trans (congrArg (Prod.mk st) hupd)

section
variable {x : SM} {d : Slot}

theorem advance_put (h : d.op = DOp.put) : x.advance d = x.stepPut d := by simp only [advance, h, if_true]
theorem advance_get (h : d.op = DOp.get) : x.advance d = x.stepGet d := by
  simp only [advance, h, DOp.put, DOp.get, Nat.reduceEqDiff, reduceIte]
theorem advance_prefetch (h : d.op = DOp.prefetch) : x.advance d = x.stepPrefetch d := by
  simp only [advance, h, DOp.put, DOp.get, DOp.prefetch, Nat.reduceEqDiff, reduceIte]
theorem advance_invalidate (h : d.op = DOp.invalidate) : x.advance d = x.stepInvalidate d := by
  simp only [advance, h, DOp.put, DOp.get, DOp.prefetch, DOp.invalidate, Nat.reduceEqDiff, reduceIte]
theorem advance_atomic (h : d.op = DOp.atomic) : x.advance d = x.stepAtomic d Op.atomic := by
  simp only [advance, h, DOp.put, DOp.get, DOp.prefetch, DOp.invalidate, DOp.atomic, Nat.reduceEqDiff, reduceIte]
theorem advance_atomicPosted (h : d.op = DOp.atomicPosted) : x.advance d = x.stepAtomic d Op.atomicPosted := by
  simp only [advance, h, DOp.put, DOp.get, DOp.prefetch, DOp.invalidate, DOp.atomic, DOp.atomicPosted,
    Nat.reduceEqDiff, reduceIte]
theorem advance_syncWait (h : d.op = DOp.syncWait) :
    x.advance d = x.stepOne d { op := Op.syncWait, addr := d.w 2, aux := d.w 4 } := by
  simp only [advance, h, DOp.put, DOp.get, DOp.prefetch, DOp.invalidate, DOp.atomic, DOp.atomicPosted, DOp.syncWait,
    Nat.reduceEqDiff, reduceIte]
theorem advance_localCopy (h : d.op = DOp.localCopy) : x.advance d = x.stepCopy d := by
  simp only [advance, h, DOp.put, DOp.get, DOp.prefetch, DOp.invalidate, DOp.atomic, DOp.atomicPosted, DOp.syncWait,
    DOp.localCopy, Nat.reduceEqDiff, reduceIte]
theorem advance_hostCopy (h : d.op = DOp.hostCopy) : x.advance d = x.stepHost d := by
  simp only [advance, h, DOp.put, DOp.get, DOp.prefetch, DOp.invalidate, DOp.atomic, DOp.atomicPosted, DOp.syncWait,
    DOp.localCopy, DOp.hostCopy, Nat.reduceEqDiff, reduceIte]
theorem advance_mgt (h : d.op = DOp.mgt) : x.advance d = x.stepMgt d := by
  simp only [advance, h, DOp.put, DOp.get, DOp.prefetch, DOp.invalidate, DOp.atomic, DOp.atomicPosted, DOp.syncWait,
    DOp.localCopy, DOp.hostCopy, DOp.mgt, Nat.reduceEqDiff, reduceIte]
theorem advance_pltSend (h : d.op = DOp.pltSend) : x.advance d = x.stepPlt d := by
  simp only [advance, h, DOp.put, DOp.get, DOp.prefetch, DOp.invalidate, DOp.atomic, DOp.atomicPosted, DOp.syncWait,
    DOp.localCopy, DOp.hostCopy, DOp.mgt, DOp.pltSend, Nat.reduceEqDiff, reduceIte]
theorem advance_bktSend (h : d.op = DOp.bktSend) : x.advance d = x.stepBkt d := by
  simp only [advance, h, DOp.put, DOp.get, DOp.prefetch, DOp.invalidate, DOp.atomic, DOp.atomicPosted, DOp.syncWait,
    DOp.localCopy, DOp.hostCopy, DOp.mgt, DOp.pltSend, DOp.bktSend, Nat.reduceEqDiff, reduceIte]
theorem advance_cufSend (h : d.op = DOp.cufSend) : x.advance d = none := by
  simp only [advance, h, DOp.put, DOp.get, DOp.prefetch, DOp.invalidate, DOp.atomic, DOp.atomicPosted, DOp.syncWait,
    DOp.localCopy, DOp.hostCopy, DOp.mgt, DOp.pltSend, DOp.bktSend, DOp.collRecv, DOp.cufSend, Nat.reduceEqDiff,
      reduceIte]
theorem advance_collRecv (h : d.op = DOp.collRecv) : x.advance d =
    if bitsOf (d.w 5) 0 32 ≤ d.units then
      some (x.1, x.2.updSlot d.engine d.num fun t => { t with allIssued := true })
    else none := by
  simp only [advance, h, DOp.put, DOp.get, DOp.prefetch, DOp.invalidate, DOp.atomic, DOp.atomicPosted, DOp.syncWait,
    DOp.localCopy, DOp.hostCopy, DOp.mgt, DOp.pltSend, DOp.bktSend, DOp.collRecv, Nat.reduceEqDiff, reduceIte]

end

end SM

/-- A command that carries out the one descriptor, which issues no packet by itself, moves it as far as it goes. -/
theorem exec_begins {s : State} {d : Slot} {c : Instr} (hs : s.m.sole d) (hu : d.untouched) (hnop : d.op ≠ DOp.nop)
    (hfence : d.op ≠ DOp.fence)
    (hc : exec c s = State.unit (s.m.hasSlot d.engine d.num) (s.epGo fun x => x.begin d.engine d.num d.op)) {y : SM}
    (hy : SM.advanceAll (SM.moves d) (s.store, s.m.withSlot d.started) d.engine d.num = y) :
    exec c s = .next { s with store := y.1, m := y.2.epPump } := by
  obtain ⟨hslot, hslots, htx, hfetch, -⟩ := hs
  have hbegin : SM.begin (s.store, s.m) d.engine d.num d.op = (s.store, s.m.withSlot d.started) := by
    rw [SM.begin_sole hslots hu rfl]
    have hissued : (d.op == DOp.nop || d.op == DOp.fence) = d.allIssued := by simp [hnop, hfence, hu.allIssued]
    rw [hissued]
    rfl
  have hrun : SM.epRun (SM.begin (s.store, s.m) d.engine d.num d.op) = (y.1, y.2.epPump) := by
    rw [hbegin, SM.epRun_sole (x := (s.store, s.m.withSlot d.started)) (d := d.started) rfl hfetch]
    exact congrArg (fun z : SM => (z.1, z.2.epPump)) hy
  rw [hc, hslot]
  exact epGo_eq (fun x => SM.begin x d.engine d.num d.op) hrun

/-- A descriptor whose first move leaves nothing to issue and one packet out. -/
theorem exec_issues {s : State} {d : Slot} {c : Instr} (hs : s.m.sole d) (hu : d.untouched) (hnop : d.op ≠ DOp.nop)
    (hfence : d.op ≠ DOp.fence)
    (hc : exec c s = State.unit (s.m.hasSlot d.engine d.num) (s.epGo fun x => x.begin d.engine d.num d.op)) {n : Mach} {f : Slot}
    (hadv : SM.advance (s.store, s.m.withSlot d.started) d.started = some (s.store, n)) (hf : n.ep.slots = [f])
    (he : f.engine = d.engine) (hn : f.num = d.num) (hi : f.allIssued = true) (hp : f.packets ≠ 0) :
    exec c s = .next { s with m := n.epPump } := by
  refine exec_begins hs hu hnop hfence hc (y := (s.store, n)) ?_
  obtain ⟨k, hk⟩ := SM.moves_pos d
  rw [hk]
  refine (SM.advanceAll_move (x := (s.store,
    s.m.withSlot d.started)) (d := d.started) rfl rfl hu.allIssued hu.aborted hu.done
    hadv).trans ?_
  have hstill := SM.advanceAll_still (x := (s.store, n)) (d := f) (n := k + 7) hf (by simp [hi])
  have hsettle : n.settle f.engine f.num = n := Mach.settle_waiting hf (by simp [hp])
  rw [hsettle] at hstill
  rwa [he, hn] at hstill

end Sys2Proof.Machine
end

section
/-! O33: a descriptor issues its request under a free tag, waits, or ends without a plane (R102, R107, R375, R409 to R412). -/

set_option Elab.async false

namespace Sys2Proof.Machine
open Sys2Proof

namespace Mach
variable {m : Mach} {d : Slot}

/-- A request issued and noted as the descriptor's last is the request that the descriptor waits for. -/
theorem asked_last (hp : d.packets = 0) (f : Slot → Slot) (t j : Nat) (port : Option Nat) (x : Packet) (off len : Nat)
    (wait : List Nat) (ready : Bool) {moved : Slot}
    (hf : f { d.started with packets := 1 } = { moved with begun := true, allIssued := true, packets := 1 })
    (hm : (moved.engine, moved.num, moved.ctx, moved.key, moved.words) = (d.engine, d.num, d.ctx, d.key, d.words)) :
    ((m.withSlot d.started).asked d.started t j port x off len wait ready).updSlot d.engine d.num f
      = m.requested moved t j port x off len wait ready := by
  simp only [Prod.mk.injEq] at hm
  obtain ⟨he, hn, hc, hk, hw⟩ := hm
  have hslot : { d.started with packets := d.started.packets + 1 } = { d.started with packets := 1 } := by
    rw [show d.started.packets = 0 from hp]
  have hstream : moved.stream = d.stream := by simp only [Slot.stream, Slot.w, hw]
  rw [asked, hslot]
  refine (updSlot_sole (d := { d.started with packets := 1 }) rfl f).trans ?_
  rw [hf]
  simp only [requested, withSlot, he, hn, hc, hk, hstream]
  rfl

theorem mpPush_updSlot (m : Mach) (cmd a l o md : Nat) (bs : List Byte) (u : MpUse) (e n : Nat) (f : Slot → Slot) :
    (m.mpPush cmd a l o md bs u).updSlot e n f = (m.updSlot e n f).mpPush cmd a l o md bs u := rfl

/-- Gathering bytes does not concern the descriptors. -/
theorem fetchLocal_updSlot (m : Mach) (a l : Nat) (u : FetchUse) (e n : Nat) (f : Slot → Slot) :
    (m.fetchLocal a l u).updSlot e n f = (m.updSlot e n f).fetchLocal a l u := by
  have hpush (g : Nat × Nat → MpUse) (ps : List (Nat × Nat)) (k : Mach) :
      (ps.foldl (fun m p => m.mpPush 0 (a + p.1) p.2 0 0 [] (g p)) k).updSlot e n f
        = ps.foldl (fun m p => m.mpPush 0 (a + p.1) p.2 0 0 [] (g p)) (k.updSlot e n f) := by
    induction ps generalizing k with
    | nil => rfl
    | cons p ps ih => exact ih _
  exact hpush ..

theorem fetchLocal_slots (m : Mach) (a l : Nat) (u : FetchUse) : (m.fetchLocal a l u).ep.slots = m.ep.slots := by
  have hpush (g : Nat × Nat → MpUse) (ps : List (Nat × Nat)) (k : Mach) :
      (ps.foldl (fun m p => m.mpPush 0 (a + p.1) p.2 0 0 [] (g p)) k).ep.slots = k.ep.slots := by
    induction ps generalizing k with
    | nil => rfl
    | cons p ps ih => exact ih _
  exact hpush ..

theorem freshTag_started (hs : m.ep.slots = [d]) : (m.withSlot d.started).freshTag d.engine = m.freshTag d.engine := by
  have huse : (m.withSlot d.started).tagUse d.engine = m.tagUse d.engine := by
    have hone (x : Slot) (p : Slot → Bool) : ([x].filter p).length = if p x then 1 else 0 := by
      rw [← List.countP_eq_length_filter, List.countP_singleton]
    have hstarted : (m.withSlot d.started).ep.slots = [d.started] := rfl
    rw [tagUse, tagUse, hs, hstarted, hone, hone]
    rfl
  simp only [freshTag, huse]
  rfl

/-- A request's issue under a free tag, on its plane, when its bytes are at hand. -/
theorem ask_started_now (hs : m.ep.slots = [d]) (ht : m.ep.tx = []) {a : Ask} {t j : Nat} {port : Option Nat} (ho : a.op < 256)
    (hp : m.planeFor d (bitsOf a.addr 54 10) = .ok (j, port)) (hf : m.freshTag d.engine = some t) {bs : List Byte}
    (hb : a.body = .now bs) :
    (m.withSlot d.started).ask d.started a = some ((m.withSlot d.started).asked d.started t j port
      (m.requestOf d t a.op a.addr a.aux a.modifier a.flagged bs) a.off a.len
      (if a.flagged = 0 then [] else m.storesBefore d) true) :=
  ask_now (m := m.withSlot d.started) rfl ht ho hp ((freshTag_started hs).trans hf) hb

/-- The same when its bytes are to be gathered. -/
theorem ask_started_later (hs : m.ep.slots = [d]) (ht : m.ep.tx = []) {a : Ask} {t j : Nat} {port : Option Nat} (ho : a.op < 256)
    (hp : m.planeFor d (bitsOf a.addr 54 10) = .ok (j, port)) (hf : m.freshTag d.engine = some t) {addr : Nat}
    (hb : a.body = .later addr) :
    (m.withSlot d.started).ask d.started a = some (((m.withSlot d.started).asked d.started t j port
      (m.requestOf d t a.op a.addr a.aux a.modifier a.flagged (List.replicate a.bytes 0)) a.off a.len
      (if a.flagged = 0 then [] else m.storesBefore d) false).fetchLocal addr a.bytes (.tx m.ep.nextTx)) :=
  ask_later (m := m.withSlot d.started) rfl ht ho hp ((freshTag_started hs).trans hf) hb

end Mach

theorem addrPlus_zero (a : Nat) : addrPlus a 0 = a := by
  rw [addrPlus, Nat.add_zero, Nat.mod_mod, Nat.div_add_mod']

namespace SM
variable {x : SM} {e : Slot}

/- `stepGet` and `stepPut` branch on what lies in the read buffer and in scratch.  Unfolded as functions, and with their locals
made opaque, they are not evaluated there. -/

/-- The first READ of a GET whose bytes the read buffer does not hold. -/
theorem stepGet_first (hn : e.next = 0) {k : Nat} (hk : k = min (16384 - e.w 2 % 16384) e.len)
    (hmiss : rbHit x.2 e.ctx (e.w 2) k = none) :
    x.stepGet e = (x.2.ask e { op := Op.read, addr := e.w 2, aux := k, off := 0, len := k }).map fun m =>
      (x.1, m.updSlot e.engine e.num fun t => { t with next := k, allIssued := t.allIssued || decide (k = e.len) }) := by
  have ha : addrPlus (e.w 2) e.next = e.w 2 := by rw [hn, addrPlus_zero]
  have hlen : e.len - e.next = e.len := by rw [hn, Nat.sub_zero]
  have hsum : e.next + k = k := by rw [hn, Nat.zero_add]
  have hdef : SM.stepGet = SM.stepGet := rfl
  conv_rhs at hdef => delta SM.stepGet
  rw [congrFun (congrFun hdef x) e, ha, hlen]
  extract_lets a k' fin
  have hk' : k' = k := hk.symm
  have hfin : fin = decide (e.next + k' = e.len) := rfl
  clear_value k' fin
  subst hk'
  rw [hmiss, hfin, hsum, hn]

/-- The first WRITE of a PUT whose source can be read. -/
theorem stepPut_first (hn : e.next = 0) {k : Nat} (hk : k = min (4096 - e.w 2 % 4096) e.len) {b : Body} {m : Mach}
    (hsrc : x.source e (e.w 3) k = (some b, m)) :
    x.stepPut e = (m.ask e
        { op := if e.flag && decide (k = e.len) then Op.flagWrite else Op.write, addr := e.w 2,
          flagged := if e.flag && decide (k = e.len) then 1 else 0, off := 0, len := k, bytes := k, body := b }).map fun m =>
      (x.1, m.updSlot e.engine e.num fun t => { t with next := k, allIssued := t.allIssued || decide (k = e.len) }) := by
  have hw3 : e.w 3 + e.next = e.w 3 := by rw [hn, Nat.add_zero]
  have hlen : e.len - e.next = e.len := by rw [hn, Nat.sub_zero]
  have hsum : e.next + k = k := by rw [hn, Nat.zero_add]
  have hdef : SM.stepPut = SM.stepPut := rfl
  conv_rhs at hdef => delta SM.stepPut
  rw [congrFun (congrFun hdef x) e, hlen, hw3]
  extract_lets a k' fin flag
  have ha : addrPlus a e.next = e.w 2 := by rw [hn, addrPlus_zero]
  have hk' : k' = k := by
    have hstart : a + e.next = e.w 2 := by rw [hn, Nat.add_zero]
    rw [hk, ← hstart]
  have hfin : fin = decide (e.next + k' = e.len) := rfl
  have hflag : flag = (e.flag && fin) := rfl
  clear_value k' fin flag
  subst hk'
  rw [hsrc, ha, hflag, hfin, hsum, hn]

/-- A source in scratch without uncorrectable words is at hand. -/
theorem source_scratch (hs : e.srcSpace = 1) (hbad : x.2.ep.scrBad = []) (a n : Nat) :
    x.source e a n = (some (.now (x.1.scratch.readN (x.2.scrBase e.ctx + a) n)), x.2) := by
  unfold source
  split
  next h => rw [h]; rfl
  · simp [scrRead, hbad]

theorem source_none (a : Nat) : x.source e a 0 = (some (.now []), x.2) := rfl

/-- A source in local memory is gathered. -/
theorem source_local (hs : e.srcSpace = 0) {n : Nat} (hn : 0 < n) (a : Nat) : x.source e a n = (some (.later a), x.2) := by
  rw [source, if_neg (by omega), if_neg (by omega)]

end SM

/-! ### One request -/

section
variable {s : State} {d : Slot} {c : Instr} {a : Mach.Ask} {t j : Nat} {port : Option Nat} {f : Slot → Slot}

/-- What carries out the one descriptor, whose first move is the request `a`, noted by `f`. -/
structure State.firstAsk (s : State) (d : Slot) (c : Instr) (a : Mach.Ask) (f : Slot → Slot) : Prop where
  sole : s.m.sole d
  fresh : d.untouched
  nop : d.op ≠ DOp.nop
  fence : d.op ≠ DOp.fence
  code : a.op < 256
  runs : exec c s = State.unit (s.m.hasSlot d.engine d.num) (s.epGo fun x => x.begin d.engine d.num d.op)
  moves : SM.advance (s.store, s.m.withSlot d.started) d.started
    = ((s.m.withSlot d.started).ask d.started a).map fun m => (s.store, m.updSlot d.engine d.num f)

variable (h : s.firstAsk d c a f)
include h

theorem State.firstAsk.now {moved : Slot} (hp : s.m.planeFor d (bitsOf a.addr 54 10) = .ok (j, port))
    (ht : s.m.freshTag d.engine = some t) {bs : List Byte} (hb : a.body = .now bs)
    (hf : f { d.started with packets := 1 } = { moved with begun := true, allIssued := true, packets := 1 })
    (hm : (moved.engine, moved.num, moved.ctx, moved.key, moved.words) = (d.engine, d.num, d.ctx, d.key, d.words)) :
    exec c s = .next { s with m := (s.m.requested moved t j port
      (s.m.requestOf d t a.op a.addr a.aux a.modifier a.flagged bs) a.off a.len
      (if a.flagged = 0 then [] else s.m.storesBefore d) true).epPump } := by
  have hmk : moved.engine = d.engine ∧ moved.num = d.num := by
    simp only [Prod.mk.injEq] at hm
    exact ⟨hm.1, hm.2.1⟩
  refine exec_issues h.sole h.fresh h.nop h.fence h.runs ?_ rfl hmk.1 hmk.2 rfl Nat.one_ne_zero
  rw [h.moves, Mach.ask_started_now h.sole.2.1 h.sole.2.2.1 h.code hp ht hb, Option.map_some,
    Mach.asked_last h.fresh.packets f _ _ _ _ _ _ _ _ hf hm]

theorem State.firstAsk.later {moved : Slot} (hp : s.m.planeFor d (bitsOf a.addr 54 10) = .ok (j, port))
    (ht : s.m.freshTag d.engine = some t) {addr : Nat} (hb : a.body = .later addr)
    (hf : f { d.started with packets := 1 } = { moved with begun := true, allIssued := true, packets := 1 })
    (hm : (moved.engine, moved.num, moved.ctx, moved.key, moved.words) = (d.engine, d.num, d.ctx, d.key, d.words)) :
    exec c s = .next { s with m := ((s.m.requested moved t j port
      (s.m.requestOf d t a.op a.addr a.aux a.modifier a.flagged (List.replicate a.bytes 0)) a.off a.len
      (if a.flagged = 0 then [] else s.m.storesBefore d) false).fetchLocal addr a.bytes (.tx s.m.ep.nextTx)).epPump } := by
  have hmk : moved.engine = d.engine ∧ moved.num = d.num := by
    simp only [Prod.mk.injEq] at hm
    exact ⟨hm.1, hm.2.1⟩
  refine exec_issues h.sole h.fresh h.nop h.fence h.runs ?_ (Mach.fetchLocal_slots ..) hmk.1 hmk.2 rfl Nat.one_ne_zero
  rw [h.moves, Mach.ask_started_later h.sole.2.1 h.sole.2.2.1 h.code hp ht hb, Option.map_some, Mach.fetchLocal_updSlot,
    Mach.asked_last h.fresh.packets f _ _ _ _ _ _ _ _ hf hm]

/-- While the request must wait, the descriptor has only begun. -/
theorem State.firstAsk.waits (hw : s.m.planeFor d (bitsOf a.addr 54 10) = .error false ∨
    (s.m.freshTag d.engine = none ∧ ∃ r, s.m.planeFor d (bitsOf a.addr 54 10) = .ok r)) :
    exec c s = .next { s with m := s.m.withSlot { d with begun := true } } := by
  have hnone : (s.m.withSlot d.started).ask d.started a = none :=
    Mach.ask_waits (m := s.m.withSlot d.started) (hw.imp id (And.imp (Mach.freshTag_started h.sole.2.1).trans id))
  have hstuck : SM.advance (s.store, s.m.withSlot d.started) d.started = none := by rw [h.moves, hnone, Option.map_none]
  have hall := SM.advanceAll_stuck (x := (s.store, s.m.withSlot d.started)) (d := d.started) (n := SM.moves d) rfl
    h.fresh.allIssued hstuck
  rw [exec_begins h.sole h.fresh h.nop h.fence h.runs hall, Mach.epPump_empty (m := s.m.withSlot d.started) h.sole.2.2.1]
  rfl

/-- Without a candidate plane the descriptor ends with status 5 and sends nothing. -/
theorem State.firstAsk.noPlane (hpre : d.op ≠ DOp.prefetch) (hp : s.m.planeFor d (bitsOf a.addr 54 10) = .error true)
    (e : Slot) (he : (e.engine, e.num, e.done, e.allIssued) = (d.engine, d.num, true, true))
    (hf : f { d with begun := true, allIssued := true, other := Done.noPlane, complete := true, done := true } = e) :
    ∃ t, exec c s = .next t ∧ s.m.counted t.m .ep (Pg.eng d.engine) R.ep4EngDescCnt ∧
      s.becomes t (s.m.withSlot e) .ep (pageWord (Pg.eng d.engine) R.ep4EngDescCnt) := by
  simp only [Prod.mk.injEq] at he
  obtain ⟨hen, hnum, hdone, hissued⟩ := he
  have hstatus : ({ d.started with other := Done.noPlane } : Slot).status = Done.noPlane := by
    simp [Slot.status, Slot.started, h.fresh.aborted, h.fresh.poisoned, h.fresh.nacked, h.fresh.priorFailed]
  have hask := Mach.ask_noPlane (m := s.m.withSlot d.started) (e := d.started) (a := a) rfl h.sole.2.2.1 hpre hp
    (by simp [Slot.started, h.fresh.packets, h.fresh.access, h.fresh.done, h.fresh.aborted]) hstatus
  have hadv : SM.advance (s.store, s.m.withSlot d.started) d.started
      = some (s.store, (s.m.withSlot e).bump .ep (Pg.eng d.engine) R.ep4EngDescCnt) := by
    rw [h.moves, hask, Option.map_some, ← hf]
    refine congrArg (fun n => some (s.store, n)) ?_
    exact Mach.updSlot_sole (d := Mach.ended { d.started with other := Done.noPlane, allIssued := true }) rfl f
  obtain ⟨k, hk⟩ := SM.moves_pos d
  have hall : SM.advanceAll (SM.moves d) (s.store, s.m.withSlot d.started) d.engine d.num
      = (s.store, (s.m.withSlot e).bump .ep (Pg.eng d.engine) R.ep4EngDescCnt) := by
    rw [hk]
    refine (SM.advanceAll_move (x := (s.store, s.m.withSlot d.started)) (d := d.started) rfl rfl h.fresh.allIssued
      h.fresh.aborted h.fresh.done hadv).trans ?_
    have hslots : ((s.m.withSlot e).bump .ep (Pg.eng d.engine) R.ep4EngDescCnt).ep.slots = [e] := rfl
    have hstill := SM.advanceAll_still (x := (s.store, (s.m.withSlot e).bump .ep (Pg.eng d.engine) R.ep4EngDescCnt)) (d := e)
      (n := k + 7) hslots (by simp [hissued])
    rw [Mach.settle_waiting hslots (by simp [hdone])] at hstill
    rwa [hen, hnum] at hstill
  refine ⟨_, exec_begins h.sole h.fresh h.nop h.fence h.runs hall, ?_⟩
  have hpump : ((s.m.withSlot e).bump .ep (Pg.eng d.engine) R.ep4EngDescCnt).epPump = _ := Mach.epPump_empty h.sole.2.2.1
  rw [hpump]
  have htouch : (s.m.withSlot e).touches ((s.m.withSlot e).bump .ep (Pg.eng d.engine) R.ep4EngDescCnt) .ep
      (pageWord (Pg.eng d.engine) R.ep4EngDescCnt) := Mach.touches_setWord _ _ _ _ (beq_self_eq_true _)
  exact ⟨Mach.word_bump .., becomes_of htouch.1 htouch.2.1 htouch.2.2⟩

/-- A request that is not issued ends its descriptor, or leaves it waiting. -/
theorem State.firstAsk.unissued (hpre : d.op ≠ DOp.prefetch) (ha : bitsOf a.addr 54 10 = d.dstNode) {n : Nat}
    (hf : f { d with begun := true, allIssued := true, other := Done.noPlane, complete := true, done := true }
      = { d with begun := true, allIssued := true, other := Done.noPlane, complete := true, done := true, next := n }) :
    (s.m.planeFor d d.dstNode = .error true → ∃ t, exec c s = .next t ∧
      s.m.counted t.m .ep (Pg.eng d.engine) R.ep4EngDescCnt ∧
      s.becomes t (s.m.withSlot { d with
        begun := true, allIssued := true, other := Done.noPlane, complete := true, done := true, next := n }) .ep
        (pageWord (Pg.eng d.engine) R.ep4EngDescCnt)) ∧
    (s.m.planeFor d d.dstNode = .error false ∨
        (s.m.freshTag d.engine = none ∧ ∃ r, s.m.planeFor d d.dstNode = .ok r) →
      exec c s = .next { s with m := s.m.withSlot { d with begun := true } }) :=
  ⟨fun hp => h.noPlane hpre (ha ▸ hp) _ rfl hf, fun hp => h.waits (ha ▸ hp)⟩

end

/-! ### The ops -/

section
variable {s : State} {d : Slot} (hs : s.m.sole d) (hu : d.untouched)
include hs hu

theorem firstAsk_get (hop : d.op = DOp.get) {k : Nat} (hk : k = min (16384 - d.w 2 % 16384) d.len)
    (hmiss : SM.rbHit s.m d.ctx (d.w 2) k = none) :
    s.firstAsk d (.get d.engine d.num) { op := Op.read, addr := d.w 2, aux := k, off := 0, len := k }
      (fun t => { t with next := k, allIssued := t.allIssued || decide (k = d.len) }) where
  sole := hs
  fresh := hu
  nop := by rw [hop]; decide
  fence := by rw [hop]; decide
  code := show Op.read < 256 by decide
  runs := by rw [hop]; rfl
  moves := by
    rw [SM.advance_get (d := d.started) hop]
    exact SM.stepGet_first (x := (s.store, s.m.withSlot d.started)) (e := d.started) hu.next hk hmiss

theorem firstAsk_put (hop : d.op = DOp.put) {k : Nat} (hk : k = min (4096 - d.w 2 % 4096) d.len) {b : Body}
    (hsrc : SM.source (s.store, s.m.withSlot d.started) d.started (d.w 3) k = (some b, s.m.withSlot d.started)) :
    s.firstAsk d (.put d.engine d.num)
      { op := if d.flag && decide (k = d.len) then Op.flagWrite else Op.write, addr := d.w 2,
        flagged := if d.flag && decide (k = d.len) then 1 else 0, off := 0, len := k, bytes := k, body := b }
      (fun t => { t with next := k, allIssued := t.allIssued || decide (k = d.len) }) where
  sole := hs
  fresh := hu
  nop := by rw [hop]; decide
  fence := by rw [hop]; decide
  code := by dsimp only; split <;> decide
  runs := by rw [hop]; rfl
  moves := by
    rw [SM.advance_put (d := d.started) hop]
    exact SM.stepPut_first (x := (s.store, s.m.withSlot d.started)) (e := d.started) hu.next hk hsrc

theorem firstAsk_one {c : Instr} (a : Mach.Ask) (hnop : d.op ≠ DOp.nop) (hfence : d.op ≠ DOp.fence) (hcode : a.op < 256)
    (hruns : exec c s = State.unit (s.m.hasSlot d.engine d.num) (s.epGo fun x => x.begin d.engine d.num d.op))
    (hadv : SM.advance (s.store, s.m.withSlot d.started) d.started
      = SM.stepOne (s.store, s.m.withSlot d.started) d.started a) :
    s.firstAsk d c a (fun t => { t with allIssued := true }) where
  sole := hs
  fresh := hu
  nop := hnop
  fence := hfence
  code := hcode
  runs := hruns
  moves := hadv

theorem firstAsk_atomic (hop : d.op = DOp.atomic) :
    s.firstAsk d (.descAtomic d.engine d.num)
      { op := Op.atomic, addr := d.w 2, flagged := if d.flag then 1 else 0, modifier := d.modifier, body := .now d.operands }
      (fun t => { t with allIssued := true }) :=
  firstAsk_one hs hu _ (by rw [hop]; decide) (by rw [hop]; decide) (show Op.atomic < 256 by decide)
    (by rw [hop]; rfl) (SM.advance_atomic (d := d.started) hop)

theorem firstAsk_atomicPosted (hop : d.op = DOp.atomicPosted) :
    s.firstAsk d (.descAtomicPosted d.engine d.num)
      { op := Op.atomicPosted, addr := d.w 2, flagged := if d.flag then 1 else 0, modifier := d.modifier,
        body := .now d.operands } (fun t => { t with allIssued := true }) :=
  firstAsk_one hs hu _ (by rw [hop]; decide) (by rw [hop]; decide) (show Op.atomicPosted < 256 by decide)
    (by rw [hop]; rfl) (SM.advance_atomicPosted (d := d.started) hop)

theorem firstAsk_syncWait (hop : d.op = DOp.syncWait) :
    s.firstAsk d (.descSyncWait d.engine d.num) { op := Op.syncWait, addr := d.w 2, aux := d.w 4 }
      (fun t => { t with allIssued := true }) :=
  firstAsk_one hs hu _ (by rw [hop]; decide) (by rw [hop]; decide) (show Op.syncWait < 256 by decide)
    (by rw [hop]; rfl) (SM.advance_syncWait (d := d.started) hop)

theorem firstAsk_mgt (hop : d.op = DOp.mgt) :
    s.firstAsk d (.mgt d.engine d.num)
      (if bitsOf (d.w 4) 0 1 = 1 then
        { op := Op.mgtWrite, addr := d.w 2, bytes := 4 * d.len, len := 4 * d.len, body := .later (d.w 3) }
      else { op := Op.mgtRead, addr := d.w 2, aux := d.len, len := 4 * d.len }) (fun t => { t with allIssued := true }) :=
  firstAsk_one hs hu _ (by rw [hop]; decide) (by rw [hop]; decide) 
    (by
      split
      · exact show Op.mgtWrite < 256 by decide
      · exact show Op.mgtRead < 256 by decide)
    (by rw [hop]; rfl) (by
    rw [SM.advance_mgt (d := d.started) hop, SM.stepMgt]
    exact (apply_ite _ ..).symm)

end

/-- Settles O33: every op's first move is one request, which is issued, waits, or ends the descriptor. -/
theorem descriptorsIssueTheirRequests : Obligations.DescriptorsIssueTheirRequests := by
  unfold Obligations.DescriptorsIssueTheirRequests
  refine ⟨?_, ?_⟩
  · intro s d t j port hs hu hf hp a req wait f moved hw
    have ha : a = d.w 2 := Nat.mod_eq_of_lt hw
    have hflagged : (if (if d.flag = true then 1 else 0) = 0 then [] else s.m.storesBefore d) = wait := by
      cases hd : d.flag <;> simp [wait, hd]
    refine ⟨fun hop hmiss hpos hlen => ?_, fun hop hlen hsrc => ?_, fun hop hlen hpos hsrc => ?_, fun hop => ?_,
      fun hop => ?_, fun hop => ?_, fun hop hread => ?_, fun hop hwrite hpos => ?_⟩
    · have hk : d.len = min (16384 - d.w 2 % 16384) d.len := by rw [← ha]; omega
      have h := (firstAsk_get hs hu hop hk (ha ▸ hmiss)).now (moved := moved) hp hf rfl (by simp [Slot.started, moved]) rfl
      rw [← ha] at h
      exact h
    · have hk : d.len = min (4096 - d.w 2 % 4096) d.len := by rw [← ha]; omega
      have hread : SM.source (s.store, s.m.withSlot d.started) d.started (d.w 3) d.len
          = (some (.now (s.store.scratch.readN (s.m.scrBase d.ctx + d.w 3) d.len)), s.m.withSlot d.started) := by
        rcases hsrc with hzero | ⟨hscr, hbad⟩
        · rw [hzero]
          rfl
        · exact SM.source_scratch (e := d.started) hscr hbad _ _
      have h := (firstAsk_put hs hu hop hk hread).now (moved := moved) hp hf rfl (by simp [Slot.started, moved]) rfl
      rw [← ha] at h
      simp only [decide_true, Bool.and_true, hflagged] at h
      exact h
    · have hk : d.len = min (4096 - d.w 2 % 4096) d.len := by rw [← ha]; omega
      have h := (firstAsk_put hs hu hop hk (SM.source_local (e := d.started) hsrc hpos _)).later (moved := moved) hp hf rfl
        (by simp [Slot.started, moved]) rfl
      rw [← ha] at h
      simp only [decide_true, Bool.and_true, hflagged] at h
      exact h
    · have h := (firstAsk_atomic hs hu hop).now (moved := d) hp hf rfl rfl rfl
      rw [← ha] at h
      simp only [hflagged] at h
      exact h
    · have h := (firstAsk_atomicPosted hs hu hop).now (moved := d) hp hf rfl rfl rfl
      rw [← ha] at h
      simp only [hflagged] at h
      exact h
    · have h := (firstAsk_syncWait hs hu hop).now (moved := d) hp hf rfl rfl rfl
      rw [← ha] at h
      exact h
    · have hask := firstAsk_mgt hs hu hop
      rw [if_neg (by rw [hread]; decide)] at hask
      have h := hask.now (moved := d) hp hf rfl rfl rfl
      rw [← ha] at h
      exact h
    · have hask := firstAsk_mgt hs hu hop
      rw [if_pos (by rw [hwrite]; decide)] at hask
      have h := hask.later (moved := d) hp hf rfl rfl rfl
      rw [← ha] at h
      exact h
  · intro s d hs hu hw hbad hget c hc
    simp only [List.mem_cons, Prod.mk.injEq, List.not_mem_nil, or_false] at hc
    rcases hc with ⟨rfl, hop⟩ | ⟨rfl, hop⟩ | ⟨rfl, hop⟩ | ⟨rfl, hop⟩ | ⟨rfl, hop⟩ | ⟨rfl, hop⟩
    · rw [if_pos hop]
      exact (firstAsk_get hs hu hop rfl (hget hop).2).unissued (by rw [hop]; decide) rfl rfl
    · rw [if_neg (by rw [hop]; decide), if_pos hop]
      have hsrc : ∃ b, SM.source (s.store, s.m.withSlot d.started) d.started (d.w 3) (min (4096 - d.w 2 % 4096) d.len)
          = (some b, s.m.withSlot d.started) := by
        generalize min (4096 - d.w 2 % 4096) d.len = n
        rcases Nat.eq_zero_or_pos n with rfl | hn
        · exact ⟨_, rfl⟩
        · by_cases hscr : d.srcSpace = 1
          · exact ⟨_, SM.source_scratch (e := d.started) hscr hbad _ _⟩
          · exact ⟨_, SM.source_local (e := d.started) (by
              have : d.srcSpace < 2 ^ 1 := Nat.mod_lt _ (by decide)
              show d.srcSpace = 0
              omega) hn _⟩
      obtain ⟨b, hb⟩ := hsrc
      exact (firstAsk_put hs hu hop rfl hb).unissued (by rw [hop]; decide) rfl rfl
    all_goals rw [if_neg (by rw [hop]; decide), if_neg (by rw [hop]; decide)]
    · exact (firstAsk_atomic hs hu hop).unissued (by rw [hop]; decide) rfl (by rw [← hu.next])
    · exact (firstAsk_atomicPosted hs hu hop).unissued (by rw [hop]; decide) rfl (by rw [← hu.next])
    · exact (firstAsk_syncWait hs hu hop).unissued (by rw [hop]; decide) rfl (by rw [← hu.next])
    · exact (firstAsk_mgt hs hu hop).unissued (by rw [hop]; decide) (by split <;> rfl) (by rw [← hu.next])

end Sys2Proof.Machine
end

section
/-! O35: PREFETCH, INVALIDATE and LOCAL_COPY of the one descriptor (R127, R129, R393, R409). -/

set_option Elab.async false

namespace Sys2Proof.Machine
open Sys2Proof

theorem leBytes_length (k n : Nat) : (leBytes k n).length = k := by
  induction k generalizing n with
  | zero => rfl
  | succ k ih => rw [leBytes, List.length_cons, ih]

theorem readN_length (m : Mem) (a n : Nat) : (m.readN a n).length = n := by
  induction n generalizing a with
  | zero => rfl
  | succ n ih => rw [Mem.readN, List.length_cons, ih]

/-- A line lies at the node of each of its bytes. -/
theorem bitsOf_line (a : Nat) : bitsOf (a / 256 * 256) 54 10 = bitsOf a 54 10 := by
  have hpow : 2 ^ 54 = 256 * 2 ^ 46 := by decide
  rw [bitsOf, bitsOf, hpow, ← Nat.div_div_eq_div_mul, ← Nat.div_div_eq_div_mul, Nat.mul_div_cancel _ (by decide)]

namespace Mach

/-- Completing a descriptor changes its slot and counters alone. -/
theorem finishSlot_tx (m : Mach) (d : Slot) : (m.finishSlot d).ep.tx = m.ep.tx := by
  have hupd (k : Mach) (e n : Nat) (f : Slot → Slot) : (k.updSlot e n f).ep.tx = k.ep.tx := rfl
  have hrem (k : Mach) (e n : Nat) : (k.removeSlot e n).ep.tx = k.ep.tx := rfl
  simp only [finishSlot, apply_ite Mach.ep, apply_ite EpSt.tx, hrem, bump_ep, hupd, ite_self]

/-- What gathering bytes leaves of the end-point: the gathering, and the memory port's requests. -/
theorem fetchLocal_ep (m : Mach) (a l : Nat) (u : FetchUse) : ∃ out q n, (m.fetchLocal a l u).ep
    = { m.ep with fetch := m.ep.fetch ++ [{ id := m.ep.nextFetch, out := out, use := u }],
                  nextFetch := m.ep.nextFetch + 1, mp := q, nextMp := n } := by
  have hpush (g : Nat × Nat → MpUse) (ps : List (Nat × Nat)) (k : Mach) : ∃ q n,
      (ps.foldl (fun m p => m.mpPush 0 (a + p.1) p.2 0 0 [] (g p)) k).ep = { k.ep with mp := q, nextMp := n } := by
    induction ps generalizing k with
    | nil => exact ⟨_, _, rfl⟩
    | cons p ps ih =>
      obtain ⟨q, n, h⟩ := ih (k.mpPush 0 (a + p.1) p.2 0 0 [] (g p))
      exact ⟨q, n, h⟩
  obtain ⟨q, n, h⟩ := hpush (fun p => .fetch m.ep.nextFetch p.1) (localPieces a l)
    (m.setEp { m.ep with fetch := m.ep.fetch ++ [{ id := m.ep.nextFetch, out := (localPieces a l).length, use := u }],
                         nextFetch := m.ep.nextFetch + 1 })
  exact ⟨_, q, n, h⟩

end Mach

/-- A descriptor whose first move ends it. -/
theorem exec_ended {s : State} {d : Slot} {c : Instr} (hs : s.m.sole d) (hu : d.untouched) (hnop : d.op ≠ DOp.nop)
    (hfence : d.op ≠ DOp.fence)
    (hc : exec c s = State.unit (s.m.hasSlot d.engine d.num) (s.epGo fun x => x.begin d.engine d.num d.op)) {st : Store}
    {n : Mach} {f : Slot} (hadv : SM.advance (s.store, s.m.withSlot d.started) d.started = some (st, n))
    (hf : n.ep.slots = [f]) (ht : n.ep.tx = []) (he : f.engine = d.engine) (hn : f.num = d.num) (hd : f.done = true) :
    exec c s = .next { s with store := st, m := n } := by
  have hall : SM.advanceAll (SM.moves d) (s.store, s.m.withSlot d.started) d.engine d.num = (st, n) := by
    obtain ⟨k, hk⟩ := SM.moves_pos d
    rw [hk]
    refine (SM.advanceAll_move (x := (s.store,
      s.m.withSlot d.started)) (d := d.started) rfl rfl hu.allIssued hu.aborted hu.done
      hadv).trans ?_
    have hstill := SM.advanceAll_still (x := (st, n)) (d := f) (n := k + 7) hf (by simp [hd])
    rw [Mach.settle_waiting hf (by simp [hd])] at hstill
    rwa [he, hn] at hstill
  rw [exec_begins hs hu hnop hfence hc hall, Mach.epPump_empty ht]

/-- A descriptor whose first move leaves it complete ends with it. -/
theorem exec_finishes {s : State} {d : Slot} {c : Instr} (hs : s.m.sole d) (hu : d.untouched) (hnop : d.op ≠ DOp.nop)
    (hfence : d.op ≠ DOp.fence)
    (hc : exec c s = State.unit (s.m.hasSlot d.engine d.num) (s.epGo fun x => x.begin d.engine d.num d.op)) {st : Store}
    {n : Mach} {f : Slot} (hadv : SM.advance (s.store, s.m.withSlot d.started) d.started = some (st, n))
    (hf : n.ep.slots = [f]) (ht : n.ep.tx = []) (he : f.engine = d.engine) (hn : f.num = d.num)
    (hw : (f.begun && f.allIssued && f.packets == 0 && f.access == 0 && !f.done && !f.aborted) = true) :
    exec c s = .next { s with store := st, m := n.finishSlot f } := by
  have hall : SM.advanceAll (SM.moves d) (s.store, s.m.withSlot d.started) d.engine d.num = (st, n.finishSlot f) := by
    obtain ⟨k, hk⟩ := SM.moves_pos d
    rw [hk]
    refine (SM.advanceAll_move (x := (s.store,
      s.m.withSlot d.started)) (d := d.started) rfl rfl hu.allIssued hu.aborted hu.done
      hadv).trans ?_
    have hstill := SM.advanceAll_still (x := (st, n)) (d := f) (n := k + 7) hf (by
      simp only [Bool.and_eq_true] at hw
      simp [hw.1.1.1.1.2])
    rw [Mach.settle_finished hf hw] at hstill
    rwa [he, hn] at hstill
  rw [exec_begins hs hu hnop hfence hc hall, Mach.epPump_empty (by rw [Mach.finishSlot_tx, ht])]

namespace Mach
variable {m : Mach} {d : Slot}

/-- A free tag does not depend on how far the one descriptor is. -/
theorem freshTag_withSlot (hs : m.ep.slots = [d]) {e : Slot} (he : (e.engine, e.op, e.done) = (d.engine, d.op, d.done)) (k : Nat) :
    (m.withSlot e).freshTag k = m.freshTag k := by
  simp only [Prod.mk.injEq] at he
  obtain ⟨hen, hop, hdone⟩ := he
  have huse : (m.withSlot e).tagUse k = m.tagUse k := by
    have hone (x : Slot) (p : Slot → Bool) : ([x].filter p).length = if p x then 1 else 0 := by
      rw [← List.countP_eq_length_filter, List.countP_singleton]
    have hslots : (m.withSlot e).ep.slots = [e] := rfl
    rw [tagUse, tagUse, hs, hslots, hone, hone, hen, hop, hdone]
    rfl
  simp only [freshTag, huse]
  rfl

/-- A stop of a PREFETCH that reserved no line. -/
theorem slotStop_unreserved (hs : m.ep.slots = [d]) (ht : m.ep.tx = []) (f : Slot → Slot) (hl : (f d).lines = [])
    (he : (f d).engine = d.engine) (hn : (f d).num = d.num) :
    m.slotStop d.engine d.num f = (m.withSlot { f d with allIssued := true }).settle d.engine d.num := by
  have hfind : (m.withSlot { f d with allIssued := true }).findSlot d.engine d.num = some { f d with allIssued := true } := by
    have := findSlot_sole (m := m.withSlot { f d with allIssued := true }) rfl
    rwa [he, hn] at this
  have hdrop : (m.withSlot { f d with allIssued := true }).rbDrop { f d with allIssued := true }
      = m.withSlot { f d with allIssued := true } := by
    have hkept : (m.withSlot { f d with allIssued := true }).ep.rb.filter (fun l =>
        l.valid || l.ctx != (f d).ctx || !(f d).lines.contains l.addr
          || (m.withSlot { f d with allIssued := true }).tagList.any fun t =>
            t.2.engine == (f d).engine && t.2.slot == (f d).num && t.2.off == l.addr) = m.ep.rb :=
      List.filter_eq_self.mpr fun l _ => by simp [hl]
    rw [rbDrop, hkept]
    rfl
  simp only [slotStop, ht, List.filter_nil, List.foldl_nil, updSlot_sole hs, hfind, hdrop, ite_self]

theorem withSlot_setWord (m : Mach) (e : Slot) (k : Nat) (v : Word) :
    (m.setWord .ep k v).withSlot e = (m.withSlot e).setWord .ep k v := rfl

theorem word_withSlot (m : Mach) (e : Slot) (c : Chip) (k : Nat) : (m.withSlot e).word c k = m.word c k := rfl

theorem withSlot_bump (m : Mach) (e : Slot) (p o : Nat) : (m.bump .ep p o).withSlot e = (m.withSlot e).bump .ep p o := by
  rw [bump, bumpBy, withSlot_setWord, bump, bumpBy, word_withSlot]

theorem touches_bump (m : Mach) (c : Chip) (p o : Nat) {f : Nat → Bool} (hf : f (item p 0 o) = true) :
    m.touches (m.bump c p o) c f := touches_setWord _ _ _ _ hf

/-- A descriptor that is stopped with a status of its own, with nothing out, has ended. -/
theorem slotStop_ends (hs : m.ep.slots = [d]) (ht : m.ep.tx = []) (f : Slot → Slot)
    (hl : (f d).op ≠ DOp.prefetch ∨ (f d).lines = []) (he : (f d).engine = d.engine) (hn : (f d).num = d.num)
    (hw : ((f d).begun && (f d).packets == 0 && (f d).access == 0 && !(f d).done && !(f d).aborted) = true)
    (hst : (f d).status ∉ [0, Done.nack, Done.aborted, Done.badDesc]) :
    m.slotStop d.engine d.num f
      = (m.withSlot (ended { f d with allIssued := true })).bump .ep (Pg.eng d.engine) R.ep4EngDescCnt := by
  have hstop : m.slotStop d.engine d.num f = (m.withSlot { f d with allIssued := true }).settle d.engine d.num :=
    hl.elim (fun h => slotStop_sole hs ht f h he hn) (fun h => slotStop_unreserved hs ht f h he hn)
  obtain ⟨e, hfe⟩ : ∃ e : Slot, e = { f d with allIssued := true } := ⟨_, rfl⟩
  have hkeys : e.engine = d.engine ∧ e.num = d.num := by rw [hfe]; exact ⟨he, hn⟩
  have hstatus : e.status ∉ [0, Done.nack, Done.aborted, Done.badDesc] := by rw [hfe]; exact hst
  simp only [List.mem_cons, List.not_mem_nil, or_false, not_or] at hstatus
  obtain ⟨h0, h1, h2, h3⟩ := hstatus
  have hsettle := settle_finished (m := m.withSlot e) (d := e) rfl (by
    simp only [Bool.and_eq_true] at hw
    rw [hfe]
    simp [hw.1.1.1.1, hw.1.1.1.2, hw.1.1.2, hw.1.2, hw.2])
  have hfinish := finishSlot_kept (m := m.withSlot e) (e := e) rfl (.inl h0) h1 h2 h3
  rw [hkeys.1, hkeys.2] at hsettle
  rw [hkeys.1] at hfinish
  rw [hstop, ← hfe, hsettle, hfinish]
  rfl

end Mach

/-- A descriptor that waits for the response to its one packet. -/
def Slot.asking (d : Slot) : Slot := { d with begun := true, allIssued := true, packets := 1 }

/-- A descriptor that has moved `n` more bytes, up to offset `off`. -/
def Slot.copied (e : Slot) (off n : Nat) : Slot :=
  { e with next := off, moved := e.moved + n, allIssued := e.allIssued || decide (off = e.len) }

namespace SM
variable {x : SM} {e : Slot}

/-- The one line that a short range touches. -/
theorem linesOf_one {a n : Nat} (hn : 0 < n) (h : (a + n - 1) / 256 = a / 256) : linesOf a n = [a / 256 * 256] := by
  simp [linesOf, Nat.ne_of_gt hn, h]

/-- A PREFETCH with room reserves the lines that it needs. -/
theorem reserve_room {need : List Nat}
    (hneed : (linesOf (e.w 2) e.len).filter (fun a => !((x.2.ep.rb.filter fun l => l.ctx == e.ctx).any fun l => l.addr == a)) = need)
    (hroom : ¬(need ≠ [] ∧ (256 * x.2.allocF e.ctx F.alloc_rbQuota < (x.2.ep.rb.filter fun l => l.ctx == e.ctx).length + need.length
      ∨ 1024 * x.2.epParams.rbK < x.2.ep.rb.length + need.length))) :
    x.reserve e = (x.1, (x.2.setEp { x.2.ep with rb := x.2.ep.rb ++ need.map fun a => { ctx := e.ctx, addr := a } }).updSlot
      e.engine e.num fun t => { t with lines := need, units := 1, allIssued := need == [] }) := by
  rw [reserve, hneed]
  exact if_neg hroom

theorem reserve_full {need : List Nat}
    (hneed : (linesOf (e.w 2) e.len).filter (fun a => !((x.2.ep.rb.filter fun l => l.ctx == e.ctx).any fun l => l.addr == a)) = need)
    (hfull : need ≠ [] ∧ (256 * x.2.allocF e.ctx F.alloc_rbQuota < (x.2.ep.rb.filter fun l => l.ctx == e.ctx).length + need.length
      ∨ 1024 * x.2.epParams.rbK < x.2.ep.rb.length + need.length)) :
    x.reserve e = (x.1,
      (x.2.bump .ep Pg.eScr R.ep4RbFullCnt).slotStop e.engine e.num fun t => { t with other := Done.rbFull }) := by
  rw [reserve, hneed]
  exact if_pos hfull

/-- An INVALIDATE of the one descriptor that finds its lines filled removes them. -/
theorem invalidate_idle (hs : x.2.ep.slots = [e])
    (hvalid : ∀ r ∈ x.2.ep.rb, r.ctx = e.ctx → inRange e r.addr 256 = true → r.valid = true) :
    x.stepInvalidate e = some (x.1, (x.2.setEp { x.2.ep with
      rb := x.2.ep.rb.filter fun l => !(l.ctx == e.ctx && inRange e l.addr 256) }).withSlot { e with allIssued := true }) := by
  have hfill : (x.2.ep.rb.any fun l => l.ctx == e.ctx && !l.valid && inRange e l.addr 256) = false := by
    rw [List.any_eq_false]
    intro r hr h
    simp only [Bool.and_eq_true, beq_iff_eq, Bool.not_eq_true'] at h
    simp [hvalid r hr h.1.1 h.2] at h
  have hdef : stepInvalidate = stepInvalidate := rfl
  conv_rhs at hdef => delta stepInvalidate
  rw [congrFun (congrFun hdef x) e]
  simp only [hfill, hs, List.any_cons, List.any_nil, Nat.lt_irrefl, decide_false, Bool.and_false, Bool.false_and, Bool.or_false]
  rw [if_neg (by decide)]
  refine congrArg (fun k => some (x.1, k)) (Mach.updSlot_sole (d := e) rfl _)

/-- An INVALIDATE waits for a line that is being filled. -/
theorem invalidate_waits (hfill : ∃ r ∈ x.2.ep.rb, r.ctx = e.ctx ∧ inRange e r.addr 256 = true ∧ r.valid = false) :
    x.stepInvalidate e = none := by
  obtain ⟨r, hr, hc, hin, hv⟩ := hfill
  have hany : (x.2.ep.rb.any fun l => l.ctx == e.ctx && !l.valid && inRange e l.addr 256) = true :=
    List.any_eq_true.mpr ⟨r, hr, by simp [hc, hin, hv]⟩
  simp only [stepInvalidate, hany, Bool.true_or, if_true]

/-- A write of scratch without uncorrectable words. -/
theorem scrWrite_sound {st : Store} {m : Mach} (hbad : m.ep.scrBad = []) {c off : Nat} {bs : List Byte} :
    scrWrite (st, m) c off bs = ({ st with scratch := st.scratch.writeN (m.scrBase c + off) bs }, m) := by
  have hep : { m.ep with scrBad := [] } = m.ep := by rw [← hbad]
  simp only [scrWrite, hbad, List.filter_nil, hep]
  rfl

/-- A LOCAL_COPY gathers a piece that is in local memory. -/
theorem stepCopy_gathers (hb : x.2.isBusy e = false) {a : Nat} {m : Mach}
    (hsrc : x.source e (e.w 3 + e.next) (min 4096 (e.len - e.next)) = (some (.later a), m)) :
    x.stepCopy e = some (x.1, m.fetchLocal a (min 4096 (e.len - e.next)) (.copy e.engine e.num e.next)) := by
  rw [stepCopy, if_neg (by simp [hb])]
  dsimp only
  rw [hsrc]

/-- A LOCAL_COPY moves a piece that is at hand. -/
theorem stepCopy_moves (hb : x.2.isBusy e = false) {bs : List Byte} {m : Mach}
    (hsrc : x.source e (e.w 3 + e.next) (min 4096 (e.len - e.next)) = (some (.now bs), m)) :
    x.stepCopy e = some (x.copyPiece e e.next bs) := by
  rw [stepCopy, if_neg (by simp [hb])]
  dsimp only
  rw [hsrc]

/-- A piece that stays within scratch stands at its place; its content is open where source and destination overlap. -/
theorem copyPiece_within (hs : x.2.ep.slots = [e]) (hbad : x.2.ep.scrBad = []) (hdst : e.dstSpace = 1) {off : Nat}
    (bs : List Byte) :
    ∃ cs : List Byte, cs.length = bs.length ∧ (overlaps e = false → cs = bs) ∧
      x.copyPiece e off bs = ({ x.1 with scratch := x.1.scratch.writeN (x.2.scrBase e.ctx + (e.w 4 + off)) cs },
        (if overlaps e then { x.2 with freeCtr := x.2.freeCtr + 1 } else x.2).withSlot
          (e.copied (off + bs.length) bs.length)) := by
  obtain ⟨k, hk⟩ : ∃ k, k = (if overlaps e then { x.2 with freeCtr := x.2.freeCtr + 1 } else x.2) := ⟨_, rfl⟩
  have hks : k.ep = x.2.ep := by rw [hk, apply_ite Mach.ep, ite_self]
  have hbase (f : Slot) : (k.withSlot f).scrBase e.ctx = x.2.scrBase e.ctx := by rw [hk]; split <;> rfl
  have hput (cs : List Byte) (f : Slot) : sinkTo (x.1, k.withSlot f) e e.dstSpace (e.w 4 + off) cs none
      = ({ x.1 with scratch := x.1.scratch.writeN (x.2.scrBase e.ctx + (e.w 4 + off)) cs }, k.withSlot f) := by
    rw [sinkTo, if_pos hdst, scrWrite_sound (by rw [← hbad, ← hks]; rfl), hbase]
  have hslots : k.ep.slots = [e] := by rw [hks, hs]
  rw [← hk]
  cases ho : overlaps e
  case false =>
    refine ⟨bs, rfl, fun _ => rfl, ?_⟩
    rw [ho, if_neg Bool.false_ne_true] at hk
    rw [copyPiece, ho]
    simp only [Bool.false_eq_true, if_false, ← hk]
    rw [Mach.updSlot_sole hslots, hput, hk]
    rfl
  case true =>
    rw [ho, if_pos rfl] at hk
    obtain ⟨v, hv⟩ : ∃ v, x.2.fresh (8 * bs.length) = (v, k) := ⟨_, by rw [hk]; rfl⟩
    refine ⟨_, leBytes_length _ v.toNat, fun h => Bool.noConfusion h, ?_⟩
    rw [copyPiece, ho]
    simp only [if_true, hv]
    rw [Mach.updSlot_sole hslots, leBytes_length, hput]
    rfl

end SM

section
variable {s : State} {d : Slot} (hs : s.m.sole d) (hu : d.untouched)
include hs hu

/-- A PREFETCH of one line that it must reserve issues the line's read. -/
theorem exec_prefetch_reads (hop : d.op = DOp.prefetch) {l : Nat} (hl : SM.linesOf (d.w 2) d.len = [l])
    (hdst : bitsOf l 54 10 = d.dstNode) {t j : Nat} {port : Option Nat} (ht : s.m.freshTag d.engine = some t)
    (hp : s.m.planeFor d d.dstNode = .ok (j, port)) (hnew : ∀ r ∈ s.m.ep.rb.filter fun r => r.ctx == d.ctx, r.addr ≠ l)
    (hroom : (s.m.ep.rb.filter fun r => r.ctx == d.ctx).length + 1 ≤ 256 * s.m.allocF d.ctx F.alloc_rbQuota ∧
      s.m.ep.rb.length + 1 ≤ 1024 * s.m.epParams.rbK) :
    exec (.prefetch d.engine d.num) s = .next { s with
      m := (({ s.m with ep := { s.m.ep with rb := s.m.ep.rb ++ [{ ctx := d.ctx, addr := l }] } } : Mach).requested
        { d with units := 1, lines := [l], next := 1 } t j port (s.m.requestOf d t Op.read l 256 0 0 []) l 256 []
        true).epPump } := by
  obtain ⟨n, hn⟩ : ∃ n,
      n = ({ s.m with ep := { s.m.ep with rb := s.m.ep.rb ++ [{ ctx := d.ctx, addr := l }] } } : Mach) := ⟨_, rfl⟩
  obtain ⟨e, he⟩ : ∃ e : Slot, e = { d with units := 1, lines := [l] } := ⟨_, rfl⟩
  have hneed : (SM.linesOf (d.w 2) d.len).filter
      (fun a => !((s.m.ep.rb.filter fun l => l.ctx == d.ctx).any fun l => l.addr == a)) = [l] := by
    rw [hl, List.filter_cons_of_pos, List.filter_nil]
    simpa using fun r hr hc => hnew r (List.mem_filter.mpr ⟨hr, by simpa using hc⟩)
  have hfirst : SM.advance (s.store, s.m.withSlot d.started) d.started = some (s.store, n.withSlot e.started) := by
    rw [SM.advance_prefetch (d := d.started) hop, SM.stepPrefetch, if_pos (show d.started.units = 0 from hu.units),
      SM.reserve_room (x := (s.store, s.m.withSlot d.started)) (e := d.started) hneed (by
        intro h
        exact h.2.elim (Nat.not_lt.mpr hroom.1) (Nat.not_lt.mpr hroom.2))]
    refine congrArg (fun k => some (s.store, k)) ?_
    refine (Mach.updSlot_sole (d := d.started) rfl _).trans ?_
    have hissued : (([l] : List Nat) == []) = d.allIssued := hu.allIssued.symm
    rw [hn, he, hissued]
    rfl
  have hstep : SM.advance (s.store, n.withSlot e.started) e.started = some (s.store,
      n.requested { d with units := 1, lines := [l], next := 1 } t j port (s.m.requestOf d t Op.read l 256 0 0 []) l 256 []
        true) := by
    have hnext : e.started.lines[e.started.next]? = some l := by
      rw [he]
      show ([l] : List Nat)[d.next]? = some l
      rw [hu.next]
      rfl
    have htag : (n.withSlot e).freshTag e.engine = some t := by
      have := Mach.freshTag_withSlot (m := n) (d := d) (by rw [hn]; exact hs.2.1) (e := e) (by rw [he]; rfl) e.engine
      rw [this, hn, he]
      exact ht
    have hask := Mach.ask_started_now (m := n.withSlot e) (d := e) rfl (by rw [hn]; exact hs.2.2.1)
      (a := { op := Op.read, addr := l, aux := 256, off := l, len := 256 }) (show Op.read < 256 by decide)
      (by rw [hdst, hn, he]; exact hp) htag rfl
    rw [SM.advance_prefetch (d := e.started) (by rw [he]; exact hop), SM.stepPrefetch,
      if_neg (show ¬e.started.units = 0 by rw [he]; exact Nat.one_ne_zero), hnext]
    refine (congrArg (Option.map _) hask).trans ?_
    refine congrArg (fun k => some (s.store, k)) ?_
    refine (Mach.asked_last (m := n) (d := e) (by rw [he]; exact hu.packets) _ _ _ _ _ _ _ _ _
      (moved := { d with units := 1, lines := [l], next := 1 }) ?_ (by rw [he])).trans ?_
    · rw [he]
      simp [Slot.started, hu.next]
    · rw [hn, he]
      rfl
  obtain ⟨k, hk⟩ := SM.moves_pos d
  have hall : SM.advanceAll (SM.moves d) (s.store, s.m.withSlot d.started) d.engine d.num = (s.store, n.requested
      { d with units := 1, lines := [l], next := 1 } t j port (s.m.requestOf d t Op.read l 256 0 0 []) l 256 [] true) := by
    rw [hk]
    refine (SM.advanceAll_move (x := (s.store,
      s.m.withSlot d.started)) (d := d.started) rfl rfl hu.allIssued hu.aborted hu.done
      hfirst).trans ?_
    have hen : d.engine = e.started.engine ∧ d.num = e.started.num := by rw [he]; exact ⟨rfl, rfl⟩
    have hslots : (n.withSlot e.started).ep.slots = [e.started] := rfl
    have hmove := SM.advanceAll_move (x := (s.store, n.withSlot e.started)) (d := e.started) (n := k + 6) hslots rfl
      (by rw [he]; exact hu.allIssued) (by rw [he]; exact hu.aborted) (by rw [he]; exact hu.done) hstep
    rw [← hen.1, ← hen.2] at hmove
    refine hmove.trans ?_
    obtain ⟨f, hf⟩ : ∃ f, f = Slot.asking { d with units := 1, lines := [l], next := 1 } := ⟨_, rfl⟩
    have hlast : (n.requested { d with units := 1, lines := [l], next := 1 } t j port
        (s.m.requestOf d t Op.read l 256 0 0 []) l 256 [] true).ep.slots = [f] := by rw [hf]; rfl
    have hstill := SM.advanceAll_still (x := (s.store, n.requested { d with units := 1, lines := [l], next := 1 } t j port
      (s.m.requestOf d t Op.read l 256 0 0 []) l 256 [] true)) (d := f) (n := k + 6) hlast (by rw [hf]; simp [Slot.asking])
    rw [Mach.settle_waiting hlast (by rw [hf]; simp [Slot.asking])] at hstill
    have hfn : f.engine = d.engine ∧ f.num = d.num := by rw [hf]; exact ⟨rfl, rfl⟩
    rwa [hfn.1, hfn.2] at hstill
  rw [exec_begins hs hu (by rw [hop]; decide) (by rw [hop]; decide) (by rw [hop]; rfl) hall, hn]

/-- A PREFETCH whose lines its context holds already completes at once. -/
theorem exec_prefetch_held (hop : d.op = DOp.prefetch)
    (hneed : (SM.linesOf (d.w 2) d.len).filter
      (fun a => !((s.m.ep.rb.filter fun l => l.ctx == d.ctx).any fun l => l.addr == a)) = []) {f : Slot}
    (hf : f = { d with begun := true, allIssued := true, units := 1 }) :
    exec (.prefetch d.engine d.num) s = .next { s with m := (s.m.withSlot f).finishSlot f } := by
  have hfirst : SM.advance (s.store, s.m.withSlot d.started) d.started = some (s.store, s.m.withSlot f) := by
    rw [SM.advance_prefetch (d := d.started) hop, SM.stepPrefetch, if_pos (show d.started.units = 0 from hu.units),
      SM.reserve_room (x := (s.store, s.m.withSlot d.started)) (e := d.started) hneed fun h => h.1 rfl, List.map_nil,
      List.append_nil]
    refine congrArg (fun k => some (s.store, k)) ?_
    refine (Mach.updSlot_sole (d := d.started) rfl _).trans ?_
    have hlines : f = { d with begun := true, allIssued := true, units := 1, lines := [] } := by rw [hf, hu.lines]
    rw [hlines]
    rfl
  exact exec_finishes hs hu (by rw [hop]; decide) (by rw [hop]; decide) (by rw [hop]; rfl) hfirst rfl hs.2.2.1 (by rw [hf])
    (by rw [hf]) (by rw [hf]; simp [hu.packets, hu.access, hu.done, hu.aborted])

/-- A PREFETCH beyond the quota or the buffer is refused as a whole. -/
theorem exec_prefetch_full (hop : d.op = DOp.prefetch) {need : List Nat}
    (hneed : (SM.linesOf (d.w 2) d.len).filter
      (fun a => !((s.m.ep.rb.filter fun l => l.ctx == d.ctx).any fun l => l.addr == a)) = need)
    (hfull : need ≠ [] ∧ (256 * s.m.allocF d.ctx F.alloc_rbQuota < (s.m.ep.rb.filter fun l => l.ctx == d.ctx).length + need.length
      ∨ 1024 * s.m.epParams.rbK < s.m.ep.rb.length + need.length)) :
    ∃ t, exec (.prefetch d.engine d.num) s = .next t ∧ s.m.counted t.m .ep Pg.eScr R.ep4RbFullCnt ∧
      s.becomes t (s.m.withSlot { d with
        begun := true, allIssued := true, other := Done.rbFull, complete := true, done := true }) .ep
        (fun k => pageWord Pg.eScr R.ep4RbFullCnt k || pageWord (Pg.eng d.engine) R.ep4EngDescCnt k) := by
  obtain ⟨n, hn⟩ : ∃ n, n = (s.m.withSlot d.started).bump .ep Pg.eScr R.ep4RbFullCnt := ⟨_, rfl⟩
  have hslots : n.ep.slots = [d.started] := by rw [hn, Mach.bump_ep]; rfl
  have htx : n.ep.tx = [] := by rw [hn, Mach.bump_ep]; exact hs.2.2.1
  have hstatus : ({ d.started with other := Done.rbFull } : Slot).status = Done.rbFull := by
    simp [Slot.status, Slot.started, hu.aborted, hu.poisoned, hu.nacked, hu.priorFailed]
  have hstop := Mach.slotStop_ends hslots htx (fun t => { t with other := Done.rbFull }) (.inr hu.lines) rfl rfl
    (by simp [Slot.started, hu.packets, hu.access, hu.done, hu.aborted]) (by rw [hstatus]; decide)
  have hfirst : SM.advance (s.store, s.m.withSlot d.started) d.started
      = some (s.store, n.slotStop d.engine d.num fun t => { t with other := Done.rbFull }) := by
    rw [SM.advance_prefetch (d := d.started) hop, SM.stepPrefetch, if_pos (show d.started.units = 0 from hu.units),
      SM.reserve_full (x := (s.store, s.m.withSlot d.started)) (e := d.started) hneed hfull, hn]
    rfl
  obtain ⟨e, he⟩ : ∃ e, e = Mach.ended { d.started with other := Done.rbFull, allIssued := true } := ⟨_, rfl⟩
  have hadv := hfirst.trans (congrArg (fun k => some (s.store, k)) hstop)
  rw [hn, Mach.withSlot_bump, ← he] at hadv
  have hww : (s.m.withSlot d.started).withSlot e = s.m.withSlot e := rfl
  obtain ⟨k, hk⟩ : ∃ k, k = (s.m.withSlot e).bump .ep Pg.eScr R.ep4RbFullCnt := ⟨_, rfl⟩
  have hend : e = { d with begun := true, allIssued := true, other := Done.rbFull, complete := true, done := true } := he
  have hkep : k.ep = (s.m.withSlot e).ep := by rw [hk, Mach.bump_ep]
  rw [hww, ← hk] at hadv
  refine ⟨_, exec_ended hs hu (by rw [hop]; decide) (by rw [hop]; decide) (by rw [hop]; rfl) hadv (f := e)
    (by rw [Mach.bump_ep, hkep]; rfl) (by rw [Mach.bump_ep, hkep]; exact hs.2.2.1) (by rw [hend]) (by rw [hend])
    (by rw [hend]), ?_⟩
  have hpages : item Pg.eScr 0 R.ep4RbFullCnt ≠ item (Pg.eng d.started.engine) 0 R.ep4EngDescCnt := fun h => by
    have := congrArg itemPage h
    rw [item_page _ _ _ (by decide) (by decide), item_page _ _ _ (by decide) (by decide)] at this
    simp only [Pg.eScr, Pg.eng] at this
    omega
  have htouch : (s.m.withSlot e).touches (k.bump .ep (Pg.eng d.started.engine) R.ep4EngDescCnt) .ep
      (fun k => pageWord Pg.eScr R.ep4RbFullCnt k || pageWord (Pg.eng d.engine) R.ep4EngDescCnt k) := by
    refine .trans (n := k) ?_ (Mach.touches_bump _ _ _ _ (by simp [pageWord, Slot.started]))
    rw [hk]
    exact Mach.touches_bump _ _ _ _ (by simp [pageWord])
  refine ⟨?_, by rw [← hend]; exact becomes_of htouch.1 htouch.2.1 htouch.2.2⟩
  rw [Mach.counted, Mach.bump, Mach.bumpBy, Mach.word_setWord, if_neg hpages, hk]
  exact Mach.word_bump ..

/-- INVALIDATE removes the lines of its range once none of them is being filled. -/
theorem exec_invalidate_removes (hop : d.op = DOp.invalidate)
    (hvalid : ∀ r ∈ s.m.ep.rb, r.ctx = d.ctx → SM.inRange d r.addr 256 = true → r.valid = true) {now : Slot}
    (hnow : now = { d with begun := true, allIssued := true }) :
    exec (.invalidate d.engine d.num) s = .next { s with
      m := (({ s.m with ep := { s.m.ep with
        rb := s.m.ep.rb.filter fun r => !(r.ctx == d.ctx && SM.inRange d r.addr 256) } } : Mach).withSlot now).finishSlot now } := by
  have hidle := SM.invalidate_idle (x := (s.store, s.m.withSlot d.started)) (e := d.started) rfl hvalid
  have hfirst := (SM.advance_invalidate (x := (s.store, s.m.withSlot d.started)) (d := d.started) hop).trans hidle
  subst hnow
  exact exec_finishes hs hu (by rw [hop]; decide) (by rw [hop]; decide) (by rw [hop]; rfl) hfirst rfl hs.2.2.1 rfl rfl
    (by simp [hu.packets, hu.access, hu.done, hu.aborted])

/-- A descriptor whose first move must wait has only begun. -/
theorem exec_stuck {c : Instr} (hnop : d.op ≠ DOp.nop) (hfence : d.op ≠ DOp.fence)
    (hc : exec c s = State.unit (s.m.hasSlot d.engine d.num) (s.epGo fun x => x.begin d.engine d.num d.op))
    (hadv : SM.advance (s.store, s.m.withSlot d.started) d.started = none) :
    exec c s = .next { s with m := s.m.withSlot { d with begun := true } } := by
  have hall := SM.advanceAll_stuck (x := (s.store, s.m.withSlot d.started)) (d := d.started) (n := SM.moves d) rfl
    hu.allIssued hadv
  rw [exec_begins hs hu hnop hfence hc hall, Mach.epPump_empty (m := s.m.withSlot d.started) hs.2.2.1]
  rfl

/-- A LOCAL_COPY is not busy before its first piece. -/
theorem isBusy_started : (s.m.withSlot d.started).isBusy d.started = false := by
  have haccess : d.started.access = 0 := hu.access
  have hhost : (s.m.withSlot d.started).ep.host = [] := hs.2.2.2.2
  have hfetch : (s.m.withSlot d.started).ep.fetch = [] := hs.2.2.2.1
  simp [Mach.isBusy, haccess, hhost, hfetch]

/-- A LOCAL_COPY from local memory gathers its first piece. -/
theorem exec_localCopy_gathers (hop : d.op = DOp.localCopy) (hlen : 0 < d.len) (hsrc : d.srcSpace = 0) :
    exec (.localCopy d.engine d.num) s = .next { s with
      m := (s.m.withSlot { d with begun := true }).fetchLocal (d.w 3) (min 4096 d.len) (.copy d.engine d.num 0) } := by
  have hpos : 0 < min 4096 d.len := by omega
  obtain ⟨out, q, n, hep⟩ := Mach.fetchLocal_ep (s.m.withSlot d.started) (d.w 3) (min 4096 d.len) (.copy d.engine d.num 0)
  obtain ⟨k, hk⟩ : ∃ k,
    k = (s.m.withSlot d.started).fetchLocal (d.w 3) (min 4096 d.len) (.copy d.engine d.num 0) := ⟨_, rfl⟩
  rw [← hk] at hep
  have hfirst : SM.advance (s.store, s.m.withSlot d.started) d.started = some (s.store, k) := by
    have hstep := SM.stepCopy_gathers (x := (s.store, s.m.withSlot d.started)) (e := d.started) (isBusy_started hs hu)
      (SM.source_local (x := (s.store, s.m.withSlot d.started)) (e := d.started) hsrc (n := min 4096 (d.len - d.next))
        (by rw [hu.next]; exact hpos) (d.w 3 + d.next))
    rw [SM.advance_localCopy (d := d.started) hop]
    rw [show d.started.next = 0 from hu.next, hu.next] at hstep
    rw [hk]
    exact hstep
  have hslots : k.ep.slots = [d.started] := by rw [hep]; rfl
  have hbusy : k.isBusy d.started = true := by simp [Mach.isBusy, hep, Slot.started]
  have hstuck : SM.advance (s.store, k) d.started = none := by
    rw [SM.advance_localCopy (d := d.started) hop]
    exact if_pos hbusy
  obtain ⟨j, hj⟩ := SM.moves_pos d
  have hall : SM.advanceAll (SM.moves d) (s.store, s.m.withSlot d.started) d.engine d.num = (s.store, k) := by
    rw [hj]
    refine (SM.advanceAll_move (x := (s.store,
      s.m.withSlot d.started)) (d := d.started) rfl rfl hu.allIssued hu.aborted hu.done
      hfirst).trans ?_
    exact SM.advanceAll_stuck (x := (s.store, k)) (d := d.started) hslots hu.allIssued hstuck
  rw [exec_begins hs hu (by rw [hop]; decide) (by rw [hop]; decide) (by rw [hop]; rfl) hall, Mach.epPump_empty (by
    rw [hep]; exact hs.2.2.1), hk]
  rfl

/-- A LOCAL_COPY within scratch, of at most 4,096 bytes, puts them at their place and completes. -/
theorem exec_localCopy_within (hop : d.op = DOp.localCopy) (hsrc : d.srcSpace = 1) (hdst : d.dstSpace = 1)
    (hmax : d.len ≤ 4096) (hbad : s.m.ep.scrBad = []) {now : Slot}
    (hnow : now = { d with begun := true, allIssued := true, next := d.len, moved := d.len }) :
    ∃ bs : List Byte, bs.length = d.len ∧
      (SM.overlaps d = false → bs = s.store.scratch.readN (s.m.scrBase d.ctx + d.w 3) d.len) ∧
      exec (.localCopy d.engine d.num) s = .next { s with
        store := { s.store with scratch := s.store.scratch.writeN (s.m.scrBase d.ctx + d.w 4) bs },
        m := ((if SM.overlaps d then { s.m with freeCtr := s.m.freeCtr + 1 } else s.m).withSlot now).finishSlot now } := by
  have hk : min 4096 (d.started.len - d.started.next) = d.len := by
    rw [show d.started.next = 0 from hu.next]
    exact Nat.min_eq_right hmax
  have hread := SM.source_scratch (x := (s.store,
    s.m.withSlot d.started)) (e := d.started) hsrc hbad (d.w 3 + d.next) d.len
  rw [hu.next] at hread
  have hstep := SM.stepCopy_moves (x := (s.store, s.m.withSlot d.started)) (e := d.started) (isBusy_started hs hu)
    (show SM.source (s.store, s.m.withSlot d.started) d.started (d.started.w 3 + d.started.next)
      (min 4096 (d.started.len - d.started.next)) = _ by
      rw [hk, show d.started.next = 0 from hu.next]
      exact hread)
  obtain ⟨bs, hbs, hplain, hpiece⟩ := SM.copyPiece_within (x := (s.store, s.m.withSlot d.started)) (e := d.started) rfl hbad hdst
    (off := d.started.next) (s.store.scratch.readN (s.m.scrBase d.ctx + d.w 3) d.len)
  have hlen' : bs.length = d.len := by rw [hbs, readN_length]
  have hfirst : SM.advance (s.store, s.m.withSlot d.started) d.started = some
      ({ s.store with scratch := s.store.scratch.writeN (s.m.scrBase d.ctx + d.w 4) bs },
       (if SM.overlaps d then { s.m with freeCtr := s.m.freeCtr + 1 } else s.m).withSlot now) := by
    rw [SM.advance_localCopy (d := d.started) hop]
    refine hstep.trans (congrArg some (hpiece.trans ?_))
    have hmoved : d.started.copied (d.started.next + d.len) d.len = now := by
      rw [hnow]
      have hlen : d.started.len = d.len := rfl
      simp only [Slot.copied, hlen, show d.started.next = 0 from hu.next, show d.started.moved = 0 from hu.moved,
        Nat.zero_add, decide_true, Bool.or_true]
      rfl
    rw [readN_length, hmoved, show d.started.next = 0 from hu.next]
    refine congrArg (Prod.mk _) ?_
    have hlap : SM.overlaps d.started = SM.overlaps d := rfl
    rw [hlap]
    cases SM.overlaps d <;> rfl
  refine ⟨bs, hlen', hplain, ?_⟩
  exact exec_finishes hs hu (by rw [hop]; decide) (by rw [hop]; decide) (by rw [hop]; rfl) hfirst rfl
    (by split <;> exact hs.2.2.1) (by rw [hnow]) (by rw [hnow])
    (by rw [hnow]; simp [hu.packets, hu.access, hu.done, hu.aborted])

end

/-- Settles O35: the first move of each op decides, and completes, waits or reads one line. -/
theorem linesAndLocalCopies : Obligations.LinesAndLocalCopies := by
  unfold Obligations.LinesAndLocalCopies
  refine ⟨fun s d hs hu => ⟨fun hop hlen hone hw => ?_, fun hop => ⟨fun hvalid => ?_, fun hfill => ?_⟩⟩,
    fun s d hs hu hop hlen => ⟨fun hsrc hdst hmax hbad hlap => ?_, fun hsrc hdst hmax hbad hlap => ?_, fun hsrc => ?_⟩⟩
  · have hlines := SM.linesOf_one hlen hone
    refine ⟨fun t ht j port hp hnew hroom => ?_, fun hheld => ?_, fun hnew hfull => ?_⟩
    · exact exec_prefetch_reads hs hu hop hlines (bitsOf_line _) ht hp hnew hroom
    · obtain ⟨r, hr, hra⟩ := hheld
      exact exec_prefetch_held hs hu hop (by
        rw [hlines, List.filter_cons_of_neg, List.filter_nil]
        obtain ⟨hmem, hc⟩ := List.mem_filter.mp hr
        simpa using ⟨r, hmem, by simpa using hc, hra⟩) rfl
    · refine exec_prefetch_full hs hu hop (need := [d.w 2 / 256 * 256]) ?_ ⟨List.cons_ne_nil _ _, ?_⟩
      · rw [hlines, List.filter_cons_of_pos, List.filter_nil]
        simpa using fun r hr hc => hnew r (List.mem_filter.mpr ⟨hr, by simpa using hc⟩)
      · exact (not_and_or.mp hfull).imp Nat.not_le.mp Nat.not_le.mp
  · exact exec_invalidate_removes hs hu hop (fun r hr hc => hvalid r (List.mem_filter.mpr ⟨hr, by simp [hc]⟩)) rfl
  · obtain ⟨r, hr, hin, hv⟩ := hfill
    obtain ⟨hmem, hc⟩ := List.mem_filter.mp hr
    refine exec_stuck hs hu (by rw [hop]; decide) (by rw [hop]; decide) (by rw [hop]; rfl) ?_
    rw [SM.advance_invalidate (d := d.started) hop]
    exact SM.invalidate_waits ⟨r, hmem, eq_of_beq hc, hin, hv⟩
  · obtain ⟨bs, hbs, hplain, hrun⟩ := exec_localCopy_within hs hu hop hsrc hdst hmax hbad rfl
    have hno : SM.overlaps d = false := by rw [SM.overlaps, hlap, Bool.and_false]
    rw [hrun, hno, hplain hno]
    rfl
  · obtain ⟨bs, hbs, -, hrun⟩ := exec_localCopy_within hs hu hop hsrc hdst hmax hbad rfl
    have hyes : SM.overlaps d = true := by rw [SM.overlaps, hlap, hsrc, hdst]; rfl
    rw [hyes, if_pos rfl] at hrun
    exact ⟨_, hrun, fun a ha => Mem.read_writeN_out bs _ _ a (by rwa [hbs]), rfl, rfl, rfl⟩
  · exact exec_localCopy_gathers hs hu hop hlen hsrc

end Sys2Proof.Machine
end

section
/-! What the one answer of the memory port, and one complete gathering, do (R381, R384). -/

set_option Elab.async false

namespace Sys2Proof.Machine
open Sys2Proof

/-- The machine when the memory port has answered its one request. -/
def Mach.mpDone (m : Mach) : Mach := m.setEp { m.ep with mp := [] }

namespace SM
variable {x : SM} {q : MpReq}

theorem memEffect_read (hc : q.cmd = 0) : x.memEffect q 0 = (x.1.loc.readN q.addr q.len, x) := by
  simp [memEffect, hc]

theorem memEffect_write (hc : q.cmd = 1) :
    x.memEffect q 0 = ([], ({ x.1 with loc := x.1.loc.writeN q.addr q.data }, x.2)) := by
  simp [memEffect, hc]

theorem memEffect_atomic (hc : q.cmd = 2) :
    x.memEffect q 0 = (x.1.loc.readN q.addr q.len,
      ({ x.1 with loc := x.1.loc.writeN q.addr (atomicBytes q.modifier (x.1.loc.readN q.addr q.len) q.data) }, x.2)) := by
  simp [memEffect, hc]

section
variable {st : Store} {bs : List Byte} (hq : x.2.ep.mp = [q]) (heff : x.memEffect q 0 = (bs, (st, x.2)))
include hq heff

theorem mpAnswer_serve {id off : Nat} (hu : q.use = .serve id off) :
    x.mpAnswer q.tag 0 = (st, x.2.mpDone.serveAnswered id off q.len 0 bs) := by
  simp [mpAnswer, hq, heff, hu, Mach.mpDone]

theorem mpAnswer_fetch {id off : Nat} (hu : q.use = .fetch id off) :
    x.mpAnswer q.tag 0 = (st, x.2.mpDone.setEp { x.2.mpDone.ep with fetch := x.2.ep.fetch.map fun f =>
      if f.id = id then { f with out := f.out - 1, pieces := f.pieces ++ [(off, bs)] } else f }) := by
  simp [mpAnswer, hq, heff, hu, Mach.mpDone]

theorem mpAnswer_record {e n : Nat} (hu : q.use = .record e n) :
    x.mpAnswer q.tag 0 = (st, recorded x.2.mpDone e n 0) := by
  simp [mpAnswer, hq, heff, hu, Mach.mpDone]

theorem mpAnswer_sink {e n t : Nat} {ts : TagSt} (hu : q.use = .sink e n (some t)) (ht : x.2.tagOf t = some ts) :
    x.mpAnswer q.tag 0 = (st, (((x.2.mpDone.updSlot e n fun s => { s with access := s.access - 1 }).setTag t
      (some { ts with sinks := ts.sinks - 1 })).tagDone t).settle e n) := by
  have htag (f : Slot → Slot) : ((x.2.setEp { x.2.ep with mp := [] }).updSlot e n f).tagOf t = some ts := ht
  simp [mpAnswer, hq, heff, hu, Mach.mpDone, htag]

end

/-- A complete gathering with nothing else gathered: its bytes are given, the one descriptor moves, and what waits starts. -/
theorem epRun_gathered {y : SM} {f : Fetch} {d : Slot} (hf : x.2.ep.fetch = [f]) (ho : f.out = 0) (hy : x.fetched f = y)
    (hs : y.2.ep.slots = [d]) :
    epRun x = ((advanceAll (moves d) y d.engine d.num).1, (advanceAll (moves d) y d.engine d.num).2.epPump) := by
  have hdue : x.2.ep.fetch.filter (fun f => f.out == 0) = [f] := by simp [hf, ho]
  simp only [epRun, hdue, List.foldl_cons, List.foldl_nil, hy, hs, List.mergeSort_singleton]

/-- A complete gathering where no descriptor is. -/
theorem epRun_gathered_empty {y : SM} {f : Fetch} (hf : x.2.ep.fetch = [f]) (ho : f.out = 0) (hy : x.fetched f = y)
    (hs : y.2.ep.slots = []) : epRun x = (y.1, y.2.epPump) := by
  have hdue : x.2.ep.fetch.filter (fun f => f.out == 0) = [f] := by simp [hf, ho]
  simp only [epRun, hdue, List.foldl_cons, List.foldl_nil, hy, hs, List.mergeSort_nil]

/-- The bytes of a part table, gathered whole. -/
theorem fetched_table {f : Fetch} {d : Slot} {e n : Nat} {bs : List Byte} (hf : x.2.ep.fetch = [f]) (hu : f.use = .table e n)
    (hp : f.pieces = [(0, bs)]) (h0 : f.status = 0) (hd : x.2.findSlot e n = some d) (ha : d.aborted = false)
    (hdone : d.done = false) :
    x.fetched f = (x.1, tableRead (x.2.setEp { x.2.ep with fetch := [] }) d bs) := by
  have hslot : (x.2.setEp { x.2.ep with fetch := [] }).findSlot e n = some d := hd
  have hlive : (some d).filter (fun s => !s.aborted && !s.done) = some d := by simp [Option.filter, ha, hdone]
  simp [fetched, hf, hu, hp, h0, hslot, hlive]

/-- The bytes of a packet, gathered whole. -/
theorem fetched_tx {f : Fetch} {t : EpTx} {bs : List Byte} (hf : x.2.ep.fetch = [f]) (hu : f.use = .tx t.id)
    (hp : f.pieces = [(0, bs)]) (h0 : f.status = 0) (ht : x.2.ep.tx = [t]) :
    x.fetched f = (x.1, x.2.setEp { x.2.ep with
      fetch := [], tx := [{ t with pkt := { t.pkt with payload := bs }, ready := true }] }) := by
  simp [fetched, hf, hu, hp, h0, ht, Mach.updTx, Mach.setEp]

end SM

end Sys2Proof.Machine
end

section
/-! How the collective sends of the one descriptor form their units (R413 to R415). -/

set_option Elab.async false

namespace Sys2Proof.Machine
open Sys2Proof

/-- A descriptor with `n` packets out. -/
def Slot.waiting (d : Slot) (n : Nat) : Slot := { d with packets := n }

namespace Mach
variable {m : Mach} {d : Slot}

theorem collected_slots (ps : List (Packet × Option Nat)) (r : Bool) : (m.collected d ps r).ep.slots = [d] := rfl

/-- A descriptor that has queued nothing yet. -/
theorem collected_nil (ht : m.ep.tx = []) : m.collected d [] = m.withSlot d := by
  simp only [collected, withSlot, List.mapIdx_nil, List.length_nil, Nat.add_zero, ← ht]

theorem collected_updSlot (ps : List (Packet × Option Nat)) (r : Bool) (f : Slot → Slot) (he : (f d).engine = d.engine)
    (hn : (f d).num = d.num) : (m.collected d ps r).updSlot d.engine d.num f = m.collected (f d) ps r := by
  rw [updSlot_sole (m := m.collected d ps r) rfl f]
  simp only [collected, withSlot, he, hn]

theorem collPacket_congr {e : Slot} (he : (e.stream, e.key, e.ctx) = (d.stream, d.key, d.ctx)) (op vc plane addr aux : Nat)
    (bs : List Byte) : m.collPacket e op vc plane addr aux bs = m.collPacket d op vc plane addr aux bs := by
  simp only [Prod.mk.injEq] at he
  rw [collPacket, collPacket, he.1, he.2.1, he.2.2]

/-- One more packet of a send whose bytes are at hand. -/
theorem issueColl_collected {e : Slot}
    (he : (e.engine, e.num, e.stream, e.key, e.ctx) = (d.engine, d.num, d.stream, d.key, d.ctx)) (ps : List (Packet × Option Nat))
    (op vc plane addr aux n : Nat) (by_ : Option Nat) (bs : List Byte) :
    (m.collected d ps).issueColl e op vc plane addr aux 1 by_ n (.now bs)
      = m.collected (d.waiting (d.packets + 1)) (ps ++ [(m.collPacket e op vc plane addr aux bs, by_)]) := by
  simp only [Prod.mk.injEq] at he
  obtain ⟨hen, hnum, hstream, hkey, hctx⟩ := he
  simp only [issueColl, queueTx, hen, hnum, updSlot_sole (collected_slots ps true)]
  simp only [pushTx, collected, withSlot, setEp, collPacket, List.mapIdx_append, List.length_append, List.mapIdx_cons,
    List.mapIdx_nil, List.length_singleton, Nat.zero_add, Nat.add_assoc, epNode, epochNow]
  rfl

/-- The one packet of a send whose bytes are to be gathered. -/
theorem issueColl_later {e : Slot}
    (he : (e.engine, e.num, e.stream, e.key, e.ctx) = (d.engine, d.num, d.stream, d.key, d.ctx))
    (op vc plane addr aux n a : Nat) (by_ : Option Nat) :
    (m.collected d []).issueColl e op vc plane addr aux 1 by_ n (.later a)
      = (m.collected (d.waiting (d.packets + 1)) [(m.collPacket e op vc plane addr aux (List.replicate n 0), by_)] false).fetchLocal
        a n (.tx m.ep.nextTx) := by
  simp only [Prod.mk.injEq] at he
  obtain ⟨hen, hnum, hstream, hkey, hctx⟩ := he
  simp only [issueColl, queueTx, hen, hnum, updSlot_sole (collected_slots [] true)]
  simp only [pushTx, collected, withSlot, setEp, collPacket, List.mapIdx_nil, List.length_nil, List.mapIdx_cons,
    List.length_singleton, Nat.add_zero, List.nil_append, epNode, epochNow]
  rfl

/-- Queueing one packet after another: each step adds the packet that `unit` names. -/
theorem fold_collected (step : SM → Nat × Nat → SM) (unit : Nat → Nat → Packet × Option Nat) (st : Store) (l : List Nat) :
    ∀ (k n : Nat) (ps : List (Packet × Option Nat)),
      (∀ i pl, l[i]? = some pl → ∀ c qs, step (st, m.collected (d.waiting c) qs) (pl, k + i)
        = (st, m.collected (d.waiting (c + 1)) (qs ++ [unit (k + i) pl]))) →
      (l.zipIdx k).foldl step (st, m.collected (d.waiting n) ps)
        = (st, m.collected (d.waiting (n + l.length)) (ps ++ l.mapIdx fun i pl => unit (k + i) pl)) := by
  induction l with
  | nil => intro k n ps _; simp
  | cons a l ih =>
    intro k n ps hstep
    have hfirst := hstep 0 a rfl n ps
    rw [Nat.add_zero] at hfirst
    rw [List.zipIdx_cons, List.foldl_cons, hfirst, ih (k + 1) (n + 1) _ fun i pl hi c qs => by
      have := hstep (i + 1) pl (by simpa using hi) c qs
      rwa [Nat.add_comm i 1, ← Nat.add_assoc] at this]
    have hunits : (fun i pl => unit (k + 1 + i) pl) = fun i pl => unit (k + (i + 1)) pl := by
      funext i pl
      rw [Nat.add_assoc, Nat.add_comm 1 i]
    rw [List.mapIdx_cons, List.length_cons, hunits, List.append_assoc, List.singleton_append, Nat.add_assoc,
      Nat.add_comm 1]
    rfl

theorem hasTx_none (ht : m.ep.tx = []) (e : Slot) : m.hasTx e = false := by simp [hasTx, ht]

/-- Something waits to be sent for the one descriptor. -/
theorem hasTx_collected {ps : List (Packet × Option Nat)} {r : Bool} (h : ps ≠ []) : (m.collected d ps r).hasTx d = true := by
  obtain ⟨p, ps, rfl⟩ := List.exists_cons_of_ne_nil h
  simp [hasTx, collected, List.mapIdx_cons]

end Mach

/-- What the one descriptor has done when its first move leaves `n`, from which it cannot move. -/
theorem exec_moves_once {s : State} {d : Slot} {c : Instr} (hs : s.m.sole d) (hu : d.untouched) (hnop : d.op ≠ DOp.nop)
    (hfence : d.op ≠ DOp.fence)
    (hc : exec c s = State.unit (s.m.hasSlot d.engine d.num) (s.epGo fun x => x.begin d.engine d.num d.op)) {n : Mach} {f : Slot}
    (hadv : SM.advance (s.store, s.m.withSlot d.started) d.started = some (s.store, n)) (hf : n.ep.slots = [f])
    (he : f.engine = d.engine) (hn : f.num = d.num) (hi : f.allIssued = false) (hstuck : SM.advance (s.store, n) f = none) :
    exec c s = .next { s with m := n.epPump } := by
  obtain ⟨k, hk⟩ := SM.moves_pos d
  have hall : SM.advanceAll (SM.moves d) (s.store, s.m.withSlot d.started) d.engine d.num = (s.store, n) := by
    rw [hk]
    refine (SM.advanceAll_move (x := (s.store, s.m.withSlot d.started)) (d := d.started) rfl rfl hu.allIssued hu.aborted hu.done
      hadv).trans ?_
    have := SM.advanceAll_stuck (x := (s.store, n)) (d := f) (n := k + 7) hf hi hstuck
    rwa [he, hn] at this
  exact exec_begins hs hu hnop hfence hc hall

namespace SM

/-- A unit of one packet. -/
theorem unitCuts_one {cut len : Nat} (h0 : 0 < len) (h : len ≤ cut) : unitCuts cut len = [(0, len)] := by
  have hone : ceilDiv len (max cut 1) = 1 := by
    rw [ceilDiv, Nat.max_eq_left (by omega)]
    exact Nat.div_eq_of_lt_le (by omega) (by omega)
  simp [unitCuts, hone, Nat.min_eq_right h]

/-- A unit of one packet. -/
theorem sendUnit_one {x : SM} {e : Slot} {op plane aux cut addr len : Nat} {b : Body} (h0 : 0 < len) (h : len ≤ cut)
    (hsrc : x.source e addr len = (some b, x.2)) :
    x.sendUnit e op plane aux cut addr len = (x.1, x.2.issueColl e op 2 plane 0 aux 1 none len b) := by
  rw [sendUnit, unitCuts_one h0 h, List.foldl_cons, List.foldl_nil]
  dsimp only
  rw [Nat.add_zero, hsrc, Nat.zero_add, if_pos rfl]

/-- Scratch bytes are at hand while packets are queued. -/
theorem source_collected {st : Store} {m : Mach} {d e : Slot} {ps : List (Packet × Option Nat)} (hs : e.srcSpace = 1)
    (hbad : m.ep.scrBad = []) (a n : Nat) :
    SM.source (st, m.collected d ps) e a n
      = (some (.now (st.scratch.readN (m.scrBase e.ctx + a) n)), m.collected d ps) :=
  source_scratch (x := (st, m.collected d ps)) hs hbad a n

/-- Elements of one plane's slice of a Pleat part (R413). -/
def pltSlice (d : Slot) : Nat := Slot.sliceOf (bitsOf (d.w 4) 0 32) (planesOf d.planeMask).length d.chunkElems

/-- The elements of a Pleat part up to which its first chunk's unit on the `j`-th plane reaches. -/
def pltTop (d : Slot) (j : Nat) : Nat :=
  if j + 1 < (planesOf d.planeMask).length then min (min (j * pltSlice d + d.chunkElems) d.len) ((j + 1) * pltSlice d)
  else min (j * pltSlice d + d.chunkElems) d.len

/-- Bytes of the first chunk's unit on the `j`-th plane. -/
def pltBytes (d : Slot) (j : Nat) : Nat := fmtBytes (bitsOf (d.w 2) 32 4) (pltTop d j - j * pltSlice d)

/-- The packet by which PLT_SEND sends the unit of its first chunk on plane `pl`, the `j`-th that it uses. -/
def pltUnit (st : Store) (m : Mach) (d : Slot) (pl j : Nat) : Packet :=
  let fmt := bitsOf (d.w 2) 32 4
  let aux := bitsOf (d.w 2) 0 13 + bitsOf (d.w 2) 13 8 * 2 ^ 13 + bitsOf (d.w 2) 21 8 * 2 ^ 45
  let op := if bitsOf (d.w 2) 36 1 = 1 then Op.pltShard else Op.pltContrib
  if pltTop d j ≤ j * pltSlice d then m.collPacket d op 2 pl (fmtBytes fmt d.chunkElems) aux [0]
  else m.collPacket d op 2 pl 0 aux
    (st.scratch.readN (m.scrBase d.ctx + (d.w 3 + fmtBytes fmt (j * pltSlice d))) (pltBytes d j))

/-- The units of the first chunk of a PLT_SEND are queued, one for each plane used. -/
theorem sendChunk_first {st : Store} {m : Mach} {d : Slot} (ht : m.ep.tx = []) (hpk : d.packets = 0) (hbad : m.ep.scrBad = [])
    (hsrc : d.srcSpace = 1)
    (hfits : ∀ j, j < (planesOf d.planeMask).length →
      j * pltSlice d < pltTop d j → 0 < pltBytes d j ∧
        pltBytes d j ≤ 4096 / unitBytes (bitsOf (d.w 2) 32 4) * unitBytes (bitsOf (d.w 2) 32 4)) :
    SM.sendChunk (st, m.withSlot d) d 0 = (st, m.collected (d.waiting (planesOf d.planeMask).length)
      ((planesOf d.planeMask).mapIdx fun j pl => (pltUnit st m d pl j, none))) := by
  have hstart : m.withSlot d = m.collected (d.waiting 0) [] := by
    rw [Slot.waiting, ← hpk, Mach.collected_nil ht]
  rw [hstart]
  simp only [sendChunk, Nat.zero_mul, Nat.add_zero, Nat.zero_add, Nat.one_mul, Nat.zero_mod]
  refine (Mach.fold_collected (m := m) (d := d) _ (fun j pl => (pltUnit st m d pl j, none)) st (planesOf d.planeMask) 0 0 []
    ?_).trans (by simp)
  intro j pl hj c qs
  have hlt : j < (planesOf d.planeMask).length := (List.getElem?_eq_some_iff.mp hj).1
  rw [Nat.zero_add]
  by_cases hempty : pltTop d j ≤ j * pltSlice d
  · have hunit : pltUnit st m d pl j = _ := if_pos hempty
    rw [hunit]
    refine (if_pos hempty).trans (congrArg (Prod.mk st) ?_)
    exact Mach.issueColl_collected rfl _ _ _ _ _ _ _ _ _
  · have hunit : pltUnit st m d pl j = _ := if_neg hempty
    obtain ⟨hpos, hmax⟩ := hfits j hlt (Nat.lt_of_not_le hempty)
    rw [hunit]
    refine (if_neg hempty).trans ?_
    refine (sendUnit_one hpos hmax (source_collected hsrc hbad _ _)).trans (congrArg (Prod.mk st) ?_)
    exact Mach.issueColl_collected rfl _ _ _ _ _ _ _ _ _

end SM

section
variable {s : State} {d : Slot} (hs : s.m.sole d) (hu : d.untouched)
include hs hu

/-- PLT_SEND queues the units of its first chunk and waits for them to be sent. -/
theorem exec_pltSend_sends (hop : d.op = DOp.pltSend) (hbad : s.m.ep.scrBad = []) (hsrc : d.srcSpace = 1)
    (hcap : 0 < bitsOf (d.w 4) 32 32) (helems : 0 < d.chunkElems) (hplanes : planesOf d.planeMask ≠ [])
    (hfits : ∀ j, j < (planesOf d.planeMask).length → j * SM.pltSlice d < SM.pltTop d j → 0 < SM.pltBytes d j ∧
      SM.pltBytes d j ≤ 4096 / unitBytes (bitsOf (d.w 2) 32 4) * unitBytes (bitsOf (d.w 2) 32 4)) :
    exec (.pltSend d.engine d.num) s = .next { s with
      m := (s.m.collected { d with begun := true, next := 1, packets := (planesOf d.planeMask).length }
        ((planesOf d.planeMask).mapIdx fun j pl => (SM.pltUnit s.store s.m d pl j, none))).epPump } := by
  have hunits : ((planesOf d.planeMask).mapIdx fun j pl => (SM.pltUnit s.store s.m d pl j, (none : Option Nat))) ≠ [] := by
    simpa using hplanes
  have hsend := SM.sendChunk_first (st := s.store) (m := s.m) (d := d.started) hs.2.2.1 hu.packets hbad hsrc hfits
  have htx := Mach.hasTx_none (m := s.m.withSlot d.started) hs.2.2.1 d.started
  have hmore : ¬ceilDiv (bitsOf (d.w 4) 32 32) d.chunkElems ≤ 0 := by
    rw [ceilDiv, Nat.not_le]
    exact Nat.div_pos (by omega) helems
  refine exec_moves_once hs hu (by rw [hop]; decide) (by rw [hop]; decide) (by rw [hop]; rfl)
    (n := s.m.collected { d with begun := true, next := 1, packets := (planesOf d.planeMask).length }
      ((planesOf d.planeMask).mapIdx fun j pl => (SM.pltUnit s.store s.m d pl j, none))) ?_ rfl rfl rfl hu.allIssued ?_
  · rw [SM.advance_pltSend (d := d.started) hop, SM.stepPlt, if_neg (by rw [htx]; decide),
      show d.started.next = 0 from hu.next]
    refine (if_neg hmore).trans ?_
    dsimp only
    rw [hsend]
    refine congrArg (fun k => some (s.store, k)) ?_
    exact Mach.updSlot_sole (d := d.started.waiting (planesOf d.planeMask).length) rfl _
  · rw [SM.advance_pltSend (d := { d with begun := true, next := 1, packets := (planesOf d.planeMask).length }) hop, SM.stepPlt]
    exact if_pos (Mach.hasTx_collected hunits)

/-- A PLT_SEND without elements ends at once. -/
theorem exec_pltSend_ends (hop : d.op = DOp.pltSend) (hcap : bitsOf (d.w 4) 32 32 = 0) {now : Slot}
    (hnow : now = { d with begun := true, allIssued := true, truncated := SM.pltTruncated d, padded := SM.pltPadded d }) :
    exec (.pltSend d.engine d.num) s = .next { s with m := (s.m.withSlot now).finishSlot now } := by
  have htx := Mach.hasTx_none (m := s.m.withSlot d.started) hs.2.2.1 d.started
  have hnone : ceilDiv (bitsOf (d.w 4) 32 32) d.chunkElems ≤ d.next := by
    rw [hcap, ceilDiv, Nat.zero_add]
    rcases Nat.eq_zero_or_pos d.chunkElems with h | h
    · rw [h]; exact Nat.zero_le _
    · rw [Nat.div_eq_of_lt (by omega)]; exact Nat.zero_le _
  have hfirst : SM.advance (s.store, s.m.withSlot d.started) d.started = some (s.store, s.m.withSlot now) := by
    rw [SM.advance_pltSend (d := d.started) hop, SM.stepPlt, if_neg (by rw [htx]; decide)]
    refine (if_pos hnone).trans (congrArg (fun k => some (s.store, k)) ?_)
    refine (Mach.updSlot_sole (d := d.started) rfl _).trans ?_
    rw [hnow]
    rfl
  subst hnow
  exact exec_finishes hs hu (by rw [hop]; decide) (by rw [hop]; decide) (by rw [hop]; rfl) hfirst rfl hs.2.2.1 rfl rfl
    (by simp [hu.packets, hu.access, hu.done, hu.aborted])

/-- A BKT_SEND of no bucket ends at once. -/
theorem exec_bktSend_ends (hop : d.op = DOp.bktSend) (hb : SM.buckets d = 0) :
    exec (.descBktSend d.engine d.num) s = .next { s with
      m := (s.m.withSlot { d with begun := true, allIssued := true }).finishSlot { d with begun := true, allIssued := true } } := by
  have hidle : ¬((s.m.withSlot d.started).hasTx d.started = true ∨ (s.m.withSlot d.started).isBusy d.started = true) := by
    simp [Mach.hasTx_none (m := s.m.withSlot d.started) hs.2.2.1, isBusy_started hs hu]
  have hfirst : SM.advance (s.store, s.m.withSlot d.started) d.started
      = some (s.store, s.m.withSlot { d with begun := true, allIssued := true }) := by
    rw [SM.advance_bktSend (d := d.started) hop, SM.stepBkt, if_neg hidle]
    refine (if_pos (.inl hb)).trans (congrArg (fun k => some (s.store, k)) ?_)
    exact Mach.updSlot_sole (d := d.started) rfl _
  exact exec_finishes hs hu (by rw [hop]; decide) (by rw [hop]; decide) (by rw [hop]; rfl) hfirst rfl hs.2.2.1 rfl rfl
    (by simp [hu.packets, hu.access, hu.done, hu.aborted])

/-- A BKT_SEND reads its part table first. -/
theorem exec_bktSend_reads (hop : d.op = DOp.bktSend) (hw : d.words.length = 8) (hb : SM.buckets d ≠ 0) :
    exec (.descBktSend d.engine d.num) s = .next { s with
      m := (s.m.withSlot { d with begun := true }).fetchLocal (d.w 3) (8 * SM.buckets d) (.table d.engine d.num) } := by
  have hidle : ¬((s.m.withSlot d.started).hasTx d.started = true ∨ (s.m.withSlot d.started).isBusy d.started = true) := by
    simp [Mach.hasTx_none (m := s.m.withSlot d.started) hs.2.2.1, isBusy_started hs hu]
  obtain ⟨out, q, n, hep⟩ := Mach.fetchLocal_ep (s.m.withSlot d.started) (d.w 3) (8 * SM.buckets d) (.table d.engine d.num)
  obtain ⟨k, hk⟩ : ∃ k, k = (s.m.withSlot d.started).fetchLocal (d.w 3) (8 * SM.buckets d) (.table d.engine d.num) := ⟨_, rfl⟩
  rw [← hk] at hep
  have hmore : ¬(SM.buckets d = 0 ∨ 8 + SM.buckets d ≤ 8 + d.next) := by rw [hu.next]; omega
  have hfirst : SM.advance (s.store, s.m.withSlot d.started) d.started = some (s.store, k) := by
    rw [SM.advance_bktSend (d := d.started) hop, SM.stepBkt, if_neg hidle, hk]
    exact (if_neg hmore).trans (if_pos (show d.words.length ≤ 8 by omega))
  have hbusy : k.isBusy d.started = true := by simp [Mach.isBusy, hep, Slot.started]
  have hstuck : SM.advance (s.store, k) d.started = none := by
    rw [SM.advance_bktSend (d := d.started) hop]
    exact if_pos (.inr hbusy)
  have hrun := exec_moves_once hs hu (c := .descBktSend d.engine d.num) (by rw [hop]; decide) (by rw [hop]; decide)
    (by rw [hop]; rfl) hfirst (f := d.started) (by rw [hep]; rfl) rfl rfl hu.allIssued hstuck
  rw [hrun, Mach.epPump_empty (by rw [hep]; exact hs.2.2.1), hk]
  rfl

/-- A CUF_SEND, and a COLL_RECV that waits for units, has only begun. -/
theorem exec_cufSend_begins (hop : d.op = DOp.cufSend) :
    exec (.cufSend d.engine d.num) s = .next { s with m := s.m.withSlot { d with begun := true } } :=
  exec_stuck hs hu (by rw [hop]; decide) (by rw [hop]; decide) (by rw [hop]; rfl) (SM.advance_cufSend (d := d.started) hop)

/-- A COLL_RECV is posted and waits for its units. -/
theorem exec_collRecv_begins (hop : d.op = DOp.collRecv) (hcount : 0 < bitsOf (d.w 5) 0 32) :
    exec (.collRecv d.engine d.num) s = .next { s with m := s.m.withSlot { d with begun := true } } := by
  refine exec_stuck hs hu (by rw [hop]; decide) (by rw [hop]; decide) (by rw [hop]; rfl) ?_
  rw [SM.advance_collRecv (d := d.started) hop]
  exact if_neg (show ¬bitsOf (d.w 5) 0 32 ≤ d.units by rw [hu.units]; omega)

theorem exec_collRecv_ends (hop : d.op = DOp.collRecv) (hcount : bitsOf (d.w 5) 0 32 = 0) :
    exec (.collRecv d.engine d.num) s = .next { s with
      m := (s.m.withSlot { d with begun := true, allIssued := true }).finishSlot { d with begun := true, allIssued := true } } := by
  have hfirst : SM.advance (s.store, s.m.withSlot d.started) d.started
      = some (s.store, s.m.withSlot { d with begun := true, allIssued := true }) := by
    rw [SM.advance_collRecv (d := d.started) hop]
    refine (if_pos (show bitsOf (d.w 5) 0 32 ≤ d.units by rw [hcount]; exact Nat.zero_le _)).trans
      (congrArg (fun k => some (s.store, k)) ?_)
    exact Mach.updSlot_sole (d := d.started) rfl _
  exact exec_finishes hs hu (by rw [hop]; decide) (by rw [hop]; decide) (by rw [hop]; rfl) hfirst rfl hs.2.2.1 rfl rfl
    (by simp [hu.packets, hu.access, hu.done, hu.aborted])

end

theorem Mach.withSlot_self {m : Mach} {d : Slot} (h : m.ep.slots = [d]) : m.withSlot d = m := by rw [Mach.withSlot, ← h]

/-- A descriptor that cannot move leaves the engines at rest. -/
theorem epRun_stuck {x : SM} {d : Slot} (h : x.2.ep.slots = [d]) (hf : x.2.ep.fetch = []) (ht : x.2.ep.tx = [])
    (hi : d.allIssued = false) (hy : x.advance d = none) : SM.epRun x = x := by
  rw [SM.epRun_sole h hf, SM.advanceAll_stuck h hi hy, Mach.epPump_empty ht]

/-- A descriptor that waits for what it has out: what waits to be sent starts. -/
theorem epRun_waits {x : SM} {d : Slot} (h : x.2.ep.slots = [d]) (hf : x.2.ep.fetch = [])
    (hi : (d.begun && !d.allIssued && !d.aborted && !d.done) = false)
    (hw : (d.begun && d.allIssued && d.packets == 0 && d.access == 0 && !d.done && !d.aborted) = false) :
    SM.epRun x = (x.1, x.2.epPump) := by
  rw [SM.epRun_sole h hf, SM.advanceAll_still h hi, Mach.settle_waiting h hw]

/-- The shares of a CUF_SEND whose bytes are at hand. -/
theorem SM.sendShares_now {st : Store} {m : Mach} {d : Slot} (hsrc : d.srcSpace = 1) (hbad : m.ep.scrBad = []) :
    SM.sendShares (st, m.collected (d.waiting 0) []) d
      = (st, m.collected { d with allIssued := true, packets := (planesOf d.planeMask).length }
        ((planesOf d.planeMask).mapIdx fun j pl => (m.collPacket d Op.cufContrib 3 pl 0
          (cufAux (bitsOf (d.w 2) 0 9) (bitsOf (d.w 2) 9 8) (d.w 4))
          (st.scratch.readN (m.scrBase d.ctx + (d.w 3 + j * (d.len / (planesOf d.planeMask).length)))
            (d.len / (planesOf d.planeMask).length)), some (d.w 4 + bitsOf (d.w 2) 33 7)))) := by
  simp only [SM.sendShares]
  rw [Mach.fold_collected (m := m) (d := d) _ (fun j pl => (m.collPacket d Op.cufContrib 3 pl 0
    (cufAux (bitsOf (d.w 2) 0 9) (bitsOf (d.w 2) 9 8) (d.w 4))
    (st.scratch.readN (m.scrBase d.ctx + (d.w 3 + j * (d.len / (planesOf d.planeMask).length)))
      (d.len / (planesOf d.planeMask).length)), some (d.w 4 + bitsOf (d.w 2) 33 7))) st (planesOf d.planeMask) 0 0 [] ?step]
  case step =>
    intro j pl _ c qs
    rw [Nat.zero_add, SM.source_collected hsrc hbad]
    exact congrArg (Prod.mk st) (Mach.issueColl_collected rfl _ _ _ _ _ _ _ _ _)
  simp only [Nat.zero_add, List.nil_append]
  exact congrArg (Prod.mk st) (Mach.updSlot_sole (d := d.waiting (planesOf d.planeMask).length) rfl _)

section
variable {s : State} {d : Slot} (hs : s.m.sole d) (hu : ({ d with begun := false } : Slot).untouched) (hb : d.begun = true)
  (hop : d.op = DOp.cufSend)
include hs hop

/-- A CUF_SEND waits for its opening stitch. -/
theorem exec_cufSendStart_early (hu : d.allIssued = false) (hearly : s.m.epTime.number < d.w 4) :
    exec (.cufSendStart d.engine d.num) s = .next s := by
  obtain ⟨hslot, hslots, htx, hfetch, -⟩ := hs
  have hwait : SM.cufStart (s.store, s.m) d.engine d.num = (s.store, s.m) := by
    rw [SM.cufStart, Mach.findSlot_sole hslots]
    exact if_neg fun h => Nat.not_le.mpr hearly h.2.2.2.2.2
  have hrun : SM.epRun (SM.cufStart (s.store, s.m) d.engine d.num) = (s.store, s.m) := by
    rw [hwait]
    exact epRun_stuck (x := (s.store, s.m)) hslots hfetch htx hu (SM.advance_cufSend hop)
  refine Eq.trans (b := State.unit (s.m.hasSlot d.engine d.num) (s.epGo fun x => x.cufStart d.engine d.num)) rfl ?_
  rw [hslot]
  exact epGo_eq (fun x => x.cufStart d.engine d.num) hrun

include hu hb

/-- At its opening stitch a CUF_SEND queues its share for each plane used. -/
theorem exec_cufSendStart_sends (hdue : d.w 4 ≤ s.m.epTime.number) (hsrc : d.srcSpace = 1) (hbad : s.m.ep.scrBad = [])
    (hplanes : planesOf d.planeMask ≠ []) :
    exec (.cufSendStart d.engine d.num) s = .next { s with
      m := (s.m.collected { d with allIssued := true, packets := (planesOf d.planeMask).length }
        ((planesOf d.planeMask).mapIdx fun j pl => (s.m.collPacket d Op.cufContrib 3 pl 0
          (cufAux (bitsOf (d.w 2) 0 9) (bitsOf (d.w 2) 9 8) (d.w 4))
          (s.store.scratch.readN (s.m.scrBase d.ctx + (d.w 3 + j * (d.len / (planesOf d.planeMask).length)))
            (d.len / (planesOf d.planeMask).length)), some (d.w 4 + bitsOf (d.w 2) 33 7)))).epPump } := by
  obtain ⟨hslot, hslots, htx, hfetch, -⟩ := hs
  obtain ⟨n, hn⟩ : ∃ n, n = s.m.collected { d with allIssued := true, packets := (planesOf d.planeMask).length }
        ((planesOf d.planeMask).mapIdx fun j pl => (s.m.collPacket d Op.cufContrib 3 pl 0
          (cufAux (bitsOf (d.w 2) 0 9) (bitsOf (d.w 2) 9 8) (d.w 4))
          (s.store.scratch.readN (s.m.scrBase d.ctx + (d.w 3 + j * (d.len / (planesOf d.planeMask).length)))
            (d.len / (planesOf d.planeMask).length)), some (d.w 4 + bitsOf (d.w 2) 33 7))) := ⟨_, rfl⟩
  rw [← hn]
  have hself' : SM.sendShares (s.store, s.m) d = SM.sendShares (s.store, s.m.collected (d.waiting 0) []) d := by
    rw [Slot.waiting, show 0 = d.packets from hu.packets.symm, Mach.collected_nil htx, Mach.withSlot_self hslots]
  have hdue' : d.op = DOp.cufSend ∧ d.begun = true ∧ (!d.allIssued) = true ∧ (!d.aborted) = true ∧ (!d.done) = true ∧
      SM.cufOpen d ≤ s.m.epTime.number :=
    ⟨hop, hb, by simp [show d.allIssued = false from hu.allIssued], by simp [show d.aborted = false from hu.aborted],
      by simp [show d.done = false from hu.done], hdue⟩
  have hsend : SM.cufStart (s.store, s.m) d.engine d.num = (s.store, n) := by
    have hstart : SM.cufStart (s.store, s.m) d.engine d.num = SM.sendShares (s.store, s.m) d := by
      rw [SM.cufStart, Mach.findSlot_sole hslots]
      exact if_pos hdue'
    rw [hstart, hself', hn]
    exact SM.sendShares_now hsrc hbad
  have hrun : SM.epRun (SM.cufStart (s.store, s.m) d.engine d.num) = (s.store, n.epPump) := by
    rw [hsend]
    refine epRun_waits (x := (s.store, n)) (d := { d with allIssued := true, packets := (planesOf d.planeMask).length })
      (by rw [hn]; rfl) (by rw [hn]; exact hfetch) (by simp) (by simpa using fun _ h => absurd h hplanes)
  refine Eq.trans (b := State.unit (s.m.hasSlot d.engine d.num) (s.epGo fun x => x.cufStart d.engine d.num)) rfl ?_
  rw [hslot]
  exact epGo_eq (fun x => x.cufStart d.engine d.num) hrun

end

/-! ### The part table of a BKT_SEND -/

/-- The low words of a descriptor whose part table has been read. -/
theorem w_append {d : Slot} (hw : d.words.length = 8) (ws : List Nat) {k : Nat} (hk : k < 8) :
    ({ d with words := d.words ++ ws } : Slot).w k = d.w k := by
  exact List.getD_append _ _ _ _ (by omega)

/-- Clearing bit 11 of a word leaves the bits above. -/
theorem bitsOf_clear (v lo n : Nat) (h : 12 ≤ lo) : bitsOf (v - bitsOf v 11 1 * 2 ^ 11) lo n = bitsOf v lo n := by
  obtain ⟨k, rfl⟩ := Nat.exists_eq_add_of_le h
  have hhigh : (v - bitsOf v 11 1 * 2 ^ 11) / 2 ^ 12 = v / 2 ^ 12 := by
    simp only [bitsOf]
    omega
  simp only [bitsOf, Nat.pow_add, ← Nat.div_div_eq_div_mul, hhigh] at *

/-- A descriptor that takes its bytes from local memory. -/
def Slot.fromLocal (e : Slot) : Slot := { e with words := e.words.set 0 (e.w 0 - bitsOf (e.w 0) 11 1 * 2 ^ 11) }

theorem Slot.fromLocal_w (e : Slot) (h : e.words ≠ []) : e.fromLocal.w 0 = e.w 0 - bitsOf (e.w 0) 11 1 * 2 ^ 11 := by
  obtain ⟨v, vs, hv⟩ := List.exists_cons_of_ne_nil h
  simp [Slot.fromLocal, Slot.w, hv]

theorem Slot.fromLocal_stream (e : Slot) (h : e.words ≠ []) : e.fromLocal.stream = e.stream := by
  rw [Slot.stream, e.fromLocal_w h, bitsOf_clear _ _ _ (by decide), Slot.stream]

theorem Slot.fromLocal_srcSpace (e : Slot) (h : e.words ≠ []) : e.fromLocal.srcSpace = 0 := by
  rw [Slot.srcSpace, e.fromLocal_w h]
  simp only [bitsOf]
  omega

/-- A part table of one entry that has been read, all of it in the local window. -/
theorem SM.tableRead_inside {m : Mach} {d read : Slot} {bs : List Byte} (hs : m.ep.slots = [d]) (hb : SM.buckets d = 1)
    (hlen : bs.length = 8) (hread : read = { d with words := d.words ++ [ofLeBytes bs] })
    (hin : m.inLocal d.ctx (SM.partOf read 0).1 (SM.partOf read 0).2 = true) : SM.tableRead m d bs = m.withSlot read := by
  have hbytes : (bs.drop (8 * 0)).take 8 = bs := by simp [← hlen]
  have hall : ((List.range 1).all fun b => m.inLocal d.ctx (SM.partOf read b).1 (SM.partOf read b).2) = true := by
    simpa using hin
  have hwords : (List.range (SM.buckets d)).map (fun i => ofLeBytes ((bs.drop (8 * i)).take 8)) = [ofLeBytes bs] := by
    rw [hb, List.range_one, List.map_singleton, hbytes]
  rw [SM.tableRead, hwords, hb]
  rw [← hread, if_pos hall, Mach.updSlot_sole hs, hread]

/-- A part table with an entry outside the local window ends its descriptor. -/
theorem SM.tableRead_outside {m : Mach} {d read : Slot} {bs : List Byte} (hb : SM.buckets d = 1)
    (hlen : bs.length = 8) (hread : read = { d with words := d.words ++ [ofLeBytes bs] })
    (hout : m.inLocal d.ctx (SM.partOf read 0).1 (SM.partOf read 0).2 = false) :
    SM.tableRead m d bs = m.slotStop d.engine d.num fun t => { t with other := Done.badLocal } := by
  have hbytes : (bs.drop (8 * 0)).take 8 = bs := by simp [← hlen]
  have hall : ¬((List.range 1).all fun b => m.inLocal d.ctx (SM.partOf read b).1 (SM.partOf read b).2) = true := by
    simpa using hout
  have hwords : (List.range (SM.buckets d)).map (fun i => ofLeBytes ((bs.drop (8 * i)).take 8)) = [ofLeBytes bs] := by
    rw [hb, List.range_one, List.map_singleton, hbytes]
  rw [SM.tableRead, hwords, hb]
  rw [← hread, if_neg hall]

/-- A BKT_SEND of one bucket whose part table is being read, with nothing else in the engines. -/
structure State.readsTable (s : State) (d : Slot) (q : MpReq) (id : Nat) : Prop where
  slots : s.m.ep.slots = [d]
  port : s.m.ep.mp = [q]
  tx : s.m.ep.tx = []
  host : s.m.ep.host = []
  fetch : s.m.ep.fetch = [{ id := id, out := 1, use := .table d.engine d.num }]
  fresh : ({ d with begun := false } : Slot).untouched
  begun : d.begun = true
  op : d.op = DOp.bktSend
  words : d.words.length = 8
  one : SM.buckets d = 1
  cmd : q.cmd = 0
  len : q.len = 8
  use : q.use = .fetch id 0

/-- The machine when the part table has been given. -/
def Mach.tableGiven (m : Mach) : Mach := { m with ep := { m.ep with mp := [], fetch := [] } }

section
variable {s : State} {d : Slot} {q : MpReq} {id : Nat} (h : s.readsTable d q id)
include h

/-- What the engines run from when the part table has been answered. -/
theorem State.readsTable.given {n : Mach} (hn : SM.tableRead s.m.tableGiven d (s.store.loc.readN q.addr 8) = n) {f : Slot}
    (hf : n.ep.slots = [f]) {y : SM} (hy : SM.advanceAll (SM.moves f) (s.store, n) f.engine f.num = y) :
    exec (.mpResponse q.tag 0) s = .next { s with store := y.1, m := y.2.epPump } := by
  have hanswer := SM.mpAnswer_fetch (x := (s.store, s.m)) h.port (SM.memEffect_read h.cmd) h.use
  have hrun : SM.epRun (SM.mpAnswer (s.store, s.m) q.tag 0) = (y.1, y.2.epPump) := by
    rw [hanswer]
    have hgather : s.m.ep.fetch.map (fun f => if f.id = id then { f with
        out := f.out - 1, pieces := f.pieces ++ [(0, s.store.loc.readN q.addr q.len)] } else f)
        = [{ id := id, out := 0, pieces := [(0, s.store.loc.readN q.addr 8)], use := .table d.engine d.num }] := by
      rw [h.fetch, h.len]
      simp
    obtain ⟨g, hg⟩ : ∃ g : Mach, g = s.m.mpDone.setEp { s.m.mpDone.ep with fetch := s.m.ep.fetch.map fun f =>
      if f.id = id then { f with out := f.out - 1, pieces := f.pieces ++ [(0, s.store.loc.readN q.addr q.len)] } else f } :=
      ⟨_, rfl⟩
    have hfetch := (congrArg (fun m : Mach => m.ep.fetch) hg).trans hgather
    have hclear : g.setEp { g.ep with fetch := [] } = s.m.tableGiven := by
      rw [hg]
      simp only [Mach.setEp, Mach.mpDone, Mach.tableGiven]
    have hgiven := SM.fetched_table (x := (s.store, g)) hfetch rfl rfl rfl
      (Mach.findSlot_sole (d := d) (by rw [hg]; exact h.slots)) h.fresh.aborted h.fresh.done
    rw [hclear, hn] at hgiven
    have hrest := SM.epRun_gathered (d := f) hfetch rfl hgiven hf
    rw [← hg]
    rw [hy] at hrest
    exact hrest
  exact epGo_eq (fun x => x.mpAnswer q.tag 0) hrun

/-- A part table with an entry outside the local window ends its descriptor with status 4. -/
theorem State.readsTable.outside {read : Slot}
    (hread : read = { d with words := d.words ++ [ofLeBytes (s.store.loc.readN q.addr 8)] })
    (hout : s.m.inLocal d.ctx (SM.partOf read 0).1 (SM.partOf read 0).2 = false) {f : Slot}
    (hf : f = { d with other := Done.badLocal, allIssued := true }) :
    exec (.mpResponse q.tag 0) s = .next { s with m := (s.m.tableGiven.withSlot f).finishSlot f } := by
  have hfresh := h.fresh
  have hstatus : ({ d with other := Done.badLocal } : Slot).status = Done.badLocal := by
    have haborted : d.aborted = false := hfresh.aborted
    have hpoisoned : d.poisoned = false := hfresh.poisoned
    have hnacked : d.nacked = none := hfresh.nacked
    have hprior : d.priorFailed = false := hfresh.priorFailed
    simp [Slot.status, haborted, hpoisoned, hnacked, hprior]
  have hopen : (d.begun && d.packets == 0 && d.access == 0 && !d.done && !d.aborted) = true := by
    rw [h.begun, show d.packets = 0 from hfresh.packets, show d.access = 0 from hfresh.access,
      show d.done = false from hfresh.done, show d.aborted = false from hfresh.aborted]
    rfl
  have hstop := Mach.slotStop_sole (m := s.m.tableGiven) (e := d) h.slots h.tx (fun t => { t with other := Done.badLocal })
    (by rw [show ({ d with other := Done.badLocal } : Slot).op = d.op from rfl, h.op]; decide) rfl rfl
  have hends := Mach.slotStop_ends (m := s.m.tableGiven) (d := d) h.slots h.tx (fun t => { t with other := Done.badLocal })
    (.inl (by rw [show ({ d with other := Done.badLocal } : Slot).op = d.op from rfl, h.op]; decide)) rfl rfl hopen
    (by rw [hstatus]; decide)
  have hsettle : (s.m.tableGiven.withSlot f).settle d.engine d.num = (s.m.tableGiven.withSlot f).finishSlot f := by
    have := Mach.settle_finished (m := s.m.tableGiven.withSlot f) (d := f) rfl (by
      rw [hf]
      simp only [Bool.and_eq_true] at hopen ⊢
      obtain ⟨⟨⟨⟨hb, hp⟩, ha⟩, hd⟩, hab⟩ := hopen
      exact ⟨⟨⟨⟨⟨hb, trivial⟩, hp⟩, ha⟩, hd⟩, hab⟩)
    rwa [show f.engine = d.engine by rw [hf], show f.num = d.num by rw [hf]] at this
  have htable := SM.tableRead_outside (m := s.m.tableGiven) h.one (readN_length ..) hread hout
  obtain ⟨n, hn⟩ : ∃ n, n = (s.m.tableGiven.withSlot f).finishSlot f := ⟨_, rfl⟩
  have hstopped : s.m.tableGiven.slotStop d.engine d.num (fun t => { t with other := Done.badLocal }) = n := by
    rw [hstop, ← hf, hsettle, hn]
  obtain ⟨e, he⟩ : ∃ e, e = Mach.ended { d with other := Done.badLocal, allIssued := true } := ⟨_, rfl⟩
  have hend : n = (s.m.tableGiven.withSlot e).bump .ep (Pg.eng d.engine) R.ep4EngDescCnt := by
    rw [← hstopped, hends, he]
  have hslots : n.ep.slots = [e] := by rw [hend, Mach.bump_ep]; rfl
  have htx : n.ep.tx = [] := by rw [hend, Mach.bump_ep]; exact h.tx
  have hall : SM.advanceAll (SM.moves e) (s.store, n) e.engine e.num = (s.store, n) := by
    have hdone : e.done = true := by rw [he]; rfl
    rw [SM.advanceAll_still (x := (s.store, n)) hslots (by simp [hdone]), Mach.settle_waiting hslots (by simp [hdone])]
  have hrun := h.given (htable.trans hstopped) hslots hall
  rw [Mach.epPump_empty htx] at hrun
  rw [hrun, hn]

/-- A part table that lies in the local window has its first part sent. -/
theorem State.readsTable.sends {read : Slot}
    (hread : read = { d with words := d.words ++ [ofLeBytes (s.store.loc.readN q.addr 8)] })
    (hin : s.m.inLocal d.ctx (SM.partOf read 0).1 (SM.partOf read 0).2 = true) {n : Mach} {f : Slot}
    (hadv : SM.stepBkt (s.store, s.m.tableGiven.withSlot read) read = some (s.store, n)) (hslots : n.ep.slots = [f])
    (hkeys : (f.engine, f.num, f.allIssued, f.op) = (d.engine, d.num, false, DOp.bktSend)) (htx : n.hasTx f = true) :
    exec (.mpResponse q.tag 0) s = .next { s with m := n.epPump } := by
  simp only [Prod.mk.injEq] at hkeys
  obtain ⟨hen, hnum, hissued, hop⟩ := hkeys
  have hrop : read.op = DOp.bktSend := by rw [← h.op, Slot.op, Slot.op, hread, w_append h.words _ (by decide)]
  have htable := SM.tableRead_inside (m := s.m.tableGiven) h.slots h.one (readN_length ..) hread hin
  obtain ⟨k, hk⟩ := SM.moves_pos read
  have hall : SM.advanceAll (SM.moves read) (s.store, s.m.tableGiven.withSlot read) read.engine read.num = (s.store, n) := by
    have hre : read.engine = d.engine ∧ read.num = d.num := by rw [hread]; exact ⟨rfl, rfl⟩
    rw [hk]
    refine (SM.advanceAll_move (x := (s.store, s.m.tableGiven.withSlot read)) (d := read) rfl
      (by rw [hread]; exact h.begun) (by rw [hread]; exact h.fresh.allIssued) (by rw [hread]; exact h.fresh.aborted)
      (by rw [hread]; exact h.fresh.done) ((SM.advance_bktSend hrop).trans hadv)).trans ?_
    have hstuck : SM.advance (s.store, n) f = none := by
      rw [SM.advance_bktSend hop]
      exact if_pos (.inl htx)
    have := SM.advanceAll_stuck (x := (s.store, n)) (d := f) (n := k + 7) hslots hissued hstuck
    rwa [hen, hnum, ← hre.1, ← hre.2] at this
  exact h.given htable rfl hall

/-- The first move of a BKT_SEND whose part table has been read is to send its first part. -/
theorem State.readsTable.step {read : Slot}
    (hread : read = { d with words := d.words ++ [ofLeBytes (s.store.loc.readN q.addr 8)] }) {k : Mach}
    (hsend : (if (SM.partOf read 0).2 = 0 then
        (s.store, (s.m.tableGiven.withSlot read).issueColl read Op.bktSend 2 (bitsOf (d.w 2) 27 4) (bitsOf (d.w 4) 0 17)
          (bitsOf (d.w 2) 0 10 + bitsOf (d.w 2) 10 8 * 2 ^ 13) 1 none 1 (.now [0]))
      else SM.sendUnit (s.store, s.m.tableGiven.withSlot read)
        { read with words := read.words.set 0 (read.w 0 - bitsOf (read.w 0) 11 1 * 2 ^ 11) } Op.bktSend
        (bitsOf (d.w 2) 27 4) (bitsOf (d.w 2) 0 10 + bitsOf (d.w 2) 10 8 * 2 ^ 13) 4096 (SM.partOf read 0).1
        (SM.partOf read 0).2) = (s.store, k)) :
    SM.stepBkt (s.store, s.m.tableGiven.withSlot read) read
      = some (s.store, k.updSlot d.engine d.num fun t => { t with next := 1 }) := by
  have hw2 : read.w 2 = d.w 2 := by rw [hread, w_append h.words _ (by decide)]
  have hw4 : read.w 4 = d.w 4 := by rw [hread, w_append h.words _ (by decide)]
  have hlen : read.words.length = 9 := by rw [hread]; simp [h.words]
  have hnext : read.next = 0 := by rw [hread]; exact h.fresh.next
  have hbuckets : SM.buckets read = 1 := by rw [SM.buckets, hw2]; exact h.one
  have hkeys : read.engine = d.engine ∧ read.num = d.num := by rw [hread]; exact ⟨rfl, rfl⟩
  have haccess : read.access = 0 := by rw [hread]; exact h.fresh.access
  have htx := Mach.hasTx_none (m := s.m.tableGiven.withSlot read) h.tx read
  have hbusy : (s.m.tableGiven.withSlot read).isBusy read = false := by
    have hhost : (s.m.tableGiven.withSlot read).ep.host = [] := h.host
    have hfetch : (s.m.tableGiven.withSlot read).ep.fetch = [] := rfl
    simp [Mach.isBusy, haccess, hhost, hfetch]
  rw [SM.stepBkt, if_neg (by simp [htx, hbusy]), if_neg (by rw [hbuckets, hnext]; decide), if_neg (by rw [hlen]; decide)]
  dsimp only
  rw [hnext, hw2, hw4]
  simp only [Nat.zero_mod, Nat.zero_mul, Nat.add_zero, Nat.zero_add]
  refine (congrArg (fun x : SM => some (x.1, x.2.updSlot read.engine read.num fun t => { t with next := 1 })) hsend).trans ?_
  rw [hkeys.1, hkeys.2]

/-- What the descriptor keeps when its part has been sent. -/
theorem State.readsTable.keys {read now : Slot}
    (hread : read = { d with words := d.words ++ [ofLeBytes (s.store.loc.readN q.addr 8)] })
    (hnow : now = { read with next := 1, packets := 1 }) :
    (now.engine, now.num, now.allIssued, now.op) = (d.engine, d.num, false, DOp.bktSend) := by
  have hissued : d.allIssued = false := h.fresh.allIssued
  have hop : now.op = d.op := by
    rw [hnow, Slot.op, hread]
    exact congrArg (fun v => bitsOf v 0 8) (w_append h.words _ (by decide))
  rw [hop, h.op, hnow, hread, ← hissued]

/-- A part without elements is sent as one byte of padding. -/
theorem State.readsTable.sends_padding {read now : Slot}
    (hread : read = { d with words := d.words ++ [ofLeBytes (s.store.loc.readN q.addr 8)] })
    (hnow : now = { read with next := 1, packets := 1 })
    (hin : s.m.inLocal d.ctx (SM.partOf read 0).1 (SM.partOf read 0).2 = true) (hzero : (SM.partOf read 0).2 = 0) :
    exec (.mpResponse q.tag 0) s = .next { s with
      m := (s.m.tableGiven.collected now [(s.m.collPacket d Op.bktSend 2 (bitsOf (d.w 2) 27 4) (bitsOf (d.w 4) 0 17)
        (bitsOf (d.w 2) 0 10 + bitsOf (d.w 2) 10 8 * 2 ^ 13) [0], none)]).epPump } := by
  have hpackets : read.packets = 0 := by rw [hread]; exact h.fresh.packets
  have hissue := Mach.issueColl_collected (m := s.m.tableGiven) (d := read) (e := read) rfl [] Op.bktSend 2
    (bitsOf (d.w 2) 27 4) (bitsOf (d.w 4) 0 17) (bitsOf (d.w 2) 0 10 + bitsOf (d.w 2) 10 8 * 2 ^ 13) 1 none [0]
  rw [Mach.collected_nil (m := s.m.tableGiven) h.tx, hpackets, List.nil_append] at hissue
  have hstep := h.step hread ((if_pos hzero).trans (congrArg (Prod.mk s.store) hissue))
  have hstream : read.stream = d.stream := by rw [Slot.stream, hread, w_append h.words _ (by decide)]; rfl
  have hpkt : s.m.tableGiven.collPacket read Op.bktSend 2 (bitsOf (d.w 2) 27 4) (bitsOf (d.w 4) 0 17)
      (bitsOf (d.w 2) 0 10 + bitsOf (d.w 2) 10 8 * 2 ^ 13) [0] = _ := Mach.collPacket_congr (d := d) (by
    rw [hstream, hread]) _ _ _ _ _ _
  refine h.sends hread hin (hstep.trans (congrArg (fun k => some (s.store, k)) ?_)) rfl (h.keys hread hnow)
    (Mach.hasTx_collected (List.cons_ne_nil _ _))
  rw [hpkt, show d.engine = (read.waiting 1).engine by rw [hread]; rfl, show d.num = (read.waiting 1).num by rw [hread]; rfl,
    Mach.collected_updSlot _ _ _ rfl rfl, hnow]
  rfl

/-- A part is gathered from local memory and its packet waits for its bytes. -/
theorem State.readsTable.sends_part {read now : Slot}
    (hread : read = { d with words := d.words ++ [ofLeBytes (s.store.loc.readN q.addr 8)] })
    (hnow : now = { read with next := 1, packets := 1 })
    (hin : s.m.inLocal d.ctx (SM.partOf read 0).1 (SM.partOf read 0).2 = true) (hpos : 0 < (SM.partOf read 0).2)
    (hmax : (SM.partOf read 0).2 ≤ 4096) :
    exec (.mpResponse q.tag 0) s = .next { s with
      m := ((s.m.tableGiven.collected now [(s.m.collPacket d Op.bktSend 2 (bitsOf (d.w 2) 27 4) 0
        (bitsOf (d.w 2) 0 10 + bitsOf (d.w 2) 10 8 * 2 ^ 13) (List.replicate (SM.partOf read 0).2 0), none)] false).fetchLocal
          (SM.partOf read 0).1 (SM.partOf read 0).2 (.tx s.m.ep.nextTx)).epPump } := by
  have hpackets : read.packets = 0 := by rw [hread]; exact h.fresh.packets
  have hwords : read.words ≠ [] := by rw [hread]; simp
  have hstream : read.stream = d.stream := by rw [Slot.stream, hread, w_append h.words _ (by decide)]; rfl
  have hsame := read.fromLocal_stream hwords
  have hsource := SM.source_local (x := (s.store, s.m.tableGiven.withSlot read)) (read.fromLocal_srcSpace hwords) hpos
    (SM.partOf read 0).1
  have hissue := Mach.issueColl_later (m := s.m.tableGiven) (d := read) (e := read.fromLocal) (by rw [hsame]; rfl) Op.bktSend 2
    (bitsOf (d.w 2) 27 4) 0 (bitsOf (d.w 2) 0 10 + bitsOf (d.w 2) 10 8 * 2 ^ 13) (SM.partOf read 0).2 (SM.partOf read 0).1 none
  rw [Mach.collected_nil (m := s.m.tableGiven) h.tx, hpackets] at hissue
  have hunit := SM.sendUnit_one (op := Op.bktSend) (plane := bitsOf (d.w 2) 27 4)
    (aux := bitsOf (d.w 2) 0 10 + bitsOf (d.w 2) 10 8 * 2 ^ 13) hpos hmax hsource
  have hstep := h.step hread ((if_neg (Nat.ne_of_gt hpos)).trans (hunit.trans (congrArg (Prod.mk s.store) hissue)))
  have hpkt : s.m.tableGiven.collPacket read.fromLocal Op.bktSend 2 (bitsOf (d.w 2) 27 4) 0
      (bitsOf (d.w 2) 0 10 + bitsOf (d.w 2) 10 8 * 2 ^ 13) (List.replicate (SM.partOf read 0).2 0) = _ :=
    Mach.collPacket_congr (d := d) (by rw [hsame, hstream, hread]; rfl) _ _ _ _ _ _
  obtain ⟨k, hk⟩ : ∃ k, k = (s.m.tableGiven.collected now [(s.m.collPacket d Op.bktSend 2 (bitsOf (d.w 2) 27 4) 0
    (bitsOf (d.w 2) 0 10 + bitsOf (d.w 2) 10 8 * 2 ^ 13) (List.replicate (SM.partOf read 0).2 0), none)] false).fetchLocal
      (SM.partOf read 0).1 (SM.partOf read 0).2 (.tx s.m.ep.nextTx) := ⟨_, rfl⟩
  obtain ⟨out, mp, next, hep⟩ := Mach.fetchLocal_ep (s.m.tableGiven.collected now [(s.m.collPacket d Op.bktSend 2
    (bitsOf (d.w 2) 27 4) 0 (bitsOf (d.w 2) 0 10 + bitsOf (d.w 2) 10 8 * 2 ^ 13) (List.replicate (SM.partOf read 0).2 0),
      none)] false) (SM.partOf read 0).1 (SM.partOf read 0).2 (.tx s.m.ep.nextTx)
  rw [← hk] at hep ⊢
  refine h.sends hread hin (hstep.trans (congrArg (fun k => some (s.store, k)) ?_)) (f := now) (by rw [hep]; rfl) (h.keys hread hnow) ?_
  · rw [hpkt, Mach.fetchLocal_updSlot, show d.engine = (read.waiting (0 + 1)).engine by rw [hread]; rfl,
      show d.num = (read.waiting (0 + 1)).num by rw [hread]; rfl, Mach.collected_updSlot _ _ _ rfl rfl, hk, hnow]
    rfl
  · have htx : k.ep.tx = _ := congrArg EpSt.tx hep
    rw [Mach.hasTx, htx]
    simp [Mach.collected, List.mapIdx_cons]

end

end Sys2Proof.Machine
end

section
/-! O42: arriving units find their receives, or fault their key (R416, R426). -/

set_option Elab.async false

namespace Sys2Proof.Machine
open Sys2Proof

/-- The store with bytes put into scratch. -/
def Store.putScratch (st : Store) (a : Nat) (bs : List Byte) : Store := { st with scratch := st.scratch.writeN a bs }

namespace Mach

/-- `n` is `m` but for credits, what arrived, and the rates of the planes (R198, R227). -/
structure rated (m n : Mach) : Prop where
  slots : n.ep.slots = m.ep.slots
  tx : n.ep.tx = m.ep.tx
  fetch : n.ep.fetch = m.ep.fetch
  recv : n.ep.recv = m.ep.recv
  scrBad : n.ep.scrBad = m.ep.scrBad
  plane : ∀ p, n.planeOfPort p = m.planeOfPort p
  params : n.epParams = m.epParams
  regs : m.regsKept n .ep (fun k => itemPage k == Pg.eRc)

theorem rated.refl (m : Mach) : m.rated m := ⟨rfl, rfl, rfl, rfl, rfl, fun _ => rfl, rfl, .refl ..⟩

theorem rated.trans {m n o : Mach} (h : m.rated n) (g : n.rated o) : m.rated o :=
  ⟨g.slots.trans h.slots, g.tx.trans h.tx, g.fetch.trans h.fetch, g.recv.trans h.recv, g.scrBad.trans h.scrBad,
    fun p => (g.plane p).trans (h.plane p), g.params.trans h.params, h.regs.trans g.regs⟩

variable {m n : Mach}

/-- What the pages above that of the rates hold, is as before. -/
theorem rated.tfld (h : m.rated n) {page : Nat} (hp : Pg.eRc < page) (sel per e : Nat) (f : Fld) :
    n.tfld .ep page sel per e f = m.tfld .ep page sel per e f := by
  have hpage : (itemPage (item page sel (per * e + f.off)) == Pg.eRc) = false := by
    have hle : page ≤ itemPage (item page sel (per * e + f.off)) := by
      rw [itemPage, Nat.le_div_iff_mul_le (by decide), item, Nat.add_assoc]
      exact Nat.le_add_right ..
    exact beq_false_of_ne (Nat.ne_of_gt (Nat.lt_of_lt_of_le hp hle))
  rw [Mach.tfld, Mach.tfld, live_of_kept h.regs h.params _ hpage]

theorem rated.scrBase (h : m.rated n) (c : Nat) : n.scrBase c = m.scrBase c := by
  rw [Mach.scrBase, Mach.scrBase, allocF, allocF, h.tfld (show Pg.eRc < Pg.eScr by decide)]

theorem rated.inScratch (h : m.rated n) (c a l : Nat) : n.inPlace c 1 a l = m.inPlace c 1 a l := by
  rw [inPlace, inPlace, if_pos rfl, if_pos rfl, Mach.inScratch, Mach.inScratch, allocF, allocF,
    h.tfld (show Pg.eRc < Pg.eScr by decide)]

/-- Returning credits does not change who a port's partner is. -/
theorem rated_returnCredit (m : Mach) (p vc n : Nat) : m.rated (m.returnCredit .ep p vc n) where
  slots := rfl
  tx := rfl
  fetch := rfl
  recv := rfl
  scrBad := rfl
  params := rfl
  regs := .refl ..
  plane q := by
    rw [planeOfPort, planeOfPort, returnCredit, lk_setLk]
    by_cases hq : q = p
    · rw [if_pos hq, hq]
    · rw [if_neg hq]

theorem rated_takeAtEp (m : Mach) (p : Nat) (x : Packet) : m.rated (m.takeAtEp p x) := by
  rw [takeAtEp]
  split
  · exact rated.trans (n := m.collect .ep p x) ⟨rfl, rfl, rfl, rfl, rfl, fun _ => rfl, rfl, .refl ..⟩ (rated_returnCredit ..)
  · exact .refl m

theorem rated_setFld (m : Mach) (f : Fld) (v : Nat) (hf : f.off < 2 ^ 44) : m.rated (m.setFld .ep Pg.eRc f v) :=
  ⟨rfl, rfl, rfl, rfl, rfl, fun _ => rfl, rfl, regsKept_setFld _ _ _ _ _ _ (by simp [item_page _ _ _ hf])⟩

theorem rated_setRates (m : Mach) (rs : List RateEntry) : m.rated (m.setRates rs) :=
  rated.trans (n := { m with ep := { m.ep with rates := rs } }) ⟨rfl, rfl, rfl, rfl, rfl, fun _ => rfl, rfl, .refl ..⟩
    (rated_setFld _ _ _ (by decide))

theorem rated_bump (m : Mach) (o : Nat) (ho : o < 2 ^ 44) : m.rated (m.bump .ep Pg.eRc o) :=
  ⟨rfl, rfl, rfl, rfl, rfl, fun _ => rfl, rfl, regsKept_bump _ _ _ _ _ (by simp [item_page _ _ _ ho])⟩

theorem rated_rateRoom (m : Mach) : m.rated m.rateRoom := by
  rw [rateRoom]
  split
  · exact .refl m
  · exact .trans (rated_setRates ..) (rated_bump _ _ (by decide))

theorem rated_rateCount (m : Mach) (p vc node plane : Nat) (b : Bool) : m.rated (m.rateCount p vc node plane b) := by
  simp only [rateCount]
  split
  · exact rated_setRates ..
  · split
    · exact .refl m
    · exact .trans (rated_rateRoom m) (rated_setRates ..)

end Mach

namespace Mach

/-- What a unit's arrival counts before it finds its receive. -/
def unitRated (m : Mach) (p : Nat) (x : Packet) : Mach :=
  let n := m.takeAtEp p x
  if x.opcode = Op.cufResult then n
  else n.rateCount p 2 (960 + n.planeOfPort p) (n.planeOfPort p) (x.mark == 1)

theorem rated_unitRated (m : Mach) (p : Nat) (x : Packet) : m.rated (m.unitRated p x) := by
  rw [unitRated]
  split
  · exact rated_takeAtEp ..
  · exact .trans (rated_takeAtEp ..) (rated_rateCount ..)

theorem takingUnit_eq (m : Mach) (p : Nat) (x : Packet) : m.takingUnit p x
    = if x.opcode = Op.pltResult ∨ x.opcode = Op.bktDeliver then
        (m.unitRated p x).setEp { (m.unitRated p x).ep with recv := Tbl.set (fun _ => none) (m.unitRated p x).ep.recv p none }
      else m.unitRated p x := rfl

/-- Where a unit's arrival stands as its rates leave it. -/
theorem takingUnit_kept {α : Type} (g : Mach → α) (hg : ∀ k r, g (k.setEp { k.ep with recv := r }) = g k) (m : Mach) (p : Nat)
    (x : Packet) : g (m.takingUnit p x) = g (m.unitRated p x) := by
  rw [takingUnit_eq]
  split
  · exact hg ..
  · rfl

theorem takingUnit_slots (m : Mach) (p : Nat) (x : Packet) : (m.takingUnit p x).ep.slots = m.ep.slots :=
  (takingUnit_kept (fun k => k.ep.slots) (fun _ _ => rfl) m p x).trans (rated_unitRated m p x).slots

theorem takingUnit_tx (m : Mach) (p : Nat) (x : Packet) : (m.takingUnit p x).ep.tx = m.ep.tx :=
  (takingUnit_kept (fun k => k.ep.tx) (fun _ _ => rfl) m p x).trans (rated_unitRated m p x).tx

theorem takingUnit_fetch (m : Mach) (p : Nat) (x : Packet) : (m.takingUnit p x).ep.fetch = m.ep.fetch :=
  (takingUnit_kept (fun k => k.ep.fetch) (fun _ _ => rfl) m p x).trans (rated_unitRated m p x).fetch

theorem takingUnit_scrBad (m : Mach) (p : Nat) (x : Packet) : (m.takingUnit p x).ep.scrBad = m.ep.scrBad :=
  (takingUnit_kept (fun k => k.ep.scrBad) (fun _ _ => rfl) m p x).trans (rated_unitRated m p x).scrBad

theorem takingUnit_scrBase (m : Mach) (p : Nat) (x : Packet) (c : Nat) : (m.takingUnit p x).scrBase c = m.scrBase c :=
  (takingUnit_kept (fun k => k.scrBase c) (fun _ _ => rfl) m p x).trans ((rated_unitRated m p x).scrBase c)

theorem takingUnit_inPlace (m : Mach) (p : Nat) (x : Packet) (c a l : Nat) :
    (m.takingUnit p x).inPlace c 1 a l = m.inPlace c 1 a l :=
  (takingUnit_kept (fun k => k.inPlace c 1 a l) (fun _ _ => rfl) m p x).trans ((rated_unitRated m p x).inScratch c a l)

end Mach

namespace Mach

/-- No descriptor is held and nothing is gathered. -/
def quiet (m : Mach) : Prop := m.ep.slots = [] ∧ m.ep.fetch = []

theorem quiet_setFld {m : Mach} (h : m.quiet) (p : Nat) (f : Fld) (v : Nat) : (m.setFld .ep p f v).quiet := by
  rwa [quiet, setFld_ep]

theorem quiet_setTag {m : Mach} (h : m.quiet) (t : Nat) (x : Option TagSt) : (m.setTag t x).quiet := ⟨h.1, h.2⟩

theorem quiet_removeTx {m : Mach} (h : m.quiet) (i : Nat) : (m.removeTx i).quiet := ⟨h.1, h.2⟩

theorem quiet_pushTx {m : Mach} (h : m.quiet) (x : EpTx) : (m.pushTx x).quiet := ⟨h.1, h.2⟩

theorem quiet_tearCtx {m : Mach} (h : m.quiet) (c : Nat) : (m.tearCtx c).quiet :=
  quiet_setFld (m := m.setEp { m.ep with keys := Tbl.set (fun _ => {}) m.ep.keys c {} }) ⟨h.1, h.2⟩ _ _ _

theorem quiet_abortStart {m : Mach} (h : m.quiet) (c reason : Nat) : (m.abortStart c reason).quiet := by
  have hdef : abortStart = abortStart := rfl
  conv_rhs at hdef => delta abortStart
  rw [congrFun (congrFun (congrFun hdef m) c) reason]
  extract_lets gone m1 q m2 src m3 m4
  have h1 : m1.quiet := foldl_inv quiet _ (fun k x hk => by
    split
    · exact quiet_setTag (quiet_removeTx hk _) ..
    · exact quiet_removeTx hk _) _ h
  clear_value m1
  have h2 : m2.quiet := foldl_inv quiet _ (fun k t hk => by
    split
    · exact quiet_setTag hk ..
    · exact quiet_setTag hk ..) _ h1
  clear_value m2
  have h3 : m3.quiet := ⟨List.map_eq_nil_iff.mpr h2.1, h2.2⟩
  clear_value m3
  have h4 : m4.quiet := quiet_setFld h3 ..
  clear_value m4
  split
  · exact quiet_tearCtx h4 c
  · exact h4

theorem quiet_epFault {m : Mach} (h : m.quiet) (key reason : Nat) (r : Bool) : (m.epFault key reason r).quiet := by
  rw [epFault]
  split
  · split
    · rwa [quiet, bump_ep]
    · exact h
  · exact foldl_inv quiet _ (fun k c hk => quiet_abortStart hk c reason) _ h

theorem quiet_epPfault {m : Mach} (h : m.quiet) (key reason : Nat) : (m.epPfault key reason).quiet := by
  rw [epPfault]
  split
  · exact h
  · exact quiet_epFault (foldl_inv quiet _ (fun k j hk => quiet_pushTx hk _) _ h) key reason false

end Mach

namespace SM

/-- The receive of the one descriptor that fits a unit. -/
theorem recvFor_sole {m : Mach} {d : Slot} {p : Nat} {x : Packet} (hs : m.ep.slots = [d])
    (hr : Tbl.get (fun _ => none) m.ep.recv p = none) (hfit : recvFits d x (m.planeOfPort p) = true) :
    recvFor m p x = { engine := d.engine, slot := d.num } := by
  simp [recvFor, hs, hr, hfit]

theorem recvFor_none {m : Mach} {p : Nat} {x : Packet} (hs : m.ep.slots = [])
    (hr : Tbl.get (fun _ => none) m.ep.recv p = none) : recvFor m p x = { engine := 0, slot := 0, matched := false } := by
  simp [recvFor, hs, hr]

theorem unitInstr_opcode {p : Nat} {x : Packet} {c : Instr} (hc : unitInstr p x = some c) :
    x.opcode = Op.pltResult ∨ x.opcode = Op.bktDeliver ∨ x.opcode = Op.bktDropmap ∨ x.opcode = Op.cufResult := by
  by_contra h
  simp only [not_or] at h
  obtain ⟨h1, h2, h3, h4⟩ := h
  simp [unitInstr, h1, h2, h3, h4] at hc

/-- A unit's command has it taken in at its port. -/
theorem exec_unit {s : State} {p : Nat} {x : Packet} {c : Instr} (hc : unitInstr p x = some c)
    (hp : s.m.hasPort .ep p = true) : exec c s = s.epGo fun y => y.unit p x := by
  have hrun (k : Nat) (hk : x.opcode = k) :
      State.unit (s.m.hasPort .ep p) (s.epGo fun y => if x.opcode = k then y.unit p x else y) = s.epGo fun y => y.unit p x := by
    simp [hp, State.unit, hk]
  simp only [unitInstr] at hc
  split at hc
  · next h => rw [← Option.some.inj hc]; exact hrun _ h
  · split at hc
    · next h => rw [← Option.some.inj hc]; exact hrun _ h
    · split at hc
      · next h => rw [← Option.some.inj hc]; exact hrun _ h
      · split at hc
        · next h => rw [← Option.some.inj hc]; exact hrun _ h
        · exact absurd hc (by simp)

/-- A whole unit that arrives while none is in progress: it goes to its receive, or is counted and faults its key. -/
theorem unit_whole {st : Store} {m : Mach} {p : Nat} {x : Packet} {c : Instr} (hc : unitInstr p x = some c) (hlast : x.last = 1)
    (hr : Tbl.get (fun _ => none) m.ep.recv p = none) :
    SM.unit (st, m) p x =
      if (recvFor (m.unitRated p x) p x).matched then
        match (m.takingUnit p x).findSlot (recvFor (m.unitRated p x) p x).engine (recvFor (m.unitRated p x) p x).slot with
        | some s => if s.aborted ∨ s.done then (st, m.takingUnit p x)
          else SM.recvWrite (st, m.takingUnit p x) s x ((m.takeAtEp p x).planeOfPort p)
        | none => (st, m.takingUnit p x)
      else (st, ((m.takingUnit p x).bump .ep Pg.eId R.ep4UnmatchedCnt).epPfault x.pkey Reason.responseLost) := by
  have hrecv : Tbl.get (fun _ => none) (m.unitRated p x).ep.recv p = none := by rw [(Mach.rated_unitRated m p x).recv, hr]
  have hrated : (if homeVc x.opcode = some 2 then (m.takeAtEp p x).rateCount p 2 (960 + (m.takeAtEp p x).planeOfPort p)
      ((m.takeAtEp p x).planeOfPort p) (x.mark == 1) else m.takeAtEp p x) = m.unitRated p x := by
    rcases unitInstr_opcode hc with h | h | h | h <;> rw [Mach.unitRated, h] <;> rfl
  have hspans : spansPackets x.opcode = decide (x.opcode = Op.pltResult ∨ x.opcode = Op.bktDeliver) := by
    rcases unitInstr_opcode hc with h | h | h | h <;> rw [h] <;> rfl
  have hdef : SM.unit = SM.unit := rfl
  conv_rhs at hdef => delta SM.unit
  rw [congrFun (congrFun (congrFun hdef (st, m)) p) x]
  extract_lets queued m1 plane m2 r started src m3
  have hm1 : m1 = m.takeAtEp p x := rfl
  have hm2 : m2 = m.unitRated p x := by rw [← hrated, ← hm1]
  have hstarted : started = false := by
    show (spansPackets x.opcode && (Tbl.get (fun _ => none) m2.ep.recv p).isSome) = false
    rw [hm2, hrecv]
    exact Bool.and_false _
  have hm3 : m3 = m.takingUnit p x := by
    rw [Mach.takingUnit_eq, ← hm2]
    show (if spansPackets x.opcode = true then m2.setEp { m2.ep with
      recv := Tbl.set (fun _ => none) m2.ep.recv p (if x.last = 1 then none else some r) } else m2) = _
    rw [hspans, hlast]
    simp only [decide_eq_true_eq, if_true]
  have hr' : r = recvFor (m.unitRated p x) p x := by rw [← hm2]
  clear_value m1 m2 m3 started r
  subst hm1 hm2 hm3 hstarted hr'
  rfl

/-- A receive that fits a unit is a posted COLL_RECV. -/
theorem recvFits_posted {d : Slot} {x : Packet} {plane : Nat} (h : recvFits d x plane = true) :
    d.op = DOp.collRecv ∧ d.begun = true ∧ d.aborted = false ∧ d.done = false ∧ d.allIssued = false := by
  simp only [recvFits, Bool.and_eq_true, beq_iff_eq, Bool.not_eq_true'] at h
  obtain ⟨⟨⟨⟨⟨⟨⟨⟨⟨⟨hop, hb⟩, ha⟩, hd⟩, hi⟩, -⟩, -⟩, -⟩, -⟩, -⟩, -⟩ := h
  exact ⟨hop, hb, ha, hd, hi⟩

/-- A sound unit of one packet for scratch stands at its place. -/
theorem recvWrite_scratch {st : Store} {m : Mach} {d : Slot} {x : Packet} {plane : Nat} (hs : m.ep.slots = [d])
    (hlast : x.last = 1) (hpoison : x.poison = 0) (hdst : d.dstSpace = 1) (hbad : m.ep.scrBad = [])
    (hin : m.inPlace d.ctx 1 (recvPlace d x plane) x.length = true) :
    SM.recvWrite (st, m) d x plane
      = (st.putScratch (m.scrBase d.ctx + recvPlace d x plane) x.payload, m.withSlot (d.receiving x plane)) := by
  have hdef : SM.recvWrite = SM.recvWrite := rfl
  conv_rhs at hdef => delta SM.recvWrite
  rw [congrFun (congrFun (congrFun (congrFun hdef (st, m)) d) x) plane]
  extract_lets kind addr late n
  have hn : n = m.withSlot { d.receiving x plane with moved := d.moved } := by
    refine (Mach.updSlot_sole hs _).trans (congrArg m.withSlot ?_)
    rw [hpoison, if_pos hlast, show ((0 : Nat) == 1) = false from rfl, Bool.or_false]
    rfl
  have hin' : n.inPlace d.ctx d.dstSpace addr x.length = true := by rw [hn, hdst]; exact hin
  rw [if_neg (by rw [hpoison]; decide), if_neg (by rw [hin']; decide), hn]
  have hmoved := Mach.updSlot_sole (m := m.withSlot { d.receiving x plane with moved := d.moved })
    (d := { d.receiving x plane with moved := d.moved }) rfl fun s => { s with moved := s.moved + x.length }
  refine (congrArg (fun k => SM.sinkTo (st, k) d d.dstSpace addr x.payload none) hmoved).trans ?_
  exact (if_pos hdst).trans (SM.scrWrite_sound (m := m.withSlot (d.receiving x plane)) hbad)

end SM

/-- A whole unit is written at the place of the receive that it fits. -/
theorem exec_unit_fits {s : State} {p : Nat} {x : Packet} {c : Instr} {d : Slot} (hc : unitInstr p x = some c)
    (hp : s.m.hasPort .ep p = true) (hlast : x.last = 1) (hr : Tbl.get (fun _ => none) s.m.ep.recv p = none)
    (hs : s.m.ep.slots = [d])
    (hfit : SM.recvFits d x (s.m.planeOfPort p) = true) (hpoison : x.poison = 0) (hdst : d.dstSpace = 1)
    (hbad : s.m.ep.scrBad = []) (hin : s.m.inPlace d.ctx 1 (SM.recvPlace d x (s.m.planeOfPort p)) x.length = true) {st : Store}
    (hst : st = s.store.putScratch (s.m.scrBase d.ctx + SM.recvPlace d x (s.m.planeOfPort p)) x.payload) {y : SM}
    (hy : SM.epRun (st, (s.m.takingUnit p x).withSlot (d.receiving x (s.m.planeOfPort p))) = y) :
    exec c s = .next { s with store := y.1, m := y.2 } := by
  obtain ⟨-, -, hab, hdone, -⟩ := SM.recvFits_posted hfit
  obtain ⟨n, hn⟩ : ∃ n, n = s.m.takingUnit p x := ⟨_, rfl⟩
  have hrated := Mach.rated_unitRated s.m p x
  have hslots : n.ep.slots = [d] := by rw [hn, Mach.takingUnit_slots, hs]
  have hfor : SM.recvFor (s.m.unitRated p x) p x = { engine := d.engine, slot := d.num } :=
    SM.recvFor_sole (hrated.slots.trans hs) (by rw [hrated.recv, hr]) (by rw [hrated.plane, hfit])
  have hwrite := SM.recvWrite_scratch (st := s.store) (plane := s.m.planeOfPort p) hslots hlast hpoison hdst
    (by rw [hn, Mach.takingUnit_scrBad, hbad]) (by rw [hn, Mach.takingUnit_inPlace, hin])
  have hbase : n.scrBase d.ctx = s.m.scrBase d.ctx := by rw [hn, Mach.takingUnit_scrBase]
  have hunit : SM.unit (s.store, s.m) p x = (st, n.withSlot (d.receiving x (s.m.planeOfPort p))) := by
    rw [SM.unit_whole hc hlast hr, hfor, ← hn, (Mach.rated_takeAtEp s.m p x).plane]
    dsimp only
    rw [Mach.findSlot_sole hslots]
    dsimp only
    rw [if_pos rfl, if_neg (by simp [hab, hdone]), hwrite, hbase, hst]
  have hrun : SM.epRun (SM.unit (s.store, s.m) p x) = y := by rw [hunit, hn, hy]
  rw [SM.exec_unit hc hp]
  exact epGo_eq (fun z => SM.unit z p x) hrun

/-- A posted receive that waits for units or has its count, and nothing else in the engines. -/
structure Mach.receives (m : Mach) (e : Slot) : Prop where
  slots : m.ep.slots = [e]
  fetch : m.ep.fetch = []
  tx : m.ep.tx = []
  op : e.op = DOp.collRecv
  begun : e.begun = true
  aborted : e.aborted = false
  done : e.done = false
  allIssued : e.allIssued = false
  packets : e.packets = 0
  access : e.access = 0

section
variable {st : Store} {m : Mach} {e : Slot} (h : m.receives e)
include h

/-- A receive that still waits for units leaves the engines at rest. -/
theorem Mach.receives.waits (hcount : ¬bitsOf (e.w 5) 0 32 ≤ e.units) : SM.epRun (st, m) = (st, m) :=
  epRun_stuck (x := (st, m)) h.slots h.fetch h.tx h.allIssued ((SM.advance_collRecv h.op).trans (if_neg hcount))

/-- A receive that has its count completes. -/
theorem Mach.receives.ends (hcount : bitsOf (e.w 5) 0 32 ≤ e.units) {f : Slot} (hf : f = { e with allIssued := true }) :
    SM.epRun (st, m) = (st, (m.withSlot f).finishSlot f) := by
  have hadv := (SM.advance_collRecv (x := (st, m)) h.op).trans (if_pos hcount)
  rw [Mach.updSlot_sole h.slots, ← hf] at hadv
  have hfin : (f.begun && f.allIssued && f.packets == 0 && f.access == 0 && !f.done && !f.aborted) = true := by
    rw [hf]; simp [h.begun, h.packets, h.access, h.done, h.aborted]
  obtain ⟨k, hk⟩ := SM.moves_pos e
  have hall : SM.advanceAll (SM.moves e) (st, m) e.engine e.num = (st, (m.withSlot f).finishSlot f) := by
    rw [hk]
    refine (SM.advanceAll_move (x := (st, m)) h.slots h.begun h.allIssued h.aborted h.done hadv).trans ?_
    have hstill := SM.advanceAll_still (x := (st, m.withSlot f)) (d := f) (n := k + 7) rfl (by rw [hf]; simp)
    rw [Mach.settle_finished (m := m.withSlot f) rfl hfin] at hstill
    rwa [show f.engine = e.engine by rw [hf], show f.num = e.num by rw [hf]] at hstill
  rw [SM.epRun_sole (x := (st, m)) h.slots h.fetch, hall]
  exact congrArg (Prod.mk st) (Mach.epPump_empty (by rw [Mach.finishSlot_tx]; exact h.tx))

end

/-- A unit that no receive fits is counted, and its key faults. -/
theorem exec_unit_unmatched {s : State} {p : Nat} {x : Packet} {c : Instr} (hc : unitInstr p x = some c)
    (hp : s.m.hasPort .ep p = true) (hlast : x.last = 1) (hr : Tbl.get (fun _ => none) s.m.ep.recv p = none)
    (hidle : s.m.epIdle) :
    exec c s = .next { s with
      m := (((s.m.takingUnit p x).bump .ep Pg.eId R.ep4UnmatchedCnt).epPfault x.pkey Reason.responseLost).epPump } := by
  obtain ⟨hslots, htx, hfetch⟩ := hidle
  obtain ⟨n, hn⟩ : ∃ n, n = ((s.m.takingUnit p x).bump .ep Pg.eId R.ep4UnmatchedCnt).epPfault x.pkey Reason.responseLost :=
    ⟨_, rfl⟩
  have hrated := Mach.rated_unitRated s.m p x
  have hunit : SM.unit (s.store, s.m) p x = (s.store, n) := by
    rw [SM.unit_whole hc hlast hr, SM.recvFor_none (hrated.slots.trans hslots) (by rw [hrated.recv, hr]), hn]
    rfl
  have hrun : SM.epRun (SM.unit (s.store, s.m) p x) = (s.store, n.epPump) := by
    rw [hunit]
    have hquiet : ((s.m.takingUnit p x).bump .ep Pg.eId R.ep4UnmatchedCnt).quiet := by
      rw [Mach.quiet, Mach.bump_ep, Mach.takingUnit_slots, Mach.takingUnit_fetch]
      exact ⟨hslots, hfetch⟩
    obtain ⟨hs, hf⟩ := hn ▸ Mach.quiet_epPfault hquiet x.pkey Reason.responseLost
    exact SM.epRun_empty (x := (s.store, n)) hs hf
  rw [SM.exec_unit hc hp, ← hn]
  exact epGo_eq (fun z => SM.unit z p x) hrun

/-- Settles O42: every send's first move queues its packets or waits, and a whole unit goes to its receive or faults its key. -/
theorem collectivesAreSentAndReceived : Obligations.CollectivesAreSentAndReceived := by
  unfold Obligations.CollectivesAreSentAndReceived
  refine ⟨⟨fun s d hs hu hop hbad hsrc => ⟨fun hcap helems hplanes hfits => ?_, fun hcap => ?_⟩,
    fun s d hs hu hop hw => ⟨fun hb => exec_bktSend_ends hs hu hop hb, fun hb => exec_bktSend_reads hs hu hop hw hb⟩,
    fun s d q id hslots hport htx hhost hfetch hu hb hop hw hone hcmd hlen huse => ?_⟩, ?_, ?_, ?_⟩
  · exact exec_pltSend_sends hs hu hop hbad hsrc hcap helems hplanes hfits
  · exact exec_pltSend_ends hs hu hop hcap rfl
  · have h : s.readsTable d q id := ⟨hslots, hport, htx, hhost, hfetch, hu, hb, hop, hw, hone, hcmd, hlen, huse⟩
    exact ⟨fun hin hzero => h.sends_padding rfl rfl hin hzero, fun hin hpos hmax => h.sends_part rfl rfl hin hpos hmax,
      fun hout => h.outside rfl hout rfl⟩
  · intro s d hs hop
    refine ⟨fun hu => exec_cufSend_begins hs hu hop, fun hu hb => ⟨fun hearly => ?_, ?_⟩⟩
    · exact exec_cufSendStart_early hs hop hu.allIssued hearly
    · intro hdue hsrc hbad ps share aux hne _
      exact exec_cufSendStart_sends hs hu hb hop hdue hsrc hbad hne
  · exact fun s d hs hu hop => ⟨fun h => exec_collRecv_begins hs hu hop h, fun h => exec_collRecv_ends hs hu hop h⟩
  · intro s p x c hc hp hlast hr
    refine ⟨fun hfetch htx d hs hfit hac hpk hdst hbad hpoison hin => ?_, fun hidle => exec_unit_unmatched hc hp hlast hr hidle⟩
    obtain ⟨hop, hb, hab, hdone, hissued⟩ := SM.recvFits_posted hfit
    obtain ⟨now, hnow⟩ : ∃ now, now = d.receiving x (s.m.planeOfPort p) := ⟨_, rfl⟩
    have hrecv : ((s.m.takingUnit p x).withSlot now).receives now :=
      ⟨rfl, (Mach.takingUnit_fetch ..).trans hfetch, (Mach.takingUnit_tx ..).trans htx, by rw [hnow]; exact hop,
        by rw [hnow]; exact hb, by rw [hnow]; exact hab, by rw [hnow]; exact hdone, by rw [hnow]; exact hissued,
        by rw [hnow]; exact hpk, by rw [hnow]; exact hac⟩
    have hwords : now.w 5 = d.w 5 := by rw [hnow]; rfl
    have hexec {y : SM} := exec_unit_fits (y := y) hc hp hlast hr hs hfit hpoison hdst hbad hin rfl
    rw [← hnow] at hexec
    dsimp only
    rw [← hnow]
    refine ⟨fun hfew => ?_, fun hcount => ?_⟩
    · exact hexec (hrecv.waits (by rw [hwords]; exact Nat.not_le.mpr hfew))
    · exact hexec (hrecv.ends (by rw [hwords]; exact hcount) rfl)

end Sys2Proof.Machine
end

section
/-! O38: what the answers of the memory port complete, and the completion records (R384, R422, R424). -/

set_option Elab.async false

namespace Sys2Proof.Machine
open Sys2Proof

namespace Mach
variable {m : Mach} {e : Slot}

/-- A completed descriptor keeps its slot as done, or its slot is free. -/
theorem finishSlot_slots (h : m.ep.slots = [e]) :
    (m.finishSlot e).ep.slots = [ended e] ∨ (m.finishSlot e).ep.slots = [] := by
  have hrem (k : Mach) (hk : k.ep.slots = [ended e]) : (k.removeSlot e.engine e.num).ep.slots = [] := by
    simp [removeSlot, setEp, hk, ended]
  have hbase : ((m.updSlot e.engine e.num fun s => { s with complete := true, done := true }).bump .ep (Pg.eng e.engine)
      R.ep4EngDescCnt).ep.slots = [ended e] := by
    rw [updSlot_sole h, bump_ep]
    rfl
  obtain ⟨k, hk, hfin⟩ : ∃ k : Mach, k.ep.slots = [ended e] ∧
      m.finishSlot e = if e.status = 0 ∧ !e.cq then k.removeSlot e.engine e.num else k := by
    refine ⟨_, ?_, rfl⟩
    simp only [apply_ite Mach.ep, bump_ep, ite_self] at hbase ⊢
    exact hbase
  rw [hfin]
  split
  · exact .inr (hrem k hk)
  · exact .inl hk

theorem finishSlot_fetch (m : Mach) (d : Slot) : (m.finishSlot d).ep.fetch = m.ep.fetch := by
  have hupd (k : Mach) (e n : Nat) (f : Slot → Slot) : (k.updSlot e n f).ep.fetch = k.ep.fetch := rfl
  have hrem (k : Mach) (e n : Nat) : (k.removeSlot e n).ep.fetch = k.ep.fetch := rfl
  simp only [finishSlot, apply_ite Mach.ep, apply_ite EpSt.fetch, hrem, bump_ep, hupd, ite_self]

/-- A descriptor that has completed has nothing more to settle. -/
theorem settle_ended {m : Mach} {e : Slot} (h : m.ep.slots = [ended e] ∨ m.ep.slots = []) :
    m.settle e.engine e.num = m := by
  rcases h with h | h
  · exact settle_waiting (d := ended e) h (by simp [ended])
  · simp [settle, findSlot, h]

/-- A tag given a use and freed at once. -/
theorem freeTag_setTag {m : Mach} (ht : m.ep.tx = []) (t : Nat) (x : Option TagSt) (b : Bool) :
    (m.setTag t x).freeTag t b = m.setTag t none := by
  simp [freeTag, setTag, setEp, ht]

/-- The last local write of an answered tag frees it and completes its descriptor. -/
theorem tagDone_last {m : Mach} {d now : Slot} {tag : Nat} {ts : TagSt} (hs : m.ep.slots = [d]) (ht : m.ep.tx = [])
    (hen : ts.engine = d.engine) (hnum : ts.slot = d.num) (hsinks : ts.sinks = 0) (hans : ts.answered = true)
    (hnow : now = { d with packets := d.packets - 1 })
    (hfin : (now.begun && now.allIssued && now.packets == 0 && now.access == 0 && !now.done && !now.aborted) = true) :
    (m.setTag tag (some ts)).tagDone tag = ((m.withSlot now).setTag tag none).finishSlot now := by
  have htag : (m.setTag tag (some ts)).tagOf tag = some ts := by simp [tagOf, setTag, setEp]
  rw [tagDone, htag]
  dsimp only
  rw [if_pos (by simp [hans, hsinks]), freeTag_setTag ht, slotDo, hen, hnum,
    updSlot_sole (m := m.setTag tag none) (d := d) hs, ← hnow]
  have hsettle := settle_finished (m := (m.withSlot now).setTag tag none) (d := now) rfl hfin
  rw [show now.engine = d.engine by rw [hnow], show now.num = d.num by rw [hnow]] at hsettle
  exact hsettle

end Mach

/-- A completed descriptor leaves the engines at rest. -/
theorem epRun_ended {st : Store} {m : Mach} {e : Slot} (hs : m.ep.slots = [Mach.ended e] ∨ m.ep.slots = [])
    (hf : m.ep.fetch = []) (ht : m.ep.tx = []) : SM.epRun (st, m) = (st, m) := by
  rcases hs with h | h
  · exact epRun_still (x := (st, m)) h hf ht (by simp [Mach.ended]) (by simp [Mach.ended])
  · rw [SM.epRun_empty (x := (st, m)) h hf, Mach.epPump_empty ht]

/-- The last write of a descriptor's results completes it. -/
theorem exec_sinks_end {s : State} {q : MpReq} {d now : Slot} {tag : Nat} {ts : TagSt} (hq : s.m.ep.mp = [q])
    (hs : s.m.ep.slots = [d]) (ht : s.m.tagOf tag = some ts) (htx : s.m.ep.tx = []) (hf : s.m.ep.fetch = [])
    (hen : ts.engine = d.engine) (hnum : ts.slot = d.num) (hsinks : ts.sinks = 1) (hans : ts.answered = true)
    (hb : d.begun = true) (hi : d.allIssued = true) (hpk : d.packets = 1) (hac : d.access = 1) (hd : d.done = false)
    (ha : d.aborted = false) (hcmd : q.cmd = 1) (huse : q.use = .sink d.engine d.num (some tag))
    (hnow : now = { d with access := 0, packets := 0 }) :
    exec (.mpResponse q.tag 0) s = .next { s with
      store := { s.store with loc := s.store.loc.writeN q.addr q.data },
      m := ((({ s.m with ep := { s.m.ep with mp := [] } } : Mach).withSlot now).setTag tag none).finishSlot now } := by
  have hanswer := SM.mpAnswer_sink (x := (s.store, s.m)) hq (SM.memEffect_write hcmd) huse ht
  obtain ⟨n, hn⟩ : ∃ n, n = (s.m.mpDone.withSlot now).setTag tag none := ⟨_, rfl⟩
  have hns : n.ep.slots = [now] := by rw [hn]; rfl
  have hkeys : now.engine = d.engine ∧ now.num = d.num := by rw [hnow]; exact ⟨rfl, rfl⟩
  have htag : (((s.m.mpDone.updSlot d.engine d.num fun s => { s with access := s.access - 1 }).setTag tag
      (some { ts with sinks := ts.sinks - 1 })).tagDone tag).settle d.engine d.num = n.finishSlot now := by
    have hfirst := Mach.updSlot_sole (m := s.m.mpDone) hs fun s => { s with access := s.access - 1 }
    have hdone := Mach.tagDone_last (m := s.m.mpDone.withSlot { d with access := d.access - 1 }) (d := { d with access := d.access - 1 })
      (tag := tag) (ts := { ts with sinks := ts.sinks - 1 }) (now := now) rfl htx hen hnum (by rw [hsinks]) hans
      (by rw [hnow, hac, hpk]) (by rw [hnow]; simp [hb, hi, hd, ha])
    rw [hfirst, hdone]
    have hsettled := Mach.settle_ended (Mach.finishSlot_slots hns)
    rw [hkeys.1, hkeys.2, hn] at hsettled
    rw [hn]
    exact hsettled
  have hrun : SM.epRun (SM.mpAnswer (s.store, s.m) q.tag 0)
      = ({ s.store with loc := s.store.loc.writeN q.addr q.data }, n.finishSlot now) := by
    rw [hanswer]
    refine (congrArg (fun k => SM.epRun (_, k)) htag).trans ?_
    exact epRun_ended (Mach.finishSlot_slots hns) (by rw [Mach.finishSlot_fetch, hn]; exact hf)
      (by rw [Mach.finishSlot_tx, hn]; exact htx)
  have hexec : exec (.mpResponse q.tag 0) s = _ := epGo_eq (fun x => x.mpAnswer q.tag 0) hrun
  rw [hexec, hn]
  rfl

/-- Gathered bytes become the payload of the packet that waited for them, which may start. -/
theorem exec_gathered_sends {s : State} {q : MpReq} {f : Fetch} {x : EpTx} (hq : s.m.ep.mp = [q]) (hf : s.m.ep.fetch = [f])
    (hx : s.m.ep.tx = [x]) (hs : s.m.ep.slots = []) (hout : f.out = 1) (hu : f.use = .tx x.id) (hp : f.pieces = [])
    (h0 : f.status = 0) (hcmd : q.cmd = 0) (huse : q.use = .fetch f.id 0) :
    exec (.mpResponse q.tag 0) s = .next { s with m := ({ s.m with ep := { s.m.ep with
      mp := [], fetch := [],
      tx := [{ x with pkt := { x.pkt with payload := s.store.loc.readN q.addr q.len }, ready := true }] } } : Mach).epPump } := by
  obtain ⟨bs, hbs⟩ : ∃ bs, bs = s.store.loc.readN q.addr q.len := ⟨_, rfl⟩
  obtain ⟨g, hg⟩ : ∃ g : Fetch, g = { f with out := 0, pieces := [(0, bs)] } := ⟨_, rfl⟩
  obtain ⟨n, hn⟩ : ∃ n : Mach, n = s.m.mpDone.setEp { s.m.mpDone.ep with fetch := [g] } := ⟨_, rfl⟩
  have hanswer : SM.mpAnswer (s.store, s.m) q.tag 0 = (s.store, n) := by
    rw [SM.mpAnswer_fetch (x := (s.store, s.m)) hq (SM.memEffect_read hcmd) huse, hf, List.map_singleton, if_pos rfl, hn, hg,
      hout, hp, hbs]
    rfl
  have hfetch : n.ep.fetch = [g] := by rw [hn]; rfl
  have hgiven := SM.fetched_tx (x := (s.store, n)) hfetch (t := x) (by rw [hg]; exact hu) (bs := bs) (by rw [hg])
    (by rw [hg]; exact h0) (by rw [hn]; exact hx)
  have hrun := SM.epRun_gathered_empty (x := (s.store, n)) hfetch (by rw [hg]) hgiven (by rw [hn]; exact hs)
  have hexec : exec (.mpResponse q.tag 0) s = _ :=
    epGo_eq (fun x => x.mpAnswer q.tag 0) ((congrArg SM.epRun hanswer).trans hrun)
  rw [hexec, hbs, hn]
  simp only [Mach.setEp, Mach.mpDone]

/-! ### Served requests -/

/-- An access of the one served request is its last, and the request is answered. -/
theorem Mach.serveAnswered_last {m : Mach} {v w : Serve} {bs : List Byte} (hv : m.ep.serve = [v]) (hout : v.out = 1)
    (hst : v.status = 0) (hp : v.pieces = []) (hw : w = { v with out := 0, pieces := [(0, bs)] }) (len : Nat) :
    m.serveAnswered v.id 0 len 0 bs = ((m.setEp { m.ep with serve := [w] }).serveAnswer w).serveAll := by
  have hupd : m.updServe v.id (fun v => { v with
      out := v.out - 1, status := max v.status 0, pieces := v.pieces ++ [(0, bs)],
      badSeg := if (0 : Nat) = 1 then segsOf 0 len ++ v.badSeg else v.badSeg }) = m.setEp { m.ep with serve := [w] } := by
    rw [updServe, hv, List.map_singleton, if_pos rfl, hw, hout, hp, hst]
    rfl
  have hid : w.id = v.id := by rw [hw]
  rw [serveAnswered, hupd]
  have hfind : (m.setEp { m.ep with serve := [w] }).ep.serve.find? (fun u => u.id == v.id) = some w := by
    simp [setEp, hid]
  dsimp only
  rw [hfind]
  dsimp only
  rw [if_pos (by rw [hw])]

namespace Mach

/-- The machine with the answer `x` to request `q` waiting to be sent at a port. -/
def answering (m : Mach) (port : Nat) (q x : Packet) : Mach :=
  m.pushTx { id := 0, pkt := x, port := some port, marked := q.mark == 1 }

/-- A response depends on its chip's epoch alone. -/
theorem response_congr {m n : Mach} {c : Chip} (h : n.epochNow c = m.epochNow c) (q : Packet) (op st ad po ec : Nat)
    (bs : List Byte) : n.response c q op st ad po ec bs = m.response c q op st ad po ec bs := by
  rw [response, response, h]

theorem readSegment_congr {m n : Mach} {c : Chip} (h : n.epochNow c = m.epochNow c) (q : Packet) (off : Nat) (fin bad : Bool)
    (e : Nat) (bs : List Byte) : n.readSegment c q off fin bad e bs = m.readSegment c q off fin bad e bs := by
  rw [readSegment, readSegment, h]

/-- A response of an end-point whose port is up waits to be sent. -/
theorem epRespond_up {m : Mach} {port : Nat} (h : m.isUp .ep port = true) (q x : Packet) :
    m.epRespond port q x = m.answering port q x := if_pos h

/-- A read of one segment. -/
theorem readSegments_one (m : Mach) (c : Chip) (q : Packet) (e : Nat) {bs : List Byte} (h0 : 0 < bs.length)
    (h : bs.length ≤ 4096) : m.readSegments c q [] e bs = [m.readSegment c q 0 true false e bs] := by
  have hone : max (ceilDiv bs.length 4096) 1 = 1 := by rw [ceilDiv]; omega
  simp only [readSegments, hone, List.range_one, List.map_singleton, Nat.mul_zero, List.drop_zero]
  rw [List.take_of_length_le h]
  rfl

section
variable {m : Mach} {w : Serve} (hs : m.ep.serve = [w]) (hst : w.status = 0) (hup : m.isUp .ep w.port = true)
include hs hst hup

theorem serveAnswer_read {bs : List Byte} (hop : w.pkt.opcode = Op.read) (hp : w.pieces = [(0, bs)]) (hbad : w.badSeg = [])
    (h0 : 0 < bs.length) (h : bs.length ≤ 4096) : m.serveAnswer w
      = (m.setEp { m.ep with serve := [] }).answering w.port w.pkt (m.readSegment .ep w.pkt 0 true false 0 bs) := by
  have hgone : m.ep.serve.filter (fun u => u.id != w.id) = [] := by simp [hs]
  have hdata : ((w.pieces.mergeSort fun a b => a.1 ≤ b.1).map (·.2)).flatten = bs := by simp [hp]
  simp only [serveAnswer, hgone, hst, OfNat.zero_ne_ofNat, zero_ne_one, if_false]
  rw [if_pos hop, hdata, hbad, readSegments_one _ _ _ _ h0 h, List.foldl_cons, List.foldl_nil]
  exact epRespond_up (m := m.setEp { m.ep with serve := [] }) hup _ _

theorem serveAnswer_write (hop : w.pkt.opcode = Op.write ∨ w.pkt.opcode = Op.flagWrite) :
    m.serveAnswer w
      = (m.setEp { m.ep with serve := [] }).answering w.port w.pkt (m.response .ep w.pkt Op.writeAck 0 0 0 1 []) := by
  have hgone : m.ep.serve.filter (fun u => u.id != w.id) = [] := by simp [hs]
  have hne : w.pkt.opcode ≠ Op.read ∧ w.pkt.opcode ≠ Op.atomic ∧ w.pkt.opcode ≠ Op.atomicPosted := by
    rcases hop with h | h <;> rw [h] <;> decide
  simp only [serveAnswer, hgone, hst, OfNat.zero_ne_ofNat, zero_ne_one, if_false]
  rw [if_neg hne.1, if_neg hne.2.1, if_neg hne.2.2]
  exact epRespond_up (m := m.setEp { m.ep with serve := [] }) hup _ _

theorem serveAnswer_atomic {bs : List Byte} (hop : w.pkt.opcode = Op.atomic) (hp : w.pieces = [(0, bs)]) :
    m.serveAnswer w
      = (m.setEp { m.ep with serve := [] }).answering w.port w.pkt (m.response .ep w.pkt Op.atomicData 0 0 0 0 bs) := by
  have hgone : m.ep.serve.filter (fun u => u.id != w.id) = [] := by simp [hs]
  have hdata : (w.pieces.map (·.2)).flatten = bs := by simp [hp]
  simp only [serveAnswer, hgone, hst, OfNat.zero_ne_ofNat, zero_ne_one, if_false]
  rw [if_neg (show w.pkt.opcode ≠ Op.read by rw [hop]; decide), if_pos hop, hdata]
  exact epRespond_up (m := m.setEp { m.ep with serve := [] }) hup _ _

end

end Mach

/-- The end-point serves one request, whose one access the memory port answers, and its engines rest. -/
structure State.serves (s : State) (q : MpReq) (v : Serve) : Prop where
  port : s.m.ep.mp = [q]
  idle : s.m.epIdle
  serve : s.m.ep.serve = [v]
  use : q.use = .serve v.id 0
  out : v.out = 1
  status : v.status = 0
  pieces : v.pieces = []
  badSeg : v.badSeg = []
  up : s.m.isUp .ep v.port = true

section
variable {s : State} {q : MpReq} {v : Serve} (h : s.serves q v)
include h

/-- The answer of the access is the answer of the request, which waits to be sent. -/
theorem State.serves.answers {bs : List Byte} {st : Store} (heff : SM.memEffect (s.store, s.m) q 0 = (bs, (st, s.m))) {x : Packet}
    (hx : ∀ (n : Mach) (w : Serve), n.ep.serve = [w] → n.epochNow .ep = s.m.epochNow .ep → n.isUp .ep w.port = true →
      w = { v with out := 0, pieces := [(0, bs)] } →
      n.serveAnswer w = (n.setEp { n.ep with serve := [] }).answering v.port v.pkt x) :
    exec (.mpResponse q.tag 0) s = .next { s with
      store := st,
      m := (({ s.m with ep := { s.m.ep with mp := [], serve := [] } } : Mach).answering v.port v.pkt x).epPump } := by
  obtain ⟨hslots, htx, hfetch⟩ := h.idle
  obtain ⟨w, hw⟩ : ∃ w : Serve, w = { v with out := 0, pieces := [(0, bs)] } := ⟨_, rfl⟩
  obtain ⟨n, hn⟩ : ∃ n : Mach, n = (s.m.mpDone.setEp { s.m.mpDone.ep with serve := [] }).answering v.port v.pkt x := ⟨_, rfl⟩
  have hall : n.serveAll = n := by
    have hnone : n.ep.serve = [] := by rw [hn]; rfl
    rw [Mach.serveAll, hnone]
    rfl
  have hanswer : SM.mpAnswer (s.store, s.m) q.tag 0 = (st, n) := by
    rw [SM.mpAnswer_serve (x := (s.store, s.m)) h.port heff h.use,
      Mach.serveAnswered_last (m := s.m.mpDone) h.serve h.out h.status h.pieces hw]
    refine congrArg (Prod.mk st) ?_
    obtain ⟨k, hk⟩ : ∃ k : Mach, k = s.m.mpDone.setEp { s.m.mpDone.ep with serve := [w] } := ⟨_, rfl⟩
    have hclear : k.setEp { k.ep with serve := [] } = s.m.mpDone.setEp { s.m.mpDone.ep with serve := [] } := by rw [hk]; rfl
    rw [← hk, hx k w (by rw [hk]; rfl) (by rw [hk]; rfl) (by rw [hk, hw]; exact h.up) hw, hclear, ← hn, hall]
  have hrun := SM.epRun_empty (x := (st, n)) (by rw [hn]; exact hslots) (by rw [hn]; exact hfetch)
  have hexec : exec (.mpResponse q.tag 0) s = _ :=
    epGo_eq (fun x => x.mpAnswer q.tag 0) ((congrArg SM.epRun hanswer).trans hrun)
  rw [hexec, hn]
  rfl

theorem State.serves.read (hcmd : q.cmd = 0) (hop : v.pkt.opcode = Op.read) (h0 : 0 < q.len) (hmax : q.len ≤ 4096) :
    exec (.mpResponse q.tag 0) s = .next { s with
      m := (({ s.m with ep := { s.m.ep with mp := [], serve := [] } } : Mach).answering v.port v.pkt
        (s.m.readSegment .ep v.pkt 0 true false 0 (s.store.loc.readN q.addr q.len))).epPump } := by
  refine h.answers (SM.memEffect_read hcmd) fun n w hs hepoch hup hw => ?_
  have hlen := readN_length s.store.loc q.addr q.len
  have hpkt : w.pkt = v.pkt := by rw [hw]
  rw [Mach.serveAnswer_read hs (by rw [hw]; exact h.status) hup (by rw [hpkt]; exact hop) (by rw [hw]) (by rw [hw]; exact h.badSeg)
    (by rw [hlen]; exact h0) (by rw [hlen]; exact hmax), hpkt, Mach.readSegment_congr hepoch, hw]

theorem State.serves.write (hcmd : q.cmd = 1) (hop : v.pkt.opcode = Op.write ∨ v.pkt.opcode = Op.flagWrite) :
    exec (.mpResponse q.tag 0) s = .next { s with
      store := { s.store with loc := s.store.loc.writeN q.addr q.data },
      m := (({ s.m with ep := { s.m.ep with mp := [], serve := [] } } : Mach).answering v.port v.pkt
        (s.m.response .ep v.pkt Op.writeAck 0 0 0 1 [])).epPump } := by
  refine h.answers (SM.memEffect_write hcmd) fun n w hs hepoch hup hw => ?_
  have hpkt : w.pkt = v.pkt := by rw [hw]
  rw [Mach.serveAnswer_write hs (by rw [hw]; exact h.status) hup (by rw [hpkt]; exact hop), hpkt, Mach.response_congr hepoch, hw]

theorem State.serves.atomic (hcmd : q.cmd = 2) (hop : v.pkt.opcode = Op.atomic) :
    exec (.mpResponse q.tag 0) s = .next { s with
      store := { s.store with
        loc := s.store.loc.writeN q.addr (atomicBytes q.modifier (s.store.loc.readN q.addr q.len) q.data) },
      m := (({ s.m with ep := { s.m.ep with mp := [], serve := [] } } : Mach).answering v.port v.pkt
        (s.m.response .ep v.pkt Op.atomicData 0 0 0 0 (s.store.loc.readN q.addr q.len))).epPump } := by
  refine h.answers (SM.memEffect_atomic hcmd) fun n w hs hepoch hup hw => ?_
  have hpkt : w.pkt = v.pkt := by rw [hw]
  rw [Mach.serveAnswer_atomic hs (by rw [hw]; exact h.status) hup (by rw [hpkt]; exact hop) (by rw [hw]), hpkt,
    Mach.response_congr hepoch, hw]

end

/-! ### Completion records -/

namespace SM

theorem leBytes_one (n : Nat) : leBytes 1 n = [BitVec.ofNat 8 n] := rfl

/-- The flags of a completion record, whose bit 0 is the phase of its ring (R422). -/
def recordFlags (d : Slot) (k lg : Nat) : Nat :=
  let b := fun (x : Bool) (i : Nat) => if x then 2 ^ i else 0
  1 - k / 2 ^ lg % 2 + b d.echo 1 + b d.late 2 + b d.padded 3 + b d.truncated 4 + b (decide (0 < d.acks) && !d.unretired) 5

theorem recordFlags_phase (d : Slot) (k lg : Nat) : recordFlags d k lg % 2 = 1 - k / 2 ^ lg % 2 := by
  have heven (b : Bool) (i : Nat) : (if b then 2 ^ (i + 1) else 0) % 2 = 0 := by cases b <;> simp [Nat.pow_succ]
  have hecho := heven d.echo 0
  have hlate := heven d.late 1
  have hpadded := heven d.padded 2
  have htruncated := heven d.truncated 3
  have hacks := heven (decide (0 < d.acks) && !d.unretired) 4
  simp only [Nat.zero_add, Nat.reduceAdd] at hecho hlate hpadded htruncated hacks
  simp only [recordFlags]
  omega

/-- What follows the flags of a completion record and precedes its descriptor's word 1. -/
def recordRest (d : Slot) : List Byte :=
  leBytes 2 (d.nacked.getD 0) ++ leBytes 2 d.planes ++ leBytes 4 (min d.moved (2 ^ 32 - 1)) ++ leBytes 8 d.value

theorem recordBytes_eq (d : Slot) (k lg : Nat) : recordBytes d k lg = leBytes 4 d.index ++ [BitVec.ofNat 8 d.engine,
    BitVec.ofNat 8 d.status, BitVec.ofNat 8 d.op, BitVec.ofNat 8 (recordFlags d k lg)] ++ recordRest d ++ leBytes 8 (d.w 1) := by
  simp only [recordBytes, recordRest, recordFlags, leBytes_one, List.append_assoc, List.cons_append, List.nil_append]

/-- What a completion record tells (R422). -/
theorem recordBytes_fields (d : Slot) (k lg : Nat) :
    (recordBytes d k lg).length = 32 ∧ (recordBytes d k lg).take 4 = leBytes 4 d.index ∧
    (recordBytes d k lg).getD 5 0 = BitVec.ofNat 8 d.status ∧ (recordBytes d k lg).getD 6 0 = BitVec.ofNat 8 d.op ∧
    ((recordBytes d k lg).getD 7 0).toNat % 2 = 1 - k / 2 ^ lg % 2 ∧ (recordBytes d k lg).drop 24 = leBytes 8 (d.w 1) := by
  have hrest : (recordRest d).length = 16 := by simp only [recordRest, List.length_append, leBytes_length]
  have hindex : ∃ a b c e, leBytes 4 d.index = [a, b, c, e] := ⟨_, _, _, _, rfl⟩
  obtain ⟨a, b, c, e, hindex⟩ := hindex
  have hhead := recordBytes_eq d k lg
  rw [hindex] at hhead ⊢
  rw [hhead]
  refine ⟨by simp [hrest, leBytes_length], rfl, rfl, rfl, ?_, ?_⟩
  · show (BitVec.ofNat 8 (recordFlags d k lg)).toNat % 2 = _
    rw [← recordFlags_phase d k lg, BitVec.toNat_ofNat]
    omega
  · exact List.drop_left' (by simp [hrest])

section
variable {m : Mach} {d : Slot} (hs : m.ep.slots = [d])
include hs

/-- The record of the one completed descriptor is written while its ring has room. -/
theorem writeRecord_room (hd : d.done = true) (hw : d.writing = false) (hac : d.access = 0) (hdue : d.cq = true ∨ d.status ≠ 0)
    (hroom : m.cqFull d.ctx = false) :
    writeRecord m d.engine d.num = (m.withSlot { d with writing := true }).mpPush 1
      (m.cqBase d.ctx + 32 * (m.reg .ep (Pg.ctx d.ctx) R.ep4CtxCqProd % 2 ^ m.cqLog d.ctx)) 32 0 0
      (recordBytes d (m.reg .ep (Pg.ctx d.ctx) R.ep4CtxCqProd) (m.cqLog d.ctx)) (.record d.engine d.num) := by
  have hrec : (!(d.cq || d.status != 0)) = false := by rcases hdue with h | h <;> simp [h]
  have hopen : (!d.done || d.writing || (m.ep.slots.any fun t => t.ctx == d.ctx && t.writing) || decide (0 < d.access)
      || m.cqFull d.ctx || !(d.cq || d.status != 0)) = false := by
    rw [hs, hd, hw, hac, hroom, hrec]
    simp [hw]
  rw [writeRecord, Mach.findSlot_sole hs]
  dsimp only
  rw [if_neg (by rw [hopen]; decide), Mach.updSlot_sole hs]
  have hbase : (m.withSlot { d with writing := true }).cqBase d.ctx = m.cqBase d.ctx := rfl
  rw [hbase]

theorem writeRecord_full (hfull : m.cqFull d.ctx = true) : writeRecord m d.engine d.num = m := by
  rw [writeRecord, Mach.findSlot_sole hs]
  dsimp only
  rw [if_pos (by rw [hfull]; simp)]

end

end SM

/-- A descriptor that is done does not move and has settled. -/
theorem epRun_done {st : Store} {m : Mach} {e : Slot} (hs : m.ep.slots = [e]) (hd : e.done = true) (hf : m.ep.fetch = [])
    (ht : m.ep.tx = []) : SM.epRun (st, m) = (st, m) :=
  epRun_still (x := (st, m)) hs hf ht (by simp [hd]) (by simp [hd])

/-- COMPLETION_WRITE runs on an existing slot. -/
theorem exec_completionWrite {s : State} {e n : Nat} (hslot : s.m.hasSlot e n = true) {m : Mach}
    (hw : SM.writeRecord s.m e n = m) (hrun : SM.epRun (s.store, m) = (s.store, m)) :
    exec (.completionWrite e n) s = .next { s with m := m } := by
  refine Eq.trans (b := State.unit (s.m.hasSlot e n) (s.epGo fun x => (x.1, SM.writeRecord x.2 e n))) rfl ?_
  rw [hslot]
  exact epGo_eq (fun x => (x.1, SM.writeRecord x.2 e n)) (by rw [hw, hrun])

namespace Mach

/-- A request that the one descriptor issues at the memory port: its tag, and all that changes. -/
theorem mpPush_withSlot {m n : Mach} {e : Slot} {cmd a l o md : Nat} {bs : List Byte} {u : MpUse}
    (hn : n = (m.withSlot e).mpPush cmd a l o md bs u) :
    ∃ tag, n.ep.mp = m.ep.mp ++ [{ tag := tag, cmd := cmd, addr := a, len := l, ord := o, modifier := md, data := bs, use := u }] ∧
      n.ep.slots = [e] ∧
      n.bare = ({ m with ep := { m.ep with slots := n.ep.slots, mp := n.ep.mp, nextMp := n.ep.nextMp } } : Mach).bare ∧
      ∀ c, n.rf c = m.rf c := by
  obtain ⟨tag, out, hpush⟩ : ∃ tag out, n = ((m.withSlot e).setEp { (m.withSlot e).ep with
      mp := m.ep.mp ++ [{ tag := tag, cmd := cmd, addr := a, len := l, ord := o, modifier := md, data := bs, use := u }],
      nextMp := (tag + 1) % 65536 }).emit out := ⟨_, _, hn⟩
  refine ⟨tag, by rw [hpush]; rfl, by rw [hpush]; rfl, ?_, fun c => by rw [hpush, rf_emit]; cases c <;> rfl⟩
  rw [hpush, emit_bare]
  simp only [bare, setEp, withSlot, emit]

/-- The producer index of a completion ring advances (R424). -/
def produced (m : Mach) (c : Nat) : Mach :=
  m.setReg .ep (Pg.ctx c) R.ep4CtxCqProd ((m.reg .ep (Pg.ctx c) R.ep4CtxCqProd + 1) % 2 ^ 32)

theorem produced_ep (m : Mach) (c : Nat) : (m.produced c).ep = m.ep := ep_of_bare (setReg_bare ..)

theorem touches_produced (m : Mach) (c : Nat) : m.touches (m.produced c) .ep (pageWord (Pg.ctx c) R.ep4CtxCqProd) :=
  touches_setWord _ _ _ _ (beq_self_eq_true _)

/-- The machine when the record of the one descriptor has been written; `wake` has it notify. -/
def recordWritten (m : Mach) (d : Slot) (wake : Bool) : Mach :=
  let n := (m.mpDone.produced d.ctx).setEp { m.mpDone.ep with slots := [] }
  if wake then (n.setEp { n.ep with notify := n.ep.notify ++ [d.ctx] }).emit (.notify d.ctx) else n

/-- The answer of a record's write frees the slot and notifies where it was asked for. -/
theorem recorded_sole {m : Mach} {d : Slot} (hs : m.ep.slots = [d]) {wake : Bool}
    (hwake : wake = (d.irq && m.bit .ep (Pg.ctx d.ctx) F.ep4CtxCqSize_irqEn && !m.ep.notify.contains d.ctx)) :
    SM.recorded m.mpDone d.engine d.num 0 = m.recordWritten d wake := by
  have hfind : m.mpDone.findSlot d.engine d.num = some d := findSlot_sole (m := m.mpDone) hs
  obtain ⟨k, hk⟩ : ∃ k, k = m.mpDone.produced d.ctx := ⟨_, rfl⟩
  have hep : k.ep = m.mpDone.ep := by rw [hk, produced_ep]
  have hother : pageWord (Pg.ctx d.ctx) R.ep4CtxCqProd (item (Pg.ctx d.ctx) 0 F.ep4CtxCqSize_irqEn.off) = false := by
    simp only [pageWord, beq_eq_false_iff_ne, item]
    exact fun h => absurd (Nat.add_left_cancel h) (by decide)
  have htouch := touches_produced m.mpDone d.ctx
  rw [← hk] at htouch
  have hbit : k.bit .ep (Pg.ctx d.ctx) F.ep4CtxCqSize_irqEn = m.bit .ep (Pg.ctx d.ctx) F.ep4CtxCqSize_irqEn := by
    have hkept := fld_of_kept htouch.2.1 (epParams_of_bare htouch.1) (Pg.ctx d.ctx) F.ep4CtxCqSize_irqEn hother
    rw [bit, hkept]
    rfl
  have hgone : k.removeSlot d.engine d.num = k.setEp { m.mpDone.ep with slots := [] } := by
    have hslots : k.ep.slots = [d] := by rw [hep]; exact hs
    rw [removeSlot, hslots, List.filter_cons_of_neg (by simp), List.filter_nil, hep]
  have hcond : (d.irq = true ∧ (k.setEp { m.mpDone.ep with slots := [] }).bit .ep (Pg.ctx d.ctx)
      F.ep4CtxCqSize_irqEn = true ∧ (!m.ep.notify.contains d.ctx) = true) ↔ wake = true := by
    rw [hwake, ← hbit, Bool.and_eq_true, Bool.and_eq_true, and_assoc]
    rfl
  rw [SM.recorded, hfind]
  dsimp only
  rw [if_neg (by decide), if_neg (by decide), ← produced, recordWritten, ← hk, hgone]
  exact if_congr hcond rfl rfl

section
variable (m : Mach) (d : Slot) (wake : Bool)

theorem recordWritten_ep : (m.recordWritten d wake).ep = { m.ep with
    mp := [], slots := [], notify := m.ep.notify ++ if wake then [d.ctx] else [] } := by
  cases wake
  · rw [if_neg Bool.false_ne_true, List.append_nil]
    rfl
  · rfl

theorem recordWritten_driven : (m.recordWritten d wake).driven = (if wake then [.notify d.ctx] else []) ++ m.driven := by
  obtain ⟨k, hk⟩ : ∃ k, k = m.mpDone.produced d.ctx := ⟨_, rfl⟩
  have hdriven : k.driven = m.driven := by rw [hk, produced, setReg, driven_setWord]; rfl
  rw [recordWritten, ← hk, ← hdriven]
  cases wake <;> rfl

theorem recordWritten_bare : (m.recordWritten d wake).bare = ({ m with ep := { m.ep with
    mp := [], slots := [], notify := m.ep.notify ++ if wake then [d.ctx] else [] } } : Mach).bare := by
  obtain ⟨k, hk⟩ : ∃ k, k = m.mpDone.produced d.ctx := ⟨_, rfl⟩
  have hbare : k.bare = m.mpDone.bare := by rw [hk]; exact (touches_produced m.mpDone d.ctx).1
  have hep (e : EpSt) : (k.setEp e).bare = ({ m with ep := e } : Mach).bare :=
    (congrArg (fun n : Mach => n.setEp e) hbare).trans (by simp only [setEp, bare, mpDone])
  have hslots : ({ m.mpDone.ep with slots := [] } : EpSt) = { m.ep with mp := [], slots := [] } := by simp only [mpDone, setEp]
  rw [recordWritten, ← hk, hslots]
  cases wake
  · simp only [Bool.false_eq_true, if_false, List.append_nil]
    exact hep _
  · simp only [if_true]
    exact (emit_bare ..).trans (hep _)

/-- Writing a record touches the producer index alone. -/
theorem recordWritten_rf (c : Chip) : (m.recordWritten d wake).rf c = (m.produced d.ctx).rf c := by
  obtain ⟨k, hk⟩ : ∃ k, k = m.mpDone.produced d.ctx := ⟨_, rfl⟩
  have hrf : k.rf c = (m.produced d.ctx).rf c := by
    rw [hk, produced, produced, setReg, setReg]
    cases c <;> rfl
  rw [recordWritten, ← hk, ← hrf]
  cases wake <;> cases c <;> rfl

theorem recordWritten_kept (f : Nat → Bool) : (m.produced d.ctx).regsKept (m.recordWritten d wake) .ep f := by
  have hparams := epParams_of_bare (recordWritten_bare m d wake)
  exact kept_of_rf (recordWritten_rf ..) (hparams.trans (epParams_of_bare (touches_produced m d.ctx).1).symm) f

theorem recordWritten_produced : (m.recordWritten d wake).storedReg .ep (Pg.ctx d.ctx) R.ep4CtxCqProd
    = (m.reg .ep (Pg.ctx d.ctx) R.ep4CtxCqProd + 1) % 2 ^ 32 := by
  have hword := (recordWritten_kept m d wake noWord).2 (item (Pg.ctx d.ctx) 0 R.ep4CtxCqProd) rfl
  rw [storedReg, hword, produced, word_setReg, if_pos rfl, BitVec.toNat_ofNat, Nat.mod_mod]

end

end Mach

/-- The write of the one descriptor's record is answered. -/
theorem exec_recorded {s : State} {q : MpReq} {d : Slot} (hq : s.m.ep.mp = [q]) (hs : s.m.sole d) (hcmd : q.cmd = 1)
    (huse : q.use = .record d.engine d.num) {wake : Bool}
    (hwake : wake = (d.irq && s.m.bit .ep (Pg.ctx d.ctx) F.ep4CtxCqSize_irqEn && !s.m.ep.notify.contains d.ctx)) :
    exec (.mpResponse q.tag 0) s = .next { s with
      store := { s.store with loc := s.store.loc.writeN q.addr q.data }, m := s.m.recordWritten d wake } := by
  obtain ⟨-, hslots, htx, hfetch, -⟩ := hs
  have hanswer := SM.mpAnswer_record (x := (s.store, s.m)) hq (SM.memEffect_write hcmd) huse
  rw [Mach.recorded_sole hslots hwake] at hanswer
  have hep := Mach.recordWritten_ep s.m d wake
  obtain ⟨n, hn⟩ : ∃ n, n = s.m.recordWritten d wake := ⟨_, rfl⟩
  rw [← hn] at hanswer hep ⊢
  have hrun := epRun_ended (st := { s.store with loc := s.store.loc.writeN q.addr q.data }) (m := n) (e := d)
    (.inr (by rw [hep])) (by rw [hep]; exact hfetch) (by rw [hep]; exact htx)
  exact epGo_eq (fun x => x.mpAnswer q.tag 0) ((congrArg SM.epRun hanswer).trans hrun)

/-- The write of a record is at the memory port. -/
theorem exec_completionWrite_room {s : State} {d : Slot} (hs : s.m.sole d) (hd : d.done = true) (hw : d.writing = false)
    (hac : d.access = 0) (hdue : d.cq = true ∨ d.status ≠ 0) (hroom : s.m.cqFull d.ctx = false) {e : Slot}
    (he : e = { d with writing := true }) {n : Mach}
    (hn : n = (s.m.withSlot e).mpPush 1
      (s.m.cqBase d.ctx + 32 * (s.m.reg .ep (Pg.ctx d.ctx) R.ep4CtxCqProd % 2 ^ s.m.cqLog d.ctx)) 32 0 0
      (SM.recordBytes d (s.m.reg .ep (Pg.ctx d.ctx) R.ep4CtxCqProd) (s.m.cqLog d.ctx)) (.record d.engine d.num)) :
    exec (.completionWrite d.engine d.num) s = .next { s with m := n } := by
  obtain ⟨hslot, hslots, htx, hfetch, -⟩ := hs
  have hwrite := SM.writeRecord_room hslots hd hw hac hdue hroom
  rw [← he, ← hn] at hwrite
  exact exec_completionWrite hslot hwrite (epRun_done (e := e) (by rw [hn]; rfl) (by rw [he]; exact hd) (by rw [hn]; exact hfetch)
    (by rw [hn]; exact htx))

/-- Settles O38: by what each answer is for; a record's write is the one request that it pushes. -/
theorem memoryAnswersAndRecords : Obligations.MemoryAnswersAndRecords := by
  unfold Obligations.MemoryAnswersAndRecords
  refine ⟨⟨?_, ?_, ?_⟩, ?_, ?_⟩
  · intro s q hq d hs tag ts ht htx hf hen hnum hsinks hans hb hi hpk hac hd ha hcmd huse now
    exact exec_sinks_end hq hs ht htx hf hen hnum hsinks hans hb hi hpk hac hd ha hcmd huse rfl
  · intro s q hq f hf x hx hs hout hu hp h0 hcmd huse
    exact exec_gathered_sends hq hf hx hs hout hu hp h0 hcmd huse
  · intro s q hq hidle v hv huse hout hst hp hbad _ hup done old answer
    have h : s.serves q v := ⟨hq, hidle, hv, huse, hout, hst, hp, hbad, hup⟩
    exact ⟨fun hcmd hop h0 hmax => h.read hcmd hop h0 hmax, fun hcmd hop => h.write hcmd hop, fun hcmd hop => h.atomic hcmd hop⟩
  · intro s d hs hd hw hac hdue
    refine ⟨?_, fun hfull => ?_⟩
    · intro hroom hmp k
      obtain ⟨hlen, hindex, hstatus, hop, hphase, hlast⟩ := SM.recordBytes_fields d k (s.m.cqLog d.ctx)
      have hexec := fun n => exec_completionWrite_room (n := n) hs hd hw hac hdue hroom rfl
      obtain ⟨n, hn⟩ : ∃ n, n = (s.m.withSlot { d with writing := true }).mpPush 1
        (s.m.cqBase d.ctx + 32 * (k % 2 ^ s.m.cqLog d.ctx)) 32 0 0 (SM.recordBytes d k (s.m.cqLog d.ctx))
        (.record d.engine d.num) := ⟨_, rfl⟩
      obtain ⟨tag, hmem, hslots, hbare, hrf⟩ := Mach.mpPush_withSlot hn
      have hparams : n.epParams = s.m.epParams := (Mach.epParams_of_bare hbare).trans rfl
      exact ⟨_, hexec n hn, tag, _, hmem.trans (congrArg (· ++ [_]) hmp), hlen, hindex, hstatus, hop, hphase, hlast, hslots, hbare,
        Mach.kept_of_rf (hrf .ep) hparams _, hrf .sx, rfl, rfl⟩
    · exact exec_completionWrite hs.1 (SM.writeRecord_full hs.2.1 hfull) (epRun_done hs.2.1 hd hs.2.2.2.1 hs.2.2.1)
  · intro s q hq d _ hs _ hcmd huse wake
    have hrun := exec_recorded hq hs hcmd huse (wake := wake) rfl
    refine ⟨_, hrun, rfl, ?_, Mach.recordWritten_driven .., Mach.recordWritten_bare .., ?_, ?_, rfl⟩
    · exact Mach.recordWritten_produced ..
    · exact (Mach.touches_produced s.m d.ctx).2.1.trans (Mach.recordWritten_kept ..)
    · exact (Mach.recordWritten_rf ..).trans (Mach.touches_produced s.m d.ctx).2.2

end Sys2Proof.Machine
end

section
/-! O32 fails: nothing bounds the engines of an end-point, and the consumer index of an engine whose number is large enough lies
in another page, where its word is the binding of an engine: a word that only a commit changes. -/

set_option Elab.async false

namespace Sys2Proof.Machine
open Sys2Proof

/-- The engine whose consumer index in context 0 is the binding of the engine with page 0x401. -/
def farEngine : Nat := 2 ^ 46 - 480

theorem cons_farEngine : item (Pg.ctx 0) 0 (R.ep4CtxCons farEngine) = item (Pg.eng 0x3E1) 0 F.ep4EngBind_bound.off := rfl

/-- An end-point of 2^46 engines and 16 contexts.  The far engine is bound to context 0, which is bound and whose local window
has one page; one descriptor is posted to it. -/
def farPosted : State :=
  { m := (((({ Mach.reset with epParams := { engines := 2 ^ 46, ctx16 := 1 } } : Mach).setLive .ep
      (item (Pg.eng farEngine) 0 F.ep4EngBind_bound.off) (BitVec.ofNat 32 (2 ^ 10))).setLive .ep (item Pg.eMp 3 0)
      (BitVec.ofNat 32 (2 ^ 16))).setLive .ep (item Pg.eMp 2 0) 1).setLive .ep (item Pg.eMp 2 2) 1 |>.setReg .ep (Pg.ctx 0)
      (R.ep4CtxDb farEngine) 1
    store := {}, pending := [] }

/-- The descriptor, a NOP, as its take leaves it. -/
def farSlot : Slot :=
  { engine := farEngine, num := 0, order := 0, index := 0, ctx := 0, key := 0, words := List.replicate 8 0, complete := true }

/-- The machine that the take leaves. -/
def farTaken : Mach := farPosted.m.takeInto farEngine 0 0 0 (List.replicate 8 0)

theorem takeDesc_farPosted : SM.takeDesc (farPosted.store, farPosted.m) farEngine 0 = (farPosted.store, farTaken) := rfl

theorem farTaken_slots : farTaken.ep.slots = [farSlot] := rfl

/-- The consumer index has not advanced. -/
theorem descCons_farTaken : farTaken.descCons 0 farEngine = 0 := rfl

/-- Refutes O32: the take of the far engine's descriptor leaves its consumer index as it was. -/
theorem not_descriptorsAreRungTakenAndFenced : ¬ Obligations.DescriptorsAreRungTakenAndFenced := by
  unfold Obligations.DescriptorsAreRungTakenAndFenced
  intro h
  obtain ⟨-, htake, -⟩ := h
  obtain ⟨htaken, -⟩ := htake farPosted farEngine 0 0 rfl ⟨rfl, rfl, rfl⟩ rfl rfl rfl
  have hfree : ¬(farPosted.m.cqHeld farEngine 0 = true ∨ farPosted.m.fenceHeld farEngine = true ∨
      farPosted.m.tagMax ≤ farPosted.m.tagUse farEngine) := by
    rintro (hheld | hheld | hheld)
    · exact Bool.noConfusion hheld
    · exact Bool.noConfusion hheld
    · exact absurd hheld (of_decide_eq_false rfl)
  have hinside : farPosted.m.ringInside 0 farEngine = true := by decide
  have hready : farPosted.m.ctxFault 0 = 0 := rfl
  obtain ⟨t, ht, hcons, -⟩ := htaken hinside hready hfree
  have hrun : SM.epRun (SM.takeDesc (farPosted.store, farPosted.m) farEngine 0) = (farPosted.store, farTaken) := by
    rw [takeDesc_farPosted]
    exact epRun_still (x := (farPosted.store, farTaken)) farTaken_slots rfl rfl rfl rfl
  have hexec : exec (.descriptorTake farEngine 0) farPosted = _ := epGo_eq (fun x => SM.takeDesc x farEngine 0) hrun
  rw [hexec] at ht
  injection ht with ht
  rw [← ht] at hcons
  exact absurd (descCons_farTaken.symm.trans hcons) (by decide)

end Sys2Proof.Machine
end

section
/-! O36 fails: nothing bounds the contexts of an end-point, and the binding of a context whose number is large enough is, in the
register file, the counter of refused key writes: the first refusal makes the context confidential. -/

set_option Elab.async false

namespace Sys2Proof.Machine
open Sys2Proof

/-- The context whose binding is the counter of refused key writes. -/
def farContext : Nat := (item Pg.eHost 0 R.ep4KeyRefusedCnt - item Pg.eMp 3 0) / 4

theorem binding_farContext : item Pg.eMp 3 (4 * farContext + F.ebind_confidential.off) = item Pg.eHost 0 R.ep4KeyRefusedCnt := rfl

/-- An end-point with that context, which has refused 2^17 - 1 key writes. -/
def refusing : State :=
  { m := ({ Mach.reset with epParams := { ctx16 := 2 ^ 46 } } : Mach).setReg .ep Pg.eHost R.ep4KeyRefusedCnt (2 ^ 17 - 1)
    store := {}, pending := [] }

/-- The first word of the key is refused and counted. -/
def refusedOnce : Mach := refusing.m.bump .ep Pg.eHost R.ep4KeyRefusedCnt

theorem keyWrite_refusing : refusing.m.keyWrite farContext 0 0#32 .accel = refusedOnce := if_pos (by decide)

/-- The machine after words 1 to 7 of the key, which are taken. -/
def keyTaken : Mach := [1, 2, 3, 4, 5, 6, 7].foldl (fun m i => m.keyWrite farContext i 0#32 .accel) refusedOnce

theorem keyLoad_refusing : refusing.m.keyLoad farContext 0 .accel = keyTaken := by
  have hwords : List.range 8 = [0, 1, 2, 3, 4, 5, 6, 7] := rfl
  simp only [Mach.keyLoad, Nat.zero_div]
  rw [hwords, List.foldl_cons, keyWrite_refusing]
  rfl

theorem keyTaken_regs : keyTaken.epRegs = refusedOnce.epRegs := rfl

theorem word_refusedOnce : (refusedOnce.word .ep (item Pg.eHost 0 R.ep4KeyRefusedCnt)).toNat = 2 ^ 17 := rfl

theorem word_keyTaken : (keyTaken.word .ep (item Pg.eHost 0 R.ep4KeyRefusedCnt)).toNat = 2 ^ 17 := by
  rw [← word_refusedOnce]
  simp only [Mach.word, Mach.rf, keyTaken_regs]
  rfl

theorem keyTaken_idle : keyTaken.epIdle := ⟨rfl, rfl, rfl⟩

/-- Refutes O36: of the eight words of a key for the plain far context, one is counted as refused. -/
theorem not_hostCopiesMoveAndSealBytes : ¬ Obligations.HostCopiesMoveAndSealBytes := by
  unfold Obligations.HostCopiesMoveAndSealBytes
  intro h
  obtain ⟨-, -, -, hload⟩ := h
  obtain ⟨-, hrefused⟩ := hload refusing farContext 0 .accel rfl ⟨rfl, rfl, rfl⟩
  obtain ⟨t, ht, hcount, -⟩ := hrefused (.inr (.inl rfl))
  have hidle : (refusing.m.keyLoad farContext 0 .accel).epIdle := by rw [keyLoad_refusing]; exact keyTaken_idle
  have hexec : exec (.sessionKeyLoad farContext 0 .accel) refusing = _ :=
    epGoM_idle refusing (fun m => m.keyLoad farContext 0 .accel) hidle
  rw [hexec] at ht
  injection ht with ht
  rw [← ht, keyLoad_refusing] at hcount
  exact absurd (word_keyTaken.symm.trans hcount) (by decide)

end Sys2Proof.Machine
end

section
/-! O40: requests that the end-point and the register service of the switch serve (R90, R370, R388, R439). -/

set_option Elab.async false

namespace Sys2Proof.Machine
open Sys2Proof

/-- The command of a VC0 request serves it by its opcode. -/
theorem exec_request {c : Chip} {p : Nat} {x : Packet} {cmd : Instr} (h : requestInstr c p x = some cmd) (s : State) :
    exec cmd s = s.request x.opcode c p x := by
  unfold requestInstr at h
  split_ifs at h with h1 h2 h3 h4 h5 h6 <;> obtain rfl := Option.some.inj h
  · rw [h1]; rfl
  · rw [h2]; rfl
  · rw [h3]; rfl
  · rw [h4]; rfl
  · rw [h5]; rfl
  · rw [h6]; rfl

theorem exec_request_sx {p : Nat} {x : Packet} {cmd : Instr} (h : requestInstr .sx p x = some cmd) (s : State) (hp : p < 144) :
    exec cmd s = .next { s with m := s.m.sxRequest p x } := by
  have hport : s.m.hasPort .sx p = true := decide_eq_true hp
  rw [exec_request h, State.request, hport, if_neg (not_not_intro rfl)]
  rfl

/-- A request at an idle end-point is served, and what waits to be sent starts. -/
theorem exec_request_ep {p : Nat} {x : Packet} {cmd : Instr} (h : requestInstr .ep p x = some cmd) {s : State}
    (hp : s.m.hasPort .ep p = true) {n : Mach} (hn : s.m.epRequest p x = n) (hs : n.ep.slots = []) (hf : n.ep.fetch = []) :
    exec cmd s = .next { s with m := n.epPump } := by
  rw [exec_request h, State.request, hp, if_neg (not_not_intro rfl)]
  have hrun := SM.epRun_empty (x := (s.store, s.m.epRequest p x)) (by rw [hn]; exact hs) (by rw [hn]; exact hf)
  have hgo := epGo_eq (s := s) (fun y => (y.1, y.2.epRequest p x)) hrun
  rw [hn] at hgo
  exact hgo

/-- A table and two defaults that agree where it is read. -/
theorem Tbl.get_default {α : Type} {f g : Nat → α} {k : Nat} (h : f k = g k) (t : Tbl α) : Tbl.get f t k = Tbl.get g t k := by
  induction t with
  | nil => exact h
  | cons e t ih => rw [Tbl.get, Tbl.get, ih]

namespace Mach
variable {m n : Mach}

/-! ### What taking a packet at the end-point leaves -/

theorem takeAtEp_ep (m : Mach) (p : Nat) (x : Packet) : (m.takeAtEp p x).ep = m.ep := by
  rw [takeAtEp]
  split <;> rfl

theorem takeAtEp_rf (m : Mach) (p : Nat) (x : Packet) (c : Chip) : (m.takeAtEp p x).rf c = m.rf c := by
  rw [takeAtEp]
  split
  · cases c <;> rfl
  · rfl

theorem takeAtEp_params (m : Mach) (p : Nat) (x : Packet) : (m.takeAtEp p x).epParams = m.epParams := by
  rw [takeAtEp]
  split <;> rfl

theorem isUp_takeAtEp (m : Mach) (p : Nat) (x : Packet) (q : Nat) : (m.takeAtEp p x).isUp .ep q = m.isUp .ep q := by
  rw [takeAtEp]
  split
  · rw [isUp, isUp, epCredit, returnCredit, lk_setLk]
    split
    next h => rw [h]; rfl
    · rfl
  · rfl

theorem response_takeAtEp (m : Mach) (p : Nat) (x q : Packet) (op st ad po ec : Nat) (bs : List Byte) :
    (m.takeAtEp p x).response .ep q op st ad po ec bs = m.response .ep q op st ad po ec bs :=
  response_congr (epochNow_congr (takeAtEp_rf ..) (takeAtEp_params ..)) ..

/-- A refusal at a port that is up is the NACK that the end-point would have built at once. -/
theorem epNack_up {p : Nat} (hup : n.isUp .ep p = true) (he : n.epochNow .ep = m.epochNow .ep) (x : Packet) (st : Nat) :
    n.epNack p x st = n.answering p x (m.response .ep x Op.nack st 0 0 0 []) := by
  rw [epNack, epRespond_up hup, response_congr he]

theorem epNack_takeAtEp {p : Nat} (hup : m.isUp .ep p = true) (x : Packet) (st : Nat) :
    (m.takeAtEp p x).epNack p x st = (m.takeAtEp p x).answering p x (m.response .ep x Op.nack st 0 0 0 []) :=
  epNack_up ((isUp_takeAtEp ..).trans hup) (epochNow_congr (takeAtEp_rf ..) (takeAtEp_params ..)) x st

/-! ### Requests of space 0b00 -/

/-- A packet leaves where it waits; its credits are still held. -/
def collected₀ (m : Mach) (p : Nat) (x : Packet) : Mach := if m.waits .ep p x then m.collect .ep p x else m

/-- Its credits are returned. -/
def credited (m : Mach) (p : Nat) (x : Packet) (queued : Bool) : Mach := if queued then m.epCredit p x else m

theorem credited_collected (m : Mach) (p : Nat) (x : Packet) :
    (m.collected₀ p x).credited p x (m.waits .ep p x) = m.takeAtEp p x := by
  rw [credited, collected₀, takeAtEp]
  split <;> rfl

theorem mapWindow_collected (m : Mach) (p : Nat) (x : Packet) : (m.collected₀ p x).mapWindow x = m.mapWindow x := by
  rw [collected₀]
  split <;> rfl

/-- Counting and returning credits do not touch the same words. -/
theorem credited_bump (m : Mach) (p : Nat) (x : Packet) (q : Bool) (page o : Nat) :
    (m.bump .ep page o).credited p x q = (m.credited p x q).bump .ep page o := by
  cases q with
  | false => rfl
  | true =>
    obtain ⟨k, v, hkv⟩ : ∃ k v, ∀ n : Mach, n.word .ep k = m.word .ep k → n.bump .ep page o = n.setWord .ep k v :=
      ⟨item page 0 o, _, fun n hn => by rw [bump, bumpBy, hn]⟩
    have hset (v : Word) : (m.setWord .ep k v).epCredit p x = (m.epCredit p x).setWord .ep k v := rfl
    have hword : (m.epCredit p x).word .ep k = m.word .ep k := word_setLk ..
    exact (congrArg (fun n : Mach => n.epCredit p x) (hkv m rfl)).trans ((hset v).trans (hkv _ hword).symm)

/-- A field of a word that is kept is seen as before. -/
theorem seenFld_of_kept {c : Chip} {f : Nat → Bool} (h : m.regsKept n c f) (hp : n.epParams = m.epParams) {page : Nat} {g : Fld}
    (hk : f (item page 0 g.off) = false) : n.seenFld c page g = m.seenFld c page g := by
  have hswap : (n.rf c).swapped = (m.rf c).swapped := by rw [h.1]
  rw [seenFld, seenFld, seen, seen, hswap, Tbl.get_default (live_of_kept h hp _ hk)]

theorem epochNow_bump {page o : Nat} (h : page ≠ Pg.eId) (ho : o < 2 ^ 44) :
    (m.bump .ep page o).epochNow .ep = m.epochNow .ep := by
  have ht := touches_bump m .ep page o (f := pageWord page o) (beq_self_eq_true _)
  exact seenFld_of_kept ht.2.1 (epParams_of_bare ht.1)
    (beq_false_of_ne fun e => h ((item_inj (by decide) ho (by decide) (by decide)).1 e).1.symm)

/-- A request whose window misses is counted and refused. -/
theorem epMemory_miss {p : Nat} {x : Packet} (hup : m.isUp .ep p = true) (h : m.mapWindow x = .error Status.badAddress) :
    (m.collected₀ p x).epMemory p x (m.waits .ep p x)
      = ((m.takeAtEp p x).bump .ep Pg.eMp R.ep4WinMissCnt).answering p x (m.response .ep x Op.nack Status.badAddress 0 0 0 []) := by
  have hfirst : (m.collected₀ p x).epMemory p x (m.waits .ep p x)
      = (((m.collected₀ p x).bump .ep Pg.eMp R.ep4WinMissCnt).credited p x (m.waits .ep p x)).epNack p x Status.badAddress := by
    rw [epMemory, mapWindow_collected, h]
    rfl
  rw [hfirst, credited_bump, credited_collected]
  refine epNack_up ?_ ?_ x _
  · rw [isUp, (touches_bump _ .ep Pg.eMp R.ep4WinMissCnt (f := fun _ => true) rfl).lk, ← isUp, isUp_takeAtEp, hup]
  · rw [epochNow_bump (by decide) (by decide)]
    exact epochNow_congr (takeAtEp_rf ..) (takeAtEp_params ..)

theorem epMemory_denied {p : Nat} {x : Packet} (hup : m.isUp .ep p = true) (h : m.mapWindow x = .error Status.accessDenied) :
    (m.collected₀ p x).epMemory p x (m.waits .ep p x)
      = (m.takeAtEp p x).answering p x (m.response .ep x Op.nack Status.accessDenied 0 0 0 []) := by
  have hfirst : (m.collected₀ p x).epMemory p x (m.waits .ep p x)
      = ((m.collected₀ p x).credited p x (m.waits .ep p x)).epNack p x Status.accessDenied := by
    rw [epMemory, mapWindow_collected, h]
    rfl
  rw [hfirst, credited_collected, epNack_takeAtEp hup]

theorem epMemory_misaligned {p : Nat} {x : Packet} (hup : m.isUp .ep p = true) {w : Nat × Nat} (h : m.mapWindow x = .ok w)
    (hat : isAtomic x.opcode = true) (hoff : x.offset % atomicWidth x.modifier ≠ 0) :
    (m.collected₀ p x).epMemory p x (m.waits .ep p x)
      = (m.takeAtEp p x).answering p x (m.response .ep x Op.nack Status.misaligned 0 0 0 []) := by
  have hfirst : (m.collected₀ p x).epMemory p x (m.waits .ep p x)
      = ((m.collected₀ p x).credited p x (m.waits .ep p x)).epNack p x Status.misaligned := by
    rw [epMemory, mapWindow_collected, h]
    exact if_pos ⟨hat, hoff⟩
  rw [hfirst, credited_collected, epNack_takeAtEp hup]

/-- The request that waits alone to be served. -/
def serving (m : Mach) (v : Serve) : Mach := m.setEp { m.ep with serve := [v], nextServe := m.ep.nextServe + 1 }

/-- A request that its window lets through waits to be served, its credits returned. -/
theorem epMemory_serves {p : Nat} {x : Packet} {w a : Nat} (h : m.mapWindow x = .ok (w, a))
    (hat : isAtomic x.opcode = true → x.offset % atomicWidth x.modifier = 0) (hserve : m.ep.serve = [])
    (h256 : 0 < m.epParams.atom256) :
    (m.collected₀ p x).epMemory p x (m.waits .ep p x)
      = ((m.takeAtEp p x).serving { id := m.ep.nextServe, pkt := x, port := p, window := w, addr := a }).serveAll := by
  have hep : (m.collected₀ p x).ep = m.ep := by rw [collected₀]; split <;> rfl
  have hpar : (m.collected₀ p x).epParams = m.epParams := by rw [collected₀]; split <;> rfl
  have hfull : (isAtomic x.opcode && decide (256 * (m.collected₀ p x).epParams.atom256
      ≤ ((m.collected₀ p x).ep.serve.filter fun v => isAtomic v.pkt.opcode).length)) = false := by
    rw [hep, hpar, hserve]
    simp
    omega
  rw [epMemory, mapWindow_collected, h]
  dsimp only
  rw [if_neg fun hbad => hbad.2 (hat hbad.1), hfull, ← credited, credited_collected]
  simp only [serving, takeAtEp_ep, hserve, List.nil_append, Bool.false_eq_true, if_false, Bool.false_and]

/-- The order of a store alone. -/
def ordAlone (v : Serve) : Nat := if isStore v.pkt.opcode ∧ v.pkt.stream ≠ 63 then 1 else 0

theorem ordFor_alone {v : Serve} (hmp : m.ep.mp = []) : m.ordFor v = some (ordAlone v) := by
  have hrange : (List.range 4095).map (· + 1) = 1 :: ((List.range 4094).map (· + 1)).map (· + 1) := by
    rw [List.range_succ_eq_map, List.map_cons]
  have hfree : ((List.range 4095).map (· + 1)).find? (fun o => !(m.ep.mp.any fun q => q.ord == o)) = some 1 := by
    rw [hrange, List.find?_cons_of_pos (by rw [hmp]; rfl)]
  rw [ordFor, hfree, hmp, ordAlone]
  by_cases hst : isStore v.pkt.opcode = true
  · by_cases h63 : v.pkt.stream = 63
    · rw [if_pos (.inr h63), if_neg fun h => h.2 h63]
    · rw [if_neg (by simp [hst, h63]), if_pos ⟨hst, h63⟩]
      rfl
  · rw [if_pos (.inl (by simp [hst])), if_neg fun h => hst h.1]

theorem mayServe_alone {v : Serve} (hs : m.ep.serve = [v]) (hi : v.issued = false) (h256 : 0 < m.epParams.atom256) :
    m.mayServe v = true := by
  have hearlier : (m.ep.serve.filter fun w => decide (w.id < v.id) && serveStoreOf v.pkt w.pkt) = [] := by
    rw [hs]
    simp
  have hatomics : (m.ep.serve.filter fun w => w.issued && isAtomic w.pkt.opcode) = [] := by
    rw [hs]
    simp [hi]
  have hroom : decide (256 * m.epParams.atom256 ≤ 0) = false := decide_eq_false (by omega)
  rw [mayServe, hearlier, hatomics, List.length_nil, hroom, hi]
  simp

/-- A request that waits alone is answered at once when it has no bytes. -/
theorem serveAll_empty {v : Serve} (hs : m.ep.serve = [v]) (hi : v.issued = false) (hw : v.withheld = false)
    (hmp : m.ep.mp = []) (h256 : 0 < m.epParams.atom256) (h0 : requestBytes v.pkt = 0) : m.serveAll = m.serveAnswer v := by
  have hfind : (m.ep.serve.find? fun w => w.id == v.id) = some v := by rw [hs]; simp
  rw [serveAll, hs, List.map_singleton, List.foldl_cons, List.foldl_nil, serveTry, hfind]
  dsimp only
  rw [if_neg (by rw [mayServe_alone hs hi h256]; decide), ordFor_alone hmp]
  dsimp only
  rw [if_pos h0, hw]
  rfl

/-- A stretch inside one page of local memory is one access. -/
theorem localPieces_one {a n : Nat} (h0 : 0 < n) (h : a % 4096 + n ≤ 4096) : localPieces a n = [(0, n)] := by
  have hk : min (4096 - (a + 0) % 4096) (n - 0) = n := by omega
  rw [localPieces, mpPieces, if_neg (by omega)]
  dsimp only
  rw [hk, Nat.zero_add, mpPieces, if_pos (Nat.le_refl n)]

/-- The command of a served request. -/
theorem serveCmd_atomic (op : Nat) : (if op = Op.read then 0 else if isAtomic op then 2 else 1) = 2 ↔ isAtomic op = true := by
  by_cases hr : op = Op.read
  · rw [if_pos hr, hr]
    decide
  · rw [if_neg hr]
    by_cases ha : isAtomic op = true <;> simp [ha]

/-- A request that waits alone goes to the memory port, there as one access when it lies in one page. -/
theorem serveAll_issues {v : Serve} (hs : m.ep.serve = [v]) (hi : v.issued = false) (hw : v.withheld = false)
    (hmp : m.ep.mp = []) (h256 : 0 < m.epParams.atom256) (h0 : 0 < requestBytes v.pkt)
    (hone : isAtomic v.pkt.opcode = true ∨ v.addr % 4096 + requestBytes v.pkt ≤ 4096) :
    m.serveAll = (m.updServe v.id fun w => { w with issued := true, withheld := false, out := 1 }).mpPush
      (if v.pkt.opcode = Op.read then 0 else if isAtomic v.pkt.opcode then 2 else 1) v.addr (requestBytes v.pkt) (ordAlone v)
      (if isAtomic v.pkt.opcode then v.pkt.modifier else 0)
      (if isAtomic v.pkt.opcode then v.pkt.payload else v.pkt.payload.take (requestBytes v.pkt)) (.serve v.id 0) := by
  have hfind : (m.ep.serve.find? fun w => w.id == v.id) = some v := by rw [hs]; simp
  have hpieces : (if isAtomic v.pkt.opcode then [(0, requestBytes v.pkt)] else localPieces v.addr (requestBytes v.pkt))
      = [(0, requestBytes v.pkt)] := by
    split
    · rfl
    next h => exact localPieces_one h0 (hone.resolve_left h)
  rw [serveAll, hs, List.map_singleton, List.foldl_cons, List.foldl_nil, serveTry, hfind]
  dsimp only
  rw [if_neg (by rw [mayServe_alone hs hi h256]; decide), ordFor_alone hmp]
  dsimp only
  rw [if_neg (Nat.ne_of_gt h0), hw, hpieces, if_neg Bool.false_ne_true]
  simp only [List.foldl_cons, List.foldl_nil, Nat.add_zero, List.length_singleton, List.drop_zero, serveCmd_atomic]

/-- A request at a memory port with nothing out takes the next tag. -/
theorem mpPush_alone (hmp : m.ep.mp = []) (cmd addr len ord modifier : Nat) (data : List Byte) (use : MpUse) {tag : Nat}
    (ht : tag = m.ep.nextMp % 65536) :
    m.mpPush cmd addr len ord modifier data use = { m with
      ep := { m.ep with
        mp := [{ tag := tag, cmd := cmd, addr := addr, len := len, ord := ord, modifier := modifier, data := data, use := use }],
        nextMp := (tag + 1) % 65536 },
      out := .memRequest tag cmd addr len ord modifier false data :: m.out } := by
  have hrange : List.range 65536 = 0 :: (List.range 65535).map Nat.succ := by rw [← List.range_succ_eq_map]
  have hfree : (((List.range 65536).find? fun i => !(m.ep.mp.any fun q => q.tag == (m.ep.nextMp + i) % 65536)).map
      (fun i => (m.ep.nextMp + i) % 65536)).getD 0 = tag := by
    rw [hrange, List.find?_cons_of_pos (by rw [hmp]; rfl), ht]
    rfl
  rw [mpPush, hfree, hmp]
  rfl

end Mach

/-! ### The commands at the end-point -/

section
variable {s : State} {p : Nat} {x : Packet} {cmd : Instr} (hc : requestInstr .ep p x = some cmd)
  (hport : s.m.hasPort .ep p = true) (hidle : s.m.epIdle)
include hc hport hidle

theorem exec_refuses {st : Nat} (hreq : s.m.epRequest p x
    = (s.m.takeAtEp p x).answering p x (s.m.response .ep x Op.nack st 0 0 0 [])) :
    exec cmd s = .next { s with m := ((s.m.takeAtEp p x).answering p x (s.m.response .ep x Op.nack st 0 0 0 [])).epPump } := by
  obtain ⟨hslots, -, hfetch⟩ := hidle
  exact exec_request_ep hc hport hreq ((congrArg EpSt.slots (Mach.takeAtEp_ep ..)).trans hslots)
    ((congrArg EpSt.fetch (Mach.takeAtEp_ep ..)).trans hfetch)

variable (hup : s.m.isUp .ep p = true) (hdst : x.dst = s.m.epNode)
include hup hdst

theorem exec_badSpace (hs : x.addrSpace = 1) : exec cmd s = .next { s with
    m := ((s.m.takeAtEp p x).answering p x (s.m.response .ep x Op.nack Status.badSpace 0 0 0 [])).epPump } := by
  refine exec_refuses hc hport hidle ?_
  rw [Mach.epRequest, if_neg (by simp [hdst, hs]), ← Mach.epNack_takeAtEp hup]
  exact if_pos hs

theorem exec_poisoned (hs : x.addrSpace = 0) (hp : x.poison = 1) : exec cmd s = .next { s with
    m := ((s.m.takeAtEp p x).answering p x (s.m.response .ep x Op.nack Status.poisoned 0 0 0 [])).epPump } := by
  refine exec_refuses hc hport hidle ?_
  rw [Mach.epRequest, if_neg (by simp [hdst, hs]), ← Mach.epNack_takeAtEp hup]
  dsimp only
  rw [if_neg (by simp [hs]), if_neg (by simp [hs]), if_pos hp]

theorem exec_syncWait_denied (hs : x.addrSpace = 0) (hp : x.poison = 0) (hop : x.opcode = Op.syncWait) : exec cmd s = .next { s with
    m := ((s.m.takeAtEp p x).answering p x (s.m.response .ep x Op.nack Status.accessDenied 0 0 0 [])).epPump } := by
  refine exec_refuses hc hport hidle ?_
  rw [Mach.epRequest, if_neg (by simp [hdst, hs]), ← Mach.epNack_takeAtEp hup]
  dsimp only
  rw [if_neg (by simp [hs]), if_neg (by simp [hs]), if_neg (by simp [hp]), if_pos hop]

omit hc hport hidle hup in
/-- A sound request for local memory leaves where it waits and is looked up in the windows. -/
theorem epRequest_memory (hs : x.addrSpace = 0) (hp : x.poison = 0) (hop : x.opcode ≠ Op.syncWait) :
    s.m.epRequest p x = (s.m.collected₀ p x).epMemory p x (s.m.waits .ep p x) := by
  rw [Mach.epRequest, if_neg (by simp [hdst, hs])]
  dsimp only
  rw [if_neg (by simp [hs]), if_neg (by simp [hs]), if_neg (by simp [hp]), if_neg hop, Mach.collected₀]

variable (hs : x.addrSpace = 0) (hp : x.poison = 0) (hop : x.opcode ≠ Op.syncWait)
include hs hp hop

theorem exec_windowMiss (hmap : s.m.mapWindow x = .error Status.badAddress) : exec cmd s = .next { s with
    m := (((s.m.takeAtEp p x).bump .ep Pg.eMp R.ep4WinMissCnt).answering p x
      (s.m.response .ep x Op.nack Status.badAddress 0 0 0 [])).epPump } := by
  have hreq := (epRequest_memory hdst hs hp hop).trans (Mach.epMemory_miss hup hmap)
  have hep : ((s.m.takeAtEp p x).bump .ep Pg.eMp R.ep4WinMissCnt).ep = s.m.ep := (Mach.bump_ep ..).trans (Mach.takeAtEp_ep ..)
  obtain ⟨hslots, -, hfetch⟩ := hidle
  exact exec_request_ep hc hport hreq ((congrArg EpSt.slots hep).trans hslots) ((congrArg EpSt.fetch hep).trans hfetch)

theorem exec_windowDenied (hmap : s.m.mapWindow x = .error Status.accessDenied) : exec cmd s = .next { s with
    m := ((s.m.takeAtEp p x).answering p x (s.m.response .ep x Op.nack Status.accessDenied 0 0 0 [])).epPump } :=
  exec_refuses hc hport hidle ((epRequest_memory hdst hs hp hop).trans (Mach.epMemory_denied hup hmap))

variable {w a : Nat} (hmap : s.m.mapWindow x = .ok (w, a))
include hmap

theorem exec_misaligned (hat : isAtomic x.opcode = true) (hoff : x.offset % atomicWidth x.modifier ≠ 0) :
    exec cmd s = .next { s with
      m := ((s.m.takeAtEp p x).answering p x (s.m.response .ep x Op.nack Status.misaligned 0 0 0 [])).epPump } :=
  exec_refuses hc hport hidle ((epRequest_memory hdst hs hp hop).trans (Mach.epMemory_misaligned hup hmap hat hoff))

variable (hat : isAtomic x.opcode = true → x.offset % atomicWidth x.modifier = 0) (hserve : s.m.ep.serve = [])
  (hmp : s.m.ep.mp = []) (h256 : 0 < s.m.epParams.atom256)
include hat hserve hmp h256

omit hup in
/-- A request that its window lets through goes to the memory port as one access. -/
theorem exec_memRequest (h0 : 0 < requestBytes x) (hone : isAtomic x.opcode = true ∨ a % 4096 + requestBytes x ≤ 4096)
    (hread : x.opcode = Op.read → x.payload = []) {tag cmd' ord modifier : Nat} {data : List Byte}
    (htag : tag = s.m.ep.nextMp % 65536)
    (hcmd : cmd' = if x.opcode = Op.read then 0 else if isAtomic x.opcode then 2 else 1)
    (hord : ord = if isStore x.opcode ∧ x.stream ≠ 63 then 1 else 0) (hmod : modifier = if cmd' = 2 then x.modifier else 0)
    (hdata : data = if x.opcode = Op.read then [] else if cmd' = 2 then x.payload else x.payload.take (requestBytes x))
    {given : Mach} (hgiven : given = s.m.takeAtEp p x) :
    exec cmd s = .next { s with m := { given with
      ep := { given.ep with
        nextServe := given.ep.nextServe + 1, nextMp := (tag + 1) % 65536,
        serve := [{ id := given.ep.nextServe, pkt := x, port := p, window := w, addr := a, issued := true, out := 1 }],
        mp := [{
          tag := tag, cmd := cmd', addr := a, len := requestBytes x, ord := ord, modifier := modifier, data := data,
          use := .serve given.ep.nextServe 0 }] },
      out := .memRequest tag cmd' a (requestBytes x) ord modifier false data :: given.out } } := by
  have hep : given.ep = s.m.ep := by rw [hgiven, Mach.takeAtEp_ep]
  have hpar : given.epParams = s.m.epParams := by rw [hgiven, Mach.takeAtEp_params]
  have hcmd2 : (cmd' = 2) = (isAtomic x.opcode = true) := by rw [hcmd]; exact propext (Mach.serveCmd_atomic _)
  have hdata' : (if isAtomic x.opcode then x.payload else x.payload.take (requestBytes x)) = data := by
    rw [hdata]
    by_cases hr : x.opcode = Op.read
    · rw [if_pos hr, hread hr, List.take_nil, ite_self]
    · simp only [if_neg hr, hcmd2]
  obtain ⟨v, hv⟩ : ∃ v : Serve, v = { id := s.m.ep.nextServe, pkt := x, port := p, window := w, addr := a } := ⟨_, rfl⟩
  have hserves := Mach.epMemory_serves (p := p) hmap hat hserve h256
  rw [← hgiven, ← hv] at hserves
  have hissue := Mach.serveAll_issues (m := given.serving v) (v := v) rfl (by rw [hv]) (by rw [hv])
    ((congrArg EpSt.mp hep).trans hmp) (by rw [show (given.serving v).epParams = given.epParams from rfl, hpar]; exact h256)
    (by rw [hv]; exact h0) (by rw [hv]; exact hone)
  obtain ⟨n, hn⟩ : ∃ n, n = (given.serving v).updServe v.id fun w => { w with issued := true, withheld := false, out := 1 } :=
    ⟨_, rfl⟩
  have hnmp : n.ep.mp = [] := by rw [hn]; exact (congrArg EpSt.mp hep).trans hmp
  have hpush := Mach.mpPush_alone hnmp cmd' a (requestBytes x) ord modifier data (.serve v.id 0) (tag := tag)
    (by rw [htag, ← hep, hn]; rfl)
  have hvpkt : v.pkt = x ∧ v.addr = a := by rw [hv]; exact ⟨rfl, rfl⟩
  have hordAlone : Mach.ordAlone v = ord := by rw [Mach.ordAlone, hvpkt.1, hord]
  have hmodifier : (if isAtomic x.opcode then x.modifier else 0) = modifier := by
    rw [hmod]
    exact if_congr (iff_of_eq hcmd2.symm) rfl rfl
  rw [← hn, hvpkt.1, hvpkt.2, hordAlone, ← hcmd, hdata', hmodifier, hpush] at hissue
  have hreq := (epRequest_memory hdst hs hp hop).trans (hserves.trans hissue)
  obtain ⟨hslots, htx, hfetch⟩ := hidle
  have hslots' : given.ep.slots = [] := by rw [hep, hslots]
  have hfetch' : given.ep.fetch = [] := by rw [hep, hfetch]
  have htx' : given.ep.tx = [] := by rw [hep, htx]
  have hid : v.id = given.ep.nextServe := by rw [hv, hep]
  have hexec := exec_request_ep hc hport hreq (by rw [hn]; exact hslots') (by rw [hn]; exact hfetch')
  rw [hexec, Mach.epPump_empty (by rw [hn]; exact htx'), hn]
  simp only [Mach.updServe, Mach.serving, Mach.setEp, List.map_singleton, if_true, hv, hep]

/-- A write without bytes is acknowledged at once. -/
theorem exec_emptyWrite (h0 : requestBytes x = 0) (hwrite : x.opcode = Op.write) {given : Mach} (hgiven : given = s.m.takeAtEp p x) :
    exec cmd s = .next { s with
      m := (({ given with ep := { given.ep with nextServe := given.ep.nextServe + 1 } } : Mach).answering p x
        (s.m.response .ep x Op.writeAck 0 0 0 1 [])).epPump } := by
  have hep : given.ep = s.m.ep := by rw [hgiven, Mach.takeAtEp_ep]
  have hpar : given.epParams = s.m.epParams := by rw [hgiven, Mach.takeAtEp_params]
  obtain ⟨v, hv⟩ : ∃ v : Serve, v = { id := s.m.ep.nextServe, pkt := x, port := p, window := w, addr := a } := ⟨_, rfl⟩
  have hserves := Mach.epMemory_serves (p := p) hmap hat hserve h256
  rw [← hgiven, ← hv] at hserves
  have hempty := Mach.serveAll_empty (m := given.serving v) (v := v) rfl (by rw [hv]) (by rw [hv])
    ((congrArg EpSt.mp hep).trans hmp) (by rw [show (given.serving v).epParams = given.epParams from rfl, hpar]; exact h256)
    (by rw [hv]; exact h0)
  obtain ⟨n, hn⟩ : ∃ n : Mach, n = { given with ep := { given.ep with nextServe := given.ep.nextServe + 1 } } := ⟨_, rfl⟩
  have hdone : (given.serving v).setEp { (given.serving v).ep with
      serve := (given.serving v).ep.serve.filter fun u => u.id != v.id } = n := by
    have hnil : given.ep.serve = [] := by rw [hep, hserve]
    have hgone : (given.serving v).ep.serve.filter (fun u => u.id != v.id) = given.ep.serve := by
      rw [hnil]
      simp [Mach.serving, Mach.setEp]
    rw [hn, hgone]
    rfl
  have hnup : n.isUp .ep p = true := by
    rw [hn, ← hup, ← Mach.isUp_takeAtEp s.m p x p, ← hgiven]
    rfl
  have hnepoch : n.epochNow .ep = s.m.epochNow .ep := by
    rw [← Mach.epochNow_congr (Mach.takeAtEp_rf s.m p x .ep) (Mach.takeAtEp_params s.m p x), ← hgiven, hn]
    rfl
  have hanswer : (given.serving v).serveAnswer v = n.answering p x (s.m.response .ep x Op.writeAck 0 0 0 1 []) := by
    rw [Mach.serveAnswer, hdone, hv]
    dsimp only
    have hkind : x.opcode ≠ Op.read ∧ x.opcode ≠ Op.atomic ∧ x.opcode ≠ Op.atomicPosted := by rw [hwrite]; decide
    rw [if_neg (show ¬0 = 2 by decide), if_neg hkind.1, if_neg hkind.2.1, if_neg hkind.2.2]
    simp only [Nat.zero_ne_one, if_false]
    rw [Mach.epRespond_up hnup, Mach.response_congr hnepoch]
  have hreq := (epRequest_memory hdst hs hp hop).trans (hserves.trans (hempty.trans hanswer))
  obtain ⟨hslots, -, hfetch⟩ := hidle
  rw [← hn]
  exact exec_request_ep hc hport hreq (by rw [hn]; exact (congrArg EpSt.slots hep).trans hslots)
    (by rw [hn]; exact (congrArg EpSt.fetch hep).trans hfetch)

end

/-! ### Context pages -/

namespace Mach
variable {m : Mach} {x : Packet}

theorem ctxBound_congr {n : Mach} {c : Chip} (hrf : n.rf c = m.rf c) (hp : n.epParams = m.epParams) (x : Packet) :
    n.ctxBound c x = m.ctxBound c x := by
  cases c with
  | sx => simp only [ctxBound, tword, live_congr hrf hp]
  | ep =>
    simp only [ctxBound, epBound, ctxCount, epKey, ebindF, ctxScrubbing, tfld_congr hrf hp, bit_congr hrf hp, hp]
    rfl

/-- A word of a context page, asked for by a context that is not bound to the key. -/
theorem ctxRequest_unbound {c : Chip} (hop : x.opcode = Op.read ∨ x.opcode = Op.write) (hoff : x.offset / 0x4000 = 0x400 + x.context)
    (hep : c = .ep → (pageKind m.epParams c (0x400 + x.context)).isSome = true) (hbytes : requestBytes x = 4)
    (hal : x.offset % 4 = 0) (hb : m.ctxBound c x = false) : m.ctxRequest c x = (.error Status.contextDenied, m) := by
  have halign : x.offset % 0x4000 % 4 = 0 := by omega
  have hkind : (!(x.opcode == Op.read || (x.opcode == Op.write || x.opcode == Op.flagWrite))) = false := by
    rcases hop with h | h <;> simp [h]
  rw [ctxRequest, hkind, if_neg (by
    rintro (h | h | ⟨hc, h⟩)
    · exact Bool.noConfusion h
    · exact h hoff
    · rw [Option.isNone_iff_eq_none] at h
      have hsome := hep hc
      rw [h] at hsome
      exact Bool.noConfusion hsome), hbytes, if_neg (by simp [halign]), hb,
    if_pos (show (!false) = true from rfl)]

/-- A request that waits at the register service, or comes there, is taken. -/
theorem takeRegister_atTarget {p : Nat} (h : m.atTarget 168 169 x 168 none) :
    m.takeRegister p x = some ((m.taken 168 169 x p).1, { m with held := (m.taken 168 169 x p).2 })
      ∧ ¬(m.shedLevel = 4 ∧ (m.findAt 168 169 x).isNone) := by
  rw [atTarget] at h
  rw [takeRegister, taken]
  cases hfind : m.findAt 168 169 x with
  | none =>
    rw [hfind] at h
    exact ⟨rfl, fun hshed => absurd hshed.1 (Nat.ne_of_lt h)⟩
  | some e =>
    rw [hfind] at h
    obtain ⟨hwhole, -⟩ := h
    exact ⟨if_pos hwhole, fun hshed => Bool.noConfusion hshed.2⟩

end Mach

theorem exec_ctx_sx {s : State} {p : Nat} {x : Packet} {cmd : Instr} (hc : requestInstr .sx p x = some cmd) (hp : p < 144)
    (hdst : x.dst = s.m.sxNode) (hspace : x.addrSpace = 2) (hat : s.m.atTarget 168 169 x 168 none) {r : Except Nat (List Byte) × Mach}
    (hr : r = ({ s.m with held := (s.m.taken 168 169 x p).2 } : Mach).ctxRequest .sx x) :
    exec cmd s = .next { s with m := r.2.push (r.2.ctxResponse .sx x r.1) 162 (s.m.taken 168 169 x p).1 } := by
  obtain ⟨htake, hshed⟩ := Mach.takeRegister_atTarget (p := p) hat
  have hreq : s.m.sxRequest p x = r.2.push (r.2.ctxResponse .sx x r.1) 162 (s.m.taken 168 169 x p).1 := by
    rw [Mach.sxRequest, if_neg (not_not_intro hdst), if_neg (not_not_intro hspace), htake]
    dsimp only
    rw [if_neg hshed, ← hr]
    rfl
  rw [exec_request_sx hc s hp, hreq]

theorem exec_ctx_unbound {s : State} {p : Nat} {x : Packet} {cmd : Instr} (hc : requestInstr .ep p x = some cmd)
    (hport : s.m.hasPort .ep p = true) (hidle : s.m.epIdle) (hup : s.m.isUp .ep p = true) (hdst : x.dst = s.m.epNode)
    (hspace : x.addrSpace = 2) (hop : x.opcode = Op.read ∨ x.opcode = Op.write) (hoff : x.offset / 0x4000 = 0x400 + x.context)
    (hpage : (pageKind s.m.epParams .ep (0x400 + x.context)).isSome = true) (hbytes : requestBytes x = 4)
    (hal : x.offset % 4 = 0) (hb : s.m.ctxBound .ep x = false) :
    exec cmd s = .next { s with
      m := ((s.m.takeAtEp p x).answering p x (s.m.response .ep x Op.nack Status.contextDenied 0 0 0 [])).epPump } := by
  have hpar := Mach.takeAtEp_params s.m p x
  have hdenied := Mach.ctxRequest_unbound (m := s.m.takeAtEp p x) (c := .ep) hop hoff (fun _ => by rw [hpar]; exact hpage) hbytes
    hal ((Mach.ctxBound_congr (Mach.takeAtEp_rf ..) hpar x).trans hb)
  refine exec_refuses hc hport hidle ?_
  rw [Mach.epRequest, if_neg (by simp [hdst, hspace])]
  dsimp only
  rw [if_neg (by simp [hspace]), if_pos hspace, hdenied]
  exact Mach.epNack_takeAtEp hup x _

/-! ### The doorbell of a context page of the switch -/

namespace Mach
variable {m : Mach} {page : Nat} {path : Path}

theorem pageKind_of_reaches {k : PageKind} {c : Chip} (h : m.reaches c path page = some k) : pageKind m.epParams c page = some k := by
  rw [reaches] at h
  cases hk : pageKind m.epParams c page with
  | none =>
    rw [hk] at h
    simp at h
  | some j =>
    rw [hk] at h
    have hj : j = k := by
      cases c
      · dsimp only at h
        split_ifs at h <;> simpa using h
      · dsimp only at h
        split_ifs at h <;> simpa using h
    rw [hj]

theorem ctxRefuses_doorbell (v : Word) : ctxRefuses .ctx R.ctxDoorbell v = false := by
  have hmask : ctxMask .ctx R.ctxDoorbell = BitVec.allOnes 32 := by decide
  rw [ctxRefuses, hmask, if_neg (by decide)]
  simp

/-- A doorbell's location takes every value. -/
theorem writeBad_doorbell (h : m.reaches .sx path page = some .ctx) (v : Word) : m.writeBad .sx path page R.ctxDoorbell v = false := by
  have hat : directAt .ctx R.ctxDoorbell = true := by decide
  rw [writeBad, h]
  dsimp only
  rw [hat, ctxRefuses_doorbell]
  rfl

/-- A write of a doorbell stores the value and raises the page's event. -/
theorem regWrite_doorbell (h : m.reaches .sx path page = some .ctx) (v : Word) :
    m.regWrite .sx path page R.ctxDoorbell v = (.ok 0, m.ctxDoorbell (page - Pg.ctx 0) v) := by
  have hkind := pageKind_of_reaches h
  have hinfo : (info m.epParams .sx (item page 0 R.ctxDoorbell)).group ≠ 33 := by
    rw [info, wordInfo, item_page _ _ _ (by decide) (by decide), hkind]
    dsimp only
    rw [item_sel _ _ _ (by decide) (by decide), item_off _ _ (by decide), if_pos rfl]
    decide
  have hdirect : m.directWrite .sx path page .ctx R.ctxDoorbell v = m.ctxDoorbell (page - Pg.ctx 0) v := by
    rw [directWrite, if_neg hinfo, if_neg (by decide)]
    exact if_pos rfl
  rw [regWrite, writeBad_doorbell h, h]
  dsimp only
  rw [if_pos (by decide), if_neg (by simp [directOutside]), hdirect]

theorem touches_ctxDoorbell (m : Mach) (x : Nat) (v : Word) : m.touches (m.ctxDoorbell x v) .sx
    (fun k => pageWord (Pg.ctx x) R.ctxDoorbell k || eventWord (Pg.ctx x) k) :=
  .trans (touches_setWord _ _ _ _ (by simp [pageWord])) ((touches_raise ..).mono fun k hk => by rw [hk, Bool.or_true])

theorem event_ctxDoorbell (m : Mach) (x : Nat) (v : Word) : (m.ctxDoorbell x v).event .sx (Pg.ctx x) 0 = true :=
  event_raise _ _ _ _ _ _ _ (by decide) (.inr ⟨rfl, rfl⟩)

theorem word_ctxDoorbell (m : Mach) (x : Nat) (v : Word) :
    (m.ctxDoorbell x v).word .sx (item (Pg.ctx x) 0 R.ctxDoorbell) = v := by
  have hevent : eventWord (Pg.ctx x) (item (Pg.ctx x) 0 R.ctxDoorbell) = false :=
    eventWord_none _ _ _ (by decide) (by unfold Pg.ctx Pg.trace; omega) (by decide)
  rw [ctxDoorbell, word_raise _ _ _ _ _ _ hevent, word_setReg, if_pos rfl, BitVec.ofNat_toNat, BitVec.setWidth_eq]

end Mach

/-- A write of a doorbell by a context that is bound is acknowledged. -/
theorem ctxRequest_doorbell {m : Mach} {x : Packet} (hop : x.opcode = Op.write) (hoff : x.offset / 0x4000 = 0x400 + x.context)
    (hreg : x.offset % 0x4000 = R.ctxDoorbell) (hlen : x.payload.length = 4) (hlength : x.length = 4)
    (hb : m.ctxBound .sx x = true) (hp : x.poison = 0) (hr : m.reaches .sx .vc0 (0x400 + x.context) = some .ctx) :
    m.ctxRequest .sx x = (.ok [], m.ctxDoorbell x.context (BitVec.ofNat 32 (ofLeBytes x.payload))) := by
  have hwords : wholeWords x.payload = [BitVec.ofNat 32 (ofLeBytes x.payload)] := by
    match x.payload, hlen with
    | [a, b, c, d], _ => rfl
  have hbytes : requestBytes x = 4 := by rw [requestBytes, if_neg (by rw [hop]; decide), if_neg (by rw [hop]; decide), hlength]
  have hwrite : m.ctxWrite .sx (0x400 + x.context) R.ctxDoorbell [BitVec.ofNat 32 (ofLeBytes x.payload)]
      = (.ok [], m.ctxDoorbell x.context (BitVec.ofNat 32 (ofLeBytes x.payload))) := by
    have hnone : (([BitVec.ofNat 32 (ofLeBytes x.payload)].mapIdx fun i w => (R.ctxDoorbell + 4 * i, w)).find? fun y =>
        m.writeBad .sx .vc0 (0x400 + x.context) y.1 y.2) = none := by
      simp [Mach.writeBad_doorbell hr]
    have haddr : ((0x400 + x.context) * 0x4000 + R.ctxDoorbell) / 0x4000 = 0x400 + x.context
        ∧ ((0x400 + x.context) * 0x4000 + R.ctxDoorbell) % 0x4000 = R.ctxDoorbell := by
      unfold R.ctxDoorbell
      omega
    have hpage : 0x400 + x.context - Pg.ctx 0 = x.context := by unfold Pg.ctx; omega
    rw [Mach.ctxWrite, hnone]
    dsimp only
    rw [Mach.regWrites, haddr.1, haddr.2, Mach.regWrite_doorbell hr, hpage]
    rfl
  rw [Mach.ctxRequest, hbytes, hreg, hop, if_neg (by simp [Op.write, Op.read, Op.flagWrite, hoff]), if_neg (by decide), hb,
    if_neg (by decide), if_neg (by rw [hp]; decide), if_pos (by decide), hwords, hwrite]

/-- A request of cluster `cl` that has been taken, and its one answer, which waits to be sent. -/
theorem becomes_answered {s : State} {o : Nat × List Held} {n : Mach} {f : Nat → Bool}
    (h : ({ s.m with held := o.2 } : Mach).touches n .sx f) (y : Packet) (cl : Nat) :
    s.becomes { s with m := n.push y (162 + cl) o.1 } { s.m with held := s.m.heldWith o cl [y], nextId := s.m.nextId + 1 } .sx f := by
  obtain ⟨hbare, hkept, hother⟩ := h
  exact ⟨congrArg (fun b : Mach => b.push y (162 + cl) o.1) hbare, hkept, hother, rfl, rfl⟩

/-- Settles O40: by what the windows and the register service answer, and what the memory port is asked. -/
theorem endpointsServeRequests : Obligations.EndpointsServeRequests := by
  unfold Obligations.EndpointsServeRequests
  refine ⟨?_, ?_, ?_, ?_, ?_⟩
  · intro s p x c hc hport hidle hup hdst given answer nack
    refine ⟨fun hs => exec_badSpace hc hport hidle hup hdst hs, fun hs hp => exec_poisoned hc hport hidle hup hdst hs hp,
      fun hs hp hop => exec_syncWait_denied hc hport hidle hup hdst hs hp hop, fun hs hp hop => ⟨?_, ?_, ?_⟩⟩
    · exact fun hmap => exec_windowMiss hc hport hidle hup hdst hs hp hop hmap
    · exact fun hmap => exec_windowDenied hc hport hidle hup hdst hs hp hop hmap
    · intro w a hmap
      refine ⟨fun hat hoff => exec_misaligned hc hport hidle hup hdst hs hp hop hmap hat hoff, ?_⟩
      intro hat hserve hmp h256 n cmd ord tag data modifier
      exact ⟨fun h0 hone hread => exec_memRequest hc hport hidle hdst hs hp hop hmap hat hserve hmp h256 h0 hone hread rfl rfl rfl rfl
          rfl rfl,
        fun h0 hwrite => exec_emptyWrite hc hport hidle hup hdst hs hp hop hmap hat hserve hmp h256 h0 hwrite rfl⟩
  · intro s p x c hc hp hdst hs hat o r
    exact exec_ctx_sx hc hp hdst hs hat rfl
  · intro s p x c hc hport hidle hup hdst hs hop hoff hpage hbytes hal hb
    exact exec_ctx_unbound hc hport hidle hup hdst hs hop hoff hpage hbytes hal hb
  · intro m x hop hoff hbytes hal hb
    exact Mach.ctxRequest_unbound hop.symm hoff (fun h => Chip.noConfusion h) hbytes hal hb
  · intro s p x hp hdst hs hat hop hoff hreg hlen hlength hb hpoison hr o
    have hlow : s.m.atTarget 168 169 x 168 none := hat
    obtain ⟨k, hk⟩ : ∃ k : Mach, k = { s.m with held := o.2 } := ⟨_, rfl⟩
    have hrf : k.rf .sx = s.m.rf .sx := by rw [hk]; rfl
    have hreach : k.reaches .sx .vc0 (0x400 + x.context) = some .ctx := by rw [← hr, hk]; rfl
    have hrequest := ctxRequest_doorbell (m := k) hop hoff hreg hlen hlength
      ((Mach.ctxBound_congr hrf (by rw [hk]) x).trans hb) hpoison hreach
    have hexec := exec_ctx_sx (cmd := .write .sx p x) (by rw [requestInstr, if_neg (by rw [hop]; decide), if_pos hop]) hp hdst hs
      hat (hrequest.symm.trans (by rw [hk]))
    obtain ⟨n, hn⟩ : ∃ n, n = k.ctxDoorbell x.context (BitVec.ofNat 32 (ofLeBytes x.payload)) := ⟨_, rfl⟩
    have ht := Mach.touches_ctxDoorbell k x.context (BitVec.ofNat 32 (ofLeBytes x.payload))
    have hresponse : n.ctxResponse .sx x (.ok []) = s.m.response .sx x Op.writeAck 0 0 0 0 [] := by
      have hepoch : n.epochNow .sx = s.m.epochNow .sx := by
        rw [← Mach.epochNow_congr hrf (by rw [hk]), hn]
        refine Mach.seenFld_of_kept ht.2.1 (Mach.epParams_of_bare ht.1) ?_
        rw [pageWord_item _ _ _ _ (by decide) (by decide), eventWord_none _ _ _ (by decide) (by decide) (by decide),
          show (F.chpEpoch_epoch.off == R.ctxDoorbell) = false from rfl, Bool.and_false, Bool.or_false]
      rw [Mach.ctxResponse, if_neg (by rw [hop]; decide), Mach.response_congr hepoch]
      rfl
    rw [← hn, hresponse] at hexec
    refine ⟨_, hexec, ?_, ?_, ?_⟩
    · exact (congrArg (fun y : Mach => y.word .sx (item (Pg.ctx x.context) 0 R.ctxDoorbell)) hn).trans (Mach.word_ctxDoorbell ..)
    · exact (congrArg (fun y : Mach => y.event .sx (Pg.ctx x.context) 0) hn).trans (Mach.event_ctxDoorbell ..)
    · rw [← hn, hk] at ht
      exact becomes_answered ht _ 0

end Sys2Proof.Machine
end

section
/-! O41 fails: a PFAULT may come in any virtual channel, and at shed level 3 a port owes the credits of VC0 that it does not
return at once. -/

set_option Elab.async false

namespace Sys2Proof.Machine
open Sys2Proof

/-- A PFAULT in VC0, of a key that no port holds. -/
def strangeFault : Packet := HdrSpec.packet { opcode := Op.pfault, vc := 0, dst := 0, src := 1, pkey := 0xFFFF } []

/-- Refutes O41: the credits of a PFAULT that is discarded at shed level 3 are owed, not returned. -/
theorem not_managementIsServedAndFaultsBroadcast : ¬ Obligations.ManagementIsServedAndFaultsBroadcast := by
  unfold Obligations.ManagementIsServedAndFaultsBroadcast
  intro h
  obtain ⟨-, hfault⟩ := h
  have hlevel : sheddingLink.m.shedLevel = 3 := by rfl
  obtain ⟨-, hdiscard⟩ := hfault sheddingLink 0 strangeFault (by decide) rfl (by decide)
  obtain ⟨t, ht, -, hbare, -⟩ := hdiscard (by decide) rfl rfl (by rw [hlevel]; decide)
  have howed : ∀ t, exec (.pfaultFromEndpoint 0 strangeFault) sheddingLink = .next t → t.m.owed = [(0, 2)] := by
    intro t ht
    injection ht with ht
    rw [← ht]
    rfl
  have hnone : t.m.owed = [] := congrArg Mach.owed hbare
  rw [howed t ht] at hnone
  exact absurd hnone (by decide)

end Sys2Proof.Machine
end

section
/-! O55: what a register write of a direct word does (R536, R537, R541, R544). -/

set_option Elab.async false

namespace Sys2Proof.Machine
open Sys2Proof

/-- The engines of an idle end-point do not run on. -/
theorem ran_idle {s : State} {c : Chip} {n : Mach} (h : c = .ep → n.epIdle) : s.ran c n = { s with m := n } := by
  cases c with
  | sx => rfl
  | ep =>
    exact congrArg (fun x : SM => ({ s with store := x.1, m := x.2 } : State)) (epRun_idle (s.store, n) (h rfl))

theorem idle_of_bare {m n : Mach} {c : Chip} {x : Nat} (h : c = .ep → m.epIdle) (hb : n.bare = (m.setCyc c x).bare) :
    c = .ep → n.epIdle := by
  intro hc
  have hep : n.ep = m.ep := by
    rw [Mach.ep_of_bare hb]
    cases c <;> rfl
  rw [Mach.epIdle, hep]
  exact h hc

namespace Mach
variable {m : Mach} {c : Chip} {path : Path} {page off : Nat} {kind : PageKind}

/-- A bus error is counted and recorded. -/
theorem touches_busError (m : Mach) (c : Chip) (path : Path) (write : Bool) (page off : Nat) :
    m.touches (m.busError c path write page off) c
      (fun j => pageWord (byChip c Pg.chip Pg.eId) (byChip c R.chpBusErrCnt R.ep4BusErrCnt) j
        || pageWord (byChip c Pg.chip Pg.eId) (byChip c R.chpBusErr R.ep4BusErr) j) :=
  .trans (touches_bump _ _ _ _ (by simp [pageWord])) (touches_setWord _ _ _ _ (by simp [pageWord]))

theorem busErr_items (c : Chip) : item (byChip c Pg.chip Pg.eId) 0 (byChip c R.chpBusErrCnt R.ep4BusErrCnt)
    ≠ item (byChip c Pg.chip Pg.eId) 0 (byChip c R.chpBusErr R.ep4BusErr) := by
  cases c <;> decide

theorem counted_busError (m : Mach) (c : Chip) (path : Path) (write : Bool) (page off : Nat) :
    m.counted (m.busError c path write page off) c (byChip c Pg.chip Pg.eId) (byChip c R.chpBusErrCnt R.ep4BusErrCnt) := by
  rw [counted, busError, word_setReg, if_neg (busErr_items c), word_bump]

theorem busErr_write (m : Mach) (c : Chip) (path : Path) (page off : Nat) :
    (m.busError c path true page off).storedReg c (byChip c Pg.chip Pg.eId) (byChip c R.chpBusErr R.ep4BusErr)
      = pathCode c path + 4 + page % 2 ^ 11 * 8 + off % 2 ^ 14 * 2 ^ 14 := by
  have hcode : pathCode c path ≤ 3 := by cases c <;> cases path <;> decide
  rw [storedReg, busError, word_setReg, if_pos rfl, BitVec.toNat_ofNat]
  simp only [place, bit01, if_true]
  omega

/-- A write of a location that is not there is a bus error. -/
theorem regWrite_bad {v : Word} (h : m.writeBad c path page off v = true) :
    m.regWrite c path page off v = (.busError, m.busError c path true page off) := by
  rw [regWrite, h]

theorem writeBad_unreached (h : m.reaches c path page = none) (v : Word) : m.writeBad c path page off v = true := by
  rw [writeBad, h]

/-- What lies outside the direct registers, the window and the aliases, is not there. -/
theorem writeBad_absent (h : m.reaches c path page = some kind) (v : Word)
    (ho : off % 4 ≠ 0 ∨ 0x4000 ≤ off ∨ (0x100C ≤ off ∧ off < 0x2000) ∨ (off < 0x1000 ∧ directInfo kind (liveOff off) = none)) :
    m.writeBad c path page off v = true := by
  rw [writeBad, h]
  dsimp only
  rcases ho with ho | ho | ⟨hlo, hhi⟩ | ⟨hlo, hnone⟩
  · simp [ho]
  · simp [directAt, show ¬off < 0x1000 by omega, show ¬off < 0x100C by omega, show ¬off < 0x4000 by omega]
  · simp [directAt, show ¬off < 0x1000 by omega, show ¬off < 0x100C by omega, show ¬0x2000 ≤ off by omega]
  · simp [directAt, hnone, show ¬0x1000 ≤ off by omega, show ¬0x2000 ≤ off by omega]

/-- A direct register off the context pages takes a write. -/
theorem writeBad_direct (h : m.reaches c path page = some kind) (hctx : isCtxKind kind = false) (ho : off % 4 = 0)
    (hlt : off < 0xC00) (hd : (directInfo kind off).isSome = true) (v : Word) : m.writeBad c path page off v = false := by
  have hlive : liveOff off = off := by rw [liveOff, if_neg (by omega)]
  have hat : directAt kind off = true := by rw [directAt, hlive, hd, decide_eq_true (by omega), Bool.and_true]
  have hrefuses : ctxRefuses kind off v = false := by rw [ctxRefuses, hctx, Bool.false_and]
  rw [writeBad, h]
  dsimp only
  rw [hat, hrefuses]
  simp [ho]

theorem regWrite_direct (h : m.reaches c path page = some kind) (hctx : isCtxKind kind = false) (ho : off % 4 = 0)
    (hlt : off < 0xC00) (hd : (directInfo kind off).isSome = true) {v : Word} (hout : directOutside kind off v = false) :
    m.regWrite c path page off v = (.ok 0, m.directWrite c path page kind off v) := by
  rw [regWrite, writeBad_direct h hctx ho hlt hd, h]
  dsimp only
  rw [if_pos hlt, hout, if_neg Bool.false_ne_true]

/-- The kinds of the end-point's pages. -/
def onEp (k : PageKind) : Bool := [.eId, .eTim, .eRc, .eMp, .eScr, .eHost, .ePort, .eEng, .eCtx].contains k

theorem onEp_of_pageKind {par : EpParams} (h : pageKind par c page = some kind) : c = if onEp kind then .ep else .sx := by
  have hall : (pageKind par c page).all (fun k => onEp k == (c == .ep)) = true := by
    cases c
    · rw [pageKind]
      simp [apply_ite (Option.all _), onEp]
    · rw [pageKind]
      simp [apply_ite (Option.all _), onEp]
  rw [h, Option.all_some, beq_iff_eq] at hall
  rw [hall]
  cases c <;> rfl

/-- Off the common words, the page of a direct register's kind says what its write does: none of those with an effect of
their own is configuration. -/
theorem directWrite_plain (hk : pageKind m.epParams c page = some kind) (hctx : isCtxKind kind = false)
    (hgroup : (info m.epParams c (item page 0 off)).group ≠ 33) (ho : 0x100 ≤ off) (hown : ownWrite kind off = false) (v : Word) :
    m.directWrite c path page kind off v = m.plainWrite c (item page 0 off) v := by
  have hchip := onEp_of_pageKind hk
  have hoff : ¬off < 0x100 := by omega
  unfold directWrite
  cases kind with
  | chip | power | serdes =>
    obtain rfl : c = .sx := hchip
    simp_all [ownWrite]
  | guard =>
    obtain rfl : c = .sx := hchip
    simp_all [ownWrite, guardReg]
  | ocu =>
    obtain rfl : c = .sx := hchip
    simp_all [ownWrite, ocuReg]
  | eId =>
    obtain rfl : c = .ep := hchip
    simp_all [ownWrite, epIdReg]
  | ctx | eCtx => exact absurd hctx (by decide)
  | stitch | mdr | trace | port | tile | cluster | die | pleat | cuff | gusset | eTim | eRc | eMp | eScr | eHost | ePort | eEng =>
    simp [hgroup, hoff]

/-- No register with a write of its own is configuration. -/
theorem ownWrite_rws (hown : ownWrite kind off = true) (hctx : isCtxKind kind = false) {i : WordInfo}
    (hi : directInfo kind off = some i) : i.rws = 0 := by
  have hall : (directInfo kind off).all (fun i => i.rws == 0) = true := by
    cases kind with
    | chip =>
      have hoff : off = R.chpCommitCtrl ∨ off = R.chpChatterClr := by simpa [ownWrite] using hown
      rcases hoff with rfl | rfl <;> decide
    | guard =>
      have hoff : off = R.grdCtrl ∨ off = R.grdApproveLo ∨ off = R.grdApproveHi ∨ off = R.grdRelayCtrl ∨ off = R.grdRelayAddrLo
          ∨ off = R.grdRelayAddrHi ∨ off = R.grdRelayData := by simpa [ownWrite] using hown
      rcases hoff with rfl | rfl | rfl | rfl | rfl | rfl | rfl <;> decide
    | power =>
      have hoff : off = R.pwrGateCtrl := by simpa [ownWrite] using hown
      subst hoff
      decide
    | serdes =>
      have hoff : off = R.sdsRecalCtrl := by simpa [ownWrite] using hown
      subst hoff
      decide
    | ocu =>
      have hoff : off = R.ocuCapCtrl ∨ off = R.ocuElsStatus 0 ∨ off = R.ocuElsStatus 1 := by simpa [ownWrite] using hown
      rcases hoff with rfl | rfl | rfl <;> decide
    | eId =>
      have hoff : off = R.ep4CommitCtrl ∨ off = R.ep4GrdCtrl ∨ off = R.ep4GrdAtLo ∨ off = R.ep4GrdAtHi
          ∨ off = R.ep4GrdApproveLo ∨ off = R.ep4GrdApproveHi := by simpa [ownWrite] using hown
      rcases hoff with rfl | rfl | rfl | rfl | rfl | rfl <;> decide
    | ctx | eCtx => exact absurd hctx (by decide)
    | stitch | mdr | trace | port | tile | cluster | die | pleat | cuff | gusset | eTim | eRc | eMp | eScr | eHost | ePort | eEng =>
      exact absurd hown (by simp [ownWrite])
  rw [hi] at hall
  exact eq_of_beq hall

/-- The masks of a direct register are its kind's. -/
theorem info_direct (hk : pageKind m.epParams c page = some kind) (hlt : off < 0xC00) {i : WordInfo}
    (hi : directInfo kind off = some i) : info m.epParams c (item page 0 off) = i := by
  rw [info, wordInfo, item_page _ _ _ (by omega) (by decide), hk]
  dsimp only
  rw [item_sel _ _ _ (by omega) (by decide), item_off _ _ (by omega), if_pos rfl, hi, Option.getD_some]

/-! ### Configuration words -/

theorem shadow_shadowLand (m : Mach) (c : Chip) (k : Nat) (v : Word) (j : Nat) : (m.shadowLand c k v).shadow c j
    = if j = k then (v &&& (info m.epParams c k).rws) ||| (m.liveCopy c k &&& stickyMask c k) else m.shadow c j := by
  cases c <;> simp [shadowLand, setShadow, shadow, setRf, rf, Tbl.get_set]

/-- A write of a word of a group that no due commit applies in this part of the hem lands. -/
theorem holdsWrite_false {k : Nat}
    (h : ∀ q, (m.rf c).commit = some q → q.at_ = m.now c → m.cyc c < 848 ∨ 871 < m.cyc c ∨ bitsOf q.mask (info m.epParams c k).group 1 = 0)
    (hnear : ∀ q, (m.rf c).commit = some q → q.named = false → q.at_ = m.now c ∨ q.at_ = m.now c + 1) :
    m.holdsWrite c k = false := by
  rw [holdsWrite]
  cases hq : (m.rf c).commit with
  | none => rfl
  | some q =>
    dsimp only
    by_cases hat : q.at_ = m.now c
    · rcases h q hq hat with hlo | hhi | hmask
      · simp [show ¬848 ≤ m.cyc c by omega]
      · simp [show ¬m.cyc c ≤ 871 by omega]
      · simp [hmask]
    · have hdue : m.dueNow c q.named q.at_ = false := by
        rw [dueNow]
        cases hn : q.named with
        | true => simp [hat]
        | false => simp [(hnear q hq hn).resolve_left hat]
      rw [hdue, Bool.false_and, Bool.false_and]

theorem holdsWrite_true {k : Nat} {q : PendingCommit} (hq : (m.rf c).commit = some q) (hat : q.at_ = m.now c)
    (hlo : 848 ≤ m.cyc c) (hhi : m.cyc c ≤ 871) (hmask : bitsOf q.mask (info m.epParams c k).group 1 = 1) :
    m.holdsWrite c k = true := by
  have hdue : m.dueNow c q.named q.at_ = true := by
    rw [dueNow, hat]
    cases q.named <;> simp
  rw [holdsWrite, hq]
  simp [hdue, hlo, hhi, hmask]

/-- The context pages are reached in band alone. -/
theorem reaches_ctx_none (hpage : Pg.ctx 0 ≤ page) (hvc4 : path ≠ .vc4) (hvc0 : path ≠ .vc0) : m.reaches .sx path page = none := by
  have hkind : pageKind m.epParams .sx page = if page ≤ 0x7FF then some .ctx else none := by
    have hge : 0x400 ≤ page := hpage
    rw [pageKind, if_neg (by omega), if_neg (by omega), if_neg (by omega), if_neg (by omega), if_neg (by omega), if_neg (by omega),
      if_neg (by omega), if_neg (by omega), if_neg (by omega), if_neg (by omega), if_neg (by omega), if_neg (by omega),
      if_neg (by omega), if_neg (by omega), if_neg (by omega)]
    exact if_congr ⟨fun h => h.2, fun h => ⟨hge, h⟩⟩ rfl rfl
  rw [reaches, hkind]
  by_cases h : page ≤ 0x7FF
  · rw [if_pos h]
    dsimp only
    have hpath : ¬(path = .vc4 ∨ path = .vc0) := fun h => h.elim hvc4 hvc0
    rw [if_pos rfl, if_neg hpath, ite_self]
  · rw [if_neg h]

/-- Before READY the switch answers four pages. -/
theorem reaches_unready (hready : m.ready = false) (hpage : page ∉ [Pg.chip, Pg.power, Pg.stitch, Pg.trace]) :
    m.reaches .sx path page = none := by
  have hnot : List.contains [Pg.chip, Pg.power, Pg.stitch, Pg.trace] page = false := by
    rwa [Bool.eq_false_iff, ne_eq, List.contains_iff_mem]
  rw [reaches]
  cases pageKind m.epParams .sx page with
  | none => rfl
  | some k => exact if_pos (by rw [hready, hnot]; rfl)

theorem reaches_setCyc (m : Mach) (c d : Chip) (x : Nat) (path : Path) (page : Nat) :
    (m.setCyc c x).reaches d path page = m.reaches d path page := by
  cases c <;> rfl

theorem epParams_setCyc (m : Mach) (c : Chip) (x : Nat) : (m.setCyc c x).epParams = m.epParams := by cases c <;> rfl

theorem word_setCyc (m : Mach) (c d : Chip) (x k : Nat) : (m.setCyc c x).word d k = m.word d k := by cases c <;> rfl

theorem shadow_setCyc (m : Mach) (c d : Chip) (x k : Nat) : (m.setCyc c x).shadow d k = m.shadow d k := by cases c <;> rfl

theorem liveCopy_setCyc (m : Mach) (c d : Chip) (x k : Nat) : (m.setCyc c x).liveCopy d k = m.liveCopy d k := by
  cases c <;> rfl

end Mach

/-- Bits that a 1 clears. -/
theorem word_cleared (a v : Word) : (a &&& ~~~(0#32 ||| BitVec.allOnes 32)) ||| (v &&& 0#32) ||| (a &&& BitVec.allOnes 32 &&& ~~~v)
    = a &&& ~~~v := by
  rw [BitVec.and_allOnes, show ~~~(0#32 ||| BitVec.allOnes 32) = 0#32 by decide, BitVec.and_zero, BitVec.and_zero, BitVec.or_zero,
    BitVec.zero_or]

/-- Bits that take the value. -/
theorem word_taken (a v : Word) : (a &&& ~~~(BitVec.allOnes 32 ||| 0#32)) ||| (v &&& BitVec.allOnes 32) ||| (a &&& 0#32 &&& ~~~v)
    = v := by
  rw [BitVec.and_allOnes, show ~~~(BitVec.allOnes 32 ||| 0#32) = 0#32 by decide, BitVec.and_zero, BitVec.zero_or, BitVec.zero_and,
    BitVec.or_zero]

/-! ### The command -/

section
variable {s : State} {c : Chip} {path : Path} {page off v x : Nat}

/-- What a write of a direct register leaves, where it changes registers alone. -/
theorem exec_registerWrite (hidle : c = .ep → s.m.epIdle) {a : Access} {n : Mach} (ha : a ≠ .outside)
    (hw : (s.m.setCyc c x).regWrite c path page off (BitVec.ofNat 32 v) = (a, n)) (hb : n.bare = (s.m.setCyc c x).bare) :
    exec (.registerWrite c path page off v x) s = .next { s with m := n } := by
  have hran : ({ s with m := s.m.setCyc c x } : State).ran c n = { s with m := n } := ran_idle (idle_of_bare hidle hb)
  have hexec : exec (.registerWrite c path page off v x) s
      = ({ s with m := s.m.setCyc c x } : State).wrote c ((s.m.setCyc c x).regWrite c path page off (BitVec.ofNat 32 v)) := rfl
  rw [hexec, hw, State.wrote]
  cases a with
  | outside => exact absurd rfl ha
  | ok w => exact congrArg Host.Outcome.next hran
  | busError => exact congrArg Host.Outcome.next hran
  | denied st => exact congrArg Host.Outcome.next hran

/-- From `s`, what is `n` but for registers of the chip that `f` names, when only the cycle has been set. -/
theorem becomes_setCyc {n : Mach} {f : Nat → Bool} (h : (s.m.setCyc c x).touches n c f) :
    s.becomes { s with m := n } (s.m.setCyc c x) c f := by
  obtain ⟨hbare, hkept, hother⟩ := h
  rw [Mach.regsKept, Mach.rf_setCyc] at hkept
  rw [Mach.rf_setCyc] at hother
  exact ⟨hbare, ⟨hkept.1, fun k hk => (hkept.2 k hk).trans (Mach.word_setCyc ..)⟩, hother, rfl, rfl⟩

/-- A part of the register file has changed, and nothing beside it. -/
theorem becomesBut_setRf {r : RegFile} {back : RegFile → RegFile → RegFile} (hback : back r (s.m.rf c) = s.m.rf c) :
    s.becomesBut { s with m := (s.m.setCyc c x).setRf c r } (s.m.setCyc c x) c back noWord := by
  obtain ⟨n, hn⟩ : ∃ n, n = ((s.m.setCyc c x).setRf c r).setRf c (back (((s.m.setCyc c x).setRf c r).rf c) (s.m.rf c)) := ⟨_, rfl⟩
  have hrf : n.rf c = s.m.rf c := by rw [hn, Mach.rf_setRf, Mach.rf_setRf, hback]
  have hpar : n.epParams = s.m.epParams := by rw [hn, Mach.setRf_epParams, Mach.setRf_epParams, Mach.epParams_setCyc]
  have hother : n.rf (otherChip c) = s.m.rf (otherChip c) := by
    have hne : otherChip c ≠ c := by cases c <;> decide
    rw [hn, Mach.rf_setRf_other _ _ _ _ hne, Mach.rf_setRf_other _ _ _ _ hne, Mach.rf_setCyc]
  have hbare : n.bare = (s.m.setCyc c x).bare := by rw [hn, Mach.setRf_bare, Mach.setRf_bare]
  have hbecomes : s.becomes { s with m := n } (s.m.setCyc c x) c noWord :=
    ⟨hbare, ⟨by rw [hrf], fun k _ => by rw [Mach.word, Mach.word, hrf, hpar]⟩, hother, rfl, rfl⟩
  rw [hn] at hbecomes
  exact hbecomes

theorem exec_registerWrite_bad (hidle : c = .ep → s.m.epIdle)
    (hbad : (s.m.setCyc c x).writeBad c path page off (BitVec.ofNat 32 v) = true) :
    ∃ t, exec (.registerWrite c path page off v x) s = .next t ∧
      s.m.counted t.m c (byChip c Pg.chip Pg.eId) (byChip c R.chpBusErrCnt R.ep4BusErrCnt) ∧
      t.m.storedReg c (byChip c Pg.chip Pg.eId) (byChip c R.chpBusErr R.ep4BusErr)
        = pathCode c path + 4 + page % 2 ^ 11 * 8 + off % 2 ^ 14 * 2 ^ 14 ∧
      s.becomes t (s.m.setCyc c x) c (fun j => pageWord (byChip c Pg.chip Pg.eId) (byChip c R.chpBusErrCnt R.ep4BusErrCnt) j
        || pageWord (byChip c Pg.chip Pg.eId) (byChip c R.chpBusErr R.ep4BusErr) j) := by
  have ht := Mach.touches_busError (s.m.setCyc c x) c path true page off
  have hcount := Mach.counted_busError (s.m.setCyc c x) c path true page off
  rw [Mach.counted, Mach.word_setCyc] at hcount
  exact ⟨_, exec_registerWrite hidle (by simp) (Mach.regWrite_bad hbad) ht.1, hcount, Mach.busErr_write .., becomes_setCyc ht⟩

/-! ### Direct registers -/

variable {kind : PageKind} (hidle : c = .ep → s.m.epIdle) (hr : s.m.reaches c path page = some kind) (hctx : isCtxKind kind = false)
  (ho : off % 4 = 0) (hlt : off < 0xC00) {i : WordInfo} (hi : directInfo kind off = some i)
include hidle hr hctx ho hlt hi

theorem exec_registerWrite_direct (hout : Mach.directOutside kind off (BitVec.ofNat 32 v) = false) {n : Mach}
    (hn : (s.m.setCyc c x).directWrite c path page kind off (BitVec.ofNat 32 v) = n) (hb : n.bare = (s.m.setCyc c x).bare) :
    exec (.registerWrite c path page off v x) s = .next { s with m := n } := by
  have hreach := (Mach.reaches_setCyc s.m c c x path page).trans hr
  have hw := Mach.regWrite_direct (v := BitVec.ofNat 32 v) hreach hctx ho hlt (Option.isSome_iff_exists.2 ⟨i, hi⟩) hout
  rw [hn] at hw
  exact exec_registerWrite hidle (by simp) hw hb

variable (hgroup : i.group ≠ 33) (hlo : 0x100 ≤ off)
include hgroup hlo

/-- A register without an effect of its own is written by its access codes. -/
theorem exec_registerWrite_plain (hown : ownWrite kind off = false) {n : Mach}
    (hn : (s.m.setCyc c x).plainWrite c (item page 0 off) (BitVec.ofNat 32 v) = n) (hb : n.bare = (s.m.setCyc c x).bare) :
    exec (.registerWrite c path page off v x) s = .next { s with m := n } := by
  have hreach := (Mach.reaches_setCyc s.m c c x path page).trans hr
  have hkind := Mach.pageKind_of_reaches hreach
  have hinfo := Mach.info_direct hkind hlt hi
  have hout : Mach.directOutside kind off (BitVec.ofNat 32 v) = false := by
    by_contra h
    simp only [Mach.directOutside, Bool.not_eq_false, Bool.and_eq_true, beq_iff_eq] at h
    obtain ⟨⟨rfl, rfl⟩, -⟩ := h
    exact absurd hown (by decide)
  exact exec_registerWrite_direct hidle hr hctx ho hlt hi hout
    ((Mach.directWrite_plain hkind hctx (by rw [hinfo]; exact hgroup) hlo hown _).trans hn) hb

theorem exec_registerWrite_stored (hrws : i.rws = 0) (hown : ownWrite kind off = false) :
    ∃ t, exec (.registerWrite c path page off v x) s = .next t ∧
      t.m.word c (item page 0 off) = ((s.m.word c (item page 0 off) &&& ~~~(i.rw ||| i.w1c)) ||| (BitVec.ofNat 32 v &&& i.rw)
        ||| (s.m.word c (item page 0 off) &&& i.w1c &&& ~~~(BitVec.ofNat 32 v))) ∧
      s.becomes t (s.m.setCyc c x) c (fun j => j == item page 0 off) := by
  have hkind := Mach.pageKind_of_reaches ((Mach.reaches_setCyc s.m c c x path page).trans hr)
  have hinfo := Mach.info_direct hkind hlt hi
  have hplain : (s.m.setCyc c x).plainWrite c (item page 0 off) (BitVec.ofNat 32 v)
      = (s.m.setCyc c x).wordWrite c (item page 0 off) (BitVec.ofNat 32 v) := by
    rw [Mach.plainWrite, hinfo, if_pos hrws]
  have ht : (s.m.setCyc c x).touches ((s.m.setCyc c x).wordWrite c (item page 0 off) (BitVec.ofNat 32 v)) c
      (fun j => j == item page 0 off) := Mach.touches_setWord _ _ _ _ (beq_self_eq_true _)
  refine ⟨_, exec_registerWrite_plain hidle hr hctx ho hlt hi hgroup hlo hown hplain ht.1, ?_, becomes_setCyc ht⟩
  refine (Mach.word_setWord ..).trans ?_
  rw [if_pos rfl, hinfo, Mach.word_setCyc]

/-- Configuration is written to its shadow. -/
theorem exec_registerWrite_shadow (hrws : i.rws ≠ 0) {n : Mach}
    (hn : (s.m.setCyc c x).shadowWrite c (item page 0 off) (BitVec.ofNat 32 v) = n) (hb : n.bare = (s.m.setCyc c x).bare) :
    exec (.registerWrite c path page off v x) s = .next { s with m := n } := by
  have hkind := Mach.pageKind_of_reaches ((Mach.reaches_setCyc s.m c c x path page).trans hr)
  have hinfo := Mach.info_direct hkind hlt hi
  have hown : ownWrite kind off = false := Bool.eq_false_iff.2 fun h => hrws (Mach.ownWrite_rws h hctx hi)
  refine exec_registerWrite_plain hidle hr hctx ho hlt hi hgroup hlo hown ?_ hb
  rw [Mach.plainWrite, hinfo, if_neg hrws, hn]

theorem exec_registerWrite_lands (hrws : i.rws ≠ 0)
    (h : ∀ q, (s.m.rf c).commit = some q → q.at_ = s.m.now c → x < 848 ∨ 871 < x ∨ bitsOf q.mask i.group 1 = 0)
    (hnear : ∀ q, (s.m.rf c).commit = some q → q.named = false → q.at_ = s.m.now c ∨ q.at_ = s.m.now c + 1) :
    ∃ t, exec (.registerWrite c path page off v x) s = .next t ∧
      t.m.shadow c (item page 0 off) = (BitVec.ofNat 32 v &&& i.rws)
        ||| (s.m.liveCopy c (item page 0 off) &&& Mach.stickyMask c (item page 0 off)) ∧
      (∀ j, j ≠ item page 0 off → t.m.shadow c j = s.m.shadow c j) ∧
      s.becomesBut t (s.m.setCyc c x) c (fun n o => { n with shadow := o.shadow }) noWord := by
  have hkind := Mach.pageKind_of_reaches ((Mach.reaches_setCyc s.m c c x path page).trans hr)
  have hinfo := Mach.info_direct hkind hlt hi
  have hlands : (s.m.setCyc c x).holdsWrite c (item page 0 off) = false := by
    refine Mach.holdsWrite_false ?_ ?_
    · rw [Mach.rf_setCyc, Mach.now_setCyc, Mach.cyc_setCyc, hinfo]
      exact h
    · rw [Mach.rf_setCyc, Mach.now_setCyc]
      exact hnear
  have hland : (s.m.setCyc c x).shadowWrite c (item page 0 off) (BitVec.ofNat 32 v)
      = (s.m.setCyc c x).shadowLand c (item page 0 off) (BitVec.ofNat 32 v) := by
    rw [Mach.shadowWrite, hlands, if_neg Bool.false_ne_true]
  have hshadow := Mach.shadow_shadowLand (s.m.setCyc c x) c (item page 0 off) (BitVec.ofNat 32 v)
  refine ⟨_, exec_registerWrite_shadow hidle hr hctx ho hlt hi hgroup hlo hrws hland ?_, ?_, fun j hj => ?_, ?_⟩
  · exact Mach.setRf_bare ..
  · refine (hshadow _).trans ?_
    rw [if_pos rfl, hinfo, Mach.liveCopy_setCyc]
  · refine (hshadow j).trans ?_
    rw [if_neg hj, Mach.shadow_setCyc]
  · exact becomesBut_setRf (by rw [Mach.rf_setCyc])

theorem exec_registerWrite_held (hrws : i.rws ≠ 0) {q : PendingCommit} (hq : (s.m.rf c).commit = some q)
    (hat : q.at_ = s.m.now c) (h848 : 848 ≤ x) (h871 : x ≤ 871) (hmask : bitsOf q.mask i.group 1 = 1) :
    ∃ t, exec (.registerWrite c path page off v x) s = .next t ∧
      (t.m.rf c).held = (s.m.rf c).held ++ [(item page 0 off, BitVec.ofNat 32 v)] ∧
      s.becomesBut t (s.m.setCyc c x) c (fun n o => { n with held := o.held }) noWord := by
  have hkind := Mach.pageKind_of_reaches ((Mach.reaches_setCyc s.m c c x path page).trans hr)
  have hinfo := Mach.info_direct hkind hlt hi
  have hholds : (s.m.setCyc c x).holdsWrite c (item page 0 off) = true :=
    Mach.holdsWrite_true (q := q) (by rw [Mach.rf_setCyc, hq]) (by rw [Mach.now_setCyc, hat]) (by rw [Mach.cyc_setCyc]; exact h848)
      (by rw [Mach.cyc_setCyc]; exact h871) (by rw [hinfo]; exact hmask)
  have hhold : (s.m.setCyc c x).shadowWrite c (item page 0 off) (BitVec.ofNat 32 v) = (s.m.setCyc c x).setRf c
      { s.m.rf c with held := (s.m.rf c).held ++ [(item page 0 off, BitVec.ofNat 32 v)] } := by
    rw [Mach.shadowWrite, hholds, if_pos rfl, Mach.rf_setCyc]
  refine ⟨_, exec_registerWrite_shadow hidle hr hctx ho hlt hi hgroup hlo hrws hhold (Mach.setRf_bare ..), ?_,
    becomesBut_setRf rfl⟩
  exact congrArg RegFile.held (Mach.rf_setRf ..)

omit hgroup hlo in
/-- The interrupt words of a page: written by their access codes, after which the request line follows. -/
theorem exec_registerWrite_common (hoff : off = R.intStatus ∨ off = R.intEnable) (hg : i.group ≠ 33) :
    ∃ t, exec (.registerWrite c path page off v x) s = .next t ∧
      t.m.word c (item page 0 off) = ((s.m.word c (item page 0 off) &&& ~~~(i.rw ||| i.w1c)) ||| (BitVec.ofNat 32 v &&& i.rw)
        ||| (s.m.word c (item page 0 off) &&& i.w1c &&& ~~~(BitVec.ofNat 32 v))) ∧
      (t.m.rf c).requesting = t.m.anyRequest c ∧ s.becomes t (s.m.setCyc c x) c (fun j => j == item page 0 off) := by
  have hkind := Mach.pageKind_of_reaches ((Mach.reaches_setCyc s.m c c x path page).trans hr)
  have hinfo := Mach.info_direct hkind hlt hi
  have hout : Mach.directOutside kind off (BitVec.ofNat 32 v) = false := by
    rcases hoff with rfl | rfl <;> simp [Mach.directOutside, R.intStatus, R.intEnable, R.chpChatterClr]
  have hwrite : (s.m.setCyc c x).directWrite c path page kind off (BitVec.ofNat 32 v)
      = ((s.m.setCyc c x).wordWrite c (item page 0 off) (BitVec.ofNat 32 v)).updateIrq c := by
    have hcommon : (s.m.setCyc c x).commonReg c page kind off (item page 0 off) (BitVec.ofNat 32 v)
        = ((s.m.setCyc c x).wordWrite c (item page 0 off) (BitVec.ofNat 32 v)).updateIrq c := by
      rcases hoff with rfl | rfl <;> rfl
    have hlow : off < 0x100 := by rcases hoff with rfl | rfl <;> decide
    unfold Mach.directWrite
    dsimp only
    rw [hinfo, if_neg hg, if_pos hlow, hcommon]
  have ht : (s.m.setCyc c x).touches (((s.m.setCyc c x).wordWrite c (item page 0 off) (BitVec.ofNat 32 v)).updateIrq c) c
      (fun j => j == item page 0 off) :=
    Mach.touches.trans (Mach.touches_setWord _ _ _ _ (beq_self_eq_true _)) ⟨Mach.updateIrq_bare .., Mach.regsKept_updateIrq ..,
      Mach.rf_updateIrq_other _ _ _ (by cases c <;> decide)⟩
  refine ⟨_, exec_registerWrite_direct hidle hr hctx ho hlt hi hout hwrite ht.1, ?_, ?_, becomes_setCyc ht⟩
  · refine (Mach.word_updateIrq ..).trans ((Mach.word_setWord ..).trans ?_)
    rw [if_pos rfl, hinfo, Mach.word_setCyc]
  · have hrf := Mach.updateIrq_rf ((s.m.setCyc c x).wordWrite c (item page 0 off) (BitVec.ofNat 32 v)) c
    refine (congrArg RegFile.requesting hrf).trans ?_
    simp only [Mach.anyRequest, Mach.word_updateIrq, hrf]

end

/-- Settles O55: the write goes where its location's kind and masks send it. -/
theorem writesLandInShadowsOrAtOnce : Obligations.WritesLandInShadowsOrAtOnce := by
  unfold Obligations.WritesLandInShadowsOrAtOnce
  intro s c path page off v x hidle k i w cmd m id cnt err fails
  have hfails (h : s.m.reaches c path page = none) : fails :=
    exec_registerWrite_bad hidle (Mach.writeBad_unreached ((Mach.reaches_setCyc ..).trans h) _)
  refine ⟨fun h => hfails ?_, ?_, ?_, ?_⟩
  · rw [Mach.reaches, h]
  · rintro rfl hpage hvc4 hvc0
    exact hfails (Mach.reaches_ctx_none hpage hvc4 hvc0)
  · rintro rfl hready hpage
    exact hfails (Mach.reaches_unready hready hpage)
  · intro kind hr
    have hkind := Mach.pageKind_of_reaches hr
    refine ⟨fun ho => exec_registerWrite_bad hidle (Mach.writeBad_absent ((Mach.reaches_setCyc ..).trans hr) _ ho), ?_, ?_⟩
    · intro hctx ho hlt hsome hgroup
      obtain ⟨j, hj⟩ := Option.isSome_iff_exists.1 hsome
      have hinfo : i = j := Mach.info_direct hkind hlt hj
      rw [hinfo] at hgroup ⊢
      refine ⟨?_, ?_, ?_, ?_⟩
      · intro hlo hrws
        exact ⟨exec_registerWrite_lands hidle hr hctx ho hlt hj hgroup hlo hrws,
          fun q hq hat h848 h871 hmask => exec_registerWrite_held hidle hr hctx ho hlt hj hgroup hlo hrws hq hat h848 h871 hmask⟩
      · exact fun hlo hrws hown => exec_registerWrite_stored hidle hr hctx ho hlt hj hgroup hlo hrws hown
      · rintro rfl
        have hstatus : directInfo kind R.intStatus = some ⟨0, 0, BitVec.allOnes 32, 0, 0, 32⟩ := rfl
        obtain ⟨t, ht, hword, hrest⟩ := exec_registerWrite_common (v := v) (x := x) hidle hr hctx ho hlt hstatus (.inl rfl) (by decide)
        exact ⟨t, ht, hword.trans (word_cleared ..), hrest⟩
      · rintro rfl
        have henable : directInfo kind R.intEnable = some ⟨0, BitVec.allOnes 32, 0, 0, 0, 32⟩ := rfl
        obtain ⟨t, ht, hword, hrest⟩ := exec_registerWrite_common (v := v) (x := x) hidle hr hctx ho hlt henable (.inr rfl) (by decide)
        exact ⟨t, ht, hword.trans (word_taken ..), hrest⟩
    · rintro rfl rfl rfl hv
      obtain rfl : kind = .chip := Option.some.inj (hkind.symm.trans rfl)
      have hbad := Mach.writeBad_direct (off := R.chpChatterClr) ((Mach.reaches_setCyc s.m .sx .sx x path Pg.chip).trans hr) rfl rfl
        (by decide) rfl (BitVec.ofNat 32 v)
      have hout : Mach.directOutside .chip R.chpChatterClr (BitVec.ofNat 32 v) = true := by
        simp only [Mach.directOutside, BitVec.toNat_ofNat, hv, decide_true, beq_self_eq_true, Bool.and_self]
      have hwrite : (s.m.setCyc .sx x).regWrite .sx path Pg.chip R.chpChatterClr (BitVec.ofNat 32 v) = (.outside, s.m.setCyc .sx x) := by
        rw [Mach.regWrite, hbad, Mach.reaches_setCyc, hr]
        dsimp only
        rw [if_pos (by decide), if_pos hout]
      exact congrArg (fun a => ({ s with m := s.m.setCyc .sx x } : State).wrote .sx a) hwrite

end Sys2Proof.Machine
end

section
/-! O48: Pleat groups spill, take turns, stall, fault and are armed anew (R273 to R283). -/

set_option Elab.async false

namespace Sys2Proof.Machine
open Sys2Proof

namespace Mach
variable {m n : Mach}

/-! ### Groups that fault -/

theorem plt_of_bare (h : n.bare = m.bare) : n.plt = m.plt := by
  have hplt : n.bare.plt = m.bare.plt := by rw [h]
  exact hplt

theorem plt_of_faults (h : m.faults n) : n.plt = m.plt := by
  have hplt : n.bare.plt = m.bare.plt := by rw [h.bare]
  exact hplt

theorem plt_dropHeld (m : Mach) (h : Held) : (m.dropHeld h).plt = m.plt := by
  have hgive (k : Mach) (p v a : Nat) : (k.giveCredit p v a).plt = k.plt := by
    unfold giveCredit
    split_ifs <;> rfl
  exact hgive ..

/-- What faults a group first drops what waits for it. -/
theorem plt_dropHelds (m : Mach) (hs : List Held) : (hs.foldl dropHeld m).plt = m.plt :=
  foldl_inv (fun n => n.plt = m.plt) dropHeld (fun n h hn => (plt_dropHeld n h).trans hn) hs rfl

theorem drops_dropHelds (m : Mach) (hs : List Held) : m.drops (hs.foldl dropHeld m) noWord :=
  foldl_inv (fun n => m.drops n noWord) dropHeld (fun n h hn => hn.trans (dropHeld_drops n h _)) hs (drops_refl ..)

theorem grp_setGrp (m : Mach) (gk : Nat) (g : PGroup) (j : Nat) : (m.setGrp gk g).grp j = if j = gk then g else m.grp j := by
  simp [grp, setGrp, setPlt, Tbl.get_set]

theorem grp_pleatEmptied (m : Mach) (gk reason : Nat) : (m.pleatEmptied gk reason).grp gk
    = { m.grp gk with reason := reason, resident := false, leaving := false, done := [], drops := [], next := [] } := by
  rw [pleatEmptied, grp_setGrp, if_pos rfl]
  rfl

end Mach

/-- A group without a fault faults. -/
theorem groupFaults_pleatFault {s : State} {gk : Nat} (h : (s.m.grp gk).reason = 0) (reason : Nat) :
    s.groupFaults { s with m := s.m.pleatFault gk reason } gk reason := by
  obtain ⟨d, key, hfault⟩ := s.m.pleatFault_eq gk reason
  rw [if_neg (not_not_intro h)] at hfault
  obtain ⟨a, ha⟩ : ∃ a, a = ((s.m.waitingOf gk).foldl Mach.dropHeld s.m).pleatEmptied gk reason := ⟨_, rfl⟩
  obtain ⟨b, hb⟩ : ∃ b, b = (a.bump .sx Pg.pleat R.pltGroupFaultCnt).raise .sx Pg.pleat 0 d := ⟨_, rfl⟩
  rw [← ha, ← hb] at hfault
  have hpfault := Mach.faults_pfault b key reason false
  rw [← hfault] at hpfault
  have hplt : (s.m.pleatFault gk reason).plt = a.plt := by
    rw [Mach.plt_of_faults hpfault, hb]
    exact Mach.plt_of_bare ((Mach.raise_bare ..).trans (Mach.bump_bare ..))
  have hword : a.word .sx (item Pg.pleat 0 R.pltGroupFaultCnt) = s.m.word .sx (item Pg.pleat 0 R.pltGroupFaultCnt) := by
    rw [ha]
    exact (Mach.drops_dropHelds s.m (s.m.waitingOf gk)).regs.2 _ rfl
  have hgrp : (s.m.pleatFault gk reason).grp gk = _ :=
    (congrArg (fun p : PleatSt => Tbl.get (fun _ => ({} : PGroup)) p.groups gk) (hplt.trans (congrArg Mach.plt ha))).trans
      (Mach.grp_pleatEmptied ..)
  have hcount : (b.word .sx (item Pg.pleat 0 R.pltGroupFaultCnt)).toNat
      = min ((s.m.word .sx (item Pg.pleat 0 R.pltGroupFaultCnt)).toNat + 1) 0xFFFFFFFF := by
    rw [hb, Mach.word_raise _ _ _ _ _ _ (eventWord_none _ _ _ (by decide) (by decide) (by decide)), Mach.word_bump, hword]
  have hevent : b.event .sx Pg.pleat 0 = true := by
    rw [hb]
    exact Mach.event_raise _ _ _ _ _ _ _ (by decide) (.inr ⟨rfl, rfl⟩)
  refine ⟨congrArg PGroup.reason hgrp, congrArg PGroup.resident hgrp, congrArg PGroup.leaving hgrp, ?_, ?_, ?_, ?_, ?_, rfl, rfl⟩
  · intro c hc
    rw [hplt, ha] at hc
    exact bne_iff_ne.1 (List.mem_filter.1 hc).2
  · intro r hr
    rw [hplt, ha] at hr
    exact bne_iff_ne.1 (List.mem_filter.1 hr).2
  · intro hmem
    rw [hplt, ha] at hmem
    exact bne_iff_ne.1 (List.mem_filter.1 hmem).2 rfl
  · exact (congrArg BitVec.toNat (hpfault.word _ rfl rfl)).trans hcount
  · exact hpfault.events _ 0 (by decide) hevent

/-! ### Spill and readback -/

namespace Mach
variable {m : Mach} {c : Chunk} {rest : List Chunk}

/-- The machine with other chunks open. -/
def withChunks (m : Mach) (cs : List Chunk) : Mach := m.setPlt { m.plt with chunks := cs }

/-- The first chunk that bears its name changes, and no other. -/
theorem updChunk_first (hc : m.plt.chunks = c :: rest) (hne : rest.all (fun e => !sameChunk (Chunk.gk c) c.pass c.idx e) = true)
    (f : Chunk → Chunk) : m.updChunk (Chunk.gk c) c.pass c.idx f = m.withChunks (f c :: rest) := by
  have hsame : sameChunk (Chunk.gk c) c.pass c.idx c = true := by simp [sameChunk]
  have hrest : rest.map (fun e => if sameChunk (Chunk.gk c) c.pass c.idx e then f e else e) = rest := by
    refine (List.map_congr_left fun e he => ?_).trans (List.map_id _)
    rw [List.all_eq_true] at hne
    have hother := hne e he
    rw [Bool.not_eq_true'] at hother
    rw [hother, if_neg Bool.false_ne_true, id]
  rw [updChunk, hc, List.map_cons, hsame, if_pos rfl, hrest, withChunks]

theorem chunk?_first (hc : m.plt.chunks = c :: rest) : m.chunk? (Chunk.gk c) c.pass c.idx = some c := by
  rw [chunk?, hc, List.find?_cons_of_pos (by simp [sameChunk])]

/-- The cluster's one chunk that may be spilled is spilled. -/
theorem spillPick_sole {cl goal : Nat} (hc : m.plt.chunks = [c]) (hcl : clusterOfTile c.tile = cl) (h0 : c.spill = 0)
    (hpages : m.chunkPages c ≠ 0) (hgoal : m.freePages cl < goal) :
    m.spillPick cl goal 2 = (m.withChunks [{ c with spill := 1 }]).bump .sx Pg.pleat R.pltSpillCnt := by
  obtain ⟨n, hn⟩ : ∃ n, n = (m.withChunks [{ c with spill := 1 }]).bump .sx Pg.pleat R.pltSpillCnt := ⟨_, rfl⟩
  have hpick : (m.plt.chunks.filter fun c => clusterOfTile c.tile == cl && c.spill == 0 && m.chunkPages c != 0) = [c] := by
    rw [hc]
    simp [hcl, h0, hpages]
  have hwriting : (m.plt.chunks.filter fun c => clusterOfTile c.tile == cl && c.spill == 1) = [] := by
    rw [hc]
    simp [h0]
  have hnone : (n.plt.chunks.filter fun c => clusterOfTile c.tile == cl && c.spill == 0 && n.chunkPages c != 0) = [] := by
    have hplt : n.plt.chunks = [{ c with spill := 1 }] := by
      rw [hn, plt_of_bare (bump_bare ..)]
      rfl
    rw [hplt]
    simp
  have hupd := updChunk_first (c := c) (rest := []) hc rfl fun c => { c with spill := 1 }
  rw [spillPick, hwriting, sumOf, if_neg (by simp; omega), hpick]
  dsimp only [List.foldl_nil]
  rw [hupd, ← hn, spillPick, hnone]
  exact ite_self _

end Mach

theorem exec_pleatSpill_idle {s : State} {cl : Nat} (hcl : cl < 6)
    (h : s.m.fld .sx Pg.pleat F.pltSpillCtrl_spillLwm ≤ s.m.freePages cl ∨ s.m.mem.selfRefresh = true ∨ cl ∈ s.m.mem.retired) :
    exec (.pleatSpill cl) s = .next s := by
  have hstart : s.m.spillStart cl = s.m := by
    refine if_neg ?_
    rintro ⟨hlow, hrefresh, hretired⟩
    rcases h with h | h | h
    · omega
    · rw [h] at hrefresh
      exact Bool.noConfusion hrefresh
    · rw [List.contains_iff_mem.2 h] at hretired
      exact Bool.noConfusion hretired
  exact (if_pos (decide_eq_true hcl)).trans (go_eq (fun m => m.spillStart cl) hstart)

theorem exec_pleatSpill_sole {s : State} {cl : Nat} (hcl : cl < 6) {c : Chunk} (hc : s.m.plt.chunks = [c])
    (htile : clusterOfTile c.tile = cl) (h0 : c.spill = 0) (hpages : s.m.chunkPages c ≠ 0)
    (hlow : s.m.freePages cl < s.m.fld .sx Pg.pleat F.pltSpillCtrl_spillLwm) (hrefresh : s.m.mem.selfRefresh = false)
    (hretired : cl ∉ s.m.mem.retired) :
    exec (.pleatSpill cl) s
      = .next { s with m := (s.m.withChunks [{ c with spill := 1 }]).bump .sx Pg.pleat R.pltSpillCnt } := by
  have hstart : s.m.spillStart cl = (s.m.withChunks [{ c with spill := 1 }]).bump .sx Pg.pleat R.pltSpillCnt := by
    have hnot : List.contains s.m.mem.retired cl = false := by rwa [Bool.eq_false_iff, ne_eq, List.contains_iff_mem]
    refine (if_pos ⟨hlow, by rw [hrefresh]; rfl, by rw [hnot]; rfl⟩).trans ?_
    rw [hc]
    exact Mach.spillPick_sole hc htile h0 hpages (Nat.lt_of_lt_of_le hlow (Nat.le_max_right ..))
  exact (if_pos (decide_eq_true hcl)).trans (go_eq (fun m => m.spillStart cl) hstart)

section
variable {s : State} {c : Chunk} {rest : List Chunk} (hc : s.m.plt.chunks = c :: rest) (hgk : Mach.Chunk.gk c < 9216)
include hc hgk

section
variable (hne : rest.all (fun e => !Mach.sameChunk (Mach.Chunk.gk c) c.pass c.idx e) = true) (h1 : c.spill = 1)
include hne h1

theorem exec_spillWriteDone_stays (hg : (s.m.grp (Mach.Chunk.gk c)).leaving = false
      ∨ rest.any (fun e => Mach.Chunk.gk e == Mach.Chunk.gk c && e.spill == 1) = true) :
    exec (.spillWriteDone (Mach.Chunk.gk c) c.pass c.idx) s
      = .next { s with m := s.m.withChunks ({ c with spill := 2 } :: rest) } := by
  have hupd := Mach.updChunk_first hc hne fun c => if c.spill = 1 then { c with spill := 2 } else c
  rw [if_pos h1] at hupd
  have hdone : s.m.spillDone (Mach.Chunk.gk c) c.pass c.idx = s.m.withChunks ({ c with spill := 2 } :: rest) := by
    rw [Mach.spillDone, hupd]
    refine if_neg ?_
    rintro ⟨hleaving, hnone⟩
    rcases hg with hg | hg
    · exact Bool.noConfusion (hg.symm.trans hleaving)
    · have hany : ((s.m.withChunks ({ c with spill := 2 } :: rest)).plt.chunks.any fun e =>
          Mach.Chunk.gk e == Mach.Chunk.gk c && e.spill == 1) = true := by
        refine (List.any_cons ..).trans ?_
        rw [hg, Bool.or_true]
      rw [hany] at hnone
      exact Bool.noConfusion hnone
  exact (if_pos (decide_eq_true hgk)).trans (go_eq (fun m => m.spillDone (Mach.Chunk.gk c) c.pass c.idx) hdone)

theorem exec_spillWriteDone_leaves (hg : (s.m.grp (Mach.Chunk.gk c)).leaving = true)
    (hlast : rest.any (fun e => Mach.Chunk.gk e == Mach.Chunk.gk c && e.spill == 1) = false) :
    exec (.spillWriteDone (Mach.Chunk.gk c) c.pass c.idx) s = .next { s with
      m := (s.m.withChunks ({ c with spill := 2 } :: rest)).setGrp (Mach.Chunk.gk c)
        { s.m.grp (Mach.Chunk.gk c) with leaving := false } } := by
  have hupd := Mach.updChunk_first hc hne fun c => if c.spill = 1 then { c with spill := 2 } else c
  rw [if_pos h1] at hupd
  have hdone : s.m.spillDone (Mach.Chunk.gk c) c.pass c.idx = (s.m.withChunks ({ c with spill := 2 } :: rest)).setGrp
      (Mach.Chunk.gk c) { s.m.grp (Mach.Chunk.gk c) with leaving := false } := by
    rw [Mach.spillDone, hupd]
    refine if_pos ⟨hg, ?_⟩
    have hany : ((s.m.withChunks ({ c with spill := 2 } :: rest)).plt.chunks.any fun e =>
        Mach.Chunk.gk e == Mach.Chunk.gk c && e.spill == 1) = false := by
      refine (List.any_cons ..).trans ?_
      rw [hlast]
      simp
    rw [hany]
    rfl
  exact (if_pos (decide_eq_true hgk)).trans (go_eq (fun m => m.spillDone (Mach.Chunk.gk c) c.pass c.idx) hdone)

end

theorem exec_spillReadback_waits (h : c.spill ≠ 2 ∨ s.m.mem.selfRefresh = true ∨ (s.m.grp (Mach.Chunk.gk c)).resident = false
      ∨ s.m.freePages (clusterOfTile c.tile) < s.m.chunkPages c) (bad : Bool) :
    exec (.spillReadback (Mach.Chunk.gk c) c.pass c.idx bad) s = .next s := by
  have hread : s.m.readBack (Mach.Chunk.gk c) c.pass c.idx bad = s.m := by
    rw [Mach.readBack, Mach.chunk?_first hc]
    refine if_pos ?_
    rcases h with h | h | h | h
    · exact .inl h
    · exact .inr (.inl h)
    · exact .inr (.inr (.inl (by rw [h]; rfl)))
    · exact .inr (.inr (.inr h))
  exact (if_pos (decide_eq_true hgk)).trans (go_eq (fun m => m.readBack (Mach.Chunk.gk c) c.pass c.idx bad) hread)

theorem exec_spillReadback (h2 : c.spill = 2) (hrefresh : s.m.mem.selfRefresh = false)
    (hres : (s.m.grp (Mach.Chunk.gk c)).resident = true) (hroom : s.m.chunkPages c ≤ s.m.freePages (clusterOfTile c.tile))
    (bad : Bool) : exec (.spillReadback (Mach.Chunk.gk c) c.pass c.idx bad) s = .next { s with
      m := if bad then s.m.pleatFault (Mach.Chunk.gk c) Reason.poison
        else (s.m.updChunk (Mach.Chunk.gk c) c.pass c.idx fun c => { c with spill := 0 }).bump .sx Pg.pleat R.pltReloadCnt } := by
  have hread : s.m.readBack (Mach.Chunk.gk c) c.pass c.idx bad = if bad then s.m.pleatFault (Mach.Chunk.gk c) Reason.poison
      else (s.m.updChunk (Mach.Chunk.gk c) c.pass c.idx fun c => { c with spill := 0 }).bump .sx Pg.pleat R.pltReloadCnt := by
    rw [Mach.readBack, Mach.chunk?_first hc]
    refine if_neg ?_
    rintro (h | h | h | h)
    · exact h h2
    · exact Bool.noConfusion (hrefresh.symm.trans h)
    · rw [hres] at h
      exact Bool.noConfusion h
    · omega
  exact (if_pos (decide_eq_true hgk)).trans (go_eq (fun m => m.readBack (Mach.Chunk.gk c) c.pass c.idx bad) hread)

end

/-! ### Residency -/

namespace Mach
variable {m n : Mach} {j gk : Nat}

/-- The active groups that wait to be resident. -/
def waitingGroups (m : Mach) : List Nat := m.plt.active.filter fun k => !(m.grp k).resident && !(m.grp k).leaving

/-- The machine after room was sought for a waiting group; none is sought in self-refresh (R286). -/
def roomFor (m : Mach) (gk : Nat) : Mach :=
  if m.mem.selfRefresh then m else m.makeRoom gk (m.plt.groups.length + 1)

theorem roomFor_of_keeps (h : m.makeRoom gk (m.plt.groups.length + 1) = m) : m.roomFor gk = m := by
  rw [roomFor, h, ite_self]

/-- Where no resident group is idle and every active group still is, a hem seeks room for the one group that waits. -/
theorem residency_of_waiting (hidle : (m.plt.groups.map (·.1)).filter (fun k => (m.grp k).resident && !m.isActive k) = [])
    (hact : m.plt.active.filter m.isActive = m.plt.active) (hw : m.waitingGroups = [gk]) :
    m.residency = (m.roomFor gk).admitGroups (m.roomFor gk).waitingGroups := by
  have hsame : m.setPlt { m.plt with active := m.plt.active.filter m.isActive } = m := by
    rw [hact]
    rfl
  rw [waitingGroups] at hw
  unfold residency
  dsimp only
  rw [hidle, List.foldl_nil, hsame, hw]
  rfl

/-- No group is resident, so none can be descheduled. -/
theorem makeRoom_of_none (h : ∀ k ∈ m.plt.groups.map (·.1), (m.grp k).resident = false) (gk : Nat) :
    ∀ n, m.makeRoom gk n = m
  | 0 => rfl
  | n + 1 => by
    have hpast : m.oldestPast = none := by
      rw [oldestPast, List.filter_eq_nil_iff.2 fun k hk => by rw [h k hk]; simp]
      rfl
    rw [makeRoom, hpast]
    exact ite_self _

theorem admitGroups_fits (h : m.fits gk [] = true) :
    m.admitGroups [gk] = m.setGrp gk { m.grp gk with resident := true, since := m.time.number } := by
  rw [admitGroups, if_pos h, admitGroups]

theorem admitGroups_full (h : m.fits gk [] = false) : m.admitGroups [gk] = m := by
  rw [admitGroups, if_neg (by rw [h]; exact Bool.false_ne_true)]

end Mach

section
variable {s : State} {gk : Nat} (ha : s.m.plt.active = [gk]) (hact : s.m.isActive gk = true)
  (hr : (s.m.grp gk).resident = false) (hl : (s.m.grp gk).leaving = false)
  (hnone : s.m.plt.groups.all (fun e => !(s.m.grp e.1).resident && !(s.m.grp e.1).leaving) = true)
include ha hact hr hl hnone

/-- With no group resident a hem admits the waiting group, where it fits. -/
theorem residency_empty : s.m.residency = s.m.admitGroups [gk] := by
  have hres : ∀ k ∈ s.m.plt.groups.map (·.1), (s.m.grp k).resident = false := by
    intro k hk
    obtain ⟨e, he, rfl⟩ := List.mem_map.1 hk
    have hall := List.all_eq_true.1 hnone e he
    rw [Bool.and_eq_true, Bool.not_eq_true'] at hall
    exact hall.1
  have hidle : (s.m.plt.groups.map (·.1)).filter (fun k => (s.m.grp k).resident && !s.m.isActive k) = [] :=
    List.filter_eq_nil_iff.2 fun k hk => by rw [hres k hk]; simp
  have hstill : s.m.plt.active.filter s.m.isActive = s.m.plt.active := by
    rw [ha]
    simp [hact]
  have hwait : s.m.waitingGroups = [gk] := by
    rw [Mach.waitingGroups, ha]
    simp [hr, hl]
  rw [Mach.residency_of_waiting hidle hstill hwait, Mach.roomFor_of_keeps (Mach.makeRoom_of_none hres gk _), hwait]

theorem exec_groupResidency_empty :
    (s.m.fits gk [] = true → exec .groupResidency s = .next { s with
      m := s.m.setGrp gk { s.m.grp gk with resident := true, since := s.m.time.number } }) ∧
    (s.m.fits gk [] = false → exec .groupResidency s = .next s) := by
  have hres := residency_empty ha hact hr hl hnone
  exact ⟨fun hfits => go_eq Mach.residency (hres.trans (Mach.admitGroups_fits hfits)),
    fun hfull => go_eq Mach.residency (hres.trans (Mach.admitGroups_full hfull))⟩

end

/-- An idle resident group leaves residency. -/
theorem exec_groupResidency_idle {s : State} {gk : Nat} {g : PGroup} (hg : s.m.plt.groups = [(gk, g)])
    (ha : s.m.plt.active = []) (hr : g.resident = true) (hact : s.m.isActive gk = false) :
    exec .groupResidency s = .next { s with m := s.m.setGrp gk { g with resident := false } } := by
  have hgrp : s.m.grp gk = g := by
    rw [Mach.grp, hg]
    exact if_pos rfl
  have hidle : (s.m.plt.groups.map (·.1)).filter (fun k => (s.m.grp k).resident && !s.m.isActive k) = [gk] := by
    rw [hg]
    simp [hgrp, hr, hact]
  refine go_eq Mach.residency ?_
  obtain ⟨n, hn⟩ : ∃ n, n = s.m.setGrp gk { g with resident := false } := ⟨_, rfl⟩
  have hnone : n.plt.active = [] := by
    rw [hn]
    exact ha
  have hsame : n.setPlt { n.plt with active := n.plt.active } = n := rfl
  unfold Mach.residency
  dsimp only
  rw [hidle, List.foldl_cons, List.foldl_nil, hgrp, ← hn, hnone, List.filter_nil, ← hnone, hsame, hnone, List.filter_nil]
  dsimp only
  rw [hnone]
  rfl

/-! ### What the tables say of a group -/

namespace Mach

/-- Every table word reads as before, whatever became of the direct registers. -/
def tablesKept (m n : Mach) : Prop := ∀ p u o, 0 < u → u < 16 → o < 2 ^ 44 → n.live .sx (item p u o) = m.live .sx (item p u o)

section
variable {m n : Mach} (htab : m.tablesKept n)
include htab

theorem pd_congr {g : Nat} (hg : g < 8192) {x : Fld} (hx : x.off < 16) : n.pd g x = m.pd g x := by
  rw [pd, tfld, htab _ _ _ (by decide) (by decide) (by omega)]
  rfl

theorem bd_congr {g : Nat} (hg : g < 1024) {x : Fld} (hx : x.off < 16) : n.bd g x = m.bd g x := by
  rw [bd, tfld, htab _ _ _ (by decide) (by decide) (by omega)]
  rfl

theorem gdesc_congr (gk : Nat) : n.gdesc gk = m.gdesc gk := by
  unfold gdesc
  by_cases hgk : gk < 8192
  · have hpd {x : Fld} (hx : x.off < 16) : n.pd gk x = m.pd gk x := pd_congr htab hgk hx
    simp (disch := decide) only [if_pos hgk, chunksOf, elemsOf, hpd]
  · by_cases hg : 1024 ≤ gk - 8192
    · simp only [if_neg hgk, if_pos hg]
    · have hbd {x : Fld} (hx : x.off < 16) : n.bd (gk - 8192) x = m.bd (gk - 8192) x := bd_congr htab (by omega) hx
      simp (disch := decide) only [if_neg hgk, if_neg hg, hbd]

theorem pMax_congr {gk : Nat} (hgk : gk < 9216) : n.pMax gk = m.pMax gk := by
  unfold pMax
  by_cases h : 8192 ≤ gk
  · have hbd {x : Fld} (hx : x.off < 16) : n.bd (gk - 8192) x = m.bd (gk - 8192) x := bd_congr htab (by omega) hx
    simp (disch := decide) only [if_pos h, bucketPages, recSize, hbd]
  · have hpd {x : Fld} (hx : x.off < 16) : n.pd gk x = m.pd gk x := pd_congr htab (by omega) hx
    have htree : n.treeAdd gk = m.treeAdd gk := by simp (disch := decide) only [treeAdd, hpd]
    simp (disch := decide) only [if_neg h, heldPages, htree, elemsOf, hpd]

end
end Mach

/-! ### A group past its quantum makes room -/

namespace Mach

/-- The words that count descheduling. -/
def deschedWord (k : Nat) : Bool := pageWord Pg.pleat R.pltDeschedCnt k || pageWord Pg.pleat R.pltSpillCnt k

theorem deschedWord_item {p u o : Nat} (hu : u < 16) (ho : o < 2 ^ 44)
    (hne : u = 0 → o ≠ R.pltDeschedCnt ∧ o ≠ R.pltSpillCnt) : deschedWord (item p u o) = false := by
  simp only [deschedWord, pageWord, Bool.or_eq_false_iff, beq_eq_false_iff_ne, ne_eq,
    item_inj ho (show R.pltDeschedCnt < 2 ^ 44 by decide) hu (show 0 < 16 by decide),
    item_inj ho (show R.pltSpillCnt < 2 ^ 44 by decide) hu (show 0 < 16 by decide)]
  exact ⟨fun h => (hne h.2.1).1 h.2.2, fun h => (hne h.2.1).2 h.2.2⟩

theorem table_of_deschedWord {m n : Mach} (hlive : ∀ k, deschedWord k = false → n.live .sx k = m.live .sx k) :
    m.tablesKept n := fun _ _ _ hu h16 ho => hlive _ (deschedWord_item h16 ho fun h => absurd h (by omega))

section
variable {m n : Mach} (hlive : ∀ k, deschedWord k = false → n.live .sx k = m.live .sx k)
include hlive

theorem backing_congr (hret : n.mem = m.mem) (cl : Nat) : n.backing cl = m.backing cl := by
  have hkey : deschedWord (item (Pg.cluster cl) 0 F.cluHbmLayout_spillUnits.off) = false :=
    deschedWord_item (by decide) (by decide) fun _ => by decide
  rw [backing, backing, fld, hlive _ hkey, hret]
  rfl

omit hlive in
theorem clustersOf_congr (hout : n.out1 = m.out1) (d : GroupDesc) : n.clustersOf d = m.clustersOf d := by
  rw [clustersOf, tilesOf, hout]
  rfl

/-- A group that holds a reservation charges it, whether it is resident or leaving (R276). -/
theorem charge_congr (hout : n.out1 = m.out1) {j : Nat} (hj : j < 9216) (hm : (m.grp j).resident = true ∨ (m.grp j).leaving = true)
    (hn : (n.grp j).resident = true ∨ (n.grp j).leaving = true) (cl : Nat) : n.charge j cl = m.charge j cl := by
  rw [charge, charge]
  dsimp only
  rw [if_pos hm, if_pos hn, gdesc_congr (table_of_deschedWord hlive), clustersOf_congr hout, pMax_congr (table_of_deschedWord hlive) hj]

end

section
variable {m : Mach} {j gk : Nat} {g : PGroup} (hg : m.plt.groups = [(j, g)]) (hne : j ≠ gk)
include hg

theorem grp_sole : m.grp j = g := by
  rw [grp, hg]
  exact if_pos rfl

theorem grp_beside_sole (hne : j ≠ gk) : m.grp gk = {} := by
  rw [grp, hg]
  exact if_neg hne

/-- What a group is measured against where one other group is known. -/
theorem fits_beside_sole (hne : j ≠ gk) : m.fits gk [] = (m.clustersOf (m.gdesc gk)).all fun cl =>
    decide ((m.charge j cl).1 + (m.gdesc gk).quota ≤ 16384)
      && decide ((m.charge j cl).2 + (m.gdesc gk).quota * m.pMax gk ≤ m.backing cl) := by
  have hothers : (m.plt.groups.map (·.1)).filter (fun k => k != gk && !([] : List Nat).contains k) = [j] := by
    rw [hg]
    simp [hne]
  have hfew : decide (([j].filter fun k => (m.grp k).resident).length < 1024) = true := by
    have hlen : ([j].filter fun k => (m.grp k).resident).length ≤ 1 := List.length_filter_le ..
    exact decide_eq_true (by omega)
  unfold fits
  dsimp only
  rw [hothers, hfew, Bool.true_and]
  simp [sumOf]

end

/-- A group that is descheduled keeps its reservation while it leaves, so what waited for its room still waits. -/
theorem fits_congr_sole {m n : Mach} {j gk : Nat} {g f : PGroup} (hlive : ∀ k, deschedWord k = false → n.live .sx k = m.live .sx k)
    (hout : n.out1 = m.out1) (hmem : n.mem = m.mem) (hj : j < 9216) (hgk : gk < 9216) (hne : j ≠ gk)
    (hm : m.plt.groups = [(j, g)]) (hn : n.plt.groups = [(j, f)]) (hg : g.resident = true ∨ g.leaving = true)
    (hf : f.resident = true ∨ f.leaving = true) : n.fits gk [] = m.fits gk [] := by
  have hcharge (cl : Nat) : n.charge j cl = m.charge j cl :=
    charge_congr hlive hout hj (by rwa [grp_sole hm]) (by rwa [grp_sole hn]) cl
  simp only [fits_beside_sole hm hne, fits_beside_sole hn hne, hcharge, gdesc_congr (table_of_deschedWord hlive), clustersOf_congr hout,
    pMax_congr (table_of_deschedWord hlive) hgk, backing_congr hlive hmem]

end Mach

namespace Mach

/-- A group that holds valid work has a descriptor. -/
theorem lt_of_isActive {m : Mach} {gk : Nat} (h : m.isActive gk = true) : gk < 9216 := by
  by_contra hge
  have hvalid : (m.gdesc gk).valid = false := by
    have hlow : ¬gk < 8192 := by omega
    have hhigh : 1024 ≤ gk - 8192 := by omega
    unfold gdesc
    simp only [if_neg hlow, if_pos hhigh]
  rw [isActive, hvalid, Bool.false_and, Bool.false_and] at h
  exact Bool.false_ne_true h

/-- A descheduled group whose one chunk spills. -/
def descheduled (m : Mach) (j : Nat) (g : PGroup) (c : Chunk) (order : List Nat) : Mach :=
  m.setPlt { m.plt with
    chunks := [{ c with spill := 1 }], active := order, groups := [(j, { g with resident := false, leaving := true })] }

variable {m : Mach} {j gk : Nat} {g : PGroup} {c : Chunk}

theorem deschedule_sole (hg : m.plt.groups = [(j, g)]) (ha : m.plt.active = [j, gk]) (hne : j ≠ gk) (hc : m.plt.chunks = [c])
    (hck : Chunk.gk c = j) (h0 : c.spill = 0) : m.deschedule j
      = ((m.descheduled j g c [gk, j]).bump .sx Pg.pleat R.pltDeschedCnt).bump .sx Pg.pleat R.pltSpillCnt := by
  have hspill : ([c].filter fun c => Chunk.gk c == j && c.spill == 0) = [c] := by simp [hck, h0]
  have hchunks : ([c].map fun c => if Chunk.gk c = j ∧ c.spill = 0 then { c with spill := 1 } else c) = [{ c with spill := 1 }] := by
    simp [hck, h0]
  have horder : [j, gk].filter (· != j) ++ [j] = [gk, j] := by simp [hne.symm]
  have hleaving : ([{ c with spill := 1 }].any fun c => Chunk.gk c == j && c.spill == 1) = true := by
    have hkey : Chunk.gk { c with spill := 1 } = j := hck
    simp [hkey]
  have hset : Tbl.set (fun _ => ({} : PGroup)) [(j, g)] j { g with resident := false, leaving := true }
      = [(j, { g with resident := false, leaving := true })] := by
    have hnew : ({ g with resident := false, leaving := true } : PGroup) ≠ {} := fun e =>
      Bool.noConfusion (congrArg PGroup.leaving e)
    rw [Tbl.set, if_neg hnew, Tbl.erase, if_pos rfl]
    rfl
  obtain ⟨n, hn⟩ : ∃ n, n = m.setPlt { m.plt with chunks := [{ c with spill := 1 }], active := [gk, j] } := ⟨_, rfl⟩
  have hgroups : n.plt.groups = [(j, g)] := by
    rw [hn]
    exact hg
  have hopen : n.plt.chunks = [{ c with spill := 1 }] := by rw [hn]; rfl
  have hdone : n.setGrp j { g with resident := false, leaving := true } = m.descheduled j g c [gk, j] := by
    rw [setGrp, hgroups, hset, hn]
    rfl
  unfold deschedule
  dsimp only
  rw [hc, ha, hspill, hchunks, horder, ← hn, grp_sole hgroups, hopen, hleaving, hdone]
  rfl

/-- After the descheduling nothing more makes room, and the waiting group goes on waiting. -/
theorem residency_sole (hg : m.plt.groups = [(j, g)]) (ha : m.plt.active = [j, gk]) (hne : j ≠ gk) (hc : m.plt.chunks = [c])
    (hck : Chunk.gk c = j) (h0 : c.spill = 0) (hj : m.isActive j = true) (hgk : m.isActive gk = true) (hr : g.resident = true)
    (hl : g.leaving = false) (hold : g.since + (m.gdesc j).quantum ≤ m.time.number) (hfull : m.fits gk [] = false)
    (hself : m.mem.selfRefresh = false) : m.residency
      = ((m.descheduled j g c [gk, j]).bump .sx Pg.pleat R.pltDeschedCnt).bump .sx Pg.pleat R.pltSpillCnt := by
  have hgrp : m.grp j = g := grp_sole hg
  have hother : m.grp gk = {} := grp_beside_sole hg hne
  have hidle : (m.plt.groups.map (·.1)).filter (fun k => (m.grp k).resident && !m.isActive k) = [] := by
    rw [hg]
    simp [hj]
  have hstill : m.plt.active.filter m.isActive = m.plt.active := by
    rw [ha]
    simp [hj, hgk]
  have hwait : m.waitingGroups = [gk] := by
    rw [waitingGroups, ha]
    simp [hgrp, hother, hr]
  have hpast : m.oldestPast = some j := by
    have honly : (m.plt.groups.map (·.1)).filter (fun k => (m.grp k).resident
        && decide ((m.grp k).since + (m.gdesc k).quantum ≤ m.time.number)) = [j] := by
      rw [hg]
      simp [hgrp, hr, hold]
    rw [oldestPast, honly]
    rfl
  have hnobody : (m.plt.groups.map (·.1)).filter (fun k => (m.grp k).leaving) = [] := by
    rw [hg]
    simp [hgrp, hl]
  obtain ⟨n, hn⟩ : ∃ n, n = ((m.descheduled j g c [gk, j]).bump .sx Pg.pleat R.pltDeschedCnt).bump .sx Pg.pleat R.pltSpillCnt :=
    ⟨_, rfl⟩
  have hbare : n.bare = (m.descheduled j g c [gk, j]).bare := by rw [hn, bump_bare, bump_bare]
  have hplt : n.plt = (m.descheduled j g c [gk, j]).plt := plt_of_bare hbare
  have hgroups : n.plt.groups = [(j, { g with resident := false, leaving := true })] := by
    rw [hplt]
    rfl
  have hroom : m.roomFor gk = n := by
    have hlen : m.plt.groups.length = 1 := by rw [hg]; rfl
    have hnone : n.makeRoom gk 1 = n := makeRoom_of_none (fun k hk => by
      rw [hgroups] at hk
      rw [List.mem_singleton.1 hk, grp_sole hgroups]) gk 1
    rw [roomFor, if_neg (by rw [hself]; exact Bool.false_ne_true), hlen, makeRoom]
    rw [hnobody, if_neg (by rw [hfull]; exact Bool.false_ne_true), hpast]
    dsimp only
    rw [deschedule_sole hg ha hne hc hck h0, ← hn, hnone]
  have hlive (k : Nat) (hk : deschedWord k = false) : n.live .sx k = m.live .sx k := by
    have hkept : (m.descheduled j g c [gk, j]).touches n .sx deschedWord := by
      rw [hn]
      exact (touches_bump _ _ _ _ rfl).trans (touches_bump _ _ _ _ rfl)
    exact live_of_kept hkept.2.1 (epParams_of_bare hbare) k hk
  have hlater : n.waitingGroups = [gk] := by
    have hactive : n.plt.active = [gk, j] := by
      rw [hplt]
      rfl
    rw [waitingGroups, hactive]
    simp [grp_sole hgroups, grp_beside_sole hgroups hne]
  have hstays : n.fits gk [] = false := by
    have hout : n.bare.out1 = m.bare.out1 := by rw [hbare]; rfl
    have hmem : n.bare.mem = m.bare.mem := by rw [hbare]; rfl
    exact (fits_congr_sole hlive hout hmem (lt_of_isActive hj) (lt_of_isActive hgk) hne hg hgroups (.inl hr) (.inr rfl)).trans hfull
  rw [residency_of_waiting hidle hstill hwait, hroom, hlater, admitGroups_full hstays, hn]

end Mach

theorem exec_groupResidency_sole {s : State} {j gk : Nat} {g : PGroup} {c : Chunk} (hg : s.m.plt.groups = [(j, g)])
    (ha : s.m.plt.active = [j, gk]) (hne : j ≠ gk) (hc : s.m.plt.chunks = [c]) (hck : Mach.Chunk.gk c = j) (h0 : c.spill = 0)
    (hj : s.m.isActive j = true) (hgk : s.m.isActive gk = true) (hr : g.resident = true) (hl : g.leaving = false)
    (hold : g.since + (s.m.gdesc j).quantum ≤ s.m.time.number) (hfull : s.m.fits gk [] = false)
    (hself : s.m.mem.selfRefresh = false) :
    ∃ t, exec .groupResidency s = .next t ∧ t.m.grp j = { g with resident := false, leaving := true } ∧
      t.m.plt.chunks = [{ c with spill := 1 }] ∧ t.m.plt.active = [gk, j] ∧
      s.m.counted t.m .sx Pg.pleat R.pltDeschedCnt ∧ s.m.counted t.m .sx Pg.pleat R.pltSpillCnt ∧
      s.becomes t { s.m with plt := t.m.plt } .sx
        (fun k => pageWord Pg.pleat R.pltDeschedCnt k || pageWord Pg.pleat R.pltSpillCnt k) := by
  obtain ⟨a, hdef⟩ : ∃ a, a = s.m.descheduled j g c [gk, j] := ⟨_, rfl⟩
  obtain ⟨b, hb⟩ : ∃ b, b = a.bump .sx Pg.pleat R.pltDeschedCnt := ⟨_, rfl⟩
  obtain ⟨n, hn⟩ : ∃ n, n = b.bump .sx Pg.pleat R.pltSpillCnt := ⟨_, rfl⟩
  have hexec : exec .groupResidency s = .next { s with m := n } :=
    go_eq Mach.residency ((Mach.residency_sole hg ha hne hc hck h0 hj hgk hr hl hold hfull hself).trans (by rw [hn, hb, hdef]))
  have hkept : a.touches n .sx Mach.deschedWord := by
    rw [hn, hb]
    exact (Mach.touches_bump _ _ _ _ rfl).trans (Mach.touches_bump _ _ _ _ rfl)
  have hplt : n.plt = a.plt := Mach.plt_of_bare hkept.1
  have hword (k : Nat) : a.word .sx k = s.m.word .sx k := by
    rw [hdef]
    rfl
  have hdesched : s.m.counted n .sx Pg.pleat R.pltDeschedCnt := by
    have hne : item Pg.pleat 0 R.pltDeschedCnt ≠ item Pg.pleat 0 R.pltSpillCnt := by decide
    rw [Mach.counted, hn, Mach.bump, Mach.bumpBy, Mach.word_setWord, if_neg hne, hb, Mach.word_bump, hword]
  have hspilt : s.m.counted n .sx Pg.pleat R.pltSpillCnt := by
    have hne : item Pg.pleat 0 R.pltSpillCnt ≠ item Pg.pleat 0 R.pltDeschedCnt := by decide
    have hfirst : b.word .sx (item Pg.pleat 0 R.pltSpillCnt) = a.word .sx (item Pg.pleat 0 R.pltSpillCnt) := by
      rw [hb, Mach.bump, Mach.bumpBy, Mach.word_setWord, if_neg hne]
    rw [Mach.counted, hn, Mach.word_bump, hfirst, hword]
  have hgroups : n.plt.groups = [(j, { g with resident := false, leaving := true })] := by
    rw [hplt, hdef]
    rfl
  refine ⟨_, hexec, Mach.grp_sole hgroups, ?_, ?_, hdesched, hspilt, ?_⟩
  · rw [hplt, hdef]
    rfl
  · rw [hplt, hdef]
    rfl
  · have hbare : n.bare = ({ s.m with plt := n.plt } : Mach).bare := by
      rw [hkept.1, hplt, hdef]
      rfl
    have hregs : s.m.regsKept a .sx Mach.deschedWord := by
      rw [hdef]
      exact Mach.kept_of_rf rfl rfl _
    have hep : a.rf .ep = s.m.rf .ep := by
      rw [hdef]
      rfl
    exact becomes_of hbare (hregs.trans hkept.2.1) (hkept.2.2.trans hep)

/-! ### Stall and re-arming -/

theorem exec_chunkStall {s : State} {gk : Nat} (hgk : gk < 9216) (pass idx : Nat) : exec (.chunkStall gk pass idx) s
    = .next { s with m := if s.m.stalled gk pass idx then s.m.pleatFault gk Reason.stall else s.m } :=
  if_pos (decide_eq_true hgk)

theorem exec_groupRearm {s : State} {bucket : Bool} {n : Nat} (hn : n < if bucket then 1024 else 8192) :
    exec (.groupRearm bucket n) s = .next { s with
      m := if (s.m.grp (if bucket then 8192 + n else n)).reason ≠ 0 then s.m.setGrp (if bucket then 8192 + n else n)
        { s.m.grp (if bucket then 8192 + n else n) with rearm := true } else s.m } :=
  if_pos (decide_eq_true hn)

/-- A chunk's new place in the spill, counted. -/
theorem becomes_withChunks (s : State) (cs : List Chunk) {o : Nat} : ∀ n, n = (s.m.withChunks cs).bump .sx Pg.pleat o →
    s.m.counted n .sx Pg.pleat o ∧
      s.becomes { s with m := n } { s.m with plt := { s.m.plt with chunks := cs } } .sx (pageWord Pg.pleat o) := by
  intro n hn
  obtain ⟨a, hdef⟩ : ∃ a, a = s.m.withChunks cs := ⟨_, rfl⟩
  rw [← hdef] at hn
  have hkept : a.touches n .sx (pageWord Pg.pleat o) := by
    rw [hn]
    exact Mach.touches_bump _ _ _ _ (beq_self_eq_true _)
  have hword : a.word .sx (item Pg.pleat 0 o) = s.m.word .sx (item Pg.pleat 0 o) := by
    rw [hdef]
    rfl
  refine ⟨?_, ?_⟩
  · rw [Mach.counted, hn, Mach.word_bump, hword]
  · have hbare : n.bare = ({ s.m with plt := { s.m.plt with chunks := cs } } : Mach).bare := by
      rw [hkept.1, hdef]
      rfl
    have hregs : s.m.regsKept a .sx (pageWord Pg.pleat o) := by
      rw [hdef]
      exact Mach.kept_of_rf rfl rfl _
    have hep : a.rf .ep = s.m.rf .ep := by
      rw [hdef]
      rfl
    exact becomes_of hbare (hregs.trans hkept.2.1) (hkept.2.2.trans hep)

/-- Settles O48: chunk by chunk in the spill, case by case in the hem. -/
theorem groupsSpillAndTakeTurns : Obligations.GroupsSpillAndTakeTurns := by
  unfold Obligations.GroupsSpillAndTakeTurns
  refine ⟨⟨fun s cl hcl => ⟨exec_pleatSpill_idle hcl, fun c hc htile h0 hpages hlow hself hret => ?_⟩,
    fun s c rest hc hgk hne => ⟨exec_spillWriteDone_stays hc hgk hne, exec_spillWriteDone_leaves hc hgk hne,
      exec_spillReadback_waits hc hgk, fun h2 hself hres hroom => ⟨?_, fun h0 => ?_⟩⟩⟩,
    fun s gk => exec_groupResidency_empty, fun s gk g => exec_groupResidency_idle,
    fun s j gk g c => exec_groupResidency_sole, fun s gk pass idx hgk h0 => ⟨fun hstall => ?_, fun hstall => ?_⟩,
    fun s bucket n hn => ⟨fun h => ?_, fun h => ?_⟩, fun s => rfl⟩
  · exact ⟨_, exec_pleatSpill_sole hcl hc htile h0 hpages hlow hself hret, becomes_withChunks s _ _ rfl⟩
  · refine ⟨_, exec_spillReadback hc hgk h2 hself hres hroom false, becomes_withChunks s _ _ ?_⟩
    rw [if_neg Bool.false_ne_true, Mach.updChunk_first hc hne]
  · refine ⟨_, exec_spillReadback hc hgk h2 hself hres hroom true, ?_⟩
    rw [if_pos rfl]
    exact groupFaults_pleatFault h0 _
  · refine ⟨_, exec_chunkStall hgk pass idx, ?_⟩
    rw [if_pos hstall]
    exact groupFaults_pleatFault h0 _
  · refine (exec_chunkStall hgk pass idx).trans ?_
    rw [hstall, if_neg Bool.false_ne_true]
  · exact (exec_groupRearm hn).trans (by rw [if_pos h])
  · exact (exec_groupRearm hn).trans (by rw [if_neg (not_not_intro h)])

end Sys2Proof.Machine
end

section
/-! O46: packets at a Pleat core are judged and accumulated (R267 to R272, R281, R336 to R338). -/

set_option Elab.async false

namespace Sys2Proof.Machine
open Sys2Proof

/-! ### A packet that has reached its core -/

namespace Mach

/-- The machine without what a Pleat core has just taken: the held packets alone differ. -/
theorem given_of_atPleat {m given : Mach} {tile port : Nat} {x : Packet} (h : m.atPleat tile x = some (port, given)) :
    given = { m with held := given.held } ∧ m.pleatArrive tile x = given.pleatAct port x := by
  unfold atPleat at h
  unfold pleatArrive
  cases hfind : m.held.find? fun h => h.output == 144 + tile && h.pkt == x with
  | none =>
    rw [hfind] at h
    dsimp only at h ⊢
    rw [Option.some.injEq, Prod.mk.injEq] at h
    obtain ⟨rfl, rfl⟩ := h
    exact ⟨rfl, rfl⟩
  | some y =>
    rw [hfind] at h
    dsimp only at h ⊢
    by_cases hready : (Held.ready y && !m.pleatBlocked y) = true
    · rw [if_pos hready, Option.some.injEq, Prod.mk.injEq] at h
      obtain ⟨rfl, rfl⟩ := h
      have hgo : (!Held.ready y || m.pleatBlocked y) = false := by
        rw [Bool.and_eq_true, Bool.not_eq_true'] at hready
        rw [hready.1, hready.2]
        rfl
      rw [hgo]
      exact ⟨rfl, rfl⟩
    · rw [if_neg hready] at h
      cases h

theorem pleatArrive_of_none {m : Mach} {tile : Nat} {x : Packet} (h : m.atPleat tile x = none) : m.pleatArrive tile x = m := by
  unfold atPleat at h
  unfold pleatArrive
  cases hfind : m.held.find? fun h => h.output == 144 + tile && h.pkt == x with
  | none =>
    rw [hfind] at h
    cases h
  | some y =>
    rw [hfind] at h
    dsimp only at h ⊢
    by_cases hready : (Held.ready y && !m.pleatBlocked y) = true
    · rw [if_pos hready] at h
      cases h
    · refine if_pos ?_
      cases hr : Held.ready y
      · rfl
      · rw [hr] at hready
        simpa using hready

end Mach

theorem exec_pleat {tile : Nat} {x : Packet} {c : Instr} (htile : tile < 18)
    (hc : c ∈ [Instr.pltContrib tile x, .pltShard tile x, .bktSend tile x]) {s : State} {n : Mach}
    (hn : s.m.pleatArrive tile x = n) : exec c s = .next { s with m := n } := by
  have hgo : State.unit (decide (tile < 18)) (s.go fun m => m.pleatArrive tile x) = .next { s with m := n } :=
    (if_pos (decide_eq_true htile)).trans (go_eq (fun m => m.pleatArrive tile x) hn)
  simp only [List.mem_cons, List.not_mem_nil, or_false] at hc
  rcases hc with rfl | rfl | rfl
  · exact hgo
  · exact hgo
  · exact hgo

/-! ### Verdicts (R267, R271, R268) -/

namespace Mach
variable {m : Mach} {port : Nat} {p : Packet}

/-- Whether a group's packets are shards. -/
def gathers (m : Mach) (gk : Nat) : Bool := !(m.gdesc gk).bucket && m.pd gk F.pdesc_half == 1

/-- Opcodes that a Pleat core takes in. -/
def isPleatOp (op : Nat) : Bool := op == Op.pltContrib || op == Op.pltShard || op == Op.bktSend

/-- Whether the group that a packet names knows it. -/
def knows (m : Mach) (p : Packet) : Bool :=
  isPleatOp p.opcode && p.dst == m.sxNode && p.pkey == (m.gdesc (groupKeyOf p)).pkey && (m.gdesc (groupKeyOf p)).valid

/-- Whether a packet comes from a contributing member of its group, on its port and in its context. -/
def fromMember (m : Mach) (port : Nat) (p : Packet) : Bool :=
  let r := m.memberOf Pg.pleat 3 (m.gdesc (groupKeyOf p)).memberBase (PltAux.member p)
  decide (PltAux.member p < (m.gdesc (groupKeyOf p)).members) && r.contrib && r.port == port && r.context == p.context

theorem pleatVerdict_unknown (h : m.knows p = false) : m.pleatVerdict port p = .proto := by
  unfold pleatVerdict
  dsimp only
  by_cases hop : p.opcode ≠ Op.pltContrib ∧ p.opcode ≠ Op.pltShard ∧ p.opcode ≠ Op.bktSend
  · rw [if_pos hop]
  · rw [if_neg hop, if_pos]
    have hsort : isPleatOp p.opcode = true := by
      simp only [isPleatOp, Bool.or_eq_true, beq_iff_eq]
      omega
    rw [knows, hsort, Bool.true_and, Bool.and_eq_false_iff, Bool.and_eq_false_iff] at h
    simpa [or_assoc] using h

section
variable (hk : m.knows p = true)
include hk

/-- What a group knows has the right opcode, node and key, and its descriptor is valid. -/
theorem of_knows : ¬(p.opcode ≠ Op.pltContrib ∧ p.opcode ≠ Op.pltShard ∧ p.opcode ≠ Op.bktSend) ∧
    ¬(p.dst ≠ m.sxNode ∨ p.pkey ≠ (m.gdesc (groupKeyOf p)).pkey ∨ (!(m.gdesc (groupKeyOf p)).valid) = true) := by
  simp only [knows, isPleatOp, Bool.and_eq_true, Bool.or_eq_true, beq_iff_eq] at hk
  obtain ⟨⟨⟨hop, hdst⟩, hkey⟩, hvalid⟩ := hk
  refine ⟨by omega, ?_⟩
  rw [hvalid]
  simp [hdst, hkey]

omit hk in
theorem not_stranger (h : m.fromMember port p = true) : ¬((m.gdesc (groupKeyOf p)).members ≤ PltAux.member p ∨
    (!(m.memberOf Pg.pleat 3 (m.gdesc (groupKeyOf p)).memberBase (PltAux.member p)).contrib) = true ∨
    (m.memberOf Pg.pleat 3 (m.gdesc (groupKeyOf p)).memberBase (PltAux.member p)).port ≠ port ∨
    (m.memberOf Pg.pleat 3 (m.gdesc (groupKeyOf p)).memberBase (PltAux.member p)).context ≠ p.context) := by
  simp only [fromMember, Bool.and_eq_true, decide_eq_true_iff, beq_iff_eq] at h
  obtain ⟨⟨⟨hlt, hcontrib⟩, hport⟩, hctx⟩ := h
  rw [hcontrib, hport, hctx]
  simp [hlt]

omit hk in
theorem not_wrongSort (h : p.opcode = Op.pltShard ↔ m.gathers (groupKeyOf p) = true) :
    ¬((p.opcode = Op.pltShard) ≠ ((!(m.gdesc (groupKeyOf p)).bucket && m.pd (groupKeyOf p) F.pdesc_half == 1) = true)) :=
  not_not_intro (propext h)

omit hk in
theorem not_otherOwner (h : m.gathers (groupKeyOf p) = true → (m.gdesc (groupKeyOf p)).count ≤ (m.unitOf p).2 ∨
      (m.ownersOf (groupKeyOf p) (m.unitOf p).2).contains (PltAux.member p) = true) :
    ¬((!(m.gdesc (groupKeyOf p)).bucket && m.pd (groupKeyOf p) F.pdesc_half == 1) = true ∧
      (m.unitOf p).2 < (m.gdesc (groupKeyOf p)).count ∧
      (!(m.ownersOf (groupKeyOf p) (m.unitOf p).2).contains (PltAux.member p)) = true) := by
  rintro ⟨hgather, hlt, hnot⟩
  rcases h hgather with hge | hcontains
  · omega
  · rw [hcontains] at hnot
    cases hnot

theorem pleatVerdict_faulted (h : (m.grp (groupKeyOf p)).reason ≠ 0) : m.pleatVerdict port p = .faultedDrop := by
  unfold pleatVerdict
  dsimp only
  rw [if_neg (of_knows hk).1, if_neg (of_knows hk).2, if_pos h]

section
variable (h0 : (m.grp (groupKeyOf p)).reason = 0)
include h0

theorem pleatVerdict_stranger (h : m.fromMember port p = false) : m.pleatVerdict port p = .fault Reason.member := by
  unfold pleatVerdict
  dsimp only
  rw [if_neg (of_knows hk).1, if_neg (of_knows hk).2, if_neg (not_not_intro h0), if_pos]
  simp only [fromMember, Bool.and_eq_false_iff, decide_eq_false_iff_not, beq_eq_false_iff_ne, Nat.not_lt] at h
  rw [Bool.not_eq_true']
  tauto

section
variable (hm : m.fromMember port p = true) (hsort : p.opcode = Op.pltShard ↔ m.gathers (groupKeyOf p) = true)
  (howner : m.gathers (groupKeyOf p) = true → (m.gdesc (groupKeyOf p)).count ≤ (m.unitOf p).2 ∨
    (m.ownersOf (groupKeyOf p) (m.unitOf p).2).contains (PltAux.member p) = true)
include hm hsort howner

/-- The rules on the member and on the sort of packet hold, so the pass decides next. -/
theorem pleatVerdict_stale (h : 128 ≤ ((m.unitOf p).1 + 256 - (m.grp (groupKeyOf p)).passLow) % 256) :
    m.pleatVerdict port p = .fault Reason.stale := by
  unfold pleatVerdict
  dsimp only
  rw [if_neg (of_knows hk).1, if_neg (of_knows hk).2, if_neg (not_not_intro h0), if_neg (not_stranger hm), if_neg (not_wrongSort hsort),
    if_neg (not_otherOwner howner), if_pos h]

/-- A whole unit at the start of its place, with none in progress on its port, is judged by its index and by what is done. -/
theorem pleatVerdict_whole (h : ((m.unitOf p).1 + 256 - (m.grp (groupKeyOf p)).passLow) % 256 < 128)
    (hnone : m.portUnit port = none) (haddr : p.address = 0) (hlast : p.last = 1) (hempty : m.emptyAddr (groupKeyOf p) ≠ 0) :
    ∃ (again : Bool) (v : Verdict), m.pleatVerdict port p =
      if (m.gdesc (groupKeyOf p)).count ≤ (m.unitOf p).2 then
        .fault (if (m.gdesc (groupKeyOf p)).bucket then Reason.bucket else Reason.sequence)
      else if ((m.grp (groupKeyOf p)).done.contains (m.unitOf p) || again) = true then .fault Reason.duplicate else v := by
  have hwhole : m.isEmptyUnit p = false := by
    rw [isEmptyUnit, haddr, beq_false_of_ne hempty.symm, Bool.and_false]
  unfold pleatVerdict
  dsimp only
  rw [if_neg (of_knows hk).1, if_neg (of_knows hk).2, if_neg (not_not_intro h0), if_neg (not_stranger hm),
    if_neg (not_wrongSort hsort), if_neg (not_otherOwner howner), if_neg (show ¬128 ≤ _ by omega), hnone, hwhole]
  dsimp only
  rw [if_neg Bool.false_ne_true, if_neg (show ¬p.address ≠ 0 from not_not_intro haddr), if_neg (show ¬(p.last = 0 ∧ _) from fun e => by omega)]
  exact ⟨_, _, rfl⟩

end
end
end

/-- A packet that is taken is one that its group judges. -/
theorem judged_of_take (h : m.pleatVerdict port p = .take) : m.judged p = true := by
  have hk : m.knows p = true := by
    by_contra hnot
    rw [pleatVerdict_unknown (Bool.eq_false_iff.2 hnot)] at h
    cases h
  have h0 : (m.grp (groupKeyOf p)).reason = 0 := by
    by_contra hnot
    rw [pleatVerdict_faulted hk hnot] at h
    cases h
  simp only [knows, isPleatOp, Bool.and_eq_true, Bool.or_eq_true, beq_iff_eq] at hk
  obtain ⟨⟨⟨hop, -⟩, hkey⟩, hvalid⟩ := hk
  simp only [judged, Bool.and_eq_true, Bool.or_eq_true, beq_iff_eq]
  exact ⟨⟨⟨hvalid, hkey.symm⟩, h0⟩, hop⟩

/-- A valid descriptor bears the number that its key names. -/
theorem number_of_valid {gk : Nat} (h : (m.gdesc gk).valid = true) :
    (if (m.gdesc gk).bucket then 8192 + (m.gdesc gk).number else (m.gdesc gk).number) = gk := by
  unfold gdesc at h ⊢
  by_cases hgk : gk < 8192
  · simp only [if_pos hgk, Bool.false_eq_true, if_false]
  · by_cases hg : 1024 ≤ gk - 8192
    · simp only [if_neg hgk, if_pos hg] at h
      cases h
    · simp only [if_neg hgk, if_neg hg, if_true]
      omega

end Mach

/-! ### Opening and changing a chunk -/

namespace Mach

/-- What touches the Pleat state alone, and of the registers those of `f`. -/
def pleats (m n : Mach) (f : Nat → Bool) : Prop := ({ m with plt := n.plt } : Mach).touches n .sx f

section
variable {m n k : Mach} {f : Nat → Bool}

theorem pleats_refl (m : Mach) (f : Nat → Bool) : m.pleats m f := touches_refl ..

theorem pleats.trans (h : m.pleats n f) (g : n.pleats k f) : m.pleats k f := by
  obtain ⟨hbare, hregs, hep⟩ := h
  obtain ⟨gbare, gregs, gep⟩ := g
  refine ⟨?_, ?_, ?_⟩
  · have hset : ({ n with plt := k.plt } : Mach).bare = ({ n.bare with plt := k.plt } : Mach) := rfl
    rw [gbare, hset, hbare]
    rfl
  · exact ((kept_of_rf rfl rfl f).trans hregs).trans ((kept_of_rf rfl rfl f).trans gregs)
  · exact gep.trans hep

theorem pleats_setPlt (m : Mach) (p : PleatSt) (f : Nat → Bool) : m.pleats (m.setPlt p) f := touches_refl ..

theorem pleats_setGrp (m : Mach) (gk : Nat) (g : PGroup) (f : Nat → Bool) : m.pleats (m.setGrp gk g) f := touches_refl ..

theorem pleats_bumpBy (m : Mach) (o n : Nat) (hf : f (item Pg.pleat 0 o) = true) : m.pleats (m.bumpBy .sx Pg.pleat o n) f :=
  touches_setWord _ _ _ _ hf

theorem pleats_bump (m : Mach) (o : Nat) (hf : f (item Pg.pleat 0 o) = true) : m.pleats (m.bump .sx Pg.pleat o) f :=
  touches_setWord _ _ _ _ hf

theorem pleats.mono (h : m.pleats n f) {g : Nat → Bool} (hfg : ∀ k, f k = true → g k = true) : m.pleats n g :=
  touches.mono h hfg

theorem pleats.held (h : m.pleats n f) : n.held = m.held := by
  have hbare : n.bare.held = ({ m with plt := n.plt } : Mach).bare.held := by rw [h.1]
  exact hbare

theorem pleats.word (h : m.pleats n f) (k : Nat) (hk : f k = false) : n.word .sx k = m.word .sx k := h.2.1.2 k hk

end

section
variable {m : Mach} {gk pass idx : Nat} {f : Chunk → Chunk}

theorem chunk?_updChunk (hf : ∀ c, sameChunk gk pass idx (f c) = sameChunk gk pass idx c) :
    (m.updChunk gk pass idx f).chunk? gk pass idx = (m.chunk? gk pass idx).map f := by
  have hlist (cs : List Chunk) : (cs.map fun c => if sameChunk gk pass idx c then f c else c).find? (sameChunk gk pass idx)
      = (cs.find? (sameChunk gk pass idx)).map f := by
    induction cs with
    | nil => rfl
    | cons c cs ih =>
      by_cases hc : sameChunk gk pass idx c = true
      · rw [List.map_cons, if_pos hc, List.find?_cons_of_pos (by rw [hf, hc]), List.find?_cons_of_pos hc, Option.map_some]
      · rw [List.map_cons, if_neg hc, List.find?_cons_of_neg hc, List.find?_cons_of_neg hc, ih]
  exact hlist m.plt.chunks

/-- The chunks of other names. -/
def otherChunks (m : Mach) (gk pass idx : Nat) : List Chunk := m.plt.chunks.filter fun e => !sameChunk gk pass idx e

theorem otherChunks_updChunk (hf : ∀ c, sameChunk gk pass idx (f c) = sameChunk gk pass idx c) :
    (m.updChunk gk pass idx f).otherChunks gk pass idx = m.otherChunks gk pass idx := by
  have hlist (cs : List Chunk) : (cs.map fun c => if sameChunk gk pass idx c then f c else c).filter
      (fun e => !sameChunk gk pass idx e) = cs.filter fun e => !sameChunk gk pass idx e := by
    induction cs with
    | nil => rfl
    | cons c cs ih =>
      by_cases hc : sameChunk gk pass idx c = true
      · rw [List.map_cons, if_pos hc, List.filter_cons_of_neg (by rw [hf, hc]; decide), List.filter_cons_of_neg (by rw [hc]; decide),
          ih]
      · rw [Bool.not_eq_true] at hc
        rw [List.map_cons, if_neg (by rw [hc]; exact Bool.false_ne_true), List.filter_cons_of_pos (by rw [hc]; rfl),
          List.filter_cons_of_pos (by rw [hc]; rfl), ih]
  exact hlist m.plt.chunks

end

section
variable {m : Mach} {p : Packet}

/-- The chunk as its first packet opens it (R272). -/
def newChunk (m : Mach) (p : Packet) : Chunk :=
  let d := m.gdesc (groupKeyOf p)
  { bucket := d.bucket, group := d.number, pass := (m.unitOf p).1, idx := (m.unitOf p).2, tile := m.placeOf d (m.unitOf p).2,
    opened := m.time.number, last := m.plt.order }

/-- The chunk that a packet joins: the open one of its name, else the one that it opens. -/
def joinedChunk (m : Mach) (p : Packet) : Chunk :=
  (m.chunk? (groupKeyOf p) (m.unitOf p).1 (m.unitOf p).2).getD (m.newChunk p)

section
variable (hj : m.judged p = true) (hdist : ((m.unitOf p).1 + 256 - (m.grp (groupKeyOf p)).passLow) % 256 < 4)
  (hidx : (m.unitOf p).2 < (m.gdesc (groupKeyOf p)).count) (hdone : (m.grp (groupKeyOf p)).done.contains (m.unitOf p) = false)
include hj

theorem sameChunk_newChunk : sameChunk (groupKeyOf p) (m.unitOf p).1 (m.unitOf p).2 (m.newChunk p) = true := by
  have hvalid : (m.gdesc (groupKeyOf p)).valid = true := by
    simp only [judged, Bool.and_eq_true] at hj
    exact hj.1.1.1
  have hkey : Chunk.gk (m.newChunk p) = groupKeyOf p := number_of_valid hvalid
  rw [sameChunk, hkey]
  simp [newChunk]

include hdist hidx hdone

/-- A packet that may join its chunk finds it open afterwards, the others as they were. -/
theorem openChunk_joined : ∃ cs o, m.openChunk p = m.setPlt { m.plt with chunks := cs, order := o } ∧
    cs.find? (sameChunk (groupKeyOf p) (m.unitOf p).1 (m.unitOf p).2) = some (m.joinedChunk p) ∧
    (cs.filter fun e => !sameChunk (groupKeyOf p) (m.unitOf p).1 (m.unitOf p).2 e)
      = m.otherChunks (groupKeyOf p) (m.unitOf p).1 (m.unitOf p).2 := by
  have hmay : ¬(4 ≤ ((m.unitOf p).1 + 256 - (m.grp (groupKeyOf p)).passLow) % 256 ∨
      (m.gdesc (groupKeyOf p)).count ≤ (m.unitOf p).2 ∨ (m.grp (groupKeyOf p)).done.contains (m.unitOf p) = true) := by
    rw [hdone]
    rintro (h | h | h)
    · omega
    · omega
    · cases h
  have hjudged : ¬(!m.judged p) = true := by
    rw [hj]
    exact Bool.false_ne_true
  unfold openChunk
  dsimp only
  rw [if_neg hjudged, if_neg hmay]
  cases hfind : m.chunk? (groupKeyOf p) (m.unitOf p).1 (m.unitOf p).2 with
  | some c => exact ⟨m.plt.chunks, m.plt.order, rfl, by rw [joinedChunk, hfind]; exact hfind, rfl⟩
  | none =>
    refine ⟨_, _, rfl, ?_, ?_⟩
    · have hnone : m.plt.chunks.find? (sameChunk (groupKeyOf p) (m.unitOf p).1 (m.unitOf p).2) = none := hfind
      rw [List.find?_append, hnone, joinedChunk, hfind]
      exact List.find?_cons_of_pos (sameChunk_newChunk hj)
    · rw [List.filter_append]
      refine (congrArg _ (List.filter_cons_of_neg ?_)).trans (List.append_nil _)
      have hsame := sameChunk_newChunk hj
      rw [newChunk] at hsame
      rw [hsame]
      decide

end
end
end Mach

/-! ### What one packet does to its chunk -/

namespace Mach

/-- What touches the groups of the Pleat state alone, and of the registers those of `f`. -/
def books (m n : Mach) (f : Nat → Bool) : Prop := m.pleats n f ∧ n.plt = { m.plt with groups := n.plt.groups }

section
variable {m n k : Mach} {f : Nat → Bool}

theorem books_refl (m : Mach) (f : Nat → Bool) : m.books m f := ⟨pleats_refl .., rfl⟩

theorem books.trans (h : m.books n f) (g : n.books k f) : m.books k f := ⟨h.1.trans g.1, by rw [g.2, h.2]⟩

theorem books_setGrp (m : Mach) (gk : Nat) (g : PGroup) (f : Nat → Bool) : m.books (m.setGrp gk g) f := ⟨pleats_setGrp .., rfl⟩

theorem books_bumpBy (m : Mach) (o n : Nat) (hf : f (item Pg.pleat 0 o) = true) : m.books (m.bumpBy .sx Pg.pleat o n) f := by
  refine ⟨pleats_bumpBy m o n hf, ?_⟩
  have hplt : (m.bumpBy .sx Pg.pleat o n).plt = m.plt := plt_of_bare (bumpBy_bare ..)
  rw [hplt]

theorem books_bump (m : Mach) (o : Nat) (hf : f (item Pg.pleat 0 o) = true) : m.books (m.bump .sx Pg.pleat o) f :=
  books_bumpBy m o 1 hf

theorem books.mono (h : m.books n f) {g : Nat → Bool} (hfg : ∀ k, f k = true → g k = true) : m.books n g :=
  ⟨h.1.mono hfg, h.2⟩

theorem books.chunk? (h : m.books n f) (gk pass idx : Nat) : n.chunk? gk pass idx = m.chunk? gk pass idx := by
  rw [Mach.chunk?, h.2]
  rfl

theorem books.otherChunks (h : m.books n f) (gk pass idx : Nat) : n.otherChunks gk pass idx = m.otherChunks gk pass idx := by
  rw [Mach.otherChunks, h.2]
  rfl

theorem books.portUnit (h : m.books n f) (port : Nat) : n.portUnit port = m.portUnit port := by
  rw [Mach.portUnit, h.2]
  rfl

theorem tablesKept_of_pleats (h : m.pleats n f) (hf : ∀ p u o, 0 < u → u < 16 → o < 2 ^ 44 → f (item p u o) = false) :
    m.tablesKept n := by
  intro p u o hu h16 ho
  exact live_of_kept h.2.1 (epParams_of_bare h.1) _ (hf p u o hu h16 ho)

end

theorem pageWord_table {q o p u a : Nat} (ho : o < 2 ^ 44) (hu : 0 < u) (h16 : u < 16) (ha : a < 2 ^ 44) :
    pageWord q o (item p u a) = false := by
  rw [pageWord, beq_eq_false_iff_ne, ne_eq, item_inj ha ho h16 (by decide)]
  omega

/-- The words that a contribution counts in. -/
def contribWord (k : Nat) : Bool :=
  pageWord Pg.pleat R.pltContribCnt k || pageWord Pg.pleat R.pltPadCnt k || pageWord Pg.pleat R.pltOverflowCnt k

/-- The words that count padding and discarded bytes. -/
def padWord (k : Nat) : Bool := pageWord Pg.pleat R.pltPadCnt k || pageWord Pg.pleat R.pltOverflowCnt k

theorem books_padUnit (m : Mach) (gk idx total : Nat) (empty : Bool) : m.books (m.padUnit gk idx total empty) padWord := by
  have hbump (n : Mach) (b : Bool) (o : Nat) (ho : padWord (item Pg.pleat 0 o) = true) :
      n.books (if b then n.bump .sx Pg.pleat o else n) padWord := by
    cases b
    · exact books_refl ..
    · exact books_bump _ _ ho
  exact ((books_setGrp m gk _ _).trans (hbump _ _ R.pltPadCnt rfl)).trans (hbump _ _ R.pltOverflowCnt rfl)

theorem books_advanceNext (m : Mach) (gk i pass idx : Nat) (f : Nat → Bool) : m.books (m.advanceNext gk i pass idx) f :=
  books_setGrp ..

theorem next_advanceNext (m : Mach) (gk i pass idx : Nat) : Tbl.get (fun _ => 0) ((m.advanceNext gk i pass idx).grp gk).next i
    = if idx + 1 < (m.gdesc gk).count then pass * 2 ^ 32 + idx + 1 else (pass + 1) % 256 * 2 ^ 32 := by
  rw [advanceNext, grp_setGrp, if_pos rfl, Tbl.get_set, if_pos rfl]

theorem books_advancePass (gk : Nat) (f : Nat → Bool) : ∀ (n : Nat) (m : Mach), m.books (m.advancePass gk n) f
  | 0, m => books_refl m f
  | n + 1, m => by
    rw [advancePass]
    split_ifs
    · exact (books_setGrp ..).trans (books_advancePass gk f n _)
    · exact books_refl ..

theorem books_markDone (m : Mach) (gk pass idx : Nat) (f : Nat → Bool) : m.books (m.markDone gk pass idx) f :=
  (books_setGrp ..).trans (books_advancePass ..)

/-- A packet joins its chunk, which changes by `f`, and the unit in progress on its port follows. -/
def joins (m : Mach) (port : Nat) (p : Packet) (f : Chunk → Chunk) : Mach :=
  let n := (m.openChunk p).updChunk (groupKeyOf p) (m.unitOf p).1 (m.unitOf p).2 f
  (n.setPlt { n.plt with order := (m.openChunk p).plt.order + 1 }).trackUnit port p

/-- The Pleat state alone differs, and its groups do not. -/
def keepsGroups (m n : Mach) : Prop := ∃ q, n = m.setPlt q ∧ q.groups = m.plt.groups

theorem keepsGroups.trans {m n k : Mach} (h : m.keepsGroups n) (g : n.keepsGroups k) : m.keepsGroups k := by
  obtain ⟨q, rfl, hq⟩ := h
  obtain ⟨r, rfl, hr⟩ := g
  exact ⟨r, rfl, hr.trans hq⟩

theorem keepsGroups_updChunk (m : Mach) (gk pass idx : Nat) (f : Chunk → Chunk) : m.keepsGroups (m.updChunk gk pass idx f) :=
  ⟨_, rfl, rfl⟩

theorem keepsGroups_trackUnit (m : Mach) (port : Nat) (p : Packet) : m.keepsGroups (m.trackUnit port p) := ⟨_, rfl, rfl⟩

theorem chunks_trackUnit (m : Mach) (port : Nat) (p : Packet) : (m.trackUnit port p).plt.chunks = m.plt.chunks := rfl

theorem portUnit_trackUnit (m : Mach) (port : Nat) (p : Packet) :
    ((m.trackUnit port p).portUnit port).map (·.next) = if p.last = 1 then none else some (p.address + p.length) := by
  unfold trackUnit portUnit
  dsimp only [setPlt]
  rw [Tbl.get_set, if_pos rfl]
  split_ifs <;> rfl

theorem chunks_joins (m : Mach) (port : Nat) (p : Packet) (f : Chunk → Chunk) : (m.joins port p f).plt.chunks
    = ((m.openChunk p).updChunk (groupKeyOf p) (m.unitOf p).1 (m.unitOf p).2 f).plt.chunks := chunks_trackUnit ..

section
variable {m : Mach} {p : Packet} (hj : m.judged p = true)
  (hdist : ((m.unitOf p).1 + 256 - (m.grp (groupKeyOf p)).passLow) % 256 < 4)
  (hidx : (m.unitOf p).2 < (m.gdesc (groupKeyOf p)).count) (hdone : (m.grp (groupKeyOf p)).done.contains (m.unitOf p) = false)
include hj hdist hidx hdone

theorem joins_facts (port : Nat) {f : Chunk → Chunk}
    (hf : ∀ c, sameChunk (groupKeyOf p) (m.unitOf p).1 (m.unitOf p).2 (f c) = sameChunk (groupKeyOf p) (m.unitOf p).1 (m.unitOf p).2 c) :
    m.keepsGroups (m.joins port p f) ∧
    (m.joins port p f).chunk? (groupKeyOf p) (m.unitOf p).1 (m.unitOf p).2 = some (f (m.joinedChunk p)) ∧
    (m.joins port p f).otherChunks (groupKeyOf p) (m.unitOf p).1 (m.unitOf p).2
      = m.otherChunks (groupKeyOf p) (m.unitOf p).1 (m.unitOf p).2 ∧
    ((m.joins port p f).portUnit port).map (·.next) = if p.last = 1 then none else some (p.address + p.length) := by
  obtain ⟨cs, o, hopen, hfind, hothers⟩ := openChunk_joined hj hdist hidx hdone
  refine ⟨?_, ?_, ?_, ?_⟩
  · have hfirst : m.keepsGroups (m.openChunk p) := ⟨_, hopen, rfl⟩
    exact ((hfirst.trans (keepsGroups_updChunk ..)).trans ⟨_, rfl, rfl⟩).trans (keepsGroups_trackUnit ..)
  · have hthere : (m.openChunk p).chunk? (groupKeyOf p) (m.unitOf p).1 (m.unitOf p).2 = some (m.joinedChunk p) := by
      rw [hopen]
      exact hfind
    have hupd := chunk?_updChunk (m := m.openChunk p) hf
    rw [hthere, Option.map_some] at hupd
    rw [chunk?, chunks_joins]
    exact hupd
  · have hthere : (m.openChunk p).otherChunks (groupKeyOf p) (m.unitOf p).1 (m.unitOf p).2
        = m.otherChunks (groupKeyOf p) (m.unitOf p).1 (m.unitOf p).2 := by
      rw [hopen, otherChunks]
      exact hothers
    have hupd := otherChunks_updChunk (m := m.openChunk p) hf
    rw [hthere] at hupd
    rw [otherChunks, chunks_joins]
    exact hupd
  · exact portUnit_trackUnit ..

end
end Mach

/-! ### Contributions (R268 to R270) -/

namespace Mach

/-- A contribution's packet in its chunk. -/
def contribution (m : Mach) (p : Packet) (c : Chunk) : Chunk :=
  { c with pkts := c.pkts ++ [(PltAux.member p, p.address, p.payload)], last := (m.openChunk p).plt.order,
           ended := if p.last = 1 then c.ended ++ [PltAux.member p] else c.ended }

/-- Whether a packet is a unit without elements. -/
def bringsNothing (m : Mach) (port : Nat) (p : Packet) : Bool := m.isEmptyUnit p && (m.portUnit port).isNone

/-- The end of a member's unit (R268 to R270). -/
def endsUnit (m : Mach) (gk : Nat) (p : Packet) (pass idx : Nat) (empty : Bool) : Mach :=
  ((m.padUnit gk idx (p.address + p.length) empty).bump .sx Pg.pleat R.pltContribCnt).advanceNext gk (PltAux.member p) pass idx

theorem takeContrib_eq (m : Mach) (port : Nat) (p : Packet) : m.takeContrib port p =
    if p.last = 1 then
      (m.joins port p (m.contribution p)).endsUnit (groupKeyOf p) p (m.unitOf p).1 (m.unitOf p).2 (m.bringsNothing port p)
    else m.joins port p (m.contribution p) := rfl

theorem pleats_of_keepsGroups {m n : Mach} (h : m.keepsGroups n) (f : Nat → Bool) : m.pleats n f := by
  obtain ⟨q, rfl, -⟩ := h
  exact pleats_setPlt ..

theorem padWord_contribWord (k : Nat) (h : padWord k = true) : contribWord k = true := by
  rw [contribWord, Bool.or_assoc, ← padWord, h, Bool.or_true]

theorem contribWord_table {p u o : Nat} (hu : 0 < u) (h16 : u < 16) (ho : o < 2 ^ 44) : contribWord (item p u o) = false := by
  rw [contribWord, pageWord_table (by decide) hu h16 ho, pageWord_table (by decide) hu h16 ho, pageWord_table (by decide) hu h16 ho]
  rfl

/-- The end of a unit is counted, and the member's next unit follows. -/
theorem endsUnit_facts (m : Mach) (gk : Nat) (p : Packet) (pass idx : Nat) (empty : Bool) :
    m.books (m.endsUnit gk p pass idx empty) contribWord ∧
    m.counted (m.endsUnit gk p pass idx empty) .sx Pg.pleat R.pltContribCnt ∧
    Tbl.get (fun _ => 0) ((m.endsUnit gk p pass idx empty).grp gk).next (PltAux.member p)
      = if idx + 1 < (m.gdesc gk).count then pass * 2 ^ 32 + idx + 1 else (pass + 1) % 256 * 2 ^ 32 := by
  have hpad := books_padUnit m gk idx (p.address + p.length) empty
  obtain ⟨a, ha⟩ : ∃ a, a = m.padUnit gk idx (p.address + p.length) empty := ⟨_, rfl⟩
  obtain ⟨b, hb⟩ : ∃ b, b = a.bump .sx Pg.pleat R.pltContribCnt := ⟨_, rfl⟩
  rw [← ha] at hpad
  have hends : m.endsUnit gk p pass idx empty = b.advanceNext gk (PltAux.member p) pass idx := by
    rw [endsUnit, ← ha, ← hb]
  have hbump : m.books b contribWord := by
    rw [hb]
    exact (hpad.mono padWord_contribWord).trans (books_bump _ _ rfl)
  have hnext := books_advanceNext b gk (PltAux.member p) pass idx noWord
  rw [hends]
  refine ⟨hbump.trans (books_advanceNext ..), ?_, ?_⟩
  · rw [counted, hnext.1.word _ rfl, hb, word_bump, hpad.1.word _ (by decide)]
  · have hdesc := gdesc_congr (tablesKept_of_pleats hbump.1 fun p u o hu h16 ho => contribWord_table hu h16 ho) gk
    rw [next_advanceNext, hdesc]

end Mach

/-- The frame of what touches the Pleat state alone. -/
theorem becomes_of_pleats {s : State} {given n : Mach} {hs : List Held} {f : Nat → Bool} (hgiven : given = { s.m with held := hs })
    (h : given.pleats n f) : s.becomes { s with m := n } { given with plt := n.plt } .sx f := by
  obtain ⟨hbare, hregs, hep⟩ := h
  subst hgiven
  exact becomes_of hbare ((Mach.kept_of_rf rfl rfl f).trans hregs) hep

section
variable {s : State} {tile port : Nat} {x : Packet} {given : Mach}

/-- What is taken as its opcode asks. -/
theorem pleatArrive_contrib (hat : s.m.atPleat tile x = some (port, given)) (hv : given.pleatVerdict port x = .take)
    (hop : x.opcode = Op.pltContrib) : s.m.pleatArrive tile x = given.takeContrib port x := by
  rw [(Mach.given_of_atPleat hat).2, Mach.pleatAct, hv]
  dsimp only
  rw [hop, if_neg (by decide), if_neg (by decide)]

theorem pleatArrive_shard (hat : s.m.atPleat tile x = some (port, given)) (hv : given.pleatVerdict port x = .take)
    (hop : x.opcode = Op.pltShard) : s.m.pleatArrive tile x = given.takeShard port x := by
  rw [(Mach.given_of_atPleat hat).2, Mach.pleatAct, hv]
  dsimp only
  rw [hop, if_neg (by decide), if_pos rfl]

theorem pleatArrive_bucket (hat : s.m.atPleat tile x = some (port, given)) (hv : given.pleatVerdict port x = .take)
    (hop : x.opcode = Op.bktSend) : s.m.pleatArrive tile x = given.takeRecords port x := by
  rw [(Mach.given_of_atPleat hat).2, Mach.pleatAct, hv]
  dsimp only
  rw [if_pos hop]

end

/-- A contribution joins its chunk. -/
theorem exec_pltContrib_take {s : State} {tile port : Nat} {x : Packet} {given : Mach} (htile : tile < 18)
    (hat : s.m.atPleat tile x = some (port, given)) (hop : x.opcode = Op.pltContrib) (hv : given.pleatVerdict port x = .take)
    (hdist : ((given.unitOf x).1 + 256 - (given.grp (groupKeyOf x)).passLow) % 256 < 4)
    (hidx : (given.unitOf x).2 < (given.gdesc (groupKeyOf x)).count)
    (hdone : (given.grp (groupKeyOf x)).done.contains (given.unitOf x) = false) :
    ∃ t, exec (.pltContrib tile x) s = .next t ∧
      t.m.chunk? (groupKeyOf x) (given.unitOf x).1 (given.unitOf x).2 = some (given.contribution x (given.joinedChunk x)) ∧
      t.m.otherChunks (groupKeyOf x) (given.unitOf x).1 (given.unitOf x).2
        = given.otherChunks (groupKeyOf x) (given.unitOf x).1 (given.unitOf x).2 ∧
      (x.last = 1 → t.m.portUnit port = none ∧ s.m.counted t.m .sx Pg.pleat R.pltContribCnt ∧
        Tbl.get (fun _ => 0) (t.m.grp (groupKeyOf x)).next (PltAux.member x)
          = if (given.unitOf x).2 + 1 < (given.gdesc (groupKeyOf x)).count then
              (given.unitOf x).1 * 2 ^ 32 + (given.unitOf x).2 + 1
            else ((given.unitOf x).1 + 1) % 256 * 2 ^ 32) ∧
      (x.last ≠ 1 → (t.m.portUnit port).map (·.next) = some (x.address + x.length)) ∧
      s.becomes t { given with plt := t.m.plt } .sx Mach.contribWord := by
  obtain ⟨hgiven, -⟩ := Mach.given_of_atPleat hat
  obtain ⟨hkeeps, hchunk, hothers, hunit⟩ := Mach.joins_facts (Mach.judged_of_take hv) hdist hidx hdone port
    (f := given.contribution x) fun c => rfl
  have hjoins := Mach.pleats_of_keepsGroups hkeeps Mach.contribWord
  have hexec := exec_pleat htile (List.mem_cons_self ..) (pleatArrive_contrib hat hv hop)
  rw [Mach.takeContrib_eq] at hexec
  obtain ⟨j, hjn⟩ : ∃ j, j = given.joins port x (given.contribution x) := ⟨_, rfl⟩
  rw [← hjn] at hexec hkeeps hchunk hothers hunit hjoins
  by_cases hlast : x.last = 1
  · rw [if_pos hlast] at hexec hunit
    obtain ⟨hbooks, hcount, hnext⟩ := j.endsUnit_facts (groupKeyOf x) x (given.unitOf x).1 (given.unitOf x).2
      (given.bringsNothing port x)
    have hword : j.word .sx (item Pg.pleat 0 R.pltContribCnt) = s.m.word .sx (item Pg.pleat 0 R.pltContribCnt) := by
      obtain ⟨q, hq, -⟩ := hkeeps
      rw [hq, hgiven]
      rfl
    have hdesc : j.gdesc (groupKeyOf x) = given.gdesc (groupKeyOf x) := Mach.gdesc_congr
      (Mach.tablesKept_of_pleats hjoins fun p u o hu h16 ho => Mach.contribWord_table hu h16 ho) _
    rw [hdesc] at hnext
    rw [Mach.counted, hword] at hcount
    refine ⟨_, hexec, (hbooks.chunk? ..).trans hchunk, (hbooks.otherChunks ..).trans hothers, fun _ => ⟨?_, hcount, hnext⟩,
      fun h => absurd hlast h, becomes_of_pleats hgiven (hjoins.trans hbooks.1)⟩
    exact (hbooks.portUnit port).trans (Option.map_eq_none_iff.1 hunit)
  · rw [if_neg hlast] at hexec hunit
    exact ⟨_, hexec, hchunk, hothers, fun h => absurd h hlast, fun _ => hunit, becomes_of_pleats hgiven hjoins⟩

/-! ### Shards (R281) -/

namespace Mach

/-- A held packet's way and its bytes. -/
def wayOf (h : Held) : Nat × Nat × Packet := (h.input, h.output, h.pkt)

/-- Packets have entered the fabric, in their order, and nothing else changed. -/
def enters (m n : Mach) (l : List (Nat × Nat × Packet)) : Prop :=
  (∃ hs i, n = { m with held := hs, nextId := i }) ∧ n.held.map wayOf = m.held.map wayOf ++ l

theorem enters.trans {m n k : Mach} {l q : List (Nat × Nat × Packet)} (h : m.enters n l) (g : n.enters k q) : m.enters k (l ++ q) := by
  obtain ⟨⟨hs, i, rfl⟩, hway⟩ := h
  obtain ⟨⟨js, j, rfl⟩, gway⟩ := g
  exact ⟨⟨js, j, rfl⟩, by rw [gway, hway, List.append_assoc]⟩

theorem enters_issue (tile port : Nat) : ∀ (pkts : List Packet) (m : Mach),
    m.enters (m.issue tile port pkts) (pkts.map fun p => (144 + tile, port, p))
  | [], m => ⟨⟨m.held, m.nextId, rfl⟩, (List.append_nil _).symm⟩
  | p :: pkts, m => by
    have hfirst : m.enters (m.push p (144 + tile) port) [(144 + tile, port, p)] :=
      ⟨⟨_, _, rfl⟩, by rw [push, List.map_append]; rfl⟩
    exact hfirst.trans (enters_issue tile port pkts _)

theorem resultPacket_held (m : Mach) (hs : List Held) (i : Nat) (q : PleatSt) (op vc status pkey : Nat) (x : Member)
    (aux addr last : Nat) (bs : List Byte) :
    ({ m with held := hs, nextId := i, plt := q } : Mach).resultPacket op vc status pkey x aux addr last bs
      = m.resultPacket op vc status pkey x aux addr last bs := rfl

theorem unitPackets_held (m : Mach) (hs : List Held) (i : Nat) (q : PleatSt) (op pkey : Nat) (x : Member) (aux cut : Nat) :
    ∀ (n off : Nat) (bs : List Byte), ({ m with held := hs, nextId := i, plt := q } : Mach).unitPackets op pkey x aux cut n off bs
      = m.unitPackets op pkey x aux cut n off bs
  | 0, _, _ => rfl
  | n + 1, off, bs => by
    rw [unitPackets, unitPackets, unitPackets_held m hs i q op pkey x aux cut n]
    rfl

/-- What a shard gives a member does not depend on what is held or open. -/
theorem shardOut_held (m : Mach) (hs : List Held) (i : Nat) (q : PleatSt) (gk pass idx : Nat) (p : Packet) (empty : Bool) (r : Nat) :
    ({ m with held := hs, nextId := i, plt := q } : Mach).shardOut gk pass idx p empty r = m.shardOut gk pass idx p empty r := by
  have hpad (pkey : Nat) (x : Member) (aux cut off full : Nat) :
      ({ m with held := hs, nextId := i, plt := q } : Mach).padPackets pkey x aux cut off full = m.padPackets pkey x aux cut off full := by
    rw [padPackets, padPackets, unitPackets_held]
  unfold shardOut
  dsimp only
  rw [hpad, hpad]
  rfl

/-- The copies of a shard enter, receiver by receiver. -/
theorem enters_shards (tile gk pass idx : Nat) (p : Packet) (empty : Bool) (base : Nat) (m : Mach) : ∀ (l : List Nat) (n : Mach)
    (q : List (Nat × Nat × Packet)), m.enters n q →
    m.enters (l.foldl (fun n r => n.issue tile (n.memberOf Pg.pleat 3 base r).port (n.shardOut gk pass idx p empty r)) n)
      (q ++ (l.map fun r => (m.shardOut gk pass idx p empty r).map fun x =>
        (144 + tile, (m.memberOf Pg.pleat 3 base r).port, x)).flatten)
  | [], n, q, h => by rwa [List.map_nil, List.flatten_nil, List.append_nil]
  | r :: l, n, q, h => by
    have hout : n.shardOut gk pass idx p empty r = m.shardOut gk pass idx p empty r ∧
        n.memberOf Pg.pleat 3 base r = m.memberOf Pg.pleat 3 base r := by
      obtain ⟨⟨hs, i, rfl⟩, -⟩ := h
      exact ⟨shardOut_held m hs i m.plt gk pass idx p empty r, rfl⟩
    have hnext := h.trans (enters_issue tile (n.memberOf Pg.pleat 3 base r).port (n.shardOut gk pass idx p empty r) n)
    rw [List.foldl_cons, List.map_cons, List.flatten_cons, ← List.append_assoc, ← hout.1, ← hout.2]
    exact enters_shards tile gk pass idx p empty base m l _ _ hnext

/-- A shard's copies sent, and its chunk ended (R281). -/
def endsShard (m : Mach) (gk : Nat) (p : Packet) (pass idx : Nat) (empty : Bool) (d : GroupDesc) : Mach :=
  let n := m.endsUnit gk p pass idx empty
  ((n.bumpBy .sx Pg.pleat R.pltResultCnt (n.receivers d).length).removeChunk gk pass idx).markDone gk pass idx

/-- The copies of a shard, sent. -/
def sendsShard (m : Mach) (gk : Nat) (p : Packet) (pass idx tile : Nat) (empty : Bool) (d : GroupDesc) : Mach :=
  (m.receivers d).foldl
    (fun m r => m.issue tile (m.memberOf Pg.pleat 3 d.memberBase r).port (m.shardOut gk pass idx p empty r)) m

theorem takeShard_whole {m : Mach} {port : Nat} {p : Packet} (hlast : p.last = 1)
    (hw : m.pd (groupKeyOf p) F.pdesc_release = 0) : m.takeShard port p =
      ((m.joins port p (m.contribution p)).sendsShard (groupKeyOf p) p (m.unitOf p).1 (m.unitOf p).2
        (m.placeOf (m.gdesc (groupKeyOf p)) (m.unitOf p).2) (m.bringsNothing port p) (m.gdesc (groupKeyOf p))).endsShard
        (groupKeyOf p) p (m.unitOf p).1 (m.unitOf p).2 (m.bringsNothing port p) (m.gdesc (groupKeyOf p)) := by
  unfold takeShard
  dsimp only
  rw [if_pos hlast, if_pos hw, if_pos hw]
  rfl

theorem endsShard_facts (m : Mach) (gk : Nat) (p : Packet) (pass idx : Nat) (empty : Bool) (d : GroupDesc) :
    (m.endsShard gk p pass idx empty d).chunk? gk pass idx = none ∧
    m.counted (m.endsShard gk p pass idx empty d) .sx Pg.pleat R.pltContribCnt ∧
    (m.endsShard gk p pass idx empty d).held = m.held := by
  obtain ⟨hbooks, hcount, -⟩ := m.endsUnit_facts gk p pass idx empty
  obtain ⟨a, ha⟩ : ∃ a, a = m.endsUnit gk p pass idx empty := ⟨_, rfl⟩
  obtain ⟨b, hb⟩ : ∃ b, b = a.bumpBy .sx Pg.pleat R.pltResultCnt (a.receivers d).length := ⟨_, rfl⟩
  obtain ⟨c, hc⟩ : ∃ c, c = b.removeChunk gk pass idx := ⟨_, rfl⟩
  rw [← ha] at hbooks hcount
  have hends : m.endsShard gk p pass idx empty d = c.markDone gk pass idx := by
    rw [hc, hb, ha]
    rfl
  have hbump := books_bumpBy a R.pltResultCnt (a.receivers d).length (f := pageWord Pg.pleat R.pltResultCnt)
    (beq_self_eq_true _)
  rw [← hb] at hbump
  have hremove : b.pleats c (pageWord Pg.pleat R.pltResultCnt) := by
    rw [hc]
    exact pleats_setPlt ..
  have hmark := books_markDone c gk pass idx (pageWord Pg.pleat R.pltResultCnt)
  rw [hends]
  refine ⟨?_, ?_, ?_⟩
  · have hgone : c.chunk? gk pass idx = none := by
      rw [hc]
      refine List.find?_eq_none.2 fun e he => ?_
      have hother := (List.mem_filter.1 he).2
      rw [Bool.not_eq_true'] at hother
      rw [hother]
      exact Bool.false_ne_true
    exact (hmark.chunk? ..).trans hgone
  · rw [counted, ((hbump.1.trans hremove).trans hmark.1).word _ (by decide), hcount]
  · exact hmark.1.held.trans (hremove.held.trans (hbump.1.held.trans hbooks.1.held))

end Mach

/-- A whole shard is replicated, and its chunk is complete. -/
theorem exec_pltShard_take {s : State} {tile port : Nat} {x : Packet} {given : Mach} (htile : tile < 18)
    (hat : s.m.atPleat tile x = some (port, given)) (hv : given.pleatVerdict port x = .take) (hlast : x.last = 1)
    (hdist : ((given.unitOf x).1 + 256 - (given.grp (groupKeyOf x)).passLow) % 256 < 4)
    (hidx : (given.unitOf x).2 < (given.gdesc (groupKeyOf x)).count)
    (hdone : (given.grp (groupKeyOf x)).done.contains (given.unitOf x) = false) (hop : x.opcode = Op.pltShard)
    (hw : given.pd (groupKeyOf x) F.pdesc_release = 0) :
    ∃ t, exec (.pltShard tile x) s = .next t ∧
      t.m.held.map Mach.wayOf = given.held.map Mach.wayOf ++
        ((given.receivers (given.gdesc (groupKeyOf x))).map fun r =>
          (given.shardOut (groupKeyOf x) (given.unitOf x).1 (given.unitOf x).2 x (given.bringsNothing port x) r).map fun p =>
            (144 + given.placeOf (given.gdesc (groupKeyOf x)) (given.unitOf x).2,
              (given.memberOf Pg.pleat 3 (given.gdesc (groupKeyOf x)).memberBase r).port, p)).flatten ∧
      t.m.chunk? (groupKeyOf x) (given.unitOf x).1 (given.unitOf x).2 = none ∧
      s.m.counted t.m .sx Pg.pleat R.pltContribCnt ∧ s.kept t := by
  obtain ⟨hgiven, -⟩ := Mach.given_of_atPleat hat
  obtain ⟨hkeeps, -⟩ := Mach.joins_facts (Mach.judged_of_take hv) hdist hidx hdone port (f := given.contribution x) fun c => rfl
  have htake := (pleatArrive_shard hat hv hop).trans (Mach.takeShard_whole hlast hw)
  obtain ⟨j, hjoin⟩ : ∃ j, j = given.joins port x (given.contribution x) := ⟨_, rfl⟩
  rw [← hjoin] at hkeeps htake
  obtain ⟨q, hj, -⟩ := hkeeps
  have hsent := Mach.enters_shards (given.placeOf (given.gdesc (groupKeyOf x)) (given.unitOf x).2) (groupKeyOf x) (given.unitOf x).1
    (given.unitOf x).2 x (given.bringsNothing port x) (given.gdesc (groupKeyOf x)).memberBase j
    (j.receivers (given.gdesc (groupKeyOf x))) j [] ⟨⟨j.held, j.nextId, rfl⟩, (List.append_nil _).symm⟩
  rw [List.nil_append] at hsent
  obtain ⟨k, hk⟩ : ∃ k, k = j.sendsShard (groupKeyOf x) x (given.unitOf x).1 (given.unitOf x).2
    (given.placeOf (given.gdesc (groupKeyOf x)) (given.unitOf x).2) (given.bringsNothing port x) (given.gdesc (groupKeyOf x)) := ⟨_, rfl⟩
  rw [Mach.sendsShard] at hk
  rw [← hk] at hsent
  rw [Mach.sendsShard, ← hk] at htake
  have hexec := exec_pleat htile (List.mem_cons_of_mem _ (List.mem_cons_self ..)) htake
  obtain ⟨hnone, hcount, hheld⟩ := k.endsShard_facts (groupKeyOf x) x (given.unitOf x).1 (given.unitOf x).2
    (given.bringsNothing port x) (given.gdesc (groupKeyOf x))
  obtain ⟨n, hn⟩ : ∃ n, n = k.endsShard (groupKeyOf x) x (given.unitOf x).1 (given.unitOf x).2 (given.bringsNothing port x)
    (given.gdesc (groupKeyOf x)) := ⟨_, rfl⟩
  rw [← hn] at hexec hnone hcount hheld
  obtain ⟨⟨hs, i, hkj⟩, hways⟩ := hsent
  have hword : k.word .sx (item Pg.pleat 0 R.pltContribCnt) = s.m.word .sx (item Pg.pleat 0 R.pltContribCnt) := by
    rw [hkj, hj, hgiven]
    rfl
  have hout (r : Nat) : j.shardOut (groupKeyOf x) (given.unitOf x).1 (given.unitOf x).2 x (given.bringsNothing port x) r
      = given.shardOut (groupKeyOf x) (given.unitOf x).1 (given.unitOf x).2 x (given.bringsNothing port x) r := by
    rw [hj]
    exact Mach.shardOut_held given given.held given.nextId q ..
  have hmember (b r : Nat) : j.memberOf Pg.pleat 3 b r = given.memberOf Pg.pleat 3 b r := by
    rw [hj]
    rfl
  have hreceivers (d : GroupDesc) : j.receivers d = given.receivers d := by
    rw [hj]
    rfl
  have hstart : j.held = given.held := by
    rw [hj]
    rfl
  rw [Mach.counted, hword] at hcount
  have hall : n.held.map Mach.wayOf = _ := (congrArg (List.map Mach.wayOf) hheld).trans hways
  simp only [hout, hmember, hreceivers, hstart] at hall
  exact ⟨{ s with m := n }, hexec, hall, hnone, hcount, rfl, rfl⟩

/-! ### Parts of buckets (R338) -/

namespace Mach

/-- Where a part's packet puts its records, after those placed before it, and how many had no place. -/
def placedFrom (m : Mach) (port : Nat) (p : Packet) (before : List (Nat × List Byte)) : List (Nat × List Byte) × Nat :=
  if m.bringsNothing port p then (before, 0)
  else placeRecords (m.recSize (m.gdesc (groupKeyOf p)).number) (m.bd (m.gdesc (groupKeyOf p)).number F.bdesc_capacity)
    (PltAux.member p) (p.payload.length + 1) p.payload before

/-- The places of a bucket after a part's packet. -/
def placed (m : Mach) (port : Nat) (p : Packet) : List (Nat × List Byte) × Nat :=
  m.placedFrom port p (m.joinedChunk p).places

/-- A part's packet in its bucket. -/
def part (m : Mach) (port : Nat) (p : Packet) (c : Chunk) : Chunk :=
  { c with places := (m.placed port p).1, last := (m.openChunk p).plt.order,
           ended := if p.last = 1 then c.ended ++ [PltAux.member p] else c.ended }

/-- Dropped records are counted and noted for their source (R338). -/
def notesDrops (m : Mach) (gk i idx dropped : Nat) : Mach :=
  let n := m.bumpBy .sx Pg.pleat R.pltBktDropRecCnt dropped
  let g := n.grp gk
  if dropped = 0 ∨ g.drops.contains (i, idx) then n
  else n.setGrp gk { g with drops := (i, idx) :: g.drops, overflow := min (g.overflow + 1) 4095 }

theorem books_notesDrops (m : Mach) (gk i idx dropped : Nat) :
    m.books (m.notesDrops gk i idx dropped) (pageWord Pg.pleat R.pltBktDropRecCnt) := by
  have hbump := books_bumpBy m R.pltBktDropRecCnt dropped (f := pageWord Pg.pleat R.pltBktDropRecCnt) (beq_self_eq_true _)
  unfold notesDrops
  dsimp only
  split_ifs
  · exact hbump
  · exact hbump.trans (books_setGrp ..)

theorem drops_notesDrops (m : Mach) (gk i idx dropped : Nat) :
    (dropped ≠ 0 → (i, idx) ∈ ((m.notesDrops gk i idx dropped).grp gk).drops) ∧
    (dropped = 0 → ((m.notesDrops gk i idx dropped).grp gk).drops = (m.grp gk).drops) := by
  obtain ⟨n, hn⟩ : ∃ n, n = m.bumpBy .sx Pg.pleat R.pltBktDropRecCnt dropped := ⟨_, rfl⟩
  have hgrp : n.grp gk = m.grp gk := by
    have hplt : n.plt = m.plt := by
      rw [hn]
      exact plt_of_bare (bumpBy_bare ..)
    rw [grp, hplt]
    rfl
  have hnotes : m.notesDrops gk i idx dropped = if dropped = 0 ∨ (n.grp gk).drops.contains (i, idx) then n
      else n.setGrp gk { n.grp gk with drops := (i, idx) :: (n.grp gk).drops, overflow := min ((n.grp gk).overflow + 1) 4095 } := by
    rw [hn]
    rfl
  rw [hnotes]
  refine ⟨fun h => ?_, fun h => ?_⟩
  · by_cases hin : (n.grp gk).drops.contains (i, idx) = true
    · rw [if_pos (.inr hin)]
      exact List.contains_iff_mem.1 hin
    · rw [if_neg (by tauto), grp_setGrp, if_pos rfl]
      exact List.mem_cons_self ..
  · rw [if_pos (.inl h), hgrp]

theorem drops_advanceNext (m : Mach) (gk i pass idx : Nat) : ((m.advanceNext gk i pass idx).grp gk).drops = (m.grp gk).drops := by
  rw [advanceNext, grp_setGrp, if_pos rfl]

theorem takeRecords_whole {m : Mach} {port : Nat} {p : Packet} (hlast : p.last = 1)
    (hj : (m.openChunk p).chunk? (groupKeyOf p) (m.unitOf p).1 (m.unitOf p).2 = some (m.joinedChunk p)) : m.takeRecords port p =
      ((m.joins port p (m.part port p)).notesDrops (groupKeyOf p) (PltAux.member p) (m.unitOf p).2 (m.placed port p).2).advanceNext
        (groupKeyOf p) (PltAux.member p) (m.unitOf p).1 (m.unitOf p).2 := by
  unfold takeRecords
  dsimp only
  rw [if_pos hlast, hj]
  rfl

end Mach

/-- A part of a bucket fills its records' places. -/
theorem exec_bktSend_take {s : State} {tile port : Nat} {x : Packet} {given : Mach} (htile : tile < 18)
    (hat : s.m.atPleat tile x = some (port, given)) (hv : given.pleatVerdict port x = .take) (hlast : x.last = 1)
    (hdist : ((given.unitOf x).1 + 256 - (given.grp (groupKeyOf x)).passLow) % 256 < 4)
    (hidx : (given.unitOf x).2 < (given.gdesc (groupKeyOf x)).count)
    (hdone : (given.grp (groupKeyOf x)).done.contains (given.unitOf x) = false) (hop : x.opcode = Op.bktSend) :
    ∃ t, exec (.bktSend tile x) s = .next t ∧
      t.m.chunk? (groupKeyOf x) (given.unitOf x).1 (given.unitOf x).2 = some (given.part port x (given.joinedChunk x)) ∧
      ((given.placed port x).2 ≠ 0 → (PltAux.member x, (given.unitOf x).2) ∈ (t.m.grp (groupKeyOf x)).drops) ∧
      ((given.placed port x).2 = 0 → (t.m.grp (groupKeyOf x)).drops = (given.grp (groupKeyOf x)).drops) ∧
      s.becomes t { given with plt := t.m.plt } .sx (pageWord Pg.pleat R.pltBktDropRecCnt) := by
  obtain ⟨hgiven, -⟩ := Mach.given_of_atPleat hat
  obtain ⟨cs, o, hopen, hfind, -⟩ := Mach.openChunk_joined (Mach.judged_of_take hv) hdist hidx hdone
  have hjoined : (given.openChunk x).chunk? (groupKeyOf x) (given.unitOf x).1 (given.unitOf x).2 = some (given.joinedChunk x) := by
    rw [hopen]
    exact hfind
  obtain ⟨hkeeps, hchunk, -⟩ := Mach.joins_facts (Mach.judged_of_take hv) hdist hidx hdone port (f := given.part port x) fun c => rfl
  have htake := (pleatArrive_bucket hat hv hop).trans (Mach.takeRecords_whole hlast hjoined)
  obtain ⟨j, hjoin⟩ : ∃ j, j = given.joins port x (given.part port x) := ⟨_, rfl⟩
  rw [← hjoin] at hkeeps hchunk htake
  obtain ⟨k, hk⟩ : ∃ k, k = j.notesDrops (groupKeyOf x) (PltAux.member x) (given.unitOf x).2 (given.placed port x).2 := ⟨_, rfl⟩
  obtain ⟨n, hn⟩ : ∃ n, n = k.advanceNext (groupKeyOf x) (PltAux.member x) (given.unitOf x).1 (given.unitOf x).2 := ⟨_, rfl⟩
  have hnotes := j.books_notesDrops (groupKeyOf x) (PltAux.member x) (given.unitOf x).2 (given.placed port x).2
  obtain ⟨hnoted, hclean⟩ := j.drops_notesDrops (groupKeyOf x) (PltAux.member x) (given.unitOf x).2 (given.placed port x).2
  have hnext := k.books_advanceNext (groupKeyOf x) (PltAux.member x) (given.unitOf x).1 (given.unitOf x).2
    (pageWord Pg.pleat R.pltBktDropRecCnt)
  have hdrops : (n.grp (groupKeyOf x)).drops = (k.grp (groupKeyOf x)).drops := by
    rw [hn]
    exact Mach.drops_advanceNext ..
  have hgroup : (j.grp (groupKeyOf x)).drops = (given.grp (groupKeyOf x)).drops := by
    obtain ⟨q, rfl, hq⟩ := hkeeps
    exact congrArg (fun g : Tbl PGroup => (Tbl.get (fun _ => ({} : PGroup)) g (groupKeyOf x)).drops) hq
  rw [← hk] at hnotes hnoted hclean htake
  rw [← hn] at hnext htake
  have hexec := exec_pleat htile (List.mem_cons_of_mem _ (List.mem_cons_of_mem _ (List.mem_cons_self ..))) htake
  have hall := hnotes.trans hnext
  exact ⟨{ s with m := n }, hexec, (hall.chunk? ..).trans hchunk, fun h => hdrops ▸ hnoted h,
    fun h => hdrops.trans ((hclean h).trans hgroup), becomes_of_pleats hgiven ((Mach.pleats_of_keepsGroups hkeeps _).trans hall.1)⟩

/-! ### What is dropped, and what faults -/

namespace Mach

/-- A group's fault leaves the count of dropped packets. -/
theorem protoDrops_pleatFault (m : Mach) (gk reason : Nat) : (m.pleatFault gk reason).word .sx (item Pg.pleat 0 R.pltProtoDropCnt)
    = m.word .sx (item Pg.pleat 0 R.pltProtoDropCnt) := by
  obtain ⟨d, key, hfault⟩ := m.pleatFault_eq gk reason
  by_cases h : (m.grp gk).reason ≠ 0
  · rw [hfault, if_pos h]
  · rw [if_neg h] at hfault
    obtain ⟨a, ha⟩ : ∃ a, a = ((m.waitingOf gk).foldl dropHeld m).pleatEmptied gk reason := ⟨_, rfl⟩
    obtain ⟨b, hb⟩ : ∃ b, b = (a.bump .sx Pg.pleat R.pltGroupFaultCnt).raise .sx Pg.pleat 0 d := ⟨_, rfl⟩
    rw [← ha, ← hb] at hfault
    have hne : item Pg.pleat 0 R.pltProtoDropCnt ≠ item Pg.pleat 0 R.pltGroupFaultCnt := by decide
    have hdrop : a.word .sx (item Pg.pleat 0 R.pltProtoDropCnt) = m.word .sx (item Pg.pleat 0 R.pltProtoDropCnt) := by
      rw [ha]
      exact (drops_dropHelds m (m.waitingOf gk)).regs.2 _ rfl
    have hraise : b.word .sx (item Pg.pleat 0 R.pltProtoDropCnt) = a.word .sx (item Pg.pleat 0 R.pltProtoDropCnt) := by
      rw [hb, word_raise _ _ _ _ _ _ (eventWord_none _ _ _ (by decide) (by decide) (by decide)), bump, bumpBy, word_setWord, if_neg hne]
    rw [hfault, (faults_pfault b key reason false).word _ rfl rfl, hraise, hdrop]

end Mach

section
variable {s : State} {tile port : Nat} {x : Packet} {given : Mach} {c : Instr} (htile : tile < 18)
  (hc : c ∈ [Instr.pltContrib tile x, .pltShard tile x, .bktSend tile x]) (hat : s.m.atPleat tile x = some (port, given))
include htile hc hat

/-- A packet that is dropped is counted, and nothing else changes. -/
theorem exec_pleat_dropped {o : Nat} (hact : given.pleatAct port x = given.bump .sx Pg.pleat o) :
    ∃ t, exec c s = .next t ∧ s.m.counted t.m .sx Pg.pleat o ∧ s.becomes t given .sx (pageWord Pg.pleat o) := by
  obtain ⟨hgiven, harrive⟩ := Mach.given_of_atPleat hat
  obtain ⟨n, hn⟩ : ∃ n, n = given.bump .sx Pg.pleat o := ⟨_, rfl⟩
  have hexec := exec_pleat htile hc (harrive.trans (hact.trans hn.symm))
  have hkept : given.touches n .sx (pageWord Pg.pleat o) := by
    rw [hn]
    exact Mach.touches_bump _ _ _ _ (beq_self_eq_true _)
  have hword : given.word .sx (item Pg.pleat 0 o) = s.m.word .sx (item Pg.pleat 0 o) := by
    rw [hgiven]
    rfl
  refine ⟨_, hexec, ?_, ?_⟩
  · rw [Mach.counted, hn, Mach.word_bump, hword]
  · obtain ⟨hbare, hregs, hep⟩ := hkept
    have hfirst : s.m.regsKept given .sx (pageWord Pg.pleat o) := by
      rw [hgiven]
      exact Mach.kept_of_rf rfl rfl _
    have hgep : given.rf .ep = s.m.rf .ep := by
      rw [hgiven]
      rfl
    exact becomes_of hbare (hfirst.trans hregs) (hep.trans hgep)

/-- A packet that breaks a rule is counted, and its group faults. -/
theorem exec_pleat_faults {reason : Nat} (h0 : (given.grp (groupKeyOf x)).reason = 0)
    (hv : given.pleatVerdict port x = .fault reason) :
    ∃ t, exec c s = .next t ∧ s.m.counted t.m .sx Pg.pleat R.pltProtoDropCnt ∧ s.groupFaults t (groupKeyOf x) reason := by
  obtain ⟨hgiven, harrive⟩ := Mach.given_of_atPleat hat
  obtain ⟨n, hn⟩ : ∃ n, n = given.bump .sx Pg.pleat R.pltProtoDropCnt := ⟨_, rfl⟩
  have hact : given.pleatAct port x = n.pleatFault (groupKeyOf x) reason := by
    rw [Mach.pleatAct, hv, hn]
  have hexec := exec_pleat htile hc (harrive.trans hact)
  have hgrp : (n.grp (groupKeyOf x)).reason = 0 := by
    have hplt : n.plt = given.plt := by
      rw [hn]
      exact Mach.plt_of_bare (Mach.bump_bare ..)
    rw [Mach.grp, hplt]
    exact h0
  have hword (k : Nat) : given.word .sx k = s.m.word .sx k := by
    rw [hgiven]
    rfl
  have hfaults : n.word .sx (item Pg.pleat 0 R.pltGroupFaultCnt) = s.m.word .sx (item Pg.pleat 0 R.pltGroupFaultCnt) := by
    have hne : item Pg.pleat 0 R.pltGroupFaultCnt ≠ item Pg.pleat 0 R.pltProtoDropCnt := by decide
    rw [hn, Mach.bump, Mach.bumpBy, Mach.word_setWord, if_neg hne, hword]
  obtain ⟨hreason, hres, hleave, hchunks, hreleases, hactive, hcount, hevent, -⟩ :=
    groupFaults_pleatFault (s := { s with m := n }) hgrp reason
  refine ⟨_, hexec, ?_, hreason, hres, hleave, hchunks, hreleases, hactive, ?_, hevent, rfl, rfl⟩
  · rw [Mach.counted, Mach.protoDrops_pleatFault, hn, Mach.word_bump, hword]
  · rw [Mach.counted] at hcount ⊢
    rw [← hfaults]
    exact hcount

end

/-- A contribution names its pass and chunk. -/
theorem unitOf_contrib (m : Mach) {x : Packet} (h : x.opcode = Op.pltContrib) : m.unitOf x = (PltAux.pass x, PltAux.chunk x) := by
  rw [Mach.unitOf, isBucketOp, h]
  rfl

/-- What stands in an open chunk before a packet, where it may open none. -/
theorem standing_joined (m : Mach) (x : Packet) {α : Type} (f : Chunk → List α) (hnew : f (m.newChunk x) = []) :
    f (m.joinedChunk x) = match m.chunk? (groupKeyOf x) (m.unitOf x).1 (m.unitOf x).2 with | some o => f o | none => [] := by
  rw [Mach.joinedChunk]
  cases m.chunk? (groupKeyOf x) (m.unitOf x).1 (m.unitOf x).2 with
  | none => exact hnew
  | some o => rfl

/-- Settles O46: a verdict, then one packet of each sort. -/
theorem pleatPacketsAreAccumulated : Obligations.PleatPacketsAreAccumulated := by
  unfold Obligations.PleatPacketsAreAccumulated
  refine ⟨fun s tile x htile c hc => ⟨fun hat => ?_, fun port given hat => ?_⟩, fun s tile x htile port given hat hop hv hdist hidx hdone => ?_,
    fun s tile x htile port given hat hv hlast hdist hidx hdone => ⟨fun hop hw => ?_, fun hop => ?_⟩⟩
  · exact exec_pleat htile hc (Mach.pleatArrive_of_none hat)
  · obtain ⟨hgiven, -⟩ := Mach.given_of_atPleat hat
    have hnode : given.sxNode = s.m.sxNode := by
      rw [hgiven]
      rfl
    have hknows : given.knows x = (Mach.isPleatOp x.opcode && x.dst == s.m.sxNode
        && x.pkey == (given.gdesc (groupKeyOf x)).pkey && (given.gdesc (groupKeyOf x)).valid) := by
      rw [Mach.knows, hnode]
    refine ⟨fun hk => ?_, fun hk h => ?_, fun hk h0 => ⟨fun hm => ?_, fun hm hsort howner => ⟨fun hstale => ?_,
      fun hdist hnone haddr hlast hempty => ⟨fun hge => ?_, fun hlt hdone => ?_⟩⟩⟩⟩
    · refine exec_pleat_dropped htile hc hat ?_
      rw [Mach.pleatAct, Mach.pleatVerdict_unknown (hknows.trans hk)]
    · refine exec_pleat_dropped htile hc hat ?_
      rw [Mach.pleatAct, Mach.pleatVerdict_faulted (hknows.trans hk) h]
    · exact exec_pleat_faults htile hc hat h0 (Mach.pleatVerdict_stranger (hknows.trans hk) h0 hm)
    · exact exec_pleat_faults htile hc hat h0 (Mach.pleatVerdict_stale (hknows.trans hk) h0 hm hsort howner hstale)
    · obtain ⟨again, v, hv⟩ := Mach.pleatVerdict_whole (hknows.trans hk) h0 hm hsort howner hdist hnone haddr hlast hempty
      rw [if_pos hge] at hv
      exact exec_pleat_faults htile hc hat h0 hv
    · obtain ⟨again, v, hv⟩ := Mach.pleatVerdict_whole (hknows.trans hk) h0 hm hsort howner hdist hnone haddr hlast hempty
      rw [if_neg (Nat.not_le.2 hlt), if_pos (by rw [hdone]; rfl)] at hv
      exact exec_pleat_faults htile hc hat h0 hv
  · have hunit := unitOf_contrib given hop
    have htime : given.time = s.m.time := by
      rw [(Mach.given_of_atPleat hat).1]
    obtain ⟨t, hexec, hchunk, hothers, hended, hgoes, hbecomes⟩ := exec_pltContrib_take htile hat hop hv
      (by rw [hunit]; exact hdist) (by rw [hunit]; exact hidx) (by rw [hunit]; exact hdone)
    have hpkts := standing_joined given x Chunk.pkts rfl
    have hends := standing_joined given x Chunk.ended rfl
    rw [hunit] at hchunk hothers hended hpkts hends
    refine ⟨t, hexec, fun ch hch => ?_, by rw [hchunk]; rfl, hothers, hended, fun h => hgoes (by rw [h]; decide), hbecomes⟩
    rw [hchunk, Option.some.injEq] at hch
    subst hch
    refine ⟨?_, ?_, fun hold => ?_⟩
    · exact congrArg (· ++ [(PltAux.member x, x.address, x.payload)]) hpkts
    · refine Eq.trans ?_ (congrArg (· ++ if x.last = 1 then [PltAux.member x] else []) hends)
      unfold Mach.contribution
      dsimp only
      split_ifs
      · rfl
      · exact (List.append_nil _).symm
    · have hnew : given.joinedChunk x = given.newChunk x := by
        rw [Mach.joinedChunk, hunit, hold]
        rfl
      rw [hnew, Mach.contribution, Mach.newChunk, hunit, htime]
      exact ⟨rfl, rfl⟩
  · exact exec_pltShard_take htile hat hv hlast hdist hidx hdone hop hw
  · obtain ⟨t, hexec, hchunk, hnoted, hclean, hbecomes⟩ := exec_bktSend_take htile hat hv hlast hdist hidx hdone hop
    have hplaces := standing_joined given x Chunk.places rfl
    have hends := standing_joined given x Chunk.ended rfl
    have hput : given.placed port x = _ := congrArg (given.placedFrom port x) hplaces
    rw [hput] at hnoted hclean
    refine ⟨t, hexec, by rw [hchunk]; rfl, fun ch hch => ?_, hnoted, hclean, hbecomes⟩
    rw [hchunk, Option.some.injEq] at hch
    subst hch
    refine ⟨congrArg Prod.fst hput, ?_⟩
    refine Eq.trans ?_ (congrArg (· ++ [PltAux.member x]) hends)
    rw [Mach.part, if_pos hlast]

end Sys2Proof.Machine
end

section
/-! How the memory services of the switch take a request and answer it (R94, R156, R223, R351). -/

set_option Elab.async false

namespace Sys2Proof.Machine
open Sys2Proof

namespace Mach

/-! ### What a memory service changes -/

/-- What changes the packets held and the state of the memory services alone, and of the registers those of `f`. -/
def serves (m n : Mach) (f : Nat → Bool) : Prop :=
  ({ m with held := n.held, nextId := n.nextId, mem := n.mem } : Mach).touches n .sx f

/-- Registers that only count: none of those that a service reads. -/
def countsOnly (f : Nat → Bool) : Prop := ∀ p o, o < 0x900 → f (item p 0 o) = false

section
variable {m n k : Mach} {f : Nat → Bool}

theorem serves_refl (m : Mach) (f : Nat → Bool) : m.serves m f := touches_refl ..

theorem serves.trans (h : m.serves n f) (g : n.serves k f) : m.serves k f := by
  obtain ⟨hbare, hregs, hep⟩ := h
  obtain ⟨gbare, gregs, gep⟩ := g
  refine ⟨?_, ?_, ?_⟩
  · have hset : ({ n with held := k.held, nextId := k.nextId, mem := k.mem } : Mach).bare
        = ({ n.bare with held := k.held, nextId := k.nextId, mem := k.mem } : Mach) := rfl
    rw [gbare, hset, hbare]
    rfl
  · exact ((kept_of_rf rfl rfl f).trans hregs).trans ((kept_of_rf rfl rfl f).trans gregs)
  · exact gep.trans hep

theorem serves_setMem (m : Mach) (x : MemSt) (f : Nat → Bool) : m.serves (m.setMem x) f := touches_refl ..

theorem serves_held (m : Mach) (hs : List Held) (f : Nat → Bool) : m.serves { m with held := hs } f := touches_refl ..

theorem serves_svcAnswer (m : Mach) (cl port : Nat) (p : Packet) (f : Nat → Bool) : m.serves (m.svcAnswer cl port p) f :=
  touches_refl ..

theorem serves_of_touches (h : m.touches n .sx f) : m.serves n f := by
  have hheld : n.bare.held = m.bare.held := by rw [h.1]
  have hid : n.bare.nextId = m.bare.nextId := by rw [h.1]
  have hmem : n.bare.mem = m.bare.mem := by rw [h.1]
  change n.held = m.held at hheld
  change n.nextId = m.nextId at hid
  change n.mem = m.mem at hmem
  rw [serves, hheld, hid, hmem]
  exact h

theorem serves_bumpBy (m : Mach) (p o n : Nat) (hf : f (item p 0 o) = true) : m.serves (m.bumpBy .sx p o n) f :=
  serves_of_touches (touches_setWord _ _ _ _ hf)

theorem serves_bump (m : Mach) (p o : Nat) (hf : f (item p 0 o) = true) : m.serves (m.bump .sx p o) f :=
  serves_of_touches (touches_bump _ _ _ _ hf)

theorem serves.mono (h : m.serves n f) {g : Nat → Bool} (hfg : ∀ k, f k = true → g k = true) : m.serves n g :=
  touches.mono h hfg

theorem serves.word (h : m.serves n f) (k : Nat) (hk : f k = false) : n.word .sx k = m.word .sx k := h.2.1.2 k hk

theorem serves.regs (h : m.serves n f) : m.regsKept n .sx f := (kept_of_rf rfl rfl f).trans h.2.1

theorem serves.epParams (h : m.serves n f) : n.epParams = m.epParams := by
  have hpar : n.epParams = ({ m with held := n.held, nextId := n.nextId, mem := n.mem } : Mach).epParams := epParams_of_bare h.1
  exact hpar

theorem serves.time (h : m.serves n f) : n.time = m.time := by
  have hbare : n.bare.time = ({ m with held := n.held, nextId := n.nextId, mem := n.mem } : Mach).bare.time := by rw [h.1]
  exact hbare

theorem countsOnly_pageWord {p o : Nat} (h : 0x900 ≤ o) (ho : o < 2 ^ 44) : countsOnly (pageWord p o) := by
  intro q a ha
  rw [pageWord_item _ _ _ _ ho (by omega), beq_false_of_ne (show a ≠ o by omega), Bool.and_false]

theorem countsOnly_noWord : countsOnly noWord := fun _ _ _ => rfl

theorem countsOnly.or {g : Nat → Bool} (h : countsOnly f) (hg : countsOnly g) : countsOnly fun k => f k || g k :=
  fun p o ho => Bool.or_eq_false_iff.2 ⟨h p o ho, hg p o ho⟩

section
variable (h : m.serves n f) (hf : countsOnly f)
include h hf

theorem serves.fld (p : Nat) (x : Fld) (hx : x.off < 0x900) : n.fld .sx p x = m.fld .sx p x :=
  fld_of_kept h.regs h.epParams p x (hf p x.off hx)

theorem serves.epochNow : n.epochNow .sx = m.epochNow .sx :=
  seenFld_of_kept h.regs h.epParams (hf Pg.chip F.chpEpoch_epoch.off (by decide))

theorem serves.svcEcho (cl : Nat) : n.svcEcho cl = ({ m with held := n.held } : Mach).svcEcho cl := by
  have hfld : n.fld .sx (Pg.cluster cl) F.cluSvcMark_thr = m.fld .sx (Pg.cluster cl) F.cluSvcMark_thr := h.fld hf _ _ (by decide)
  rw [Mach.svcEcho, hfld]
  rfl

theorem serves.response (q : Packet) (op st e po a : Nat) (bs : List Byte) :
    n.response .sx q op st e po a bs = m.response .sx q op st e po a bs := response_congr (h.epochNow hf) ..

end
end

/-- What is held when an answer has joined it. -/
theorem held_svcAnswer (m : Mach) (cl port : Nat) (p : Packet) :
    (m.svcAnswer cl port p).held = m.heldWith (port, m.held) cl [p] ∧ (m.svcAnswer cl port p).nextId = m.nextId + 1 ∧
      (m.svcAnswer cl port p).mem = m.mem := ⟨rfl, rfl, rfl⟩

end Mach

/-- The frame of what a memory service does. -/
theorem becomes_of_serves {s : State} {n : Mach} {f : Nat → Bool} (h : s.m.serves n f) :
    s.becomes { s with m := n } { s.m with held := n.held, nextId := n.nextId, mem := n.mem } .sx f :=
  becomes_of h.1 h.regs h.2.2

/-! ### A request that has reached its service -/

namespace Mach
variable {m : Mach} {p cl : Nat} {x : Packet} {map : Option PoolMap}

/-- The machine without the request that its service takes. -/
def without (m : Mach) (x : Packet) (p : Nat) : Mach := { m with held := (m.taken 162 168 x p).2 }

theorem gone_findAt (m : Mach) (x : Packet) (p : Nat) (n : Mach) (h : n.held = m.held) :
    (match m.findAt 162 168 x with | some h => n.removeHeld h.id | none => n) = { n with held := (m.taken 162 168 x p).2 } := by
  rw [taken]
  cases m.findAt 162 168 x with
  | none =>
    dsimp only
    rw [← h]
  | some y =>
    dsimp only
    rw [removeHeld, h]

/-- Where its service takes a request, its cluster's service decides on it. -/
theorem memoryRequest_atTarget (h : m.atTarget 162 168 x (162 + cl) map)
    (hdirect : m.findAt 162 168 x = none → m.shedLevel < 4 → m.memoryRequest p x = m.svcArrive p cl map x none) :
    m.memoryRequest p x = m.svcArrive (m.taken 162 168 x p).1 cl map x (m.findAt 162 168 x) := by
  unfold atTarget at h
  cases hfind : m.findAt 162 168 x with
  | none =>
    rw [hfind] at h
    rw [hdirect hfind h, taken, hfind]
  | some y =>
    rw [hfind] at h
    obtain ⟨hwhole, hout, hpool⟩ := h
    have hcl : y.output - 162 = cl := by omega
    rw [memoryRequest, taken, hfind]
    dsimp only
    rw [if_pos hwhole, hcl, hpool]

theorem memoryRequest_sync (hs : x.addrSpace = 1) (h : m.atTarget 162 168 x (162 + objCluster (x.offset / 8)) none) :
    m.memoryRequest p x = m.svcArrive (m.taken 162 168 x p).1 (objCluster (x.offset / 8)) none x (m.findAt 162 168 x) :=
  memoryRequest_atTarget h fun hfind hshed => by
    rw [memoryRequest, hfind]
    dsimp only
    rw [if_neg (by omega), if_pos hs]

theorem memoryRequest_pool {r : PoolMap} (hs : x.addrSpace = 0) (hop : x.opcode ≠ Op.syncWait)
    (h : m.atTarget 162 168 x (162 + (r.locate x.offset).1) (some r))
    (hmap : m.findAt 162 168 x = none → m.mapPool x = some r) :
    m.memoryRequest p x = m.svcArrive (m.taken 162 168 x p).1 (r.locate x.offset).1 (some r) x (m.findAt 162 168 x) :=
  memoryRequest_atTarget h fun hfind hshed => by
    rw [memoryRequest, hfind]
    dsimp only
    rw [if_neg (by omega), if_neg (by omega), if_neg hop, hmap hfind]

/-- A request that its service refuses is answered with NACK. -/
theorem svcArrive_refused {st : Nat} (h : m.svcRefusal map x = some st) (port p : Nat) :
    m.svcArrive port cl map x (m.findAt 162 168 x) = (m.without x p).svcNack cl port x st := by
  have hgone := gone_findAt m x p m rfl
  unfold svcArrive
  rw [h]
  exact congrArg (fun n : Mach => n.svcNack cl port x st) hgone

/-- The machine when a service has taken a request and numbered it. -/
def numbered (m : Mach) (x : Packet) (p : Nat) : Mach :=
  { m with held := (m.taken 162 168 x p).2, mem := { m.mem with nextReq := m.mem.nextReq + 1 } }

/-- A request that need not park is served. -/
theorem svcArrive_served (h : m.svcRefusal map x = none) (hpark : m.mustPark cl map x = false) (port p : Nat) :
    m.svcArrive port cl map x (m.findAt 162 168 x) = (m.numbered x p).serveReq m.mem.nextReq port cl map x := by
  obtain ⟨n, hn⟩ : ∃ n, n = m.setMem { m.mem with nextReq := m.mem.nextReq + 1 } := ⟨_, rfl⟩
  have hheld : n.held = m.held := by rw [hn]; rfl
  have hgone := gone_findAt m x p n hheld
  have hstay : n.mustPark cl map x = false := by
    rw [hn]
    exact hpark
  have hnumbered : ({ n with held := (m.taken 162 168 x p).2 } : Mach) = m.numbered x p := by
    rw [hn]
    rfl
  unfold svcArrive
  rw [h]
  dsimp only
  rw [← hn, hstay, if_neg Bool.false_ne_true]
  exact congrArg (fun n : Mach => n.serveReq m.mem.nextReq port cl map x) (hgone.trans hnumbered)

/-- A request of a switch's own memory is none of its registers. -/
theorem sxRequest_memory (hdst : x.dst = m.sxNode) (hs : x.addrSpace < 2) : m.sxRequest p x = m.memoryRequest p x := by
  rw [sxRequest, if_neg (not_not_intro hdst), if_pos (by omega), if_neg (by omega)]

end Mach

end Sys2Proof.Machine
end

section
/-! O23: integer atomics compute, sync objects are operated on and waited for, waits expire (R133 to R136, R142 to R150). -/

set_option Elab.async false

namespace Sys2Proof.Machine
open Sys2Proof

/-! ### Integer atomics on bytes (R133, R134) -/

theorem ofLeBytes_leBytes (k n : Nat) : ofLeBytes (leBytes k n) = n % 256 ^ k := by
  induction k generalizing n with
  | zero => exact (Nat.mod_one n).symm
  | succ k ih =>
    have hbyte : (BitVec.ofNat 8 n).toNat = n % 256 := BitVec.toNat_ofNat ..
    rw [leBytes, ofLeBytes, ih, hbyte, Nat.pow_succ, Nat.mul_comm (256 ^ k), Nat.mod_mul]

section
variable (w old v u : Nat)

theorem atomicNew_add {f : Nat} (hf : f < 2) : atomicNew 0 w f old v u = (old + v) % 2 ^ w := by
  rw [atomicNew, if_neg (by decide), if_neg (by omega), if_pos rfl]

theorem atomicNew_swap (f : Nat) : atomicNew 3 w f old v u = if old = v then u else old := by
  rw [atomicNew, if_pos rfl]

theorem atomicNew_min : atomicNew 1 w 0 old v u = min old v := by
  have hless : atomicNew 1 w 0 old v u = if v < old then v else old := by simp [atomicNew]
  rw [hless, Nat.min_def]
  split_ifs <;> omega

theorem atomicNew_max : atomicNew 2 w 0 old v u = max old v := by
  have hmore : atomicNew 2 w 0 old v u = if old < v then v else old := by simp [atomicNew]
  rw [hmore, Nat.max_def]
  split_ifs <;> omega

theorem signedOf_atomicNew_min : signedOf (atomicNew 1 w 1 old v u) w = min (signedOf old w) (signedOf v w) := by
  have hless : atomicNew 1 w 1 old v u = if signedOf v w < signedOf old w then v else old := by simp [atomicNew]
  rw [hless, apply_ite (signedOf · w), min_def]
  split_ifs <;> omega

theorem signedOf_atomicNew_max : signedOf (atomicNew 2 w 1 old v u) w = max (signedOf old w) (signedOf v w) := by
  have hmore : atomicNew 2 w 1 old v u = if signedOf old w < signedOf v w then v else old := by simp [atomicNew]
  rw [hmore, apply_ite (signedOf · w), max_def]
  split_ifs <;> omega

/-- A number is read as signed by its low bits alone. -/
theorem signedOf_mod (n : Nat) : signedOf (n % 2 ^ w) w = signedOf n w := by
  rw [signedOf, signedOf, Nat.mod_mod]

end

section
variable {w : Nat} (hw : w < 2) {old v u : Nat} (hold : old < 2 ^ (32 * 2 ^ w)) (hv : v < 2 ^ (32 * 2 ^ w))
  (hu : u < 2 ^ (32 * 2 ^ w))
include hw hold hv hu

omit hw in
/-- What an atomic writes, read as a number: its new value, whose operands the payload gives. -/
theorem ofLeBytes_atomicBytes {modifier : Nat} (hm : bitsOf modifier 4 2 = w) :
    ofLeBytes (atomicBytes modifier (leBytes (4 * 2 ^ w) old) (leBytes (4 * 2 ^ w) v ++ leBytes (4 * 2 ^ w) u))
      = atomicNew (bitsOf modifier 0 4) (8 * (4 * 2 ^ w)) (bitsOf modifier 6 2) old v u % 2 ^ (8 * (4 * 2 ^ w)) := by
  have hpow : 256 ^ (4 * 2 ^ w) = 2 ^ (8 * (4 * 2 ^ w)) := (Nat.pow_mul 2 8 _).symm
  have hbits : 2 ^ (8 * (4 * 2 ^ w)) = 2 ^ (32 * 2 ^ w) := by rw [← Nat.mul_assoc]
  have hread {n : Nat} (hn : n < 2 ^ (32 * 2 ^ w)) : ofLeBytes (leBytes (4 * 2 ^ w) n) = n := by
    rw [ofLeBytes_leBytes, hpow, hbits, Nat.mod_eq_of_lt hn]
  have htake : (leBytes (4 * 2 ^ w) v ++ leBytes (4 * 2 ^ w) u).take (4 * 2 ^ w) = leBytes (4 * 2 ^ w) v :=
    List.take_left' (leBytes_length ..)
  have hdrop : (leBytes (4 * 2 ^ w) v ++ leBytes (4 * 2 ^ w) u).drop (4 * 2 ^ w) = leBytes (4 * 2 ^ w) u :=
    List.drop_left' (leBytes_length ..)
  rw [atomicBytes, hm, htake, hdrop, hread hold, hread hv, hread hu, ofLeBytes_leBytes, hpow]

theorem atomicBytes_computes :
    let n := 4 * 2 ^ w
    let run := fun (modifier : Nat) => ofLeBytes (atomicBytes modifier (leBytes n old) (leBytes n v ++ leBytes n u))
    run (16 * w) = (old + v) % 2 ^ (8 * n) ∧ run (16 * w + 64) = (old + v) % 2 ^ (8 * n) ∧
    run (16 * w + 1) = min old v ∧ run (16 * w + 2) = max old v ∧
    (signedOf (run (16 * w + 65)) (8 * n) = min (signedOf old (8 * n)) (signedOf v (8 * n))) ∧
    (signedOf (run (16 * w + 66)) (8 * n) = max (signedOf old (8 * n)) (signedOf v (8 * n))) ∧
    run (16 * w + 3) = if old = v then u else old := by
  intro n run
  have hbits : 2 ^ (8 * n) = 2 ^ (32 * 2 ^ w) := by rw [← Nat.mul_assoc]
  have hrun {modifier : Nat} (op fmt : Nat) (hm : modifier = 16 * w + 64 * fmt + op) (hop : op < 4) (hf : fmt < 2) :
      run modifier = atomicNew op (8 * n) fmt old v u % 2 ^ (8 * n) := by
    have hwidth : bitsOf modifier 4 2 = w := by unfold bitsOf; omega
    have hcode : bitsOf modifier 0 4 = op := by unfold bitsOf; omega
    have hform : bitsOf modifier 6 2 = fmt := by unfold bitsOf; omega
    have hall := ofLeBytes_atomicBytes hold hv hu hwidth
    rwa [hcode, hform] at hall
  have hfits {a : Nat} (ha : a < 2 ^ (32 * 2 ^ w)) : a % 2 ^ (8 * n) = a := by rw [hbits, Nat.mod_eq_of_lt ha]
  refine ⟨?_, ?_, ?_, ?_, ?_, ?_, ?_⟩
  · rw [hrun 0 0 (by omega) (by decide) (by decide), atomicNew_add _ _ _ _ (by decide), Nat.mod_mod]
  · rw [hrun 0 1 (by omega) (by decide) (by decide), atomicNew_add _ _ _ _ (by decide), Nat.mod_mod]
  · rw [hrun 1 0 (by omega) (by decide) (by decide), atomicNew_min, hfits (by omega)]
  · rw [hrun 2 0 (by omega) (by decide) (by decide), atomicNew_max, hfits (by omega)]
  · rw [hrun 1 1 (by omega) (by decide) (by decide), signedOf_mod, signedOf_atomicNew_min]
  · rw [hrun 2 1 (by omega) (by decide) (by decide), signedOf_mod, signedOf_atomicNew_max]
  · rw [hrun 3 0 (by omega) (by decide) (by decide), atomicNew_swap, hfits]
    split_ifs
    · exact hu
    · exact hold

end

/-! ### An operation on a readable sync object (R145 to R149) -/

namespace Mach

/-- The words that count operations and notifications of a cluster's sync objects. -/
def opsWord (cl : Nat) : Nat → Bool := pageWord (Pg.cluster cl) R.cluSyncOpsCnt
def notifyWord (cl : Nat) : Nat → Bool := pageWord (Pg.cluster cl) R.cluSyncNotifyCnt

theorem heldBack_of_idle {m : Mach} (hreqs : m.mem.reqs = []) (hpark : ∀ h ∈ m.held, h.parked = none) (id : Nat) (x : Packet) :
    m.heldBack id x = false := by
  have hnone : (m.held.any fun h => match h.parked with
      | some n => decide (n < id) && (isStore h.pkt.opcode && h.pkt.src == x.src && h.pkt.stream == x.stream)
      | none => false) = false := by
    rw [List.any_eq_false]
    intro h hh
    rw [hpark h hh]
    exact Bool.false_ne_true
  have hback : m.heldBack id x = (isStore x.opcode && x.stream != 63
      && ((m.mem.reqs.any fun r => decide (r.id < id) && (isStore r.pkt.opcode && r.pkt.src == x.src && r.pkt.stream == x.stream))
        || (m.held.any fun h => match h.parked with
          | some n => decide (n < id) && (isStore h.pkt.opcode && h.pkt.src == x.src && h.pkt.stream == x.stream)
          | none => false))) := rfl
  rw [hback, hnone, hreqs]
  exact Bool.and_false _

theorem mustPark_of_idle {m : Mach} (hreqs : m.mem.reqs = []) (cl : Nat) (map : Option PoolMap) (x : Packet) :
    m.mustPark cl map x = false := by
  have hfree (e : Nat) : m.entryFree cl e = true := by
    rw [entryFree, entriesOf, hreqs]
    rfl
  unfold mustPark
  cases entryOf map x with
  | none => rfl
  | some e =>
    dsimp only
    rw [hfree]
    rfl

/-- An answer joins what is held, and changes nothing else. -/
theorem svcReply_facts {m n : Mach} {f : Nat → Bool} {o : Nat × List Held} {x : Packet} (h : m.serves n f) (hf : countsOnly f)
    (hheld : n.held = o.2) (hid : n.nextId = m.nextId) (cl op : Nat) (bs : List Byte) :
    m.serves (n.svcReply cl o.1 x op bs) f ∧
    (n.svcReply cl o.1 x op bs).held
      = m.heldWith o cl [m.response .sx x op 0 (({ m with held := o.2 } : Mach).svcEcho cl) 0 0 bs] ∧
    (n.svcReply cl o.1 x op bs).nextId = m.nextId + 1 ∧ (n.svcReply cl o.1 x op bs).mem = n.mem := by
  have hecho : n.svcEcho cl = ({ m with held := o.2 } : Mach).svcEcho cl := by rw [h.svcEcho hf, hheld]
  have hpkt : n.svcReply cl o.1 x op bs
      = n.svcAnswer cl o.1 (m.response .sx x op 0 (({ m with held := o.2 } : Mach).svcEcho cl) 0 0 bs) := by
    rw [svcReply, hecho, h.response hf]
  obtain ⟨ahheld, ahid, ahmem⟩ :=
    n.held_svcAnswer cl o.1 (m.response .sx x op 0 (({ m with held := o.2 } : Mach).svcEcho cl) 0 0 bs)
  rw [hpkt]
  refine ⟨h.trans (serves_svcAnswer ..), ?_, ?_, ahmem⟩
  · rw [ahheld, hheld, heldWith, heldWith, hid]
  · rw [ahid, hid]

/-- The machine when an operation on a sync object has been counted. -/
def syncCounted (m : Mach) (i : Nat) : Mach := m.bump .sx (Pg.cluster (objCluster i)) R.cluSyncOpsCnt

section
variable {m : Mach} {port : Nat} {x : Packet} (hpoison : x.offset / 8 ∉ m.mem.objPoison) (hbad : x.offset / 8 ∉ m.mem.objBad)
include hpoison hbad

/-- A readable object is operated on. -/
theorem syncDo_readable : m.syncDo port x =
    if x.opcode = Op.read then
      (m.syncCounted (x.offset / 8)).svcReply (objCluster (x.offset / 8)) port x Op.readData (leBytes 8 (m.obj (x.offset / 8)).toNat)
    else if x.opcode = Op.syncWait then (m.syncCounted (x.offset / 8)).syncWaitOn port x (x.offset / 8) (m.obj (x.offset / 8))
    else
      let new := BitVec.ofNat 64 (ofLeBytes (atomicBytes x.modifier (leBytes 8 (m.obj (x.offset / 8)).toNat) x.payload))
      let n := ((m.syncCounted (x.offset / 8)).setObj (x.offset / 8) new).answerWaiters (x.offset / 8) new
      if x.opcode = Op.atomic then
        n.svcReply (objCluster (x.offset / 8)) port x Op.atomicData (leBytes 8 (m.obj (x.offset / 8)).toNat)
      else n.svcReply (objCluster (x.offset / 8)) port x Op.atomicAck [] := by
  have hread : m.objRead (x.offset / 8) = (some (m.obj (x.offset / 8)), m) := by
    rw [objRead, if_neg (by rwa [List.contains_iff_mem]), if_neg (by rwa [List.contains_iff_mem])]
  unfold syncDo
  dsimp only
  rw [hread]
  rfl

end
end Mach

theorem requestInstr_syncWait {p : Nat} {x : Packet} (h : x.opcode = Op.syncWait) :
    requestInstr .sx p x = some (.syncWait .sx p x) := by
  rw [requestInstr, h]
  rfl

/-- A request to a sync object reaches its cluster. -/
theorem exec_sync {s : State} {p : Nat} {x : Packet} {c : Instr} (hp : p < 144) (hdst : x.dst = s.m.sxNode) (hs : x.addrSpace = 1)
    (hat : s.m.atTarget 162 168 x (162 + objCluster (x.offset / 8)) none) (hc : requestInstr .sx p x = some c) :
    exec c s = .next { s with
      m := s.m.svcArrive (s.m.taken 162 168 x p).1 (objCluster (x.offset / 8)) none x (s.m.findAt 162 168 x) } := by
  rw [exec_request_sx hc s hp, Mach.sxRequest_memory hdst (by omega), Mach.memoryRequest_sync hs hat]

namespace Mach

theorem service_of_bare {m n : Mach} (h : n.bare = m.bare) : n.held = m.held ∧ n.nextId = m.nextId ∧ n.mem = m.mem := by
  have hheld : n.bare.held = m.bare.held := by rw [h]
  have hid : n.bare.nextId = m.bare.nextId := by rw [h]
  have hmem : n.bare.mem = m.bare.mem := by rw [h]
  exact ⟨hheld, hid, hmem⟩

theorem countsOnly_opsWord (cl : Nat) : countsOnly (opsWord cl) := countsOnly_pageWord (by decide) (by decide)

theorem countsOnly_ops_notify (cl : Nat) : countsOnly fun k => opsWord cl k || notifyWord cl k :=
  (countsOnly_opsWord cl).or (countsOnly_pageWord (by decide) (by decide))

/-- A request numbered and its operation counted: what is held, the number of the next request and one counter changed. -/
theorem syncCounted_numbered (m : Mach) (x : Packet) (p i : Nat) :
    m.serves ((m.numbered x p).syncCounted i) (opsWord (objCluster i)) ∧
    ((m.numbered x p).syncCounted i).held = (m.taken 162 168 x p).2 ∧
    ((m.numbered x p).syncCounted i).nextId = m.nextId ∧
    ((m.numbered x p).syncCounted i).mem = { m.mem with nextReq := m.mem.nextReq + 1 } ∧
    m.counted ((m.numbered x p).syncCounted i) .sx (Pg.cluster (objCluster i)) R.cluSyncOpsCnt := by
  obtain ⟨n, hn⟩ : ∃ n, n = m.numbered x p := ⟨_, rfl⟩
  have hserves : m.serves n (opsWord (objCluster i)) := by
    rw [hn]
    exact touches_refl ..
  obtain ⟨hheld, hid, hmem⟩ := service_of_bare (n := n.syncCounted i) (m := n) (bump_bare ..)
  rw [← hn]
  refine ⟨hserves.trans (serves_bump _ _ _ (beq_self_eq_true _)), ?_, ?_, ?_, ?_⟩
  · rw [hheld, hn]
    rfl
  · rw [hid, hn]
    rfl
  · rw [hmem, hn]
    rfl
  · have hword : n.word .sx (item (Pg.cluster (objCluster i)) 0 R.cluSyncOpsCnt)
        = m.word .sx (item (Pg.cluster (objCluster i)) 0 R.cluSyncOpsCnt) := by
      rw [hn]
      rfl
    rw [counted, syncCounted, word_bump, hword]

end Mach

namespace Mach

/-- What a response tells of its request, but for the fields that depend on the responder. -/
theorem response_facts (m : Mach) (q : Packet) {op : Nat} (hop : op < 2 ^ 8) (st e po a : Nat) (bs : List Byte) :
    (m.response .sx q op st e po a bs).opcode = op ∧ (m.response .sx q op st e po a bs).payload = bs ∧
      (m.response .sx q op st e po a bs).tag = q.tag := by
  have htag : q.tag < 2 ^ 16 := Nat.mod_lt _ (by decide)
  simp only [response, packet_opcode, packet_payload, packet_tag]
  exact ⟨Nat.mod_eq_of_lt hop, trivial, Nat.mod_eq_of_lt htag⟩

section
variable {m : Mach} {i : Nat} {v : DWord}

/-- Where no waiter's threshold is reached, none is answered. -/
theorem answerWaiters_none (h : ∀ w ∈ m.mem.waiters, w.obj = i → v.toNat < w.thr) : m.answerWaiters i v = m := by
  have hnone : (m.mem.waiters.filter fun w => w.obj == i && decide (w.thr ≤ v.toNat)) = [] := by
    refine List.filter_eq_nil_iff.2 fun w hw => ?_
    rw [Bool.and_eq_true, beq_iff_eq, decide_eq_true_iff]
    rintro ⟨hobj, hle⟩
    have hlt := h w hw hobj
    omega
  have hall : (m.mem.waiters.filter fun w => !(w.obj == i && decide (w.thr ≤ v.toNat))) = m.mem.waiters := by
    refine List.filter_eq_self.2 fun w hw => ?_
    have hnot := List.filter_eq_nil_iff.1 hnone w hw
    rw [Bool.not_eq_true']
    exact Bool.eq_false_iff.2 hnot
  rw [answerWaiters, hnone, hall, List.mergeSort_nil]
  rfl

/-- The one waiter whose threshold is reached is notified. -/
theorem answerWaiters_sole {w : Waiter} (hw : m.mem.waiters = [w]) (hobj : w.obj = i) (hle : w.thr ≤ v.toNat) :
    m.answerWaiters i v = ((m.setMem { m.mem with waiters := [] }).notify w.port w.pkt v).bump .sx (Pg.cluster (objCluster i))
      R.cluSyncNotifyCnt := by
  have hsome : (m.mem.waiters.filter fun w => w.obj == i && decide (w.thr ≤ v.toNat)) = [w] := by
    rw [hw]
    simp [hobj, hle]
  have hnone : (m.mem.waiters.filter fun w => !(w.obj == i && decide (w.thr ≤ v.toNat))) = [] := by
    rw [hw]
    simp [hobj, hle]
  rw [answerWaiters, hsome, hnone, List.mergeSort_singleton]
  rfl

end

/-- An answer joins what is held. -/
theorem svcReply_joins (m : Mach) (cl port : Nat) (q : Packet) {op : Nat} (hop : op < 2 ^ 8) (bs : List Byte) (f : Nat → Bool) :
    m.serves (m.svcReply cl port q op bs) f ∧
    (∃ a, (m.svcReply cl port q op bs).held = m.held ++ [a] ∧ a.output = port ∧ a.pkt.opcode = op ∧ a.pkt.payload = bs ∧
      a.pkt.tag = q.tag) ∧
    (m.svcReply cl port q op bs).nextId = m.nextId + 1 ∧ (m.svcReply cl port q op bs).mem = m.mem ∧
    ∀ k, (m.svcReply cl port q op bs).word .sx k = m.word .sx k := by
  obtain ⟨hcode, hbytes, htag⟩ := m.response_facts q hop 0 (m.svcEcho cl) 0 0 bs
  exact ⟨serves_svcAnswer .., ⟨_, rfl, rfl, hcode, hbytes, htag⟩, rfl, rfl, fun _ => rfl⟩

/-- An object's new value reaches the threshold of the one waiter, which is notified. -/
theorem answerWaiters_notifies {m : Mach} {i : Nat} {v : DWord} {w : Waiter} (hw : m.mem.waiters = [w]) (hobj : w.obj = i)
    (hle : w.thr ≤ v.toNat) : ∃ n, (m.setObj i v).answerWaiters i v = n ∧ m.serves n (notifyWord (objCluster i)) ∧
    (∃ a, n.held = m.held ++ [a] ∧ a.output = w.port ∧ a.pkt.opcode = Op.syncNotify ∧ a.pkt.payload = leBytes 8 v.toNat ∧
      a.pkt.tag = w.pkt.tag) ∧
    n.mem.waiters = [] ∧ n.obj i = v ∧ m.counted n .sx (Pg.cluster (objCluster i)) R.cluSyncNotifyCnt := by
  have hsole := answerWaiters_sole (m := m.setObj i v) hw hobj hle
  obtain ⟨d, hd⟩ : ∃ d, d = (m.setObj i v).setMem { (m.setObj i v).mem with waiters := [] } := ⟨_, rfl⟩
  obtain ⟨htells, ⟨a, haheld, haout, haop, habytes, hatag⟩, -, hamem, haword⟩ := d.svcReply_joins (objCluster (w.pkt.offset / 8))
    w.port w.pkt (op := Op.syncNotify) (by decide) (leBytes 8 v.toNat) (notifyWord (objCluster i))
  obtain ⟨e, he⟩ : ∃ e, e = d.notify w.port w.pkt v := ⟨_, rfl⟩
  rw [notify] at he
  rw [← he] at htells haheld hamem haword
  rw [← hd, notify, ← he] at hsole
  obtain ⟨hheld, -, hmem⟩ := service_of_bare (n := e.bump .sx (Pg.cluster (objCluster i)) R.cluSyncNotifyCnt) (m := e) (bump_bare ..)
  have hdm : m.serves d (notifyWord (objCluster i)) := by
    rw [hd]
    exact touches_refl ..
  have hdheld : d.held = m.held := by
    rw [hd]
    rfl
  have hdword (k : Nat) : d.word .sx k = m.word .sx k := by
    rw [hd]
    rfl
  have hdmem : d.mem.waiters = [] ∧ d.obj i = v := by
    rw [hd]
    exact ⟨rfl, (Tbl.get_set ..).trans (if_pos rfl)⟩
  refine ⟨_, hsole, (hdm.trans htells).trans (serves_bump _ _ _ (beq_self_eq_true _)),
    ⟨a, by rw [hheld, haheld, hdheld], haout, haop, habytes, hatag⟩, ?_, ?_, ?_⟩
  · rw [hmem, hamem]
    exact hdmem.1
  · rw [obj, hmem, hamem]
    exact hdmem.2
  · rw [counted, word_bump, haword, hdword]

end Mach

/-- The object's value after an atomic. -/
def newValue (m : Mach) (x : Packet) : DWord :=
  BitVec.ofNat 64 (ofLeBytes (atomicBytes x.modifier (leBytes 8 (m.obj (x.offset / 8)).toNat) x.payload))

/-- Command `c` notifies the waiter `w`, then answers its request `x` with `op`. -/
def State.notifies (s : State) (w : Waiter) (p : Nat) (x : Packet) (c : Instr) (op : Nat) : Prop :=
  ∃ t, exec c s = .next t ∧ s.m.counted t.m .sx (Pg.cluster (objCluster (x.offset / 8))) R.cluSyncOpsCnt ∧
    s.m.counted t.m .sx (Pg.cluster (objCluster (x.offset / 8))) R.cluSyncNotifyCnt ∧
    t.m.mem.waiters = [] ∧ t.m.obj (x.offset / 8) = newValue s.m x ∧
    (∃ a b, t.m.held = (s.m.taken 162 168 x p).2 ++ [a, b] ∧ a.output = w.port ∧ a.pkt.opcode = Op.syncNotify ∧
      a.pkt.payload = leBytes 8 (newValue s.m x).toNat ∧ a.pkt.tag = w.pkt.tag ∧ b.output = (s.m.taken 162 168 x p).1 ∧
      b.pkt.opcode = op) ∧
    s.m.regsKept t.m .sx (fun k => Mach.opsWord (objCluster (x.offset / 8)) k || Mach.notifyWord (objCluster (x.offset / 8)) k) ∧
    s.kept t

/-- The answer to an operation, and what the operation has left. -/
theorem exec_sync_answered {s : State} {p : Nat} {x : Packet} {c : Instr} {b : Mach} {op cl o' : Nat} {bs : List Byte} {y : MemSt}
    {f : Nat → Bool} (hexec : exec c s = .next { s with m := b.svcReply cl (s.m.taken 162 168 x p).1 x op bs })
    (hserves : s.m.serves b f) (hf : Mach.countsOnly f) (hheld : b.held = (s.m.taken 162 168 x p).2) (hid : b.nextId = s.m.nextId)
    (hmem : b.mem = y) (hcount : s.m.counted b .sx (Pg.cluster cl) o') :
    ∃ t, exec c s = .next t ∧ s.m.counted t.m .sx (Pg.cluster cl) o' ∧
      s.becomes t { s.m with
        held := s.m.heldWith (s.m.taken 162 168 x p) cl [s.m.response .sx x op 0
          (({ s.m with held := (s.m.taken 162 168 x p).2 } : Mach).svcEcho cl) 0 0 bs],
        nextId := s.m.nextId + 1, mem := y } .sx f := by
  obtain ⟨hall, hnheld, hnid, hnmem⟩ := Mach.svcReply_facts (o := s.m.taken 162 168 x p) (x := x) hserves hf hheld hid cl op bs
  obtain ⟨n, hn⟩ : ∃ n, n = b.svcReply cl (s.m.taken 162 168 x p).1 x op bs := ⟨_, rfl⟩
  have hword : n.word .sx (item (Pg.cluster cl) 0 o') = b.word .sx (item (Pg.cluster cl) 0 o') := by
    rw [hn]
    rfl
  rw [← hn] at hexec hall hnheld hnid hnmem
  have hframe := becomes_of_serves hall
  rw [hnheld, hnid, hnmem, hmem] at hframe
  refine ⟨_, hexec, ?_, hframe⟩
  rw [Mach.counted, hword]
  exact hcount

section
variable {s : State} {p : Nat} {x : Packet} {c : Instr} (hp : p < 144) (hdst : x.dst = s.m.sxNode) (hs : x.addrSpace = 1)
  (hat : s.m.atTarget 162 168 x (162 + objCluster (x.offset / 8)) none)
include hp hdst hs hat

/-- A request that fails its checks is answered with NACK. -/
theorem exec_sync_refused {st : Nat} (href : s.m.syncRefusal x = some st) (hc : requestInstr .sx p x = some c) :
    ∃ t, exec c s = .next t ∧ s.becomes t { s.m with
      held := s.m.heldWith (s.m.taken 162 168 x p) (objCluster (x.offset / 8)) [s.m.response .sx x Op.nack st
        (({ s.m with held := (s.m.taken 162 168 x p).2 } : Mach).svcEcho (objCluster (x.offset / 8))) 0 0 []],
      nextId := s.m.nextId + 1 } .sx noWord := by
  have hexec := exec_sync hp hdst hs hat hc
  rw [Mach.svcArrive_refused (map := none) href _ p] at hexec
  exact ⟨_, hexec, becomes_of_serves (s := s) (f := noWord) (Mach.touches_refl ..)⟩

section
variable (href : s.m.syncRefusal x = none) (hpoison : x.offset / 8 ∉ s.m.mem.objPoison) (hbad : x.offset / 8 ∉ s.m.mem.objBad)
  (hreqs : s.m.mem.reqs = []) (hpark : ∀ h ∈ s.m.held, h.parked = none) (hc : requestInstr .sx p x = some c)
include href hreqs hpark hc

/-- One that passes them is operated on at once. -/
theorem exec_sync_served : exec c s = .next { s with m := (s.m.numbered x p).syncDo (s.m.taken 162 168 x p).1 x } := by
  have hexec := exec_sync hp hdst hs hat hc
  have hsub : ∀ h ∈ (s.m.taken 162 168 x p).2, h.parked = none := by
    intro h hh
    rw [Mach.taken] at hh
    cases hfind : s.m.findAt 162 168 x with
    | none =>
      rw [hfind] at hh
      exact hpark h hh
    | some y =>
      rw [hfind] at hh
      exact hpark h (List.mem_filter.1 hh).1
  have hback := Mach.heldBack_of_idle (m := s.m.numbered x p) hreqs hsub s.m.mem.nextReq x
  rw [Mach.svcArrive_served (map := none) href (Mach.mustPark_of_idle hreqs _ _ _) _ p, Mach.serveReq] at hexec
  rwa [hback, if_neg Bool.false_ne_true] at hexec

include hpoison hbad

/-- A read is answered with the object's value. -/
theorem exec_sync_read (hop : x.opcode = Op.read) : ∃ t, exec c s = .next t ∧
    s.m.counted t.m .sx (Pg.cluster (objCluster (x.offset / 8))) R.cluSyncOpsCnt ∧
    s.becomes t { s.m with
      held := s.m.heldWith (s.m.taken 162 168 x p) (objCluster (x.offset / 8)) [s.m.response .sx x Op.readData 0
        (({ s.m with held := (s.m.taken 162 168 x p).2 } : Mach).svcEcho (objCluster (x.offset / 8))) 0 0
        (leBytes 8 (s.m.obj (x.offset / 8)).toNat)],
      nextId := s.m.nextId + 1, mem := { s.m.mem with nextReq := s.m.mem.nextReq + 1 } } .sx
      (Mach.opsWord (objCluster (x.offset / 8))) := by
  have hexec := exec_sync_served hp hdst hs hat href hreqs hpark hc
  rw [Mach.syncDo_readable (m := s.m.numbered x p) hpoison hbad, if_pos hop] at hexec
  obtain ⟨hserves, hheld, hid, hmem, hcount⟩ := s.m.syncCounted_numbered x p (x.offset / 8)
  obtain ⟨b, hb⟩ : ∃ b, b = (s.m.numbered x p).syncCounted (x.offset / 8) := ⟨_, rfl⟩
  rw [← hb] at hexec hserves hheld hid hmem hcount
  exact exec_sync_answered hexec hserves (Mach.countsOnly_opsWord _) hheld hid hmem hcount

/-- An atomic on an object that no waiter awaits so. -/
theorem exec_sync_atomic (hop : x.opcode = Op.atomic ∨ x.opcode = Op.atomicPosted)
    (hnone : ∀ w ∈ s.m.mem.waiters, w.obj = x.offset / 8 → (newValue s.m x).toNat < w.thr) : ∃ t, exec c s = .next t ∧
    s.m.counted t.m .sx (Pg.cluster (objCluster (x.offset / 8))) R.cluSyncOpsCnt ∧
    s.becomes t { s.m with
      held := s.m.heldWith (s.m.taken 162 168 x p) (objCluster (x.offset / 8))
        [if x.opcode = Op.atomic then s.m.response .sx x Op.atomicData 0
            (({ s.m with held := (s.m.taken 162 168 x p).2 } : Mach).svcEcho (objCluster (x.offset / 8))) 0 0
            (leBytes 8 (s.m.obj (x.offset / 8)).toNat)
          else s.m.response .sx x Op.atomicAck 0
            (({ s.m with held := (s.m.taken 162 168 x p).2 } : Mach).svcEcho (objCluster (x.offset / 8))) 0 0 []],
      nextId := s.m.nextId + 1,
      mem := { s.m.mem with
        nextReq := s.m.mem.nextReq + 1, obj := Tbl.set (fun _ => 0) s.m.mem.obj (x.offset / 8) (newValue s.m x) } } .sx
      (Mach.opsWord (objCluster (x.offset / 8))) := by
  have hexec := exec_sync_served hp hdst hs hat href hreqs hpark hc
  have hread : x.opcode ≠ Op.read := by rcases hop with h | h <;> (rw [h]; decide)
  have hwait : x.opcode ≠ Op.syncWait := by rcases hop with h | h <;> (rw [h]; decide)
  rw [Mach.syncDo_readable (m := s.m.numbered x p) hpoison hbad, if_neg hread, if_neg hwait] at hexec
  obtain ⟨hserves, hheld, hid, hmem, hcount⟩ := s.m.syncCounted_numbered x p (x.offset / 8)
  obtain ⟨b, hb⟩ : ∃ b, b = (s.m.numbered x p).syncCounted (x.offset / 8) := ⟨_, rfl⟩
  rw [← hb] at hexec hserves hheld hid hmem hcount
  have hset := hserves.trans (Mach.serves_setMem b { b.mem with obj := Tbl.set (fun _ => 0) b.mem.obj (x.offset / 8) (newValue s.m x) } _)
  have hwaiters : (b.setObj (x.offset / 8) (newValue s.m x)).answerWaiters (x.offset / 8) (newValue s.m x)
      = b.setObj (x.offset / 8) (newValue s.m x) := by
    refine Mach.answerWaiters_none fun w hw => ?_
    have hsame : (b.setObj (x.offset / 8) (newValue s.m x)).mem.waiters = s.m.mem.waiters := by
      have hb : b.mem.waiters = s.m.mem.waiters := by rw [hmem]
      exact hb
    rw [hsame] at hw
    exact hnone w hw
  have hmemory : (b.setObj (x.offset / 8) (newValue s.m x)).mem = { s.m.mem with
      nextReq := s.m.mem.nextReq + 1, obj := Tbl.set (fun _ => 0) s.m.mem.obj (x.offset / 8) (newValue s.m x) } := by
    rw [Mach.setObj, Mach.setMem, hmem]
  change exec c s = .next { s with
    m := if x.opcode = Op.atomic then
      ((b.setObj (x.offset / 8) (newValue s.m x)).answerWaiters (x.offset / 8) (newValue s.m x)).svcReply
        (objCluster (x.offset / 8)) (s.m.taken 162 168 x p).1 x Op.atomicData (leBytes 8 (s.m.obj (x.offset / 8)).toNat)
      else ((b.setObj (x.offset / 8) (newValue s.m x)).answerWaiters (x.offset / 8) (newValue s.m x)).svcReply
        (objCluster (x.offset / 8)) (s.m.taken 162 168 x p).1 x Op.atomicAck [] } at hexec
  rw [hwaiters] at hexec
  by_cases hatomic : x.opcode = Op.atomic
  · rw [if_pos hatomic] at hexec ⊢
    exact exec_sync_answered hexec hset (Mach.countsOnly_opsWord _) hheld hid hmemory hcount
  · rw [if_neg hatomic] at hexec ⊢
    exact exec_sync_answered hexec hset (Mach.countsOnly_opsWord _) hheld hid hmemory hcount

/-- An atomic whose value reaches the threshold of the one waiter: it is notified, then the request answered. -/
theorem exec_sync_notifies (hop : x.opcode = Op.atomic ∨ x.opcode = Op.atomicPosted) {w : Waiter} (hw : s.m.mem.waiters = [w])
    (hobj : w.obj = x.offset / 8) (hle : w.thr ≤ (newValue s.m x).toNat) :
    State.notifies s w p x c (if x.opcode = Op.atomic then Op.atomicData else Op.atomicAck) := by
  have hexec := exec_sync_served hp hdst hs hat href hreqs hpark hc
  have hread : x.opcode ≠ Op.read := by rcases hop with h | h <;> (rw [h]; decide)
  have hwait : x.opcode ≠ Op.syncWait := by rcases hop with h | h <;> (rw [h]; decide)
  rw [Mach.syncDo_readable (m := s.m.numbered x p) hpoison hbad, if_neg hread, if_neg hwait] at hexec
  obtain ⟨hserves, hheld, hid, hmem, hcount⟩ := s.m.syncCounted_numbered x p (x.offset / 8)
  obtain ⟨b, hb⟩ : ∃ b, b = (s.m.numbered x p).syncCounted (x.offset / 8) := ⟨_, rfl⟩
  rw [← hb] at hexec hserves hheld hid hmem hcount
  have hbw : b.mem.waiters = [w] := by
    rw [hmem]
    exact hw
  obtain ⟨g, hsole, hnotify, ⟨a, haheld, haout, haop, habytes, hatag⟩, hgone, hnew, hcounted⟩ :=
    Mach.answerWaiters_notifies hbw hobj hle
  have hops : g.word .sx (item (Pg.cluster (objCluster (x.offset / 8))) 0 R.cluSyncOpsCnt)
      = b.word .sx (item (Pg.cluster (objCluster (x.offset / 8))) 0 R.cluSyncOpsCnt) := by
    refine hnotify.word _ ?_
    rw [Mach.notifyWord, pageWord_item _ _ _ _ (by decide) (by decide)]
    exact Bool.and_false _
  have hntf : b.word .sx (item (Pg.cluster (objCluster (x.offset / 8))) 0 R.cluSyncNotifyCnt)
      = s.m.word .sx (item (Pg.cluster (objCluster (x.offset / 8))) 0 R.cluSyncNotifyCnt) := by
    refine hserves.word _ ?_
    rw [Mach.opsWord, pageWord_item _ _ _ _ (by decide) (by decide)]
    exact Bool.and_false _
  have hall : s.m.serves g fun k => Mach.opsWord (objCluster (x.offset / 8)) k || Mach.notifyWord (objCluster (x.offset / 8)) k :=
    (hserves.mono fun k hk => by rw [hk, Bool.true_or]).trans (hnotify.mono fun k hk => by rw [hk, Bool.or_true])
  -- whatever the answer, it joins what the notification has left
  have hanswer {op : Nat} (hop8 : op < 2 ^ 8) (bs : List Byte) (hexec : exec c s = .next { s with
      m := g.svcReply (objCluster (x.offset / 8)) (s.m.taken 162 168 x p).1 x op bs }) :
      State.notifies s w p x c op := by
    obtain ⟨hjoins, ⟨y, hyheld, hyout, hyop, -, -⟩, -, hymem, hyword⟩ := g.svcReply_joins (objCluster (x.offset / 8))
      (s.m.taken 162 168 x p).1 x hop8 bs fun k => Mach.opsWord (objCluster (x.offset / 8)) k || Mach.notifyWord (objCluster (x.offset / 8)) k
    refine ⟨_, hexec, ?_, ?_, ?_, ?_, ⟨a, y, ?_, haout, haop, habytes, hatag, hyout, hyop⟩, (hall.trans hjoins).regs, rfl, rfl⟩
    · rw [Mach.counted, hyword, hops]
      exact hcount
    · rw [Mach.counted, hyword, hcounted, hntf]
    · rw [hymem]
      exact hgone
    · rw [Mach.obj, hymem]
      exact hnew
    · rw [hyheld, haheld, hheld, List.append_assoc]
      rfl
  change exec c s = .next { s with
    m := if x.opcode = Op.atomic then
      ((b.setObj (x.offset / 8) (newValue s.m x)).answerWaiters (x.offset / 8) (newValue s.m x)).svcReply
        (objCluster (x.offset / 8)) (s.m.taken 162 168 x p).1 x Op.atomicData (leBytes 8 (s.m.obj (x.offset / 8)).toNat)
      else ((b.setObj (x.offset / 8) (newValue s.m x)).answerWaiters (x.offset / 8) (newValue s.m x)).svcReply
        (objCluster (x.offset / 8)) (s.m.taken 162 168 x p).1 x Op.atomicAck [] } at hexec
  rw [hsole] at hexec
  by_cases hatomic : x.opcode = Op.atomic
  · rw [if_pos hatomic] at hexec ⊢
    exact hanswer (by decide) _ hexec
  · rw [if_neg hatomic] at hexec ⊢
    exact hanswer (by decide) _ hexec

section
variable (hop : x.opcode = Op.syncWait)
include hop

theorem exec_sync_wait : ∃ b, exec c s = .next { s with
      m := b.syncWaitOn (s.m.taken 162 168 x p).1 x (x.offset / 8) (s.m.obj (x.offset / 8)) } ∧
    s.m.serves b (Mach.opsWord (objCluster (x.offset / 8))) ∧ b.held = (s.m.taken 162 168 x p).2 ∧ b.nextId = s.m.nextId ∧
    b.mem = { s.m.mem with nextReq := s.m.mem.nextReq + 1 } := by
  have hexec := exec_sync_served hp hdst hs hat href hreqs hpark hc
  have hread : x.opcode ≠ Op.read := by
    rw [hop]
    decide
  rw [Mach.syncDo_readable (m := s.m.numbered x p) hpoison hbad, if_neg hread, if_pos hop] at hexec
  obtain ⟨hserves, hheld, hid, hmem, -⟩ := s.m.syncCounted_numbered x p (x.offset / 8)
  exact ⟨_, hexec, hserves, hheld, hid, hmem⟩

/-- A wait that is answered at once, for whichever reason, and the count of that reason. -/
theorem exec_sync_wait_answered {o : Nat} (ho : o < 2 ^ 44) (hne : o ≠ R.cluSyncOpsCnt)
    (hwait : ∀ b : Mach, b.mem.waiters = s.m.mem.waiters →
      b.syncWaitOn (s.m.taken 162 168 x p).1 x (x.offset / 8) (s.m.obj (x.offset / 8))
        = (b.notify (s.m.taken 162 168 x p).1 x (s.m.obj (x.offset / 8))).bump .sx (Pg.cluster (objCluster (x.offset / 8))) o) :
    ∃ t, exec c s = .next t ∧ s.m.counted t.m .sx (Pg.cluster (objCluster (x.offset / 8))) o ∧
      s.becomes t { s.m with
        held := s.m.heldWith (s.m.taken 162 168 x p) (objCluster (x.offset / 8)) [s.m.response .sx x Op.syncNotify 0
          (({ s.m with held := (s.m.taken 162 168 x p).2 } : Mach).svcEcho (objCluster (x.offset / 8))) 0 0
          (leBytes 8 (s.m.obj (x.offset / 8)).toNat)],
        nextId := s.m.nextId + 1, mem := { s.m.mem with nextReq := s.m.mem.nextReq + 1 } } .sx
        (fun k => Mach.opsWord (objCluster (x.offset / 8)) k || pageWord (Pg.cluster (objCluster (x.offset / 8))) o k) := by
  obtain ⟨b, hexec, hserves, hheld, hid, hmem⟩ := exec_sync_wait hp hdst hs hat href hpoison hbad hreqs hpark hc hop
  rw [hwait b (by rw [hmem])] at hexec
  obtain ⟨hall, hrheld, hrid, hrmem⟩ := Mach.svcReply_facts (o := s.m.taken 162 168 x p) (x := x) hserves
    (Mach.countsOnly_opsWord _) hheld hid (objCluster (x.offset / 8)) Op.syncNotify (leBytes 8 (s.m.obj (x.offset / 8)).toNat)
  obtain ⟨r, hr⟩ : ∃ r, r = b.notify (s.m.taken 162 168 x p).1 x (s.m.obj (x.offset / 8)) := ⟨_, rfl⟩
  rw [← hr] at hexec
  rw [Mach.notify] at hr
  rw [← hr] at hall hrheld hrid hrmem
  obtain ⟨n, hn⟩ : ∃ n, n = r.bump .sx (Pg.cluster (objCluster (x.offset / 8))) o := ⟨_, rfl⟩
  obtain ⟨hnheld, hnid, hnmem⟩ := Mach.service_of_bare (n := n) (m := r) (by rw [hn]; exact Mach.bump_bare ..)
  have hbump : r.serves n (pageWord (Pg.cluster (objCluster (x.offset / 8))) o) := by
    rw [hn]
    exact Mach.serves_bump _ _ _ (beq_self_eq_true _)
  have hframe := becomes_of_serves ((hall.mono fun k hk => by rw [hk, Bool.true_or]).trans
    (hbump.mono fun k hk => by rw [hk, Bool.or_true]) :
      s.m.serves n fun k => Mach.opsWord (objCluster (x.offset / 8)) k || pageWord (Pg.cluster (objCluster (x.offset / 8))) o k)
  have hword : r.word .sx (item (Pg.cluster (objCluster (x.offset / 8))) 0 o)
      = s.m.word .sx (item (Pg.cluster (objCluster (x.offset / 8))) 0 o) := by
    refine hall.word _ ?_
    rw [Mach.opsWord, pageWord_item _ _ _ _ (by decide) ho, beq_false_of_ne hne]
    exact Bool.and_false _
  rw [hnheld, hnid, hnmem, hrheld, hrid, hrmem, hmem] at hframe
  rw [← hn] at hexec
  refine ⟨_, hexec, ?_, hframe⟩
  rw [Mach.counted, hn, Mach.word_bump, hword]

/-- A wait for a value not reached is recorded, where the cluster has room. -/
theorem exec_sync_wait_recorded (hlt : (s.m.obj (x.offset / 8)).toNat < x.aux)
    (hroom : s.m.waitersIn (objCluster (x.offset / 8)) < 8192) : ∃ t, exec c s = .next t ∧
    s.becomes t { s.m with
      held := (s.m.taken 162 168 x p).2,
      mem := { s.m.mem with
        nextReq := s.m.mem.nextReq + 1,
        waiters := s.m.mem.waiters ++ [{
          obj := x.offset / 8, thr := x.aux, at_ := s.m.time.number, port := (s.m.taken 162 168 x p).1, pkt := x,
          limit := s.m.fld .sx (Pg.cluster (objCluster (x.offset / 8))) F.cluSyncCtrl_waitLimit }] } } .sx
      (Mach.opsWord (objCluster (x.offset / 8))) := by
  obtain ⟨b, hexec, hserves, hheld, hid, hmem⟩ := exec_sync_wait hp hdst hs hat href hpoison hbad hreqs hpark hc hop
  have hcount : b.waitersIn (objCluster (x.offset / 8)) = s.m.waitersIn (objCluster (x.offset / 8)) := by
    rw [Mach.waitersIn, hmem]
    rfl
  have hlimit : b.fld .sx (Pg.cluster (objCluster (x.offset / 8))) F.cluSyncCtrl_waitLimit
      = s.m.fld .sx (Pg.cluster (objCluster (x.offset / 8))) F.cluSyncCtrl_waitLimit :=
    hserves.fld (Mach.countsOnly_opsWord _) _ _ (by decide)
  rw [Mach.syncWaitOn, if_neg (by omega), if_neg (by omega), hlimit, hserves.time] at hexec
  obtain ⟨n, hn⟩ : ∃ n, n = b.setMem { b.mem with waiters := b.mem.waiters ++ [{
    obj := x.offset / 8, thr := x.aux, at_ := s.m.time.number,
    limit := s.m.fld .sx (Pg.cluster (objCluster (x.offset / 8))) F.cluSyncCtrl_waitLimit,
    port := (s.m.taken 162 168 x p).1, pkt := x }] } := ⟨_, rfl⟩
  rw [← hn] at hexec
  have hset : b.serves n (Mach.opsWord (objCluster (x.offset / 8))) := by
    rw [hn]
    exact Mach.serves_setMem ..
  have hframe := becomes_of_serves (hserves.trans hset)
  have hnheld : n.held = b.held := by
    rw [hn]
    rfl
  have hnid : n.nextId = b.nextId := by
    rw [hn]
    rfl
  have hnmem : n.mem = { s.m.mem with
      nextReq := s.m.mem.nextReq + 1
      waiters := s.m.mem.waiters ++ [{
        obj := x.offset / 8, thr := x.aux, at_ := s.m.time.number, port := (s.m.taken 162 168 x p).1, pkt := x,
        limit := s.m.fld .sx (Pg.cluster (objCluster (x.offset / 8))) F.cluSyncCtrl_waitLimit }] } := by
    rw [hn, Mach.setMem, hmem]
  rw [hnheld, hnid, hnmem, hheld, hid] at hframe
  exact ⟨_, hexec, hframe⟩

end
end
end

/-! ### Waits that expire (R148) -/

/-- A list with one entry that `p` picks. -/
theorem filter_sole {α : Type} {p : α → Bool} {a : α} {pre post : List α} (ha : p a = true)
    (h : ∀ b ∈ pre ++ post, p b = false) :
    (pre ++ a :: post).filter p = [a] ∧ (pre ++ a :: post).filter (fun b => !p b) = pre ++ post := by
  have hpre : ∀ b ∈ pre, p b = false := fun b hb => h b (List.mem_append_left _ hb)
  have hpost : ∀ b ∈ post, p b = false := fun b hb => h b (List.mem_append_right _ hb)
  constructor
  · rw [List.filter_append, List.filter_cons_of_pos ha, List.filter_eq_nil_iff.2 fun b hb => by rw [hpre b hb]; decide,
      List.filter_eq_nil_iff.2 fun b hb => by rw [hpost b hb]; decide]
    rfl
  · rw [List.filter_append, List.filter_cons_of_neg (by rw [ha]; decide), List.filter_eq_self.2 fun b hb => by rw [hpre b hb]; rfl,
      List.filter_eq_self.2 fun b hb => by rw [hpost b hb]; rfl]

/-- The one recorded wait whose limit has passed ends. -/
theorem exec_syncWaitExpiry_sole {s : State} {w : Waiter} {pre post : List Waiter} (hw : s.m.mem.waiters = pre ++ w :: post)
    (hlimit : w.limit ≠ 0) (hdue : w.at_ + w.limit ≤ s.m.time.number)
    (hothers : ∀ u ∈ pre ++ post, u.limit = 0 ∨ s.m.time.number < u.at_ + u.limit) :
    ∃ t, exec .syncWaitExpiry s = .next t ∧ s.m.counted t.m .sx (Pg.cluster (objCluster w.obj)) R.cluSyncExpiredCnt ∧
      (∃ a, t.m.held = s.m.held ++ [a] ∧ a.output = w.port ∧ a.pkt.opcode = Op.syncNotify ∧ a.pkt.tag = w.pkt.tag ∧
        a.pkt.payload = leBytes 8 (s.m.obj w.obj).toNat) ∧
      s.becomes t { s.m with
        held := t.m.held, nextId := s.m.nextId + 1, mem := { s.m.mem with waiters := pre ++ post } } .sx
        (pageWord (Pg.cluster (objCluster w.obj)) R.cluSyncExpiredCnt) := by
  have hself : (w.limit != 0 && decide (w.at_ + w.limit ≤ s.m.time.number)) = true := by simp [hlimit, hdue]
  have hnot : ∀ u ∈ pre ++ post, (u.limit != 0 && decide (u.at_ + u.limit ≤ s.m.time.number)) = false := by
    intro u hu
    rcases hothers u hu with h | h
    · simp [h]
    · simp [h]
  obtain ⟨hgone, hleft⟩ := filter_sole (p := fun w : Waiter => w.limit != 0 && decide (w.at_ + w.limit ≤ s.m.time.number)) hself hnot
  rw [← hw] at hgone hleft
  obtain ⟨d, hd⟩ : ∃ d, d = s.m.setMem { s.m.mem with waiters := pre ++ post } := ⟨_, rfl⟩
  have hobj : d.obj w.obj = s.m.obj w.obj := by
    rw [hd]
    rfl
  have hexpire : (s.m.expireWaits fun w => w.limit != 0 && decide (w.at_ + w.limit ≤ s.m.time.number))
      = (d.notify w.port w.pkt (s.m.obj w.obj)).bump .sx (Pg.cluster (objCluster w.obj)) R.cluSyncExpiredCnt := by
    rw [Mach.expireWaits, hgone, hleft, ← hd, ← hobj]
    rfl
  obtain ⟨hjoins, ⟨a, haheld, haout, haop, habytes, hatag⟩, haid, hamem, haword⟩ := d.svcReply_joins (objCluster (w.pkt.offset / 8))
    w.port w.pkt (op := Op.syncNotify) (by decide) (leBytes 8 (s.m.obj w.obj).toNat)
    (pageWord (Pg.cluster (objCluster w.obj)) R.cluSyncExpiredCnt)
  obtain ⟨r, hr⟩ : ∃ r, r = d.notify w.port w.pkt (s.m.obj w.obj) := ⟨_, rfl⟩
  rw [← hr] at hexpire
  rw [Mach.notify] at hr
  rw [← hr] at hjoins haheld haid hamem haword
  obtain ⟨n, hn⟩ : ∃ n, n = r.bump .sx (Pg.cluster (objCluster w.obj)) R.cluSyncExpiredCnt := ⟨_, rfl⟩
  rw [← hn] at hexpire
  obtain ⟨hnheld, hnid, hnmem⟩ := Mach.service_of_bare (n := n) (m := r) (by rw [hn]; exact Mach.bump_bare ..)
  have hset : s.m.serves d (pageWord (Pg.cluster (objCluster w.obj)) R.cluSyncExpiredCnt) := by
    rw [hd]
    exact Mach.serves_setMem ..
  have hbump : r.serves n (pageWord (Pg.cluster (objCluster w.obj)) R.cluSyncExpiredCnt) := by
    rw [hn]
    exact Mach.serves_bump _ _ _ (beq_self_eq_true _)
  have hframe := becomes_of_serves ((hset.trans hjoins).trans hbump)
  have hdid : d.nextId = s.m.nextId := by
    rw [hd]
    rfl
  have hdmem : d.mem = { s.m.mem with waiters := pre ++ post } := by
    rw [hd]
    rfl
  have hdheld : d.held = s.m.held := by
    rw [hd]
    rfl
  have hdword (k : Nat) : d.word .sx k = s.m.word .sx k := by
    rw [hd]
    rfl
  rw [hnid, hnmem, haid, hamem, hdid, hdmem] at hframe
  refine ⟨_, go_eq (fun m => m.expireWaits fun w => w.limit != 0 && decide (w.at_ + w.limit ≤ m.time.number)) hexpire, ?_, ⟨a, ?_, haout, haop, hatag, habytes⟩, hframe⟩
  · rw [Mach.counted, hn, Mach.word_bump, haword, hdword]
  · rw [hnheld, haheld, hdheld]

/-- Settles O23: the arithmetic, then one operation of each sort, then the waits that expire. -/
theorem syncObjectsComputeAndWait : Obligations.SyncObjectsComputeAndWait := by
  unfold Obligations.SyncObjectsComputeAndWait
  refine ⟨fun w hw old v u hold hv hu => atomicBytes_computes hw hold hv hu, fun s p x hp hdst hs hat =>
    ⟨fun st c href hc => exec_sync_refused hp hdst hs hat href hc, fun href hpoison hbad hreqs hpark => ⟨fun hop => ?_,
      fun c hop hc => ⟨fun hnone => ?_, fun w hw hobj hle => ?_⟩, fun hop => ⟨fun hle => ?_, fun hlt hroom => ?_, fun hlt hfull => ?_⟩⟩⟩,
    fun s w pre post => exec_syncWaitExpiry_sole⟩
  · have hc : requestInstr .sx p x = some (.read .sx p x) := if_pos hop
    exact exec_sync_read hp hdst hs hat href hpoison hbad hreqs hpark hc hop
  · exact exec_sync_atomic hp hdst hs hat href hpoison hbad hreqs hpark hc hop hnone
  · exact exec_sync_notifies hp hdst hs hat href hpoison hbad hreqs hpark hc hop hw hobj hle
  · exact exec_sync_wait_answered hp hdst hs hat href hpoison hbad hreqs hpark (requestInstr_syncWait hop) hop (by decide) (by decide)
      fun b hb => by rw [Mach.syncWaitOn, if_pos hle]
  · exact exec_sync_wait_recorded hp hdst hs hat href hpoison hbad hreqs hpark (requestInstr_syncWait hop) hop hlt hroom
  · refine exec_sync_wait_answered hp hdst hs hat href hpoison hbad hreqs hpark (requestInstr_syncWait hop) hop (by decide)
      (by decide) fun b hb => ?_
    have hcount : 8192 ≤ b.waitersIn (objCluster (x.offset / 8)) := by
      rw [Mach.waitersIn, hb]
      exact hfull
    rw [Mach.syncWaitOn, if_neg (by omega), if_pos hcount]

end Sys2Proof.Machine
end

section
/-! O25: requests for the memory pool are taken, parked, resumed and served by their parts (R94, R110, R152, R351, R352, R359). -/

set_option Elab.async false

namespace Sys2Proof.Machine
open Sys2Proof

/-! ### A request reaches its cluster -/

namespace Mach
variable {m n : Mach}

/-- An answer joins what is held, and changes nothing else. -/
theorem svcAnswer_facts {f : Nat → Bool} {o : Nat × List Held} (h : m.serves n f) (hheld : n.held = o.2) (hid : n.nextId = m.nextId)
    (cl : Nat) (y : Packet) : m.serves (n.svcAnswer cl o.1 y) f ∧ (n.svcAnswer cl o.1 y).held = m.heldWith o cl [y] ∧
    (n.svcAnswer cl o.1 y).nextId = m.nextId + 1 ∧ (n.svcAnswer cl o.1 y).mem = n.mem := by
  obtain ⟨aheld, aid, amem⟩ := n.held_svcAnswer cl o.1 y
  refine ⟨h.trans (serves_svcAnswer ..), ?_, ?_, amem⟩
  · rw [aheld, hheld, heldWith, heldWith, hid]
  · rw [aid, hid]

/-- The request as its cluster keeps it. -/
def poolReq (n port cl : Nat) (r : PoolMap) (x : Packet) : PoolReq :=
  { id := n, pkt := x, port := port, home := cl, map := some r, parts := partsOf r x, entry := entryOf (some r) x }

/-- A request for bytes has parts. -/
theorem partsOf_ne_nil (r : PoolMap) {x : Packet} (h : 0 < requestBytes x) : partsOf r x ≠ [] := by
  rw [partsOf, poolParts, if_neg (by omega)]
  dsimp only
  exact List.cons_ne_nil _ _

theorem partsOf_nil (r : PoolMap) {x : Packet} (h : requestBytes x = 0) : partsOf r x = [] := by
  rw [partsOf, poolParts, if_pos (by omega)]

/-- A request for bytes has its parts issued. -/
theorem serveReq_bytes (m : Mach) (n port cl : Nat) (r : PoolMap) {x : Packet} (h : 0 < requestBytes x) :
    m.serveReq n port cl (some r) x = m.addReq (poolReq n port cl r x) :=
  if_neg fun e => partsOf_ne_nil r h e.1

/-- One without bytes is answered. -/
theorem serveReq_empty {n port cl : Nat} {r : PoolMap} {x : Packet} (h : requestBytes x = 0) (hback : m.heldBack n x = false) :
    m.serveReq n port cl (some r) x = m.finishReq (poolReq n port cl r x) := by
  refine if_pos ⟨partsOf_nil r h, ?_⟩
  rw [hback]
  rfl

/-- A request that is not a read, whose bytes are good, is acknowledged or told what was there before. -/
theorem finishReq_reply {q : PoolReq} (hread : q.pkt.opcode ≠ Op.read) (hgood : q.poisoned = false) : m.finishReq q =
    if q.pkt.opcode = Op.atomic then (m.removeReq q.id).svcReply q.home q.port q.pkt Op.atomicData q.prior
    else if q.pkt.opcode = Op.atomicPosted then (m.removeReq q.id).svcReply q.home q.port q.pkt Op.atomicAck []
    else (m.removeReq q.id).svcReply q.home q.port q.pkt Op.writeAck [] := by
  rw [finishReq, if_neg hread, hgood, if_neg Bool.false_ne_true]

/-- What holds a request back with fewer packets held holds it back with more. -/
theorem heldBack_numbered {x : Packet} (p : Nat) (h : m.heldBack m.mem.nextReq x = false) :
    (m.numbered x p).heldBack m.mem.nextReq x = false := by
  have hsub : ∀ e ∈ (m.numbered x p).held, e ∈ m.held := by
    intro e he
    change e ∈ (m.taken 162 168 x p).2 at he
    rw [taken] at he
    cases hfind : m.findAt 162 168 x with
    | none =>
      rw [hfind] at he
      exact he
    | some y =>
      rw [hfind] at he
      exact (List.mem_filter.1 he).1
  simp only [heldBack, Bool.and_eq_false_iff, Bool.or_eq_false_iff, List.any_eq_false] at h ⊢
  rcases h with h | ⟨hreqs, hheld⟩
  · exact .inl h
  · exact .inr ⟨hreqs, fun e he => hheld e (hsub e he)⟩

end Mach

/-- The one held packet of a number changes. -/
theorem map_sole {h : Held} {pre post : List Held} (hids : ∀ e ∈ pre ++ post, e.id ≠ h.id) (f : Held → Held) :
    (pre ++ h :: post).map (fun e => if e.id = h.id then f e else e) = pre ++ f h :: post := by
  have hstays : ∀ l : List Held, (∀ e ∈ l, e.id ≠ h.id) → l.map (fun e => if e.id = h.id then f e else e) = l := fun l hl =>
    (List.map_congr_left fun e he => if_neg (hl e he)).trans (List.map_id _)
  rw [List.map_append, List.map_cons, if_pos rfl, hstays pre fun e he => hids e (List.mem_append_left _ he),
    hstays post fun e he => hids e (List.mem_append_right _ he)]

section
variable {s : State} {p : Nat} {x : Packet} {r : PoolMap} {c : Instr} (hp : p < 144) (hdst : x.dst = s.m.sxNode)
  (hs : x.addrSpace = 0) (hop : x.opcode ≠ Op.syncWait) (hc : requestInstr .sx p x = some c)
  (hat : s.m.atTarget 162 168 x (162 + (r.locate x.offset).1) (some r)) (hmap : s.m.findAt 162 168 x = none → s.m.mapPool x = some r)
include hp hdst hs hop hc hat hmap

/-- A request for the pool reaches its cluster. -/
theorem exec_pool : exec c s = .next { s with
    m := s.m.svcArrive (s.m.taken 162 168 x p).1 (r.locate x.offset).1 (some r) x (s.m.findAt 162 168 x) } := by
  rw [exec_request_sx hc s hp, Mach.sxRequest_memory hdst (by omega), Mach.memoryRequest_pool hs hop hat hmap]

theorem exec_pool_refused {st : Nat} (href : s.m.svcRefusal (some r) x = some st) :
    ∃ t, exec c s = .next t ∧ s.becomes t { s.m with
      held := s.m.heldWith (s.m.taken 162 168 x p) (r.locate x.offset).1 [s.m.response .sx x Op.nack st
        (({ s.m with held := (s.m.taken 162 168 x p).2 } : Mach).svcEcho (r.locate x.offset).1) 0 0 []],
      nextId := s.m.nextId + 1 } .sx noWord := by
  have hexec := exec_pool hp hdst hs hop hc hat hmap
  rw [Mach.svcArrive_refused href _ p] at hexec
  exact ⟨_, hexec, becomes_of_serves (s := s) (f := noWord) (Mach.touches_refl ..)⟩

section
variable (href : s.m.svcRefusal (some r) x = none)
include href

theorem exec_pool_taken (hpark : s.m.mustPark (r.locate x.offset).1 (some r) x = false) (hbytes : 0 < requestBytes x) :
    ∃ t, exec c s = .next t ∧ s.becomes t { s.m with
      held := (s.m.taken 162 168 x p).2,
      mem := { s.m.mem with
        nextReq := s.m.mem.nextReq + 1,
        reqs := s.m.mem.reqs ++ [Mach.poolReq s.m.mem.nextReq (s.m.taken 162 168 x p).1 (r.locate x.offset).1 r x] } } .sx noWord := by
  have hexec := exec_pool hp hdst hs hop hc hat hmap
  rw [Mach.svcArrive_served href hpark _ p, Mach.serveReq_bytes _ _ _ _ _ hbytes] at hexec
  exact ⟨_, hexec, becomes_of_serves (s := s) (f := noWord) (Mach.touches_refl ..)⟩

theorem exec_pool_empty (hwrite : x.opcode = Op.write) (hbytes : requestBytes x = 0) (hback : s.m.heldBack s.m.mem.nextReq x = false) :
    ∃ t, exec c s = .next t ∧ s.becomes t { s.m with
      held := s.m.heldWith (s.m.taken 162 168 x p) (r.locate x.offset).1 [s.m.response .sx x Op.writeAck 0
        (({ s.m with held := (s.m.taken 162 168 x p).2 } : Mach).svcEcho (r.locate x.offset).1) 0 0 []],
      nextId := s.m.nextId + 1,
      mem := { s.m.mem with
        nextReq := s.m.mem.nextReq + 1,
        reqs := s.m.mem.reqs.filter fun q => q.id != s.m.mem.nextReq } } .sx noWord := by
  have hexec := exec_pool hp hdst hs hop hc hat hmap
  have hpark : s.m.mustPark (r.locate x.offset).1 (some r) x = false := by
    have hentry : entryOf (some r) x = none := by
      rw [entryOf, isAtomic, hwrite]
      rfl
    rw [Mach.mustPark, hentry]
  rw [Mach.svcArrive_served href hpark _ p, Mach.serveReq_empty hbytes (Mach.heldBack_numbered p hback)] at hexec
  have hread : x.opcode ≠ Op.read := by rw [hwrite]; decide
  have hatomic : x.opcode ≠ Op.atomic := by rw [hwrite]; decide
  have hposted : x.opcode ≠ Op.atomicPosted := by rw [hwrite]; decide
  rw [Mach.finishReq_reply (q := Mach.poolReq _ _ _ _ _) hread rfl] at hexec
  obtain ⟨b, hb⟩ : ∃ b, b = (s.m.numbered x p).removeReq s.m.mem.nextReq := ⟨_, rfl⟩
  have hserves : s.m.serves b noWord := by
    rw [hb]
    exact Mach.touches_refl ..
  have hheld : b.held = (s.m.taken 162 168 x p).2 := by
    rw [hb]
    rfl
  have hid : b.nextId = s.m.nextId := by
    rw [hb]
    rfl
  have hmem : b.mem = { s.m.mem with
      nextReq := s.m.mem.nextReq + 1, reqs := s.m.mem.reqs.filter fun q => q.id != s.m.mem.nextReq } := by
    rw [hb]
    rfl
  change exec c s = .next { s with
    m := if x.opcode = Op.atomic then _ else if x.opcode = Op.atomicPosted then _
      else ((s.m.numbered x p).removeReq s.m.mem.nextReq).svcReply (r.locate x.offset).1 (s.m.taken 162 168 x p).1 x Op.writeAck [] } at hexec
  rw [if_neg hatomic, if_neg hposted, ← hb] at hexec
  obtain ⟨hall, hnheld, hnid, hnmem⟩ := Mach.svcReply_facts (o := s.m.taken 162 168 x p) (x := x) hserves Mach.countsOnly_noWord
    hheld hid (r.locate x.offset).1 Op.writeAck []
  have hframe := becomes_of_serves hall
  rw [hnheld, hnid, hnmem, hmem] at hframe
  exact ⟨_, hexec, hframe⟩

/-- An atomic that finds no operation entry parks where it waits (R152). -/
theorem exec_pool_parked {h : Held} {pre post : List Held} (hheld : s.m.held = pre ++ h :: post)
    (hfind : s.m.findAt 162 168 x = some h) (hpark : s.m.mustPark (r.locate x.offset).1 (some r) x = true)
    (hids : ∀ e ∈ pre ++ post, e.id ≠ h.id) :
    ∃ t, exec c s = .next t ∧ s.m.counted t.m .sx (Pg.cluster (r.locate x.offset).1) R.cluAtomParkCnt ∧
      s.becomes t { s.m with
        held := pre ++ { h with parked := some s.m.mem.nextReq } :: post,
        mem := { s.m.mem with nextReq := s.m.mem.nextReq + 1 } } .sx
        (pageWord (Pg.cluster (r.locate x.offset).1) R.cluAtomParkCnt) := by
  have hexec := exec_pool hp hdst hs hop hc hat hmap
  obtain ⟨a, ha⟩ : ∃ a, a = s.m.setMem { s.m.mem with nextReq := s.m.mem.nextReq + 1 } := ⟨_, rfl⟩
  obtain ⟨b, hb⟩ : ∃ b, b = a.bump .sx (Pg.cluster (r.locate x.offset).1) R.cluAtomParkCnt := ⟨_, rfl⟩
  have hfull : a.mustPark (r.locate x.offset).1 (some r) x = true := by
    rw [ha]
    exact hpark
  have harrive : s.m.svcArrive (s.m.taken 162 168 x p).1 (r.locate x.offset).1 (some r) x (some h)
      = b.updHeld h.id fun h => { h with parked := some s.m.mem.nextReq } := by
    unfold Mach.svcArrive
    rw [href]
    dsimp only
    rw [← ha, hfull, if_pos rfl, ← hb]
  rw [hfind, harrive] at hexec
  obtain ⟨hbheld, hbid, hbmem⟩ := Mach.service_of_bare (n := b) (m := a) (by rw [hb]; exact Mach.bump_bare ..)
  have haheld : a.held = s.m.held := by
    rw [ha]
    rfl
  have haserves : s.m.serves a (pageWord (Pg.cluster (r.locate x.offset).1) R.cluAtomParkCnt) := by
    rw [ha]
    exact Mach.serves_setMem ..
  have hbump : a.serves b (pageWord (Pg.cluster (r.locate x.offset).1) R.cluAtomParkCnt) := by
    rw [hb]
    exact Mach.serves_bump _ _ _ (beq_self_eq_true _)
  have hmark : (b.updHeld h.id fun h => { h with parked := some s.m.mem.nextReq })
      = { b with held := pre ++ { h with parked := some s.m.mem.nextReq } :: post } := by
    rw [Mach.updHeld, hbheld, haheld, hheld, map_sole hids]
  rw [hmark] at hexec
  obtain ⟨n, hn⟩ : ∃ n : Mach, n = { b with held := pre ++ { h with parked := some s.m.mem.nextReq } :: post } := ⟨_, rfl⟩
  have hset : b.serves n (pageWord (Pg.cluster (r.locate x.offset).1) R.cluAtomParkCnt) := by
    rw [hn]
    exact Mach.serves_held ..
  have hframe := becomes_of_serves ((haserves.trans hbump).trans hset)
  have hnheld : n.held = pre ++ { h with parked := some s.m.mem.nextReq } :: post := by rw [hn]
  have hnid : n.nextId = s.m.nextId := by
    rw [hn]
    refine hbid.trans ?_
    rw [ha]
    rfl
  have hnmem : n.mem = { s.m.mem with nextReq := s.m.mem.nextReq + 1 } := by
    rw [hn]
    refine hbmem.trans ?_
    rw [ha]
    rfl
  have hword : a.word .sx (item (Pg.cluster (r.locate x.offset).1) 0 R.cluAtomParkCnt)
      = s.m.word .sx (item (Pg.cluster (r.locate x.offset).1) 0 R.cluAtomParkCnt) := by
    rw [ha]
    rfl
  have hlast : n.word .sx (item (Pg.cluster (r.locate x.offset).1) 0 R.cluAtomParkCnt)
      = b.word .sx (item (Pg.cluster (r.locate x.offset).1) 0 R.cluAtomParkCnt) := by
    rw [hn]
    rfl
  rw [← hn] at hexec
  rw [hnheld, hnid, hnmem] at hframe
  refine ⟨_, hexec, ?_, hframe⟩
  rw [Mach.counted, hlast, hb, Mach.word_bump, hword]

end
end

/-! ### A parked request resumes (R152) -/

/-- The one parked request of a cluster takes the freed operation entry. -/
theorem exec_resume_sole {s : State} {h : Held} {pre post : List Held} (hheld : s.m.held = pre ++ h :: post) {cl n : Nat} {r : PoolMap}
    (hcl : cl < 6) (hout : h.output = 162 + cl) (hparked : h.parked = some n) (hpool : h.pool = some r)
    (hids : ∀ e ∈ pre ++ post, e.id ≠ h.id) (hothers : ∀ e ∈ pre ++ post, e.output = 162 + cl → e.parked = none)
    (hfree : s.m.mustPark cl (some r) h.pkt = false) (hbytes : 0 < requestBytes h.pkt) :
    ∃ t, exec (.parkedRequestResume cl) s = .next t ∧ s.becomes t { s.m with
      held := pre ++ post,
      mem := { s.m.mem with reqs := s.m.mem.reqs ++ [Mach.poolReq n h.input cl r h.pkt] } } .sx noWord := by
  obtain ⟨honly, -⟩ := filter_sole (p := fun e : Held => e.output == 162 + cl && e.parked.isSome && !s.m.mustPark cl e.pool e.pkt)
    (a := h) (pre := pre) (post := post) (by simp [hout, hparked, hpool, hfree]) fun e he => by
      by_cases heout : e.output = 162 + cl
      · rw [hothers e he heout]
        simp
      · simp [heout]
  obtain ⟨-, hleft⟩ := filter_sole (p := fun e : Held => e.id == h.id) (a := h) (pre := pre) (post := post) (beq_self_eq_true _)
    fun e he => beq_false_of_ne (hids e he)
  have hremoved : s.m.removeHeld h.id = { s.m with held := pre ++ post } := by
    rw [Mach.removeHeld, hheld]
    exact congrArg (fun hs => { s.m with held := hs }) hleft
  have hresume : s.m.resumeParked cl = ({ s.m with held := pre ++ post } : Mach).addReq (Mach.poolReq n h.input cl r h.pkt) := by
    unfold Mach.resumeParked
    dsimp only
    rw [hheld, honly]
    simp only [List.foldl_cons, List.foldl_nil, hparked]
    rw [hremoved, hpool, Mach.serveReq_bytes _ _ _ _ _ hbytes]
  have hexec : exec (.parkedRequestResume cl) s = .next { s with m := _ } :=
    (if_pos (decide_eq_true hcl)).trans (go_eq (fun m => m.resumeParked cl) hresume)
  exact ⟨_, hexec, becomes_of_serves (s := s) (f := noWord) (Mach.touches_refl ..)⟩

/-! ### Bytes word by word (R358, R359) -/

namespace Mem

theorem readN_append (m : Mem) (a n k : Nat) : m.readN a (n + k) = m.readN a n ++ m.readN (a + n) k := by
  induction n generalizing a with
  | zero => rw [Nat.zero_add, Nat.add_zero]; rfl
  | succ n ih =>
    rw [Nat.add_right_comm, readN, ih, readN, Nat.add_assoc a 1 n, Nat.add_comm 1 n]
    rfl

/-- What stands in memory after bytes were written. -/
theorem read_writeN (bs : List Byte) (m : Mem) (a x : Nat) :
    (m.writeN a bs).read x = if a ≤ x ∧ x < a + bs.length then bs.getD (x - a) 0 else m.read x := by
  by_cases hx : a ≤ x ∧ x < a + bs.length
  · have hlt : x - a < bs.length := by omega
    have hin := read_writeN_in bs m a (x - a) hlt
    rw [if_pos hx, List.getD_eq_getElem _ _ hlt, ← hin, Nat.add_sub_cancel' hx.1]
  · rw [if_neg hx, read_writeN_out _ _ _ _ (by omega)]

end Mem

/-- The first byte that a part takes of a word, and the byte after the last. -/
def wordFrom (base w : Nat) : Nat := max base (32 * w)
def wordTo (base len w : Nat) : Nat := min (base + len) (32 * w + 32)

/-- How far a part has come after `n` words. -/
def wordStop (base len n : Nat) : Nat := min (base + len) (max base (32 * (base / 32 + n)))

/-- The words of a part, in number. -/
def wordCount (base len : Nat) : Nat := (base + len - 1) / 32 - base / 32 + 1

/-- Each word of a part begins where the one before it ended. -/
theorem wordStop_step {base len j : Nat} (hlen : 0 < len) (hj : j < wordCount base len) :
    wordStop base len j = wordFrom base (base / 32 + j) ∧ wordStop base len (j + 1) = wordTo base len (base / 32 + j) ∧
    base ≤ wordFrom base (base / 32 + j) ∧ wordFrom base (base / 32 + j) < wordTo base len (base / 32 + j) ∧
    wordTo base len (base / 32 + j) ≤ base + len := by
  simp only [wordStop, wordFrom, wordTo, wordCount] at *
  omega

theorem wordStop_first {base len : Nat} (hlen : 0 < len) : wordStop base len 0 = base := by
  simp only [wordStop]
  omega

theorem wordStop_last {base len : Nat} (hlen : 0 < len) : wordStop base len (wordCount base len) = base + len := by
  simp only [wordStop, wordCount]
  omega

theorem wordsIn_eq {base len : Nat} (hlen : 0 < len) : wordsIn base len = (List.range (wordCount base len)).map (base / 32 + ·) := by
  rw [wordsIn, if_neg (by omega)]
  rfl

/-- One word's bytes of `bs`, which are to stand from `base` on. -/
def writeWord (bs : List Byte) (base len : Nat) (mem : Mem) (w : Nat) : Mem :=
  Mem.writeN mem (wordFrom base w) ((bs.drop (wordFrom base w - base)).take (wordTo base len w - wordFrom base w))

/-- Written word by word, bytes stand in their places and no other byte changes. -/
theorem read_writeWords {bs : List Byte} {base len : Nat} (hlen : 0 < len) (hbs : bs.length = len) (mem : Mem) (a : Nat) :
    ((wordsIn base len).foldl (writeWord bs base len) mem).read a
      = if base ≤ a ∧ a < base + len then bs.getD (a - base) 0 else mem.read a := by
  have hwords (n : Nat) (hn : n ≤ wordCount base len) :
      (((List.range n).map (base / 32 + ·)).foldl (writeWord bs base len) mem).read a
        = if base ≤ a ∧ a < wordStop base len n then bs.getD (a - base) 0 else mem.read a := by
    induction n with
    | zero =>
      rw [wordStop_first hlen, if_neg (by omega)]
      rfl
    | succ n ih =>
      obtain ⟨hfrom, hto, hle, hlt, hend⟩ := wordStop_step hlen (show n < wordCount base len by omega)
      rw [List.range_succ, List.map_append, List.foldl_append, List.map_cons, List.map_nil, List.foldl_cons, List.foldl_nil,
        writeWord, Mem.read_writeN, ih (by omega), hfrom, hto]
      obtain ⟨lo, hlo⟩ : ∃ lo, lo = wordFrom base (base / 32 + n) := ⟨_, rfl⟩
      obtain ⟨hi, hhi⟩ : ∃ hi, hi = wordTo base len (base / 32 + n) := ⟨_, rfl⟩
      rw [← hlo] at hle hlt ⊢
      rw [← hhi] at hlt hend ⊢
      have hsize : ((bs.drop (lo - base)).take (hi - lo)).length = hi - lo := by
        rw [List.length_take, List.length_drop, hbs]
        omega
      have hbyte : lo ≤ a → a < hi → ((bs.drop (lo - base)).take (hi - lo)).getD (a - lo) 0 = bs.getD (a - base) 0 := by
        intro hge hlt
        rw [List.getD_eq_getElem?_getD, List.getD_eq_getElem?_getD, List.getElem?_take, if_pos (by omega), List.getElem?_drop]
        congr 2
        omega
      rw [hsize]
      by_cases hnew : lo ≤ a ∧ a < lo + (hi - lo)
      · rw [if_pos hnew, if_pos (by omega), hbyte hnew.1 (by omega)]
      · rw [if_neg hnew]
        by_cases hbefore : base ≤ a ∧ a < lo
        · rw [if_pos hbefore, if_pos (by omega)]
        · rw [if_neg hbefore, if_neg (by omega)]
  have hall := hwords _ le_rfl
  rwa [wordStop_last hlen, ← wordsIn_eq hlen] at hall

namespace Mach
variable {m : Mach} (hbad : m.mem.bad = [])
include hbad

theorem isBad_of_none (w : Nat) : m.isBad w = false := by
  rw [isBad, hbad]
  rfl

theorem clearBad_of_none (w : Nat) : m.clearBad w = m := by
  have hnone : m.mem.bad.filter (· != w) = m.mem.bad := by
    rw [hbad]
    rfl
  rw [clearBad, hnone]
  rfl

/-- A part's write of one word (R359). -/
def writeStep (r : PoolReq) (pt : PoolPart) (a : Mem × PoolReq × Mach) (w : Nat) : Mem × PoolReq × Mach :=
  let base := hbmKey pt.stack pt.addr
  let lo := max base (32 * w)
  let hi := min (base + pt.len) (32 * w + 32)
  let bs := (r.pkt.payload.drop (pt.off + (lo - base))).take (hi - lo)
  if hi - lo = 32 then (Mem.writeN a.1 lo bs, a.2.1, a.2.2.clearBad w)
  else if a.2.2.isBad w then (a.1, { a.2.1 with poisoned := true }, a.2.2.countUe w)
  else (Mem.writeN a.1 lo bs, a.2.1, a.2.2)

omit hbad in
theorem partWrite_eq (hbm : Mem) (m : Mach) (r : PoolReq) (pt : PoolPart) :
    partWrite hbm m r pt = (wordsIn (hbmKey pt.stack pt.addr) pt.len).foldl (writeStep r pt) (hbm, r, m) := rfl

theorem writeStep_good (r : PoolReq) (pt : PoolPart) (q : PoolReq) (hbm : Mem) (w : Nat) : writeStep r pt (hbm, q, m) w
    = (Mem.writeN hbm (wordFrom (hbmKey pt.stack pt.addr) w)
        ((r.pkt.payload.drop (pt.off + (wordFrom (hbmKey pt.stack pt.addr) w - hbmKey pt.stack pt.addr))).take
          (wordTo (hbmKey pt.stack pt.addr) pt.len w - wordFrom (hbmKey pt.stack pt.addr) w)), q, m) := by
  unfold writeStep
  dsimp only
  rw [clearBad_of_none hbad, isBad_of_none hbad, if_neg Bool.false_ne_true, ite_self]
  rfl

/-- Where no word is bad, a write puts its bytes in their places and changes no other. -/
theorem partWrite_good {r : PoolReq} {pt : PoolPart} (hlen : 0 < pt.len) (hoff : pt.off = 0)
    (hbytes : r.pkt.payload.length = pt.len) (hbm : Mem) : ∃ mem, partWrite hbm m r pt = (mem, r, m) ∧
      ∀ a, mem.read a = if hbmKey pt.stack pt.addr ≤ a ∧ a < hbmKey pt.stack pt.addr + pt.len
        then r.pkt.payload.getD (a - hbmKey pt.stack pt.addr) 0 else hbm.read a := by
  have hstep : ∀ (ws : List Nat) (mem : Mem), ws.foldl (writeStep r pt) (mem, r, m)
      = (ws.foldl (writeWord r.pkt.payload (hbmKey pt.stack pt.addr) pt.len) mem, r, m) := by
    intro ws
    induction ws with
    | nil => exact fun _ => rfl
    | cons w ws ih =>
      intro mem
      rw [List.foldl_cons, writeStep_good hbad, hoff, Nat.zero_add, List.foldl_cons]
      exact ih _
  exact ⟨_, by rw [partWrite_eq, hstep], read_writeWords hlen hbytes hbm⟩

end Mach

/-! ### A part's read, word by word -/

/-- The bytes that one word of a part gives, by their place in the part. -/
def wordPiece (mem : Mem) (base len w : Nat) : Nat × List Byte :=
  (wordFrom base w - base, mem.readN (wordFrom base w) (wordTo base len w - wordFrom base w))

/-- The words' bytes in their order are the part's. -/
theorem flatten_wordPieces {base len : Nat} (hlen : 0 < len) (mem : Mem) :
    (((wordsIn base len).map (wordPiece mem base len)).map (·.2)).flatten = mem.readN base len := by
  have hwords (n : Nat) (hn : n ≤ wordCount base len) :
      ((((List.range n).map (base / 32 + ·)).map (wordPiece mem base len)).map (·.2)).flatten
        = mem.readN base (wordStop base len n - base) := by
    induction n with
    | zero =>
      rw [wordStop_first hlen, Nat.sub_self]
      rfl
    | succ n ih =>
      obtain ⟨hfrom, hto, hle, hlt, -⟩ := wordStop_step hlen (show n < wordCount base len by omega)
      have hsplit : wordStop base len (n + 1) - base = (wordStop base len n - base) + (wordStop base len (n + 1) - wordStop base len n) := by
        omega
      have hstart : base + (wordStop base len n - base) = wordFrom base (base / 32 + n) := by omega
      rw [List.range_succ, List.map_append, List.map_append, List.map_append, List.flatten_append, ih (by omega), hsplit, Mem.readN_append,
        hstart, hfrom, hto]
      simp [wordPiece]
  have hall := hwords _ le_rfl
  rwa [wordStop_last hlen, ← wordsIn_eq hlen, Nat.add_sub_cancel_left] at hall

/-- The words' bytes come in the order of their places. -/
theorem mergeSort_wordPieces {base len : Nat} (hlen : 0 < len) (mem : Mem) :
    ((wordsIn base len).map (wordPiece mem base len)).mergeSort (fun a b => a.1 ≤ b.1)
      = (wordsIn base len).map (wordPiece mem base len) := by
  refine List.mergeSort_of_pairwise ?_
  rw [wordsIn_eq hlen, List.pairwise_map, List.pairwise_map]
  refine List.Pairwise.imp ?_ List.pairwise_lt_range
  intro i j hij
  rw [decide_eq_true_iff]
  simp only [wordPiece, wordFrom]
  omega

namespace Mach
variable {m : Mach} (hbad : m.mem.bad = [])

/-- A part's read of one word. -/
def readStep (hbm : Mem) (pt : PoolPart) (a : PoolReq × Mach) (w : Nat) : PoolReq × Mach :=
  let base := hbmKey pt.stack pt.addr
  let lo := max base (32 * w)
  let hi := min (base + pt.len) (32 * w + 32)
  let off := pt.off + (lo - base)
  let bad := a.2.isBad w
  let (bs, m) := readWord hbm a.2 w lo hi
  let m := if bad then m.countUe w else m
  ({ a.1 with
      data := a.1.data ++ [(off, bs)],
      badSeg := if bad then off / 4096 * 4096 :: (off + (hi - lo) - 1) / 4096 * 4096 :: a.1.badSeg else a.1.badSeg
      poisoned := a.1.poisoned || bad }, m)

theorem partRead_eq (hbm : Mem) (m : Mach) (r : PoolReq) (pt : PoolPart) :
    partRead hbm m r pt = (wordsIn (hbmKey pt.stack pt.addr) pt.len).foldl (readStep hbm pt) (r, m) := rfl

include hbad

theorem readStep_good (hbm : Mem) {pt : PoolPart} (hoff : pt.off = 0) (q : PoolReq) (w : Nat) : readStep hbm pt (q, m) w
    = ({ q with data := q.data ++ [wordPiece hbm (hbmKey pt.stack pt.addr) pt.len w] }, m) := by
  unfold readStep readWord
  dsimp only
  rw [isBad_of_none hbad, hoff, Nat.zero_add]
  simp only [Bool.false_eq_true, if_false, Bool.or_false]
  rfl

/-- Where no word is bad, a read takes its bytes and changes nothing. -/
theorem partRead_good (hbm : Mem) {pt : PoolPart} (hoff : pt.off = 0) (r : PoolReq) : partRead hbm m r pt = ({ r with
    data := r.data ++ (wordsIn (hbmKey pt.stack pt.addr) pt.len).map (wordPiece hbm (hbmKey pt.stack pt.addr) pt.len) }, m) := by
  have hstep : ∀ (ws : List Nat) (q : PoolReq), ws.foldl (readStep hbm pt) (q, m)
      = ({ q with data := q.data ++ ws.map (wordPiece hbm (hbmKey pt.stack pt.addr) pt.len) }, m) := by
    intro ws
    induction ws with
    | nil =>
      intro q
      rw [List.map_nil, List.append_nil]
      rfl
    | cons w ws ih =>
      intro q
      rw [List.foldl_cons, readStep_good hbad hbm hoff, ih, List.map_cons]
      simp only [List.append_assoc, List.singleton_append]
  rw [partRead_eq, hstep]

/-- An atomic's part stores what it computes and keeps what was there before. -/
theorem partAtomic_good (hbm : Mem) (r : PoolReq) (pt : PoolPart) : partAtomic hbm m r pt
    = (Mem.writeN hbm (hbmKey pt.stack pt.addr)
        (atomicBytes r.pkt.modifier (Mem.readN hbm (hbmKey pt.stack pt.addr) pt.len) r.pkt.payload),
      { r with prior := Mem.readN hbm (hbmKey pt.stack pt.addr) pt.len },
      m.bump .sx (Pg.cluster pt.stack) R.cluAtomPoolCnt) := by
  rw [partAtomic, isBad_of_none hbad, if_neg Bool.false_ne_true]

end Mach

theorem atomicBytes_length (modifier : Nat) (old bs : List Byte) : (atomicBytes modifier old bs).length = atomicWidth modifier :=
  leBytes_length ..

/-! ### The last part of a request -/

namespace Mach
variable {m : Mach}

/-- No corrected error leaves its counter as it stands. -/
theorem touches_bumpBy_zero (m : Mach) (p o : Nat) : m.touches (m.bumpBy .sx p o 0) .sx noWord := by
  have hsame : BitVec.ofNat 32 (min ((m.word .sx (item p 0 o)).toNat + 0) 0xFFFFFFFF) = m.word .sx (item p 0 o) := by
    refine BitVec.eq_of_toNat_eq ?_
    rw [BitVec.toNat_ofNat]
    omega
  refine ⟨setWord_bare .., ⟨(regsKept_setWord m .sx (item p 0 o) _ (fun _ => true) rfl).1, fun k _ => ?_⟩, other_setWord ..⟩
  rw [bumpBy, word_setWord, hsame]
  split_ifs with hk
  · rw [hk]
  · rfl

/-- An access without a corrected error counts none. -/
theorem countCe_zero (m : Mach) (st : Nat) : m.serves (m.countCe st 0) noWord ∧ (m.countCe st 0).held = m.held ∧
    (m.countCe st 0).nextId = m.nextId ∧ ∃ ce, (m.countCe st 0).mem = { m.mem with ceCount := ce } ∧
      ∀ k, Tbl.get (fun _ => 0) ce k = Tbl.get (fun _ => 0) m.mem.ceCount k := by
  obtain ⟨b, hb⟩ : ∃ b, b = m.bumpBy .sx (Pg.cluster st) R.cluHbmCeCnt 0 := ⟨_, rfl⟩
  obtain ⟨hheld, hid, hmem⟩ := service_of_bare (n := b) (m := m) (by rw [hb]; exact bumpBy_bare ..)
  have hserves : m.serves b noWord := by
    rw [hb]
    exact serves_of_touches (touches_bumpBy_zero ..)
  have hcount : m.countCe st 0 = b.setMem { b.mem with
      ceCount := Tbl.set (fun _ => 0) b.mem.ceCount st (Tbl.get (fun _ => 0) m.mem.ceCount st + 0) } := by
    unfold countCe
    dsimp only
    rw [← hb]
    exact if_neg fun h => by omega
  rw [hcount, hmem]
  refine ⟨hserves.trans (serves_setMem ..), hheld, hid, _, rfl, fun k => ?_⟩
  rw [Tbl.get_set]
  split_ifs with hk
  · rw [hk]
    rfl
  · rfl

/-- An access that meets no error takes its part. -/
theorem partAccess_good (hbad : m.mem.bad = []) (hbm : Mem) (r : PoolReq) (pt : PoolPart) : partAccess hbm m r pt [] [] =
    if r.pkt.opcode = Op.read then
      (hbm, (partRead hbm (m.countCe pt.stack 0) r pt).1, (partRead hbm (m.countCe pt.stack 0) r pt).2)
    else if isAtomic r.pkt.opcode then partAtomic hbm (m.countCe pt.stack 0) r pt
    else partWrite hbm (m.countCe pt.stack 0) r pt := by
  have hnone : ((wordsRead r pt).filter fun w => ([] : List Nat).contains (w - hbmKey pt.stack pt.addr / 32)) = [] :=
    List.filter_eq_nil_iff.2 fun w _ => Bool.false_ne_true
  obtain ⟨-, -, -, ce, hmem, -⟩ := m.countCe_zero pt.stack
  obtain ⟨b, hb⟩ : ∃ b, b = m.countCe pt.stack 0 := ⟨_, rfl⟩
  rw [← hb] at hmem
  have hhit : (wordsRead r pt).any b.isBad = false :=
    List.any_eq_false.2 fun w _ => by rw [isBad_of_none (by rw [hmem]; exact hbad)]; exact Bool.false_ne_true
  unfold partAccess
  dsimp only
  rw [hnone, List.length_nil, ← hb, List.foldl_nil, hhit]

end Mach

/-- The last part of a request has been served: what is held, the open requests and the stacks' error counts change. -/
def State.partAnswered (s : State) (r : PoolReq) (left : List PoolReq) (t : State) (a : Packet) : Prop :=
  t.m.bare = ({ s.m with
    held := s.m.heldWith (r.port, s.m.held) r.home [a], nextId := s.m.nextId + 1,
    mem := { s.m.mem with reqs := left, ceCount := t.m.mem.ceCount } } : Mach).bare ∧
  (∀ k, Tbl.get (fun _ => 0) t.m.mem.ceCount k = Tbl.get (fun _ => 0) s.m.mem.ceCount k) ∧
  t.m.rf .ep = s.m.rf .ep ∧ t.store = { s.store with hbm := t.store.hbm } ∧ t.pending = s.pending

/-- What the answer to a request leaves, from what its last part has left. -/
theorem partAnswered_of {s : State} {r : PoolReq} {pre post : List PoolReq} (hreqs : s.m.mem.reqs = pre ++ r :: post)
    (hids : ∀ e ∈ pre ++ post, e.id ≠ r.id) {b : Mach} {f : Nat → Bool} (hserves : s.m.serves b f) (hheld : b.held = s.m.held)
    (hid : b.nextId = s.m.nextId) {ce : Tbl Nat} (hmem : b.mem = { s.m.mem with ceCount := ce })
    (hce : ∀ k, Tbl.get (fun _ => 0) ce k = Tbl.get (fun _ => 0) s.m.mem.ceCount k) (y : Packet) (mem : Mem) :
    s.m.regsKept ((b.removeReq r.id).svcAnswer r.home r.port y) .sx f ∧
    s.partAnswered r (pre ++ post) { s with store := { s.store with hbm := mem }, m := (b.removeReq r.id).svcAnswer r.home r.port y } y := by
  obtain ⟨-, hleft⟩ := filter_sole (p := fun e : PoolReq => e.id == r.id) (a := r) (pre := pre) (post := post) (beq_self_eq_true _)
    fun e he => beq_false_of_ne (hids e he)
  obtain ⟨d, hd⟩ : ∃ d, d = b.removeReq r.id := ⟨_, rfl⟩
  have hremove : s.m.serves d f := by
    rw [hd]
    exact hserves.trans (Mach.serves_setMem ..)
  have hdheld : d.held = s.m.held := by
    rw [hd]
    exact hheld
  have hdid : d.nextId = s.m.nextId := by
    rw [hd]
    exact hid
  have hdmem : d.mem = { s.m.mem with reqs := pre ++ post, ceCount := ce } := by
    have hfilter : b.mem.reqs.filter (fun e => e.id != r.id) = pre ++ post := by
      rw [hmem]
      exact (congrArg _ hreqs).trans hleft
    rw [hd, Mach.removeReq, hfilter, hmem]
    rfl
  obtain ⟨hall, hnheld, hnid, hnmem⟩ := Mach.svcAnswer_facts (o := (r.port, s.m.held)) hremove hdheld hdid r.home y
  obtain ⟨n, hn⟩ : ∃ n, n = d.svcAnswer r.home r.port y := ⟨_, rfl⟩
  rw [← hd, ← hn]
  change s.m.serves (d.svcAnswer r.home r.port y) f at hall
  rw [← hn] at hall hnheld hnid hnmem
  have hbare := hall.1
  rw [hnheld, hnid, hnmem, hdmem] at hbare
  refine ⟨hall.regs, ?_, fun k => ?_, hall.2.2, rfl, rfl⟩
  · rw [hnmem, hdmem]
    exact hbare
  · rw [hnmem, hdmem]
    exact hce k

namespace Mach

theorem serves_removeReq {m b : Mach} {f : Nat → Bool} (h : m.serves b f) (id : Nat) : m.serves (b.removeReq id) f :=
  h.trans (serves_setMem ..)

/-- A finished request's reply as one answer, told from before the access. -/
theorem svcReply_removeReq {m b : Mach} {f : Nat → Bool} (h : m.serves b f) (hf : countsOnly f) (hheld : b.held = m.held)
    (id cl port : Nat) (x : Packet) (op : Nat) (bs : List Byte) : (b.removeReq id).svcReply cl port x op bs
      = (b.removeReq id).svcAnswer cl port (m.response .sx x op 0 (m.svcEcho cl) 0 0 bs) := by
  have hsame : (b.removeReq id).held = m.held := hheld
  have hecho : (b.removeReq id).svcEcho cl = m.svcEcho cl := by
    rw [(serves_removeReq h id).svcEcho hf, hsame]
  rw [svcReply, hecho, (serves_removeReq h id).response hf]

theorem finishReq_donePart {m : Mach} {q : PoolReq} (hread : q.pkt.opcode ≠ Op.read) (hgood : q.poisoned = false) :
    m.finishReq (donePart q 0) =
      if q.pkt.opcode = Op.atomic then (m.removeReq q.id).svcReply q.home q.port q.pkt Op.atomicData q.prior
      else if q.pkt.opcode = Op.atomicPosted then (m.removeReq q.id).svcReply q.home q.port q.pkt Op.atomicAck []
      else (m.removeReq q.id).svcReply q.home q.port q.pkt Op.writeAck [] :=
  finishReq_reply (q := donePart q 0) hread hgood

theorem donePart_all {q : PoolReq} {pt : PoolPart} (h : q.parts = [pt]) : (donePart q 0).parts.all (·.done) = true := by
  rw [donePart, h]
  rfl

end Mach

section
variable {s : State} {r : PoolReq} {pre post : List PoolReq} (hreqs : s.m.mem.reqs = pre ++ r :: post) {pt : PoolPart}
  (hparts : r.parts = [pt]) (hids : ∀ e ∈ pre ++ post, e.id ≠ r.id) (hmap : r.map ≠ none)
  (hback : s.m.heldBack r.id r.pkt = false) (hdone : pt.done = false)
include hreqs hparts hids hmap hback hdone

/-- The last part of a request is taken, and the request finished. -/
theorem exec_poolPartDone {mem : Mem} {q : PoolReq} {n : Mach}
    (haccess : Mach.partAccess s.store.hbm s.m r pt [] [] = (mem, q, n)) (hq : q.parts = [pt]) :
    exec (.poolPartDone r.id 0 [] []) s
      = .next { s with store := { s.store with hbm := mem }, m := n.finishReq (Mach.donePart q 0) } := by
  have hfind : (s.m.mem.reqs.find? fun e => e.id == r.id) = some r := by
    have hpre : pre.find? (fun e => e.id == r.id) = none :=
      List.find?_eq_none.2 fun e he => by simp [hids e (List.mem_append_left _ he)]
    rw [hreqs, List.find?_append, hpre, Option.none_or]
    exact List.find?_cons_of_pos (beq_self_eq_true r.id)
  obtain ⟨y, hy⟩ := Option.ne_none_iff_exists'.1 hmap
  refine goS_eq (fun x => Mach.poolPartDone x.1 x.2 r.id 0 [] []) ?_
  dsimp only
  unfold Mach.poolPartDone
  rw [hfind]
  dsimp only
  rw [hback, if_neg Bool.false_ne_true, hy, hparts]
  dsimp only [List.getElem?_cons_zero]
  rw [hdone, if_neg Bool.false_ne_true, haccess]
  dsimp only
  rw [Mach.partEnded, if_pos (Mach.donePart_all hq)]

end

/-- Bytes stand at their addresses, and every other byte as it was. -/
def State.storesAt (s t : State) (base len : Nat) (bs : List Byte) : Prop :=
  ∀ a, t.store.hbm.read a = if base ≤ a ∧ a < base + len then bs.getD (a - base) 0 else s.store.hbm.read a

section
variable {s : State} {r : PoolReq} {pre post : List PoolReq} (hreqs : s.m.mem.reqs = pre ++ r :: post) {pt : PoolPart}
  (hparts : r.parts = [pt]) (hids : ∀ e ∈ pre ++ post, e.id ≠ r.id) (hmap : r.map ≠ none)
  (hback : s.m.heldBack r.id r.pkt = false) (hdone : pt.done = false) (hoff : pt.off = 0) (hdata : r.data = [])
  (hseg : r.badSeg = []) (hgood : r.poisoned = false) (hlen : 0 < pt.len) (hlen256 : pt.len ≤ 256) (hbad : s.m.mem.bad = [])
include hreqs hparts hids hmap hback hdone hbad

section
include hoff hgood hlen

theorem exec_part_write (hop : r.pkt.opcode = Op.write ∨ r.pkt.opcode = Op.flagWrite) (hbytes : r.pkt.payload.length = pt.len) :
    ∃ t, exec (.poolPartDone r.id 0 [] []) s = .next t ∧ s.storesAt t (hbmKey pt.stack pt.addr) pt.len r.pkt.payload ∧
      s.partAnswered r (pre ++ post) t (s.m.response .sx r.pkt Op.writeAck 0 (s.m.svcEcho r.home) 0 0 []) ∧
      s.m.regsKept t.m .sx noWord := by
  have hread : r.pkt.opcode ≠ Op.read := by rcases hop with h | h <;> (rw [h]; decide)
  have hatomic : r.pkt.opcode ≠ Op.atomic := by rcases hop with h | h <;> (rw [h]; decide)
  have hposted : r.pkt.opcode ≠ Op.atomicPosted := by rcases hop with h | h <;> (rw [h]; decide)
  have hisAtomic : ¬isAtomic r.pkt.opcode = true := by
    rw [isAtomic, beq_false_of_ne hatomic, beq_false_of_ne hposted]
    exact Bool.false_ne_true
  obtain ⟨hserves, hheld, hid, ce, hmem, hce⟩ := s.m.countCe_zero pt.stack
  have haccess := Mach.partAccess_good hbad s.store.hbm r pt
  obtain ⟨b, hb⟩ : ∃ b, b = s.m.countCe pt.stack 0 := ⟨_, rfl⟩
  rw [← hb] at hserves hheld hid hmem haccess
  obtain ⟨mem, hwrite, hstored⟩ := Mach.partWrite_good (m := b) (by rw [hmem]; exact hbad) hlen hoff hbytes s.store.hbm
  rw [if_neg hread, if_neg hisAtomic, hwrite] at haccess
  have hexec := exec_poolPartDone hreqs hparts hids hmap hback hdone haccess hparts
  rw [Mach.finishReq_donePart hread hgood, if_neg hatomic, if_neg hposted,
    Mach.svcReply_removeReq hserves Mach.countsOnly_noWord hheld] at hexec
  obtain ⟨hregs, hanswered⟩ := partAnswered_of hreqs hids hserves hheld hid hmem hce
    (s.m.response .sx r.pkt Op.writeAck 0 (s.m.svcEcho r.home) 0 0 []) mem
  exact ⟨_, hexec, hstored, hanswered, hregs⟩

end

section
include hoff hdata hseg hlen hlen256

theorem exec_part_read (hop : r.pkt.opcode = Op.read) :
    ∃ t, exec (.poolPartDone r.id 0 [] []) s = .next t ∧ t.store = s.store ∧
      s.partAnswered r (pre ++ post) t (s.m.readSegment .sx r.pkt 0 true false (s.m.svcEcho r.home)
        (Mem.readN s.store.hbm (hbmKey pt.stack pt.addr) pt.len)) ∧
      s.m.regsKept t.m .sx noWord := by
  obtain ⟨hserves, hheld, hid, ce, hmem, hce⟩ := s.m.countCe_zero pt.stack
  have haccess := Mach.partAccess_good hbad s.store.hbm r pt
  obtain ⟨b, hb⟩ : ∃ b, b = s.m.countCe pt.stack 0 := ⟨_, rfl⟩
  rw [← hb] at hserves hheld hid hmem haccess
  rw [if_pos hop, Mach.partRead_good (m := b) (by rw [hmem]; exact hbad) s.store.hbm hoff r, hdata, List.nil_append] at haccess
  dsimp only at haccess
  have hexec := exec_poolPartDone hreqs hparts hids hmap hback hdone haccess hparts
  obtain ⟨d, hd⟩ : ∃ d, d = b.removeReq r.id := ⟨_, rfl⟩
  have hremove : s.m.serves d noWord := by
    rw [hd]
    exact hserves.trans (Mach.serves_setMem ..)
  have hdheld : d.held = s.m.held := by
    rw [hd]
    exact hheld
  have hecho : d.svcEcho r.home = s.m.svcEcho r.home := by
    rw [hremove.svcEcho Mach.countsOnly_noWord, hdheld]
  have hfinish (q : PoolReq) (hqp : q.pkt = r.pkt) (hqi : q.id = r.id) (hqh : q.home = r.home) (hqo : q.port = r.port)
      (hqs : q.badSeg = []) (hqd : q.data = (wordsIn (hbmKey pt.stack pt.addr) pt.len).map
        (wordPiece s.store.hbm (hbmKey pt.stack pt.addr) pt.len)) :
      b.finishReq q = d.svcAnswer r.home r.port (s.m.readSegment .sx r.pkt 0 true false (s.m.svcEcho r.home)
        (Mem.readN s.store.hbm (hbmKey pt.stack pt.addr) pt.len)) := by
    rw [Mach.finishReq, hqp, if_pos hop, hqd, mergeSort_wordPieces hlen, flatten_wordPieces hlen, hqi, ← hd, hqh, hqo, hqs, hecho]
    dsimp only
    rw [Mach.readSegments_one _ _ _ _ (by rw [readN_length]; exact hlen) (by rw [readN_length]; omega), Mach.readSegment_congr (hremove.epochNow Mach.countsOnly_noWord)]
    rfl
  rw [hfinish (Mach.donePart { r with
    data := (wordsIn (hbmKey pt.stack pt.addr) pt.len).map (wordPiece s.store.hbm (hbmKey pt.stack pt.addr) pt.len) } 0)
    rfl rfl rfl rfl hseg rfl, hd] at hexec
  obtain ⟨hregs, hanswered⟩ := partAnswered_of hreqs hids hserves hheld hid hmem hce (s.m.readSegment .sx r.pkt 0 true false
    (s.m.svcEcho r.home) (Mem.readN s.store.hbm (hbmKey pt.stack pt.addr) pt.len)) s.store.hbm
  exact ⟨_, hexec, rfl, hanswered, hregs⟩

end

include hgood in
theorem exec_part_atomic (hop : r.pkt.opcode = Op.atomic ∨ r.pkt.opcode = Op.atomicPosted) (hwidth : pt.len = atomicWidth r.pkt.modifier) :
    ∃ t, exec (.poolPartDone r.id 0 [] []) s = .next t ∧
      s.storesAt t (hbmKey pt.stack pt.addr) pt.len (atomicBytes r.pkt.modifier
        (Mem.readN s.store.hbm (hbmKey pt.stack pt.addr) pt.len) r.pkt.payload) ∧
      s.partAnswered r (pre ++ post) t
        (if r.pkt.opcode = Op.atomic then s.m.response .sx r.pkt Op.atomicData 0 (s.m.svcEcho r.home) 0 0
            (Mem.readN s.store.hbm (hbmKey pt.stack pt.addr) pt.len)
          else s.m.response .sx r.pkt Op.atomicAck 0 (s.m.svcEcho r.home) 0 0 []) ∧
      s.m.counted t.m .sx (Pg.cluster pt.stack) R.cluAtomPoolCnt ∧
      s.m.regsKept t.m .sx (pageWord (Pg.cluster pt.stack) R.cluAtomPoolCnt) := by
  have hread : r.pkt.opcode ≠ Op.read := by rcases hop with h | h <;> (rw [h]; decide)
  have hisAtomic : isAtomic r.pkt.opcode = true := by
    rw [isAtomic, Bool.or_eq_true, beq_iff_eq, beq_iff_eq]
    exact hop
  obtain ⟨hserves, hheld, hid, ce, hmem, hce⟩ := s.m.countCe_zero pt.stack
  have haccess := Mach.partAccess_good hbad s.store.hbm r pt
  obtain ⟨b, hb⟩ : ∃ b, b = s.m.countCe pt.stack 0 := ⟨_, rfl⟩
  rw [← hb] at hserves hheld hid hmem haccess
  rw [if_neg hread, if_pos hisAtomic, Mach.partAtomic_good (m := b) (by rw [hmem]; exact hbad)] at haccess
  obtain ⟨d, hd⟩ : ∃ d, d = b.bump .sx (Pg.cluster pt.stack) R.cluAtomPoolCnt := ⟨_, rfl⟩
  rw [← hd] at haccess
  obtain ⟨hdheld, hdid, hdmem⟩ := Mach.service_of_bare (n := d) (m := b) (by rw [hd]; exact Mach.bump_bare ..)
  have hcounts : Mach.countsOnly (pageWord (Pg.cluster pt.stack) R.cluAtomPoolCnt) :=
    Mach.countsOnly_pageWord (by decide) (by decide)
  have hall : s.m.serves d (pageWord (Pg.cluster pt.stack) R.cluAtomPoolCnt) := by
    rw [hd]
    exact (hserves.mono fun k hk => Bool.noConfusion hk).trans (Mach.serves_bump _ _ _ (beq_self_eq_true _))
  have hcounted : s.m.counted d .sx (Pg.cluster pt.stack) R.cluAtomPoolCnt := by
    rw [Mach.counted, hd, Mach.word_bump, hserves.word _ rfl]
  have hexec := exec_poolPartDone hreqs hparts hids hmap hback hdone haccess hparts
  rw [Mach.finishReq_donePart (q := { r with prior := Mem.readN s.store.hbm (hbmKey pt.stack pt.addr) pt.len }) hread hgood] at hexec
  dsimp only at hexec
  rw [Mach.svcReply_removeReq hall hcounts (hdheld.trans hheld), Mach.svcReply_removeReq hall hcounts (hdheld.trans hheld)] at hexec
  have hstored (a : Nat) : (Mem.writeN s.store.hbm (hbmKey pt.stack pt.addr) (atomicBytes r.pkt.modifier
      (Mem.readN s.store.hbm (hbmKey pt.stack pt.addr) pt.len) r.pkt.payload)).read a
        = if hbmKey pt.stack pt.addr ≤ a ∧ a < hbmKey pt.stack pt.addr + pt.len then (atomicBytes r.pkt.modifier
            (Mem.readN s.store.hbm (hbmKey pt.stack pt.addr) pt.len) r.pkt.payload).getD (a - hbmKey pt.stack pt.addr) 0
          else s.store.hbm.read a := by
    rw [Mem.read_writeN, atomicBytes_length, ← hwidth]
  have hanswered (y : Packet) := partAnswered_of hreqs hids hall (hdheld.trans hheld) (hdid.trans hid) (hdmem.trans hmem) hce y
    (Mem.writeN s.store.hbm (hbmKey pt.stack pt.addr) (atomicBytes r.pkt.modifier
      (Mem.readN s.store.hbm (hbmKey pt.stack pt.addr) pt.len) r.pkt.payload))
  by_cases hatomic : r.pkt.opcode = Op.atomic
  · rw [if_pos hatomic] at hexec ⊢
    obtain ⟨hregs, hans⟩ := hanswered (s.m.response .sx r.pkt Op.atomicData 0 (s.m.svcEcho r.home) 0 0
      (Mem.readN s.store.hbm (hbmKey pt.stack pt.addr) pt.len))
    exact ⟨_, hexec, hstored, hans, hcounted, hregs⟩
  · have hposted := hop.resolve_left hatomic
    rw [if_neg hatomic, if_pos hposted] at hexec
    rw [if_neg hatomic]
    obtain ⟨hregs, hans⟩ := hanswered (s.m.response .sx r.pkt Op.atomicAck 0 (s.m.svcEcho r.home) 0 0 [])
    exact ⟨_, hexec, hstored, hans, hcounted, hregs⟩

end

/-- Settles O25: what becomes of a request that arrives, of one that was parked, and of the last part of one that is served. -/
theorem poolRequestsAreServedInParts : Obligations.PoolRequestsAreServedInParts := by
  unfold Obligations.PoolRequestsAreServedInParts
  refine ⟨fun s p x r c hp hdst hs hop hc hat hmap => ⟨fun st => exec_pool_refused hp hdst hs hop hc hat hmap,
      exec_pool_taken hp hdst hs hop hc hat hmap, fun href hwrite hbytes hback => ?_,
      fun h pre post hheld hfind href hpark hids => ?_⟩,
    fun s h pre post hheld cl n r hcl hout hparked hpool hids hothers hfree hbytes =>
      exec_resume_sole hheld hcl hout hparked hpool hids hothers hfree hbytes,
    fun s r pre post hreqs pt hparts hids hmap hback hdone hoff hdata hseg hgood hlen hlen256 _ hbad => ⟨fun hop hbytes => ?_,
      fun hop => ?_, fun hop hwidth => ?_⟩⟩
  · exact exec_pool_empty hp hdst hs hop hc hat hmap href hwrite hbytes hback
  · exact exec_pool_parked hp hdst hs hop hc hat hmap href hheld hfind hpark hids
  · exact exec_part_write hreqs hparts hids hmap hback hdone hoff hgood hlen hbad hop hbytes
  · exact exec_part_read hreqs hparts hids hmap hback hdone hoff hdata hseg hlen hlen256 hbad hop
  · exact exec_part_atomic hreqs hparts hids hmap hback hdone hgood hbad hop hwidth

end Sys2Proof.Machine
end

section
/-! O21: cells cross the fabric, are released in order, pass gaps, and leave retired tiles and modules (R160 to R182, R189, R597). -/

set_option Elab.async false

namespace Sys2Proof.Machine
open Sys2Proof

/-- A fold whose steps leave the start as it is ends there. -/
theorem foldl_still {α β : Type} {f : α → β → α} {a : α} {l : List β} (h : ∀ b ∈ l, f a b = a) : l.foldl f a = a := by
  induction l with
  | nil => rfl
  | cons b l ih => rw [List.foldl_cons, h b (.head _), ih fun x hx => h x (.tail _ hx)]

/-- A fold in which one number alone moves the machine, which then rests. -/
theorem foldl_range_one {α : Type} {f : α → Nat → α} {a b : α} {x n : Nat} (hx : x < n) (ha : ∀ y, y ≠ x → f a y = a)
    (hab : f a x = b) (hb : ∀ y, f b y = b) : (List.range n).foldl f a = b := by
  obtain ⟨l, r, hlr⟩ := List.append_of_mem (List.mem_range.2 hx)
  have hnodup := List.nodup_range (n := n)
  rw [hlr, List.nodup_append] at hnodup
  rw [hlr, List.foldl_append, foldl_still fun y hy => ha y fun h => hnodup.2.2 y hy x (.head _) h, List.foldl_cons, hab,
    foldl_still fun y _ => hb y]

namespace Mach
variable {m n : Mach}

/-! ### Nothing moves -/

/-- An input tile without a packet that still has granules to put into cells sends none. -/
theorem stage1_still {x : Nat} (h : m.flowHeads x = []) (v : List Nat) : m.stage1 v x = m := by
  have hexp (y : Nat) : m.expressOut v x y = (m, 0) := by
    unfold expressOut
    dsimp only
    rw [h]
    rfl
  have hord (y : Nat) : m.ordinaryOut v x y = none := by
    unfold ordinaryOut
    dsimp only
    rw [h]
    rfl
  unfold stage1
  cases m.stage1To x with
  | none => rfl
  | some y =>
    dsimp only
    rw [hexp]
    dsimp only
    change m.ordinaryFill v x y (7 + 1) = m
    unfold ordinaryFill
    rw [hord]

/-- A cell that is not yet present does not leave its intermediate. -/
theorem leaving_none (h : ∀ e ∈ m.mid, m.slot < e.2.2.present) (y o : Nat) : m.leaving y o = [] := by
  have hnone : (m.mid.filter fun e => e.1 == y && e.2.1 == o && decide (e.2.2.present ≤ m.slot)) = [] :=
    List.filter_eq_nil_iff.2 fun e he => by
      have := h e he
      simp only [Bool.and_eq_true, decide_eq_true_eq]
      omega
  unfold leaving
  rw [hnone]
  rfl

theorem stage2OwnMove_still (h : ∀ e ∈ m.mid, m.slot < e.2.2.present) (v : List Nat) (y : Nat) : m.stage2OwnMove v y = m := by
  unfold stage2OwnMove
  cases m.stage2Own y with
  | none => rfl
  | some o =>
    dsimp only
    rw [leaving_none h]
    rfl

/-- A cross connection with nothing to carry counts no waiting cell. -/
theorem stage2CrossMove_still (h : ∀ e ∈ m.mid, m.slot < e.2.2.present) (v : List Nat) (d y : Nat) :
    m.touches (m.stage2CrossMove v d y) .sx noWord := by
  unfold stage2CrossMove
  cases m.stage2Cross y with
  | none => exact touches_refl ..
  | some o =>
    dsimp only
    rw [leaving_none h]
    rw [List.take_nil, List.length_nil, Nat.zero_min, Nat.sub_self, if_pos rfl]
    exact touches_bumpBy_zero ..

theorem fabric_of_bare (h : n.bare = m.bare) : n.mid = m.mid ∧ n.reseq = m.reseq ∧ n.slot = m.slot ∧ n.seqIn = m.seqIn ∧
    n.seqOut = m.seqOut ∧ n.rrTile = m.rrTile ∧ n.rrFlow = m.rrFlow ∧ n.allow = m.allow := by
  have hmid : n.bare.mid = m.bare.mid := by rw [h]
  have hreseq : n.bare.reseq = m.bare.reseq := by rw [h]
  have hslot : n.bare.slot = m.bare.slot := by rw [h]
  have hin : n.bare.seqIn = m.bare.seqIn := by rw [h]
  have hout : n.bare.seqOut = m.bare.seqOut := by rw [h]
  have htile : n.bare.rrTile = m.bare.rrTile := by rw [h]
  have hflow : n.bare.rrFlow = m.bare.rrFlow := by rw [h]
  have hallow : n.bare.allow = m.bare.allow := by rw [h]
  exact ⟨hmid, hreseq, hslot, hin, hout, htile, hflow, hallow⟩

theorem crossMoves_still {l : List Nat} (h : ∀ e ∈ m.mid, m.slot < e.2.2.present) (v : List Nat) (d : Nat) :
    m.touches (l.foldl (fun a y => a.stage2CrossMove v d y) m) .sx noWord :=
  foldl_inv (fun a => m.touches a .sx noWord) _ (fun a y ha => ha.trans <| stage2CrossMove_still (by
    obtain ⟨hmid, -, hslot, -⟩ := fabric_of_bare ha.1
    rw [hmid, hslot]
    exact h) v d y) l (touches_refl ..)

/-! ### The end of a cell slot -/

/-- The release of a cell slot, once stages 1 and 2 are over. -/
def settled (m : Mach) (v : List Nat) : Mach :=
  let m := m.releaseAll v m.reseq.length
  let m := { m with reseq := m.reseq.filter fun c => readCell v c != ReadOutcome.gone || decide (m.slot < c.present) }
  let m := m.reseqHigh
  { m with slot := m.slot + 1 }

/-- A slot in which no cell may leave an intermediate is its stage 1 and its release. -/
theorem cellSlot_settled {a : Mach} {v : List Nat} (ha : (List.range 18).foldl (fun m x => m.stage1 v x) m.refill = a)
    (h : ∀ e ∈ a.mid, a.slot < e.2.2.present) : ∃ b, a.touches b .sx noWord ∧ m.cellSlot v = b.settled v := by
  obtain ⟨b, hb⟩ : ∃ b, b = (a.crossOrder 0).foldl (fun m y => m.stage2CrossMove v 0 y) a := ⟨_, rfl⟩
  have hab : a.touches b .sx noWord := by rw [hb]; exact crossMoves_still h v 0
  have hrest : ∀ e ∈ b.mid, b.slot < e.2.2.present := by
    obtain ⟨hmid, -, hslot, -⟩ := fabric_of_bare hab.1
    rw [hmid, hslot]
    exact h
  refine ⟨_, hab.trans (crossMoves_still (l := b.crossOrder 1) hrest v 1), ?_⟩
  unfold cellSlot
  dsimp only
  rw [ha, foldl_still (l := a.ranks 0 ++ a.ranks 1) fun y _ => stage2OwnMove_still h v y, ← hb]
  rfl

theorem reseqHigh_none (h : m.reseq = []) : m.reseqHigh = m := by
  unfold reseqHigh
  dsimp only
  rw [h]
  rfl

/-- A slot whose releases leave no cell held. -/
theorem settled_of {a : Mach} {v : List Nat} (hall : m.releaseAll v m.reseq.length = a) (h : a.reseq = []) :
    m.settled v = { a with slot := a.slot + 1 } := by
  have hkeep : { a with reseq := a.reseq.filter fun c => readCell v c != ReadOutcome.gone || decide (a.slot < c.present) } = a := by
    rw [h]
    dsimp only [List.filter_nil]
    rw [← h]
  unfold settled
  rw [hall]
  dsimp only
  rw [hkeep, reseqHigh_none h]

/-- With no cell held for its turn a slot ends without a release. -/
theorem settled_none (h : m.reseq = []) (v : List Nat) : m.settled v = { m with slot := m.slot + 1 } :=
  settled_of (by rw [h]; rfl) h

/-- The one cell held, when its turn has come, is released. -/
theorem releaseAll_one {c : Cell} (h : m.reseq = [c]) (hp : c.present ≤ m.slot)
    (hs : c.seq = Tbl.get (fun _ => 0) m.seqOut c.flow) : m.releaseAll [] m.reseq.length = m.releaseCell [] c := by
  have hgood : readCell [] c = .good := rfl
  have hfind : (m.reseq.find? fun c => decide (c.present ≤ m.slot) && c.seq == Tbl.get (fun _ => 0) m.seqOut c.flow &&
      readCell [] c != ReadOutcome.gone) = some c := by
    rw [h]
    exact List.find?_cons_of_pos (by rw [decide_eq_true hp, ← hs, beq_self_eq_true, hgood]; rfl)
  rw [h, List.length_singleton]
  unfold releaseAll
  rw [hfind]
  rfl

/-- A good cell of one packet: its granules are released to the output queue. -/
theorem releaseCell_good {h : Held} {c : Cell} (hh : m.held = [h]) (hc : m.reseq = [c]) (hs : c.segs = [(h.id, h.gran)])
    (hv : c.void = false) : m.releaseCell [] c = { m with
      held := [{ h with released := h.released + h.gran }], reseq := [],
      seqOut := Tbl.set (fun _ => 0) m.seqOut c.flow ((c.seq + 1) % 4096) } := by
  have hgood : readCell [] c = .good := rfl
  unfold releaseCell
  dsimp only
  rw [hv, hgood, hs, hc, List.erase_cons_head, if_neg (by simp), if_neg (by simp), List.foldl_cons, List.foldl_nil]
  unfold updHeld
  dsimp only
  rw [hh, List.map_singleton, if_pos rfl]

/-- A void cell of one packet that is not yet sent: the packet is gone. -/
theorem releaseCell_void {h : Held} {c : Cell} (hh : m.held = [h]) (hc : m.reseq = [c]) (hs : c.segs = [(h.id, h.gran)])
    (hv : c.void = true) (hstart : h.started = false) (hin : h.arrived = h.formed) : m.releaseCell [] c = { m with
      held := [], reseq := [], seqOut := Tbl.set (fun _ => 0) m.seqOut c.flow ((c.seq + 1) % 4096) } := by
  obtain ⟨a, ha⟩ : ∃ a : Mach, a = { m with
    reseq := [], seqOut := Tbl.set (fun _ => 0) m.seqOut c.flow ((c.seq + 1) % 4096) } := ⟨_, rfl⟩
  have hheld : a.held = [h] := by rw [ha]; exact hh
  have hfind : a.findHeld h.id = some h := by
    unfold findHeld
    rw [hheld]
    exact List.find?_cons_of_pos (beq_self_eq_true _)
  have hdrop : a.dropHeld h = { a with held := [] } := by
    unfold dropHeld giveCredit
    rw [hin, Nat.sub_self, if_pos (.inr rfl)]
    unfold removeHeld
    rw [hheld, List.filter_cons_of_neg (by simp), List.filter_nil]
  have hbreak : a.breakPacket h.id = { a with held := [] } := by
    unfold breakPacket
    rw [hfind]
    dsimp only
    rw [hstart, hdrop]
    rfl
  have hgood : readCell [] c = .good := rfl
  unfold releaseCell
  dsimp only
  rw [hv, hgood, hs, hc, List.erase_cons_head, ← ha, if_pos (Bool.true_or _), if_neg (by simp), List.foldl_cons, List.foldl_nil,
    hbreak, ha]

/-! ### Stage 1 of a single packet -/

/-- The one packet held is no head at a tile that is not its own, nor anywhere once it is wholly in cells. -/
theorem flowHeads_none {h : Held} (hh : m.held = [h]) {x : Nat} (hx : inTile h.input ≠ x ∨ h.formed = h.gran) :
    m.flowHeads x = [] := by
  unfold flowHeads
  dsimp only
  rw [hh, List.filter_cons_of_neg, List.filter_nil, List.filter_nil]
  simp only [Bool.and_eq_true, decide_eq_true_eq, beq_iff_eq]
  rintro ⟨⟨-, hown⟩, hleft⟩
  exact hx.elim (fun h => h hown) fun h => by omega

/-- At its own tile it is the one head. -/
theorem flowHeads_one {h : Held} (hh : m.held = [h]) (hin : h.input < 144) (hf : h.formed < h.gran) :
    m.flowHeads (inTile h.input) = [h] := by
  unfold flowHeads
  dsimp only
  rw [hh, List.filter_cons_of_pos (by simp; omega), List.filter_nil, List.filter_cons_of_pos (by simp), List.filter_nil]

/-- The cell that a whole packet of at most 16 granules makes. -/
def cellOf (m : Mach) (h : Held) : Cell :=
  { input := h.input, output := h.output, vc := h.vc, seq := Tbl.get (fun _ => 0) m.seqIn h.flow,
    segs := [(h.id, h.gran)], keys := [h.key], express := false, present := m.slot + 1 }

/-- The one packet held, gone whole into one cell at the intermediate tile `y`. -/
def crossing (m : Mach) (h : Held) (y : Nat) : Mach :=
  { m.returnCredit .sx h.input h.vc h.gran with
    held := [{ h with formed := h.gran }], mid := [(y, h.outT, m.cellOf h)],
    seqIn := Tbl.set (fun _ => 0) m.seqIn h.flow ((Tbl.get (fun _ => 0) m.seqIn h.flow + 1) % 4096),
    rrTile := Tbl.set (fun _ => 0) m.rrTile (inTile h.input) (h.outT + 1),
    rrFlow := Tbl.set (fun _ => 0) m.rrFlow (inTile h.input * 18 + h.outT) (h.flow + 1) }

/-- Credits return at once while neither shedding nor the slew limit holds them. -/
theorem giveCredit_free {p : Nat} (hp : p < 144) (vc : Nat) {k : Nat} (hk : 0 < k) (hf : m.power.f = 64) (hl : m.shedLevel < 3) :
    m.giveCredit p vc k = m.returnCredit .sx p vc k := by
  have hlim : (m.limited vc || m.stopped vc) = false := by
    unfold limited stopped creditFrac
    rw [if_neg (by omega), hf, beq_eq_false_iff_ne.2 (by omega : m.shedLevel ≠ 4)]
    simp
  unfold giveCredit
  rw [if_neg (by omega), hlim, if_neg Bool.false_ne_true]

theorem formCell_one {h : Held} (hh : m.held = [h]) (hin : h.input < 144) (hform : h.formed = 0) (hpos : 0 < h.gran)
    (hmid : m.mid = []) (hf : m.power.f = 64) (hl : m.shedLevel < 3) (y : Nat) :
    m.formCell [] h [(h.id, h.gran, h.key)] y false = { m.returnCredit .sx h.input h.vc h.gran with
      held := [{ h with formed := h.gran }], mid := [(y, h.outT, m.cellOf h)],
      seqIn := Tbl.set (fun _ => 0) m.seqIn h.flow ((Tbl.get (fun _ => 0) m.seqIn h.flow + 1) % 4096) } := by
  obtain ⟨a, ha⟩ : ∃ a : Mach, a = { m with
    held := [{ h with formed := h.gran }],
    seqIn := Tbl.set (fun _ => 0) m.seqIn h.flow ((Tbl.get (fun _ => 0) m.seqIn h.flow + 1) % 4096) } := ⟨_, rfl⟩
  have hcredit : a.giveCredit h.input h.vc h.gran = a.returnCredit .sx h.input h.vc h.gran := by
    refine giveCredit_free hin h.vc hpos ?_ ?_
    · rw [ha]; exact hf
    · rw [ha]; exact hl
  have hupd : ({ m with seqIn := Tbl.set (fun _ => 0) m.seqIn h.flow ((Tbl.get (fun _ => 0) m.seqIn h.flow + 1) % 4096) } : Mach).updHeld
      h.id (fun h' => { h' with formed := h'.formed + h.gran }) = a := by
    unfold updHeld
    dsimp only
    rw [hh, List.map_singleton, if_pos rfl, hform, Nat.zero_add, ha]
  have hsum : sumOf [(h.id, h.gran, h.key)] (fun s => s.2.1) = h.gran := by simp [sumOf]
  have hnone : (a.returnCredit .sx h.input h.vc h.gran).mid = [] := by rw [ha]; exact hmid
  unfold formCell
  dsimp only [List.map_cons, List.map_nil, List.foldl_cons, List.foldl_nil]
  rw [hupd, hsum, hcredit]
  change ({ a.returnCredit .sx h.input h.vc h.gran with
    mid := (a.returnCredit .sx h.input h.vc h.gran).mid ++ [(y, h.outT, m.cellOf h)] } : Mach) = _
  rw [hnone, ha]
  rfl

/-- Stage 1 at the tile of the one packet held. -/
theorem stage1_one {h : Held} (hh : m.held = [h]) (hin : h.input < 144) (hform : h.formed = 0) (hpos : 0 < h.gran)
    (hle : h.gran ≤ 16) (harr : h.arrived = h.gran) (hpart : h.part = .guaranteed) (hct : h.ct = .none) (hmid : m.mid = [])
    (hf : m.power.f = 64) (hl : m.shedLevel < 3) {y : Nat} (hy : m.stage1To (inTile h.input) = some y) :
    m.stage1 [] (inTile h.input) = m.crossing h y := by
  have hheads := flowHeads_one hh hin (by omega : h.formed < h.gran)
  have hexp : m.expressOut [] (inTile h.input) y = (m, 0) := by
    unfold expressOut
    dsimp only
    rw [hheads, List.filter_cons_of_neg (by rw [hct]; simp), List.filter_nil]
    rfl
  have hcredits : m.midCredits (inTile h.input) y h.outT = 7 := by
    unfold midCredits
    rw [hmid]
    rfl
  have hstored : Held.stored h = true := by
    unfold Held.stored
    simp [hpart, hct, harr]
  have hsegs : takeSegs 16 (m.flowRest h.flow) = [(h.id, h.gran, h.key)] := by
    have hrest : m.flowRest h.flow = [h] := by
      unfold flowRest
      rw [hh, List.filter_cons_of_pos (by simp; omega), List.filter_nil]
    rw [hrest]
    unfold takeSegs
    rw [if_neg (by rw [hstored]; simp), hform, Nat.sub_zero, Nat.min_eq_right hle]
    rfl
  have hnext (l x : Nat) : nextAfter l [x] = some x := by
    unfold nextAfter
    dsimp only
    by_cases hlx : l ≤ x
    · rw [List.filter_cons_of_pos (by simpa using hlx)]
      rfl
    · rw [List.filter_cons_of_neg (by simpa using hlx)]
      rfl
  have hout : m.ordinaryOut [] (inTile h.input) y = some (m.crossing h y) := by
    unfold ordinaryOut
    dsimp only
    rw [hheads, List.filter_cons_of_pos (by rw [hstored, hcredits]; rfl), List.filter_nil, List.map_singleton, hnext]
    dsimp only
    rw [List.filter_cons_of_pos (by simp), List.filter_nil, List.map_singleton, hnext]
    dsimp only
    rw [List.find?_cons_of_pos (by simp)]
    refine congrArg some (Eq.trans (congrArg (fun g => formCell _ [] h g y false) hsegs) ?_)
    exact (formCell_one (m := { m with
      rrTile := Tbl.set (fun _ => 0) m.rrTile (inTile h.input) (h.outT + 1),
      rrFlow := Tbl.set (fun _ => 0) m.rrFlow (inTile h.input * 18 + h.outT) (h.flow + 1) }) hh hin hform hpos hmid hf hl y).trans rfl
  have hnone : (m.crossing h y).ordinaryOut [] (inTile h.input) y = none := by
    unfold ordinaryOut
    dsimp only
    rw [flowHeads_none (h := { h with formed := h.gran }) rfl (.inr rfl)]
    rfl
  unfold stage1
  rw [hy]
  dsimp only
  rw [hexp]
  change m.ordinaryFill [] (inTile h.input) y (7 + 1) = _
  unfold ordinaryFill
  rw [hout]
  change (m.crossing h y).ordinaryFill [] (inTile h.input) y (6 + 1) = _
  unfold ordinaryFill
  rw [hnone]

/-- With no tile retired a die's nine tiles stand in the pattern. -/
theorem ranks_full (h : m.out2 = []) (d : Nat) : m.ranks d = (List.range 9).map (9 * d + ·) := by
  unfold ranks
  rw [h]
  exact List.filter_eq_self.2 fun _ _ => rfl

/-- The intermediate tile of an input tile, with no tile retired. -/
theorem stage1To_full (h1 : m.out1 = []) (h2 : m.out2 = []) (x : Nat) :
    m.stage1To x = some (9 * (x / 9) + (x % 9 + m.patSlot) % 9) := by
  have hnodup : ((List.range 9).map (9 * (x / 9) + ·)).Nodup :=
    List.nodup_range.map fun a b hab => Nat.add_left_cancel hab
  have hlen : ((List.range 9).map (9 * (x / 9) + ·)).length = 9 := by rw [List.length_map, List.length_range]
  have hat {i : Nat} (hi : i < 9) : ((List.range 9).map (9 * (x / 9) + ·))[i]? = some (9 * (x / 9) + i) := by
    rw [List.getElem?_map, List.getElem?_range hi]
    rfl
  have hidx : ((List.range 9).map (9 * (x / 9) + ·)).idxOf x = x % 9 := by
    have hlt : x % 9 < ((List.range 9).map (9 * (x / 9) + ·)).length := by rw [hlen]; exact Nat.mod_lt _ (by omega)
    have hget : ((List.range 9).map (9 * (x / 9) + ·))[x % 9] = x := by
      rw [List.getElem_map, List.getElem_range]
      omega
    have hat := hnodup.idxOf_getElem _ hlt
    rwa [hget] at hat
  have hne : ¬ (m.out1.contains x = true ∨ (List.range 9).map (9 * (x / 9) + ·) = []) := by
    rw [h1]
    exact fun h => h.elim (fun h => Bool.noConfusion h) fun h => by rw [h] at hlen; exact absurd hlen (by decide)
  unfold stage1To dieOfTile
  dsimp only
  rw [ranks_full h2, if_neg hne, hidx, hlen, hat (Nat.mod_lt _ (by omega)), h1]
  rfl

end Mach

/-! ### The clauses -/

/-- A packet of at most 16 granules goes whole to the intermediate tile that the pattern gives. -/
theorem cell_enters {s : State} {h : Held} (hh : s.m.held = [h]) (hin : h.input < 144) (hout : h.output < 144) (hform : h.formed = 0)
    (hpos : 0 < h.gran) (hle : h.gran ≤ 16) (harr : h.arrived = h.gran) (hpart : h.part = .guaranteed) (hct : h.ct = .none)
    (hmid : s.m.mid = []) (hres : s.m.reseq = []) (h1 : s.m.out1 = []) (h2 : s.m.out2 = []) (hf : s.m.power.f = 64)
    (hl : s.m.shedLevel < 3) :
    ∃ t, exec (.cellSlot []) s = .next t ∧
      t.m.mid = [(9 * (h.input / 72) + (h.input / 8 % 9 + (s.m.slot - s.m.patStart)) % 9, h.output / 8, s.m.cellOf h)] ∧
      t.m.held = [{ h with formed := h.gran }] ∧
      Tbl.get (fun _ => 0) t.m.seqIn h.flow = (Tbl.get (fun _ => 0) s.m.seqIn h.flow + 1) % 4096 ∧
      s.becomes t { s.m.returnCredit .sx h.input h.vc h.gran with
        held := t.m.held, mid := t.m.mid, seqIn := t.m.seqIn, rrTile := t.m.rrTile, rrFlow := t.m.rrFlow,
        allow := t.m.allow, slot := s.m.slot + 1 } .sx noWord := by
  have htile : inTile h.input = h.input / 8 := if_pos hin
  have houtT : h.outT = h.output / 8 := if_pos hout
  obtain ⟨y, hy⟩ : ∃ y, y = 9 * (h.input / 72) + (h.input / 8 % 9 + (s.m.slot - s.m.patStart)) % 9 := ⟨_, rfl⟩
  have hto : s.m.refill.stage1To (inTile h.input) = some y := by
    rw [Mach.stage1To_full (m := s.m.refill) h1 h2, htile, hy, Nat.div_div_eq_div_mul]
    rfl
  obtain ⟨a, ha⟩ : ∃ a, a = s.m.refill.crossing h y := ⟨_, rfl⟩
  have hone : s.m.refill.stage1 [] (inTile h.input) = a :=
    (Mach.stage1_one (m := s.m.refill) hh hin hform hpos hle harr hpart hct hmid hf hl hto).trans ha.symm
  have hslots : (List.range 18).foldl (fun m x => m.stage1 [] x) s.m.refill = a :=
    foldl_range_one (by rw [htile]; omega) (fun x hx => Mach.stage1_still (Mach.flowHeads_none (m := s.m.refill) hh (.inl hx.symm)) [])
      hone fun x => Mach.stage1_still (Mach.flowHeads_none (h := { h with formed := h.gran }) (by rw [ha]; rfl) (.inr rfl)) []
  obtain ⟨b, hab, hslot⟩ := Mach.cellSlot_settled hslots (by
    rw [ha]
    exact fun e he => List.mem_singleton.1 he ▸ Nat.lt_succ_self _)
  obtain ⟨hbmid, hbres, hbslot, hbin, -, hbtile, hbflow, hballow⟩ := Mach.fabric_of_bare hab.1
  obtain ⟨hbheld, -, -⟩ := Mach.service_of_bare hab.1
  have hend := Mach.settled_none (m := b) (by rw [hbres, ha]; exact hres) []
  refine ⟨{ s with m := { b with slot := b.slot + 1 } }, go_eq (fun m => m.cellSlot []) (hslot.trans hend), ?_, ?_, ?_, ?_⟩
  · change b.mid = _
    rw [hbmid, ha, ← houtT, ← hy]
    rfl
  · change b.held = _
    rw [hbheld, ha]
    rfl
  · change Tbl.get _ b.seqIn _ = _
    rw [hbin, ha]
    exact (Tbl.get_set ..).trans (if_pos rfl)
  · refine becomes_of ?_ ((s.m.kept_of_rf (n := a) (by rw [ha]; rfl) (by rw [ha]; rfl) noWord).trans hab.2.1)
      (hab.2.2.trans (by rw [ha]; rfl))
    have hbare := congrArg (fun x : Mach => { x with slot := x.slot + 1 }) hab.1
    change ({ b.bare with slot := b.slot + 1 } : Mach) = { (s.m.returnCredit .sx h.input h.vc h.gran).bare with
      held := b.held, mid := b.mid, seqIn := b.seqIn, rrTile := b.rrTile, rrFlow := b.rrFlow, allow := b.allow, slot := s.m.slot + 1 }
    rw [hbheld, hbmid, hbin, hbtile, hbflow, hballow]
    refine hbare.trans ?_
    rw [ha]
    rfl

/-- A slot with one packet, wholly in cells, and no cell at the intermediates is its release. -/
theorem slot_releases {s : State} {h : Held} (hh : s.m.held = [h]) (hmid : s.m.mid = []) (hform : h.formed = h.gran) :
    ∃ b, s.m.refill.touches b .sx noWord ∧ s.m.cellSlot [] = b.settled [] :=
  Mach.cellSlot_settled (foldl_still fun _ _ => Mach.stage1_still (Mach.flowHeads_none (m := s.m.refill) hh (.inr hform)) [])
    fun e he => by
      change e ∈ s.m.mid at he
      rw [hmid] at he
      exact absurd he List.not_mem_nil

/-- A cell that is due is released, and a void one takes its packet with it. -/
theorem cell_released {s : State} {h : Held} {c : Cell} (hh : s.m.held = [h]) (hres : s.m.reseq = [c]) (hmid : s.m.mid = [])
    (hform : h.formed = h.gran) (hsegs : c.segs = [(h.id, h.gran)]) (hstart : h.started = false) (hp : c.present ≤ s.m.slot)
    (hseq : c.seq = Tbl.get (fun _ => 0) s.m.seqOut c.flow) :
    (c.void = false → ∃ t, exec (.cellSlot []) s = .next t ∧
      s.becomes t { s.m with
        held := [{ h with released := h.released + h.gran }], reseq := [], allow := t.m.allow, slot := s.m.slot + 1,
        seqOut := Tbl.set (fun _ => 0) s.m.seqOut c.flow ((c.seq + 1) % 4096) } .sx noWord) ∧
    (c.void = true → h.arrived = h.formed → ∃ t, exec (.cellSlot []) s = .next t ∧
      s.becomes t { s.m with
        held := [], reseq := [], allow := t.m.allow, slot := s.m.slot + 1,
        seqOut := Tbl.set (fun _ => 0) s.m.seqOut c.flow ((c.seq + 1) % 4096) } .sx noWord) := by
  obtain ⟨b, hab, hslot⟩ := slot_releases hh hmid hform
  obtain ⟨-, hbres, hbslot, -, hbout, -, -, hballow⟩ := Mach.fabric_of_bare hab.1
  obtain ⟨hbheld, -, -⟩ := Mach.service_of_bare hab.1
  have hheld : b.held = [h] := hbheld.trans hh
  have hreseq : b.reseq = [c] := hbres.trans hres
  have hall := Mach.releaseAll_one hreseq (hbslot ▸ hp) (by rw [hbout]; exact hseq)
  have hframe {n : Mach} {l : List Held} (hn : n = { b with
      held := l, reseq := [], seqOut := Tbl.set (fun _ => 0) b.seqOut c.flow ((c.seq + 1) % 4096), slot := b.slot + 1 }) :
      s.becomes { s with m := n } { s.m with
        held := l, reseq := [], allow := n.allow, slot := s.m.slot + 1,
        seqOut := Tbl.set (fun _ => 0) s.m.seqOut c.flow ((c.seq + 1) % 4096) } .sx noWord := by
    rw [hn]
    refine becomes_of ?_ ((s.m.kept_of_rf (n := s.m.refill) rfl rfl noWord).trans hab.2.1) hab.2.2
    have hbare := congrArg (fun x : Mach => { x with
      held := l, reseq := [], seqOut := Tbl.set (fun _ => 0) x.seqOut c.flow ((c.seq + 1) % 4096), slot := x.slot + 1 }) hab.1
    refine hbare.trans ?_
    change _ = ({ s.m.bare with
      held := l, reseq := [], allow := b.allow, slot := s.m.slot + 1,
      seqOut := Tbl.set (fun _ => 0) s.m.seqOut c.flow ((c.seq + 1) % 4096) } : Mach)
    rw [hballow]
    rfl
  refine ⟨fun hv => ?_, fun hv harr => ?_⟩
  · have hcell := Mach.releaseCell_good hheld hreseq hsegs hv
    exact ⟨_, go_eq (fun m => m.cellSlot []) (hslot.trans (Mach.settled_of (hall.trans hcell) rfl)), hframe rfl⟩
  · have hcell := Mach.releaseCell_void hheld hreseq hsegs hv hstart harr
    exact ⟨_, go_eq (fun m => m.cellSlot []) (hslot.trans (Mach.settled_of (hall.trans hcell) rfl)), hframe rfl⟩

/-- A gap that has stood for 1,024 cell slots is passed. -/
theorem gap_passed {s : State} {tile : Nat} {c : Cell} (ht : tile < 18) (hres : s.m.reseq = [c]) (htile : s.m.cellTile c = tile)
    (hp : c.present + 1024 ≤ s.m.slot) (hh : s.m.held = []) :
    ∃ t, exec (.reseqTimeout tile c.flow) s = .next t ∧ t.m.event .sx (Pg.tile tile) 0 = true ∧
      s.m.counted t.m .sx (Pg.tile tile) R.tilReseqTimeoutCnt ∧
      (c.seq < 4096 → Tbl.get (fun _ => 0) s.m.seqOut c.flow < 4096 → Tbl.get (fun _ => 0) t.m.seqOut c.flow = c.seq) ∧
      s.becomes t { s.m with seqOut := t.m.seqOut } .sx
        (fun k => eventWord (Pg.tile tile) k || k == item (Pg.tile tile) 0 R.tilReseqTimeoutCnt) := by
  obtain ⟨q, hq⟩ : ∃ q, q = Tbl.get (fun _ => 0) s.m.seqOut c.flow := ⟨_, rfl⟩
  obtain ⟨a, ha⟩ : ∃ a : Mach, a = { s.m with
    held := [], seqOut := Tbl.set (fun _ => 0) s.m.seqOut c.flow ((q + min 4096 ((c.seq + 4096 - q) % 4096)) % 4096) } := ⟨_, rfl⟩
  obtain ⟨n, hn⟩ : ∃ n, n = (a.bump .sx (Pg.tile tile) R.tilReseqTimeoutCnt).raise .sx (Pg.tile tile) 0 0 := ⟨_, rfl⟩
  have hstep : s.m.reseqTimeout tile c.flow = n := by
    have hheld : (s.m.reseq.filter fun x => x.flow == c.flow && decide (x.present + 1024 ≤ s.m.slot) && s.m.cellTile x == tile) = [c] := by
      rw [hres, List.filter_cons_of_pos (by simp [hp, htile]), List.filter_nil]
    have hall : (s.m.reseq.filter fun x => x.flow == c.flow) = [c] := by
      rw [hres, List.filter_cons_of_pos (by simp), List.filter_nil]
    unfold Mach.reseqTimeout
    dsimp only
    rw [hheld, hall, if_neg (List.cons_ne_nil _ _), hh, List.filter_nil, hn, ha, hq]
    rfl
  have htouch : a.touches n .sx (fun k => eventWord (Pg.tile tile) k || k == item (Pg.tile tile) 0 R.tilReseqTimeoutCnt) := by
    rw [hn]
    exact (Mach.touches_bump _ _ _ _ (by simp)).trans ((Mach.touches_raise ..).mono fun k hk => by simp [hk])
  obtain ⟨-, -, -, -, hout, -⟩ := Mach.fabric_of_bare htouch.1
  refine ⟨{ s with m := n }, (if_pos (decide_eq_true ht)).trans (go_eq (fun m => m.reseqTimeout tile c.flow) hstep), ?_, ?_,
    fun hc hs => ?_, ?_⟩
  · rw [hn]
    exact Mach.event_raise _ _ _ _ _ _ _ (by decide) (.inr ⟨rfl, rfl⟩)
  · change s.m.counted n _ _ _
    rw [hn, Mach.counted, Mach.word_raise _ _ _ _ _ _
      (eventWord_none _ _ _ (by decide) (by unfold Pg.tile Pg.trace; omega) (by decide)), Mach.word_bump, ha]
    rfl
  · change Tbl.get _ n.seqOut _ = _
    rw [hout, ha]
    refine (Tbl.get_set ..).trans ((if_pos rfl).trans ?_)
    rw [← hq] at hs
    omega
  · refine becomes_of ?_ ((s.m.kept_of_rf (n := a) (by rw [ha]; rfl) (by rw [ha]) _).trans htouch.2.1)
      (htouch.2.2.trans (by rw [ha]; rfl))
    change n.bare = { s.m.bare with seqOut := n.seqOut }
    rw [hout]
    refine htouch.1.trans ?_
    rw [ha, ← hh]
    rfl

/-- Tiles that retired leave stage 2. -/
theorem tiles_leave {s : State} (h : s.m.out1 ≠ s.m.out2) : ∃ t, exec .tileRetireStage2 s = .next t ∧
    s.becomes t { s.m with
      out2 := s.m.out1, patStart := s.m.slot,
      mid := s.m.mid.filter fun e => !(s.m.out1.filter fun x => !s.m.out2.contains x).contains e.1 } .sx noWord :=
  ⟨_, go_eq Mach.retireStage2 (n := { s.m with
    out2 := s.m.out1, patStart := s.m.slot,
    mid := s.m.mid.filter fun e => !(s.m.out1.filter fun x => !s.m.out2.contains x).contains e.1 }) (if_neg h),
    becomes_of rfl ⟨rfl, fun _ _ => rfl⟩ rfl⟩

/-- A module fails: it waits for its hem, and the crossing keeps or loses any of its cells. -/
theorem module_fails {s : State} {k : Nat} (hk : k < 32) (hfail : k ∉ s.m.modFailed)
    (hbit : bitsOf (s.m.reg .sx (Pg.die 0) R.dieD2dModules) k 1 = 1) :
    ∃ t, exec (.d2dModuleFailure k) s = .next t ∧ t.m.modFailed = s.m.modFailed ++ [k] ∧
      (∀ c ∈ t.m.reseq, c ∈ s.m.reseq) ∧ (∀ c ∈ s.m.reseq, c.present ≤ s.m.slot → c ∈ t.m.reseq) ∧
      s.becomes t { s.m with modFailed := t.m.modFailed, reseq := t.m.reseq, freeCtr := t.m.freeCtr } .sx noWord := by
  obtain ⟨l, hl⟩ : ∃ l, l = s.m.modFailed ++ [k] := ⟨_, rfl⟩
  have hloss : ∃ r f, s.m.moduleFails k = { s.m with modFailed := l, reseq := r, freeCtr := f } ∧
      (∀ c ∈ r, c ∈ s.m.reseq) ∧ ∀ c ∈ s.m.reseq, c.present ≤ s.m.slot → c ∈ r := by
    unfold Mach.moduleFails
    dsimp only
    rw [hbit, if_neg (by simp [hfail]), ← hl]
    refine List.foldlRecOn (motive := fun n : Mach => ∃ r f, n = { s.m with modFailed := l, reseq := r, freeCtr := f } ∧
      (∀ c ∈ r, c ∈ s.m.reseq) ∧ ∀ c ∈ s.m.reseq, c.present ≤ s.m.slot → c ∈ r) _ _
      ⟨s.m.reseq, s.m.freeCtr, rfl, fun _ h => h, fun _ h _ => h⟩ ?_
    rintro n ⟨r, f, hn, hsub, hkeep⟩ c hc
    have hlate : s.m.slot < c.present := by
      have := (List.mem_filter.1 hc).2
      simp only [Bool.and_eq_true, decide_eq_true_eq] at this
      exact this.1
    rw [hn]
    by_cases hlost : Config.freeBits 1 f = 1
    · exact ⟨r.erase c, f + 1, if_pos hlost, fun x hx => hsub x (List.mem_of_mem_erase hx), fun x hx hp =>
        (List.mem_erase_of_ne (by rintro rfl; omega)).2 (hkeep x hx hp)⟩
    · exact ⟨r, f + 1, if_neg hlost, hsub, hkeep⟩
  obtain ⟨r, f, hstep, hsub, hkeep⟩ := hloss
  exact ⟨_, (if_pos (decide_eq_true hk)).trans (go_eq (fun m => m.moduleFails k) hstep), hl, hsub, hkeep,
    becomes_of rfl ⟨rfl, fun _ _ => rfl⟩ rfl⟩

/-! ### A module is retired on both dies -/

namespace Mach
variable {m : Mach} {k d : Nat}

/-- Module `k` leaves service on the page of die `d`. -/
def dieRetires (m : Mach) (k d : Nat) : Mach :=
  let w := m.word .sx (item (Pg.die d) 0 R.dieD2dModules)
  let m := m.setWord .sx (item (Pg.die d) 0 R.dieD2dModules) (w &&& ~~~(BitVec.ofNat 32 (2 ^ k)))
  let m := m.setFld .sx (Pg.die d) F.dieD2dStatus_active (m.fld .sx (Pg.die d) F.dieD2dStatus_active - 1)
  (m.bump .sx (Pg.die d) R.dieD2dRetireCnt).raise .sx (Pg.die d) 0 k

/-- The words of a die page that a retirement writes. -/
def retireWord (d : Nat) : Nat → Bool := fun j => eventWord (Pg.die d) j ||
  [item (Pg.die d) 0 R.dieD2dModules, item (Pg.die d) 0 R.dieD2dRetireCnt, item (Pg.die d) 0 F.dieD2dStatus_active.off].contains j

theorem retireModule_dies (m : Mach) (k : Nat) : m.retireModule k = (m.dieRetires k 0).dieRetires k 1 := rfl

/-- A word of a page that is not the die's, nor the trace. -/
theorem retireWord_other {p a : Nat} (hp : p ≠ Pg.die d) (ht : p ≠ Pg.trace) (ha : a < 2 ^ 44) :
    retireWord d (item p 0 a) = false := by
  have hne {o : Nat} (ho : o < 2 ^ 44) : (item p 0 a == item (Pg.die d) 0 o) = false :=
    beq_false_of_ne fun h => hp ((item_direct_inj ha ho).1 h).1
  rw [retireWord, eventWord_item _ _ _ ha, beq_false_of_ne hp, beq_false_of_ne ht]
  simp only [List.contains_cons, List.contains_nil, hne (by decide : R.dieD2dModules < 2 ^ 44),
    hne (by decide : R.dieD2dRetireCnt < 2 ^ 44), hne (by decide : F.dieD2dStatus_active.off < 2 ^ 44)]
  rfl

theorem touches_dieRetires (m : Mach) (k d : Nat) : m.touches (m.dieRetires k d) .sx (retireWord d) :=
  (((touches_setWord _ _ _ _ (by simp [retireWord])).trans (touches_setFld _ _ _ _ _ (by simp [retireWord]))).trans
    (touches_bump _ _ _ _ (by simp [retireWord]))).trans ((touches_raise ..).mono fun j hj => by rw [retireWord, hj, Bool.true_or])

theorem event_dieRetires (m : Mach) (k d : Nat) : (m.dieRetires k d).event .sx (Pg.die d) 0 = true :=
  event_raise _ _ _ _ _ _ _ (by decide) (.inr ⟨rfl, rfl⟩)

theorem dieRetires_words (hd : d < 2) : m.counted (m.dieRetires k d) .sx (Pg.die d) R.dieD2dRetireCnt ∧
    (m.dieRetires k d).word .sx (item (Pg.die d) 0 R.dieD2dModules)
      = m.word .sx (item (Pg.die d) 0 R.dieD2dModules) &&& ~~~(BitVec.ofNat 32 (2 ^ k)) ∧
    (m.dieRetires k d).fld .sx (Pg.die d) F.dieD2dStatus_active = m.fld .sx (Pg.die d) F.dieD2dStatus_active - 1 := by
  have hraise {o : Nat} (ho : o < 2 ^ 44) (hreg : [R.intStatus, R.errLog0, R.errLog1, R.errLog2, R.errLog3].contains o = false) :
      eventWord (Pg.die d) (item (Pg.die d) 0 o) = false :=
    eventWord_none _ _ _ ho (by unfold Pg.die Pg.trace; omega) hreg
  have hne {a b : Nat} (ha : a < 2 ^ 44) (hb : b < 2 ^ 44) (h : a ≠ b) : item (Pg.die d) 0 a ≠ item (Pg.die d) 0 b :=
    fun e => h ((item_direct_inj ha hb).1 e).2
  obtain ⟨v, hv⟩ : ∃ v, v = m.word .sx (item (Pg.die d) 0 R.dieD2dModules) &&& ~~~(BitVec.ofNat 32 (2 ^ k)) := ⟨_, rfl⟩
  obtain ⟨x, hx⟩ : ∃ x, x = (m.setWord .sx (item (Pg.die d) 0 R.dieD2dModules) v).fld .sx (Pg.die d) F.dieD2dStatus_active := ⟨_, rfl⟩
  obtain ⟨a, ha⟩ : ∃ a, a = (m.setWord .sx (item (Pg.die d) 0 R.dieD2dModules) v).setFld .sx (Pg.die d) F.dieD2dStatus_active
    (x - 1) := ⟨_, rfl⟩
  have hdef : m.dieRetires k d = (a.bump .sx (Pg.die d) R.dieD2dRetireCnt).raise .sx (Pg.die d) 0 k := by
    rw [ha, hx, hv]
    rfl
  have hgoverns (n : Mach) : n.fld .sx (Pg.die d) F.dieD2dStatus_active = n.stored .sx (Pg.die d) F.dieD2dStatus_active := by
    obtain rfl | rfl : d = 0 ∨ d = 1 := by omega
    · exact fld_eq_stored n _ _ _ rfl (by decide)
    · exact fld_eq_stored n _ _ _ rfl (by decide)
  have hold : x = m.fld .sx (Pg.die d) F.dieD2dStatus_active := by
    rw [hx, hgoverns, hgoverns, stored, stored, word_setWord, if_neg (hne (by decide) (by decide) (by decide))]
  refine ⟨?_, ?_, ?_⟩
  · rw [hdef, counted, word_raise _ _ _ _ _ _ (hraise (by decide) (by decide)), word_bump, ha, word_setFld,
      if_neg (hne (by decide) (by decide) (by decide)), word_setWord, if_neg (hne (by decide) (by decide) (by decide))]
  · rw [hdef, word_raise _ _ _ _ _ _ (hraise (by decide) (by decide)), bump, bumpBy, word_setWord,
      if_neg (hne (by decide) (by decide) (by decide)), ha, word_setFld,
      if_neg (hne (by decide) (by decide) (by decide)), word_setWord, if_pos rfl, hv]
  · have hlt : x < 64 := by
      rw [hold]
      exact Nat.mod_lt _ (by decide)
    rw [hgoverns, hdef, stored, word_raise _ _ _ _ _ _ (hraise (by decide) (by decide)), bump, bumpBy, word_setWord,
      if_neg (hne (by decide) (by decide) (by decide)), ← stored, ha, stored_setFld _ _ _ _ _ (by decide), ← hold]
    exact Nat.mod_eq_of_lt (by change x - 1 < 64; omega)

/-- A module that is retired while at least nine serve leaves the interface in service. -/
theorem retireModules_one {n : Nat} (hfail : m.modFailed = [k]) (h0 : m.fld .sx (Pg.die 0) F.dieD2dStatus_active = n) (hn : 9 ≤ n) :
    m.retireModules = { m with modFailed := [] }.retireModule k := by
  obtain ⟨a, ha⟩ : ∃ a : Mach, a = { m with modFailed := [] } := ⟨_, rfl⟩
  have hlive : a.fld .sx (Pg.die 0) F.dieD2dStatus_active = n := by rw [ha]; exact h0
  have hsecond := touches_dieRetires (a.dieRetires k 0) k 1
  have hup : (a.retireModule k).modulesUp = n - 1 := by
    rw [modulesUp, retireModule_dies, fld_of_kept hsecond.2.1 (epParams_of_bare hsecond.1) _ _
      (retireWord_other (by decide) (by decide) (by decide)), (dieRetires_words (by decide)).2.2, hlive]
  unfold retireModules
  dsimp only
  rw [← ha, hfail, List.foldl_cons, List.foldl_nil, hup, if_neg (by omega)]

end Mach

/-- A module that failed is retired on both dies. -/
theorem module_retires {s : State} {k n : Nat} (hfail : s.m.modFailed = [k])
    (h0 : s.m.fld .sx (Pg.die 0) F.dieD2dStatus_active = n) (hn : 9 ≤ n) :
    ∃ t, exec .d2dModuleRetire s = .next t ∧
      (∀ d, d < 2 → t.m.event .sx (Pg.die d) 0 = true ∧ s.m.counted t.m .sx (Pg.die d) R.dieD2dRetireCnt ∧
        t.m.word .sx (item (Pg.die d) 0 R.dieD2dModules)
          = s.m.word .sx (item (Pg.die d) 0 R.dieD2dModules) &&& ~~~(BitVec.ofNat 32 (2 ^ k))) ∧
      s.becomes t { s.m with modFailed := [] } .sx
        (fun j => eventWord (Pg.die 0) j || eventWord (Pg.die 1) j ||
          [item (Pg.die 0) 0 R.dieD2dModules, item (Pg.die 1) 0 R.dieD2dModules, item (Pg.die 0) 0 R.dieD2dRetireCnt,
           item (Pg.die 1) 0 R.dieD2dRetireCnt, item (Pg.die 0) 0 F.dieD2dStatus_active.off,
           item (Pg.die 1) 0 F.dieD2dStatus_active.off].contains j) := by
  obtain ⟨a, ha⟩ : ∃ a : Mach, a = { s.m with modFailed := [] } := ⟨_, rfl⟩
  have hword (j : Nat) : a.word .sx j = s.m.word .sx j := by rw [ha]; rfl
  obtain ⟨b, hb⟩ : ∃ b, b = a.dieRetires k 0 := ⟨_, rfl⟩
  obtain ⟨t, ht⟩ : ∃ t, t = b.dieRetires k 1 := ⟨_, rfl⟩
  have hstep : s.m.retireModules = t := by
    rw [Mach.retireModules_one hfail h0 hn, Mach.retireModule_dies, ← ha, ← hb, ← ht]
  have hfirst : a.touches b .sx (Mach.retireWord 0) := hb ▸ Mach.touches_dieRetires a k 0
  have hsecond : b.touches t .sx (Mach.retireWord 1) := ht ▸ Mach.touches_dieRetires b k 1
  refine ⟨_, go_eq Mach.retireModules hstep, fun d hd => ?_, ?_⟩
  · obtain rfl | rfl : d = 0 ∨ d = 1 := by omega
    · have hkeep {o : Nat} (ho : o < 2 ^ 44) : t.word .sx (item (Pg.die 0) 0 o) = b.word .sx (item (Pg.die 0) 0 o) :=
        Mach.word_of_kept hsecond.2.1 _ (Mach.retireWord_other (by decide) (by decide) ho)
      obtain ⟨hcount, hmod, -⟩ := Mach.dieRetires_words (m := a) (k := k) (d := 0) (by decide)
      rw [← hb] at hcount hmod
      refine ⟨(Mach.event_congr (hkeep (by decide))).trans (hb ▸ Mach.event_dieRetires a k 0), ?_, ?_⟩
      · rw [Mach.counted, hword] at hcount
        rw [Mach.counted]
        exact (congrArg BitVec.toNat (hkeep (by decide))).trans hcount
      · rw [hword] at hmod
        exact (hkeep (by decide)).trans hmod
    · have hkeep {o : Nat} (ho : o < 2 ^ 44) : b.word .sx (item (Pg.die 1) 0 o) = s.m.word .sx (item (Pg.die 1) 0 o) :=
        (Mach.word_of_kept hfirst.2.1 _ (Mach.retireWord_other (by decide) (by decide) ho)).trans (hword _)
      obtain ⟨hcount, hmod, -⟩ := Mach.dieRetires_words (m := b) (k := k) (d := 1) (by decide)
      rw [← ht] at hcount hmod
      refine ⟨ht ▸ Mach.event_dieRetires b k 1, ?_, ?_⟩
      · rw [Mach.counted, hkeep (by decide)] at hcount
        exact hcount
      · rw [hkeep (by decide)] at hmod
        exact hmod
  · have hall := (hfirst.mono (g := fun j => Mach.retireWord 0 j || Mach.retireWord 1 j) fun j hj => by rw [hj, Bool.true_or]).trans
      (hsecond.mono fun j hj => by rw [hj, Bool.or_true])
    refine becomes_of (hall.1.trans (by rw [ha])) ((s.m.kept_of_rf (n := a) (by rw [ha]; rfl) (by rw [ha]) _).trans
      (hall.2.1.mono fun j hj => ?_)) (hall.2.2.trans (by rw [ha]; rfl))
    simp only [Mach.retireWord, List.contains_cons, List.contains_nil, Bool.or_eq_false_iff] at hj ⊢
    tauto

/-- Settles O21: one lemma for each part of the fabric, whose machine is written out where a slot ends. -/
theorem cellsCrossTheFabric : Obligations.CellsCrossTheFabric :=
  ⟨fun _ _ hh hin hout hform hpos hle harr hpart hct hmid hres h1 h2 hf hl =>
      cell_enters hh hin hout hform hpos hle harr hpart hct hmid hres h1 h2 hf hl,
    fun _ _ _ hh hres hmid hform _ _ _ hsegs hstart hp hseq _ _ => cell_released hh hres hmid hform hsegs hstart hp hseq,
    ⟨fun _ _ _ ht hres htile hp hh => gap_passed ht hres htile hp hh, fun _ h => tiles_leave h⟩,
    ⟨fun _ _ hk hfail hbit => module_fails hk hfail hbit, fun _ _ _ _ hfail h0 _ hn => module_retires hfail h0 hn⟩⟩

end Sys2Proof.Machine
end

section
/-! Optical engines: what a link that goes down, a ring and a pair leave of the light of an engine (R508, R518, R522). -/

set_option Elab.async false

namespace Sys2Proof.Machine
open Sys2Proof

namespace Mach
variable {m n : Mach}

/-! ### What a link leaves to the engines -/

/-- A word that stands neither on the Guard page nor on an OCU page. -/
def foreignWord (k : Nat) : Bool := !(itemPage k == Pg.guard || decide (Pg.ocu 0 ≤ itemPage k ∧ itemPage k < Pg.ocu 9))

/-- What the pairs of the engines read beside the register file. -/
def sight (m : Mach) := (m.pairs, m.oeng, m.chatter, m.time, m.boot, m.epParams)

/-- From `m` to `n` links, packets and groups change: neither the Guard's words, nor the engines', nor their pairs. -/
structure aloof (m n : Mach) : Prop where
  regs : m.regsKept n .sx foreignWord
  sight : n.sight = m.sight

theorem aloof_refl (m : Mach) : m.aloof m := ⟨.refl .., rfl⟩

theorem aloof.trans {o : Mach} (h : m.aloof n) (g : n.aloof o) : m.aloof o := ⟨h.regs.trans g.regs, g.sight.trans h.sight⟩

theorem sight_of_bare (h : n.bare = m.bare) : n.sight = m.sight := by
  have hs : n.bare.sight = m.bare.sight := by rw [h]
  exact hs

theorem kept_mono {c : Chip} {f g : Nat → Bool} (h : m.regsKept n c f) (hfg : ∀ k, f k = true → g k = true) : m.regsKept n c g :=
  h.mono fun k hk => by
    cases hf : f k with
    | false => rfl
    | true => rw [hfg k hf] at hk; exact hk

theorem aloof_of_touches {f : Nat → Bool} (h : m.touches n .sx f) (hf : ∀ k, f k = true → foreignWord k = true) : m.aloof n :=
  ⟨kept_mono h.2.1 hf, sight_of_bare h.1⟩

theorem aloof_of_same (h : n.rf .sx = m.rf .sx) (hs : n.sight = m.sight) : m.aloof n :=
  ⟨kept_of_rf h (congrArg (fun x => x.2.2.2.2.2) hs) _, hs⟩

theorem aloof_foldl {α : Type} (f : Mach → α → Mach) (hf : ∀ n a, Mach.aloof n (f n a)) (l : List α) (m : Mach) : m.aloof (l.foldl f m) :=
  foldl_inv (fun n => m.aloof n) f (fun n a hn => hn.trans (hf n a)) l (aloof_refl m)

/-- A page of neither kind. -/
def foreignPage (p : Nat) : Prop := p ≠ Pg.guard ∧ (p < Pg.ocu 0 ∨ Pg.ocu 9 ≤ p)

theorem foreign_item {p u a : Nat} (hp : foreignPage p) (ha : a < 2 ^ 44) (hu : u < 16) : foreignWord (item p u a) = true := by
  obtain ⟨hguard, hocu⟩ := hp
  rw [foreignWord, item_page _ _ _ ha hu, beq_false_of_ne hguard, decide_eq_false (by omega)]
  rfl

theorem foreign_of_page {k : Nat} (h : foreignPage (itemPage k)) : foreignWord k = true := by
  obtain ⟨hguard, hocu⟩ := h
  rw [foreignWord, beq_false_of_ne hguard, decide_eq_false (by omega)]
  rfl

theorem foreign_event {p k : Nat} (hp : foreignPage p) (h : eventWord p k = true) : foreignWord k = true := by
  simp only [eventWord, Bool.or_eq_true, Bool.and_eq_true, beq_iff_eq] at h
  obtain h | ⟨⟨h, -⟩, -⟩ := h
  · exact foreign_of_page (h ▸ ⟨by decide, .inl (by decide)⟩)
  · exact foreign_of_page (h ▸ hp)

theorem foreign_fault {k : Nat} (h : faultWord k = true) : foreignWord k = true := by
  rw [faultWord, Bool.or_eq_true] at h
  obtain h | h := h
  · simp only [List.contains_eq_mem, List.mem_cons, List.not_mem_nil, or_false, decide_eq_true_eq] at h
    obtain rfl | rfl | rfl | rfl := h <;> decide
  · exact foreign_event ⟨by decide, .inl (by decide)⟩ h

theorem port_foreign {p : Nat} (hp : p < 144) : foreignPage (portPage p) := by
  unfold foreignPage portPage Pg.port Pg.guard Pg.ocu
  omega

theorem aloof_raise {p : Nat} (hp : foreignPage p) (b d : Nat) : m.aloof (m.raise .sx p b d) :=
  aloof_of_touches (touches_raise ..) fun _ => foreign_event hp

theorem aloof_bumpBy {p o : Nat} (hp : foreignPage p) (ho : o < 2 ^ 44) (k : Nat) : m.aloof (m.bumpBy .sx p o k) :=
  aloof_of_touches (touches_setWord _ _ _ _ (f := fun k => k == item p 0 o) (beq_self_eq_true _)) fun k hk => by
    rw [beq_iff_eq] at hk
    exact hk ▸ foreign_item hp ho (by decide)

theorem aloof_of_faults (h : m.faults n) : m.aloof n := by
  have hs : n.bare.sight = m.bare.sight := by rw [h.bare]; rfl
  exact ⟨kept_mono h.regs fun _ => foreign_fault, hs⟩

theorem aloof_setLk (m : Mach) (p : Nat) (l : Link) : m.aloof (m.setLk .sx p l) := aloof_of_same (rf_setLk ..) rfl
theorem aloof_updLk (m : Mach) (p : Nat) (g : Link → Link) : m.aloof (m.updLk .sx p g) := aloof_setLk ..
theorem aloof_emit (m : Mach) (o : Out) : m.aloof (m.emit o) := aloof_of_same (rf_emit ..) rfl
theorem aloof_removeHeld (m : Mach) (id : Nat) : m.aloof (m.removeHeld id) := aloof_of_same rfl rfl
theorem aloof_setCgrp (m : Mach) (g : Nat) (x : CGroup) : m.aloof (m.setCgrp g x) := aloof_of_same rfl rfl
theorem aloof_pleatEmptied (m : Mach) (gk reason : Nat) : m.aloof (m.pleatEmptied gk reason) := aloof_of_same rfl rfl

theorem aloof_pfault (m : Mach) (key reason : Nat) : m.aloof (m.pfault key reason) := aloof_of_faults (faults_pfault ..)

theorem aloof_pfaultKeys (m : Mach) (keys : List Nat) (reason : Nat) : m.aloof (m.pfaultKeys keys reason) :=
  aloof_of_faults (faults_pfaultKeys ..)

theorem aloof_dropHeld (m : Mach) (h : Held) : m.aloof (m.dropHeld h) := by
  refine aloof_of_same (rf_giveCredit ..) ?_
  unfold dropHeld giveCredit
  split
  · rfl
  · split <;> rfl

theorem aloof_pleatFault (m : Mach) (gk reason : Nat) : m.aloof (m.pleatFault gk reason) := by
  obtain ⟨d, k, hdo⟩ := m.pleatFault_eq gk reason
  have hpage : foreignPage Pg.pleat := ⟨by decide, .inr (by decide)⟩
  rw [hdo]
  split
  · exact aloof_refl m
  · exact ((((aloof_foldl _ aloof_dropHeld _ m).trans (aloof_pleatEmptied ..)).trans (aloof_bumpBy hpage (by decide) 1)).trans
      (aloof_raise hpage ..)).trans (aloof_pfault ..)

theorem aloof_cuffFault (m : Mach) (g reason : Nat) : m.aloof (m.cuffFault g reason) := by
  have hpage : foreignPage Pg.cuff := ⟨by decide, .inr (by decide)⟩
  unfold cuffFault
  split
  · exact aloof_refl m
  · exact ((((aloof_foldl _ (fun n (h : Held) => aloof_removeHeld n h.id) _ m).trans (aloof_setCgrp ..)).trans
      (aloof_bumpBy hpage (by decide) 1)).trans (aloof_raise hpage ..)).trans (aloof_pfault ..)

theorem aloof_setTFld (m : Mach) {p u q e : Nat} (f : Fld) (v : Nat) (hp : foreignPage p) (hu : u < 16) (hq : q * e + f.off < 2 ^ 44) :
    m.aloof (m.setTFld .sx p u q e f v) :=
  aloof_of_touches (touches_setTFld _ _ _ _ _ _ _ _ (g := fun k => k == item p u (q * e + f.off)) (beq_self_eq_true _))
    fun k hk => by
      rw [beq_iff_eq] at hk
      exact hk ▸ foreign_item hp hq hu

theorem aloof_pairVerdict (m : Mach) {i : Nat} (st code : Nat) (hi : i < 8) : m.aloof (m.pairVerdict i st code) := by
  have hpage : foreignPage Pg.gusset := ⟨by decide, .inr (by decide)⟩
  have hstate : 8 * i + F.pairStat_state.off < 2 ^ 44 := by simp [F.pairStat_state]; omega
  have hcode : 8 * i + F.pairStat_code.off < 2 ^ 44 := by simp [F.pairStat_code]; omega
  exact ((aloof_setTFld m F.pairStat_state st hpage (by decide) hstate).trans
    (aloof_setTFld _ F.pairStat_code code hpage (by decide) hcode)).trans (aloof_raise hpage ..)

theorem aloof_gussetPortDown (m : Mach) (p : Nat) : m.aloof (m.gussetPortDown p) :=
  List.foldlRecOn (motive := fun n => m.aloof n) _ _ (aloof_refl m) fun n hn i hi => by
    split
    · exact hn.trans (aloof_pairVerdict n 3 7 (List.mem_range.1 hi))
    · exact hn

theorem aloof_showLanes (m : Mach) {p : Nat} (hp : p < 144) : m.aloof (m.showLanes .sx p) :=
  aloof_of_touches (touches_showLanes ..) fun k hk => by
    simp only [laneWord, Bool.and_eq_true, List.any_eq_true, List.mem_range, beq_iff_eq] at hk
    obtain ⟨-, i, hi, rfl⟩ := hk
    exact foreign_item ⟨by unfold Pg.serdes Pg.guard; omega, .inl (by unfold Pg.serdes Pg.ocu; omega)⟩ (by omega) (by decide)

theorem aloof_sendTraining (m : Mach) (p : Nat) (x : Ctl) : m.aloof (m.sendTraining .sx p x) := (aloof_setLk ..).trans (aloof_emit ..)

theorem aloof_sendCap (m : Mach) (p : Nat) (b : Bool) : m.aloof (m.sendCap .sx p b) := by
  unfold sendCap
  split
  · exact aloof_refl m
  · exact aloof_sendTraining ..

section
variable {p : Nat} (hp : p < 144)
include hp

theorem aloof_restart (m : Mach) : m.aloof (m.restart .sx p) := by
  obtain ⟨l, -, hdo⟩ := m.restart_sx p
  rw [hdo]
  split
  · exact ((aloof_setLk ..).trans (aloof_showLanes _ hp)).trans (aloof_sendCap ..)
  · exact (aloof_setLk ..).trans (aloof_showLanes _ hp)

/-- A packet that is cut off before it is sent on is dropped. -/
theorem aloof_truncated (m : Mach) (l : Link) : m.aloof (m.truncated .sx p l) := by
  have hcount (n : Mach) : n.aloof (n.bump .sx (portPage p) R.prtRxTruncCnt) := aloof_bumpBy (port_foreign hp) (by decide) 1
  unfold truncated
  split
  · exact aloof_refl m
  · dsimp only
    split
    · rename_i h hfind
      split
      · exact aloof_refl m
      · rename_i hstart
        have hbreak : m.breakPacket h.id = m.dropHeld h := by
          obtain ⟨id, -, hid⟩ := Option.bind_eq_some_iff.1 hfind
          have hsame : m.findHeld h.id = some h := by
            have := List.find?_some hid
            rw [beq_iff_eq] at this
            rw [this]
            exact hid
          unfold breakPacket
          rw [hsame]
          exact if_neg hstart
        rw [hbreak]
        exact ((aloof_dropHeld ..).trans (hcount _)).trans (aloof_pfaultKeys ..)
    · split
      · exact (hcount _).trans (aloof_pfaultKeys ..)
      · exact hcount _

theorem aloof_holdStart (m : Mach) : m.aloof (m.holdStart p) := by
  have hdrop (n : Mach) (h : Held) : n.aloof ((n.dropHeld h).bump .sx (Pg.port p) R.prtFlushPktCnt) :=
    (aloof_dropHeld n h).trans (aloof_bumpBy (port_foreign hp) (by decide) 1)
  unfold holdStart
  extract_lets part a b r
  have hb : m.aloof b := (aloof_foldl _ hdrop part m).trans (aloof_pfaultKeys ..)
  split
  · exact hb.trans (aloof_of_same rfl rfl)
  · exact hb

theorem aloof_lostOnLink (m : Mach) (l : Link) : m.aloof (m.lostOnLink .sx p l) :=
  (aloof_bumpBy (port_foreign hp) (by decide) _).trans (aloof_pfaultKeys ..)

theorem aloof_linkDown (m : Mach) : m.aloof (m.linkDown .sx p) := by
  by_cases hup : (m.lk .sx p).st = .up
  · rw [linkDown_sx m p hup]
    have hcount := aloof_bumpBy (m := m) (port_foreign hp) (by decide : R.prtLinkDownCnt < 2 ^ 44) 1
    have hpleat (n : Mach) : n.aloof (n.pleatPortDown p) := aloof_foldl _ (fun n g => aloof_pleatFault n g _) _ n
    have hcuff (n : Mach) : n.aloof (n.cuffPortDown p) := aloof_foldl _ (fun n g => aloof_cuffFault n g _) _ n
    refine aloof.trans ?_ (aloof_restart hp _)
    refine aloof.trans ?_ (aloof_lostOnLink hp ..)
    refine aloof.trans ?_ (aloof_gussetPortDown ..)
    refine ((aloof.trans ?_ (aloof_holdStart hp _)).trans (hpleat _)).trans (hcuff _)
    exact ((hcount.trans (aloof_raise (port_foreign hp) ..)).trans (aloof_setLk ..)).trans (aloof_truncated hp ..)
  · rw [linkDown, if_pos hup]
    exact aloof_restart hp m

theorem aloof_narrowTo (m : Mach) (mask : Nat) : m.aloof (m.narrowTo .sx p mask) := by
  unfold narrowTo
  split
  · exact aloof_linkDown hp m
  · exact (aloof_updLk ..).trans (aloof_sendTraining ..)

theorem aloof_laneFails (m : Mach) (lane : Nat) : m.aloof (m.laneFails .sx p lane) := by
  unfold laneFails
  dsimp only
  split
  · exact ((aloof_updLk ..).trans (aloof_showLanes _ hp)).trans (aloof_narrowTo hp ..)
  · exact aloof_refl m

end

end Mach
end Sys2Proof.Machine
end

section
/-! The light of an engine: what its rings and pairs change of it (R508, R514, R518, R522, R525). -/

set_option Elab.async false

namespace Sys2Proof.Machine
open Sys2Proof

/-- OCU_ENG_STATUS of an engine. -/
def statusItem (e : Nat) : Nat := item (ocuPage e) 0 (R.ocuEngStatus (e % 4))

/-- The words that an engine's frames read and no ring or pair changes: the Guard's, OCU_ENG_CTRL, the module's status and
the count of bad frames. -/
def opticWord (e k : Nat) : Bool := itemPage k == Pg.guard || [item (ocuPage e) 0 (F.ocuEngCtrl_mode (e % 4)).off,
  item (ocuPage e) 0 (F.ocuElsStatus_fault (e / 2 % 2)).off, item (ocuPage e) 0 R.ocuCtlCrcCnt].contains k

/-- The fields of OCU_ENG_STATUS that rings keep: all but the number of locked ones. -/
def ringless (lo w : Nat) : Prop := lo + w ≤ 7 ∨ 13 ≤ lo

/-- Those that pair `f` keeps: its state is another's neighbour. -/
def pairless (f lo w : Nat) : Prop := ringless lo w ∧ (lo + w ≤ 13 + 3 * f ∨ 16 + 3 * f ≤ lo)

/-- Those that the pairs beside `f` keep: its state, and what is no pair's. -/
def fibreOf (f lo w : Nat) : Prop := lo + w ≤ 7 ∨ 25 ≤ lo ∨ (lo = 13 + 3 * f ∧ w = 3)

theorem pairless_of_fibre {f g lo w : Nat} (hg : g < 4) (hne : g ≠ f) (h : fibreOf f lo w) : pairless g lo w := by
  unfold fibreOf at h
  unfold pairless ringless
  omega

theorem ocuPage_lt {e : Nat} (he : e < 36) : Pg.ocu 0 ≤ ocuPage e ∧ ocuPage e < Pg.ocu 9 ∧ ocuPage e ≠ Pg.guard ∧ ocuPage e ≠ Pg.trace := by
  unfold ocuPage Pg.ocu Pg.guard Pg.trace
  omega

namespace Mach
variable {e : Nat} {P Q : Nat → Prop} {S T : Nat → Nat → Prop} {m n : Mach}

/-- What frames read beside the register file and the pairs. -/
def outlook (m : Mach) := (m.oeng, m.chatter, m.time, m.boot, m.epParams)

theorem outlook_of_bare (h : n.bare = m.bare) : n.outlook = m.outlook := by
  have ho : n.bare.outlook = m.bare.outlook := by rw [h]
  exact ho

theorem pairOpt_of_bare (h : n.bare = m.bare) (f : Nat) : n.pairOpt e f = m.pairOpt e f := by
  have hp : n.bare.pairOpt e f = m.bare.pairOpt e f := by rw [h]
  exact hp

/-- From `m` to `n` the light of engine `e` changes in the records of the pairs `P` and in the fields of its status beside `S`. -/
structure lights (e : Nat) (P : Nat → Prop) (S : Nat → Nat → Prop) (m n : Mach) : Prop where
  regs : m.regsKept n .sx (fun k => !opticWord e k)
  outlook : n.outlook = m.outlook
  event : m.event .sx (ocuPage e) 1 = true → n.event .sx (ocuPage e) 1 = true
  pair : ∀ g, g < 4 → ¬ P g → n.pairOpt e g = m.pairOpt e g
  status : ∀ lo w, S lo w → bitsOf (n.word .sx (statusItem e)).toNat lo w = bitsOf (m.word .sx (statusItem e)).toNat lo w

theorem lights_refl (m : Mach) : lights e P S m m := ⟨.refl .., rfl, id, fun _ _ _ => rfl, fun _ _ _ => rfl⟩

theorem lights.trans {o : Mach} (h : lights e P S m n) (g : lights e P S n o) : lights e P S m o where
  regs := h.regs.trans g.regs
  outlook := g.outlook.trans h.outlook
  event he := g.event (h.event he)
  pair i hi hf := (g.pair i hi hf).trans (h.pair i hi hf)
  status lo w hs := (g.status lo w hs).trans (h.status lo w hs)

theorem lights.mono (h : lights e P S m n) (hf : ∀ g, P g → Q g) (hs : ∀ lo w, T lo w → S lo w) : lights e Q T m n :=
  ⟨h.regs, h.outlook, h.event, fun g hg hn => h.pair g hg fun hP => hn (hf g hP), fun lo w ht => h.status lo w (hs lo w ht)⟩

theorem lights_foldl {α : Type} {step : Mach → α → Mach} {l : List α} (h : ∀ n, ∀ a ∈ l, lights e P S n (step n a)) (m : Mach) :
    lights e P S m (l.foldl step m) :=
  List.foldlRecOn (motive := fun n => lights e P S m n) l step (lights_refl m) fun n hn a ha => hn.trans (h n a ha)

/-! ### Words -/

theorem optic_cases {k : Nat} (h : opticWord e k = true) : itemPage k = Pg.guard ∨ ∃ o, o < 2 ^ 44 ∧ k = item (ocuPage e) 0 o ∧
    o ≠ R.ocuEngStatus (e % 4) ∧ [R.intStatus, R.errLog0, R.errLog1, R.errLog2, R.errLog3].contains o = false := by
  rw [opticWord, Bool.or_eq_true, beq_iff_eq] at h
  refine h.imp id fun hmem => ?_
  simp only [List.contains_cons, List.contains_nil, Bool.or_false, Bool.or_eq_true, beq_iff_eq] at hmem
  have hslot := Nat.mod_lt e (by decide : 0 < 4)
  have hmod := Nat.mod_lt (e / 2) (by decide : 0 < 2)
  obtain rfl | rfl | rfl := hmem
  · refine ⟨_, ?_, rfl, ?_, ?_⟩
    · simp [F.ocuEngCtrl_mode]; omega
    · simp only [F.ocuEngCtrl_mode, R.ocuEngStatus]; omega
    · generalize e % 4 = x at hslot
      interval_cases x <;> rfl
  · refine ⟨_, ?_, rfl, ?_, ?_⟩
    · simp [F.ocuElsStatus_fault]; omega
    · simp only [F.ocuElsStatus_fault, R.ocuEngStatus]; omega
    · generalize e / 2 % 2 = x at hmod
      interval_cases x <;> rfl
  · refine ⟨_, by decide, rfl, ?_, by decide⟩
    simp only [R.ocuCtlCrcCnt, R.ocuEngStatus]
    omega

theorem opticWord_direct {o : Nat} (ho : o < 2 ^ 44) (he : e < 36)
    (h : [(F.ocuEngCtrl_mode (e % 4)).off, (F.ocuElsStatus_fault (e / 2 % 2)).off, R.ocuCtlCrcCnt].contains o = false) :
    opticWord e (item (ocuPage e) 0 o) = false := by
  have hctrl : (F.ocuEngCtrl_mode (e % 4)).off < 2 ^ 44 := by simp [F.ocuEngCtrl_mode]; omega
  have hels : (F.ocuElsStatus_fault (e / 2 % 2)).off < 2 ^ 44 := by simp [F.ocuElsStatus_fault]; omega
  simp only [List.contains_cons, List.contains_nil, Bool.or_false, Bool.or_eq_false_iff, beq_eq_false_iff_ne] at h
  rw [opticWord, item_page _ _ _ ho (by decide), beq_false_of_ne (ocuPage_lt he).2.2.1]
  simp only [List.contains_cons, List.contains_nil, Bool.or_false, Bool.false_or, Bool.or_eq_false_iff, beq_eq_false_iff_ne, ne_eq,
    item_direct_inj ho hctrl, item_direct_inj ho hels, item_direct_inj ho (by decide : R.ocuCtlCrcCnt < 2 ^ 44), true_and]
  exact h

theorem opticWord_table {u a : Nat} (hu : u < 16) (hu0 : u ≠ 0) (ha : a < 2 ^ 44) (he : e < 36) :
    opticWord e (item (ocuPage e) u a) = false := by
  have hne {o : Nat} (ho : o < 2 ^ 44) : item (ocuPage e) u a ≠ item (ocuPage e) 0 o := fun h =>
    hu0 ((item_inj ha ho hu (by decide)).1 h).2.1
  rw [opticWord, item_page _ _ _ ha hu, beq_false_of_ne (ocuPage_lt he).2.2.1]
  simp only [List.contains_cons, List.contains_nil, Bool.or_false, Bool.false_or, Bool.or_eq_false_iff, beq_eq_false_iff_ne]
  exact ⟨hne (by simp [F.ocuEngCtrl_mode]; omega), hne (by simp [F.ocuElsStatus_fault]; omega), hne (by decide)⟩

/-- Words that leave the light alone. -/
def dimWord (e k : Nat) : Prop := opticWord e k = false ∧ k ≠ statusItem e ∧ k ≠ item (ocuPage e) 0 R.intStatus

theorem lights_of_touches {f : Nat → Bool} (h : m.touches n .sx f) (hf : ∀ k, f k = true → dimWord e k) : lights e P S m n where
  regs := kept_mono h.2.1 fun k hk => by rw [(hf k hk).1]; rfl
  outlook := outlook_of_bare h.1
  event he := (event_congr (h.2.1.2 _ (Bool.eq_false_iff.2 fun hk => (hf _ hk).2.2 rfl))).trans he
  pair g _ _ := pairOpt_of_bare h.1 g
  status lo w _ := by rw [h.2.1.2 _ (Bool.eq_false_iff.2 fun hk => (hf _ hk).2.1 rfl)]

theorem lights_setWord {k : Nat} (h : dimWord e k) (v : Word) : lights e P S m (m.setWord .sx k v) :=
  lights_of_touches (touches_setWord _ _ _ _ (f := fun j => j == k) (beq_self_eq_true k)) fun j hj => by
    rw [beq_iff_eq] at hj
    exact hj ▸ h

theorem dimWord_direct {o : Nat} (ho : o < 2 ^ 44) (he : e < 36) (h : 0x810 ≤ o ∧ o < 0x830 ∨ o = 0x900 ∨ 0x908 ≤ o) :
    dimWord e (item (ocuPage e) 0 o) := by
  refine ⟨opticWord_direct ho he ?_, fun hk => ?_, fun hk => ?_⟩
  · simp only [List.contains_cons, List.contains_nil, Bool.or_false, Bool.or_eq_false_iff, beq_eq_false_iff_ne,
      F.ocuEngCtrl_mode, F.ocuElsStatus_fault, R.ocuCtlCrcCnt]
    omega
  · have := ((item_direct_inj ho (by simp only [R.ocuEngStatus]; omega)).1 hk).2
    simp only [R.ocuEngStatus] at this
    omega
  · have := ((item_direct_inj ho (by decide)).1 hk).2
    simp only [R.intStatus] at this
    omega

theorem dimWord_table {u a : Nat} (hu : u < 16) (hu0 : u ≠ 0) (ha : a < 2 ^ 44) (he : e < 36) : dimWord e (item (ocuPage e) u a) :=
  ⟨opticWord_table hu hu0 ha he,
    fun h => hu0 ((item_inj ha (by simp [R.ocuEngStatus]; omega) hu (by decide)).1 h).2.1,
    fun h => hu0 ((item_inj ha (by decide) hu (by decide)).1 h).2.1⟩

theorem lights_of_aloof (he : e < 36) (h : m.aloof n) : lights e P S m n := by
  have hword {o : Nat} (ho : o < 2 ^ 44) : n.word .sx (item (ocuPage e) 0 o) = m.word .sx (item (ocuPage e) 0 o) :=
    h.regs.2 _ (by
      have := ocuPage_lt he
      rw [foreignWord, item_page _ _ _ ho (by decide), decide_eq_true ⟨this.1, this.2.1⟩, Bool.or_true]
      rfl)
  refine ⟨h.regs.mono fun k hk => ?_, ?_, fun hev => (event_congr (hword (by decide))).trans hev, fun g _ _ => ?_, fun lo w _ => ?_⟩
  · have hoptic : opticWord e k = true := by
      cases hb : opticWord e k with
      | true => rfl
      | false => rw [hb] at hk; exact absurd hk (by decide)
    have hpage : itemPage k = Pg.guard ∨ itemPage k = ocuPage e :=
      (optic_cases hoptic).imp id fun ⟨_, ho, hk, _, _⟩ => hk ▸ item_page _ _ _ ho (by decide)
    rw [foreignWord]
    obtain hp | hp := hpage
    · rw [hp]; rfl
    · have := ocuPage_lt he
      rw [hp, decide_eq_true ⟨this.1, this.2.1⟩, Bool.or_true]
      rfl
  · exact congrArg (fun x => x.2) h.sight
  · exact congrArg (fun x => Tbl.get (fun _ => {}) x.1 (4 * e + g)) h.sight
  · rw [statusItem, hword (by simp [R.ocuEngStatus]; omega)]

theorem lights_raise (he : e < 36) (b d : Nat) : lights e P S m (m.raise .sx (ocuPage e) b d) := by
  have hkeep := (touches_raise m .sx (ocuPage e) b d).2.1
  refine ⟨hkeep.mono fun k hk => ?_, ?_, fun hev => event_raise _ _ _ _ _ _ _ (by decide) (.inl hev), fun g _ _ => ?_, fun lo w _ => ?_⟩
  · have hoptic : opticWord e k = true := by
      cases hb : opticWord e k with
      | true => rfl
      | false => rw [hb] at hk; exact absurd hk (by decide)
    obtain hpage | ⟨o, ho, rfl, -, hreg⟩ := optic_cases hoptic
    · rw [eventWord, hpage, beq_false_of_ne (ocuPage_lt he).2.2.1.symm]
      rfl
    · exact eventWord_none _ _ _ ho (ocuPage_lt he).2.2.2 hreg
  · exact outlook_of_bare (raise_bare ..)
  · exact pairOpt_of_bare (raise_bare ..) g
  · have hslot := Nat.mod_lt e (by decide : 0 < 4)
    rw [statusItem, word_raise _ _ _ _ _ _ (eventWord_none _ _ _ (by simp [R.ocuEngStatus]; omega) (ocuPage_lt he).2.2.2 (by
      generalize e % 4 = x at hslot
      interval_cases x <;> rfl))]

theorem status_lt (e : Nat) : R.ocuEngStatus (e % 4) < 2 ^ 44 := by
  have hslot := Nat.mod_lt e (by decide : 0 < 4)
  simp only [R.ocuEngStatus]
  omega

theorem optic_status (he : e < 36) : opticWord e (statusItem e) = false := by
  rw [Bool.eq_false_iff]
  intro hoptic
  obtain hpage | ⟨o, ho, hitem, hne, -⟩ := optic_cases hoptic
  · rw [statusItem, item_page _ _ _ (status_lt e) (by decide)] at hpage
    exact (ocuPage_lt he).2.2.1 hpage
  · exact hne ((item_direct_inj (status_lt e) ho).1 hitem).2.symm

theorem status_ne_event (e : Nat) : item (ocuPage e) 0 R.intStatus ≠ statusItem e := fun h =>
  absurd ((item_direct_inj (by decide) (status_lt e)).1 h).2 (by simp only [R.intStatus, R.ocuEngStatus]; omega)

/-- Setting a field of the status keeps the others. -/
theorem lights_setStatus (he : e < 36) {f : Fld} (hoff : f.off = R.ocuEngStatus (e % 4)) (hf : f.lo + f.w ≤ 32) (v : Nat)
    (hs : ∀ lo w, S lo w → lo + w ≤ f.lo ∨ f.lo + f.w ≤ lo) : lights e P S m (m.setFld .sx (ocuPage e) f v) := by
  obtain ⟨k, hk⟩ : ∃ k, k = statusItem e := ⟨_, rfl⟩
  have hitem : item (ocuPage e) 0 f.off = k := by rw [hoff, hk, statusItem]
  have htouch := touches_setFld m .sx (ocuPage e) f v (g := fun j => j == k) (by rw [hitem]; exact beq_self_eq_true k)
  refine ⟨htouch.2.1.mono fun j hj => beq_false_of_ne ?_, ?_, fun hev => (event_congr (htouch.2.1.2 _ (beq_false_of_ne ?_))).trans hev,
    fun g _ _ => ?_, fun lo w hS => ?_⟩
  · rintro rfl
    rw [hk, optic_status he] at hj
    exact absurd hj (by decide)
  · exact outlook_of_bare (setFld_bare ..)
  · exact hk ▸ status_ne_event e
  · exact pairOpt_of_bare (setFld_bare ..) g
  · rw [word_setFld, hitem, ← hk, if_pos rfl]
    exact bitsOf_withField_other _ _ _ _ _ _ hf (hs lo w hS)

theorem lights_updRing (e' r : Nat) (f : RingRun → RingRun) : lights e P S m (m.updRing e' r f) :=
  ⟨⟨rfl, fun _ _ => rfl⟩, rfl, id, fun _ _ _ => rfl, fun _ _ _ => rfl⟩

theorem lights_updPair {f : Nat} (hf : P f) (g : PairOpt → PairOpt) : lights e P S m (m.updPair e f g) :=
  ⟨⟨rfl, fun _ _ => rfl⟩, rfl, id, fun i hi hn => by
    rw [pairOpt, updPair]
    refine (Tbl.get_modify ..).trans (if_neg ?_)
    rintro h
    exact hn (by rwa [show i = f by omega]), fun _ _ _ => rfl⟩

theorem lights_bump (he : e < 36) {o : Nat} (h : 0x810 ≤ o ∧ o < 0x830 ∨ o = 0x900 ∨ 0x908 ≤ o) (ho : o < 2 ^ 44) :
    lights e P S m (m.bump .sx (ocuPage e) o) := lights_setWord (dimWord_direct ho he h) _

theorem lights_setFld (he : e < 36) (f : Fld) (h : 0x810 ≤ f.off ∧ f.off < 0x830) (v : Nat) :
    lights e P S m (m.setFld .sx (ocuPage e) f v) := lights_setWord (dimWord_direct (by omega) he (.inl h)) _

theorem lights_setTWord (he : e < 36) {u a : Nat} (hu : u < 16) (hu0 : u ≠ 0) (ha : a < 2 ^ 44) (v : Nat) :
    lights e P S m (m.setTWord .sx (ocuPage e) u a v) := lights_setWord (dimWord_table hu hu0 ha he) _

theorem lights_setTFld (he : e < 36) {u q i : Nat} (f : Fld) (hu : u < 16) (hu0 : u ≠ 0) (ha : q * i + f.off < 2 ^ 44) (v : Nat) :
    lights e P S m (m.setTFld .sx (ocuPage e) u q i f v) := lights_setWord (dimWord_table hu hu0 ha he) _

/-! ### Rings -/

section
variable (he : e < 36)
include he

theorem turns_ringTo {r : Nat} (hr : r < 32) (st h : Nat) : lights e P ringless m (m.ringTo e r st h) := by
  have hport : 4 * e + r % 16 / 4 < 144 := by omega
  have hrow : 8 * ringIdx e r + 4 < 2 ^ 44 := by unfold ringIdx; omega
  unfold ringTo
  extract_lets p was old a n b is c
  have ha : lights e P ringless m a := lights_setTWord he (by decide) (by decide) hrow _
  have hb : lights e P ringless a b := lights_setStatus he rfl (by simp [F.ocuEngStatus_locked]) _ fun lo w h => by
    unfold ringless at h
    simp only [F.ocuEngStatus_locked]
    omega
  have hc : lights e P ringless b c := lights_foldl (fun x k _ => by
    split
    · exact lights_of_aloof he (aloof_laneFails hport x k)
    · exact lights_refl x) b
  split
  · exact ha
  · split
    · exact ((ha.trans hb).trans hc).trans (lights_of_aloof he (aloof_sendCap ..))
    · exact (ha.trans hb).trans hc

theorem turns_ringTrack {r : Nat} (hr : r < 32) (h : Nat) : lights e P ringless m (m.ringTrack e r h) :=
  ((lights_updRing ..).trans (lights_updRing ..)).trans (turns_ringTo he hr ..)

theorem turns_ringSweep {r : Nat} (hr : r < 32) : lights e P ringless m (m.ringSweep e r) :=
  (lights_updRing ..).trans (turns_ringTo he hr ..)

theorem turns_ringStart {r : Nat} (hr : r < 32) : lights e P ringless m (m.ringStart e r) := by
  unfold ringStart
  split
  · exact turns_ringSweep he hr
  · exact turns_ringTrack he hr _

theorem turns_ringFit {r : Nat} (hr : r < 32) : lights e P ringless m (m.ringFit e r) := by
  have hto (st h : Nat) : lights e P ringless m (m.ringTo e r st h) := turns_ringTo he hr st h
  unfold ringFit
  extract_lets opened st park heater
  split
  · exact hto ..
  · split
    · split
      · exact hto ..
      · exact hto ..
    · split
      · split
        · exact lights_refl m
        · exact turns_ringStart he hr
      · split
        · exact hto ..
        · exact hto ..

theorem turns_captureSample (r w : Nat) : lights e P S m (m.captureSample e r w) := by
  unfold captureSample
  extract_lets pg n a
  have hn : n < 2 ^ 44 := (Nat.mod_lt _ (by decide : 0 < 2 ^ 9)).trans (by decide)
  have ha : lights e P S m a := (lights_setTWord he (by decide) (by decide) hn _).trans (lights_setFld he _ (by decide) _)
  split
  · split
    · exact ha.trans (lights_setFld he _ (by decide) _)
    · exact ha
  · exact lights_refl m

theorem turns_ringSamples (r i : Nat) (u : UpFrame) (bad : Bool) : lights e P S m (m.ringSamples e r i u bad).1 := by
  unfold ringSamples
  dsimp only
  refine List.foldlRecOn (motive := fun a : Mach × Nat × Nat => lights e P S m a.1) _ _ (lights_updRing ..) fun a ha x _ => ?_
  have hone (run : RingRun) (w : Nat) : lights e P S m ((a.1.updRing e r fun _ => run).captureSample e r w) :=
    (ha.trans (lights_updRing ..)).trans (turns_captureSample he ..)
  rcases a.1.oneSample e r i x.2 x.1 (a.1.ringRun e r) with ⟨run, valid, w⟩
  cases valid with
  | true => exact hone run w
  | false => exact hone run w

omit he in
theorem turns_sweepPeak (r i sum k : Nat) : lights e P S m (m.sweepPeak e r i sum k) := by
  unfold sweepPeak
  extract_lets run
  split
  · exact lights_refl m
  · split
    · exact lights_updRing ..
    · exact lights_refl m

theorem turns_ringLost {r : Nat} (hr : r < 32) : lights e P ringless m (m.ringLost e r) :=
  ((lights_bump he (by decide) (by decide)).trans (lights_raise he ..)).trans (turns_ringSweep he hr)

theorem turns_ringUpdate {r : Nat} (hr : r < 32) : lights e P ringless m (m.ringUpdate e r) := by
  have hto (n : Mach) (st h : Nat) : lights e P ringless n (n.ringTo e r st h) := turns_ringTo he hr st h
  have hset (n : Mach) (g : RingRun → RingRun) : lights e P ringless n (n.updRing e r g) := lights_updRing ..
  unfold ringUpdate
  extract_lets run len y err step step' h inside n a k b
  have ha : lights e P ringless m a := hset ..
  have hb : lights e P ringless m b := hset ..
  split
  · split
    · exact (ha.trans (hset _ _)).trans (hto ..)
    · split
      · exact ha.trans (turns_ringLost he hr)
      · exact ha.trans (hto ..)
  · split
    · exact hb.trans (turns_ringTrack he hr _)
    · exact (hb.trans (hset _ _)).trans (hto ..)

theorem turns_ringFrame {r : Nat} (hr : r < 32) (i : Nat) (u : UpFrame) (bad : Bool) :
    lights e P ringless m (m.ringFrame e r i u bad) := by
  have hsamples : lights e P ringless m (m.ringSamples e r i u bad).1 := turns_ringSamples he ..
  unfold ringFrame
  dsimp only
  split
  · exact hsamples
  · split
    · exact hsamples.trans (turns_sweepPeak ..)
    · split
      · exact hsamples.trans (turns_ringUpdate he hr)
      · exact hsamples

theorem turns_ringCode {r : Nat} (hr : r < 32) (i : Nat) : lights e P ringless m (m.ringCode e r i) := by
  have hto (n : Mach) (st h : Nat) : lights e P ringless n (n.ringTo e r st h) := turns_ringTo he hr st h
  unfold ringCode
  extract_lets a run was b chan
  have hb : lights e P ringless a b := by
    unfold b
    split
    · exact lights_refl a
    · split
      · exact (lights_updRing ..).trans (hto ..)
      · split
        · exact hto ..
        · split
          · exact hto ..
          · exact turns_ringTrack he hr _
  exact ((turns_ringFit he hr).trans hb).trans (lights_updRing ..)

omit he in
/-- Every ring of an engine turns. -/
theorem turns_rings {step : Mach → Nat → Mach} (h : ∀ n r, r < 32 → lights e P ringless n (step n r)) (m : Mach) :
    lights e P ringless m ((List.range 32).foldl step m) := lights_foldl (fun n r hr => h n r (List.mem_range.1 hr)) m

/-! ### Pairs -/

omit he in
/-- A pair's rings do as their pair does. -/
theorem turns_pairRings {f : Nat} (hf : f < 4) {step : Mach → Nat → Mach} (h : ∀ n r, r < 32 → lights e P ringless n (step n r)) (m : Mach) :
    lights e P ringless m ((pairRings f).foldl step m) := by
  refine lights_foldl (fun n r hr => h n r ?_) m
  simp only [pairRings, List.mem_append, List.mem_map, List.mem_range] at hr
  omega

/-- The status word governs as it stands. -/
theorem statusFld (m : Mach) {f : Fld} (hoff : f.off = R.ocuEngStatus (e % 4)) : m.fld .sx (ocuPage e) f = m.stored .sx (ocuPage e) f := by
  have hrws : ∀ q, q < 9 → ∀ s, s < 4 → (info m.epParams .sx (item (Pg.ocu q) 0 (R.ocuEngStatus s))).rws = 0 := by
    intro q hq s hs
    interval_cases q <;> interval_cases s <;> rfl
  have htmr : ∀ q, q < 9 → ∀ s, s < 4 → tmrBits .sx (item (Pg.ocu q) 0 (R.ocuEngStatus s)) = 0 := by decide
  have hq : e / 4 < 9 := by omega
  have hs : e % 4 < 4 := Nat.mod_lt _ (by decide)
  exact fld_eq_stored m .sx (ocuPage e) f (hoff ▸ hrws _ hq _ hs) (hoff ▸ htmr _ hq _ hs)

theorem lights.fld (h : lights e P S m n) {f : Fld} (hoff : f.off = R.ocuEngStatus (e % 4)) (hs : S f.lo f.w) :
    n.fld .sx (ocuPage e) f = m.fld .sx (ocuPage e) f := by
  rw [statusFld he n hoff, statusFld he m hoff, stored, stored, hoff]
  exact h.status _ _ hs

theorem lights.stored (h : lights e P S m n) {f : Fld} (hoff : f.off = R.ocuEngStatus (e % 4)) (hs : S f.lo f.w) :
    n.stored .sx (ocuPage e) f = m.stored .sx (ocuPage e) f := by
  rw [← statusFld he n hoff, ← statusFld he m hoff]
  exact h.fld he hoff hs

/-- A pair's state as its field was set. -/
theorem eyeState_setFld (m : Mach) {st : Nat} (hst : st < 8) (f : Nat) (hf : f < 4) :
    (m.setFld .sx (ocuPage e) (pairFld (e % 4) f) st).eyeState e f = st := by
  rw [eyeState, statusFld he _ rfl, stored_setFld _ _ _ _ _ (by simp only [pairFld]; omega)]
  exact Nat.mod_eq_of_lt hst

theorem lights.eye (h : lights e P S m n) {f : Nat} (hs : S (13 + 3 * f) 3) : n.eyeState e f = m.eyeState e f := h.fld he rfl hs

/-- A pair that takes no new state keeps its light. -/
theorem lights_judgeConnector {f : Nat} (hf : P f) (hlt : f < 4) : lights e P ringless m (m.judgeConnector e f) := by
  have hset (n : Mach) (fld : Fld) (hoff : fld.off < 2) (v : Nat) :
      lights e P ringless n (n.setTFld .sx (ocuPage e) 4 2 (4 * (e % 4) + f) fld v) :=
    lights_setTFld he _ (by decide) (by decide) (by omega) v
  unfold judgeConnector
  extract_lets o pg i mean base a rise b
  have ha : lights e P ringless m a := hset _ _ (by decide) _
  have hb : lights e P ringless a b := by
    unfold b
    split
    · exact (hset _ _ (by decide) _).trans (lights_raise he ..)
    · exact lights_refl a
  split
  · exact lights_refl m
  · split
    · exact ((hset _ _ (by decide) _).trans (hset _ _ (by decide) _)).trans (lights_updPair hf _)
    · split
      · exact lights_refl m
      · split
        · exact ((ha.trans hb).trans (hset _ _ (by decide) _)).trans (lights_raise he ..)
        · exact ha.trans hb

variable {f : Nat} (hf : f < 4)
include hf

/-- A pair that takes a state has it, and changes no other's light; one that opens no more commands no pulse. -/
theorem pairTo_spec (m : Mach) {st : Nat} (hst : st < 8) (byLos : Bool) :
    lights e (· = f) (pairless f) m (m.pairTo e f st byLos) ∧ (m.pairTo e f st byLos).eyeState e f = st ∧
    (st ≠ 0 → ((m.pairTo e f st byLos).pairOpt e f).pulses = if m.eyeState e f = 0 then [] else (m.pairOpt e f).pulses) := by
  have hport : 4 * e + f < 144 := by omega
  have hown : ringless (13 + 3 * f) 3 := .inr (by omega)
  have hupd (n : Mach) (g : PairOpt → PairOpt) : (n.updPair e f g).pairOpt e f = g (n.pairOpt e f) :=
    (Tbl.get_modify ..).trans (if_pos rfl)
  have hrings {Q : Nat → Prop} (n : Mach) (g : RingRun → RingRun) : lights e Q ringless n
      ((pairRings f).foldl (fun m r => (m.updRing e r g).ringFit e r) n) :=
    turns_pairRings hf (fun n r hr => (lights_updRing ..).trans (turns_ringFit he hr)) n
  have hfits {Q : Nat → Prop} (n : Mach) : lights e Q ringless n ((pairRings f).foldl (fun m r => m.ringFit e r) n) :=
    turns_pairRings hf (fun n r hr => turns_ringFit he hr) n
  unfold pairTo
  extract_lets old pg i a b c d x y z w p
  by_cases hold : m.eyeState e f = st
  · rw [if_pos hold]
    refine ⟨lights_refl m, hold, fun h => ?_⟩
    rw [hold, if_neg h]
  rw [if_neg hold]
  have hset : lights e (· = f) (pairless f) m a := lights_setStatus he rfl (by simp only [pairFld]; omega) _ fun lo w h => by
    unfold pairless at h
    simp only [pairFld]
    omega
  have hb : lights e (· = f) ringless a b := lights_updPair (P := (· = f)) rfl _
  have heye : a.eyeState e f = st := eyeState_setFld he m hst f hf
  have hpulses : (b.pairOpt e f).pulses = (m.pairOpt e f).pulses :=
    (congrArg PairOpt.pulses (hupd a _)).trans (show (a.pairOpt e f).pulses = (m.pairOpt e f).pulses from
      congrArg PairOpt.pulses (pairOpt_of_bare (setFld_bare ..) f))
  have hdone {n : Mach} (h : lights e (· = f) ringless b n) : lights e (· = f) (pairless f) m n ∧ n.eyeState e f = st :=
    ⟨hset.trans ((hb.trans h).mono (fun _ => id) fun lo w hp => hp.1), ((hb.trans h).eye he hown).trans heye⟩
  split
  · rename_i hst0
    have hc : lights e (· = f) ringless b c := (lights_bump he (by decide) (by decide)).trans (lights_judgeConnector he rfl hf)
    have hd : lights e (· = f) ringless c d := lights_updPair (P := (· = f)) rfl _
    obtain ⟨hall, hst'⟩ := hdone ((hc.trans hd).trans (hrings d _))
    exact ⟨hall, hst', fun h => absurd hst0 h⟩
  · rename_i hst0
    split
    · rename_i hopen
      have hx : lights e (· = f) ringless b x := lights_updPair (P := (· = f)) rfl _
      have hy {Q : Nat → Prop} : lights e Q ringless x y := by
        unfold y
        split
        · exact lights_bump he (by decide) (by decide)
        · exact lights_refl x
      have hz {Q : Nat → Prop} : lights e Q ringless y z := lights_raise he ..
      have hend {Q : Nat → Prop} : lights e Q ringless x
          (if (w.lk .sx p).st = .up ∨ (w.lk .sx p).st = .climbing then w.linkDown .sx p else w) := by
        refine ((hy.trans hz).trans (hfits z)).trans ?_
        split
        · exact lights_of_aloof he (aloof_linkDown hport w)
        · exact lights_refl w
      obtain ⟨hall, hst'⟩ := hdone (hx.trans hend)
      exact ⟨hall, hst', fun _ => congrArg PairOpt.pulses (((hend (Q := fun _ => False)).pair f hf id).trans (hupd b _))⟩
    · rename_i hshut
      obtain ⟨hall, hst'⟩ := hdone (lights_refl b)
      exact ⟨hall, hst', fun _ => hpulses⟩

theorem pairOpens_spec (m : Mach) : lights e (· = f) (pairless f) m (m.pairOpens e f) ∧
    (m.chattering (inLos e) = false → (m.pairOpt e f).losFrame ≠ some m.frameNow → (m.pairOpens e f).eyeState e f = 0) := by
  obtain ⟨hclose, -, -⟩ := pairTo_spec he hf m (by decide : 1 < 8) true
  obtain ⟨hopen, heye, -⟩ := pairTo_spec he hf m (by decide : 0 < 8) false
  unfold pairOpens
  split
  · rename_i hc
    exact ⟨lights_refl m, fun h => absurd (h.symm.trans hc) Bool.false_ne_true⟩
  · split
    · rename_i hlos
      exact ⟨hclose, fun _ h => absurd hlos h⟩
    · exact ⟨hopen, fun _ _ => heye⟩

omit he hf in
theorem pairOpt_updPair (m : Mach) (e f : Nat) (g : PairOpt → PairOpt) : (m.updPair e f g).pairOpt e f = g (m.pairOpt e f) :=
  (Tbl.get_modify ..).trans (if_pos rfl)

/-- The record of a pair after an upstream frame. -/
def afterFrame (o : PairOpt) (f i : Nat) (u : UpFrame) : PairOpt :=
  let got : Option Int := if o.counting.contains i then upLevel u f else none
  { o with
    los := upLos u f, hist := (upLight u f :: o.hist).take 12, lastLight := if upLight u f then i else o.lastLight,
    counting := o.counting.filter (i < ·),
    sum := o.sum + got.getD 0, count := if got.isSome then o.count + 1 else o.count }

/-- What an upstream frame does to the state of a pair. -/
def framesTo (m : Mach) (e f : Nat) (u : UpFrame) (st : Nat) : Prop :=
  (m.eyeState e f = 2 → upLight u f = false → st = 2) ∧
  (m.eyeState e f = 2 → upLight u f = true → bitsOf (m.tfld .sx Pg.guard 5 1 e F.laser_bypass) f 1 = 0 → st = 3) ∧
  (m.eyeState e f = 3 → doublePulse ((upLight u f :: (m.pairOpt e f).hist).take 12) = true → st = 4) ∧
  (m.eyeState e f = 3 → doublePulse ((upLight u f :: (m.pairOpt e f).hist).take 12) = false → st = 3) ∧
  (m.eyeState e f = 4 → doublePulse ((upLight u f :: (m.pairOpt e f).hist).take 12) = true →
    m.chattering (inLos e) = false → (m.pairOpt e f).losFrame ≠ some (m.time.number / 200) → st = 0) ∧
  (m.eyeState e f = 0 → upLos u f = true → (m.pairOpt e f).openedAt + 4000 ≤ m.time.number → st = 1) ∧
  (m.eyeState e f = 0 → upLos u f = false → st = 0)

theorem pairFrame_spec (m : Mach) (i : Nat) (u : UpFrame) : lights e (· = f) (pairless f) m (m.pairFrame e f i u) ∧
    m.framesTo e f u ((m.pairFrame e f i u).eyeState e f) := by
  unfold pairFrame
  extract_lets light a o
  have hset : lights e (· = f) (pairless f) m a := lights_updPair (P := (· = f)) rfl _
  have hopt : o = afterFrame (m.pairOpt e f) f i u := pairOpt_updPair m e f _
  have heye : a.eyeState e f = m.eyeState e f := rfl
  have hto (st : Nat) (hst : st < 8) (byLos : Bool) := pairTo_spec he hf a hst byLos
  have hother {x y : Nat} (hx : a.eyeState e f = x) (hne : x ≠ y) {Q : Prop} : m.eyeState e f = y → Q := fun hy =>
    absurd (hx.symm.trans (heye.trans hy)) hne
  split
  · rename_i hst
    have hlos : o.los = upLos u f := by rw [hopt]; rfl
    refine ⟨hset.trans ?_, hother hst (by decide), hother hst (by decide), hother hst (by decide), hother hst (by decide),
      hother hst (by decide), fun _ hl ho => ?_, fun _ hl => ?_⟩
    · split
      · unfold pairLos
        dsimp only
        split
        · exact (hto 1 (by decide) true).1
        · exact lights_refl a
      · exact lights_refl a
    · rw [if_pos (hlos.trans hl), pairLos]
      rw [if_pos ⟨hst, .inl (by change o.openedAt + 4000 ≤ _; rw [hopt]; exact ho)⟩]
      exact (hto 1 (by decide) true).2.1
    · rw [if_neg (by rw [hlos, hl]; exact Bool.false_ne_true)]
      exact hst
  · rename_i hst
    refine ⟨hset.trans ?_, fun _ hl => ?_, fun _ hl hb => ?_, hother hst (by decide), hother hst (by decide),
      hother hst (by decide), hother hst (by decide), hother hst (by decide)⟩
    · split
      · exact lights_refl a
      · split
        · exact (pairOpens_spec he hf a).1
        · exact (hto 3 (by decide) false).1
    · rw [if_pos (by change (!upLight u f) = true; rw [hl]; rfl)]
      exact hst
    · rw [if_neg (by change ¬ (!upLight u f) = true; rw [hl]; exact Bool.false_ne_true),
        if_neg (by change ¬ bitsOf (m.tfld .sx Pg.guard 5 1 e F.laser_bypass) f 1 = 1; rw [hb]; decide)]
      exact (hto 3 (by decide) false).2.1
  · rename_i hst
    have hhist : o.hist = (upLight u f :: (m.pairOpt e f).hist).take 12 := by rw [hopt]; rfl
    refine ⟨hset.trans ?_, hother hst (by decide), hother hst (by decide), fun _ hd => ?_, fun _ hd => ?_, hother hst (by decide),
      hother hst (by decide), hother hst (by decide)⟩
    · split
      · exact (hto 4 (by decide) false).1
      · exact lights_refl a
    · rw [if_pos (by rw [hhist]; exact hd)]
      exact (hto 4 (by decide) false).2.1
    · rw [if_neg (by rw [hhist, hd]; exact Bool.false_ne_true)]
      exact hst
  · rename_i hst
    have hhist : o.hist = (upLight u f :: (m.pairOpt e f).hist).take 12 := by rw [hopt]; rfl
    refine ⟨hset.trans ?_, hother hst (by decide), hother hst (by decide), hother hst (by decide), hother hst (by decide),
      fun _ hd hc hl => ?_, hother hst (by decide), hother hst (by decide)⟩
    · split
      · exact (pairOpens_spec he hf a).1
      · exact lights_refl a
    · rw [if_pos (.inl (by rw [hhist]; exact hd))]
      exact (pairOpens_spec he hf a).2 hc (by change o.losFrame ≠ _; rw [hopt]; exact hl)
  · rename_i h0 h2 h3 h4
    exact ⟨hset, fun h => absurd h h2, fun h => absurd h h2, fun h => absurd h h3, fun h => absurd h h3, fun h => absurd h h4,
      fun h => absurd h h0, fun h => absurd h h0⟩

omit he hf in
/-- A step for every pair of an engine, each beside the others. -/
theorem fibres {step : Mach → Nat → Mach} (h : ∀ n g, g < 4 → lights e (· = g) (pairless g) n (step n g)) (m : Mach) (hf : f < 4) :
    ∃ a, lights e (· ≠ f) (fibreOf f) m a ∧ lights e (· ≠ f) (fibreOf f) (step a f) ((List.range 4).foldl step m) := by
  obtain ⟨l, r, hlr⟩ := List.append_of_mem (List.mem_range.2 hf)
  have hnodup := List.nodup_range (n := 4)
  rw [hlr, List.nodup_append, List.nodup_cons] at hnodup
  obtain ⟨-, ⟨hright, -⟩, hleft⟩ := hnodup
  have hbeside (n : Mach) (g : Nat) (hg : g ∈ List.range 4) (hne : g ≠ f) : lights e (· ≠ f) (fibreOf f) n (step n g) :=
    (h n g (List.mem_range.1 hg)).mono (fun x hx => hx ▸ hne) fun lo w hs => pairless_of_fibre (List.mem_range.1 hg) hne hs
  rw [hlr, List.foldl_append, List.foldl_cons]
  refine ⟨l.foldl step m, lights_foldl (fun n g hg => hbeside n g ?_ fun hgf => hleft g hg f (.head _) hgf) m,
    lights_foldl (fun n g hg => hbeside n g ?_ fun hgf => hright (hgf ▸ hg)) _⟩
  · rw [hlr]
    exact List.mem_append_left _ hg
  · rw [hlr]
    exact List.mem_append_right _ (.tail _ hg)

omit he hf in
/-- What the four pairs leave: the fields of the status that are no pair's. -/
theorem allPairs {step : Mach → Nat → Mach} (h : ∀ n g, g < 4 → lights e (· = g) (pairless g) n (step n g)) (m : Mach) :
    lights e (fun _ => True) (fun lo w => lo + w ≤ 7 ∨ 25 ≤ lo) m ((List.range 4).foldl step m) :=
  lights_foldl (fun n g hg => (h n g (List.mem_range.1 hg)).mono (fun _ _ => trivial) fun lo w hs => by
    have hlt := List.mem_range.1 hg
    unfold pairless ringless
    omega) m

end

end Mach
end Sys2Proof.Machine
end

section
/-! The downstream frame of an engine (R510): its fields side by side, and its CRC. -/

set_option Elab.async false

namespace Sys2Proof.Machine
open Sys2Proof

/-! ### Fields side by side -/

theorem packed_append (a b : List (Nat × Nat)) : packed (a ++ b) = packed a + 2 ^ (a.map (·.2)).sum * packed b := by
  induction a with
  | nil => simp [packed]
  | cons x a ih =>
    rw [List.cons_append, packed, packed, ih, List.map_cons, List.sum_cons, pow_add]
    ring

/-- What stands above a field does not change it. -/
theorem bitsOf_add_above (a b : Nat) {lo w hi : Nat} (h : lo + w ≤ hi) : bitsOf (a + 2 ^ hi * b) lo w = bitsOf a lo w := by
  obtain ⟨k, rfl⟩ := Nat.exists_eq_add_of_le h
  rw [bitsOf, bitsOf, pow_add, pow_add, Nat.mul_assoc, Nat.mul_assoc, Nat.add_mul_div_left _ _ (Nat.two_pow_pos lo),
    Nat.add_mul_mod_self_left]

/-- A field within one part of what stands side by side. -/
theorem bitsOf_packed_part (a b c : List (Nat × Nat)) {lo w : Nat} (h : lo + w ≤ (b.map (·.2)).sum) :
    bitsOf (packed (a ++ (b ++ c))) ((a.map (·.2)).sum + lo) w = bitsOf (packed b) lo w := by
  have ha := packed_lt a
  have hdrop : packed (a ++ (b ++ c)) / 2 ^ (a.map (·.2)).sum = packed (b ++ c) := by
    rw [packed_append, Nat.add_mul_div_left _ _ (Nat.two_pow_pos _), Nat.div_eq_of_lt ha, Nat.zero_add]
  rw [bitsOf, pow_add, ← Nat.div_div_eq_div_mul, hdrop, packed_append]
  exact bitsOf_add_above _ _ h

theorem bitsOf_packed_first {v w : Nat} (l : List (Nat × Nat)) (h : v < 2 ^ w) : bitsOf (packed ((v, w) :: l)) 0 w = v :=
  (bitsOf_packed (v, w) l []).trans (Nat.mod_eq_of_lt h)

/-- Equal fields in a row: `n` of `w` bits. -/
def rowOf (v : Nat → Nat) (w n : Nat) : List (Nat × Nat) := (List.range n).map fun r => (v r, w)

theorem rowOf_width (v : Nat → Nat) (w n : Nat) : ((rowOf v w n).map (·.2)).sum = w * n := by
  rw [rowOf, List.map_map]
  have hconst : ((·.2) ∘ fun r => (v r, w) : Nat → Nat) = fun _ => w := rfl
  rw [hconst, List.map_const', List.sum_replicate, List.length_range, smul_eq_mul, Nat.mul_comm]

theorem bitsOf_rowOf (v : Nat → Nat) (w : Nat) {n r : Nat} (hr : r < n) : bitsOf (packed (rowOf v w n)) (w * r) w = v r % 2 ^ w := by
  obtain ⟨k, rfl⟩ : ∃ k, n = r + (k + 1) := ⟨n - r - 1, by omega⟩
  have hsplit : rowOf v w (r + (k + 1)) = rowOf v w r ++ (v r, w) :: ((List.range k).map fun i => (v (r + (i + 1)), w)) := by
    rw [rowOf, List.range_add, List.map_append, List.range_succ_eq_map, List.map_cons, List.map_cons, List.map_map, List.map_map]
    rfl
  rw [hsplit, ← rowOf_width v w r]
  exact bitsOf_packed (v r, w) _ _

theorem sumOf_place (v : Nat → Nat) (lo w n : Nat) :
    sumOf (List.range n) (fun r => place (v r) (lo + w * r) w) = 2 ^ lo * packed (rowOf v w n) := by
  induction n with
  | zero => rfl
  | succ n ih =>
    have hsum : sumOf (List.range (n + 1)) (fun r => place (v r) (lo + w * r) w)
        = sumOf (List.range n) (fun r => place (v r) (lo + w * r) w) + place (v n) (lo + w * n) w := by
      rw [sumOf, sumOf, List.range_succ, List.map_append, List.foldl_append]
      rfl
    have hrow : rowOf v w (n + 1) = rowOf v w n ++ [(v n, w)] := by
      rw [rowOf, List.range_succ, List.map_append]
      rfl
    rw [hsum, ih, hrow, packed_append, rowOf_width, place, packed, packed, pow_add]
    ring

/-! ### The CRC -/

theorem crc16_lt (bits : List Bool) : crc16 bits < 2 ^ 16 := by
  refine foldl_inv (fun r => r < 2 ^ 16) _ (fun r b _ => ?_) bits (by decide)
  have hs : 2 * r % 65536 < 2 ^ 16 := Nat.mod_lt _ (by decide)
  dsimp only
  split
  · exact Nat.xor_lt_two_pow hs (by decide)
  · exact hs

theorem sentBits_add_above (a b : Nat) {lo n hi : Nat} (h : lo + n ≤ hi) : sentBits (a + 2 ^ hi * b) lo n = sentBits a lo n :=
  List.map_congr_left fun i hi' => by
    have := List.mem_range.1 hi'
    rw [bitsOf_add_above _ _ (by omega)]

/-! ### The frame -/

namespace Mach

/-- The fields of a downstream frame between its sync word and its CRC. -/
def frameTail (m : Mach) (e i : Nat) : List (Nat × Nat) :=
  let slot := (m.eng? e).slot
  rowOf (fun r => m.ringF e r F.ring_heater) 16 32 ++ (rowOf (fun f => m.pairCommand e f i) 2 4 ++ ([(0, 8)] ++
    (rowOf (fun r => (m.ringRun e r).sentChan + 4 * (m.ringRun e r).sentGain) 4 32 ++
      [(slot + m.ringF e slot F.ring_ditherHz * 2 ^ 5 + m.ringF e slot F.ring_amp * 2 ^ 17 + (if m.tableMode e then 0 else 2 ^ 25), 32)])))

/-- The sync word of a downstream frame. -/
def downSync : Nat := 0xB5E34C07

/-- Those below its CRC. -/
def frameFields (m : Mach) (e i : Nat) : List (Nat × Nat) := (downSync, 32) :: m.frameTail e i

theorem frameFields_width (m : Mach) (e i : Nat) : ((m.frameFields e i).map (·.2)).sum = 720 := by
  simp only [frameFields, frameTail, List.map_append, List.sum_append, rowOf_width, List.map_cons, List.map_nil, List.sum_cons, List.sum_nil]
  rfl

theorem downBody_packed (m : Mach) (e i : Nat) : m.downBody e i = packed (m.frameFields e i) := by
  unfold downBody frameFields frameTail
  extract_lets slot dither
  have hheat := sumOf_place (fun r => m.ringF e r F.ring_heater) 32 16 32
  have hpair := sumOf_place (fun f => m.pairCommand e f i) 544 2 4
  have hring := sumOf_place (fun r => (m.ringRun e r).sentChan + 4 * (m.ringRun e r).sentGain) 560 4 32
  obtain ⟨A, hA⟩ : ∃ A, A = 2 ^ (16 * 32) := ⟨_, rfl⟩
  obtain ⟨B, hB⟩ : ∃ B, B = 2 ^ (4 * 32) := ⟨_, rfl⟩
  have h544 : 2 ^ 544 = 2 ^ 32 * A := by rw [hA, ← pow_add]
  have h560 : 2 ^ 560 = 2 ^ 32 * A * 2 ^ 8 * 2 ^ 8 := by rw [hA, ← pow_add, ← pow_add, ← pow_add]
  have h688 : 2 ^ 688 = 2 ^ 32 * A * 2 ^ 8 * 2 ^ 8 * B := by rw [hA, hB, ← pow_add, ← pow_add, ← pow_add, ← pow_add]
  have hsync : 0xB5E34C07 = downSync % 2 ^ 32 :=
    (Nat.mod_eq_of_lt (show downSync < 2 ^ 32 by unfold downSync; norm_num)).symm
  rw [hheat, hpair, hring, place, h544, h560, h688, hsync]
  simp only [packed_append, rowOf_width, List.map_cons, List.map_nil, List.sum_cons, List.sum_nil, packed, ← hA, ← hB]
  rw [Nat.zero_mod]
  ring

/-- The frame, CRC and all. -/
def frameOf (m : Mach) (e i : Nat) : BitVec 736 :=
  let body := m.downBody e i
  BitVec.ofNat 736 (body + place (crc16 (sentBits body 32 688)) 720 16)

theorem frameOf_packed (m : Mach) (e i : Nat) :
    (m.frameOf e i).toNat = packed (m.frameFields e i ++ [(crc16 (sentBits (m.downBody e i) 32 688), 16)]) := by
  obtain ⟨x, hx⟩ : ∃ x, x = crc16 (sentBits (m.downBody e i) 32 688) := ⟨_, rfl⟩
  have hwidth : ((m.frameFields e i ++ [(x, 16)]).map fun y : Nat × Nat => y.2).sum = 736 := by
    rw [List.map_append, List.sum_append, frameFields_width]
    rfl
  have hlt := packed_lt (m.frameFields e i ++ [(x, 16)])
  rw [hwidth] at hlt
  have hbody : m.downBody e i + place x 720 16 = packed (m.frameFields e i ++ [(x, 16)]) := by
    rw [packed_append, frameFields_width, downBody_packed, packed, packed, place, Nat.mul_zero, Nat.add_zero,
      Nat.mul_comm (x % 2 ^ 16)]
  rw [frameOf, BitVec.toNat_ofNat, ← hx, hbody, Nat.mod_eq_of_lt hlt]

/-- A field of the frame below its CRC is the body's. -/
theorem frameOf_below (m : Mach) (e i : Nat) {lo w : Nat} (h : lo + w ≤ 720) :
    bitsOf (m.frameOf e i).toNat lo w = bitsOf (packed (m.frameFields e i)) lo w := by
  rw [frameOf_packed, packed_append, frameFields_width, bitsOf_add_above _ _ h]

theorem frameOf_sync (m : Mach) (e i : Nat) : bitsOf (m.frameOf e i).toNat 0 32 = 0xB5E34C07 := by
  rw [frameOf_below m e i (by norm_num), frameFields]
  exact bitsOf_packed_first _ (by unfold downSync; norm_num)

theorem frameOf_heater (m : Mach) (e i : Nat) {r : Nat} (hr : r < 32) :
    bitsOf (m.frameOf e i).toNat (32 + 16 * r) 16 = m.ringF e r F.ring_heater := by
  rw [frameOf_below m e i (by omega)]
  refine (bitsOf_packed_part [(downSync, 32)] _ _ (by rw [rowOf_width]; omega)).trans ((bitsOf_rowOf _ _ hr).trans ?_)
  exact Nat.mod_eq_of_lt (Nat.mod_lt _ (Nat.two_pow_pos 16))

theorem frameOf_command (m : Mach) (e i : Nat) {f : Nat} (hf : f < 4) :
    bitsOf (m.frameOf e i).toNat (544 + 2 * f) 2 = m.pairCommand e f i := by
  obtain ⟨a, ha⟩ : ∃ a, a = [(downSync, 32)] ++ rowOf (fun r => m.ringF e r F.ring_heater) 16 32 := ⟨_, rfl⟩
  have hwidth : (a.map (·.2)).sum = 544 := by
    rw [ha, List.map_append, List.sum_append, rowOf_width]
    rfl
  have hlt : m.pairCommand e f i < 2 ^ 2 := by
    unfold pairCommand
    split
    · decide
    · split <;> decide
  have hfields : ∃ c, m.frameFields e i = a ++ (rowOf (fun f => m.pairCommand e f i) 2 4 ++ c) := ⟨_, by rw [ha]; rfl⟩
  obtain ⟨c, hc⟩ := hfields
  rw [frameOf_below m e i (by omega), hc, ← hwidth]
  refine (bitsOf_packed_part a _ _ (by rw [rowOf_width]; omega)).trans ((bitsOf_rowOf _ _ hf).trans ?_)
  exact Nat.mod_eq_of_lt hlt

theorem frameOf_crc (m : Mach) (e i : Nat) :
    bitsOf (m.frameOf e i).toNat 720 16 = crc16 (sentBits (m.frameOf e i).toNat 32 688) := by
  have hsent : sentBits (m.frameOf e i).toNat 32 688 = sentBits (m.downBody e i) 32 688 := by
    rw [frameOf_packed, packed_append, sentBits_add_above _ _ (by rw [frameFields_width]), ← downBody_packed]
  obtain ⟨x, hx⟩ : ∃ x, x = crc16 (sentBits (m.downBody e i) 32 688) := ⟨_, rfl⟩
  have hlt : x < 2 ^ 16 := hx ▸ crc16_lt _
  have hread := bitsOf_packed (x, 16) [] (m.frameFields e i)
  rw [frameFields_width, hx, ← frameOf_packed, ← hx] at hread
  rw [hsent, ← hx]
  exact hread.trans (Nat.mod_eq_of_lt hlt)

end Mach
end Sys2Proof.Machine
end

section
/-! O51: engine control frames carry commands down and light and samples up (R510, R511, R513, R522, R525). -/

set_option Elab.async false

namespace Sys2Proof.Machine
open Sys2Proof

namespace Mach
variable {e f : Nat} {m n : Mach}

/-! ### What lights leave to be read -/

section
variable {P : Nat → Prop} {S : Nat → Nat → Prop} (h : lights e P S m n)
include h

theorem lights.oeng : n.oeng = m.oeng := congrArg (fun x => x.1) h.outlook
theorem lights.eng : n.eng? e = m.eng? e := by rw [eng?, h.oeng, eng?]
theorem lights.time : n.time = m.time := congrArg (fun x => x.2.2.1) h.outlook
theorem lights.epParams : n.epParams = m.epParams := congrArg (fun x => x.2.2.2.2) h.outlook
theorem lights.chattering (i : Nat) : n.chattering i = m.chattering i := congrArg (fun x => x.2.1.contains i) h.outlook

theorem lights.optic {p : Nat} {g : Fld} (hk : opticWord e (item p 0 g.off) = true) : n.fld .sx p g = m.fld .sx p g :=
  fld_of_kept h.regs h.epParams p g (by rw [hk]; rfl)

theorem lights.laser (fl : Fld) (hoff : fl.off = 0) (he : e < 36) : n.tfld .sx Pg.guard 5 1 e fl = m.tfld .sx Pg.guard 5 1 e fl := by
  rw [tfld, tfld, live_of_kept h.regs h.epParams _ (by
    rw [opticWord, item_page _ _ _ (by omega) (by decide)]
    rfl)]

/-- What holds a pair dark. -/
theorem lights.heldDark (he : e < 36) (hp : ¬ P f) (hf : f < 4) (hlink : S 0 2) (hfault : S 26 1) (heye : S (13 + 3 * f) 3) :
    n.pairHeldDark e f = m.pairHeldDark e f := by
  have hctrl : opticWord e (item (ocuPage e) 0 (F.ocuEngCtrl_mode (e % 4)).off) = true := by
    simp [opticWord]
  have hels : opticWord e (item (elsPage (e / 2)) 0 (F.ocuElsStatus_fault (e / 2 % 2)).off) = true := by
    have hpage : elsPage (e / 2) = ocuPage e := by rw [elsPage, ocuPage, Nat.div_div_eq_div_mul]
    rw [hpage]
    simp [opticWord]
  unfold pairHeldDark laserEn ocuMode ocuLink bit
  dsimp only
  rw [h.optic (g := F.ocuEngCtrl_laserEn (e % 4)) hctrl, h.optic (g := F.ocuEngCtrl_mode (e % 4)) hctrl,
    h.optic (g := F.ocuElsStatus_fault (e / 2 % 2)) hels, h.laser _ rfl he, h.laser _ rfl he, h.laser _ rfl he,
    h.fld he rfl (f := F.ocuEngStatus_link (e % 4)) hlink, h.fld he rfl (f := F.ocuEngStatus_fault (e % 4)) hfault,
    h.eye he heye, h.pair f hf hp]

end

theorem eng_of_bare (h : n.bare = m.bare) : n.eng? e = m.eng? e := by
  have he : n.bare.eng? e = m.bare.eng? e := by rw [h]
  exact he

/-! ### The frame down -/

theorem holdStep (he : e < 36) (m : Mach) (hf : f < 4) :
    lights e (· = f) (pairless f) m (if m.pairHeldDark e f then m.pairTo e f 1 else if m.eyeState e f = 1 then m.pairTo e f 2 else m) := by
  split
  · exact (pairTo_spec he hf m (by decide) false).1
  · split
    · exact (pairTo_spec he hf m (by decide) false).1
    · exact lights_refl m

/-- A pair in the frame that begins: one held dark closes, a closed one that none holds goes to PROBE. -/
theorem holdPairs_spec (he : e < 36) (m : Mach) (hf : f < 4) :
    (m.pairHeldDark e f = true → (m.holdPairs e).eyeState e f = 1) ∧
    (m.pairHeldDark e f = false → m.eyeState e f = 1 → (m.holdPairs e).eyeState e f = 2) ∧
    (m.pairHeldDark e f = false → m.eyeState e f ≠ 1 → (m.holdPairs e).eyeState e f = m.eyeState e f) ∧
    ((m.holdPairs e).eyeState e f ≠ 0 →
      ((m.holdPairs e).pairOpt e f).pulses = if m.eyeState e f = 0 then [] else (m.pairOpt e f).pulses) := by
  have heye : fibreOf f (13 + 3 * f) 3 := .inr (.inr ⟨rfl, rfl⟩)
  obtain ⟨a, hbefore, hafter⟩ := fibres (step := fun m f =>
    if m.pairHeldDark e f then m.pairTo e f 1 else if m.eyeState e f = 1 then m.pairTo e f 2 else m)
    (fun n g hg => holdStep he n hg) m hf
  have hdark : a.pairHeldDark e f = m.pairHeldDark e f :=
    hbefore.heldDark he (fun h => h rfl) hf (.inl (by decide)) (.inr (.inl (by decide))) heye
  have hstate : a.eyeState e f = m.eyeState e f := hbefore.eye he heye
  have hopt : a.pairOpt e f = m.pairOpt e f := hbefore.pair f hf fun h => h rfl
  have hend : (m.holdPairs e).eyeState e f = _ := hafter.eye he heye
  have hendOpt : (m.holdPairs e).pairOpt e f = _ := hafter.pair f hf fun h => h rfl
  obtain ⟨-, hclosed, hshut⟩ := pairTo_spec he hf a (by decide : 1 < 8) false
  obtain ⟨-, hprobe, hstill⟩ := pairTo_spec he hf a (by decide : 2 < 8) false
  rw [hend, hendOpt]
  rw [hdark, hstate]
  cases hd : m.pairHeldDark e f with
  | true =>
    rw [if_pos rfl]
    refine ⟨fun _ => hclosed, nofun, nofun, fun _ => ?_⟩
    rw [hshut (by decide), hstate, hopt]
  | false =>
    rw [if_neg Bool.false_ne_true]
    refine ⟨nofun, fun _ h1 => ?_, fun _ h1 => ?_, fun h0 => ?_⟩
    · rw [if_pos h1, hprobe]
    · rw [if_neg h1, hstate]
    · split
      · rw [hstill (by decide), hstate, hopt]
      · rename_i h1
        rw [if_neg h1, hstate] at h0
        rw [if_neg h0, hopt]

/-- The pairs' pulses up to this frame are over, and the next one monitors the next ring. -/
def frameSent (m : Mach) (e i : Nat) : Mach :=
  ((List.range 4).foldl (fun m f => m.updPair e f fun o => { o with pulses := o.pulses.filter (i < ·) }) m).updEng e
    fun g => { g with slot := (g.slot + 1) % 32 }

/-- What a frame that is sent leaves: registers, outputs and rings. -/
theorem frameSent_eq (m : Mach) (e i : Nat) : ∃ ps, m.frameSent e i = { m with
    pairs := ps, oeng := Tbl.modify (fun _ => {}) m.oeng e fun g => { g with slot := (g.slot + 1) % 32 } } := by
  have hpulses : ∃ ps, ((List.range 4).foldl (fun m f => m.updPair e f fun o => { o with pulses := o.pulses.filter (i < ·) }) m)
      = { m with pairs := ps } :=
    foldl_inv (fun n : Mach => ∃ ps, n = { m with pairs := ps }) _ (by rintro n f ⟨ps, rfl⟩; exact ⟨_, rfl⟩) _ ⟨m.pairs, rfl⟩
  obtain ⟨ps, hps⟩ := hpulses
  exact ⟨ps, by rw [frameSent, hps]; rfl⟩

/-- The engine of a frame that begins: its pairs held, its rings' codes chosen. -/
def frameBegun (m : Mach) (e : Nat) : Mach :=
  (List.range 32).foldl (fun a r => a.ringCode e r m.frameNow)
    ((m.holdPairs e).setFld .sx (ocuPage e) (F.ocuEngStatus_table (e % 4))
      (if (m.holdPairs e).tableMode e && (m.holdPairs e).ocuLink e == 2 then 1 else 0))

theorem downstream_eq (m : Mach) (e : Nat) : m.downstream e =
    ((m.frameBegun e).emit (.downFrame e ((m.frameBegun e).frameOf e m.frameNow))).frameSent e m.frameNow := rfl

theorem frameBegun_lights (he : e < 36) (m : Mach) (hf : f < 4) :
    lights e (fun _ => False) (fun lo w => lo = 13 + 3 * f ∧ w = 3) (m.holdPairs e) (m.frameBegun e) := by
  have htable : lights e (fun _ => False) (fun lo w => lo = 13 + 3 * f ∧ w = 3) (m.holdPairs e)
      ((m.holdPairs e).setFld .sx (ocuPage e) (F.ocuEngStatus_table (e % 4))
        (if (m.holdPairs e).tableMode e && (m.holdPairs e).ocuLink e == 2 then 1 else 0)) :=
    lights_setStatus he rfl (by simp only [F.ocuEngStatus_table]; omega) _ fun lo w hs => by
      simp only [F.ocuEngStatus_table]
      omega
  refine htable.trans ((turns_rings (fun n r hr => turns_ringCode he hr m.frameNow) _).mono (fun _ => id) fun lo w hs => ?_)
  unfold ringless
  omega

end Mach

/-- A downstream frame: the pairs as their causes hold them, and the frame that says so. -/
theorem downstream_sends {s : State} {e : Nat} (he : e < 36) (hon : s.m.boot.off = false) :
    ∃ t, exec (.downstreamFrame e) s = .next t ∧ s.kept t ∧
      (t.m.eng? e).slot = ((s.m.eng? e).slot + 1) % 32 ∧
      (∀ f, f < 4 →
        (s.m.pairHeldDark e f = true → t.m.eyeState e f = 1) ∧
        (s.m.pairHeldDark e f = false → s.m.eyeState e f = 1 → t.m.eyeState e f = 2) ∧
        (s.m.pairHeldDark e f = false → s.m.eyeState e f ≠ 1 → t.m.eyeState e f = s.m.eyeState e f)) ∧
      (∀ w rest, t.m.driven = .downFrame e w :: rest →
        bitsOf w.toNat 0 32 = 0xB5E34C07 ∧
        bitsOf w.toNat 720 16 = crc16 (sentBits w.toNat 32 688) ∧
        (∀ r, r < 32 → bitsOf w.toNat (32 + 16 * r) 16 = t.m.ringF e r F.ring_heater) ∧
        (∀ f, f < 4 → bitsOf w.toNat (544 + 2 * f) 2 = if t.m.eyeState e f = 0 then 2
          else if s.m.eyeState e f ≠ 0 ∧ (s.m.pairOpt e f).pulses.contains (s.m.time.number / 200) then 1 else 0)) ∧
      (t.m.driven.head?.map fun o => match o with | .downFrame n _ => n | _ => 99) = some e := by
  obtain ⟨i, hi⟩ : ∃ i, i = s.m.frameNow := ⟨_, rfl⟩
  obtain ⟨a, ha⟩ : ∃ a, a = s.m.frameBegun e := ⟨_, rfl⟩
  obtain ⟨x, hx⟩ : ∃ x, x = a.frameOf e i := ⟨_, rfl⟩
  obtain ⟨n, hn⟩ : ∃ n, n = (a.emit (.downFrame e x)).frameSent e i := ⟨_, rfl⟩
  obtain ⟨ps, hps⟩ := (a.emit (.downFrame e x)).frameSent_eq e i
  rw [← hn] at hps
  have hrf : n.rf .sx = a.rf .sx := by rw [hps]; rfl
  have hpar : n.epParams = a.epParams := by rw [hps]; rfl
  have heye (f : Nat) (hf : f < 4) : n.eyeState e f = (s.m.holdPairs e).eyeState e f :=
    (Mach.fld_congr hrf hpar ..).trans (ha ▸ (Mach.frameBegun_lights he s.m hf).eye he ⟨rfl, rfl⟩)
  have hslot : (n.eng? e).slot = ((s.m.eng? e).slot + 1) % 32 := by
    have hbefore : a.eng? e = s.m.eng? e :=
      ha ▸ (Mach.frameBegun_lights he s.m (by decide : 0 < 4)).eng.trans (Mach.allPairs (fun n g hg => Mach.holdStep he n hg) s.m).eng
    rw [hps]
    change (Tbl.get _ (Tbl.modify (fun _ => {}) a.oeng e fun g : EngRun => { g with slot := (g.slot + 1) % 32 }) e).slot = _
    rw [Tbl.get_modify, if_pos rfl, ← hbefore]
    rfl
  have hdriven : n.driven = .downFrame e x :: a.driven := by
    rw [Mach.driven, hps]
    exact List.filter_cons_of_pos rfl
  have hstep : s.m.downstream e = n := by rw [hn, hx, ha, hi, Mach.downstream_eq]
  have hgo : exec (.downstreamFrame e) s = .next { s with m := n } :=
    (if_pos (decide_eq_true he)).trans (go_eq (fun m => if m.boot.off then m else m.downstream e) ((if_neg (by
      rw [hon]; exact Bool.false_ne_true)).trans hstep))
  refine ⟨_, hgo, ⟨rfl, rfl⟩, hslot, fun f hf => ?_, fun w rest hw => ?_, ?_⟩
  · obtain ⟨hdark, hprobe, hstill, -⟩ := Mach.holdPairs_spec he s.m hf
    exact ⟨fun h => (heye f hf).trans (hdark h), fun h h1 => (heye f hf).trans (hprobe h h1),
      fun h h1 => (heye f hf).trans (hstill h h1)⟩
  · have hwx : w = x := by
      have h := hdriven.symm.trans hw
      injection h with hhead
      injection hhead with _ hword
      exact hword.symm
    rw [hwx, hx]
    refine ⟨a.frameOf_sync e i, a.frameOf_crc e i, fun r hr => ?_, fun f hf => ?_⟩
    · rw [a.frameOf_heater e i hr]
      exact (Mach.tfld_congr hrf hpar ..).symm
    · obtain ⟨-, -, -, hpulses⟩ := Mach.holdPairs_spec he s.m hf
      have hlights := Mach.frameBegun_lights he s.m hf
      rw [← ha] at hlights
      change _ = if n.eyeState e f = 0 then 2 else _
      rw [a.frameOf_command e i hf, Mach.pairCommand, hlights.eye he ⟨rfl, rfl⟩, hlights.pair f hf id, heye f hf]
      by_cases h0 : (s.m.holdPairs e).eyeState e f = 0
      · rw [if_pos h0, if_pos h0]
      · rw [if_neg h0, if_neg h0, hpulses h0, hi]
        by_cases hold : s.m.eyeState e f = 0
        · rw [if_pos hold, if_neg (show ¬ ([] : List Nat).contains s.m.frameNow = true by simp), if_neg fun h => h.1 hold]
        · rw [if_neg hold]
          simp only [ne_eq, hold, not_false_eq_true, true_and]
          rfl
  · change n.driven.head?.map _ = _
    rw [hdriven]
    rfl

/-! ### The frame up -/

namespace Mach
variable {e f : Nat} {m n : Mach}

section
variable (he : e < 36)
include he

theorem ocuLink_setLink (m : Mach) {v : Nat} (hv : v < 4) : (m.setLink e v).ocuLink e = v := by
  rw [ocuLink, setLink, statusFld he _ rfl, stored_setFld _ _ _ _ _ (by simp only [F.ocuEngStatus_link]; omega)]
  exact Nat.mod_eq_of_lt hv

theorem lights_setLink {P : Nat → Prop} (m : Mach) (v : Nat) : lights e P (fun lo _ => 2 ≤ lo) m (m.setLink e v) :=
  lights_setStatus he rfl (by simp only [F.ocuEngStatus_link]; omega) v fun lo w h => .inr h

theorem lights.link {P : Nat → Prop} {S : Nat → Nat → Prop} (h : lights e P S m n) (hs : S 0 2) : n.ocuLink e = m.ocuLink e :=
  h.fld he (f := F.ocuEngStatus_link (e % 4)) rfl hs

omit he in
theorem updEng_eng (m : Mach) (e : Nat) (g : EngRun → EngRun) : (m.updEng e g).eng? e = g (m.eng? e) :=
  (Tbl.get_modify ..).trans (if_pos rfl)

omit he in
theorem updEng_rf (m : Mach) (e : Nat) (g : EngRun → EngRun) (c : Chip) : (m.updEng e g).rf c = m.rf c := by cases c <;> rfl

omit he in
theorem updEng_epParams (m : Mach) (e : Nat) (g : EngRun → EngRun) : (m.updEng e g).epParams = m.epParams := rfl

omit he in
theorem lights.crc {P : Nat → Prop} {S : Nat → Nat → Prop} (h : lights e P S m n) :
    n.word .sx (item (ocuPage e) 0 R.ocuCtlCrcCnt) = m.word .sx (item (ocuPage e) 0 R.ocuCtlCrcCnt) :=
  h.regs.2 _ (by simp [opticWord])

/-- The link of an engine is down: its pairs are closed. -/
theorem engineDown_spec (m : Mach) : (m.engineDown e).ocuLink e = 0 ∧ (m.engineDown e).event .sx (ocuPage e) 1 = true ∧
    (∀ f, f < 4 → (m.engineDown e).eyeState e f = 1) ∧
    (m.engineDown e).word .sx (item (ocuPage e) 0 R.ocuCtlCrcCnt) = m.word .sx (item (ocuPage e) 0 R.ocuCtlCrcCnt) ∧
    ((m.engineDown e).eng? e).bad = (m.eng? e).bad ∧ ((m.engineDown e).eng? e).good = (m.eng? e).good := by
  unfold engineDown
  extract_lets a b c
  have hevent : a.event .sx (ocuPage e) 1 = true := event_raise _ _ _ _ _ _ _ (by decide) (.inr ⟨rfl, rfl⟩)
  have hraise : lights e (fun _ => True) ringless (m.setLink e 0) a := lights_raise he ..
  have hlink : a.ocuLink e = 0 := (hraise.link he (.inl (by decide))).trans (ocuLink_setLink he m (by decide))
  have ha : lights e (fun _ => True) (fun lo _ => 13 ≤ lo) m a :=
    ((lights_setLink he m 0).mono (fun _ => id) fun _ _ h => by omega).trans (hraise.mono (fun _ => id) fun _ _ h => .inr h)
  have hpairs (n : Mach) (g : Nat) (hg : g < 4) : lights e (· = g) (pairless g) n (n.pairTo e g 1) :=
    (pairTo_spec he hg n (by decide) false).1
  have hb : lights e (fun _ => True) (fun lo w => lo + w ≤ 7 ∨ 25 ≤ lo) a b := allPairs hpairs a
  have hc : lights e (fun _ => False) ringless b c := turns_rings (fun n r hr => (lights_updRing ..).trans (turns_ringFit he hr)) b
  have heng : c.eng? e = m.eng? e := hc.eng.trans (hb.eng.trans ha.eng)
  obtain ⟨d, hd⟩ : ∃ d, d = c.updEng e fun g => { g with temps := [] } := ⟨_, rfl⟩
  have hgo : d.eng? e = { c.eng? e with temps := [] } := hd ▸ updEng_eng c e _
  have hrf : d.rf .sx = c.rf .sx := hd ▸ updEng_rf ..
  have hpar : d.epParams = c.epParams := hd ▸ updEng_epParams ..
  have hword := (kept_of_rf hrf hpar noWord).2
  rw [← hd]
  refine ⟨(fld_congr hrf hpar ..).trans (((hc.link he (.inl (by decide))).trans (hb.link he (.inl (by decide)))).trans hlink),
    (event_congr (hword _ rfl)).trans (hc.event (hb.event hevent)),
    fun f hf => ?_, (hword _ rfl).trans ((hc.crc.trans hb.crc).trans ha.crc), ?_, ?_⟩
  · obtain ⟨x, -, hafter⟩ := fibres (fun n g hg => hpairs n g hg) a hf
    exact (fld_congr hrf hpar ..).trans (((hc.eye he (.inr (by omega))).trans (hafter.eye he (.inr (.inr ⟨rfl, rfl⟩)))).trans
      (pairTo_spec he hf x (by decide) false).2.1)
  · rw [hgo, heng]
  · rw [hgo, heng]

/-- The link of an engine is up, and its type is known. -/
theorem engineUp_spec (m : Mach) (u : UpFrame) : (m.engineUp e u).ocuLink e = 2 ∧ (m.engineUp e u).ocuType e = upType u ∧
    lights e (fun _ => False) (fun lo _ => 13 ≤ lo) m (m.engineUp e u) := by
  unfold engineUp
  extract_lets a
  have htype : lights e (fun _ => False) (fun lo w => lo + w ≤ 2 ∨ 6 ≤ lo) (m.setLink e 2) a :=
    lights_setStatus he rfl (by simp only [F.ocuEngStatus_type]; omega) _ fun lo w h => h
  have hrings := turns_rings (e := e) (P := fun _ => False) (step := fun m r => (m.updRing e r fun run =>
    { run with locked := none, peak := none, fresh := false, run := 0, updates := 0, filt := [], step := none,
               low := 0 }).ringFit e r) (fun n r hr => (lights_updRing ..).trans (turns_ringFit he hr)) a
  refine ⟨((hrings.link he (.inl (by decide))).trans (htype.link he (.inl (by decide)))).trans (ocuLink_setLink he m (by decide)),
    (hrings.fld he (f := F.ocuEngStatus_type (e % 4)) rfl (.inl (by simp only [F.ocuEngStatus_type]; omega))).trans ?_,
    (((lights_setLink he m 2).mono (fun _ => id) fun _ _ h => by omega).trans
      (htype.mono (fun _ => id) fun _ _ h => .inr (by omega))).trans (hrings.mono (fun _ => id) fun _ _ h => .inr h)⟩
  rw [statusFld he a rfl]
  exact (stored_setFld _ _ _ _ _ (by simp only [F.ocuEngStatus_type]; omega)).trans (Nat.mod_eq_of_lt (Nat.mod_lt _ (by decide)))

/-- A bad frame is counted, before the rings see it. -/
def badCounted (m : Mach) (e : Nat) : Mach :=
  (m.bump .sx (ocuPage e) R.ocuCtlCrcCnt).updEng e fun g => { g with bad := g.bad + 1, good := 0 }

omit he in
theorem badCounted_facts (m : Mach) : m.counted (m.badCounted e) .sx (ocuPage e) R.ocuCtlCrcCnt ∧
    ((m.badCounted e).eng? e).bad = (m.eng? e).bad + 1 ∧ ((m.badCounted e).eng? e).good = 0 ∧
    (m.badCounted e).ocuLink e = m.ocuLink e ∧ ∀ f, (m.badCounted e).eyeState e f = m.eyeState e f := by
  obtain ⟨a, ha⟩ : ∃ a, a = m.bump .sx (ocuPage e) R.ocuCtlCrcCnt := ⟨_, rfl⟩
  obtain ⟨b, hb⟩ : ∃ b, b = a.updEng e fun g => { g with bad := g.bad + 1, good := 0 } := ⟨_, rfl⟩
  have hrf : b.rf .sx = a.rf .sx := hb ▸ updEng_rf ..
  have hpar : b.epParams = a.epParams := hb ▸ updEng_epParams ..
  have htouch : m.touches a .sx (fun k => k == item (ocuPage e) 0 R.ocuCtlCrcCnt) :=
    ha ▸ touches_bump _ _ _ _ (beq_self_eq_true (item (ocuPage e) 0 R.ocuCtlCrcCnt))
  have hstatus : (statusItem e == item (ocuPage e) 0 R.ocuCtlCrcCnt) = false := beq_false_of_ne fun h =>
    absurd ((item_direct_inj (status_lt e) (by decide)).1 h).2 (by simp only [R.ocuCtlCrcCnt, R.ocuEngStatus]; omega)
  have hfld (f : Fld) (hoff : f.off = R.ocuEngStatus (e % 4)) : b.fld .sx (ocuPage e) f = m.fld .sx (ocuPage e) f :=
    (fld_congr hrf hpar ..).trans (fld_of_kept htouch.2.1 (epParams_of_bare htouch.1) _ _ (by rw [hoff]; exact hstatus))
  have heng : b.eng? e = { a.eng? e with bad := (a.eng? e).bad + 1, good := 0 } := hb ▸ updEng_eng a e _
  have hold : a.eng? e = m.eng? e := eng_of_bare htouch.1
  have hdef : m.badCounted e = b := by rw [badCounted, ← ha, ← hb]
  rw [hdef]
  refine ⟨?_, by rw [heng, hold], by rw [heng], hfld _ rfl, fun f => hfld _ rfl⟩
  rw [counted, (kept_of_rf hrf hpar noWord).2 _ rfl, ha, word_bump]

/-- A frame that fails its check: it is counted, and the eighth in a row takes the engine's link down. -/
theorem upBad_spec (m : Mach) (i : Nat) (u : UpFrame) : m.counted (m.upBad e i u) .sx (ocuPage e) R.ocuCtlCrcCnt ∧
    ((m.upBad e i u).eng? e).bad = (m.eng? e).bad + 1 ∧ ((m.upBad e i u).eng? e).good = 0 ∧
    (m.ocuLink e ≠ 2 → (m.upBad e i u).ocuLink e = 0) ∧
    (m.ocuLink e = 2 → (m.eng? e).bad < 7 → (m.upBad e i u).ocuLink e = 2 ∧ ∀ f, f < 4 → (m.upBad e i u).eyeState e f = m.eyeState e f) ∧
    (m.ocuLink e = 2 → 7 ≤ (m.eng? e).bad → (m.upBad e i u).ocuLink e = 0 ∧ (m.upBad e i u).event .sx (ocuPage e) 1 = true ∧
      ∀ f, f < 4 → (m.upBad e i u).eyeState e f = 1) := by
  obtain ⟨hcount, hbad, hgood, hlink, heye⟩ := badCounted_facts m
  obtain ⟨b, hb⟩ : ∃ b, b = m.badCounted e := ⟨_, rfl⟩
  rw [← hb] at hcount hbad hgood hlink heye
  obtain ⟨n, hn⟩ : ∃ n, n = (List.range 4).foldl (fun m f => m.updPair e f fun o => { o with hist := (false :: o.hist).take 12 })
    ((List.range 32).foldl (fun m r => m.ringFrame e r i u true) b) := ⟨_, rfl⟩
  have hlights : lights e (fun _ => True) ringless b n := by
    rw [hn]
    exact (turns_rings (fun n r hr => turns_ringFrame he hr i u true) b).trans
      (lights_foldl (fun n f _ => lights_updPair (P := fun _ => True) trivial _) _)
  have hnlink : n.ocuLink e = m.ocuLink e := (hlights.link he (.inl (by decide))).trans hlink
  have hneng : n.eng? e = b.eng? e := hlights.eng
  have hdo : m.upBad e i u = if n.ocuLink e = 2 then if 8 ≤ (n.eng? e).bad then n.engineDown e else n else n.setLink e 0 := by
    rw [hn, hb]
    rfl
  have hcounted {t : Mach} (h : t.word .sx (item (ocuPage e) 0 R.ocuCtlCrcCnt) = n.word .sx (item (ocuPage e) 0 R.ocuCtlCrcCnt)) :
      m.counted t .sx (ocuPage e) R.ocuCtlCrcCnt := by
    rw [counted, h, hlights.crc]
    exact hcount
  rw [hdo, hnlink, hneng, hbad]
  by_cases hup : m.ocuLink e = 2
  · rw [if_pos hup]
    by_cases h7 : 7 ≤ (m.eng? e).bad
    · obtain ⟨hzero, hevent, hshut, hword, hsame, hsame'⟩ := engineDown_spec he n
      rw [if_pos (by omega)]
      exact ⟨hcounted hword, by rw [hsame, hneng, hbad], by rw [hsame', hneng, hgood], fun h => absurd hup h,
        fun _ h => absurd h7 (by omega), fun _ _ => ⟨hzero, hevent, hshut⟩⟩
    · rw [if_neg (by omega)]
      exact ⟨hcounted rfl, by rw [hneng, hbad], by rw [hneng, hgood], fun h => absurd hup h,
        fun _ _ => ⟨hnlink.trans hup, fun f hf => (hlights.eye he (.inr (by omega))).trans (heye f)⟩, fun _ h => absurd h h7⟩
  · rw [if_neg hup]
    have hset := lights_setLink he (P := fun _ => False) n 0
    exact ⟨hcounted hset.crc, by rw [hset.eng, hneng, hbad], by rw [hset.eng, hneng, hgood],
      fun _ => ocuLink_setLink he n (by decide), fun h => absurd h hup, fun h => absurd h hup⟩

/-- A good frame's status and temperature are taken, before the rings see it. -/
def goodTaken (m : Mach) (e i : Nat) (u : UpFrame) : Mach :=
  let up := m.ocuLink e == 2
  let m := m.updEng e fun g =>
    { g with
        bad := 0, good := g.good + 1, start := if !up && g.good == 0 then i else g.start,
        temps := (upTemp u :: g.temps).take 16 }
  let m := m.setFld .sx (ocuPage e) (F.ocuEngTemp_temp (e % 4)) (codeOf (m.engTemp e) 16)
  m.setFld .sx (ocuPage e) (F.ocuEngStatus_fault (e % 4)) (if upFault u then 1 else 0)

/-- What a pair's state depends on in a frame. -/
structure sameFibre (e f : Nat) (m n : Mach) : Prop where
  eye : n.eyeState e f = m.eyeState e f
  opt : n.pairOpt e f = m.pairOpt e f
  bypass : n.tfld .sx Pg.guard 5 1 e F.laser_bypass = m.tfld .sx Pg.guard 5 1 e F.laser_bypass
  chatter : n.chattering (inLos e) = m.chattering (inLos e)
  time : n.time = m.time

theorem lights.fibre {P : Nat → Prop} {S : Nat → Nat → Prop} (h : lights e P S m n) (hf : f < 4) (hp : ¬ P f)
    (hs : S (13 + 3 * f) 3) : sameFibre e f m n where
  eye := h.eye he hs
  opt := h.pair f hf hp
  bypass := h.laser _ rfl he
  chatter := h.chattering _
  time := h.time

omit he in
theorem sameFibre.trans {o : Mach} (h : sameFibre e f m n) (g : sameFibre e f n o) : sameFibre e f m o :=
  ⟨g.eye.trans h.eye, g.opt.trans h.opt, g.bypass.trans h.bypass, g.chatter.trans h.chatter, g.time.trans h.time⟩

omit he in
theorem sameFibre.framesTo (h : sameFibre e f m n) {u : UpFrame} {st : Nat} (hn : n.framesTo e f u st) : m.framesTo e f u st := by
  unfold Mach.framesTo at hn ⊢
  rwa [h.eye, h.opt, h.bypass, h.chatter, h.time] at hn

theorem goodTaken_facts (m : Mach) (i : Nat) (u : UpFrame) : ((m.goodTaken e i u).eng? e).bad = 0 ∧
    ((m.goodTaken e i u).eng? e).good = (m.eng? e).good + 1 ∧
    ((m.goodTaken e i u).eng? e).temps = (upTemp u :: (m.eng? e).temps).take 16 ∧
    (m.goodTaken e i u).stored .sx (ocuPage e) (F.ocuEngStatus_fault (e % 4)) = (if upFault u then 1 else 0) ∧
    (m.goodTaken e i u).ocuLink e = m.ocuLink e ∧ ∀ f, f < 4 → sameFibre e f m (m.goodTaken e i u) := by
  obtain ⟨a, ha⟩ : ∃ a, a = m.updEng e fun g =>
    { g with
        bad := 0, good := g.good + 1, start := if !(m.ocuLink e == 2) && g.good == 0 then i else g.start,
        temps := (upTemp u :: g.temps).take 16 } := ⟨_, rfl⟩
  obtain ⟨b, hb⟩ : ∃ b, b = a.setFld .sx (ocuPage e) (F.ocuEngTemp_temp (e % 4)) (codeOf (a.engTemp e) 16) := ⟨_, rfl⟩
  obtain ⟨c, hc⟩ : ∃ c, c = b.setFld .sx (ocuPage e) (F.ocuEngStatus_fault (e % 4)) (if upFault u then 1 else 0) := ⟨_, rfl⟩
  have hdef : m.goodTaken e i u = c := by
    rw [hc, hb, ha]
    rfl
  have hrf : a.rf .sx = m.rf .sx := ha ▸ updEng_rf ..
  have hpar : a.epParams = m.epParams := ha ▸ updEng_epParams ..
  have heng := ha ▸ updEng_eng m e _
  have htemp : lights e (fun _ => False) (fun lo _ => lo < 26) a b :=
    hb ▸ lights_setFld he _ (by simp only [F.ocuEngTemp_temp]; omega) _
  have hfault : lights e (fun _ => False) (fun lo w => lo + w ≤ 26) b c :=
    hc ▸ lights_setStatus he rfl (by simp only [F.ocuEngStatus_fault]; omega) _ fun lo w h => .inl h
  have hbe : c.eng? e = a.eng? e := hfault.eng.trans htemp.eng
  rw [hdef, hbe, heng]
  refine ⟨rfl, rfl, rfl, ?_, ?_, fun f hf => ?_⟩
  · rw [hc, stored_setFld _ _ _ _ _ (by simp only [F.ocuEngStatus_fault]; omega)]
    exact Nat.mod_eq_of_lt (by simp only [F.ocuEngStatus_fault]; split <;> decide)
  · exact ((hfault.link he (by decide)).trans (htemp.link he (by decide))).trans (fld_congr hrf hpar ..)
  · have hfirst : sameFibre e f m a :=
      ⟨fld_congr hrf hpar .., by rw [ha]; rfl, tfld_congr hrf hpar .., by rw [ha]; rfl, by rw [ha]; rfl⟩
    exact (hfirst.trans (htemp.fibre he hf id (by omega))).trans (hfault.fibre he hf id (by omega))

/-- The rings and pairs of an engine that is up read a good frame. -/
def frameRead (m : Mach) (e i : Nat) (u : UpFrame) : Mach :=
  let m := m.setFld .sx (ocuPage e) (F.ocuEngStatus_table (e % 4)) (if m.tableMode e then 1 else 0)
  let m := (List.range 32).foldl (fun m r => m.ringFrame e r i u false) m
  (List.range 4).foldl (fun m f => m.pairFrame e f i u) m

theorem frameRead_spec (m : Mach) (i : Nat) (u : UpFrame) :
    lights e (fun _ => True) (fun lo _ => 25 ≤ lo) m (m.frameRead e i u) ∧
    ∀ f, f < 4 → m.framesTo e f u ((m.frameRead e i u).eyeState e f) := by
  unfold frameRead
  extract_lets a b
  have htable : lights e (fun _ => False) (fun lo _ => 7 ≤ lo) m a :=
    lights_setStatus he rfl (by simp only [F.ocuEngStatus_table]; omega) _ fun lo w h => .inr h
  have hrings : lights e (fun _ => False) ringless a b := turns_rings (fun n r hr => turns_ringFrame he hr i u false) a
  have hpairs (n : Mach) (g : Nat) (hg : g < 4) : lights e (· = g) (pairless g) n (n.pairFrame e g i u) :=
    (pairFrame_spec he hg n i u).1
  refine ⟨((htable.mono (fun _ => False.elim) fun _ _ h => by omega).trans (hrings.mono (fun _ => False.elim) fun _ _ h => .inr (by omega))).trans
    ((allPairs hpairs b).mono (fun _ => id) fun _ _ h => .inr h), fun f hf => ?_⟩
  obtain ⟨x, hbefore, hafter⟩ := fibres hpairs b hf
  have heye : fibreOf f (13 + 3 * f) 3 := .inr (.inr ⟨rfl, rfl⟩)
  have hsame : sameFibre e f m x := ((htable.fibre he hf id (by omega)).trans (hrings.fibre he hf id (.inr (by omega)))).trans
    (hbefore.fibre he hf (fun h => h rfl) heye)
  rw [hafter.eye he heye]
  exact hsame.framesTo (pairFrame_spec he hf x i u).2

/-- A good frame: sixteen bring the engine's link up, and then each is read. -/
theorem upTake_spec (m : Mach) (i : Nat) (u : UpFrame) : ((m.upTake e i u).eng? e).bad = 0 ∧
    ((m.upTake e i u).eng? e).good = (m.eng? e).good + 1 ∧ ((m.upTake e i u).eng? e).temps = (upTemp u :: (m.eng? e).temps).take 16 ∧
    (m.upTake e i u).stored .sx (ocuPage e) (F.ocuEngStatus_fault (e % 4)) = (if upFault u then 1 else 0) ∧
    (m.ocuLink e ≠ 2 → (m.eng? e).good < 15 → (m.upTake e i u).ocuLink e = 1) ∧
    (m.ocuLink e ≠ 2 → 15 ≤ (m.eng? e).good → (m.upTake e i u).ocuLink e = 2 ∧ (m.upTake e i u).ocuType e = upType u) ∧
    (m.ocuLink e = 2 → ∀ f, f < 4 → m.framesTo e f u ((m.upTake e i u).eyeState e f)) := by
  obtain ⟨hbad, hgood, htemps, hfault, hlink, hsame⟩ := goodTaken_facts he m i u
  obtain ⟨n, hn⟩ : ∃ n, n = m.goodTaken e i u := ⟨_, rfl⟩
  have hdo : m.upTake e i u = if !(m.ocuLink e == 2) then if 16 ≤ (n.eng? e).good then n.engineUp e u else n.setLink e 1
      else n.frameRead e i u := by
    rw [hn]
    rfl
  rw [← hn] at hbad hgood htemps hfault hlink hsame
  have hkept {P : Nat → Prop} {S : Nat → Nat → Prop} {t : Mach} (h : lights e P S n t) (hs : S 26 1) : (t.eng? e).bad = 0 ∧
      (t.eng? e).good = (m.eng? e).good + 1 ∧ (t.eng? e).temps = (upTemp u :: (m.eng? e).temps).take 16 ∧
      t.stored .sx (ocuPage e) (F.ocuEngStatus_fault (e % 4)) = (if upFault u then 1 else 0) := by
    rw [h.eng, h.stored he rfl (f := F.ocuEngStatus_fault (e % 4)) hs]
    exact ⟨hbad, hgood, htemps, hfault⟩
  rw [hdo]
  by_cases hup : m.ocuLink e = 2
  · obtain ⟨hlights, hframes⟩ := frameRead_spec he n i u
    obtain ⟨h1, h2, h3, h4⟩ := hkept hlights (by decide)
    rw [hup, if_neg (by decide)]
    exact ⟨h1, h2, h3, h4, fun h => absurd rfl h, fun h => absurd rfl h, fun _ f hf => (hsame f hf).framesTo (hframes f hf)⟩
  · rw [beq_false_of_ne hup, if_pos (show (!false) = true from rfl), hgood]
    by_cases h15 : 15 ≤ (m.eng? e).good
    · obtain ⟨hlink', htype, hlights⟩ := engineUp_spec he n u
      obtain ⟨h1, h2, h3, h4⟩ := hkept hlights (by decide)
      rw [if_pos (by omega)]
      exact ⟨h1, h2, h3, h4, fun _ h => absurd h15 (by omega), fun _ _ => ⟨hlink', htype⟩, fun h => absurd h hup⟩
    · obtain ⟨h1, h2, h3, h4⟩ := hkept (lights_setLink he (P := fun _ => False) n 1) (by decide)
      rw [if_neg (by omega)]
      exact ⟨h1, h2, h3, h4, fun _ _ => ocuLink_setLink he n (by decide), fun _ h => absurd h h15, fun h => absurd h hup⟩

end
end Mach

/-- Settles O51: a pair follows its causes and the light of its frames, one fibre beside the others. -/
theorem engineFramesAreExchanged : Obligations.EngineFramesAreExchanged := by
  have hexec {s : State} {e : Nat} (he : e < 36) (u : UpFrame) (hon : s.m.boot.off = false) (n : Mach)
      (hn : (if upGood u then s.m.upTake e s.m.frameNow u else s.m.upBad e s.m.frameNow u) = n) :
      exec (.upstreamFrame e u) s = .next { s with m := n } :=
    (if_pos (decide_eq_true he)).trans (go_eq (fun m =>
      if m.boot.off then m else if upGood u then m.upTake e m.frameNow u else m.upBad e m.frameNow u)
      ((if_neg (by rw [hon]; exact Bool.false_ne_true)).trans hn))
  refine ⟨fun s e he => ⟨fun hoff => ?_, fun hon => downstream_sends he hon⟩, fun s e u he => ?_⟩
  · exact (if_pos (decide_eq_true he)).trans (go_eq (fun m => if m.boot.off then m else m.downstream e) (if_pos hoff))
  intro run pair
  refine ⟨fun hoff => ?_, fun hon hu => ?_, fun hon hu => ?_⟩
  · exact (if_pos (decide_eq_true he)).trans (go_eq (fun m =>
      if m.boot.off then m else if upGood u then m.upTake e m.frameNow u else m.upBad e m.frameNow u) (if_pos hoff))
  · obtain ⟨n, hn⟩ : ∃ n, n = s.m.upBad e s.m.frameNow u := ⟨_, rfl⟩
    obtain ⟨hcount, hbad, hgood, hdown, hup, hends⟩ := Mach.upBad_spec he s.m s.m.frameNow u
    rw [← hn] at hcount hbad hgood hdown hup hends
    exact ⟨_, hexec he u hon n ((if_neg (by rw [hu]; exact Bool.false_ne_true)).trans hn.symm), ⟨rfl, rfl⟩, hcount, hbad, hgood, hdown,
      hup, hends⟩
  · obtain ⟨n, hn⟩ : ∃ n, n = s.m.upTake e s.m.frameNow u := ⟨_, rfl⟩
    have hstep := hexec he u hon n ((if_pos hu).trans hn.symm)
    obtain ⟨hbad, hgood, htemps, hfault, hclimb, hup, hpairs⟩ := Mach.upTake_spec he s.m s.m.frameNow u
    rw [← hn] at hbad hgood htemps hfault hclimb hup hpairs
    refine ⟨⟨_, hstep, ⟨rfl, rfl⟩, hbad, hgood, htemps, hfault, hclimb, hup⟩, fun hlink f hf => ?_⟩
    obtain ⟨h2, h2', h3, h3', h4, h0, h0'⟩ := hpairs hlink f hf
    have hpair {st : Nat} (h : n.eyeState e f = st) : pair f st := ⟨_, hstep, h, rfl, rfl⟩
    exact ⟨fun a b => hpair (h2 a b), fun a b c => hpair (h2' a b c), fun a b => hpair (h3 a b), fun a b => hpair (h3' a b),
      fun a b c d => hpair (h4 a b c d), fun a b c => hpair (h0 a b c), fun a b => hpair (h0' a b)⟩

end Sys2Proof.Machine
end

section
/-! The address that an I3C write leaves (R536) is a word of the state of its own: `Mach.aim` sets it. What a register access
does neither reads it nor changes it. Here: no read of the state sees it. -/
set_option Elab.async false
namespace Sys2Proof.Machine
open Sys2Proof
namespace Mach

/-- The machine whose last I3C address is `n`. -/
@[simps epParams time held toggle owed ocuCap power mem plt ep]
def aim (m : Mach) (n : Nat) : Mach := { m with i3cAddr := n }

variable (m : Mach) (n : Nat)

@[simp] theorem aim_aim (k : Nat) : (m.aim n).aim k = m.aim k := rfl

/-! ### Registers and clocks -/

@[simp] theorem aim_rf : (m.aim n).rf = m.rf := by rfl
@[simp] theorem aim_word : (m.aim n).word = m.word := by rfl
@[simp] theorem aim_liveCopy : (m.aim n).liveCopy = m.liveCopy := by rfl
@[simp] theorem aim_live : (m.aim n).live = m.live := by rfl
@[simp] theorem aim_fld : (m.aim n).fld = m.fld := by rfl
@[simp] theorem aim_bit : (m.aim n).bit = m.bit := by rfl
@[simp] theorem aim_reg : (m.aim n).reg = m.reg := by rfl
@[simp] theorem aim_lookup : (m.aim n).lookup = m.lookup := by rfl
@[simp] theorem aim_anyRequest : (m.aim n).anyRequest = m.anyRequest := by rfl
@[simp] theorem aim_now : (m.aim n).now = m.now := by rfl
@[simp] theorem aim_cyc : (m.aim n).cyc = m.cyc := by rfl
@[simp] theorem aim_shedLevel : (m.aim n).shedLevel = m.shedLevel := by rfl
@[simp] theorem aim_ringWr : (m.aim n).ringWr = m.ringWr := by rfl
@[simp] theorem aim_ringWrapped : (m.aim n).ringWrapped = m.ringWrapped := by rfl
@[simp] theorem aim_ringFrozen : (m.aim n).ringFrozen = m.ringFrozen := by rfl
@[simp] theorem aim_lk : (m.aim n).lk = m.lk := by rfl

/-! ### The register services' reads -/

@[simp] theorem aim_reaches : (m.aim n).reaches = m.reaches := by rfl
@[simp] theorem aim_writeBad : (m.aim n).writeBad = m.writeBad := by rfl
@[simp] theorem aim_tabRefused : (m.aim n).tabRefused = m.tabRefused := by rfl
@[simp] theorem aim_winOf : (m.aim n).winOf = m.winOf := by rfl
@[simp] theorem aim_holdsWrite : (m.aim n).holdsWrite = m.holdsWrite := by rfl
@[simp] theorem aim_dueNow : (m.aim n).dueNow = m.dueNow := by rfl
@[simp] theorem aim_dueStitch : (m.aim n).dueStitch = m.dueStitch := by rfl
@[simp] theorem aim_isLate : (m.aim n).isLate = m.isLate := by rfl
@[simp] theorem aim_snapCovers : (m.aim n).snapCovers = m.snapCovers := by rfl
@[simp] theorem aim_ready : (m.aim n).ready = m.ready := by rfl
@[simp] theorem aim_guardItem : (m.aim n).guardItem = m.guardItem := by rfl
@[simp] theorem aim_guardChange : (m.aim n).guardChange = m.guardChange := by rfl
@[simp] theorem aim_guardState : (m.aim n).guardState = m.guardState := by rfl
@[simp] theorem aim_guardAt : (m.aim n).guardAt = m.guardAt := by rfl
@[simp] theorem aim_guardRun : (m.aim n).guardRun = m.guardRun := by rfl
@[simp] theorem aim_guardDigest : (m.aim n).guardDigest = m.guardDigest := by rfl

/-! ### Links, queues, groups and objects -/

@[simp] theorem aim_ownCap : (m.aim n).ownCap = m.ownCap := by rfl
@[simp] theorem aim_ownLanes : (m.aim n).ownLanes = m.ownLanes := by rfl
@[simp] theorem aim_prt : (m.aim n).prt = m.prt := by rfl
@[simp] theorem aim_minWidth : (m.aim n).minWidth = m.minWidth := by rfl
@[simp] theorem aim_holdOf : (m.aim n).holdOf = m.holdOf := by rfl
@[simp] theorem aim_findHeld : (m.aim n).findHeld = m.findHeld := by rfl
@[simp] theorem aim_isUp : (m.aim n).isUp = m.isUp := by rfl
@[simp] theorem aim_holdsKey : (m.aim n).holdsKey = m.holdsKey := by rfl
@[simp] theorem aim_partnerNode : (m.aim n).partnerNode = m.partnerNode := by rfl
@[simp] theorem aim_pfaultPacket : (m.aim n).pfaultPacket = m.pfaultPacket := by rfl
@[simp] theorem aim_faultRecent : (m.aim n).faultRecent = m.faultRecent := by rfl
@[simp] theorem aim_limited : (m.aim n).limited = m.limited := by rfl
@[simp] theorem aim_stopped : (m.aim n).stopped = m.stopped := by rfl
@[simp] theorem aim_waitingOf : (m.aim n).waitingOf = m.waitingOf := by rfl
@[simp] theorem aim_membersOf : (m.aim n).membersOf = m.membersOf := by rfl
@[simp] theorem aim_gdesc : (m.aim n).gdesc = m.gdesc := by rfl
@[simp] theorem aim_validGroups : (m.aim n).validGroups = m.validGroups := by rfl
@[simp] theorem aim_cuffsOn : (m.aim n).cuffsOn = m.cuffsOn := by rfl
@[simp] theorem aim_cuffCopies : (m.aim n).cuffCopies = m.cuffCopies := by rfl
@[simp] theorem aim_cd : (m.aim n).cd = m.cd := by rfl
@[simp] theorem aim_cgrp : (m.aim n).cgrp = m.cgrp := by rfl
@[simp] theorem aim_grp : (m.aim n).grp = m.grp := by rfl
@[simp] theorem aim_pairState : (m.aim n).pairState = m.pairState := by rfl
@[simp] theorem aim_workPort : (m.aim n).workPort = m.workPort := by rfl
@[simp] theorem aim_newPort : (m.aim n).newPort = m.newPort := by rfl
@[simp] theorem aim_elsBit : (m.aim n).elsBit = m.elsBit := by rfl
@[simp] theorem aim_laserEn : (m.aim n).laserEn = m.laserEn := by rfl
@[simp] theorem aim_chattering : (m.aim n).chattering = m.chattering := by rfl
@[simp] theorem aim_shedSrc : (m.aim n).shedSrc = m.shedSrc := by rfl
@[simp] theorem aim_sxNode : (m.aim n).sxNode = m.sxNode := by rfl
@[simp] theorem aim_epochNow : (m.aim n).epochNow = m.epochNow := by rfl
@[simp] theorem aim_response : (m.aim n).response = m.response := by rfl
@[simp] theorem aim_svcEcho : (m.aim n).svcEcho = m.svcEcho := by rfl
@[simp] theorem aim_obj : (m.aim n).obj = m.obj := by rfl
@[simp] theorem aim_grantKey : (m.aim n).grantKey = m.grantKey := by rfl

/-! ### Status words of the switch -/

@[simp] theorem aim_storedRead : (m.aim n).storedRead = m.storedRead := by rfl
@[simp] theorem aim_snapPending : (m.aim n).snapPending = m.snapPending := by rfl
@[simp] theorem aim_headerWord : (m.aim n).headerWord = m.headerWord := by rfl
@[simp] theorem aim_chipStatus : (m.aim n).chipStatus = m.chipStatus := by rfl
@[simp] theorem aim_guardStatus : (m.aim n).guardStatus = m.guardStatus := by rfl
@[simp] theorem aim_stitchStatus : (m.aim n).stitchStatus = m.stitchStatus := by rfl
@[simp] theorem aim_portStatus : (m.aim n).portStatus = m.portStatus := by rfl
@[simp] theorem aim_tileStatus : (m.aim n).tileStatus = m.tileStatus := by rfl
@[simp] theorem aim_clusterStatus : (m.aim n).clusterStatus = m.clusterStatus := by rfl
@[simp] theorem aim_pleatStatus : (m.aim n).pleatStatus = m.pleatStatus := by rfl
@[simp] theorem aim_cuffStatus : (m.aim n).cuffStatus = m.cuffStatus := by rfl
@[simp] theorem aim_gussetStatus : (m.aim n).gussetStatus = m.gussetStatus := by rfl
@[simp] theorem aim_ctxStatus : (m.aim n).ctxStatus = m.ctxStatus := by rfl
@[simp] theorem aim_epIdStatus : (m.aim n).epIdStatus = m.epIdStatus := by rfl
@[simp] theorem aim_hostStatus : (m.aim n).hostStatus = m.hostStatus := by rfl
@[simp] theorem aim_epPortStatus : (m.aim n).epPortStatus = m.epPortStatus := by rfl
@[simp] theorem aim_tableStatus : (m.aim n).tableStatus = m.tableStatus := by rfl
@[simp] theorem aim_pageFrozen : (m.aim n).pageFrozen = m.pageFrozen := by rfl
@[simp] theorem aim_snapWord : (m.aim n).snapWord = m.snapWord := by rfl
@[simp] theorem aim_guardView : (m.aim n).guardView = m.guardView := by rfl

theorem onEp_sx {p : EpParams} {i : Nat} {k : PageKind} (h : pageKind p .sx i = some k) : onEp k = false := by
  have hchip := onEp_of_pageKind h
  rw [Bool.eq_false_iff]
  intro hon
  rw [hon] at hchip
  cases hchip

theorem aim_directStatus (c : Chip) (page : Nat) {k : PageKind} (hk : onEp k = false) (off w : Nat) :
    (m.aim n).directStatus c page k off w = m.directStatus c page k off w := by
  cases k
  case eEng => cases hk
  all_goals simp [directStatus]

@[simp] theorem aim_currentStatus (k : Nat) : (m.aim n).currentStatus .sx k = m.currentStatus .sx k := by
  rw [currentStatus, currentStatus, aim_epParams, aim_storedRead, aim_tableStatus]
  cases hk : pageKind m.epParams .sx (itemPage k) with
  | none => rfl
  | some pk =>
    dsimp only
    rw [aim_directStatus m n .sx (itemPage k) (onEp_sx hk)]

@[simp] theorem aim_readStatus (k : Nat) : (m.aim n).readStatus .sx k = m.readStatus .sx k := by
  rw [readStatus, readStatus, aim_pageFrozen, aim_rf, aim_currentStatus]

@[simp] theorem aim_tabRead (page : Nat) (w : Window) : (m.aim n).tabRead .sx page w = m.tabRead .sx page w := by
  simp only [tabRead, aim_live, aim_epParams, aim_snapWord, aim_guardView, aim_readStatus]

end Mach
end Sys2Proof.Machine
end

section
/-! Words, events, records and replies commute with the last I3C address. -/
set_option Elab.async false
namespace Sys2Proof.Machine
open Sys2Proof
namespace Mach
variable (m : Mach) (n : Nat)

/-! ### How the address moves out of branches and runs -/

@[simp] theorem ite_aim (p : Prop) [Decidable p] (a b : Mach) :
    (if p then a.aim n else b.aim n) = (if p then a else b).aim n :=
  (apply_ite (fun x => aim x n) p a b).symm

theorem foldl_aim {α : Type} {f : Mach → α → Mach} {n : Nat} (h : ∀ m a, f (m.aim n) a = (f m a).aim n) (l : List α) (m : Mach) :
    l.foldl f (m.aim n) = (l.foldl f m).aim n :=
  List.foldl_hom (fun x => aim x n) h

/-! ### Parts of the state that are put back whole -/

@[simp] theorem setRf_aim (c : Chip) (r : RegFile) : (m.aim n).setRf c r = (m.setRf c r).aim n := by cases c <;> rfl
@[simp] theorem setLk_aim (c : Chip) (p : Nat) (l : Link) : (m.aim n).setLk c p l = (m.setLk c p l).aim n := by cases c <;> rfl
@[simp] theorem setGuardRun_aim (c : Chip) (g : GuardRun) : (m.aim n).setGuardRun c g = (m.setGuardRun c g).aim n := by
  cases c <;> rfl
@[simp] theorem setMem_aim (x : MemSt) : (m.aim n).setMem x = (m.setMem x).aim n := by rfl
@[simp] theorem setPlt_aim (x : PleatSt) : (m.aim n).setPlt x = (m.setPlt x).aim n := by rfl
@[simp] theorem setPower_aim (x : PowerRun) : (m.aim n).setPower x = (m.setPower x).aim n := by rfl
@[simp] theorem setCgrp_aim (g : Nat) (x : CGroup) : (m.aim n).setCgrp g x = (m.setCgrp g x).aim n := by rfl
@[simp] theorem setGrp_aim (g : Nat) (x : PGroup) : (m.aim n).setGrp g x = (m.setGrp g x).aim n := by rfl
@[simp] theorem setHold_aim (p : Nat) (h : PortHold) : (m.aim n).setHold p h = (m.setHold p h).aim n := by rfl
@[simp] theorem setOwed_aim (p vc k : Nat) : (m.aim n).setOwed p vc k = (m.setOwed p vc k).aim n := by rfl
@[simp] theorem setObj_aim (i : Nat) (v : DWord) : (m.aim n).setObj i v = (m.setObj i v).aim n := by rfl
@[simp] theorem updPair_aim (e f : Nat) (g : PairOpt → PairOpt) : (m.aim n).updPair e f g = (m.updPair e f g).aim n := by rfl
@[simp] theorem emit_aim (o : Out) : (m.aim n).emit o = (m.emit o).aim n := by rfl
@[simp] theorem fresh_aim (w : Nat) : (m.aim n).fresh w = ((m.fresh w).1, (m.fresh w).2.aim n) := by rfl
@[simp] theorem removeHeld_aim (id : Nat) : (m.aim n).removeHeld id = (m.removeHeld id).aim n := by rfl
@[simp] theorem push_aim (pkt : Packet) (i o : Nat) (f : Held → Held) :
    (m.aim n).push pkt i o f = (m.push pkt i o f).aim n := by rfl
@[simp] theorem dropWaiters_aim (key : Nat) : (m.aim n).dropWaiters key = (m.dropWaiters key).aim n := by rfl
@[simp] theorem markFault_aim (k r : Nat) : (m.aim n).markFault k r = (m.markFault k r).aim n := by rfl
@[simp] theorem lowerReason_aim (k r : Nat) : (m.aim n).lowerReason k r = (m.lowerReason k r).aim n := by rfl

/-! ### Register words -/

@[simp] theorem setWord_aim (c : Chip) (k : Nat) (v : Word) : (m.aim n).setWord c k v = (m.setWord c k v).aim n := by
  simp [setWord]
@[simp] theorem setShadow_aim (c : Chip) (k : Nat) (v : Word) : (m.aim n).setShadow c k v = (m.setShadow c k v).aim n := by
  simp [setShadow]
@[simp] theorem setFld_aim (c : Chip) (page : Nat) (f : Fld) (v : Nat) :
    (m.aim n).setFld c page f v = (m.setFld c page f v).aim n := by
  simp [setFld]
@[simp] theorem setReg_aim (c : Chip) (page off v : Nat) : (m.aim n).setReg c page off v = (m.setReg c page off v).aim n := by
  simp [setReg]
@[simp] theorem setTFld_aim (c : Chip) (page sel per e : Nat) (f : Fld) (v : Nat) :
    (m.aim n).setTFld c page sel per e f v = (m.setTFld c page sel per e f v).aim n := by
  simp [setTFld]
@[simp] theorem setTWord_aim (c : Chip) (page sel a v : Nat) :
    (m.aim n).setTWord c page sel a v = (m.setTWord c page sel a v).aim n := by
  simp [setTWord]
@[simp] theorem bump_aim (c : Chip) (page off : Nat) : (m.aim n).bump c page off = (m.bump c page off).aim n := by
  simp [bump, bumpBy]
@[simp] theorem bumpBy_aim (c : Chip) (page off k : Nat) : (m.aim n).bumpBy c page off k = (m.bumpBy c page off k).aim n := by
  simp [bumpBy]
@[simp] theorem setWin_aim (c : Chip) (path : Path) (page : Nat) (w : Window) :
    (m.aim n).setWin c path page w = (m.setWin c path page w).aim n := by
  simp [setWin]

/-! ### Events, the trace rings and the interrupts -/

@[simp] theorem updateIrq_aim (c : Chip) : (m.aim n).updateIrq c = (m.updateIrq c).aim n := by
  cases c <;> simp [updateIrq]
@[simp] theorem setIntBit_aim (c : Chip) (page b : Nat) : (m.aim n).setIntBit c page b = (m.setIntBit c page b).aim n := by
  simp [setIntBit]
@[simp] theorem logError_aim (c : Chip) (page b d : Nat) : (m.aim n).logError c page b d = (m.logError c page b d).aim n := by
  simp [logError]
@[simp] theorem ringStore_aim (d page type b x : Nat) :
    (m.aim n).ringStore d page type b x = (m.ringStore d page type b x).aim n := by
  simp [ringStore]
@[simp] theorem ringFreeze_aim (d : Nat) : (m.aim n).ringFreeze d = (m.ringFreeze d).aim n := by
  simp [ringFreeze]
@[simp] theorem trace_aim (page type b x : Nat) : (m.aim n).trace page type b x = (m.trace page type b x).aim n := by
  simp [trace]
@[simp] theorem raise_aim (c : Chip) (page b x : Nat) : (m.aim n).raise c page b x = (m.raise c page b x).aim n := by
  cases hk : pageKind (m.setIntBit c page b).epParams c page <;> cases c <;> simp [raise, hk]

/-! ### Packets, credits and partition faults -/

@[simp] theorem pushExempt_aim (pkt : Packet) (i o t : Nat) :
    (m.aim n).pushExempt pkt i o t = (m.pushExempt pkt i o t).aim n := by
  simp [pushExempt]
@[simp] theorem returnCredit_aim (c : Chip) (p vc k : Nat) :
    (m.aim n).returnCredit c p vc k = (m.returnCredit c p vc k).aim n := by
  simp [returnCredit]
@[simp] theorem giveCredit_aim (port vc k : Nat) : (m.aim n).giveCredit port vc k = (m.giveCredit port vc k).aim n := by
  simp [giveCredit]
@[simp] theorem dropHeld_aim (h : Held) : (m.aim n).dropHeld h = (m.dropHeld h).aim n := by
  simp [dropHeld]
@[simp] theorem broadcast_aim (key reason : Nat) : (m.aim n).broadcast key reason = (m.broadcast key reason).aim n :=
  foldl_aim (fun m p => by simp) _ m
@[simp] theorem faultRecord_aim (key reason : Nat) (r : Bool) :
    (m.aim n).faultRecord key reason r = (m.faultRecord key reason r).aim n := by
  simp [faultRecord]
@[simp] theorem pfault_aim (key reason : Nat) (r : Bool) : (m.aim n).pfault key reason r = (m.pfault key reason r).aim n := by
  simp only [pfault, faultRecord_aim, dropWaiters_aim, aim_faultRecent]
  cases (((m.faultRecord key reason r).dropWaiters key).faultRecent key) <;> simp
@[simp] theorem pfaultKeys_aim (keys : List Nat) (reason : Nat) :
    (m.aim n).pfaultKeys keys reason = (m.pfaultKeys keys reason).aim n :=
  foldl_aim (fun m k => by simp) _ m
@[simp] theorem sendData_aim (c : Chip) (p : Nat) (g : List (BitVec 128)) (a b d : Nat) (ks : List (Nat × Nat)) :
    (m.aim n).sendData c p g a b d ks = (m.sendData c p g a b d ks).aim n := by
  simp [sendData]
@[simp] theorem breakPacket_aim (pid : Nat) : (m.aim n).breakPacket pid = (m.breakPacket pid).aim n := by
  simp only [breakPacket, aim_findHeld]
  cases m.findHeld pid <;> simp

/-! ### Groups and rounds -/

@[simp] theorem pleatFault_aim (gk reason : Nat) (key : Option Nat) :
    (m.aim n).pleatFault gk reason key = (m.pleatFault gk reason key).aim n := by
  simp [pleatFault, foldl_aim (fun m h => dropHeld_aim m n h)]
@[simp] theorem pleatPortDown_aim (p : Nat) : (m.aim n).pleatPortDown p = (m.pleatPortDown p).aim n := by
  simp [pleatPortDown, foldl_aim (f := fun m gk => pleatFault m gk Reason.portDown) (fun m gk => by simp)]
@[simp] theorem dropCopies_aim (hs : List Held) : (m.aim n).dropCopies hs = (m.dropCopies hs).aim n :=
  foldl_aim (fun m h => by simp) hs m
@[simp] theorem cuffFault_aim (g reason : Nat) (key : Option Nat) :
    (m.aim n).cuffFault g reason key = (m.cuffFault g reason key).aim n := by
  simp [cuffFault]
@[simp] theorem cuffPortDown_aim (p : Nat) : (m.aim n).cuffPortDown p = (m.cuffPortDown p).aim n := by
  simp [cuffPortDown, foldl_aim (f := fun m g => cuffFault m g Reason.portDown) (fun m g => by simp)]
@[simp] theorem cuffClear_aim (g : Nat) : (m.aim n).cuffClear g = (m.cuffClear g).aim n := by
  rw [cuffClear, aim_cd]
  exact foldl_aim (fun m i => by simp) _ m
@[simp] theorem pairVerdict_aim (i st code : Nat) : (m.aim n).pairVerdict i st code = (m.pairVerdict i st code).aim n := by
  simp [pairVerdict]
@[simp] theorem gussetPortDown_aim (p : Nat) : (m.aim n).gussetPortDown p = (m.gussetPortDown p).aim n :=
  foldl_aim (fun m i => by simp) _ m

/-! ### A link that goes down -/

@[simp] theorem sendTraining_aim (c : Chip) (p : Nat) (x : Ctl) :
    (m.aim n).sendTraining c p x = (m.sendTraining c p x).aim n := by
  simp [sendTraining]
@[simp] theorem sendCap_aim (c : Chip) (p : Nat) (seen : Bool) : (m.aim n).sendCap c p seen = (m.sendCap c p seen).aim n := by
  simp [sendCap]
@[simp] theorem updLk_aim (c : Chip) (p : Nat) (f : Link → Link) : (m.aim n).updLk c p f = (m.updLk c p f).aim n := by
  simp [updLk]
@[simp] theorem laneSet_aim (p k : Nat) (f : Fld) (v : Nat) : (m.aim n).laneSet p k f v = (m.laneSet p k f v).aim n := by
  simp [laneSet]
@[simp] theorem showLanes_aim (c : Chip) (p : Nat) : (m.aim n).showLanes c p = (m.showLanes c p).aim n := by
  cases c
  · exact foldl_aim (fun m k => by simp) _ m
  · rfl
@[simp] theorem restart_aim (c : Chip) (p : Nat) : (m.aim n).restart c p = (m.restart c p).aim n := by
  simp [restart]
@[simp] theorem holdStart_aim (p : Nat) : (m.aim n).holdStart p = (m.holdStart p).aim n := by
  simp [holdStart, foldl_aim (f := fun m h => (dropHeld m h).bump .sx (Pg.port p) R.prtFlushPktCnt) (fun m h => by simp)]
@[simp] theorem truncated_aim (p : Nat) (l : Link) : (m.aim n).truncated .sx p l = (m.truncated .sx p l).aim n := by
  simp only [truncated, show (m.aim n).findHeld = m.findHeld from rfl]
  cases l.asmPid.bind m.findHeld <;> simp
@[simp] theorem lostOnLink_aim (p : Nat) (l : Link) : (m.aim n).lostOnLink .sx p l = (m.lostOnLink .sx p l).aim n := by
  simp [lostOnLink]
@[simp] theorem linkDown_aim (p : Nat) : (m.aim n).linkDown .sx p = (m.linkDown .sx p).aim n := by
  simp [linkDown]
@[simp] theorem narrowTo_aim (p mask : Nat) : (m.aim n).narrowTo .sx p mask = (m.narrowTo .sx p mask).aim n := by
  simp [narrowTo]
@[simp] theorem recalibrate_aim (k lane : Nat) : (m.aim n).recalibrate k lane = (m.recalibrate k lane).aim n := by
  simp [recalibrate]

end Mach
end Sys2Proof.Machine
end

section
/-! The register services commute with the last I3C address. -/
set_option Elab.async false
namespace Sys2Proof.Machine
open Sys2Proof
namespace Mach
variable (m : Mach) (n : Nat)

/-! ### Plain words, shadows and the common registers -/

@[simp] theorem busError_aim (c : Chip) (path : Path) (w : Bool) (page off : Nat) :
    (m.aim n).busError c path w page off = (m.busError c path w page off).aim n := by
  simp [busError]
@[simp] theorem wordWrite_aim (c : Chip) (k : Nat) (v : Word) : (m.aim n).wordWrite c k v = (m.wordWrite c k v).aim n := by
  simp [wordWrite]
@[simp] theorem shadowWrite_aim (c : Chip) (k : Nat) (v : Word) : (m.aim n).shadowWrite c k v = (m.shadowWrite c k v).aim n := by
  simp [shadowWrite, shadowLand]
@[simp] theorem plainWrite_aim (c : Chip) (k : Nat) (v : Word) : (m.aim n).plainWrite c k v = (m.plainWrite c k v).aim n := by
  simp [plainWrite]
@[simp] theorem snapWrite_aim (c : Chip) (page v : Nat) : (m.aim n).snapWrite c page v = (m.snapWrite c page v).aim n := by
  simp [snapWrite]
@[simp] theorem commonReg_aim (c : Chip) (page : Nat) (pk : PageKind) (off k : Nat) (v : Word) :
    (m.aim n).commonReg c page pk off k v = (m.commonReg c page pk off k v).aim n := by
  simp [commonReg]

/-! ### Commit, chatter, power, recalibration and optics -/

@[simp] theorem commitGo_aim (c : Chip) : (m.aim n).commitGo c = (m.commitGo c).aim n := by
  simp [commitGo]
@[simp] theorem commitCancel_aim (c : Chip) : (m.aim n).commitCancel c = (m.commitCancel c).aim n := by
  simp only [commitCancel, aim_rf]
  cases (m.rf c).commit <;> simp
@[simp] theorem commitCtrl_aim (c : Chip) (v : Nat) : (m.aim n).commitCtrl c v = (m.commitCtrl c v).aim n := by
  simp [commitCtrl]
@[simp] theorem showChatter_aim (i : Nat) : (m.aim n).showChatter i = (m.showChatter i).aim n := by
  simp only [showChatter, aim_chattering]
  split <;> simp
@[simp] theorem chatterCleared_aim (i : Nat) : (m.aim n).chatterCleared i = (m.chatterCleared i).aim n :=
  showChatter_aim { m with chatter := m.chatter.filter (· != i), changes := Tbl.set (fun _ => []) m.changes i [] } n i
@[simp] theorem setShedSrc_aim (i : Nat) (x : ShedSrc) : (m.aim n).setShedSrc i x = (m.setShedSrc i x).aim n := by
  simp only [setShedSrc, aim_power]
  split <;> simp
@[simp] theorem shedAsk_aim (i cond : Nat) : (m.aim n).shedAsk i cond = (m.shedAsk i cond).aim n := by
  simp [shedAsk]
@[simp] theorem brkUpdate_aim : (m.aim n).brkUpdate = m.brkUpdate.aim n := by
  simp [brkUpdate]
@[simp] theorem chatterWrite_aim (v : Nat) : (m.aim n).chatterWrite v = (m.chatterWrite v).aim n := by
  simp [chatterWrite]
@[simp] theorem gateWrite_aim (v : Nat) : (m.aim n).gateWrite v = (m.gateWrite v).aim n := by
  simp [gateWrite]
@[simp] theorem recalWrite_aim (page k : Nat) (v : Word) : (m.aim n).recalWrite page k v = (m.recalWrite page k v).aim n := by
  simp [recalWrite]
@[simp] theorem elsUpdate_aim (k : Nat) : (m.aim n).elsUpdate k = (m.elsUpdate k).aim n := by
  simp [elsUpdate, setElsBit]
@[simp] theorem elsFaultCleared_aim (k : Nat) : (m.aim n).elsFaultCleared k = (m.elsFaultCleared k).aim n := by
  simp [elsFaultCleared, setElsBit]
theorem ocuCap_aim (x : Tbl (Nat × Nat)) : ({ m.aim n with ocuCap := x } : Mach) = aim { m with ocuCap := x } n := by rfl
@[simp] theorem ocuCapture_aim (q v : Nat) : (m.aim n).ocuCapture q v = (m.ocuCapture q v).aim n := by
  simp only [ocuCapture, setReg_aim, aim_ocuCap, ocuCap_aim, setFld_aim, ite_aim]
@[simp] theorem ocuReg_aim (page off k : Nat) (v : Word) : (m.aim n).ocuReg page off k v = (m.ocuReg page off k v).aim n := by
  simp [ocuReg]
@[simp] theorem ctxDoorbell_aim (x : Nat) (v : Word) : (m.aim n).ctxDoorbell x v = (m.ctxDoorbell x v).aim n := by
  simp [ctxDoorbell]

/-! ### The Guard and its relay -/

@[simp] theorem guardReload_aim (c : Chip) (ks : List Nat) : (m.aim n).guardReload c ks = (m.guardReload c ks).aim n :=
  foldl_aim (fun m k => by simp) ks m
@[simp] theorem setGuardState_aim (c : Chip) (v : Nat) : (m.aim n).setGuardState c v = (m.setGuardState c v).aim n := by
  simp [setGuardState]
@[simp] theorem guardCount_aim (c : Chip) (off : Nat) : (m.aim n).guardCount c off = (m.guardCount c off).aim n := by
  simp [guardCount]
@[simp] theorem guardErr_aim (c : Chip) (code : Nat) (k : Option Nat) :
    (m.aim n).guardErr c code k = (m.guardErr c code k).aim n := by
  cases k <;> simp [guardErr]
@[simp] theorem guardOpen_aim (c : Chip) : (m.aim n).guardOpen c = (m.guardOpen c).aim n := by
  simp [guardOpen]
@[simp] theorem guardDiscard_aim (c : Chip) (e : Nat) : (m.aim n).guardDiscard c e = (m.guardDiscard c e).aim n := by
  simp [guardDiscard, guardEvent]
@[simp] theorem guardStage_aim (c : Chip) (path : Path) (k : Nat) (v : Word) :
    (m.aim n).guardStage c path k v = (m.guardStage c path k v).aim n := by
  simp [guardStage]
@[simp] theorem guardSeal_aim (c : Chip) : (m.aim n).guardSeal c = (m.guardSeal c).aim n := by
  simp [guardSeal]
@[simp] theorem guardAbort_aim (c : Chip) : (m.aim n).guardAbort c = (m.guardAbort c).aim n := by
  simp [guardAbort]
@[simp] theorem guardArm_aim (c : Chip) (x : Nat) : (m.aim n).guardArm c x = (m.guardArm c x).aim n := by
  simp only [guardArm, aim_guardRun]
  cases (m.guardRun c).at_ <;> simp
@[simp] theorem guardApprove_aim (c : Chip) (who : Principal) (v x : Nat) :
    (m.aim n).guardApprove c who v x = (m.guardApprove c who v x).aim n := by
  simp [guardApprove]
theorem guardWrite_aim (c : Chip) (path : Path) {f : Mach → Mach} (hf : ∀ m : Mach, f (m.aim n) = (f m).aim n) :
    (m.aim n).guardWrite c path f = (m.guardWrite c path f).aim n := by
  simp [guardWrite, hf]
@[simp] theorem guardCtrl_aim (c : Chip) (path : Path) (k : Nat) (v : Word) :
    (m.aim n).guardCtrl c path k v = (m.guardCtrl c path k v).aim n :=
  guardWrite_aim m n c path fun m => by simp
@[simp] theorem guardApproveWord_aim (c : Chip) (path : Path) (high : Bool) (v : Word) :
    (m.aim n).guardApproveWord c path high v = (m.guardApproveWord c path high v).aim n :=
  guardWrite_aim m n c path fun m => by cases principal c path <;> simp
@[simp] theorem route_aim (dst stream : Nat) :
    (m.aim n).route dst stream = ((m.route dst stream).1, (m.route dst stream).2.aim n) := by
  simp only [route, aim_lookup, aim_partnerNode, aim_toggle, bump_aim]
  split_ifs <;> rfl
theorem relay_aim (x : Option Relay) : ({ m.aim n with relay := x } : Mach) = aim { m with relay := x } n := by rfl
@[simp] theorem relayGo_aim (path : Path) (v : Nat) : (m.aim n).relayGo path v = (m.relayGo path v).aim n := by
  simp only [relayGo, setReg_aim, bump_aim, aim_bit, aim_reg, aim_sxNode, aim_epochNow, relay_aim, route_aim]
  simp only [aim_time]
  generalize Mach.route _ _ _ = r
  obtain ⟨_ | o, k⟩ := r <;> simp only [push_aim, ite_aim]
@[simp] theorem guardReg_aim (path : Path) (off k : Nat) (v : Word) :
    (m.aim n).guardReg path off k v = (m.guardReg path off k v).aim n := by
  simp [guardReg]

end Mach
end Sys2Proof.Machine
end

section
/-! Direct words, aliases and windows of the switch, and so every register write, commute with the last I3C address. -/
set_option Elab.async false
namespace Sys2Proof.Machine
open Sys2Proof
namespace Mach
variable (m : Mach) (n : Nat) (path : Path) (page : Nat)

/-! ### Direct words and their aliases -/

theorem directWrite_aim {k : PageKind} (hk : onEp k = false) (off : Nat) (v : Word) :
    (m.aim n).directWrite .sx path page k off v = (m.directWrite .sx path page k off v).aim n := by
  cases k
  case eId => cases hk
  case eCtx => cases hk
  all_goals simp [directWrite]

theorem aliasWrite_aim {k : PageKind} (hk : onEp k = false) (off : Nat) (v : Word) :
    (m.aim n).aliasWrite .sx path page k off v = (m.aliasWrite .sx path page k off v).aim n := by
  simp [aliasWrite, directWrite_aim _ _ _ _ hk]

/-! ### Sync objects -/

@[simp] theorem svcReply_aim (cl port : Nat) (q : Packet) (op : Nat) (b : List Byte) :
    (m.aim n).svcReply cl port q op b = (m.svcReply cl port q op b).aim n := by
  simp [svcReply, svcAnswer]
@[simp] theorem notify_aim (port : Nat) (q : Packet) (v : DWord) : (m.aim n).notify port q v = (m.notify port q v).aim n := by
  simp [notify]
@[simp] theorem answerWaiters_aim (i : Nat) (v : DWord) : (m.aim n).answerWaiters i v = (m.answerWaiters i v).aim n := by
  rw [answerWaiters, aim_mem, setMem_aim]
  exact foldl_aim (fun m w => by simp) _ _
@[simp] theorem bankWrite_aim (i : Nat) (v : DWord) : (m.aim n).bankWrite i v = (m.bankWrite i v).aim n := by
  simp [bankWrite]
@[simp] theorem objDetect_aim (i : Nat) : (m.aim n).objDetect i = (m.objDetect i).aim n := by
  rw [objDetect, objDetect]
  simp only [aim_mem, setMem_aim, bump_aim, raise_aim, aim_grantKey]
  split <;> simp
@[simp] theorem objRead_aim (i : Nat) : (m.aim n).objRead i = ((m.objRead i).1, (m.objRead i).2.aim n) := by
  rw [objRead, objRead, aim_mem, aim_obj, objDetect_aim]
  by_cases hp : m.mem.objPoison.contains i = true
  · rw [if_pos hp, if_pos hp]
  · by_cases hb : m.mem.objBad.contains i = true
    · rw [if_neg hp, if_neg hp, if_pos hb, if_pos hb]
    · rw [if_neg hp, if_neg hp, if_neg hb, if_neg hb]
@[simp] theorem bankRead_aim (i : Nat) : (m.aim n).bankRead i = ((m.bankRead i).1, (m.bankRead i).2.aim n) := by
  rw [bankRead, bankRead, objRead_aim]
  generalize m.objRead i = r
  obtain ⟨v, k⟩ := r
  simp only [bump_aim]

/-! ### Windows -/

@[simp] theorem fetchStart_aim (k : PageKind) (w : Window) :
    (m.aim n).fetchStart .sx path page k w = (m.fetchStart .sx path page k w).aim n := by
  simp [fetchStart]
@[simp] theorem fetchDone_aim : (m.aim n).fetchDone .sx path page = (m.fetchDone .sx path page).aim n := by
  simp only [fetchDone, aim_winOf, aim_epParams, aim_tabRefused, setWin_aim, bankRead_aim, aim_tabRead]
  cases (m.winOf .sx path page).busy <;> cases pageKind m.epParams .sx page
  case true.some k =>
    dsimp only
    generalize m.bankRead (m.winOf .sx path page).addr = r
    obtain ⟨_ | v, x⟩ := r <;> simp only [setWin_aim, ite_aim]
  all_goals rfl
@[simp] theorem indAdvance_aim (k : PageKind) : (m.aim n).indAdvance .sx path page k = (m.indAdvance .sx path page k).aim n := by
  simp [indAdvance]
@[simp] theorem tabWrite_aim (k : PageKind) (sel a : Nat) (v : Word) :
    (m.aim n).tabWrite .sx path page k sel a v = (m.tabWrite .sx path page k sel a v).aim n := by
  simp [tabWrite]
theorem indWrite_aim (k : PageKind) (v : Word) :
    (m.aim n).indWrite .sx path page k v = ((m.indWrite .sx path page k v).1, (m.indWrite .sx path page k v).2.aim n) := by
  simp only [indWrite, fetchDone_aim, aim_winOf, aim_tabRefused, indErr, setWin_aim, indAdvance_aim, syncAbandon, syncAdvance,
    fetchStart_aim, bankWrite_aim, tabWrite_aim]
  generalize (m.fetchDone .sx path page).winOf .sx path page = w
  cases w.atHigh <;> cases w.low <;> split_ifs <;> rfl

/-! ### Register writes -/

theorem regWrite_aim (off : Nat) (v : Word) :
    (m.aim n).regWrite .sx path page off v = ((m.regWrite .sx path page off v).1, (m.regWrite .sx path page off v).2.aim n) := by
  simp only [regWrite, aim_writeBad, aim_reaches]
  cases m.writeBad .sx path page off v with
  | true => simp
  | false =>
    cases hk : m.reaches .sx path page with
    | none => simp
    | some k =>
      have hon := onEp_sx (pageKind_of_reaches hk)
      simp only [directWrite_aim m n path page hon, aliasWrite_aim m n path page hon, indAddr, aim_winOf, fetchStart_aim,
        indWrite_aim,
        indCtrl, setWin_aim]
      split_ifs <;> rfl

theorem regWrites_aim (vs : List Word) (a : Nat) :
    (m.aim n).regWrites .sx path vs a = ((m.regWrites .sx path vs a).1, (m.regWrites .sx path vs a).2.aim n) := by
  induction vs generalizing m a with
  | nil => rfl
  | cons v vs ih => simp only [regWrites, regWrite_aim, ih]

end Mach
end Sys2Proof.Machine
end

section
/-! O58: accesses by I3C (R632) and the doorbells of context pages (R561). -/
set_option Elab.async false
namespace Sys2Proof.Machine
open Sys2Proof

/-! ### The words of a list of bytes -/

theorem wholeWords_short {d : List Byte} (h : d.length < 4) : wholeWords d = [] := by
  match d, h with
  | [], _ => rfl
  | [_], _ => rfl
  | [_, _], _ => rfl
  | [_, _, _], _ => rfl
  | _ :: _ :: _ :: _ :: _, h => exact absurd h (by simp)

theorem wholeWords_append {d : List Byte} (h : d.length = 4) (e : List Byte) :
    wholeWords (d ++ e) = BitVec.ofNat 32 (ofLeBytes d) :: wholeWords e := by
  match d, h with
  | [_, _, _, _], _ => rfl

theorem wholeWords_four {d : List Byte} (h : d.length = 4) : wholeWords d = [BitVec.ofNat 32 (ofLeBytes d)] := by
  rw [← List.append_nil d, wholeWords_append h, List.append_nil]
  rfl

/-! ### I3C writes -/

/-- How an I3C write ends. -/
def State.landed (s : State) (r : List Access × Mach) : Host.Outcome State Fault Refusal :=
  if r.1.contains .outside then .fault .outsideSpecification else .next { s with m := r.2 }

theorem State.landed_next {s t : State} {r : List Access × Mach} (h : s.landed r = .next t) :
    r.1.contains .outside = false ∧ t = { s with m := r.2 } := by
  rw [landed] at h
  split at h
  · cases h
  · next hout => exact ⟨Bool.eq_false_iff.2 hout, (Host.Outcome.next.inj h).symm⟩

theorem exec_i3cWrite_short {d : List Byte} (h : d.length < 4) (s : State) : exec (.i3cPrivateWrite d) s = .next s := if_pos h

section
variable {s : State} {a : List Byte} (ha : a.length = 4)
include ha

theorem exec_i3cWrite (d : List Byte) : exec (.i3cPrivateWrite (a ++ d)) s
    = s.landed ((s.m.aim (ofLeBytes a)).regWrites .sx .i3c (wholeWords (d.take 64)) (ofLeBytes a)) := by
  have hexec : exec (.i3cPrivateWrite (a ++ d)) s = execI3cPrivateWrite (a ++ d) s := rfl
  rw [hexec, execI3cPrivateWrite, if_neg (by simp [ha]), List.take_left' ha, List.drop_left' ha]
  rfl

theorem exec_i3cWrite_none {d : List Byte} (h : d.length < 4) :
    exec (.i3cPrivateWrite (a ++ d)) s = .next { s with m := s.m.aim (ofLeBytes a) } := by
  rw [exec_i3cWrite ha, wholeWords_short (by rw [List.length_take]; omega)]
  rfl

/-- One word is written as a register write of the port writes it. -/
theorem exec_i3cWrite_one {d : List Byte} (h : d.length = 4) : exec (.i3cPrivateWrite (a ++ d)) s
    = exec (.registerWrite .sx .i3c (ofLeBytes a / 0x4000) (ofLeBytes a % 0x4000) (ofLeBytes d) (s.m.cyc .sx))
        { s with m := s.m.aim (ofLeBytes a) } := by
  obtain ⟨n, hn⟩ : ∃ n, n = s.m.aim (ofLeBytes a) := ⟨_, rfl⟩
  have hset : n.setCyc .sx (s.m.cyc .sx) = n := by rw [hn]; rfl
  have hexec : exec (.registerWrite .sx .i3c (ofLeBytes a / 0x4000) (ofLeBytes a % 0x4000) (ofLeBytes d) (s.m.cyc .sx))
      { s with m := n } = ({ s with m := n.setCyc .sx (s.m.cyc .sx) } : State).wrote .sx
        ((n.setCyc .sx (s.m.cyc .sx)).regWrite .sx .i3c (ofLeBytes a / 0x4000) (ofLeBytes a % 0x4000)
          (BitVec.ofNat 32 (ofLeBytes d))) := rfl
  rw [exec_i3cWrite ha, List.take_of_length_le (by omega), wholeWords_four h, ← hn, hexec, hset]
  simp only [Mach.regWrites]
  generalize n.regWrite .sx .i3c _ _ _ = r
  obtain ⟨x, k⟩ := r
  cases x <;> rfl

/-- Words beyond the first land as a write of their own at the next address lands them. -/
theorem exec_i3cWrite_more {b d e : List Byte} (hb : b.length = 4) (hnext : ofLeBytes b = ofLeBytes a + 4) (hd : d.length = 4)
    (he : e.length < 61) {t u : State} (ht : exec (.i3cPrivateWrite (a ++ d)) s = .next t)
    (hu : exec (.i3cPrivateWrite (b ++ e)) t = .next u) :
    exec (.i3cPrivateWrite (a ++ (d ++ e))) s = .next { u with m := u.m.aim (ofLeBytes a) } := by
  rw [exec_i3cWrite ha, List.take_of_length_le (by omega), wholeWords_four hd, Mach.regWrites_aim] at ht
  obtain ⟨hx, rfl⟩ := State.landed_next ht
  rw [exec_i3cWrite hb, List.take_of_length_le (by omega), hnext, Mach.aim_aim, Mach.regWrites_aim] at hu
  obtain ⟨hxs, rfl⟩ := State.landed_next hu
  rw [exec_i3cWrite ha, List.take_of_length_le (by rw [List.length_append]; omega), wholeWords_append hd, Mach.regWrites_aim]
  simp only [Mach.regWrites] at hx hxs ⊢
  generalize s.m.regWrite .sx .i3c _ _ _ = r at hx hxs ⊢
  obtain ⟨x, k⟩ := r
  dsimp only at hx hxs ⊢
  rw [List.contains_cons, Bool.or_eq_false_iff] at hx
  rw [State.landed, List.contains_cons, hx.1, hxs]
  rfl

theorem exec_i3cWrite_full {d : List Byte} (h : d.length = 64) (e : List Byte) :
    exec (.i3cPrivateWrite (a ++ (d ++ e))) s = exec (.i3cPrivateWrite (a ++ d)) s := by
  rw [exec_i3cWrite ha, exec_i3cWrite ha, List.take_left' h, List.take_of_length_le (by omega)]

end

/-! ### I3C reads -/

/-- A word of an I3C read: the word read, or ones. -/
def readBytes : Access → List Byte
  | .ok w => leBytes 4 w.toNat
  | _ => leBytes 4 0xFFFFFFFF

theorem exec_i3cRead (s : State) (k : Nat) : exec (.i3cPrivateRead k) s = s.go fun m =>
    let r := m.regReads .sx .i3c (ceilDiv (min k 64) 4) m.i3cAddr
    r.2.emit (.i3c ((r.1.flatMap readBytes).take (min k 64))) := rfl

theorem exec_i3cRead_cap (s : State) {k : Nat} (h : 64 < k) : exec (.i3cPrivateRead k) s = exec (.i3cPrivateRead 64) s := by
  rw [exec_i3cRead, exec_i3cRead, Nat.min_eq_right (by omega), Nat.min_self]

namespace Mach
variable {m : Mach} {page off : Nat} {kind : PageKind}

theorem scrubWord_none {c : Chip} (h : (m.rf c).upsets = []) (k : Nat) : m.scrubWord c k = m := by
  rw [scrubWord, h]
  rfl

/-- The port reaches no context page. -/
theorem reaches_i3c (h : m.reaches .sx .i3c page = some kind) : isCtxKind kind = false := by
  have hkind := pageKind_of_reaches h
  rw [reaches, hkind] at h
  dsimp only at h
  cases kind
  case ctx =>
    rw [if_pos rfl, if_neg (show ¬(Path.i3c = .vc4 ∨ Path.i3c = .vc0) by decide), ite_self] at h
    cases h
  case eCtx => exact absurd (onEp_sx hkind) (by decide)
  all_goals rfl

/-- A direct register that is no half of a pair reads as it stands and changes nothing. -/
theorem regRead_direct (hr : m.reaches .sx .i3c page = some kind) (ho : off % 4 = 0) (hlt : off < 0xC00)
    (hd : (directInfo kind off).isSome = true) (hlow : off ∉ roPairs kind) (hhigh : 4 ≤ off → off - 4 ∉ roPairs kind)
    (hup : m.regs.upsets = []) : m.regRead .sx .i3c page off = (.ok (m.readStatus .sx (item page 0 off)), m) := by
  have hlive : liveOff off = off := by rw [liveOff, if_neg (by omega)]
  have hat : directAt kind off = true := by rw [directAt, hlive, hd, decide_eq_true (by omega), Bool.and_true]
  have hwin : isSyncWin kind off = false := by
    have hne := reaches_i3c hr
    rw [isCtxKind, Bool.or_eq_false_iff] at hne
    rw [isSyncWin, hne.1, Bool.false_and]
  have hlow' : ¬(roPairs kind).contains off = true := by rwa [List.contains_iff_mem]
  have hhigh' : ¬(4 ≤ off ∧ (roPairs kind).contains (off - 4) = true) := by
    rw [List.contains_iff_mem]
    exact fun h => hhigh h.1 h.2
  have hread : m.directRead .sx .i3c page kind off = (m.readStatus .sx (item page 0 off), m) := by
    rw [directRead, scrubWord_none (c := .sx) hup, directWord, if_neg (show ¬0xC00 ≤ off by omega), hlive,
      if_neg (show Path.i3c ≠ .vc0 by decide), if_neg hlow', if_neg hhigh']
  rw [regRead, hr]
  dsimp only
  rw [if_neg (by omega), hwin, if_neg Bool.false_ne_true, if_pos (by omega), if_pos hat, hread]

/-- Words that a read serves one by one. -/
theorem regReads_served {c : Chip} {path : Path} {f : Nat → Word} : ∀ (k a : Nat),
    (∀ j, j < k → m.regRead c path ((a + 4 * j) / 0x4000) ((a + 4 * j) % 0x4000) = (.ok (f j), m)) →
    m.regReads c path k a = ((List.range k).map fun j => .ok (f j), m)
  | 0, _, _ => rfl
  | k + 1, a, h => by
    have htail : m.regReads c path k (a + 4) = ((List.range k).map fun j => .ok (f (j + 1)), m) :=
      regReads_served k (a + 4) fun j hj => by
        have := h (j + 1) (by omega)
        rwa [show a + 4 * (j + 1) = a + 4 + 4 * j by omega] at this
    rw [regReads, show m.regRead c path (a / 0x4000) (a % 0x4000) = (.ok (f 0), m) from h 0 (by omega)]
    dsimp only
    rw [htail, List.range_succ_eq_map, List.map_cons, List.map_map]
    rfl

theorem pageKind_ctx {p : EpParams} {x : Nat} (hx : x < 1024) : pageKind p .sx (Pg.ctx x) = some .ctx := by
  unfold Pg.ctx
  rw [pageKind, if_neg (by omega), if_neg (by omega), if_neg (by omega), if_neg (by omega), if_neg (by omega), if_neg (by omega),
    if_neg (by omega), if_neg (by omega), if_neg (by omega), if_neg (by omega), if_neg (by omega), if_neg (by omega),
    if_neg (by omega), if_neg (by omega), if_neg (by omega), if_pos (by omega)]

/-- A context page answers in band alone, once the switch is ready and its core runs. -/
theorem reaches_ctx {x : Nat} (hx : x < 1024) (path : Path) : m.reaches .sx path (Pg.ctx x)
    = if m.ready && !m.boot.off then (if path = .vc4 ∨ path = .vc0 then some .ctx else none) else none := by
  have hnot : List.contains [Pg.chip, Pg.power, Pg.stitch, Pg.trace] (Pg.ctx x) = false := by
    rw [Bool.eq_false_iff, ne_eq, List.contains_iff_mem]
    simp only [List.mem_cons, List.not_mem_nil, or_false, Pg.ctx, Pg.chip, Pg.power, Pg.stitch, Pg.trace]
    omega
  rw [reaches, pageKind_ctx hx]
  dsimp only
  rw [hnot, if_pos rfl]
  cases m.ready && !m.boot.off <;> rfl

end Mach

theorem exec_i3cRead_bad {s : State} {at_ : Nat} (haim : s.m.i3cAddr = at_) (h : s.m.reaches .sx .i3c (at_ / 0x4000) = none) :
    ∃ t, exec (.i3cPrivateRead 4) s = .next t ∧ t.m.out = .i3c [0xFF, 0xFF, 0xFF, 0xFF] :: s.m.out ∧
      s.m.counted t.m .sx Pg.chip R.chpBusErrCnt ∧
      s.becomes t s.m .sx (fun j => pageWord Pg.chip R.chpBusErrCnt j || pageWord Pg.chip R.chpBusErr j) := by
  subst haim
  obtain ⟨n, hn⟩ : ∃ n, n = s.m.busError .sx .i3c false (s.m.i3cAddr / 0x4000) (s.m.i3cAddr % 0x4000) := ⟨_, rfl⟩
  have hread : s.m.regReads .sx .i3c 1 s.m.i3cAddr = ([.busError], n) := by
    rw [Mach.regReads, Mach.regRead, h, hn]
    rfl
  obtain ⟨hbare, hkept, hother⟩ := hn ▸ Mach.touches_busError s.m .sx .i3c false (s.m.i3cAddr / 0x4000) (s.m.i3cAddr % 0x4000)
  have hcount := hn ▸ Mach.counted_busError s.m .sx .i3c false (s.m.i3cAddr / 0x4000) (s.m.i3cAddr % 0x4000)
  have hout : n.out = s.m.out := hn ▸ rfl
  refine ⟨{ s with m := n.emit (.i3c [0xFF, 0xFF, 0xFF, 0xFF]) }, ?_, congrArg (List.cons _) hout, hcount,
    hbare, hkept, hother, rfl, rfl⟩
  rw [exec_i3cRead, State.go, show ceilDiv (min 4 64) 4 = 1 from rfl, hread]
  rfl

/-- Words that stand are answered as they stand. -/
theorem exec_i3cRead_words {s : State} {kind : PageKind} {k at_ : Nat} (haim : s.m.i3cAddr = at_) (hk : k ≤ 64)
    (hr : s.m.reaches .sx .i3c (at_ / 0x4000) = some kind) (ho : at_ % 0x4000 % 4 = 0)
    (hlt : at_ % 0x4000 + k ≤ 0xC00) (hup : s.m.regs.upsets = [])
    (hwords : ∀ j, j < (k + 3) / 4 → (directInfo kind (at_ % 0x4000 + 4 * j)).isSome = true ∧
      at_ % 0x4000 + 4 * j ∉ roPairs kind ∧
      (4 ≤ at_ % 0x4000 + 4 * j → at_ % 0x4000 + 4 * j - 4 ∉ roPairs kind)) :
    exec (.i3cPrivateRead k) s = .next { s with m := s.m.emit (.i3c (((List.range ((k + 3) / 4)).flatMap fun j =>
      leBytes 4 (s.m.readStatus .sx (item (at_ / 0x4000) 0 (at_ % 0x4000 + 4 * j))).toNat).take k)) } := by
  subst haim
  have hreads : s.m.regReads .sx .i3c ((k + 3) / 4) s.m.i3cAddr = ((List.range ((k + 3) / 4)).map fun j =>
      .ok (s.m.readStatus .sx (item (s.m.i3cAddr / 0x4000) 0 (s.m.i3cAddr % 0x4000 + 4 * j))), s.m) :=
    Mach.regReads_served _ _ fun j hj => by
      obtain ⟨hd, hlow, hhigh⟩ := hwords j hj
      rw [show (s.m.i3cAddr + 4 * j) / 0x4000 = s.m.i3cAddr / 0x4000 by omega,
        show (s.m.i3cAddr + 4 * j) % 0x4000 = s.m.i3cAddr % 0x4000 + 4 * j by omega]
      exact Mach.regRead_direct hr (by omega) (by omega) hd hlow hhigh hup
  rw [exec_i3cRead, State.go, Nat.min_eq_left hk, show ceilDiv k 4 = (k + 3) / 4 from rfl, hreads]
  dsimp only
  rw [List.flatMap_map]
  rfl

/-! ### Configuration by an I3C write -/

theorem exec_i3cWrite_shadow {s : State} {a d : List Byte} {page off k : Nat} {i : WordInfo} {kind : PageKind} (ha : a.length = 4)
    (hd : d.length = 4) (hpage : ofLeBytes a / 0x4000 = page) (hoff : ofLeBytes a % 0x4000 = off) (hk : item page 0 off = k)
    (hinfo : info s.m.epParams .sx k = i) (hr : s.m.reaches .sx .i3c page = some kind) (hlo : 0x100 ≤ off) (hlt : off < 0xC00)
    (ho : off % 4 = 0) (hsome : (directInfo kind off).isSome = true) (hgroup : i.group ≠ 33) (hrws : i.rws ≠ 0)
    (hcommit : (s.m.rf .sx).commit = none) :
    ∃ t, exec (.i3cPrivateWrite (a ++ d)) s = .next t ∧
      t.m.shadow .sx k = (BitVec.ofNat 32 (ofLeBytes d) &&& i.rws) ||| (s.m.liveCopy .sx k &&& Mach.stickyMask .sx k) ∧
      (∀ j, j ≠ k → t.m.shadow .sx j = s.m.shadow .sx j) ∧
      s.becomesBut t (s.m.aim (ofLeBytes a)) .sx (fun n o => { n with shadow := o.shadow }) noWord := by
  obtain ⟨j, hj⟩ := Option.isSome_iff_exists.1 hsome
  obtain rfl : i = j := by rw [← hinfo, ← hk, Mach.info_direct (Mach.pageKind_of_reaches hr) hlt hj]
  rw [exec_i3cWrite_one ha hd, hpage, hoff, ← hk]
  obtain ⟨t, hexec, hword, hother, hrest⟩ := exec_registerWrite_lands (s := { s with m := s.m.aim (ofLeBytes a) }) (c := .sx)
    (path := .i3c) (v := ofLeBytes d) (x := s.m.cyc .sx) (fun h => nomatch h) hr (Mach.reaches_i3c hr) ho hlt hj hgroup hlo hrws
    (fun q hq => nomatch hcommit.symm.trans hq) (fun q hq => nomatch hcommit.symm.trans hq)
  exact ⟨t, hexec, hword, hother, hrest⟩

/-! ### The doorbells of context pages -/

section
variable {s : State} {x v : Nat} {path : Path} (hx : x < 1024)
include hx

theorem exec_ctxDoorbell {a : Access} {n : Mach} (ha : a ≠ .outside)
    (hw : s.m.regWrite .sx path (Pg.ctx x) R.ctxDoorbell (BitVec.ofNat 32 v) = (a, n)) :
    exec (.ctxDoorbell x v path) s = .next { s with m := n } := by
  have hexec : exec (.ctxDoorbell x v path) s = State.unit (decide (x < 1024))
      (s.wrote .sx (s.m.regWrite .sx path (Pg.ctx x) R.ctxDoorbell (BitVec.ofNat 32 v))) := rfl
  rw [hexec, decide_eq_true hx, hw]
  cases a with
  | outside => exact absurd rfl ha
  | ok w => rfl
  | busError => rfl
  | denied st => rfl

theorem exec_ctxDoorbell_rings (hpath : path = .vc4 ∨ path = .vc0) (hready : s.m.ready = true) (hoff : s.m.boot.off = false) :
    ∃ t, exec (.ctxDoorbell x v path) s = .next t ∧ t.m.storedReg .sx (Pg.ctx x) R.ctxDoorbell = v % 2 ^ 32 ∧
      t.m.event .sx (Pg.ctx x) 0 = true ∧
      s.becomes t s.m .sx (fun k => pageWord (Pg.ctx x) R.ctxDoorbell k || eventWord (Pg.ctx x) k) := by
  have hr : s.m.reaches .sx path (Pg.ctx x) = some .ctx := by
    rw [Mach.reaches_ctx hx, hready, hoff]
    exact if_pos hpath
  have hw := Mach.regWrite_doorbell hr (BitVec.ofNat 32 v)
  rw [show Pg.ctx x - Pg.ctx 0 = x by unfold Pg.ctx; omega] at hw
  obtain ⟨hbare, hkept, hother⟩ := Mach.touches_ctxDoorbell s.m x (BitVec.ofNat 32 v)
  refine ⟨_, exec_ctxDoorbell hx (by simp) hw, ?_, Mach.event_ctxDoorbell .., hbare, hkept, hother, rfl, rfl⟩
  exact (congrArg BitVec.toNat (Mach.word_ctxDoorbell ..)).trans (BitVec.toNat_ofNat ..)

theorem exec_ctxDoorbell_bad (h : (path ≠ .vc4 ∧ path ≠ .vc0) ∨ s.m.ready = false ∨ s.m.boot.off = true) :
    ∃ t, exec (.ctxDoorbell x v path) s = .next t ∧ s.m.counted t.m .sx Pg.chip R.chpBusErrCnt ∧
      s.becomes t s.m .sx (fun j => pageWord Pg.chip R.chpBusErrCnt j || pageWord Pg.chip R.chpBusErr j) := by
  have hr : s.m.reaches .sx path (Pg.ctx x) = none := by
    rw [Mach.reaches_ctx hx]
    rcases h with ⟨hvc4, hvc0⟩ | hready | hoff
    · rw [if_neg (c := path = .vc4 ∨ path = .vc0) (fun h => h.elim hvc4 hvc0), ite_self]
    · rw [hready]
      rfl
    · rw [hoff, Bool.not_true, Bool.and_false]
      rfl
  obtain ⟨hbare, hkept, hother⟩ := Mach.touches_busError s.m .sx path true (Pg.ctx x) R.ctxDoorbell
  exact ⟨_, exec_ctxDoorbell hx (by simp) (Mach.regWrite_bad (Mach.writeBad_unreached hr _)), Mach.counted_busError ..,
    hbare, hkept, hother, rfl, rfl⟩

end

/-- Settles O58: what an I3C write changes commutes with the address it names, so its words land one by one. -/
theorem portsAndDoorbellsReachRegisters : Obligations.PortsAndDoorbellsReachRegisters := by
  unfold Obligations.PortsAndDoorbellsReachRegisters
  refine ⟨fun s a ha => ?_, fun s x v path hx => ⟨fun hpath hready hoff => exec_ctxDoorbell_rings hx hpath hready hoff,
    exec_ctxDoorbell_bad hx⟩⟩
  intro at_ page off k i aim
  refine ⟨fun d hd => ⟨exec_i3cWrite_none ha hd, exec_i3cWrite_short hd s⟩, ?_, fun d hd => exec_i3cWrite_one ha hd, ?_,
    fun d e hd => exec_i3cWrite_full ha hd e, ?_, ?_, fun n hn => exec_i3cRead_cap s hn⟩
  · intro d kind hd hr hlo hlt ho hsome hgroup hrws hcommit
    exact exec_i3cWrite_shadow ha hd rfl rfl rfl rfl hr hlo hlt ho hsome hgroup hrws hcommit
  · intro d e b hd he hb hnext t ht u hu
    exact exec_i3cWrite_more ha hb hnext hd he ht hu
  · intro n kind haim hn hr ho hlt hup hwords
    exact exec_i3cRead_words haim hn hr ho hlt hup hwords
  · intro haim hr
    exact exec_i3cRead_bad haim hr

end Sys2Proof.Machine
end
